-- ==== Sys2Proof/Word.lean ====
section
/-! DEFINITION. The word and byte types of the device's registers (R20, R34). -/
namespace Sys2Proof

/-- A 32-bit register word, bit 0 least significant (R19, R34). -/
abbrev Word := BitVec 32

/-- One byte. -/
abbrev Byte := BitVec 8

end Sys2Proof
end

