-- ==== Sys2Proof/Syntax.lean ====
section
/-! DEFINITION. The commands the device takes (one constructor of `Instr` per row of the command table) and the
types of their operands. -/
namespace Sys2Proof

/-- The two slices (R42). -/
inductive SliceId where
  | ochre | slate
deriving DecidableEq, Repr

/-- The other slice. -/
def SliceId.other : SliceId → SliceId
  | .ochre => .slate | .slate => .ochre

/-- The slice's number: Ochre 0, Slate 1 (R42). -/
def SliceId.num : SliceId → Nat
  | .ochre => 0 | .slate => 1

/-- Who makes a register access (R168): the maintenance port, a function of the host, or the equinox sync engine. -/
inductive Master where
  | maint | pf0 | pf1 | vf (t : Fin 1024) | sync
deriving DecidableEq, Repr

/-- The JTAG instructions the test port supports (R756). -/
inductive JtagInstr where
  | bypass | idcode | samplePreload | extest | clamp | highz
deriving DecidableEq, Repr

/-- What may make a slice withdraw itself (R653): an online check, an overrun, or a march or scrub that finds an
uncorrectable word in the slice's arrays. -/
inductive SliceFault where
  | check | overrun | uncorrectable
deriving DecidableEq, Repr

/-- Faults of the shared edge that need a device reset and have no event of their own (R679, R783). -/
inductive EdgeFault where
  | gatekeeperMismatch | edgeParity | sharedOverrun (eng : Byte) | lastCopiesDiffer
deriving DecidableEq, Repr

/-- The alarm sources of the VKEEP domain that a detector reports, with the rail or input that is meant (R691). -/
inductive AlarmSrc where
  | tamper0 | tamper1 | temperature | clock | coreGlitch | vkeepLow | detectorMismatch
deriving DecidableEq, Repr

/-- What the outside and the hardware contribute to a tick boundary: how far REF10M_IN runs from the core clock in
parts per 10^12 (used while it is the reference, R79), and a ledger copy that differs, as the accounts whose second
copy computed the given smaller grant (R151). -/
structure Boundary where
  refDrift : Int
  ledger : List (Nat × Nat)
deriving DecidableEq, Repr

/-- A completion received for a tag (R241): status (0 SC, 1 UR, 2 CRS, 4 CA), the offset of its data in the request,
the data, whether it ends the request, EP, and whether its ECRC is wrong. -/
structure Completion where
  tag : Fin 1024
  status : Fin 8
  off : Nat
  data : List Byte
  ep : Bool
  ecrcBad : Bool
deriving DecidableEq, Repr

/-- How a reception ends (R379, R389, R413): an error character fell within the frame, a preemption reassembly error, the
frame was reassembled from fragments; the codewords of the frame that FEC corrected and those it could not, and the
symbols it corrected on each logical lane. -/
structure RxEnd where
  code : Bool
  assembly : Bool
  reassembled : Bool
  corrected : Nat
  uncorrectable : Nat
  symErr : Vector Nat 4
deriving DecidableEq, Repr

/-- A reception without any error. -/
def RxEnd.clean : RxEnd := ⟨false, false, false, 0, 0, ⟨#[0, 0, 0, 0], rfl⟩⟩

/-- What the PCS of a port reports (R386): block or symbol lock by logical lane, alignment lock, FEC lock, a local fault,
and remote fault received. -/
structure LinkState where
  locks : Fin 16
  aligned : Bool
  fec : Bool
  localFault : Bool
  remoteFault : Bool
deriving DecidableEq, Repr

/-- The commands of the device: one constructor for each row of the command table. -/
inductive Instr where
  /-- POWER_ON (R202): Application of the main rails triggers a cold device reset that clears the whole device except the VKEEP domain. -/
  | powerOn (vkeepSecs : Nat)
  /-- PERST_ASSERT (R202): Assertion of PERST# causes a cold device reset, which also turns a warm reset in progress into a cold reset. -/
  | perstAssert
  /-- PERST_DEASSERT (R194): Deassertion of PERST#, or release by the power-on monitor, starts bring-up stage 0. -/
  | perstDeassert
  /-- POWER_ON_MONITOR_RELEASE (R192): The power-on monitor releases reset once the core rails and SYSCLK are good, and a pending bring-up begins. -/
  | powerOnMonitorRelease
  /-- CORE_RAIL_GLITCH (R744): A core rail leaves its operating range for less than 1 µs and raises alarm source 0x05. -/
  | coreRailGlitch
  /-- CORE_RAIL_LOSS (R744): A core rail stays out of range for 1 µs or longer and trips a cold reset with cold_power_on set. -/
  | coreRailLoss
  /-- SYSCLK_LOSS (R750): SYSCLK stops while the device runs; source 0x04 is raised and the power-on monitor holds reset. -/
  | sysclkLoss
  /-- BRINGUP_STAGE_END (R194): A bring-up stage ends and the next stage starts; stage 5 sets bringup_done. -/
  | bringupStageEnd (us : Nat) (failed : List Byte)
  /-- WARM_RESET_ASSERT (R204): 10 µs after the boundary that follows DEVICE_RESET, the internal reset is asserted and the link leaves L0. -/
  | warmResetAssert (late : List (Fin 4))
  /-- INTERNAL_RESET_RELEASE (R204): 1 ms after assertion the internal reset is released and bring-up begins. -/
  | internalResetRelease
  /-- VKEEP_FIRST_APPLY (R700): VKEEP is applied from below 2.2 V; the store, tamper record and policy start empty, and erased_lock and blank are 1. -/
  | vkeepFirstApply
  /-- VKEEP_LOSS (R746): VKEEP falls below 2.2 V, losing the store, the tamper record and the policy. -/
  | vkeepLoss
  /-- TICK_BOUNDARY (R103): At each tick boundary the counter, phase-lock length, pending time changes and register changes are applied, and credits are computed. -/
  | tickBoundary (b : Boundary)
  /-- PPS_OUT_FALL (R87): PPS_OUT falls at the first boundary at least TMS_PPS_OUT_WIDTH µs after its rise. -/
  | ppsOutFall
  /-- PLAN_ACTIVATE (R106): The armed plan becomes active when the tick counter reaches its activation tick. -/
  | planActivate
  /-- ENVELOPE_RAMP_STEP (R146): P_eff rises by one step after each PWR_RAMP.interval boundaries while the target is above it. -/
  | envelopeRampStep
  /-- PSHED_CHANGE (R145): A level change on PSHED_N changes the target envelope from the next boundary. -/
  | pshedChange (low : Bool)
  /-- PPS_IN_EDGE (R86): A rising edge on PPS_IN is captured as a compact timestamp. -/
  | ppsInEdge (cyc : Nat)
  /-- REF10M_LOSS (R79): Four missed REF10M_IN edges cause a fall-back to SYSCLK at the next boundary and an Amber alarm. -/
  | ref10mLoss
  /-- TICK_COPY_OUTVOTED (R100): A tick-generator copy is outvoted and reloaded from the majority. -/
  | tickCopyOutvoted (copy : Fin 3)
  /-- TICK_COPY_FENCE (R100): A copy outvoted in 16 consecutive ticks is fenced off, and voting continues with two copies. -/
  | tickCopyFence (copy : Fin 3)
  /-- SET_TIME (R83): Writes an absolute PTP time at the next boundary and realigns the tick counter. -/
  | setTime (via : Master) (seq : Byte) (a0 a1 a2 : Word)
  /-- STEP (R83): Adds a signed offset to PTP time at the next boundary, or completes with BAD_ARG if the result is out of range. -/
  | stepTime (via : Master) (seq : Byte) (a0 : Word)
  /-- SNAPSHOT (R88): Returns PTP time and the tick counter at the next boundary. -/
  | snapshot (via : Master) (seq : Byte)
  /-- COMMIT_PERIOD (R90): Commits the TCK period, which takes effect through a realignment. -/
  | commitPeriod (via : Master) (seq : Byte)
  /-- ARM_PLAN (R106): Checks the shadow plan bank and arms it, or refuses it with BAD_ARG. -/
  | armPlan (via : Master) (seq : Byte)
  /-- DISARM (R107): Returns an armed plan bank to the shadow state. -/
  | disarm (via : Master) (seq : Byte)
  /-- LOAD_COEF (R135): Checks the shadow coefficient bank and activates it at the next boundary. -/
  | loadCoef (via : Master) (seq : Byte)
  /-- RESTORE_DEFAULT (R152): Fills the shadow coefficient bank with the characterised table. -/
  | restoreDefault (via : Master) (seq : Byte)
  /-- ENTER_SERVICE (R219): Moves the device from start-up to normal service at the next boundary. -/
  | enterService (via : Master) (seq : Byte)
  /-- ENTER_TEST (R219): Moves the device into the test phase at the next boundary. -/
  | enterTest (via : Master) (seq : Byte)
  /-- EXIT_TEST (R219): Returns the device from test to the phase from which it entered test. -/
  | exitTest (via : Master) (seq : Byte)
  /-- DEVICE_RESET (R204): Starts a warm device reset: the gatekeepers close, transmission stops, and DRAM enters self-refresh. -/
  | deviceReset (via : Master) (seq : Byte) (a0 : Word)
  /-- ENTER_RECOVERY (R217): A fault that needs a device reset puts the device in recovery at the next boundary, closing every gatekeeper and driving FAULT_N low. -/
  | enterRecovery (f : EdgeFault)
  /-- UNDEFINED_COMMAND_CODE (R165): A write to PAGE_CMD with a code the page does not define completes at once with BAD_ARG. -/
  | undefinedCommandCode (via : Master) (addr : Nat) (code seq : Byte)
  /-- PAGE_ERR_FORCE_WRITE (R160): Writing 1 to a PAGE_ERR_FORCE bit sets the PAGE_ERR bit as if the error had been detected, without any response. -/
  | pageErrForceWrite (via : Master) (page : Nat) (w : Word)
  /-- SET_ALIAS_WRITE (R161): A write to the set alias sets the RW and RWC bits of the target register in one indivisible read-modify-write. -/
  | setAliasWrite (via : Master) (addr : Nat) (w : Word)
  /-- CLEAR_ALIAS_WRITE (R161): A write to the clear alias clears the RW and RWC bits of the target register in one indivisible read-modify-write. -/
  | clearAliasWrite (via : Master) (addr : Nat) (w : Word)
  /-- REGISTER_WRITE (R171): A write to a register with no row of its own is served, including the range, lock and recovery checks that apply to it. -/
  | registerWrite (via : Master) (addr : Nat) (w : Word)
  /-- RC_FIELD_READ (R32): A read of an RC field returns its value and clears it. -/
  | rcFieldRead (via : Master) (addr : Nat)
  /-- CAPTURE_READ (R22): A read of the lower register of a wide field captures the upper part in a holding register. -/
  | captureRead (via : Master) (addr : Nat)
  /-- TMS_PPS_IN_READ (R86): A read of TMS_PPS_IN_LO captures the high word and clears pps_in_new. -/
  | tmsPpsInRead (via : Master)
  /-- LOCK_READ (R172): A read of a free lock register acquires it; any other read returns the owner code. -/
  | lockRead (via : Master) (sl : SliceId)
  /-- LOCK_RELEASE (R173): A write of 0 by the owner releases the lock; any other write sets lock_not_owner. -/
  | lockRelease (via : Master) (sl : SliceId) (w : Word)
  /-- TCK_PLAN_DATA_ACCESS (R105): An access to TCK_PLAN_DATA reads or writes a shadow-bank word and advances the index, unless the write is refused. -/
  | tckPlanDataAccess (via : Master) (w : Option Word)
  /-- PWR_COEF_DATA_ACCESS (R135): An access to PWR_COEF_DATA reads or writes a shadow coefficient word and advances the index. -/
  | pwrCoefDataAccess (via : Master) (w : Option Word)
  /-- MAC_GCL_DATA_ACCESS (R405): An access to MAC_GCL_DATA reads or writes an admin gate entry and advances the index. -/
  | macGclDataAccess (via : Master) (p : Fin 6) (w : Option Word)
  /-- PARTIAL_WRITE (R34): A register write with partial byte enables is ignored and recorded in partial_write. -/
  | partialWrite (via : Master) (addr : Nat)
  /-- UNMAPPED_ACCESS (R176): An access to an unmapped PF0 BAR 0 address returns 0 or is ignored, and is logged in SYS. -/
  | unmappedAccess (via : Master) (addr : Nat) (w : Option Word)
  /-- UNDEFINED_OFFSET_ACCESS (R182): An access to a reserved range of a PF1 or VF BAR 0 behaves as reserved and is recorded in that function's own error field. -/
  | undefinedOffsetAccess (via : Master) (addr : Nat) (w : Option Word)
  /-- BAR2_READ (R243): A host read of the PF0 BAR 2 DRAM window is answered as completions, with zeros beyond configured DRAM. -/
  | bar2Read (off len : Nat)
  /-- BAR2_WRITE (R177): A host write to the PF0 BAR 2 window writes DRAM, or is ignored beyond configured DRAM. -/
  | bar2Write (off : Nat) (data : List (Option Byte)) (ep : Bool)
  /-- MAINT_READ_REQUEST (R186): A maintenance-port frame with opcode 0x01 reads a global-space word and returns a response header and data. -/
  | maintReadRequest (addr : Nat)
  /-- MAINT_WRITE_REQUEST (R186): A maintenance-port frame with opcode 0x02 writes a global-space word and returns a response header. -/
  | maintWriteRequest (addr : Nat) (w : Word)
  /-- MAINT_BAD_REQUEST (R186): A maintenance-port request with a bad crc, opcode or address is not performed and answered with BAD_ARG. -/
  | maintBadRequest (frame : List Byte)
  /-- MAINT_FRAME_ABORT (R187): CS_N rises before the request crc is complete, and the request is discarded. -/
  | maintFrameAbort (frame : List Byte)
  /-- I2C_POINTER_WRITE (R737): A one-byte I²C write sets the word pointer. -/
  | i2cPointerWrite (ptr : Byte)
  /-- I2C_WORD_READ (R737): An I²C read returns the captured status or sensor word and advances the pointer. -/
  | i2cWordRead
  /-- BYPASS (R756): The JTAG BYPASS instruction. -/
  | jtagBypass (tdi : List Bool)
  /-- IDCODE (R756): The JTAG IDCODE instruction, which returns 0x1146_05A7. -/
  | jtagIdcode
  /-- SAMPLE_PRELOAD (R756): The JTAG SAMPLE/PRELOAD instruction on the boundary register. -/
  | jtagSamplePreload (pins tdi : List Bool)
  /-- EXTEST (R756): The JTAG EXTEST instruction, effective only while PERST_N is low. -/
  | jtagExtest (pins tdi : List Bool)
  /-- CLAMP (R756): The JTAG CLAMP instruction, effective only while PERST_N is low. -/
  | jtagClamp (tdi : List Bool)
  /-- HIGHZ (R756): The JTAG HIGHZ instruction, effective only while PERST_N is low. -/
  | jtagHighz (tdi : List Bool)
  /-- LINK_TRAINED (R221): PCIe link training completes at the highest common speed and width. -/
  | linkTrained (speed width : Nat)
  /-- LINK_RETRAIN (R221): A host-initiated retrain through Link Control that leaves queues and requests unaffected. -/
  | linkRetrain (speed width : Nat)
  /-- HOST_RESET (R206): A hot reset or DL_Down resets every function's PCIe and queue state while the network plane runs on. -/
  | hostReset (hot : Bool)
  /-- PF0_FLR (R207): A Function Level Reset of PF0 resets PF0 and every VF, and clears VF Enable. -/
  | pf0Flr
  /-- VF_FLR (R207): A Function Level Reset of VF t+1 resets tenant t. -/
  | vfFlr (t : Fin 1024)
  /-- PF1_FLR (R211): A Function Level Reset of PF1 closes every custody channel. -/
  | pf1Flr
  /-- FLR_COMPLETE (R265): An FLR completes once every tag of the function has retired. -/
  | flrComplete (fn : Fin 1026)
  /-- VF_ENABLE_SET (R226): Setting VF Enable makes every VF below NumVFs answer configuration requests. -/
  | vfEnableSet
  /-- VF_ENABLE_CLEAR (R226): Clearing VF Enable resets every VF as by its FLR, and the VFs then cease to exist. -/
  | vfEnableClear
  /-- VF_CHANGE_COMPLETE (R226): The VF Enable clear completes within 100 ms, and the VFs cease to exist. -/
  | vfChangeComplete
  /-- CONFIG_REQUEST (R228): A configuration read or write of a function's configuration space. -/
  | configRequest (fn : Fin 1026) (off : Nat) (be : Nat) (w : Option Word)
  /-- POWER_STATE_WRITE (R260): A PowerState write moves a function between D0 and D3hot from the next boundary. -/
  | powerStateWrite (fn : Fin 1026) (ps : Fin 4)
  /-- BUS_MASTER_ENABLE_CLEAR (R264): Clearing Bus Master Enable makes the function's outstanding tags stale and stops its requests and messages. -/
  | busMasterEnableClear (fn : Fin 1026)
  /-- BUS_MASTER_ENABLE_SET (R264): Setting Bus Master Enable refetches stale work and writes held completions. -/
  | busMasterEnableSet (fn : Fin 1026)
  /-- PME_STATUS_CLEAR (R261): Writing 1 to PME_Status clears it and stops PME repeats. -/
  | pmeStatusClear (fn : Fin 1026)
  /-- PME_REPEAT (R261): A PM_PME message is repeated every 100 ms while PME_Status stays 1 in D3hot. -/
  | pmeRepeat (fn : Fin 1026)
  /-- PME_TURN_OFF (R262): On PME_Turn_Off the device answers PME_TO_Ack and brings the link to L2/L3 Ready. -/
  | pmeTurnOff
  /-- MSIX_TABLE_WRITE (R259): A write to a function's BAR 4 MSI-X table or mask sends pending messages whose conditions have cleared. -/
  | msixTableWrite (fn : Fin 1026) (off : Nat) (be : Nat) (w : Word)
  /-- HOST_MEMORY_REQUEST (R242): A host memory read or write to a register BAR is served as one or two word accesses, or refused. -/
  | hostMemoryRequest (fn : Fin 1026) (bar : Fin 6) (off len : Nat) (be : Nat) (data : Option (List Byte)) (ep ecrcBad : Bool)
  /-- COMPLETION_RECEIVED (R241): A completion to a device read is placed by its address and byte count. -/
  | completionReceived (c : Completion)
  /-- COMPLETION_TIMEOUT (R249): A non-posted request times out, delivering poisoned zeros or ending its operation with TIMEOUT by phase. -/
  | completionTimeout (tag : Fin 1024)
  /-- TAG_HOLD_END (R250): A timed-out tag retires after its hold of K boundaries. -/
  | tagHoldEnd (tag : Fin 1024)
  /-- WQ_DOORBELL (R279): A WQ doorbell is judged against the queue's indices: accepted, duplicate, stale, malformed or refused. -/
  | wqDoorbell (via : Master) (q v : Nat)
  /-- CR_DOORBELL (R279): A CR doorbell is judged against the ring's indices: accepted, duplicate, stale, malformed or refused. -/
  | crDoorbell (via : Master) (q v : Nat)
  /-- RECORD_VALIDATE (R271): A write of valid = 1 to an invalid queue record checks the record and makes it valid or records the reason. -/
  | recordValidate (via : Master) (n : Fin 16384) (w : Word)
  /-- RECORD_INVALIDATE (R272): A write of valid = 0 invalidates a quiet, unreferenced record, or is refused. -/
  | recordInvalidate (via : Master) (n : Fin 16384) (w : Word)
  /-- WORK_ENTRY_FETCH (R292): The queue manager fetches a work entry from a WQ in round-robin order under its account's credit. -/
  | workEntryFetch (a : Fin 3)
  /-- PHASE_REFETCH (R277): An entry with the wrong phase is fetched again at each of the next three boundaries. -/
  | phaseRefetch (wq : Fin 16384) (idx : Fin 65536)
  /-- NOP_ENTRY (R283): A NOP entry finishes when it is fetched. -/
  | nopEntry (wq : Fin 16384) (idx : Fin 65536)
  /-- TX_ENTRY (R284): A TX entry reads its frame through segment descriptors into the packet buffer and hands it to the pipeline. -/
  | txEntry (wq : Fin 16384) (idx : Fin 65536)
  /-- RX_POST_ENTRY (R287): An RX_POST entry posts one receive buffer to its queue. -/
  | rxPostEntry (wq : Fin 16384) (idx : Fin 65536)
  /-- FILL_ENTRY (R323): A FILL entry writes a repeating 64-bit pattern over a destination range. -/
  | fillEntry (wq : Fin 16384) (idx : Fin 65536)
  /-- COPY_ENTRY (R326): A COPY entry copies a range, handling overlap by direction and limiting its per-tick advance. -/
  | copyEntry (wq : Fin 16384) (idx : Fin 65536)
  /-- CARLIS_PUT_ENTRY (R600): A CARLIS_PUT entry cuts a source range into chunks for its channel. -/
  | carlisPutEntry (wq : Fin 16384) (idx : Fin 65536)
  /-- CARLIS_COMMIT_ENTRY (R601): A CARLIS_COMMIT entry takes the next sequence number once earlier entries are numbered. -/
  | carlisCommitEntry (wq : Fin 16384) (idx : Fin 65536)
  /-- DMA_READ_ISSUE (R316): The DMA engine issues a host read request split at MRRS and credit limits. -/
  | dmaReadIssue (wq : Fin 16384) (idx : Fin 65536)
  /-- DMA_WRITE_ISSUE (R317): The DMA engine issues a host write request split at MPS, poison and credit limits. -/
  | dmaWriteIssue (wq : Fin 16384) (idx : Fin 65536)
  /-- LOG_RING_WRITE (R370): At each boundary, staged log entries are written into the log ring as room allows. -/
  | logRingWrite (k : Fin 16)
  /-- DMA_RETRY (R340): After the retry interval, a failed work-entry or list read is issued again, or the channel halts. -/
  | dmaRetry (wq : Fin 16384) (idx : Fin 65536)
  /-- ENTRY_FINISH (R294): A work entry finishes, the WQ CI advances over finished entries, and a completion record is staged. -/
  | entryFinish (wq : Fin 16384) (idx : Fin 65536)
  /-- COMPLETION_ENTRY_WRITE (R298): Ready staged completion records are written into the ring in order as room allows. -/
  | completionEntryWrite (n : Fin 16384)
  /-- MODERATION_TIMER_EXPIRY (R258): A ring's moderation timer expires and the ring fires its vector. -/
  | moderationTimerExpiry (n : Fin 16384)
  /-- MSIX_MESSAGE_SEND (R259): A firing or set PBA bit is delivered as an MSI-X message through GK8 once its conditions allow. -/
  | msixMessageSend (fn : Fin 1026) (vec : Fin 2048)
  /-- MAILBOX_SEND (R351): A write to MB_TX_SEND or MBX_TX_SEND posts the outbound message or is refused. -/
  | mailboxSend (via : Master) (w : Word)
  /-- MAILBOX_DELIVER (R352): At the boundary after a send, the message is delivered to the receiver, flagged dup if needed, and notice is given. -/
  | mailboxDeliver
  /-- MAILBOX_ACK (R353): A write of 1 to RX_ACK consumes the inbound message; the sender's full clears at the next boundary. -/
  | mailboxAck (via : Master) (w : Word)
  /-- OPEN (R362): Opens a custody channel. -/
  | open_ (c : Fin 16) (via : Master) (seq : Byte)
  /-- CLOSE (R362): Closes a custody channel and clears CCH_LAST.valid. -/
  | close (c : Fin 16) (via : Master) (seq : Byte)
  /-- SUBMIT (R363): Submits the channel's request buffer to the custody store, or repeats the last result for a duplicate seq. -/
  | submit (c : Fin 16) (req : Vector Word 16) (via : Master) (seq : Byte) (a0 : Word)
  /-- LOAD_PLAIN (R688): Loads a plaintext 256-bit key into a slot. -/
  | loadPlain
  /-- LOAD_WRAPPED (R688): Unwraps a key with a KEK slot by RFC 3394 and loads it. -/
  | loadWrapped
  /-- ERASE_SLOT (R688): Erases one root key slot. -/
  | eraseSlot
  /-- SLOT_INFO (R689): Reports a slot's attributes, label, check value and load count. -/
  | slotInfo
  /-- READ_RECORD (R688): Copies the tamper record into the response buffer. -/
  | readRecord
  /-- SLOT_CACHE_INVALIDATE (R690): Within 1 tick of a slot load or erasure, the derived keys of that slot are invalidated in both slices. -/
  | slotCacheInvalidate
  /-- LOG_START (R373): Starts dirty-page logging of a tenant in a slot at the next boundary. -/
  | logStart (via : Master) (seq : Byte) (a0 a1 a2 : Word)
  /-- LOG_STOP (R373): Stops a log and completes once the staged entries have been written. -/
  | logStop (via : Master) (seq : Byte) (a0 : Word)
  /-- TEN_LOG_CI_WRITE (R372): A write of a log ring's consumer index is judged as a CR doorbell. -/
  | tenLogCiWrite (via : Master) (k : Fin 16) (w : Word)
  /-- PCS_ENABLE (R384): Checks the port configuration and enables the port at the next boundary. -/
  | pcsEnable (p : Fin 6) (via : Master) (seq : Byte)
  /-- PCS_DISABLE (R385): Disables the port at the next boundary. -/
  | pcsDisable (p : Fin 6) (via : Master) (seq : Byte)
  /-- RETRAIN (R383): Restarts Clause 136 link training on the port. -/
  | retrain (p : Fin 6) (via : Master) (seq : Byte)
  /-- TRAINING_ATTEMPT_END (R380): A link training attempt ends; a failure is counted and training restarts. -/
  | trainingAttemptEnd (p : Fin 6) (ok : Bool) (taps : Vector Word 4)
  /-- LINK_STATE_CHANGE (R386): The PCS link_up or fault state changes and the port's usability follows. -/
  | linkStateChange (p : Fin 6) (st : LinkState)
  /-- FRAME_RECEIVE (R388): A frame received on P0–P5 is written into cells, checked, flagged and given a header window. -/
  | frameReceive (p : Fin 6) (express : Bool) (cyc : Nat) (start : Bool) (bytes : List Byte) (fin : Option RxEnd)
  /-- PAUSE_FRAME_RECEIVED (R399): A received PAUSE request pauses all transmit classes for the converted number of ticks. -/
  | pauseFrameReceived (p : Fin 6) (cyc : Nat) (src : BitVec 48) (quanta : BitVec 16)
  /-- PFC_FRAME_RECEIVED (R399): A received PFC request pauses the enabled classes for their times. -/
  | pfcFrameReceived (p : Fin 6) (cyc : Nat) (src : BitVec 48) (enables : Byte) (quanta : Vector (BitVec 16) 8)
  /-- VERIFY_MPACKET_RECEIVED (R412): A received verify mPacket is answered with a respond mPacket. -/
  | verifyMpacketReceived (p : Fin 6)
  /-- LPI_RECEIVED (R381): A received LPI indication is treated as idle and counted. -/
  | lpiReceived (p : Fin 6)
  /-- PAUSE_EXPIRY (R400): A paused class may send again from the boundary after its pause ends. -/
  | pauseExpiry (p : Fin 6)
  /-- PFC_REFRESH (R402): A control frame is sent again every MAC_PFC_REFRESH ticks while a class is in xoff. -/
  | pfcRefresh (p : Fin 6)
  /-- GCL_ARM (R407): Arms the admin gate list with an activation tick. -/
  | gclArm (p : Fin 6) (via : Master) (seq : Byte)
  /-- GCL_DISARM (R406): Disarms an armed gate list. -/
  | gclDisarm (p : Fin 6) (via : Master) (seq : Byte)
  /-- GCL_OFF (R406): Removes the oper gate list at the next boundary, opening every gate. -/
  | gclOff (p : Fin 6) (via : Master) (seq : Byte)
  /-- GCL_ACTIVATE (R407): The armed gate list becomes oper when the tick counter reaches A. -/
  | gclActivate (p : Fin 6)
  /-- GATE_STATE_CHANGE (R408): The oper list moves to the next entry and the gate state changes. -/
  | gateStateChange (p : Fin 6)
  /-- HEADER_PROCESS (R440): A header in its pipeline slot is parsed through the graph, keyed and looked up. -/
  | headerProcess
  /-- REENTRY (R459): A copy or re-entered frame takes an account 2 slot in a later tick and is parsed again. -/
  | reentry
  /-- WINDOW_WRITE (R469): A write to the parse-graph or action-record window takes effect in both slices at the next boundary. -/
  | windowWrite (via : Master) (addr : Nat) (w : Word)
  /-- LEARN_EVENT_APPLY (R485): The table unit applies a queued learn event: insertion, refresh, station move or nothing. -/
  | learnEventApply (sl : SliceId)
  /-- AGEING_VISIT (R489): At its scheduled boundary a group is visited, clearing hit bits or removing entries. -/
  | ageingVisit (sl : SliceId)
  /-- STASH_DRAIN (R481): A stash entry moves into a freed slot of its home bucket. -/
  | stashDrain (sl : SliceId)
  /-- SEARCH (R497): Searches the EMT for a key. -/
  | search (sl : SliceId) (via : Master) (seq : Byte)
  /-- NEXT (R497): Returns the next matching non-empty EMT position. -/
  | tblNext (sl : SliceId) (via : Master) (seq : Byte) (a0 a1 : Word)
  /-- INSERT (R478): Inserts an EMT entry with cuckoo relocation or the stash. -/
  | insert (sl : SliceId) (via : Master) (seq : Byte) (a0 : Word)
  /-- DELETE (R497): Deletes an EMT entry and drains the stash. -/
  | delete (sl : SliceId) (via : Master) (seq : Byte)
  /-- FLUSH (R497): Removes the EMT entries selected by its arguments. -/
  | flush (sl : SliceId) (via : Master) (seq : Byte) (a0 a1 : Word)
  /-- DIGEST (R502): Computes a content digest of the selected EMT entries or LPM rows. -/
  | digest (sl : SliceId) (via : Master) (seq : Byte) (a0 : Word)
  /-- SRC_COUNT (R497): Returns the learned entry count of a source. -/
  | srcCount (sl : SliceId) (via : Master) (seq : Byte) (a0 : Word)
  /-- LPM_INSERT (R494): Inserts a prefix into the ordered LPM rows. -/
  | lpmInsert (sl : SliceId) (via : Master) (seq : Byte) (a0 : Word)
  /-- LPM_DELETE (R494): Deletes a prefix from the LPM rows. -/
  | lpmDelete (sl : SliceId) (via : Master) (seq : Byte)
  /-- LPM_SEARCH (R497): Finds a prefix exactly. -/
  | lpmSearch (sl : SliceId) (via : Master) (seq : Byte)
  /-- LPM_LOOKUP (R497): Returns the longest-prefix match a lookup would find. -/
  | lpmLookup (sl : SliceId) (via : Master) (seq : Byte)
  /-- LPM_READ (R497): Returns a raw LPM row. -/
  | lpmRead (sl : SliceId) (via : Master) (seq : Byte) (a0 : Word)
  /-- BULK_LOAD (R499): Checks and then applies EMT records from DRAM. -/
  | bulkLoad (sl : SliceId) (via : Master) (seq : Byte) (a0 a1 a2 : Word)
  /-- BULK_DUMP (R500): Writes EMT records to DRAM through GK9. -/
  | bulkDump (sl : SliceId) (via : Master) (seq : Byte) (a0 a1 a2 : Word)
  /-- LPM_ROW_REPAIR (R627): An LPM row that fails parity is rewritten from its copy within 1 tick. -/
  | lpmRowRepair (sl : SliceId) (row : Fin 16384) (copyBad : Bool)
  /-- SHAPER_ENTRY_WRITE (R512): A write to a shaper table entry is checked and takes effect at the next boundary. -/
  | shaperEntryWrite (via : Master) (addr : Nat) (w : Word)
  /-- POLICER_ENTRY_WRITE (R535): A write to a policer entry is checked and takes effect at the next boundary. -/
  | policerEntryWrite (via : Master) (addr : Nat) (w : Word)
  /-- ADMISSION_SELECT (R522): The upper scheduler chooses a TX frame or chunk whose data reads may start. -/
  | admissionSelect
  /-- SCHEDULER_SELECT (R524): The scheduler selects one frame for a port by strict priority then fair queueing. -/
  | schedulerSelect (p : Fin 7)
  /-- RX_DELIVER (R529): An admitted frame is delivered into its queue's head buffer when it can be. -/
  | rxDeliver (n : Fin 16384)
  /-- SPILL_WRITE (R532): A whole frame of a spilled class is written to its DRAM ring, or dropped if there is no room. -/
  | spillWrite (p : Fin 7) (c : Fin 8)
  /-- SPILL_READ_BACK (R534): A spilled frame is read back into cells and joins its class FIFO. -/
  | spillReadBack (p : Fin 7) (c : Fin 8)
  /-- TRANSMIT_FRAME (R394): The transmit MAC starts sending a descriptor's frame, with timestamp edits and preemption. -/
  | transmitFrame (p : Fin 7) (cyc : Nat) (crs : Bool)
  /-- TRANSMIT_END (R298): Transmission ends, the completion record becomes ready with its timestamp, and cells are released. -/
  | transmitEnd (p : Fin 7)
  /-- CBP_ENABLE (R422): Checks the configuration of P6 and enables it at the next boundary. -/
  | cbpEnable (via : Master) (seq : Byte)
  /-- CBP_DISABLE (R423): Disables P6 at the next boundary. -/
  | cbpDisable (via : Master) (seq : Byte)
  /-- MDIO_READ (R433): Reads a PHY register over MDIO. -/
  | mdioRead (sampled : BitVec 16) (via : Master) (seq : Byte) (a0 a1 a2 : Word)
  /-- MDIO_WRITE (R433): Writes a PHY register over MDIO. -/
  | mdioWrite (via : Master) (seq : Byte) (a0 a1 a2 : Word)
  /-- P6_FRAME_RECEIVE (R424): A frame received on the MII is checked and delivered store-and-forward or in direct mode. -/
  | p6FrameReceive (cyc : Nat) (bytes : List Byte) (code : Bool)
  /-- COLLISION_DETECT (R429): COL during transmission causes a jam, then a backoff or discard. -/
  | collisionDetect (cyc bitTime : Nat)
  /-- BACKOFF_EXPIRY (R429): A collision backoff ends and the frame is retried. -/
  | backoffExpiry
  /-- CARRIER_DROP (R429): CRS drops and a deferred frame may start after the inter-frame gap. -/
  | carrierDrop
  /-- BEACON_RECEIVED (R431): A received BEACON activates PLCA and starts the transmit opportunity cycle. -/
  | beaconReceived
  /-- BEACON_SEND (R430): As coordinator, P6 sends a BEACON at the start of each cycle. -/
  | beaconSend
  /-- TRANSMIT_OPPORTUNITY (R430): The device's PLCA opportunity arrives and a ready frame is sent. -/
  | transmitOpportunity (cyc : Nat)
  /-- PLCA_BEACON_TIMEOUT (R431): No BEACON for 4,000 bit times makes PLCA inactive and falls back to CSMA/CD. -/
  | plcaBeaconTimeout
  /-- TX_CLK_LOST (R420): TX_CLK stops for 2 µs and P6 becomes unusable. -/
  | txClkLost
  /-- TX_CLK_RESTORED (R420): TX_CLK runs for 2 µs and P6 is usable again. -/
  | txClkRestored
  /-- SA_VALIDATE (R546): A write that sets an association valid is checked and takes effect at the next boundary. -/
  | saValidate (via : Master) (t : Fin 1024) (a : Fin 32) (w : Word)
  /-- SA_INVALIDATE (R547): A write of valid 0 invalidates an association at the next boundary. -/
  | saInvalidate (via : Master) (t : Fin 1024) (a : Fin 32) (w : Word)
  /-- KEY_DERIVATION (R555): The key unit derives a traffic key by the KDF into the cache, or fails with no_key. -/
  | keyDerivation (sl : SliceId)
  /-- DECRYPT_START (R558): A whole frame with a cached key starts decryption when a lane, credits and hold space are free. -/
  | decryptStart (c : Fin 8)
  /-- DECRYPT_VERIFY (R562): The tag verifies or fails, the replay state is judged and updated, or the frame is refused. -/
  | decryptVerify (frame : Nat)
  /-- DECRYPT_RELEASE (R563): A verified frame leaves the hold buffer as plaintext and re-enters the pipeline. -/
  | decryptRelease (frame : Nat)
  /-- ENCRYPT_FRAME (R572): A lane protects the frame as sent, assigning its PN, and hands it to the gatekeeper. -/
  | encryptFrame (frame : Nat)
  /-- FLUSH_KEYS (R578): Invalidates the derived-key cache entries in scope. -/
  | flushKeys (sl : SliceId) (via : Master) (seq : Byte) (a0 a1 : Word)
  /-- WARM_KEYS (R578): Derives the keys of every valid association concerned into the cache. -/
  | warmKeys (sl : SliceId) (via : Master) (seq : Byte) (a0 : Word)
  /-- OPEN_CHANNEL (R584): Checks and opens both halves of a Carlis channel at the next boundary. -/
  | openChannel (via : Master) (seq : Byte) (a0 : Word)
  /-- CLOSE_CHANNEL (R585): Closes a Carlis channel and ends its entries with BUSY. -/
  | closeChannel (via : Master) (seq : Byte) (a0 : Word)
  /-- WIN_SET (R588): Applies staged target window values and raises the generation. -/
  | winSet (via : Master) (seq : Byte) (a0 : Word)
  /-- WIN_CLOSE (R588): Invalidates a target window and raises its generation. -/
  | winClose (via : Master) (seq : Byte) (a0 : Word)
  /-- HELLO_SEND (R608): A channel in OPENING sends a HELLO. -/
  | helloSend (c : Fin 256)
  /-- CHUNK_SEND (R600): A chunk whose data is whole takes a sequence number and is sent encrypted. -/
  | chunkSend (c : Fin 256)
  /-- COMMIT_SEND (R601): A numbered COMMIT message is sent. -/
  | commitSend (c : Fin 256)
  /-- HELLO (R611): A received HELLO resumes the target session or starts a new one, and is answered. -/
  | hello
  /-- HELLO_ACK (R612): A received HELLO_ACK resumes or replaces the initiator's session and opens the channel. -/
  | helloAck
  /-- CHUNK (R604): A received CHUNK is judged by seq and accepted into the apply queue or discarded. -/
  | chunk
  /-- COMMIT (R604): A received COMMIT is judged by seq and accepted into the apply queue or discarded. -/
  | commit
  /-- ACK (R607): A received ACK advances snd_una and may trigger a go-back resend. -/
  | ack
  /-- REFUSE (R607): A received REFUSE ends the refused chunk's PUT with its status and updates the window copy. -/
  | refuse
  /-- WINDOW (R590): A received WINDOW message updates the initiator's copy of the peer's window. -/
  | window
  /-- RST (R613): A received RST that names the current session ends it and reopens the channel. -/
  | rst
  /-- CHUNK_APPLY (R605): A queued CHUNK is checked against its window and written to DRAM, or refused, and rcv_next rises. -/
  | chunkApply (c : Fin 256)
  /-- COMMIT_APPLY (R605): A queued COMMIT raises the commit count, sets CRT_COMMIT_MAP and may fire a vector. -/
  | commitApply (c : Fin 256)
  /-- ACK_SEND (R606): In the tick after rcv_next rises or a duplicate or out-of-order message arrives, the target sends an ACK or REFUSE. -/
  | ackSend (c : Fin 256)
  /-- RETRANSMIT_TIMER_EXPIRY (R608): The retransmission interval passes, unacknowledged messages are sent again, and the channel may become silent. -/
  | retransmitTimerExpiry (c : Fin 256)
  /-- PATROL_SCRUB_BURST (R642): A granted scrub burst reads the next DRAM block and writes it back corrected or poisoned. -/
  | patrolScrubBurst (n : Fin 4)
  /-- FLIP_ARM (R644): A write of armed = 1 in the test phase arms the error flip mask. -/
  | flipArm (via : Master) (w : Word)
  /-- FLIP_APPLY (R644): The next write to the selected memory is corrupted by the flip mask, and flip_done is set. -/
  | flipApply (word : Nat)
  /-- RETIRE_ENTRY_WRITE (R645): A retire entry takes effect at the next boundary, blocking access to its region. -/
  | retireEntryWrite (via : Master) (n : Fin 4) (w : Word)
  /-- CONFIG (R648): Powers up and initialises a DRAM channel to idle. -/
  | memConfig (n : Fin 4) (via : Master) (seq : Byte)
  /-- SWEEP (R648): Steps a delay entry over its range and reports the passing window. -/
  | memSweep (n : Fin 4) (found : Option (Byte × Byte)) (via : Master) (seq : Byte) (a0 : Word)
  /-- START (R648): Makes an idle DRAM channel running at the next boundary. -/
  | memStart (n : Fin 4) (via : Master) (seq : Byte)
  /-- RELEASE (R648): Takes a retained DRAM channel out of self-refresh into running. -/
  | memRelease (n : Fin 4) (via : Master) (seq : Byte)
  /-- ONLINE_CHECK_FIRE (R653): An online check, self-test failure or UE limit in a slice is detected. -/
  | onlineCheckFire (sl : SliceId) (ev : SliceFault) (eng : Byte)
  /-- SWITCH_OVER (R656): At the next boundary the gatekeepers accept the former standby, which becomes active and takes over state. -/
  | switchOver (replay : Nat) (gap : Fin 3)
  /-- SLICE_RESET_END (R666): A slice reset ends; the slice becomes qualifying, or out and retired. -/
  | sliceResetEnd (sl : SliceId) (pass : Bool)
  /-- AUTO_READMIT (R667): With auto_readmit, a qualifying slice becomes standby 1 s after qualifying. -/
  | autoReadmit (sl : SliceId)
  /-- SELFTEST_PASS_END (R669): A standby self-test pass completes, or fails and withdraws the slice. -/
  | selftestPassEnd (ms : Nat) (wrong : Option Byte)
  /-- EQUINOX_DUE (R672): The equinox count reaches its period, and the equinox becomes due or is deferred. -/
  | equinoxDue
  /-- EQUINOX_PREPARE (R673): The sync engine warms keys and takes digests under the bulk locks. -/
  | equinoxPrepare
  /-- EQUINOX_HOLD (R673): New COMMITs wait until commit_open is 0. -/
  | equinoxHold
  /-- EQUINOX_DRAIN (R673): The active slice starts no decryption or read until its tags and decryptions drain. -/
  | equinoxDrain
  /-- EQUINOX_SWAP (R675): At a boundary the roles swap without replay, and the new standby starts self-test. -/
  | equinoxSwap
  /-- EQUINOX_ABANDON (R674): The equinox is abandoned on differing digests, an exceeded limit, a withdrawal or a returning deferral. -/
  | equinoxAbandon
  /-- EQUINOX_DEFER_ALARM (R674): A deferral beyond RED_EQX_DEFER seconds raises an Amber alarm once. -/
  | equinoxDeferAlarm
  /-- EQUINOX_NOW (R681): Makes the equinox due at once. -/
  | equinoxNow (via : Master) (seq : Byte)
  /-- WITHDRAW (R681): Withdraws and retires a slice, with a switch-over if it was active. -/
  | withdraw (via : Master) (seq : Byte) (a0 : Word)
  /-- READMIT (R681): Returns a qualifying, resetting or retired slice to standby. -/
  | readmit (via : Master) (seq : Byte) (a0 : Word)
  /-- INJECT (R682): Injects a transient, permanent, latent or overrun fault into a slice engine in the test phase. -/
  | inject (sl : SliceId) (via : Master) (seq : Byte) (a0 : Word)
  /-- ALARM_SOURCE_ACTIVE (R691): A tamper input, detector or event source becomes active and raises an alarm at its level. -/
  | alarmSourceActive (src : AlarmSrc)
  /-- CRIMSON_CACHE_INVALIDATE (R696): Within 1 tick of the erasure, both slices' key caches are invalidated and protected units are refused. -/
  | crimsonCacheInvalidate
  /-- SEAL_POLICY (R702): Seals the alarm policy. -/
  | sealPolicy (via : Master) (seq : Byte)
  /-- CLEAR_ALARM (R699): Leaves the erased-lock state once no Crimson source is active. -/
  | clearAlarm (via : Master) (seq : Byte)
  /-- ZEROIZE (R702): Erases all root keys as a Crimson source 0x09. -/
  | zeroize (via : Master) (seq : Byte) (a0 : Word)
  /-- ERASE_ALL (R705): ALM command with the effect of ZEROIZE. -/
  | eraseAll (via : Master) (seq : Byte) (a0 : Word)
  /-- SENSOR_SAMPLE (R733): Every 1 ms the sensors take a reading, which may set temp_hi or volt_range. -/
  | sensorSample (temps : Vector (BitVec 16) 4) (volts : Vector (BitVec 16) 5)
  /-- REF10M_RESTORED (R79): Rising edges return on REF10M_IN, so ref10_present becomes 1 again and a later change of ref_sel from 0 to 1 can select the reference. -/
  | ref10mRestored
  /-- ALARM_SOURCE_INACTIVE (R692): An alarm source returns to inactive, for example a tamper loop closing again or VKEEP rising back above 2.6 V, so it may be raised again later and CLEAR_ALARM may succeed. -/
  | alarmSourceInactive (src : AlarmSrc)
deriving DecidableEq, Repr

end Sys2Proof
end

