-- ==== Sys2Proof/Decode.lean ====
section
/-! DEFINITION. The command a word spells. The command table gives no row any bits: commands reach the device as
register accesses, transactions, frames and pin events, not as words, so no word spells one. -/
namespace Sys2Proof

/-- The command a table word of `nbits` bits spells: none. -/
def decodeTableWord (_nbits _w : Nat) : Option Instr := none

end Sys2Proof
end

