-- ==== Sys2Proof/Machine/Operands.lean ====
section
/-! DEFINITION. Fields of words and byte strings: how every operand, register field and structure field of the
device is taken apart and put together (R19 to R21). -/
namespace Sys2Proof.Machine

/-- Field [hi:lo] of a word (R19). -/
def fld (w : Word) (hi lo : Nat) : Nat := (w.toNat >>> lo) % 2 ^ (hi + 1 - lo)

/-- Bit n of a word (R19). -/
def fbit (w : Word) (n : Nat) : Bool := (w.toNat >>> n) % 2 == 1

/-- The mask of field [hi:lo]. -/
def fmask (hi lo : Nat) : Word := BitVec.ofNat 32 ((2 ^ (hi + 1 - lo) - 1) <<< lo)

/-- A word with `v` written into field [hi:lo]. -/
def putFld (w : Word) (hi lo v : Nat) : Word :=
  (w &&& ~~~(fmask hi lo)) ||| (BitVec.ofNat 32 (v <<< lo) &&& fmask hi lo)

/-- A word with bit n set or cleared. -/
def putBit (w : Word) (n : Nat) (b : Bool) : Word := putFld w n n b.toNat

/-- The word with bit n equal to `b` and every other bit 0. -/
def flagAt (b : Bool) (n : Nat) : Word := BitVec.ofNat 32 (b.toNat <<< n)

/-- The word of a number, modulo 2^32. -/
def w32 (n : Nat) : Word := BitVec.ofNat 32 n

/-- Bits [31:0] of a wider number. -/
def lo32 (n : Nat) : Word := BitVec.ofNat 32 n

/-- Bits [63:32] of a wider number. -/
def hi32 (n : Nat) : Word := BitVec.ofNat 32 (n >>> 32)

/-- A signed 32-bit value (two's complement). -/
def sgn32 (w : Word) : Int := w.toInt

/-- Field [hi:lo] of a whole number. -/
def nfld (n hi lo : Nat) : Nat := (n >>> lo) % 2 ^ (hi + 1 - lo)

/-- Bit `k` of a whole number. -/
def nbit (n k : Nat) : Bool := (n >>> k) % 2 == 1

/-- Little-endian value of a byte string: the first byte holds bits [7:0] (R20). -/
def leNat : List Byte → Nat
  | [] => 0
  | b :: t => b.toNat + 256 * leNat t

/-- Big-endian value of a byte string: most significant byte first (R21). -/
def beNat (l : List Byte) : Nat := l.foldl (fun a b => a * 256 + b.toNat) 0

/-- `n` bytes of a value, little-endian (R20). -/
def leBytes : Nat → Nat → List Byte
  | 0, _ => []
  | n + 1, v => BitVec.ofNat 8 v :: leBytes n (v / 256)

/-- `n` bytes of a value, most significant byte first (R21). -/
def beBytes (n v : Nat) : List Byte := (leBytes n v).reverse

/-- The four bytes of a word, little-endian (R20). -/
def wordBytes (w : Word) : List Byte := leBytes 4 w.toNat

/-- The words of a byte string, little-endian, a short last word filled with zeros (R20). -/
def bytesWords : Nat → List Byte → List Word
  | 0, _ => []
  | n + 1, l => w32 (leNat (l.take 4)) :: bytesWords n (l.drop 4)

/-- `n` bytes from byte `off` of a string, zeros beyond its end. -/
def sliceB (l : List Byte) (off n : Nat) : List Byte :=
  let r := (l.drop off).take n
  r ++ List.replicate (n - r.length) 0

/-- The little-endian field of `n` bytes at byte `off`. -/
def leAt (l : List Byte) (off n : Nat) : Nat := leNat (sliceB l off n)

/-- The network-order field of `n` bytes at byte `off`. -/
def beAt (l : List Byte) (off n : Nat) : Nat := beNat (sliceB l off n)

/-- A byte string with the bytes `v` written from byte `off`. -/
def putB (l : List Byte) (off : Nat) (v : List Byte) : List Byte :=
  sliceB l 0 off ++ v ++ l.drop (off + v.length)

/-- Number of bits equal to 1. -/
def popCount : Nat → Nat → Nat
  | 0, _ => 0
  | n + 1, v => v % 2 + popCount n (v / 2)

/-- Index of the lowest bit equal to 1 among the first `n`. -/
def lowBit : Nat → Nat → Nat → Option Nat
  | 0, _, _ => none
  | n + 1, i, v => if v % 2 = 1 then some i else lowBit n (i + 1) (v / 2)

/-- Least whole number not below a / b (b > 0). -/
def cdiv (a b : Nat) : Nat := (a + b - 1) / b

/-- a saturated at m. -/
def satAt (m a : Nat) : Nat := if m < a then m else a

end Sys2Proof.Machine
end

