-- ==== Sys2Proof/Machine/Aes.lean ====
section
/-! DEFINITION. AES, GCM and CMAC (R541, R551): the published algorithms the cipher runs. Blocks and keys are byte
strings in the order of the standards, most significant byte first. -/
namespace Sys2Proof.Machine

/-- The AES substitution box: row r holds the bytes for 16 r to 16 r + 15, the first most significant. -/
def aesBox : Nat → Nat
  | 0 => 0x637c777bf26b6fc53001672bfed7ab76
  | 1 => 0xca82c97dfa5947f0add4a2af9ca472c0
  | 2 => 0xb7fd9326363ff7cc34a5e5f171d83115
  | 3 => 0x04c723c31896059a071280e2eb27b275
  | 4 => 0x09832c1a1b6e5aa0523bd6b329e32f84
  | 5 => 0x53d100ed20fcb15b6acbbe394a4c58cf
  | 6 => 0xd0efaafb434d338545f9027f503c9fa8
  | 7 => 0x51a3408f929d38f5bcb6da2110fff3d2
  | 8 => 0xcd0c13ec5f974417c4a77e3d645d1973
  | 9 => 0x60814fdc222a908846eeb814de5e0bdb
  | 10 => 0xe0323a0a4906245cc2d3ac629195e479
  | 11 => 0xe7c8376d8dd54ea96c56f4ea657aae08
  | 12 => 0xba78252e1ca6b4c6e8dd741f4bbd8b8a
  | 13 => 0x703eb5664803f60e613557b986c11d9e
  | 14 => 0xe1f8981169d98e949b1e87e9ce5528df
  | _ => 0x8ca1890dbfe6426841992d0fb054bb16

/-- The entry for a byte in a table of such rows. -/
def boxAt (rows : Nat → Nat) (b : Byte) : Byte :=
  BitVec.ofNat 8 (rows (b.toNat / 16) >>> (8 * (15 - b.toNat % 16)))

def aesSub (b : Byte) : Byte := boxAt aesBox b

/-- Multiplication by x in the field of AES. -/
def aesX (b : Byte) : Byte := if 128 ≤ b.toNat then (b <<< 1) ^^^ 0x1B else b <<< 1

/-- The byte-wise sum of two byte strings. -/
def xorBytes (a b : List Byte) : List Byte := List.zipWith (fun x y => x ^^^ y) a b

/-- The key schedule: `n` further words from the words so far (newest first), for a key of `nk` words. -/
def aesSchedule (nk : Nat) : Nat → Nat → Byte → List (List Byte) → List (List Byte)
  | 0, _, _, ws => ws
  | n + 1, i, rc, ws =>
    let prev := ws.headD []
    let back := ws.getD (nk - 1) []
    let t := if i % nk = 0 then
        xorBytes ((prev.drop 1 ++ prev.take 1).map aesSub) [rc, 0, 0, 0]
      else if 6 < nk ∧ i % nk = 4 then prev.map aesSub else prev
    aesSchedule nk n (i + 1) (if i % nk = 0 then aesX rc else rc) (xorBytes back t :: ws)

/-- The four words of a key string of `nk` words, oldest first. -/
def keyWords (nk : Nat) (key : List Byte) : List (List Byte) := (List.range nk).map (fun i => sliceB key (4 * i) 4)

/-- The round keys of a 16- or 32-byte key. -/
def aesRoundKeys (key : List Byte) : List (List Byte) :=
  let nk := key.length / 4
  let ws := (aesSchedule nk (4 * (nk + 7) - nk) nk 1 (keyWords nk key).reverse).reverse
  (List.range (nk + 7)).map (fun r => (ws.drop (4 * r)).take 4 |>.flatten)

/-- The shift of the rows of a block held column by column. -/
def aesShift (b : List Byte) : List Byte := (List.range 16).map (fun i => b.getD ((i + 4 * (i % 4)) % 16) 0)

/-- One column mixed. -/
def aesMixCol (c : List Byte) : List Byte :=
  (List.range 4).map (fun i =>
    let a (k : Nat) : Byte := c.getD ((i + k) % 4) 0
    aesX (a 0) ^^^ aesX (a 1) ^^^ a 1 ^^^ a 2 ^^^ a 3)

def aesMix (b : List Byte) : List Byte := (List.range 4).flatMap (fun c => aesMixCol (sliceB b (4 * c) 4))

/-- The rounds after the first key addition. -/
def aesRounds : List (List Byte) → List Byte → List Byte
  | [], b => b
  | [k], b => xorBytes (aesShift (b.map aesSub)) k
  | k :: ks, b => aesRounds ks (xorBytes (aesMix (aesShift (b.map aesSub))) k)

/-- AES of one block under round keys.
PRESUMED (log entry 101, unsafe). -/
def aesBlock (rk : List (List Byte)) (b : List Byte) : List Byte :=
  match rk with
  | [] => b
  | k :: ks => aesRounds ks (xorBytes b k)

/-- The inverse substitution box, in the same form. -/
def aesUnbox : Nat → Nat
  | 0 => 0x52096ad53036a538bf40a39e81f3d7fb
  | 1 => 0x7ce339829b2fff87348e4344c4dee9cb
  | 2 => 0x547b9432a6c2233dee4c950b42fac34e
  | 3 => 0x082ea16628d924b2765ba2496d8bd125
  | 4 => 0x72f8f66486689816d4a45ccc5d65b692
  | 5 => 0x6c704850fdedb9da5e154657a78d9d84
  | 6 => 0x90d8ab008cbcd30af7e45805b8b34506
  | 7 => 0xd02c1e8fca3f0f02c1afbd0301138a6b
  | 8 => 0x3a9111414f67dcea97f2cfcef0b4e673
  | 9 => 0x96ac7422e7ad3585e2f937e81c75df6e
  | 10 => 0x47f11a711d29c5896fb7620eaa18be1b
  | 11 => 0xfc563e4bc6d279209adbc0fe78cd5af4
  | 12 => 0x1fdda8338807c731b11210592780ec5f
  | 13 => 0x60517fa919b54a0d2de57a9f93c99cef
  | 14 => 0xa0e03b4dae2af5b0c8ebbb3c83539961
  | _ => 0x172b047eba77d626e169146355210c7d

def aesUnsub (b : Byte) : Byte := boxAt aesUnbox b

/-- The inverse shift of the rows. -/
def aesUnshift (b : List Byte) : List Byte := (List.range 16).map (fun i => b.getD ((i + 16 - 4 * (i % 4)) % 16) 0)

/-- One column unmixed: mixing is an involution after the column is multiplied by its preconditioner. -/
def aesUnmixCol (c : List Byte) : List Byte :=
  let x4 (b : Byte) : Byte := aesX (aesX b)
  let u := x4 (c.getD 0 0 ^^^ c.getD 2 0)
  let v := x4 (c.getD 1 0 ^^^ c.getD 3 0)
  aesMixCol [c.getD 0 0 ^^^ u, c.getD 1 0 ^^^ v, c.getD 2 0 ^^^ u, c.getD 3 0 ^^^ v]

def aesUnmix (b : List Byte) : List Byte := (List.range 4).flatMap (fun c => aesUnmixCol (sliceB b (4 * c) 4))

/-- The inverse rounds, on the round keys newest first. -/
def aesUnrounds : List (List Byte) → List Byte → List Byte
  | [], b => b
  | [k], b => xorBytes b k
  | k :: ks, b => aesUnrounds ks ((fun x => aesUnshift (x.map aesUnsub)) (aesUnmix (xorBytes b k)))

/-- The inverse of AES on one block. -/
def aesUnblock (rk : List (List Byte)) (b : List Byte) : List Byte :=
  match rk.reverse with
  | [] => b
  | k :: ks => aesUnrounds ks ((aesUnshift (xorBytes b k)).map aesUnsub)

/-- The steps of the RFC 3394 unwrap, t from 6 n down to 1: the register A and the n blocks R. -/
def unwrapSteps (rk : List (List Byte)) : Nat → List Byte × List (List Byte) → List Byte × List (List Byte)
  | 0, x => x
  | t + 1, (a, r) =>
    let i := t % r.length
    let b := aesUnblock rk (xorBytes a (beBytes 8 (t + 1)) ++ r.getD i [])
    unwrapSteps rk t (b.take 8, r.set i (b.drop 8))

/-- The RFC 3394 unwrap of 40 bytes: none where the initial value does not come out. -/
def aesUnwrap (key w : List Byte) : Option (List Byte) :=
  let x := unwrapSteps (aesRoundKeys key) 24 (w.take 8, (List.range 4).map (fun i => sliceB w (8 + 8 * i) 8))
  if x.1 = List.replicate 8 0xA6 then some x.2.flatten else none

/-- Product in GF(2^128) as GCM lays down, on big-endian numbers: `n` bits of x are left. -/
def ghashMul (x : Nat) : Nat → Nat → Nat → Nat
  | 0, _, z => z
  | n + 1, v, z =>
    ghashMul x n (if v % 2 = 1 then (v / 2) ^^^ (0xE1 <<< 120) else v / 2) (if nbit x n then z ^^^ v else z)

/-- A byte string cut into blocks of 16, the last padded with zeros; `n` bounds their number. -/
def blocks16 : Nat → List Byte → List (List Byte)
  | 0, _ => []
  | n + 1, l => if l.isEmpty then [] else sliceB l 0 16 :: blocks16 n (l.drop 16)

def ghash (h : Nat) (l : List (List Byte)) : Nat := l.foldl (fun y b => ghashMul (y ^^^ beNat b) 128 h 0) 0

/-- Counter-mode text: blocks from counter value `c` after a 12-byte nonce. -/
def gctr (rk : List (List Byte)) (nonce : List Byte) : Nat → Nat → List Byte → List Byte
  | 0, _, _ => []
  | n + 1, c, l =>
    if l.isEmpty then []
    else xorBytes (l.take 16) (aesBlock rk (nonce ++ beBytes 4 c)) ++ gctr rk nonce n (c + 1) (l.drop 16)

/-- The GCM tag of additional data and ciphertext. -/
def gcmTag (rk : List (List Byte)) (nonce aad c : List Byte) : List Byte :=
  let h := beNat (aesBlock rk (List.replicate 16 0))
  let g := ghash h (blocks16 (aad.length + 1) aad ++ blocks16 (c.length + 1) c
    ++ [beBytes 8 (8 * aad.length) ++ beBytes 8 (8 * c.length)])
  xorBytes (beBytes 16 g) (aesBlock rk (nonce ++ beBytes 4 1))

/-- AES-GCM encryption: ciphertext and tag.
PRESUMED (log entry 101, unsafe). -/
def gcmSeal (key nonce aad p : List Byte) : List Byte × List Byte :=
  let rk := aesRoundKeys key
  let c := gctr rk nonce (p.length + 1) 2 p
  (c, gcmTag rk nonce aad c)

/-- AES-GCM decryption: the text if the tag verifies. -/
def gcmOpen (key nonce aad c tag : List Byte) : Option (List Byte) :=
  let rk := aesRoundKeys key
  if gcmTag rk nonce aad c = tag then some (gctr rk nonce (c.length + 1) 2 c) else none

/-- Doubling in GF(2^128) as CMAC lays down. -/
def cmacDbl (x : Nat) : Nat := if nbit x 127 then (2 * x) % 2 ^ 128 ^^^ 0x87 else 2 * x

/-- CMAC of a byte string whose length is not a multiple of 16, by chaining over its blocks. -/
def cmacChain (rk : List (List Byte)) (k1 k2 : Nat) : Nat → List Byte → List Byte → List Byte
  | 0, _, x => x
  | n + 1, l, x =>
    if 16 < l.length then cmacChain rk k1 k2 n (l.drop 16) (aesBlock rk (xorBytes x (l.take 16)))
    else if l.length = 16 then aesBlock rk (xorBytes x (beBytes 16 (beNat l ^^^ k1)))
    else aesBlock rk (xorBytes x (beBytes 16 (beNat (sliceB (l ++ [0x80]) 0 16) ^^^ k2)))

/-- AES-CMAC (NIST SP 800-38B). -/
def cmac (key m : List Byte) : List Byte :=
  let rk := aesRoundKeys key
  let k1 := cmacDbl (beNat (aesBlock rk (List.replicate 16 0)))
  cmacChain rk k1 (cmacDbl k1) (m.length + 1) m (List.replicate 16 0)

end Sys2Proof.Machine
end

