-- ==== Sys2Proof/Machine/Crc.lean ====
section
/-! DEFINITION. The cyclic codes the manual names: CRC-8 of the maintenance port (R184), CRC-32C of plans, tables,
slots and Carlis (R109, R446), and the CRC-32 of the Ethernet frame check sequence. -/
namespace Sys2Proof.Machine

/-- One shift of a reflected CRC register. -/
def crcShift (poly c : Nat) : Nat := if c % 2 = 1 then (c / 2) ^^^ poly else c / 2

/-- One byte into a reflected CRC register. -/
def crcByte (poly c b : Nat) : Nat := Nat.repeat (crcShift poly) 8 (c ^^^ b)

/-- A reflected 32-bit CRC with initial value 0xFFFF_FFFF and final XOR 0xFFFF_FFFF. -/
def crcReflected (poly : Nat) (l : List Byte) : Nat :=
  l.foldl (fun c b => crcByte poly c b.toNat) 0xFFFFFFFF ^^^ 0xFFFFFFFF

/-- CRC-32C (R109). -/
def crc32c (l : List Byte) : Nat := crcReflected 0x82F63B78 l

/-- CRC-32C with another initial value and no final XOR (R446, R474). -/
def crc32cRaw (init : Nat) (l : List Byte) : Nat := l.foldl (fun c b => crcByte 0x82F63B78 c b.toNat) init

/-- The Ethernet frame check sequence. -/
def crc32 (l : List Byte) : Nat := crcReflected 0xEDB88320 l

/-- CRC-8 (R184): polynomial 0x07, initial value 0, not reflected. -/
def crc8 (l : List Byte) : Nat :=
  l.foldl (fun c b => Nat.repeat (fun c => if 128 ≤ c then ((c * 2) % 256) ^^^ 7 else c * 2) 8 (c ^^^ b.toNat)) 0

end Sys2Proof.Machine
end

