-- ==== Sys2Proof/Config.lean ====
section
/-! DEFINITION. The values the manual leaves open. Each is opaque: nothing can evaluate it or prove a value of
it, so a claim holds whatever it is. A free value that must be fresh at each use is applied to the counter
`State.free`. -/
namespace Sys2Proof.Config

/-- Undefined content of DRAM that nothing has written (R199 to R201), by use.
DESIGN CHOICE (log entry 9, safe). -/
opaque freeByte : Nat → BitVec 8

/-- Whether an unwritten block fails its code check (R201), by use. -/
opaque freeBool : Nat → Bool

/-- A 32-bit value the manual does not state, by use.
DESIGN CHOICE (log entry 9, safe). -/
opaque freeWord : Nat → BitVec 32

/-- A whole number the manual does not state, by use. -/
opaque freeNat : Nat → Nat

/-- The serial number of the part, loaded as an identity value in bring-up stage 1 (R194).
PRESUMED (log entry 10, safe). -/
opaque serialNumber : BitVec 64

end Sys2Proof.Config
end

