-- ==== Sys2Proof/Machine/RegTable.lean ====
section
/-! DEFINITION. The register maps of the manual as one table: for each kind of page, each register's offset,
how often it repeats, and which of its bits have which field type of R28. A bit in no mask is reserved (R23). The
rows follow the register tables of the chapters; "reset" is the Reset column (R33), 0 where that column says
"see text" (there the value shown is computed from the state). -/
namespace Sys2Proof.Machine

/-- The kinds of register page (R154, R156, R174, R175, R180, R181). -/
inductive PageKind where
  | sys | tck | tms | pwr | red | alm | evc | hif0 | hif1 | hifN | mem | ecc
  | mac | cbp | pcs | qmg | dma | ten | mbx | sch | crt | slPip | slTbl | slSch | slCip | slCrt
  | slEvc | slQmg | slDma | slRed | cus | cch | vfStat | vfDb | tenCip | vfMbx | vfQv | common
deriving DecidableEq, Repr

/-- One row of a register map: a register at `off`, repeated `count` times every `stride` bytes, and its bits by
field type (R28). `once` are the RWC bits, `rdclr` the RC bits. -/
structure RegRow where
  off : Nat
  stride : Nat
  count : Nat
  rw : Word
  once : Word
  rdclr : Word
  w1c : Word
  ro : Word
  reset : Word
deriving DecidableEq, Repr

/-- Registers of the page kind `sys` (spec/04_register_model.md at R176, spec/05_bringup_and_reset.md at R218). -/
def rows_sys : List RegRow := [
  ⟨0x10, 4, 1, 0x1, 0, 0, 0, 0, 0x1⟩, -- PAGE_CTL
  ⟨0x18, 4, 1, 0, 0, 0, 0x7F, 0, 0⟩, -- PAGE_ERR
  ⟨0x100, 4, 1, 0, 0, 0, 0, 0x7, 0⟩, -- SYS_PHASE
  ⟨0x108, 4, 1, 0, 0, 0, 0, 0xFFFFFFFF, 0⟩, -- SYS_ERR_SUMMARY_LO
  ⟨0x10C, 4, 1, 0, 0, 0, 0, 0x1FFFFFF, 0⟩, -- SYS_ERR_SUMMARY_HI
  ⟨0x110, 4, 1, 0, 0, 0, 0, 0x3FFFFFF, 0⟩, -- SYS_UNMAPPED_ADDR
  ⟨0x114, 4, 1, 0, 0, 0, 0, 0x3, 0⟩, -- SYS_UNMAPPED_SRC
  ⟨0x118, 4, 1, 0xFFF, 0, 0, 0, 0, 0⟩, -- SYS_APERTURE
  ⟨0x11C, 4, 1, 0, 0, 0xFFFFFFFF, 0, 0, 0⟩, -- SYS_UNMAPPED_CNT
  ⟨0x200, 4, 1, 0, 0, 0, 0, 0xF1F, 0⟩, -- SYS_RESET_CAUSE
  ⟨0x204, 4, 1, 0, 0, 0, 0, 0xFFFF, 0⟩, -- SYS_WARM_CNT
  ⟨0x208, 4, 1, 0, 0, 0, 0, 0xFF07, 0⟩, -- SYS_BIST_RESULT
  ⟨0x20C, 4, 1, 0, 0, 0, 0, 0x3FFFF, 0⟩, -- SYS_BRINGUP_TIME
  ⟨0x210, 4, 1, 0, 0, 0, 0, 0x1FFFFFF, 0⟩, -- SYS_RECOVERY_CAUSE
  ⟨0x214, 4, 1, 0, 0, 0xFFFF, 0, 0x30000, 0⟩, -- SYS_HOST_RESET_CNT
  ⟨0x218, 4, 1, 0, 0, 0, 0, 0x7, 0⟩] -- SYS_FLR_STAT

/-- Registers of the page kind `tck` (spec/02_time_and_tick.md at R122). -/
def rows_tck : List RegRow := [
  ⟨0x10, 4, 1, 0, 0, 0, 0, 0, 0⟩, -- PAGE_CTL
  ⟨0x14, 4, 1, 0, 0, 0, 0, 0x7F, 0x60⟩, -- PAGE_STAT
  ⟨0x18, 4, 1, 0, 0, 0, 0x1F, 0, 0⟩, -- PAGE_ERR
  ⟨0x100, 4, 1, 0, 0xF, 0, 0, 0, 0x2⟩, -- TCK_PERIOD
  ⟨0x104, 4, 1, 0xFF, 0, 0, 0, 0, 0x4⟩, -- TCK_LOCK_LIMIT
  ⟨0x108, 4, 1, 0, 0, 0, 0, 0xFFFFFFFF, 0⟩, -- TCK_COUNT_LO
  ⟨0x10C, 4, 1, 0, 0, 0, 0, 0xFFFFFFFF, 0⟩, -- TCK_COUNT_HI
  ⟨0x110, 4, 1, 0, 0, 0, 0, 0xFFFF, 0⟩, -- TCK_STAMP
  ⟨0x114, 4, 1, 0, 0, 0, 0, 0xFFFFFFFF, 0⟩, -- TCK_PHASE
  ⟨0x118, 4, 1, 0, 0, 0xFFFFFFFF, 0, 0, 0⟩, -- TCK_SLIP_INS
  ⟨0x11C, 4, 1, 0, 0, 0xFFFFFFFF, 0, 0, 0⟩, -- TCK_SLIP_REM
  ⟨0x120, 4, 1, 0, 0, 0xFFFFFFFF, 0, 0, 0⟩, -- TCK_REALIGN_CNT
  ⟨0x124, 4, 1, 0, 0, 0xFFFFFFFF, 0, 0, 0⟩, -- TCK_VOTE_CNT
  ⟨0x128, 4, 1, 0, 0, 0, 0, 0xFFFFFFFF, 0⟩, -- TCK_LAST_OLD_LO
  ⟨0x12C, 4, 1, 0, 0, 0, 0, 0xFFFFFFFF, 0⟩, -- TCK_LAST_OLD_HI
  ⟨0x130, 4, 1, 0, 0, 0, 0, 0xFFFFFFFF, 0⟩, -- TCK_LAST_NEW_LO
  ⟨0x134, 4, 1, 0, 0, 0, 0, 0xFFFFFFFF, 0⟩, -- TCK_LAST_NEW_HI
  ⟨0x138, 4, 1, 0x3FF, 0, 0, 0, 0, 0⟩, -- TCK_PLAN_INDEX
  ⟨0x13C, 4, 1, 0xFFFFFFFF, 0, 0, 0, 0, 0⟩, -- TCK_PLAN_DATA
  ⟨0x140, 4, 1, 0, 0, 0, 0, 0xFFFF, 0⟩, -- TCK_NET_RESERVE
  ⟨0x144, 4, 1, 0, 0, 0, 0, 0xFFFFFFFF, 0⟩, -- TCK_ARM_TICK_LO
  ⟨0x148, 4, 1, 0, 0, 0, 0, 0xFFFFFFFF, 0⟩, -- TCK_ARM_TICK_HI
  ⟨0x14C, 4, 1, 0, 0, 0, 0, 0x3FF, 0⟩] -- TCK_OVERRUN_SRC

/-- Registers of the page kind `tms` (spec/02_time_and_tick.md at R87). -/
def rows_tms : List RegRow := [
  ⟨0x10, 4, 1, 0x7, 0, 0, 0, 0, 0⟩, -- PAGE_CTL
  ⟨0x14, 4, 1, 0, 0, 0, 0, 0xF, 0⟩, -- PAGE_STAT
  ⟨0x18, 4, 1, 0, 0, 0, 0xF, 0, 0⟩, -- PAGE_ERR
  ⟨0x100, 4, 1, 0, 0, 0, 0, 0x3FFFFFFF, 0⟩, -- TMS_TIME_NS
  ⟨0x104, 4, 1, 0, 0, 0, 0, 0xFFFFFFFF, 0⟩, -- TMS_TIME_SEC_LO
  ⟨0x108, 4, 1, 0, 0, 0, 0, 0xFFFF, 0⟩, -- TMS_TIME_SEC_HI
  ⟨0x10C, 4, 1, 0, 0, 0, 0, 0xFFFF, 0⟩, -- TMS_TIME_FRAC
  ⟨0x110, 4, 1, 0xFFFFFFFF, 0, 0, 0, 0, 0⟩, -- TMS_FREQ_ADJ
  ⟨0x114, 4, 1, 0xFFFFF, 0, 0, 0, 0, 0x186A0⟩, -- TMS_PPS_OUT_WIDTH
  ⟨0x118, 4, 1, 0, 0, 0, 0, 0xFFFFFFFF, 0⟩, -- TMS_PPS_IN_LO
  ⟨0x11C, 4, 1, 0, 0, 0, 0, 0xFFFFFFFF, 0⟩, -- TMS_PPS_IN_HI
  ⟨0x120, 4, 1, 0, 0, 0xFFFFFFFF, 0, 0, 0⟩] -- TMS_PPS_IN_CNT

/-- Registers of the page kind `pwr` (spec/03_power_governor.md at R151). -/
def rows_pwr : List RegRow := [
  ⟨0x10, 4, 1, 0x1, 0, 0, 0, 0, 0⟩, -- PAGE_CTL
  ⟨0x14, 4, 1, 0, 0, 0, 0, 0x1F, 0⟩, -- PAGE_STAT
  ⟨0x18, 4, 1, 0, 0, 0, 0x1F, 0, 0⟩, -- PAGE_ERR
  ⟨0x100, 4, 1, 0x1FF, 0, 0, 0, 0, 0x60⟩, -- PWR_ENVELOPE
  ⟨0x104, 4, 1, 0x1FF, 0, 0, 0, 0, 0x60⟩, -- PWR_ENVELOPE_SHED
  ⟨0x108, 4, 1, 0xFFFFFF, 0, 0, 0, 0, 0x107D0⟩, -- PWR_RAMP
  ⟨0x10C, 4, 1, 0, 0, 0, 0, 0x1FF, 0x60⟩, -- PWR_EFFECTIVE
  ⟨0x110, 4, 1, 0, 0, 0, 0, 0x1FF, 0x50⟩, -- PWR_FLOOR
  ⟨0x114, 4, 1, 0, 0, 0, 0, 0xFFFF, 0⟩, -- PWR_STANDING
  ⟨0x118, 4, 1, 0, 0, 0, 0, 0xFFFFFFFF, 0⟩, -- PWR_BUDGET
  ⟨0x11C, 4, 1, 0, 0, 0, 0, 0xFFFFFFFF, 0⟩, -- PWR_GRANTED
  ⟨0x120, 4, 1, 0, 0, 0, 0, 0xFFFFFFFF, 0⟩, -- PWR_SPENT
  ⟨0x124, 4, 1, 0, 0, 0xFFFFFFFF, 0, 0, 0⟩, -- PWR_BINDING_CNT
  ⟨0x128, 4, 1, 0, 0, 0xFFFFFFFF, 0, 0, 0⟩, -- PWR_MISMATCH_CNT
  ⟨0x12C, 4, 1, 0, 0, 0, 0, 0xFFFFFFFF, 0⟩, -- PWR_ENERGY_LO
  ⟨0x130, 4, 1, 0, 0, 0, 0, 0xFFFFFFFF, 0⟩, -- PWR_ENERGY_HI
  ⟨0x134, 4, 1, 0xFF, 0, 0, 0, 0, 0⟩, -- PWR_COEF_INDEX
  ⟨0x138, 4, 1, 0xFFFFFFFF, 0, 0, 0, 0, 0⟩, -- PWR_COEF_DATA
  ⟨0x13C, 4, 1, 0, 0, 0, 0, 0xF, 0⟩] -- PWR_LIMIT_PRIO

/-- Registers of the page kind `red` (spec/17_memory_and_ecc.md at R648, spec/18_redundancy.md at R680). -/
def rows_red : List RegRow := [
  ⟨0x10, 4, 1, 0x7, 0, 0, 0, 0, 0x5⟩, -- PAGE_CTL
  ⟨0x14, 4, 1, 0, 0, 0, 0, 0x1F, 0⟩, -- PAGE_STAT
  ⟨0x18, 4, 1, 0, 0, 0, 0xFF, 0, 0⟩, -- PAGE_ERR
  ⟨0x100, 4, 2, 0, 0, 0, 0, 0xFF7FFF, 0⟩, -- RED_CLAIM
  ⟨0x108, 4, 1, 0x1FFFF, 0, 0, 0, 0, 0x384⟩, -- RED_EQX_PERIOD
  ⟨0x10C, 4, 1, 0xFFFF, 0, 0, 0, 0, 0x4E20⟩, -- RED_EQX_HOLD
  ⟨0x110, 4, 1, 0xFF, 0, 0, 0, 0, 0x10⟩, -- RED_EQX_DRAIN
  ⟨0x114, 4, 1, 0xFFFF, 0, 0, 0, 0, 0x3C⟩, -- RED_EQX_DEFER
  ⟨0x118, 4, 1, 0, 0, 0, 0, 0xFFFFFFFF, 0⟩, -- RED_EQX_NEXT_LO
  ⟨0x11C, 4, 1, 0, 0, 0, 0, 0xFFFFFFFF, 0⟩, -- RED_EQX_NEXT_HI
  ⟨0x120, 4, 1, 0xFF, 0, 0, 0, 0, 0x4⟩, -- RED_UE_LIMIT
  ⟨0x124, 4, 1, 0xFF, 0, 0, 0, 0, 0x3⟩, -- RED_WITHDRAW_LIMIT
  ⟨0x128, 4, 1, 0, 0, 0xFFFFFFFF, 0, 0, 0⟩, -- RED_SWITCH_CNT
  ⟨0x12C, 4, 1, 0, 0, 0xFFFFFFFF, 0, 0, 0⟩, -- RED_EQX_CNT
  ⟨0x130, 4, 1, 0, 0, 0xFFFFFFFF, 0, 0, 0⟩, -- RED_EQX_DEFER_CNT
  ⟨0x134, 4, 1, 0, 0, 0xFFFFFFFF, 0, 0, 0⟩, -- RED_EQX_ABANDON_CNT
  ⟨0x138, 4, 1, 0, 0, 0xFFFFFFFF, 0, 0, 0⟩, -- RED_REPLAY_CNT
  ⟨0x13C, 4, 1, 0, 0, 0, 0x80000000, 0x1FFFFF, 0⟩, -- RED_LAST_SWITCH
  ⟨0x140, 4, 1, 0, 0, 0, 0, 0x8001FFFF, 0⟩, -- RED_LAST_EQX
  ⟨0x144, 4, 1, 0, 0, 0, 0, 0x3, 0⟩] -- RED_GAP_MAX

/-- Registers of the page kind `alm` (spec/19_alarm_and_custody.md at R702). -/
def rows_alm : List RegRow := [
  ⟨0x10, 4, 1, 0, 0, 0, 0, 0, 0⟩, -- PAGE_CTL
  ⟨0x14, 4, 1, 0, 0, 0, 0, 0x7, 0⟩, -- PAGE_STAT
  ⟨0x18, 4, 1, 0, 0, 0, 0x7, 0, 0⟩, -- PAGE_ERR
  ⟨0x100, 4, 1, 0, 0, 0, 0, 0xFFFFFFFF, 0⟩, -- ALM_SRC_ACTIVE
  ⟨0x104, 4, 1, 0, 0, 0, 0xFFFFFFFF, 0, 0⟩, -- ALM_SRC_LATCH
  ⟨0x108, 4, 1, 0, 0, 0xFFFFFFFF, 0, 0, 0⟩, -- ALM_AMBER_CNT
  ⟨0x10C, 4, 1, 0, 0, 0, 0, 0xFFFF, 0⟩, -- ALM_CRIMSON_CNT
  ⟨0x110, 4, 1, 0xF, 0, 0, 0, 0, 0⟩, -- ALM_LOG_SEL
  ⟨0x114, 4, 1, 0, 0, 0, 0, 0xFFFFFFFF, 0⟩, -- ALM_LOG0
  ⟨0x118, 4, 1, 0, 0, 0, 0, 0xFFFFFFFF, 0⟩, -- ALM_LOG1
  ⟨0x11C, 4, 1, 0, 0, 0, 0, 0x1F, 0⟩, -- ALM_LOG_HEAD
  ⟨0x120, 4, 5, 0, 0, 0, 0, 0xFFFFFFFF, 0⟩] -- ALM_TREC

/-- Registers of the page kind `evc` (spec/21_monitoring.md at R732). -/
def rows_evc : List RegRow := [
  ⟨0x10, 4, 1, 0x3, 0, 0, 0, 0, 0⟩, -- PAGE_CTL
  ⟨0x14, 4, 1, 0, 0, 0, 0, 0x3, 0⟩, -- PAGE_STAT
  ⟨0x18, 4, 1, 0, 0, 0, 0x1F, 0, 0⟩, -- PAGE_ERR
  ⟨0x100, 4, 64, 0x703FFFF, 0, 0, 0, 0, 0⟩, -- EVC_CSEL
  ⟨0x200, 8, 64, 0, 0, 0xFFFFFFFF, 0, 0, 0⟩, -- EVC_CNT_LO
  ⟨0x204, 8, 64, 0, 0, 0xFFFF, 0, 0, 0⟩, -- EVC_CNT_HI
  ⟨0x600, 4, 1, 0, 0, 0, 0xFFFFFFFF, 0, 0⟩, -- EVC_OVF_LO
  ⟨0x604, 4, 1, 0, 0, 0, 0xFFFFFFFF, 0, 0⟩, -- EVC_OVF_HI
  ⟨0x700, 4, 4, 0, 0, 0, 0, 0x8000FFFF, 0x8000⟩, -- EVC_TEMP
  ⟨0x710, 4, 4, 0, 0, 0, 0, 0xFFFF, 0x8000⟩, -- EVC_TEMP_MAX
  ⟨0x720, 4, 4, 0xFFFF, 0, 0, 0, 0, 0x690⟩, -- EVC_TEMP_HI
  ⟨0x740, 4, 5, 0, 0, 0, 0, 0x8000FFFF, 0xFFFF⟩, -- EVC_VOLT
  ⟨0x760, 4, 5, 0xFFFFFFFF, 0, 0, 0, 0, 0⟩] -- EVC_VOLT_LIM

/-- Registers of the page kind `hif0` (spec/06_host_endpoint.md at R266). -/
def rows_hif0 : List RegRow := [
  ⟨0x10, 4, 1, 0, 0, 0, 0, 0, 0⟩, -- PAGE_CTL
  ⟨0x14, 4, 1, 0, 0, 0, 0, 0x3FFFFF, 0⟩, -- PAGE_STAT
  ⟨0x18, 4, 1, 0, 0, 0, 0xFF, 0, 0⟩, -- PAGE_ERR
  ⟨0x100, 4, 1, 0x3F, 0, 0, 0, 0, 0x20⟩, -- HIF_CPL_TIMEOUT
  ⟨0x104, 4, 1, 0x800007FF, 0, 0, 0, 0, 0⟩, -- HIF_ERR_VECTOR
  ⟨0x108, 4, 1, 0, 0, 0, 0, 0x3FF03FF, 0⟩, -- HIF_TAGS_USED
  ⟨0x10C, 4, 1, 0, 0, 0xFFFFFFFF, 0, 0, 0⟩, -- HIF_CPL_TIMEOUT_CNT
  ⟨0x110, 4, 1, 0, 0, 0xFFFFFFFF, 0, 0, 0⟩, -- HIF_UNEXP_CPL_CNT
  ⟨0x114, 4, 1, 0, 0, 0xFFFFFFFF, 0, 0, 0⟩, -- HIF_POISON_RX_CNT
  ⟨0x118, 4, 1, 0, 0, 0xFFFFFFFF, 0, 0, 0⟩, -- HIF_POISON_TX_CNT
  ⟨0x11C, 4, 1, 0, 0, 0xFFFFFFFF, 0, 0, 0⟩, -- HIF_ECRC_ERR_CNT
  ⟨0x120, 4, 1, 0, 0, 0xFFFFFFFF, 0, 0, 0⟩, -- HIF_BME_DROP_CNT
  ⟨0x124, 4, 1, 0, 0, 0xFFFFFFFF, 0, 0, 0⟩, -- HIF_INT_DROP_CNT
  ⟨0x128, 4, 1, 0, 0, 0xFFFFFFFF, 0, 0, 0⟩, -- HIF_STALE_CPL_CNT
  ⟨0x12C, 4, 1, 0, 0, 0xFFFFFFFF, 0, 0, 0⟩, -- HIF_PME_CNT
  ⟨0x130, 4, 1, 0, 0, 0xFFFFFFFF, 0, 0, 0⟩, -- HIF_LINK_DOWN_CNT
  ⟨0x134, 4, 1, 0, 0, 0xFFFFFFFF, 0, 0, 0⟩, -- HIF_RETRAIN_CNT
  ⟨0x138, 4, 1, 0, 0, 0, 0, 0x800007FF, 0⟩, -- HIF_LAST_TIMEOUT_FN
  ⟨0x13C, 4, 1, 0x3FF03FF, 0, 0, 0, 0, 0x200010⟩] -- HIF_TAG_LIMIT

/-- Registers of HIF page 1 (spec/06_host_endpoint.md at R267). -/
def rows_hif1 : List RegRow := [
  ⟨0x10, 4, 1, 0, 0, 0, 0, 0, 0⟩, -- PAGE_CTL
  ⟨0x14, 4, 1, 0, 0, 0, 0, 0, 0⟩, -- PAGE_STAT
  ⟨0x18, 4, 1, 0, 0, 0, 0x1, 0, 0⟩, -- PAGE_ERR
  ⟨0x100, 4, 129, 0, 0, 0, 0, 0xFFFFFFFF, 0⟩] -- function states

/-- Registers of HIF pages 2 to 7, which hold the common registers only (spec/06_host_endpoint.md at R267). -/
def rows_hifN : List RegRow := [
  ⟨0x10, 4, 1, 0, 0, 0, 0, 0, 0⟩, -- PAGE_CTL
  ⟨0x14, 4, 1, 0, 0, 0, 0, 0, 0⟩, -- PAGE_STAT
  ⟨0x18, 4, 1, 0, 0, 0, 0x1, 0, 0⟩] -- PAGE_ERR

/-- The doorbell page of a VF (spec/07_work_queues.md at R278): slot j at 8 × j. -/
def rows_vfDb : List RegRow := [
  ⟨0, 8, 64, 0, 0, 0, 0, 0, 0⟩, -- WQ doorbell
  ⟨4, 8, 64, 0, 0, 0, 0, 0, 0⟩] -- CR doorbell

/-- Registers of the page kind `mem` (spec/17_memory_and_ecc.md at R648). -/
def rows_mem : List RegRow := [
  ⟨0x10, 4, 1, 0x1, 0, 0, 0, 0, 0⟩, -- PAGE_CTL
  ⟨0x14, 4, 1, 0, 0, 0, 0, 0xF, 0⟩, -- PAGE_STAT
  ⟨0x18, 4, 1, 0, 0, 0, 0x3F, 0, 0⟩, -- PAGE_ERR
  ⟨0x100, 4, 1, 0, 0x7, 0, 0, 0, 0⟩, -- MEM_GEOM
  ⟨0x104, 4, 1, 0, 0, 0, 0, 0x7F, 0⟩, -- MEM_CAP
  ⟨0x110, 4, 1, 0, 0xFFFFFFFF, 0, 0, 0, 0⟩, -- MEM_TIM0
  ⟨0x114, 4, 1, 0, 0xFFFFFFFF, 0, 0, 0, 0⟩, -- MEM_TIM1
  ⟨0x118, 4, 1, 0, 0xFFFFFFFF, 0, 0, 0, 0⟩, -- MEM_TIM2
  ⟨0x11C, 4, 1, 0, 0xFFFFFF, 0, 0, 0, 0⟩, -- MEM_TIM3
  ⟨0x120, 4, 1, 0, 0xFFF0FFF, 0, 0, 0, 0⟩, -- MEM_TIM4
  ⟨0x124, 4, 1, 0, 0xFFFF, 0, 0, 0, 0⟩, -- MEM_TIM5
  ⟨0x130, 4, 1, 0x3F, 0, 0, 0, 0, 0⟩, -- MEM_DLY_INDEX
  ⟨0x134, 4, 1, 0, 0xFFFFFF, 0, 0, 0, 0⟩, -- MEM_DLY_DATA
  ⟨0x140, 4, 1, 0, 0, 0, 0, 0x3FFFFFFF, 0⟩, -- MEM_SCRUB_POS
  ⟨0x144, 4, 1, 0, 0, 0xFFFFFFFF, 0, 0, 0⟩, -- MEM_SCRUB_PASSES
  ⟨0x148, 4, 1, 0, 0, 0xFFFFFFFF, 0, 0, 0⟩, -- MEM_CE_CNT
  ⟨0x14C, 4, 1, 0, 0, 0xFFFFFFFF, 0, 0, 0⟩, -- MEM_UE_CNT
  ⟨0x150, 4, 1, 0, 0, 0xFFFFFFFF, 0, 0, 0⟩, -- MEM_POISON_RD
  ⟨0x154, 4, 1, 0, 0, 0xFFFFFFFF, 0, 0, 0⟩, -- MEM_RMW_CNT
  ⟨0x158, 4, 1, 0, 0, 0xFFFFFFFF, 0, 0, 0⟩, -- MEM_RETIRED_HIT
  ⟨0x160, 4, 1, 0x3F, 0, 0, 0, 0, 0⟩, -- MEM_RETIRE_INDEX
  ⟨0x164, 4, 1, 0x83FFFFFF, 0, 0, 0, 0, 0⟩] -- MEM_RETIRE_DATA

/-- Registers of the page kind `ecc` (spec/17_memory_and_ecc.md at R648). -/
def rows_ecc : List RegRow := [
  ⟨0x10, 4, 1, 0, 0, 0, 0, 0, 0⟩, -- PAGE_CTL
  ⟨0x14, 4, 1, 0, 0, 0, 0, 0x7F, 0⟩, -- PAGE_STAT
  ⟨0x18, 4, 1, 0, 0, 0, 0x7F, 0, 0⟩, -- PAGE_ERR
  ⟨0x100, 4, 1, 0, 0x1, 0, 0, 0, 0⟩, -- ECC_DRAM_MAP
  ⟨0x104, 4, 1, 0, 0, 0, 0, 0x1FF, 0⟩, -- ECC_DRAM_TOTAL
  ⟨0x108, 4, 1, 0, 0, 0xFFFFFFFF, 0, 0, 0⟩, -- ECC_CE_CNT
  ⟨0x10C, 4, 1, 0, 0, 0xFFFFFFFF, 0, 0, 0⟩, -- ECC_UE_CNT
  ⟨0x110, 4, 1, 0, 0, 0xFFFFFFFF, 0, 0, 0⟩, -- ECC_LOG_LOST
  ⟨0x114, 4, 1, 0x1F, 0, 0, 0, 0, 0⟩, -- ECC_LOG_SEL
  ⟨0x118, 4, 1, 0, 0, 0, 0x1, 0xFFFFFFFE, 0⟩, -- ECC_LOG0
  ⟨0x11C, 4, 3, 0, 0, 0, 0, 0xFFFFFFFF, 0⟩, -- ECC_LOG
  ⟨0x130, 4, 1, 0xFF0F, 0, 0, 0, 0x10000, 0⟩, -- ECC_FLIP_SEL
  ⟨0x134, 4, 1, 0xFFFFFFFF, 0, 0, 0, 0, 0⟩, -- ECC_FLIP_MASK_LO
  ⟨0x138, 4, 1, 0xFFFFFFFF, 0, 0, 0, 0, 0⟩, -- ECC_FLIP_MASK_HI
  ⟨0x13C, 4, 1, 0xFF, 0, 0, 0, 0, 0⟩, -- ECC_FLIP_CHK
  ⟨0x140, 4, 1, 0xFF0FFF, 0, 0, 0, 0, 0⟩, -- ECC_FLIP_DRAM
  ⟨0x144, 4, 1, 0, 0, 0, 0, 0xFFFFFFFF, 0⟩, -- ECC_FLIP_ADDR_LO
  ⟨0x148, 4, 1, 0, 0, 0, 0, 0x3F, 0⟩] -- ECC_FLIP_ADDR_HI

/-- Registers of the page kind `mac` (spec/10_network_ports.md at R416). -/
def rows_mac : List RegRow := [
  ⟨0x10, 4, 1, 0, 0, 0, 0, 0, 0⟩, -- PAGE_CTL
  ⟨0x14, 4, 1, 0, 0, 0, 0, 0x3FFFFF, 0⟩, -- PAGE_STAT
  ⟨0x18, 4, 1, 0, 0, 0, 0xFF, 0, 0⟩, -- PAGE_ERR
  ⟨0x100, 4, 1, 0x1F, 0, 0, 0, 0, 0⟩, -- MAC_RX_CTL
  ⟨0x104, 4, 1, 0x3FFF, 0, 0, 0, 0, 0⟩, -- MAC_BAD_Q
  ⟨0x108, 4, 1, 0x7FFF, 0, 0, 0, 0, 0x7D0⟩, -- MAC_MAX_FRAME
  ⟨0x10C, 4, 1, 0xFFFFFFFF, 0, 0, 0, 0, 0⟩, -- MAC_SA_LO
  ⟨0x110, 4, 1, 0xFFFF, 0, 0, 0, 0, 0⟩, -- MAC_SA_HI
  ⟨0x114, 4, 1, 0xFF0F, 0, 0, 0, 0, 0⟩, -- MAC_FC
  ⟨0x118, 4, 1, 0xFFFFFFFF, 0, 0, 0, 0, 0xFAC688⟩, -- MAC_PCP_MAP
  ⟨0x11C, 4, 1, 0xFFFF, 0, 0, 0, 0, 0xFFFF⟩, -- MAC_PFC_QUANTA
  ⟨0x120, 4, 1, 0xFFFF, 0, 0, 0, 0, 0x64⟩, -- MAC_PFC_REFRESH
  ⟨0x124, 4, 1, 0xFFFF, 0, 0, 0, 0, 0x3E8⟩, -- MAC_PFC_DELAY
  ⟨0x128, 4, 1, 0x3FF01, 0, 0, 0, 0, 0⟩, -- MAC_PREEMPT
  ⟨0x12C, 4, 1, 0xFFFFFFFF, 0, 0, 0, 0, 0⟩, -- MAC_TS_ADJ
  ⟨0x130, 4, 1, 0xFF, 0, 0, 0, 0, 0⟩, -- MAC_GCL_INDEX
  ⟨0x134, 4, 1, 0xFFFFFFFF, 0, 0, 0, 0, 0⟩, -- MAC_GCL_DATA
  ⟨0x138, 4, 1, 0x1FF, 0, 0, 0, 0, 0x1⟩, -- MAC_GCL_COUNT
  ⟨0x13C, 4, 1, 0xFFFFFFFF, 0, 0, 0, 0, 0⟩, -- MAC_GCL_BASE_LO
  ⟨0x140, 4, 1, 0xFFFFFFFF, 0, 0, 0, 0, 0⟩, -- MAC_GCL_BASE_HI
  ⟨0x144, 4, 1, 0, 0, 0, 0, 0xFFFFFFFF, 0⟩, -- MAC_GCL_ACT_LO
  ⟨0x148, 4, 1, 0, 0, 0, 0, 0xFFFFFFFF, 0⟩, -- MAC_GCL_ACT_HI
  ⟨0x14C, 4, 1, 0, 0, 0, 0, 0xFFFFFFFF, 0⟩, -- MAC_GCL_POS
  ⟨0x180, 16, 8, 0x1FFFF, 0, 0, 0, 0, 0⟩, -- MAC_XOFF
  ⟨0x184, 16, 8, 0x1FFFF, 0, 0, 0, 0, 0⟩, -- MAC_XON
  ⟨0x188, 16, 8, 0x1FFFF, 0, 0, 0, 0, 0⟩, -- MAC_HEADROOM
  ⟨0x18C, 16, 8, 0, 0, 0, 0, 0x1FFFF, 0⟩, -- MAC_LEVEL
  ⟨0x200, 4, 8, 0, 0, 0xFFFFFFFF, 0, 0, 0⟩, -- MAC_PFC_RX
  ⟨0x220, 4, 8, 0, 0, 0xFFFFFFFF, 0, 0, 0⟩, -- MAC_PFC_TX
  ⟨0x240, 4, 8, 0, 0, 0xFFFFFFFF, 0, 0, 0⟩, -- MAC_PAUSED
  ⟨0x400, 8, 44, 0, 0, 0xFFFFFFFF, 0, 0, 0⟩, -- MAC_STAT
  ⟨0x404, 8, 44, 0, 0, 0xFFFFFFFF, 0, 0, 0⟩] -- MAC_STAT_HI

/-- Registers of the page kind `cbp` (spec/11_cabinet_bus.md at R433). -/
def rows_cbp : List RegRow := [
  ⟨0x10, 4, 1, 0, 0, 0, 0, 0, 0⟩, -- PAGE_CTL
  ⟨0x14, 4, 1, 0, 0, 0, 0, 0x1F, 0⟩, -- PAGE_STAT
  ⟨0x18, 4, 1, 0, 0, 0, 0xFF, 0, 0⟩, -- PAGE_ERR
  ⟨0x100, 4, 1, 0x3, 0, 0, 0, 0, 0⟩, -- CBP_MODE
  ⟨0x104, 4, 1, 0xFFFFFFFF, 0, 0, 0, 0, 0x80000800⟩, -- CBP_PLCA
  ⟨0x108, 4, 1, 0xFF, 0, 0, 0, 0, 0x20⟩, -- CBP_PLCA_TO
  ⟨0x10C, 4, 1, 0xFFF, 0, 0, 0, 0, 0x5F2⟩, -- CBP_MAX_FRAME
  ⟨0x110, 4, 1, 0xFFFFFFFF, 0, 0, 0, 0, 0⟩, -- CBP_SA_LO
  ⟨0x114, 4, 1, 0xFFFFFFFF, 0, 0, 0, 0, 0⟩, -- CBP_SA_HI
  ⟨0x118, 4, 1, 0x3FFF, 0, 0, 0, 0, 0⟩, -- CBP_RX_Q
  ⟨0x11C, 4, 1, 0x7FFFFFFF, 0, 0, 0, 0, 0⟩, -- CBP_SEED
  ⟨0x120, 4, 1, 0xFFFFFFFF, 0, 0, 0, 0, 0⟩, -- CBP_TS_ADJ
  ⟨0x124, 4, 1, 0, 0, 0, 0, 0x1FF, 0⟩, -- CBP_PLCA_POS
  ⟨0x400, 8, 26, 0, 0, 0xFFFFFFFF, 0, 0, 0⟩, -- CBP_STAT
  ⟨0x404, 8, 26, 0, 0, 0xFFFFFFFF, 0, 0, 0⟩] -- CBP_STAT_HI

/-- Registers of the page kind `pcs` (spec/10_network_ports.md at R416). -/
def rows_pcs : List RegRow := [
  ⟨0x10, 4, 1, 0, 0, 0, 0, 0, 0⟩, -- PAGE_CTL
  ⟨0x14, 4, 1, 0, 0, 0, 0, 0xFF, 0⟩, -- PAGE_STAT
  ⟨0x18, 4, 1, 0, 0, 0, 0x1F, 0, 0⟩, -- PAGE_ERR
  ⟨0x100, 4, 1, 0x3F, 0, 0, 0, 0, 0⟩, -- PCS_MODE
  ⟨0x104, 4, 1, 0xFF, 0, 0, 0, 0, 0xE4⟩, -- PCS_LANE_MAP
  ⟨0x108, 4, 1, 0xFF, 0, 0, 0, 0, 0⟩, -- PCS_POLARITY
  ⟨0x110, 4, 4, 0x1F1F, 0, 0, 0, 0, 0⟩, -- PCS_TXEQ
  ⟨0x120, 4, 4, 0, 0, 0, 0, 0xFFFFFFFF, 0⟩, -- PCS_TXEQ_ACT
  ⟨0x130, 4, 1, 0, 0, 0xFFFFFFFF, 0, 0, 0⟩, -- PCS_FEC_CORR_LO
  ⟨0x134, 4, 1, 0, 0, 0xFFFFFFFF, 0, 0, 0⟩, -- PCS_FEC_CORR_HI
  ⟨0x138, 4, 1, 0, 0, 0xFFFFFFFF, 0, 0, 0⟩, -- PCS_FEC_UNCORR_LO
  ⟨0x13C, 4, 1, 0, 0, 0xFFFFFFFF, 0, 0, 0⟩, -- PCS_FEC_UNCORR_HI
  ⟨0x140, 4, 4, 0, 0, 0xFFFFFFFF, 0, 0, 0⟩, -- PCS_SYM_ERR
  ⟨0x150, 4, 1, 0, 0, 0xFFFFFFFF, 0, 0, 0⟩, -- PCS_LINK_DOWN_CNT
  ⟨0x154, 4, 1, 0, 0, 0xFFFFFFFF, 0, 0, 0⟩] -- PCS_TRAIN_FAIL_CNT

/-- Registers of the page kind `qmg` (spec/07_work_queues.md at R309). -/
def rows_qmg : List RegRow := [
  ⟨0x10, 4, 1, 0, 0, 0, 0, 0, 0⟩, -- PAGE_CTL
  ⟨0x14, 4, 1, 0, 0, 0, 0, 0x3, 0⟩, -- PAGE_STAT
  ⟨0x18, 4, 1, 0, 0, 0, 0x7F, 0, 0⟩, -- PAGE_ERR
  ⟨0x100, 4, 1, 0, 0, 0, 0, 0, 0⟩, -- QMG_DB_WQ
  ⟨0x104, 4, 1, 0, 0, 0, 0, 0, 0⟩, -- QMG_DB_CR
  ⟨0x108, 4, 1, 0x3FFF, 0, 0, 0, 0, 0⟩, -- QMG_Q_SEL
  ⟨0x10C, 4, 1, 0, 0, 0, 0, 0xFFFFFFFF, 0⟩, -- QMG_Q_WQ_IDX
  ⟨0x110, 4, 1, 0, 0, 0, 0, 0xFFFFFFFF, 0⟩, -- QMG_Q_CR_IDX
  ⟨0x114, 4, 1, 0, 0, 0, 0, 0xFFF, 0⟩, -- QMG_Q_STATE
  ⟨0x118, 4, 1, 0, 0, 0, 0x80000000, 0xFF3FFF, 0⟩, -- QMG_REC_ERR
  ⟨0x11C, 4, 1, 0, 0, 0, 0x80000000, 0xFF7FFF, 0⟩, -- QMG_MAL_INFO
  ⟨0x120, 4, 1, 0, 0, 0, 0, 0xFFFF07FF, 0⟩, -- QMG_MAL_FN
  ⟨0x124, 4, 1, 0, 0, 0xFFFFFFFF, 0, 0, 0⟩, -- QMG_MAL_CNT
  ⟨0x128, 4, 1, 0, 0, 0xFFFFFFFF, 0, 0, 0⟩, -- QMG_CR_STALL_CNT
  ⟨0x12C, 4, 1, 0, 0, 0xFFFFFFFF, 0, 0, 0⟩, -- QMG_DB_STALE_CNT
  ⟨0x130, 4, 1, 0, 0, 0xFFFFFFFF, 0, 0, 0⟩, -- QMG_DB_REFUSED_CNT
  ⟨0x134, 4, 1, 0, 0, 0xFFFFFFFF, 0, 0, 0⟩, -- QMG_PHASE_RETRY_CNT
  ⟨0x140, 4, 33, 0, 0, 0, 0, 0xFFFFFFFF, 0⟩] -- QMG_HALTED_MAP

/-- Registers of the page kind `dma` (spec/08_dma_engine.md at R342). -/
def rows_dma : List RegRow := [
  ⟨0x10, 4, 1, 0, 0, 0, 0, 0, 0⟩, -- PAGE_CTL
  ⟨0x14, 4, 1, 0, 0, 0, 0, 0x3, 0⟩, -- PAGE_STAT
  ⟨0x18, 4, 1, 0, 0, 0, 0x7, 0, 0⟩, -- PAGE_ERR
  ⟨0x100, 4, 1, 0xFFFF0007, 0, 0, 0, 0, 0x3E80003⟩, -- DMA_RETRY
  ⟨0x110, 8, 4, 0x1FFFF, 0, 0, 0, 0, 0x400⟩, -- DMA_PACE_HI
  ⟨0x114, 8, 4, 0x1FFFF, 0, 0, 0, 0, 0x300⟩, -- DMA_PACE_LO
  ⟨0x130, 4, 1, 0x7FF, 0, 0, 0, 0, 0⟩, -- DMA_PACE_SEL
  ⟨0x134, 4, 1, 0, 0, 0, 0, 0x8001FFFF, 0⟩, -- DMA_PACE_LEVEL
  ⟨0x140, 4, 1, 0, 0, 0xFFFFFFFF, 0, 0, 0⟩, -- DMA_RETRY_CNT
  ⟨0x144, 4, 1, 0, 0, 0xFFFFFFFF, 0, 0, 0⟩, -- DMA_CH_HALT_CNT
  ⟨0x148, 4, 1, 0, 0, 0xFFFFFFFF, 0, 0, 0⟩, -- DMA_POISON_CNT
  ⟨0x14C, 4, 1, 0, 0, 0xFFFFFFFF, 0, 0, 0⟩, -- DMA_PACED_CNT
  ⟨0x150, 4, 1, 0, 0, 0xFFFFFFFF, 0, 0, 0⟩, -- DMA_RMW_CNT
  ⟨0x154, 4, 1, 0, 0, 0xFFFFFFFF, 0, 0, 0⟩, -- DMA_OVERLAP_CNT
  ⟨0x158, 4, 1, 0, 0, 0, 0x80000000, 0x77FF, 0⟩, -- DMA_HALT_INFO
  ⟨0x15C, 4, 1, 0, 0, 0, 0, 0xFFFFFFFF, 0⟩, -- DMA_HALT_ADDR_LO
  ⟨0x160, 4, 1, 0, 0, 0, 0, 0xFFFFFFFF, 0⟩, -- DMA_HALT_ADDR_HI
  ⟨0x200, 4, 65, 0xFFFFFFFF, 0, 0, 0, 0, 0⟩] -- DMA_PACE_MAP

/-- Registers of the page kind `ten` (spec/09_tenancy_and_mailboxes.md at R375). -/
def rows_ten : List RegRow := [
  ⟨0x10, 4, 1, 0, 0, 0, 0, 0, 0⟩, -- PAGE_CTL
  ⟨0x14, 4, 1, 0, 0, 0, 0, 0x3, 0⟩, -- PAGE_STAT
  ⟨0x18, 4, 1, 0, 0, 0, 0x7, 0, 0⟩, -- PAGE_ERR
  ⟨0x100, 4, 1, 0x3FF, 0, 0, 0, 0, 0⟩, -- TEN_SEL
  ⟨0x104, 4, 1, 0, 0, 0, 0, 0x1FFFF, 0⟩, -- TEN_VIEW
  ⟨0x108, 4, 1, 0, 0, 0, 0, 0xFFFFFFFF, 0⟩, -- TEN_EPOCH
  ⟨0x200, 16, 16, 0, 0, 0, 0, 0xFFFF, 0⟩, -- TEN_LOG_PI
  ⟨0x204, 16, 16, 0xFFFF, 0, 0, 0, 0, 0⟩, -- TEN_LOG_CI
  ⟨0x208, 16, 16, 0, 0, 0, 0, 0xFFFFFFF, 0⟩, -- TEN_LOG_STAT
  ⟨0x20C, 16, 16, 0, 0, 0xFFFFFFFF, 0, 0, 0⟩] -- TEN_LOG_CNT

/-- Registers of the page kind `mbx` (spec/09_tenancy_and_mailboxes.md at R350). -/
def rows_mbx : List RegRow := [
  ⟨0x10, 4, 1, 0x7FF0003, 0, 0, 0, 0, 0⟩, -- PAGE_CTL
  ⟨0x14, 4, 1, 0, 0, 0, 0, 0x1, 0⟩, -- PAGE_STAT
  ⟨0x18, 4, 1, 0, 0, 0, 0xF, 0, 0⟩, -- PAGE_ERR
  ⟨0x100, 4, 1, 0x3FF, 0, 0, 0, 0, 0⟩, -- MBX_SEL
  ⟨0x104, 4, 1, 0, 0, 0, 0, 0, 0⟩, -- MBX_TX_SEND
  ⟨0x108, 4, 1, 0, 0, 0, 0x6, 0xFFFFFFF9, 0⟩, -- MBX_TX_STAT
  ⟨0x10C, 4, 1, 0, 0, 0, 0, 0xFFFFFFFF, 0⟩, -- MBX_RX_STAT
  ⟨0x110, 4, 1, 0, 0, 0, 0, 0xFFFFFFFF, 0⟩, -- MBX_RX_INFO
  ⟨0x114, 4, 1, 0, 0, 0, 0, 0, 0⟩, -- MBX_RX_ACK
  ⟨0x118, 4, 1, 0, 0, 0, 0, 0xFFFFFFFF, 0⟩, -- MBX_EPOCH
  ⟨0x140, 4, 16, 0xFFFFFFFF, 0, 0, 0, 0, 0⟩, -- MBX_TX_DATA
  ⟨0x180, 4, 16, 0, 0, 0, 0, 0xFFFFFFFF, 0⟩, -- MBX_RX_DATA
  ⟨0x200, 4, 32, 0, 0, 0, 0, 0xFFFFFFFF, 0⟩, -- MBX_PEND_MAP
  ⟨0x280, 4, 32, 0, 0, 0, 0, 0xFFFFFFFF, 0⟩, -- MBX_FULL_MAP
  ⟨0x300, 4, 32, 0, 0, 0, 0, 0xFFFFFFFF, 0⟩, -- MBX_LOST_MAP
  ⟨0x380, 4, 1, 0, 0, 0xFFFFFFFF, 0, 0, 0⟩, -- MBX_COLL_CNT
  ⟨0x384, 4, 1, 0, 0, 0xFFFFFFFF, 0, 0, 0⟩, -- MBX_LOST_CNT
  ⟨0x388, 4, 1, 0, 0, 0xFFFFFFFF, 0, 0, 0⟩, -- MBX_ORPHAN_CNT
  ⟨0x38C, 4, 1, 0, 0, 0xFFFFFFFF, 0, 0, 0⟩] -- MBX_DUP_CNT

/-- Registers of the page kind `sch` (spec/14_scheduling.md at R539). -/
def rows_sch : List RegRow := [
  ⟨0x10, 4, 1, 0, 0, 0, 0, 0, 0⟩, -- PAGE_CTL
  ⟨0x14, 4, 1, 0, 0, 0, 0, 0x1FFFF, 0⟩, -- PAGE_STAT
  ⟨0x18, 4, 1, 0, 0, 0, 0x3F, 0, 0⟩, -- PAGE_ERR
  ⟨0x100, 4, 1, 0, 0, 0, 0x80000000, 0xFFFFFF, 0⟩, -- SCH_ENTRY_ERR
  ⟨0x104, 4, 1, 0x3FFFF, 0, 0, 0, 0, 0⟩, -- SCH_SPILL_BASE
  ⟨0x108, 4, 1, 0xFFFF, 0, 0, 0, 0, 0⟩, -- SCH_SPILL_SLOT
  ⟨0x10C, 4, 1, 0x7FFF, 0, 0, 0, 0, 0⟩, -- SCH_NODE_SEL
  ⟨0x110, 4, 1, 0, 0, 0, 0, 0xFFFFFFFF, 0⟩, -- SCH_NODE_VT
  ⟨0x114, 4, 1, 0, 0, 0, 0, 0xFFFFFF, 0⟩, -- SCH_SPILL_USE
  ⟨0x118, 4, 1, 0, 0, 0, 0, 0x1FFFF, 0⟩, -- SCH_FREE_CELLS
  ⟨0x140, 4, 1, 0, 0, 0xFFFFFFFF, 0, 0, 0⟩, -- SCH_NOBUF_DROP
  ⟨0x144, 4, 1, 0, 0, 0xFFFFFFFF, 0, 0, 0⟩, -- SCH_RXQ_DROP
  ⟨0x148, 4, 1, 0, 0, 0xFFFFFFFF, 0, 0, 0⟩, -- SCH_RXBUF_DROP
  ⟨0x14C, 4, 1, 0, 0, 0xFFFFFFFF, 0, 0, 0⟩, -- SCH_RXQ_GONE
  ⟨0x150, 4, 1, 0, 0, 0xFFFFFFFF, 0, 0, 0⟩, -- SCH_SPILLED
  ⟨0x154, 4, 1, 0, 0, 0xFFFFFFFF, 0, 0, 0⟩, -- SCH_SPILL_DROP
  ⟨0x158, 4, 1, 0, 0, 0xFFFFFFFF, 0, 0, 0⟩, -- SCH_POLICE_DROP
  ⟨0x200, 4, 56, 0, 0, 0xFFFFFFFF, 0, 0, 0⟩] -- SCH_CLASS_DROP

/-- Registers of the page kind `crt` (spec/16_carlis.md at R620). -/
def rows_crt : List RegRow := [
  ⟨0x10, 4, 1, 0x7FF0001, 0, 0, 0, 0, 0⟩, -- PAGE_CTL
  ⟨0x14, 4, 1, 0, 0, 0, 0, 0x7, 0⟩, -- PAGE_STAT
  ⟨0x18, 4, 1, 0, 0, 0, 0xFF, 0, 0⟩, -- PAGE_ERR
  ⟨0x100, 4, 1, 0xFFFFFFFF, 0, 0, 0, 0, 0⟩, -- CRT_NODE_ID
  ⟨0x104, 4, 1, 0xFFFFFFFF, 0, 0, 0, 0, 0⟩, -- CRT_INCARN
  ⟨0x108, 4, 1, 0xFFFF, 0, 0, 0, 0, 0xA2F0⟩, -- CRT_UDP_PORT
  ⟨0x10C, 4, 1, 0x1FFFF, 0, 0, 0, 0, 0x2000⟩, -- CRT_CELL_LIMIT
  ⟨0x110, 4, 1, 0, 0, 0, 0, 0x1FFFF, 0⟩, -- CRT_CELLS
  ⟨0x114, 4, 1, 0, 0, 0, 0, 0xFFFFFFFF, 0⟩, -- CRT_SESSION_CTR
  ⟨0x200, 64, 4, 0x3FFF0777, 0, 0, 0, 0, 0⟩, -- PEER_CTL
  ⟨0x204, 64, 4, 0xFFFFFFFF, 0, 0, 0, 0, 0⟩, -- PEER_NODE
  ⟨0x208, 64, 4, 0xFFFF, 0, 0, 0, 0, 0⟩, -- PEER_VLAN
  ⟨0x20C, 64, 4, 0xFFFFFFFF, 0, 0, 0, 0, 0⟩, -- PEER_MAC_LO
  ⟨0x210, 64, 4, 0xFFFFFFFF, 0, 0, 0, 0, 0⟩, -- PEER_MAC_HI
  ⟨0x214, 64, 4, 0xFFFFFFFF, 0, 0, 0, 0, 0⟩, -- PEER_LOCAL_IP0
  ⟨0x218, 64, 4, 0xFFFFFFFF, 0, 0, 0, 0, 0⟩, -- PEER_LOCAL_IP1
  ⟨0x21C, 64, 4, 0xFFFFFFFF, 0, 0, 0, 0, 0⟩, -- PEER_LOCAL_IP2
  ⟨0x220, 64, 4, 0xFFFFFFFF, 0, 0, 0, 0, 0⟩, -- PEER_LOCAL_IP3
  ⟨0x224, 64, 4, 0xFFFFFFFF, 0, 0, 0, 0, 0⟩, -- PEER_REMOTE_IP0
  ⟨0x228, 64, 4, 0xFFFFFFFF, 0, 0, 0, 0, 0⟩, -- PEER_REMOTE_IP1
  ⟨0x22C, 64, 4, 0xFFFFFFFF, 0, 0, 0, 0, 0⟩, -- PEER_REMOTE_IP2
  ⟨0x230, 64, 4, 0xFFFFFFFF, 0, 0, 0, 0, 0⟩, -- PEER_REMOTE_IP3
  ⟨0x234, 64, 4, 0, 0, 0, 0, 0xFFFFFFFF, 0⟩, -- PEER_INCARN
  ⟨0x300, 4, 1, 0xFF, 0, 0, 0, 0, 0⟩, -- CRT_CH_SEL
  ⟨0x304, 4, 1, 0x3FFF37FF, 0, 0, 0, 0, 0⟩, -- CRT_CH_CFG0
  ⟨0x308, 4, 1, 0x1F1F03FF, 0, 0, 0, 0, 0⟩, -- CRT_CH_CFG1
  ⟨0x30C, 4, 1, 0xFFFFF, 0, 0, 0, 0, 0⟩, -- CRT_CH_CFG2
  ⟨0x310, 4, 1, 0, 0, 0, 0, 0x7FFF, 0⟩, -- CRT_CH_STATE
  ⟨0x314, 4, 1, 0, 0, 0, 0, 0xFFFFFFFF, 0⟩, -- CRT_CH_SND_UNA
  ⟨0x318, 4, 1, 0, 0, 0, 0, 0xFFFFFFFF, 0⟩, -- CRT_CH_SND_NEXT
  ⟨0x31C, 4, 1, 0, 0, 0, 0, 0xFFFFFFFF, 0⟩, -- CRT_CH_RCV_NEXT
  ⟨0x320, 4, 1, 0, 0, 0, 0, 0xFFFFFFFF, 0⟩, -- CRT_CH_COMMITS
  ⟨0x324, 4, 1, 0, 0, 0, 0, 0xFFFFFFFF, 0⟩, -- CRT_CH_SESSION
  ⟨0x380, 4, 1, 0x3F, 0, 0, 0, 0, 0⟩, -- CRT_WIN_SEL
  ⟨0x384, 4, 1, 0xFFFF03, 0, 0, 0, 0, 0⟩, -- CRT_WIN_CTL
  ⟨0x388, 4, 1, 0xFFFFFFFF, 0, 0, 0, 0, 0⟩, -- CRT_WIN_BASE_LO
  ⟨0x38C, 4, 1, 0x3F, 0, 0, 0, 0, 0⟩, -- CRT_WIN_BASE_HI
  ⟨0x390, 4, 1, 0xFFFFFFFF, 0, 0, 0, 0, 0⟩, -- CRT_WIN_SIZE_LO
  ⟨0x394, 4, 1, 0x7F, 0, 0, 0, 0, 0⟩, -- CRT_WIN_SIZE_HI
  ⟨0x398, 4, 1, 0, 0, 0, 0, 0xFFFF0001, 0⟩, -- CRT_WIN_STAT
  ⟨0x400, 4, 8, 0, 0, 0, 0xFFFFFFFF, 0, 0⟩, -- CRT_COMMIT_MAP
  ⟨0x420, 4, 8, 0, 0, 0, 0, 0xFFFFFFFF, 0⟩, -- CRT_SILENT_MAP
  ⟨0x480, 4, 1, 0, 0, 0xFFFFFFFF, 0, 0, 0⟩, -- CRT_TX_MSG
  ⟨0x484, 4, 1, 0, 0, 0xFFFFFFFF, 0, 0, 0⟩, -- CRT_RX_MSG
  ⟨0x488, 4, 1, 0, 0, 0xFFFFFFFF, 0, 0, 0⟩, -- CRT_RETX
  ⟨0x48C, 4, 1, 0, 0, 0xFFFFFFFF, 0, 0, 0⟩, -- CRT_DUP
  ⟨0x490, 4, 1, 0, 0, 0xFFFFFFFF, 0, 0, 0⟩, -- CRT_OOO
  ⟨0x494, 4, 1, 0, 0, 0xFFFFFFFF, 0, 0, 0⟩, -- CRT_REFUSE_TX
  ⟨0x498, 4, 1, 0, 0, 0xFFFFFFFF, 0, 0, 0⟩, -- CRT_REFUSE_RX
  ⟨0x49C, 4, 1, 0, 0, 0xFFFFFFFF, 0, 0, 0⟩, -- CRT_RST_TX
  ⟨0x4A0, 4, 1, 0, 0, 0xFFFFFFFF, 0, 0, 0⟩, -- CRT_RST_RX
  ⟨0x4A4, 4, 1, 0, 0, 0xFFFFFFFF, 0, 0, 0⟩, -- CRT_UNKNOWN
  ⟨0x4A8, 4, 1, 0, 0, 0xFFFFFFFF, 0, 0, 0⟩, -- CRT_MALFORMED
  ⟨0x4AC, 4, 1, 0, 0, 0xFFFFFFFF, 0, 0, 0⟩, -- CRT_POISON_CHUNK
  ⟨0x4B0, 4, 1, 0, 0, 0xFFFFFFFF, 0, 0, 0⟩] -- CRT_LOST_ENTRY

/-- Registers of the page kind `slPip` (spec/12_pipeline.md at R470). -/
def rows_slPip : List RegRow := [
  ⟨0x10, 4, 1, 0, 0, 0, 0, 0, 0⟩, -- PAGE_CTL
  ⟨0x14, 4, 1, 0, 0, 0, 0, 0x3FF, 0⟩, -- PAGE_STAT
  ⟨0x18, 4, 1, 0, 0, 0, 0x7F, 0, 0⟩, -- PAGE_ERR
  ⟨0x100, 4, 1, 0, 0, 0xFFFFFFFF, 0, 0, 0⟩, -- PIP_HDR_CNT
  ⟨0x104, 4, 1, 0, 0, 0xFFFFFFFF, 0, 0, 0⟩, -- PIP_CT_CNT
  ⟨0x108, 4, 1, 0, 0, 0xFFFFFFFF, 0, 0, 0⟩, -- PIP_SF_CNT
  ⟨0x10C, 4, 1, 0, 0, 0xFFFFFFFF, 0, 0, 0⟩, -- PIP_COPY_DROP
  ⟨0x110, 4, 1, 0, 0, 0xFFFFFFFF, 0, 0, 0⟩, -- PIP_POISON_DROP
  ⟨0x114, 4, 1, 0, 0, 0xFFFFFFFF, 0, 0, 0⟩, -- PIP_LEN_MISMATCH
  ⟨0x118, 4, 1, 0, 0, 0xFFFFFFFF, 0, 0, 0⟩, -- PIP_TRAP_CNT
  ⟨0x11C, 4, 1, 0, 0, 0xFFFFFFFF, 0, 0, 0⟩, -- PIP_REENTRY_CNT
  ⟨0x120, 4, 1, 0, 0, 0xFFFFFFFF, 0, 0, 0⟩, -- PIP_MIRROR_CNT
  ⟨0x124, 4, 1, 0, 0, 0, 0x80000000, 0x3FFFFF, 0⟩, -- PIP_LAST_EXC
  ⟨0x140, 4, 10, 0, 0, 0xFFFFFFFF, 0, 0, 0⟩, -- PIP_EXC_CNT
  ⟨0x180, 4, 16, 0, 0, 0xFFFFFFFF, 0, 0, 0⟩] -- PIP_DROP_CNT

/-- Registers of the page kind `slTbl` (spec/13_forwarding_tables.md at R508). -/
def rows_slTbl : List RegRow := [
  ⟨0x10, 4, 1, 0x3, 0, 0, 0, 0, 0⟩, -- PAGE_CTL
  ⟨0x14, 4, 1, 0, 0, 0, 0, 0x1FFFFF, 0⟩, -- PAGE_STAT
  ⟨0x18, 4, 1, 0, 0, 0, 0x3FF, 0, 0⟩, -- PAGE_ERR
  ⟨0x100, 4, 1, 0, 0, 0, 0, 0x3, 0⟩, -- TBL_BULK_LOCK
  ⟨0x104, 4, 1, 0xFFFFFFFF, 0, 0, 0, 0, 0xFFFFFFFF⟩, -- TBL_SEED_A
  ⟨0x108, 4, 1, 0xFFFFFFFF, 0, 0, 0, 0, 0xFFFFFFFF⟩, -- TBL_SEED_B
  ⟨0x10C, 4, 1, 0xFFFFFFFF, 0, 0, 0, 0, 0⟩, -- TBL_LEARN_CFG
  ⟨0x110, 4, 1, 0x7FFFF, 0, 0, 0, 0, 0x40000⟩, -- TBL_LIMIT_PORT
  ⟨0x114, 4, 1, 0x7FFFF, 0, 0, 0, 0, 0x100⟩, -- TBL_LIMIT_FN
  ⟨0x118, 4, 1, 0x3F, 0, 0, 0, 0, 0x10⟩, -- TBL_DAMP
  ⟨0x11C, 4, 1, 0xFFFF, 0, 0, 0, 0, 0x12C⟩, -- TBL_AGE
  ⟨0x120, 4, 1, 0, 0, 0, 0, 0x7FFFF, 0⟩, -- TBL_EMT_COUNT
  ⟨0x124, 4, 1, 0, 0, 0, 0, 0x7FFFF, 0⟩, -- TBL_LEARNED_COUNT
  ⟨0x128, 4, 1, 0, 0, 0, 0, 0x7FFF, 0⟩, -- TBL_LPM_COUNT
  ⟨0x12C, 4, 1, 0, 0, 0, 0, 0xFFFFFFFF, 0⟩, -- TBL_RELOC_GEN
  ⟨0x130, 4, 1, 0, 0, 0, 0, 0x3, 0⟩, -- TBL_VICTIM
  ⟨0x134, 4, 1, 0, 0, 0, 0, 0x7F, 0⟩, -- TBL_STASH_MAX
  ⟨0x138, 4, 1, 0, 0, 0, 0x80000000, 0x7FFFF, 0⟩, -- TBL_FREEZE_INFO
  ⟨0x140, 4, 1, 0, 0, 0xFFFFFFFF, 0, 0, 0⟩, -- TBL_LEARN_CNT
  ⟨0x144, 4, 1, 0, 0, 0xFFFFFFFF, 0, 0, 0⟩, -- TBL_MOVE_CNT
  ⟨0x148, 4, 1, 0, 0, 0xFFFFFFFF, 0, 0, 0⟩, -- TBL_FREEZE_CNT
  ⟨0x14C, 4, 1, 0, 0, 0xFFFFFFFF, 0, 0, 0⟩, -- TBL_FROZEN_HIT
  ⟨0x150, 4, 1, 0, 0, 0xFFFFFFFF, 0, 0, 0⟩, -- TBL_AGED_CNT
  ⟨0x154, 4, 1, 0, 0, 0xFFFFFFFF, 0, 0, 0⟩, -- TBL_LEARN_DROP
  ⟨0x158, 4, 1, 0, 0, 0xFFFFFFFF, 0, 0, 0⟩, -- TBL_LIMIT_DROP
  ⟨0x15C, 4, 1, 0, 0, 0xFFFFFFFF, 0, 0, 0⟩, -- TBL_FULL_CNT
  ⟨0x160, 4, 1, 0, 0, 0xFFFFFFFF, 0, 0, 0⟩, -- TBL_POISON_CNT
  ⟨0x164, 4, 1, 0, 0, 0xFFFFFFFF, 0, 0, 0⟩, -- TBL_RELOC_CNT
  ⟨0x168, 4, 1, 0, 0, 0xFFFFFFFF, 0, 0, 0⟩, -- TBL_DRAIN_CNT
  ⟨0x200, 4, 10, 0xFFFFFFFF, 0, 0, 0, 0, 0⟩, -- TBL_REQ
  ⟨0x240, 4, 10, 0, 0, 0, 0, 0xFFFFFFFF, 0⟩] -- TBL_RSP

/-- Registers of the page kind `slSch` (spec/14_scheduling.md at R540). -/
def rows_slSch : List RegRow := [
  ⟨0x10, 4, 1, 0, 0, 0, 0, 0, 0⟩, -- PAGE_CTL
  ⟨0x14, 4, 1, 0, 0, 0, 0, 0x7F, 0⟩, -- PAGE_STAT
  ⟨0x18, 4, 1, 0, 0, 0, 0x3, 0, 0⟩, -- PAGE_ERR
  ⟨0x100, 4, 7, 0, 0, 0xFFFFFFFF, 0, 0, 0⟩, -- SCH_SEL_CNT
  ⟨0x120, 4, 7, 0, 0, 0xFFFFFFFF, 0, 0, 0⟩, -- SCH_CREDIT_WAIT
  ⟨0x140, 4, 1, 0, 0, 0xFFFFFFFF, 0, 0, 0⟩] -- SCH_ADMIT_CNT

/-- Registers of the page kind `slCip` (spec/15_cipher.md at R577). -/
def rows_slCip : List RegRow := [
  ⟨0x10, 4, 1, 0, 0, 0, 0, 0, 0⟩, -- PAGE_CTL
  ⟨0x14, 4, 1, 0, 0, 0, 0, 0x3FF7FFF, 0⟩, -- PAGE_STAT
  ⟨0x18, 4, 1, 0, 0, 0, 0x7FF, 0, 0⟩, -- PAGE_ERR
  ⟨0x100, 4, 8, 0x7FFF, 0, 0, 0, 0, 0x800⟩, -- CIP_HOLD_LIMIT
  ⟨0x120, 4, 8, 0x1FFFF, 0, 0, 0, 0, 0x1000⟩, -- CIP_WAIT_LIMIT
  ⟨0x140, 4, 1, 0, 0, 0, 0, 0x7FFF, 0⟩, -- CIP_HOLD_MAX
  ⟨0x144, 4, 1, 0, 0, 0, 0, 0xFFFF, 0⟩, -- CIP_KEY_VALID
  ⟨0x148, 4, 1, 0, 0, 0xFFFFFFFF, 0, 0, 0⟩, -- CIP_KDF_CNT
  ⟨0x14C, 4, 1, 0, 0, 0xFFFFFFFF, 0, 0, 0⟩, -- CIP_KEY_MISS
  ⟨0x150, 4, 1, 0, 0, 0xFFFFFFFF, 0, 0, 0⟩, -- CIP_BLOCKS
  ⟨0x180, 4, 12, 0, 0, 0xFFFFFFFF, 0, 0, 0⟩] -- CIP_CNT

/-- Registers of the page kind `slCrt` (spec/16_carlis.md at R622). -/
def rows_slCrt : List RegRow := [
  ⟨0x10, 4, 1, 0, 0, 0, 0, 0, 0⟩, -- PAGE_CTL
  ⟨0x14, 4, 1, 0, 0, 0, 0, 0x1FF, 0⟩, -- PAGE_STAT
  ⟨0x18, 4, 1, 0, 0, 0, 0x3, 0, 0⟩, -- PAGE_ERR
  ⟨0x100, 4, 1, 0, 0, 0xFFFFFFFF, 0, 0, 0⟩, -- CRT_BUILT
  ⟨0x104, 4, 1, 0, 0, 0xFFFFFFFF, 0, 0, 0⟩, -- CRT_APPLIED
  ⟨0x108, 4, 1, 0, 0, 0xFFFFFFFF, 0, 0, 0⟩] -- CRT_CREDIT_WAIT

/-- Registers of the page kind `slQmg` (spec/07_work_queues.md at R310). -/
def rows_slQmg : List RegRow := [
  ⟨0x10, 4, 1, 0, 0, 0, 0, 0, 0⟩, -- PAGE_CTL
  ⟨0x14, 4, 1, 0, 0, 0, 0, 0x3FFFFFF, 0⟩, -- PAGE_STAT
  ⟨0x18, 4, 1, 0, 0, 0, 0x3, 0, 0⟩, -- PAGE_ERR
  ⟨0x100, 4, 1, 0, 0, 0xFFFFFFFF, 0, 0, 0⟩, -- QMG_FETCH0
  ⟨0x104, 4, 1, 0, 0, 0xFFFFFFFF, 0, 0, 0⟩, -- QMG_FETCH1
  ⟨0x108, 4, 1, 0, 0, 0xFFFFFFFF, 0, 0, 0⟩, -- QMG_FETCH2
  ⟨0x10C, 4, 1, 0, 0, 0xFFFFFFFF, 0, 0, 0⟩, -- QMG_CPL_WR
  ⟨0x110, 4, 1, 0, 0, 0xFFFFFFFF, 0, 0, 0⟩, -- QMG_REFETCH
  ⟨0x114, 4, 1, 0, 0, 0xFFFFFFFF, 0, 0, 0⟩] -- QMG_RESUMED

/-- Registers of the page kind `slDma` (spec/08_dma_engine.md at R343). -/
def rows_slDma : List RegRow := [
  ⟨0x10, 4, 1, 0, 0, 0, 0, 0, 0⟩, -- PAGE_CTL
  ⟨0x14, 4, 1, 0, 0, 0, 0, 0x1, 0⟩, -- PAGE_STAT
  ⟨0x18, 4, 1, 0, 0, 0, 0x3, 0, 0⟩, -- PAGE_ERR
  ⟨0x100, 4, 1, 0, 0, 0xFFFFFFFF, 0, 0, 0⟩, -- DMA_BEATS0
  ⟨0x104, 4, 1, 0, 0, 0xFFFFFFFF, 0, 0, 0⟩, -- DMA_BEATS1
  ⟨0x108, 4, 1, 0, 0, 0xFFFFFFFF, 0, 0, 0⟩, -- DMA_BEATS2
  ⟨0x10C, 4, 1, 0, 0, 0, 0, 0x3FF, 0⟩, -- DMA_TAGS
  ⟨0x110, 4, 1, 0, 0, 0xFFFFFFFF, 0, 0, 0⟩] -- DMA_PACE_WAIT

/-- Registers of the page kind `slRed` (spec/18_redundancy.md at R681). -/
def rows_slRed : List RegRow := [
  ⟨0x10, 4, 1, 0, 0, 0, 0, 0, 0⟩, -- PAGE_CTL
  ⟨0x14, 4, 1, 0, 0, 0, 0, 0x7, 0⟩, -- PAGE_STAT
  ⟨0x18, 4, 1, 0, 0, 0, 0x1F, 0, 0⟩, -- PAGE_ERR
  ⟨0x100, 4, 1, 0, 0, 0xFFFFFFFF, 0, 0, 0⟩, -- ST_PASS_CNT
  ⟨0x104, 4, 1, 0, 0, 0, 0, 0xFFFF, 0⟩, -- ST_LAST_PASS
  ⟨0x108, 4, 1, 0, 0, 0xFFFFFFFF, 0, 0, 0⟩, -- ST_CHECK_CNT
  ⟨0x10C, 4, 1, 0, 0, 0, 0x80000000, 0xFFF, 0⟩] -- ST_FAIL_INFO

/-- Registers of the page kind `cus` (spec/19_alarm_and_custody.md at R701). -/
def rows_cus : List RegRow := [
  ⟨0x10, 4, 1, 0x7, 0, 0, 0, 0, 0⟩, -- PAGE_CTL
  ⟨0x14, 4, 1, 0, 0, 0, 0, 0x1F, 0⟩, -- PAGE_STAT
  ⟨0x18, 4, 1, 0, 0, 0, 0x3F, 0, 0⟩, -- PAGE_ERR
  ⟨0x100, 4, 1, 0, 0, 0, 0, 0xFFFF, 0⟩, -- CUS_SLOT_MAP
  ⟨0x104, 4, 1, 0xF3FF, 0, 0, 0, 0, 0⟩, -- CUS_ALM_POLICY
  ⟨0x108, 4, 1, 0, 0, 0xFFFFFFFF, 0, 0, 0⟩, -- CUS_INTEGRITY_CNT
  ⟨0x10C, 4, 1, 0, 0, 0, 0, 0xFFFFFFFF, 0⟩, -- CUS_VKEEP_SEC
  ⟨0x110, 4, 1, 0, 0, 0, 0, 0xFFFFFFFF, 0⟩, -- CUS_TREC0
  ⟨0x114, 4, 1, 0, 0, 0, 0, 0xFFFFFFFF, 0⟩, -- CUS_TREC1
  ⟨0x118, 4, 1, 0, 0, 0, 0, 0xFFFFFFFF, 0⟩, -- CUS_TREC2
  ⟨0x11C, 4, 1, 0, 0, 0, 0, 0xFFFFFFFF, 0⟩, -- CUS_TREC3
  ⟨0x120, 4, 1, 0, 0, 0, 0, 0x3, 0⟩, -- CUS_TREC4
  ⟨0x700, 4, 1, 0, 0, 0, 0, 0, 0⟩, -- CUS_DB_WQ
  ⟨0x704, 4, 1, 0, 0, 0, 0, 0, 0⟩] -- CUS_DB_CR

/-- Registers of the page kind `cch` (spec/09_tenancy_and_mailboxes.md at R361). -/
def rows_cch : List RegRow := [
  ⟨0, 4, 1, 0, 0, 0, 0, 0xFFFF0001, 0⟩, -- CCH_STATE
  ⟨0x4, 4, 1, 0, 0, 0, 0, 0x1FFFF, 0⟩, -- CCH_LAST
  ⟨0x8, 4, 1, 0, 0, 0, 0x3, 0, 0⟩, -- CCH_ERR
  ⟨0x30, 4, 1, 0, 0, 0, 0, 0, 0⟩, -- PAGE_CMD
  ⟨0x34, 4, 3, 0xFFFFFFFF, 0, 0, 0, 0, 0⟩, -- CMD_ARG
  ⟨0x40, 4, 1, 0, 0, 0, 0, 0xFFFFFFFF, 0⟩, -- CMD_RESULT
  ⟨0x44, 4, 3, 0, 0, 0, 0, 0xFFFFFFFF, 0⟩, -- CMD_OUT
  ⟨0x100, 4, 16, 0xFFFFFFFF, 0, 0, 0, 0, 0⟩, -- CCH_REQ
  ⟨0x180, 4, 16, 0, 0, 0, 0, 0xFFFFFFFF, 0⟩] -- CCH_RSP

/-- Registers of the page kind `vfStat` (spec/09_tenancy_and_mailboxes.md at R347). -/
def rows_vfStat : List RegRow := [
  ⟨0, 4, 1, 0, 0, 0, 0, 0x7FF03FF, 0⟩, -- VF_ID
  ⟨0x4, 4, 1, 0, 0, 0, 0, 0x3, 0⟩, -- VF_STAT
  ⟨0x8, 4, 1, 0, 0, 0, 0x7, 0, 0⟩, -- VF_ERR
  ⟨0xC, 4, 1, 0, 0, 0, 0x80000000, 0x1FFFF, 0⟩, -- VF_ERR_ADDR
  ⟨0x10, 4, 1, 0, 0, 0, 0, 0xFFFFFFFF, 0⟩, -- VF_EPOCH
  ⟨0x14, 4, 1, 0xFFFFFFFF, 0, 0, 0, 0, 0⟩] -- VF_SCRATCH

/-- Registers of the page kind `tenCip` (spec/15_cipher.md at R549). -/
def rows_tenCip : List RegRow := [
  ⟨0, 4, 1, 0, 0, 0, 0, 0x3FF, 0⟩, -- CP_ID
  ⟨0x4, 4, 1, 0xFFFF, 0, 0, 0, 0, 0⟩, -- CP_SLOTS
  ⟨0x8, 4, 1, 0xF, 0, 0, 0, 0, 0⟩, -- CP_CTL
  ⟨0xC, 4, 1, 0, 0, 0, 0, 0x3, 0⟩, -- CP_STAT
  ⟨0x10, 4, 1, 0, 0, 0, 0x7, 0, 0⟩, -- CP_ERR
  ⟨0x14, 4, 1, 0, 0, 0, 0x80000000, 0xFF1F, 0⟩, -- CP_SA_ERR
  ⟨0x18, 4, 1, 0, 0, 0, 0, 0xFFFFFFFF, 0⟩, -- CP_PN_NEAR
  ⟨0x1C, 4, 1, 0, 0, 0, 0, 0xFFFFFFFF, 0⟩, -- CP_EXHAUSTED
  ⟨0x100, 4, 12, 0, 0, 0, 0, 0xFFFFFFFF, 0⟩, -- CP_CNT
  ⟨0x800, 4, 512, 0xFFFFFFFF, 0, 0, 0, 0, 0⟩] -- CP_SA

/-- Registers of the page kind `vfMbx` (spec/09_tenancy_and_mailboxes.md at R349). -/
def rows_vfMbx : List RegRow := [
  ⟨0, 4, 16, 0xFFFFFFFF, 0, 0, 0, 0, 0⟩, -- MB_TX_DATA
  ⟨0x40, 4, 1, 0, 0, 0, 0, 0, 0⟩, -- MB_TX_SEND
  ⟨0x44, 4, 1, 0, 0, 0, 0x6, 0xFFFFFF01, 0⟩, -- MB_TX_STAT
  ⟨0x80, 4, 16, 0, 0, 0, 0, 0xFFFFFFFF, 0⟩, -- MB_RX_DATA
  ⟨0xC0, 4, 1, 0, 0, 0, 0, 0xFFFF0007, 0⟩, -- MB_RX_STAT
  ⟨0xC4, 4, 1, 0, 0, 0, 0, 0xFFFFFFFF, 0⟩, -- MB_RX_INFO
  ⟨0xC8, 4, 1, 0, 0, 0, 0, 0, 0⟩, -- MB_RX_ACK
  ⟨0xD0, 4, 1, 0x1F, 0, 0, 0, 0, 0x2⟩] -- MB_CTL

/-- Registers of the page kind `vfQv` (spec/07_work_queues.md at R310, spec/07_work_queues.md at R311). -/
def rows_vfQv : List RegRow := [
  ⟨0, 4, 1, 0, 0, 0, 0, 0x7FFFFF01, 0⟩, -- QV_HALT
  ⟨0x4, 4, 1, 0, 0, 0xFFFFFFFF, 0, 0, 0⟩, -- QV_DB_REFUSED
  ⟨0x8, 4, 1, 0, 0, 0xFFFFFFFF, 0, 0, 0⟩, -- QV_DB_STALE
  ⟨0x100, 16, 64, 0, 0, 0, 0, 0x1FFBFFF, 0⟩, -- QV_Q_CFG
  ⟨0x104, 16, 64, 0, 0, 0, 0, 0xFFFFFFFF, 0⟩, -- QV_Q_WQ
  ⟨0x108, 16, 64, 0, 0, 0, 0, 0xFFFFFFFF, 0⟩, -- QV_Q_CR
  ⟨0x10C, 16, 64, 0, 0, 0, 0, 0x3FF, 0⟩] -- QV_Q_STATE

/-- Registers of the page kind `common` (spec/04_register_model.md at R153). -/
def rows_common : List RegRow := [
  ⟨0, 4, 1, 0, 0, 0, 0, 0xFFFFFFFF, 0⟩, -- PAGE_ID
  ⟨0x4, 4, 1, 0, 0, 0, 0, 0xFFFFFFFF, 0x1⟩, -- PAGE_REV
  ⟨0x8, 4, 1, 0, 0, 0, 0, 0xFFFFFFFF, 0⟩, -- PAGE_CAP
  ⟨0xC, 4, 1, 0xFFFFFFFF, 0, 0, 0, 0, 0⟩, -- PAGE_SCRATCH
  ⟨0x10, 4, 1, 0xFFFFFFFF, 0, 0, 0, 0, 0⟩, -- PAGE_CTL
  ⟨0x14, 4, 1, 0, 0, 0, 0, 0xFFFFFFFF, 0⟩, -- PAGE_STAT
  ⟨0x18, 4, 1, 0, 0, 0, 0xFFFFFFFF, 0, 0⟩, -- PAGE_ERR
  ⟨0x1C, 4, 1, 0xFFFFFFFF, 0, 0, 0, 0, 0⟩, -- PAGE_ERR_MASK
  ⟨0x20, 4, 1, 0, 0, 0, 0, 0, 0⟩, -- PAGE_ERR_FORCE
  ⟨0x24, 4, 1, 0, 0, 0, 0x80000000, 0x7FFFFFFF, 0⟩, -- PAGE_ERR_FIRST
  ⟨0x30, 4, 1, 0, 0, 0, 0, 0, 0⟩, -- PAGE_CMD
  ⟨0x34, 4, 3, 0xFFFFFFFF, 0, 0, 0, 0, 0⟩, -- CMD_ARG
  ⟨0x40, 4, 1, 0, 0, 0, 0, 0xFFFFFFFF, 0⟩, -- CMD_RESULT
  ⟨0x44, 4, 3, 0, 0, 0, 0, 0xFFFFFFFF, 0⟩, -- CMD_OUT
  ⟨0x80, 4, 32, 0xFFFFFFFF, 0, 0, 0, 0, 0⟩] -- EVT_SEL

/-- The rows of a page kind. A slice's event-counter page has the shared page's layout (R732). -/
def regRows : PageKind → List RegRow
  | .sys => rows_sys
  | .tck => rows_tck
  | .tms => rows_tms
  | .pwr => rows_pwr
  | .red => rows_red
  | .alm => rows_alm
  | .evc => rows_evc
  | .hif0 => rows_hif0
  | .hif1 => rows_hif1
  | .hifN => rows_hifN
  | .mem => rows_mem
  | .ecc => rows_ecc
  | .mac => rows_mac
  | .cbp => rows_cbp
  | .pcs => rows_pcs
  | .qmg => rows_qmg
  | .dma => rows_dma
  | .ten => rows_ten
  | .mbx => rows_mbx
  | .sch => rows_sch
  | .crt => rows_crt
  | .slPip => rows_slPip
  | .slTbl => rows_slTbl
  | .slSch => rows_slSch
  | .slCip => rows_slCip
  | .slCrt => rows_slCrt
  | .slEvc => rows_evc
  | .slQmg => rows_slQmg
  | .slDma => rows_slDma
  | .slRed => rows_slRed
  | .cus => rows_cus
  | .cch => rows_cch
  | .vfStat => rows_vfStat
  | .vfDb => rows_vfDb
  | .tenCip => rows_tenCip
  | .vfMbx => rows_vfMbx
  | .vfQv => rows_vfQv
  | .common => rows_common

/-- Does a row hold offset `off`? -/
def RegRow.has (r : RegRow) (off : Nat) : Bool :=
  r.off ≤ off && (off - r.off) % r.stride == 0 && (off - r.off) / r.stride < r.count

/-- The row of an offset, if the page's own chapter defines it. -/
def findRow (off : Nat) : List RegRow → Option RegRow
  | [] => none
  | r :: t => if r.has off then some r else findRow off t

/-! The registers by name: each is its offset within its page (the first one, where it repeats). -/

abbrev Reg.TMS_TIME_NS : Nat := 0x100
abbrev Reg.TMS_TIME_SEC_LO : Nat := 0x104
abbrev Reg.TMS_TIME_SEC_HI : Nat := 0x108
abbrev Reg.TMS_TIME_FRAC : Nat := 0x10C
abbrev Reg.TMS_FREQ_ADJ : Nat := 0x110
abbrev Reg.TMS_PPS_OUT_WIDTH : Nat := 0x114
abbrev Reg.TMS_PPS_IN_LO : Nat := 0x118
abbrev Reg.TMS_PPS_IN_HI : Nat := 0x11C
abbrev Reg.TMS_PPS_IN_CNT : Nat := 0x120
abbrev Reg.TCK_PERIOD : Nat := 0x100
abbrev Reg.TCK_LOCK_LIMIT : Nat := 0x104
abbrev Reg.TCK_COUNT_LO : Nat := 0x108
abbrev Reg.TCK_COUNT_HI : Nat := 0x10C
abbrev Reg.TCK_STAMP : Nat := 0x110
abbrev Reg.TCK_PHASE : Nat := 0x114
abbrev Reg.TCK_SLIP_INS : Nat := 0x118
abbrev Reg.TCK_SLIP_REM : Nat := 0x11C
abbrev Reg.TCK_REALIGN_CNT : Nat := 0x120
abbrev Reg.TCK_VOTE_CNT : Nat := 0x124
abbrev Reg.TCK_LAST_OLD_LO : Nat := 0x128
abbrev Reg.TCK_LAST_OLD_HI : Nat := 0x12C
abbrev Reg.TCK_LAST_NEW_LO : Nat := 0x130
abbrev Reg.TCK_LAST_NEW_HI : Nat := 0x134
abbrev Reg.TCK_PLAN_INDEX : Nat := 0x138
abbrev Reg.TCK_PLAN_DATA : Nat := 0x13C
abbrev Reg.TCK_NET_RESERVE : Nat := 0x140
abbrev Reg.TCK_ARM_TICK_LO : Nat := 0x144
abbrev Reg.TCK_ARM_TICK_HI : Nat := 0x148
abbrev Reg.TCK_OVERRUN_SRC : Nat := 0x14C
abbrev Reg.PWR_ENVELOPE : Nat := 0x100
abbrev Reg.PWR_ENVELOPE_SHED : Nat := 0x104
abbrev Reg.PWR_RAMP : Nat := 0x108
abbrev Reg.PWR_EFFECTIVE : Nat := 0x10C
abbrev Reg.PWR_FLOOR : Nat := 0x110
abbrev Reg.PWR_STANDING : Nat := 0x114
abbrev Reg.PWR_BUDGET : Nat := 0x118
abbrev Reg.PWR_GRANTED : Nat := 0x11C
abbrev Reg.PWR_SPENT : Nat := 0x120
abbrev Reg.PWR_BINDING_CNT : Nat := 0x124
abbrev Reg.PWR_MISMATCH_CNT : Nat := 0x128
abbrev Reg.PWR_ENERGY_LO : Nat := 0x12C
abbrev Reg.PWR_ENERGY_HI : Nat := 0x130
abbrev Reg.PWR_COEF_INDEX : Nat := 0x134
abbrev Reg.PWR_COEF_DATA : Nat := 0x138
abbrev Reg.PWR_LIMIT_PRIO : Nat := 0x13C
abbrev Reg.PAGE_ID : Nat := 0
abbrev Reg.PAGE_REV : Nat := 0x4
abbrev Reg.PAGE_CAP : Nat := 0x8
abbrev Reg.PAGE_SCRATCH : Nat := 0xC
abbrev Reg.PAGE_CTL : Nat := 0x10
abbrev Reg.PAGE_STAT : Nat := 0x14
abbrev Reg.PAGE_ERR : Nat := 0x18
abbrev Reg.PAGE_ERR_MASK : Nat := 0x1C
abbrev Reg.PAGE_ERR_FORCE : Nat := 0x20
abbrev Reg.PAGE_ERR_FIRST : Nat := 0x24
abbrev Reg.PAGE_CMD : Nat := 0x30
abbrev Reg.CMD_ARG : Nat := 0x34
abbrev Reg.CMD_RESULT : Nat := 0x40
abbrev Reg.CMD_OUT : Nat := 0x44
abbrev Reg.EVT_SEL : Nat := 0x80
abbrev Reg.SYS_PHASE : Nat := 0x100
abbrev Reg.SYS_ERR_SUMMARY_LO : Nat := 0x108
abbrev Reg.SYS_ERR_SUMMARY_HI : Nat := 0x10C
abbrev Reg.SYS_UNMAPPED_ADDR : Nat := 0x110
abbrev Reg.SYS_UNMAPPED_SRC : Nat := 0x114
abbrev Reg.SYS_APERTURE : Nat := 0x118
abbrev Reg.SYS_UNMAPPED_CNT : Nat := 0x11C
abbrev Reg.SYS_RESET_CAUSE : Nat := 0x200
abbrev Reg.SYS_WARM_CNT : Nat := 0x204
abbrev Reg.SYS_BIST_RESULT : Nat := 0x208
abbrev Reg.SYS_BRINGUP_TIME : Nat := 0x20C
abbrev Reg.SYS_RECOVERY_CAUSE : Nat := 0x210
abbrev Reg.SYS_HOST_RESET_CNT : Nat := 0x214
abbrev Reg.SYS_FLR_STAT : Nat := 0x218
abbrev Reg.HIF_CPL_TIMEOUT : Nat := 0x100
abbrev Reg.HIF_ERR_VECTOR : Nat := 0x104
abbrev Reg.HIF_TAGS_USED : Nat := 0x108
abbrev Reg.HIF_CPL_TIMEOUT_CNT : Nat := 0x10C
abbrev Reg.HIF_UNEXP_CPL_CNT : Nat := 0x110
abbrev Reg.HIF_POISON_RX_CNT : Nat := 0x114
abbrev Reg.HIF_POISON_TX_CNT : Nat := 0x118
abbrev Reg.HIF_ECRC_ERR_CNT : Nat := 0x11C
abbrev Reg.HIF_BME_DROP_CNT : Nat := 0x120
abbrev Reg.HIF_INT_DROP_CNT : Nat := 0x124
abbrev Reg.HIF_STALE_CPL_CNT : Nat := 0x128
abbrev Reg.HIF_PME_CNT : Nat := 0x12C
abbrev Reg.HIF_LINK_DOWN_CNT : Nat := 0x130
abbrev Reg.HIF_RETRAIN_CNT : Nat := 0x134
abbrev Reg.HIF_LAST_TIMEOUT_FN : Nat := 0x138
abbrev Reg.HIF_TAG_LIMIT : Nat := 0x13C
abbrev Reg.QMG_DB_WQ : Nat := 0x100
abbrev Reg.QMG_DB_CR : Nat := 0x104
abbrev Reg.QMG_Q_SEL : Nat := 0x108
abbrev Reg.QMG_Q_WQ_IDX : Nat := 0x10C
abbrev Reg.QMG_Q_CR_IDX : Nat := 0x110
abbrev Reg.QMG_Q_STATE : Nat := 0x114
abbrev Reg.QMG_REC_ERR : Nat := 0x118
abbrev Reg.QMG_MAL_INFO : Nat := 0x11C
abbrev Reg.QMG_MAL_FN : Nat := 0x120
abbrev Reg.QMG_MAL_CNT : Nat := 0x124
abbrev Reg.QMG_CR_STALL_CNT : Nat := 0x128
abbrev Reg.QMG_DB_STALE_CNT : Nat := 0x12C
abbrev Reg.QMG_DB_REFUSED_CNT : Nat := 0x130
abbrev Reg.QMG_PHASE_RETRY_CNT : Nat := 0x134
abbrev Reg.QMG_HALTED_MAP : Nat := 0x140
abbrev Reg.QMG_FETCH0 : Nat := 0x100
abbrev Reg.QMG_FETCH1 : Nat := 0x104
abbrev Reg.QMG_FETCH2 : Nat := 0x108
abbrev Reg.QMG_CPL_WR : Nat := 0x10C
abbrev Reg.QMG_REFETCH : Nat := 0x110
abbrev Reg.QMG_RESUMED : Nat := 0x114
abbrev Reg.QV_HALT : Nat := 0
abbrev Reg.QV_DB_REFUSED : Nat := 0x4
abbrev Reg.QV_DB_STALE : Nat := 0x8
abbrev Reg.QV_Q_CFG : Nat := 0x100
abbrev Reg.QV_Q_WQ : Nat := 0x104
abbrev Reg.QV_Q_CR : Nat := 0x108
abbrev Reg.QV_Q_STATE : Nat := 0x10C
abbrev Reg.DMA_RETRY : Nat := 0x100
abbrev Reg.DMA_PACE_HI : Nat := 0x110
abbrev Reg.DMA_PACE_LO : Nat := 0x114
abbrev Reg.DMA_PACE_SEL : Nat := 0x130
abbrev Reg.DMA_PACE_LEVEL : Nat := 0x134
abbrev Reg.DMA_RETRY_CNT : Nat := 0x140
abbrev Reg.DMA_CH_HALT_CNT : Nat := 0x144
abbrev Reg.DMA_POISON_CNT : Nat := 0x148
abbrev Reg.DMA_PACED_CNT : Nat := 0x14C
abbrev Reg.DMA_RMW_CNT : Nat := 0x150
abbrev Reg.DMA_OVERLAP_CNT : Nat := 0x154
abbrev Reg.DMA_HALT_INFO : Nat := 0x158
abbrev Reg.DMA_HALT_ADDR_LO : Nat := 0x15C
abbrev Reg.DMA_HALT_ADDR_HI : Nat := 0x160
abbrev Reg.DMA_PACE_MAP : Nat := 0x200
abbrev Reg.DMA_BEATS0 : Nat := 0x100
abbrev Reg.DMA_BEATS1 : Nat := 0x104
abbrev Reg.DMA_BEATS2 : Nat := 0x108
abbrev Reg.DMA_TAGS : Nat := 0x10C
abbrev Reg.DMA_PACE_WAIT : Nat := 0x110
abbrev Reg.VF_ID : Nat := 0
abbrev Reg.VF_STAT : Nat := 0x4
abbrev Reg.VF_ERR : Nat := 0x8
abbrev Reg.VF_ERR_ADDR : Nat := 0xC
abbrev Reg.VF_EPOCH : Nat := 0x10
abbrev Reg.VF_SCRATCH : Nat := 0x14
abbrev Reg.MB_TX_DATA : Nat := 0
abbrev Reg.MB_TX_SEND : Nat := 0x40
abbrev Reg.MB_TX_STAT : Nat := 0x44
abbrev Reg.MB_RX_DATA : Nat := 0x80
abbrev Reg.MB_RX_STAT : Nat := 0xC0
abbrev Reg.MB_RX_INFO : Nat := 0xC4
abbrev Reg.MB_RX_ACK : Nat := 0xC8
abbrev Reg.MB_CTL : Nat := 0xD0
abbrev Reg.MBX_SEL : Nat := 0x100
abbrev Reg.MBX_TX_SEND : Nat := 0x104
abbrev Reg.MBX_TX_STAT : Nat := 0x108
abbrev Reg.MBX_RX_STAT : Nat := 0x10C
abbrev Reg.MBX_RX_INFO : Nat := 0x110
abbrev Reg.MBX_RX_ACK : Nat := 0x114
abbrev Reg.MBX_EPOCH : Nat := 0x118
abbrev Reg.MBX_TX_DATA : Nat := 0x140
abbrev Reg.MBX_RX_DATA : Nat := 0x180
abbrev Reg.MBX_PEND_MAP : Nat := 0x200
abbrev Reg.MBX_FULL_MAP : Nat := 0x280
abbrev Reg.MBX_LOST_MAP : Nat := 0x300
abbrev Reg.MBX_COLL_CNT : Nat := 0x380
abbrev Reg.MBX_LOST_CNT : Nat := 0x384
abbrev Reg.MBX_ORPHAN_CNT : Nat := 0x388
abbrev Reg.MBX_DUP_CNT : Nat := 0x38C
abbrev Reg.CCH_STATE : Nat := 0
abbrev Reg.CCH_LAST : Nat := 0x4
abbrev Reg.CCH_ERR : Nat := 0x8
abbrev Reg.CCH_REQ : Nat := 0x100
abbrev Reg.CCH_RSP : Nat := 0x180
abbrev Reg.TEN_SEL : Nat := 0x100
abbrev Reg.TEN_VIEW : Nat := 0x104
abbrev Reg.TEN_EPOCH : Nat := 0x108
abbrev Reg.TEN_LOG_PI : Nat := 0x200
abbrev Reg.TEN_LOG_CI : Nat := 0x204
abbrev Reg.TEN_LOG_STAT : Nat := 0x208
abbrev Reg.TEN_LOG_CNT : Nat := 0x20C
abbrev Reg.PCS_MODE : Nat := 0x100
abbrev Reg.PCS_LANE_MAP : Nat := 0x104
abbrev Reg.PCS_POLARITY : Nat := 0x108
abbrev Reg.PCS_TXEQ : Nat := 0x110
abbrev Reg.PCS_TXEQ_ACT : Nat := 0x120
abbrev Reg.PCS_FEC_CORR_LO : Nat := 0x130
abbrev Reg.PCS_FEC_CORR_HI : Nat := 0x134
abbrev Reg.PCS_FEC_UNCORR_LO : Nat := 0x138
abbrev Reg.PCS_FEC_UNCORR_HI : Nat := 0x13C
abbrev Reg.PCS_SYM_ERR : Nat := 0x140
abbrev Reg.PCS_LINK_DOWN_CNT : Nat := 0x150
abbrev Reg.PCS_TRAIN_FAIL_CNT : Nat := 0x154
abbrev Reg.MAC_RX_CTL : Nat := 0x100
abbrev Reg.MAC_BAD_Q : Nat := 0x104
abbrev Reg.MAC_MAX_FRAME : Nat := 0x108
abbrev Reg.MAC_SA_LO : Nat := 0x10C
abbrev Reg.MAC_SA_HI : Nat := 0x110
abbrev Reg.MAC_FC : Nat := 0x114
abbrev Reg.MAC_PCP_MAP : Nat := 0x118
abbrev Reg.MAC_PFC_QUANTA : Nat := 0x11C
abbrev Reg.MAC_PFC_REFRESH : Nat := 0x120
abbrev Reg.MAC_PFC_DELAY : Nat := 0x124
abbrev Reg.MAC_PREEMPT : Nat := 0x128
abbrev Reg.MAC_TS_ADJ : Nat := 0x12C
abbrev Reg.MAC_GCL_INDEX : Nat := 0x130
abbrev Reg.MAC_GCL_DATA : Nat := 0x134
abbrev Reg.MAC_GCL_COUNT : Nat := 0x138
abbrev Reg.MAC_GCL_BASE_LO : Nat := 0x13C
abbrev Reg.MAC_GCL_BASE_HI : Nat := 0x140
abbrev Reg.MAC_GCL_ACT_LO : Nat := 0x144
abbrev Reg.MAC_GCL_ACT_HI : Nat := 0x148
abbrev Reg.MAC_GCL_POS : Nat := 0x14C
abbrev Reg.MAC_XOFF : Nat := 0x180
abbrev Reg.MAC_XON : Nat := 0x184
abbrev Reg.MAC_HEADROOM : Nat := 0x188
abbrev Reg.MAC_LEVEL : Nat := 0x18C
abbrev Reg.MAC_PFC_RX : Nat := 0x200
abbrev Reg.MAC_PFC_TX : Nat := 0x220
abbrev Reg.MAC_PAUSED : Nat := 0x240
abbrev Reg.MAC_STAT : Nat := 0x400
abbrev Reg.MAC_STAT_HI : Nat := 0x404
abbrev Reg.CBP_MODE : Nat := 0x100
abbrev Reg.CBP_PLCA : Nat := 0x104
abbrev Reg.CBP_PLCA_TO : Nat := 0x108
abbrev Reg.CBP_MAX_FRAME : Nat := 0x10C
abbrev Reg.CBP_SA_LO : Nat := 0x110
abbrev Reg.CBP_SA_HI : Nat := 0x114
abbrev Reg.CBP_RX_Q : Nat := 0x118
abbrev Reg.CBP_SEED : Nat := 0x11C
abbrev Reg.CBP_TS_ADJ : Nat := 0x120
abbrev Reg.CBP_PLCA_POS : Nat := 0x124
abbrev Reg.CBP_STAT : Nat := 0x400
abbrev Reg.CBP_STAT_HI : Nat := 0x404
abbrev Reg.PIP_HDR_CNT : Nat := 0x100
abbrev Reg.PIP_CT_CNT : Nat := 0x104
abbrev Reg.PIP_SF_CNT : Nat := 0x108
abbrev Reg.PIP_COPY_DROP : Nat := 0x10C
abbrev Reg.PIP_POISON_DROP : Nat := 0x110
abbrev Reg.PIP_LEN_MISMATCH : Nat := 0x114
abbrev Reg.PIP_TRAP_CNT : Nat := 0x118
abbrev Reg.PIP_REENTRY_CNT : Nat := 0x11C
abbrev Reg.PIP_MIRROR_CNT : Nat := 0x120
abbrev Reg.PIP_LAST_EXC : Nat := 0x124
abbrev Reg.PIP_EXC_CNT : Nat := 0x140
abbrev Reg.PIP_DROP_CNT : Nat := 0x180
abbrev Reg.TBL_BULK_LOCK : Nat := 0x100
abbrev Reg.TBL_SEED_A : Nat := 0x104
abbrev Reg.TBL_SEED_B : Nat := 0x108
abbrev Reg.TBL_LEARN_CFG : Nat := 0x10C
abbrev Reg.TBL_LIMIT_PORT : Nat := 0x110
abbrev Reg.TBL_LIMIT_FN : Nat := 0x114
abbrev Reg.TBL_DAMP : Nat := 0x118
abbrev Reg.TBL_AGE : Nat := 0x11C
abbrev Reg.TBL_EMT_COUNT : Nat := 0x120
abbrev Reg.TBL_LEARNED_COUNT : Nat := 0x124
abbrev Reg.TBL_LPM_COUNT : Nat := 0x128
abbrev Reg.TBL_RELOC_GEN : Nat := 0x12C
abbrev Reg.TBL_VICTIM : Nat := 0x130
abbrev Reg.TBL_STASH_MAX : Nat := 0x134
abbrev Reg.TBL_FREEZE_INFO : Nat := 0x138
abbrev Reg.TBL_LEARN_CNT : Nat := 0x140
abbrev Reg.TBL_MOVE_CNT : Nat := 0x144
abbrev Reg.TBL_FREEZE_CNT : Nat := 0x148
abbrev Reg.TBL_FROZEN_HIT : Nat := 0x14C
abbrev Reg.TBL_AGED_CNT : Nat := 0x150
abbrev Reg.TBL_LEARN_DROP : Nat := 0x154
abbrev Reg.TBL_LIMIT_DROP : Nat := 0x158
abbrev Reg.TBL_FULL_CNT : Nat := 0x15C
abbrev Reg.TBL_POISON_CNT : Nat := 0x160
abbrev Reg.TBL_RELOC_CNT : Nat := 0x164
abbrev Reg.TBL_DRAIN_CNT : Nat := 0x168
abbrev Reg.TBL_REQ : Nat := 0x200
abbrev Reg.TBL_RSP : Nat := 0x240
abbrev Reg.SCH_ENTRY_ERR : Nat := 0x100
abbrev Reg.SCH_SPILL_BASE : Nat := 0x104
abbrev Reg.SCH_SPILL_SLOT : Nat := 0x108
abbrev Reg.SCH_NODE_SEL : Nat := 0x10C
abbrev Reg.SCH_NODE_VT : Nat := 0x110
abbrev Reg.SCH_SPILL_USE : Nat := 0x114
abbrev Reg.SCH_FREE_CELLS : Nat := 0x118
abbrev Reg.SCH_NOBUF_DROP : Nat := 0x140
abbrev Reg.SCH_RXQ_DROP : Nat := 0x144
abbrev Reg.SCH_RXBUF_DROP : Nat := 0x148
abbrev Reg.SCH_RXQ_GONE : Nat := 0x14C
abbrev Reg.SCH_SPILLED : Nat := 0x150
abbrev Reg.SCH_SPILL_DROP : Nat := 0x154
abbrev Reg.SCH_POLICE_DROP : Nat := 0x158
abbrev Reg.SCH_CLASS_DROP : Nat := 0x200
abbrev Reg.SCH_SEL_CNT : Nat := 0x100
abbrev Reg.SCH_CREDIT_WAIT : Nat := 0x120
abbrev Reg.SCH_ADMIT_CNT : Nat := 0x140
abbrev Reg.CP_ID : Nat := 0
abbrev Reg.CP_SLOTS : Nat := 0x4
abbrev Reg.CP_CTL : Nat := 0x8
abbrev Reg.CP_STAT : Nat := 0xC
abbrev Reg.CP_ERR : Nat := 0x10
abbrev Reg.CP_SA_ERR : Nat := 0x14
abbrev Reg.CP_PN_NEAR : Nat := 0x18
abbrev Reg.CP_EXHAUSTED : Nat := 0x1C
abbrev Reg.CP_CNT : Nat := 0x100
abbrev Reg.CP_SA : Nat := 0x800
abbrev Reg.CIP_HOLD_LIMIT : Nat := 0x100
abbrev Reg.CIP_WAIT_LIMIT : Nat := 0x120
abbrev Reg.CIP_HOLD_MAX : Nat := 0x140
abbrev Reg.CIP_KEY_VALID : Nat := 0x144
abbrev Reg.CIP_KDF_CNT : Nat := 0x148
abbrev Reg.CIP_KEY_MISS : Nat := 0x14C
abbrev Reg.CIP_BLOCKS : Nat := 0x150
abbrev Reg.CIP_CNT : Nat := 0x180
abbrev Reg.CRT_NODE_ID : Nat := 0x100
abbrev Reg.CRT_INCARN : Nat := 0x104
abbrev Reg.CRT_UDP_PORT : Nat := 0x108
abbrev Reg.CRT_CELL_LIMIT : Nat := 0x10C
abbrev Reg.CRT_CELLS : Nat := 0x110
abbrev Reg.CRT_SESSION_CTR : Nat := 0x114
abbrev Reg.PEER_CTL : Nat := 0x200
abbrev Reg.PEER_NODE : Nat := 0x204
abbrev Reg.PEER_VLAN : Nat := 0x208
abbrev Reg.PEER_MAC_LO : Nat := 0x20C
abbrev Reg.PEER_MAC_HI : Nat := 0x210
abbrev Reg.PEER_LOCAL_IP0 : Nat := 0x214
abbrev Reg.PEER_LOCAL_IP1 : Nat := 0x218
abbrev Reg.PEER_LOCAL_IP2 : Nat := 0x21C
abbrev Reg.PEER_LOCAL_IP3 : Nat := 0x220
abbrev Reg.PEER_REMOTE_IP0 : Nat := 0x224
abbrev Reg.PEER_REMOTE_IP1 : Nat := 0x228
abbrev Reg.PEER_REMOTE_IP2 : Nat := 0x22C
abbrev Reg.PEER_REMOTE_IP3 : Nat := 0x230
abbrev Reg.PEER_INCARN : Nat := 0x234
abbrev Reg.CRT_CH_SEL : Nat := 0x300
abbrev Reg.CRT_CH_CFG0 : Nat := 0x304
abbrev Reg.CRT_CH_CFG1 : Nat := 0x308
abbrev Reg.CRT_CH_CFG2 : Nat := 0x30C
abbrev Reg.CRT_CH_STATE : Nat := 0x310
abbrev Reg.CRT_CH_SND_UNA : Nat := 0x314
abbrev Reg.CRT_CH_SND_NEXT : Nat := 0x318
abbrev Reg.CRT_CH_RCV_NEXT : Nat := 0x31C
abbrev Reg.CRT_CH_COMMITS : Nat := 0x320
abbrev Reg.CRT_CH_SESSION : Nat := 0x324
abbrev Reg.CRT_WIN_SEL : Nat := 0x380
abbrev Reg.CRT_WIN_CTL : Nat := 0x384
abbrev Reg.CRT_WIN_BASE_LO : Nat := 0x388
abbrev Reg.CRT_WIN_BASE_HI : Nat := 0x38C
abbrev Reg.CRT_WIN_SIZE_LO : Nat := 0x390
abbrev Reg.CRT_WIN_SIZE_HI : Nat := 0x394
abbrev Reg.CRT_WIN_STAT : Nat := 0x398
abbrev Reg.CRT_COMMIT_MAP : Nat := 0x400
abbrev Reg.CRT_SILENT_MAP : Nat := 0x420
abbrev Reg.CRT_TX_MSG : Nat := 0x480
abbrev Reg.CRT_RX_MSG : Nat := 0x484
abbrev Reg.CRT_RETX : Nat := 0x488
abbrev Reg.CRT_DUP : Nat := 0x48C
abbrev Reg.CRT_OOO : Nat := 0x490
abbrev Reg.CRT_REFUSE_TX : Nat := 0x494
abbrev Reg.CRT_REFUSE_RX : Nat := 0x498
abbrev Reg.CRT_RST_TX : Nat := 0x49C
abbrev Reg.CRT_RST_RX : Nat := 0x4A0
abbrev Reg.CRT_UNKNOWN : Nat := 0x4A4
abbrev Reg.CRT_MALFORMED : Nat := 0x4A8
abbrev Reg.CRT_POISON_CHUNK : Nat := 0x4AC
abbrev Reg.CRT_LOST_ENTRY : Nat := 0x4B0
abbrev Reg.CRT_BUILT : Nat := 0x100
abbrev Reg.CRT_APPLIED : Nat := 0x104
abbrev Reg.CRT_CREDIT_WAIT : Nat := 0x108
abbrev Reg.MEM_GEOM : Nat := 0x100
abbrev Reg.MEM_CAP : Nat := 0x104
abbrev Reg.MEM_TIM0 : Nat := 0x110
abbrev Reg.MEM_TIM1 : Nat := 0x114
abbrev Reg.MEM_TIM2 : Nat := 0x118
abbrev Reg.MEM_TIM3 : Nat := 0x11C
abbrev Reg.MEM_TIM4 : Nat := 0x120
abbrev Reg.MEM_TIM5 : Nat := 0x124
abbrev Reg.MEM_DLY_INDEX : Nat := 0x130
abbrev Reg.MEM_DLY_DATA : Nat := 0x134
abbrev Reg.MEM_SCRUB_POS : Nat := 0x140
abbrev Reg.MEM_SCRUB_PASSES : Nat := 0x144
abbrev Reg.MEM_CE_CNT : Nat := 0x148
abbrev Reg.MEM_UE_CNT : Nat := 0x14C
abbrev Reg.MEM_POISON_RD : Nat := 0x150
abbrev Reg.MEM_RMW_CNT : Nat := 0x154
abbrev Reg.MEM_RETIRED_HIT : Nat := 0x158
abbrev Reg.MEM_RETIRE_INDEX : Nat := 0x160
abbrev Reg.MEM_RETIRE_DATA : Nat := 0x164
abbrev Reg.ECC_DRAM_MAP : Nat := 0x100
abbrev Reg.ECC_DRAM_TOTAL : Nat := 0x104
abbrev Reg.ECC_CE_CNT : Nat := 0x108
abbrev Reg.ECC_UE_CNT : Nat := 0x10C
abbrev Reg.ECC_LOG_LOST : Nat := 0x110
abbrev Reg.ECC_LOG_SEL : Nat := 0x114
abbrev Reg.ECC_LOG0 : Nat := 0x118
abbrev Reg.ECC_LOG : Nat := 0x11C
abbrev Reg.ECC_FLIP_SEL : Nat := 0x130
abbrev Reg.ECC_FLIP_MASK_LO : Nat := 0x134
abbrev Reg.ECC_FLIP_MASK_HI : Nat := 0x138
abbrev Reg.ECC_FLIP_CHK : Nat := 0x13C
abbrev Reg.ECC_FLIP_DRAM : Nat := 0x140
abbrev Reg.ECC_FLIP_ADDR_LO : Nat := 0x144
abbrev Reg.ECC_FLIP_ADDR_HI : Nat := 0x148
abbrev Reg.RED_CLAIM : Nat := 0x100
abbrev Reg.RED_EQX_PERIOD : Nat := 0x108
abbrev Reg.RED_EQX_HOLD : Nat := 0x10C
abbrev Reg.RED_EQX_DRAIN : Nat := 0x110
abbrev Reg.RED_EQX_DEFER : Nat := 0x114
abbrev Reg.RED_EQX_NEXT_LO : Nat := 0x118
abbrev Reg.RED_EQX_NEXT_HI : Nat := 0x11C
abbrev Reg.RED_UE_LIMIT : Nat := 0x120
abbrev Reg.RED_WITHDRAW_LIMIT : Nat := 0x124
abbrev Reg.RED_SWITCH_CNT : Nat := 0x128
abbrev Reg.RED_EQX_CNT : Nat := 0x12C
abbrev Reg.RED_EQX_DEFER_CNT : Nat := 0x130
abbrev Reg.RED_EQX_ABANDON_CNT : Nat := 0x134
abbrev Reg.RED_REPLAY_CNT : Nat := 0x138
abbrev Reg.RED_LAST_SWITCH : Nat := 0x13C
abbrev Reg.RED_LAST_EQX : Nat := 0x140
abbrev Reg.RED_GAP_MAX : Nat := 0x144
abbrev Reg.ST_PASS_CNT : Nat := 0x100
abbrev Reg.ST_LAST_PASS : Nat := 0x104
abbrev Reg.ST_CHECK_CNT : Nat := 0x108
abbrev Reg.ST_FAIL_INFO : Nat := 0x10C
abbrev Reg.CUS_SLOT_MAP : Nat := 0x100
abbrev Reg.CUS_ALM_POLICY : Nat := 0x104
abbrev Reg.CUS_INTEGRITY_CNT : Nat := 0x108
abbrev Reg.CUS_VKEEP_SEC : Nat := 0x10C
abbrev Reg.CUS_TREC0 : Nat := 0x110
abbrev Reg.CUS_TREC1 : Nat := 0x114
abbrev Reg.CUS_TREC2 : Nat := 0x118
abbrev Reg.CUS_TREC3 : Nat := 0x11C
abbrev Reg.CUS_TREC4 : Nat := 0x120
abbrev Reg.CUS_DB_WQ : Nat := 0x700
abbrev Reg.CUS_DB_CR : Nat := 0x704
abbrev Reg.ALM_SRC_ACTIVE : Nat := 0x100
abbrev Reg.ALM_SRC_LATCH : Nat := 0x104
abbrev Reg.ALM_AMBER_CNT : Nat := 0x108
abbrev Reg.ALM_CRIMSON_CNT : Nat := 0x10C
abbrev Reg.ALM_LOG_SEL : Nat := 0x110
abbrev Reg.ALM_LOG0 : Nat := 0x114
abbrev Reg.ALM_LOG1 : Nat := 0x118
abbrev Reg.ALM_LOG_HEAD : Nat := 0x11C
abbrev Reg.ALM_TREC : Nat := 0x120
abbrev Reg.EVC_CSEL : Nat := 0x100
abbrev Reg.EVC_CNT_LO : Nat := 0x200
abbrev Reg.EVC_CNT_HI : Nat := 0x204
abbrev Reg.EVC_OVF_LO : Nat := 0x600
abbrev Reg.EVC_OVF_HI : Nat := 0x604
abbrev Reg.EVC_TEMP : Nat := 0x700
abbrev Reg.EVC_TEMP_MAX : Nat := 0x710
abbrev Reg.EVC_TEMP_HI : Nat := 0x720
abbrev Reg.EVC_VOLT : Nat := 0x740
abbrev Reg.EVC_VOLT_LIM : Nat := 0x760

end Sys2Proof.Machine
end

