-- ==== Sys2Proof/Machine/Store.lean ====
section
/-! DEFINITION. The one store every table, register file and memory of the model uses: a list of key and value
pairs in one canonical form (keys strictly rising, no entry equal to what an unlisted key reads as), so that equal
contents are equal data. -/
namespace Sys2Proof.Machine

/-- A sparse table: what an unlisted key reads as is given at each use by a function `d`. -/
abbrev Table (α : Type) := List (Nat × α)

/-- Read key `k`; `d k` where `k` is not listed. -/
def tget {α : Type} (d : Nat → α) : Table α → Nat → α
  | [], k => d k
  | (a, x) :: t, k => if a = k then x else tget d t k

/-- Write `v` at key `k`, keeping the canonical form: writing what an unlisted key reads as removes the entry. -/
def tset {α : Type} [DecidableEq α] (d : Nat → α) : Table α → Nat → α → Table α
  | [], k, v => if v = d k then [] else [(k, v)]
  | (a, x) :: t, k, v =>
    if k < a then (if v = d k then (a, x) :: t else (k, v) :: (a, x) :: t)
    else if k = a then (if v = d k then t else (k, v) :: t)
    else (a, x) :: tset d t k v

/-- Drop every entry whose key satisfies `p` (such keys read as unlisted again). -/
def tdrop {α : Type} (p : Nat → Bool) (t : Table α) : Table α := t.filter (fun e => !p e.1)

/-- Change every listed entry; one that comes to equal what an unlisted key reads as is dropped. -/
def tmap {α : Type} [DecidableEq α] (d : Nat → α) (g : α → α) (t : Table α) : Table α :=
  (t.map (fun e => (e.1, g e.2))).filter (fun e => decide (e.2 ≠ d e.1))

/-- The canonical form, from a lower bound on the keys. -/
def twfFrom {α : Type} [DecidableEq α] (d : Nat → α) : Nat → Table α → Bool
  | _, [] => true
  | lo, (a, x) :: t => decide (lo ≤ a) && decide (x ≠ d a) && twfFrom d (a + 1) t

/-- A table is well formed: keys strictly rise and no entry equals what an unlisted key reads as. -/
def twf {α : Type} [DecidableEq α] (d : Nat → α) (t : Table α) : Bool := twfFrom d 0 t

/-- The keys `k0, k0+1, …` written with the values of a list. -/
def tsetMany {α : Type} [DecidableEq α] (d : Nat → α) (t : Table α) (k0 : Nat) : List α → Table α
  | [] => t
  | v :: vs => tsetMany d (tset d t k0 v) (k0 + 1) vs

end Sys2Proof.Machine
end

