-- ==== Sys2Proof/Machine/State.lean ====
section
/-! DEFINITION. The whole state of the device as plain data: every register, FIFO, buffer, counter, mode and pin the
manual gives it, the commands waiting to be performed, and the machine right after reset. -/
namespace Sys2Proof.Machine

/-- The device phases (R215). -/
inductive Phase where
  | startup | normal | test | recovery
deriving DecidableEq, Repr

/-- The SYS_PHASE encoding of a phase (spec/04_register_model.md at R176). -/
def Phase.code : Phase → Nat
  | .startup => 0 | .normal => 1 | .test => 2 | .recovery => 3

/-- Progress of a warm device reset (R204): accepted, gatekeepers closed, internal reset asserted. -/
inductive WarmStage where
  | idle | accepted | closed | asserted
deriving DecidableEq, Repr

/-- A recovery cause as SYS_RECOVERY_CAUSE records it (R217, R783). -/
structure Cause where
  block : Nat
  inst : Nat
  bit : Nat
deriving DecidableEq, Repr

/-- Supplies, resets, bring-up and phase (chapters 05 and 22). -/
structure PowerUnit where
  mainRails : Bool        -- the main rails are up
  perstLow : Bool         -- PERST_N is low (asserted)
  testEn : Bool           -- the TEST_EN pin
  i2cA : Nat              -- I2C_A1, I2C_A0 as sampled at stage 1 (R736)
  monitorHold : Bool      -- the power-on monitor holds the device in reset (R192)
  bringing : Option Nat   -- the bring-up stage that is running (R194)
  lastStage : Option Nat  -- the last completed bring-up stage (R195)
  bringupDone : Bool      -- SYS_PHASE.bringup_done
  elapsedUs : Nat         -- duration of this bring-up so far
  cause : Word            -- SYS_RESET_CAUSE
  warmCnt : Nat           -- SYS_WARM_CNT
  bist : Word             -- SYS_BIST_RESULT
  ochreOk : Bool
  slateOk : Bool
  edgeOk : Bool
  warm : WarmStage
  warmAt : Nat            -- boundary count at which the gatekeepers closed for a warm reset
  warmVia : Master        -- who issued DEVICE_RESET
  phase : Phase
  testFrom : Phase        -- the phase from which test was entered (R215)
  recoverPend : Option Cause  -- recovery begins at the next boundary (R215, R217)
  faultN : Bool           -- FAULT_N is driven low (R217)
deriving DecidableEq, Repr

/-- The time-sync unit (R76 to R88). Time is held exactly, in units of 2^-16 ns × 10^-12 since the PTP epoch; the
registers and timestamps show it truncated (R82). -/
structure TimeUnit where
  ptp : Nat
  timeValid : Bool
  ref10Present : Bool
  ref10InUse : Bool
  refSelect : Option Bool    -- ref_sel changed to 1 (true) or to 0 (false) since the last boundary (R79)
  refFallback : Bool         -- four edges missed while in use: fall back at the next boundary (R79)
  ppsInNew : Bool
  ppsOut : Bool              -- the PPS_OUT pin
  ppsRiseAt : Nat            -- core cycles at the last rise of PPS_OUT
  lastSec : Nat              -- seconds of PTP time at the previous boundary (R87)
deriving DecidableEq, Repr

/-- The tick generator (R89 to R122). -/
structure TickUnit where
  tick : Nat                 -- the tick counter
  len : Nat                  -- core cycles of the tick in progress
  boundaries : Nat           -- boundaries passed since device reset (R93)
  cycles : Nat               -- core cycles passed since device reset, at the last boundary
  phi : Int                  -- phase at the last boundary, 1/256 ns (R94, R97)
  locked : Bool              -- PAGE_STAT.locked
  committed : Bool           -- COMMIT_PERIOD done (R90)
  commitPend : Bool          -- the committed period takes effect at the next boundary
  period : Nat               -- the period code in force (R89)
  lastOld : Nat              -- R99
  lastNew : Nat
  outvoted : Option (Fin 3)  -- the copy outvoted in this tick (R100)
  runs : Table Nat           -- consecutive ticks in which each copy was outvoted
  fenced : Option (Fin 3)    -- the copy fenced off
  bank0 : Table Word         -- plan bank 0
  bank1 : Table Word         -- plan bank 1
  activeBank : Bool          -- true: bank 1 is active (R105)
  planActive : Bool          -- a plan other than the start-up plan is active
  armed : Bool               -- the shadow bank is armed (R106)
deriving DecidableEq, Repr

/-- Credits left in this tick, by account key 256 × engine + account (R118, R119, R138). -/
structure Credits where
  work : Table Nat
  buffer : Table Nat
  energy : Table Nat
  started : Table Nat        -- units started in this tick
  halted : List Nat          -- shared-edge engines that take no further credits after an overrun (R122)
deriving DecidableEq, Repr

/-- The governor (R126 to R152). -/
structure PowerGov where
  coef0 : Table Word         -- coefficient bank 0
  coef1 : Table Word         -- coefficient bank 1
  activeCoef : Bool          -- true: bank 1 is active
  loadPend : Bool            -- the shadow bank becomes active at the next boundary (R136)
  pEff : Nat                 -- effective envelope, quarter-watts (R146)
  rampWait : Option Nat      -- boundaries left to the next ramp step while the target is above
  pshedLow : Bool            -- the PSHED_N input is low
  shedActive : Bool          -- the shed envelope limits the target (PAGE_STAT.shed_active)
  first : Table Nat          -- per priority, the account key that started the last tick, plus 1 (R140)
  standing : Nat             -- P_stand at the last boundary, mW
  budget : Nat               -- account budget of this tick, pJ
  granted : Nat              -- energy granted in this tick, pJ
  spare : Nat                -- budget left after the grants of this tick, pJ (R138)
  charged : Nat              -- energy charged so far in this tick, pJ
  spent : Nat                -- energy charged in the last completed tick, pJ
  total : Nat                -- energy above the floor since device reset, pJ
  binding : Bool
  limitPrio : Option Nat
  mismatchPrev : Bool        -- the ledger copies differed in the previous tick (R151)
deriving DecidableEq, Repr

/-- A page command accepted and not yet done (R163). -/
structure RunCmd where
  page : Nat
  code : Nat
  seq : Nat
  via : Master
  a0 : Word
  a1 : Word
  a2 : Word
deriving DecidableEq, Repr

/-- Slice roles (R649). -/
inductive Role where
  | out | qualifying | standby | active
deriving DecidableEq, Repr

/-- The RED_CLAIM encoding of a role. -/
def Role.code : Role → Nat
  | .out => 0 | .qualifying => 1 | .standby => 2 | .active => 3

/-- Kinds of injected fault (R682). -/
inductive InjectKind where
  | transient | permanent | latent | overrun
deriving DecidableEq, Repr

/-- What the redundancy logic holds for one slice (R649 to R682). -/
structure SliceRed where
  role : Role
  claim : Nat
  retired : Bool
  lastClass : Nat            -- class of the last withdrawal
  withdrawals : List Nat     -- PTP seconds of the withdrawals counted by R668
  fenced : Bool              -- withdrawn in this tick, not yet out (R655)
  fencedAt : Nat             -- boundary count at the detection
  retireAtEnd : Bool         -- retired at the end of its reset (R668)
  resetting : Bool           -- under slice reset (R665)
  readmit : Bool             -- READMIT waits for it to become standby
  qualifiedAt : Nat          -- boundary count at which it became qualifying (R667)
  ueCount : Nat              -- uncorrectable errors in this PTP second (R654)
  ueSecond : Nat
  passRunning : Bool         -- a self-test pass runs (R669)
  lastPassOk : Bool
  passStart : Nat            -- boundary count at which the pass began
  inject : List (Nat × InjectKind)   -- injected faults still present: engine and kind
deriving DecidableEq, Repr

/-- Stages of the equinox (R673). -/
inductive EqxStage where
  | idle | deferred | prepare | hold | drain
deriving DecidableEq, Repr

/-- The equinox and the switch-over record (R656 to R677). -/
structure RedUnit where
  ochre : SliceRed
  slate : SliceRed
  accepted : Option SliceId  -- the slice the gatekeepers accept in this tick (R49 to R51)
  stage : EqxStage
  count : Nat                -- boundaries counted towards the period (R672)
  due : Bool
  dueAgainAt : Option Nat    -- abandoned: due again at this boundary count (R674)
  stageSince : Nat           -- boundary count at which the stage began
  deferAlarmed : Bool
  simplexPrev : Bool         -- the device was simplex at the previous boundary
  digestA : Option (Word × Word × Word)  -- result of the sync engine's DIGEST in each slice
  digestB : Option (Word × Word × Word)
  syncTodo : List Nat        -- pages on which the sync engine has still to issue its command (R673)
  syncWait : List Nat        -- pages on which a command of the sync engine runs
  prepBy : Nat               -- boundary count at which the bounds of the prepare stage have passed
deriving DecidableEq, Repr

/-- One half of a root key slot (R683, R684). -/
structure KeyHalf where
  key : BitVec 256
  attr : Byte
  label : Word
  check : Word               -- integrity value
deriving DecidableEq, Repr

/-- A root key slot: two halves, a selector (`none`: empty) and the number of loads (R684, R689). -/
structure KeySlot where
  half0 : Option KeyHalf
  half1 : Option KeyHalf
  sel : Option Bool
  loads : Nat
deriving DecidableEq, Repr

/-- The VKEEP domain: custody store and alarm detectors (R683 to R703). -/
structure VkeepUnit where
  present : Bool             -- VKEEP is at 2.2 V or above (R746)
  slots : Table KeySlot      -- 16 root key slots
  erasedLock : Bool
  blank : Bool
  sealed : Bool
  policy : Word              -- CUS_ALM_POLICY
  active : Word              -- ALM_SRC_ACTIVE
  latch : Word               -- ALM_SRC_LATCH
  secs : Nat                 -- VKEEP seconds counter
  crimsons : Nat             -- tamper record (R700)
  firstSrc : Nat
  lastSrc : Nat
  firstAt : Nat
  lastAt : Nat
  ptpAt : Nat
  ptpValid : Bool
  crimsonDown : Bool         -- a Crimson source was raised while the main rails were down (R703)
deriving DecidableEq, Repr

/-- The alarm unit's event log in the main domain (R703): entry words by index. -/
structure AlarmLog where
  w0 : Table Word
  w1 : Table Word
  head : Nat                 -- newest entry
  used : Nat                 -- entries written since device reset
deriving DecidableEq, Repr

/-- One occurrence of an event source (R722, R723): source code and qualifier. -/
structure Occ where
  src : Nat
  q : Nat
deriving DecidableEq, Repr

/-- Event counters and sensors (R722 to R737). -/
structure EvcUnit where
  occs : List Occ            -- occurrences of this tick, newest first
  counted : Nat              -- how many of them (the oldest) the counters already hold
  frozenShared : Bool        -- instances frozen in this tick (R729)
  frozenOchre : Bool
  frozenSlate : Bool
  tempHot : Table Bool       -- temp_hi cannot be set again yet (R735), by sensor
deriving DecidableEq, Repr

/-- The ports of the board other than PCIe and Ethernet (R183, R736, R756). -/
structure BoardUnit where
  i2cPtr : Nat               -- I²C word pointer
  jtag : JtagInstr           -- the instruction in the JTAG instruction register
  scanOut : List Bool        -- boundary register, update stage
  scanIn : List Bool         -- boundary register, capture stage
deriving DecidableEq, Repr

/-- A frame held in the packet buffer. `data` is the frame without FCS, as far as it is written. -/
structure Frame where
  port : Option Nat          -- receive port P0–P6
  entry : Option (Nat × Nat) -- the TX entry: WQ and index
  fn : Nat                   -- function of the send queue, 0x7FF otherwise
  data : List Byte
  fcs : List Byte            -- the FCS as received, once the frame is whole
  flen : Nat                 -- F as received so far
  whole : Bool               -- last cell written and FCS checked
  bad : Bool
  flags : Nat                -- R389
  cls : Nat                  -- receive class (R392)
  time : Nat                 -- receive timestamp, PTP ns
  cells : Nat
  poison : List Nat          -- 64-byte blocks marked poisoned
  meta32 : Word              -- meta of the TX entry
  tsReq : Bool               -- ts_req of the TX entry
  refs : Nat                 -- headers, copies and descriptors that still use it
  charges : List (Nat × Nat) -- shaper-table entries its cells are charged to, with the cells (R527, R528)
  grow : List Nat            -- of them, those that its later cells are added to (R527)
  late : List (Nat × Int)    -- nodes still to be charged F − 256 plus the given bytes when it is whole (R537, R710)
  ctBy : List Nat            -- slices that chose cut-through for it (R465)
  lenField : Option Nat      -- F as a length field gave it (R463)
  mismatch : Bool            -- its length turned out otherwise (R465)
  discard : Bool             -- its cells are freed; the rest of it is received and dropped (R393, R404, R526)
  decrypted : Bool
deriving DecidableEq, Repr

/-- A frame as seen after edits: `head` in place of its first `skip` bytes. -/
structure View where
  frame : Nat
  head : List Byte
  skip : Nat
deriving DecidableEq, Repr

/-- A template's fixups, to be applied as the frame is sent (R455). -/
structure Fix where
  p : Nat
  l3 : Nat
  l4 : Nat
  flags : Nat
  tunOff : Nat
  tunFrom : Nat
  hash : Nat
deriving DecidableEq, Repr

/-- A transmit timestamp operation with its resolved positions (R461). -/
structure TsOp where
  op : Nat
  pos : Nat
  csum : Option Nat
deriving DecidableEq, Repr

/-- A cipher association as an action names it (R449): tenant, association, protocol. -/
structure SaRef where
  tenant : Nat
  sa : Nat
  esp : Bool
deriving DecidableEq, Repr

/-- An association in use for one frame (R548): its page, number and bytes, the derived key, the PN it was given, and
the cipher blocks not yet paid for. -/
structure Seal where
  sa : SaRef
  bytes : List Byte          -- the association, 64 bytes
  key : List Byte
  pn : Nat
  owed : Nat
deriving DecidableEq, Repr

/-- A descriptor made by the pipeline. -/
structure Desc where
  view : View
  port : Nat                 -- egress port (7: a receive queue)
  cls : Nat
  queue : Nat                -- receive queue
  meta32 : Word
  fixes : List Fix
  ts : TsOp
  enc : Option SaRef
  sf : Bool
  cut : Option Nat           -- truncation of a mirror copy
  decap : Bool
  cells : Nat
  src : Nat                  -- source: ingress port, 8 + send queue, or 7 for a copy or re-entered frame
  layers : List (Option Nat) -- layers after all edits
  sealing : Option Seal         -- protection begun (R568 to R572)
  orig : Bool                -- it stands for the frame itself, not for a copy
deriving DecidableEq, Repr

/-- What the data of a read of host memory is for (chapters 07 and 08): a work entry, a segment list, or data. -/
inductive Purpose where
  | entry | list | data
deriving DecidableEq, Repr

/-- One outstanding tag (R239, R249, R250, R263), for the work entry at index `idx` of WQ `wq`. `off` is where its data
belongs, `got` counts the bytes received by 64-byte block of the request's range, `bad` lists the blocks received
with EP. -/
structure Tag where
  id : Nat
  fn : Nat
  slice : SliceId
  wq : Nat
  idx : Nat
  purpose : Purpose
  addr : Nat
  off : Nat
  len : Nat
  tries : Nat                -- retries already made of this read (R340)
  data : Table (Option Byte) -- bytes received, by offset in the request
  bad : List Nat
  issuedAt : Nat
  k : Nat
  normal : Bool
  stale : Bool
  held : Option Nat          -- boundary count at which the hold after its timeout began
deriving DecidableEq, Repr

/-- A part of host memory still to be read for a work entry. -/
structure Need where
  purpose : Purpose
  addr : Nat
  off : Nat
  len : Nat
  tries : Nat
deriving DecidableEq, Repr

/-- What an entry reports when it ends (R296); `stamp` is the tick stamp of its end. -/
structure Report where
  status : Nat
  bytes : Nat
  stamp : Nat
  meta32 : Word
  time : Nat
  rxErr : Nat
  tsValid : Bool
  decrypted : Bool
  decap : Bool
  out : Word
  ready : Bool
deriving DecidableEq, Repr

/-- Stages of a fetched work entry (chapters 07 and 08): being read; to be fetched again for its phase (fetches made
and the boundary count of the last); checked and waiting to start; reading segment lists; waiting for admission;
reading its data; handed on; posted as a receive buffer; taking a frame's data; running; finished with a report that
waits for its place in the ring's staging area; ended, its place in the WQ not yet passed by the CI. -/
inductive Stage where
  | fetch | refetch (tries since : Nat) | ready | lists | admission | data | piped | posted | deliver | run
  | finishing (r : Report) | ended
deriving DecidableEq, Repr

/-- A work entry fetched and not yet passed by its WQ's consumer index. -/
structure WorkItem where
  wq : Nat
  idx : Nat
  fn : Nat
  stage : Stage
  bytes : List Byte          -- the entry's slots
  needs : List Need
  retries : List (Need × Nat)  -- reads to be issued again, and the boundary count at which each is due
  buf : Table (Option (Byte × Bool))  -- data received, by offset, with the poison mark of its source block
  segs : List (Nat × Nat)    -- data segments gathered so far: host address and length
  hops : Nat
  admitted : Bool
  cells : Nat                -- packet-buffer cells reserved (R333)
  done : Nat                 -- bytes done (FILL, COPY, CARLIS_PUT)
  out : List (Byte × Bool)   -- bytes still to be written to host memory, with poison
  outAt : Nat                -- and where
  rxd : Option Desc          -- the frame that is being delivered to it
  lastAdvance : Nat          -- boundary count of the last advance of an overlapping COPY
  advanced : Nat             -- bytes it advanced in that tick (R327)
deriving DecidableEq, Repr

/-- Dynamic state of a work queue (R208, R275). -/
structure WqState where
  pi : Nat
  ci : Nat
  seen : Nat                 -- PI as the queue manager sees it (R279)
  next : Nat                 -- next index to fetch
  served : Bool              -- a doorbell has arrived since the last reset (R208)
  quiet : Bool               -- no doorbell accepted since the record became valid or was reset (R272)
  fetched : Nat              -- entries fetched in this tick (R292)
deriving DecidableEq, Repr

/-- A completion record in a ring's staging area (R298). -/
structure Record where
  wq : Nat
  idx : Nat
  bytes : List Byte          -- the entry but for its phase bit
  ready : Option Nat         -- order in which it became ready
deriving DecidableEq, Repr

/-- Dynamic state of a completion ring (R208, R258, R275, R301). -/
structure CrState where
  pi : Nat
  ci : Nat
  staged : List Record
  stalled : Bool
  modCount : Nat
  modSince : Option Nat      -- boundary count at which the timer started
  quiet : Bool
deriving DecidableEq, Repr

/-- A halt that takes effect at the next boundary (R305, R306). -/
structure HaltReq where
  fn : Nat
  reason : Nat
  queue : Nat
  isCr : Bool
  idx : Nat
deriving DecidableEq, Repr

/-- The queue manager and the DMA engine (chapters 07 and 08). -/
structure QueueUnit where
  wq : Table WqState
  cr : Table CrState
  items : List WorkItem
  halts : List HaltReq
  halted : List Nat          -- halted functions
  readySeq : Nat             -- records that have become ready
  lastFn : Table Nat         -- by account: function that started the last tick's rotation, plus 1 (R292)
  turnFn : Table Nat         -- by account: function to be served next in this tick, plus 1
  lastWq : Table Nat         -- by function: WQ that started its last turn, plus 1
  started : Table Bool       -- by account: the rotation has started in this tick
  paced : Table Bool         -- by function (R334)
  pacedTick : Bool           -- a frame waited for pacing in this tick
deriving DecidableEq, Repr

/-- The PCIe endpoint (chapter 06). Configuration space is one word store keyed 4096 × function + offset. -/
structure PcieUnit where
  cfg : Table Word
  cfgEff : Table Word        -- configuration space as in force at the last boundary
  dlUp : Bool
  speed : Nat
  width : Nat
  l23 : Bool                 -- link in L2/L3 Ready (R262)
  vfLive : Nat               -- number of VFs that exist (R225, R226)
  vfClearing : Bool          -- the VF Enable clear is in progress (R226)
  flr : List Nat             -- functions under reset (R207)
  flrShown : List Nat        -- what HIF page 1 shows (R267): functions under reset and VFs at the last boundary
  vfShown : Nat
  hostReset : Bool           -- the reset in progress is a host reset
  msix : Table Word          -- MSI-X table words, key 4 × (2048 × function + vector) + word
  pba : List Nat             -- pending bits set: 2048 × function + vector
  pmeAt : Table Nat          -- boundary count of the last PM_PME of a function
  tags : List Tag
deriving DecidableEq, Repr

/-- A header waiting for its account 1 slot: a host frame, or a Carlis message with its egress port and class. -/
inductive Header where
  | host (frame : Nat)
  | carlis (frame port cls : Nat)
deriving DecidableEq, Repr

/-- An entry of the re-entry queue (R458). -/
inductive Reentry where
  | copy (d : Desc)                                  -- a mirror copy or a further port of a flood
  | again (v : View) (state pass : Nat) (decap : Bool)  -- a frame to be parsed again
deriving DecidableEq, Repr

/-- A learn event (R448, R484): key B, the entry it hit, the source identity. -/
structure LearnEvent where
  key : List Byte
  hit : Option Nat
  source : List Byte
deriving DecidableEq, Repr

/-- An entry of the exact-match table (R472). -/
structure EmtEntry where
  key : List Byte            -- 32 bytes
  arg : Word
  record : Nat
  fixed : Bool               -- static
  learned : Bool
  frozen : Bool
  hit : Bool
  moves : Nat
  window : Nat
deriving DecidableEq, Repr

/-- A row of the LPM table in use (R490): kind 0 single, 1 head, 2 tail. -/
structure LpmRow where
  kind : Nat
  v6 : Bool
  len : Nat
  vrf : Nat
  addr : Nat                 -- 64 bits
  record : Nat
  arg : Word
  tag : Nat
  poison : Bool
deriving DecidableEq, Repr

/-- A page command of the table unit that still has events to do (R498). -/
structure TblJob where
  owed : Nat
  req : List Byte            -- TBL_REQ as copied on acceptance (R496)
deriving DecidableEq, Repr

/-- The lookup tables and the table unit of one slice (chapter 13). -/
structure TblUnit where
  emt : Table (Option EmtEntry)  -- by position P (R471)
  poison : List Nat          -- poisoned slots
  vers : Table Nat           -- bucket versions, by 32,768 × way + bucket
  victim : Nat
  lpm : List LpmRow
  learnQ : List LearnEvent
  learnNew : Nat             -- how many of them (the newest) were made in this tick
  freed : List Nat           -- slots freed whose drain is due (R481)
  ageAt : Option Nat         -- boundary count at which the ageing pass began
  ageGroup : Nat             -- group visited next
  job : Option TblJob
deriving DecidableEq, Repr

/-- A chunk of a CARLIS_PUT (R596): target window, generation, offset, poisoned blocks, data with those blocks zero. -/
structure CrtChunk where
  window : Nat
  gen : Nat
  offset : Nat
  poison : List Nat
  data : List Byte
deriving DecidableEq, Repr

/-- A numbered message not yet acknowledged (R599, R600): no chunk for a COMMIT. -/
structure CrtMsg where
  seq : Nat
  item : Option (Nat × Nat)  -- its work entry: WQ and index; none once that has ended
  chunk : Option CrtChunk
  number : Nat               -- commit number
  cells : Nat                -- plaintext cells it holds
  paced : Option Nat         -- function on whose pacing level they are (R333)
  due : Bool                 -- to be sent, or sent again
  sent : Bool
  refused : Bool
deriving DecidableEq, Repr

/-- A CARLIS_PUT or CARLIS_COMMIT entry in execution (R599 to R602). -/
structure CrtEntry where
  wq : Nat
  idx : Nat
  fn : Nat
  commit : Bool
  len : Nat                  -- bytes of the PUT; 1 for a COMMIT
  taken : Nat                -- of them numbered
  last : Nat                 -- out of R602
  applied : Nat
  poisoned : Bool
  refused : Option Nat       -- status of the first refused chunk
deriving DecidableEq, Repr

/-- A message a channel is building: its type, the cipher blocks still owed, the frame without FCS. -/
structure CrtBuild where
  ty : Nat
  seq : Nat
  owed : Nat
  data : List Byte
deriving DecidableEq, Repr

/-- A target window (R587). -/
structure CrtWin where
  base : Nat
  size : Nat
  peer : Nat
  lo : Nat
  hi : Nat
  gen : Nat
  valid : Bool
deriving DecidableEq, Repr

/-- An accepted message that waits to be applied (R604, R605), with its window as it stood when it was accepted and the
bytes already written. -/
structure CrtIn where
  seq : Nat
  chunk : Option CrtChunk
  win : CrtWin
  pos : Nat
deriving DecidableEq, Repr

/-- What a target half owes its peer besides ACKs (R590, R605, R610, R611). -/
inductive CrtReply where
  | helloAck (pn : Nat)
  | refuse (seq status window : Nat)
  | window (w : Nat)
  | rst (session incarn : Nat)
deriving DecidableEq, Repr

/-- Both halves of a Carlis channel (R583 to R617). Times are boundary counts. -/
structure CrtChan where
  isOpen : Bool
  opening : Bool             -- the initiator half is OPENING
  silent : Bool
  session : Option Nat       -- initiator's session
  peerInc : Nat              -- incarnation of the peer in that session
  una : Nat
  next : Nat
  commits : Nat              -- number of the session's last COMMIT
  msgs : List CrtMsg         -- numbered and not acknowledged, oldest first
  entries : List CrtEntry    -- in execution, in the order in which they started
  helloDue : Bool
  helloPn : Option Nat       -- packet number of the last HELLO
  dueFrom : Nat              -- messages due are sent from this boundary on
  wentBack : Bool            -- it went back since snd_una last rose (R607)
  timer : Option Nat         -- start of the retransmission timer
  interval : Nat
  expiries : Nat
  build : Option CrtBuild
  tSession : Option Nat      -- target's session
  sInc : Nat                 -- incarnation of its initiator
  rcvNext : Nat
  rcvAccept : Nat
  tCommits : Nat
  apply : List CrtIn
  replies : List (CrtReply × Nat)  -- with the boundary from which each is sent
  ackFrom : Option Nat       -- an ACK is due from this boundary on
  gap : Bool
  ackAt : Option Nat         -- boundary count at the last ACK
deriving DecidableEq, Repr

/-- A CRT command that takes effect at the next boundary (R584, R585, R588). -/
inductive CrtPend where
  | opens (c : Nat)
  | closes (c : Nat)
  | set (w : Nat) (x : CrtWin)
  | drop (w : Nat)
deriving DecidableEq, Repr

/-- The Carlis transport (chapter 16). Channel configurations and staged window values are registers. -/
structure CrtUnit where
  chans : Table CrtChan
  wins : Table CrtWin
  copies : Table (Nat × Nat)   -- the peers' windows: generation and size (0: not valid), by 64 × record + window
  pend : Option CrtPend
  rx : Option (Nat × Nat)      -- the first received message is being decrypted: blocks owed and hold cells
  waited : Bool                -- a message waited for a credit in this tick
  waiting : Nat                -- messages that waited at the last boundary
deriving DecidableEq, Repr

/-- One direction of a mailbox (R349 to R358). -/
structure MbxDir where
  full : Bool
  collision : Bool
  lost : Bool
  status : Nat               -- of the last send
  seq : Nat                  -- of the last message accepted
  lostSeq : Nat
  posted : Option Nat        -- boundary count of a send not yet delivered
  clearing : Bool            -- full clears at the next boundary
  new : Bool
  dup : Bool
  orphan : Bool
  rxSeq : Nat
  epoch : Nat                -- sender's epoch at the send
  msg : List Word
  kept : Option (Nat × Nat)  -- seq and epoch of the last message delivered
deriving DecidableEq, Repr

/-- The mailboxes (R348 to R359), by 2 × t: to tenant t, 2 × t + 1: from it. Outbound buffers are registers. -/
structure MbxUnit where
  dirs : Table MbxDir
  epochs : Table Nat         -- tenant epochs
  mgrEpoch : Nat
  resets : List Nat          -- tenants whose reset began in this tick
  pf0Reset : Bool            -- a PF0 FLR began in this tick
  hostReset : Bool           -- a host reset began in this tick
deriving DecidableEq, Repr

/-- A custody channel (R361 to R363): the last request's seq, status and outputs. -/
structure CchChan where
  isOpen : Bool
  lastSeq : Option Nat
  status : Nat
  out0 : Word
  out1 : Word
deriving DecidableEq, Repr

/-- A custody request that waits (R363, R364). -/
structure CusReq where
  chan : Nat
  seq : Nat
  bytes : List Byte
deriving DecidableEq, Repr

/-- The custody channels (R361 to R365). -/
structure CusUnit where
  chans : Table CchChan
  queue : List CusReq
  epoch : Nat                -- PF1 epoch
  epochDue : Nat             -- resets begun in this tick that it still has to count
deriving DecidableEq, Repr

/-- A dirty-page log (R366 to R374). `recent` holds the pages of the 64 most recently made entries with their numbers. -/
structure LogSlot where
  inUse : Bool
  active : Bool
  overflow : Bool
  gone : Bool                -- stopped because the tenant ceased to exist
  tenant : Nat
  base : Nat
  log2 : Nat
  pi : Nat
  ci : Nat
  made : Nat                 -- entries made
  staged : List Nat          -- pages still to be written to the ring, oldest first
  recent : List (Nat × Nat)
deriving DecidableEq, Repr

/-- Stages of a decryption (R558): waiting to start; started, with the plaintext cells it holds; verified, with the
bytes of the frame without its protection and whether a tunnel was removed. -/
inductive DecStage where
  | wait
  | started (x : Seal) (cells : Nat)
  | verified (data : List Byte) (decap : Bool) (cells : Nat)
deriving DecidableEq, Repr

/-- A frame in a wait queue or in the hold buffer of the cipher (R558 to R567). -/
structure DecReq where
  view : View
  sa : SaRef
  state : Nat                -- state at which it re-enters
  pass : Nat
  layers : List (Option Nat)
  cls : Nat                  -- receive class
  decap : Bool
  stage : DecStage
deriving DecidableEq, Repr

/-- A derivation queued on a slice's key unit (R555). -/
structure KeyReq where
  slice : SliceId
  entry : Nat                -- 32 × t + a
  acct : Nat                 -- cipher account that needs it
deriving DecidableEq, Repr

/-- WARM_KEYS in progress on a slice (R578). -/
structure WarmJob where
  slice : SliceId
  left : List Nat
  derived : Nat
  failed : Nat
deriving DecidableEq, Repr

/-- The ciphers of both slices (chapter 15). -/
structure CipUnit where
  cache : Table (List Byte)  -- derived keys, by 32,768 × slice + 32 × t + a; empty: invalid
  keyQ : List KeyReq
  warm : List WarmJob
  replay : Table Nat         -- replay window of an association: bit i marks pn − 1 − i
  changed : List Nat         -- associations whose valid changes at the next boundary
  noKey : List Nat           -- Carlis associations whose derivation failed, until a message has been refused for it
  slotDrops : List Nat       -- root slots loaded or erased whose derived keys are still to be invalidated (R690)
  crimsonDue : Bool          -- a Crimson erasure whose cache invalidation is still to come (R695)
deriving DecidableEq, Repr

/-- The pipelines of both slices (chapter 12).
DESIGN CHOICE (log entry 12, safe). -/
structure PipeUnit where
  frames : Table (Option Frame)
  nextFrame : Nat
  freeCells : Nat
  rxPart : Table (Option Nat)  -- the frame being received, by 2 × port + express
  q0 : List Nat              -- header windows received, oldest first
  q1 : List Header
  q2 : List Reentry
  q2New : Nat                -- how many of them (the newest) were queued in this tick
  mirror : Table Nat         -- executions of a mirror session since its last copy, by 16 × slice + session
  decQ : List DecReq
  toCarlis : List Nat        -- frames for the Carlis engine
  winBad : List (Nat × Nat)  -- unreadable words of a slice's window copies and not rewritten since: slice, word (R636)
  edgeBad : List Nat         -- words of poisoned blocks of the windows' edge copy not rewritten since (R636)
deriving DecidableEq, Repr

/-- A network port P0–P5 (chapter 10). -/
structure PortUnit where
  enabled : Bool
  lanesOn : Bool             -- its lanes are powered
  linkUp : Bool
  remoteFault : Bool
  localFault : Bool
  training : Bool
  locks : Nat                -- lock per logical lane
  fecLock : Bool
  pausedTill : Table Nat     -- by class: boundary count from which it may send again (0: not paused)
  pauseEnded : Nat           -- classes whose pause ended in this tick, as a bit map
  pauseNew : Nat             -- classes whose pause began in this tick
  xoff : Nat                 -- classes in xoff, as a bit map
  xoffSent : Nat             -- boundary count at which the last control frame was sent
  operA : Nat
  oper : List Word
  armA : Nat
  armed : List Word
  gclOff : Bool              -- GCL_OFF waits for the boundary
  held : List Desc           -- descriptors the MAC holds
  sending : Option Desc
  preempted : Option Desc
  sentAt : Nat               -- transmit timestamp of the frame in transmission, PTP ns
  preAt : Nat                -- and of the preempted one
  resumed : Bool             -- the frame in transmission had been preempted
deriving DecidableEq, Repr

/-- Port P6, the cabinet bus (chapter 11). The frames its MAC holds stand in `ports`, key 6. -/
structure CbpUnit where
  enabled : Bool
  txClk : Bool               -- TX_CLK runs
  usable : Bool              -- TX_CLK ran for 2 µs at the last boundary (R420)
  plcaActive : Bool
  beaconAt : Nat             -- boundary count of the last BEACON
  opportunity : Nat          -- current transmit opportunity
  burst : Nat                -- frames sent in the present opportunity
  attempts : Nat             -- collisions of the frame in hand (R429)
  deferring : Bool           -- it waits for CRS to drop
  counted : Bool             -- it has been counted in tx_deferred
  backoff : Option Nat       -- slot times of the backoff in progress
  lfsr : Nat
  lfsrAt : Nat               -- core cycle at which `lfsr` was taken
deriving DecidableEq, Repr

/-- What hardware keeps of a shaper or policer node (R511, R535). -/
structure Node where
  tokens : Int
  frac : Nat
  tag : Nat
  occ : Nat
  waited : Bool              -- it was out of credit since it last served (R521)
deriving DecidableEq, Repr

/-- A frame in a spill ring (R532). -/
structure Spilled where
  desc : Desc
  frame : Frame
  pos : Nat                  -- first cell in the ring
  cells : Nat
deriving DecidableEq, Repr

/-- The scheduler and the policers (chapter 14). -/
structure SchedUnit where
  nodes : Table Node
  vt : Table Nat             -- virtual time of a parent, by entry; 20,480: host root
  fifo : Table (List Desc)   -- by 8 × port + class
  rx : List Desc             -- frames admitted for receive queues, in order of arrival
  rings : Table (List Spilled)
  ringTail : Table Nat       -- next cell to write
  spillQ : Table (List Desc) -- descriptors on their way to the ring, by class
  spillWrites : Table Nat    -- spill write bursts in this tick, by channel
  police : Table (Nat × Nat) -- frames passed and dropped, by policer
deriving DecidableEq, Repr

/-- States of a DRAM channel (R648). -/
inductive ChanState where
  | unconfigured | idle | running | retained
deriving DecidableEq, Repr

/-- A DRAM channel (chapter 17). A stored block is its 80 code symbols (R631), symbol i of codeword k at 10 × k + i;
no entry: never written.
DESIGN CHOICE (log entry 12, safe). -/
structure MemChan where
  st : ChanState
  committed : Bool           -- START or RELEASE has committed its registers (R647)
  blocks : Table (List Byte)
  scrubPos : Nat             -- next block of the patrol scrub (R642)
deriving DecidableEq, Repr

/-- An entry of the error log (R639). -/
structure EccEntry where
  ue : Bool
  checkOnly : Bool
  memory : Nat
  inst : Nat
  count : Nat
  address : Nat
  position : Nat
  syndrome : Nat
  first : Nat
  last : Nat
  made : Nat                 -- order of creation
deriving DecidableEq, Repr

/-- An on-chip word corrupted by the flip mask and not yet read (R644). -/
structure ChipFlip where
  memory : Nat
  inst : Nat
  word : Nat
  data : BitVec 64
  chk : Byte
deriving DecidableEq, Repr

/-- Error logging and injection (R639, R644, R647). -/
structure EccUnit where
  log : Table (Option EccEntry)
  made : Nat                 -- entries made since device reset
  mapCommitted : Bool        -- ECC_DRAM_MAP is committed
  flips : List ChipFlip
deriving DecidableEq, Repr

/-- What has left the device (the model's own record, newest first).
DESIGN CHOICE (log entry 100, safe). -/
inductive Out where
  | memRead (fn tag addr len : Nat)
  | wire (port : Nat) (data : List Byte) (whole : Bool)
  | respond (port : Nat)
  | beacon
  | jam
  | mdio (a0 a1 a2 : Word)
  | memWrite (fn addr : Nat) (data : List Byte) (ep : Bool)
  | completion (status : Nat) (data : List Byte) (ep : Bool)
  | readData (via : Master) (w : Word) (ep : Bool)
  | msix (fn vec : Nat) (addr data : Nat)
  | pme (fn : Nat)
  | pmeToAck
  | errMsg (fn : Nat) (kind : Nat)
  | spi (frame : List Byte)
  | i2c (word : Nat)
  | jtag (bits : List Bool)
deriving DecidableEq, Repr

/-- The state of the device. Register contents live in `regs` (keyed by byte address: PF0 BAR 0 addresses as they
are, PF1 BAR 0 from 0x1_0000_0000, VF t BAR 0 from 0x2_0000_0000 + 0x1_0000 × t); `eff` is what was in force at the last boundary for the
registers and windows that take effect there (R104); `wide` holds counters wider than 32 bits by the address of their
lower word. -/
structure State where
  pending : List Instr
  regs : Table Word
  eff : Table Word
  wide : Table Nat
  running : List RunCmd
  power : PowerUnit
  time : TimeUnit
  tck : TickUnit
  cred : Credits
  gov : PowerGov
  red : RedUnit
  vkeep : VkeepUnit
  alog : AlarmLog
  evc : EvcUnit
  board : BoardUnit
  pcie : PcieUnit
  queues : QueueUnit
  pipe : PipeUnit
  sched : SchedUnit
  tbl : Table TblUnit        -- Ochre 0, Slate 1
  cip : CipUnit
  crt : CrtUnit
  mbx : MbxUnit
  cus : CusUnit
  logs : Table LogSlot       -- 16 dirty-page log slots
  ports : Table PortUnit     -- P0 to P5
  cbp : CbpUnit              -- P6
  mem : Table MemChan        -- DRAM channels 0 to 3
  ecc : EccUnit
  free : Nat
  out : List Out
deriving DecidableEq, Repr

/-- Power, reset and phase right after a cold device reset whose bring-up has ended (R198).
DESIGN CHOICE (log entry 6, unsafe). -/
def PowerUnit.reset : PowerUnit where
  mainRails := true
  perstLow := false
  testEn := false
  i2cA := 0
  monitorHold := false
  bringing := none
  lastStage := some 5
  bringupDone := true
  elapsedUs := 0
  cause := 1
  warmCnt := 0
  bist := 7
  ochreOk := true
  slateOk := true
  edgeOk := true
  warm := .idle
  warmAt := 0
  warmVia := .pf0
  phase := .startup
  testFrom := .startup
  recoverPend := none
  faultN := false

/-- The time-sync unit after reset (R85). -/
def TimeUnit.reset : TimeUnit where
  ptp := 0
  timeValid := false
  ref10Present := false
  ref10InUse := false
  refSelect := none
  refFallback := false
  ppsInNew := false
  ppsOut := false
  ppsRiseAt := 0
  lastSec := 0

/-- The tick generator after reset: 500 ns, start-up plan (R90, R116).
DESIGN CHOICE (log entry 8, unsafe). -/
def TickUnit.reset : TickUnit where
  tick := 0
  len := 800
  boundaries := 0
  cycles := 0
  phi := 0
  locked := false
  committed := false
  commitPend := false
  period := 2
  lastOld := 0
  lastNew := 0
  outvoted := none
  runs := []
  fenced := none
  bank0 := []
  bank1 := []
  activeBank := false
  planActive := false
  armed := false

/-- The governor after reset: envelope 24 W (R144). -/
def PowerGov.reset : PowerGov where
  coef0 := []
  coef1 := []
  activeCoef := false
  loadPend := false
  pEff := 96
  rampWait := none
  pshedLow := false
  shedActive := false
  first := []
  standing := 0
  budget := 0
  granted := 0
  spare := 0
  charged := 0
  spent := 0
  total := 0
  binding := false
  limitPrio := none
  mismatchPrev := false

/-- A slice with a role after reset. -/
def SliceRed.fresh (r : Role) (claim : Nat) (pass : Bool) : SliceRed where
  role := r
  claim := claim
  retired := false
  lastClass := 0
  withdrawals := []
  fenced := false
  fencedAt := 0
  retireAtEnd := false
  resetting := false
  readmit := false
  qualifiedAt := 0
  ueCount := 0
  ueSecond := 0
  passRunning := pass
  lastPassOk := false
  passStart := 0
  inject := []

/-- The redundancy logic after a bring-up both slices passed: Ochre active (R197). -/
def RedUnit.reset : RedUnit where
  ochre := SliceRed.fresh .active 0xC0 false
  slate := SliceRed.fresh .standby 0x80 true
  accepted := some .ochre
  stage := .idle
  count := 0
  due := false
  dueAgainAt := none
  stageSince := 0
  deferAlarmed := false
  simplexPrev := false
  digestA := none
  digestB := none
  syncTodo := []
  syncWait := []
  prepBy := 0

/-- The VKEEP domain at the first application of VKEEP (R699, R700).
DESIGN CHOICE (log entry 7, unsafe). -/
def VkeepUnit.fresh : VkeepUnit where
  present := true
  slots := []
  erasedLock := true
  blank := true
  sealed := false
  policy := 0x416A
  active := 0
  latch := 0
  secs := 0
  crimsons := 0
  firstSrc := 0
  lastSrc := 0
  firstAt := 0
  lastAt := 0
  ptpAt := 0
  ptpValid := false
  crimsonDown := false

/-- Event counters and sensors after reset (R734: no reading yet). -/
def EvcUnit.reset : EvcUnit where
  occs := []
  counted := 0
  frozenShared := false
  frozenOchre := false
  frozenSlate := false
  tempHot := []

/-- The PCIe endpoint after reset: link not trained, no VF. -/
def PcieUnit.reset : PcieUnit where
  cfg := []
  cfgEff := []
  dlUp := false
  speed := 0
  width := 0
  l23 := false
  vfLive := 0
  vfClearing := false
  flr := []
  flrShown := []
  vfShown := 0
  hostReset := false
  msix := []
  pba := []
  pmeAt := []
  tags := []

/-- A port after reset (R198). -/
def PortUnit.reset : PortUnit where
  enabled := false
  lanesOn := false
  linkUp := false
  remoteFault := false
  localFault := false
  training := false
  locks := 0
  fecLock := false
  pausedTill := []
  pauseEnded := 0
  pauseNew := 0
  xoff := 0
  xoffSent := 0
  operA := 0
  oper := []
  armA := 0
  armed := []
  gclOff := false
  held := []
  sending := none
  preempted := none
  sentAt := 0
  preAt := 0
  resumed := false

/-- The queues after reset: nothing posted. -/
def QueueUnit.reset : QueueUnit where
  wq := []
  cr := []
  items := []
  halts := []
  halted := []
  readySeq := 0
  lastFn := []
  turnFn := []
  lastWq := []
  started := []
  paced := []
  pacedTick := false

/-- The pipelines after reset: the free list holds all 81,920 cells (R196). -/
def PipeUnit.reset : PipeUnit where
  frames := []
  nextFrame := 0
  freeCells := 81920
  rxPart := []
  q0 := []
  q1 := []
  q2 := []
  q2New := 0
  mirror := []
  decQ := []
  toCarlis := []
  winBad := []
  edgeBad := []

/-- The scheduler after reset. -/
def SchedUnit.reset : SchedUnit where
  nodes := []
  vt := []
  fifo := []
  rx := []
  rings := []
  ringTail := []
  spillQ := []
  spillWrites := []
  police := []

/-- The tables of a slice after reset: empty. -/
def TblUnit.reset : TblUnit where
  emt := []
  poison := []
  vers := []
  victim := 0
  lpm := []
  learnQ := []
  learnNew := 0
  freed := []
  ageAt := none
  ageGroup := 0
  job := none

/-- A closed channel. -/
def CrtChan.closed : CrtChan where
  isOpen := false
  opening := false
  silent := false
  session := none
  peerInc := 0
  una := 0
  next := 0
  commits := 0
  msgs := []
  entries := []
  helloDue := false
  helloPn := none
  dueFrom := 0
  wentBack := false
  timer := none
  interval := 0
  expiries := 0
  build := none
  tSession := none
  sInc := 0
  rcvNext := 0
  rcvAccept := 0
  tCommits := 0
  apply := []
  replies := []
  ackFrom := none
  gap := false
  ackAt := none

/-- An empty mailbox direction. -/
def MbxDir.empty : MbxDir := ⟨false, false, false, 0, 0, 0, none, false, false, false, false, 0, 0, [], none⟩

/-- A closed custody channel. -/
def CchChan.closed : CchChan := ⟨false, none, 0, 0, 0⟩

/-- A free log slot. -/
def LogSlot.free : LogSlot := ⟨false, false, false, false, 0, 0, 0, 0, 0, 0, [], []⟩

/-- A window after reset. -/
def CrtWin.reset : CrtWin := ⟨0, 0, 0, 0, 0, 0, false⟩

/-- P6 after reset. -/
def CbpUnit.reset : CbpUnit where
  enabled := false
  txClk := true
  usable := true
  plcaActive := false
  beaconAt := 0
  opportunity := 0
  burst := 0
  attempts := 0
  deferring := false
  counted := false
  backoff := none
  lfsr := 0
  lfsrAt := 0

/-- A DRAM channel after reset (R198). -/
def MemChan.reset : MemChan where
  st := .unconfigured
  committed := false
  blocks := []
  scrubPos := 0

/-- The machine right after a cold device reset whose bring-up has ended with every self-test passed (R198).
DESIGN CHOICE (log entry 6, unsafe). DESIGN CHOICE (log entry 8, unsafe). -/
def State.reset : State where
  pending := []
  regs := []
  eff := []
  wide := []
  running := []
  power := PowerUnit.reset
  time := TimeUnit.reset
  tck := TickUnit.reset
  cred := ⟨[], [], [], [], []⟩
  gov := PowerGov.reset
  red := RedUnit.reset
  vkeep := VkeepUnit.fresh
  alog := ⟨[], [], 0, 0⟩
  evc := EvcUnit.reset
  board := ⟨0, .idcode, [], []⟩
  pcie := PcieUnit.reset
  queues := QueueUnit.reset
  pipe := PipeUnit.reset
  sched := SchedUnit.reset
  tbl := []
  cip := ⟨[], [], [], [], [], [], [], false⟩
  crt := ⟨[], [], [], none, none, false, 0⟩
  mbx := ⟨[], [], 0, [], false, false⟩
  cus := ⟨[], [], 0, 0⟩
  logs := []
  ports := []
  cbp := CbpUnit.reset
  mem := []
  ecc := ⟨[], 0, false, []⟩
  free := 0
  out := []

/-- Why the machine stops with a fault. -/
inductive Fault where
  /-- Raised by no meaning: every command of the table has a next state. Safe. -/
  | unreached (why : String)
deriving DecidableEq, Repr

/-- Why a command has no meaning. -/
inductive Refusal where
  /-- Raised by an arm of `exec` whose command has no meaning yet, with the row's mnemonic. Safe. -/
  | notModelled (mnemonic : String)
deriving DecidableEq, Repr

end Sys2Proof.Machine
end

