-- ==== Sys2Proof/Machine/Ops.lean ====
section
/-! DEFINITION. The named operations every meaning is built from: where a register page lies, reading and writing
register words, counters, error registers, interrupts, the page command protocol, events, alarms and recovery. -/
namespace Sys2Proof.Machine

/-! ### Where pages lie (R174, R175, R180, R181) -/

abbrev pgSys : Nat := 0
abbrev pgTck : Nat := 0x1000
abbrev pgTms : Nat := 0x2000
abbrev pgPwr : Nat := 0x3000
abbrev pgRed : Nat := 0x4000
abbrev pgAlm : Nat := 0x5000
abbrev pgEvc : Nat := 0x6000
abbrev pgHif (n : Nat) : Nat := 0x8000 + 0x1000 * n
abbrev pgMem (n : Nat) : Nat := 0x10000 + 0x1000 * n
abbrev pgEcc : Nat := 0x14000
abbrev pgMac (p : Nat) : Nat := 0x20000 + 0x1000 * p
abbrev pgCbp : Nat := 0x26000
abbrev pgPcs (p : Nat) : Nat := 0x28000 + 0x1000 * p
abbrev pgQmg : Nat := 0x30000
abbrev pgDma : Nat := 0x31000
abbrev pgTen : Nat := 0x32000
abbrev pgMbx : Nat := 0x33000
abbrev pgSch : Nat := 0x34000
abbrev pgCrt : Nat := 0x35000

/-- Page k of a slice (R175). -/
def pgSlice (sl : SliceId) (k : Nat) : Nat := 0x100000 + 0x80000 * sl.num + 0x1000 * k

/-- Window bases of PF0 BAR 0 (R174). -/
abbrev winQueue : Nat := 0x400000
abbrev winShaper : Nat := 0x500000
abbrev winPolicer : Nat := 0x600000
abbrev winParse : Nat := 0x700000
abbrev winAction : Nat := 0x780000

/-- The tenant cipher page of tenant t (R174). -/
abbrev pgTenCip (t : Nat) : Nat := 0x1000000 + 0x1000 * t

/-- Where the model keys the words of PF1 BAR 0 and of each VF BAR 0.
DESIGN CHOICE (log entry 13, safe). -/
abbrev pf1Base : Nat := 0x100000000
abbrev vfBase (t : Nat) : Nat := 0x200000000 + 0x10000 * t
abbrev pgCus : Nat := pf1Base
abbrev pgCch (c : Nat) : Nat := pf1Base + 0x2000 + 0x200 * c

/-- The block page kinds of page k of a slice (R175). -/
def slicePageKind : Nat → Option PageKind
  | 0 => some .slPip | 1 => some .slTbl | 2 => some .slSch | 3 => some .slCip | 4 => some .slCrt
  | 5 => some .slEvc | 6 => some .slQmg | 7 => some .slDma | 8 => some .slRed | _ => none

/-- The block page kind and instance of 4 KiB page number `n` of PF0 BAR 0, below the windows (R174, R155). -/
def globalPageKind (n : Nat) : Option (PageKind × Nat) :=
  if n = 0 then some (.sys, 0) else if n = 1 then some (.tck, 0) else if n = 2 then some (.tms, 0)
  else if n = 3 then some (.pwr, 0) else if n = 4 then some (.red, 0) else if n = 5 then some (.alm, 0)
  else if n = 6 then some (.evc, 0)
  else if n < 8 then none
  else if n < 16 then some (if n = 8 then .hif0 else if n = 9 then .hif1 else .hifN, n - 8)
  else if n < 20 then some (.mem, n - 16)
  else if n = 20 then some (.ecc, 0)
  else if n < 32 then none
  else if n < 38 then some (.mac, n - 32)
  else if n = 38 then some (.cbp, 6)
  else if n < 40 then none
  else if n < 46 then some (.pcs, n - 40)
  else if n < 48 then none
  else if n = 48 then some (.qmg, 0) else if n = 49 then some (.dma, 0) else if n = 50 then some (.ten, 0)
  else if n = 51 then some (.mbx, 0) else if n = 52 then some (.sch, 0) else if n = 53 then some (.crt, 0)
  else if n < 0x100 then none
  else if n < 0x109 then (slicePageKind (n - 0x100)).map (fun k => (k, 0x40))
  else if n < 0x180 then none
  else if n < 0x189 then (slicePageKind (n - 0x180)).map (fun k => (k, 0x41))
  else none

/-- A register page: its kind, instance and base address. -/
structure PageAt where
  kind : PageKind
  inst : Nat
  base : Nat
deriving DecidableEq, Repr

/-- The register page that holds an address, if one does (windows other than cipher pages have none). -/
def pageAt (a : Nat) : Option PageAt :=
  if a < 0x400000 then
    (globalPageKind (a / 0x1000)).map (fun k => ⟨k.1, k.2, a / 0x1000 * 0x1000⟩)
  else if a < 0x1000000 then none
  else if a < 0x1400000 then some ⟨.tenCip, (a - 0x1000000) / 0x1000, a / 0x1000 * 0x1000⟩
  else if a < pf1Base then none
  else if a < vfBase 0 then
    let o := a - pf1Base
    if o < 0x1000 then some ⟨.cus, 0, pf1Base⟩
    else if o < 0x2000 then none
    else if o < 0x4000 then some ⟨.cch, (o - 0x2000) / 0x200, pf1Base + o / 0x200 * 0x200⟩
    else none
  else
    let t := (a - vfBase 0) / 0x10000
    let o := (a - vfBase 0) % 0x10000
    if 1024 ≤ t then none
    else if o < 0x1000 then some ⟨.vfStat, t, vfBase t⟩
    else if o < 0x2000 then some ⟨.vfDb, t, vfBase t + 0x1000⟩
    else if o < 0x3000 then some ⟨.tenCip, t, pgTenCip t⟩
    else if o < 0x4000 then some ⟨.vfMbx, t, vfBase t + 0x3000⟩
    else if o < 0x5000 then some ⟨.vfQv, t, vfBase t + 0x4000⟩
    else none

/-- Is this a block page with the common layout of R153? -/
def PageKind.isBlock : PageKind → Bool
  | .cch | .vfStat | .vfDb | .tenCip | .vfMbx | .vfQv => false
  | _ => true

/-- PAGE_CAP.has_cmd, as each chapter states it. -/
def PageKind.hasCmd : PageKind → Bool
  | .sys | .tck | .tms | .pwr | .red | .alm | .ten | .mac | .pcs | .cbp | .slTbl | .slCip | .crt | .mem | .slRed
  | .cus | .cch => true
  | _ => false

/-- PAGE_CAP.has_events, as R725 and each chapter state it. -/
def PageKind.hasEvents : PageKind → Bool
  | .tck | .pwr | .evc | .mac | .pcs | .cbp | .mem | .ecc | .red | .alm | .slPip | .slTbl | .slSch | .slCip
  | .slCrt | .slEvc | .slQmg | .slDma | .slRed => true
  | _ => false

/-- Block codes (R154); 0 for a page that is no block page. -/
def PageKind.code : PageKind → Nat
  | .sys => 1 | .tck => 2 | .tms => 3 | .pwr => 4 | .red | .slRed => 5 | .alm => 6 | .cus => 7
  | .evc | .slEvc => 8 | .hif0 | .hif1 | .hifN => 9 | .qmg | .slQmg => 0xA | .dma | .slDma => 0xB | .ten => 0xC
  | .mbx => 0xD | .mac => 0xE | .pcs => 0xF | .cbp => 0x10 | .slPip => 0x11 | .slTbl => 0x12
  | .sch | .slSch => 0x13 | .slCip => 0x14 | .crt | .slCrt => 0x15 | .mem => 0x16 | .ecc => 0x17
  | _ => 0

/-- The bit of a page in SYS_ERR_SUMMARY (R174); none for the CUS page and the pages outside the common layout. -/
def summaryBit (p : PageAt) : Option Nat :=
  match p.kind with
  | .sys => some 0 | .tck => some 1 | .tms => some 2 | .pwr => some 3 | .red => some 4 | .alm => some 5
  | .evc => some 6 | .hif0 | .hif1 | .hifN => some (7 + p.inst) | .mem => some (15 + p.inst) | .ecc => some 19
  | .mac => some (20 + p.inst) | .cbp => some 26 | .pcs => some (27 + p.inst)
  | .qmg => some 33 | .dma => some 34 | .ten => some 35 | .mbx => some 36 | .sch => some 37 | .crt => some 38
  | .slPip | .slTbl | .slSch | .slCip | .slCrt | .slEvc | .slQmg | .slDma | .slRed =>
    some (39 + 9 * (p.inst - 0x40) + (p.base % 0x80000) / 0x1000)
  | _ => none

/-- The row of an offset of a page: its own chapter's, else the common one of R153. -/
def pageRow (k : PageKind) (off : Nat) : Option RegRow :=
  match findRow off (regRows k) with
  | some r => some r
  | none => if k.isBlock then findRow off rows_common else none

/-- What a register reads as at reset (the Reset columns; R33).
DESIGN CHOICE (log entry 13, safe). -/
def regDflt (a : Nat) : Word :=
  match pageAt a with
  | none => 0
  | some p => match pageRow p.kind (a - p.base) with
    | some r => r.reset
    | none => 0

/-! ### Register words -/

/-- The stored word of a register or window. -/
def rd (s : State) (a : Nat) : Word := tget regDflt s.regs a

/-- The word in force since the last boundary, for a register or window that takes effect there (R104).
DEDUCED (log entry 14, unsafe). -/
def rdEff (s : State) (a : Nat) : Word := tget regDflt s.eff a

/-- Store a word. -/
def wr (s : State) (a : Nat) (w : Word) : State := { s with regs := tset regDflt s.regs a w }

/-- Store consecutive words. -/
def wrMany (s : State) (a : Nat) : List Word → State
  | [] => s
  | w :: ws => wrMany (wr s a w) (a + 4) ws

/-- Add to a 32-bit RC counter, modulo 2^32.
DEDUCED (log entry 25, unsafe). -/
def bumpBy (s : State) (a n : Nat) : State := wr s a (rd s a + w32 n)

/-- Count one. -/
def bump (s : State) (a : Nat) : State := bumpBy s a 1

/-- A counter wider than a word. -/
def rdWide (s : State) (a : Nat) : Nat := tget (fun _ => 0) s.wide a

/-- Set a wide counter. -/
def wrWide (s : State) (a n : Nat) : State := { s with wide := tset (fun _ => 0) s.wide a n }

/-- Add to a wide counter, modulo 2^64.
DEDUCED (log entry 25, unsafe). -/
def bumpWide (s : State) (a n : Nat) : State := wrWide s a ((rdWide s a + n) % 2 ^ 64)

/-! ### Time -/

/-- The tick stamp (R81). -/
def State.stamp (s : State) : Nat := s.tck.tick % 65536

/-- The units in which PTP time is held, per nanosecond. -/
abbrev ptpPerNs : Nat := 65536 * 10 ^ 12

/-- PTP time in whole nanoseconds since the epoch (R82: truncated). -/
def ptpNs (p : Nat) : Nat := p / ptpPerNs

/-- PTP time added by one core cycle: 0.625 ns × (1 + adj × 10^-12) (R76).
DEDUCED (log entry 16, unsafe). -/
def perCycle (adj : Int) : Nat := (40960 * ((10 : Int) ^ 12 + adj)).toNat

/-- PTP time at cycle `c` of the tick in progress. -/
def ptpAtCycle (s : State) (c : Nat) : Nat :=
  s.time.ptp + c * perCycle (sgn32 (rdEff s (pgTms + Reg.TMS_FREQ_ADJ)))

/-- Seconds of PTP time. -/
def State.seconds (s : State) : Nat := ptpNs s.time.ptp / 10 ^ 9

/-- The compact timestamp of a PTP time (R81): [63:30] seconds modulo 2^34, [29:0] ns. -/
def compactStamp (p : Nat) : Nat := (ptpNs p / 10 ^ 9) % 2 ^ 34 * 2 ^ 30 + ptpNs p % 10 ^ 9

/-- Tick periods in ns by TCK_PERIOD code (R89). -/
def periodNs (code : Nat) : Nat :=
  [250, 400, 500, 625, 800, 1000, 1250, 1600, 2000, 2500, 3125, 4000].getD code 500

/-- Nominal core cycles per tick N (R89). -/
def periodCycles (code : Nat) : Nat := periodNs code * 8 / 5

/-- T in force, ns. -/
def State.T (s : State) : Nat := periodNs s.tck.period

/-- Boundaries in a number of nanoseconds, for a timer kept in ticks (R93). -/
def boundariesIn (s : State) (ns : Nat) : Nat := ns / s.T

/-- Have at least `n` boundaries passed since boundary count `at0`? (R93) -/
def passed (s : State) (at0 n : Nat) : Bool := decide (at0 + n ≤ s.tck.boundaries)

/-! ### Functions and interrupts (R257 to R261) -/

/-- The word of configuration space of function f at offset `off`. Keys are 4096 × f + off. The values are those of
R228 to R233.
PRESUMED (log entry 23, unsafe). -/
def cfgDflt (key : Nat) : Word :=
  let f := key / 4096
  let o := key % 4096
  if o = 0x00 then (if f = 0 then 0x14601F2B else if f = 1 then 0x14611F2B else 0xFFFFFFFF)
  else if o = 0x04 then 0x00100000
  else if o = 0x08 then (if f = 1 then 0x10800001 else 0x02000001)
  else if o = 0x0C then (if f = 0 then 0x00800000 else 0)
  else if o = 0x10 then (if f < 2 then 4 else 0)
  else if o = 0x18 then (if f = 0 then 0xC else 0)
  else if o = 0x20 then (if f < 2 then 4 else 0)
  else if o = 0x2C then (if f = 0 then 0x14601F2B else if f = 1 then 0x14611F2B else 0x14621F2B)
  else if o = 0x34 then 0x40
  else if o = 0x40 then 0x40035001
  else if o = 0x44 then 0x00000008
  else if o = 0x50 then 0x0002B010
  else if o = 0x54 then 0x10008022
  else if o = 0x58 then 0x00002810
  else if o = 0x5C then (if f < 2 then 0x00400105 else 0)
  else if o = 0x74 then 0x00030000
  else if o = 0x7C then (if f < 2 then 0x0000003E else 0)
  else if o = 0x80 then (if f = 0 then 5 else 0)
  else if o = 0xB0 then (if f = 0 then 0x07FF0011 else if f = 1 then 0x00030011 else 0x00070011)
  else if o = 0xB4 then 4
  else if o = 0xB8 then (if f = 0 then 0x8004 else 0x804)
  else if o = 0x100 then 0x14820001
  else if o = 0x10C then (if f < 2 then 0x00462030 else 0)
  else if o = 0x114 then (if f < 2 then 0x00006000 else 0)
  else if o = 0x118 then 0x000000A0
  else if o = 0x148 then (if f < 2 then 0x1501000E else 0x0001000E)
  else if o = 0x14C then (if f = 0 then 0x100 else 0)
  else if o = 0x150 then (if f = 0 then 0x19010010 else if f = 1 then 0x0001000D else 0)
  else if f ≠ 0 then 0
  else if o = 0x15C then 0x04000400
  else if o = 0x164 then 0x00010002
  else if o = 0x168 then 0x14620000
  else if o = 0x16C then 0x1F
  else if o = 0x170 then 1
  else if o = 0x174 then 4
  else if o = 0x184 then 4
  else if o = 0x190 then 0x1981000D
  else if o = 0x198 then 0x1A410003
  else if o = 0x19C then BitVec.ofNat 32 Config.serialNumber.toNat
  else if o = 0x1A0 then BitVec.ofNat 32 (Config.serialNumber.toNat / 2 ^ 32)
  else if o = 0x1A4 then 0x1D010019
  else if o = 0x1D0 then 0x1DC10025
  else if o = 0x1D4 then 0x80000001
  else if o = 0x1DC then 0x20C10026
  else if o = 0x20C then 0x23C1002A
  else if o = 0x23C then 0x00010027
  else 0

/-- A configuration word as written. -/
def cfgRd (s : State) (f o : Nat) : Word := tget cfgDflt s.pcie.cfg (4096 * f + o)

/-- A configuration word in force since the last boundary. -/
def cfgEff (s : State) (f o : Nat) : Word := tget cfgDflt s.pcie.cfgEff (4096 * f + o)

/-- Store a configuration word. -/
def cfgWr (s : State) (f o : Nat) (w : Word) : State :=
  { s with pcie := { s.pcie with cfg := tset cfgDflt s.pcie.cfg (4096 * f + o) w } }

/-- Bus Master Enable. -/
def bme (s : State) (f : Nat) : Bool := fbit (cfgRd s f 4) 2
/-- Bus Master Enable as in force since the last boundary (R264). -/
def bmeEff (s : State) (f : Nat) : Bool := fbit (cfgEff s f 4) 2
/-- The function is in D3hot, from the boundary after the write (R260). -/
def inD3 (s : State) (f : Nat) : Bool := fld (cfgEff s f 0x44) 1 0 == 3
/-- MSI-X Enable. -/
def msixEn (s : State) (f : Nat) : Bool := fbit (cfgRd s f 0xB0) 31
/-- MSI-X Function Mask. -/
def msixFnMask (s : State) (f : Nat) : Bool := fbit (cfgRd s f 0xB0) 30
/-- VF Enable and NumVFs of PF0's SR-IOV capability. -/
def vfEnable (s : State) : Bool := fbit (cfgRd s 0 0x158) 0
def numVfs (s : State) : Nat := fld (cfgRd s 0 0x160) 15 0
/-- Does function f exist (R225, R226)? -/
def fnExists (s : State) (f : Nat) : Bool := f < 2 || decide (f - 2 < s.pcie.vfLive)
/-- Is function f under reset (R207)? -/
def inFlr (s : State) (f : Nat) : Bool := s.pcie.flr.contains f
/-- Max_Payload_Size and Max_Read_Request_Size of function f, bytes (R232, R240). -/
def mps (s : State) (f : Nat) : Nat := 128 * 2 ^ fld (cfgRd s f 0x58) 7 5
def mrrs (s : State) (f : Nat) : Nat := 128 * 2 ^ fld (cfgRd s f 0x58) 14 12

/-- Note something that leaves the device.
DESIGN CHOICE (log entry 100, safe). -/
def emit (s : State) (o : Out) : State := { s with out := o :: s.out }

/-- A PME event (R261): PME_Status is set, and with PME_En a PM_PME message leaves and is counted. -/
def pmeEvent (s : State) (f : Nat) : State :=
  let s1 := cfgWr s f 0x44 (putBit (cfgRd s f 0x44) 15 true)
  if fbit (cfgRd s f 0x44) 8 then
    let s2 := bump (emit s1 (.pme f)) (pgHif 0 + Reg.HIF_PME_CNT)
    { s2 with pcie := { s2.pcie with pmeAt := tset (fun _ => 0) s2.pcie.pmeAt f s2.tck.boundaries } }
  else s1

/-- Set a pending bit. -/
def setPba (s : State) (f v : Nat) : State :=
  if s.pcie.pba.contains (2048 * f + v) then s
  else { s with pcie := { s.pcie with pba := s.pcie.pba ++ [2048 * f + v] } }

/-- A vector of function f fires (R259): pended with PME in D3hot; discarded and counted while MSI-X Enable is 0;
else pended until MSIX_MESSAGE_SEND finds every condition clear. -/
def fireVector (s : State) (f v : Nat) : State :=
  if inD3 s f then pmeEvent (setPba s f v) f
  else if !msixEn s f then bump s (pgHif 0 + Reg.HIF_INT_DROP_CNT)
  else setPba s f v

/-! ### Error registers (R157 to R160) -/

/-- Is the page's summary condition true (R159)? -/
def errSummary (s : State) (page : Nat) : Bool :=
  decide (rd s (page + Reg.PAGE_ERR) &&& ~~~(rd s (page + Reg.PAGE_ERR_MASK)) ≠ 0)

/-- Record the first occurrence on a page (R158). -/
def recordFirst (s : State) (page code status : Nat) (cmd : Bool) : State :=
  if fbit (rd s (page + Reg.PAGE_ERR_FIRST)) 31 then s
  else wr s (page + Reg.PAGE_ERR_FIRST)
    (w32 (s.stamp + 65536 * (code % 256) + 2 ^ 24 * (status % 16) + 2 ^ 30 * cmd.toNat + 2 ^ 31))

/-- A summary bit that rises fires the manager's error vector (R256).
DEDUCED (log entry 39, unsafe). -/
def summaryRise (s0 s1 : State) (page : Nat) : State :=
  match pageAt page with
  | none => s1
  | some p =>
    if (summaryBit p).isSome && !errSummary s0 page && errSummary s1 page
        && fbit (rd s1 (pgHif 0 + Reg.HIF_ERR_VECTOR)) 31 then
      fireVector s1 0 (fld (rd s1 (pgHif 0 + Reg.HIF_ERR_VECTOR)) 10 0)
    else s1

/-- An error sets PAGE_ERR bit n of a block page (R157, R158, R159, R256). -/
def setErr (s : State) (page n : Nat) : State :=
  if fbit (rd s (page + Reg.PAGE_ERR)) n then s
  else
    let s1 := wr s (page + Reg.PAGE_ERR) (rd s (page + Reg.PAGE_ERR) ||| w32 (2 ^ n))
    summaryRise s (recordFirst s1 page n 0 false) page

/-- The partial_write bit of a page (R34, R777). -/
def partialBit : PageKind → Nat
  | .sys => 2 | .tms | .pwr => 3 | .tck => 4 | _ => 0

/-! ### Page commands (R163 to R167) -/

/-- Status codes (R35). -/
abbrev stOK : Nat := 0
abbrev stBUSY : Nat := 1
abbrev stWRONG_STATE : Nat := 2
abbrev stBAD_ARG : Nat := 3
abbrev stNOT_FOUND : Nat := 4
abbrev stTABLE_FULL : Nat := 5
abbrev stLOCKED : Nat := 6
abbrev stPOISONED : Nat := 7
abbrev stTIMEOUT : Nat := 8
abbrev stDENIED : Nat := 9
abbrev stFAULT : Nat := 10
abbrev stSTALE_GENERATION : Nat := 11

/-- The command running on a page. -/
def runningOn (s : State) (page : Nat) : Option RunCmd := s.running.find? (fun c => c.page == page)

/-- A command of the equinox sync engine has ended; the outputs of its DIGESTs are kept (R673, R674). -/
def noteSync (s : State) (page : Nat) (o : Word × Word × Word) : State :=
  { s with red := { s.red with
      syncWait := s.red.syncWait.filter (fun p => p != page)
      digestA := if page = pgSlice .ochre 1 then some o else s.red.digestA
      digestB := if page = pgSlice .slate 1 then some o else s.red.digestB } }

/-- A command ends: result and outputs in one cycle (R166); any status but OK and BUSY is an occurrence (R158). -/
def finishCmd (s : State) (page status : Nat) (o0 o1 o2 : Word) : State :=
  match runningOn s page with
  | none => s
  | some c =>
    let s0 := if c.via = .sync then noteSync s page (o0, o1, o2) else s
    let s1 := { s0 with running := s0.running.filter (fun c => c.page != page) }
    let refused := (rd s (page + Reg.CMD_RESULT)) &&& 2
    let s2 := wr s1 (page + Reg.CMD_RESULT)
      (w32 (1 + 256 * status + 65536 * (c.code % 256) + 2 ^ 24 * (c.seq % 256)) ||| refused)
    let s3 := wrMany s2 (page + Reg.CMD_OUT) [o0, o1, o2]
    if status ≠ stOK ∧ status ≠ stBUSY ∧ page < pgCch 0 then recordFirst s3 page c.code status true else s3

/-- A command ends with a status and no outputs. -/
def endCmd (s : State) (page status : Nat) : State := finishCmd s page status 0 0 0

/-- A command is accepted: arguments latched, result cleared (R163), and on a TBL page the response (R496). -/
def acceptCmd (s : State) (page code seq : Nat) (via : Master) : State :=
  let a (k : Nat) := rd s (page + Reg.CMD_ARG + 4 * k)
  let s1 := { s with running := s.running ++ [⟨page, code, seq, via, a 0, a 1, a 2⟩] }
  let s2 := wr s1 (page + Reg.CMD_RESULT) (w32 (65536 * (code % 256) + 2 ^ 24 * (seq % 256)))
  let s3 := wrMany s2 (page + Reg.CMD_OUT) [0, 0, 0]
  if page = pgSlice .ochre 1 ∨ page = pgSlice .slate 1 then
    wrMany s3 (page + Reg.TBL_RSP) [0, 0, 0, 0, 0, 0, 0, 0, 0, 0]
  else s3

/-- A write to PAGE_CMD while a command runs is refused with BUSY: only `refused` changes (R164). -/
def refuseCmd (s : State) (page : Nat) : State :=
  wr s (page + Reg.CMD_RESULT) (rd s (page + Reg.CMD_RESULT) ||| 2)

/-- What a command table says of one command: who may issue it, in which phases, and what it does once accepted. -/
structure CmdSpec where
  role : Master → Bool
  phases : Phase → Bool
  body : RunCmd → State → State

/-- No warm reset has closed the gatekeepers yet (R204). -/
def warmOpen (s : State) : Bool := s.power.warm == .idle || s.power.warm == .accepted

/-- The function a host master is. -/
def masterFn : Master → Nat
  | .pf1 => 1
  | .vf t => 2 + t.val
  | _ => 0

/-- Are a master's accesses served now (R188, R204, R207, R225, R244)? The writes of a function under reset are
ignored.
DESIGN CHOICE (log entry 31, safe). -/
def served (s : State) (via : Master) (write : Bool) : Bool :=
  s.power.bringupDone && match via with
    | .maint | .sync => true
    | m => warmOpen s && fnExists s (masterFn m) && !inD3 s (masterFn m) && !(write && inFlr s (masterFn m))

/-- A write of a command code to a page's PAGE_CMD (R163 to R165): `spec` is the page's row for the code, none for a
code the page does not define. None can be issued during bring-up (R188). -/
def issueCmd (spec : Option CmdSpec) (page code seq : Nat) (via : Master) (s : State) : State :=
  if !s.power.bringupDone then s
  else if (runningOn s page).isSome then refuseCmd s page
  else
    let s1 := acceptCmd s page code seq via
    match spec, runningOn s1 page with
    | some sp, some c =>
      if !sp.role via then endCmd s1 page stDENIED
      else if !sp.phases s.power.phase then endCmd s1 page stWRONG_STATE
      else sp.body c s1
    | _, _ => endCmd s1 page stBAD_ARG

/-- A command row: its master's writes, if they are served now, put the arguments into CMD_ARG0–2 and the code into
PAGE_CMD (R163, R188, R207). -/
def commandRow (spec : CmdSpec) (page code : Nat) (via : Master) (seq : Byte) (a0 a1 a2 : Word) (s : State) : State :=
  if !served s via true then s
  else issueCmd (some spec) page code seq.toNat via (wrMany s (page + Reg.CMD_ARG) [a0, a1, a2])

/-- The masters that reach the global space (R4, R8). -/
def Master.isGlobal : Master → Bool
  | .maint | .pf0 | .sync => true
  | _ => false

/-- Every phase. -/
def anyPhase : Phase → Bool := fun _ => true
/-- Every phase but recovery. -/
def notRecovery : Phase → Bool := fun p => p != .recovery

/-! ### Events (R722 to R725) -/

/-- The source code of event e of a shared-edge page (R722). -/
def srcEdge (block inst e : Nat) : Nat := inst * 8192 + block * 256 + e
/-- The source code of event e of a slice page (R722). -/
def srcSlice (sl : SliceId) (block e : Nat) : Nat := sl.num * 131072 + 65536 + block * 256 + e

/-- An event source signals `n` occurrences with qualifier q; a slice under reset signals none (R732). -/
def signal (s : State) (src q n : Nat) : State :=
  if nbit src 16 && (if nbit src 17 then s.red.slate.resetting else s.red.ochre.resetting) then s
  else { s with evc := { s.evc with occs := List.replicate n ⟨src, q⟩ ++ s.evc.occs } }

/-! ### Slices (R48 to R52, R649) -/

/-- What the redundancy logic holds for a slice. -/
def State.slice (s : State) : SliceId → SliceRed
  | .ochre => s.red.ochre
  | .slate => s.red.slate

/-- Set what the redundancy logic holds for a slice. -/
def State.setSlice (s : State) (sl : SliceId) (x : SliceRed) : State :=
  match sl with
  | .ochre => { s with red := { s.red with ochre := x } }
  | .slate => { s with red := { s.red with slate := x } }

/-- The active slice, if there is one. -/
def State.activeSlice (s : State) : Option SliceId :=
  if s.red.ochre.role = .active then some .ochre
  else if s.red.slate.role = .active then some .slate
  else none

/-- Do the gatekeepers accept a slice that may still issue requests (R49, R52, R655)? -/
def gkOpen (s : State) : Bool :=
  match s.red.accepted with
  | none => false
  | some sl => !(s.slice sl).fenced && warmOpen s && s.power.phase != .recovery

/-- The drain stage of the equinox: the active slice starts no decryption and issues no read (R673). -/
def draining (s : State) : Bool := s.red.stage == .drain

/-- The slice whose engines do the work that leaves the device. -/
def State.worker (s : State) : SliceId := s.red.accepted.getD .ochre

/-! ### AER (R254, R255) -/

/-- The function whose AER masks and severities hold for function f: PF0's for a VF.
DEDUCED (log entry 44, unsafe). -/
def aerPf (f : Nat) : Nat := if f < 2 then f else 0

/-- Device Status of a function takes bits: 1 correctable, 2 non-fatal, 4 fatal, 8 unsupported request detected. -/
def devSta (s : State) (f bits : Nat) : State := cfgWr s f 0x58 (cfgRd s f 0x58 ||| w32 (65536 * bits))

/-- Log an uncorrectable error, by its AER status bit, in a function, with its header; `advisory` logs it as an
advisory non-fatal error instead of sending a message. -/
def aerUnc (s : State) (f bit : Nat) (header : List Word) (advisory : Bool) : State :=
  let masked := fbit (cfgRd s (aerPf f) 0x108) bit
  let fatal := fbit (cfgRd s (aerPf f) 0x10C) bit
  let first := decide (cfgRd s f 0x104 &&& ~~~(cfgRd s (aerPf f) 0x108) = 0)
  let s0 := devSta s f ((if advisory then 1 else if fatal then 4 else 2) + (if bit = 20 then 8 else 0))
  let s1 := cfgWr s0 f 0x104 (cfgRd s0 f 0x104 ||| w32 (2 ^ bit))
  let s2 := if advisory then cfgWr s1 f 0x110 (cfgRd s1 f 0x110 ||| 0x2000) else s1
  if masked then s2
  else
    let s3 := if first then
        let s3 := cfgWr s2 f 0x118 (putFld (cfgRd s2 f 0x118) 4 0 bit)
        cfgWr (cfgWr (cfgWr (cfgWr s3 f 0x11C (header.getD 0 0)) f 0x120 (header.getD 1 0))
          f 0x124 (header.getD 2 0)) f 0x128 (header.getD 3 0)
      else s2
    if advisory then s3
    else emit s3 (.errMsg f (if fatal then 2 else 1))

/-- Log a correctable error, by its AER status bit, in a function. -/
def aerCor (s : State) (f bit : Nat) : State :=
  let s0 := devSta s f 1
  let s1 := cfgWr s0 f 0x110 (cfgRd s0 f 0x110 ||| w32 (2 ^ bit))
  if fbit (cfgRd s (aerPf f) 0x114) bit then s1 else emit s1 (.errMsg f 0)

/-! ### Alarms (R691 to R703) and recovery (R217) -/

/-- Level of a source: 0 off, 1 Amber, 2 Crimson (R691, R693). -/
def alarmLevel (s : State) (src : Nat) : Nat :=
  if src = 0 then 0
  else if src ≤ 5 then fld s.vkeep.policy (2 * src - 1) (2 * src - 2)
  else if src = 9 then 2
  else 1

/-- Write an entry of the event log (R703). -/
def logAlarm (s : State) (src : Nat) (crimson : Bool) : State :=
  let i := if s.alog.used = 0 then 0 else (s.alog.head + 1) % 16
  let a := s.alog
  { s with alog := { a with
      w0 := tset (fun _ => 0) a.w0 i (w32 (src + 256 * crimson.toNat + 65536 * s.stamp)),
      w1 := tset (fun _ => 0) a.w1 i (w32 (if s.power.mainRails then s.seconds else s.vkeep.secs)),
      head := i, used := a.used + 1 } }

/-- Fire the PF1 vector of the CUS page when irq_en is 1 (R694). -/
def cusIrq (s : State) : State :=
  let c := rd s (pgCus + Reg.PAGE_CTL)
  if fbit c 0 then fireVector s 1 (fld c 2 1) else s

/-- An empty root key slot. -/
def emptySlot : KeySlot := ⟨none, none, none, 0⟩

/-- A root key slot. -/
def getSlot (s : State) (k : Nat) : KeySlot := tget (fun _ => emptySlot) s.vkeep.slots k

/-- Set a root key slot. -/
def putSlot (s : State) (k : Nat) (x : KeySlot) : State :=
  { s with vkeep := { s.vkeep with slots := tset (fun _ => emptySlot) s.vkeep.slots k x } }

/-- Erase a slot: both halves and the selector in one step; the number of loads stays (R684, R689). -/
def eraseSlot (s : State) (k : Nat) : State :=
  putSlot s k ⟨none, none, none, (getSlot s k).loads⟩

/-- The 16 slots erased (R695). -/
def eraseAllSlots (s : State) : State := (List.range 16).foldl eraseSlot s

/-- An Amber alarm (R694). -/
def amber (s : State) (src : Nat) : State :=
  let s1 := { s with vkeep := { s.vkeep with latch := s.vkeep.latch ||| w32 (2 ^ src) } }
  if !s.power.mainRails then s1
  else
    let s2 := bump (logAlarm s1 src false) (pgAlm + Reg.ALM_AMBER_CNT)
    cusIrq (setErr (setErr (signal s2 (srcEdge 6 0 0) src 1) pgAlm 1) pgCus 2)

/-- A Crimson alarm (R695): the report of R694 with the crimson bits, the erasure, the tamper record and the erased
lock. The derived-key caches follow by CRIMSON_CACHE_INVALIDATE. -/
def crimson (s : State) (src : Nat) : State :=
  let s1 := eraseAllSlots s
  let v := s1.vkeep
  let s2 := { s1 with vkeep := { v with
    latch := v.latch ||| w32 (2 ^ src), erasedLock := true, blank := false, sealed := false,
    crimsons := satAt 65535 (v.crimsons + 1),
    firstSrc := if v.crimsons = 0 then src else v.firstSrc, lastSrc := src,
    firstAt := if v.crimsons = 0 then v.secs else v.firstAt, lastAt := v.secs,
    ptpAt := if s.power.mainRails && s.time.timeValid then s.seconds % 2 ^ 32 else 0,
    ptpValid := s.power.mainRails && s.time.timeValid,
    crimsonDown := v.crimsonDown || !s.power.mainRails } }
  if !s.power.mainRails then s2
  else
    let s3 := signal (logAlarm { s2 with cip := { s2.cip with crimsonDue := true } } src true) (srcEdge 6 0 1) src 1
    cusIrq (setErr (setErr s3 pgAlm 2) pgCus 3)

/-- A source is raised at its level (R691 to R695). -/
def raise (s : State) (src : Nat) : State :=
  if !s.vkeep.present && src ≤ 9 then s
  else match alarmLevel s src with
    | 0 => s
    | 1 => amber s src
    | _ => crimson s src

/-- A fault that needs a device reset (R217): recovery begins at the next boundary; the first cause is kept. -/
def needReset (s : State) (page bit : Nat) : State :=
  if s.power.phase = .recovery || s.power.recoverPend.isSome then s
  else match pageAt page with
    | none => s
    | some p => { s with power := { s.power with recoverPend := some ⟨p.kind.code, p.inst, bit⟩ } }

/-! ### Credits (R118 to R121, R141) -/

/-- The key of an account: 256 × engine + account. -/
abbrev acct (eng a : Nat) : Nat := 256 * eng + a

/-- Work, buffer and energy credits an account still holds in this tick. -/
def workLeft (s : State) (k : Nat) : Nat := tget (fun _ => 0) s.cred.work k
def bufferLeft (s : State) (k : Nat) : Nat := tget (fun _ => 0) s.cred.buffer k
def grantLeft (s : State) (k : Nat) : Nat := tget (fun _ => 0) s.cred.energy k

/-- A fresh index for a free value. -/
def tickFree (s : State) : State := { s with free := s.free + 1 }

end Sys2Proof.Machine
end

