-- ==== Sys2Proof/Machine/Credit.lean ====
section
/-! DEFINITION. The tick plan (R105 to R116), the energy coefficients (R131 to R136) and the grant of work, buffer
and energy credits (R118 to R121, R126 to R143). -/
namespace Sys2Proof.Machine

/-! ### Banks of words -/

/-- A bank of words, unlisted words 0. -/
def bankWord (b : Table Word) (i : Nat) : Word := tget (fun _ => 0) b i

/-- The first `n` words of a bank as bytes (R20). -/
def bankBytes (d : Nat → Word) (b : Table Word) (n : Nat) : List Byte :=
  (List.range n).flatMap (fun i => wordBytes (tget d b i))

/-! ### The tick plan -/

/-- The shadow and the active plan bank (R105). -/
def shadowBank (s : State) : Table Word := if s.tck.activeBank then s.tck.bank0 else s.tck.bank1
def activePlanBank (s : State) : Table Word := if s.tck.activeBank then s.tck.bank1 else s.tck.bank0

/-- Write a word of the shadow plan bank. -/
def putShadowPlan (s : State) (i : Nat) (w : Word) : State :=
  if s.tck.activeBank then { s with tck := { s.tck with bank0 := tset (fun _ => 0) s.tck.bank0 i w } }
  else { s with tck := { s.tck with bank1 := tset (fun _ => 0) s.tck.bank1 i w } }

/-- An account entry of a plan (R109). -/
structure PlanEntry where
  account : Nat
  engine : Nat
  work : Nat
  cap : Nat
  prio : Nat
  rsvd : Nat
deriving DecidableEq, Repr

def PlanEntry.key (e : PlanEntry) : Nat := acct e.engine e.account

/-- The entry in the two words of a plan at index j (R109). -/
def planEntry (w0 w1 : Word) : PlanEntry :=
  ⟨fld w0 7 0, fld w0 15 8, fld w0 31 16, fld w1 15 0, fld w1 18 16, fld w1 31 19⟩

/-- The count field of a plan bank (R109). -/
def planCount (b : Table Word) : Nat := fld (bankWord b 1) 15 0

/-- The account entries of a plan bank. -/
def planEntries (b : Table Word) : List PlanEntry :=
  (List.range (planCount b)).map (fun j => planEntry (bankWord b (16 + 2 * j)) (bankWord b (17 + 2 * j)))

/-- The activation tick of a plan bank (R109). -/
def planActivation (b : Table Word) : Nat := (bankWord b 2).toNat + 2 ^ 32 * (bankWord b 3).toNat

/-- The number of accounts of an engine code; none for an unknown engine (R111). -/
def engineAccounts (e : Nat) : Option Nat :=
  if e = 1 ∨ e = 2 ∨ e = 3 ∨ e = 4 then some 3 else if e = 5 then some 2 else if e = 6 then some 1
  else if e = 7 then some 7 else if 0x10 ≤ e ∧ e ≤ 0x13 then some 4 else none

/-- Core cycles per unit (R111). -/
def engineCycles (e : Nat) : Nat :=
  if e = 2 then 2 else if e = 5 then 8 else if e = 6 then 4 else if 0x10 ≤ e then 2 else 1

/-- Capacity of an engine per tick (R111): for the scheduler, of each account. -/
def engineCapacity (nmin e : Nat) : Nat :=
  if e = 4 then 8 * nmin else if 0x10 ≤ e then 4 * nmin / 5 else nmin

/-- N_min of the period in force (R89). -/
def nMin (s : State) : Nat := periodCycles s.tck.period - 1

/-- Rate of a port mode in units of 10 Mb/s (R376). -/
def modeRate (m : Nat) : Nat :=
  if 1 ≤ m ∧ m ≤ 3 then 20000 else if m = 4 ∨ m = 5 then 10000 else if 6 ≤ m ∧ m ≤ 8 then 5000
  else if m = 9 ∨ m = 10 then 2500 else 0

/-- PAM4 lanes and NRZ lanes of a port mode (R376). -/
def modePam4 (m : Nat) : Nat :=
  if 1 ≤ m ∧ m ≤ 3 then 4 else if m = 4 ∨ m = 5 then 2 else if 6 ≤ m ∧ m ≤ 8 then 1 else 0
def modeNrz (m : Nat) : Nat := if m = 9 ∨ m = 10 then 1 else 0

/-- A port of P0 to P5. -/
def getPort (s : State) (p : Nat) : PortUnit := tget (fun _ => PortUnit.reset) s.ports p
def putPort (s : State) (p : Nat) (x : PortUnit) : State :=
  { s with ports := tset (fun _ => PortUnit.reset) s.ports p x }

/-- A DRAM channel. -/
def getChan (s : State) (c : Nat) : MemChan := tget (fun _ => MemChan.reset) s.mem c
def putChan (s : State) (c : Nat) (x : MemChan) : State :=
  { s with mem := tset (fun _ => MemChan.reset) s.mem c x }

/-- PCS_MODE.mode of port p. -/
def portMode (s : State) (p : Nat) : Nat := fld (rd s (pgPcs p + Reg.PCS_MODE)) 3 0

/-- Sum of the configured rates of the enabled ports, in units of 10 Mb/s (R113, R385). -/
def rateSum (s : State) : Nat :=
  (List.range 6).foldl (fun a p => if (getPort s p).enabled then a + modeRate (portMode s p) else a) 0
    + s.cbp.enabled.toNat

/-- R_net of a rate sum in units of 10 Mb/s: ⌈S × T / 672⌉ (R113). -/
def netReserveOf (s : State) (rate : Nat) : Nat := cdiv (rate * s.T) 67200

/-- R_net (R113). -/
def netReserve (s : State) : Nat := netReserveOf s (rateSum s)

/-- The first index of a list whose element satisfies `p`. -/
def firstIdx {α : Type} (p : α → Bool) : List α → Nat → Option Nat
  | [], _ => none
  | x :: t, i => if p x then some i else firstIdx p t (i + 1)

/-- Byte offset of account entry j of a plan or coefficient table (R109, R134). -/
abbrev entryOff (j : Nat) : Nat := 64 + 8 * j

/-- R110, first check: format, period, count and reserved fields; the lowest offset that fails. -/
def planCheckFields (code : Nat) (b : Table Word) : Option Nat :=
  let w0 := bankWord b 0
  let w1 := bankWord b 1
  if fld w0 15 0 ≠ 1 then some 0
  else if fld w0 19 16 ≠ code ∨ fld w0 23 20 ≠ 0 then some 2
  else if fld w0 31 24 ≠ 0 then some 3
  else if planCount b = 0 ∨ 256 < planCount b then some 4
  else if fld w1 31 16 ≠ 0 then some 6
  else if (List.range 11).any (fun i => decide (bankWord b (5 + i) ≠ 0)) then some 20
  else match firstIdx (fun e => decide (e.rsvd ≠ 0)) (planEntries b) 0 with
    | none => none
    | some j => some (entryOff j + (if ((planEntries b).getD j ⟨0, 0, 0, 0, 0, 0⟩).rsvd % 32 ≠ 0 then 6 else 7))

/-- The checksum of a bank of `count` entries with its checksum field zero (R109). -/
def bankChecksum (d : Nat → Word) (b : Table Word) (count : Nat) : Nat :=
  let l := bankBytes d b (16 + 2 * count)
  crc32c (l.take 16 ++ [0, 0, 0, 0] ++ l.drop 20)

/-- The first entry that is not above the entry before it (R110). -/
def firstUnordered : List Nat → Nat → Option Nat
  | a :: b :: t, i => if a < b then firstUnordered (b :: t) (i + 1) else some (i + 1)
  | _, _ => none

/-- R110, the demand check: the entry and the cycles reported. -/
def firstOverDemand (nmin : Nat) (all : List PlanEntry) : List PlanEntry → Nat → Option (Nat × Nat × Nat)
  | [], _ => none
  | e :: t, i =>
    let own := e.work * engineCycles e.engine
    let sum := (all.filter (fun x => x.engine == e.engine)).foldl (fun a x => a + x.work * engineCycles x.engine) 0
    if e.engine = 7 then
      if nmin < own then some (i, 7, own) else firstOverDemand nmin all t (i + 1)
    else if engineCapacity nmin e.engine < sum then some (i, e.engine, sum)
    else firstOverDemand nmin all t (i + 1)

/-- ARM_PLAN's checks in order (R110): the outputs of the first that fails, none if the bank passes. -/
def planCheck (s : State) (b : Table Word) : Option (Word × Word × Word) :=
  let code := fld (rd s (pgTck + Reg.TCK_PERIOD)) 3 0
  match planCheckFields code b with
  | some o => some (w32 o, 0, 0)
  | none =>
    let nmin := periodCycles code - 1
    let es := planEntries b
    let sum := bankChecksum (fun _ => 0) b es.length
    if sum ≠ (bankWord b 4).toNat then some (0x10, w32 sum, 0)
    else match firstUnordered (es.map PlanEntry.key) 0 with
    | some j => some (w32 (entryOff j), 0, 0)
    | none =>
      match firstIdx (fun e => match engineAccounts e.engine with
          | none => true
          | some n => decide (n ≤ e.account)) es 0 with
      | some j => some (w32 (entryOff j), 0, 0)
      | none =>
        match firstOverDemand nmin es es 0 with
        | some (j, eng, d) => some (w32 (entryOff j), w32 eng, w32 d)
        | none =>
          let p0 := firstIdx (fun e => e.key == acct 1 0) es 0
          let got := match p0 with
            | none => 0
            | some j => (es.getD j ⟨0, 0, 0, 0, 0, 0⟩).work
          if got < netReserve s then
            some (match p0 with
              | none => 0xFFFF
              | some j => w32 (entryOff j), w32 (netReserve s), w32 got)
          else if planActivation b ≠ 0 ∧ planActivation b ≤ s.tck.tick + 4 then some (8, lo32 s.tck.tick, 0)
          else none

/-- The start-up plan (R116). -/
def startupPlan (nmin : Nat) : List PlanEntry :=
  [⟨0, 2, 64, 0, 7, 0⟩, ⟨0, 3, 128, 0, 7, 0⟩, ⟨1, 3, 128, 0, 7, 0⟩, ⟨2, 3, 128, 0, 7, 0⟩,
   ⟨3, 0x10, nmin / 5, 0, 7, 0⟩, ⟨3, 0x11, nmin / 5, 0, 7, 0⟩, ⟨3, 0x12, nmin / 5, 0, 7, 0⟩,
   ⟨3, 0x13, nmin / 5, 0, 7, 0⟩]

/-- The account entries in force (R105, R116). -/
def planInForce (s : State) : List PlanEntry :=
  if s.tck.planActive then planEntries (activePlanBank s) else startupPlan (nMin s)

/-! ### Energy coefficients -/

/-- Characterised coefficient of an engine code, pJ, or of a standing code, mW (R129, R132).
DEDUCED (log entry 26, unsafe). -/
def charCoef (e : Nat) : Nat :=
  if e = 1 then 8000 else if e = 2 then 2000 else if e = 3 then 1000 else if e = 4 then 625
  else if e = 5 then 4000 else if e = 6 then 1000 else if e = 7 then 1500
  else if 0x10 ≤ e ∧ e ≤ 0x13 then 2750
  else if e = 0xE0 then 100 else if e = 0xE1 then 60 else if e = 0xE2 then 50 else if e = 0xE3 then 100 else 0

/-- The accounts of R132 in ascending order, as keys. -/
def charKeys : List Nat :=
  [0x100, 0x101, 0x102, 0x200, 0x201, 0x202, 0x300, 0x301, 0x302, 0x400, 0x401, 0x402, 0x500, 0x501, 0x600,
   0x700, 0x701, 0x702, 0x703, 0x704, 0x705, 0x706, 0x1000, 0x1001, 0x1002, 0x1003, 0x1100, 0x1101, 0x1102, 0x1103,
   0x1200, 0x1201, 0x1202, 0x1203, 0x1300, 0x1301, 0x1302, 0x1303]

/-- The words of the characterised table of R132 in the format of R134: what both banks hold after reset.
DEDUCED (log entry 26, unsafe). -/
def charWord (i : Nat) : Word :=
  if i = 0 then w32 (1 + 65536 * 38)
  else if i = 4 then 0x62D9C475
  else if i < 16 then 0
  else if (i - 16) / 2 < 38 then
    let k := charKeys.getD ((i - 16) / 2) 0
    if i % 2 = 0 then w32 (k + 65536 * (charCoef (k / 256))) else w32 (charCoef (k / 256) / 65536)
  else 0

/-- A word of a coefficient bank. -/
def coefWord (b : Table Word) (i : Nat) : Word := tget charWord b i

def shadowCoef (s : State) : Table Word := if s.gov.activeCoef then s.gov.coef0 else s.gov.coef1
def activeCoefBank (s : State) : Table Word := if s.gov.activeCoef then s.gov.coef1 else s.gov.coef0

/-- Write a word of the shadow coefficient bank. -/
def putShadowCoef (s : State) (i : Nat) (w : Word) : State :=
  if s.gov.activeCoef then { s with gov := { s.gov with coef0 := tset charWord s.gov.coef0 i w } }
  else { s with gov := { s.gov with coef1 := tset charWord s.gov.coef1 i w } }

/-- Number of entries of a coefficient bank (R134). -/
def coefCount (b : Table Word) : Nat := fld (coefWord b 0) 31 16

/-- Key, coefficient and reserved bits of entry j of a coefficient bank (R134). -/
def coefEntry (b : Table Word) (j : Nat) : Nat × Nat × Nat :=
  let w0 := coefWord b (16 + 2 * j)
  let w1 := coefWord b (17 + 2 * j)
  (fld w0 15 0, fld w0 31 16 + 65536 * fld w1 7 0, fld w1 31 8)

def coefEntries (b : Table Word) : List (Nat × Nat × Nat) := (List.range (coefCount b)).map (coefEntry b)

/-- The coefficient of an account or standing code in a bank, characterised where not listed (R132). A bank that still
holds the characterised table gives it at once. -/
def coefOf (b : Table Word) (k : Nat) : Nat :=
  if b.isEmpty then charCoef (k / 256)
  else match (coefEntries b).find? (fun e => e.1 == k) with
  | some e => e.2.1
  | none => charCoef (k / 256)

/-- LOAD_COEF's checks in order (R135). -/
def coefCheck (b : Table Word) : Option (Word × Word × Word) :=
  let w0 := coefWord b 0
  let es := coefEntries b
  if fld w0 15 0 ≠ 1 then some (0, 0, 0)
  else if coefCount b = 0 ∨ 64 < coefCount b then some (2, 0, 0)
  else if (List.range 3).any (fun i => decide (coefWord b (1 + i) ≠ 0)) then some (4, 0, 0)
  else if (List.range 11).any (fun i => decide (coefWord b (5 + i) ≠ 0)) then some (20, 0, 0)
  else match firstIdx (fun e => decide (e.2.2 ≠ 0)) es 0 with
  | some j => some (w32 (entryOff j + 5), 0, 0)
  | none =>
    let sum := bankChecksum charWord b es.length
    if sum ≠ (coefWord b 4).toNat then some (0x10, w32 sum, 0)
    else match firstUnordered (es.map (·.1)) 0 with
    | some j => some (w32 (entryOff j), 0, 0)
    | none =>
      match firstIdx (fun e =>
          (match engineAccounts (e.1 / 256) with
          | some n => decide (n ≤ e.1 % 256)
          | none => !(decide (0xE0 ≤ e.1 / 256 ∧ e.1 / 256 ≤ 0xE3) && e.1 % 256 == 0)) || e.2.1 == 0) es 0 with
      | some j => some (w32 (entryOff j), 0, 0)
      | none =>
        let mw := 12 * Nat.max (coefOf b 0xE000) (coefOf b 0xE100) + 16 * coefOf b 0xE200 + 4 * coefOf b 0xE300
        if 4000 < mw then some (0xFFFF, w32 mw, 0) else none

/-- Slices an account's units are charged in (R133). -/
def chargedSlices (k : Nat) : Nat := if k / 256 = 1 ∨ k / 256 = 6 ∨ k / 256 = 7 then 2 else 1

/-- Energy cost of one unit of an account, pJ (R131, R133). -/
def unitCost (s : State) (k : Nat) : Nat := coefOf (activeCoefBank s) k * chargedSlices k

/-- Standing power, mW (R129). A port's lanes count while they are powered; a channel while it is configured and out
of self-refresh. -/
def standingPower (s : State) : Nat :=
  let b := activeCoefBank s
  let lanes (f : Nat → Nat) : Nat :=
    (List.range 6).foldl (fun a p => if (getPort s p).lanesOn then a + f (portMode s p) else a) 0
  let chans := (List.range 4).foldl (fun a c =>
    if (getChan s c).st = .idle ∨ (getChan s c).st = .running then a + 1 else a) 0
  lanes modePam4 * coefOf b 0xE000 + lanes modeNrz * coefOf b 0xE100
    + (if s.pcie.dlUp then s.pcie.width else 0) * coefOf b 0xE200 + chans * coefOf b 0xE300

/-! ### Grants -/

/-- Insert a key in ascending order. -/
def insKey (k : Nat) : List Nat → List Nat
  | [] => [k]
  | a :: t => if k ≤ a then k :: a :: t else a :: insKey k t

/-- Ascending keys rotated to start after the key that started the previous tick (R140); `last` is that key plus 1,
0 for none. -/
def rotateAfter (last : Nat) (ks : List Nat) : List Nat :=
  ks.filter (fun k => decide (last ≤ k)) ++ ks.filter (fun k => decide (k < last))

/-- One pass over the accounts of one priority (R138): budget left and grants. -/
def grantPass (want cost : Nat → Nat) : List Nat → Nat → Table Nat → Nat × Table Nat
  | [], b, g => (b, g)
  | k :: t, b, g =>
    let n := if cost k = 0 then want k else Nat.min (want k) (b / cost k)
    grantPass want cost t (b - n * cost k) (tset (fun _ => 0) g k n)

/-- What the grant of a tick gives (R138): budget left, grants, and the starting account of each priority. -/
structure GrantResult where
  left : Nat
  grants : Table Nat
  first : Table Nat

/-- The keys with a work grant at priority p, ascending. -/
def keysAt (es : List PlanEntry) (p : Nat) : List Nat :=
  ((es.filter (fun e => e.prio == p && decide (0 < e.work))).map PlanEntry.key).foldr insKey []

/-- The energy grants of a tick (R138 to R140), priority 7 first. -/
def grantAll (es : List PlanEntry) (want cost : Nat → Nat) : List Nat → GrantResult → GrantResult
  | [], r => r
  | p :: ps, r =>
    let ks := rotateAfter (tget (fun _ => 0) r.first p) (keysAt es p)
    let g := grantPass want cost ks r.left r.grants
    let f := match ks with
      | [] => r.first
      | k :: _ => tset (fun _ => 0) r.first p (k + 1)
    grantAll es want cost ps ⟨g.1, g.2, f⟩

/-- Account budget of a tick, pJ (R127, R130). -/
def accountBudget (pEff standing t : Nat) : Nat := (pEff * 250 - 20000) * t - standing * t

/-- The key under which a slice's learning unit holds its credits of account 0 (R108): granted alike, used apart. -/
abbrev learnKey (sl : SliceId) : Nat := acct 6 (128 * sl.num)

/-- The learning credits of Slate are a copy of those of Ochre. -/
def copyLearn (t : Table Nat) : Table Nat := tset (fun _ => 0) t (learnKey .slate) (tget (fun _ => 0) t (learnKey .ochre))

/-- Energy credits of an account: what the boundary granted it, and what the budget has left for units that join its
queue after the boundary (R62, R65, R138, R141). DEDUCED: the latency bounds need such units to start in the same tick.
DEDUCED (log entry 27, unsafe). -/
def energyLeft (s : State) (k : Nat) : Nat :=
  if workLeft s k + tget (fun _ => 0) s.cred.started k = 0 then grantLeft s k
  else if unitCost s k = 0 then grantLeft s k + workLeft s k
  else grantLeft s k + s.gov.spare / unitCost s k

/-- The energy of `n` units of an account is charged (R131), from its grant and then from the budget left.
DEDUCED (log entry 27, unsafe). -/
def spendEnergy (s : State) (k n : Nat) : State :=
  let x := (n - grantLeft s k) * unitCost s k
  { s with
    cred := { s.cred with energy := tset (fun _ => 0) s.cred.energy k (grantLeft s k - n) }
    gov := { s.gov with
      charged := s.gov.charged + n * unitCost s k, spare := s.gov.spare - x, granted := s.gov.granted + x } }

/-- May the account start `n` units that produce `b` downstream entries (R120, R122, R141)?.
DEDUCED (log entry 29, unsafe). -/
def canStart (s : State) (k n b : Nat) : Bool :=
  !s.cred.halted.contains (k / 256) && decide (n ≤ workLeft s k) && decide (b ≤ bufferLeft s k)
    && decide (n ≤ energyLeft s k)

/-- The credits of `n` started units and `b` produced entries are used, and their energy is charged (R131). -/
def useCredits (s : State) (k n b : Nat) : State :=
  spendEnergy { s with
    cred := { s.cred with
      work := tset (fun _ => 0) s.cred.work k (workLeft s k - n)
      buffer := tset (fun _ => 0) s.cred.buffer k (bufferLeft s k - b)
      started := tset (fun _ => 0) s.cred.started k (tget (fun _ => 0) s.cred.started k + n) } } k n

/-- Learning events a slice may still do in this tick. -/
def learnLeft (s : State) (sl : SliceId) : Nat := Nat.min (workLeft s (learnKey sl)) (grantLeft s (learnKey sl))

/-- A slice's learning unit does `n` events (R133): charged once for the slice, and for the other one too while that is
out of service. -/
def learnUse (s : State) (sl : SliceId) (n : Nat) : State :=
  let k := learnKey sl
  let twice := (s.slice sl.other).role == .out
  { s with
    cred := { s.cred with
      work := tset (fun _ => 0) s.cred.work k (workLeft s k - n),
      energy := tset (fun _ => 0) s.cred.energy k (grantLeft s k - n) }
    gov := { s.gov with charged := s.gov.charged + n * coefOf (activeCoefBank s) 0x600 * (1 + twice.toNat) } }

end Sys2Proof.Machine
end

