-- ==== Sys2Proof/Machine/Alarm.lean ====
section
/-! DEFINITION. The alarm unit and the custody commands (chapter 19). -/
namespace Sys2Proof.Machine

/-- Source codes (R691). -/
def alarmCode : AlarmSrc → Nat
  | .tamper0 => 1 | .tamper1 => 2 | .temperature => 3 | .clock => 4 | .coreGlitch => 5 | .vkeepLow => 6
  | .detectorMismatch => 8

/-- Some source at Crimson level is active (R699). -/
def crimsonActive (s : State) : Bool :=
  [1, 2, 3, 4, 5].any (fun c => nbit s.vkeep.active.toNat c && alarmLevel s c == 2) || nbit s.vkeep.active.toNat 9

/-- ALARM_SOURCE_ACTIVE: a detector's source becomes active and is raised once at its level (R691 to R695). -/
def execAlarmSourceActive (src : AlarmSrc) (s : State) : Host.Outcome State Fault Refusal :=
  let c := alarmCode src
  if !s.vkeep.present || nbit s.vkeep.active.toNat c then .next s
  else .next (raise { s with vkeep := { s.vkeep with active := s.vkeep.active ||| w32 (2 ^ c) } } c)

/-- ALARM_SOURCE_INACTIVE: the source returns to inactive (R692); its latch bit stays. -/
def execAlarmSourceInactive (src : AlarmSrc) (s : State) : Host.Outcome State Fault Refusal :=
  .next { s with vkeep := { s.vkeep with active := s.vkeep.active &&& ~~~(w32 (2 ^ alarmCode src)) } }

/-- The role that reaches the CUS page (R702). -/
def custodian : Master → Bool := fun m => m == .pf1

/-- SEAL_POLICY (R702). -/
def specSealPolicy : CmdSpec where
  role := custodian
  phases := notRecovery
  body _ s :=
    if s.vkeep.sealed then endCmd s pgCus stWRONG_STATE
    else endCmd { s with vkeep := { s.vkeep with sealed := true } } pgCus stOK

/-- CLEAR_ALARM (R699, R702). -/
def specClearAlarm : CmdSpec where
  role := custodian
  phases := notRecovery
  body _ s :=
    if crimsonActive s || !s.vkeep.erasedLock then endCmd s pgCus stWRONG_STATE
    else endCmd { s with vkeep := { s.vkeep with erasedLock := false, blank := false } } pgCus stOK

/-- ZEROIZE on the CUS page and ERASE_ALL on the ALM page: source 0x09 (R702, R704, R705). -/
def specErase (page : Nat) (role : Master → Bool) : CmdSpec where
  role := role
  phases := notRecovery
  body c s := if c.a0 = 0xC0DE then endCmd (raise s 9) page stOK else endCmd s page stBAD_ARG

def execSealPolicy (via : Master) (seq : Byte) (s : State) : Host.Outcome State Fault Refusal :=
  .next (commandRow specSealPolicy pgCus 1 via seq 0 0 0 s)

def execClearAlarm (via : Master) (seq : Byte) (s : State) : Host.Outcome State Fault Refusal :=
  .next (commandRow specClearAlarm pgCus 2 via seq 0 0 0 s)

def execZeroize (via : Master) (seq : Byte) (a0 : Word) (s : State) : Host.Outcome State Fault Refusal :=
  .next (commandRow (specErase pgCus custodian) pgCus 3 via seq a0 0 0 s)

def execEraseAll (via : Master) (seq : Byte) (a0 : Word) (s : State) : Host.Outcome State Fault Refusal :=
  .next (commandRow (specErase pgAlm Master.isGlobal) pgAlm 1 via seq a0 0 0 s)

/-- Registers of the CUS page that show VKEEP-domain values (R701). -/
def viewCus (s : State) (off : Nat) : Option Word :=
  let v := s.vkeep
  if off = Reg.PAGE_STAT then
    some (flagAt v.erasedLock 0 ||| flagAt v.sealed 1 ||| flagAt (v.present && !nbit v.active.toNat 6) 2
      ||| flagAt (crimsonActive s) 3 ||| flagAt v.blank 4)
  else if off = Reg.CUS_SLOT_MAP then
    some (w32 ((List.range 16).foldl (fun a k => a + 2 ^ k * ((getSlot s k).sel.isSome).toNat) 0))
  else if off = Reg.CUS_ALM_POLICY then some v.policy
  else if off = Reg.CUS_VKEEP_SEC then some (w32 v.secs)
  else if off = Reg.CUS_TREC0 then some (w32 (v.crimsons + 65536 * v.firstSrc + 2 ^ 24 * v.lastSrc))
  else if off = Reg.CUS_TREC1 then some (w32 v.firstAt)
  else if off = Reg.CUS_TREC2 then some (w32 v.lastAt)
  else if off = Reg.CUS_TREC3 then some (w32 v.ptpAt)
  else if off = Reg.CUS_TREC4 then some (flagAt v.ptpValid 0 ||| flagAt v.blank 1)
  else none

/-- Registers of the ALM page computed from the VKEEP domain and the event log (R702, R703). -/
def viewAlm (s : State) (off : Nat) : Option Word :=
  let v := s.vkeep
  let i := fld (rd s (pgAlm + Reg.ALM_LOG_SEL)) 3 0
  if off = Reg.PAGE_STAT then
    some (flagAt v.erasedLock 0 ||| flagAt v.sealed 1 ||| flagAt (decide (v.active ≠ 0)) 2)
  else if off = Reg.ALM_SRC_ACTIVE then some v.active
  else if off = Reg.ALM_SRC_LATCH then some v.latch
  else if off = Reg.ALM_CRIMSON_CNT then some (w32 v.crimsons)
  else if off = Reg.ALM_LOG0 then some (tget (fun _ => 0) s.alog.w0 i)
  else if off = Reg.ALM_LOG1 then some (tget (fun _ => 0) s.alog.w1 i)
  else if off = Reg.ALM_LOG_HEAD then some (w32 (s.alog.head + 16 * (decide (16 < s.alog.used)).toNat))
  else if Reg.ALM_TREC ≤ off ∧ off < Reg.ALM_TREC + 20 then viewCus s (Reg.CUS_TREC0 + (off - Reg.ALM_TREC))
  else none

/-- The VKEEP seconds counter runs on by `n` seconds (R700).
DESIGN CHOICE (log entry 20, safe). -/
def vkeepRun (s : State) (n : Nat) : State :=
  if s.vkeep.present then { s with vkeep := { s.vkeep with secs := (s.vkeep.secs + n) % 2 ^ 32 } } else s

end Sys2Proof.Machine
end

