-- ==== Sys2Proof/Machine/PowerReset.lean ====
section
/-! DEFINITION. Power, bring-up and device resets (chapters 05, 19 and 22). -/
namespace Sys2Proof.Machine

/-- What a device reset leaves (R196, R203, R212): everything at its reset value but the VKEEP domain, the levels of
the input pins, the warm-reset count and the queue of commands. No slice has a role before bring-up stage 4. -/
def clearDevice (s : State) (cause : Word) : State :=
  let r := State.reset
  { r with
    pending := s.pending
    vkeep := s.vkeep
    out := s.out
    free := s.free
    gov := { r.gov with pshedLow := s.gov.pshedLow }
    time := { r.time with ref10Present := s.time.ref10Present }
    board := { s.board with i2cPtr := 0 }
    red := { r.red with ochre := SliceRed.fresh .out 0 false, slate := SliceRed.fresh .out 0 false, accepted := none }
    power := { r.power with
      mainRails := s.power.mainRails, perstLow := s.power.perstLow, testEn := s.power.testEn,
      i2cA := s.power.i2cA, monitorHold := s.power.monitorHold, warmCnt := s.power.warmCnt, lastStage := none,
      bringupDone := false, cause := cause, bist := 0, ochreOk := true, slateOk := true } }

/-- A cold device reset (R202): the warm-reset count returns to 0 (R212) and DRAM contents are lost. -/
def coldReset (s : State) (cause : Word) : State :=
  let s1 := clearDevice s cause
  { s1 with power := { s1.power with warmCnt := 0 } }

/-- Bring-up stage 0 starts (R194), where neither PERST# nor the power-on monitor holds the device. -/
def beginBringup (s : State) : State :=
  { s with power := { s.power with bringing := some 0, lastStage := none, elapsedUs := 0 } }

/-- POWER_ON: the main rails are applied, `secs` seconds of the VKEEP oscillator after they were last up: a cold
device reset, held by the power-on monitor (R192, R202, R700).
DESIGN CHOICE (log entry 20, safe). -/
def execPowerOn (secs : Nat) (s : State) : Host.Outcome State Fault Refusal :=
  let s0 := vkeepRun s secs
  let s1 := { s0 with power := { s0.power with mainRails := true, monitorHold := true } }
  .next (coldReset s1 1)

/-- PERST_ASSERT: a cold device reset; a warm reset in progress becomes cold (R202, R213). -/
def execPerstAssert (s : State) : Host.Outcome State Fault Refusal :=
  if s.power.perstLow then .next s
  else
    let s1 := { s with power := { s.power with perstLow := true } }
    .next (if s.power.mainRails then coldReset s1 2 else s1)

/-- PERST_DEASSERT: bring-up starts, unless the power-on monitor still holds the device (R192, R194). -/
def execPerstDeassert (s : State) : Host.Outcome State Fault Refusal :=
  if !s.power.perstLow then .next s
  else
    let s1 := { s with power := { s.power with perstLow := false } }
    .next (if s.power.mainRails && !s.power.monitorHold then beginBringup s1 else s1)

/-- POWER_ON_MONITOR_RELEASE: the monitor releases reset; where PERST# is already deasserted bring-up begins and
early_perst is set (R192). -/
def execPowerOnMonitorRelease (s : State) : Host.Outcome State Fault Refusal :=
  if s.power.mainRails && s.power.monitorHold then
    let s1 := { s with power := { s.power with monitorHold := false } }
    if s.power.perstLow then .next s1
    else
      let s2 := beginBringup s1
      .next { s2 with power := { s2.power with cause := s2.power.cause ||| 0x10 } }
  else .next s

/-- Is the device out of reset (bring-up running or ended)? -/
def outOfReset (s : State) : Bool :=
  s.power.mainRails && !s.power.monitorHold && !s.power.perstLow && s.power.warm != .asserted

/-- CORE_RAIL_GLITCH: source 0x05 is raised and nothing else changes (R744). -/
def execCoreRailGlitch (s : State) : Host.Outcome State Fault Refusal :=
  .next (if outOfReset s then raise s 5 else s)

/-- CORE_RAIL_LOSS: the power-on monitor trips: a cold reset with cold_power_on (R744). -/
def execCoreRailLoss (s : State) : Host.Outcome State Fault Refusal :=
  if s.power.mainRails then
    .next (coldReset { s with power := { s.power with monitorHold := true } } 1)
  else .next s

/-- SYSCLK_LOSS: source 0x04 is raised, then the power-on monitor holds the device in reset (R192, R750).
DEDUCED (log entry 15, unsafe). -/
def execSysclkLoss (s : State) : Host.Outcome State Fault Refusal :=
  if s.power.mainRails then
    let s1 := if nbit s.vkeep.active.toNat 4 then s
      else raise { s with vkeep := { s.vkeep with active := s.vkeep.active ||| 0x10 } } 4
    .next (coldReset { s1 with power := { s1.power with monitorHold := true } } 1)
  else .next s

/-- The part a self-test code names: Ochre, Slate or (none) the shared edge (R784). -/
def bistSlice (c : Nat) : Option SliceId :=
  if 0x10 ≤ c ∧ c ≤ 0x15 ∨ 0x51 ≤ c ∧ c ≤ 0x5A then some .ochre
  else if 0x20 ≤ c ∧ c ≤ 0x25 ∨ 0x61 ≤ c ∧ c ≤ 0x6A then some .slate
  else none

/-- Is the code one of R784 for stage 2 (arrays) or stage 3 (logic)? -/
def bistCode (stage c : Nat) : Bool :=
  if stage = 2 then (1 ≤ c && c ≤ 5) || (0x10 ≤ c && c ≤ 0x15) || (0x20 ≤ c && c ≤ 0x25)
  else (0x40 ≤ c && c ≤ 0x44) || (0x51 ≤ c && c ≤ 0x5A) || (0x61 ≤ c && c ≤ 0x6A)

/-- The least of a list of codes. -/
def leastCode : List Nat → Nat
  | [] => 0
  | c :: t => t.foldl Nat.min c

/-- A self-test stage ends with the codes of R784 that failed: pass bits and the code of the first failure. -/
def bistStage (s : State) (stage : Nat) (failed : List Byte) : State :=
  let fs := (failed.map (·.toNat)).filter (bistCode stage)
  let p := s.power
  let o := p.ochreOk && !fs.any (fun c => bistSlice c == some .ochre)
  let l := p.slateOk && !fs.any (fun c => bistSlice c == some .slate)
  let e := p.edgeOk && !fs.any (fun c => bistSlice c == none)
  let code := if fld p.bist 15 8 = 0 then leastCode fs else fld p.bist 15 8
  { s with power := { p with
      ochreOk := o, slateOk := l, edgeOk := e,
      bist := w32 (256 * code + (if stage = 3 then o.toNat + 2 * l.toNat + 4 * e.toNat else 0)) } }

/-- The role each slice takes in stage 4 (R197): Ochre active if it passed, else Slate; a slice that failed is
retired with claim zero. -/
def assignRoles (s : State) : State :=
  let o := s.power.ochreOk
  let l := s.power.slateOk
  let fail := { SliceRed.fresh .out 0 false with retired := true }
  let oc := if o then SliceRed.fresh .active 0xC0 false else fail
  let sl := if !l then fail else if o then SliceRed.fresh .standby 0x80 true else SliceRed.fresh .active 0xC0 false
  let acc := if o then some SliceId.ochre else if l then some SliceId.slate else none
  let s1 := { s with red := { s.red with ochre := oc, slate := sl, accepted := acc, simplexPrev := !(o && l) } }
  if o && l && s.power.edgeOk then s1 else amber (setErr s1 pgSys 4) 0x12

/-- Bring-up ends (R194 stage 5, R198): the phase is start-up; a Crimson alarm found at power-up is reported (R701,
R703); a failure of both slices or of the edge puts the device in recovery (R197). -/
def endBringup (s : State) : State :=
  let s1 := { s with power := { s.power with bringupDone := true, phase := .startup } }
  let s2 := if s.vkeep.erasedLock && !s.vkeep.blank then setErr (setErr s1 pgAlm 2) pgCus 3 else s1
  let s3 := if s.vkeep.crimsonDown then
      let s3 := logAlarm s2 s.vkeep.lastSrc true
      let i := s3.alog.head
      { s3 with
        alog := { s3.alog with w1 := tset (fun _ => 0) s3.alog.w1 i (w32 s.vkeep.lastAt) }
        vkeep := { s3.vkeep with crimsonDown := false } }
    else s2
  if !s.power.edgeOk || (!s.power.ochreOk && !s.power.slateOk) then needReset s3 pgSys 4 else s3

/-- BRINGUP_STAGE_END: a stage ends after `us` µs, with the self-test codes that failed in it; the next one starts.
With TEST_EN high bring-up stops after stage 1 (R757).
DESIGN CHOICE (log entry 18, safe). DESIGN CHOICE (log entry 22, unsafe). -/
def execBringupStageEnd (us : Nat) (failed : List Byte) (s : State) : Host.Outcome State Fault Refusal :=
  match s.power.bringing with
  | none => .next s
  | some k =>
    let stop := (k == 1 && s.power.testEn) || k == 5
    let s1 := { s with power := { s.power with
      bringing := if stop then none else some (k + 1), lastStage := some k, elapsedUs := s.power.elapsedUs + us } }
    .next (if k = 2 ∨ k = 3 then bistStage s1 k failed
      else if k = 4 then assignRoles s1
      else if k = 5 then endBringup s1
      else s1)

/-- INTERNAL_RESET_RELEASE: 1 ms after the assertion the internal reset is released and bring-up begins (R204). -/
def execInternalResetRelease (s : State) : Host.Outcome State Fault Refusal :=
  if s.power.warm = .asserted then
    .next (beginBringup { s with power := { s.power with warm := .idle } })
  else .next s

/-- VKEEP_FIRST_APPLY: store, record and policy start empty, erased_lock and blank set (R699, R700). -/
def execVkeepFirstApply (s : State) : Host.Outcome State Fault Refusal :=
  .next (if s.vkeep.present then s else { s with vkeep := VkeepUnit.fresh })

/-- VKEEP_LOSS: the store, the tamper record and the policy are lost (R746). -/
def execVkeepLoss (s : State) : Host.Outcome State Fault Refusal :=
  .next { s with vkeep := { VkeepUnit.fresh with present := false } }

end Sys2Proof.Machine
end

