-- ==== Sys2Proof/Machine/Memory.lean ====
section
/-! DEFINITION. DRAM, its code, poison, the error log, scrubbing, fault injection and the MEM commands
(chapter 17). -/
namespace Sys2Proof.Machine

/-! ### The SRAM code (R624, R625) -/

/-- The columns of weight 3 and of weight 5, in the order of R624. -/
def secdedCols : List Nat :=
  [0x07, 0x0B, 0x0D, 0x0E, 0x13, 0x15, 0x16, 0x19, 0x1A, 0x1C, 0x23, 0x25, 0x26, 0x29, 0x2A, 0x2C,
   0x31, 0x32, 0x34, 0x38, 0x43, 0x45, 0x46, 0x49, 0x4A, 0x4C, 0x51, 0x52, 0x54, 0x58, 0x61, 0x62,
   0x64, 0x68, 0x70, 0x83, 0x85, 0x86, 0x89, 0x8A, 0x8C, 0x91, 0x92, 0x94, 0x98, 0xA1, 0xA2, 0xA4,
   0xA8, 0xB0, 0xC1, 0xC2, 0xC4, 0xC8, 0xD0, 0xE0, 0x1F, 0x2F, 0x37, 0x3B, 0x3D, 0x3E, 0x4F, 0x57]

/-- Check bits of a 64-bit word (R624). -/
def secdedCheck (d : Nat) : Nat :=
  (List.range 64).foldl (fun c i => if nbit d i then c ^^^ secdedCols.getD i 0 else c) 0

/-- What the SRAM code makes of a read (R625): no error, a corrected bit 0 to 71, or uncorrectable. -/
inductive SramRead where
  | clean | corrected (bit : Nat) | uncorrectable
deriving DecidableEq, Repr

/-- Decoding from the syndrome (R625). -/
def secdedDecode (s : Nat) : SramRead :=
  if s = 0 then .clean
  else match firstIdx (fun h => h == s) secdedCols 0 with
    | some i => .corrected i
    | none => match firstIdx (fun j => 2 ^ j == s) [0, 1, 2, 3, 4, 5, 6, 7] 0 with
      | some j => .corrected (64 + j)
      | none => .uncorrectable

/-! ### The DRAM code (R631, R632) -/

/-- Multiplication by α in GF(2^8) (R631). -/
def gfAlpha (x : Nat) : Nat := if 128 ≤ x then ((x * 2) % 256) ^^^ 0x1D else x * 2

/-- Multiplication by α^i. -/
def gfAlphaN (x i : Nat) : Nat := Nat.repeat gfAlpha i x

/-- Product in GF(2^8). -/
def gfMul (x y : Nat) : Nat := (List.range 8).foldl (fun a i => if nbit y i then a ^^^ gfAlphaN x i else a) 0

/-- Symbol of data component d in codeword k of a block (R631): its nibbles in beats 2k and 2k + 1. -/
def dataSymbol (b : List Byte) (k d : Nat) : Nat :=
  let nib (j : Nat) : Nat := (b.getD (4 * j + d / 2) 0).toNat >>> (4 * (d % 2)) % 16
  nib (2 * k) + 16 * nib (2 * k + 1)

/-- The two check symbols of a codeword with data symbols `ds` (R631): c(1) = c(α) = 0. -/
def checkSymbols (ds : List Nat) : Nat × Nat :=
  let a := ds.foldl (· ^^^ ·) 0
  let b := (ds.zip (List.range 8)).foldl (fun x e => x ^^^ gfAlphaN e.1 (e.2 + 2)) 0
  let c1 := gfMul (a ^^^ b) 0xF4
  (a ^^^ c1, c1)

/-- The 80 stored symbols of a block (R631). -/
def encodeBlock (b : List Byte) (poison : Bool) : List Byte :=
  (List.range 8).flatMap (fun k =>
    let ds := (List.range 8).map (dataSymbol b k)
    let c := checkSymbols ds
    let p := poison.toNat
    ([c.1 ^^^ p, c.2 ^^^ p] ++ ds).map (BitVec.ofNat 8))

/-- The 64 data bytes in stored symbols. -/
def blockData (raw : List Byte) : List Byte :=
  (List.range 64).map (fun i =>
    let j := i / 4
    let sym (d : Nat) : Nat := (raw.getD (10 * (j / 2) + 2 + d) 0).toNat >>> (4 * (j % 2)) % 16
    BitVec.ofNat 8 (sym (2 * (i % 4)) + 16 * sym (2 * (i % 4) + 1)))

/-- Syndromes of codeword k of stored symbols (R632). -/
def syndromes (raw : List Byte) (k : Nat) : Nat × Nat :=
  (List.range 10).foldl (fun s i =>
    let c := (raw.getD (10 * k + i) 0).toNat
    (s.1 ^^^ c, s.2 ^^^ gfAlphaN c i)) (0, 0)

/-- The position a non-zero pair of syndromes names, if one does. -/
def errorPos (s : Nat × Nat) : Option Nat :=
  if s.1 = 0 then none else firstIdx (fun i => gfAlphaN s.1 i == s.2) (List.range 10) 0

/-- Step 2 of R632 over eight pairs of syndromes: the one component that every failing codeword names. -/
def oneComponent (ss : List (Nat × Nat)) : Option Nat :=
  match ss.filter (fun s => s != (0, 0)) with
  | [] => none
  | s :: t => match errorPos s with
    | none => none
    | some i => if t.all (fun x => errorPos x == some i) then some i else none

/-- What the DRAM code makes of a read (R632). -/
structure DramRead where
  data : List Byte
  poison : Bool
  ce : Bool
  ue : Bool
  pos : Option Nat           -- symbol position corrected
  synd : Nat                 -- S0 and S1 of the first failing codeword
deriving DecidableEq, Repr

/-- The stored symbols with symbol i of each codeword XORed with that codeword's S0. -/
def correctSymbols (raw : List Byte) (ss : List (Nat × Nat)) (i : Nat) : List Byte :=
  (List.range 80).map (fun n =>
    if n % 10 = i then raw.getD n 0 ^^^ BitVec.ofNat 8 (ss.getD (n / 10) (0, 0)).1 else raw.getD n 0)

/-- Decoding of stored symbols, step by step (R632). -/
def decodeBlock (raw : List Byte) : DramRead :=
  let ss := (List.range 8).map (syndromes raw)
  let sg := ss.map (fun s => (s.1, s.2 ^^^ 3))
  let bad (l : List (Nat × Nat)) : Nat := match l.find? (fun s => s != (0, 0)) with
    | none => 0
    | some s => s.1 + 256 * s.2
  if ss.all (fun s => s == (0, 0)) then ⟨blockData raw, false, false, false, none, 0⟩
  else match oneComponent ss with
  | some i => ⟨blockData (correctSymbols raw ss i), false, true, false, some i, bad ss⟩
  | none =>
    if sg.all (fun s => s == (0, 0)) then ⟨blockData raw, true, false, false, none, 0⟩
    else match oneComponent sg with
    | some i => ⟨blockData (correctSymbols raw sg i), true, true, false, some i, bad ss⟩
    | none => ⟨blockData raw, true, false, true, none, bad ss⟩

/-! ### Geometry and addresses (R628, R629) -/

/-- Capacity of channel n in GiB (R628). -/
def chanGiB (s : State) (n : Nat) : Nat :=
  let g := rd s (pgMem n + Reg.MEM_GEOM)
  16 * 2 ^ fld g 1 0 * (1 + (fbit g 2).toNat)

/-- Capacity of channel n in bytes. -/
def chanBytes (s : State) (n : Nat) : Nat := chanGiB s n * 2 ^ 30

/-- ECC_DRAM_MAP.interleave. -/
def interleaved (s : State) : Bool := fbit (rd s (pgEcc + Reg.ECC_DRAM_MAP)) 0

/-- Channel and channel address of a DRAM address, none outside configured DRAM (R629). -/
def dramWhere (s : State) (a : Nat) : Option (Nat × Nat) :=
  if interleaved s then
    if (List.range 4).all (fun n => (getChan s n).st == .running) && decide (a < 4 * chanBytes s 0) then
      some (a / 256 % 4, a / 1024 * 256 + a % 256)
    else none
  else
    let n := a / 2 ^ 36
    if n < 4 && (getChan s n).st == .running && decide (a % 2 ^ 36 < chanBytes s n) then some (n, a % 2 ^ 36) else none

/-- Is a whole range in configured DRAM (R646)? Each of its channel pieces is; both ends and each block between. -/
def dramRange (s : State) (a len : Nat) : Bool :=
  if len = 0 then true
  else if interleaved s then (dramWhere s a).isSome && (dramWhere s (a + len - 1)).isSome
  else
    (dramWhere s a).isSome && (dramWhere s (a + len - 1)).isSome &&
      ((List.range 4).all (fun n =>
        !(decide (a < (n + 1) * 2 ^ 36 ∧ n * 2 ^ 36 < a + len)) ||
          ((getChan s n).st == .running && decide (Nat.min (a + len) ((n + 1) * 2 ^ 36) - n * 2 ^ 36 ≤ chanBytes s n))))

/-- Where the model keys the indexed words of channel n: retire entries, then delay entries. -/
abbrev memRetire (n r : Nat) : Nat := 0x300000000 + 0x1000 * n + 4 * r
abbrev memDelay (n e : Nat) : Nat := 0x300000800 + 0x1000 * n + 4 * e

/-- Is a channel address retired (R645)? -/
def retired (s : State) (n ca : Nat) : Bool :=
  (List.range 64).any (fun r =>
    let w := rdEff s (memRetire n r)
    fbit w 31 && fld w 25 0 == ca / 4096)

/-! ### The error log (R639, R640) -/

/-- Put an entry into the log. -/
def putLog (s : State) (k : Nat) (e : Option EccEntry) : State :=
  { s with ecc := { s.ecc with log := tset (fun _ => none) s.ecc.log k e } }

/-- An entry of the log. -/
def getLog (s : State) (k : Nat) : Option EccEntry := tget (fun _ => none) s.ecc.log k

/-- The entry made earliest among the correctable ones. -/
def oldestCe (s : State) : Option Nat :=
  (List.range 32).foldl (fun (best : Option Nat) k =>
    match getLog s k with
    | none => best
    | some e =>
      if e.ue then best
      else match best with
        | none => some k
        | some b => if e.made < (match getLog s b with
            | some x => x.made
            | none => 0) then some k else best) none

/-- An error is logged (R640). -/
def logEcc (s : State) (ue checkOnly : Bool) (memory inst address position synd : Nat) : State :=
  let st := s.stamp
  match firstIdx (fun k => match getLog s k with
      | none => false
      | some e => e.ue == ue && e.memory == memory && e.inst == inst && e.address == address
          && e.position == position) (List.range 32) 0 with
  | some k => match getLog s k with
    | none => s
    | some e => putLog s k (some { e with count := satAt 65535 (e.count + 1), last := st })
  | none =>
    let x : EccEntry := ⟨ue, checkOnly, memory, inst, 1, address, position, synd, st, st, s.ecc.made⟩
    let put (k : Nat) : State :=
      let s1 := putLog s k (some x)
      { s1 with ecc := { s1.ecc with made := s1.ecc.made + 1 } }
    let lost := setErr (bump s (pgEcc + Reg.ECC_LOG_LOST)) pgEcc 4
    match firstIdx (fun k => (getLog s k).isNone) (List.range 32) 0 with
    | some k => put k
    | none => if !ue then lost else match oldestCe s with
      | some k => put k
      | none => lost

/-- The bytes of a log entry (R639). -/
def logBytes (e : EccEntry) : List Byte :=
  leBytes 1 (1 + 2 * e.ue.toNat + 4 * e.checkOnly.toNat + 16 * e.memory) ++ leBytes 1 e.inst ++ leBytes 2 e.count
    ++ leBytes 5 e.address ++ leBytes 1 e.position ++ leBytes 2 e.syndrome ++ leBytes 2 e.first ++ leBytes 2 e.last

/-- A correctable error is counted and logged (R635). -/
def reportCe (s : State) (checkOnly : Bool) (memory inst address position synd : Nat) : State :=
  let s1 := setErr (bump s (pgEcc + Reg.ECC_CE_CNT)) pgEcc 1
  logEcc (signal s1 (srcEdge 0x17 0 0) memory 1) false checkOnly memory inst address position synd

/-- An uncorrectable error is counted and logged (R636); the consequence is its memory's. -/
def reportUe (s : State) (memory inst address position synd : Nat) : State :=
  let s1 := bump s (pgEcc + Reg.ECC_UE_CNT)
  logEcc (signal s1 (srcEdge 0x17 0 1) memory 1) true false memory inst address position synd

/-! ### DRAM accesses (R634 to R638, R644, R645) -/

/-- One burst on channel n under account k of its engine, with its credits and energy (R321). -/
def memBurst (s : State) (n k : Nat) : State :=
  signal (useCredits s (acct (0x10 + n) k) 1 0) (srcEdge 0x16 n 0) k 1

/-- May channel n start b bursts under account k? -/
def memMay (s : State) (n k b : Nat) : Bool := canStart s (acct (0x10 + n) k) b 0

/-- The stored symbols of a block; undefined ones where it has never been written (R201).
DESIGN CHOICE (log entry 11, safe). -/
def rawBlock (s : State) (n blk : Nat) : List Byte :=
  match tget (fun _ => ([] : List Byte)) (getChan s n).blocks blk with
  | [] => (List.range 80).map (fun i => Config.freeByte (80 * s.free + i))
  | raw => raw

/-- Store the symbols of a block, corrupted by an armed flip mask (R644).
DEDUCED (log entry 96, safe). -/
def storeRaw (s : State) (n blk : Nat) (raw : List Byte) : State :=
  let put (s : State) (r : List Byte) : State :=
    let c := getChan s n
    putChan s n { c with blocks := tset (fun _ => []) c.blocks blk r }
  let sel := rd s (pgEcc + Reg.ECC_FLIP_SEL)
  if fbit sel 16 && fld sel 3 0 == 0 && fld sel 15 8 == n then
    let f := rd s (pgEcc + Reg.ECC_FLIP_DRAM)
    let comp := fld f 11 8
    let pos := if comp < 8 then comp + 2 else comp - 8
    let r := (List.range 80).map (fun i =>
      if i % 10 = pos ∧ nbit (fld f 23 16) (i / 10) then raw.getD i 0 ^^^ BitVec.ofNat 8 (fld f 7 0) else raw.getD i 0)
    let s1 := wr (put s r) (pgEcc + Reg.ECC_FLIP_SEL) (putBit sel 16 false)
    wrWide (setErr s1 pgEcc 6) (pgEcc + Reg.ECC_FLIP_ADDR_LO) (64 * blk)
  else put s raw

/-- The component a symbol position names, in subchannel A or B (R639). -/
def componentOf (blk pos : Nat) : Nat := (if pos < 2 then pos + 8 else pos - 2) + 10 * (blk % 2)

/-- What a read of a block reports (R635, R636): counts, events, log; an uncorrectable block is stored poisoned. -/
def reportRead (s : State) (n blk : Nat) (r : DramRead) : State :=
  if r.ue then
    let s1 := setErr (bump s (pgMem n + Reg.MEM_UE_CNT)) (pgMem n) 3
    let s2 := setErr (signal s1 (srcEdge 0x16 n 3) 0 1) pgEcc 2
    storeRaw (reportUe s2 0 n (64 * blk) 0xFF r.synd) n blk (encodeBlock r.data true)
  else
    let s1 := if r.ce then
        let s1 := setErr (bump s (pgMem n + Reg.MEM_CE_CNT)) (pgMem n) 2
        let pos := r.pos.getD 0
        reportCe (signal s1 (srcEdge 0x16 n 2) 0 1) (decide (pos < 2)) 0 n (64 * blk) (componentOf blk pos) r.synd
      else s
    if r.poison then bump s1 (pgMem n + Reg.MEM_POISON_RD) else s1

/-- A retired access (R645). -/
def retiredHit (s : State) (n : Nat) : State := setErr (bump s (pgMem n + Reg.MEM_RETIRED_HIT)) (pgMem n) 4

/-- Read of a block of channel n under account k: the data and its poison mark. -/
def readBlock (s : State) (n blk k : Nat) : State × List Byte × Bool :=
  let s0 := memBurst s n k
  if retired s n (64 * blk) then (retiredHit s0 n, List.replicate 64 0, true)
  else
    let r := decodeBlock (rawBlock s0 n blk)
    (tickFree (reportRead s0 n blk r), r.data, r.poison)

/-- The bytes of a block with some written. -/
def mergeBytes (old : List Byte) (new : List (Option Byte)) : List Byte :=
  (List.range 64).map (fun i => match new.getD i none with
    | some b => b
    | none => old.getD i 0)

/-- Write of some or all bytes of a block of channel n, with data that is poisoned or clean, under account k. A write
of less than the block is a read-modify-write of two bursts (R318, R322, R634). -/
def writeBlock (s : State) (n blk : Nat) (new : List (Option Byte)) (poison : Bool) (k : Nat) : State :=
  if retired s n (64 * blk) then retiredHit (memBurst s n k) n
  else if new.length = 64 ∧ new.all (·.isSome) then
    storeRaw (memBurst s n k) n blk (encodeBlock (mergeBytes [] new) poison)
  else
    let r := decodeBlock (rawBlock s n blk)
    let s1 := tickFree (reportRead (memBurst (memBurst s n k) n k) n blk r)
    let s2 := signal (bump s1 (pgMem n + Reg.MEM_RMW_CNT)) (srcEdge 0x16 n 1) 0 1
    storeRaw s2 n blk (encodeBlock (mergeBytes r.data new) (poison || r.poison))

/-- The piece of a range that lies in its first block: its length. -/
def firstPiece (a len : Nat) : Nat := Nat.min len (64 - a % 64)

/-- Read `len` bytes from DRAM address a, block by block (at most `fuel` blocks): the bytes, each with the poison mark of its
block. Bytes outside configured DRAM read 0. -/
def dramRead (k : Nat) : Nat → State → Nat → Nat → State × List (Byte × Bool)
  | 0, s, _, _ => (s, [])
  | fuel + 1, s, a, len =>
    if len = 0 then (s, [])
    else
      let n := firstPiece a len
      let r : State × List (Byte × Bool) := match dramWhere s a with
        | none => (s, List.replicate n (0, false))
        | some (c, ca) =>
          let b := readBlock s c (ca / 64) k
          (b.1, (sliceB b.2.1 (ca % 64) n).map (fun x => (x, b.2.2)))
      let t := dramRead k fuel r.1 (a + n) (len - n)
      (t.1, r.2 ++ t.2)

/-- Write bytes (none: byte not enabled) at DRAM address a, block by block; `poison` says of each byte offset whether
its source is poisoned. Bytes outside configured DRAM are ignored. -/
def dramWrite (k : Nat) : Nat → State → Nat → List (Option Byte × Bool) → State
  | 0, s, _, _ => s
  | fuel + 1, s, a, l =>
    if l.isEmpty then s
    else
      let n := firstPiece a l.length
      let here := l.take n
      let s1 := match dramWhere s a with
        | none => s
        | some (c, ca) =>
          if here.all (fun x => x.1.isNone) then s
          else
            let new := List.replicate (ca % 64) none ++ here.map (·.1) ++ List.replicate (64 - ca % 64 - n) none
            writeBlock s c (ca / 64) new (here.any (fun x => x.1.isSome && x.2)) k
      dramWrite k fuel s1 (a + n) (l.drop n)

/-- Blocks a range touches. -/
def blocksOf (a len : Nat) : Nat := if len = 0 then 0 else (a + len - 1) / 64 - a / 64 + 1

/-! ### Patrol scrub (R642, R643) -/

/-- PATROL_SCRUB_BURST: a burst granted to account 2 reads the next block that is not retired; a correctable or
uncorrectable one is written back with the next burst of the grant.
DEDUCED (log entry 96, safe). -/
def execPatrolScrubBurst (n : Fin 4) (s : State) : Host.Outcome State Fault Refusal :=
  let c := getChan s n.val
  let total := chanBytes s n.val / 64
  if !(c.st == .running) || !fbit (rdEff s (pgMem n.val + Reg.PAGE_CTL)) 0 || !memMay s n.val 2 1 then .next s
  else
    let nextPos (s : State) (p : Nat) : State :=
      let c := getChan s n.val
      let q := if total ≤ p then 0 else p
      let s1 := putChan s n.val { c with scrubPos := q }
      if total ≤ p then bump s1 (pgMem n.val + Reg.MEM_SCRUB_PASSES) else s1
    if retired s n.val (64 * c.scrubPos) then .next (nextPos s ((c.scrubPos / 64 + 1) * 64))
    else
      let r := decodeBlock (rawBlock s n.val c.scrubPos)
      if !(r.ce || r.ue) then .next (nextPos (tickFree (memBurst s n.val 2)) (c.scrubPos + 1))
      else if !memMay s n.val 2 2 then .next s
      else
        let s1 := memBurst (memBurst s n.val 2) n.val 2
        let s2 := tickFree (reportRead s1 n.val c.scrubPos { r with poison := false })
        let s3 := if r.ce then storeRaw s2 n.val c.scrubPos (encodeBlock r.data r.poison) else s2
        .next (nextPos s3 (c.scrubPos + 1))

/-! ### Fault injection (R644) -/

/-- FLIP_ARM: a write of armed = 1 to ECC_FLIP_SEL arms the mask in the test phase; elsewhere it is ignored and
flip_refused is set. -/
def flipSelWrite (s : State) (w : Word) : State :=
  let a := pgEcc + Reg.ECC_FLIP_SEL
  if fbit w 16 then
    if s.power.phase = .test then wr s a (w &&& 0x1FF0F) else setErr s pgEcc 5
  else wr s a ((w &&& 0xFF0F) ||| (rd s a &&& 0x10000))

/-- FLIP_APPLY: the next write to the selected on-chip memory, at word `word`, is corrupted. A DRAM write applies the
mask itself.
DESIGN CHOICE (log entry 95, unsafe). -/
def execFlipApply (word : Nat) (s : State) : Host.Outcome State Fault Refusal :=
  let a := pgEcc + Reg.ECC_FLIP_SEL
  let sel := rd s a
  if !fbit sel 16 || fld sel 3 0 == 0 || decide (8 < fld sel 3 0) then .next s
  else
    let d := (rd s (pgEcc + Reg.ECC_FLIP_MASK_LO)).toNat + 2 ^ 32 * (rd s (pgEcc + Reg.ECC_FLIP_MASK_HI)).toNat
    let f : ChipFlip := ⟨fld sel 3 0, fld sel 15 8, word, BitVec.ofNat 64 d,
      BitVec.ofNat 8 (fld (rd s (pgEcc + Reg.ECC_FLIP_CHK)) 7 0)⟩
    let s1 := wr s a (putBit sel 16 false)
    let s2 := wrWide (setErr s1 pgEcc 6) (pgEcc + Reg.ECC_FLIP_ADDR_LO) (word % 2 ^ 38)
    .next { s2 with ecc := { s2.ecc with
      flips := f :: s2.ecc.flips.filter (fun x =>
        !(x.memory == f.memory && x.inst == f.inst && x.word == f.word)) } }

/-- The syndrome a corrupted word shows (R625): the code is linear, so it is that of the flips alone. -/
def flipSyndrome (f : ChipFlip) : Nat := secdedCheck f.data.toNat ^^^ f.chk.toNat

/-! ### Retiring (R645) and the MEM commands (R646 to R648) -/

/-- RETIRE_ENTRY_WRITE: a write to MEM_RETIRE_DATA sets the entry at MEM_RETIRE_INDEX. -/
def retireWrite (s : State) (n : Nat) (w : Word) : State :=
  wr s (memRetire n (fld (rd s (pgMem n + Reg.MEM_RETIRE_INDEX)) 5 0)) (w &&& 0x83FFFFFF)

/-- CONFIG's check (R648): the offset of the first failing register. -/
def memConfigCheck (s : State) (n : Nat) : Option Nat :=
  let r (o : Nat) : Word := rd s (pgMem n + o)
  let z (w : Word) (l : List (Nat × Nat)) : Bool := l.any (fun f => fld w f.1 f.2 == 0)
  let b4 : List (Nat × Nat) := [(7, 0), (15, 8), (23, 16), (31, 24)]
  if fld (r Reg.MEM_GEOM) 1 0 = 3 ∨ 64 < chanGiB s n then some Reg.MEM_GEOM
  else if z (r Reg.MEM_TIM0) b4 then some Reg.MEM_TIM0
  else if z (r Reg.MEM_TIM1) b4 then some Reg.MEM_TIM1
  else if z (r Reg.MEM_TIM2) b4 then some Reg.MEM_TIM2
  else if z (r Reg.MEM_TIM3) [(7, 0), (15, 8), (23, 16)] then some Reg.MEM_TIM3
  else if z (r Reg.MEM_TIM4) [(11, 0), (27, 16)] then some Reg.MEM_TIM4
  else if fld (r Reg.MEM_TIM5) 15 0 ≤ fld (r Reg.MEM_TIM4) 11 0 then some Reg.MEM_TIM5
  else none

/-- CONFIG (R648): the channel is powered up and initialised to idle.
DESIGN CHOICE (log entry 5, unsafe). -/
def specMemConfig (n : Nat) : CmdSpec where
  role := Master.isGlobal
  phases := notRecovery
  body _ s :=
    let c := getChan s n
    if c.st ≠ .unconfigured then endCmd s (pgMem n) stWRONG_STATE
    else match memConfigCheck s n with
      | some o => finishCmd s (pgMem n) stBAD_ARG (w32 o) 0 0
      | none => endCmd (putChan s n { c with st := .idle }) (pgMem n) stOK

/-- The blocks SWEEP writes (R648): channel addresses 0x0000–0x0FFF of the entry's rank and subchannel.
DESIGN CHOICE (log entry 97, safe). -/
def sweepBlock (s : State) (n e blk : Nat) : Bool :=
  let g := rd s (pgMem n + Reg.MEM_GEOM)
  let rankBit := if fld g 1 0 = 0 then 12 else 13
  blk % 2 == e / 10 % 2 && blk % 2 ^ rankBit / 64 == 0 && blk / 2 ^ rankBit == (if fbit g 2 then e / 20 else 0)

/-- SWEEP (R648): `found` is the window of delays that passed. What the blocks swept then hold is not stated.
DESIGN CHOICE (log entry 5, unsafe). DESIGN CHOICE (log entry 97, safe). -/
def specMemSweep (n : Nat) (found : Option (Byte × Byte)) : CmdSpec where
  role := Master.isGlobal
  phases := notRecovery
  body c s :=
    let ch := getChan s n
    if ch.st ≠ .idle then endCmd s (pgMem n) stWRONG_STATE
    else if 40 ≤ fld c.a0 5 0 then endCmd s (pgMem n) stBAD_ARG
    else
      let s1 := putChan s n { ch with blocks := tdrop (sweepBlock s n (fld c.a0 5 0)) ch.blocks }
      finishCmd s1 (pgMem n) stOK (match found with
        | none => 0x10000
        | some (a, b) => w32 (a.toNat + 256 * b.toNat)) 0 0

/-- START (R648): it commits the channel's registers and waits for the boundary. -/
def specMemStart (n : Nat) : CmdSpec where
  role := Master.isGlobal
  phases := notRecovery
  body _ s :=
    let c := getChan s n
    if c.st ≠ .idle then endCmd s (pgMem n) stWRONG_STATE
    else if interleaved s && (List.range 4).any (fun m => (getChan s m).st == .running
        && rd s (pgMem m + Reg.MEM_GEOM) != rd s (pgMem n + Reg.MEM_GEOM)) then endCmd s (pgMem n) stBAD_ARG
    else
      let s1 := putChan s n { c with committed := true }
      { s1 with ecc := { s1.ecc with mapCommitted := true } }

/-- RELEASE (R648): a retained channel leaves self-refresh and runs, contents and marks kept. -/
def specMemRelease (n : Nat) : CmdSpec where
  role := Master.isGlobal
  phases := notRecovery
  body _ s :=
    let c := getChan s n
    if c.st ≠ .retained then endCmd s (pgMem n) stWRONG_STATE
    else
      let s1 := putChan s n { c with committed := true, st := .running }
      endCmd { s1 with ecc := { s1.ecc with mapCommitted := true } } (pgMem n) stOK

/-- A START that waits makes its channel running at the boundary (R648). -/
def memBoundary (s : State) : State :=
  (List.range 4).foldl (fun s n =>
    match runningOn s (pgMem n) with
    | some c =>
      if c.code = 3 then endCmd (putChan s n { getChan s n with st := .running }) (pgMem n) stOK else s
    | none => s) s

def execMemConfig (n : Fin 4) (via : Master) (seq : Byte) (s : State) : Host.Outcome State Fault Refusal :=
  .next (commandRow (specMemConfig n.val) (pgMem n.val) 1 via seq 0 0 0 s)

def execMemSweep (n : Fin 4) (found : Option (Byte × Byte)) (via : Master) (seq : Byte) (a0 : Word) (s : State) :
    Host.Outcome State Fault Refusal :=
  .next (commandRow (specMemSweep n.val found) (pgMem n.val) 2 via seq a0 0 0 s)

def execMemStart (n : Fin 4) (via : Master) (seq : Byte) (s : State) : Host.Outcome State Fault Refusal :=
  .next (commandRow (specMemStart n.val) (pgMem n.val) 3 via seq 0 0 0 s)

def execMemRelease (n : Fin 4) (via : Master) (seq : Byte) (s : State) : Host.Outcome State Fault Refusal :=
  .next (commandRow (specMemRelease n.val) (pgMem n.val) 4 via seq 0 0 0 s)

/-! ### Warm reset with retention (R204, R205) -/

/-- Channels that a warm reset asserted now retains (R205): configured and out of self-refresh, with dram_retain_en
set, and not late. -/
def retainable (s : State) (n : Nat) : Bool :=
  ((getChan s n).st == .idle || (getChan s n).st == .running) && fbit (rd s (pgSys + Reg.PAGE_CTL)) 0

/-- WARM_RESET_ASSERT: 10 µs after the gatekeepers closed the internal reset is asserted (R204, R205, R212). `late`
are the channels that did not enter self-refresh in time. The PF1 epoch is kept and counts one more (R361). -/
def execWarmResetAssert (late : List (Fin 4)) (s : State) : Host.Outcome State Fault Refusal :=
  if !(s.power.warm == .closed) || !passed s s.power.warmAt (cdiv 10000 s.T) then .next s
  else
    let keep (n : Nat) : Bool := retainable s n && !late.any (fun l => l.val == n)
    let lost := (List.range 4).any (fun n => retainable s n && late.any (fun l => l.val == n))
    let cause := (if s.power.warmVia = .maint then 8 else 4)
      + 256 * (List.range 4).foldl (fun a n => a + 2 ^ n * (keep n).toNat) 0
    let s1 := clearDevice s (w32 cause)
    let s2 := (List.range 4).foldl (fun t n =>
      if keep n then putChan t n { MemChan.reset with st := .retained, blocks := (getChan s n).blocks } else t) s1
    let s3 := { s2 with
                      power := { s2.power with warm := .asserted, warmCnt := satAt 65535 (s.power.warmCnt + 1) }
                      cus := { s2.cus with epoch := (s.cus.epoch + s.cus.epochDue + 1) % 65536 } }
    .next (if lost then setErr s3 pgSys 6 else s3)

/-! ### Registers computed from this state -/

/-- The state code of MEM PAGE_STAT. -/
def ChanState.code : ChanState → Nat
  | .unconfigured => 0 | .idle => 1 | .running => 2 | .retained => 3

/-- MEM channel registers (R648). -/
def viewMem (s : State) (n off : Nat) : Option Word :=
  let c := getChan s n
  if off = Reg.PAGE_STAT then
    some (w32 (c.st.code + 4 * c.committed.toNat
      + 8 * (c.st == .running && fbit (rdEff s (pgMem n + Reg.PAGE_CTL)) 0).toNat))
  else if off = Reg.MEM_CAP then some (if c.committed then w32 (chanGiB s n) else 0)
  else if off = Reg.MEM_DLY_DATA then some (rd s (memDelay n (fld (rd s (pgMem n + Reg.MEM_DLY_INDEX)) 5 0)))
  else if off = Reg.MEM_RETIRE_DATA then some (rd s (memRetire n (fld (rd s (pgMem n + Reg.MEM_RETIRE_INDEX)) 5 0)))
  else if off = Reg.MEM_SCRUB_POS then some (w32 c.scrubPos)
  else none

/-- ECC registers (R639, R648). -/
def viewEcc (s : State) (off : Nat) : Option Word :=
  let used := ((List.range 32).filter (fun k => (getLog s k).isSome)).length
  if off = Reg.PAGE_STAT then some (w32 (used + 64 * (decide (used = 32)).toNat))
  else if off = Reg.ECC_DRAM_TOTAL then
    some (w32 (if interleaved s then
        (if (List.range 4).all (fun n => (getChan s n).st == .running) then 4 * chanGiB s 0 else 0)
      else (List.range 4).foldl (fun a n => if (getChan s n).st = .running then a + chanGiB s n else a) 0))
  else if Reg.ECC_LOG0 ≤ off ∧ off < Reg.ECC_LOG0 + 16 then
    some (match getLog s (fld (rd s (pgEcc + Reg.ECC_LOG_SEL)) 4 0) with
      | none => 0
      | some e => w32 (leAt (logBytes e) (off - Reg.ECC_LOG0) 4))
  else none

end Sys2Proof.Machine
end

