-- ==== Sys2Proof/Machine/Pcie.lean ====
section
/-! DEFINITION. The PCIe endpoint (chapter 06): the link, tags and requests, interrupts, and the HIF registers.
Configuration requests and function resets stand in FnReset.lean. -/
namespace Sys2Proof.Machine

/-! ### The link (R221, R262) -/

/-- A speed code (1 to 5) and width the endpoint supports (R220).
DESIGN CHOICE (log entry 47, unsafe). -/
def linkLegal (speed width : Nat) : Bool :=
  1 ≤ speed && speed ≤ 5 && (width == 1 || width == 2 || width == 4 || width == 8 || width == 16)

/-- LINK_TRAINED: training completes (R221).
DESIGN CHOICE (log entry 47, unsafe). -/
def execLinkTrained (speed width : Nat) (s : State) : Host.Outcome State Fault Refusal :=
  .next (if outOfReset s && !s.pcie.dlUp && !s.pcie.l23 && linkLegal speed width then
    { s with pcie := { s.pcie with dlUp := true, speed := speed, width := width } } else s)

/-- LINK_RETRAIN: a retrain that does not pass through DL_Down leaves queues and requests unaffected (R221). -/
def execLinkRetrain (speed width : Nat) (s : State) : Host.Outcome State Fault Refusal :=
  .next (if s.pcie.dlUp && linkLegal speed width then
    bump { s with pcie := { s.pcie with speed := speed, width := width } } (pgHif 0 + Reg.HIF_RETRAIN_CNT) else s)

/-- PME_TURN_OFF: PME_TO_Ack is sent and the link goes to L2/L3 Ready (R262). -/
def execPmeTurnOff (s : State) : Host.Outcome State Fault Refusal :=
  if s.pcie.dlUp && !s.pcie.l23 then
    let s1 := emit s .pmeToAck
    .next { s1 with pcie := { s1.pcie with l23 := true } }
  else .next s

/-- May the endpoint issue TLPs at all (R49, R204, R262)? -/
def linkOpen (s : State) : Bool := s.pcie.dlUp && !s.pcie.l23 && gkOpen s

/-- May function f issue memory requests (R207, R260, R264)? -/
def mayRequest (s : State) (f : Nat) : Bool :=
  linkOpen s && fnExists s f && !inFlr s f && !inD3 s f && bme s f && bmeEff s f

/-! ### Tags (R239, R249, R250, R263) -/

/-- First tag and number of tags in use (R239). -/
def tagPool (s : State) : Nat × Nat :=
  if fbit (cfgRd s 0 0x78) 12 then (0x100, 768)
  else if fbit (cfgRd s 0 0x58) 8 then (0, 256) else (0, 32)

/-- The lowest free tag. -/
def freeTag (s : State) : Option Nat :=
  (firstIdx (fun i => !s.pcie.tags.any (fun t => t.id == (tagPool s).1 + i)) (List.range (tagPool s).2) 0).map
    (fun i => (tagPool s).1 + i)

/-- Tags a function holds; tags all VFs hold. -/
def tagsOf (s : State) (f : Nat) : Nat := (s.pcie.tags.filter (fun t => t.fn == f)).length
def vfTags (s : State) : Nat := (s.pcie.tags.filter (fun t => 2 ≤ t.fn)).length

/-- May function f take one more tag (R239)? -/
def mayTag (s : State) (f : Nat) : Bool :=
  let lim := rdEff s (pgHif 0 + Reg.HIF_TAG_LIMIT)
  let pool := (tagPool s).2
  let keep := Nat.min (fld lim 25 16) (pool / 2)
  decide (s.pcie.tags.length < pool)
    && (f < 2 || (decide (tagsOf s f < fld lim 9 0) && decide (vfTags s < pool - keep)))

/-- K of a request issued now (R249): boundaries to its timeout. -/
def timeoutK (s : State) : Nat :=
  if s.power.phase = .normal then
    fld (rd s (pgHif 0 + Reg.HIF_CPL_TIMEOUT)) 5 0 * (1000000 / s.T) + 1
  else 1000000 / s.T + 1

/-- A read request is issued under tag `id` (R239). -/
def issueRead (s : State) (id fn wq idx : Nat) (n : Need) (len : Nat) : State :=
  let t : Tag := {
    id := id, fn := fn, slice := s.worker, wq := wq, idx := idx, purpose := n.purpose, addr := n.addr, off := n.off,
    len := len, tries := n.tries, data := [], bad := [], issuedAt := s.tck.boundaries, k := timeoutK s,
    normal := s.power.phase == .normal, stale := false, held := none }
  emit { s with pcie := { s.pcie with tags := s.pcie.tags ++ [t] } } (.memRead fn id n.addr len)

/-- The outstanding tag of a number. -/
def getTag (s : State) (id : Nat) : Option Tag := s.pcie.tags.find? (fun t => t.id == id)

/-- Change a tag. -/
def setTag (s : State) (id : Nat) (f : Tag → Tag) : State :=
  { s with pcie := { s.pcie with tags := s.pcie.tags.map (fun t => if t.id = id then f t else t) } }

/-- A tag retires. -/
def retireTag (s : State) (id : Nat) : State :=
  { s with pcie := { s.pcie with tags := s.pcie.tags.filter (fun t => t.id != id) } }

/-- Tags of a function become stale (R263). -/
def staleTagsFn (s : State) (p : Nat → Bool) : State :=
  { s with pcie := { s.pcie with tags := s.pcie.tags.map (fun t => if p t.fn then { t with stale := true } else t) } }

/-- Every byte of a tag's request has arrived. -/
def tagWhole (t : Tag) : Bool := t.data.length == t.len

/-- TAG_HOLD_END: a timed-out tag retires K boundaries after its timeout (R250). -/
def execTagHoldEnd (tag : Fin 1024) (s : State) : Host.Outcome State Fault Refusal :=
  match getTag s tag.val with
  | none => .next s
  | some t => match t.held with
    | none => .next s
    | some h => .next (if passed s h t.k then retireTag s tag.val else s)

/-! ### Requests to the host -/

/-- A dirty-page log slot. -/
def getLogSlot (s : State) (k : Nat) : LogSlot := tget (fun _ => LogSlot.free) s.logs k
def putLogSlot (s : State) (k : Nat) (x : LogSlot) : State := { s with logs := tset (fun _ => LogSlot.free) s.logs k x }

/-- Indices from a to b modulo 65,536, as the ring of a log counts them. -/
def ringUsedOf (x : LogSlot) : Nat := (x.pi + 65536 - x.ci) % 65536

/-- The page of a write is logged in slot k unless an entry for it is still to be consumed (R368), or the staging area is
full (R370, R371). -/
def logPage (s : State) (k page : Nat) : State :=
  let x := getLogSlot s k
  let consumed := x.made - x.staged.length - ringUsedOf x
  if !x.active || x.overflow || x.recent.any (fun e => e.1 == page && decide (consumed ≤ e.2)) then s
  else if 512 ≤ x.staged.length then setErr (putLogSlot s k { x with overflow := true }) pgTen 1
  else putLogSlot s k { x with
    made := x.made + 1, staged := x.staged ++ [page], recent := ((page, x.made) :: x.recent).take 64 }

/-- A write of function fn that passes GK7 is logged (R366). -/
def logWrite (s : State) (fn addr : Nat) : State :=
  match s.logs.find? (fun e => e.2.active && fn == e.2.tenant + 2) with
  | none => s
  | some e => logPage s e.1 (addr % 2 ^ 64 / 4096)

/-- A memory write TLP (R240, R247, R366). -/
def hostWrite (s : State) (fn addr : Nat) (data : List (Byte × Bool)) : State :=
  let ep := data.any (·.2)
  let s1 := emit (logWrite s fn addr) (.memWrite fn addr (data.map (·.1)) ep)
  if ep then bump s1 (pgHif 0 + Reg.HIF_POISON_TX_CNT) else s1

/-- Is a host 64-byte block of a byte string at address a poisoned? -/
def blockPoison (a : Nat) (data : List (Byte × Bool)) (blk : Nat) : Bool :=
  (data.zip (List.range data.length)).any (fun x => x.1.2 && (a + x.2) / 64 == blk)

/-- Length of the next write request of a range at address a (R317): it ends at the end of the range, at a multiple of
Max_Payload_Size, where poison begins or ends, or where `beats` beats end. -/
def writeLen (mps a : Nat) (data : List (Byte × Bool)) (beats : Nat) : Nat :=
  let toMps := mps - a % mps
  let toBeats := 64 * beats - a % 64
  let first := blockPoison a data (a / 64)
  let toPoison := if first then 64 - a % 64 else
    match firstIdx (fun k => blockPoison a data (a / 64 + k)) (List.range (mps / 64 + 1)) 0 with
    | none => toMps
    | some k => 64 * k - a % 64
  Nat.min (Nat.min data.length toMps) (Nat.min toBeats toPoison)

/-- Length of the next read request of a range of `len` bytes at address a (R316). -/
def readLen (mrrs a len beats : Nat) : Nat := Nat.min (Nat.min len (mrrs - a % mrrs)) (64 * beats - a % 64)

/-! ### Interrupts and power management messages (R258 to R261) -/

/-- MSI-X table word w of vector v of function f: entries come up masked. -/
def msixDflt (k : Nat) : Word := if k % 4 = 3 then 1 else 0
def msixWord (s : State) (f v w : Nat) : Word := tget msixDflt s.pcie.msix (4 * (2048 * f + v) + w)

/-- Vectors of a function (R231). -/
def vectorsOf (f : Nat) : Nat := if f = 0 then 2048 else if f = 1 then 4 else 8

/-- MSIX_MESSAGE_SEND: a set PBA bit whose conditions have cleared is sent through GK8 and cleared (R259). -/
def execMsixMessageSend (fn : Fin 1026) (vec : Fin 2048) (s : State) : Host.Outcome State Fault Refusal :=
  let f := fn.val
  let v := vec.val
  let ok := s.pcie.pba.contains (2048 * f + v) && mayRequest s f && msixEn s f && !msixFnMask s f
    && !fbit (msixWord s f v 3) 0
  if ok then
    let addr := (msixWord s f v 0).toNat + 2 ^ 32 * (msixWord s f v 1).toNat
    let s1 := emit s (.msix f v addr (msixWord s f v 2).toNat)
    .next { s1 with pcie := { s1.pcie with pba := s1.pcie.pba.filter (fun x => x != 2048 * f + v) } }
  else .next s

/-- PME_REPEAT: PM_PME is sent again every 100 ms while PME_Status stays 1 in D3hot (R261). -/
def execPmeRepeat (fn : Fin 1026) (s : State) : Host.Outcome State Fault Refusal :=
  let f := fn.val
  let w := cfgRd s f 0x44
  if fnExists s f && inD3 s f && fbit w 15 && fbit w 8 && linkOpen s
      && passed s (tget (fun _ => 0) s.pcie.pmeAt f) (boundariesIn s 100000000) then
    let s1 := bump (emit s (.pme f)) (pgHif 0 + Reg.HIF_PME_CNT)
    .next { s1 with pcie := { s1.pcie with pmeAt := tset (fun _ => 0) s1.pcie.pmeAt f s1.tck.boundaries } }
  else .next s

/-- A dword of BAR 4 of function f (R230): MSI-X table, PBA, or 0. -/
def bar4Read (s : State) (f off : Nat) : Word :=
  let n := vectorsOf f
  let pba := if f = 0 then 0x8000 else 0x800
  if off < 16 * n then msixWord s f (off / 16) (off % 16 / 4)
  else if pba ≤ off ∧ off < pba + cdiv n 64 * 8 then
    w32 ((List.range 32).foldl (fun a i =>
      a + 2 ^ i * (s.pcie.pba.contains (2048 * f + 8 * (off - pba) + i)).toNat) 0)
  else 0

/-- A whole dword written to BAR 4 (R230): only the MSI-X table is writable, and of the last word of an entry only the
mask bit. -/
def bar4Write (s : State) (f off : Nat) (w : Word) : State :=
  if off < 16 * vectorsOf f then
    let k := 4 * (2048 * f + off / 16) + off % 16 / 4
    let v := if off % 16 / 4 = 3 then w &&& 1 else if off % 16 = 0 then w &&& 0xFFFFFFFC else w
    { s with pcie := { s.pcie with msix := tset msixDflt s.pcie.msix k v } }
  else s

/-- The host can reach a function's BARs: memory requests are answered (R188, R204, R244). -/
def barOpen (s : State) : Bool := s.power.bringupDone && s.pcie.dlUp && !s.pcie.l23 && warmOpen s

/-- Memory Space Enable of a function: of a VF, VF MSE of the SR-IOV capability. -/
def memEnabled (s : State) (f : Nat) : Bool := if f < 2 then fbit (cfgRd s f 4) 1 else fbit (cfgRd s 0 0x158) 3

/-- MSIX_TABLE_WRITE: a write to BAR 4 with all byte enables changes the table (R230, R259); in recovery it is
ignored (R189). -/
def execMsixTableWrite (fn : Fin 1026) (off be : Nat) (w : Word) (s : State) : Host.Outcome State Fault Refusal :=
  if barOpen s && fnExists s fn.val && !inD3 s fn.val && !inFlr s fn.val && be % 16 == 15 && off % 4 == 0
      && memEnabled s fn.val then
    .next (if s.power.phase = .recovery then setErr s pgSys 3 else bar4Write s fn.val off w)
  else .next s

/-! ### Errors of received requests (R242, R244, R254) -/

/-- Unsupported Request in a function (R244). -/
def unsupported (s : State) (f : Nat) (advisory : Bool) : State :=
  aerUnc (setErr s (pgHif 0) 7) f 20 [] advisory

/-- Completer Abort in a function (R242). -/
def completerAbort (s : State) (f : Nat) : State := aerUnc (setErr s (pgHif 0) 6) f 15 [] false

/-- A TLP received with EP set (R245, R246, R254). -/
def poisonedRx (s : State) (f : Nat) (advisory : Bool) : State :=
  aerUnc (bump (setErr s (pgHif 0) 3) (pgHif 0 + Reg.HIF_POISON_RX_CNT)) f 12 [] advisory

/-- An unexpected completion (R251). -/
def unexpectedCpl (s : State) : State :=
  aerUnc (bump (setErr s (pgHif 0) 2) (pgHif 0 + Reg.HIF_UNEXP_CPL_CNT)) 0 16 [] true

/-- Does a function check ECRC (R253)? A VF uses its physical function's AER control. -/
def ecrcChecked (s : State) (f : Nat) : Bool := fbit (cfgRd s (aerPf f) 0x118) 8

/-- A received TLP whose ECRC is wrong (R253). -/
def ecrcError (s : State) (f : Nat) : State :=
  aerUnc (bump (setErr s (pgHif 0) 4) (pgHif 0 + Reg.HIF_ECRC_ERR_CNT)) f 19 [] false

/-! ### HIF registers (R266, R267) -/

/-- HIF page 0. -/
def viewHif0 (s : State) (off : Nat) : Option Word :=
  if off = Reg.PAGE_STAT then
    some (w32 (s.pcie.dlUp.toNat + (if s.pcie.dlUp then 2 * s.pcie.speed + 16 * s.pcie.width else 0)
      + 512 * (fbit (cfgRd s 0 0x158) 4).toNat + 1024 * (vfEnable s).toNat + 2048 * numVfs s))
  else if off = Reg.HIF_TAGS_USED then
    some (w32 (s.pcie.tags.length + 65536 * (s.pcie.tags.filter (·.stale)).length))
  else none

/-- The nibble of function f in HIF page 1 (R267). -/
def fnNibble (s : State) (f : Nat) : Nat :=
  if !(f < 2 || decide (f - 2 < s.pcie.vfShown)) then 0
  else
    let m := cfgEff s f 0xB0
    (inD3 s f).toNat + 2 * (bmeEff s f).toNat + 4 * (s.pcie.flrShown.contains f).toNat
      + 8 * (fbit m 31 && !fbit m 30).toNat

/-- HIF page 1. -/
def viewHif1 (s : State) (off : Nat) : Option Word :=
  if 0x100 ≤ off ∧ off ≤ 0x300 then
    some (w32 ((List.range 8).foldl (fun a i => a + 16 ^ i * fnNibble s (8 * ((off - 0x100) / 4) + i)) 0))
  else none

end Sys2Proof.Machine
end

