-- ==== Sys2Proof/Machine/Buffer.lean ====
section
/-! DEFINITION. The packet buffer: frames, their cells, their poison, views of them after edits, and the occupancy of
the nodes they are charged to (chapters 01, 12 and 14). -/
namespace Sys2Proof.Machine

/-! ### Nodes (R511) -/

/-- A node hardware has not touched. -/
def freshNode : Node := ⟨0, 0, 0, 0, false⟩
def getNode (s : State) (i : Nat) : Node := tget (fun _ => freshNode) s.sched.nodes i
def putNode (s : State) (i : Nat) (n : Node) : State :=
  { s with sched := { s.sched with nodes := tset (fun _ => freshNode) s.sched.nodes i n } }

/-- Cells are charged to a node. -/
def addOcc (s : State) (i cells : Nat) : State :=
  let n := getNode s i
  putNode s i { n with occ := n.occ + cells }

/-- Cells leave a node. -/
def subOcc (s : State) (i cells : Nat) : State :=
  let n := getNode s i
  putNode s i { n with occ := n.occ - cells }

/-- A child that gains a frame while it has none waiting takes V of its parent as its tag (R521). -/
def tagOnGain (s : State) (node parent : Nat) (had : Bool) : State :=
  if had then s
  else
    let n := getNode s node
    putNode s node { n with tag := tget (fun _ => 0) s.sched.vt parent, waited := false }

/-! ### Frames -/

/-- Cells of `n` bytes: 256 bytes each, at least one (R58). -/
def cellsFor (n : Nat) : Nat := Nat.max 1 (cdiv n 256)

def getFrame (s : State) (id : Nat) : Option Frame := tget (fun _ => none) s.pipe.frames id
def putFrame (s : State) (id : Nat) (f : Option Frame) : State :=
  { s with pipe := { s.pipe with frames := tset (fun _ => none) s.pipe.frames id f } }

/-- Change a frame. -/
def modFrame (s : State) (id : Nat) (g : Frame → Frame) : State :=
  match getFrame s id with
  | none => s
  | some f => putFrame s id (some (g f))

/-- A new frame takes its cells from the free list. -/
def newFrame (s : State) (f : Frame) : State × Nat :=
  let s1 := putFrame s s.pipe.nextFrame (some f)
  ({ s1 with pipe := { s1.pipe with nextFrame := s.pipe.nextFrame + 1, freeCells := s.pipe.freeCells - f.cells } },
    s.pipe.nextFrame)

/-- GK10 releases a frame's cells: they leave every node they are charged to and return to the free list. -/
def releaseFrame (s : State) (id : Nat) : State :=
  match getFrame s id with
  | none => s
  | some f =>
    let s1 := f.charges.foldl (fun s c => subOcc s c.1 c.2) s
    let s2 := putFrame s1 id none
    { s2 with pipe := { s2.pipe with
      freeCells := s2.pipe.freeCells + f.cells,
      rxPart := s2.pipe.rxPart.filter (fun e => e.2 != some id) } }

/-- One more user of a frame. -/
def holdFrame (s : State) (id : Nat) : State := modFrame s id (fun f => { f with refs := f.refs + 1 })

/-- A user of a frame is done with it; the last one releases it (R458). A frame still being received stays until it is
whole. -/
def dropRef (s : State) (id : Nat) : State :=
  match getFrame s id with
  | none => s
  | some f =>
    if f.refs ≤ 1 ∧ f.whole then releaseFrame s id
    else putFrame s id (some { f with refs := f.refs - 1 })

/-- Charge a frame's cells to a node (R527, R528). -/
def chargeNode (s : State) (id node cells : Nat) : State :=
  modFrame (addOcc s node cells) id (fun f => { f with charges := (node, cells) :: f.charges })

/-- Does a frame hold a poisoned block at all, or in its first 256 bytes? -/
def Frame.poisoned (f : Frame) : Bool := !f.poison.isEmpty
def Frame.windowPoisoned (f : Frame) : Bool := f.poison.any (fun b => decide (b < 4))

/-! ### Views -/

/-- The bytes of a view without FCS, each with the poison mark of its block; bytes of an edited head have none. -/
def viewBytes (f : Frame) (v : View) : List (Byte × Bool) :=
  v.head.map (fun b => (b, false)) ++
    ((f.data.drop v.skip).zip (List.range (f.data.length - v.skip))).map
      (fun x => (x.1, f.poison.contains ((x.2 + v.skip) / 64)))

/-- A frame as received. -/
def asReceived (id : Nat) : View := ⟨id, [], 0⟩

/-- Length of a view, without FCS. -/
def viewLen (f : Frame) (v : View) : Nat := v.head.length + (f.data.length - v.skip)

/-- The bytes of a view without FCS. -/
def viewData (f : Frame) (v : View) : List Byte := v.head ++ f.data.drop v.skip

/-- Is a 64-byte block of a view poisoned at all? -/
def viewPoisoned (f : Frame) (v : View) : Bool := (viewBytes f v).any (·.2)

/-! ### Pacing levels (R333 to R337) -/

/-- Does an entry's data come from DRAM (R291)? -/
def WorkItem.dramSource (i : WorkItem) : Bool :=
  i.bytes.getD 0 0 == 5 && nbit (i.bytes.getD 6 0).toNat 0

/-- Level of function f: cells reserved for its frames and chunks read from host memory and not yet returned. -/
def paceLevel (s : State) (f : Nat) : Nat :=
  s.queues.items.foldl (fun a i => if i.fn = f ∧ !i.dramSource then a + i.cells else a) 0
    + s.crt.chans.foldl (fun a e => a + e.2.msgs.foldl (fun a m => if m.paced = some f then a + m.cells else a) 0) 0
    + s.pipe.frames.foldl (fun a e => match e.2 with
      | some x => if x.fn == f then a + x.cells else a
      | none => a) 0

/-- The pacing profile of function f, and its thresholds HI and LO (R334, R337). -/
def paceProfile (s : State) (f : Nat) : Nat :=
  fld (rdEff s (pgDma + Reg.DMA_PACE_MAP + 4 * (f / 16))) (2 * (f % 16) + 1) (2 * (f % 16))
def paceHi (s : State) (f : Nat) : Nat := fld (rdEff s (pgDma + Reg.DMA_PACE_HI + 8 * paceProfile s f)) 16 0
def paceLo (s : State) (f : Nat) : Nat :=
  Nat.min (fld (rdEff s (pgDma + Reg.DMA_PACE_LO + 8 * paceProfile s f)) 16 0) (paceHi s f - 1)

/-- The paced flag of function f. -/
def isPaced (s : State) (f : Nat) : Bool := tget (fun _ => false) s.queues.paced f
def setPaced (s : State) (f : Nat) (b : Bool) : State :=
  { s with queues := { s.queues with paced := tset (fun _ => false) s.queues.paced f b } }

/-- Pacing at a boundary (R334, R337): flags clear at or below LO, and a LO not below HI is reported.
DEDUCED (log entry 30, unsafe). -/
def paceBoundary (s : State) : State :=
  let s1 := s.queues.paced.foldl (fun s e => if paceLevel s e.1 ≤ paceLo s e.1 then setPaced s e.1 false else s) s
  let bad := (List.range 4).any (fun p =>
    decide (fld (rdEff s (pgDma + Reg.DMA_PACE_HI + 8 * p)) 16 0 ≤ fld (rdEff s (pgDma + Reg.DMA_PACE_LO + 8 * p)) 16 0))
  let waits := s.queues.pacedTick
    || s.queues.items.any (fun i => i.stage == .admission && !i.dramSource && isPaced s i.fn)
  let s2 := if waits then bump s1 (pgSlice s.worker 7 + Reg.DMA_PACE_WAIT) else s1
  let s3 := { s2 with queues := { s2.queues with pacedTick := false } }
  if bad then setErr s3 pgDma 2 else s3

/-- A frame of `cells` cells of function f is considered for its first data read (R333, R334, R526): may it start? When
it may not, the paced flag is set and counted.
DEDUCED (log entry 30, unsafe). -/
def paceTry (s : State) (f cells : Nat) : Bool × State :=
  if !isPaced s f && decide (paceLevel s f + cells ≤ paceHi s f) then (decide (cells ≤ s.pipe.freeCells), s)
  else
    let s1 := { s with queues := { s.queues with pacedTick := true } }
    (false, if isPaced s f then s1 else bump (setPaced s1 f true) (pgDma + Reg.DMA_PACED_CNT))

end Sys2Proof.Machine
end

