-- ==== Sys2Proof/Machine/Queues.lean ====
section
/-! DEFINITION. Work queues and completion rings (chapter 07): records, indices, doorbells, completions, moderation and
halting. Fetching and executing entries stands in Dma.lean. -/
namespace Sys2Proof.Machine

/-! ### Queue configuration records (R268 to R274) -/

/-- Word k of record n. -/
def recWord (s : State) (n k : Nat) : Word := rd s (winQueue + 64 * n + 4 * k)
def recOwner (s : State) (n : Nat) : Nat := fld (recWord s n 4) 10 0
def recLocal (s : State) (n : Nat) : Nat := fld (recWord s n 4) 21 16
def recWqSize (s : State) (n : Nat) : Nat := 2 ^ fld (recWord s n 5) 3 0
def recRx (s : State) (n : Nat) : Bool := fbit (recWord s n 5) 4
def recCrSize (s : State) (n : Nat) : Nat := 2 ^ fld (recWord s n 5) 11 8
def recCr (s : State) (n : Nat) : Nat := fld (recWord s n 5) 29 16
def recVector (s : State) (n : Nat) : Nat := fld (recWord s n 6) 10 0
def recModCount (s : State) (n : Nat) : Nat := fld (recWord s n 6) 23 16
def recModTimer (s : State) (n : Nat) : Nat := fld (recWord s n 7) 15 0
def recWqBase (s : State) (n : Nat) : Nat := (recWord s n 0).toNat + 2 ^ 32 * (recWord s n 1).toNat
def recCrBase (s : State) (n : Nat) : Nat := (recWord s n 2).toNat + 2 ^ 32 * (recWord s n 3).toNat
def recValid (s : State) (n : Nat) : Bool := n < 16384 && fbit (recWord s n 15) 0

/-- The valid records. -/
def validRecs (s : State) : List Nat :=
  s.regs.filterMap (fun e =>
    if winQueue ≤ e.1 ∧ e.1 < winQueue + 0x100000 ∧ e.1 % 64 = 60 ∧ fbit e.2 0 then some ((e.1 - winQueue) / 64) else none)

/-- A function's limit of valid records (R269). -/
def recLimit (owner : Nat) : Nat := if owner = 0 then 2048 else if owner = 1 then 16 else 64

/-- Is n a valid receive queue (of any owner)? -/
def validRx (s : State) (n : Nat) : Bool := recValid s n && recRx s n

/-- The record of tenant t with local index j. -/
def tenantRec (s : State) (t j : Nat) : Option Nat :=
  (validRecs s).find? (fun n => recOwner s n == t + 2 && recLocal s n == j)

/-- The checks of R271, in the order of its table; `w15` is the word being written to bytes 60–63. -/
def recCheck (s : State) (n : Nat) (w15 : Word) : Option Nat :=
  let w (k : Nat) : Word := recWord s n k
  let owner := recOwner s n
  let peers := (validRecs s).filter (fun m => recOwner s m == owner)
  let rsvd := fld (w 4) 15 11 ≠ 0 ∨ fld (w 4) 31 22 ≠ 0 ∨ fld (w 5) 7 5 ≠ 0 ∨ fld (w 5) 15 12 ≠ 0 ∨ fld (w 5) 31 30 ≠ 0
    ∨ fld (w 6) 15 11 ≠ 0 ∨ fld (w 6) 31 24 ≠ 0 ∨ fld (w 7) 31 16 ≠ 0 ∨ fld w15 31 1 ≠ 0
    ∨ [8, 9, 10, 11, 12, 13, 14].any (fun k => decide (w k ≠ 0))
  let log2 (x : Nat) : Bool := decide (x < 4)
  if rsvd then some 1
  else if fld (w 0) 11 0 ≠ 0 ∨ fld (w 2) 11 0 ≠ 0 then some 2
  else if log2 (fld (w 5) 3 0) || log2 (fld (w 5) 11 8) then some 3
  else if 1025 < owner then some 4
  else if recLimit owner ≤ peers.length then some 5
  else if (if owner < 2 then recLocal s n != 0 else peers.any (fun m => recLocal s m == recLocal s n)) then some 6
  else if recCr s n ≠ n ∧ ¬ (recValid s (recCr s n) ∧ recOwner s (recCr s n) = owner) then some 7
  else if vectorsOf owner ≤ recVector s n then some 8
  else none

/-! ### Indices (R275, R276) -/

/-- A queue nothing has touched since its record became valid. -/
def freshWq : WqState := ⟨0, 0, 0, 0, true, true, 0⟩
def freshCr : CrState := ⟨0, 0, [], false, 0, none, true⟩
def getWq (s : State) (n : Nat) : WqState := tget (fun _ => freshWq) s.queues.wq n
def getCr (s : State) (n : Nat) : CrState := tget (fun _ => freshCr) s.queues.cr n
def putWq (s : State) (n : Nat) (x : WqState) : State :=
  { s with queues := { s.queues with wq := tset (fun _ => freshWq) s.queues.wq n x } }
def putCr (s : State) (n : Nat) (x : CrState) : State :=
  { s with queues := { s.queues with cr := tset (fun _ => freshCr) s.queues.cr n x } }

/-- The distance from index a to index b modulo 65,536. -/
def dist16 (a b : Nat) : Nat := (b + 65536 - a) % 65536

/-- The phase of index i in a queue of `size` slots (R276). -/
def phaseOfIndex (i size : Nat) : Nat := (1 + i / size) % 2

/-- Is record n quiet (R272)? -/
def recQuiet (s : State) (n : Nat) : Bool := (getWq s n).quiet && (getCr s n).quiet

/-- A ring is full (R300). -/
def crFull (s : State) (n : Nat) : Bool := decide (recCrSize s n ≤ dist16 (getCr s n).ci (getCr s n).pi)

/-! ### Halting (R304 to R308) -/

/-- Record a malformed act (R306).
DEDUCED (log entry 54, unsafe). -/
def recordMalformed (s : State) (h : HaltReq) : State :=
  if fbit (rd s (pgQmg + Reg.QMG_MAL_INFO)) 31 then s
  else
    let s1 := wr s (pgQmg + Reg.QMG_MAL_INFO) (w32 (h.queue + 16384 * h.isCr.toNat + 65536 * h.reason + 2 ^ 31))
    wr s1 (pgQmg + Reg.QMG_MAL_FN) (w32 (h.fn + 65536 * (h.idx % 65536)))

/-- A malformed act of function fn (R305, R307): a tenant halts at the next boundary; PF0 or PF1 puts the device in
recovery. -/
def malformed (s : State) (h : HaltReq) : State :=
  if h.fn < 2 then needReset (setErr (recordMalformed s h) pgQmg 4) pgQmg 4
  else { s with queues := { s.queues with halts := s.queues.halts ++ [h] } }

/-- Is a function halted? -/
def isHalted (s : State) (f : Nat) : Bool := s.queues.halted.contains f

/-- What a function that halts shows (R306).
DEDUCED (log entry 54, unsafe). -/
def haltOne (s : State) (h : HaltReq) : State :=
  let m := pgQmg + Reg.QMG_HALTED_MAP + 4 * (h.fn / 32)
  let s1 := wr { s with queues := { s.queues with halted := h.fn :: s.queues.halted } } m
    (rd s m ||| w32 (2 ^ (h.fn % 32)))
  let s2 := wr s1 (vfBase (h.fn - 2) + 0x4000 + Reg.QV_HALT)
    (w32 (1 + 256 * h.reason + 65536 * h.queue + 2 ^ 30 * h.isCr.toNat))
  fireVector (bump (setErr (recordMalformed s2 h) pgQmg 3) (pgQmg + Reg.QMG_MAL_CNT)) h.fn 0

/-! ### Doorbells (R278 to R280) -/

/-- A refused doorbell of function f (R280). -/
def doorbellRefused (s : State) (f : Nat) : State :=
  let s1 := bump (setErr s pgQmg 5) (pgQmg + Reg.QMG_DB_REFUSED_CNT)
  if f < 2 then s1 else bump s1 (vfBase (f - 2) + 0x4000 + Reg.QV_DB_REFUSED)

/-- A stale doorbell of function f (R279). -/
def doorbellStale (s : State) (f : Nat) : State :=
  let s1 := bump s (pgQmg + Reg.QMG_DB_STALE_CNT)
  if f < 2 then s1 else bump s1 (vfBase (f - 2) + 0x4000 + Reg.QV_DB_STALE)

/-- Is a doorbell of function f to queue n refused (R280)? -/
def doorbellBarred (s : State) (f n : Nat) : Bool := !recValid s n || recOwner s n != f || isHalted s f

/-- A WQ doorbell carrying producer index v (R279). -/
def wqDoorbell (s : State) (f n v : Nat) : State :=
  if doorbellBarred s f n then doorbellRefused s f
  else
    let q := getWq s n
    let d := dist16 q.pi v
    if d = 0 then s
    else if d ≤ recWqSize s n - dist16 q.ci q.pi then putWq s n { q with pi := v, quiet := false, served := true }
    else if 32768 ≤ d then doorbellStale s f
    else malformed s ⟨f, 0x0A, n, false, v⟩

/-- A CR doorbell carrying consumer index v (R279). -/
def crDoorbell (s : State) (f n v : Nat) : State :=
  if doorbellBarred s f n then doorbellRefused s f
  else
    let q := getCr s n
    let d := dist16 q.ci v
    if d = 0 then s
    else if d ≤ dist16 q.ci q.pi then putCr s n { q with ci := v, quiet := false }
    else if 32768 ≤ d then doorbellStale s f
    else malformed s ⟨f, 0x0B, n, true, v⟩

/-! ### Writing records (R271 to R273) -/

/-- QMG_REC_ERR and bad_record (R271). -/
def badRecord (s : State) (n reason : Nat) : State :=
  let s1 := setErr s pgQmg 1
  if fbit (rd s1 (pgQmg + Reg.QMG_REC_ERR)) 31 then s1
  else wr s1 (pgQmg + Reg.QMG_REC_ERR) (w32 (n + 65536 * reason + 2 ^ 31))

/-- RECORD_VALIDATE: valid = 1 written to an invalid record (R271, R273). -/
def recordValidate (s : State) (n : Nat) (w : Word) : State :=
  match recCheck s n w with
  | some r => badRecord s n r
  | none => putCr (putWq (wr s (winQueue + 64 * n + 60) 1) n freshWq) n freshCr

/-- RECORD_INVALIDATE: valid = 0 written to a valid record (R272). -/
def recordInvalidate (s : State) (n : Nat) : State :=
  if !recQuiet s n then badRecord s n 0x0A
  else if (validRecs s).any (fun m => m != n && recCr s m == n) then badRecord s n 0x0B
  else wr s (winQueue + 64 * n + 60) 0

/-- A word written to record n (R270 to R272). -/
def recordWrite (s : State) (n k : Nat) (w : Word) : State :=
  if k = 15 then
    match recValid s n, fbit w 0 with
    | false, true => recordValidate s n w
    | true, false => recordInvalidate s n
    | true, true => s
    | false, false => wr s (winQueue + 64 * n + 60) (w &&& 0xFFFFFFFE)
  else if recValid s n then setErr s pgQmg 2
  else wr s (winQueue + 64 * n + 4 * k) w

/-! ### Work entries in hand -/

/-- The fetched entry at index idx of WQ wq. -/
def getItem (s : State) (wq idx : Nat) : Option WorkItem :=
  s.queues.items.find? (fun i => i.wq == wq && i.idx == idx)

/-- Change a fetched entry. -/
def modItem (s : State) (wq idx : Nat) (f : WorkItem → WorkItem) : State :=
  { s with queues := { s.queues with
    items := s.queues.items.map (fun i => if i.wq = wq ∧ i.idx = idx then f i else i) } }

/-- Header fields of an entry (R281). -/
def WorkItem.etype (i : WorkItem) : Nat := (i.bytes.getD 0 0).toNat
def WorkItem.slots (i : WorkItem) : Nat := (i.bytes.getD 1 0).toNat % 4 + 1
def WorkItem.phase (i : WorkItem) : Nat := (i.bytes.getD 1 0).toNat / 4 % 2
def WorkItem.barrier (i : WorkItem) : Bool := nbit (i.bytes.getD 1 0).toNat 3
def WorkItem.quiet (i : WorkItem) : Bool := nbit (i.bytes.getD 1 0).toNat 4

/-- Entries of WQ n in hand, in posting order. -/
def itemsOf (s : State) (n : Nat) : List WorkItem := s.queues.items.filter (fun i => i.wq == n)

/-- Has the entry not ended (its record not yet staged)? -/
def WorkItem.live (i : WorkItem) : Bool := i.stage != .ended

/-- The reservation of an entry returns to the pool (R333). -/
def freeItemCells (s : State) (i : WorkItem) : State :=
  { s with pipe := { s.pipe with freeCells := s.pipe.freeCells + i.cells } }

/-- The CI advances over ended entries (R294); `fuel` bounds them.
DEDUCED (log entry 53, unsafe). -/
def advanceCi (n : Nat) : Nat → State → State
  | 0, s => s
  | fuel + 1, s =>
    let q := getWq s n
    match getItem s n q.ci with
    | none => s
    | some i =>
      if i.live then s
      else
        let s1 := { s with queues := { s.queues with
          items := s.queues.items.filter (fun x => !(x.wq == n && x.idx == i.idx)) } }
        advanceCi n fuel (putWq s1 n { q with ci := (q.ci + i.slots) % 65536 })

/-! ### Completions (R296 to R303) -/

/-- A plain report of an end in this tick. -/
def report (s : State) (status bytes : Nat) : Report :=
  ⟨status, bytes % 2 ^ 32, s.stamp, 0, 0, 0, false, false, false, 0, true⟩

/-- The bytes of a completion entry, phase 0 (R296). -/
def recordBytes (i : WorkItem) (r : Report) : List Byte :=
  sliceB i.bytes 2 2 ++ leBytes 1 i.etype ++ leBytes 1 r.status ++ leBytes 2 i.wq ++ leBytes 2 r.stamp
    ++ leBytes 4 r.bytes ++ wordBytes r.meta32 ++ leBytes 8 r.time
    ++ leBytes 2 (r.rxErr + 256 * r.tsValid.toNat + 512 * r.decrypted.toNat + 1024 * r.decap.toNat)
    ++ leBytes 2 0 ++ wordBytes r.out

/-- An entry finishes (R294): its reservation is freed and its report waits for ENTRY_FINISH. -/
def endItem (s : State) (wq idx : Nat) (r : Report) : State :=
  match getItem s wq idx with
  | none => s
  | some i =>
    match i.stage with
    | .finishing _ => s
    | .ended => s
    | _ => modItem (freeItemCells s i) wq idx (fun x =>
        { x with stage := .finishing r, needs := [], retries := [], out := [], cells := 0, buf := [], rxd := none })

/-- ENTRY_FINISH: the record of a finished entry is staged, where its ring's staging area has a free place, and the CI
advances over finished entries (R294, R297, R298, R301).
DEDUCED (log entry 53, unsafe). -/
def execEntryFinish (wq : Fin 16384) (idx : Fin 65536) (s : State) : Host.Outcome State Fault Refusal :=
  match getItem s wq.val idx.val with
  | none => .next s
  | some i => match i.stage with
    | .finishing r =>
      let s1 := modItem s wq.val idx.val (fun x => { x with stage := .ended })
      if i.quiet && r.status == stOK then .next (advanceCi wq.val 64 s1)
      else
        let c := recCr s wq.val
        let cr := getCr s1 c
        if 64 ≤ cr.staged.length then .next s
        else
          let x : Record := ⟨wq.val, idx.val, recordBytes i r, if r.ready then some s1.queues.readySeq else none⟩
          let s2 := putCr s1 c { cr with staged := cr.staged ++ [x] }
          .next (advanceCi wq.val 64 { s2 with queues := { s2.queues with readySeq := s2.queues.readySeq + 1 } })
    | _ => .next s

/-- A transmit record becomes ready, with its timestamp if it has one (R298). -/
def readyRecord (s : State) (wq idx : Nat) (time : Option Nat) : State :=
  let c := recCr s wq
  let cr := getCr s c
  let upd (r : Record) : Record :=
    if r.wq = wq ∧ r.idx = idx ∧ r.ready = none then
      let b := match time with
        | none => r.bytes
        | some t => putB (putB r.bytes 16 (leBytes 8 t)) 24 (leBytes 2 (leAt r.bytes 24 2 ||| 256))
      { r with bytes := b, ready := some s.queues.readySeq }
    else r
  let s1 := putCr s c { cr with staged := cr.staged.map upd }
  let s2 := modItem s1 wq idx (fun i => match i.stage with
    | .finishing r => { i with stage := .finishing { r with
        ready := true, time := time.getD r.time, tsValid := r.tsValid || time.isSome } }
    | _ => i)
  { s2 with queues := { s2.queues with readySeq := s2.queues.readySeq + 1 } }

/-- May a staged record be written now (R298)? It is ready, no earlier record of its WQ is staged, and no earlier entry
of its WQ is still in hand. -/
def recordFree (s : State) (staged : List Record) (r : Record) : Bool :=
  r.ready.isSome
    && !staged.any (fun x => x.wq == r.wq && x.idx != r.idx && decide (dist16 x.idx r.idx < 32768))
    && !s.queues.items.any (fun i => i.live && i.wq == r.wq && i.idx != r.idx && decide (dist16 i.idx r.idx < 32768))

/-- The record of a ring to be written next: of those that may be, the one that became ready first. -/
def nextRecord (s : State) (staged : List Record) : Option Record :=
  (staged.filter (recordFree s staged)).foldl (fun (b : Option Record) r =>
    match b with
    | none => some r
    | some x => if r.ready.getD 0 < x.ready.getD 0 then some r else some x) none

/-- A ring fires its vector: count 0, timer stopped (R258). -/
def fireRing (s : State) (n : Nat) : State :=
  let c := getCr s n
  fireVector (putCr s n { c with modCount := 0, modSince := none }) (recOwner s n) (recVector s n)

/-- A completion entry has been written for a ring (R258). -/
def moderate (s : State) (n : Nat) : State :=
  let c := getCr s n
  let s1 := putCr s n { c with
    modCount := c.modCount + 1
    modSince := if c.modCount = 0 ∧ recModTimer s n ≠ 0 then some s.tck.boundaries else c.modSince }
  if Nat.max 1 (recModCount s n) ≤ c.modCount + 1 then fireRing s1 n else s1

/-- COMPLETION_ENTRY_WRITE: the next ready staged record of ring n is written at its PI, under a host-write credit
(R298, R302, R303). -/
def execCompletionEntryWrite (n : Fin 16384) (s : State) : Host.Outcome State Fault Refusal :=
  let c := getCr s n.val
  let f := recOwner s n.val
  if !recValid s n.val || isHalted s f || !mayRequest s f || !canStart s (acct 3 1) 1 0 then .next s
  else match nextRecord s c.staged with
  | none => .next s
  | some r =>
    if crFull s n.val then .next s
    else
      let size := recCrSize s n.val
      let ph := phaseOfIndex c.pi size
      let b := putB r.bytes 5 (leBytes 1 (leAt r.bytes 5 1 % 128 + 128 * ph))
      let s1 := useCredits s (acct 3 1) 1 0
      let s2 := hostWrite s1 f (recCrBase s n.val + 32 * (c.pi % size)) (b.map (fun x => (x, false)))
      let s3 := putCr s2 n.val { c with
        pi := (c.pi + 1) % 65536, staged := c.staged.filter (fun x => !(x.wq == r.wq && x.idx == r.idx)) }
      let w := s.worker
      let s4 := bump (bump s3 (pgSlice w 6 + Reg.QMG_CPL_WR)) (pgSlice w 7 + Reg.DMA_BEATS1)
      let s5 := signal (signal s4 (srcSlice w 0xA 1) 0 1) (srcSlice w 0xB 0) 1 1
      .next (moderate s5 n.val)

/-- MODERATION_TIMER_EXPIRY: mod_timer boundaries have passed since the timer started (R258). -/
def execModerationTimerExpiry (n : Fin 16384) (s : State) : Host.Outcome State Fault Refusal :=
  match (getCr s n.val).modSince with
  | none => .next s
  | some t => .next (if passed s t (recModTimer s n.val) then fireRing s n.val else s)

/-- cr_stalled at a boundary (R301, R302): a ready record waits because the ring is full. -/
def stallBoundary (s : State) : State :=
  s.queues.cr.foldl (fun s e =>
    let c := getCr s e.1
    let st := (nextRecord s c.staged).isSome && crFull s e.1
    if st && !c.stalled then
      bump (setErr (putCr s e.1 { c with stalled := true }) pgQmg 6) (pgQmg + Reg.QMG_CR_STALL_CNT)
    else if !st && c.stalled then putCr s e.1 { c with stalled := false }
    else s) s

/-- A place in the staging area of the ring of WQ n is free (R301). -/
def stagingFree (s : State) (n : Nat) : Bool := decide ((getCr s (recCr s n)).staged.length < 64)

/-! ### Discarding a function's work (R208, R210, R305) -/

/-- The staged completions and moderation of a function's rings are discarded; with `reset` its queues return to index
0, phase 1, not halted. -/
def clearQueues (s : State) (p : Nat → Bool) (reset : Bool) : State :=
  (validRecs s).foldl (fun s n =>
    if !p (recOwner s n) then s
    else if reset then putCr (putWq s n { freshWq with served := false }) n freshCr
    else
      let c := getCr s n
      putCr s n { c with staged := [], modCount := 0, modSince := none }) s

/-! ### Registers (R309 to R312) -/

/-- Fetching from a WQ is stopped (R300, R302). -/
def fetchStopped (s : State) (n : Nat) : Bool := crFull s (recCr s n) || (getCr s (recCr s n)).stalled

/-- QMG_Q_STATE without its valid bit: quiet, cr_stalled, fetch_stopped and staged records. -/
def queueState (s : State) (n : Nat) : Nat × Nat × Nat × Nat :=
  ((recQuiet s n).toNat, (getCr s n).stalled.toNat, (fetchStopped s n).toNat, (getCr s n).staged.length)

/-- QMG global page. -/
def viewQmg (s : State) (off : Nat) : Option Word :=
  let n := fld (rd s (pgQmg + Reg.QMG_Q_SEL)) 13 0
  if off = Reg.PAGE_STAT then
    some (flagAt (!s.queues.halted.isEmpty) 0 ||| flagAt (s.queues.cr.any (fun e => e.2.stalled)) 1)
  else if off = Reg.QMG_Q_WQ_IDX then some (w32 ((getWq s n).pi + 65536 * (getWq s n).ci))
  else if off = Reg.QMG_Q_CR_IDX then some (w32 ((getCr s n).pi + 65536 * (getCr s n).ci))
  else if off = Reg.QMG_Q_STATE then
    let q := queueState s n
    some (w32 ((recValid s n).toNat + 2 * q.1 + 4 * (recValid s n && isHalted s (recOwner s n)).toNat + 8 * q.2.1
      + 16 * q.2.2.1 + 32 * q.2.2.2))
  else none

/-- QMG page of a slice. -/
def viewSlQmg (s : State) (sl : SliceId) (off : Nat) : Option Word :=
  if off = Reg.PAGE_STAT then
    some (if s.worker = sl then
      w32 ((s.queues.items.filter (·.live)).length
        + 65536 * (s.queues.cr.filter (fun e => e.2.stalled)).length) else 0)
  else none

/-- Queue view page of tenant t. -/
def viewQv (s : State) (t off : Nat) : Option Word :=
  if 0x100 ≤ off ∧ off < 0x500 then
    match tenantRec s t ((off - 0x100) / 16) with
    | none => some 0
    | some n =>
      let k := off % 16 / 4
      let q := queueState s n
      some (if k = 0 then
          w32 (n + 2 ^ 15 + 65536 * fld (recWord s n 5) 3 0 + 2 ^ 20 * fld (recWord s n 5) 11 8 + 2 ^ 24 * (recRx s n).toNat)
        else if k = 1 then w32 ((getWq s n).pi + 65536 * (getWq s n).ci)
        else if k = 2 then w32 ((getCr s n).pi + 65536 * (getCr s n).ci)
        else w32 (q.1 + 2 * q.2.1 + 4 * q.2.2.1 + 8 * q.2.2.2))
  else none

end Sys2Proof.Machine
end

