-- ==== Sys2Proof/Machine/Dma.lean ====
section
/-! DEFINITION. Fetching and executing work entries, and the DMA engine (chapters 07 and 08). -/
namespace Sys2Proof.Machine

/-! ### Checks of an entry (R281 to R291, R304) -/

/-- Every byte of [lo, hi) is zero. -/
def zeroBytes (b : List Byte) (lo hi : Nat) : Bool := (sliceB b lo (hi - lo)).all (fun x => x == 0)

/-- The first reason whose check fails. -/
def firstReason (l : List (Nat × Bool)) : Option Nat := (l.find? (·.2)).map (·.1)

/-- A segment descriptor (R285). -/
structure SegDesc where
  addr : Nat
  len : Nat
  chain : Bool
  rsvd : Bool
  zero : Bool
deriving DecidableEq, Repr

/-- The descriptor at byte `off`. -/
def segAt (b : List Byte) (off : Nat) : SegDesc :=
  ⟨leAt b off 8, leAt b (off + 8) 2, nbit (leAt b (off + 10) 1) 0,
   decide (2 ≤ leAt b (off + 10) 1) || !zeroBytes b (off + 11) (off + 16), zeroBytes b off (off + 16)⟩

/-- Reasons a list of descriptors in use breaks (R285, R286): reserved bits, a data length out of range, a chain that is
not last or whose list is out of range, misaligned or crossing 4 KiB. -/
def segReasons (ds : List SegDesc) : List (Nat × Bool) :=
  let listBad (d : SegDesc) : Bool :=
    d.chain && (decide (d.len = 0 ∨ 256 < d.len) || d.addr % 16 != 0 || decide (4096 < d.addr % 4096 + 16 * d.len))
  [(3, ds.any (·.rsvd)),
   (6, ds.any (fun d => !d.chain && decide (d.len = 0 ∨ 16383 < d.len)) || (ds.dropLast).any (·.chain)),
   (7, ds.any listBad)]

/-- Descriptors of a TX entry: its `nseg` in use, and those beyond (R284). -/
def txDescs (b : List Byte) : List SegDesc × List SegDesc :=
  let n := leAt b 7 1
  let all := (List.range (b.length / 16 - 1)).map (fun k => segAt b (16 + 16 * k))
  (all.take n, all.drop n)

/-- Sum of data lengths. -/
def segTotal (l : List (Nat × Nat)) : Nat := l.foldl (fun a x => a + x.2) 0

/-- Data segments of descriptors. -/
def dataSegs (ds : List SegDesc) : List (Nat × Nat) := (ds.filter (fun d => !d.chain)).map (fun d => (d.addr, d.len))

/-- The chain that ends a list of descriptors. -/
def chainOf (ds : List SegDesc) : Option (Nat × Nat) := (ds.find? (·.chain)).map (fun d => (d.addr, d.len))

/-- What is wrong with a header (R282, R283, R304): `posted` slots are left before PI, `room` before the ring's end. -/
def headerReason (b : List Byte) (rx : Bool) (posted room : Nat) : Option Nat :=
  let ty := leAt b 0 1
  let slots := leAt b 1 1 % 4 + 1
  firstReason [
    (1, decide (7 ≤ ty)),
    (2, if rx then decide (ty ≠ 0 ∧ ty ≠ 2) else ty == 2),
    (3, decide (leAt b 1 1 / 32 ≠ 0)),
    (4, decide (2 ≤ ty ∧ slots ≠ 1) || decide (Nat.min posted room < slots))]

/-- What is wrong with the layout of an entry (R283 to R291). -/
def layoutReason (b : List Byte) : Option Nat :=
  let ty := leAt b 0 1
  if ty = 0 then firstReason [(3, !zeroBytes b 4 b.length)]
  else if ty = 1 then
    let ds := txDescs b
    let tot := leAt b 4 2
    let nseg := leAt b 7 1
    let short := (chainOf ds.1).isNone && segTotal (dataSegs ds.1) != tot
    firstReason ([
      (3, decide (2 ≤ leAt b 6 1) || !zeroBytes b 12 16 || ds.2.any (fun d => !d.zero)),
      (6, decide (tot < 14 ∨ 16383 < tot) || decide (nseg = 0 ∨ b.length / 16 - 1 < nseg))]
      ++ segReasons ds.1 ++ [(6, short)])
  else if ty = 2 then
    firstReason [(3, nbit (leAt b 1 1) 4 || !zeroBytes b 4 8 || !zeroBytes b 18 64),
      (9, decide (leAt b 16 2 < 64 ∨ 16383 < leAt b 16 2))]
  else if ty = 3 then
    firstReason [(3, decide (2 ≤ leAt b 4 1) || !zeroBytes b 5 8 || decide (2 ^ 39 ≤ leAt b 16 8) || !zeroBytes b 32 64),
      (9, decide (leAt b 16 8 = 0 ∨ 2 ^ 38 < leAt b 16 8))]
  else if ty = 4 then
    firstReason [(3, decide (4 ≤ leAt b 4 1) || !zeroBytes b 5 8 || decide (2 ^ 39 ≤ leAt b 24 8) || !zeroBytes b 32 64),
      (9, decide (leAt b 24 8 = 0 ∨ 2 ^ 38 < leAt b 24 8))]
  else if ty = 5 then
    firstReason [(3, decide (64 ≤ leAt b 5 1) || decide (2 ≤ leAt b 6 1) || !zeroBytes b 7 8
        || decide (2 ^ 25 ≤ leAt b 24 4) || !zeroBytes b 28 64),
      (9, decide (leAt b 24 4 = 0 ∨ 16777216 < leAt b 24 4))]
  else firstReason [(3, !zeroBytes b 5 64)]

/-- Is the type permitted to the owner (R282)? Channels of Carlis entries are judged by the Carlis engine. -/
def entryPermitted (fn : Nat) (b : List Byte) : Bool :=
  let ty := leAt b 0 1
  if ty = 1 ∨ ty = 2 ∨ ty = 5 ∨ ty = 6 then fn != 1
  else if ty = 3 ∨ ty = 4 then fn == 0 || leAt b 4 1 == 0
  else true

/-- An item in hand after its first slot, phase wrong (R277): fetched again at each of the next three boundaries. -/
def wrongPhase (s : State) (i : WorkItem) : State :=
  let tries := match i.stage with
    | .refetch t _ => t
    | _ => 0
  if 3 ≤ tries then malformed s ⟨i.fn, 5, i.wq, false, i.idx⟩
  else modItem s i.wq i.idx (fun x => { x with stage := .refetch tries s.tck.boundaries, buf := [], bytes := [] })

/-- The bytes 0 to n−1 of an item's data. -/
def bufBytes (b : Table (Option (Byte × Bool))) (n : Nat) : List (Byte × Bool) :=
  (List.range n).map (fun k => (tget (fun _ => none) b k).getD (0, false))

/-- All the slots of an entry are there: it is checked whole (R282, R304).
DEDUCED (log entry 52, unsafe). -/
def judgeEntry (s : State) (i : WorkItem) : State :=
  match layoutReason i.bytes with
  | some r => malformed s ⟨i.fn, r, i.wq, false, i.idx⟩
  | none =>
    if entryPermitted i.fn i.bytes then modItem s i.wq i.idx (fun x => { x with stage := .ready })
    else endItem s i.wq i.idx (report s stDENIED 0)

/-- The data of an entry's read has arrived. -/
def entryArrived (s : State) (i : WorkItem) : State :=
  if i.bytes.isEmpty then
    let b := (bufBytes i.buf 64).map (·.1)
    let size := recWqSize s i.wq
    let tries := match i.stage with
      | .refetch t _ => t
      | _ => 0
    let j := { i with bytes := b }
    if j.phase ≠ phaseOfIndex i.idx size then wrongPhase s { i with stage := .refetch tries 0 }
    else match headerReason b (recRx s i.wq) (dist16 i.idx (getWq s i.wq).seen) (size - i.idx % size) with
      | some r => malformed s ⟨i.fn, r, i.wq, false, i.idx⟩
      | none =>
        let q := getWq s i.wq
        let after := (i.idx + j.slots) % 65536
        let s1 := if dist16 after q.next < 32768 then s else putWq s i.wq { q with next := after }
        if j.slots = 1 then
          let s2 := modItem s1 i.wq i.idx (fun x => { x with bytes := b, buf := [], stage := .fetch })
          judgeEntry s2 { j with buf := [], stage := .fetch }
        else modItem s1 i.wq i.idx (fun x => { x with
          bytes := b, buf := [], stage := .fetch,
          needs := [⟨.entry, recWqBase s i.wq + 64 * (i.idx % size) + 64, 0, 64 * (j.slots - 1), 0⟩] })
  else
    let b := i.bytes ++ (bufBytes i.buf (64 * (i.slots - 1))).map (·.1)
    let s1 := modItem s i.wq i.idx (fun x => { x with bytes := b, buf := [] })
    judgeEntry s1 { i with bytes := b, buf := [] }

/-- An item has no read outstanding or to be issued. -/
def readsDone (s : State) (i : WorkItem) : Bool :=
  i.needs.isEmpty && i.retries.isEmpty && !s.pcie.tags.any (fun t => t.wq == i.wq && t.idx == i.idx && t.held.isNone
    && !t.stale)

/-- Data has reached an item: an entry that is whole is judged. -/
def itemProgress (s : State) (wq idx : Nat) : State :=
  match getItem s wq idx with
  | none => s
  | some i =>
    let reading := match i.stage with
      | .fetch => true
      | .refetch _ _ => true
      | _ => false
    if reading && readsDone s i && !i.buf.isEmpty then entryArrived s i else s

/-! ### Ends of reads (R241, R246 to R252, R338 to R340) -/

/-- How a read ended. -/
inductive ReadEnd where
  | whole | timeout | status
deriving DecidableEq, Repr

/-- The bytes a request delivers (R249): a byte not received reads zero, and every 64-byte host block not wholly received or
received with EP is poisoned. -/
def delivered (t : Tag) : List (Byte × Bool) :=
  let have_ (o : Nat) : Bool := (tget (fun _ => none) t.data o).isSome
  let blockBad (b : Nat) : Bool :=
    t.bad.contains b || (List.range 64).any (fun k =>
      decide (t.addr ≤ 64 * b + k ∧ 64 * b + k < t.addr + t.len) && !have_ (64 * b + k - t.addr))
  (List.range t.len).map (fun o => ((tget (fun _ => none) t.data o).getD 0, blockBad ((t.addr + o) / 64)))

/-- Put delivered bytes into an item's data. -/
def placeData (s : State) (wq idx off : Nat) (l : List (Byte × Bool)) : State :=
  modItem s wq idx (fun i => { i with
    buf := (l.zip (List.range l.length)).foldl (fun b x => tset (fun _ => none) b (off + x.2) (some x.1)) i.buf })

/-- A bus error on the read of a work entry or list (R340): it is retried, or the channel halts. -/
def busError (s : State) (t : Tag) (cause : Nat) : State :=
  let r := rd s (pgDma + Reg.DMA_RETRY)
  if t.tries < fld r 2 0 then
    bump (modItem s t.wq t.idx (fun i => { i with
      retries := i.retries ++ [(⟨t.purpose, t.addr, t.off, t.len, t.tries + 1⟩, s.tck.boundaries + fld r 31 16)] }))
      (pgDma + Reg.DMA_RETRY_CNT)
  else
    let s1 := bump (setErr s pgDma 1) (pgDma + Reg.DMA_CH_HALT_CNT)
    let s2 := if fbit (rd s1 (pgDma + Reg.DMA_HALT_INFO)) 31 then s1
      else
        let s2 := wr s1 (pgDma + Reg.DMA_HALT_INFO)
          (w32 (t.fn + 4096 * cause + 16384 * (decide (t.purpose = .list)).toNat + 2 ^ 31))
        wrWide s2 (pgDma + Reg.DMA_HALT_ADDR_LO) t.addr
    malformed s2 ⟨t.fn, 0x0C, t.wq, false, t.idx⟩

/-- Destination blocks of `n` bytes at offset `off` that take a poisoned byte (R322). -/
def poisonedBlocks (off : Nat) (l : List (Byte × Bool)) : Nat :=
  ((List.range (l.length / 64 + 2)).filter (fun k =>
    (l.zip (List.range l.length)).any (fun x => x.1.2 && (off + x.2) / 64 == off / 64 + k))).length

/-- A read of the device has ended: its data is delivered, or it is a bus error, or its operation ends (R249, R252,
R338 to R340). -/
def endRead (s : State) (t : Tag) (e : ReadEnd) : State :=
  match getItem s t.wq t.idx with
  | none => s
  | some i =>
    if !i.live then s
    else
      let l := delivered t
      match t.purpose with
      | .data =>
        if e = .whole ∨ t.normal then
          let s1 := placeData s t.wq t.idx t.off l
          bumpBy s1 (pgDma + Reg.DMA_POISON_CNT) (if i.etype = 4 then 0 else poisonedBlocks t.off l)
        else endItem s t.wq t.idx { report s stTIMEOUT (if i.etype = 1 then i.buf.length else i.done) with
          out := if i.etype = 5 then w32 i.outAt else 0 }
      | _ =>
        if e = .whole ∧ !l.any (·.2) then itemProgress (placeData s t.wq t.idx t.off l) t.wq t.idx
        else busError s t (match e with
          | .timeout => 0
          | .status => 1
          | .whole => 2)

/-- COMPLETION_RECEIVED (R241, R246, R251 to R253, R263). -/
def execCompletionReceived (c : Completion) (s : State) : Host.Outcome State Fault Refusal :=
  if !s.pcie.dlUp then .next s
  else match getTag s c.tag.val with
  | none =>
    .next (if c.ecrcBad && ecrcChecked s 0 then ecrcError s 0 else unexpectedCpl s)
  | some t =>
    if c.ecrcBad && ecrcChecked s t.fn then .next (ecrcError s t.fn)
    else if t.held.isSome && !t.stale then .next (unexpectedCpl s)
    else
      let bytes := c.data.take (t.len - c.off)
      let rec_ (x : Tag) : Tag := { x with
        data := (bytes.zip (List.range bytes.length)).foldl
          (fun d b => tset (fun _ => none) d (c.off + b.2) (some b.1)) x.data
        bad := if c.ep then x.bad ++ (List.range (blocksOf (x.addr + c.off) bytes.length)).map
          (fun k => (x.addr + c.off) / 64 + k) else x.bad }
      let t1 := rec_ t
      let last := c.status.val != 0 || tagWhole t1
      if t.stale then
        let s1 := bump (setTag s t.id rec_) (pgHif 0 + Reg.HIF_STALE_CPL_CNT)
        .next (if last then retireTag s1 t.id else s1)
      else
        let s1 := if c.ep then poisonedRx s t.fn true else s
        if c.status.val ≠ 0 then .next (endRead (retireTag (setErr s1 (pgHif 0) 5) t.id) t .status)
        else if last then .next (endRead (retireTag s1 t.id) t1 .whole)
        else .next (setTag s1 t.id rec_)

/-- COMPLETION_TIMEOUT: K boundaries have passed since the tick of issue (R249, R250). -/
def execCompletionTimeout (tag : Fin 1024) (s : State) : Host.Outcome State Fault Refusal :=
  match getTag s tag.val with
  | none => .next s
  | some t =>
    if t.held.isSome || !passed s t.issuedAt t.k then .next s
    else
      let s1 := setTag s t.id (fun x => { x with held := some s.tck.boundaries })
      if t.stale then .next s1
      else
        let s2 := bump (setErr s1 (pgHif 0) 1) (pgHif 0 + Reg.HIF_CPL_TIMEOUT_CNT)
        let s3 := wr s2 (pgHif 0 + Reg.HIF_LAST_TIMEOUT_FN) (w32 (t.fn + 2 ^ 31))
        .next (endRead (aerUnc s3 t.fn 14 [] t.normal) t .timeout)

/-! ### Fetching (R292, R293) -/

/-- Is a function served in this phase (R216)? -/
def phaseServes (s : State) (f : Nat) : Bool :=
  match s.power.phase with
  | .normal => true
  | .recovery => false
  | _ => f == 0

/-- May an entry be fetched from WQ n now? -/
def mayFetch (s : State) (n : Nat) : Bool :=
  let q := getWq s n
  let f := recOwner s n
  let its := itemsOf s n
  phaseServes s f && !isHalted s f && mayRequest s f && q.served && q.seen != q.next && decide (q.fetched < 4)
    && !fetchStopped s n && its.all (fun i => !i.bytes.isEmpty && i.retries.isEmpty)
    && (!recRx s n || decide ((its.filter (fun i => i.live)).length < 64))

/-- The queue-manager account of a function (R111). -/
def qmAccount (f : Nat) : Nat := Nat.min f 2

/-- The first of an ascending list that comes after `last` (its number plus 1, 0 for none), wrapping. -/
def nextAfter (last : Nat) (l : List Nat) : Option Nat :=
  match l.find? (fun x => decide (last ≤ x)) with
  | some x => some x
  | none => l.head?

/-- WORK_ENTRY_FETCH: the queue manager fetches the next entry in round-robin order under account a (R292).
DEDUCED (log entry 52, unsafe). -/
def execWorkEntryFetch (a : Fin 3) (s : State) : Host.Outcome State Fault Refusal :=
  let k := acct 2 a.val
  if !gkOpen s || !canStart s k 1 1 then .next s
  else
    let ns := (validRecs s).filter (fun n => qmAccount (recOwner s n) == a.val && mayFetch s n)
    let fs := (ns.map (recOwner s)).foldl (fun l f => if l.contains f then l else insKey f l) []
    let q := s.queues
    let begun := tget (fun _ => false) q.started a.val
    match nextAfter (tget (fun _ => 0) (if begun then q.turnFn else q.lastFn) a.val) fs with
    | none => .next s
    | some f =>
      match nextAfter (tget (fun _ => 0) q.lastWq f) (ns.filter (fun n => recOwner s n == f)) with
      | none => .next s
      | some n =>
        let w := getWq s n
        let size := recWqSize s n
        let it : WorkItem := {
          wq := n, idx := w.next, fn := f, stage := .fetch, bytes := [],
          needs := [⟨.entry, recWqBase s n + 64 * (w.next % size), 0, 64, 0⟩], retries := [], buf := [], segs := [],
          hops := 0, admitted := false, cells := 0, done := 0, out := [], outAt := 0, rxd := none, lastAdvance := 0,
          advanced := 0 }
        let s1 := putWq (useCredits s k 1 1) n { w with next := (w.next + 1) % 65536, fetched := w.fetched + 1 }
        let q1 := s1.queues
        let s2 := { s1 with queues := { q1 with
          items := q1.items ++ [it]
          lastFn := if begun then q1.lastFn else tset (fun _ => 0) q1.lastFn a.val (f + 1)
          turnFn := tset (fun _ => 0) q1.turnFn a.val (f + 1)
          lastWq := tset (fun _ => 0) q1.lastWq f (n + 1)
          started := tset (fun _ => false) q1.started a.val true } }
        let p := pgSlice s.worker 6
        .next (signal (bump s2 (p + Reg.QMG_FETCH0 + 4 * a.val)) (srcSlice s.worker 0xA 0) a.val 1)

/-- PHASE_REFETCH: an entry of the wrong phase is fetched again at a later boundary (R277). -/
def execPhaseRefetch (wq : Fin 16384) (idx : Fin 65536) (s : State) : Host.Outcome State Fault Refusal :=
  match getItem s wq.val idx.val with
  | none => .next s
  | some i => match i.stage with
    | .refetch tries since =>
      if !i.needs.isEmpty || !readsDone s i || !passed s since 1 || !mayRequest s i.fn || isHalted s i.fn then .next s
      else
        let size := recWqSize s i.wq
        let s1 := modItem s i.wq i.idx (fun x => { x with
          stage := .refetch (tries + 1) s.tck.boundaries,
          needs := [⟨.entry, recWqBase s i.wq + 64 * (i.idx % size), 0, 64, 0⟩] })
        let s2 := bump (bump s1 (pgQmg + Reg.QMG_PHASE_RETRY_CNT)) (pgSlice s.worker 6 + Reg.QMG_REFETCH)
        .next (signal s2 (srcSlice s.worker 0xA 2) 0 1)
    | _ => .next s

/-- DMA_RETRY: after the interval a failed read of an entry or list is issued again (R340). -/
def execDmaRetry (wq : Fin 16384) (idx : Fin 65536) (s : State) : Host.Outcome State Fault Refusal :=
  .next (modItem s wq.val idx.val (fun i =>
    let due := i.retries.filter (fun r => decide (r.2 ≤ s.tck.boundaries))
    { i with needs := due.map (·.1) ++ i.needs
             retries := i.retries.filter (fun r => !decide (r.2 ≤ s.tck.boundaries)) }))

/-- The DMA account an entry's reads are charged to (R321). -/
def readAccount (i : WorkItem) : Nat := if i.etype = 4 ∧ !i.bytes.isEmpty then 2 else 0

/-- Beats charged on a DMA account (R321). -/
def chargeBeats (s : State) (a n : Nat) : State :=
  let s1 := bumpBy (useCredits s (acct 3 a) n 0) (pgSlice s.worker 7 + Reg.DMA_BEATS0 + 4 * a) n
  signal s1 (srcSlice s.worker 0xB 0) a n

/-- Beats left on a DMA account in this tick. -/
def beatsLeft (s : State) (a : Nat) : Nat := Nat.min (workLeft s (acct 3 a)) (energyLeft s (acct 3 a))

/-- DMA_READ_ISSUE: the next read request of an entry is issued, split at the function's Max_Read_Request_Size and at
the credits (R239, R316). -/
def execDmaReadIssue (wq : Fin 16384) (idx : Fin 65536) (s : State) : Host.Outcome State Fault Refusal :=
  match getItem s wq.val idx.val with
  | none => .next s
  | some i => match i.needs with
    | [] => .next s
    | n :: rest =>
      let a := readAccount i
      let beats := beatsLeft s a
      if beats = 0 || isHalted s i.fn || !mayRequest s i.fn || draining s then .next s
      else match mayTag s i.fn, freeTag s with
      | true, some id =>
        let len := readLen (mrrs s i.fn) n.addr n.len beats
        let s1 := chargeBeats s a (blocksOf n.addr len)
        let s2 := issueRead s1 id i.fn i.wq i.idx n len
        .next (modItem s2 i.wq i.idx (fun x => { x with
          needs := if len < n.len then { n with addr := n.addr + len, off := n.off + len, len := n.len - len } :: rest
            else rest }))
      | _, _ => .next (signal s (srcSlice s.worker 0xB 1) 0 1)

/-! ### Starting entries (R293, R330 to R332) -/

/-- Has an entry started? -/
def WorkItem.begun (i : WorkItem) : Bool :=
  match i.stage with
  | .fetch => false
  | .refetch _ _ => false
  | .ready => false
  | _ => true

/-- May a checked entry start (R293, R330)? -/
def mayStart (s : State) (i : WorkItem) : Bool :=
  let earlier := (itemsOf s i.wq).filter (fun x => x.idx != i.idx && decide (dist16 x.idx i.idx < 32768))
  let bar := !recRx s i.wq
  i.stage == .ready && !isHalted s i.fn && phaseServes s i.fn && earlier.all (·.begun)
    && (!bar || ((!i.barrier || earlier.all (fun x => !x.live)) && earlier.all (fun x => !(x.live && x.barrier))
      && decide (((itemsOf s i.wq).filter (fun x => x.begun && x.live)).length < 16)))

/-- NOP_ENTRY: a NOP finishes when it is fetched; with barrier, when every earlier entry has finished (R283, R330). -/
def execNopEntry (wq : Fin 16384) (idx : Fin 65536) (s : State) : Host.Outcome State Fault Refusal :=
  match getItem s wq.val idx.val with
  | none => .next s
  | some i => .next (if i.etype = 0 && mayStart s i then endItem s i.wq i.idx (report s stOK 0) else s)

/-- RX_POST_ENTRY: the entry posts one receive buffer (R287, R288). -/
def execRxPostEntry (wq : Fin 16384) (idx : Fin 65536) (s : State) : Host.Outcome State Fault Refusal :=
  match getItem s wq.val idx.val with
  | none => .next s
  | some i => .next (if i.etype = 2 && mayStart s i then modItem s i.wq i.idx (fun x => { x with stage := .posted })
    else s)

/-- The virtual time of the host root (R510) is kept under this number. -/
abbrev hostRoot : Nat := 20480

/-- The parent of a send queue node (R510). -/
def queueParent (fn : Nat) : Nat := if fn < 2 then hostRoot else 16384 + (fn - 2)

/-- A queue node, and a tenant node, that gains a frame or chunk to be admitted (R521). -/
def joinAdmit (s : State) (i : WorkItem) : State :=
  let waits (p : WorkItem → Bool) : Bool := s.queues.items.any (fun x => x.stage == .admission && p x)
  let s1 := tagOnGain s i.wq (queueParent i.fn) (waits (fun x => x.wq == i.wq))
  if i.fn < 2 then s1 else tagOnGain s1 (16384 + (i.fn - 2)) hostRoot (waits (fun x => x.fn == i.fn))

/-- Descriptors of a TX entry or of a list just read are taken in (R286): data segments join, a chain is followed. -/
def takeDescs (s : State) (i : WorkItem) (ds : List SegDesc) : State :=
  let segs := i.segs ++ dataSegs ds
  let tot := leAt i.bytes 4 2
  match firstReason (segReasons ds) with
  | some r => malformed s ⟨i.fn, r, i.wq, false, i.idx⟩
  | none =>
    match chainOf ds with
    | none =>
      if segTotal segs ≠ tot then malformed s ⟨i.fn, 6, i.wq, false, i.idx⟩
      else modItem (joinAdmit s i) i.wq i.idx (fun x => { x with stage := .admission, segs := segs, buf := [] })
    | some (a, n) =>
      if 64 ≤ i.hops then malformed s ⟨i.fn, 8, i.wq, false, i.idx⟩
      else modItem s i.wq i.idx (fun x => { x with
        stage := .lists, segs := segs, hops := i.hops + 1, buf := [], needs := [⟨.list, a, 0, 16 * n, 0⟩] })

/-- Data reads of segments, at their offsets in the frame. -/
def segNeeds : List (Nat × Nat) → Nat → List Need
  | [], _ => []
  | (a, n) :: t, off => ⟨.data, a, off, n, 0⟩ :: segNeeds t (off + n)

/-- 64-byte blocks of `l` that hold a poisoned byte. -/
def poisonList (l : List (Byte × Bool)) : List Nat :=
  (List.range (cdiv l.length 64)).filter (fun k => ((l.drop (64 * k)).take 64).any (·.2))

/-- A TX entry whose data is whole becomes a frame and waits for the pipeline under account 1 (R396, R435, R460). -/
def handToPipe (s : State) (i : WorkItem) : State :=
  let tot := leAt i.bytes 4 2
  let l := bufBytes i.buf tot
  let f : Frame := {
    port := none, entry := some (i.wq, i.idx), fn := i.fn, data := l.map (·.1), fcs := [], flen := tot + 4, whole := true,
    bad := false, flags := 0, cls := 0, time := ptpNs s.time.ptp, cells := i.cells, poison := poisonList l,
    meta32 := w32 (leAt i.bytes 8 4), tsReq := nbit (leAt i.bytes 6 1) 0, refs := 1, charges := [], grow := [], late := [], ctBy := [], lenField := none, mismatch := false,
    discard := false, decrypted := false }
  let s0 := freeItemCells s i
  let r := newFrame s0 f
  let s1 := modItem r.1 i.wq i.idx (fun x => { x with stage := .piped, cells := 0, buf := [] })
  { s1 with pipe := { s1.pipe with q1 := s1.pipe.q1 ++ [.host r.2] } }

/-- TX_ENTRY: a TX entry starts, follows its segment lists, and is handed to the pipeline once its data is whole
(R284 to R286). Admission is the scheduler's (R522). -/
def execTxEntry (wq : Fin 16384) (idx : Fin 65536) (s : State) : Host.Outcome State Fault Refusal :=
  match getItem s wq.val idx.val with
  | none => .next s
  | some i =>
    if i.etype ≠ 1 || isHalted s i.fn then .next s
    else match i.stage with
    | .ready => .next (if mayStart s i then takeDescs s i (txDescs i.bytes).1 else s)
    | .lists =>
      if readsDone s i && !i.buf.isEmpty then
        let n := i.buf.length / 16
        let b := (bufBytes i.buf (16 * n)).map (·.1)
        .next (takeDescs s i ((List.range n).map (fun k => segAt b (16 * k))))
      else .next s
    | .data => .next (if readsDone s i && i.buf.length == leAt i.bytes 4 2 then handToPipe s i else s)
    | _ => .next s

/-! ### FILL and COPY (R323 to R329) -/

/-- A FILL or COPY in hand. -/
structure Move where
  src : Nat
  dst : Nat
  len : Nat
  srcDram : Bool
  dstDram : Bool
  copy : Bool
deriving DecidableEq, Repr

/-- The move a FILL or COPY entry asks for (R289, R290). -/
def moveOf (b : List Byte) : Move :=
  if leAt b 0 1 = 4 then
    ⟨leAt b 8 8, leAt b 16 8, leAt b 24 8, nbit (leAt b 4 1) 0, nbit (leAt b 4 1) 1, true⟩
  else ⟨0, leAt b 8 8, leAt b 16 8, false, nbit (leAt b 4 1) 0, false⟩

/-- Do source and destination overlap (R325)? -/
def Move.overlaps (m : Move) : Bool :=
  m.copy && m.srcDram == m.dstDram && decide (m.src < m.dst + m.len ∧ m.dst < m.src + m.len)

/-- Is it copied in descending order (R326)? -/
def Move.down (m : Move) : Bool := m.overlaps && decide (m.src < m.dst)

/-- D of R327. -/
def Move.gap (m : Move) : Nat := if m.src < m.dst then m.dst - m.src else m.src - m.dst

/-- Byte at address a of a fill pattern (R323). -/
def patternByte (b : List Byte) (a : Nat) : Byte := b.getD (24 + a % 8) 0

/-- The next piece of a move: its offset in the range and its length. A DRAM destination takes one block, a host one the
request of R317; an overlapping COPY stops at D bytes a tick (R327). -/
def nextPiece (s : State) (i : WorkItem) (m : Move) : Nat × Nat :=
  let left := m.len - i.done
  let unit := if m.dstDram then 64 else mps s i.fn
  let lim := if m.overlaps then
      m.gap - (if i.lastAdvance = s.tck.boundaries then i.advanced else 0) else left
  if m.down then
    let e := m.dst + left
    let start := Nat.max m.dst ((e - 1) / unit * unit)
    let n := Nat.min (e - start) lim
    (left - n, n)
  else
    let d := m.dst + i.done
    (i.done, Nat.min (Nat.min left (unit - d % unit)) lim)

/-- Bytes of a move's piece that are in the item's data. -/
def pieceReady (i : WorkItem) (off n : Nat) : Bool :=
  (List.range n).all (fun k => (tget (fun _ => none) i.buf (off + k)).isSome)

/-- Do DRAM channels have account 3 bursts for `b` bursts each? -/
def dramMay (s : State) (a len b : Nat) : Bool :=
  (List.range (blocksOf a len)).all (fun k => match dramWhere s (a / 64 * 64 + 64 * k) with
    | none => true
    | some (c, _) => memMay s c 3 b)

/-- The channels a range of DRAM takes bursts of, one for each block. -/
def burstChans (s : State) (a len : Nat) : List Nat :=
  (List.range (blocksOf a len)).filterMap (fun k => (dramWhere s (a / 64 * 64 + 64 * k)).map (·.1))

/-- The bursts of a DRAM destination: a whole block is written, a part of one read and written (R634). -/
def writeChans (s : State) (a len : Nat) : List Nat :=
  if len < 64 then burstChans s a len ++ burstChans s a len else burstChans s a len

/-- Do the DRAM channels have account 3 bursts for all of these? -/
def burstsMay (s : State) (l : List Nat) : Bool := l.all (fun c => memMay s c 3 (l.count c))

/-- Progress of a move by n bytes; the last one ends the entry. -/
def moveDone (s : State) (i : WorkItem) (m : Move) (n : Nat) : State :=
  let s1 := modItem s i.wq i.idx (fun x => { x with
    done := x.done + n, lastAdvance := s.tck.boundaries
    advanced := (if x.lastAdvance = s.tck.boundaries then x.advanced else 0) + n })
  if m.len ≤ i.done + n then endItem s1 i.wq i.idx (report s1 stOK m.len) else s1

/-- One piece is written to the destination (R317, R318, R322). -/
def writePiece (s : State) (i : WorkItem) (m : Move) (off : Nat) (l : List (Byte × Bool)) : State :=
  let a := m.dst + off
  let s1 := chargeBeats s 2 (blocksOf a l.length)
  let s2 := bumpBy s1 (pgDma + Reg.DMA_POISON_CNT) (poisonedBlocks a l)
  if m.dstDram then
    let s3 := if l.length < 64 then bump s2 (pgDma + Reg.DMA_RMW_CNT) else s2
    dramWrite 3 2 s3 a (l.map (fun x => (some x.1, x.2)))
  else hostWrite s2 i.fn a l

/-- Host pieces end where poison begins or ends (R317), from the low end, or from the high end of a descending COPY. -/
def trimPiece (m : Move) (off : Nat) (l : List (Byte × Bool)) : Nat × List (Byte × Bool) :=
  let a := m.dst + off
  if m.dstDram then (off, l)
  else if m.down then
    let e := a + l.length
    let b0 := (e - 1) / 64
    let p := blockPoison a l b0
    let start := if p then b0 * 64 else
      match (List.range (b0 - a / 64 + 1)).find? (fun k => blockPoison a l (b0 - k)) with
      | none => a
      | some k => (b0 - k + 1) * 64
    let drop := Nat.max start a - a
    (off + drop, l.drop drop)
  else (off, l.take (writeLen 4096 a l 4096))

/-- A move starts (R325, R326, R646): DENIED outside configured DRAM, done at once where source and destination are
the same. -/
def startMove (s : State) (i : WorkItem) (m : Move) : State :=
  if (m.dstDram && !dramRange s m.dst m.len) || (m.copy && m.srcDram && !dramRange s m.src m.len) then
    endItem s i.wq i.idx (report s stDENIED 0)
  else
    let s1 := if m.overlaps then bump s (pgDma + Reg.DMA_OVERLAP_CNT) else s
    if m.overlaps && m.gap == 0 then endItem s1 i.wq i.idx (report s1 stOK m.len)
    else modItem s1 i.wq i.idx (fun x => { x with stage := .run })

/-- May the engine write for the function now? -/
def moveMay (s : State) (i : WorkItem) (m : Move) : Bool :=
  gkOpen s && !isHalted s i.fn && phaseServes s i.fn && (m.dstDram || mayRequest s i.fn)

/-- FILL_ENTRY: a FILL starts, or its next piece is written (R323, R324). -/
def execFillEntry (wq : Fin 16384) (idx : Fin 65536) (s : State) : Host.Outcome State Fault Refusal :=
  match getItem s wq.val idx.val with
  | none => .next s
  | some i =>
    let m := moveOf i.bytes
    if i.etype ≠ 3 || !moveMay s i m then .next s
    else match i.stage with
    | .ready => .next (if mayStart s i then startMove s i m else s)
    | .run =>
      let p := nextPiece s i m
      let n := Nat.min p.2 (64 * beatsLeft s 2 - (m.dst + p.1) % 64)
      if beatsLeft s 2 = 0 || (m.dstDram && !burstsMay s (writeChans s (m.dst + p.1) n)) then .next s
      else
        let l := (List.range n).map (fun k => (patternByte i.bytes (m.dst + p.1 + k), false))
        .next (moveDone (writePiece s i m p.1 l) i m n)
    | _ => .next s

/-- COPY_ENTRY: a COPY starts, asks for its next source bytes, or writes its next piece (R325 to R329). -/
def execCopyEntry (wq : Fin 16384) (idx : Fin 65536) (s : State) : Host.Outcome State Fault Refusal :=
  match getItem s wq.val idx.val with
  | none => .next s
  | some i =>
    let m := moveOf i.bytes
    if i.etype ≠ 4 || !moveMay s i m then .next s
    else match i.stage with
    | .ready => .next (if mayStart s i then startMove s i m else s)
    | .run =>
      let p := nextPiece s i m
      let beats := beatsLeft s 2
      let a := m.dst + p.1
      let need := blocksOf a p.2 + (if m.srcDram then blocksOf (m.src + p.1) p.2 else 0)
      if p.2 = 0 then .next s
      else if m.srcDram then
        if beats < need || 
            !burstsMay s (burstChans s (m.src + p.1) p.2 ++ (if m.dstDram then writeChans s a p.2 else [])) then .next s
        else
          let r := dramRead 3 (blocksOf (m.src + p.1) p.2) (chargeBeats s 2 (blocksOf (m.src + p.1) p.2)) (m.src + p.1) p.2
          let t := trimPiece m p.1 r.2
          .next (moveDone (writePiece r.1 i m t.1 t.2) i m t.2.length)
      else if pieceReady i p.1 p.2 then
        if beats < need || (m.dstDram && !burstsMay s (writeChans s a p.2)) then .next s
        else
          let t := trimPiece m p.1 ((List.range p.2).map (fun k =>
            (tget (fun _ => none) i.buf (p.1 + k)).getD (0, false)))
          let s1 := modItem s i.wq i.idx (fun x => { x with
            buf := tdrop (fun k => decide (t.1 ≤ k ∧ k < t.1 + t.2.length)) x.buf })
          .next (moveDone (writePiece s1 i m t.1 t.2) i m t.2.length)
      else if readsDone s i then
        let w : Nat × Nat := if m.down then p else (i.done, m.len - i.done)
        .next (modItem s i.wq i.idx (fun x => { x with needs := [⟨.data, m.src + w.1, w.1, w.2, 0⟩] }))
      else .next s
    | _ => .next s

/-! ### Receive data (R294, R296, R317, R320) -/

/-- What an RX_POST entry reports (R296, R297). -/
def rxReport (s : State) (d : Desc) (f : Frame) (n : Nat) : Report :=
  { report s stOK n with
    meta32 := d.meta32, time := compactStamp (f.time * ptpPerNs), rxErr := f.flags, tsValid := true
    decrypted := f.decrypted, decap := d.decap }

/-- DMA_WRITE_ISSUE: the next write request of a frame being delivered is issued (R317); the last one ends the RX_POST
entry, and the TX entry of a frame that came from a host queue (R294). -/
def execDmaWriteIssue (wq : Fin 16384) (idx : Fin 65536) (s : State) : Host.Outcome State Fault Refusal :=
  match getItem s wq.val idx.val with
  | none => .next s
  | some i => match i.stage, i.rxd with
    | .deliver, some d =>
      let beats := beatsLeft s 1
      if beats = 0 || !mayRequest s i.fn || isHalted s i.fn then .next s
      else
        let n := writeLen (mps s i.fn) i.outAt i.out beats
        let piece := i.out.take n
        let s1 := chargeBeats s 1 (blocksOf i.outAt n)
        let s2 := bumpBy s1 (pgDma + Reg.DMA_POISON_CNT) (poisonedBlocks i.outAt piece)
        let s3 := modItem (hostWrite s2 i.fn i.outAt piece) i.wq i.idx (fun x => { x with
          out := x.out.drop n, outAt := x.outAt + n, done := x.done + n })
        if n < i.out.length then .next s3
        else match getFrame s3 d.view.frame with
        | none => .next s3
        | some f =>
          let s4 := endItem s3 i.wq i.idx (rxReport s3 d f (i.done + n))
          let s5 := match (if d.orig then f.entry else none) with
            | none => s4
            | some e => endItem s4 e.1 e.2 (report s4 stOK f.data.length)
          .next (dropRef s5 d.view.frame)
    | _, _ => .next s

/-! ### Restarting work (R263, R264, R295, R336) -/

/-- An entry is executed again from its start: what it read is dropped, its cells are freed, its admission stays
recorded.
DEDUCED (log entry 48, unsafe). -/
def restartItem (s : State) (i : WorkItem) : State :=
  let size := recWqSize s i.wq
  let s1 := freeItemCells s i
  modItem s1 i.wq i.idx (fun x => { x with
    stage := .fetch, bytes := [], needs := [⟨.entry, recWqBase s i.wq + 64 * (i.idx % size), 0, 64, 0⟩]
    retries := [], buf := [], segs := [], hops := 0, cells := 0, done := 0, out := [], rxd := none })

/-- A frame whose data writes are cut short is dropped and its buffer stays posted (R264). -/
def cutShort (s : State) (i : WorkItem) : State :=
  match i.rxd with
  | none => s
  | some d =>
    let s1 := modItem s i.wq i.idx (fun x => { x with stage := .posted, out := [], done := 0, rxd := none })
    let s2 := match (if d.orig then (getFrame s1 d.view.frame).bind (·.entry) else none) with
      | none => s1
      | some e => endItem s1 e.1 e.2 (report s1 stOK 0)
    bump (dropRef s2 d.view.frame) (pgHif 0 + Reg.HIF_BME_DROP_CNT)

/-- Bus Master Enable of a function is cleared (R263, R264): its tags become stale and the work behind them will be
fetched again.
DEDUCED (log entry 48, unsafe). -/
def bmeCleared (s : State) (f : Nat) : State :=
  let hit := s.queues.items.filter (fun i => i.fn == f && s.pcie.tags.any (fun t =>
    t.fn == f && t.wq == i.wq && t.idx == i.idx && !t.stale && t.held.isNone))
  let cut := s.queues.items.filter (fun i => i.fn == f && i.stage == .deliver)
  let s1 := staleTagsFn s (fun x => x == f)
  cut.foldl cutShort (hit.foldl restartItem s1)

/-- How the new active slice carries an entry on at a switch-over (R295, R336): reads whose tags became stale are made
again; a TX entry not wholly read starts again; a frame being delivered is delivered again; FILL, COPY and CARLIS_PUT
resume. -/
def switchItem (s : State) (i : WorkItem) : State :=
  let lost := s.pcie.tags.any (fun t => t.wq == i.wq && t.idx == i.idx && t.stale)
  match i.stage with
  | .deliver => match i.rxd with
    | none => s
    | some d =>
      let s1 := modItem s i.wq i.idx (fun x => { x with stage := .posted, out := [], done := 0, rxd := none })
      { s1 with sched := { s1.sched with rx := d :: s1.sched.rx } }
  | .run => if i.etype = 4 then modItem s i.wq i.idx (fun x => { x with needs := [], buf := [] }) else s
  | .data =>
    if !lost && i.needs.isEmpty then s
    else if i.etype = 5 then
      modItem (freeItemCells s i) i.wq i.idx (fun x => { x with stage := .admission, needs := [], buf := [], cells := 0 })
    else restartItem s i
  | .lists => restartItem s i
  | .admission => if i.etype = 5 then s else restartItem s i
  | .fetch => if lost then restartItem s i else s
  | .refetch _ _ => if lost then restartItem s i else s
  | _ => s

/-- Every entry in hand at a switch-over. -/
def dmaSwitch (s : State) : State := s.queues.items.foldl switchItem s

/-! ### Registers (R342, R343) -/

/-- DMA global page. -/
def viewDma (s : State) (off : Nat) : Option Word :=
  if off = Reg.PAGE_STAT then
    some (flagAt (s.queues.paced.any (·.2)) 0 ||| flagAt (s.queues.items.any (fun i => !i.retries.isEmpty)) 1)
  else if off = Reg.DMA_PACE_LEVEL then
    let f := fld (rd s (pgDma + Reg.DMA_PACE_SEL)) 10 0
    some (w32 (paceLevel s f + 2 ^ 31 * (isPaced s f).toNat))
  else none

/-- DMA page of a slice. -/
def viewSlDma (s : State) (sl : SliceId) (off : Nat) : Option Word :=
  if off = Reg.DMA_TAGS then some (w32 (s.pcie.tags.filter (fun t => t.slice = sl)).length)
  else if off = Reg.PAGE_STAT then
    some (flagAt (s.worker = sl && s.cred.started.any (fun e => e.1 / 256 == 3 && decide (0 < e.2))) 0)
  else none

end Sys2Proof.Machine
end

