-- ==== Sys2Proof/Machine/Pipeline.lean ====
section
/-! DEFINITION. The packet pipeline's parser, key builder and action engine (chapter 12, R437 to R457). What is done
with their outcome stands in HeaderProc.lean. -/
namespace Sys2Proof.Machine

/-! ### Window entries (R467, R468) -/

/-- `n` bytes of a window entry as the slices see it in this tick (R469). -/
def winBytes (s : State) (base n : Nat) : List Byte :=
  (List.range (n / 4)).flatMap (fun k => wordBytes (rdEff s (base + 4 * k)))

/-- The word number of a window address: parse-graph window first, then action-record window. -/
def winWord (a : Nat) : Nat := if a < winAction then (a - winParse) / 4 else 0x20000 + (a - winAction) / 4

/-- Is an entry poisoned in a slice's copy (R462, R636)?.
DEDUCED (log entry 64, unsafe). -/
def winPoisoned (s : State) (sl : SliceId) (base n : Nat) : Bool :=
  s.pipe.winBad.any (fun x => x.1 == sl.num && decide (winWord base ≤ x.2 ∧ x.2 ≤ winWord (base + n - 1)))

/-! ### The parser (R437 to R442) -/

/-- Exceptions (R453) by their number e. -/
abbrev excDepth : Nat := 0
abbrev excTrunc : Nat := 1
abbrev excReject : Nat := 2
abbrev excBadOp : Nat := 3
abbrev excLayer : Nat := 4
abbrev excEdit : Nat := 5
abbrev excNoDest : Nat := 6
abbrev excQueue : Nat := 7
abbrev excPoison : Nat := 8
abbrev excRecirc : Nat := 9

/-- What the parser has gathered. -/
structure Parse where
  fv : List Byte             -- field vector, 128 bytes
  layers : List (Option Nat) -- L0 to L7
  profile : Nat
  flen : Option Nat          -- F from a length field
  state : Nat
  exc : Option Nat
deriving DecidableEq, Repr

/-- An extraction: `n` bytes from `src` to field-vector byte `dst`, cut at byte 127. -/
def copyFv (fv src : List Byte) (dst : Nat) : List Byte :=
  (List.range 128).map (fun i =>
    if dst ≤ i ∧ i < dst + src.length then src.getD (i - dst) 0 else fv.getD i 0)

/-- The window bytes [o, o + n), none at or beyond AVAIL (R440). -/
def windowAt (w : List Byte) (avail o n : Nat) : Option (List Byte) :=
  if o + n ≤ avail then some (sliceB w o n) else none

/-- The four extractions of a state, in order; none where one reads beyond AVAIL. -/
def extractAll (w : List Byte) (avail cur : Nat) : List (List Byte) → List Byte → Option (List Byte)
  | [], fv => some fv
  | e :: t, fv =>
    let n := leAt e 1 1
    if n = 0 then extractAll w avail cur t fv
    else match windowAt w avail (cur + leAt e 0 1) n with
    | none => none
    | some b => extractAll w avail cur t (copyFv fv b (leAt e 2 1))

/-- Reserved fields of a state (R438). -/
def stateReserved (b : List Byte) : Bool :=
  decide (4 ≤ leAt b 0 1) || decide (16 ≤ leAt b 1 1) || decide (8 ≤ leAt b 5 1) || nbit (leAt b 9 1) 7
    || (List.range 4).any (fun x => decide (16 < leAt b (13 + 4 * x) 1) || leAt b (15 + 4 * x) 1 != 0
      || (leAt b (13 + 4 * x) 1 != 0 && (decide (leAt b (14 + 4 * x) 1 < 16 ∨ 127 < leAt b (14 + 4 * x) 1))))
    || !zeroBytes b 28 64

/-- A next step: state, end, reject. -/
structure NextStep where
  state : Nat
  fin : Bool
  reject : Bool
deriving DecidableEq, Repr

/-- The step a byte of next, end and reject encodes. -/
def nextOf (x : Nat) : NextStep := ⟨x % 64, nbit x 6, nbit x 7⟩

/-- The transitions of a state as byte strings of 8. -/
def transitionsOf (s : State) (st : Nat) : List (List Byte) :=
  (List.range 16).map (fun i => winBytes s (winParse + 0x1000 + 128 * st + 8 * i) 8)

/-- The first matching valid transition; `none` inside: a transition read on the way has a reserved field. -/
def matchTransition (sel : Nat) : List (List Byte) → NextStep → Option NextStep
  | [], d => some d
  | b :: t, d =>
    if !nbit (leAt b 5 1) 0 then matchTransition sel t d
    else if 2 ≤ leAt b 5 1 ∨ leAt b 6 2 ≠ 0 then none
    else if sel &&& leAt b 2 2 = leAt b 0 2 then some (nextOf (leAt b 4 1))
    else matchTransition sel t d

/-- The walk of R440: `fuel` states are left. -/
def walk (s : State) (sl : SliceId) (w : List Byte) (avail : Nat) (known : Bool) : Nat → Nat → Nat → Parse → Parse
  | 0, _, st, p => { p with exc := some excDepth, state := st }
  | fuel + 1, cur, st, p0 =>
    let p := { p0 with state := st }
    let base := winParse + 64 * st
    let b := winBytes s base 64
    let fail (e : Nat) : Parse := { p with exc := some e }
    if winPoisoned s sl base 64 then fail excPoison
    else if !nbit (leAt b 0 1) 0 then fail excReject
    else if stateReserved b then fail excBadOp
    else
      let mask := leAt b 4 1
      match (if mask = 0 then some 0 else
          (windowAt w avail (cur + leAt b 3 1) 1).map (fun x => (leNat x &&& mask) <<< (leAt b 5 1 % 8))) with
      | none => fail excTrunc
      | some var =>
        let len := leAt b 2 1 + var
        let layers := if nbit (leAt b 1 1) 3 then p.layers.set (leAt b 1 1 % 8) (some cur) else p.layers
        match extractAll w avail cur ((List.range 4).map (fun x => sliceB b (12 + 4 * x) 4)) p.fv with
        | none => { p with layers := layers, exc := some excTrunc }
        | some fv =>
          let p1 := { p with layers := layers, fv := fv }
          let wantLen := nbit (leAt b 0 1) 1 && !known && p1.flen.isNone
          match (if wantLen then (windowAt w avail (cur + leAt b 10 1) 2).map (fun x => some (cur + beNat x + leAt b 11 1 + 4))
              else some p1.flen) with
          | none => { p1 with exc := some excTrunc }
          | some fl =>
            let p2 := { p1 with flen := fl, profile := if nbit (leAt b 9 1) 6 then leAt b 9 1 % 64 else p1.profile }
            let trs := transitionsOf s st
            let dflt := nextOf (leAt b 8 1)
            if winPoisoned s sl (winParse + 0x1000 + 128 * st) 128 then { p2 with exc := some excPoison }
            else
              let step? : Option (Option NextStep) :=
                if trs.any (fun t => nbit (leAt t 5 1) 0) then
                  match windowAt w avail (cur + leAt b 6 1) 1, windowAt w avail (cur + leAt b 7 1) 1 with
                  | some x, some y => some (matchTransition (256 * leNat x + leNat y) trs dflt)
                  | _, _ => none
                else some (some dflt)
              match step? with
              | none => { p2 with exc := some excTrunc }
              | some none => { p2 with exc := some excBadOp }
              | some (some nx) =>
                if avail < cur + len then { p2 with exc := some excTrunc }
                else if nx.reject then { p2 with exc := some excReject }
                else if nx.fin then p2
                else walk s sl w avail known fuel (cur + len) nx.state p2

/-! ### Keys (R443 to R446) -/

/-- Bytes of the field vector, zeros beyond byte 127. -/
def fvAt (fv : List Byte) (off n : Nat) : List Byte := sliceB (fv.take 128) off n

/-- The bytes of four segments, concatenated (R444). -/
def segBytes (fv b : List Byte) (base : Nat) : List Byte :=
  (List.range 4).flatMap (fun k => fvAt fv (leAt b (base + 2 * k) 1) (leAt b (base + 2 * k + 1) 1))

/-- An EMT key (R444). -/
def emtKey (fv b : List Byte) (ty base : Nat) : List Byte := sliceB (leBytes 1 ty ++ (segBytes fv b base).take 31) 0 32

/-- The flow hash (R446). -/
def flowHash (fv b : List Byte) : Nat :=
  let l := segBytes fv b 20
  if l.isEmpty then 0 else crc32c l

/-- Reserved fields of a profile (R443). -/
def profileReserved (b : List Byte) : Bool :=
  decide (16 ≤ leAt b 0 1) || leAt b 3 1 != 0 || leAt b 29 1 != 0 || leAt b 33 1 != 0 || decide (4096 ≤ leAt b 34 2)
    || !zeroBytes b 36 64 || (List.range 12).any (fun k => decide (31 < leAt b (5 + 2 * k) 1))

/-- VRF and address of the LPM key (R445). -/
def lpmKey (fv b : List Byte) : Nat × Bool × Nat :=
  let v6 := nbit (leAt b 0 1) 3
  let off := leAt b 28 1
  let vrf := if off = 255 then leAt b 30 2 else beNat (fvAt fv off 2)
  let a := leAt b 32 1
  (vrf, v6, if v6 then beNat (fvAt fv a 16) else beNat (fvAt fv a 4) * 2 ^ 96)

/-! ### The action engine (R449 to R456) -/

/-- How an action record ended. -/
inductive Stop where
  | fin | exc (e : Nat) | drop (r : Nat) | police (k : Nat) | trap (r : Nat) | carlis
  | decrypt (sa : SaRef) (st : Nat) | recirc (st : Nat)
deriving DecidableEq, Repr

/-- A destination (R450). -/
inductive Dest where
  | port (p : Nat) | queue (n : Nat) | flood (ports : List Nat)
deriving DecidableEq, Repr

/-- The engine's state while a record runs: `region` is the edit region, which begins the frame (R452). -/
structure Act where
  region : List Byte
  layers : List (Option Nat)
  inserted : Nat
  dest : Option Dest
  cls : Nat
  meta32 : Word
  fixes : List Fix
  ts : Option (Nat × Nat × Nat × Option (Nat × Nat))  -- operation, layer, offset, checksum layer and offset
  enc : Option SaRef
  decap : Bool
  lenTpl : Bool              -- a template with ip_len, udp_len or tun_len was used
  csumTpl : Bool             -- a template with udp_csum_full was used
  polices : List Nat         -- policers passed
  mirrors : List Nat
  stop : Option Stop
deriving DecidableEq, Repr

/-- What the engine reads besides the frame. -/
structure ActEnv where
  s : State
  sl : SliceId
  arg : Nat
  hash : Nat
  ingress : Option Nat       -- ingress port of a received frame
  pass : Nat
  charge : Nat               -- what a policer charges (R536, R537)

/-- Stop with an exception. -/
def Act.fail (a : Act) (e : Nat) : Act := { a with stop := some (.exc e) }

/-- Insert bytes at x (R451, R452). -/
def Act.insert (a : Act) (x : Nat) (b : List Byte) : Act :=
  if a.region.length < x ∨ 192 < a.inserted + b.length then a.fail excEdit
  else { a with
    region := a.region.take x ++ b ++ a.region.drop x
    layers := a.layers.map (fun l => l.map (fun p => if x ≤ p then p + b.length else p))
    fixes := a.fixes.map (fun f => if x ≤ f.p then { f with p := f.p + b.length } else f)
    inserted := a.inserted + b.length }

/-- Remove the bytes x to y − 1 (R451, R452). -/
def Act.remove (a : Act) (x y : Nat) : Act :=
  if a.region.length < y then a.fail excEdit
  else { a with
    region := a.region.take x ++ a.region.drop y
    layers := a.layers.map (fun l => l.bind (fun p =>
      if x ≤ p ∧ p < y then none else some (if y ≤ p then p - (y - x) else p)))
    fixes := (a.fixes.filter (fun f => !decide (x ≤ f.p ∧ f.p < y))).map
      (fun f => if y ≤ f.p then { f with p := f.p - (y - x) } else f) }

/-- Overwrite bytes at x. -/
def Act.write (a : Act) (x : Nat) (b : List Byte) : Act :=
  if a.region.length < x + b.length then a.fail excEdit
  else { a with region := a.region.take x ++ b ++ a.region.drop (x + b.length) }

/-- With the position of a layer. -/
def Act.layer (a : Act) (k : Nat) (g : Nat → Act) : Act :=
  match a.layers.getD k none with
  | none => a.fail excLayer
  | some p => g p

/-- Ones' complement sum of 16-bit words. -/
def onesAdd (x y : Nat) : Nat := (x + y) % 65536 + (x + y) / 65536

/-- Ones' complement sum of a byte string taken as 16-bit words, most significant byte first. -/
def onesSum : List Byte → Nat → Nat
  | a :: b :: t, acc => onesSum t (onesAdd acc (a.toNat * 256 + b.toNat))
  | [a], acc => onesAdd acc (a.toNat * 256)
  | [], acc => acc

/-- A checksum after a change of the bytes it covers, as RFC 1624 lays down: `old` and `new` start at an even offset. -/
def csumUpdate (hc : Nat) (old new : List Byte) : Nat :=
  65535 - onesAdd (onesAdd (65535 - hc) (65535 - onesSum old 0)) (onesSum new 0)

/-- Overwrite bytes at x and update the IPv4 header checksum of the header at `hdr` (RFC 1624). -/
def Act.writeCsum (a : Act) (hdr x : Nat) (b : List Byte) : Act :=
  if a.region.length < x + b.length ∨ a.region.length < hdr + 12 ∨ x < hdr then a.fail excEdit
  else
    let lo := hdr + (x - hdr) / 2 * 2
    let hi := hdr + cdiv (x + b.length - hdr) 2 * 2
    let a1 := a.write x b
    let hc := beAt a.region (hdr + 10) 2
    a1.write (hdr + 10) (beBytes 2 (csumUpdate hc (sliceB a.region lo (hi - lo)) (sliceB a1.region lo (hi - lo))))

/-- Bits of an op that its row of R449 names, as masks of bytes 1 to 7. -/
def opNamed (c : Nat) : Option (List Nat) :=
  [[0, 0, 0, 0, 0, 0, 0], [0x87, 0, 0, 0, 0, 0, 0], [0x87, 0xFF, 0x3F, 0, 0, 0, 0], [0x7F, 0xFF, 0x1F, 0, 0, 0, 0],
   [0x0F, 0, 0, 0, 0, 0, 0], [0xFF, 0, 0, 0, 0, 0, 0], [0, 0, 0, 0, 0, 0, 0], [0x07, 0, 0, 0, 0, 0, 0],
   [0x80, 0, 0, 0xFF, 0xFF, 0xFF, 0xFF], [0x7F, 0, 0, 0, 0, 0, 0], [0x07, 0xFF, 0x03, 0, 0, 0, 0],
   [0x80, 0xFF, 0xFF, 0xFF, 0xFF, 0, 0], [0, 0, 0, 0, 0, 0, 0], [0xBF, 0xFF, 0, 0xFF, 0xFF, 0xFF, 0xFF],
   [0x07, 0xFF, 0x03, 0xFF, 0xFF, 0xFF, 0], [0x07, 0xFF, 0, 0, 0, 0, 0], [0, 0xFF, 0x0F, 0, 0, 0, 0],
   [0x0F, 0, 0, 0, 0, 0, 0], [0x1F, 0xFF, 0, 0x87, 0xFF, 0, 0], [0x07, 0xFF, 0x03, 0xFF, 0xFF, 0x3F, 0],
   [0x07, 0xFF, 0x03, 0xFF, 0xFF, 0, 0], [0x3F, 0, 0, 0, 0, 0, 0]][c]?

/-- Does an op hold a reserved code or bit (R26, R449)? -/
def opReserved (op : List Byte) : Bool :=
  match opNamed (leAt op 0 1) with
  | none => true
  | some m => (List.range 7).any (fun k => decide (leAt op (k + 1) 1 &&& (255 - m.getD k 0) ≠ 0))

/-- The template at index k, and whether it holds a reserved field (R454). -/
def template (s : State) (k : Nat) : List Byte := winBytes s (winAction + 0x40000 + 256 * k) 256
def templateReserved (b : List Byte) : Bool := decide (4 ≤ leAt b 7 1) || !zeroBytes b 8 16 || !zeroBytes b 176 256

/-- A policer's word k and the bytes it holds now (R535). -/
def polWord (s : State) (k w : Nat) : Word := rdEff s (winPolicer + 32 * k + 4 * w)
def polValid (s : State) (k : Nat) : Bool := fbit (polWord s k 1) 24
/-- The node number under which a policer's tokens are kept. -/
abbrev polNode (k : Nat) : Nat := 32768 + k

/-- Does policer k pass a frame now (R536)? -/
def policePass (e : ActEnv) (a : Act) (k : Nat) : Bool :=
  decide ((e.charge : Int) ≤ (getNode e.s (polNode k)).tokens
    - ((a.polices.filter (fun x => x == k)).length : Int) * (e.charge : Int))

/-- POLICE, and the policer of a FLOOD. -/
def Act.police (a : Act) (e : ActEnv) (k : Nat) : Act :=
  if 4095 < k ∨ !polValid e.s k then a.fail excBadOp
  else if policePass e a k then { a with polices := k :: a.polices }
  else { a with stop := some (.police k) }

/-- The mirror session words of session m (R467). -/
def mirrorBytes (s : State) (m : Nat) : List Byte := winBytes s (winParse + 0x5100 + 16 * m) 16

/-- Reserved bits or truncation of a mirror session (R467). -/
def mirrorReserved (b : List Byte) : Bool :=
  decide (4 ≤ leAt b 0 1) || decide (leAt b 1 1 &&& 0x88 ≠ 0) || decide (16384 ≤ leAt b 2 2)
    || decide (leAt b 4 2 ≠ 0 ∧ (leAt b 4 2 < 64 ∨ 256 < leAt b 4 2)) || !zeroBytes b 8 16
    || (!nbit (leAt b 0 1) 1 && leAt b 1 1 % 8 == 7)

/-- The association a DECRYPT or ENCRYPT names, none for a reserved protocol (R449). -/
def opSa (e : ActEnv) (op : List Byte) : Option SaRef :=
  let b1 := leAt op 1 1
  if 2 ≤ b1 / 2 % 4 then none
  else if nbit b1 0 then some ⟨nfld e.arg 25 16, nfld e.arg 15 0, nbit b1 1⟩
  else some ⟨leAt op 2 2 % 1024, leAt op 4 2, nbit b1 1⟩

/-- One op (R449). -/
def Act.op (e : ActEnv) (a : Act) (op : List Byte) : Act :=
  let b1 := leAt op 1 1
  let arg := e.arg
  if opReserved op then a.fail excBadOp
  else match leAt op 0 1 with
  | 0x00 => { a with stop := some .fin }
  | 0x01 =>
    let p := if nbit b1 7 then arg % 8 else b1 % 8
    if p = 7 then a.fail excBadOp else { a with dest := some (.port p) }
  | 0x02 =>
    let k := b1 % 8
    let n := (if nbit b1 7 then arg % 16384 else leAt op 2 2 % 16384) + e.hash % 2 ^ k
    if k = 7 then a.fail excBadOp
    else if validRx e.s n then { a with dest := some (.queue n) } else a.fail excQueue
  | 0x03 =>
    let ps := (List.range 7).filter (fun p => nbit b1 p && e.ingress != some p)
    if ps.isEmpty then a.fail excNoDest
    else
      let a1 := { a with dest := some (.flood ps) }
      if leAt op 2 2 = 0 then a1 else a1.police e (leAt op 2 2 - 1)
  | 0x04 => { a with stop := some (.drop b1) }
  | 0x05 => { a with stop := some (.trap b1) }
  | 0x06 => { a with stop := some .carlis }
  | 0x07 => { a with cls := b1 % 8 }
  | 0x08 => { a with meta32 := if nbit b1 7 then w32 arg else w32 (leAt op 4 4) }
  | 0x09 => a.layer (b1 % 8) (fun x => a.layer (b1 / 8 % 8) (fun y =>
      if y ≤ x then a.fail excLayer
      else
        let a1 := { a.remove x y with decap := true }
        if a1.stop.isSome || !nbit b1 6 then a1
        else if x < 2 then a.fail excLayer
        else if a1.region.length ≤ x then a.fail excEdit
        else
          let v := leAt a1.region x 1 / 16
          if v = 4 then a1.write (x - 2) [0x08, 0x00] else if v = 6 then a1.write (x - 2) [0x86, 0xDD]
          else a.fail excLayer))
  | 0x0A => a.layer (b1 % 8) (fun x =>
      let k := leAt op 2 2
      let t := template e.s k
      let n := leAt t 0 1
      let f := leAt t 3 1
      if winPoisoned e.s e.sl (winAction + 0x40000 + 256 * k) 256 then a.fail excPoison
      else if templateReserved t ∨ n = 0 ∨ 160 < n then a.fail excBadOp
      else
        let a1 := a.insert x (sliceB t 16 n)
        if a1.stop.isSome then a1
        else
          let a2 := { a1 with
            fixes := a1.fixes ++ [⟨x, leAt t 1 1, leAt t 2 1, f, leAt t 4 1, leAt t 5 1, e.hash⟩]
            lenTpl := a1.lenTpl || nbit f 1 || nbit f 3 || nbit f 6
            csumTpl := a1.csumTpl || nbit f 5 }
          if nbit f 7 then
            let w := leAt t 7 1 % 4 + 1
            a2.write (x + leAt t 6 1) (beBytes w (arg % 256 ^ w))
          else a2)
  | 0x0B => a.layer 0 (fun x =>
      a.insert (x + 12) (beBytes 2 (leAt op 2 2) ++ beBytes 2 (if nbit b1 7 then arg % 65536 else leAt op 4 2)))
  | 0x0C => a.layer 0 (fun x =>
      if a.region.length < x + 14 then a.fail excEdit
      else
        let t := beAt a.region (x + 12) 2
        if t = 0x8100 ∨ t = 0x88A8 then a.remove (x + 12) (x + 16) else a)
  | 0x0D => a.layer (b1 % 8) (fun x =>
      let w := b1 / 8 % 4 + 1
      let v := beBytes w ((if nbit b1 7 then arg else leAt op 4 4) % 256 ^ w)
      if nbit b1 5 then a.writeCsum x (x + leAt op 2 1) v else a.write (x + leAt op 2 1) v)
  | 0x0E => a.layer (b1 % 8) (fun x =>
      let k := leAt op 2 2
      let t := template e.s k
      let n := leAt op 6 1
      if winPoisoned e.s e.sl (winAction + 0x40000 + 256 * k) 256 then a.fail excPoison
      else if templateReserved t ∨ n = 0 ∨ 64 < n ∨ 160 < leAt op 5 1 + n then a.fail excBadOp
      else a.write (x + leAt op 4 1) (sliceB t (16 + leAt op 5 1) n))
  | 0x0F => a.layer (b1 % 8) (fun x =>
      if a.region.length ≤ x then a.fail excEdit
      else
        let v := leAt a.region x 1 / 16
        let o := x + (if v = 4 then 8 else 7)
        if v ≠ 4 ∧ v ≠ 6 then a.fail excLayer
        else if a.region.length ≤ o then a.fail excEdit
        else
          let t := leAt a.region o 1
          if t ≤ 1 then { a with stop := some (.trap (leAt op 2 1)) }
          else if v = 4 then a.writeCsum x o (leBytes 1 (t - 1)) else a.write o (leBytes 1 (t - 1)))
  | 0x10 => a.police e (leAt op 2 2)
  | 0x11 =>
    if mirrorReserved (mirrorBytes e.s b1) then a.fail excBadOp else { a with mirrors := a.mirrors ++ [b1] }
  | 0x12 => a.layer (b1 / 4 % 8) (fun _ =>
      let c := leAt op 4 1
      let t : Act := { a with ts := some (b1 % 4, b1 / 4 % 8, leAt op 2 1,
        if nbit c 7 then some (c % 8, leAt op 5 1) else none) }
      if nbit c 7 then a.layer (c % 8) (fun _ => t) else t)
  | 0x13 => match opSa e op with
    | none => a.fail excBadOp
    | some sa => if 2 ≤ e.pass then a.fail excRecirc else { a with stop := some (.decrypt sa (leAt op 6 1)) }
  | 0x14 => match opSa e op with
    | none => a.fail excBadOp
    | some sa => { a with enc := some sa }
  | _ => if 2 ≤ e.pass then a.fail excRecirc else { a with stop := some (.recirc b1) }

/-- The ops of a record in order, to the first that stops. -/
def runOps (e : ActEnv) : List (List Byte) → Act → Act
  | [], a => a
  | o :: t, a =>
    let a1 := a.op e o
    if a1.stop.isSome then a1 else runOps e t a1

/-- An action record run on a frame (R449, R450): it ends with a destination or stops. -/
def runRecord (e : ActEnv) (r : Nat) (a : Act) : Act :=
  let base := winAction + 64 * r
  if winPoisoned e.s e.sl base 64 then a.fail excPoison
  else
    let b := winBytes e.s base 64
    let a1 := runOps e ((List.range 8).map (fun k => sliceB b (8 * k) 8)) a
    match a1.stop with
    | none => if a1.dest.isNone then a1.fail excNoDest else { a1 with stop := some .fin }
    | some .fin => if a1.dest.isNone then a1.fail excNoDest else a1
    | some _ => a1

/-- A timestamp operation with its layers resolved to positions after all edits (R461). -/
def resolveTs (a : Act) : TsOp :=
  match a.ts with
  | none => ⟨0, 0, none⟩
  | some (op, l, off, c) => match a.layers.getD l none with
    | none => ⟨0, 0, none⟩
    | some p => ⟨op, p + off, c.bind (fun x => (a.layers.getD x.1 none).map (fun q => q + x.2))⟩

/-! ### Fixups (R455) -/

/-- UDP checksum of the datagram at l4, with the IP header at l3 (R455): 0xFFFF in place of 0. -/
def udpChecksum (b : List Byte) (l3 l4 : Nat) (ip6 : Bool) : Nat :=
  let n := b.length - l4
  let addrs := if ip6 then sliceB b (l3 + 8) 32 else sliceB b (l3 + 12) 8
  let body := putB (b.drop l4) 6 [0, 0]
  let sum := 65535 - onesSum (addrs ++ beBytes 4 n ++ beBytes 4 17 ++ body) 0
  if sum = 0 then 65535 else sum

/-- Overwrite bytes of a frame, only where they lie within it. -/
def patch (b : List Byte) (x : Nat) (v : List Byte) : List Byte :=
  if b.length < x + v.length then b else b.take x ++ v ++ b.drop (x + v.length)

/-- One template's fixups but for the full UDP checksum (R455), on a frame of which `extra` bytes after the template's
start are still to come from its protection (R571). -/
def applyFix (b : List Byte) (f : Fix) (extra : Nat) : List Byte :=
  let e := b.length + extra
  let l3 := f.p + f.l3
  let l4 := f.p + f.l4
  let ip6 := nbit f.flags 0
  let b1 := if nbit f.flags 1 then
      (if ip6 then patch b (l3 + 4) (beBytes 2 (e - l3 - 40)) else patch b (l3 + 2) (beBytes 2 (e - l3))) else b
  let b2 := if nbit f.flags 2 then
      patch b1 (l3 + 10) (beBytes 2 (65535 - onesSum (putB (sliceB b1 l3 20) 10 [0, 0]) 0)) else b1
  let b3 := if nbit f.flags 3 then patch b2 (l4 + 4) (beBytes 2 (e - l4)) else b2
  let b4 := if nbit f.flags 4 then patch b3 l4 (beBytes 2 (0xC000 + f.hash % 0x4000)) else b3
  if nbit f.flags 6 then patch b4 (f.p + f.tunOff) (beBytes 2 (e - f.p - f.tunFrom)) else b4

/-- One template's full UDP checksum (R455). -/
def applyCsum (b : List Byte) (f : Fix) : List Byte :=
  if nbit f.flags 5 then patch b (f.p + f.l4 + 6) (beBytes 2 (udpChecksum b (f.p + f.l3) (f.p + f.l4) (nbit f.flags 0)))
  else b

end Sys2Proof.Machine
end

