-- ==== Sys2Proof/Machine/Clock.lean ====
section
/-! DEFINITION. PTP time, the phase lock, the timing pins and the commands of the TMS, TCK and PWR pages (chapters
02 and 03). -/
namespace Sys2Proof.Machine

/-! ### The tick boundary's time part (R94 to R99) -/

/-- PTP time passed in the tick that ends (R76): `drift` is how far the selected REF10M_IN runs from the core clock,
parts per 10^12 (R79). -/
def tickElapsed (s : State) (drift : Int) : Nat :=
  let adj := sgn32 (rdEff s (pgTms + Reg.TMS_FREQ_ADJ))
  s.tck.len * perCycle (if s.time.ref10InUse then adj + drift else adj)

/-- φ of a PTP time against a tick number, in 1/256 ns, truncated (R82, R94).
DEDUCED (log entry 16, unsafe). -/
def phaseOf (p tick t : Nat) : Int := ((p : Int) - tick * t * ptpPerNs) / 256000000000000

/-- The length R94 gives a tick from φ. -/
def lockedLen (n : Nat) (phi : Int) : Nat := if phi < -80 then n + 1 else if 80 < phi then n - 1 else n

/-- What a boundary's numbering gives: number, φ, length, and whether it realigned and for lost lock. -/
structure Numbering where
  tick : Nat
  phi : Int
  len : Nat
  realign : Bool
  lost : Bool
deriving DecidableEq, Repr

/-- Numbering and sizing of the tick that begins at PTP time p (R94, R96 to R98): `old` is the number of the tick that
ends, `force` a time change or a period commit, `limit` TCK_LOCK_LIMIT. -/
def numberTick (p old t limit : Nat) (force : Bool) : Numbering :=
  let n := t * 8 / 5
  let phi0 := phaseOf p (old + 1) t
  let lost := decide (160 * (limit : Int) < phi0.natAbs)
  if !force && !lost then ⟨(old + 1) % 2 ^ 64, phi0, lockedLen n phi0, false, false⟩
  else
    let m := p / (t * ptpPerNs)
    let phi := phaseOf p m t
    let lostOnly := !force && lost
    if phi ≤ 80 then ⟨m % 2 ^ 64, phi, lockedLen n phi, true, lostOnly⟩
    else if (256 * t : Int) - 80 ≤ phi then
      ⟨(m + 1) % 2 ^ 64, phi, lockedLen n (phi - 256 * t), true, lostOnly⟩
    else ⟨(m + 1) % 2 ^ 64, phi, n + cdiv (256 * t - phi.toNat) 160, true, lostOnly⟩

/-- PTP time of a SET_TIME's arguments (R88). -/
def setTimeValue (c : RunCmd) : Nat :=
  ((c.a1.toNat + 2 ^ 32 * fld c.a2 15 0) * 10 ^ 9 + c.a0.toNat) * ptpPerNs

/-- PTP time after a STEP, none where it would leave PTP time (R83). -/
def stepTimeValue (p : Nat) (c : RunCmd) : Option Nat :=
  let v : Int := (p : Int) + sgn32 c.a0 * ptpPerNs
  if v < 0 ∨ (2 ^ 48 * 10 ^ 9 * ptpPerNs : Int) ≤ v then none else some v.toNat

/-- Steps 1 to 3 of R103: PTP time runs on, a pending SET_TIME or STEP is applied and its command ends, and the new
tick is numbered and sized. -/
def advanceTime (s : State) (drift : Int) : State :=
  let p := s.time.ptp + tickElapsed s drift
  let cmd := runningOn s pgTms
  let newTime := match cmd with
    | some c => if c.code = 1 then some (setTimeValue c) else if c.code = 2 then stepTimeValue p c else none
    | none => none
  let p' := newTime.getD p
  let code := if s.tck.commitPend then fld (rd s (pgTck + Reg.TCK_PERIOD)) 3 0 else s.tck.period
  let limit := fld (rd s (pgTck + Reg.TCK_LOCK_LIMIT)) 7 0
  let nb := numberTick p' s.tck.tick (periodNs code) limit (newTime.isSome || s.tck.commitPend)
  let s1 := { s with
    time := { s.time with ptp := p', timeValid := s.time.timeValid || (newTime.isSome && (cmd.map (·.code)) == some 1) }
    tck := { s.tck with
      tick := nb.tick, len := nb.len, phi := nb.phi, period := code, commitPend := false,
      locked := decide (nb.phi.natAbs ≤ 160), boundaries := s.tck.boundaries + 1,
      cycles := s.tck.cycles + s.tck.len,
      lastOld := if nb.realign then s.tck.tick else s.tck.lastOld,
      lastNew := if nb.realign then nb.tick else s.tck.lastNew } }
  let n := periodCycles code
  let s2 := if nb.realign then signal (bump s1 (pgTck + Reg.TCK_REALIGN_CNT)) (srcEdge 2 0 3) 0 1 else s1
  let s3 := if nb.len = n + 1 then signal (bump s2 (pgTck + Reg.TCK_SLIP_INS)) (srcEdge 2 0 1) 0 1
    else if nb.len + 1 = n then signal (bump s2 (pgTck + Reg.TCK_SLIP_REM)) (srcEdge 2 0 2) 0 1 else s2
  let s4 := if nb.lost then amber (setErr s3 pgTck 1) 0x11 else s3
  let s5 := signal s4 (srcEdge 2 0 0) 0 1
  match cmd with
  | none => s5
  | some c =>
    let t := s5.tck.tick
    if c.code = 1 then finishCmd s5 pgTms stOK (lo32 t) (hi32 t) 0
    else if c.code = 2 then
      if newTime.isSome then finishCmd s5 pgTms stOK (lo32 t) (hi32 t) 0 else endCmd s5 pgTms stBAD_ARG
    else finishCmd s5 pgTms stOK (w32 (ptpNs p' % 10 ^ 9)) (lo32 (ptpNs p' / 10 ^ 9)) (lo32 t)

/-- The reference selection at a boundary (R79). -/
def selectReference (s : State) : State :=
  let t := s.time
  if t.refFallback then
    amber (setErr { s with time := { t with ref10InUse := false, refFallback := false, refSelect := none } } pgTms 2) 0x10
  else match t.refSelect with
    | none => s
    | some false => { s with time := { t with ref10InUse := false, refSelect := none } }
    | some true =>
      if t.ref10Present then { s with time := { t with ref10InUse := true, refSelect := none } }
      else amber (setErr { s with time := { t with ref10InUse := false, refSelect := none } } pgTms 2) 0x10

/-- PPS_OUT at a boundary (R87): it rises where the seconds of PTP time differ from the previous boundary's.
DEDUCED (log entry 19, unsafe). -/
def ppsBoundary (s : State) : State :=
  let sec := s.seconds
  let rise := fbit (rd s (pgTms + Reg.PAGE_CTL)) 1 && s.time.timeValid && decide (sec ≠ s.time.lastSec)
  { s with time := { s.time with
      lastSec := sec, ppsOut := fbit (rd s (pgTms + Reg.PAGE_CTL)) 1 && (s.time.ppsOut || rise),
      ppsRiseAt := if rise then s.tck.cycles else s.time.ppsRiseAt } }

/-- Voting at a boundary (R100): an outvoted copy is reloaded; its run of consecutive ticks grows. -/
def voteBoundary (s : State) : State :=
  let r (k : Nat) : Nat := match s.tck.outvoted with
    | some c => if c.val = k then tget (fun _ => 0) s.tck.runs k + 1 else 0
    | none => 0
  let runs := tset (fun _ => 0) (tset (fun _ => 0) (tset (fun _ => 0) [] 0 (r 0)) 1 (r 1)) 2 (r 2)
  { s with tck := { s.tck with runs := runs, outvoted := none } }

/-! ### Events of the time units -/

/-- PPS_OUT_FALL: PPS_OUT falls at the first boundary at least TMS_PPS_OUT_WIDTH µs after its rise (R87).
DEDUCED (log entry 19, unsafe). -/
def execPpsOutFall (s : State) : Host.Outcome State Fault Refusal :=
  .next (if s.time.ppsOut &&
      decide (s.time.ppsRiseAt + 1600 * fld (rd s (pgTms + Reg.TMS_PPS_OUT_WIDTH)) 19 0 ≤ s.tck.cycles) then
    { s with time := { s.time with ppsOut := false } } else s)

/-- PPS_IN_EDGE: a rising edge at cycle `cyc` of the tick is captured (R86).
DESIGN CHOICE (log entry 17, unsafe). -/
def execPpsInEdge (cyc : Nat) (s : State) : Host.Outcome State Fault Refusal :=
  if !fbit (rd s (pgTms + Reg.PAGE_CTL)) 2 then .next s
  else
    let v := compactStamp (ptpAtCycle s cyc)
    let s1 := if s.time.ppsInNew then setErr s pgTms 1 else s
    let s2 := wr s1 (pgTms + Reg.TMS_PPS_IN_LO) (lo32 v)
    let s3 := wrWide s2 (pgTms + Reg.TMS_PPS_IN_LO) v
    .next (bump { s3 with time := { s3.time with ppsInNew := true } } (pgTms + Reg.TMS_PPS_IN_CNT))

/-- REF10M_LOSS: four edges of REF10M_IN missed (R79). -/
def execRef10mLoss (s : State) : Host.Outcome State Fault Refusal :=
  .next { s with time := { s.time with
    ref10Present := false, refFallback := s.time.refFallback || s.time.ref10InUse } }

/-- REF10M_RESTORED: rising edges return on REF10M_IN (R79). -/
def execRef10mRestored (s : State) : Host.Outcome State Fault Refusal :=
  .next { s with time := { s.time with ref10Present := true } }

/-- TICK_COPY_OUTVOTED (R100): masked while three copies vote; with two copies in the vote any difference is a fault
that needs a device reset. -/
def execTickCopyOutvoted (copy : Fin 3) (s : State) : Host.Outcome State Fault Refusal :=
  match s.tck.fenced with
  | none =>
    let s1 := bump (setErr s pgTck 3) (pgTck + Reg.TCK_VOTE_CNT)
    .next { s1 with tck := { s1.tck with outvoted := some copy } }
  | some f => .next (if f = copy then s else needReset (setErr s pgTck 3) pgTck 3)

/-- TICK_COPY_FENCE: a copy outvoted in 16 consecutive ticks is fenced off (R100). -/
def execTickCopyFence (copy : Fin 3) (s : State) : Host.Outcome State Fault Refusal :=
  .next (if s.tck.fenced.isNone && decide (16 ≤ tget (fun _ => 0) s.tck.runs copy.val) then
    { s with tck := { s.tck with fenced := some copy } } else s)

/-! ### TMS commands (R83, R84, R88) -/

/-- SET_TIME: BAD_ARG for ns ≥ 10^9; else it waits for the boundary. -/
def specSetTime : CmdSpec where
  role := Master.isGlobal
  phases := anyPhase
  body c s := if 10 ^ 9 ≤ c.a0.toNat then endCmd s pgTms stBAD_ARG else s

/-- STEP: BAD_ARG at once outside ±999,999,999 ns; else it waits for the boundary. -/
def specStepTime : CmdSpec where
  role := Master.isGlobal
  phases := anyPhase
  body c s := if 999999999 < (sgn32 c.a0).natAbs then endCmd s pgTms stBAD_ARG else s

/-- SNAPSHOT: it waits for the boundary. -/
def specSnapshot : CmdSpec where
  role := Master.isGlobal
  phases := anyPhase
  body _ s := s

def execSetTime (via : Master) (seq : Byte) (a0 a1 a2 : Word) (s : State) : Host.Outcome State Fault Refusal :=
  .next (commandRow specSetTime pgTms 1 via seq a0 a1 a2 s)

def execStepTime (via : Master) (seq : Byte) (a0 : Word) (s : State) : Host.Outcome State Fault Refusal :=
  .next (commandRow specStepTime pgTms 2 via seq a0 0 0 s)

def execSnapshot (via : Master) (seq : Byte) (s : State) : Host.Outcome State Fault Refusal :=
  .next (commandRow specSnapshot pgTms 3 via seq 0 0 0 s)

/-! ### TCK commands (R90, R106, R107, R117) -/

/-- COMMIT_PERIOD (R90). -/
def specCommitPeriod : CmdSpec where
  role := Master.isGlobal
  phases p := p == .startup
  body _ s :=
    if s.tck.committed then endCmd s pgTck stWRONG_STATE
    else endCmd { s with tck := { s.tck with committed := true, commitPend := true } } pgTck stOK

/-- ARM_PLAN (R106, R110). -/
def specArmPlan : CmdSpec where
  role := Master.isGlobal
  phases := anyPhase
  body _ s :=
    if !s.tck.committed || s.tck.armed then endCmd s pgTck stWRONG_STATE
    else match planCheck s (shadowBank s) with
      | some (o0, o1, o2) => finishCmd s pgTck stBAD_ARG o0 o1 o2
      | none => endCmd { s with tck := { s.tck with armed := true } } pgTck stOK

/-- DISARM (R107). -/
def specDisarm : CmdSpec where
  role := Master.isGlobal
  phases := anyPhase
  body _ s :=
    if s.tck.armed then endCmd { s with tck := { s.tck with armed := false } } pgTck stOK
    else endCmd s pgTck stWRONG_STATE

def execCommitPeriod (via : Master) (seq : Byte) (s : State) : Host.Outcome State Fault Refusal :=
  .next (commandRow specCommitPeriod pgTck 1 via seq 0 0 0 s)

def execArmPlan (via : Master) (seq : Byte) (s : State) : Host.Outcome State Fault Refusal :=
  .next (commandRow specArmPlan pgTck 2 via seq 0 0 0 s)

def execDisarm (via : Master) (seq : Byte) (s : State) : Host.Outcome State Fault Refusal :=
  .next (commandRow specDisarm pgTck 3 via seq 0 0 0 s)

/-- Step 4 of R103: an armed plan whose activation tick is at most the tick counter becomes active (R106). -/
def activatePlan (s : State) : State :=
  if s.tck.armed && decide (planActivation (shadowBank s) ≤ s.tck.tick) then
    { s with tck := { s.tck with armed := false, activeBank := !s.tck.activeBank, planActive := true } }
  else s

/-- PLAN_ACTIVATE (R106). -/
def execPlanActivate (s : State) : Host.Outcome State Fault Refusal := .next (activatePlan s)

/-! ### The envelope (R144 to R147) and the PWR commands (R136, R152) -/

/-- The target envelope in quarter-watts (R145). -/
def envelopeTarget (s : State) : Nat :=
  let e := fld (rdEff s (pgPwr + Reg.PWR_ENVELOPE)) 8 0
  if s.gov.shedActive then Nat.min e (fld (rdEff s (pgPwr + Reg.PWR_ENVELOPE_SHED)) 8 0) else e

/-- PAGE_CTL.shed_en with PSHED_N low, as sampled at the boundary (R145). -/
def sampleShed (s : State) : State :=
  { s with gov := { s.gov with shedActive := fbit (rdEff s (pgPwr + Reg.PAGE_CTL)) 0 && s.gov.pshedLow } }

/-- P_eff moves towards the target (R146): a fall at once, a rise by one step when a ramp boundary is due. -/
def rampStep (s : State) : State :=
  let t := envelopeTarget s
  let r := rdEff s (pgPwr + Reg.PWR_RAMP)
  if t ≤ s.gov.pEff then { s with gov := { s.gov with pEff := t, rampWait := none } }
  else match s.gov.rampWait with
    | some (k + 1) => { s with gov := { s.gov with rampWait := some k } }
    | _ => { s with gov := { s.gov with
        pEff := s.gov.pEff + Nat.min (fld r 23 16) (t - s.gov.pEff), rampWait := some (fld r 15 0 - 1) } }

/-- Has the interval since the last rise passed (R146)? -/
def rampDue (s : State) : Bool := match s.gov.rampWait with
  | some (_ + 1) => false
  | _ => true

/-- ENVELOPE_RAMP_STEP: P_eff falls to a target below it at once, and rises by one step where the target is above it and
the interval has passed (R146); the boundaries of the interval are counted by TICK_BOUNDARY. -/
def execEnvelopeRampStep (s : State) : Host.Outcome State Fault Refusal :=
  .next (if decide (envelopeTarget s ≤ s.gov.pEff) || rampDue s then rampStep s else s)

/-- PSHED_CHANGE: the level of PSHED_N changes; it counts from the next boundary (R145). -/
def execPshedChange (low : Bool) (s : State) : Host.Outcome State Fault Refusal :=
  .next { s with gov := { s.gov with pshedLow := low } }

/-- LOAD_COEF (R135, R136): BUSY while an earlier one awaits its boundary. -/
def specLoadCoef : CmdSpec where
  role := Master.isGlobal
  phases := anyPhase
  body _ s :=
    if s.gov.loadPend then endCmd s pgPwr stBUSY
    else match coefCheck (shadowCoef s) with
      | some (o0, o1, o2) => finishCmd s pgPwr stBAD_ARG o0 o1 o2
      | none => endCmd { s with gov := { s.gov with loadPend := true } } pgPwr stOK

/-- RESTORE_DEFAULT (R152): the shadow bank holds the characterised table. -/
def specRestoreDefault : CmdSpec where
  role := Master.isGlobal
  phases := anyPhase
  body _ s :=
    if s.gov.loadPend then endCmd s pgPwr stBUSY
    else endCmd (if s.gov.activeCoef then { s with gov := { s.gov with coef0 := [] } }
      else { s with gov := { s.gov with coef1 := [] } }) pgPwr stOK

def execLoadCoef (via : Master) (seq : Byte) (s : State) : Host.Outcome State Fault Refusal :=
  .next (commandRow specLoadCoef pgPwr 1 via seq 0 0 0 s)

def execRestoreDefault (via : Master) (seq : Byte) (s : State) : Host.Outcome State Fault Refusal :=
  .next (commandRow specRestoreDefault pgPwr 2 via seq 0 0 0 s)

/-- A loaded coefficient bank becomes active at the boundary (R136). -/
def activateCoef (s : State) : State :=
  if s.gov.loadPend then { s with gov := { s.gov with activeCoef := !s.gov.activeCoef, loadPend := false } } else s

/-! ### Credits of a tick (R103 step 6) -/

/-- Energy events of an account that received less than it wanted (R725). -/
def energyEvents (s : State) (es : List PlanEntry) (want : Nat → Nat) (g : Table Nat) : State :=
  es.foldl (fun s e =>
    if tget (fun _ => 0) g e.key < want e.key then signal s (srcEdge 4 0 1) e.key 1 else s) s

/-- Event e of the account of key k, on the edge or on the slices charged for it. -/
def waitEvent (s : State) (k e : Nat) : State :=
  if 0x1000 ≤ k then signal s (srcEdge 8 0 e) k 1
  else if chargedSlices k = 2 then signal (signal s (srcSlice .ochre 8 e) k 1) (srcSlice .slate 8 e) k 1
  else signal s (srcSlice s.worker 8 e) k 1

/-- The credit-wait events of an account at a boundary (R725): a unit waits for want of a work, buffer or energy
credit. -/
def waitEvents (s : State) (waiting bufs : Nat → Nat) : State :=
  charKeys.foldl (fun s k =>
    let s1 := if workLeft s k < waiting k then waitEvent s k 0 else s
    let s2 := if decide (0 < waiting k) && bufs k == 0 then waitEvent s1 k 1 else s1
    if grantLeft s k < Nat.min (waiting k) (workLeft s k) then waitEvent s2 k 2 else s2) s

/-- Step 6 of R103: work and buffer credits from the plan in force, energy by the governor (R138, R151). `waiting`
counts the units queued (R139), `bufs` the free entries of the queue an account feeds (R119), and `ledger` the accounts
whose second ledger copy computed a smaller grant. -/
def grantCredits (s : State) (waiting bufs : Nat → Nat) (ledger : List (Nat × Nat)) : State :=
  let es := planInForce s
  let work := es.foldl (fun w e => tset (fun _ => 0) w e.key e.work) []
  let buf := es.foldl (fun w e =>
    tset (fun _ => 0) w e.key (if e.cap = 0 then bufs e.key else Nat.min e.cap (bufs e.key))) []
  let want (k : Nat) : Nat := Nat.min (tget (fun _ => 0) work k) (waiting k)
  let stand := standingPower s
  let bud := accountBudget s.gov.pEff stand s.T
  let r := grantAll es want (unitCost s) [7, 6, 5, 4, 3, 2, 1, 0] ⟨bud, [], s.gov.first⟩
  let differs := ledger.any (fun d => decide (d.2 < tget (fun _ => 0) r.grants d.1))
  let g := ledger.foldl (fun g d =>
    tset (fun _ => 0) g d.1 (Nat.min d.2 (tget (fun _ => 0) g d.1))) r.grants
  let short := es.filter (fun e => decide (tget (fun _ => 0) g e.key < want e.key))
  let spentE := g.foldl (fun a e => a + e.2 * unitCost s e.1) 0
  let above := decide (s.gov.pEff * 250 - 20000 < stand)
  let s1 := { s with
    cred := ⟨copyLearn work, buf, copyLearn g, [], s.cred.halted⟩
    gov := { s.gov with
      first := r.first, standing := stand, budget := bud, granted := spentE, spare := r.left,
      spent := s.gov.charged, charged := 0,
      total := s.gov.total + s.gov.charged + stand * s.T,
      binding := !short.isEmpty,
      limitPrio := (short.map (·.prio)).foldl (fun m p => match m with
        | none => some p
        | some q => some (Nat.max p q)) none,
      mismatchPrev := differs } }
  let s2 := if s1.gov.binding then signal (bump s1 (pgPwr + Reg.PWR_BINDING_CNT)) (srcEdge 4 0 0) 0 1 else s1
  let s3 := if above then setErr s2 pgPwr 4 else s2
  let s4 := if differs then bump (setErr s3 pgPwr 1) (pgPwr + Reg.PWR_MISMATCH_CNT) else s3
  let s5 := if differs && s.gov.mismatchPrev then needReset s4 pgPwr 1 else s4
  waitEvents (energyEvents s5 es want g) waiting bufs

/-! ### Registers computed from this state -/

/-- The bit pattern of a signed value saturated to 32 bits (TCK_PHASE). -/
def satPhase (v : Int) : Word :=
  if 2147483647 < v then 0x7FFFFFFF else if v < -2147483648 then 0x80000000 else BitVec.ofInt 32 v

/-- TMS registers (R87). Upper and fraction parts are shown as captured.
DESIGN CHOICE (log entry 32, unsafe). -/
def viewTms (s : State) (off : Nat) : Option Word :=
  if off = Reg.PAGE_STAT then
    some (flagAt s.time.timeValid 0 ||| flagAt s.time.ref10Present 1 ||| flagAt s.time.ref10InUse 2
      ||| flagAt s.time.ppsInNew 3)
  else if off = Reg.TMS_TIME_NS then some (w32 (ptpNs s.time.ptp % 10 ^ 9))
  else none

/-- TCK registers (R122).
DESIGN CHOICE (log entry 32, unsafe). -/
def viewTck (s : State) (off : Nat) : Option Word :=
  let t := s.tck
  if off = Reg.PAGE_STAT then
    some (flagAt t.committed 0 ||| flagAt t.planActive 1 ||| flagAt t.armed 2 ||| flagAt t.activeBank 3
      ||| flagAt t.locked 4 ||| (if t.fenced.isSome then 0x40 else 0x60))
  else if off = Reg.TCK_COUNT_LO then some (lo32 t.tick)
  else if off = Reg.TCK_STAMP then some (w32 s.stamp)
  else if off = Reg.TCK_PHASE then some (satPhase t.phi)
  else if off = Reg.TCK_LAST_OLD_LO then some (lo32 t.lastOld)
  else if off = Reg.TCK_PLAN_DATA then some (bankWord (shadowBank s) (fld (rd s (pgTck + Reg.TCK_PLAN_INDEX)) 9 0))
  else if off = Reg.TCK_NET_RESERVE then some (w32 (netReserve s))
  else if off = Reg.TCK_ARM_TICK_LO then some (if t.armed then lo32 (planActivation (shadowBank s)) else 0)
  else none

/-- PWR registers (R151). -/
def viewPwr (s : State) (off : Nat) : Option Word :=
  let g := s.gov
  if off = Reg.PAGE_STAT then
    some (flagAt g.binding 0 ||| flagAt g.shedActive 1 ||| flagAt (decide (g.pEff < envelopeTarget s)) 2
      ||| flagAt g.activeCoef 3 ||| flagAt g.loadPend 4)
  else if off = Reg.PWR_EFFECTIVE then some (w32 g.pEff)
  else if off = Reg.PWR_FLOOR then some 80
  else if off = Reg.PWR_STANDING then some (w32 g.standing)
  else if off = Reg.PWR_BUDGET then some (w32 g.budget)
  else if off = Reg.PWR_GRANTED then some (w32 g.granted)
  else if off = Reg.PWR_SPENT then some (w32 g.spent)
  else if off = Reg.PWR_ENERGY_LO then some (lo32 (g.total / 1000000))
  else if off = Reg.PWR_COEF_DATA then some (coefWord (shadowCoef s) (fld (rd s (pgPwr + Reg.PWR_COEF_INDEX)) 7 0))
  else if off = Reg.PWR_LIMIT_PRIO then some (match g.limitPrio with
    | none => 0
    | some p => w32 (p + 8))
  else none

end Sys2Proof.Machine
end

