-- ==== Sys2Proof/Machine/SysCmds.lean ====
section
/-! DEFINITION. The phases, the SYS commands and entry into recovery (R204, R215 to R219). -/
namespace Sys2Proof.Machine

/-- ENTER_SERVICE: it waits for the boundary; WRONG_STATE without a committed period or a loaded plan (R219). -/
def specEnterService : CmdSpec where
  role := Master.isGlobal
  phases p := p == .startup
  body _ s := if s.tck.committed && s.tck.planActive then s else endCmd s pgSys stWRONG_STATE

/-- ENTER_TEST waits for the boundary (R219). -/
def specEnterTest : CmdSpec where
  role := Master.isGlobal
  phases p := p == .startup || p == .normal
  body _ s := s

/-- EXIT_TEST waits for the boundary (R219). -/
def specExitTest : CmdSpec where
  role := Master.isGlobal
  phases p := p == .test
  body _ s := s

/-- DEVICE_RESET: a warm reset begins; the result never becomes done (R204, R219). -/
def specDeviceReset : CmdSpec where
  role := Master.isGlobal
  phases := anyPhase
  body c s :=
    if c.a0 = 0xA5A5 then { s with power := { s.power with warm := .accepted, warmVia := c.via } }
    else endCmd s pgSys stBAD_ARG

def execEnterService (via : Master) (seq : Byte) (s : State) : Host.Outcome State Fault Refusal :=
  .next (commandRow specEnterService pgSys 1 via seq 0 0 0 s)

def execEnterTest (via : Master) (seq : Byte) (s : State) : Host.Outcome State Fault Refusal :=
  .next (commandRow specEnterTest pgSys 2 via seq 0 0 0 s)

def execExitTest (via : Master) (seq : Byte) (s : State) : Host.Outcome State Fault Refusal :=
  .next (commandRow specExitTest pgSys 3 via seq 0 0 0 s)

def execDeviceReset (via : Master) (seq : Byte) (a0 : Word) (s : State) : Host.Outcome State Fault Refusal :=
  .next (commandRow specDeviceReset pgSys 4 via seq a0 0 0 s)

/-- The code of a phase command (1 to 3) that waits on the SYS page. -/
def phaseCmd (s : State) : Option Nat :=
  match runningOn s pgSys with
  | some c => if c.code ≤ 3 then some c.code else none
  | none => none

/-- The device enters recovery at a boundary (R217, R218). -/
def enterRecoveryNow (s : State) (c : Cause) : State :=
  let s1 := if (phaseCmd s).isSome then endCmd s pgSys stFAULT else s
  let s2 := { s1 with power := { s1.power with phase := .recovery, recoverPend := none, faultN := true } }
  let s3 := wr s2 (pgSys + Reg.SYS_RECOVERY_CAUSE) (w32 (c.block % 256 + 256 * c.inst + 65536 * c.bit + 2 ^ 24))
  aerUnc (setErr s3 pgSys 5) 0 22 [] false

/-- Phase changes at a boundary (R215, R218): recovery wins over a phase command. -/
def phaseBoundary (s : State) : State :=
  match s.power.recoverPend with
  | some c => enterRecoveryNow s c
  | none =>
    match phaseCmd s with
    | none => s
    | some k =>
      let p := s.power.phase
      let s1 := { s with power := { s.power with
        phase := if k = 1 then .normal else if k = 2 then .test else s.power.testFrom,
        testFrom := if k = 2 then p else s.power.testFrom } }
      endCmd s1 pgSys stOK

/-- The boundary after DEVICE_RESET: no gatekeeper accepts either slice (R204).
DEDUCED (log entry 99, unsafe). -/
def warmBoundary (s : State) : State :=
  if s.power.warm = .accepted then
    { s with power := { s.power with warm := .closed, warmAt := s.tck.boundaries } }
  else s

/-- ENTER_RECOVERY: a fault of the shared edge that needs a device reset; recovery begins at the next boundary (R57,
R100, R217, R679, R783). -/
def execEnterRecovery (f : EdgeFault) (s : State) : Host.Outcome State Fault Refusal :=
  match f with
  | .gatekeeperMismatch => .next (needReset (setErr s pgRed 6) pgRed 6)
  | .edgeParity => .next (needReset (setErr s pgRed 7) pgRed 7)
  | .sharedOverrun eng =>
    let s1 := if rd s (pgTck + Reg.TCK_OVERRUN_SRC) = 0 then
        wr s (pgTck + Reg.TCK_OVERRUN_SRC) (w32 (eng.toNat + 512)) else s
    let s2 := if 0x10 ≤ eng.toNat ∧ eng.toNat ≤ 0x13 then setErr s1 (pgMem (eng.toNat - 0x10)) 1 else s1
    let s3 := { s2 with cred := { s2.cred with halted := insKey eng.toNat s2.cred.halted } }
    .next (needReset (setErr s3 pgTck 0) pgTck 0)
  | .lastCopiesDiffer =>
    .next (if s.tck.fenced.isSome then needReset (setErr s pgTck 3) pgTck 3 else s)

/-- SYS registers computed from this state (R176, R218). -/
def viewSys (s : State) (off : Nat) : Option Word :=
  let p := s.power
  if off = Reg.SYS_PHASE then some (w32 (p.phase.code + 4 * p.bringupDone.toNat))
  else if off = Reg.SYS_RESET_CAUSE then some p.cause
  else if off = Reg.SYS_WARM_CNT then some (w32 p.warmCnt)
  else if off = Reg.SYS_BIST_RESULT then some p.bist
  else if off = Reg.SYS_BRINGUP_TIME then some (w32 p.elapsedUs)
  else if off = Reg.SYS_FLR_STAT then
    some (flagAt (inFlr s 0) 0 ||| flagAt (inFlr s 1) 1 ||| flagAt (s.pcie.flr.any (fun f => 2 ≤ f)) 2)
  else none

end Sys2Proof.Machine
end

