-- ==== Sys2Proof/Machine/Redundancy.lean ====
section
/-! DEFINITION. Claims, withdrawal, switch-over, slice reset and self-test (R649 to R671, R681, R682). The equinox
stands in Equinox.lean. -/
namespace Sys2Proof.Machine

/-- The page of a slice whose tick_overrun bit an engine's overrun sets (R111, R175). -/
def enginePage (sl : SliceId) (eng : Nat) : Nat :=
  if eng = 1 then pgSlice sl 0 else if eng = 2 then pgSlice sl 6 else if eng = 3 then pgSlice sl 7
  else if eng = 4 then pgSlice sl 3 else if eng = 5 then pgSlice sl 4 else if eng = 6 then pgSlice sl 1
  else if eng = 7 then pgSlice sl 2 else pgSlice sl 8

/-- The self-test page of a slice. -/
abbrev pgSelf (sl : SliceId) : Nat := pgSlice sl 8

/-- The device is simplex: not one active and one standby slice (R652). -/
def simplex (s : State) : Bool :=
  !((s.red.ochre.role == .active && s.red.slate.role == .standby)
    || (s.red.slate.role == .active && s.red.ochre.role == .standby))

/-- The withdrawals of the last 24 h of PTP time (R668). -/
def recentWithdrawals (s : State) (l : List Nat) : List Nat :=
  l.filter (fun t => decide (s.seconds < t + 86400))

/-- What the slice's pages report when a fault class withdraws it (R653, R655, R122). -/
def reportWithdrawal (s : State) (sl : SliceId) (cls eng : Nat) : State :=
  let s1 := if cls = 0 ∨ fbit (rd s (pgSelf sl + Reg.ST_FAIL_INFO)) 31 then s
    else wr s (pgSelf sl + Reg.ST_FAIL_INFO) (w32 (eng + 256 * cls + 2 ^ 31))
  if cls = 1 then
    signal (bump (setErr s1 (pgSelf sl) 2) (pgSelf sl + Reg.ST_CHECK_CNT)) (srcSlice sl 5 0) 0 1
  else if cls = 2 then
    let s2 := if rd s1 (pgTck + Reg.TCK_OVERRUN_SRC) = 0 then
        wr s1 (pgTck + Reg.TCK_OVERRUN_SRC) (w32 (eng + 256 * sl.num)) else s1
    setErr (setErr s2 (enginePage sl eng) 1) pgTck 0
  else if cls = 3 then setErr s1 (pgSelf sl) 3
  else if cls = 4 then setErr s1 (pgSelf sl) 4
  else s1

/-- A slice withdraws its claim and fences itself (R653, R655): nothing it issues is accepted any more, and its claim
is 0 at the next boundary. -/
def withdrawSlice (s : State) (sl : SliceId) (cls eng : Nat) : State :=
  let x := s.slice sl
  if x.role = .out || x.fenced then s
  else
    let w := recentWithdrawals s x.withdrawals ++ [s.seconds]
    let s1 := s.setSlice sl { x with
      claim := 0, fenced := true, fencedAt := s.tck.boundaries, lastClass := cls, withdrawals := w,
      passRunning := false, lastPassOk := x.lastPassOk && cls != 3,
      retireAtEnd := x.retireAtEnd || decide (fld (rd s (pgRed + Reg.RED_WITHDRAW_LIMIT)) 7 0 < w.length) }
    reportWithdrawal s1 sl cls eng

/-- Commands running on a slice's pages end with FAULT at its reset (R167).
DEDUCED (log entry 93, unsafe). -/
def faultSliceCmds (s : State) (sl : SliceId) : State :=
  (List.range 9).foldl (fun s k => endCmd s (pgSlice sl k) stFAULT) s

/-- A slice that becomes retired is reported (R666, R668).
DEDUCED (log entry 92, unsafe). -/
def reportOut (s : State) : State := amber (setErr s pgRed 2) 0x15

/-- The slice named by a RED command's ARG0 [0] (R681). -/
def argSlice (w : Word) : SliceId := if fbit w 0 then .slate else .ochre

/-- The RED command that waits, with its code and slice. -/
def redCmd (s : State) : Option (Nat × SliceId) := (runningOn s pgRed).map (fun c => (c.code, argSlice c.a0))

/-- A slice becomes standby: claim 0x80, self-test passes start, a waiting READMIT ends (R649, R669, R681). -/
def becomeStandby (s : State) (sl : SliceId) : State :=
  let x := s.slice sl
  let s1 := s.setSlice sl { x with
    role := .standby, claim := 0x80, readmit := false, retired := false, retireAtEnd := false,
    withdrawals := if x.readmit then [] else x.withdrawals,
    passRunning := true, passStart := s.tck.boundaries }
  if x.readmit && redCmd s == some (3, sl) then endCmd s1 pgRed stOK else s1

/-- What a slice reset leaves of the injected faults: it clears permanent ones (R682). -/
def keptInject (l : List (Nat × InjectKind)) : List (Nat × InjectKind) := l.filter (fun i => i.2 != .permanent)

/-- What a boundary does to one slice's role (R651, R655, R665 to R668, R681): a fenced slice goes out and its reset
starts; a slice whose reset has passed becomes qualifying, or standby where READMIT waits for it.
DEDUCED (log entry 92, unsafe). -/
def roleBoundary (s : State) (sl : SliceId) : State :=
  let x := s.slice sl
  if x.fenced then
    let wd := redCmd s == some (2, sl)
    let s1 := s.setSlice sl { x with
      role := .out, claim := 0, fenced := false, resetting := true, inject := keptInject x.inject, readmit := false,
      retired := x.retired || wd }
    let s2 := faultSliceCmds s1 sl
    let s3 := if wd then endCmd (reportOut s2) pgRed stOK else s2
    if x.readmit && redCmd s == some (3, sl) then endCmd s3 pgRed stFAULT else s3
  else if redCmd s == some (2, sl) && (x.role == .out || x.role == .qualifying) then
    let s1 := s.setSlice sl { x with role := .out, retired := true, retireAtEnd := x.resetting, readmit := false }
    endCmd (if x.retired then s1 else reportOut s1) pgRed stOK
  else if x.role = .qualifying && x.readmit then becomeStandby s sl
  else if x.role = .out && !x.resetting && !x.retired then
    if x.readmit then becomeStandby s sl
    else s.setSlice sl { x with role := .qualifying, qualifiedAt := s.tck.boundaries }
  else s

/-- The gatekeepers compare the claims at a boundary (R49 to R51). -/
def compareClaims (s : State) : State :=
  let a := s.red.ochre.claim
  let b := s.red.slate.claim
  if a = 0 ∧ b = 0 then
    needReset (setErr { s with red := { s.red with accepted := none } } pgRed 2) pgRed 2
  else { s with red := { s.red with
    accepted := if b < a then some .ochre else if a < b then some .slate else s.red.accepted } }

/-- An injected fault has fired and is no longer present (R682). -/
def dropInject (s : State) (sl : SliceId) (i : Nat × InjectKind) : State :=
  s.setSlice sl { s.slice sl with inject := (s.slice sl).inject.filter (fun j => j != i) }

/-- An injected fault fires at a boundary (R682): kinds 1 and 2 at once, kind 4 once the engine has started a unit. -/
def fireOne (sl : SliceId) (s : State) (i : Nat × InjectKind) : State :=
  match i.2 with
  | .transient => withdrawSlice (dropInject s sl i) sl 1 i.1
  | .permanent => withdrawSlice s sl 1 i.1
  | .overrun =>
    let ran := s.cred.started.any (fun a => a.1 / 256 == i.1 && decide (0 < a.2))
    if ran && (i.1 == 1 || i.1 == 6 || i.1 == 7 || (s.slice sl).role == .active) then
      withdrawSlice (dropInject s sl i) sl 2 i.1
    else s
  | .latent => s

/-- The injected faults of a slice at a boundary, in the order of their INJECT commands. -/
def fireInjected (s : State) (sl : SliceId) : State := (s.slice sl).inject.foldl (fireOne sl) s

/-- Roles and claims at a boundary. -/
def redBoundary (s : State) : State :=
  compareClaims (roleBoundary (roleBoundary s .ochre) .slate)

/-- An uncorrectable error in a slice's arrays counts towards RED_UE_LIMIT within the PTP second (R654); `eng` is the
engine that reports it.
DEDUCED (log entry 94, unsafe). -/
def countUe (s : State) (sl : SliceId) (eng : Nat) : State :=
  let x := s.slice sl
  let n := (if x.ueSecond = s.seconds then x.ueCount else 0) + 1
  let s1 := s.setSlice sl { x with ueCount := n, ueSecond := s.seconds }
  if fld (rd s (pgRed + Reg.RED_UE_LIMIT)) 7 0 ≤ n then withdrawSlice s1 sl 4 eng else s1

/-- ONLINE_CHECK_FIRE: a slice detects a fault in itself, or an uncorrectable word that may reach RED_UE_LIMIT within
the PTP second (R653, R654). -/
def execOnlineCheckFire (sl : SliceId) (ev : SliceFault) (eng : Byte) (s : State) : Host.Outcome State Fault Refusal :=
  match ev with
  | .check => .next (withdrawSlice s sl 1 eng.toNat)
  | .overrun => .next (withdrawSlice s sl 2 eng.toNat)
  | .uncorrectable => .next (countUe s sl eng.toNat)

/-- Tags issued by a slice become stale (R263, R266). -/
def staleTagsOf (s : State) (sl : SliceId) : State :=
  { s with pcie := { s.pcie with
    tags := s.pcie.tags.map (fun t => if t.slice = sl then { t with stale := true } else t) } }

/-- The report of a switch-over (R662). -/
def reportSwitch (s : State) (old : SliceId) : State :=
  let s1 := bump (setErr s pgRed 1) (pgRed + Reg.RED_SWITCH_CNT)
  let s2 := if fbit (rd s1 (pgRed + Reg.RED_LAST_SWITCH)) 31 then s1
    else wr s1 (pgRed + Reg.RED_LAST_SWITCH)
      (w32 (s1.stamp + 65536 * old.num + 131072 * (s1.slice old).lastClass + 2 ^ 31))
  amber (signal (aerCor s2 0 14) (srcEdge 5 0 0) 0 1) 0x14

/-- The former standby, which the gatekeepers now accept, becomes active (R656 to R662, R677): roles, tags, counters and
reports; none where no switch-over is due. `replay` counts the requests forwarded by R658, `gap` is the length of the gap in ticks less one (R660).
DEDUCED (log entry 90, unsafe). DEDUCED (log entry 91, unsafe). -/
def takeOver (replay : Nat) (gap : Fin 3) (s : State) : Option State :=
  match s.red.accepted, s.activeSlice with
  | some sl, none =>
    let x := s.slice sl
    if x.role = .standby then
      let s1 := s.setSlice sl { x with role := .active, claim := 0xC0, passRunning := false }
      let s2 := staleTagsOf s1 sl.other
      let s3 := bumpBy (reportSwitch s2 sl.other) (pgRed + Reg.RED_REPLAY_CNT) replay
      let s4 := signal s3 (srcEdge 5 0 2) 0 (gap.val + 1)
      let s5 := if fld (rd s4 (pgRed + Reg.RED_GAP_MAX)) 1 0 < gap.val + 1 then
          wr s4 (pgRed + Reg.RED_GAP_MAX) (w32 (gap.val + 1)) else s4
      let s6 := if redCmd s5 == some (1, argSlice ((runningOn s5 pgRed).elim 0 (·.a0))) then
          endCmd s5 pgRed stOK else s5
      some { s6 with red := { s6.red with
        stage := .idle, due := false, dueAgainAt := none, count := 0, deferAlarmed := false } }
    else none
  | _, _ => none

/-- The slice passed or failed its reset (R665 to R668). -/
def resetEnd (sl : SliceId) (pass : Bool) (s : State) : State :=
  let x := s.slice sl
  let y := { x with resetting := false, inject := keptInject x.inject }
  if pass && x.readmit then s.setSlice sl { y with retired := false, retireAtEnd := false }
  else if pass && !x.retireAtEnd && !x.retired then s.setSlice sl y
  else
    let s1 := s.setSlice sl { y with retired := true, retireAtEnd := false, readmit := false }
    let s2 := if x.retired && pass then s1 else reportOut s1
    if x.readmit && redCmd s == some (3, sl) then endCmd s2 pgRed stFAULT else s2

/-- AUTO_READMIT: with auto_readmit, a qualifying slice becomes standby 1 s after it became qualifying (R667). -/
def execAutoReadmit (sl : SliceId) (s : State) : Host.Outcome State Fault Refusal :=
  let x := s.slice sl
  .next (if x.role == .qualifying && fbit (rd s (pgRed + Reg.PAGE_CTL)) 2
      && passed s x.qualifiedAt (boundariesIn s (10 ^ 9)) then becomeStandby s sl else s)

/-- The engine that a self-test pass finds faulty: a latent injected fault makes its engine fail (R670, R682). -/
def failingEngine (x : SliceRed) (wrong : Option Byte) : Option Nat :=
  match x.inject.find? (fun i => i.2 == .latent), wrong with
  | some i, _ => some i.1
  | none, some b => some b.toNat
  | none, none => none

/-- The latent faults of engine e have shown (R682). -/
def shownLatent (s : State) (sl : SliceId) (e : Nat) : State := dropInject s sl (e, .latent)

/-- A pass ends with an engine found faulty, which withdraws the slice (R670), or with none (R669). -/
def passEnd (s : State) (sl : SliceId) (ms : Nat) : Option Nat → State
  | some e => withdrawSlice (shownLatent (s.setSlice sl { s.slice sl with lastPassOk := false }) sl e) sl 3 e
  | none =>
    let s1 := s.setSlice sl { s.slice sl with lastPassOk := true, passStart := s.tck.boundaries }
    let s2 := wr (bump s1 (pgSelf sl + Reg.ST_PASS_CNT)) (pgSelf sl + Reg.ST_LAST_PASS) (w32 (ms % 65536))
    signal s2 (srcSlice sl 5 1) 0 1

/-- SELFTEST_PASS_END: a pass of the standby ends after `ms` ms, with the engine that gave a wrong answer if one did (R669,
R670, R682). -/
def execSelftestPassEnd (ms : Nat) (wrong : Option Byte) (s : State) : Host.Outcome State Fault Refusal :=
  let run (sl : SliceId) : State := passEnd s sl ms (failingEngine (s.slice sl) wrong)
  if s.red.ochre.role = .standby && s.red.ochre.passRunning then .next (run .ochre)
  else if s.red.slate.role = .standby && s.red.slate.passRunning then .next (run .slate)
  else .next s

/-- WITHDRAW (R681): an active or standby slice withdraws with class 0x0 where the other can serve; any other is
retired at the next boundary. -/
def specWithdraw : CmdSpec where
  role := Master.isGlobal
  phases := notRecovery
  body c s :=
    let sl := argSlice c.a0
    let x := s.slice sl
    if x.role = .active ∨ x.role = .standby then
      let o := (s.slice sl.other).role
      if o = .active ∨ o = .standby then withdrawSlice s sl 0 0 else endCmd s pgRed stWRONG_STATE
    else s

/-- READMIT (R681). A retired slice has a slice reset first; the command ends when the slice is standby. -/
def specReadmit : CmdSpec where
  role := Master.isGlobal
  phases := notRecovery
  body c s :=
    let sl := argSlice c.a0
    let x := s.slice sl
    if x.role = .active ∨ x.role = .standby then endCmd s pgRed stWRONG_STATE
    else s.setSlice sl { x with
      readmit := true, resetting := x.resetting || x.retired, retireAtEnd := false,
      withdrawals := if x.retired then [] else x.withdrawals }

/-- INJECT (R682). -/
def specInject (sl : SliceId) : CmdSpec where
  role := Master.isGlobal
  phases p := p == .test
  body c s :=
    let x := s.slice sl
    let e := fld c.a0 15 8
    let k := fld c.a0 3 0
    if !(x.role == .active || x.role == .standby) then endCmd s (pgSelf sl) stWRONG_STATE
    else if e = 0 ∨ 7 < e ∨ k = 0 ∨ 4 < k ∨ fld c.a0 7 4 ≠ 0 ∨ fld c.a0 31 16 ≠ 0 then
      endCmd s (pgSelf sl) stBAD_ARG
    else
      let kind : InjectKind := if k = 1 then .transient else if k = 2 then .permanent else if k = 3 then .latent
        else .overrun
      endCmd (s.setSlice sl { x with inject := x.inject ++ [(e, kind)] }) (pgSelf sl) stOK

def execWithdraw (via : Master) (seq : Byte) (a0 : Word) (s : State) : Host.Outcome State Fault Refusal :=
  .next (commandRow specWithdraw pgRed 2 via seq a0 0 0 s)

def execReadmit (via : Master) (seq : Byte) (a0 : Word) (s : State) : Host.Outcome State Fault Refusal :=
  .next (commandRow specReadmit pgRed 3 via seq a0 0 0 s)

def execInject (sl : SliceId) (via : Master) (seq : Byte) (a0 : Word) (s : State) : Host.Outcome State Fault Refusal :=
  .next (commandRow (specInject sl) (pgSelf sl) 1 via seq a0 0 0 s)

/-- The period of the equinox in boundaries; 0 when it is off (R672). -/
def eqxPeriod (s : State) : Nat := boundariesIn s (fld (rdEff s (pgRed + Reg.RED_EQX_PERIOD)) 16 0 * 10 ^ 9)

/-- The tick at which the equinox falls due (R672, R674), 0 while none is counted. -/
def eqxNext (s : State) : Nat :=
  match s.red.dueAgainAt with
  | some b => (s.tck.tick + (b - s.tck.boundaries)) % 2 ^ 64
  | none => if eqxPeriod s = 0 || simplex s then 0 else (s.tck.tick + (eqxPeriod s - s.red.count)) % 2 ^ 64

/-- The stage code of RED PAGE_STAT. -/
def EqxStage.code : EqxStage → Nat
  | .idle => 0 | .deferred => 1 | .prepare => 2 | .hold => 3 | .drain => 4

/-- RED registers (R680). -/
def viewRed (s : State) (off : Nat) : Option Word :=
  let claim (x : SliceRed) : Word :=
    w32 (x.claim + 256 * x.role.code + 1024 * x.retired.toNat + 2048 * x.lastClass
      + 65536 * (satAt 255 (recentWithdrawals s x.withdrawals).length))
  if off = Reg.PAGE_STAT then
    some (w32 ((if s.red.slate.role = .active then 1 else 0) + 2 * (simplex s).toNat + 4 * s.red.stage.code))
  else if off = Reg.RED_CLAIM then some (claim s.red.ochre)
  else if off = Reg.RED_CLAIM + 4 then some (claim s.red.slate)
  else if off = Reg.RED_EQX_NEXT_LO then some (lo32 (eqxNext s))
  else none

/-- Self-test page registers (R682). -/
def viewSelf (s : State) (sl : SliceId) (off : Nat) : Option Word :=
  let x := s.slice sl
  if off = Reg.PAGE_STAT then
    some (flagAt x.passRunning 0 ||| flagAt x.lastPassOk 1 ||| flagAt (!x.inject.isEmpty) 2)
  else none

end Sys2Proof.Machine
end

