-- ==== Sys2Proof/Machine/Tables.lean ====
section
/-! DEFINITION. The exact-match and LPM tables of each slice and the table unit that changes them: insertion,
relocation, learning, ageing, drains and the TBL commands (chapter 13). -/
namespace Sys2Proof.Machine

/-- The tables of a slice. -/
def getTbl (s : State) (sl : SliceId) : TblUnit := tget (fun _ => TblUnit.reset) s.tbl sl.num
def putTbl (s : State) (sl : SliceId) (u : TblUnit) : State :=
  { s with tbl := tset (fun _ => TblUnit.reset) s.tbl sl.num u }

/-- The TBL page of a slice (R175). -/
abbrev pgTbl (sl : SliceId) : Nat := pgSlice sl 1

/-- Owner code of a slice's bulk lock, 0 when free (R172). -/
def lockOwner (s : State) (sl : SliceId) : Nat := fld (rd s (pgTbl sl + Reg.TBL_BULK_LOCK)) 1 0

/-- Owner code of a master (R172); 0 for one that reaches no lock register. -/
def ownerCode : Master → Nat
  | .maint => 1 | .pf0 => 2 | .sync => 3 | _ => 0

/-! ### Slots and hashes (R471 to R477) -/

/-- First position of the stash, and the number of positions. -/
abbrev stashBase : Nat := 262144
abbrev emtSlots : Nat := 262208

/-- Position of slot `i` of bucket `b` of way `w` (R471). -/
def slotPos (w b i : Nat) : Nat := w * 131072 + b * 4 + i

/-- The bucket of a key in way w of a slice (R474). -/
def bucketOf (s : State) (sl : SliceId) (w : Nat) (key : List Byte) : Nat :=
  let seed := (rd s (pgTbl sl + (if w = 0 then Reg.TBL_SEED_A else Reg.TBL_SEED_B))).toNat
  let poly := if w = 0 then 0x82F63B78 else 0xEDB88320
  (key.foldl (fun c b => crcByte poly c b.toNat) seed ^^^ 0xFFFFFFFF) % 32768

/-- The entry in a slot. -/
def slotAt (u : TblUnit) (p : Nat) : Option EmtEntry := tget (fun _ => none) u.emt p

/-- A slot holds nothing and is not poisoned. -/
def slotFree (u : TblUnit) (p : Nat) : Bool := (slotAt u p).isNone && !u.poison.contains p

/-- Write a slot; it is no longer poisoned (R505). -/
def setSlot (u : TblUnit) (p : Nat) (e : Option EmtEntry) : TblUnit :=
  { u with emt := tset (fun _ => none) u.emt p e, poison := u.poison.filter (fun x => x != p) }

/-- The positions where a key may be: both home buckets, then the stash (R476). -/
def homeSlots (s : State) (sl : SliceId) (key : List Byte) : List Nat :=
  (List.range 4).map (slotPos 0 (bucketOf s sl 0 key)) ++ (List.range 4).map (slotPos 1 (bucketOf s sl 1 key))
    ++ (List.range 64).map (fun i => stashBase + i)

/-- An EMT lookup (R473, R476): position and entry. -/
def emtFind (s : State) (sl : SliceId) (key : List Byte) : Option (Nat × EmtEntry) :=
  let u := getTbl s sl
  if leAt key 0 1 = 0 then none
  else (homeSlots s sl key).foldl (fun a p => match a, slotAt u p with
    | none, some e => if e.key = key then some (p, e) else none
    | a, _ => a) none

/-- The version of the bucket of a position, 0 in the stash. -/
def versionOf (u : TblUnit) (p : Nat) : Nat := if p < stashBase then tget (fun _ => 0) u.vers (p / 4) else 0

/-- Stash entries; learned entries. -/
def stashCount (u : TblUnit) : Nat := (u.emt.filter (fun e => decide (stashBase ≤ e.1))).length
def learnedCount (u : TblUnit) : Nat := (u.emt.filter (fun e => (e.2.map (·.learned)).getD false)).length

/-- Source of an entry as its arg names it (R487): n for Pn, 16 + f for function f. -/
def argSource (arg : Word) : Nat := if fbit arg 3 then 16 + fld arg 31 16 else fld arg 2 0

/-- Learned entries of a source. -/
def learnedOf (u : TblUnit) (src : Nat) : Nat :=
  (u.emt.filter (fun e => match e.2 with
    | some x => x.learned && argSource x.arg == src
    | none => false)).length

/-- The bytes of an entry (R472). -/
def EmtEntry.bytes (e : EmtEntry) : List Byte :=
  sliceB e.key 0 32 ++ wordBytes e.arg
    ++ leBytes 2 (e.record % 4096 + 2 ^ 12 * e.fixed.toNat + 2 ^ 13 * e.learned.toNat + 2 ^ 14 * e.frozen.toNat
        + 2 ^ 15 * e.hit.toNat)
    ++ leBytes 1 (e.moves % 64) ++ leBytes 1 e.window

/-! ### Insertion and relocation (R478 to R481) -/

/-- Where a new entry goes. -/
inductive Placement where
  | direct (p : Nat) | chain (path : List Nat) (target : Nat) | stash (p : Nat) | full
deriving DecidableEq, Repr

/-- The lowest empty slot of a bucket. -/
def emptyIn (u : TblUnit) (w b : Nat) : Option Nat :=
  (List.range 4).foldl (fun a i => match a with
    | some p => some p
    | none => if slotFree u (slotPos w b i) then some (slotPos w b i) else none) none

/-- The home bucket of the occupant of a slot in way w. -/
def altOf (s : State) (sl : SliceId) (u : TblUnit) (w p : Nat) : Nat :=
  match slotAt u p with
  | some o => bucketOf s sl w o.key
  | none => 0

/-- The path search of R478: `n` moves are still allowed, `m` counts from 1. The path is kept newest first. -/
def searchPath (s : State) (sl : SliceId) (u : TblUnit) : Nat → Nat → Nat → Nat → List Nat → Option (List Nat × Nat)
  | 0, _, _, _, _ => none
  | n + 1, m, w, bk, path =>
    let ok (i : Nat) : Bool := (slotAt u (slotPos w bk i)).isSome && !path.contains (slotPos w bk i)
    let ends := (List.range 4).filterMap (fun i =>
      if ok i then (emptyIn u (1 - w) (altOf s sl u (1 - w) (slotPos w bk i))).map (fun t => (slotPos w bk i, t)) else none)
    match ends with
    | (p, t) :: _ => some (p :: path, t)
    | [] =>
      match ((List.range 4).map (fun k => (u.victim + m + k) % 4)).find? ok with
      | none => none
      | some i => searchPath s sl u n (m + 1) (1 - w) (altOf s sl u (1 - w) (slotPos w bk i)) (slotPos w bk i :: path)

/-- Where R478 places a key that is in no slot. -/
def placeKey (s : State) (sl : SliceId) (key : List Byte) : Placement :=
  let u := getTbl s sl
  match emptyIn u 0 (bucketOf s sl 0 key) with
  | some p => .direct p
  | none => match emptyIn u 1 (bucketOf s sl 1 key) with
    | some p => .direct p
    | none => match searchPath s sl u 8 1 0 (bucketOf s sl 0 key) [] with
      | some (path, t) => .chain path t
      | none => match ((List.range 64).map (fun i => stashBase + i)).find? (slotFree u) with
        | some p => .stash p
        | none => .full

/-- One move: copy the occupant of `p` to `t`, then count the bucket's version on and clear `p` (R479). -/
def moveSlot (u : TblUnit) (p t : Nat) : TblUnit :=
  let u1 := setSlot (setSlot u t (slotAt u p)) p none
  { u1 with vers := tset (fun _ => 0) u1.vers (p / 4) ((tget (fun _ => 0) u1.vers (p / 4) + 1) % 256) }

/-- The moves of a path, newest (last) first. -/
def movePath (u : TblUnit) : List Nat → Nat → TblUnit
  | [], _ => u
  | p :: path, t => movePath (moveSlot u p t) path p

/-- The first slot of a path. -/
def pathHead (path : List Nat) : Nat := path.getLast?.getD 0

/-- How many moves a placement takes. -/
def Placement.moves : Placement → Nat
  | .chain path _ => path.length
  | _ => 0

/-- Where a placement puts the new entry. -/
def Placement.slot : Placement → Option Nat
  | .direct p => some p
  | .chain path _ => some (pathHead path)
  | .stash p => some p
  | .full => none

/-- The highest stash occupancy is kept (TBL_STASH_MAX). -/
def noteStash (s : State) (sl : SliceId) : State :=
  let n := stashCount (getTbl s sl)
  if fld (rd s (pgTbl sl + Reg.TBL_STASH_MAX)) 6 0 < n then wr s (pgTbl sl + Reg.TBL_STASH_MAX) (w32 n) else s

/-- Carry out a placement for entry e (R478, R479). -/
def execPlace (s : State) (sl : SliceId) (pl : Placement) (e : EmtEntry) : State :=
  let u := getTbl s sl
  let next (u : TblUnit) : TblUnit := { u with victim := (u.victim + 1) % 4 }
  match pl with
  | .direct p => putTbl s sl (setSlot u p (some e))
  | .chain path t =>
    let s1 := putTbl s sl (setSlot (movePath u path t) (pathHead path) (some e))
    let s2 := bumpBy (bumpBy s1 (pgTbl sl + Reg.TBL_RELOC_GEN) path.length) (pgTbl sl + Reg.TBL_RELOC_CNT) path.length
    signal s2 (srcSlice sl 0x12 3) 0 path.length
  | .stash p => setErr (noteStash (putTbl s sl (setSlot (next u) p (some e))) sl) (pgTbl sl) 4
  | .full => putTbl s sl (next u)

/-- The stash slot from which a freed slot is filled (R481): the lowest whose entry has that bucket as a home. -/
def drainFrom (s : State) (sl : SliceId) (p : Nat) : Option Nat :=
  let u := getTbl s sl
  if stashBase ≤ p ∨ !slotFree u p then none
  else
    ((List.range 64).map (fun i => stashBase + i)).find? (fun q => match slotAt u q with
      | some e => bucketOf s sl (p / 131072) e.key == p % 131072 / 4
      | none => false)

/-- A stash entry moves into a freed slot (R481). -/
def drainOne (s : State) (sl : SliceId) (p : Nat) : State :=
  match drainFrom s sl p with
  | none => s
  | some q =>
    let u := getTbl s sl
    let s1 := putTbl s sl (setSlot (setSlot u p (slotAt u q)) q none)
    bump (bump s1 (pgTbl sl + Reg.TBL_RELOC_GEN)) (pgTbl sl + Reg.TBL_DRAIN_CNT)

/-- A slot becomes empty, and a drain is due if a stash entry could take it (R481). -/
def freeSlot (s : State) (sl : SliceId) (p : Nat) : State :=
  let s1 := putTbl s sl (setSlot (getTbl s sl) p none)
  if (drainFrom s1 sl p).isSome then
    let u := getTbl s1 sl
    putTbl s1 sl { u with freed := u.freed ++ [p] }
  else s1

/-! ### Learning (R483 to R487) -/

/-- Does a slice process headers, learn and age (R649, R666)? -/
def sliceWorks (s : State) (sl : SliceId) : Bool := (s.slice sl).role != .out && !(s.slice sl).fenced

/-- A header whose profile sets learn_b, in pass 0 (R483, R484): `fv` is its field vector, `hit` the key-B lookup.
DEDUCED (log entry 75, unsafe). -/
def makeLearn (s : State) (sl : SliceId) (key fv : List Byte) : State :=
  let pg := pgTbl sl
  let mask := fld (rdEff s (pg + Reg.TBL_LEARN_CFG)) 7 0
  let src := leAt fv 0 1
  let enabled := fbit (rd s (pg + Reg.PAGE_CTL)) 0 && nbit mask (if nbit src 3 then 7 else src % 8)
  let hit := emtFind s sl key
  let known : Bool := match hit with
    | none => false
    | some (_, e) => e.fixed || (e.hit && fld e.arg 3 0 == src % 16 && fld e.arg 31 16 == beAt fv 2 2)
  let u := getTbl s sl
  if leAt key 0 1 = 0 ∨ !enabled ∨ known then s
  else if lockOwner s sl ≠ 0 then signal (setErr (bump s (pg + Reg.TBL_LEARN_DROP)) pg 5) (srcSlice sl 0x12 4) 0 1
  else if 1024 ≤ u.learnQ.length then
    signal (setErr (bump s (pg + Reg.TBL_LEARN_DROP)) pg 5) (srcSlice sl 0x12 4) 0 1
  else putTbl s sl { u with
    learnQ := u.learnQ ++ [⟨key, hit.map (·.1), sliceB fv 0 4⟩]
    learnNew := u.learnNew + 1 }

/-- The arg a learn event gives (R485). -/
def learnArg (src : List Byte) : Word := w32 (leAt src 0 2 + 65536 * beAt src 2 2)

/-- The record a learn event gives (R485). -/
def learnRec (s : State) (sl : SliceId) (src : List Byte) : Nat :=
  let c := rdEff s (pgTbl sl + Reg.TBL_LEARN_CFG)
  if nbit (leAt src 0 1) 3 then fld c 31 20 else fld c 19 8

/-- TBL_LIMIT of a source (R487). -/
def learnLimit (s : State) (sl : SliceId) (src : Nat) : Nat :=
  fld (rdEff s (pgTbl sl + (if src < 16 then Reg.TBL_LIMIT_PORT else Reg.TBL_LIMIT_FN))) 18 0

/-- A station move of the entry at p (R486). -/
def stationMove (s : State) (sl : SliceId) (p : Nat) (e : EmtEntry) (src : List Byte) : State :=
  let pg := pgTbl sl
  let now := s.seconds % 256
  let moves := if e.window = now then e.moves + 1 else 1
  let e1 := { e with moves := satAt 63 moves, window := now }
  let put (x : EmtEntry) : State := putTbl s sl (setSlot (getTbl s sl) p (some x))
  if fld (rdEff s (pg + Reg.TBL_DAMP)) 5 0 < moves then
    let s1 := setErr (bump (put { e1 with frozen := true }) (pg + Reg.TBL_FREEZE_CNT)) pg 7
    let s2 := if fbit (rd s1 (pg + Reg.TBL_FREEZE_INFO)) 31 then s1
      else wr s1 (pg + Reg.TBL_FREEZE_INFO) (w32 (p + 2 ^ 31))
    amber s2 0x13
  else
    bump (put { e1 with arg := learnArg src, record := learnRec s sl src, hit := true, learned := true })
      (pg + Reg.TBL_MOVE_CNT)

/-- A learn event judged against the table as it stands (R485). -/
def applyLearn (s : State) (sl : SliceId) (ev : LearnEvent) : State :=
  let pg := pgTbl sl
  let arg := learnArg ev.source
  match emtFind s sl ev.key with
  | some (p, e) =>
    let same := fld e.arg 3 0 == fld arg 3 0 && fld e.arg 31 16 == fld arg 31 16
    if e.fixed then s
    else if same then
      putTbl s sl (setSlot (getTbl s sl) p (some { e with hit := true, arg := putFld e.arg 15 8 (fld arg 15 8) }))
    else if e.frozen then bump s (pg + Reg.TBL_FROZEN_HIT)
    else stationMove s sl p e ev.source
  | none =>
    let src := argSource arg
    if learnLimit s sl src ≤ learnedOf (getTbl s sl) src then setErr (bump s (pg + Reg.TBL_LIMIT_DROP)) pg 6
    else match placeKey s sl ev.key with
    | .full => setErr (bump (execPlace s sl .full ⟨[], 0, 0, false, false, false, false, 0, 0⟩) (pg + Reg.TBL_FULL_CNT)) pg 9
    | pl =>
      bump (execPlace s sl pl ⟨ev.key, arg, learnRec s sl ev.source, false, true, false, true, 0, s.seconds % 256⟩)
        (pg + Reg.TBL_LEARN_CNT)

/-- Is a visit of the ageing pass due (R488)? -/
def ageDue (s : State) (sl : SliceId) : Bool :=
  match (getTbl s sl).ageAt with
  | none => false
  | some at0 =>
    let a := fld (rdEff s (pgTbl sl + Reg.TBL_AGE)) 15 0
    passed s at0 ((getTbl s sl).ageGroup * a * 10 ^ 9 / (65552 * s.T))

/-- LEARN_EVENT_APPLY: the oldest learn event of an earlier tick is applied with one event of learning account 0, after
page commands, drains and ageing visits (R484, R485, R498, R503). -/
def execLearnEventApply (sl : SliceId) (s : State) : Host.Outcome State Fault Refusal :=
  let u := getTbl s sl
  let locked := lockOwner s sl != 0
  match u.learnQ with
  | [] => .next s
  | ev :: rest =>
    if u.learnQ.length ≤ u.learnNew ∨ !sliceWorks s sl ∨ u.job.isSome ∨ learnLeft s sl = 0
        ∨ (!locked ∧ (!u.freed.isEmpty ∨ ageDue s sl)) then .next s
    else
      let s1 := learnUse (putTbl s sl { u with learnQ := rest }) sl 1
      if locked then .next (signal (setErr (bump s1 (pgTbl sl + Reg.TBL_LEARN_DROP)) (pgTbl sl) 5) (srcSlice sl 0x12 4) 0 1)
      else .next (signal (applyLearn s1 sl ev) (srcSlice sl 0x12 2) 0 1)

/-- STASH_DRAIN: a stash entry moves into a freed slot of its home bucket, for two events (R481, R497, R498). -/
def execStashDrain (sl : SliceId) (s : State) : Host.Outcome State Fault Refusal :=
  let u := getTbl s sl
  match u.freed with
  | [] => .next s
  | p :: rest =>
    let s1 := putTbl s sl { u with freed := rest }
    if u.job.isSome ∨ lockOwner s sl ≠ 0 then .next s
    else if (drainFrom s sl p).isNone then .next s1
    else if learnLeft s sl < 2 then .next s
    else .next (learnUse (drainOne s1 sl p) sl 2)

/-! ### Ageing (R488, R489) -/

/-- Ageing of one slot (R489). -/
def ageSlot (sl : SliceId) (s : State) (p : Nat) : State :=
  match slotAt (getTbl s sl) p with
  | none => s
  | some e =>
    if e.fixed ∨ e.frozen then s
    else if e.hit then putTbl s sl (setSlot (getTbl s sl) p (some { e with hit := false }))
    else bump (freeSlot s sl p) (pgTbl sl + Reg.TBL_AGED_CNT)

/-- AGEING_VISIT: the group whose boundary has come is visited, for one event (R488, R489, R498, R503). -/
def execAgeingVisit (sl : SliceId) (s : State) : Host.Outcome State Fault Refusal :=
  let u := getTbl s sl
  if !ageDue s sl ∨ !sliceWorks s sl ∨ u.job.isSome ∨ lockOwner s sl ≠ 0 ∨ !u.freed.isEmpty ∨ learnLeft s sl = 0 then
    .next s
  else
    let s1 := learnUse ((List.range 4).foldl (fun s i => ageSlot sl s (4 * u.ageGroup + i)) s) sl 1
    let u1 := getTbl s1 sl
    .next (putTbl s1 sl (if u.ageGroup + 1 < 65552 then { u1 with ageGroup := u.ageGroup + 1 }
      else { u1 with ageGroup := 0, ageAt := some s.tck.boundaries }))

/-- Ageing at a boundary (R488, R489): a pass starts when ageing is switched on or TBL_AGE changes (`old` is the state
before the boundary), and ends when it is switched off. -/
def ageBoundary (old s : State) (sl : SliceId) : State :=
  let on := fbit (rd s (pgTbl sl + Reg.PAGE_CTL)) 1 && decide (0 < fld (rdEff s (pgTbl sl + Reg.TBL_AGE)) 15 0)
  let u := getTbl s sl
  let changed := rdEff old (pgTbl sl + Reg.TBL_AGE) != rdEff s (pgTbl sl + Reg.TBL_AGE)
  if !on then putTbl s sl { u with ageAt := none, ageGroup := 0 }
  else if u.ageAt.isNone ∨ changed then putTbl s sl { u with ageAt := some s.tck.boundaries, ageGroup := 0 }
  else s

/-! ### The LPM table (R490 to R495) -/

/-- The raw bytes of a row in use (R490). -/
def LpmRow.bytes (r : LpmRow) : List Byte :=
  leBytes 1 (1 + 2 * (r.kind % 4) + 8 * r.v6.toNat) ++ leBytes 1 r.len ++ leBytes 2 r.vrf ++ beBytes 8 r.addr
    ++ leBytes 2 (r.record % 4096) ++ wordBytes r.arg ++ leBytes 2 (r.tag % 8192)

/-- Do the top n bits of two 64-bit values agree? -/
def topBits (n a b : Nat) : Bool := a / 2 ^ (64 - n) == b / 2 ^ (64 - n)

/-- What an LPM lookup finds. -/
structure LpmHit where
  row : Nat
  record : Nat
  arg : Word
  len : Nat
  addr : Nat                 -- 128 bits
deriving DecidableEq, Repr

/-- The match at the head of the rows, if there is one (R492); `i` is its index. -/
def lpmHere (vrf : Nat) (v6 : Bool) (a i : Nat) (r : LpmRow) (next : Option LpmRow) : Option LpmHit :=
  let mine := !r.poison && r.vrf == vrf && r.v6 == v6
  if r.kind = 0 then
    if mine && topBits (Nat.min r.len 64) r.addr (a / 2 ^ 64) then some ⟨i, r.record, r.arg, r.len, r.addr * 2 ^ 64⟩ else none
  else if r.kind = 1 then
    match next with
    | none => none
    | some t =>
      if mine && t.kind == 2 && t.tag == r.tag && !t.poison && r.addr == a / 2 ^ 64
          && topBits (r.len - 64) t.addr (a % 2 ^ 64) then
        some ⟨i, t.record, t.arg, r.len, r.addr * 2 ^ 64 + t.addr⟩
      else none
  else none

/-- An LPM lookup (R492, R493): the lowest-indexed match. -/
def lpmScan (vrf : Nat) (v6 : Bool) (a : Nat) : List LpmRow → Nat → Option LpmHit
  | [], _ => none
  | r :: t, i => match lpmHere vrf v6 a i r t.head? with
    | some h => some h
    | none => lpmScan vrf v6 a t (i + 1)

def lpmLookup (s : State) (sl : SliceId) (vrf : Nat) (v6 : Bool) (a : Nat) : Option LpmHit :=
  lpmScan vrf v6 a (getTbl s sl).lpm 0

/-- An LPM request (R496). -/
structure LpmReq where
  v6 : Bool
  len : Nat
  vrf : Nat
  addr : Nat                 -- 128 bits
  record : Nat
  arg : Word
  bad : Bool                 -- a reserved field, L out of range, or address bits beyond L
deriving DecidableEq, Repr

def lpmReq (b : List Byte) : LpmReq :=
  let v6 := nbit (leAt b 0 1) 0
  let l := leAt b 1 1
  let a := if v6 then beAt b 4 16 else beAt b 4 4 * 2 ^ 96
  let width := if v6 then 128 else 32
  ⟨v6, l, leAt b 2 2, a, leAt b 20 2 % 4096, w32 (leAt b 22 4),
    decide (2 ≤ leAt b 0 1) || decide (width < l) || decide (4096 ≤ leAt b 20 2) || !zeroBytes b 26 40
      || (!v6 && !zeroBytes b 8 20) || decide (a % 2 ^ (128 - l) ≠ 0)⟩

/-- Is the prefix of a request the one at index i (R493)? -/
def samePrefix (q : LpmReq) (r : LpmRow) (next : Option LpmRow) : Bool :=
  r.v6 == q.v6 && r.len == q.len && r.vrf == q.vrf && r.addr == q.addr / 2 ^ 64 && r.kind != 2
    && (r.kind == 0 || (next.map (·.addr)).getD 0 == q.addr % 2 ^ 64)

/-- The index of the prefix of a request. -/
def lpmIndex (q : LpmReq) : List LpmRow → Nat → Option Nat
  | [], _ => none
  | r :: t, i => if samePrefix q r t.head? then some i else lpmIndex q t (i + 1)

/-- The lowest tag no pair holds (R491). -/
def freeTagOf (rows : List LpmRow) : Option Nat :=
  (List.range 8192).find? (fun t => !rows.any (fun r => r.kind != 0 && r.tag == t))

/-- Rows a prefix takes (R491). -/
def rowsOf (v6 : Bool) (l : Nat) : Nat := if v6 && decide (64 < l) then 2 else 1

/-- The rows of a prefix. -/
def lpmRows (q : LpmReq) (tag : Nat) : List LpmRow :=
  if rowsOf q.v6 q.len = 1 then [⟨0, q.v6, q.len, q.vrf, q.addr / 2 ^ 64, q.record, q.arg, 0, false⟩]
  else [⟨1, q.v6, q.len, q.vrf, q.addr / 2 ^ 64, 0, 0, tag, false⟩,
    ⟨2, q.v6, q.len, q.vrf, q.addr % 2 ^ 64, q.record, q.arg, tag, false⟩]

/-- The request form of a prefix with its record and arg (R497). -/
def lpmForm (v6 : Bool) (vrf : Nat) (h : LpmHit) : List Byte :=
  leBytes 1 v6.toNat ++ leBytes 1 h.len ++ leBytes 2 vrf
    ++ (if v6 then beBytes 16 h.addr else beBytes 4 (h.addr / 2 ^ 96) ++ List.replicate 12 0)
    ++ leBytes 2 h.record ++ wordBytes h.arg

/-- The row or pair at an index, as a hit. -/
def hitAt (rows : List LpmRow) (i : Nat) : Option LpmHit :=
  match rows.drop i with
  | [] => none
  | r :: t =>
    if r.kind = 1 then
      match t with
      | x :: _ => some ⟨i, x.record, x.arg, r.len, r.addr * 2 ^ 64 + x.addr⟩
      | [] => none
    else some ⟨i, r.record, r.arg, r.len, r.addr * 2 ^ 64⟩

/-! ### Commands (R496 to R504) -/

/-- The result of a TBL command: the events it costs, its status and outputs, its response and the state it leaves. -/
structure TblDone where
  cost : Nat
  status : Nat
  o0 : Nat
  o1 : Nat
  o2 : Nat
  rsp : List Byte
  st : State

/-- A command that ends without doing anything. -/
def tblRefuse (s : State) (cost status : Nat) : TblDone := ⟨cost, status, 0, 0, 0, [], s⟩

/-- INSERT of entry e (R478, R497, R498).
DEDUCED (log entry 73, unsafe). -/
def tblInsert (s : State) (sl : SliceId) (e : EmtEntry) (replace : Bool) : TblDone :=
  match emtFind s sl e.key with
  | some (p, _) =>
    if !replace then tblRefuse s 2 stWRONG_STATE
    else ⟨2, stOK, p, 0, 2, [], putTbl s sl (setSlot (getTbl s sl) p (some e))⟩
  | none =>
    let pl := placeKey s sl e.key
    match pl.slot with
    | none => ⟨2, stTABLE_FULL, 0, 0, 0, [], execPlace s sl pl e⟩
    | some p => ⟨2 + 2 * pl.moves, stOK, p, pl.moves, (decide (stashBase ≤ p)).toNat, [], execPlace s sl pl e⟩

/-- DELETE of a key, with the drain it causes unless a bulk lock holds drains (R481, R497, R503). -/
def tblDelete (s : State) (sl : SliceId) (key : List Byte) : TblDone :=
  match emtFind s sl key with
  | none => tblRefuse s 2 stNOT_FOUND
  | some (p, _) =>
    let u := getTbl s sl
    let s1 := putTbl s sl (setSlot u p none)
    if lockOwner s sl ≠ 0 then ⟨2, stOK, p, 0, 0, [], freeSlot s sl p⟩
    else if (drainFrom s1 sl p).isSome then ⟨4, stOK, p, 0, 0, [], drainOne s1 sl p⟩
    else ⟨2, stOK, p, 0, 0, [], s1⟩

/-- The entry of an INSERT request or bulk record: key, arg, then record and flags. -/
def newEntry (key : List Byte) (arg flags : Nat) : EmtEntry :=
  ⟨key, w32 arg, flags % 4096, nbit flags 12, false, false, false, 0, 0⟩

/-- INSERT's arguments are refused: a key of type 0, or learned, frozen or hit set (R473, R497).
DEDUCED (log entry 73, unsafe). -/
def badEntry (key : List Byte) (flags : Nat) : Bool := leAt key 0 1 == 0 || decide (8192 ≤ flags)

/-- Does NEXT report an entry (R497)? -/
def nextMatches (a1 : Word) (e : EmtEntry) : Bool :=
  (!fbit a1 8 || leAt e.key 0 1 == fld a1 7 0) && (!fbit a1 9 || e.fixed) && (!fbit a1 10 || !e.fixed)
    && (!fbit a1 11 || e.frozen)

/-- NEXT (R497): the lowest position from `from_` that it reports, and whether that slot is poisoned. -/
def tblNext (s : State) (sl : SliceId) (a0 a1 : Word) : TblDone :=
  let u := getTbl s sl
  let p0 := fld a0 18 0
  let hits := (u.emt.filter (fun e => decide (p0 ≤ e.1) && (e.2.map (nextMatches a1)).getD false)).map (·.1)
  let bad := if fbit a1 12 then u.poison.filter (fun p => decide (p0 ≤ p)) else []
  let groups (p : Nat) : Nat := p / 4 - p0 / 4 + 1
  if emtSlots ≤ p0 then tblRefuse s 0 stBAD_ARG
  else match (hits ++ bad).foldr insKey [] with
  | [] => tblRefuse s (groups (emtSlots - 1)) stNOT_FOUND
  | p :: _ => match slotAt u p with
    | some e =>
      ⟨groups p, stOK, p + 2 ^ 24 * versionOf u p, (rd s (pgTbl sl + Reg.TBL_RELOC_GEN)).toNat, 0, e.bytes, s⟩
    | none => ⟨groups p, stPOISONED, p, 0, 0, [], s⟩

/-- Does FLUSH remove an entry (R497)? -/
def flushMatches (a0 a1 : Word) (e : EmtEntry) : Bool :=
  (if e.fixed then fbit a0 1 else fbit a0 0) && (!fbit a0 2 || e.frozen) && (!fbit a0 3 || leAt e.key 0 1 == fld a0 15 8)
    && (!fbit a0 4 || (fld e.arg 3 0 == fld a1 3 0 && fld e.arg 26 16 == fld a1 26 16))

/-- FLUSH (R497, R505). -/
def tblFlush (s : State) (sl : SliceId) (a0 a1 : Word) : TblDone :=
  let u := getTbl s sl
  let gone := (u.emt.filter (fun e => (e.2.map (flushMatches a0 a1)).getD false)).map (·.1)
  let bad := if fbit a0 5 then u.poison else []
  ⟨65552 + 2 * gone.length, stOK, gone.length, 0, 0, [], (gone ++ bad).foldl (fun s p => freeSlot s sl p) s⟩

/-- DIGEST (R502). -/
def tblDigest (s : State) (sl : SliceId) (a0 : Word) : TblDone :=
  let u := getTbl s sl
  let es := u.emt.filterMap (fun x => x.2.bind (fun e => if (if e.fixed then fbit a0 0 else fbit a0 1) then some e else none))
  let rows := if fbit a0 2 then u.lpm.filter (fun r => !r.poison) else []
  let one (e : EmtEntry) : Nat := crc32c ((EmtEntry.bytes { e with learned := false, frozen := false, hit := false }).take 38)
  let d1 := es.foldl (fun a e => a ^^^ one e) 0
  let d2 := rows.foldl (fun a r => a ^^^ crc32c (r.bytes.take 18)) d1
  ⟨(if fbit a0 0 || fbit a0 1 then 65552 else 0) + (if fbit a0 2 then 4096 else 0), stOK, es.length + rows.length, d2, 0,
    [], s⟩

/-- LPM_INSERT (R494, R497). -/
def tblLpmInsert (s : State) (sl : SliceId) (q : LpmReq) (replace : Bool) : TblDone :=
  let u := getTbl s sl
  if q.bad then tblRefuse s 0 stBAD_ARG
  else match lpmIndex q u.lpm 0 with
  | some i =>
    if !replace then tblRefuse s 3 stWRONG_STATE
    else
      let k := rowsOf q.v6 q.len
      let tag := ((u.lpm.drop i).head?.map (·.tag)).getD 0
      ⟨3, stOK, i, 0, 0, [], putTbl s sl { u with lpm := u.lpm.take i ++ lpmRows q tag ++ u.lpm.drop (i + k) }⟩
  | none =>
    let k := rowsOf q.v6 q.len
    let p := (firstIdx (fun r => decide (r.len < q.len)) u.lpm 0).getD u.lpm.length
    match (if k = 1 then some 0 else freeTagOf u.lpm) with
    | none => tblRefuse s 3 stTABLE_FULL
    | some tag =>
      if 16384 < u.lpm.length + k then tblRefuse s 3 stTABLE_FULL
      else ⟨u.lpm.length - p + 3, stOK, p, u.lpm.length - p, 0, [],
        putTbl s sl { u with lpm := u.lpm.take p ++ lpmRows q tag ++ u.lpm.drop p }⟩

/-- LPM_DELETE (R494, R497). -/
def tblLpmDelete (s : State) (sl : SliceId) (q : LpmReq) : TblDone :=
  let u := getTbl s sl
  match (if q.bad then none else lpmIndex q u.lpm 0) with
  | none => tblRefuse s 3 stNOT_FOUND
  | some i =>
    let k := rowsOf q.v6 q.len
    ⟨u.lpm.length - k - i + 3, stOK, i, 0, 0, [], putTbl s sl { u with lpm := u.lpm.take i ++ u.lpm.drop (i + k) }⟩

/-- The DRAM address of a bulk command (R499). -/
def bulkAddr (a0 a1 : Word) : Nat := a0.toNat + 2 ^ 32 * fld a1 5 0

/-- Are the arguments of a bulk command in range (R499)? -/
def bulkArgs (s : State) (a0 a1 a2 : Word) : Bool :=
  let n := fld a2 18 0
  bulkAddr a0 a1 % 64 == 0 && decide (1 ≤ n ∧ n ≤ 262208) && dramRange s (bulkAddr a0 a1) (64 * n)

/-- A bulk record fails the check pass (R499, R501). -/
def badRecordOf (b : List Byte) : Bool :=
  let op := leAt b 0 1
  !(decide (1 ≤ op ∧ op ≤ 3)) || decide (8192 ≤ leAt b 44 2) || !zeroBytes b 46 64

/-- The records of a bulk load, read once each from DRAM under account 3: bytes, and whether one is poisoned. -/
def bulkRead : Nat → State → Nat → State × List (List Byte × Bool)
  | 0, s, _ => (s, [])
  | n + 1, s, a =>
    let r := dramRead 3 2 s a 64
    let t := bulkRead n r.1 (a + 64)
    (t.1, (r.2.map (·.1), r.2.any (·.2)) :: t.2)

/-- The running result of the apply pass: events, applied, failed, first failure (index, status), state. -/
structure BulkSum where
  cost : Nat
  done : Nat
  failed : Nat
  first : Nat
  st : State

/-- One record of the apply pass (R499). -/
def bulkApply (sl : SliceId) (r : BulkSum) (x : Nat × List Byte) : BulkSum :=
  let key := sliceB x.2 8 32
  let op := leAt x.2 0 1
  let d := if op = 2 then tblDelete r.st sl key
    else if badEntry key (leAt x.2 44 2) then tblRefuse r.st 0 stBAD_ARG
    else tblInsert r.st sl (newEntry key (leAt x.2 40 4) (leAt x.2 44 2)) (op == 3)
  if d.status = stOK then ⟨r.cost + d.cost, r.done + 1, r.failed, r.first, d.st⟩
  else ⟨r.cost + d.cost, r.done, r.failed + 1,
    if r.failed = 0 then x.1 + 2 ^ 24 * d.status else r.first, d.st⟩

/-- BULK_LOAD (R499). -/
def tblBulkLoad (s : State) (sl : SliceId) (a0 a1 a2 : Word) : TblDone :=
  let n := fld a2 18 0
  if !bulkArgs s a0 a1 a2 then tblRefuse s 0 stBAD_ARG
  else
    let r := bulkRead n s (bulkAddr a0 a1)
    match firstIdx (fun x => x.2 || badRecordOf x.1) r.2 0 with
    | some i => ⟨i + 1, if ((r.2.getD i ([], false)).2) then stPOISONED else stBAD_ARG, i, 0, 0, [], r.1⟩
    | none =>
      let r2 := bulkRead n r.1 (bulkAddr a0 a1)
      let b := ((List.range n).zip (r2.2.map (·.1))).foldl (bulkApply sl) ⟨0, 0, 0, 0, r2.1⟩
      ⟨2 * n + b.cost, stOK, b.done, b.failed, b.first, [], b.st⟩

/-- The record BULK_DUMP writes for an entry (R501). -/
def dumpRecord (u : TblUnit) (p : Nat) (e : EmtEntry) : List Byte :=
  leBytes 1 1 ++ leBytes 1 (e.learned.toNat + 2 * e.frozen.toNat + 4 * e.hit.toNat) ++ leBytes 1 (e.moves % 64)
    ++ leBytes 1 e.window ++ leBytes 4 (p + 2 ^ 24 * versionOf u p) ++ sliceB e.key 0 32 ++ wordBytes e.arg
    ++ leBytes 2 (e.record % 4096 + 4096 * e.fixed.toNat) ++ List.replicate 18 0

/-- BULK_DUMP (R500); a slice that has lost the active role writes nothing any more (R52). -/
def tblBulkDump (s : State) (sl : SliceId) (a0 a1 a2 : Word) : TblDone :=
  let u := getTbl s sl
  let n := fld a2 18 0
  let gen := (rd s (pgTbl sl + Reg.TBL_RELOC_GEN)).toNat
  if !bulkArgs s a0 a1 a2 then tblRefuse s 0 stBAD_ARG
  else if s.red.accepted != some sl then ⟨65552, stOK, 0, gen, 2 ^ 31, [], s⟩
  else
    let es := u.emt.filterMap (fun x => x.2.map (fun e => (x.1, e)))
    let out := es.take n
    let cut := decide (n ≤ es.length)
    let stop := if cut then (out.getLast?.map (·.1)).getD 0 else emtSlots - 1
    let s1 := (List.range out.length).foldl (fun s k => match out[k]? with
      | some (p, e) => dramWrite 3 2 s (bulkAddr a0 a1 + 64 * k) ((dumpRecord u p e).map (fun b => (some b, false)))
      | none => s) s
    ⟨stop / 4 + 1, stOK, out.length, gen,
      (u.poison.filter (fun p => decide (p ≤ stop))).length + 2 ^ 31 * cut.toNat, [], s1⟩

/-- Is the source number of SRC_COUNT one of R497? -/
def sourceKnown (n : Nat) : Bool := decide (n < 7 ∨ (16 ≤ n ∧ n < 16 + 1026))

/-- What a TBL command does, and its events (R497). -/
def tblRun (s : State) (sl : SliceId) (code : Nat) (a0 a1 a2 : Word) (req : List Byte) : TblDone :=
  let u := getTbl s sl
  let key := sliceB req 0 32
  let q := lpmReq req
  if code = 1 then match emtFind s sl key with
    | some (p, e) =>
      ⟨1, stOK, p + 2 ^ 24 * versionOf u p, (rd s (pgTbl sl + Reg.TBL_RELOC_GEN)).toNat, 0, e.bytes, s⟩
    | none => tblRefuse s 1 stNOT_FOUND
  else if code = 2 then tblNext s sl a0 a1
  else if code = 3 then
    if badEntry key (leAt req 36 2) then tblRefuse s 0 stBAD_ARG
    else tblInsert s sl (newEntry key (leAt req 32 4) (leAt req 36 2)) (fbit a0 0)
  else if code = 4 then tblDelete s sl key
  else if code = 5 then tblFlush s sl a0 a1
  else if code = 6 then tblDigest s sl a0
  else if code = 7 then
    if sourceKnown (fld a0 11 0) then ⟨1, stOK, learnedOf u (fld a0 11 0), 0, 0, [], s⟩ else tblRefuse s 0 stBAD_ARG
  else if code = 0x10 then tblLpmInsert s sl q (fbit a0 0)
  else if code = 0x11 then tblLpmDelete s sl q
  else if code = 0x12 then match (if q.bad then none else (lpmIndex q u.lpm 0).bind (hitAt u.lpm)) with
    | some h => ⟨1, stOK, h.row, 0, 0, lpmForm q.v6 q.vrf h, s⟩
    | none => tblRefuse s 1 stNOT_FOUND
  else if code = 0x13 then match lpmLookup s sl q.vrf q.v6 q.addr with
    | some h => ⟨1, stOK, h.row, 0, 0, lpmForm q.v6 q.vrf h, s⟩
    | none => tblRefuse s 1 stNOT_FOUND
  else if code = 0x14 then match u.lpm[fld a0 13 0]? with
    | some r => ⟨1, stOK, 0, 0, 0, r.bytes, s⟩
    | none => tblRefuse s 0 stBAD_ARG
  else if code = 0x20 then tblBulkLoad s sl a0 a1 a2
  else tblBulkDump s sl a0 a1 a2

/-- The running command of a slice's table unit uses what learning credits there are; when its events are done it
completes (R482, R497, R498).
DEDUCED (log entry 72, unsafe). -/
def tblServe (s : State) (sl : SliceId) : State :=
  let u := getTbl s sl
  match u.job, runningOn s (pgTbl sl) with
  | some j, some c =>
    let n := Nat.min j.owed (learnLeft s sl)
    let s1 := learnUse s sl n
    if n < j.owed then putTbl s1 sl { u with job := some { j with owed := j.owed - n } }
    else
      let d := tblRun (putTbl s1 sl { u with job := none }) sl c.code c.a0 c.a1 c.a2 j.req
      let s2 := finishCmd d.st (pgTbl sl) d.status (w32 d.o0) (w32 d.o1) (w32 d.o2)
      if d.rsp.isEmpty then s2 else wrMany s2 (pgTbl sl + Reg.TBL_RSP) (bytesWords 10 d.rsp)
  | _, _ => s

/-- Why a command does not run at all (R498, R500, R503), none if it does. -/
def tblBarred (s : State) (sl : SliceId) (c : RunCmd) : Option Nat :=
  let own := lockOwner s sl
  let mine := decide (own = ownerCode c.via)
  let grants := (planInForce s).any (fun e => e.key == acct 6 0 && decide (0 < e.work))
  let changes := c.code == 3 || c.code == 4 || c.code == 5 || c.code == 0x10 || c.code == 0x11
  let bulk := c.code == 0x20 || c.code == 0x21
  if !grants then some stWRONG_STATE
  else if changes && own != 0 && !mine then some stLOCKED
  else if bulk && own == 0 then some stWRONG_STATE
  else if bulk && !mine then some stLOCKED
  else if c.code == 0x21 && s.red.accepted != some sl then some stWRONG_STATE
  else none

/-- The TBL commands (R497): on acceptance TBL_REQ is copied and the events begin (R496, R498).
DEDUCED (log entry 72, unsafe). -/
def specTbl (sl : SliceId) : CmdSpec where
  role := Master.isGlobal
  phases := notRecovery
  body c s := match tblBarred s sl c with
    | some st => endCmd s (pgTbl sl) st
    | none =>
      let req := (List.range 10).flatMap (fun k => wordBytes (rd s (pgTbl sl + Reg.TBL_REQ + 4 * k)))
      let d := tblRun s sl c.code c.a0 c.a1 c.a2 req
      tblServe (putTbl s sl { getTbl s sl with job := some ⟨d.cost, req⟩ }) sl

def execSearch (sl : SliceId) (via : Master) (seq : Byte) (s : State) : Host.Outcome State Fault Refusal :=
  .next (commandRow (specTbl sl) (pgTbl sl) 1 via seq 0 0 0 s)

def execTblNext (sl : SliceId) (via : Master) (seq : Byte) (a0 a1 : Word) (s : State) : Host.Outcome State Fault Refusal :=
  .next (commandRow (specTbl sl) (pgTbl sl) 2 via seq a0 a1 0 s)

def execInsert (sl : SliceId) (via : Master) (seq : Byte) (a0 : Word) (s : State) : Host.Outcome State Fault Refusal :=
  .next (commandRow (specTbl sl) (pgTbl sl) 3 via seq a0 0 0 s)

def execDelete (sl : SliceId) (via : Master) (seq : Byte) (s : State) : Host.Outcome State Fault Refusal :=
  .next (commandRow (specTbl sl) (pgTbl sl) 4 via seq 0 0 0 s)

def execFlush (sl : SliceId) (via : Master) (seq : Byte) (a0 a1 : Word) (s : State) : Host.Outcome State Fault Refusal :=
  .next (commandRow (specTbl sl) (pgTbl sl) 5 via seq a0 a1 0 s)

def execDigest (sl : SliceId) (via : Master) (seq : Byte) (a0 : Word) (s : State) : Host.Outcome State Fault Refusal :=
  .next (commandRow (specTbl sl) (pgTbl sl) 6 via seq a0 0 0 s)

def execSrcCount (sl : SliceId) (via : Master) (seq : Byte) (a0 : Word) (s : State) : Host.Outcome State Fault Refusal :=
  .next (commandRow (specTbl sl) (pgTbl sl) 7 via seq a0 0 0 s)

def execLpmInsert (sl : SliceId) (via : Master) (seq : Byte) (a0 : Word) (s : State) : Host.Outcome State Fault Refusal :=
  .next (commandRow (specTbl sl) (pgTbl sl) 0x10 via seq a0 0 0 s)

def execLpmDelete (sl : SliceId) (via : Master) (seq : Byte) (s : State) : Host.Outcome State Fault Refusal :=
  .next (commandRow (specTbl sl) (pgTbl sl) 0x11 via seq 0 0 0 s)

def execLpmSearch (sl : SliceId) (via : Master) (seq : Byte) (s : State) : Host.Outcome State Fault Refusal :=
  .next (commandRow (specTbl sl) (pgTbl sl) 0x12 via seq 0 0 0 s)

def execLpmLookup (sl : SliceId) (via : Master) (seq : Byte) (s : State) : Host.Outcome State Fault Refusal :=
  .next (commandRow (specTbl sl) (pgTbl sl) 0x13 via seq 0 0 0 s)

def execLpmRead (sl : SliceId) (via : Master) (seq : Byte) (a0 : Word) (s : State) : Host.Outcome State Fault Refusal :=
  .next (commandRow (specTbl sl) (pgTbl sl) 0x14 via seq a0 0 0 s)

def execBulkLoad (sl : SliceId) (via : Master) (seq : Byte) (a0 a1 a2 : Word) (s : State) :
    Host.Outcome State Fault Refusal :=
  .next (commandRow (specTbl sl) (pgTbl sl) 0x20 via seq a0 a1 a2 s)

def execBulkDump (sl : SliceId) (via : Master) (seq : Byte) (a0 a1 a2 : Word) (s : State) :
    Host.Outcome State Fault Refusal :=
  .next (commandRow (specTbl sl) (pgTbl sl) 0x21 via seq a0 a1 a2 s)

/-! ### Poison and repair (R505, R627) -/

/-- A slot or row found with an uncorrectable error (R505). -/
def poisonFound (s : State) (sl : SliceId) : State :=
  setErr (bump s (pgTbl sl + Reg.TBL_POISON_CNT)) (pgTbl sl) 8

/-- A slot becomes poisoned and its entry is lost (R505).
DEDUCED (log entry 75, unsafe). -/
def poisonSlot (s : State) (sl : SliceId) (p : Nat) : State :=
  let u := getTbl s sl
  if u.poison.contains p then s
  else
    let u1 := setSlot u p none
    poisonFound (putTbl s sl { u1 with poison := insKey p u1.poison }) sl

/-- A row becomes poisoned (R505). -/
def poisonRow (s : State) (sl : SliceId) (i : Nat) : State :=
  let u := getTbl s sl
  match u.lpm[i]? with
  | none => s
  | some r => if r.poison then s else poisonFound (putTbl s sl { u with lpm := u.lpm.set i { r with poison := true } }) sl

/-- LPM_ROW_REPAIR: a row whose parity failed is rewritten from its corrected copy and logged as correctable; only when
the copy is itself uncorrectable does it become poisoned (R627, R636).
DESIGN CHOICE (log entry 74, safe). -/
def execLpmRowRepair (sl : SliceId) (row : Fin 16384) (copyBad : Bool) (s : State) : Host.Outcome State Fault Refusal :=
  let synd := Config.freeNat s.free % 256
  let s1 := tickFree s
  if copyBad then .next (countUe (poisonRow (reportUe s1 7 (0x40 + sl.num) (3 * row.val) 0xFF synd) sl row.val) sl 0)
  else .next (reportCe s1 false 7 (0x40 + sl.num) (3 * row.val) 0xFF synd)

/-! ### Registers -/

/-- TBL_SEED written: only while the table is empty (R475). -/
def seedWrite (s : State) (sl : SliceId) (off : Nat) (w : Word) : State :=
  if (getTbl s sl).emt.isEmpty then wr s (pgTbl sl + off) w else setErr s (pgTbl sl) 3

/-- A slice reset discards the learn queue and releases the bulk lock; a command that ran has ended (R504, R665). -/
def tblDiscard (s : State) (sl : SliceId) : State :=
  wr (putTbl s sl { getTbl s sl with learnQ := [], learnNew := 0, job := none }) (pgTbl sl + Reg.TBL_BULK_LOCK) 0

/-- TBL page of a slice (R508). -/
def viewTbl (s : State) (sl : SliceId) (off : Nat) : Option Word :=
  let u := getTbl s sl
  let own := lockOwner s sl
  if off = Reg.PAGE_STAT then
    some (flagAt (own != 0) 0 ||| w32 (2 * own + 8 * stashCount u + 1024 * u.learnQ.length))
  else if off = Reg.TBL_EMT_COUNT then some (w32 u.emt.length)
  else if off = Reg.TBL_LEARNED_COUNT then some (w32 (learnedCount u))
  else if off = Reg.TBL_LPM_COUNT then some (w32 u.lpm.length)
  else if off = Reg.TBL_VICTIM then some (w32 u.victim)
  else none

end Sys2Proof.Machine
end

