-- ==== Sys2Proof/Machine/Cipher.lean ====
section
/-! DEFINITION. Associations, key derivation, the derived-key caches, decryption with verify-before-release, and
encryption (chapter 15). -/
namespace Sys2Proof.Machine

/-- The CIP page of a slice. -/
abbrev pgCip (sl : SliceId) : Nat := pgSlice sl 3

/-! ### Associations (R544 to R547) -/

/-- Where association a of page t lies. -/
def saBase (t a : Nat) : Nat := pgTenCip t + 0x800 + 64 * a

/-- The 64 bytes of an association as in force since the last boundary. -/
def saBytes (s : State) (t a : Nat) : List Byte := winBytes s (saBase t a) 64

/-- The 64 bytes of an association as written. -/
def saWritten (s : State) (t a : Nat) : List Byte :=
  (List.range 16).flatMap (fun k => wordBytes (rd s (saBase t a + 4 * k)))

/-- Fields of an association (R545). -/
def saOut (b : List Byte) : Bool := nbit (leAt b 0 1) 1
def saProto (b : List Byte) : Nat := leAt b 0 1 / 4 % 4
def saKey256 (b : List Byte) : Bool := nbit (leAt b 0 1) 4
def saExt (b : List Byte) : Bool := nbit (leAt b 0 1) 5
def saConf (b : List Byte) : Bool := nbit (leAt b 0 1) 6
def saLayer (b : List Byte) : Nat := leAt b 1 1 % 8
def saTunnel (b : List Byte) : Bool := nbit (leAt b 1 1) 3
def saAn (b : List Byte) : Nat := leAt b 1 1 / 16 % 4
def saSc (b : List Byte) : Bool := nbit (leAt b 1 1) 6
def saOff (b : List Byte) : Nat := leAt b 2 1
def saSlot (b : List Byte) : Nat := leAt b 3 1 % 16
def saSci (b : List Byte) : List Byte := sliceB b 16 8
def saSpi (b : List Byte) : List Byte := sliceB b 24 4
def saSalt (b : List Byte) : List Byte := sliceB b 28 12
def saWindow (b : List Byte) : Nat := leAt b 48 2

/-- Is an association valid for frames of this tick (R547)? -/
def saValid (s : State) (t a : Nat) : Bool := decide (a < 32 ∧ t < 1024) && fbit (rdEff s (saBase t a)) 0

/-- The packet number a valid association keeps (R545), and its update. -/
def saPn (s : State) (t a : Nat) : Nat := (rd s (saBase t a + 40)).toNat + 2 ^ 32 * (rd s (saBase t a + 44)).toNat
def putPn (s : State) (t a pn : Nat) : State := wr (wr s (saBase t a + 40) (lo32 pn)) (saBase t a + 44) (hi32 pn)

/-- What is wrong with an association that is to become valid (R546). -/
def saCheck (s : State) (t : Nat) (b : List Byte) : Option Nat :=
  let p := saProto b
  let pn := leAt b 40 8
  if leAt b 0 1 ≥ 128 ∨ nbit (leAt b 1 1) 7 ∨ 16 ≤ leAt b 3 1 ∨ p = 3 ∨ !zeroBytes b 50 52 ∨ !zeroBytes b 60 64
      ∨ (p ≠ 0 ∧ !zeroBytes b 16 24) ∨ ((p = 2 ∨ (p = 0 ∧ !saExt b)) ∧ !zeroBytes b 24 28)
      ∨ ((p = 2 ∨ (p = 0 ∧ !saExt b)) ∧ !zeroBytes b 28 40) ∨ (p = 1 ∧ !zeroBytes b 32 40)
      ∨ (saOut b ∧ saWindow b ≠ 0) ∨ 2048 ≤ saWindow b then some 1
  else if p ≠ 0 ∧ !saConf b then some 2
  else if !fbit (rd s (pgTenCip t + Reg.CP_SLOTS)) (saSlot b) then some 3
  else if 1024 < saWindow b then some 4
  else if pn = 0 ∨ (!saExt b ∧ 0xFFFFFFFF < pn) then some 5
  else if p = 0 ∧ !saExt b ∧ !saSc b ∧ saOut b ∧ zeroBytes b 16 24 then some 6
  else none

/-- A bit of CP_ERR. -/
def setCpErr (s : State) (t bit : Nat) : State :=
  wr s (pgTenCip t + Reg.CP_ERR) (rd s (pgTenCip t + Reg.CP_ERR) ||| w32 (2 ^ bit))

/-- An association changes its validity at the next boundary. -/
def saChanges (s : State) (t a : Nat) : State :=
  { s with cip := { s.cip with changed := insKey (32 * t + a) (s.cip.changed.filter (fun x => x != 32 * t + a)) } }

/-- A word written to an association (R545 to R547).
DEDUCED (log entry 77, unsafe). -/
def saWrite (s : State) (t a k : Nat) (w : Word) : State :=
  let base := saBase t a
  let w0 := rd s base
  if fbit w0 0 then
    if k = 0 ∧ !fbit w 0 then saChanges (wr s base (putBit w0 0 false)) t a
    else setCpErr s t 2
  else if k = 0 ∧ fbit w 0 then
    let s1 := wr s base w
    match saCheck s1 t (saWritten s1 t a) with
    | none => saChanges s1 t a
    | some r =>
      let s2 := setCpErr (wr s base (putBit w 0 false)) t 1
      if fbit (rd s2 (pgTenCip t + Reg.CP_SA_ERR)) 31 then s2
      else wr s2 (pgTenCip t + Reg.CP_SA_ERR) (w32 (a + 256 * r + 2 ^ 31))
  else wr s (base + 4 * k) w

/-! ### Derived keys (R551 to R557) -/

/-- The key of an association's entry in a slice's cache; empty when invalid. -/
def cacheKey (sl : SliceId) (e : Nat) : Nat := 32768 * sl.num + e
def cached (s : State) (sl : SliceId) (e : Nat) : List Byte := tget (fun _ => ([] : List Byte)) s.cip.cache (cacheKey sl e)
def putCache (s : State) (sl : SliceId) (e : Nat) (key : List Byte) : State :=
  { s with cip := { s.cip with cache := tset (fun _ => ([] : List Byte)) s.cip.cache (cacheKey sl e) key } }

/-- Cache entries are invalidated: those of a slice and association for which p holds (R554). -/
def dropKeys (s : State) (p : SliceId → Nat → Bool) : State :=
  { s with cip := { s.cip with
    cache := tdrop (fun k => p (if k < 32768 then .ochre else .slate) (k % 32768)) s.cip.cache } }

/-- Every entry derived from a root slot is invalidated in both slices (R690). -/
def dropSlotKeys (s : State) (slot : Nat) : State :=
  dropKeys s (fun _ e => saSlot (saBytes s (e / 32) (e % 32)) == slot)

/-- The bytes of a root key and its integrity value (R683). -/
def keyBytes (k : BitVec 256) : List Byte := beBytes 32 k.toNat
def keyCheck (h : KeyHalf) : Word := w32 (crc32c (keyBytes h.key ++ [h.attr] ++ wordBytes h.label))

/-- The half of a slot that its selector names. -/
def KeySlot.half (x : KeySlot) : Option KeyHalf :=
  match x.sel with
  | none => none
  | some false => x.half0
  | some true => x.half1

/-- The content of a root slot, with the integrity check of R685. -/
def slotKey (s : State) (k : Nat) : State × Option KeyHalf :=
  match (getSlot s k).half with
  | none => (s, none)
  | some h =>
    if keyCheck h = h.check then (s, some h)
    else
      let s1 := setErr (bump (dropSlotKeys (eraseSlot s k) k) (pgCus + Reg.CUS_INTEGRITY_CNT)) pgCus 4
      (raise s1 7, none)

/-- The KDF input (R552). -/
def kdfInput (i t : Nat) (b : List Byte) : List Byte :=
  beBytes 4 i ++ [0x54, 0x47, 0x4B, 0x2D, 0x4B, 0x45, 0x59] ++ leBytes 1 (saProto b + 1) ++ [0] ++ beBytes 2 t
    ++ leBytes 1 (saSlot b) ++ leBytes 1 ((saKey256 b).toNat + 2 * (saExt b).toNat) ++ beBytes 8 (leAt b 4 8)
    ++ beBytes 4 (leAt b 12 4) ++ beBytes 4 (if saKey256 b then 256 else 128)

/-- The traffic key of an association of page t under a root key (R551). -/
def kdf (root : List Byte) (t : Nat) (b : List Byte) : List Byte :=
  cmac root (kdfInput 1 t b) ++ (if saKey256 b then cmac root (kdfInput 2 t b) else [])

/-- A derivation for a valid association (R553): none where it fails. -/
def deriveKey (s : State) (e : Nat) : State × Option (List Byte) :=
  let t := e / 32
  let b := saBytes s t (e % 32)
  if !saValid s t (e % 32) || !fbit (rd s (pgTenCip t + Reg.CP_SLOTS)) (saSlot b) then (s, none)
  else
    let r := slotKey s (saSlot b)
    (r.1, r.2.map (fun h => kdf (keyBytes h.key) t b))

/-- The cipher account of an association's frames (R557). -/
def cipAccount (sa : SaRef) : Nat := if sa.esp then 1 else 0

/-- A derivation joins a slice's key unit queue unless it is there or the queue is full (R555). -/
def queueKey (s : State) (sl : SliceId) (e a : Nat) : State :=
  if s.cip.keyQ.any (fun k => k.slice == sl && k.entry == e)
      || decide (256 ≤ (s.cip.keyQ.filter (fun k => k.slice == sl)).length) then s
  else { s with cip := { s.cip with keyQ := s.cip.keyQ ++ [⟨sl, e, a⟩] } }

/-- A DECRYPT or ENCRYPT op whose entry is invalid (R555). -/
def needKey (s : State) (sl : SliceId) (sa : SaRef) : State :=
  let e := 32 * sa.tenant + sa.sa
  if !saValid s sa.tenant sa.sa || !(cached s sl e).isEmpty then s
  else queueKey (signal (bump s (pgCip sl + Reg.CIP_KEY_MISS)) (srcSlice sl 0x14 2) 0 1) sl e (cipAccount sa)

/-! ### Outcomes (R576) -/

/-- The PAGE_ERR bit of an outcome. -/
def outcomeBit (k : Nat) : Option Nat :=
  [none, none, some 10, some 5, some 4, some 5, some 5, some 2, some 3, some 9, some 7, some 6].getD k none

/-- Outcome k of a frame under an association. -/
def cipOutcome (s : State) (sa : SaRef) (k : Nat) : State :=
  let pg := pgCip s.worker
  let s1 := signal (bump s (pg + Reg.CIP_CNT + 4 * k)) (srcSlice s.worker 0x14 1) k 1
  let s2 := match outcomeBit k with
    | none => s1
    | some b => setErr s1 pg b
  if 31 < sa.sa then s2
  else
    let s3 := bump s2 (pgTenCip sa.tenant + Reg.CP_CNT + 4 * k)
    if !saValid s sa.tenant sa.sa then s3
    else bump s3 (saBase sa.tenant sa.sa + (if k < 2 then 52 else 56))

/-! ### Dropping frames of the pipeline and after it -/

/-- The TX entry behind a frame ends, if the frame has one still in the pipeline (R294). -/
def endTx (s : State) (id status : Nat) (ready : Bool) : State :=
  match getFrame s id with
  | none => s
  | some f => match f.entry with
    | none => s
    | some e => endItem s e.1 e.2 { report s status f.data.length with ready := ready }

/-- A frame itself is dropped: its TX entry finishes (R294) and its cells are released when no copy uses them. -/
def dropFrame (s : State) (id : Nat) : State := dropRef (endTx s id stOK true) id

/-- A descriptor is dropped. -/
def dropDesc (s : State) (d : Desc) : State := if d.orig then dropFrame s d.view.frame else dropRef s d.view.frame

/-- An exception (R453) counts in a slice: e, the state at it, the record. -/
def noteExc (s : State) (sl : SliceId) (e st record : Nat) : State :=
  let pg := pgSlice sl 0
  let s1 := setErr (bump s (pg + Reg.PIP_EXC_CNT + 4 * e)) pg (if e < 3 then 2 else 3)
  let s2 := if fbit (rd s1 (pg + Reg.PIP_LAST_EXC)) 31 then s1
    else wr s1 (pg + Reg.PIP_LAST_EXC) (w32 (e + 16 * st + 1024 * (if e < 3 then 0 else record) + 2 ^ 31))
  signal s2 (srcSlice sl 0x11 3) e 1

/-! ### Inbound units (R558 to R563) -/

/-- An inbound unit: what GCM needs, the packet number, the secure text's place and the header of the protection. -/
structure InUnit where
  nonce : List Byte
  aad : List Byte
  text : List Byte
  tag : List Byte
  pn : Nat
  plain : Nat                -- bytes of the frame without its protection, an upper bound
deriving DecidableEq, Repr

/-- How a lane judges a unit: refused as outcome k, or a unit. -/
inductive Judge where
  | bad (k : Nat) | unit (u : InUnit)
deriving DecidableEq, Repr

/-- The PN of an XPN frame, as IEEE 802.1AE recovers it (R562). -/
def xpnRecover (lowest low : Nat) : Nat :=
  let hi := lowest / 2 ^ 32
  if nbit lowest 31 && !nbit low 31 then (hi + 1) * 2 ^ 32 + low else hi * 2 ^ 32 + low

/-- The sequence number of an ESN packet, as RFC 4303 Appendix A infers it (R562); none where it would lie below 0. -/
def esnRecover (pn window low : Nat) : Option Nat :=
  let t := pn - 1
  let tl := t % 2 ^ 32
  let th := t / 2 ^ 32
  if window ≤ tl + 1 then
    some (if tl + 1 ≤ low + window then th * 2 ^ 32 + low else (th + 1) * 2 ^ 32 + low)
  else if tl + 1 + 2 ^ 32 ≤ low + window then (if th = 0 then none else some ((th - 1) * 2 ^ 32 + low))
  else some (th * 2 ^ 32 + low)

/-- The MACsec nonce (R569). -/
def macsecNonce (b sci : List Byte) (pn : Nat) : List Byte :=
  if saExt b then xorBytes (saSpi b ++ beBytes 8 pn) (saSalt b) else sci ++ beBytes 4 pn

/-- The ESP additional data (RFC 4106). -/
def espAad (b : List Byte) (seq : Nat) : List Byte :=
  saSpi b ++ (if saExt b then beBytes 8 seq else beBytes 4 seq)

/-- The lane's checks of a MACsec frame `l` whose SecTAG is to start at `pos`, with the reference layer at `la`.
DEDUCED (log entry 76, unsafe). -/
def judgeMacsec (b : List Byte) (pn la pos : Nat) (l : List Byte) : Judge :=
  let tci := leAt l (pos + 2) 1
  let sc := nbit tci 5
  let tagLen := if sc then 16 else 8
  let low := beAt l (pos + 4) 4
  let e := nbit tci 3
  let c := nbit tci 2
  let data := l.length - pos - tagLen - 16
  let sl := leAt l (pos + 3) 1
  let full := if saExt b then xpnRecover (Nat.max 1 (pn - saWindow b)) low else low
  let sci := if sc then sliceB l (pos + 8) 8 else saSci b
  let head := sliceB l la (pos + tagLen - la)
  let text := sliceB l (pos + tagLen) data
  if l.length < pos + tagLen + 16 then .bad 5
  else if beAt l pos 2 ≠ 0x88E5 ∨ nbit tci 7 ∨ e ≠ c ∨ e ≠ saConf b ∨ (sl ≠ 0 ∧ sl ≠ data) ∨ full = 0 then .bad 5
  else if tci % 4 ≠ saAn b ∨ (sc ∧ sci ≠ saSci b) then .bad 3
  else
    .unit ⟨macsecNonce b sci full, if saConf b then head else head ++ text, if saConf b then text else [],
      sliceB l (l.length - 16) 16, full, l.length - tagLen - 16⟩

/-- The lane's checks of an ESP packet in frame `l` whose ESP header starts at `pos`.
DEDUCED (log entry 76, unsafe). -/
def judgeEsp (b : List Byte) (pn pos : Nat) (l : List Byte) : Judge :=
  let low := beAt l (pos + 4) 4
  if l.length < pos + 34 then .bad 5
  else if sliceB l pos 4 ≠ saSpi b then .bad 3
  else match (if saExt b then esnRecover pn (saWindow b) low else some low) with
  | none => .bad 8
  | some seq =>
    .unit ⟨sliceB b 28 4 ++ sliceB l (pos + 8) 8, espAad b seq, sliceB l (pos + 16) (l.length - pos - 32),
      sliceB l (l.length - 16) 16, seq, l.length - 32⟩

/-- Bit i of an association's replay window: has sequence number pn − 1 − i been accepted? -/
def replayBits (s : State) (e : Nat) : Nat := tget (fun _ => 0) s.cip.replay e
def putReplay (s : State) (e n : Nat) : State :=
  { s with cip := { s.cip with replay := tset (fun _ => 0) s.cip.replay e n } }

/-- Does a number pass the replay check now (R562)? Carlis and ESP keep a window of accepted numbers. -/
def replayOk (s : State) (e : Nat) (b : List Byte) (n : Nat) : Bool :=
  let pn := saPn s (e / 32) (e % 32)
  if saProto b = 0 then decide (Nat.max 1 (pn - saWindow b) ≤ n)
  else decide (pn ≤ n + saWindow b) && (decide (pn ≤ n) || !nbit (replayBits s e) (pn - 1 - n))

/-- A number is accepted (R562). -/
def replayTake (s : State) (e : Nat) (b : List Byte) (n : Nat) : State :=
  let pn := saPn s (e / 32) (e % 32)
  let s1 := if pn ≤ n then putPn s (e / 32) (e % 32) ((n + 1) % 2 ^ 64) else s
  if saProto b = 0 then s1
  else if pn ≤ n then putReplay s1 e ((replayBits s e * 2 ^ Nat.min (n + 1 - pn) 1024 + 1) % 2 ^ 1024)
  else putReplay s1 e (replayBits s e ||| 2 ^ (pn - 1 - n))

/-- Blocks a unit costs (R573). -/
def unitBlocks (aad text : Nat) : Nat := cdiv aad 16 + cdiv text 16 + 2

/-- Cipher blocks are started on an account (R573): charged, counted, signalled. -/
def useBlocks (s : State) (a n : Nat) : State :=
  if n = 0 then s
  else signal (bumpBy (useCredits s (acct 4 a) n 0) (pgCip s.worker + Reg.CIP_BLOCKS) n) (srcSlice s.worker 0x14 0) a n

/-- Blocks an account may start now. -/
def blocksLeft (s : State) (a : Nat) : Nat := Nat.min (workLeft s (acct 4 a)) (energyLeft s (acct 4 a))

/-- The judgement of a waiting frame's unit (R561), the replay pre-check of R562 included. -/
def judgeUnit (s : State) (r : DecReq) (f : Frame) : Judge :=
  let e := 32 * r.sa.tenant + r.sa.sa
  let b := saBytes s r.sa.tenant r.sa.sa
  let l := viewData f r.view
  let pn := saPn s r.sa.tenant r.sa.sa
  if !saValid s r.sa.tenant r.sa.sa ∨ saOut b ∨ saProto b ≠ r.sa.esp.toNat then .bad 2
  else match r.layers.getD (saLayer b) none with
  | none => .bad 5
  | some la =>
    match (if r.sa.esp then judgeEsp b pn (la + saOff b) l else judgeMacsec b pn la (la + saOff b) l) with
    | .bad k => .bad k
    | .unit u =>
      if 16384 < u.aad.length + u.text.length then .bad 6
      else if viewPoisoned f r.view then .bad 10
      else if !replayOk s e b u.pn then .bad 8
      else .unit u

/-- The request of a frame in the cipher. -/
def getDec (s : State) (id : Nat) : Option DecReq := s.pipe.decQ.find? (fun r => r.view.frame == id)
def setDec (s : State) (id : Nat) (st : DecStage) : State :=
  { s with pipe := { s.pipe with decQ := s.pipe.decQ.map (fun r => if r.view.frame = id then { r with stage := st } else r) } }
def dropDec (s : State) (id : Nat) : State :=
  { s with pipe := { s.pipe with decQ := s.pipe.decQ.filter (fun r => r.view.frame != id) } }

/-- A frame is refused with outcome k and never released (R558, R559). -/
def refuseDec (s : State) (r : DecReq) (k : Nat) : State :=
  let s1 := dropDec (cipOutcome s r.sa k) r.view.frame
  if k = 10 then dropRef (endTx s1 r.view.frame stPOISONED true) r.view.frame else dropFrame s1 r.view.frame

/-- Hold-buffer cells in use, by class (R564). -/
def DecReq.hold (r : DecReq) : Nat :=
  match r.stage with
  | .wait => 0 | .started _ n => n | .verified _ _ n => n
def crtHold (s : State) : Nat := (s.crt.rx.map (·.2)).getD 0
def holdOf (s : State) (c : Nat) : Nat :=
  s.pipe.decQ.foldl (fun a r => if r.cls = c then a + r.hold else a) (if c = 0 then crtHold s else 0)
def holdAll (s : State) : Nat := s.pipe.decQ.foldl (fun a r => a + r.hold) (crtHold s)

/-- Cells of frames that wait to start in class c (R566). -/
def waitCells (s : State) (c : Nat) : Nat :=
  s.pipe.decQ.foldl (fun a r => if r.cls = c ∧ r.stage = .wait then a + ((getFrame s r.view.frame).map (·.cells)).getD 0
    else a) 0

/-- A frame joins its class's wait queue (R566). -/
def decEnqueue (s : State) (r : DecReq) : State :=
  let cells := ((getFrame s r.view.frame).map (·.cells)).getD 0
  if fld (rdEff s (pgCip s.worker + Reg.CIP_WAIT_LIMIT + 4 * r.cls)) 16 0 < waitCells s r.cls + cells then
    dropFrame (cipOutcome s r.sa 11) r.view.frame
  else { s with pipe := { s.pipe with decQ := s.pipe.decQ ++ [r] } }

/-- Frames the cipher's lanes are working on. -/
def lanesBusy (s : State) : Nat := (s.pipe.decQ.filter (fun r => match r.stage with
  | .started _ _ => true
  | _ => false)).length

/-- The highest hold occupancy is kept. -/
def noteHold (s : State) : State :=
  let a := pgCip s.worker + Reg.CIP_HOLD_MAX
  if fld (rd s a) 14 0 < holdAll s then wr s a (w32 (holdAll s)) else s

/-- DECRYPT_START: the first frame that waits in class c starts, or is refused by the lane's checks (R555, R558, R561,
R562, R565). -/
def execDecryptStart (c : Fin 8) (s : State) : Host.Outcome State Fault Refusal :=
  match s.pipe.decQ.find? (fun r => r.cls == c.val && r.stage == .wait) with
  | none => .next s
  | some r => match getFrame s r.view.frame with
    | none => .next (dropDec s r.view.frame)
    | some f =>
      let e := 32 * r.sa.tenant + r.sa.sa
      if !f.whole ∨ !gkOpen s ∨ draining s then .next s
      else match judgeUnit s r f with
      | .bad 2 => .next (refuseDec s r 2)
      | j =>
        if (cached s s.worker e).isEmpty then .next (queueKey s s.worker e (cipAccount r.sa))
        else match j with
        | .bad k => .next (refuseDec s r k)
        | .unit u =>
          let cells := cellsFor u.plain
          let room := decide (holdOf s c.val + cells ≤ fld (rdEff s (pgCip s.worker + Reg.CIP_HOLD_LIMIT + 4 * c.val)) 14 0)
            && decide (holdAll s + cells ≤ 16384)
          let cost := unitBlocks u.aad.length u.text.length
          let pay := Nat.min cost (blocksLeft s (cipAccount r.sa))
          if !room ∨ 8 ≤ lanesBusy s ∨ pay = 0 then .next s
          else
            let x : Seal := ⟨r.sa, saBytes s r.sa.tenant r.sa.sa, cached s s.worker e, u.pn, cost - pay⟩
            .next (noteHold (setDec (useBlocks s (cipAccount r.sa) pay) r.view.frame (.started x cells)))

/-- The plaintext frame after a verified unit (R563): none where the ESP trailer is malformed (R561). -/
def unprotect (x : Seal) (la : Nat) (l plain : List Byte) : Option (List Byte × Bool) :=
  let b := x.bytes
  let pos := la + saOff b
  if !x.sa.esp then
    let tagLen := if nbit (leAt l (pos + 2) 1) 5 then 16 else 8
    let data := if saConf b then plain else sliceB l (pos + tagLen) (l.length - pos - tagLen - 16)
    some (l.take pos ++ data, false)
  else
    let n := plain.length
    let pad := leAt plain (n - 2) 1
    let nh := leAt plain (n - 1) 1
    if n < 2 + pad ∨ sliceB plain (n - 2 - pad) pad ≠ (List.range pad).map (fun i => BitVec.ofNat 8 (i + 1))
        ∨ (saTunnel b ∧ nh ≠ 4 ∧ nh ≠ 41) then none
    else
      let body := plain.take (n - 2 - pad)
      if saTunnel b then
        let v := leAt body 0 1 / 16
        some (putB (l.take la ++ body) (la - 2) (if v = 6 then [0x86, 0xDD] else [0x08, 0x00]), true)
      else
        let l1 := l.take pos ++ body
        let cut := l.length - l1.length
        if leAt l la 1 / 16 = 6 then
          some (putB (putB l1 (la + 4) (beBytes 2 (beAt l (la + 4) 2 - cut))) (la + 6) (leBytes 1 nh), false)
        else
          let l2 := putB (putB l1 (la + 2) (beBytes 2 (beAt l (la + 2) 2 - cut))) (la + 9) (leBytes 1 nh)
          some (putB l2 (la + 10) (beBytes 2 (csumUpdate (beAt l (la + 10) 2) (sliceB l la 10) (sliceB l2 la 10))), false)

/-- DECRYPT_VERIFY: the lane ends its blocks, the tag is verified and the final replay check is made and applied (R558,
R561, R562, R548). -/
def execDecryptVerify (frame : Nat) (s : State) : Host.Outcome State Fault Refusal :=
  match getDec s frame, getFrame s frame with
  | some r, some f => match r.stage with
    | .started x cells =>
      if !gkOpen s then .next s
      else
        let pay := Nat.min x.owed (blocksLeft s (cipAccount r.sa))
        let s1 := useBlocks s (cipAccount r.sa) pay
        if pay < x.owed then .next (setDec s1 frame (.started { x with owed := x.owed - pay } cells))
        else
          let l := viewData f r.view
          let e := 32 * r.sa.tenant + r.sa.sa
          let still := saValid s r.sa.tenant r.sa.sa && decide (saBytes s r.sa.tenant r.sa.sa = x.bytes)
          match r.layers.getD (saLayer x.bytes) none with
          | none => .next (refuseDec s1 r 5)
          | some la =>
            match (if r.sa.esp then judgeEsp x.bytes x.pn (la + saOff x.bytes) l
                else judgeMacsec x.bytes x.pn la (la + saOff x.bytes) l) with
            | .bad k => .next (refuseDec s1 r k)
            | .unit u =>
              let nonce := if r.sa.esp then u.nonce else macsecNonce x.bytes (u.nonce.take 8) x.pn
              let aad := if r.sa.esp then espAad x.bytes x.pn else u.aad
              match gcmOpen x.key nonce aad u.text u.tag with
              | none => .next (refuseDec s1 r 7)
              | some plain =>
                if still && !replayOk s1 e x.bytes x.pn then .next (refuseDec s1 r 8)
                else
                  let s2 := if still then replayTake s1 e x.bytes x.pn else s1
                  match unprotect x la l plain with
                  | none => .next (refuseDec s2 r 5)
                  | some (data, tun) =>
                    if tun && decide (la < 2) then
                      .next (dropFrame (dropDec (noteExc s2 s.worker excLayer r.state 0) frame) frame)
                    else .next (setDec s2 frame (.verified data tun cells))
    | _ => .next s
  | _, _ => .next s

/-- DECRYPT_RELEASE: a verified frame, the oldest of its port and class, leaves the hold buffer for the re-entry queue
(R560, R563, R567). -/
def execDecryptRelease (frame : Nat) (s : State) : Host.Outcome State Fault Refusal :=
  match getDec s frame, getFrame s frame with
  | some r, some f => match r.stage with
    | .verified data tun _ =>
      let first := match s.pipe.decQ.find? (fun q =>
          q.cls == r.cls && (getFrame s q.view.frame).map (·.port) == some f.port) with
        | some q => q.view.frame == frame
        | none => false
      let cells := cellsFor data.length
      if !first ∨ !gkOpen s ∨ 512 ≤ s.pipe.q2.length ∨ s.pipe.freeCells < cells then .next s
      else
        let g : Frame := { f with
          data := data, flen := data.length + 4, cells := cells, poison := [], refs := 1, charges := [], grow := [],
          late := [], ctBy := [], lenField := none, mismatch := false, whole := true, decrypted := true }
        let n := newFrame (dropDec (cipOutcome s r.sa 0) frame) g
        let s1 := modFrame n.1 frame (fun x => { x with entry := none })
        let s2 := dropRef s1 frame
        .next { s2 with pipe := { s2.pipe with
          q2 := s2.pipe.q2 ++ [.again (asReceived n.2) r.state (r.pass + 1) (r.decap || tun)],
          q2New := s2.pipe.q2New + 1 } }
    | _ => .next s
  | _, _ => .next s

/-! ### Outbound units (R568 to R572) -/

/-- Bytes a protection inserts at its position, and bytes it appends, for a frame of n bytes. -/
def protAdds (x : SaRef) (b : List Byte) (n pos : Nat) : Nat × Nat :=
  if x.esp then (16, (4 - (n - pos + 2) % 4) % 4 + 2 + 16) else (if saSc b then 16 else 8, 16)

/-- The length of a frame as sent, with FCS, before padding: n bytes without protection and FCS. -/
def sentBytes (s : State) (d : Desc) (n : Nat) : Nat :=
  match d.enc with
  | none => n + 4
  | some x =>
    let b := match d.sealing with
      | some y => y.bytes
      | none => saBytes s x.tenant x.sa
    let pos := (d.layers.getD (saLayer b) none).getD 0 + saOff b
    let a := protAdds x b n pos
    n + a.1 + a.2 + 4

/-- Is the frame malformed for its outbound protection (R568)? -/
def outMalformed (x : SaRef) (b : List Byte) (layers : List (Option Nat)) (l : List Byte) : Bool :=
  match layers.getD (saLayer b) none with
  | none => true
  | some la =>
    let v := leAt l la 1 / 16
    decide (l.length < la + saOff b) || (x.esp && decide (l.length ≤ la + saOff b))
      || (x.esp && !saTunnel b && !(decide (v = 4 ∧ saOff b = 4 * (leAt l la 1 % 16)) || decide (v = 6 ∧ saOff b = 40)))
      || (x.esp && saTunnel b && !(leAt l (la + saOff b) 1 / 16 == 4 || leAt l (la + saOff b) 1 / 16 == 6))

/-- The bytes of a frame under protection (R568, R569, R571): `l` is the frame after its edits, before fixups. -/
def sealFrame (x : Seal) (layers : List (Option Nat)) (fixes : List Fix) (l : List Byte) : List Byte :=
  let b := x.bytes
  let la := (layers.getD (saLayer b) none).getD 0
  let pos := la + saOff b
  let a := protAdds x.sa b l.length pos
  let fixed := fixes.foldl (fun l f => applyFix l f (if f.p < pos then a.1 + a.2 else a.2)) l
  let inner := (fixes.filter (fun f => decide (pos ≤ f.p + f.l4))).foldl applyCsum fixed
  let head := inner.take pos
  let data := inner.drop pos
  let out :=
    if x.sa.esp then
      let padN := a.2 - 18
      let nh := if saTunnel b then (if leAt data 0 1 / 16 = 6 then 41 else 4)
        else if leAt head la 1 / 16 = 6 then leAt head (la + 6) 1 else leAt head (la + 9) 1
      let text := data ++ (List.range padN).map (fun i => BitVec.ofNat 8 (i + 1)) ++ leBytes 1 padN ++ leBytes 1 nh
      let iv := beBytes 8 x.pn
      let e := inner.length + a.1 + a.2
      let head1 := if saTunnel b then head
        else if leAt head la 1 / 16 = 6 then putB (putB head (la + 4) (beBytes 2 (e - la - 40))) (la + 6) [50]
        else
          let h := putB (putB (putB head (la + 2) (beBytes 2 (e - la))) (la + 9) [50]) (la + 10) [0, 0]
          putB h (la + 10) (beBytes 2 (65535 - onesSum (sliceB h la (saOff b)) 0))
      let c := gcmSeal x.key (sliceB b 28 4 ++ iv) (espAad b x.pn) text
      head1 ++ saSpi b ++ beBytes 4 x.pn ++ iv ++ c.1 ++ c.2
    else
      let sl := if data.length < 48 then data.length else 0
      let tci := 32 * (saSc b).toNat + 12 * (saConf b).toNat + saAn b
      let tag := [0x88, 0xE5] ++ leBytes 1 tci ++ leBytes 1 sl ++ beBytes 4 x.pn ++ (if saSc b then saSci b else [])
      let aad := head.drop la ++ tag
      let nonce := macsecNonce b (saSci b) x.pn
      if saConf b then
        let c := gcmSeal x.key nonce aad data
        head ++ tag ++ c.1 ++ c.2
      else head ++ tag ++ data ++ (gcmSeal x.key nonce (aad ++ data) []).2
  (fixes.filter (fun f => !decide (pos ≤ f.p + f.l4))).foldl applyCsum out

/-- The bytes of a descriptor's frame as sent, without FCS and padding. -/
def sentData (f : Frame) (d : Desc) : List Byte :=
  let l := match d.cut with
    | none => viewData f d.view
    | some n => (viewData f d.view).take n
  match d.sealing with
  | some x => sealFrame x d.layers d.fixes l
  | none => d.fixes.foldl applyCsum (d.fixes.foldl (fun l f => applyFix l f 0) l)

/-- A tenant's vector fires as CP_PN_NEAR or CP_EXHAUSTED rises (R549). -/
def cpIrq (s : State) (t : Nat) : State :=
  let c := rd s (pgTenCip t + Reg.CP_CTL)
  if fbit c 0 && fnExists s (2 + t) then fireVector s (2 + t) (fld c 3 1) else s

/-- A bit of CP_PN_NEAR or CP_EXHAUSTED rises. -/
def cpRise (s : State) (t reg a : Nat) : State :=
  let w := rd s (pgTenCip t + reg)
  if fbit w a then s else cpIrq (wr s (pgTenCip t + reg) (putBit w a true)) t

/-- The next packet number of an outbound association is assigned (R570): none when it has none left. -/
def takePn (s : State) (t a : Nat) (ext : Bool) : State × Option Nat :=
  let pn := saPn s t a
  let last := if ext then 2 ^ 64 - 1 else 2 ^ 32 - 1
  let near := if ext then 0xC000000000000000 else 0xC0000000
  if fbit (rd s (pgTenCip t + Reg.CP_EXHAUSTED)) a then (s, none)
  else
    let s1 := if pn = last then cpRise s t Reg.CP_EXHAUSTED a else putPn s t a (pn + 1)
    let s2 := if near ≤ pn + 1 ∧ !fbit (rd s1 (pgTenCip t + Reg.CP_PN_NEAR)) a then
        setErr (cpRise s1 t Reg.CP_PN_NEAR a) (pgCip s.worker) 8 else s1
    (s2, some pn)

/-- Change the descriptors that wait in the class FIFOs and for receive queues. -/
def mapDescs (s : State) (p : List Desc → List Desc) : State :=
  { s with sched := { s.sched with
    fifo := tmap (fun _ => []) p s.sched.fifo, rx := p s.sched.rx } }

/-- The descriptors that wait in the class FIFOs and for receive queues, in that order. -/
def allDescs (s : State) : List Desc := s.sched.fifo.flatMap (·.2) ++ s.sched.rx

/-- Replace, or remove, the first descriptor of a list that equals d. -/
def swapDesc (d : Desc) (n : Option Desc) : List Desc → List Desc
  | [] => []
  | x :: t => if x = d then (match n with
      | some y => y :: t
      | none => t) else x :: swapDesc d n t

/-- Is a descriptor still to be protected? -/
def Desc.unsealed (d : Desc) : Bool :=
  d.enc.isSome && (match d.sealing with
    | none => true
    | some x => decide (0 < x.owed))

/-- A frame is refused for its outbound protection (R576). -/
def refuseEnc (s : State) (d : Desc) (sa : SaRef) (k : Nat) : State :=
  let s1 := mapDescs (cipOutcome s sa k) (swapDesc d none)
  if k = 10 ∧ d.orig then dropRef (endTx s1 d.view.frame stPOISONED true) d.view.frame else dropDesc s1 d

/-- Lengths of the additional data and of the text of a descriptor's outbound unit (R568 to R573). -/
def encUnit (f : Frame) (d : Desc) (sa : SaRef) (b : List Byte) : Nat × Nat :=
  let n := if f.whole then (viewData f d.view).length
    else (f.lenField.map (fun n => n - 4 + d.view.head.length - d.view.skip)).getD 0
  let pos := (d.layers.getD (saLayer b) none).getD 0 + saOff b
  let text := n - pos
  let a := protAdds sa b n pos
  (if sa.esp then (if saExt b then 12 else 8) else saOff b + a.1 + (if saConf b then 0 else text),
   if sa.esp then text + a.2 - 16 else if saConf b then text else 0)

/-- A protection starts: the packet number is taken and the first of `cost` blocks are paid for.
DEDUCED (log entry 78, unsafe). -/
def startSeal (s : State) (f : Frame) (d : Desc) (sa : SaRef) (b : List Byte) (cost : Nat) : State :=
  let r := takePn s sa.tenant sa.sa (saExt b)
  match r.2 with
  | none => refuseEnc r.1 d sa 9
  | some pn =>
    if viewPoisoned f d.view then refuseEnc r.1 d sa 10
    else
      let pay := Nat.min cost (blocksLeft r.1 (cipAccount sa))
      mapDescs (useBlocks r.1 (cipAccount sa) pay) (swapDesc d (some { d with
        sealing := some ⟨sa, b, cached s s.worker (32 * sa.tenant + sa.sa), pn, cost - pay⟩ }))

/-- ENCRYPT_FRAME: the first waiting descriptor of a frame that is to be protected gets its PN and key, and its blocks
(R568 to R574). A frame whose length is not known waits until it is whole.
DEDUCED (log entry 78, unsafe). -/
def execEncryptFrame (frame : Nat) (s : State) : Host.Outcome State Fault Refusal :=
  match (allDescs s).find? (fun d => d.view.frame == frame && d.unsealed), getFrame s frame with
  | some d, some f => match d.enc, d.sealing with
    | some sa, some x =>
      let pay := Nat.min x.owed (blocksLeft s (cipAccount sa))
      if !gkOpen s then .next s
      else .next (mapDescs (useBlocks s (cipAccount sa) pay) (swapDesc d (some { d with sealing := some { x with owed := x.owed - pay } })))
    | some sa, none =>
      let b := saBytes s sa.tenant sa.sa
      let e := 32 * sa.tenant + sa.sa
      let l := viewData f d.view
      let u := encUnit f d sa b
      if !gkOpen s ∨ (!f.whole ∧ f.lenField.isNone) then .next s
      else if !saValid s sa.tenant sa.sa ∨ !saOut b ∨ saProto b ≠ sa.esp.toNat then .next (refuseEnc s d sa 2)
      else if (cached s s.worker e).isEmpty then .next (queueKey s s.worker e (cipAccount sa))
      else if outMalformed sa b d.layers l then .next (refuseEnc s d sa 5)
      else if 16384 < u.1 + u.2 then .next (refuseEnc s d sa 6)
      else if blocksLeft s (cipAccount sa) = 0 then .next s
      else .next (startSeal s f d sa b (unitBlocks u.1 u.2))
    | none, _ => .next s
  | _, _ => .next s

/-! ### The key unit (R555 to R557, R578) -/

/-- Every frame that waits for the key of an association whose derivation failed is refused as no_key (R553).
DEDUCED (log entry 79, unsafe). -/
def refuseNoKey (s : State) (e : Nat) : State :=
  let mine (x : SaRef) : Bool := 32 * x.tenant + x.sa == e
  let s1 := (s.pipe.decQ.filter (fun r => mine r.sa && r.stage == .wait)).foldl (fun s r => refuseDec s r 4) s
  ((allDescs s1).filter (fun d => d.sealing.isNone && (d.enc.map mine).getD false)).foldl
    (fun s d => refuseEnc s d (d.enc.getD ⟨0, 0, false⟩) 4) s1

/-- A WARM_KEYS whose list is empty ends. -/
def warmEnd (s : State) (sl : SliceId) : State :=
  match s.cip.warm.find? (fun w => w.slice == sl) with
  | some w =>
    if w.left.isEmpty then
      let s1 := { s with cip := { s.cip with warm := s.cip.warm.filter (fun w => w.slice != sl) } }
      finishCmd s1 (pgCip sl) stOK (w32 w.derived) (w32 w.failed) 0
    else s
  | none => s

/-- A derivation's energy: 12 units of a cipher account, without work credits (R557). -/
def useKdfEnergy (s : State) (a : Nat) : State := spendEnergy s (acct 4 a) 12

/-- A Carlis association (account 2) whose key could not be derived: remembered until a message has been refused
for it. -/
def noteNoKey (s : State) (e : Nat) : State :=
  if s.cip.noKey.contains e then s else { s with cip := { s.cip with noKey := e :: s.cip.noKey } }

/-- KEY_DERIVATION: the slice's key unit does its next derivation: the misses of the pipeline first, then WARM_KEYS
(R553, R555, R557, R578).
DEDUCED (log entry 79, unsafe). -/
def execKeyDerivation (sl : SliceId) (s : State) : Host.Outcome State Fault Refusal :=
  if !sliceWorks s sl then .next s
  else match s.cip.keyQ.find? (fun k => k.slice == sl), s.cip.warm.find? (fun w => w.slice == sl) with
  | some k, _ =>
    if energyLeft s (acct 4 k.acct) < 12 then .next s
    else
      let s0 := { s with cip := { s.cip with keyQ := s.cip.keyQ.filter (fun x => x != k) } }
      let r := deriveKey (useKdfEnergy s0 k.acct) k.entry
      match r.2 with
      | some key => .next (bump (putCache r.1 sl k.entry key) (pgCip sl + Reg.CIP_KDF_CNT))
      | none =>
        let s1 := if k.acct = 2 then noteNoKey r.1 k.entry else r.1
        .next (if s.red.accepted = some sl then refuseNoKey s1 k.entry else s1)
  | none, some w => match w.left with
    | [] => .next (warmEnd s sl)
    | e :: rest =>
      let put (s : State) (w : WarmJob) : State :=
        warmEnd { s with cip := { s.cip with warm := s.cip.warm.map (fun x => if x.slice = sl then w else x) } } sl
      if !(cached s sl e).isEmpty then .next (put s { w with left := rest })
      else if energyLeft s (acct 4 0) < 12 then .next s
      else
        let r := deriveKey (useKdfEnergy s 0) e
        match r.2 with
        | some key =>
          .next (put (bump (putCache r.1 sl e key) (pgCip sl + Reg.CIP_KDF_CNT)) { w with left := rest, derived := w.derived + 1 })
        | none => .next (put r.1 { w with left := rest, failed := w.failed + 1 })
  | none, none => .next s

/-- FLUSH_KEYS (R578). -/
def specFlushKeys (sl : SliceId) : CmdSpec where
  role := Master.isGlobal
  phases := anyPhase
  body c s :=
    let scope := fld c.a0 1 0
    if scope = 3 then endCmd s (pgCip sl) stBAD_ARG
    else
      let hit (e : Nat) : Bool :=
        if scope = 0 then true
        else if scope = 1 then e / 32 == fld c.a1 9 0
        else saSlot (saBytes s (e / 32) (e % 32)) == fld c.a1 3 0
      endCmd (dropKeys s (fun x e => x == sl && hit e)) (pgCip sl) stOK

/-- WARM_KEYS (R578). -/
def specWarmKeys (sl : SliceId) : CmdSpec where
  role := Master.isGlobal
  phases := notRecovery
  body c s :=
    let all := if fbit c.a0 31 then List.range 32768 else (List.range 32).map (fun a => 32 * fld c.a0 9 0 + a)
    let want := all.filter (fun e => saValid s (e / 32) (e % 32) && (cached s sl e).isEmpty)
    warmEnd { s with cip := { s.cip with warm := s.cip.warm ++ [⟨sl, want, 0, 0⟩] } } sl

def execFlushKeys (sl : SliceId) (via : Master) (seq : Byte) (a0 a1 : Word) (s : State) : Host.Outcome State Fault Refusal :=
  .next (commandRow (specFlushKeys sl) (pgCip sl) 1 via seq a0 a1 0 s)

def execWarmKeys (sl : SliceId) (via : Master) (seq : Byte) (a0 : Word) (s : State) : Host.Outcome State Fault Refusal :=
  .next (commandRow (specWarmKeys sl) (pgCip sl) 2 via seq a0 0 0 s)

/-! ### Boundaries, resets and registers -/

/-- Associations whose validity changes at a boundary (R547, R549). -/
def cipBoundary (s : State) : State :=
  let one (s : State) (e : Nat) : State :=
    let t := e / 32
    let a := e % 32
    let s1 := dropKeys s (fun _ x => x == e)
    if saValid s t a then putReplay s1 e 0
    else
      let clear (s : State) (r : Nat) : State := wr s (pgTenCip t + r) (putBit (rd s (pgTenCip t + r)) a false)
      clear (clear s1 Reg.CP_PN_NEAR) Reg.CP_EXHAUSTED
  let s1 := s.cip.changed.foldl one s
  { s1 with cip := { s1.cip with changed := [] } }

/-- The cipher of a slice that is reset or loses the active role (R554, R575, R665). -/
def cipDiscard (s : State) (sl : SliceId) : State :=
  let s1 := dropKeys s (fun x _ => x == sl)
  { s1 with cip := { s1.cip with
    keyQ := s1.cip.keyQ.filter (fun k => k.slice != sl), warm := s1.cip.warm.filter (fun w => w.slice != sl) } }

/-- Frames started in the old active slice's cipher and not released are lost at a switch-over (R575, R661); a frame
that waits to be sent loses its protection, and gets another packet number (R570).
DEDUCED (log entry 78, unsafe). -/
def cipSwitch (s : State) : State :=
  mapDescs ((s.pipe.decQ.filter (fun r => r.stage != .wait)).foldl
    (fun s r => dropFrame (dropDec s r.view.frame) r.view.frame) s) (fun l => l.map (fun d => { d with sealing := none }))

/-- A write in force at once. -/
def wrBoth (s : State) (a : Nat) (w : Word) : State := { wr s a w with eff := tset regDflt s.eff a w }

/-- A reset that clears a tenant's associations (R209, R550). -/
def clearAssocs (s : State) (t : Nat) : State :=
  let one (s : State) (a : Nat) : State :=
    let b := saBase t a
    let s1 := wrBoth s b (putBit (rd s b) 0 false)
    let s2 := [40, 44, 52, 56].foldl (fun s o => wrBoth s (b + o) 0) s1
    putReplay s2 (32 * t + a) 0
  let s1 := (List.range 32).foldl one s
  let s2 := wr (wr s1 (pgTenCip t + Reg.CP_PN_NEAR) 0) (pgTenCip t + Reg.CP_EXHAUSTED) 0
  dropKeys s2 (fun _ e => e / 32 == t)

/-- CIP page of a slice (R577). -/
def viewCip (s : State) (sl : SliceId) (off : Nat) : Option Word :=
  if off = Reg.PAGE_STAT then
    let hold := if s.red.accepted = some sl then holdAll s else 0
    let q := (s.cip.keyQ.filter (fun k => k.slice == sl)).length
    some (w32 (hold + 65536 * q + 2 ^ 25 * (s.cip.warm.any (fun w => w.slice == sl)).toNat))
  else if off = Reg.CIP_KEY_VALID then
    some (w32 (s.cip.cache.filter (fun e => e.1 / 32768 == sl.num)).length)
  else none

/-- Tenant cipher page t (R549). -/
def viewTenCip (s : State) (t off : Nat) : Option Word :=
  if off = Reg.CP_ID then some (w32 t)
  else if off = Reg.CP_STAT then
    some (flagAt (rd s (pgTenCip t + Reg.CP_PN_NEAR) != 0) 0 ||| flagAt (rd s (pgTenCip t + Reg.CP_EXHAUSTED) != 0) 1)
  else none

end Sys2Proof.Machine
end

