-- ==== Sys2Proof/Machine/HeaderProc.lean ====
section
/-! DEFINITION. What is done with a header (chapter 12): the slot of a header in each slice, the lookups, the outcome of
its record, copies and re-entry, and the admission of descriptors to class FIFOs and receive queues (chapter 14). -/
namespace Sys2Proof.Machine

/-- Count a 64-bit statistic of port p, P6 included (R417, R434). -/
def portStat (s : State) (p k n : Nat) : State := bumpWide s (pgMac p + 0x400 + 8 * k) n

/-- Does the pipeline run at all? -/
def pipeRuns (s : State) : Bool := s.power.bringupDone && s.power.phase != .recovery && warmOpen s

/-- The slice whose verdict counts: the accepted one, or the standby slice once the accepted one is withdrawn (R655,
R657).
DESIGN CHOICE (log entry 102, unsafe). -/
def actingSlice (s : State) : Option SliceId :=
  match s.red.accepted with
  | none => none
  | some sl =>
    if !(s.slice sl).fenced then some sl
    else if (s.slice sl.other).role == .standby && sliceWorks s sl.other then some sl.other else none

/-- The slices that process headers. -/
def workingSlices (s : State) : List SliceId := [SliceId.ochre, SliceId.slate].filter (sliceWorks s)

/-! ### Nodes and admission (R526 to R528) -/

/-- Entries of the shaper table (R510). -/
abbrev tenantNode (t : Nat) : Nat := 16384 + t
abbrev classNode (p c : Nat) : Nat := 17408 + 8 * p + c
abbrev portNode (p : Nat) : Nat := 17464 + p

/-- Word w of shaper table entry i as in force. -/
def shpWord (s : State) (i w : Nat) : Word := rdEff s (winShaper + 32 * i + 4 * w)
def shpValid (s : State) (i : Nat) : Bool := fbit (shpWord s i 1) 24

/-- Buffer limit of an entry, its default when invalid (R514). -/
def nodeLimit (s : State) (i dflt : Nat) : Nat := if shpValid s i then fld (shpWord s i 3) 16 0 else dflt

/-- The ring of a class and its size (R530): key 8 × port + class. -/
def ringOf (s : State) (pc : Nat) : List Spilled := tget (fun _ => []) s.sched.rings pc
def spillQOf (s : State) (pc : Nat) : List Desc := tget (fun _ => []) s.sched.spillQ pc
def spillSlot (s : State) : Nat := fld (rd s (pgSch + Reg.SCH_SPILL_SLOT)) 15 0

/-- Is a class spilled (R532)? -/
def classSpilled (s : State) (pc : Nat) : Bool := !(ringOf s pc).isEmpty || !(spillQOf s pc).isEmpty

/-- May a class spill? -/
def maySpill (s : State) (p c : Nat) : Bool :=
  decide (0 < spillSlot s) && shpValid s (classNode p c) && fbit (shpWord s (classNode p c) 1) 26

/-- Cells a frame is charged with (R527): by F where it is known, else the cells written so far. -/
def chargeCells (f : Frame) (flen : Option Nat) : Nat :=
  match flen with
  | some n => cdiv n 256
  | none => f.cells

/-- Charge a node with a frame; a frame whose F is not known adds its later cells (R527). -/
def chargeFrame (s : State) (id node : Nat) (f : Frame) (flen : Option Nat) : State :=
  let s1 := chargeNode s id node (chargeCells f flen)
  if flen.isNone && !f.whole then modFrame s1 id (fun f => { f with grow := node :: f.grow }) else s1

def fifoOf (s : State) (pc : Nat) : List Desc := tget (fun _ => []) s.sched.fifo pc
def putFifo (s : State) (pc : Nat) (l : List Desc) : State :=
  { s with sched := { s.sched with fifo := tset (fun _ => []) s.sched.fifo pc l } }
def putSpillQ (s : State) (pc : Nat) (l : List Desc) : State :=
  { s with sched := { s.sched with spillQ := tset (fun _ => []) s.sched.spillQ pc l } }

/-- A descriptor is placed at the tail of its class FIFO (R523). -/
def joinFifo (s : State) (d : Desc) : State :=
  let pc := 8 * d.port + d.cls
  let s1 := tagOnGain s (classNode d.port d.cls) (portNode d.port) (!(fifoOf s pc).isEmpty)
  putFifo s1 pc (fifoOf s1 pc ++ [d])

/-- A descriptor is refused at its class limit (R527). -/
def classDrop (s : State) (d : Desc) : State :=
  dropDesc (setErr (bump s (pgSch + Reg.SCH_CLASS_DROP + 4 * (8 * d.port + d.cls))) pgSch 2) d

/-- A descriptor bound for (p, c): admitted, sent to spill, or dropped (R527, R532). -/
def toClass (s : State) (d : Desc) (flen : Option Nat) : State :=
  match getFrame s d.view.frame with
  | none => s
  | some f =>
    let pc := 8 * d.port + d.cls
    let node := classNode d.port d.cls
    let cells := chargeCells f flen
    let fits := decide ((getNode s node).occ + cells ≤ nodeLimit s node 8192)
    let spilled := classSpilled s pc
    if maySpill s d.port d.cls && (!fits || spilled) then
      putSpillQ s pc (spillQOf s pc ++ [{ d with sf := true, cells := cells }])
    else if !fits || spilled then classDrop s d
    else joinFifo (chargeFrame s d.view.frame node f flen) { d with cells := cells }

/-- A descriptor bound for receive queue n: admitted or dropped (R528). -/
def toQueue (s : State) (d : Desc) (flen : Option Nat) : State :=
  match getFrame s d.view.frame with
  | none => s
  | some f =>
    let n := d.queue
    let cells := chargeCells f flen
    let own := recOwner s n
    let okQ := decide ((getNode s n).occ + cells ≤ nodeLimit s n 64)
    let okT := decide (own < 2) || decide ((getNode s (tenantNode (own - 2))).occ + cells ≤ nodeLimit s (tenantNode (own - 2)) 1024)
    if !okQ || !okT then dropDesc (bump s (pgSch + Reg.SCH_RXQ_DROP)) d
    else
      let s1 := chargeFrame s d.view.frame n f flen
      let s2 := if own < 2 then s1 else chargeFrame s1 d.view.frame (tenantNode (own - 2)) f flen
      { s2 with sched := { s2.sched with rx := s2.sched.rx ++ [{ d with cells := cells }] } }

/-- A descriptor to wherever it goes. -/
def admitDesc (s : State) (d : Desc) (flen : Option Nat) : State := if d.port = 7 then toQueue s d flen else toClass s d flen

/-! ### A header in a slice -/

/-- A header about to take its slot: the frame as it enters this pass, the account, and for a re-entered frame the state
it starts at. -/
structure HdrIn where
  view : View
  acct : Nat
  start : Option Nat
  pass : Nat
  decap : Bool
deriving DecidableEq, Repr

/-- What the pipeline decided for a frame. -/
inductive Fate where
  | drop
  | poisoned
  | queue (d : Desc)
  | ports (d : Desc) (sf : Bool) (more : List Nat)
  | carlis
  | decrypt (r : DecReq)
  | again (v : View) (state : Nat) (decap : Bool)
deriving DecidableEq, Repr

/-- The outcome of a header in a slice: the mirror sessions that copy it, the policers it passed and the one that dropped
it, and F if it is known. -/
structure HdrOut where
  fate : Fate
  mirrors : List Nat
  polices : List Nat
  policed : Option Nat
  flen : Option Nat
deriving DecidableEq, Repr

/-- Does port p deliver bad frames (R390)? -/
def badPass (s : State) (p : Nat) : Bool := decide (p < 6) && fbit (rd s (pgMac p + Reg.MAC_RX_CTL)) 0

/-- F where it is known at entry (R440, R463). -/
def entryLen (s : State) (f : Frame) (h : HdrIn) : Option Nat :=
  if h.acct ≠ 0 then some (viewLen f h.view + 4)
  else
    let p := f.port.getD 6
    if (f.whole && decide (f.flen ≤ 256)) || badPass s p || p == 6 then some f.flen else none

/-- The header window (R59, R440): of a received frame with its FCS, where that lies in it.
DEDUCED (log entry 60, unsafe). -/
def hdrWindow (f : Frame) (h : HdrIn) : List Byte :=
  if h.acct = 0 then (f.data ++ f.fcs).take 256 else (viewData f h.view).take 256

/-- AVAIL (R440). -/
def hdrAvail (f : Frame) (h : HdrIn) : Nat :=
  if h.acct = 0 then (if f.whole ∧ f.flen ≤ 256 then f.flen - 4 else 256) else Nat.min 256 (viewLen f h.view)

/-- The field vector before parsing (R437). -/
def hdrFields (f : Frame) (h : HdrIn) (flen : Option Nat) : List Byte :=
  let host := f.port.isNone
  let src := (if h.acct = 0 then f.port.getD 0 else 0) + 8 * host.toNat + 16 * h.start.isSome.toNat
  sliceB (leBytes 1 src ++ leBytes 1 (if h.acct = 0 then f.cls else 0) ++ beBytes 2 (if host then f.fn else 0x7FF)
    ++ beBytes 4 (if host then f.meta32.toNat else 0) ++ beBytes 2 (flen.getD 0)
    ++ leBytes 1 (if host then 0 else f.flags) ++ leBytes 1 h.pass) 0 128

/-- The frame with its edit region replaced (R452). -/
def editedView (v : View) (n : Nat) (region : List Byte) : View :=
  if n ≤ v.head.length then { v with head := region ++ v.head.drop n }
  else { v with head := region, skip := v.skip + (n - v.head.length) }

/-- A mirror session (R457): every N-th execution in a slice copies. -/
def mirrorTick (s : State) (sl : SliceId) (m : Nat) : State × Bool :=
  let b := mirrorBytes s m
  let n := leAt b 6 2
  if !nbit (leAt b 0 1) 0 then (s, false)
  else
    let key := 16 * sl.num + m
    let c := tget (fun _ => 0) s.pipe.mirror key + 1
    let hit := decide (n ≤ c)
    let s1 := { s with pipe := { s.pipe with mirror := tset (fun _ => 0) s.pipe.mirror key (if hit then 0 else c) } }
    (if hit then bump s1 (pgSlice sl 0 + Reg.PIP_MIRROR_CNT) else s1, hit)

/-- The MIRROR ops of a record, in order. -/
def runMirrors (sl : SliceId) : List Nat → State → List Nat → State × List Nat
  | [], s, acc => (s, acc)
  | m :: t, s, acc =>
    let r := mirrorTick s sl m
    runMirrors sl t r.1 (if r.2 then acc ++ [m] else acc)

/-- Must a frame bound for port p be store-and-forward for its rate (R397)? `n` is its length after all edits. -/
def rateHolds (s : State) (ingress p : Nat) (flen : Option Nat) (n : Nat) : Bool :=
  let rin := if ingress = 6 then 1 else modeRate (portMode s ingress)
  let rout := if p = 6 then 1 else modeRate (portMode s p)
  if rout ≤ rin then false
  else match flen with
    | none => true
    | some g => decide (((s.T * rin * rout : Nat) : Int) < ((g : Int) - 256) * 800 * rout - (n : Int) * 800 * rin)

/-- Does the oper gate list of port p close class c in any entry (R708)? -/
def everClosed (s : State) (p c : Nat) : Bool := decide (p < 6) && (getPort s p).oper.any (fun e => !fbit e c)

/-- Is a descriptor for port p store-and-forward (R464, R708, R711)? -/
def mustStore (s : State) (f : Frame) (h : HdrIn) (a : Act) (flen : Option Nat) (n p : Nat) : Bool :=
  let ing := f.port.getD 6
  h.acct != 0 || ing == 6 || badPass s ing || a.csumTpl || (a.lenTpl && flen.isNone) || rateHolds s ing p flen n
    || classSpilled s (8 * p + a.cls) || (flen.isNone && everClosed s p a.cls)
    || (a.enc.isSome && p == 6) || ((a.enc.map (·.esp)).getD false && flen.isNone)

/-- A descriptor is made in a slice: cut-through or store-and-forward (R464).
DEDUCED (log entry 62, unsafe). -/
def countDesc (s : State) (sl : SliceId) (sf : Bool) : State :=
  let pg := pgSlice sl 0
  if sf then signal (bump s (pg + Reg.PIP_SF_CNT)) (srcSlice sl 0x11 2) 0 1
  else signal (bump s (pg + Reg.PIP_CT_CNT)) (srcSlice sl 0x11 1) 0 1

/-- Where a descriptor's frame comes from (R466). -/
def descSource (f : Frame) (h : HdrIn) : Nat :=
  if h.start.isSome then 7 else match f.port with
  | some p => p
  | none => 8 + (f.entry.map (·.1)).getD 0

/-- An exception drops the frame. -/
def excDrop (s : State) (sl : SliceId) (e st record : Nat) (r : HdrOut) : State × HdrOut :=
  (noteExc s sl e st record, { r with fate := .drop })

/-- A frame as received goes to the trap queue (R449, R467).
DEDUCED (log entry 61, unsafe). -/
def trapRun (s : State) (sl : SliceId) (h : HdrIn) (st record reason : Nat) (d : Desc) (r : HdrOut) : State × HdrOut :=
  let w := rdEff s (winParse + 0x5050)
  if fld w 30 14 ≠ 0 then excDrop s sl excBadOp st record r
  else if !fbit w 31 then excDrop s sl excQueue st record r
  else
    let s1 := countDesc (bump s (pgSlice sl 0 + Reg.PIP_TRAP_CNT)) sl true
    (s1, { r with fate := .queue { d with
      view := h.view, port := 7, queue := fld w 13 0, meta32 := w32 (0x40000000 + reason), decap := h.decap,
      sf := true } })

/-- The chosen record is run on a frame (R447 to R454, R464).
DEDUCED (log entry 61, unsafe). -/
def recordRun (s : State) (sl : SliceId) (f : Frame) (h : HdrIn) (p : Parse) (known : Option Nat) (record arg hash : Nat) :
    State × HdrOut :=
  let flen := match known with
    | some n => some n
    | none => p.flen
  let region := (viewData f h.view).take 256
  let a0 : Act := {
    region := region, layers := p.layers, inserted := 0, dest := none, cls := if h.acct = 0 then f.cls else 0,
    meta32 := 0, fixes := [], ts := none, enc := none, decap := false, lenTpl := false, csumTpl := false, polices := [],
    mirrors := [], stop := none }
  let env : ActEnv := ⟨s, sl, arg, hash, f.port, h.pass, flen.getD 256⟩
  let a := runRecord env record a0
  let m := runMirrors sl a.mirrors s []
  let s1 := m.1
  let r : HdrOut := ⟨.drop, m.2, a.polices.reverse, none, flen⟩
  let v := editedView h.view region.length a.region
  let d : Desc := {
    view := v, port := 7, cls := a.cls, queue := 0, meta32 := a.meta32, fixes := a.fixes, ts := resolveTs a,
    enc := a.enc, sf := true, cut := none, decap := h.decap || a.decap, cells := 0, src := descSource f h,
    layers := a.layers, sealing := none, orig := true }
  let plain : Desc := { d with fixes := [], ts := ⟨0, 0, none⟩, enc := none, layers := p.layers }
  let enc (s : State) : State := match a.enc with
    | some sa => needKey s sl sa
    | none => s
  let badTs := a.enc.isSome && decide (2 ≤ (resolveTs a).op)
  match a.stop with
  | some (.exc e) => excDrop s1 sl e p.state record r
  | some (.drop k) => (bump s1 (pgSlice sl 0 + Reg.PIP_DROP_CNT + 4 * k), r)
  | some (.police k) => (s1, { r with policed := some k })
  | some (.trap k) => trapRun s1 sl h p.state record k plain r
  | some .carlis => (s1, { r with fate := .carlis })
  | some (.decrypt sa st) =>
    (needKey s1 sl sa, { r with fate := .decrypt ⟨v, sa, st, h.pass, a.layers, f.cls, h.decap || a.decap, .wait⟩ })
  | some (.recirc st) => (s1, { r with fate := .again v st (h.decap || a.decap) })
  | some .fin | none =>
    if badTs then excDrop s1 sl excBadOp p.state record r
    else match a.dest with
    | none => excDrop s1 sl excNoDest p.state record r
    | some (.queue n) => (enc (countDesc s1 sl true), { r with fate := .queue { d with queue := n } })
    | some (.port q) =>
      let n := (flen.getD 0) + a.region.length - region.length
      let sf := mustStore s f h a flen n q
      (enc (countDesc s1 sl sf), { r with fate := .ports { d with port := q, sf := sf } sf [] })
    | some (.flood qs) =>
      (enc (countDesc s1 sl true), { r with fate := .ports { d with port := qs.headD 0 } true qs.tail })

/-- The lookups of a header and the record they choose (R443 to R448): record, argument and flow hash, or an exception. -/
def lookupRun (s : State) (sl : SliceId) (h : HdrIn) (p : Parse) : State × (Nat ⊕ (Nat × Nat × Nat)) :=
  let base := winParse + 0x4000 + 64 * p.profile
  let b := winBytes s base 64
  if winPoisoned s sl base 64 then (s, .inl excPoison)
  else if profileReserved b then (s, .inl excBadOp)
  else
    let hash := flowHash p.fv b
    let emt := nbit (leAt b 0 1) 0
    let hit := if emt then emtFind s sl (emtKey p.fv b (leAt b 1 1) 4) else none
    let s1 := if emt then signal s (srcSlice sl 0x12 (if hit.isSome then 0 else 1)) 0 1 else s
    let s2 := if nbit (leAt b 0 1) 1 && h.pass == 0 then makeLearn s1 sl (emtKey p.fv b (leAt b 2 1) 12) p.fv else s1
    match hit with
    | some (_, e) => (s2, .inr (e.record, e.arg.toNat, hash))
    | none =>
      let k := lpmKey p.fv b
      match (if nbit (leAt b 0 1) 2 then lpmLookup s sl k.1 k.2.1 k.2.2 else none) with
      | some l => (s2, .inr (l.record, l.arg.toNat, hash))
      | none => (s2, .inr (leAt b 34 2 % 4096, 0, hash))

/-- A header in its slot of a slice (R437 to R468). -/
def sliceRun (s : State) (sl : SliceId) (f : Frame) (h : HdrIn) : State × HdrOut :=
  let pg := pgSlice sl 0
  let s0 := signal (bump s (pg + Reg.PIP_HDR_CNT)) (srcSlice sl 0x11 0) h.acct 1
  let s1 := if h.start.isSome then signal (bump s0 (pg + Reg.PIP_REENTRY_CNT)) (srcSlice sl 0x11 4) 0 1 else s0
  let known := entryLen s f h
  let out : HdrOut := ⟨.drop, [], [], none, known⟩
  let bad := if f.port.isSome then h.start.isNone && f.windowPoisoned else f.poisoned
  let start := rdEff s (winParse + 0x5000 + 4 * (if f.port.isNone then 7 else f.port.getD 0))
  if bad then (setErr (bump s1 (pg + Reg.PIP_POISON_DROP)) pg 5, { out with fate := .poisoned })
  else if h.start.isNone && fld start 31 6 != 0 then excDrop s1 sl excBadOp 0 0 out
  else
    let p0 : Parse := ⟨hdrFields f h known, List.replicate 8 none, 0, none, 0, none⟩
    let p := walk s sl (hdrWindow f h) (hdrAvail f h) known.isSome 16 0 (h.start.getD (fld start 5 0)) p0
    match p.exc with
    | some e =>
      if 3 ≤ e then excDrop s1 sl e p.state 0 out
      else
        let s2 := noteExc s1 sl e p.state 0
        let w := rdEff s (winParse + 0x5040 + 4 * e)
        if fld w 30 12 ≠ 0 then excDrop s2 sl excBadOp p.state 0 out
        else if !fbit w 31 then (s2, out)
        else
          let b := winBytes s (winParse + 0x4000 + 64 * p.profile) 64
          recordRun s2 sl f h p known (fld w 11 0) 0 (flowHash p.fv b)
    | none =>
      let r := lookupRun s1 sl h p
      match r.2 with
      | .inl e => excDrop r.1 sl e p.state 0 out
      | .inr (k, arg, hash) => recordRun r.1 sl f h p known k arg hash

/-! ### What is done with it -/

/-- An entry joins the re-entry queue, or is dropped (R458); the queues of both slices are alike. -/
def pushReentry (s : State) (e : Reentry) : State :=
  if 512 ≤ s.pipe.q2.length then
    let s1 := (workingSlices s).foldl (fun s sl =>
      setErr (bump s (pgSlice sl 0 + Reg.PIP_COPY_DROP)) (pgSlice sl 0) 4) s
    match e with
    | .again v _ _ _ => dropFrame s1 v.frame
    | .copy _ => s1
  else
    let s1 := match e with
      | .copy d => holdFrame s d.view.frame
      | .again _ _ _ _ => s
    { s1 with pipe := { s1.pipe with q2 := s1.pipe.q2 ++ [e], q2New := s1.pipe.q2New + 1 } }

/-- A mirror copy of session m (R457). -/
def mirrorCopy (s : State) (h : HdrIn) (m : Nat) : State :=
  let b := mirrorBytes s m
  let toQ := nbit (leAt b 0 1) 1
  let cut := leAt b 4 2
  pushReentry s (.copy {
    view := h.view, port := if toQ then 7 else leAt b 1 1 % 8, cls := leAt b 1 1 / 16 % 8, queue := leAt b 2 2 % 16384,
    meta32 := if toQ then w32 (0x80000000 + m) else 0, fixes := [], ts := ⟨0, 0, none⟩, enc := none, sf := true,
    cut := if cut = 0 then none else some cut, decap := h.decap, cells := 0, src := 7, layers := List.replicate 8 none,
    sealing := none, orig := false })

/-- What a policer has passed and dropped. -/
def policeCnt (s : State) (k : Nat) : Nat × Nat := tget (fun _ => (0, 0)) s.sched.police k
def putPoliceCnt (s : State) (k : Nat) (x : Nat × Nat) : State :=
  { s with sched := { s.sched with police := tset (fun _ => (0, 0)) s.sched.police k x } }

/-- A policer charges a frame it passed (R536, R537).
DEDUCED (log entry 63, unsafe). -/
def policeCharge (s : State) (id : Nat) (flen : Option Nat) (k : Nat) : State :=
  let n := getNode s (polNode k)
  let s1 := putNode s (polNode k) { n with tokens := n.tokens - (flen.getD 256 : Nat) }
  let s2 := putPoliceCnt s1 k (((policeCnt s k).1 + 1) % 2 ^ 32, (policeCnt s k).2)
  match flen with
  | some _ => s2
  | none => modFrame s2 id (fun f => { f with late := (polNode k, 0) :: f.late })

/-- The late charges of a frame whose F is now known (R537, R710).
DEDUCED (log entry 63, unsafe). -/
def settleLate (s : State) (id : Nat) : State :=
  match getFrame s id with
  | none => s
  | some f =>
    let s1 := f.late.foldl (fun s x =>
      let n := getNode s x.1
      putNode s x.1 { n with tokens := n.tokens - ((f.flen : Int) - 256 + x.2) }) s
    modFrame s1 id (fun f => { f with late := [] })

/-- The acting slice's outcome is carried out. -/
def applyOut (s : State) (h : HdrIn) (o : HdrOut) : State :=
  let id := h.view.frame
  let s1 := o.polices.foldl (fun s k => policeCharge s id o.flen k) s
  let s2 := match o.policed with
    | some k => putPoliceCnt (bump s1 (pgSch + Reg.SCH_POLICE_DROP)) k ((policeCnt s1 k).1, ((policeCnt s1 k).2 + 1) % 2 ^ 32)
    | none => s1
  let s3 := o.mirrors.foldl (fun s m => mirrorCopy s h m) s2
  let late (s : State) : State := match getFrame s id with
    | some f => if f.whole then settleLate s id else s
    | none => s
  let s4 := late s3
  match o.fate with
  | .drop => dropFrame s4 id
  | .poisoned => dropRef (endTx s4 id stPOISONED true) id
  | .queue d => toQueue s4 d o.flen
  | .carlis => { s4 with pipe := { s4.pipe with toCarlis := s4.pipe.toCarlis ++ [id] } }
  | .decrypt r => decEnqueue s4 r
  | .again v st decap => pushReentry s4 (.again v st (h.pass + 1) decap)
  | .ports d _ more =>
    let s5 := more.foldl (fun s p => pushReentry s (.copy { d with port := p, orig := false, src := 7 })) s4
    toClass s5 d o.flen

/-- Note on the frame which slices chose cut-through, and F as a length field gave it (R463, R465). -/
def noteChoice (s : State) (sl : SliceId) (h : HdrIn) (known : Option Nat) (o : HdrOut) : State :=
  match o.fate with
  | .ports _ false _ => modFrame s h.view.frame (fun f => { f with
      ctBy := f.ctBy ++ [sl.num], lenField := if known.isNone then o.flen else none })
  | _ => s

/-- A header in its slot: every working slice processes it; the acting slice's verdict is carried out (R52, R655). A frame
that has turned out bad meanwhile is discarded (R391).
DEDUCED (log entry 62, unsafe). -/
def headerSlot (s : State) (h : HdrIn) : State :=
  match getFrame s h.view.frame, actingSlice s with
  | some f, some act =>
    let known := entryLen s f h
    let r := (workingSlices s).foldl (fun (x : State × HdrOut) sl =>
      let y := sliceRun x.1 sl f h
      (noteChoice y.1 sl h known y.2, if sl = act then y.2 else x.2)) (s, ⟨.drop, [], [], none, none⟩)
    if f.bad then dropFrame r.1 h.view.frame else applyOut r.1 h r.2
  | _, _ => s

/-- A header slot without a parse: a header counted, a store-and-forward descriptor made. -/
def plainSlot (s : State) (a : Nat) : State :=
  (workingSlices s).foldl (fun s sl =>
    countDesc (signal (bump s (pgSlice sl 0 + Reg.PIP_HDR_CNT)) (srcSlice sl 0x11 0) a 1) sl true) s

/-- A descriptor for a frame as it is. -/
def bareDesc (id port cls queue src : Nat) : Desc where
  view := asReceived id
  port := port
  cls := cls
  queue := queue
  meta32 := 0
  fixes := []
  ts := ⟨0, 0, none⟩
  enc := none
  sf := true
  cut := none
  decap := false
  cells := 0
  src := src
  layers := List.replicate 8 none
  sealing := none
  orig := true

/-- Is queue n a valid receive queue of PF0? -/
def pf0Rx (s : State) (n : Nat) : Bool := validRx s n && recOwner s n == 0

/-- A frame that goes to a PF0 receive queue without lookup: a bad frame (R390) or one of P6 in direct mode (R426). -/
def bypassFrame (s : State) (id : Nat) (f : Frame) (p : Nat) : State :=
  if p = 6 then
    let q := fld (rd s (pgCbp + Reg.CBP_RX_Q)) 13 0
    if pf0Rx s q then toQueue (portStat (plainSlot s 0) 6 9 1) (bareDesc id 7 0 q p) (some f.flen)
    else dropFrame (setErr (portStat s 6 10 1) pgCbp 7) id
  else
    let q := fld (rd s (pgMac p + Reg.MAC_BAD_Q)) 13 0
    if pf0Rx s q then toQueue (portStat (plainSlot s 0) p 16 1) (bareDesc id 7 0 q p) (some f.flen)
    else dropFrame (signal (setErr (portStat s p 17 1) (pgMac p) 6) (srcEdge 0xE p 2) 0 1) id

/-- The first received header takes its slot (R435, R426, R390). -/
def slotReceived (s : State) (id : Nat) (t : List Nat) : State :=
  let s0 := useCredits s (acct 1 0) 1 1
  let s1 := { s0 with pipe := { s0.pipe with q0 := t } }
  match getFrame s1 id with
  | none => s1
  | some f =>
    let p := f.port.getD 6
    let direct := p == 6 && fbit (rd s (pgCbp + Reg.CBP_MODE)) 1
    if direct || (f.bad && badPass s p) then bypassFrame s1 id f p
    else headerSlot s1 ⟨asReceived id, 0, none, 0, false⟩

/-- The first header to be sent takes its slot (R435, R436). -/
def slotSent (s : State) (x : Header) (t : List Header) : State :=
  let s0 := useCredits s (acct 1 1) 1 1
  let s1 := { s0 with pipe := { s0.pipe with q1 := t } }
  match x with
  | .host id => headerSlot s1 ⟨asReceived id, 1, none, 0, false⟩
  | .carlis id p c => toClass (plainSlot s1 1) (bareDesc id p c 0 7) ((getFrame s1 id).map (·.flen))

/-- HEADER_PROCESS: the first header of account 0 takes a slot; with none waiting, or no credit left for it, that of
account 1 does (R115, R121, R436, R440).
DESIGN CHOICE (log entry 102, unsafe). -/
def execHeaderProcess (s : State) : Host.Outcome State Fault Refusal :=
  let sent : State := match s.pipe.q1 with
    | [] => s
    | x :: t => if canStart s (acct 1 1) 1 1 then slotSent s x t else s
  if !pipeRuns s || (actingSlice s).isNone then .next s
  else match s.pipe.q0 with
  | [] => .next sent
  | id :: t => .next (if canStart s (acct 1 0) 1 1 then slotReceived s id t else sent)

/-- REENTRY: the oldest entry of the re-entry queue that joined in an earlier tick takes a slot of account 2 (R458,
R459). -/
def execReentry (s : State) : Host.Outcome State Fault Refusal :=
  if !pipeRuns s || (actingSlice s).isNone || s.pipe.q2.length ≤ s.pipe.q2New || !canStart s (acct 1 2) 1 1 then .next s
  else match s.pipe.q2 with
  | [] => .next s
  | e :: t =>
    let s0 := useCredits s (acct 1 2) 1 1
    let s1 := { s0 with pipe := { s0.pipe with q2 := t } }
    match e with
    | .copy d => .next (admitDesc (plainSlot s1 2) d none)
    | .again v st pass decap => .next (headerSlot s1 ⟨v, 2, some st, pass, decap⟩)

/-- WINDOW_WRITE: a word of the parse-graph or action-record window, in force from the next boundary (R469); it is
sound again in every copy (R636).
DEDUCED (log entry 64, unsafe). -/
def windowWrite (s : State) (a : Nat) (w : Word) : State :=
  let s1 := wr s a w
  { s1 with pipe := { s1.pipe with
    winBad := s1.pipe.winBad.filter (fun x => x.2 != winWord a)
    edgeBad := s1.pipe.edgeBad.filter (fun x => x != winWord a) } }

/-- Is a block of the edge copy poisoned (R636)? -/
def edgePoisoned (s : State) (a : Nat) : Bool := s.pipe.edgeBad.any (fun x => x / 16 == winWord a / 16)

/-- PIP page of a slice (R470). -/
def viewPip (s : State) (off : Nat) : Option Word :=
  if off = Reg.PAGE_STAT then some (w32 s.pipe.q2.length) else none

end Sys2Proof.Machine
end

