-- ==== Sys2Proof/Machine/Scheduling.lean ====
section
/-! DEFINITION. Nodes and token buckets, the selection of frames for a port, delivery to receive queues, spill, and the
shaper and policer tables (chapter 14). Admission from host send queues stands in Admission.lean. -/
namespace Sys2Proof.Machine

/-! ### Entry writes (R510 to R513, R535) -/

/-- Word w of shaper table entry i as it would stand after a write of `x` to word k. -/
def afterWrite (s : State) (base k w : Nat) (x : Word) : Word := if k = w then x else rd s (base + 4 * w)

/-- Is entry i a queue, tenant or class node; does it take a group; does it take a limit (R511)? -/
def takesWeight (i : Nat) : Bool := decide (i < 17464)
def takesGroup (i : Nat) : Bool := decide (i < 17408)
def takesLimit (s : State) (i : Nat) : Bool :=
  if i < 16384 then !recValid s i || recRx s i else decide (i < 17464)

/-- Why a shaper table entry with these words is refused (R512). -/
def nodeReason (s : State) (i : Nat) (w0 w1 w2 w3 : Word) : Option Nat :=
  let cls := decide (17408 ≤ i ∧ i < 17464)
  firstReason [
    (1, fld w1 31 27 != 0 || fld w2 30 28 != 0 || fld w3 31 17 != 0
      || (!takesWeight i && fld w2 15 0 != 0) || (!takesGroup i && (fld w2 27 16 != 0 || fbit w2 31))
      || (!takesLimit s i && fld w3 16 0 != 0)),
    (2, decide (w0 ≠ 0) && decide (fld w1 23 0 < 64)),
    (3, takesWeight i && fld w2 15 0 == 0),
    (4, (!cls && (fbit w1 25 || fbit w1 26)) || (fbit w1 25 && fbit w1 26)),
    (5, i == 17471)]

/-- SCH_ENTRY_ERR and bad_entry (R512). -/
def entryError (s : State) (i : Nat) (police : Bool) (reason : Nat) : State :=
  let s1 := setErr s pgSch 1
  if fbit (rd s1 (pgSch + Reg.SCH_ENTRY_ERR)) 31 then s1
  else wr s1 (pgSch + Reg.SCH_ENTRY_ERR) (w32 (i + 32768 * police.toNat + 65536 * reason + 2 ^ 31))

/-- SHAPER_ENTRY_WRITE: word k of entry i (R511, R512). -/
def shaperWrite (s : State) (i k : Nat) (x : Word) : State :=
  let base := winShaper + 32 * i
  let w := fun n => afterWrite s base k n x
  if 4 ≤ k then s
  else if fbit (w 1) 24 then match nodeReason s i (w 0) (w 1) (w 2) (w 3) with
    | some r => entryError s i false r
    | none => wr s (base + 4 * k) x
  else wr s (base + 4 * k) x

/-- POLICER_ENTRY_WRITE: word k of entry i (R535). -/
def policerWrite (s : State) (i k : Nat) (x : Word) : State :=
  let base := winPolicer + 32 * i
  let w := fun n => afterWrite s base k n x
  if 2 ≤ k ∧ k < 6 then s
  else if fbit (w 1) 24 then match firstReason [
      (1, fld (w 1) 31 25 != 0 || w 6 != 0 || w 7 != 0), (2, decide (fld (w 1) 23 0 < 64))] with
    | some r => entryError s i true r
    | none => wr s (base + 4 * k) x
  else wr s (base + 4 * k) x

/-- What hardware keeps of a node, as words 4 to 7 of its entry show it (R511). -/
def nodeWord (s : State) (i k : Nat) : Word :=
  let n := getNode s i
  if k = 4 then BitVec.ofInt 32 n.tokens else if k = 5 then w32 n.frac else if k = 6 then w32 n.tag else w32 n.occ

/-- What hardware keeps of a policer (R535). -/
def policerWord (s : State) (i k : Nat) : Word :=
  let n := getNode s (polNode i)
  if k = 2 then BitVec.ofInt 32 n.tokens else if k = 3 then w32 n.frac
  else if k = 4 then w32 (policeCnt s i).1 else w32 (policeCnt s i).2

/-! ### Token buckets (R515 to R518) -/

/-- Shaper rate of a node in force, 0 for an unshaped or invalid one. -/
def nodeRate (s : State) (i : Nat) : Nat := if shpValid s i then (shpWord s i 0).toNat else 0

/-- The group shaper a queue or tenant node names (R512). -/
def nodeGroup (s : State) (i : Nat) : Option Nat :=
  let w := shpWord s i 2
  if takesGroup i && shpValid s i && fbit w 31 then some (17472 + fld w 27 16) else none

/-- Is a node by itself in credit? -/
def nodeCredit (s : State) (i : Nat) : Bool := nodeRate s i == 0 || decide (0 < (getNode s i).tokens)

/-- May a node serve (R517)? -/
def inCredit (s : State) (i : Nat) : Bool := nodeCredit s i && ((nodeGroup s i).map (nodeCredit s)).getD true

/-- A shaped node is charged, below zero if need be (R516). -/
def chargeOne (s : State) (i bytes : Nat) : State :=
  if nodeRate s i = 0 then s
  else
    let n := getNode s i
    putNode s i { n with tokens := n.tokens - bytes }

/-- A node and its group shaper are charged (R517). -/
def chargeTokens (s : State) (i bytes : Nat) : State :=
  match nodeGroup s i with
  | none => chargeOne s i bytes
  | some g => chargeOne (chargeOne s i bytes) g bytes

/-- A bucket refilled (R515). -/
def refillBucket (n : Node) (rate t burst : Nat) : Node :=
  let acc := n.tokens * 65536 + n.frac + (rate * t * 1024 / 125000 : Nat)
  let acc1 := if (burst * 65536 : Int) < acc then (burst * 65536 : Int) else acc
  { n with tokens := acc1 / 65536, frac := (acc1 % 65536).toNat }

/-- The indices of the entries of a table of 32-byte entries that are valid in `t`. -/
def validEntries (t : Table Word) (base count : Nat) : List Nat :=
  (t.filter (fun e => decide (base ≤ e.1 ∧ e.1 < base + 32 * count) && (e.1 - base) % 32 == 4 && fbit e.2 24)).map
    (fun e => (e.1 - base) / 32)

/-- The parent whose virtual time a node starts from (R510, R513). -/
def nodeParent (s : State) (i : Nat) : Option Nat :=
  if i < 16384 then (if !recValid s i then some hostRoot else if recRx s i then none else some (queueParent (recOwner s i)))
  else if i < 17408 then some hostRoot
  else if i < 17464 then some (portNode ((i - 17408) / 8))
  else none

/-- The virtual time of a parent. -/
def vtOf (s : State) (parent : Nat) : Nat := tget (fun _ => 0) s.sched.vt parent
def putVt (s : State) (parent v : Nat) : State :=
  { s with sched := { s.sched with vt := tset (fun _ => 0) s.sched.vt parent v } }

/-- A node that has become valid starts (R513). -/
def startNode (s : State) (i burst : Nat) (parent : Option Nat) : State :=
  let n := getNode s i
  putNode s i { n with tokens := burst, frac := 0, tag := (parent.map (vtOf s)).getD 0 }

/-! ### Fair queueing (R519 to R521) -/

/-- Is tag a earlier than tag b (R92)? -/
def tagBefore (a b : Nat) : Bool := let d := (b + 2 ^ 32 - a) % 2 ^ 32; decide (0 < d ∧ d < 2 ^ 31)

/-- A child waits for credit, or is eligible again after that (R521). -/
def touchNode (s : State) (parent i : Nat) : State :=
  let n := getNode s i
  if !inCredit s i then putNode s i { n with waited := true }
  else if n.waited then
    putNode s i { n with waited := false, tag := if tagBefore n.tag (vtOf s parent) then vtOf s parent else n.tag }
  else s

/-- The eligible child with the earliest tag; equal tags go to the lower index, which comes first (R520). -/
def earliest (s : State) : List Nat → Option Nat → Option Nat
  | [], best => best
  | i :: t, none => earliest s t (some i)
  | i :: t, some b => earliest s t (if tagBefore (getNode s i).tag (getNode s b).tag then some i else some b)

/-- The parent serves child i with a charge of L bytes (R519). -/
def serveChild (s : State) (parent i bytes : Nat) : State :=
  let n := getNode s i
  let weight := if shpValid s i then Nat.max 1 (fld (shpWord s i 2) 15 0) else 1
  putNode (putVt s parent n.tag) i { n with tag := (n.tag + bytes * 1024 / weight) % 2 ^ 32 }

/-! ### Gates and pauses as the scheduler sees them -/

/-- Is class c of port p paused as the scheduler sees it (R399, R400)? -/
def schedPaused (s : State) (p c : Nat) : Bool :=
  let x := getPort s p
  (decide (s.tck.boundaries < tget (fun _ => 0) x.pausedTill c) && !nbit x.pauseNew c) || nbit x.pauseEnded c

/-- The gates and the interval of a gate entry (R405). -/
def gateBits (e : Word) : Nat := fld e 7 0
def gateTicks (e : Word) : Nat := fld e 23 8

/-- The cycle of a gate list. -/
def gclCycle (l : List Word) : Nat := l.foldl (fun a e => a + gateTicks e) 0

/-- The entry whose span contains position n, its index and the ticks left of its span from n on (R408). -/
def gateAt : List Word → Nat → Nat → Option (Nat × Word × Nat)
  | [], _, _ => none
  | e :: t, k, n => if n < gateTicks e then some (k, e, gateTicks e - n) else gateAt t (k + 1) (n - gateTicks e)

/-- Position p in the cycle of tick t (R408). -/
def gclPos (x : PortUnit) (t : Nat) : Nat := (((t : Int) - x.operA) % (gclCycle x.oper : Nat)).toNat

/-- Ticks of consecutive entries from the front that leave class c open. -/
def openPrefix (c : Nat) : List Word → Nat
  | [] => 0
  | e :: t => if fbit e c then gateTicks e + openPrefix c t else 0

/-- Length in ticks of the open run of class c that begins at tick t: none when it never ends, 0 when closed (R409). -/
def openRun (x : PortUnit) (t c : Nat) : Option Nat :=
  if x.oper.isEmpty || x.oper.all (fun e => fbit e c) then none
  else match gateAt x.oper 0 (gclPos x t) with
  | none => none
  | some (k, e, left) => if fbit e c then some (left + openPrefix c (x.oper.drop (k + 1) ++ x.oper)) else some 0

/-- The longest open run of class c in the cycle. -/
def longestRun (x : PortUnit) (c : Nat) : Option Nat :=
  if x.oper.isEmpty || x.oper.all (fun e => fbit e c) then none
  else some ((List.range x.oper.length).foldl (fun a k => Nat.max a (openPrefix c (x.oper.drop k ++ x.oper))) 0)

/-- Does a frame of `n` bytes with FCS fit a run of `ticks` ticks less `from` core cycles already gone (R409)? Its wire
time is (n + 20) × 800 / rate ns. -/
def fitsRun (s : State) (rate n ticks gone : Nat) : Bool :=
  decide ((n + 20) * 800 * 8 + gone * 5 * rate ≤ ticks * s.T * rate * 8)

/-- Rate of port p in units of 10 Mb/s, P6 included. -/
def portRate (s : State) (p : Nat) : Nat := if p = 6 then 1 else modeRate (portMode s p)

/-- F of the frame of a descriptor as sent, none when it is not known yet. -/
def sentLen (s : State) (d : Desc) : Option Nat :=
  match getFrame s d.view.frame with
  | none => some 64
  | some f =>
    let cutTo (n : Nat) : Nat := (d.cut.map (fun c => Nat.min c n)).getD n
    if f.whole then some (Nat.max 64 (sentBytes s d (cutTo (viewLen f d.view))))
    else f.lenField.map (fun n => Nat.max 64 (sentBytes s d (cutTo (n - 4 + d.view.head.length - d.view.skip))))

/-- F for the fit of a gate (R409, R709). -/
def fitLen (s : State) (d : Desc) : Nat := (sentLen s d).getD (fld (rd s (pgMac d.port + Reg.MAC_MAX_FRAME)) 14 0)

/-! ### Selection (R523, R524) -/

/-- May the head of a FIFO be selected: store-and-forward frames whole, protected frames protected (R464, R523)? -/
def headReady (s : State) (d : Desc) : Bool :=
  !d.unsealed && (!d.sf || ((getFrame s d.view.frame).map (·.whole)).getD true)

/-- A class of port p that could be selected but for gates. -/
def classReady (s : State) (p c : Nat) : Bool :=
  match (fifoOf s (8 * p + c)).head? with
  | none => false
  | some d => headReady s d && inCredit s (classNode p c) && (p == 6 || !schedPaused s p c)

/-- Can the head of class c never fit its gate (R409)? -/
def neverFits (s : State) (p c : Nat) : Bool :=
  match (fifoOf s (8 * p + c)).head? with
  | none => false
  | some d => match longestRun (getPort s p) c with
    | none => false
    | some r => !fitsRun s (portRate s p) (fitLen s d) r 0

/-- Does the gate of class c let its head start in this tick (R524)? -/
def gateLets (s : State) (p c : Nat) : Bool :=
  match (fifoOf s (8 * p + c)).head? with
  | none => false
  | some d => p == 6 || (match openRun (getPort s p) s.tck.tick c with
    | none => true
    | some r => fitsRun s (portRate s p) (fitLen s d) r 0)

/-- Wire bytes of frames the MAC of port p holds and has not sent.
DEDUCED (log entry 66, unsafe). -/
def unsentBytes (s : State) (p : Nat) : Nat :=
  let x := getPort s p
  (x.held ++ x.sending.toList ++ x.preempted.toList).foldl (fun a d => a + (sentLen s d).getD 256 + 20) 0

/-- May the scheduler hand port p a frame now, credits aside (R524)? -/
def portWants (s : State) (p : Nat) : Bool :=
  decide (unsentBytes s p * 800 < portRate s p * s.T) && inCredit s (portNode p)

/-- The classes of port p that are eligible. -/
def eligible (s : State) (p : Nat) : List Nat :=
  (List.range 8).filter (fun c => classReady s p c && gateLets s p c)

/-- Is a class node strict? -/
def isStrict (s : State) (p c : Nat) : Bool := shpValid s (classNode p c) && fbit (shpWord s (classNode p c) 1) 25

/-- The class R524 selects. -/
def chooseClass (s : State) (p : Nat) : Option Nat :=
  let es := eligible s p
  match (es.filter (isStrict s p)).getLast? with
  | some c => some c
  | none => (earliest s (es.map (classNode p)) none).map (fun i => (i - 17408) % 8)

/-- A selected frame's charge at a class or port node: F + 20, or 276 now and the rest when it is whole (R516, R710). -/
def chargeSent (s : State) (d : Desc) (i : Nat) : State :=
  match sentLen s d with
  | some n => chargeTokens s i (n + 20)
  | none =>
    let adds := sentBytes s d 0
    let s1 := chargeTokens s i 276
    if nodeRate s i = 0 then s1
    else modFrame s1 d.view.frame (fun f => { f with
      late := (i, (adds : Int) - 4 + d.view.head.length - d.view.skip) :: f.late })

/-- A frame discarded at selection: it can never fit its gate (R409). -/
def gateDrop (s : State) (p c : Nat) : State :=
  match fifoOf s (8 * p + c) with
  | [] => s
  | d :: t => dropDesc (setErr (portStat (putFifo s (8 * p + c) t) p 39 1) (pgMac p) 4) d

/-- A descriptor passes its port's gatekeeper (R48, R294): a TX entry's work is done but for its record, and a protected
frame has met with success. -/
def handOver (s : State) (d : Desc) : State :=
  let s1 := match d.enc with
    | some sa => cipOutcome s sa 1
    | none => s
  if d.orig then endTx s1 d.view.frame stOK false else s1

/-- SCHEDULER_SELECT: one frame of port p is selected and handed to its MAC (R524). -/
def execSchedulerSelect (p : Fin 7) (s : State) : Host.Outcome State Fault Refusal :=
  let p := p.val
  if !gkOpen s || !canStart s (acct 7 p) 1 1 || !portWants s p then .next s
  else match (List.range 8).find? (fun c => classReady s p c && neverFits s p c) with
  | some c => .next (gateDrop s p c)
  | none =>
    let s0 := (List.range 8).foldl (fun s c =>
      if (fifoOf s (8 * p + c)).isEmpty then s else touchNode s (portNode p) (classNode p c)) s
    match chooseClass s0 p with
    | none => .next s0
    | some c => match fifoOf s0 (8 * p + c) with
      | [] => .next s0
      | d :: t =>
        let s1 := putFifo (useCredits s0 (acct 7 p) 1 1) (8 * p + c) t
        let n := (sentLen s1 d).getD 256 + 20
        let s2 := if isStrict s1 p c then s1 else serveChild s1 (portNode p) (classNode p c) n
        let s3 := chargeSent (chargeSent s2 d (classNode p c)) d (portNode p)
        let s4 := (workingSlices s3).foldl (fun s sl =>
          signal (bump s (pgSlice sl 2 + Reg.SCH_SEL_CNT + 4 * p)) (srcSlice sl 0x13 0) p 1) s3
        let x := getPort s4 p
        .next (handOver (putPort s4 p { x with held := x.held ++ [d] }) d)

/-! ### Receive queues (R529) -/

/-- The posted buffer at the head of receive queue n. -/
def headBuffer (s : State) (n : Nat) : Option WorkItem := (itemsOf s n).find? (fun i => i.stage == .posted)

/-- Remove the first frame for queue n from the order of arrival. -/
def popRx (n : Nat) : List Desc → List Desc
  | [] => []
  | d :: t => if d.queue = n then t else d :: popRx n t

/-- RX_DELIVER: the first frame for receive queue n is delivered into its head buffer, dropped, or waits (R529). -/
def execRxDeliver (n : Fin 16384) (s : State) : Host.Outcome State Fault Refusal :=
  let n := n.val
  match s.sched.rx.find? (fun d => d.queue == n) with
  | none => .next s
  | some d => match getFrame s d.view.frame with
    | none => .next { s with sched := { s.sched with rx := popRx n s.sched.rx } }
    | some f =>
      let fn := recOwner s n
      let s1 := { s with sched := { s.sched with rx := popRx n s.sched.rx } }
      if !gkOpen s || !f.whole || d.unsealed then .next s
      else if !validRx s n || isHalted s fn || inFlr s fn || !(getWq s n).served then
        .next (dropDesc (bump s1 (pgSch + Reg.SCH_RXQ_GONE)) d)
      else if !mayRequest s fn || !inCredit s n || beatsLeft s 1 = 0 then .next s
      else match headBuffer s n with
      | none => .next s
      | some i =>
        let l := sentData f d
        let len := l.length
        if leAt i.bytes 16 2 < len then .next (dropDesc (bump s1 (pgSch + Reg.SCH_RXBUF_DROP)) d)
        else
          let marks := viewBytes f d.view
          let out := (l.zip (List.range len)).map (fun x => (x.1, ((marks[x.2]?).map (·.2)).getD false))
          let s2 := chargeTokens s1 n (len + 24)
          let s3 := match d.enc with
            | some sa => cipOutcome s2 sa 1
            | none => s2
          .next (modItem s3 i.wq i.idx (fun x => { x with
            stage := .deliver, rxd := some d, out := out, outAt := leAt i.bytes 8 8, done := 0 }))

/-! ### Spill (R530 to R534) -/

/-- First DRAM byte of the ring of a class, and the cells it holds (R530). -/
def ringBase (s : State) (pc : Nat) : Nat :=
  (fld (rd s (pgSch + Reg.SCH_SPILL_BASE)) 17 0 + pc * spillSlot s) * 2 ^ 20
def ringCells (s : State) : Nat := spillSlot s * 4096

/-- The node under which the cells a class has read back are counted until they are released (R534). -/
abbrev backNode (pc : Nat) : Nat := 40960 + pc

/-- Cells of a class in its ring. -/
def ringUsed (s : State) (pc : Nat) : Nat := (ringOf s pc).foldl (fun a x => a + x.cells) 0
def putRing (s : State) (pc : Nat) (l : List Spilled) : State :=
  { s with sched := { s.sched with rings := tset (fun _ => []) s.sched.rings pc l } }

/-- DRAM address of cell k of a spilled frame. -/
def cellAddr (s : State) (pc pos k : Nat) : Nat := ringBase s pc + (pos + k) % ringCells s * 256

/-- Bursts the cells of a frame take on each channel. -/
def spillBursts (s : State) (pc pos : Nat) (len : Nat) : Table Nat :=
  (List.range (cdiv len 64)).foldl (fun t b =>
    match dramWhere s (cellAddr s pc pos (b / 4) + 64 * (b % 4)) with
    | none => t
    | some (n, _) => tset (fun _ => 0) t n (tget (fun _ => 0) t n + 1)) []

/-- Account 0 work grant of channel n in this tick. -/
def spillGrant (s : State) (n : Nat) : Nat :=
  ((planInForce s).filter (fun e => e.key == acct (0x10 + n) 0)).foldl (fun a e => a + e.work) 0

/-- Spill write bursts already made on channel n in this tick. -/
def spilledNow (s : State) (n : Nat) : Nat := tget (fun _ => 0) s.sched.spillWrites n

/-- May the bursts be made now? Writes take at most half the grant (R533). -/
def spillMay (s : State) (t : Table Nat) (write : Bool) : Bool :=
  t.all (fun e => memMay s e.1 0 e.2 && (!write || decide (spilledNow s e.1 + e.2 ≤ spillGrant s e.1 / 2)))

/-- Write a frame's bytes to its cells.
DEDUCED (log entry 65, unsafe). -/
def spillStore (s : State) (pc pos : Nat) (l : List (Byte × Bool)) : State :=
  (List.range (cdiv l.length 256)).foldl (fun s k =>
    dramWrite 0 4 s (cellAddr s pc pos k) (((l.drop (256 * k)).take 256).map (fun x => (some x.1, x.2)))) s

/-- Read a frame's bytes from its cells.
DEDUCED (log entry 65, unsafe). -/
def spillLoad (s : State) (pc pos : Nat) (len : Nat) : State × List (Byte × Bool) :=
  (List.range (cdiv len 256)).foldl (fun x k =>
    let r := dramRead 0 4 x.1 (cellAddr s pc pos k) (Nat.min 256 (len - 256 * k))
    (r.1, x.2 ++ r.2)) (s, [])

/-- SPILL_WRITE: the next whole frame that waits for its class's ring is written to it, or dropped (R532, R533). -/
def execSpillWrite (p : Fin 7) (c : Fin 8) (s : State) : Host.Outcome State Fault Refusal :=
  let pc := 8 * p.val + c.val
  match spillQOf s pc with
  | [] => .next s
  | d :: t => match getFrame s d.view.frame with
    | none => .next (putSpillQ s pc t)
    | some f =>
      if !f.whole || !gkOpen s then .next s
      else
        let s1 := putSpillQ s pc t
        let l := viewBytes f d.view
        let cells := cellsFor l.length
        let pos := tget (fun _ => 0) s.sched.ringTail pc
        let bursts := spillBursts s pc pos l.length
        let room := decide (ringUsed s pc + cells ≤ ringCells s) && dramRange s (ringBase s pc) (spillSlot s * 2 ^ 20)
        if !room || !spillMay s bursts true then
          .next (dropDesc (setErr (bump s1 (pgSch + Reg.SCH_SPILL_DROP)) pgSch 3) d)
        else
          let s2 := spillStore s1 pc pos l
          let s3 := { s2 with sched := { s2.sched with
            ringTail := tset (fun _ => 0) s2.sched.ringTail pc ((pos + cells) % ringCells s),
            spillWrites := bursts.foldl (fun t e => tset (fun _ => 0) t e.1 (tget (fun _ => 0) t e.1 + e.2))
              s2.sched.spillWrites } }
          let keep : Frame := { f with
            entry := if d.orig then f.entry else none
            data := List.replicate l.length 0, fcs := [], poison := [], cells := 0, charges := [], grow := [], late := [] }
          let s4 := bump (putRing s3 pc (ringOf s3 pc ++ [⟨d, keep, pos, cells⟩])) (pgSch + Reg.SCH_SPILLED)
          let s5 := if d.orig then modFrame s4 d.view.frame (fun f => { f with entry := none }) else s4
          .next (dropRef s5 d.view.frame)

/-- SPILL_READ_BACK: the oldest spilled frame of a class is read back into cells and joins its FIFO (R534). -/
def execSpillReadBack (p : Fin 7) (c : Fin 8) (s : State) : Host.Outcome State Fault Refusal :=
  let pc := 8 * p.val + c.val
  match ringOf s pc with
  | [] => .next s
  | x :: t =>
    let back := (getNode s (backNode pc)).occ
    let len := x.frame.data.length
    let bursts := spillBursts s pc x.pos len
    if !gkOpen s || (0 < back && 64 < back + x.cells) || s.pipe.freeCells < x.cells || !spillMay s bursts false then .next s
    else
      let r := spillLoad (putRing s pc t) pc x.pos len
      let f : Frame := { x.frame with
        data := r.2.map (·.1), flen := len + 4, cells := x.cells, poison := poisonList r.2, refs := 1, port := none,
        fn := if x.frame.entry.isSome then x.frame.fn else 0x7FF, whole := true }
      let n := newFrame r.1 f
      let s1 := chargeNode (chargeNode n.1 n.2 (backNode pc) x.cells) n.2 (classNode p.val c.val) x.cells
      let d := { x.desc with view := asReceived n.2, cells := x.cells, orig := x.desc.orig && x.frame.entry.isSome }
      .next (joinFifo s1 d)

/-! ### The boundary -/

/-- Every node that may wait for credit is looked at before the refill (R521). -/
def touchWaiting (s : State) : State :=
  let s1 := s.sched.fifo.foldl (fun s e =>
    if e.2.isEmpty then s else touchNode s (portNode (e.1 / 8)) (classNode (e.1 / 8) (e.1 % 8))) s
  (s.queues.items.filter (fun i => i.stage == .admission)).foldl (fun s i =>
    let s2 := touchNode s (queueParent i.fn) i.wq
    if i.fn < 2 then s2 else touchNode s2 hostRoot (tenantNode (i.fn - 2))) s1

/-- SCH_CREDIT_WAIT of the tick that ends (R540). -/
def creditWaits (s : State) : State :=
  (List.range 7).foldl (fun s p =>
    if (eligible s p).isEmpty || canStart s (acct 7 p) 1 1 then s
    else (workingSlices s).foldl (fun s sl => bump s (pgSlice sl 2 + Reg.SCH_CREDIT_WAIT + 4 * p)) s) s

/-- Nodes and policers whose entries have become valid start, and every shaped one is refilled (R513, R515, R536). `old`
is the window state of the tick that ends; `s` already has the new one in force. -/
def refillBoundary (old : Table Word) (s : State) : State :=
  let burst (w : Nat) : Nat := fld (tget regDflt s.eff w) 23 0
  let fresh (base i : Nat) : Bool := !fbit (tget regDflt old (base + 32 * i + 4)) 24
  let s1 := (validEntries s.eff winShaper 20480).foldl (fun s i =>
    if fresh winShaper i then startNode s i (burst (winShaper + 32 * i + 4)) (nodeParent s i)
    else s) s
  let s2 := (validEntries s.eff winShaper 20480).foldl (fun s i =>
    if nodeRate s i = 0 || fresh winShaper i then s
    else putNode s i (refillBucket (getNode s i) (nodeRate s i) s.T (burst (winShaper + 32 * i + 4)))) s1
  (validEntries s.eff winPolicer 4096).foldl (fun s k =>
    if fresh winPolicer k then
      let n := getNode s (polNode k)
      putNode s (polNode k) { n with tokens := burst (winPolicer + 32 * k + 4), frac := 0 }
    else putNode s (polNode k)
      (refillBucket (getNode s (polNode k)) (polWord s k 0).toNat s.T (burst (winPolicer + 32 * k + 4)))) s2

/-- What the slices' SCH pages show from a boundary on (R540), and the spill write bursts of a new tick. -/
def schedSnapshot (s : State) : State :=
  let m := (List.range 7).foldl (fun a p => a + (if (eligible s p).isEmpty then 0 else 2 ^ p)) 0
  let s1 := (workingSlices s).foldl (fun s sl => wr s (pgSlice sl 2 + Reg.PAGE_STAT) (w32 m)) s
  { s1 with sched := { s1.sched with spillWrites := [] } }

/-- SCH global page (R539). -/
def viewSch (s : State) (off : Nat) : Option Word :=
  let sel := fld (rd s (pgSch + Reg.SCH_NODE_SEL)) 14 0
  if off = Reg.PAGE_STAT then
    some (w32 ((List.range 56).any (classSpilled s)).toNat ||| w32 (2 * (s.pipe.freeCells / 2)))
  else if off = Reg.SCH_NODE_VT then
    some (w32 (if sel < 16384 then (if recValid s sel && recOwner s sel < 2 then vtOf s hostRoot else 0) else vtOf s sel))
  else if off = Reg.SCH_SPILL_USE then
    some (if 17408 ≤ sel ∧ sel < 17464 then w32 (ringUsed s (sel - 17408)) else 0)
  else if off = Reg.SCH_FREE_CELLS then some (w32 s.pipe.freeCells)
  else none

/-- SCH_SPILL_BASE and SCH_SPILL_SLOT are written only while no class is spilled (R531). -/
def spillCfgWrite (s : State) (off : Nat) (w : Word) : State :=
  if (List.range 56).any (classSpilled s) then setErr s pgSch 4 else wr s (pgSch + off) w

end Sys2Proof.Machine
end

