-- ==== Sys2Proof/Machine/Ports.lean ====
section
/-! DEFINITION. The network ports P0 to P5 (chapter 10): enabling, link state, reception, flow control, time gates,
preemption and transmission. -/
namespace Sys2Proof.Machine

/-! ### Link state (R386, R387) -/

/-- Is port p usable (R387)? -/
def portUsable (s : State) (p : Nat) : Bool :=
  let x := getPort s p
  x.enabled && x.linkUp && !x.remoteFault

/-- Logical lanes a mode uses (R376). -/
def modeLanes (m : Nat) : Nat := modePam4 m + modeNrz m

/-- A descriptor's frame has left the MAC, or was discarded there (R298): its record becomes ready, its cells go. -/
def doneSending (s : State) (d : Desc) (time : Option Nat) : State :=
  match getFrame s d.view.frame with
  | none => s
  | some f =>
    let s1 := match (if d.orig then f.entry else none) with
      | some e => readyRecord s e.1 e.2 time
      | none => s
    dropRef s1 d.view.frame

/-- A frame in transmission is ended with an invalid code or cut off (R387, R391, R396).
DEDUCED (log entry 99, unsafe). -/
def abortSend (s : State) (p : Nat) (d : Desc) : State :=
  doneSending (setErr (portStat (emit s (.wire p [] false)) p 36 1) (pgMac p) 3) d none

/-- The transmit MACs send idle only: in recovery, and once the gatekeepers have closed for a warm reset (R204, R217). -/
def macIdle (s : State) : Bool := s.power.phase == .recovery || !warmOpen s

/-- What is in transmission on a port is cut off (R387). -/
def cutOff (s : State) (p : Nat) : State :=
  let x := getPort s p
  let s1 := putPort s p { x with sending := none, preempted := none, resumed := false }
  (x.sending.toList ++ x.preempted.toList).foldl (fun s d =>
    doneSending (portStat (emit s (.wire p [] false)) p 36 1) d none) s1

/-- LINK_STATE_CHANGE: link_up and the faults follow the PCS (R386). -/
def execLinkStateChange (p : Fin 6) (st : LinkState) (s : State) : Host.Outcome State Fault Refusal :=
  let p := p.val
  let x := getPort s p
  let m := rd s (pgPcs p + Reg.PCS_MODE)
  let n := modeLanes (fld m 3 0)
  let up := x.enabled && !x.training && decide (0 < n) && decide (st.locks.val % 2 ^ n = 2 ^ n - 1) && st.aligned
    && (st.fec || fbit m 4) && !st.localFault
  let s1 := putPort s p { x with
    locks := st.locks.val, fecLock := st.fec, localFault := st.localFault, remoteFault := st.remoteFault, linkUp := up }
  let s2 := if up != x.linkUp then setErr s1 (pgPcs p) 2 else s1
  let s3 := if x.linkUp && !up then
      signal (bump s2 (pgPcs p + Reg.PCS_LINK_DOWN_CNT)) (srcEdge 0xF p 2) 0 1 else s2
  .next (if portUsable s p && !portUsable s3 p then cutOff s3 p else s3)

/-- TRAINING_ATTEMPT_END: a link training attempt ends with the taps trained, or fails and training starts again
(R380). -/
def execTrainingAttemptEnd (p : Fin 6) (ok : Bool) (taps : Vector Word 4) (s : State) :
    Host.Outcome State Fault Refusal :=
  let p := p.val
  let x := getPort s p
  if !x.enabled || !x.training then .next s
  else if ok then
    .next (wrMany (putPort s p { x with training := false }) (pgPcs p + Reg.PCS_TXEQ_ACT)
      (taps.toList.map (fun w => w &&& 0x1F1F)))
  else .next (bump (setErr s (pgPcs p) 3) (pgPcs p + Reg.PCS_TRAIN_FAIL_CNT))

/-! ### Enabling (R382 to R385) -/

/-- Is a mode legal on port p (R376)? -/
def modeLegal (p m : Nat) : Bool := if p < 2 then decide (1 ≤ m ∧ m ≤ 5) else decide (6 ≤ m ∧ m ≤ 10)

/-- May a mode train (R376)? -/
def mayTrain (m : Nat) : Bool := [1, 2, 4, 5, 6, 7].contains m

/-- Is the lane map valid (R378)? -/
def laneMapOk (p m map : Nat) : Bool :=
  let l := (List.range (modeLanes m)).map (fun i => map / 4 ^ i % 4)
  decide (2 ≤ p) || (List.range l.length).all (fun i => !((l.drop (i + 1)).contains (l.getD i 0)))

/-- H_min (R403). -/
def headroomMin (s : State) (p rate : Nat) : Nat :=
  let m := fld (rd s (pgMac p + Reg.MAC_MAX_FRAME)) 14 0
  let d := fld (rd s (pgMac p + Reg.MAC_PFC_DELAY)) 15 0
  cdiv (rate * (2 * s.T + d) + 800 * m) 67200 + cdiv m 256

def xoffOf (s : State) (p c : Nat) : Nat := fld (rd s (pgMac p + Reg.MAC_XOFF + 16 * c)) 16 0
def xonOf (s : State) (p c : Nat) : Nat := fld (rd s (pgMac p + Reg.MAC_XON + 16 * c)) 16 0
def headroomOf (s : State) (p c : Nat) : Nat := fld (rd s (pgMac p + Reg.MAC_HEADROOM + 16 * c)) 16 0

/-- The classes whose thresholds count (R402). -/
def fcClasses (s : State) (p : Nat) : List Nat :=
  let w := rd s (pgMac p + Reg.MAC_FC)
  if fld w 1 0 = 1 then [0] else if fld w 1 0 = 2 then (List.range 8).filter (fun c => fbit w (8 + c)) else []

/-- ENABLE's checks in order (R384): the offset and H_min of the first that fails. -/
def pcsCheck (s : State) (p : Nat) : Option (Nat × Nat) :=
  let m := rd s (pgPcs p + Reg.PCS_MODE)
  let mode := fld m 3 0
  let fc := rd s (pgMac p + Reg.MAC_FC)
  let mx := fld (rd s (pgMac p + Reg.MAC_MAX_FRAME)) 14 0
  let hmin := headroomMin s p (modeRate mode)
  if !modeLegal p mode then some (Reg.PCS_MODE, 0)
  else if (fbit m 4 && !(mode == 9 || mode == 10)) || (fbit m 5 && !mayTrain mode) then some (Reg.PCS_MODE, 0)
  else if !laneMapOk p mode (fld (rd s (pgPcs p + Reg.PCS_LANE_MAP)) 7 0) then some (Reg.PCS_LANE_MAP, 0)
  else if mx < 64 ∨ 16387 < mx then some (0x1000 + Reg.MAC_MAX_FRAME, 0)
  else match (fcClasses s p).find? (fun c => decide (xoffOf s p c ≤ xonOf s p c ∨ headroomOf s p c < hmin)) with
  | some c =>
    if xoffOf s p c ≤ xonOf s p c then some (0x1000 + Reg.MAC_XON + 16 * c, 0)
    else some (0x1000 + Reg.MAC_HEADROOM + 16 * c, hmin)
  | none =>
    let refresh := fld (rd s (pgMac p + Reg.MAC_PFC_REFRESH)) 15 0
    let quanta := fld (rd s (pgMac p + Reg.MAC_PFC_QUANTA)) 15 0
    if fbit fc 2 ∧ quanta * 51200 ≤ refresh * s.T * modeRate mode then some (0x1000 + Reg.MAC_PFC_REFRESH, 0)
    else if badPass s p && !pf0Rx s (fld (rd s (pgMac p + Reg.MAC_BAD_Q)) 13 0) then some (0x1000 + Reg.MAC_BAD_Q, 0)
    else none

/-- Rates of the ports whose ENABLE waits for the boundary. -/
def enablingRate (s : State) : Nat :=
  (List.range 6).foldl (fun a p => match runningOn s (pgPcs p) with
    | some c => if c.code = 1 ∧ !(getPort s p).enabled then a + modeRate (portMode s p) else a
    | none => a) 0

/-- Does R114 refuse a configuration with `more` added to S? -/
def overReserve (s : State) (more : Nat) : Bool :=
  let need := netReserveOf s (rateSum s + enablingRate s + more)
  let got (b : Table Word) : Nat :=
    ((planEntries b).filter (fun e => e.key == acct 1 0)).foldl (fun a e => a + e.work) 0
  (s.tck.planActive && decide (got (activePlanBank s) < need)) || (s.tck.armed && decide (got (shadowBank s) < need))

/-- The phases that allow PCS, MAC, CBP and CRT commands (R383). -/
def linkPhases : Phase → Bool := notRecovery

/-- ENABLE (R383, R384); it ends at the boundary. -/
def specPcsEnable (p : Nat) : CmdSpec where
  role := Master.isGlobal
  phases := linkPhases
  body _ s :=
    if (getPort s p).enabled then endCmd s (pgPcs p) stWRONG_STATE
    else match pcsCheck s p with
    | some (o, h) => finishCmd s (pgPcs p) stBAD_ARG (w32 o) (w32 h) 0
    | none => if overReserve s 0 then endCmd s (pgPcs p) stWRONG_STATE else s

/-- DISABLE (R383); it ends at the boundary. -/
def specPcsDisable (p : Nat) : CmdSpec where
  role := Master.isGlobal
  phases := linkPhases
  body _ s := if (getPort s p).enabled then s else endCmd s (pgPcs p) stWRONG_STATE

/-- RETRAIN (R383).
DEDUCED (log entry 70, unsafe). -/
def specRetrain (p : Nat) : CmdSpec where
  role := Master.isGlobal
  phases := linkPhases
  body _ s :=
    let x := getPort s p
    if !x.enabled || !fbit (rd s (pgPcs p + Reg.PCS_MODE)) 5 then endCmd s (pgPcs p) stWRONG_STATE
    else endCmd (putPort s p { x with training := true }) (pgPcs p) stOK

def execPcsEnable (p : Fin 6) (via : Master) (seq : Byte) (s : State) : Host.Outcome State Fault Refusal :=
  .next (commandRow (specPcsEnable p) (pgPcs p) 1 via seq 0 0 0 s)

def execPcsDisable (p : Fin 6) (via : Master) (seq : Byte) (s : State) : Host.Outcome State Fault Refusal :=
  .next (commandRow (specPcsDisable p) (pgPcs p) 2 via seq 0 0 0 s)

def execRetrain (p : Fin 6) (via : Master) (seq : Byte) (s : State) : Host.Outcome State Fault Refusal :=
  .next (commandRow (specRetrain p) (pgPcs p) 3 via seq 0 0 0 s)

/-! ### Flow control (R398 to R403) -/

/-- Level c (R402): cells of frames of class c received on the port and not yet released. -/
def rxLevel (s : State) (p c : Nat) : Nat :=
  s.pipe.frames.foldl (fun a e => match e.2 with
    | some f => if f.port = some p ∧ f.cls = c then a + f.cells else a
    | none => a) 0

/-- Ticks of a request time of q quanta (R400). -/
def pauseTicks (s : State) (p q : Nat) : Nat := cdiv (q * 51200) (modeRate (portMode s p) * s.T)

/-- A request for class c (R399, R400).
DEDUCED (log entry 67, unsafe). -/
def pauseClass (s : State) (p q c : Nat) : State :=
  let x := getPort s p
  let now := s.tck.boundaries
  let old := tget (fun _ => 0) x.pausedTill c
  let was := decide (now < old)
  let till := if q = 0 then 0 else now + pauseTicks s p q + 1
  let mark (m : Nat) : Nat := m ||| 2 ^ c
  let y := { x with
    pausedTill := tset (fun _ => 0) x.pausedTill c till
    pauseNew := if !was && q != 0 && !nbit x.pauseEnded c then mark x.pauseNew else x.pauseNew
    pauseEnded := if was && q == 0 && !nbit x.pauseNew c then mark x.pauseEnded else x.pauseEnded }
  bump (putPort s p y) (pgMac p + Reg.MAC_PFC_RX + 4 * c)

/-- Is a received frame a MAC control frame (R398), its FCS apart? -/
def isCtlFrame (s : State) (p : Nat) (l : List Byte) : Bool :=
  let own := beBytes 2 (fld (rd s (pgMac p + Reg.MAC_SA_HI)) 15 0) ++ beBytes 4 (rd s (pgMac p + Reg.MAC_SA_LO)).toNat
  beAt l 12 2 == 0x8808 && (l.take 6 == [0x01, 0x80, 0xC2, 0, 0, 1] || l.take 6 == own)

/-- A MAC control frame with a correct FCS is acted on or counted (R398). -/
def actCtl (s : State) (p : Nat) (l : List Byte) : State :=
  let fc := rd s (pgMac p + Reg.MAC_FC)
  let op := beAt l 14 2
  if op = 1 ∧ fld fc 1 0 = 1 ∧ fbit fc 3 then
    (List.range 8).foldl (fun s c => pauseClass s p (beAt l 16 2) c) (portStat s p 11 1)
  else if op = 0x0101 ∧ fld fc 1 0 = 2 ∧ fbit fc 3 then
    ((List.range 8).filter (fun c => nbit (beAt l 16 2) c)).foldl
      (fun s c => pauseClass s p (beAt l (18 + 2 * c) 2) c) (portStat s p 12 1)
  else portStat s p 13 1

/-- Statistics of a frame sent whole (R417): `l` is the frame without FCS. -/
def countSent (s : State) (p : Nat) (l : List Byte) : State :=
  let s1 := portStat (portStat s p 29 (l.length + 4)) p 30 1
  if l.take 6 = List.replicate 6 0xFF then portStat s1 p 33 1
  else if nbit (leAt l 0 1) 0 then portStat s1 p 32 1 else portStat s1 p 31 1

/-- A frame padded to 60 bytes (R394). -/
def padded (l : List Byte) : List Byte := l ++ List.replicate (60 - l.length) 0

/-- A control frame is sent for the classes in xoff `on`, ending it for the classes `off` (R402). -/
def sendCtl (s : State) (p on off : Nat) : State :=
  if !portUsable s p then s
  else
    let fc := rd s (pgMac p + Reg.MAC_FC)
    let quanta := fld (rd s (pgMac p + Reg.MAC_PFC_QUANTA)) 15 0
    let map := (rd s (pgMac p + Reg.MAC_PCP_MAP)).toNat
    let sa := beBytes 2 (fld (rd s (pgMac p + Reg.MAC_SA_HI)) 15 0) ++ beBytes 4 (rd s (pgMac p + Reg.MAC_SA_LO)).toNat
    let head := [0x01, 0x80, 0xC2, 0, 0, 1] ++ sa ++ [0x88, 0x08]
    let pfc := fld fc 1 0 == 2
    let cls (i : Nat) : Nat := map / 8 ^ i % 8
    let times := (List.range 8).flatMap (fun i => beBytes 2 (if nbit on (cls i) then quanta else 0))
    let vec := (List.range 8).foldl (fun a i => if nbit (on ||| off) (cls i) then a + 2 ^ i else a) 0
    let body := if pfc then [0x01, 0x01] ++ beBytes 2 vec ++ times
      else [0, 1] ++ beBytes 2 (if on = 0 then 0 else quanta)
    let l := padded (head ++ body)
    let x := getPort s p
    let s1 := putPort s p { x with xoffSent := s.tck.boundaries }
    let s2 := portStat (countSent (emit s1 (.wire p l true)) p l) p (if pfc then 35 else 34) 1
    let s3 := ((List.range 8).filter (nbit on)).foldl (fun s c => bump s (pgMac p + Reg.MAC_PFC_TX + 4 * c)) s2
    signal s3 (srcEdge 0xE p 3) 0 1

/-- The level compared with the thresholds of class c: its own, or under PAUSE that of all classes (R402). -/
def fcLevel (s : State) (p c : Nat) : Nat :=
  if fld (rd s (pgMac p + Reg.MAC_FC)) 1 0 = 1 then (List.range 8).foldl (fun a c => a + rxLevel s p c) 0 else rxLevel s p c

/-- The thresholds are compared at a boundary (R402). -/
def xoffBoundary (s : State) (p : Nat) : State :=
  let fc := rd s (pgMac p + Reg.MAC_FC)
  let x := getPort s p
  if !x.enabled || !fbit fc 2 || macIdle s then s
  else
    let on := (fcClasses s p).foldl (fun a c =>
      if xoffOf s p c ≤ fcLevel s p c ∨ (nbit x.xoff c ∧ xonOf s p c < fcLevel s p c) then a + 2 ^ c else a) 0
    if on = x.xoff then s
    else sendCtl (putPort s p { x with xoff := on }) p on (x.xoff &&& (255 - on))

/-- PFC_REFRESH: the control frame is sent again (R402). -/
def execPfcRefresh (p : Fin 6) (s : State) : Host.Outcome State Fault Refusal :=
  let x := getPort s p
  if x.xoff != 0 && x.enabled && !macIdle s && passed s x.xoffSent (fld (rd s (pgMac p + Reg.MAC_PFC_REFRESH)) 15 0) then
    .next (sendCtl s p x.xoff 0)
  else .next s

/-- PAUSE_EXPIRY: pauses that have ended are forgotten (R400).
DESIGN CHOICE (log entry 3, safe). -/
def execPauseExpiry (p : Fin 6) (s : State) : Host.Outcome State Fault Refusal :=
  let x := getPort s p
  .next (putPort s p { x with pausedTill := x.pausedTill.filter (fun e => decide (s.tck.boundaries < e.2)) })

/-! ### Receiving (R388 to R393, R404, R526) -/

/-- The receive class (R392). -/
def rxClass (s : State) (p : Nat) (l : List Byte) : Nat :=
  let t := beAt l 12 2
  if p = 6 then 0
  else if 15 ≤ l.length ∧ (t = 0x8100 ∨ t = 0x88A8) then
    (rd s (pgMac p + Reg.MAC_PCP_MAP)).toNat / 8 ^ (leAt l 14 1 / 32) % 8
  else fld (rd s (pgMac p + Reg.MAC_RX_CTL)) 4 2

/-- The largest frame a port keeps. -/
def maxFrame (s : State) (p : Nat) : Nat :=
  if p = 6 then fld (rd s (pgCbp + Reg.CBP_MAX_FRAME)) 11 0 else fld (rd s (pgMac p + Reg.MAC_MAX_FRAME)) 14 0

/-- No descriptor of the frame waits any longer: in the receive path, in a queue's FIFO, at the gate of a port or for
re-entry. -/
def purgeWaiting (s : State) (id : Nat) : State :=
  let keep (l : List Desc) : List Desc := l.filter (fun d => d.view.frame != id)
  { s with
    sched := { s.sched with fifo := tmap (fun _ => []) keep s.sched.fifo, rx := keep s.sched.rx, spillQ := tmap (fun _ => []) keep s.sched.spillQ }
    ports := tmap (fun _ => PortUnit.reset) (fun x => { x with held := keep x.held }) s.ports
    pipe := { s.pipe with q2 := s.pipe.q2.filter (fun e => match e with
      | .copy d => d.view.frame != id
      | .again v _ _ _ => v.frame != id) } }

/-- Every use of a frame that has not begun to leave is dropped (R391). -/
def purgeFrame (s : State) (id : Nat) : State :=
  let ds := s.sched.fifo.flatMap (·.2) ++ s.sched.rx ++ s.sched.spillQ.flatMap (·.2)
    ++ s.ports.flatMap (fun e => e.2.held)
    ++ s.pipe.q2.filterMap (fun e => match e with
      | .copy d => some d
      | .again _ _ _ _ => none)
  let s1 := purgeWaiting s id
  let again := s.pipe.q2.any (fun e => match e with
    | .copy _ => false
    | .again v _ _ _ => v.frame == id)
  let s2 := (ds.filter (fun d => d.view.frame == id)).foldl dropDesc s1
  let s3 := if again then dropRef s2 id else s2
  let s4 := if (getDec s3 id).isSome then dropRef (dropDec s3 id) id else s3
  if s4.pipe.toCarlis.contains id then
    dropRef { s4 with pipe := { s4.pipe with toCarlis := s4.pipe.toCarlis.filter (fun x => x != id) } } id
  else s4

/-- Has the header window of a frame in reception been queued? Bad frames that are delivered, and MAC control frames, are
queued only whole. -/
def windowSent (s : State) (p : Nat) (f : Frame) : Bool :=
  decide (p < 6) && decide (260 ≤ f.flen) && !badPass s p && !isCtlFrame s p f.data

/-- A frame being received is discarded whole: its cells go at once (R393, R404, R526). -/
def rxDiscard (s : State) (id : Nat) : State :=
  let s1 := purgeFrame s id
  match getFrame s1 id with
  | none => s1
  | some f =>
    let s2 := f.charges.foldl (fun s c => subOcc s c.1 c.2) s1
    let s3 := putFrame s2 id (some { f with discard := true, bad := true, cells := 0, charges := [], grow := [], late := [] })
    let queued := s3.pipe.q0.contains id
    let s4 := { s3 with pipe := { s3.pipe with
      freeCells := s3.pipe.freeCells + f.cells, q0 := s3.pipe.q0.filter (fun x => x != id) } }
    if queued || !windowSent s (f.port.getD 6) f then modFrame s4 id (fun f => { f with refs := 0 }) else s4

/-- The header window of a frame is queued, or finds the queue full (R393).
DEDUCED (log entry 60, unsafe). -/
def queueWindow (s : State) (id p : Nat) : State :=
  if 4096 ≤ s.pipe.q0.length then
    let s1 := portStat (rxDiscard s id) p (if p = 6 then 8 else 14) 1
    modFrame (if p = 6 then s1 else signal s1 (srcEdge 0xE p 2) 0 1) id (fun f => { f with refs := 0 })
  else { s with pipe := { s.pipe with q0 := s.pipe.q0 ++ [id] } }

/-- Would `more` cells of a frame of class c pass its headroom (R404)? Under PAUSE class 0's thresholds stand for all classes.
DEDUCED (log entry 67, unsafe). -/
def passesHeadroom (s : State) (p c more : Nat) : Bool :=
  let k := if fld (rd s (pgMac p + Reg.MAC_FC)) 1 0 = 1 then 0 else c
  decide (p < 6) && decide (0 < more) && (fcClasses s p).contains k
    && decide (xoffOf s p k + headroomOf s p k < fcLevel s p k + more)

/-- More bytes of a frame are written into cells (R58, R404, R526, R527). -/
def rxBytes (s : State) (id p : Nat) (l : List Byte) : State :=
  match getFrame s id with
  | none => s
  | some f =>
    let data := f.data ++ l
    let c := rxClass s p data
    let cells := cellsFor (Nat.min data.length (maxFrame s p))
    let more := cells - f.cells
    let put (s : State) : State := modFrame s id (fun f => { f with data := data, flen := data.length, cls := c })
    if f.discard then put s
    else if passesHeadroom s p c more then
      put (signal (setErr (portStat (rxDiscard s id) p 15 1) (pgMac p) 2) (srcEdge 0xE p 2) 0 1)
    else if s.pipe.freeCells < more then put (setErr (bump (rxDiscard s id) (pgSch + Reg.SCH_NOBUF_DROP)) pgSch 5)
    else
      let s1 := { s with pipe := { s.pipe with freeCells := s.pipe.freeCells - more } }
      let s2 := f.grow.foldl (fun s n => addOcc s n more) s1
      put (modFrame s2 id (fun f => { f with
        cells := cells, charges := f.grow.map (fun n => (n, more)) ++ f.charges }))

/-- Flags of a frame received whole (R389): `l` is the frame with its FCS. -/
def rxFlags (l : List Byte) (mx : Nat) (code assembly : Bool) : Nat :=
  let n := l.length
  let fcsBad := decide (crc32 (l.take (n - 4)) ≠ leAt l (n - 4) 4)
  let t := beAt l 12 2
  let lenBad := decide (t ≤ 1500 ∧ t ≠ n - 18 ∧ !(n = 64 ∧ t < n - 18))
  fcsBad.toNat + 2 * (decide (mx < n)).toNat + 4 * (decide (n < 64)).toNat + 8 * code.toNat + 16 * lenBad.toNat
    + 32 * assembly.toNat

/-- Has a frame a bad flag (R389)? -/
def badFlags (flags : Nat) : Bool := decide (flags &&& 0x2F ≠ 0)

/-- Statistics of a frame received on P0 to P5 (R417). -/
def countRx (s : State) (p : Nat) (l : List Byte) (flags : Nat) (reassembled : Bool) : State :=
  let n := l.length
  let s1 := ([(0, 5), (1, 6), (2, 7), (3, 8), (4, 9), (5, 20)].filter (fun x => nbit flags x.1)).foldl
    (fun s x => portStat s p x.2 1) s
  let s2 := if nbit flags 5 then setErr s1 (pgMac p) 7 else s1
  if badFlags flags then s2
  else
    let kind := if l.take 6 = List.replicate 6 0xFF then 4 else if nbit (leAt l 0 1) 0 then 3 else 2
    let size := if n ≤ 64 then 22 else if n ≤ 127 then 23 else if n ≤ 255 then 24 else if n ≤ 511 then 25
      else if n ≤ 1023 then 26 else if n ≤ 1518 then 27 else 28
    let s3 := portStat (portStat (portStat (portStat s2 p 0 n) p 1 1) p kind 1) p size 1
    let s4 := if reassembled then portStat s3 p 19 1 else s3
    signal s4 (srcEdge 0xE p 0) (rxClass s p l) 1

/-- A frame whose reception has ended loses what no one uses. -/
def settleFrame (s : State) (id : Nat) : State :=
  match getFrame s id with
  | none => s
  | some f => if f.refs = 0 then releaseFrame s id else s

/-- Every descriptor of the frame that waits in a queue's FIFO or at the gate of a port is sent in store-and-forward mode. -/
def markMismatch (s : State) (id : Nat) : State :=
  let fix (l : List Desc) : List Desc := l.map (fun d => if d.view.frame = id then { d with sf := true } else d)
  { s with
    sched := { s.sched with fifo := tmap (fun _ => []) fix s.sched.fifo }
    ports := tmap (fun _ => PortUnit.reset) (fun x => { x with held := fix x.held }) s.ports }

/-- A cut-through frame turned out to have another length than its length field said (R465). -/
def lenMismatch (s : State) (id : Nat) (f : Frame) : State :=
  match f.lenField with
  | none => s
  | some n =>
    if n = f.flen then s
    else
      let s1 := [SliceId.ochre, SliceId.slate].foldl (fun s sl =>
        if f.ctBy.contains sl.num then
          setErr (bump s (pgSlice sl 0 + Reg.PIP_LEN_MISMATCH)) (pgSlice sl 0) 6 else s) s
      modFrame (markMismatch s1 id) id (fun f => { f with mismatch := true })

/-- The codewords of a frame are counted (R379). -/
def countFec (s : State) (p : Nat) (e : RxEnd) : State :=
  let s1 := bumpWide s (pgPcs p + Reg.PCS_FEC_CORR_LO) e.corrected
  let s2 := if e.uncorrectable = 0 then s1
    else setErr (bumpWide s1 (pgPcs p + Reg.PCS_FEC_UNCORR_LO) e.uncorrectable) (pgPcs p) 4
  (List.range 4).foldl (fun s k => bumpBy s (pgPcs p + Reg.PCS_SYM_ERR + 4 * k) (e.symErr.toList.getD k 0)) s2

/-- The end of a reception on P0 to P5 (R379, R388 to R391, R398, R465, R537, R710). -/
def rxEnd (s : State) (id p : Nat) (e : RxEnd) : State :=
  match getFrame s id with
  | none => s
  | some f =>
    let all := f.data
    let n := all.length
    let pre := fbit (rd s (pgMac p + Reg.MAC_PREEMPT)) 0
    let s0 := countFec { s with pipe := { s.pipe with rxPart := s.pipe.rxPart.filter (fun x => x.2 != some id) } } p e
    let quit (s : State) : State := settleFrame (modFrame s id (fun f => { f with refs := 0, whole := true })) id
    if n < 18 then quit (rxDiscard (portStat s0 p 10 1) id)
    else
      let flags := rxFlags all (maxFrame s p) (e.code || e.uncorrectable != 0) (e.assembly && pre)
      let bad := badFlags flags
      let ctl := isCtlFrame s p all && !nbit flags 0
      let pass := fbit (rd s (pgMac p + Reg.MAC_RX_CTL)) 1
      let s1 := countRx s0 p all flags (e.reassembled && pre)
      let kept := all.take (maxFrame s p)
      let sent := decide (260 ≤ n) && !badPass s p && !isCtlFrame s p all
      let s2 := modFrame s1 id (fun f => { f with
        data := if bad ∧ nbit flags 1 then kept else all.take (n - 4)
        fcs := all.drop (n - 4), flen := n, whole := true, bad := f.bad || bad
        flags := flags + (if ctl then 64 else 0) })
      if f.discard then settleFrame s2 id
      else
        let s3 := if ctl ∧ !bad then actCtl s2 p (all.take (n - 4)) else s2
        if ctl ∧ !bad ∧ !pass then quit s3
        else if bad ∧ !badPass s p then
          let s4 := signal (portStat s3 p 17 1) (srcEdge 0xE p 2) 0 1
          if sent then settleFrame (settleLate (purgeFrame s4 id) id) id else quit s4
        else
          let s4 := match getFrame s3 id with
            | some g => lenMismatch (settleLate s3 id) id g
            | none => s3
          settleFrame (if sent then s4 else queueWindow s4 id p) id

/-- The receive timestamp of a frame whose first octet crosses at cycle `cyc` (R414, R427).
DESIGN CHOICE (log entry 17, unsafe). -/
def rxTime (s : State) (p cyc : Nat) : Nat :=
  let w := rd s (if p = 6 then pgCbp + Reg.CBP_TS_ADJ else pgMac p + Reg.MAC_TS_ADJ)
  let adj := (BitVec.ofNat 16 (fld w 15 0)).toInt
  ((ptpNs (ptpAtCycle s cyc) : Int) + adj).toNat

/-- A new frame of port p (R58). -/
def rxFrame (s : State) (p cyc : Nat) : Frame where
  port := some p
  entry := none
  fn := 0x7FF
  data := []
  fcs := []
  flen := 0
  whole := false
  bad := false
  flags := 0
  cls := 0
  time := rxTime s p cyc
  cells := 0
  poison := []
  meta32 := 0
  tsReq := false
  refs := 1
  charges := []
  grow := []
  late := []
  ctBy := []
  lenField := none
  mismatch := false
  discard := false
  decrypted := false

/-- The frame in reception on a stream of port p. -/
def rxNow (s : State) (key : Nat) : Option Nat := tget (fun _ => none) s.pipe.rxPart key

/-- The frame `id` is now the one being received. -/
def startPart (s : State) (key id : Nat) : State :=
  { s with pipe := { s.pipe with rxPart := tset (fun _ => none) s.pipe.rxPart key (some id) } }

/-- Bytes arrive on a stream of P0 to P5: they begin a frame, go on with one, and may end it. -/
def receiveBytes (s : State) (p : Nat) (express : Bool) (cyc : Nat) (start : Bool) (bytes : List Byte)
    (fin : Option RxEnd) : State :=
  let key := 2 * p + (express && fbit (rd s (pgMac p + Reg.MAC_PREEMPT)) 0).toNat
  let x := getPort s p
  if !x.enabled || !x.linkUp || start != (rxNow s key).isNone then s
  else
    let s0 : State × Nat := match rxNow s key with
      | some id => (s, id)
      | none =>
        let r := newFrame s (rxFrame s p cyc)
        (startPart r.1 key r.2, r.2)
    let id := s0.2
    let before := ((getFrame s0.1 id).map (·.flen)).getD 0
    let s1 := rxBytes s0.1 id p bytes
    let s2 := match getFrame s1 id with
      | none => s1
      | some f =>
        if before < 260 ∧ 260 ≤ f.flen ∧ !f.discard ∧ !badPass s p ∧ !isCtlFrame s p f.data then queueWindow s1 id p else s1
    match fin with
    | none => s2
    | some e => rxEnd s2 id p e

/-- FRAME_RECEIVE: part or all of a frame, destination address to FCS, arrives on P0 to P5 (R388). -/
def execFrameReceive (p : Fin 6) (express : Bool) (cyc : Nat) (start : Bool) (bytes : List Byte) (fin : Option RxEnd)
    (s : State) : Host.Outcome State Fault Refusal :=
  .next (receiveBytes s p express cyc start bytes fin)

/-- A MAC control frame of 64 bytes with a good FCS.
DEDUCED (log entry 67, unsafe). -/
def ctlFrame (src : BitVec 48) (body : List Byte) : List Byte :=
  let l := padded ([0x01, 0x80, 0xC2, 0, 0, 1] ++ beBytes 6 src.toNat ++ [0x88, 0x08] ++ body)
  l ++ leBytes 4 (crc32 l)

/-- PAUSE_FRAME_RECEIVED (R398 to R400). -/
def execPauseFrameReceived (p : Fin 6) (cyc : Nat) (src : BitVec 48) (quanta : BitVec 16) (s : State) :
    Host.Outcome State Fault Refusal :=
  .next (receiveBytes s p true cyc true (ctlFrame src ([0, 1] ++ beBytes 2 quanta.toNat)) (some RxEnd.clean))

/-- PFC_FRAME_RECEIVED (R398 to R400). -/
def execPfcFrameReceived (p : Fin 6) (cyc : Nat) (src : BitVec 48) (enables : Byte) (quanta : Vector (BitVec 16) 8)
    (s : State) : Host.Outcome State Fault Refusal :=
  .next (receiveBytes s p true cyc true
    (ctlFrame src ([1, 1] ++ beBytes 2 enables.toNat ++ quanta.toList.flatMap (fun q => beBytes 2 q.toNat)))
    (some RxEnd.clean))

/-- VERIFY_MPACKET_RECEIVED: it is answered while preemption is enabled (R412).
DESIGN CHOICE (log entry 71, safe). -/
def execVerifyMpacketReceived (p : Fin 6) (s : State) : Host.Outcome State Fault Refusal :=
  if portUsable s p && fbit (rd s (pgMac p + Reg.MAC_PREEMPT)) 0 then .next (portStat (emit s (.respond p)) p 21 1)
  else .next s

/-- LPI_RECEIVED: treated as idle and counted (R381).
DESIGN CHOICE (log entry 71, safe). -/
def execLpiReceived (p : Fin 6) (s : State) : Host.Outcome State Fault Refusal :=
  if (getPort s p).enabled then .next (portStat s p 18 1) else .next s

/-! ### Time gates (R405 to R408) -/

/-- Where the model keys admin entry i of port p's gate list. -/
abbrev gclKey (p i : Nat) : Nat := 0x311000000 + 0x1000 * p + 4 * i

/-- The admin entries in use. -/
def adminList (s : State) (p : Nat) : List Word :=
  (List.range (fld (rd s (pgMac p + Reg.MAC_GCL_COUNT)) 8 0)).map (fun i => rd s (gclKey p i))

/-- GCL_ARM (R406, R407).
DEDUCED (log entry 70, unsafe). -/
def specGclArm (p : Nat) : CmdSpec where
  role := Master.isGlobal
  phases := linkPhases
  body _ s :=
    let x := getPort s p
    let n := fld (rd s (pgMac p + Reg.MAC_GCL_COUNT)) 8 0
    let l := adminList s p
    if !x.armed.isEmpty then endCmd s (pgMac p) stWRONG_STATE
    else if n = 0 ∨ 256 < n then endCmd s (pgMac p) stBAD_ARG
    else match firstIdx (fun e => gateTicks e == 0 || fld e 31 24 != 0) l 0 with
    | some i => finishCmd s (pgMac p) stBAD_ARG (w32 i) 0 0
    | none =>
      let b := (rd s (pgMac p + Reg.MAC_GCL_BASE_LO)).toNat + 2 ^ 32 * (rd s (pgMac p + Reg.MAC_GCL_BASE_HI)).toNat
      let c := gclCycle l
      let a := if s.tck.tick + 4 < b then b else b + ((s.tck.tick + 4 - b) / c + 1) * c
      endCmd (putPort s p { x with armed := l, armA := a }) (pgMac p) stOK

/-- GCL_DISARM (R406). -/
def specGclDisarm (p : Nat) : CmdSpec where
  role := Master.isGlobal
  phases := linkPhases
  body _ s :=
    let x := getPort s p
    if x.armed.isEmpty then endCmd s (pgMac p) stWRONG_STATE
    else endCmd (putPort s p { x with armed := [] }) (pgMac p) stOK

/-- GCL_OFF (R406); it ends at the boundary. -/
def specGclOff (p : Nat) : CmdSpec where
  role := Master.isGlobal
  phases := linkPhases
  body _ s := putPort s p { getPort s p with gclOff := true }

def execGclArm (p : Fin 6) (via : Master) (seq : Byte) (s : State) : Host.Outcome State Fault Refusal :=
  .next (commandRow (specGclArm p) (pgMac p) 1 via seq 0 0 0 s)

def execGclDisarm (p : Fin 6) (via : Master) (seq : Byte) (s : State) : Host.Outcome State Fault Refusal :=
  .next (commandRow (specGclDisarm p) (pgMac p) 2 via seq 0 0 0 s)

def execGclOff (p : Fin 6) (via : Master) (seq : Byte) (s : State) : Host.Outcome State Fault Refusal :=
  .next (commandRow (specGclOff p) (pgMac p) 3 via seq 0 0 0 s)

/-- An armed list whose activation tick has come becomes oper (R407). -/
def gclActivate (s : State) (p : Nat) : State :=
  let x := getPort s p
  if !x.armed.isEmpty && decide (x.armA ≤ s.tck.tick) then
    putPort s p { x with oper := x.armed, operA := x.armA, armed := [] }
  else s

/-- MAC_GCL_POS for the tick in progress (R408). -/
def gatePosition (s : State) (p : Nat) : State :=
  let x := getPort s p
  let w := if x.oper.isEmpty then 0 else
    let n := gclPos x s.tck.tick
    match gateAt x.oper 0 n with
    | some (k, _, _) => w32 (k + 256 * n)
    | none => 0
  wr s (pgMac p + Reg.MAC_GCL_POS) w

/-- GCL_ACTIVATE (R407). -/
def execGclActivate (p : Fin 6) (s : State) : Host.Outcome State Fault Refusal := .next (gclActivate s p)

/-- GATE_STATE_CHANGE: the gate state is that of the tick in progress (R408). -/
def execGateStateChange (p : Fin 6) (s : State) : Host.Outcome State Fault Refusal := .next (gatePosition s p)

/-! ### Transmitting (R394 to R397, R411 to R416) -/

/-- Position of the PTP header of a frame the ports may edit (R416): over Ethernet or UDP port 319, behind at most two
tags; and whether it is carried over IPv6. -/
def ptpHeader (l : List Byte) : Option (Nat × Bool) :=
  let tag (o : Nat) : Bool := beAt l o 2 == 0x8100 || beAt l o 2 == 0x88A8
  let o := if tag 12 then (if tag 16 then 20 else 16) else 12
  let t := beAt l o 2
  if t = 0x88F7 then some (o + 2, false)
  else if t = 0x0800 then
    let h := o + 2
    let u := h + 4 * (leAt l h 1 % 16)
    if leAt l (h + 9) 1 = 17 ∧ beAt l (u + 2) 2 = 319 then some (u + 8, false) else none
  else if t = 0x86DD then
    let u := o + 42
    if leAt l (o + 8) 1 = 17 ∧ beAt l (u + 2) 2 = 319 then some (u + 8, true) else none
  else none

/-- Overwrite bytes at x and update the 16-bit checksum at c incrementally (R415). -/
def editWithCsum (l : List Byte) (x : Nat) (v : List Byte) (c : Option Nat) (ip6 : Bool) : List Byte :=
  let l1 := patch l x v
  match c with
  | none => l1
  | some c =>
    let old := beAt l c 2
    if old = 0 ∧ !ip6 then l1
    else
      let lo := if x % 2 = c % 2 then x else x - 1
      let n := (x + v.length - lo) + (x + v.length - lo) % 2
      patch l1 c (beBytes 2 (csumUpdate old (sliceB l lo n) (sliceB l1 lo n)))

/-- A timestamp edit (R415, R416): the frame and whether it was edited. `rx` and `tx` are PTP ns. -/
def tsEdit (l : List Byte) (t : TsOp) (rx tx : Nat) : List Byte × Bool :=
  match ptpHeader l with
  | none => (l, false)
  | some (h, ip6) =>
    let ty := leAt l h 1 % 16
    if t.op = 2 ∧ ty = 0 then
      (editWithCsum l t.pos (beBytes 6 (tx / 10 ^ 9) ++ beBytes 4 (tx % 10 ^ 9)) t.csum ip6, true)
    else if t.op = 3 ∧ ty ≤ 3 then
      let cf := (beAt l t.pos 8 + (((tx : Int) - rx) * 65536 % 2 ^ 64).toNat) % 2 ^ 64
      (editWithCsum l t.pos (beBytes 8 cf) t.csum ip6, true)
    else (l, false)

/-- Is class c express on port p (R411)? -/
def isExpress (s : State) (p c : Nat) : Bool := fbit (rd s (pgMac p + Reg.MAC_PREEMPT)) (8 + c)

/-- Is class c of port p paused as the MAC sees it (R399, R400)? -/
def macPaused (s : State) (p c : Nat) : Bool := decide (s.tck.boundaries < tget (fun _ => 0) (getPort s p).pausedTill c)

/-- May the MAC start a frame it holds at cycle `cyc` (R399, R409)? -/
def macLets (s : State) (p cyc : Nat) (d : Desc) : Bool :=
  !macPaused s p d.cls && (match openRun (getPort s p) s.tck.tick d.cls with
    | none => true
    | some r => fitsRun s (portRate s p) (fitLen s d) r cyc)

/-- Remove the first element that satisfies p. -/
def dropFirst {α : Type} (p : α → Bool) : List α → List α
  | [] => []
  | x :: t => if p x then t else x :: dropFirst p t

/-- The transmit MAC of P0 to P5 takes its next frame at cycle `cyc` (R387, R394, R395, R399, R409, R413). -/
def macStart (s : State) (p cyc : Nat) : State :=
  let x := getPort s p
  let pre := fbit (rd s (pgMac p + Reg.MAC_PREEMPT)) 0
  if !portUsable s p then
    match x.held with
    | [] => s
    | d :: t => doneSending (portStat (putPort s p { x with held := t }) p 38 1) d none
  else
    let tooLong (d : Desc) : Bool := decide (maxFrame s p < (sentLen s d).getD 0)
    match x.held.find? tooLong with
    | some d => doneSending (portStat (putPort s p { x with held := dropFirst tooLong x.held }) p 37 1) d none
    | none =>
      let may (d : Desc) : Bool := macLets s p cyc d && (match x.sending with
        | none => true
        | some c => pre && isExpress s p d.cls && !isExpress s p c.cls && x.preempted.isNone)
      let first := match (if pre then x.held.find? (fun d => may d && isExpress s p d.cls) else none) with
        | some d => some d
        | none => x.held.find? may
      match first with
      | none => s
      | some d =>
        let adj := (BitVec.ofNat 16 (fld (rd s (pgMac p + Reg.MAC_TS_ADJ)) 31 16)).toInt
        let at0 := ((ptpNs (ptpAtCycle s cyc) : Int) + adj).toNat
        let held := dropFirst (fun y => y == d) x.held
        match x.sending with
        | none => putPort s p { x with held := held, sending := some d, sentAt := at0, resumed := false }
        | some c =>
          let s1 := if x.resumed then s else portStat s p 41 1
          portStat (putPort s1 p { x with
            held := held, sending := some d, preempted := some c, preAt := x.sentAt, sentAt := at0, resumed := false })
            p 42 1

/-- Must a frame in transmission end with an invalid code: it is bad, of another length than its field says, or poisoned
(R391, R396, R465)? -/
def spoiled (f : Frame) (d : Desc) : Bool :=
  f.bad || (f.mismatch && !d.sf) || (match d.cut with
    | none => viewPoisoned f d.view
    | some n => ((viewBytes f d.view).take n).any (·.2))

/-- The frame in transmission on P0 to P5 ends (R298, R391, R394, R396, R409, R413, R415).
DEDUCED (log entry 66, unsafe). -/
def macEnd (s : State) (p : Nat) : State :=
  let x := getPort s p
  match x.sending with
  | none => s
  | some d => match getFrame s d.view.frame with
    | none => putPort s p { x with sending := x.preempted, preempted := none, sentAt := x.preAt, resumed := x.preempted.isSome }
    | some f =>
      if !f.whole && !f.bad then s
      else
        let s0 := putPort s p { x with
          sending := x.preempted, preempted := none, sentAt := x.preAt, resumed := x.preempted.isSome
          lanesOn := x.lanesOn && (x.enabled || x.preempted.isSome) }
        let s1 := if x.resumed then portStat s0 p 42 1 else s0
        if spoiled f d then abortSend s1 p d
        else
          let e := tsEdit (sentData f d) d.ts f.time x.sentAt
          let l := padded e.1
          let s2 := signal (countSent (emit s1 (.wire p l true)) p l) (srcEdge 0xE p 1) d.cls 1
          let s3 := if e.2 then portStat s2 p 43 1 else s2
          let s4 := if x.resumed && (openRun x s.tck.tick d.cls == some 0) then portStat s3 p 40 1 else s3
          doneSending s4 d (if f.tsReq && d.orig then some (compactStamp (x.sentAt * ptpPerNs)) else none)

/-! ### The boundary and the registers -/

/-- A port's ENABLE or DISABLE takes effect (R383, R385). -/
def enableBoundary (s : State) (p : Nat) : State :=
  match runningOn s (pgPcs p) with
  | none => s
  | some c =>
    let x := getPort s p
    if c.code = 1 then
      let m := rd s (pgPcs p + Reg.PCS_MODE)
      let taps := (List.range 4).map (fun k => rd s (pgPcs p + Reg.PCS_TXEQ + 4 * k))
      endCmd (wrMany (putPort s p { x with enabled := true, lanesOn := true, training := fbit m 5, linkUp := false })
        (pgPcs p + Reg.PCS_TXEQ_ACT) taps) (pgPcs p) stOK
    else if c.code = 2 then
      let part := (s.pipe.rxPart.filter (fun e => e.1 / 2 == p)).filterMap (·.2)
      let s1 := part.foldl (fun s id =>
        settleFrame (modFrame (rxDiscard s id) id (fun f => { f with refs := 0, whole := true })) id) s
      let s2 := { s1 with pipe := { s1.pipe with rxPart := s1.pipe.rxPart.filter (fun e => e.1 / 2 != p) } }
      endCmd (putPort s2 p { x with
        enabled := false, training := false, xoff := 0, lanesOn := x.sending.isSome || x.preempted.isSome }) (pgPcs p) stOK
    else s

/-- The boundary at which the MACs fall idle: a frame in transmission ends with an invalid code (R204, R217). -/
def endSending (s : State) (p : Nat) : State :=
  let x := getPort s p
  let s1 := putPort s p { x with sending := none, preempted := none, resumed := false, lanesOn := x.lanesOn && x.enabled }
  (x.sending.toList ++ x.preempted.toList).foldl (fun s d => abortSend s p d) s1

/-- A port at a boundary (R101, R385, R400, R402, R406 to R408). -/
def portBoundary (s : State) (p : Nat) : State :=
  let x0 := getPort s p
  let s1 := (List.range 8).foldl (fun s c =>
    if decide (s.tck.boundaries ≤ tget (fun _ => 0) x0.pausedTill c) && !nbit x0.pauseNew c then
      signal (bump s (pgMac p + Reg.MAC_PAUSED + 4 * c)) (srcEdge 0xE p 4) c 1 else s) s
  let s2 := putPort s1 p { x0 with pauseNew := 0, pauseEnded := 0 }
  let s3 := enableBoundary s2 p
  let s4 := if x0.gclOff then endCmd (putPort s3 p { getPort s3 p with oper := [], gclOff := false }) (pgMac p) stOK else s3
  let s5 := gatePosition (gclActivate s4 p) p
  let s6 := (List.range 8).foldl (fun s c => wr s (pgMac p + Reg.MAC_LEVEL + 16 * c) (w32 (rxLevel s p c))) s5
  xoffBoundary s6 p

/-- PCS page of port p. -/
def viewPcs (s : State) (p off : Nat) : Option Word :=
  let x := getPort s p
  if off = Reg.PAGE_STAT then
    some (w32 (x.enabled.toNat + 2 * x.linkUp.toNat + 4 * x.training.toNat + 8 * x.locks + 128 * x.fecLock.toNat))
  else none

/-- MAC page of port p. -/
def viewMac (s : State) (p off : Nat) : Option Word :=
  let x := getPort s p
  let a := if x.armed.isEmpty then x.operA else x.armA
  if off = Reg.PAGE_STAT then
    let paused := (List.range 8).foldl (fun a c => a + 2 ^ c * (macPaused s p c).toNat) 0
    some (w32 ((portUsable s p).toNat + 2 * x.remoteFault.toNat + 4 * x.localFault.toNat + 8 * (!x.oper.isEmpty).toNat
      + 16 * (!x.armed.isEmpty).toNat + 32 * paused + 8192 * x.xoff + 2 ^ 21 * (badPass s p).toNat))
  else if off = Reg.MAC_GCL_ACT_LO then some (lo32 a)
  else if off = Reg.MAC_GCL_DATA then some (rd s (gclKey p (fld (rd s (pgMac p + Reg.MAC_GCL_INDEX)) 7 0)))
  else none

end Sys2Proof.Machine
end

