-- ==== Sys2Proof/Machine/CabinetBus.lean ====
section
/-! DEFINITION. Port P6, the cabinet bus (chapter 11): reception, CSMA/CD, PLCA and MDIO; and the transmit rows of all
ports. -/
namespace Sys2Proof.Machine

/-- Change what P6 holds. -/
def setCbp (s : State) (c : CbpUnit) : State := { s with cbp := c }

/-- Registers of the CBP page. -/
def cbpPlcaEn (s : State) : Bool := fbit (rd s (pgCbp + Reg.CBP_MODE)) 0
def cbpNode (s : State) : Nat := fld (rd s (pgCbp + Reg.CBP_PLCA)) 7 0
def cbpNodes (s : State) : Nat := fld (rd s (pgCbp + Reg.CBP_PLCA)) 15 8
def cbpBurst (s : State) : Nat := fld (rd s (pgCbp + Reg.CBP_PLCA)) 23 16

/-- Is the device the PLCA coordinator? -/
def cbpCoordinator (s : State) : Bool := s.cbp.enabled && cbpPlcaEn s && cbpNode s == 0

/-- Is P6 usable (R420)? -/
def cbpUsable (s : State) : Bool := s.cbp.enabled && s.cbp.txClk && s.cbp.usable

/-! ### Commands (R421 to R423, R433) -/

/-- ENABLE's checks in order (R422): the offset of the first failing register. -/
def cbpCheck (s : State) : Option Nat :=
  let mx := maxFrame s 6
  if mx < 64 ∨ 2000 < mx then some Reg.CBP_MAX_FRAME
  else if cbpPlcaEn s && decide (cbpNodes s ≤ cbpNode s) then some Reg.CBP_PLCA
  else if fbit (rd s (pgCbp + Reg.CBP_MODE)) 1 && !pf0Rx s (fld (rd s (pgCbp + Reg.CBP_RX_Q)) 13 0) then some Reg.CBP_RX_Q
  else none

/-- ENABLE (R421, R422); it ends at the boundary. -/
def specCbpEnable : CmdSpec where
  role := Master.isGlobal
  phases := linkPhases
  body _ s :=
    if s.cbp.enabled then endCmd s pgCbp stWRONG_STATE
    else match cbpCheck s with
    | some o => finishCmd s pgCbp stBAD_ARG (w32 o) 0 0
    | none => if overReserve s 1 then endCmd s pgCbp stWRONG_STATE else s

/-- DISABLE (R421); it ends at the boundary. -/
def specCbpDisable : CmdSpec where
  role := Master.isGlobal
  phases := linkPhases
  body _ s := if s.cbp.enabled then s else endCmd s pgCbp stWRONG_STATE

/-- MDIO_READ (R433): `sampled` is what MDIO holds.
DEDUCED (log entry 68, unsafe). -/
def specMdioRead (sampled : Nat) : CmdSpec where
  role := Master.isGlobal
  phases := linkPhases
  body _ s := finishCmd s pgCbp stOK (w32 (sampled % 65536)) 0 0

/-- MDIO_WRITE (R433): the frame leaves on MDIO. -/
def specMdioWrite : CmdSpec where
  role := Master.isGlobal
  phases := linkPhases
  body c s := endCmd (emit s (.mdio c.a0 c.a1 c.a2)) pgCbp stOK

def execCbpEnable (via : Master) (seq : Byte) (s : State) : Host.Outcome State Fault Refusal :=
  .next (commandRow specCbpEnable pgCbp 1 via seq 0 0 0 s)

def execCbpDisable (via : Master) (seq : Byte) (s : State) : Host.Outcome State Fault Refusal :=
  .next (commandRow specCbpDisable pgCbp 2 via seq 0 0 0 s)

def execMdioRead (sampled : BitVec 16) (via : Master) (seq : Byte) (a0 a1 a2 : Word) (s : State) :
    Host.Outcome State Fault Refusal :=
  .next (commandRow (specMdioRead sampled.toNat) pgCbp 3 via seq a0 a1 a2 s)

def execMdioWrite (via : Master) (seq : Byte) (a0 a1 a2 : Word) (s : State) : Host.Outcome State Fault Refusal :=
  .next (commandRow specMdioWrite pgCbp 4 via seq a0 a1 a2 s)

/-! ### Receiving (R424 to R427) -/

/-- P6_FRAME_RECEIVE: a frame, destination address to FCS, has arrived on the MII; `code` is RX_ER during RX_DV.
DEDUCED (log entry 68, unsafe). -/
def execP6FrameReceive (cyc : Nat) (bytes : List Byte) (code : Bool) (s : State) : Host.Outcome State Fault Refusal :=
  let sending := (getPort s 6).sending.isSome
  if !s.cbp.enabled || sending || bytes.length < 18 then .next s
  else
    let n := bytes.length
    let flags := rxFlags bytes (maxFrame s 6) code false
    let s1 := ([(0, 2), (1, 3), (2, 4), (3, 5), (4, 6)].filter (fun x => nbit flags x.1)).foldl
      (fun s x => portStat s 6 x.2 1) s
    if badFlags flags then .next s1
    else
      let s2 := signal (portStat (portStat s1 6 0 n) 6 1 1) (srcEdge 0x10 6 0) 0 1
      if beAt bytes 12 2 = 0x8808 then .next (portStat s2 6 7 1)
      else
        let r := newFrame s2 (rxFrame s2 6 cyc)
        let s3 := rxBytes r.1 r.2 6 bytes
        let s4 := modFrame s3 r.2 (fun f => { f with
          data := bytes.take (n - 4), fcs := bytes.drop (n - 4), whole := true, flags := flags })
        match getFrame s4 r.2 with
        | none => .next s4
        | some f => .next (settleFrame (if f.discard then s4 else queueWindow s4 r.2 6) r.2)

/-! ### The LFSR (R429) -/

/-- One step of the LFSR of polynomial x^31 + x^28 + 1: the new low bit is bit 30 xor bit 27.
PRESUMED (log entry 69, unsafe). -/
def lfsrStep (x : Nat) : Nat := (x * 2 + (nbit x 30 ^^ nbit x 27).toNat) % 2 ^ 31

/-- A linear map on 31 bits as the images of the bits, applied. -/
def mapBits (cols : List Nat) (x : Nat) : Nat :=
  ((List.range 31).zip cols).foldl (fun a c => if nbit x c.1 then a ^^^ c.2 else a) 0

/-- `n` steps of the LFSR, by repeated squaring of the step (`fuel` bits of n).
PRESUMED (log entry 69, unsafe). -/
def lfsrJump : Nat → List Nat → Nat → Nat → Nat
  | 0, _, _, x => x
  | fuel + 1, cols, n, x =>
    lfsrJump fuel (cols.map (mapBits cols)) (n / 2) (if n % 2 = 1 then mapBits cols x else x)

/-- The LFSR's content at core cycle `at1`. -/
def lfsrAtCycle (s : State) (at1 : Nat) : Nat :=
  lfsrJump 64 ((List.range 31).map (fun i => lfsrStep (2 ^ i))) (at1 - s.cbp.lfsrAt) s.cbp.lfsr

/-! ### Transmitting (R420, R428 to R431) -/

/-- A frame of P6 is no longer in hand. -/
def cbpDone (s : State) (d : Desc) (time : Option Nat) : State :=
  let s1 := putPort s 6 { getPort s 6 with sending := none }
  doneSending (setCbp s1 { s1.cbp with attempts := 0, deferring := false, counted := false, backoff := none }) d time

/-- The first held frame of P6 starts at cycle `cyc`. -/
def cbpBegin (s : State) (cyc : Nat) : State :=
  let x := getPort s 6
  match x.held with
  | [] => s
  | d :: t =>
    let adj := (BitVec.ofNat 16 (fld (rd s (pgCbp + Reg.CBP_TS_ADJ)) 31 16)).toInt
    let s1 := putPort s 6 { x with held := t, sending := some d, sentAt := ((ptpNs (ptpAtCycle s cyc) : Int) + adj).toNat }
    setCbp s1 { s1.cbp with deferring := false, backoff := none }

/-- A frame of P6 that cannot be sent is discarded (R420, R423, R428). -/
def cbpDiscard (s : State) : Option State :=
  let x := getPort s 6
  match x.held with
  | [] => some s
  | d :: t =>
    let c := if x.sending.isSome then s.cbp
      else { s.cbp with attempts := 0, deferring := false, counted := false, backoff := none }
    let drop (k : Nat) : State := doneSending (portStat (putPort (setCbp s c) 6 { x with held := t }) 6 k 1) d none
    if !cbpUsable s then some (drop 21)
    else if maxFrame s 6 < (sentLen s d).getD 0 then some (drop 20)
    else none

/-- The transmit MAC of P6 takes its next frame at cycle `cyc`; `crs` is the carrier (R429). Under PLCA it waits for its
opportunity (R430). -/
def cbpStart (s : State) (cyc : Nat) (crs : Bool) : State :=
  match cbpDiscard s with
  | some s1 => s1
  | none =>
    if (getPort s 6).sending.isSome || s.cbp.backoff.isSome || s.cbp.deferring || s.cbp.plcaActive then s
    else if crs then
      setCbp (if s.cbp.counted then s else portStat s 6 13 1) { s.cbp with deferring := true, counted := true }
    else cbpBegin s cyc

/-- The frame in transmission on P6 has been sent (R427 to R430). -/
def cbpEnd (s : State) : State :=
  let x := getPort s 6
  match x.sending with
  | none => s
  | some d => match getFrame s d.view.frame with
    | none => putPort s 6 { x with sending := none }
    | some f =>
      if !f.whole && !f.bad then s
      else if spoiled f d then cbpDone (portStat (emit s (.wire 6 [] false)) 6 19 1) d none
      else
        let l := padded (sentData f d)
        let s1 := signal (portStat (portStat (emit s (.wire 6 l true)) 6 11 (l.length + 4)) 6 12 1) (srcEdge 0x10 6 1) 0 1
        let s2 := if s.cbp.attempts = 1 then portStat s1 6 15 1
          else if 2 ≤ s.cbp.attempts then portStat s1 6 16 1 else s1
        let s3 := if 2 ≤ d.ts.op then portStat s2 6 25 1 else s2
        cbpDone s3 d (if f.tsReq && d.orig then some (compactStamp (x.sentAt * ptpPerNs)) else none)

/-- COLLISION_DETECT: COL at bit time `bitTime` of the attempt, core cycle `cyc` of the tick (R429, R430). Under PLCA the
opportunity is used up. -/
def execCollisionDetect (cyc bitTime : Nat) (s : State) : Host.Outcome State Fault Refusal :=
  let x := getPort s 6
  match x.sending with
  | none => .next s
  | some d =>
    let s1 := signal (portStat (emit (emit s (.wire 6 [] false)) .jam) 6 14 1) (srcEdge 0x10 6 2) 0 1
    let n := s.cbp.attempts + 1
    let s2 := if s.cbp.plcaActive then setErr (portStat s1 6 24 1) pgCbp 6 else s1
    if !s.cbp.plcaActive && decide (512 < bitTime) then .next (cbpDone (setErr (portStat s2 6 17 1) pgCbp 4) d none)
    else if 16 ≤ n then .next (cbpDone (setErr (portStat s2 6 18 1) pgCbp 5) d none)
    else
      let at1 := s.tck.cycles + cyc
      let l := lfsrAtCycle s at1
      let s3 := putPort s2 6 { x with sending := none, held := d :: x.held }
      .next (setCbp s3 { s3.cbp with
        attempts := n, lfsr := l, lfsrAt := at1
        burst := if s.cbp.plcaActive then cbpBurst s + 1 else s.cbp.burst
        backoff := if s.cbp.plcaActive then none else some (l % 2 ^ Nat.min n 10) })

/-- Have the slot times of the backoff passed by the end of this tick (R429)? One is 51.2 µs, 81,920 core cycles, and they
count from the collision at which the LFSR was drawn.
DEDUCED (log entry 69, unsafe). -/
def backoffOver (s : State) : Bool := match s.cbp.backoff with
  | none => false
  | some r => decide (s.cbp.lfsrAt + 81920 * r ≤ s.tck.cycles + s.tck.len)

/-- BACKOFF_EXPIRY: the backoff ends and the frame may be tried again (R429). -/
def execBackoffExpiry (s : State) : Host.Outcome State Fault Refusal :=
  .next (if backoffOver s then setCbp s { s.cbp with backoff := none } else s)

/-- CARRIER_DROP: CRS drops; a deferred frame may start after the inter-frame gap (R429). -/
def execCarrierDrop (s : State) : Host.Outcome State Fault Refusal := .next (setCbp s { s.cbp with deferring := false })

/-- TRANSMIT_FRAME: the transmit MAC of port p takes its next frame at cycle `cyc` (R394, R428). -/
def execTransmitFrame (p : Fin 7) (cyc : Nat) (crs : Bool) (s : State) : Host.Outcome State Fault Refusal :=
  .next (if macIdle s then s else if p.val = 6 then cbpStart s cyc crs else macStart s p.val cyc)

/-- TRANSMIT_END: the frame in transmission on port p ends (R298, R396). -/
def execTransmitEnd (p : Fin 7) (s : State) : Host.Outcome State Fault Refusal :=
  .next (if p.val = 6 then cbpEnd s else macEnd s p.val)

/-! ### PLCA (R419, R430, R431) -/

/-- BEACON_SEND: the coordinator starts a cycle (R430). -/
def execBeaconSend (s : State) : Host.Outcome State Fault Refusal :=
  if cbpCoordinator s && cbpUsable s && !macIdle s then
    let s1 := portStat (emit s .beacon) 6 22 1
    .next (setCbp s1 { s1.cbp with beaconAt := s.tck.boundaries, opportunity := 0, burst := 0 })
  else .next s

/-- BEACON_RECEIVED: PLCA becomes active, and a backoff is abandoned (R431). -/
def execBeaconReceived (s : State) : Host.Outcome State Fault Refusal :=
  if s.cbp.enabled && cbpPlcaEn s && cbpNode s != 0 then
    let s1 := portStat s 6 22 1
    .next (setCbp s1 { s1.cbp with
      plcaActive := true, beaconAt := s.tck.boundaries, opportunity := 0, burst := 0, backoff := none, deferring := false })
  else .next s

/-- TRANSMIT_OPPORTUNITY: the next opportunity of the cycle begins; in the device's own a ready frame is sent without
deferring, and further ones as far as burst_count lets (R430). -/
def execTransmitOpportunity (cyc : Nat) (s : State) : Host.Outcome State Fault Refusal :=
  if macIdle s || !s.cbp.plcaActive || !cbpUsable s || (getPort s 6).sending.isSome then .next s
  else
    let own := s.cbp.opportunity == cbpNode s
    let ready := !(getPort s 6).held.isEmpty && (cbpDiscard s).isNone
    if own && ready && decide (s.cbp.burst ≤ cbpBurst s) then
      .next (cbpBegin (setCbp s { s.cbp with burst := s.cbp.burst + 1 }) cyc)
    else .next (setCbp s { s.cbp with opportunity := (s.cbp.opportunity + 1) % 256, burst := 0 })

/-- PLCA_BEACON_TIMEOUT: no BEACON for 4,000 bit times (R431). -/
def execPlcaBeaconTimeout (s : State) : Host.Outcome State Fault Refusal :=
  if s.cbp.plcaActive && !cbpCoordinator s && passed s s.cbp.beaconAt (boundariesIn s 400000) then
    let s1 := portStat (setErr s pgCbp 3) 6 23 1
    .next (setCbp s1 { s1.cbp with plcaActive := false })
  else .next s

/-- TX_CLK_LOST: TX_CLK shows no edge for 2 µs (R420). -/
def execTxClkLost (s : State) : Host.Outcome State Fault Refusal :=
  if s.cbp.enabled && s.cbp.txClk then
    let s1 := setErr (setCbp s { s.cbp with txClk := false, usable := false }) pgCbp 2
    match (getPort s 6).sending with
    | none => .next s1
    | some d => .next (cbpDone (portStat (emit s1 (.wire 6 [] false)) 6 19 1) d none)
  else .next s

/-- TX_CLK_RESTORED: TX_CLK has run for 2 µs; P6 is usable from the next boundary (R420). -/
def execTxClkRestored (s : State) : Host.Outcome State Fault Refusal :=
  .next (setCbp s { s.cbp with txClk := true })

/-! ### The boundary and the registers -/

/-- The boundary at which P6's MAC falls idle (R204, R217). -/
def cbpEndSending (s : State) : State :=
  match (getPort s 6).sending with
  | none => s
  | some d => cbpDone (portStat (emit s (.wire 6 [] false)) 6 19 1) d none

/-- P6 at a boundary (R420, R423, R429). -/
def cbpBoundary (s : State) : State :=
  let s0 := setCbp s { s.cbp with usable := s.cbp.txClk }
  match runningOn s0 pgCbp with
  | none => s0
  | some c =>
    if c.code = 1 then
      let x := (Config.serialNumber.toNat % 2 ^ 31) ^^^ fld (rd s (pgCbp + Reg.CBP_SEED)) 30 0
      endCmd (setCbp s0 { s0.cbp with
        enabled := true, lfsr := if x = 0 then 1 else x, lfsrAt := s.tck.cycles
        plcaActive := cbpPlcaEn s && cbpNode s == 0, attempts := 0, backoff := none, deferring := false }) pgCbp stOK
    else if c.code = 2 then endCmd (setCbp s0 { s0.cbp with enabled := false, plcaActive := false }) pgCbp stOK
    else s0

/-- CBP page. -/
def viewCbp (s : State) (off : Nat) : Option Word :=
  if off = Reg.PAGE_STAT then
    some (w32 (s.cbp.enabled.toNat + 2 * (cbpUsable s).toNat + 4 * s.cbp.plcaActive.toNat + 8 * (cbpCoordinator s).toNat
      + 16 * s.cbp.txClk.toNat))
  else if off = Reg.CBP_PLCA_POS then some (w32 (s.cbp.opportunity + 256 * s.cbp.plcaActive.toNat))
  else none

end Sys2Proof.Machine
end

