-- ==== Sys2Proof/Machine/Carlis.lean ====
section
/-! DEFINITION. The Carlis replication transport (chapter 16): channels, target windows, messages, sessions, sending,
receiving, applying and retransmission. -/
namespace Sys2Proof.Machine

/-! ### Channels, windows and peers (R579 to R590) -/

def getCh (s : State) (c : Nat) : CrtChan := tget (fun _ => CrtChan.closed) s.crt.chans c
def putCh (s : State) (c : Nat) (x : CrtChan) : State :=
  { s with crt := { s.crt with chans := tset (fun _ => CrtChan.closed) s.crt.chans c x } }
def modCh (s : State) (c : Nat) (f : CrtChan → CrtChan) : State := putCh s c (f (getCh s c))
def getWin (s : State) (w : Nat) : CrtWin := tget (fun _ => CrtWin.reset) s.crt.wins w
def putWin (s : State) (w : Nat) (x : CrtWin) : State :=
  { s with crt := { s.crt with wins := tset (fun _ => CrtWin.reset) s.crt.wins w x } }
def getCopy (s : State) (k w : Nat) : Nat × Nat := tget (fun _ => (0, 0)) s.crt.copies (64 * k + w)
def putCopy (s : State) (k w : Nat) (x : Nat × Nat) : State :=
  { s with crt := { s.crt with copies := tset (fun _ => (0, 0)) s.crt.copies (64 * k + w) x } }

/-- Every window copy of channel `k` is empty. -/
def dropCopies (s : State) (k : Nat) : State :=
  { s with crt := { s.crt with copies := tdrop (fun w => w / 64 == k) s.crt.copies } }

/-- Where the model keys CRT_CH_CFG0–2 of channel c and the staged words of window w (R583, R587). -/
abbrev crtCfg (c k : Nat) : Nat := 0x310000000 + 16 * c + 4 * k
abbrev crtStage (w k : Nat) : Nat := 0x310010000 + 32 * w + 4 * k

/-- Fields of a channel's configuration (R583). -/
def chOwner (s : State) (c : Nat) : Nat := fld (rd s (crtCfg c 0)) 10 0
def chPeer (s : State) (c : Nat) : Nat := fld (rd s (crtCfg c 0)) 13 12
def chChunk (s : State) (c : Nat) : Nat := 64 * fld (rd s (crtCfg c 0)) 23 16
def chWindow (s : State) (c : Nat) : Nat := fld (rd s (crtCfg c 0)) 29 24
def chPage (s : State) (c : Nat) : Nat := fld (rd s (crtCfg c 1)) 9 0
def chOut (s : State) (c : Nat) : Nat := fld (rd s (crtCfg c 1)) 20 16
def chIn (s : State) (c : Nat) : Nat := fld (rd s (crtCfg c 1)) 28 24
def chRto (s : State) (c : Nat) : Nat := fld (rd s (crtCfg c 2)) 15 0
def chRetries (s : State) (c : Nat) : Nat := fld (rd s (crtCfg c 2)) 19 16

/-- A register of peer record k (R581), and its fields. -/
def peerReg (s : State) (k r : Nat) : Word := rd s (pgCrt + r + 64 * k)
def peerIp6 (s : State) (k : Nat) : Bool := fbit (peerReg s k Reg.PEER_CTL) 1
def peerTag (s : State) (k : Nat) : Bool := fbit (peerReg s k Reg.PEER_CTL) 2
def peerPort (s : State) (k : Nat) : Nat := fld (peerReg s k Reg.PEER_CTL) 6 4
def peerClass (s : State) (k : Nat) : Nat := fld (peerReg s k Reg.PEER_CTL) 10 8
def peerIncarn (s : State) (k : Nat) : Nat := (peerReg s k Reg.PEER_INCARN).toNat

/-- An address of a peer record: 4 or 16 bytes in network order. -/
def peerAddr (s : State) (k r : Nat) : List Byte :=
  (List.range (if peerIp6 s k then 4 else 1)).flatMap (fun i => beBytes 4 (peerReg s k (r + 4 * i)).toNat)

/-- The device's node ID and incarnation. -/
def nodeId (s : State) : Nat := (rd s (pgCrt + Reg.CRT_NODE_ID)).toNat
def incarn (s : State) : Nat := (rd s (pgCrt + Reg.CRT_INCARN)).toNat

/-- Is any channel open (R579), and does an open channel name peer record k (R581)? -/
def anyOpen (s : State) : Bool := s.crt.chans.any (fun e => e.2.isOpen)
def peerInUse (s : State) (k : Nat) : Bool := s.crt.chans.any (fun e => e.2.isOpen && chPeer s e.1 == k)

/-- A write to a CRT register that R579, R581 or R583 guards: ignored with cfg_locked while it is barred. -/
def crtLockedWrite (s : State) (barred : Bool) (a : Nat) (w : Word) : State := if barred then setErr s pgCrt 1 else wr s a w

/-- H_out of R593. -/
def outerLen (s : State) (k : Nat) : Nat := 14 + (if peerTag s k then 4 else 0) + (if peerIp6 s k then 40 else 20) + 8

/-- Is association a of page t fit for a channel's direction (R584)? -/
def crtAssocOk (s : State) (t a : Nat) (out : Bool) : Bool :=
  let b := saBytes s t a
  saValid s t a && saProto b == 2 && saOut b == out && saExt b && fbit (rd s (pgTenCip t + Reg.CP_SLOTS)) (saSlot b)

/-- The first check of R584 that fails. -/
def openReason (s : State) (c : Nat) : Option Nat :=
  let k := chPeer s c
  firstReason [
    (1, chOwner s c == 1 || decide (1025 < chOwner s c)),
    (2, !fbit (peerReg s k Reg.PEER_CTL) 0 || (peerReg s k Reg.PEER_NODE).toNat == nodeId s),
    (3, decide (chChunk s c = 0 ∨ 64 * 253 < chChunk s c ∨ chWindow s c = 0 ∨ chRto s c = 0 ∨ chRetries s c = 0)),
    (4, !crtAssocOk s (chPage s c) (chOut s c) true || !crtAssocOk s (chPage s c) (chIn s c) false),
    (5, decide (fld (rd s (pgMac (peerPort s k) + Reg.MAC_MAX_FRAME)) 14 0 < outerLen s k + chChunk s c + 100))]

/-- A CRT command is to take effect at the next boundary. -/
def crtPend (s : State) (p : CrtPend) : State := { s with crt := { s.crt with pend := some p } }

/-- OPEN_CHANNEL (R584).
DEDUCED (log entry 80, unsafe). -/
def specOpenChannel : CmdSpec where
  role := Master.isGlobal
  phases := notRecovery
  body c s :=
    let n := fld c.a0 7 0
    if (getCh s n).isOpen ∨ nodeId s = 0 ∨ incarn s = 0 then endCmd s pgCrt stWRONG_STATE
    else match openReason s n with
      | some r => finishCmd s pgCrt stBAD_ARG (w32 r) 0 0
      | none => crtPend s (.opens n)

/-- CLOSE_CHANNEL (R585). -/
def specCloseChannel : CmdSpec where
  role := Master.isGlobal
  phases := notRecovery
  body c s :=
    let n := fld c.a0 7 0
    if (getCh s n).isOpen then crtPend s (.closes n) else endCmd s pgCrt stWRONG_STATE

/-- The staged values of window w (R587).
DEDUCED (log entry 80, unsafe). -/
def stagedWin (s : State) (w : Nat) : CrtWin :=
  let r (k : Nat) : Word := rd s (crtStage w k)
  ⟨(r 1).toNat + 2 ^ 32 * fld (r 2) 5 0, (r 3).toNat + 2 ^ 32 * fld (r 4) 6 0, fld (r 0) 1 0, fld (r 0) 15 8, fld (r 0) 23 16,
    (getWin s w).gen, true⟩

/-- WIN_SET (R588). -/
def specWinSet : CmdSpec where
  role := Master.isGlobal
  phases := notRecovery
  body c s :=
    let w := fld c.a0 5 0
    let x := stagedWin s w
    if x.base % 64 ≠ 0 ∨ x.size % 64 ≠ 0 ∨ x.size = 0 ∨ !dramRange s x.base x.size ∨ x.hi < x.lo then
      endCmd s pgCrt stBAD_ARG
    else crtPend s (.set w x)

/-- WIN_CLOSE (R588). -/
def specWinClose : CmdSpec where
  role := Master.isGlobal
  phases := notRecovery
  body c s :=
    let w := fld c.a0 5 0
    if (getWin s w).valid then crtPend s (.drop w) else endCmd s pgCrt stWRONG_STATE

def execOpenChannel (via : Master) (seq : Byte) (a0 : Word) (s : State) : Host.Outcome State Fault Refusal :=
  .next (commandRow specOpenChannel pgCrt 1 via seq a0 0 0 s)

def execCloseChannel (via : Master) (seq : Byte) (a0 : Word) (s : State) : Host.Outcome State Fault Refusal :=
  .next (commandRow specCloseChannel pgCrt 2 via seq a0 0 0 s)

def execWinSet (via : Master) (seq : Byte) (a0 : Word) (s : State) : Host.Outcome State Fault Refusal :=
  .next (commandRow specWinSet pgCrt 3 via seq a0 0 0 s)

def execWinClose (via : Master) (seq : Byte) (a0 : Word) (s : State) : Host.Outcome State Fault Refusal :=
  .next (commandRow specWinClose pgCrt 4 via seq a0 0 0 s)

/-! ### Entries and their ends (R599 to R603, R616, R617) -/

/-- Is serial number a later than b (R92, R604)? -/
def seqAfter (a b : Nat) : Bool := let d := (a + 2 ^ 32 - b) % 2 ^ 32; decide (0 < d ∧ d < 2 ^ 31)

/-- Cells that Carlis holds (R600): those of unacknowledged messages, and those reserved for chunks being read. -/
def crtCells (s : State) : Nat :=
  s.crt.chans.foldl (fun a e => a + e.2.msgs.foldl (fun a m => a + m.cells) 0) 0
    + s.queues.items.foldl (fun a i => if i.etype = 5 then a + i.cells else a) 0

/-- Cells return to the pool. -/
def crtFree (s : State) (n : Nat) : State := { s with pipe := { s.pipe with freeCells := s.pipe.freeCells + n } }

/-- An entry of a channel ends with a status (R602). -/
def crtEnd (s : State) (e : CrtEntry) (status : Nat) : State :=
  endItem s e.wq e.idx { report s status (if e.commit then 0 else e.applied) with out := w32 e.last }

/-- Is a message of an entry? -/
def CrtMsg.of (m : CrtMsg) (e : CrtEntry) : Bool := m.item == some (e.wq, e.idx)

/-- Is every message of an entry numbered, or none to come (R603)? -/
def CrtEntry.allTaken (e : CrtEntry) : Bool := decide (e.len ≤ e.taken) || e.refused.isSome

/-- Entries all of whose messages are numbered and settled finish (R602). -/
def crtFinish (s : State) (c : Nat) : State :=
  let x := getCh s c
  let finished (e : CrtEntry) : Bool := e.allTaken && !x.msgs.any (fun m => m.of e)
  let s1 := (x.entries.filter finished).foldl (fun s e =>
    crtEnd s e (match e.refused with
      | some r => r
      | none => if e.poisoned then stPOISONED else stOK)) s
  modCh s1 c (fun x => { x with entries := x.entries.filter (fun e => !finished e) })

/-- A session ends at the initiator (R616): its messages and their cells go, and their entries end. -/
def crtLose (s : State) (c : Nat) : State :=
  let x := getCh s c
  let lost := x.entries.filter (fun e => x.msgs.any (fun m => m.of e))
  let s1 := lost.foldl (fun s e => bump (crtEnd s e stSTALE_GENERATION) (pgCrt + Reg.CRT_LOST_ENTRY)) s
  let s2 := crtFree s1 (x.msgs.foldl (fun a m => a + m.cells) 0)
  modCh s2 c (fun x => { x with
    msgs := [], entries := x.entries.filter (fun e => !lost.contains e), session := none, commits := 0,
    build := match x.build with
      | some b => if b.ty = 1 ∨ b.ty = 3 ∨ b.ty = 4 then none else some b
      | none => none
    timer := none, expiries := 0, wentBack := false })

/-- The channel asks for a new session in the next tick (R613). -/
def crtReopen (s : State) (c : Nat) : State :=
  modCh (crtLose s c) c (fun x => { x with
    opening := true, silent := false, helloDue := true, helloPn := none, dueFrom := s.tck.boundaries + 1 })

/-- Entries of reset functions leave their channels without a completion; their numbered messages stay (R617). -/
def crtDetach (s : State) (p : Nat → Bool) : State :=
  s.crt.chans.foldl (fun s e =>
    let gone := e.2.entries.filter (fun x => p x.fn)
    modCh s e.1 (fun x => { x with
      entries := x.entries.filter (fun y => !gone.contains y),
      msgs := x.msgs.map (fun m => if gone.any (fun y => m.of y) then { m with item := none } else m) })) s

/-- An entry that is no longer in execution, because a read of its source failed (R339) or it was fetched again (R264),
leaves its channel. -/
def crtTidy (s : State) (c : Nat) : State :=
  let on (e : CrtEntry) : Bool := match getItem s e.wq e.idx with
    | none => false
    | some i => match i.stage with
      | .run => true | .admission => true | .data => true
      | _ => false
  modCh s c (fun x => { x with
    entries := x.entries.filter on,
    msgs := x.msgs.map (fun m => if x.entries.any (fun e => m.of e && !on e) then { m with item := none } else m) })

/-- The entry whose messages are being numbered (R599). -/
def crtCurrent (x : CrtChan) : Option CrtEntry := x.entries.find? (fun e => !e.allTaken)

/-- Change an entry of a channel. -/
def CrtChan.modEntry (x : CrtChan) (wq idx : Nat) (f : CrtEntry → CrtEntry) : CrtChan :=
  { x with entries := x.entries.map (fun e => if e.wq = wq ∧ e.idx = idx then f e else e) }

/-- A fetched PUT or COMMIT is judged as it starts (R586): its status if it ends at once, `none` while its channel is
OPENING. -/
def crtStart (s : State) (i : WorkItem) (c : Nat) : Option (Option Nat) :=
  let dram := nbit (leAt i.bytes 6 1) 0
  if i.fn ≠ chOwner s c ∨ (i.etype = 5 ∧ dram ∧ i.fn ≠ 0) then some (some stDENIED)
  else if !(getCh s c).isOpen then some (some stNOT_FOUND)
  else if i.etype = 5 ∧ dram ∧ !dramRange s (leAt i.bytes 8 8) (leAt i.bytes 24 4) then some (some stDENIED)
  else if (getCh s c).opening then none
  else some none

/-- The entry starts: it joins its channel.
DEDUCED (log entry 84, unsafe). -/
def crtJoin (s : State) (i : WorkItem) (c : Nat) : State :=
  let e : CrtEntry := ⟨i.wq, i.idx, i.fn, i.etype == 6, if i.etype = 6 then 1 else leAt i.bytes 24 4, 0, 0, 0, false, none⟩
  modCh (modItem s i.wq i.idx (fun x => { x with stage := .run })) c (fun x => { x with entries := x.entries ++ [e] })

/-- Length of a PUT's next chunk (R600). -/
def nextChunk (s : State) (c : Nat) (e : CrtEntry) : Nat := Nat.min (chChunk s c) (e.len - e.taken)

/-- Cells of a chunk of D bytes (R600). -/
def chunkCells (d : Nat) : Nat := cdiv (80 + d) 256

/-- CARLIS_PUT_ENTRY: a PUT starts (R586); its next chunk asks for admission (R600, R522); or the next block of a chunk
in DRAM is read.
DEDUCED (log entry 84, unsafe). -/
def execCarlisPutEntry (wq : Fin 16384) (idx : Fin 65536) (s0 : State) : Host.Outcome State Fault Refusal :=
  match getItem s0 wq.val idx.val with
  | none => .next s0
  | some i =>
    let c := leAt i.bytes 4 1
    if i.etype ≠ 5 || isHalted s0 i.fn || !phaseServes s0 i.fn then .next s0
    else match i.stage with
    | .ready =>
      if !mayStart s0 i then .next s0
      else match crtStart s0 i c with
        | none => .next s0
        | some (some st) => .next (endItem s0 i.wq i.idx (report s0 st 0))
        | some none => .next (crtJoin (crtTidy s0 c) i c)
    | .run =>
      let s := crtTidy s0 c
      match crtCurrent (getCh s c) with
      | none => .next s
      | some e =>
        if e.wq ≠ i.wq ∨ e.idx ≠ i.idx ∨ (getCh s c).opening then .next s
        else .next (modItem (joinAdmit s i) i.wq i.idx (fun x => { x with
          stage := .admission, admitted := false, buf := [], segs := [(leAt i.bytes 8 8 + e.taken, nextChunk s c e)] }))
    | .data =>
      match i.segs with
      | [(a, n)] =>
        let at_ := a + i.buf.length
        let k := Nat.min (64 - at_ % 64) (n - i.buf.length)
        if !nbit (leAt i.bytes 6 1) 0 || k = 0 || !gkOpen s0 || !dramMay s0 at_ k 1 then .next s0
        else
          let r := dramRead 3 1 s0 at_ k
          .next (placeData r.1 i.wq i.idx i.buf.length r.2)
      | _ => .next s0
    | _ => .next s0

/-- Is a COMMIT held back by the equinox (R673)? -/
def commitsHeld (s : State) : Bool := s.red.stage == .hold || s.red.stage == .drain

/-- CARLIS_COMMIT_ENTRY: a COMMIT starts, and takes the next sequence number once every earlier entry of its channel has
numbered its messages (R601). -/
def execCarlisCommitEntry (wq : Fin 16384) (idx : Fin 65536) (s0 : State) : Host.Outcome State Fault Refusal :=
  match getItem s0 wq.val idx.val with
  | none => .next s0
  | some i =>
    let c := leAt i.bytes 4 1
    if i.etype ≠ 6 || isHalted s0 i.fn || !phaseServes s0 i.fn then .next s0
    else match i.stage with
    | .ready =>
      if !mayStart s0 i || commitsHeld s0 then .next s0
      else match crtStart s0 i c with
        | none => .next s0
        | some (some st) => .next (endItem s0 i.wq i.idx (report s0 st 0))
        | some none => .next (crtJoin (crtTidy s0 c) i c)
    | .run =>
      let s := crtTidy s0 c
      let x := getCh s c
      match crtCurrent x with
      | none => .next s
      | some e =>
        if e.wq ≠ i.wq ∨ e.idx ≠ i.idx ∨ x.opening ∨ x.session = none ∨ chWindow s c ≤ x.msgs.length ∨ !gkOpen s
            ∨ s.pipe.freeCells = 0 then .next s
        else
          let n := (x.commits + 1) % 2 ^ 32
          let m : CrtMsg := ⟨x.next, some (i.wq, i.idx), none, n, 1, none, true, false, false⟩
          let y := x.modEntry i.wq i.idx (fun e => { e with taken := 1, last := n })
          .next (putCh { s with pipe := { s.pipe with freeCells := s.pipe.freeCells - 1 } } c { y with
            commits := n, next := (x.next + 1) % 2 ^ 32, msgs := x.msgs ++ [m], dueFrom := Nat.min x.dueFrom s.tck.boundaries
            timer := if x.timer.isNone then some s.tck.boundaries else x.timer
            interval := if x.timer.isNone then chRto s c else x.interval })
    | _ => .next s0

/-! ### Building and sending messages (R591 to R597) -/

/-- The header of a message of channel c (R594). -/
def crtHeader (s : State) (c ty gap rInc session pn seq : Nat) : List Byte :=
  leBytes 1 (16 + ty) ++ leBytes 1 gap ++ leBytes 1 c ++ [0] ++ beBytes 4 (nodeId s) ++ beBytes 4 (incarn s)
    ++ beBytes 4 rInc ++ beBytes 4 session ++ beBytes 8 pn ++ beBytes 4 seq

/-- The frame, without FCS, that carries `u` on channel c (R591). -/
def crtFrame (s : State) (c : Nat) (u : List Byte) : List Byte :=
  let k := chPeer s c
  let p := peerPort s k
  let ctl := peerReg s k Reg.PEER_CTL
  let dst := beBytes 2 (fld (peerReg s k Reg.PEER_MAC_HI) 15 0) ++ beBytes 4 (peerReg s k Reg.PEER_MAC_LO).toNat
  let src := beBytes 2 (fld (rd s (pgMac p + Reg.MAC_SA_HI)) 15 0) ++ beBytes 4 (rd s (pgMac p + Reg.MAC_SA_LO)).toNat
  let tag := if peerTag s k then [0x81, 0x00] ++ beBytes 2 (fld (peerReg s k Reg.PEER_VLAN) 15 0) else []
  let udpLen := 8 + u.length
  let udp := beBytes 2 (0xC000 + c) ++ beBytes 2 (fld (rd s (pgCrt + Reg.CRT_UDP_PORT)) 15 0) ++ beBytes 2 udpLen ++ [0, 0]
  let la := peerAddr s k Reg.PEER_LOCAL_IP0
  let ra := peerAddr s k Reg.PEER_REMOTE_IP0
  let ttl := fld ctl 23 16
  let dscp := fld ctl 29 24
  let eth := dst ++ src ++ tag
  if peerIp6 s k then
    let ip := beBytes 4 (6 * 2 ^ 28 + dscp * 2 ^ 22) ++ beBytes 2 udpLen ++ leBytes 1 17 ++ leBytes 1 ttl ++ la ++ ra
    let f := eth ++ [0x86, 0xDD] ++ ip ++ udp ++ u
    let l3 := eth.length + 2
    putB f (l3 + 46) (beBytes 2 (udpChecksum f l3 (l3 + 40) true))
  else
    let ip := [0x45] ++ leBytes 1 (4 * dscp) ++ beBytes 2 (20 + udpLen) ++ [0, 0, 0x40, 0] ++ leBytes 1 ttl
      ++ leBytes 1 17 ++ [0, 0] ++ la ++ ra
    eth ++ [0x08, 0x00] ++ putB ip 10 (beBytes 2 (65535 - onesSum ip 0)) ++ udp ++ u

/-- The Carlis engine account of a message type (R608). -/
def crtAcct (ty : Nat) : Nat := acct 5 (if ty = 3 then 0 else 1)

/-- A message waits for a credit in this tick (R622). -/
def crtWait (s : State) : State := { s with crt := { s.crt with waited := true } }

/-- The association of a channel as the cipher names it; Carlis units are charged to cipher account 2. -/
def crtSa (s : State) (c a : Nat) : SaRef := ⟨chPage s c, a, false⟩

/-- The key of a Carlis association is needed and not cached: it is queued, or the message is refused because its derivation
failed (R553, R555). -/
def crtKey (s : State) (e : Nat) : State × Bool :=
  if s.cip.noKey.contains e then
    ({ s with cip := { s.cip with noKey := s.cip.noKey.filter (fun x => x != e) } }, true)
  else if s.cip.keyQ.any (fun k => k.slice == s.worker && k.entry == e) then (s, false)
  else
    let s1 := signal (bump s (pgCip s.worker + Reg.CIP_KEY_MISS)) (srcSlice s.worker 0x14 2) 0 1
    (queueKey s1 s.worker e 2, false)

/-- A built message goes to the pipeline under account 1 with its egress port and class (R436, R591). Numbered messages
are sent from the cells they hold. -/
def crtHandOver (s : State) (c ty : Nat) (l : List Byte) : State :=
  let k := chPeer s c
  let held := ty == 3 || ty == 4
  let f : Frame := {
    port := none, entry := none, fn := 0x7FF, data := l, fcs := [], flen := l.length + 4, whole := true, bad := false,
    flags := 0, cls := 0, time := ptpNs s.time.ptp, cells := if held then 0 else 1, poison := [], meta32 := 0, tsReq := false,
    refs := 1, charges := [], grow := [], late := [], ctBy := [], lenField := none, mismatch := false, discard := false,
    decrypted := false }
  let r := newFrame s f
  let s1 := { r.1 with pipe := { r.1.pipe with q1 := r.1.pipe.q1 ++ [.carlis r.2 (peerPort s k) (peerClass s k)] } }
  let s2 := cipOutcome s1 (crtSa s c (chOut s c)) 1
  let s3 := bump (bump s2 (pgCrt + Reg.CRT_TX_MSG)) (pgSlice s.worker 4 + Reg.CRT_BUILT)
  modCh (signal s3 (srcSlice s.worker 0x15 0) ty 1) c (fun x => { x with build := none })

/-- The message being built on channel c gets the cipher blocks it still owes.
DEDUCED (log entry 85, unsafe). -/
def crtPay (s : State) (c : Nat) (b : CrtBuild) : State :=
  let n := Nat.min b.owed (blocksLeft s 2)
  let s1 := useBlocks s 2 n
  if b.owed ≤ n then crtHandOver s1 c b.ty b.data
  else modCh (crtWait s1) c (fun x => { x with build := some { b with owed := b.owed - n } })

/-- How the start of a message ended. -/
inductive CrtStarted where
  | no                       -- not now
  | lost                     -- refused by the cipher
  | pn (n : Nat)             -- started, with its packet number
deriving DecidableEq, Repr

/-- A message of channel c is started (R597): credits, key, packet number, encryption.
DEDUCED (log entry 85, unsafe). -/
def crtBegin (s : State) (c ty gap rInc session seq : Nat) (body : List Byte) : State × CrtStarted :=
  let t := chPage s c
  let a := chOut s c
  let e := 32 * t + a
  let sa := crtSa s c a
  if !gkOpen s || !s.power.bringupDone then (s, .no)
  else if !crtAssocOk s t a true then (cipOutcome s sa 2, .lost)
  else if !canStart s (crtAcct ty) 1 0 || blocksLeft s 2 == 0 then (crtWait s, .no)
  else if s.pipe.freeCells = 0 then (s, .no)
  else if (cached s s.worker e).isEmpty then
    let r := crtKey s e
    if r.2 then (cipOutcome r.1 sa 4, .lost) else (r.1, .no)
  else
    let r := takePn s t a true
    match r.2 with
    | none => (cipOutcome r.1 sa 9, .lost)
    | some pn =>
      let h := crtHeader r.1 c ty gap rInc session pn seq
      let g := gcmSeal (cached s s.worker e) (beBytes 4 (nodeId s) ++ beBytes 8 pn) h body
      let b : CrtBuild := ⟨ty, seq, unitBlocks 32 body.length, crtFrame r.1 c (h ++ g.1 ++ g.2)⟩
      (crtPay (useCredits r.1 (crtAcct ty) 1 0) c b, .pn pn)

/-- HELLO_SEND: a channel in OPENING sends the HELLO it owes (R608, R610). -/
def execHelloSend (c : Fin 256) (s : State) : Host.Outcome State Fault Refusal :=
  let x := getCh s c.val
  match x.build with
  | some b => .next (if b.ty = 1 && gkOpen s then crtPay s c.val b else s)
  | none =>
    if !x.isOpen || !x.opening || !x.helloDue || decide (s.tck.boundaries < x.dueFrom) then .next s
    else
      let r := crtBegin s c.val 1 0 (peerIncarn s (chPeer s c.val)) (x.session.getD 0) 0 []
      let start (s : State) : State := modCh s c.val (fun y => { y with
        helloDue := false, timer := some s.tck.boundaries,
        interval := if y.timer.isNone then chRto s c.val else y.interval })
      match r.2 with
      | .no => .next r.1
      | .lost => .next (start r.1)
      | .pn n =>
        let s1 := if x.expiries = 0 then r.1 else bump r.1 (pgCrt + Reg.CRT_RETX)
        .next (modCh (start s1) c.val (fun y => { y with helloPn := some n }))

/-- The bytes of a chunk's map (R596). -/
def mapBytes (p : List Nat) : List Byte :=
  (List.range 32).map (fun j => BitVec.ofNat 8 ((List.range 8).foldl (fun a k =>
    if p.contains (8 * j + k) then a + 2 ^ (7 - k) else a) 0))

/-- The body of a numbered message (R595, R596). -/
def msgBody (m : CrtMsg) : List Byte :=
  match m.chunk with
  | none => beBytes 4 m.number ++ [0, 0, 0, 0]
  | some k =>
    beBytes 2 k.gen ++ leBytes 1 k.window ++ leBytes 1 (if k.poison.isEmpty then 0 else 1) ++ beBytes 4 k.data.length
      ++ beBytes 8 k.offset ++ mapBytes k.poison ++ k.data

/-- The first message due on a channel. -/
def firstDue (s : State) (x : CrtChan) : Option CrtMsg :=
  if s.tck.boundaries < x.dueFrom then none else x.msgs.find? (·.due)

/-- A numbered message is sent, or sent again (R600, R608). -/
def sendMsg (s : State) (c : Nat) (m : CrtMsg) : State :=
  let x := getCh s c
  let ty := if m.chunk.isSome then 3 else 4
  let r := crtBegin s c ty 0 x.peerInc (x.session.getD 0) m.seq (msgBody m)
  let done (s : State) : State := modCh s c (fun y => { y with
    msgs := y.msgs.map (fun n => if n.seq = m.seq then { n with due := false, sent := true } else n) })
  match r.2 with
  | .no => r.1
  | .lost => done r.1
  | .pn _ =>
    let poisoned := match m.chunk with
      | some k => !k.poison.isEmpty
      | none => false
    let s1 := if m.sent then bump r.1 (pgCrt + Reg.CRT_RETX)
      else if poisoned then bump r.1 (pgCrt + Reg.CRT_POISON_CHUNK) else r.1
    done s1

/-- The chunk whose data is whole takes the next sequence number (R600, R618). -/
def numberChunk (s : State) (c : Nat) : State :=
  let x := getCh s c
  match crtCurrent x with
  | none => s
  | some e => match getItem s e.wq e.idx with
    | none => s
    | some i =>
      let d := nextChunk s c e
      if e.commit || i.stage != .data || !readsDone s i || i.buf.length != d || x.opening || x.session.isNone
          || decide (chWindow s c ≤ x.msgs.length) then s
      else
        let l := bufBytes i.buf d
        let bad := poisonList l
        let data := (l.zip (List.range d)).map (fun b => if bad.contains (b.2 / 64) then (0 : Byte) else b.1.1)
        let w := leAt i.bytes 5 1 % 64
        let k : CrtChunk := ⟨w, (getCopy s (chPeer s c) w).1, (leAt i.bytes 16 8 + e.taken) % 2 ^ 64, bad, data⟩
        let m : CrtMsg := ⟨x.next, some (e.wq, e.idx), some k, 0, i.cells, if i.dramSource then none else some i.fn, true, false, false⟩
        let y := x.modEntry e.wq e.idx (fun e => { e with
          taken := e.taken + d, last := x.next, poisoned := e.poisoned || !bad.isEmpty })
        let s1 := modItem s e.wq e.idx (fun i => { i with stage := .run, cells := 0, buf := [], segs := [], outAt := x.next })
        putCh s1 c { y with
          next := (x.next + 1) % 2 ^ 32, msgs := x.msgs ++ [m], dueFrom := Nat.min x.dueFrom s.tck.boundaries
          timer := if x.timer.isNone then some s.tck.boundaries else x.timer
          interval := if x.timer.isNone then chRto s c else x.interval }

/-- CHUNK_SEND: the first message due is sent when it is a CHUNK; with none due, a chunk whose data is whole is numbered
and sent (R600, R608). -/
def execChunkSend (c : Fin 256) (s : State) : Host.Outcome State Fault Refusal :=
  let x := getCh s c.val
  match x.build with
  | some b => .next (if b.ty = 3 && gkOpen s then crtPay s c.val b else s)
  | none =>
    if !x.isOpen || x.opening || !gkOpen s || decide (s.tck.boundaries < x.dueFrom) then .next s
    else
      let s1 := if x.msgs.any (·.due) then s else numberChunk (crtTidy s c.val) c.val
      match firstDue s1 (getCh s1 c.val) with
      | some m => .next (if m.chunk.isSome then sendMsg s1 c.val m else s1)
      | none => .next s1

/-- COMMIT_SEND: the first message due is sent when it is a COMMIT (R601, R608). -/
def execCommitSend (c : Fin 256) (s : State) : Host.Outcome State Fault Refusal :=
  let x := getCh s c.val
  match x.build with
  | some b => .next (if b.ty = 4 && gkOpen s then crtPay s c.val b else s)
  | none =>
    if !x.isOpen || x.opening then .next s
    else match firstDue s x with
      | some m => .next (if m.chunk.isNone then sendMsg s c.val m else s)
      | none => .next s

/-- The body of a WINDOW message (R595), and the last bytes of a REFUSE. -/
def winBody (x : CrtWin) : List Byte := beBytes 8 (if x.valid then x.size else 0)

/-- ACK_SEND: the target half sends what it owes: a HELLO_ACK, a REFUSE, a WINDOW or an RST, else an ACK (R590, R606, R610,
R611).
DEDUCED (log entry 83, unsafe). -/
def execAckSend (c : Fin 256) (s : State) : Host.Outcome State Fault Refusal :=
  let x := getCh s c.val
  let now := s.tck.boundaries
  let ses := x.tSession.getD 0
  match x.build with
  | some b => .next (if (b.ty == 2 || decide (5 ≤ b.ty)) && gkOpen s then crtPay s c.val b else s)
  | none =>
    if !x.isOpen then .next s
    else match x.replies with
    | (q, at_) :: rest =>
      if now < at_ then .next s
      else
        let r := match q with
          | .helloAck pn => crtBegin s c.val 2 0 x.sInc ses x.rcvNext (beBytes 8 pn)
          | .refuse n st w =>
            let y := getWin s w
            crtBegin s c.val 6 0 x.sInc ses x.rcvNext
              (beBytes 4 n ++ leBytes 1 st ++ leBytes 1 w ++ beBytes 2 y.gen ++ winBody y)
          | .window w =>
            let y := getWin s w
            crtBegin s c.val 7 0 x.sInc ses 0
              (leBytes 1 w ++ leBytes 1 y.valid.toNat ++ beBytes 2 y.gen ++ [0, 0, 0, 0] ++ winBody y)
          | .rst n inc => crtBegin s c.val 8 0 inc ses 0 (beBytes 4 n ++ [0, 0, 0, 0])
        match r.2 with
        | .no => .next r.1
        | st =>
          let s1 := match q, st with
            | .rst _ _, .pn _ => bump r.1 (pgCrt + Reg.CRT_RST_TX)
            | _, _ => r.1
          let acked := match q with
            | .refuse _ _ _ => true
            | _ => false
          .next (modCh s1 c.val (fun y => { y with replies := rest, ackFrom := if acked then none else y.ackFrom }))
    | [] => match x.ackFrom with
      | none => .next s
      | some at_ =>
        if now < at_ ∨ x.ackAt = some now then .next s
        else
          let r := crtBegin s c.val 5 x.gap.toNat x.sInc ses x.rcvNext []
          match r.2 with
          | .no => .next r.1
          | _ => .next (modCh r.1 c.val (fun y => { y with ackFrom := none, gap := false, ackAt := some now }))

/-! ### Receiving (R582, R592 to R597, R604, R607, R610 to R613) -/

/-- A received message's header (R594). -/
structure CrtHdr where
  ty : Nat
  gap : Bool
  chan : Nat
  sInc : Nat
  rInc : Nat
  session : Nat
  pn : Nat
  seq : Nat
  node : Nat
  head : List Byte
  body : List Byte           -- still encrypted
  tag : List Byte
deriving DecidableEq, Repr

/-- Where the IP header of a frame starts, behind at most two VLAN tags, and whether it is IPv6 (R592). -/
def crtIp (l : List Byte) : Option (Nat × Bool) :=
  let isTag (o : Nat) : Bool := beAt l o 2 == 0x8100 || beAt l o 2 == 0x88A8
  let o := if isTag 12 then (if isTag 16 then 20 else 16) else 12
  if beAt l o 2 = 0x0800 ∧ leAt l (o + 2) 1 / 16 = 4 then some (o + 2, false)
  else if beAt l o 2 = 0x86DD ∧ leAt l (o + 2) 1 / 16 = 6 then some (o + 2, true)
  else none

/-- How the engine judges a received frame before the cipher. -/
inductive CrtJudge where
  | malformed | unknown | msg (h : CrtHdr)
deriving DecidableEq, Repr

/-- Is the body of a message of its type's length (R595)? -/
def bodyLenOk (ty n : Nat) : Bool :=
  if ty = 1 ∨ ty = 5 then n == 0 else if ty = 2 ∨ ty = 4 ∨ ty = 8 then n == 8 else if ty = 3 then decide (49 ≤ n ∧ n ≤ 16240)
  else n == 16

/-- A frame given to the engine: accepted (R592), well formed (R594, R595) and of a peer (R582) with an open channel
(R585).
DEDUCED (log entry 81, unsafe). -/
def crtJudge (s : State) (l : List Byte) : CrtJudge :=
  match crtIp l with
  | none => .malformed
  | some (o, v6) =>
    let l4 := if v6 then o + 40 else o + 4 * (leAt l o 1 % 16)
    let proto := if v6 then leAt l (o + 6) 1 else leAt l (o + 9) 1
    let n := beAt l (l4 + 4) 2
    if proto ≠ 17 ∨ (!v6 ∧ leAt l o 1 % 16 < 5) ∨ beAt l (l4 + 2) 2 ≠ fld (rd s (pgCrt + Reg.CRT_UDP_PORT)) 15 0
        ∨ n < 56 ∨ l.length < l4 + n then .malformed
    else
      let u := sliceB l (l4 + 8) (n - 8)
      let h : CrtHdr := {
        ty := leAt u 0 1 % 16, gap := nbit (leAt u 1 1) 0, chan := leAt u 2 1, node := beAt u 4 4, sInc := beAt u 8 4
        rInc := beAt u 12 4, session := beAt u 16 4, pn := beAt u 20 8, seq := beAt u 28 4, head := u.take 32
        body := sliceB u 32 (u.length - 48), tag := sliceB u (u.length - 16) 16 }
      if leAt u 0 1 / 16 ≠ 1 ∨ h.ty = 0 ∨ 8 < h.ty ∨ 2 ≤ leAt u 1 1 ∨ leAt u 3 1 ≠ 0 ∨ !bodyLenOk h.ty h.body.length then
        .malformed
      else
        let src := if v6 then sliceB l (o + 8) 16 else sliceB l (o + 12) 4
        let dst := if v6 then sliceB l (o + 24) 16 else sliceB l (o + 16) 4
        let mine (k : Nat) : Bool :=
          fbit (peerReg s k Reg.PEER_CTL) 0 && peerIp6 s k == v6 && peerAddr s k Reg.PEER_LOCAL_IP0 == dst
            && peerAddr s k Reg.PEER_REMOTE_IP0 == src && (peerReg s k Reg.PEER_NODE).toNat == h.node
        if (List.range 4).any (fun k => mine k && (getCh s h.chan).isOpen && chPeer s h.chan == k) then .msg h
        else .unknown

/-- The first received message leaves the engine. -/
def crtPop (s : State) : State :=
  match s.pipe.toCarlis with
  | [] => s
  | id :: t =>
    let s1 := { s with pipe := { s.pipe with toCarlis := t } }
    dropFrame { s1 with crt := { s1.crt with rx := none } } id

/-- CRT_UNKNOWN and CRT_MALFORMED count, with their PAGE_ERR bits (R582, R592). -/
def crtUnknown (s : State) : State := setErr (bump s (pgCrt + Reg.CRT_UNKNOWN)) pgCrt 6
def crtMalformed (s : State) : State := setErr (bump s (pgCrt + Reg.CRT_MALFORMED)) pgCrt 7

/-- Does a verified body break R595 or R596?.
DEDUCED (log entry 81, unsafe). -/
def bodyBad (ty : Nat) (b : List Byte) : Bool :=
  if ty = 3 then
    decide (64 ≤ leAt b 2 1 ∨ 2 ≤ leAt b 3 1 ∨ beAt b 4 4 + 48 ≠ b.length ∨ beAt b 4 4 = 0 ∨ 16192 < beAt b 4 4)
      || decide (leAt b 47 1 % 8 ≠ 0)
  else if ty = 4 ∨ ty = 8 then !zeroBytes b 4 8
  else if ty = 6 then decide (64 ≤ leAt b 5 1)
  else if ty = 7 then decide (64 ≤ leAt b 0 1 ∨ 2 ≤ leAt b 1 1) || !zeroBytes b 4 8
  else false

/-- The message being taken in still owes `n` key-stream blocks and has claimed `cells`. -/
def owing (s : State) (n cells : Nat) : State := { s with crt := { s.crt with rx := some (n, cells) } }

/-- A received message of type `ty` at the head of the engine's queue (R597): verified under its channel's inbound
association, and handed to `handle` with its body. A frame that is no message of an open channel is discarded. -/
def crtReceive (ty : Nat) (handle : State → CrtHdr → List Byte → State) (s : State) : State :=
  match s.pipe.toCarlis with
  | [] => s
  | id :: _ => match getFrame s id with
    | none => crtPop s
    | some f =>
      if !f.whole || !gkOpen s then s
      else match crtJudge s f.data with
      | .malformed => crtPop (crtMalformed s)
      | .unknown => crtPop (crtUnknown s)
      | .msg h =>
        let t := chPage s h.chan
        let a := chIn s h.chan
        let e := 32 * t + a
        let b := saBytes s t a
        let sa := crtSa s h.chan a
        if h.ty ≠ ty then s
        else if !crtAssocOk s t a false then crtPop (cipOutcome s sa 2)
        else if f.poisoned then crtPop (cipOutcome s sa 10)
        else if !replayOk s e b h.pn then crtPop (cipOutcome s sa 8)
        else if (cached s s.worker e).isEmpty then
          let r := crtKey s e
          if r.2 then crtPop (cipOutcome r.1 sa 4) else r.1
        else
          let cells := cellsFor h.body.length
          let room := decide (holdOf s 0 + cells ≤ fld (rdEff s (pgCip s.worker + Reg.CIP_HOLD_LIMIT)) 14 0)
            && decide (holdAll s + cells ≤ 16384)
          if s.crt.rx.isNone && (!room || draining s || !canStart s (crtAcct ty) 1 0 || blocksLeft s 2 == 0) then
            (if room && !draining s then crtWait s else s)
          else
            let owed := (s.crt.rx.map (·.1)).getD (unitBlocks 32 h.body.length)
            let s1 := if s.crt.rx.isNone then useCredits s (crtAcct ty) 1 0 else s
            let n := Nat.min owed (blocksLeft s1 2)
            let s2 := useBlocks s1 2 n
            if n < owed then noteHold (owing (crtWait s2) (owed - n) cells)
            else match gcmOpen (cached s s.worker e) (beBytes 4 h.node ++ beBytes 8 h.pn) h.head h.body h.tag with
            | none => crtPop (cipOutcome s2 sa 7)
            | some body =>
              let s3 := bump (crtPop (cipOutcome (replayTake s2 e b h.pn) sa 0)) (pgCrt + Reg.CRT_RX_MSG)
              if bodyBad ty body then crtMalformed s3 else handle s3 h body

/-- A reply joins what the target half owes.
DEDUCED (log entry 83, unsafe). -/
def crtReply (s : State) (c : Nat) (q : CrtReply) (at_ : Nat) : State :=
  modCh s c (fun x => { x with replies := x.replies ++ [(q, at_)] })

/-- An ACK falls due in the next tick (R606). -/
def crtAckDue (s : State) (c : Nat) : State :=
  modCh s c (fun x => { x with ackFrom := some (x.ackFrom.getD (s.tck.boundaries + 1)) })

/-- Does window w permit channel c?.
DEDUCED (log entry 86, unsafe). -/
def winPermits (s : State) (x : CrtWin) (c : Nat) : Bool := chPeer s c == x.peer && decide (x.lo ≤ c ∧ c ≤ x.hi)

/-- A HELLO (R611, R615).
DEDUCED (log entry 82, unsafe). -/
def onHello (s : State) (h : CrtHdr) (_ : List Byte) : State :=
  let c := h.chan
  let x0 := getCh s c
  let s1 := if x0.session.isSome && x0.peerInc != h.sInc then crtReopen s c else s
  let x := getCh s1 c
  if x.tSession = some h.session ∧ h.session ≠ 0 ∧ x.sInc = h.sInc then
    crtReply s1 c (.helloAck h.pn) s.tck.boundaries
  else
    let n := rd s1 (pgCrt + Reg.CRT_SESSION_CTR) + 1
    let s2 := modCh (wr s1 (pgCrt + Reg.CRT_SESSION_CTR) n) c (fun x => { x with
      tSession := some n.toNat, sInc := h.sInc, rcvNext := 0, rcvAccept := 0, tCommits := 0, apply := [], gap := false
      ackFrom := none, replies := [(.helloAck h.pn, s.tck.boundaries)] })
    ((List.range 64).filter (fun w => (getWin s w).valid && winPermits s (getWin s w) c)).foldl
      (fun s w => crtReply s c (.window w) s.tck.boundaries) s2

/-- Every message not acknowledged is due again, from boundary `at_` on. -/
def crtResend (s : State) (c at_ : Nat) : State :=
  modCh s c (fun x => { x with dueFrom := at_, msgs := x.msgs.map (fun m => { m with due := true }) })

/-- An acknowledgement up to a (R607). -/
def crtAck (s : State) (c a : Nat) : State :=
  let x := getCh s c
  if !seqAfter a x.una then s
  else
    let old := x.msgs.filter (fun m => seqAfter a m.seq)
    let left := x.msgs.filter (fun m => !seqAfter a m.seq)
    let sum (e : CrtEntry) : Nat := old.foldl (fun n m =>
      if m.of e && !m.refused then n + ((m.chunk.map (·.data.length)).getD 0) else n) 0
    let es := x.entries.map (fun e => { e with applied := e.applied + sum e })
    let s1 := es.foldl (fun s e => modItem s e.wq e.idx (fun i => { i with done := e.applied })) s
    let s2 := crtFree s1 (old.foldl (fun n m => n + m.cells) 0)
    let s3 := putCh s2 c { x with
      una := a, msgs := left, entries := es, silent := false, expiries := 0, interval := chRto s c, wentBack := false
      timer := if left.isEmpty then none else some s.tck.boundaries }
    crtFinish s3 c

/-- A HELLO_ACK (R612).
DEDUCED (log entry 82, unsafe). -/
def onHelloAck (s : State) (h : CrtHdr) (b : List Byte) : State :=
  let c := h.chan
  let x := getCh s c
  let opened (s : State) : State := modCh s c (fun x => { x with
    opening := false, silent := false, helloDue := false, helloPn := none, expiries := 0, interval := chRto s c
    timer := if x.msgs.isEmpty then none else some s.tck.boundaries })
  if !x.opening ∨ x.helloPn ≠ some (beAt b 0 8) then s
  else if x.session = some h.session ∧ x.peerInc = h.sInc then
    crtResend (opened (crtAck s c h.seq)) c s.tck.boundaries
  else
    let k := chPeer s c
    let s1 := crtLose s c
    let s2 := modCh (wr s1 (pgCrt + Reg.PEER_INCARN + 64 * k) (w32 h.sInc)) c (fun x => { x with
      session := some h.session, peerInc := h.sInc, una := 0, next := 0 })
    opened (dropCopies s2 k)

/-- Do a CHUNK's or COMMIT's three names match the target's session (R610)? -/
def namesTarget (s : State) (x : CrtChan) (h : CrtHdr) : Bool :=
  x.tSession == some h.session && x.sInc == h.sInc && h.rInc == incarn s

/-- Do an ACK's, REFUSE's or WINDOW's three names match the initiator's session (R610)? -/
def namesInitiator (s : State) (x : CrtChan) (h : CrtHdr) : Bool :=
  x.session == some h.session && x.peerInc == h.sInc && h.rInc == incarn s

/-- A verified CHUNK or COMMIT is judged by its seq (R604, R610). -/
def onNumbered (s : State) (h : CrtHdr) (k : Option CrtChunk) : State :=
  let c := h.chan
  let x := getCh s c
  if !namesTarget s x h then crtReply s c (.rst h.session h.sInc) s.tck.boundaries
  else if seqAfter x.rcvNext h.seq then crtAckDue (bump s (pgCrt + Reg.CRT_DUP)) c
  else if seqAfter x.rcvAccept h.seq then bump s (pgCrt + Reg.CRT_DUP)
  else if h.seq = x.rcvAccept then
    modCh s c (fun x => { x with
      rcvAccept := (x.rcvAccept + 1) % 2 ^ 32
      apply := x.apply ++ [⟨h.seq, k, getWin s ((k.map (·.window)).getD 0), 0⟩] })
  else crtAckDue (modCh (bump s (pgCrt + Reg.CRT_OOO)) c (fun x => { x with gap := true })) c

/-- A CHUNK's descriptor and data (R596). -/
def chunkOf (b : List Byte) : CrtChunk :=
  ⟨leAt b 2 1, beAt b 0 2, beAt b 8 8,
    (List.range 253).filter (fun i => nbit (leAt b (16 + i / 8) 1) (7 - i % 8)), b.drop 48⟩

def onChunk (s : State) (h : CrtHdr) (b : List Byte) : State := onNumbered s h (some (chunkOf b))
def onCommit (s : State) (h : CrtHdr) (_ : List Byte) : State := onNumbered s h none

/-- An ACK (R607). -/
def onAck (s : State) (h : CrtHdr) (_ : List Byte) : State :=
  let c := h.chan
  let x := getCh s c
  if !namesInitiator s x h then crtUnknown s
  else if seqAfter h.seq x.next then crtMalformed s
  else
    let s1 := crtAck s c h.seq
    let y := getCh s1 c
    if h.gap && !y.wentBack && !y.msgs.isEmpty then
      crtResend (modCh s1 c (fun y => { y with wentBack := true })) c (s.tck.boundaries + 1)
    else s1

/-- A REFUSE (R602, R603, R607). -/
def onRefuse (s : State) (h : CrtHdr) (b : List Byte) : State :=
  let c := h.chan
  let x := getCh s c
  let n := beAt b 0 4
  let st := leAt b 4 1
  if !namesInitiator s x h then crtUnknown s
  else if seqAfter h.seq x.next then crtMalformed s
  else
    let s1 := setErr (bump s (pgCrt + Reg.CRT_REFUSE_RX)) pgCrt 4
    let s2 := putCopy s1 (chPeer s c) (leAt b 5 1) (beAt b 6 2, beAt b 8 8)
    let hit := x.msgs.find? (fun m => m.seq == n)
    let s3 := modCh s2 c (fun x => { x with
      msgs := x.msgs.map (fun m => if m.seq = n then { m with refused := true } else m)
      entries := x.entries.map (fun e =>
        if (hit.map (fun m => m.of e)).getD false && e.refused.isNone then { e with refused := some st } else e) })
    crtFinish (crtAck s3 c h.seq) c

/-- A WINDOW (R590). -/
def onWindow (s : State) (h : CrtHdr) (b : List Byte) : State :=
  if !namesInitiator s (getCh s h.chan) h then crtUnknown s
  else putCopy s (chPeer s h.chan) (leAt b 0 1) (beAt b 2 2, if nbit (leAt b 1 1) 0 then beAt b 8 8 else 0)

/-- An RST (R613). -/
def onRst (s : State) (h : CrtHdr) (b : List Byte) : State :=
  let x := getCh s h.chan
  if h.rInc ≠ incarn s ∨ x.session ≠ some (beAt b 0 4) then crtUnknown s
  else crtReopen (setErr (bump s (pgCrt + Reg.CRT_RST_RX)) pgCrt 3) h.chan

def execHello (s : State) : Host.Outcome State Fault Refusal := .next (crtReceive 1 onHello s)
def execHelloAck (s : State) : Host.Outcome State Fault Refusal := .next (crtReceive 2 onHelloAck s)
def execChunk (s : State) : Host.Outcome State Fault Refusal := .next (crtReceive 3 onChunk s)
def execCommit (s : State) : Host.Outcome State Fault Refusal := .next (crtReceive 4 onCommit s)
def execAck (s : State) : Host.Outcome State Fault Refusal := .next (crtReceive 5 onAck s)
def execRefuse (s : State) : Host.Outcome State Fault Refusal := .next (crtReceive 6 onRefuse s)
def execWindow (s : State) : Host.Outcome State Fault Refusal := .next (crtReceive 7 onWindow s)
def execRst (s : State) : Host.Outcome State Fault Refusal := .next (crtReceive 8 onRst s)

/-! ### Applying (R589, R605) -/

/-- Why a chunk is refused against its window (R605).
DEDUCED (log entry 86, unsafe). -/
def chunkRefused (s : State) (c : Nat) (w : CrtWin) (k : CrtChunk) : Option Nat :=
  if !w.valid ∨ w.size < k.offset + k.data.length then some stNOT_FOUND
  else if !winPermits s w c then some stDENIED
  else if w.gen ≠ k.gen then some stSTALE_GENERATION
  else none

/-- The head of the apply queue has been applied or refused: rcv_next rises (R605, R606). -/
def crtApplied (s : State) (c : Nat) : State :=
  crtAckDue (modCh s c (fun x => { x with rcvNext := (x.rcvNext + 1) % 2 ^ 32, apply := x.apply.drop 1 })) c

/-- A CHUNK or COMMIT is applied: counted and signalled (R622). -/
def crtNoteApply (s : State) (ty : Nat) : State :=
  signal (bump s (pgSlice s.worker 4 + Reg.CRT_APPLIED)) (srcSlice s.worker 0x15 1) ty 1

/-- CHUNK_APPLY: the CHUNK at the head of the apply queue is refused, or its next DRAM block is written (R605, R618). -/
def execChunkApply (c : Fin 256) (s : State) : Host.Outcome State Fault Refusal :=
  let x := getCh s c.val
  match x.apply with
  | [] => .next s
  | q :: _ => match q.chunk with
    | none => .next s
    | some k =>
      if !gkOpen s then .next s
      else match chunkRefused s c.val q.win k with
      | some st =>
        let s1 := setErr (bump s (pgCrt + Reg.CRT_REFUSE_TX)) pgCrt 5
        .next (crtApplied (crtReply s1 c.val (.refuse q.seq st k.window) (s.tck.boundaries + 1)) c.val)
      | none =>
        let a := q.win.base + k.offset + q.pos
        let n := Nat.min (64 - a % 64) (k.data.length - q.pos)
        let free := match dramWhere s a with
          | none => true
          | some (ch, _) => memMay s ch 1 (if n = 64 then 1 else 2)
        if !free then .next s
        else
          let l := (List.range n).map (fun i => (some (k.data.getD (q.pos + i) 0), k.poison.contains ((q.pos + i) / 64)))
          let s1 := dramWrite 1 2 s a l
          if q.pos + n < k.data.length then
            .next (modCh s1 c.val (fun x => { x with apply := match x.apply with
              | [] => []
              | y :: t => { y with pos := y.pos + n } :: t }))
          else .next (crtNoteApply (crtApplied s1 c.val) 3)

/-- COMMIT_APPLY: the COMMIT at the head of the apply queue is applied (R605). -/
def execCommitApply (c : Fin 256) (s : State) : Host.Outcome State Fault Refusal :=
  match (getCh s c.val).apply with
  | [] => .next s
  | q :: _ =>
    if q.chunk.isSome || !gkOpen s then .next s
    else
      let a := pgCrt + Reg.CRT_COMMIT_MAP + 4 * (c.val / 32)
      let s1 := modCh s c.val (fun x => { x with tCommits := (x.tCommits + 1) % 2 ^ 32 })
      let ctl := rd s (pgCrt + Reg.PAGE_CTL)
      let s2 := if fbit (rd s1 a) (c.val % 32) then s1
        else
          let s2 := wr s1 a (putBit (rd s1 a) (c.val % 32) true)
          if fbit ctl 0 then fireVector s2 0 (fld ctl 26 16) else s2
      .next (crtNoteApply (crtApplied s2 c.val) 4)

/-! ### Retransmission (R608) -/

/-- RETRANSMIT_TIMER_EXPIRY: the interval has passed without an advance: everything unacknowledged, or the HELLO, is due
again; after `retries` expiries the channel is silent.
DESIGN CHOICE (log entry 3, safe). -/
def execRetransmitTimerExpiry (c : Fin 256) (s : State) : Host.Outcome State Fault Refusal :=
  let x := getCh s c.val
  match x.timer with
  | none => .next s
  | some t =>
    if !x.isOpen || !passed s t x.interval then .next s
    else
      let n := x.expiries + 1
      let quiet := decide (chRetries s c.val ≤ n)
      let s1 := if quiet && !x.silent then setErr s pgCrt 2 else s
      let s2 := modCh s1 c.val (fun x => { x with
        expiries := n, silent := x.silent || quiet, timer := some s.tck.boundaries
        interval := Nat.min (2 * x.interval) (16 * chRto s c.val), helloDue := x.opening })
      .next (if x.opening then modCh s2 c.val (fun x => { x with dueFrom := s.tck.boundaries })
        else crtResend s2 c.val s.tck.boundaries)

/-! ### Boundaries and registers -/

/-- Messages of a window that changed go to every channel it permits and whose session is established (R590). -/
def announceWin (s : State) (w : Nat) (x : CrtWin) : State :=
  s.crt.chans.foldl (fun s e =>
    if e.2.isOpen && e.2.tSession.isSome && winPermits s x e.1 then crtReply s e.1 (.window w) s.tck.boundaries else s) s

/-- A CRT command takes effect at a boundary (R584, R585, R588). -/
def crtCommand (s : State) : State :=
  match s.crt.pend with
  | none => s
  | some p =>
    let s0 := { s with crt := { s.crt with pend := none } }
    let s1 := match p with
      | .opens c => putCh s0 c { CrtChan.closed with
          isOpen := true, opening := true, helloDue := true, dueFrom := s.tck.boundaries }
      | .closes c =>
        let t := crtTidy s0 c
        let x := getCh t c
        let t1 := x.entries.foldl (fun s e => crtEnd s e stBUSY) t
        putCh (crtFree t1 (x.msgs.foldl (fun a m => a + m.cells) 0)) c CrtChan.closed
      | .set w x =>
        let y := { x with gen := ((getWin s0 w).gen + 1) % 65536 }
        announceWin (putWin s0 w y) w y
      | .drop w =>
        let y := { getWin s0 w with valid := false, gen := ((getWin s0 w).gen + 1) % 65536 }
        announceWin (putWin s0 w y) w y
    endCmd s1 pgCrt stOK

/-- Messages that wait: due to be sent, owed, or received and not taken. -/
def crtWaiting (s : State) : Nat :=
  s.pipe.toCarlis.length + s.crt.chans.foldl (fun a e => a + (e.2.msgs.filter (·.due)).length + e.2.replies.length
    + e.2.helloDue.toNat + e.2.build.isSome.toNat + (match e.2.ackFrom with
      | some _ => 1
      | none => 0)) 0

/-- The Carlis engine at a boundary (R584, R585, R588, R622). -/
def crtBoundary (s : State) : State :=
  let s1 := if s.crt.waited then bump s (pgSlice s.worker 4 + Reg.CRT_CREDIT_WAIT) else s
  let s2 := { s1 with crt := { s1.crt with waited := false, waiting := if s.crt.waited then Nat.min 511 (crtWaiting s) else 0 } }
  crtCommand s2

/-- The new active slice takes Carlis over (R619): messages in the hold buffer and beyond rcv_next are lost, and what was
numbered and not recorded as sent is sent.
DEDUCED (log entry 87, unsafe). -/
def crtSwitch (s : State) : State :=
  let s1 := if s.crt.rx.isSome then crtPop s else s
  s1.crt.chans.foldl (fun s e => modCh s e.1 (fun x => { x with
    rcvAccept := x.rcvNext, apply := [],
    msgs := match x.build with
      | some b => x.msgs.map (fun m => { m with due := m.due || ((b.ty == 3 || b.ty == 4) && m.seq == b.seq) })
      | none => x.msgs
    helloDue := x.helloDue || (x.build.map (fun b => b.ty == 1)).getD false
    build := none })) s1

/-- CRT global page (R620). -/
def viewCrt (s : State) (off : Nat) : Option Word :=
  let c := fld (rd s (pgCrt + Reg.CRT_CH_SEL)) 7 0
  let x := getCh s c
  let w := fld (rd s (pgCrt + Reg.CRT_WIN_SEL)) 5 0
  let silentMap (k : Nat) : Nat := (List.range 32).foldl (fun a b => a + 2 ^ b * (getCh s (32 * k + b)).silent.toNat) 0
  if off = Reg.PAGE_STAT then
    some (flagAt (s.crt.chans.any (fun e => e.2.entries.any (·.commit))) 0
      ||| flagAt (s.crt.chans.any (fun e => e.2.silent)) 1 ||| flagAt (s.crt.chans.any (fun e => e.2.opening)) 2)
  else if off = Reg.CRT_CELLS then some (w32 (crtCells s))
  else if Reg.CRT_CH_CFG0 ≤ off ∧ off ≤ Reg.CRT_CH_CFG2 then some (rd s (crtCfg c ((off - Reg.CRT_CH_CFG0) / 4)))
  else if off = Reg.CRT_CH_STATE then
    let st := if !x.isOpen then 0 else if x.silent then 3 else if x.opening then 1 else 2
    some (w32 (st + 4 * x.tSession.isSome.toNat + 8 * x.msgs.length + 512 * Nat.min 63 x.apply.length))
  else if off = Reg.CRT_CH_SND_UNA then some (w32 x.una)
  else if off = Reg.CRT_CH_SND_NEXT then some (w32 x.next)
  else if off = Reg.CRT_CH_RCV_NEXT then some (w32 x.rcvNext)
  else if off = Reg.CRT_CH_COMMITS then some (w32 x.tCommits)
  else if off = Reg.CRT_CH_SESSION then some (w32 (x.tSession.getD 0))
  else if Reg.CRT_WIN_CTL ≤ off ∧ off ≤ Reg.CRT_WIN_SIZE_HI then some (rd s (crtStage w ((off - Reg.CRT_WIN_CTL) / 4)))
  else if off = Reg.CRT_WIN_STAT then some (w32 ((getWin s w).valid.toNat + 65536 * (getWin s w).gen))
  else if Reg.CRT_SILENT_MAP ≤ off ∧ off < Reg.CRT_SILENT_MAP + 32 then some (w32 (silentMap ((off - Reg.CRT_SILENT_MAP) / 4)))
  else none

/-- CRT page of a slice (R622). -/
def viewSlCrt (s : State) (sl : SliceId) (off : Nat) : Option Word :=
  if off = Reg.PAGE_STAT then some (if s.worker = sl then w32 s.crt.waiting else 0) else none

end Sys2Proof.Machine
end

