-- ==== Sys2Proof/Machine/Admission.lean ====
section
/-! DEFINITION. Admission from host send queues: the upper half of the scheduler (R516 to R522), with pacing (R334) and the
cells of frames and chunks (R333, R600). -/
namespace Sys2Proof.Machine

/-- Bytes of the frame or chunk an item asks to read: total_len of a TX entry, D of a chunk. -/
def admitLen (i : WorkItem) : Nat := if i.etype = 5 then segTotal i.segs else leAt i.bytes 4 2

/-- Cells it takes (R333, R600). -/
def admitCells (i : WorkItem) : Nat := if i.etype = 5 then chunkCells (admitLen i) else cdiv (admitLen i) 256

/-- Bytes charged for it (R516): total_len, or the length of the chunk's frame without FCS, plus 24. -/
def admitCharge (s : State) (i : WorkItem) : Nat :=
  if i.etype = 5 then outerLen s (chPeer s (leAt i.bytes 4 1)) + 96 + admitLen i + 24 else admitLen i + 24

/-- Could its data reads start now, pacing apart (R216, R264, R526, R600)? -/
def admitMay (s : State) (i : WorkItem) : Bool :=
  !isHalted s i.fn && phaseServes s i.fn && decide (admitCells i ≤ s.pipe.freeCells)
    && (i.dramSource || (mayRequest s i.fn && !isPaced s i.fn))
    && (i.etype != 5 || decide (crtCells s + admitCells i ≤ fld (rdEff s (pgCrt + Reg.CRT_CELL_LIMIT)) 16 0))

/-- The candidate of each send queue: its oldest item that waits for admission (R522).
DEDUCED (log entry 55, unsafe). -/
def candidates (s : State) : List WorkItem :=
  (s.queues.items.filter (fun i => i.stage == .admission)).foldl (fun l i => if l.any (·.wq == i.wq) then l else l ++ [i]) []

/-- The data reads of an item may start: its cells are reserved, and the reads are to be issued. -/
def startReads (s : State) (i : WorkItem) : State :=
  let s1 := modItem s i.wq i.idx (fun x => { x with
    stage := .data, admitted := true, cells := admitCells i, buf := []
    needs := if i.dramSource then [] else segNeeds i.segs 0 })
  { s1 with pipe := { s1.pipe with freeCells := s1.pipe.freeCells - admitCells i } }

/-- Pacing lets an item start, or its function becomes paced (R334). -/
def pacedStart (s : State) (i : WorkItem) (charge : State → State) : State :=
  if i.dramSource then startReads (charge s) i
  else
    let r := paceTry s i.fn (admitCells i)
    if r.1 then startReads (charge r.2) i else r.2

/-- An admission is charged at its queue node and, for a tenant, its tenant node (R516, R517, R519). -/
def chargeAdmit (s : State) (i : WorkItem) : State :=
  let n := admitCharge s i
  let s1 := chargeTokens (serveChild s (queueParent i.fn) i.wq n) i.wq n
  let s2 := if i.fn < 2 then s1
    else chargeTokens (serveChild s1 hostRoot (tenantNode (i.fn - 2)) n) (tenantNode (i.fn - 2)) n
  s2

/-- An admission is charged and counted in the slices at work. -/
def countAdmit (i : WorkItem) (s : State) : State :=
  let s1 := chargeAdmit s i
  (workingSlices s1).foldl (fun s sl =>
    signal (bump s (pgSlice sl 2 + Reg.SCH_ADMIT_CNT)) (srcSlice sl 0x13 1) 0 1) s1

/-- The child of the host root that an item stands under (R522). -/
def rootChild (i : WorkItem) : Nat := if i.fn < 2 then i.wq else tenantNode (i.fn - 2)

/-- ADMISSION_SELECT: the upper half of the scheduler chooses the TX frame or chunk whose data reads start (R522). An entry
executed again keeps its admission and only waits for pacing (R295).
DEDUCED (log entry 55, unsafe). -/
def execAdmissionSelect (s : State) : Host.Outcome State Fault Refusal :=
  if !gkOpen s then .next s
  else
    let cs := (candidates s).filter (admitMay s)
    match cs.find? (·.admitted) with
    | some i => .next (pacedStart s i (fun s => s))
    | none =>
      let s1 := cs.foldl (fun s i =>
        let s2 := touchNode s (queueParent i.fn) i.wq
        if i.fn < 2 then s2 else touchNode s2 hostRoot (tenantNode (i.fn - 2))) s
      let ready := cs.filter (fun i => inCredit s1 i.wq && (decide (i.fn < 2) || inCredit s1 (tenantNode (i.fn - 2))))
      let tops := (ready.map rootChild).foldl (fun l n => if l.contains n then l else insKey n l) []
      match earliest s1 tops none with
      | none => .next s1
      | some top =>
        let under := ready.filter (fun i => rootChild i == top)
        match earliest s1 ((under.map (·.wq)).foldr insKey []) none with
        | none => .next s1
        | some q => match under.find? (fun i => i.wq == q) with
          | none => .next s1
          | some i =>
            .next (pacedStart s1 i (countAdmit i))

end Sys2Proof.Machine
end

