-- ==== Sys2Proof/Machine/Tenancy.lean ====
section
/-! DEFINITION. Mailboxes and dirty-page logs (chapter 09). -/
namespace Sys2Proof.Machine

/-! ### Mailboxes (R348 to R360) -/

def getMbx (s : State) (k : Nat) : MbxDir := tget (fun _ => MbxDir.empty) s.mbx.dirs k
def putMbx (s : State) (k : Nat) (x : MbxDir) : State :=
  { s with mbx := { s.mbx with dirs := tset (fun _ => MbxDir.empty) s.mbx.dirs k x } }

/-- The direction to tenant t, and the one from it. -/
abbrev toTenant (t : Nat) : Nat := 2 * t
abbrev fromTenant (t : Nat) : Nat := 2 * t + 1

/-- Epochs (R348). -/
def tenantEpoch (s : State) (t : Nat) : Nat := tget (fun _ => 0) s.mbx.epochs t

/-- Where the outbound buffer of a direction lies: the tenant's mailbox page, or the manager's buffer to tenant t. -/
def mbxBuffer (k : Nat) : Nat := if k % 2 = 0 then 0x320000000 + 64 * (k / 2) else vfBase (k / 2) + 0x3000

/-- The tenant whose mailbox a master acts on: its own, or MBX_SEL's. -/
def mbxTenant (s : State) : Master → Nat
  | .vf t => t.val
  | _ => fld (rd s (pgMbx + Reg.MBX_SEL)) 9 0

/-- The direction a master sends in. -/
def mbxDirOf (s : State) (via : Master) : Nat :=
  match via with
  | .vf t => fromTenant t.val
  | _ => toTenant (mbxTenant s via)

/-- May a master write to a mailbox page now (R188, R189, R207, R350)? -/
def mbxOpen (s : State) (via : Master) : Bool := decide (via ≠ .pf1) && served s via true && s.power.phase != .recovery

/-- A write that is served in recovery is ignored and shows in SYS (R189). -/
def recoveryIgnored (s : State) (via : Master) : State :=
  if served s via true ∧ s.power.phase = .recovery then setErr s pgSys 3 else s

/-- A word written to an outbound buffer: ignored, as a collision, while full is 1 (R352, R777). -/
def mbxBufferWrite (s : State) (k i : Nat) (w : Word) : State :=
  let x := getMbx s k
  if x.full then
    setErr (putMbx s k { x with collision := true }) pgMbx 1
  else wr s (mbxBuffer k + 4 * i) w

/-- A send in direction k with seq n (R351). -/
def mbxSend (s : State) (k n : Nat) : State :=
  let x := getMbx s k
  let t := k / 2
  let rcv := if k % 2 = 0 then 2 + t else 0
  let s1 := setErr s pgMbx 3
  if k % 2 = 0 ∧ !fnExists s rcv then putMbx s1 k { x with status := stNOT_FOUND }
  else if inFlr s rcv then putMbx s1 k { x with status := stWRONG_STATE }
  else if x.full then
    setErr (bump (putMbx s k { x with status := stBUSY, collision := true }) (pgMbx + Reg.MBX_COLL_CNT)) pgMbx 1
  else putMbx s k { x with
    status := stOK, full := true, seq := n, posted := some s.tck.boundaries,
    epoch := if k % 2 = 0 then s.mbx.mgrEpoch else tenantEpoch s t,
    msg := (List.range 16).map (fun i => rd s (mbxBuffer k + 4 * i)) }

/-- MAILBOX_SEND: a write to MB_TX_SEND or MBX_TX_SEND (R351). -/
def execMailboxSend (via : Master) (w : Word) (s : State) : Host.Outcome State Fault Refusal :=
  .next (if mbxOpen s via then mbxSend s (mbxDirOf s via) (fld w 15 0)
    else if via = .pf1 then s else recoveryIgnored s via)

/-- A message posted in an earlier tick reaches its receiver (R352, R354). -/
def mbxDeliver (s : State) (k : Nat) : State :=
  let x := getMbx s k
  let dup := x.kept == some (x.seq, x.epoch)
  let s1 := putMbx s k { x with
    posted := none, new := true, dup := dup, rxSeq := x.seq, kept := some (x.seq, x.epoch) }
  let s2 := if dup then bump s1 (pgMbx + Reg.MBX_DUP_CNT) else s1
  if k % 2 = 1 then s2
  else
    let f := 2 + k / 2
    let c := rd s (vfBase (k / 2) + 0x3000 + Reg.MB_CTL)
    let s3 := if fbit c 0 then fireVector s2 f (fld c 3 1) else s2
    if fbit c 4 && inD3 s f then pmeEvent s3 f else s3

/-- MAILBOX_DELIVER: at the boundary after their sends, messages are delivered and their receivers notified (R352, R355).
DEDUCED (log entry 56, unsafe). -/
def execMailboxDeliver (s : State) : Host.Outcome State Fault Refusal :=
  let due := (s.mbx.dirs.filter (fun e => match e.2.posted with
    | some b => decide (b < s.tck.boundaries)
    | none => false)).map (·.1)
  let s1 := due.foldl mbxDeliver s
  if due.any (fun k => k % 2 == 1) then
    let c := rd s (pgMbx + Reg.PAGE_CTL)
    let s2 := if fbit c 0 then fireVector s1 0 (fld c 26 16) else s1
    .next (if fbit c 1 && inD3 s 0 then pmeEvent s2 0 else s2)
  else .next s1

/-- A write of 1 to RX_ACK consumes the inbound message of direction k (R353). -/
def mbxAck (s : State) (k : Nat) (w : Word) : State :=
  let x := getMbx s k
  if fbit w 0 && x.new then putMbx s k { x with new := false, dup := false, orphan := false, clearing := true } else s

/-- The direction a master receives in. -/
def mbxRxDirOf (s : State) (via : Master) : Nat :=
  match via with
  | .vf t => toTenant t.val
  | _ => fromTenant (mbxTenant s via)

/-- MAILBOX_ACK (R353). -/
def execMailboxAck (via : Master) (w : Word) (s : State) : Host.Outcome State Fault Refusal :=
  .next (if mbxOpen s via then mbxAck s (mbxRxDirOf s via) w
    else if via = .pf1 then s else recoveryIgnored s via)

/-- The receiving end of direction k was reset (R357). -/
def mbxLose (s : State) (k : Nat) : State :=
  let x := getMbx s k
  let y := { x with new := false, dup := false, orphan := false, rxSeq := 0, epoch := 0, msg := [], kept := none, posted := none }
  if x.posted.isSome ∨ x.new then
    let s1 := bump (putMbx s k { y with full := false, clearing := false, lost := true, lostSeq := x.seq }) (pgMbx + Reg.MBX_LOST_CNT)
    if k % 2 = 0 then setErr s1 pgMbx 2 else s1
  else putMbx s k y

/-- The sending end of direction k was reset (R358): an unacknowledged message stays, flagged orphan; TX_STAT clears.
DEDUCED (log entry 56, unsafe). -/
def mbxOrphan (s : State) (k : Nat) : State :=
  let x := getMbx s k
  let y := { x with collision := false, lost := false, status := 0, seq := if x.posted.isSome then x.seq else 0, lostSeq := 0,
                    full := x.full && (x.posted.isSome || x.new) }
  if x.posted.isSome ∨ x.new then bump (putMbx s k { y with orphan := true }) (pgMbx + Reg.MBX_ORPHAN_CNT) else putMbx s k y

/-- The epoch of a tenant counts one (R348).
DEDUCED (log entry 59, unsafe). -/
def countEpoch (s : State) (t : Nat) : State :=
  { s with mbx := { s.mbx with epochs := tset (fun _ => 0) s.mbx.epochs t ((tenantEpoch s t + 1) % 65536) } }

/-- Every mailbox direction is empty. -/
def clearMbx (s : State) : State := { s with mbx := { s.mbx with dirs := [] } }

/-- Mailboxes at a boundary: acknowledged senders' full clears (R353), and resets of either end act (R348, R357 to
R359). -/
def mbxBoundary (s : State) : State :=
  let s1 := s.mbx.dirs.foldl (fun s e => if e.2.clearing then putMbx s e.1 { getMbx s e.1 with full := false, clearing := false }
    else s) s
  let m := s1.mbx
  let s2 := m.resets.foldl countEpoch s1
  let s3 := if m.pf0Reset || m.hostReset then { s2 with mbx := { s2.mbx with mgrEpoch := (s2.mbx.mgrEpoch + 1) % 65536 } } else s2
  let s4 := if m.hostReset then clearMbx s3
    else if m.pf0Reset then
      clearMbx (m.dirs.foldl (fun s e => mbxLose s e.1) s3)
    else m.resets.foldl (fun s t => mbxOrphan (mbxLose s (toTenant t)) (fromTenant t)) s3
  { s4 with mbx := { s4.mbx with resets := [], pf0Reset := false, hostReset := false } }

/-- TX_STAT of a direction, as its sender reads it (R349). -/
def mbxTxStat (s : State) (k : Nat) : Word :=
  let x := getMbx s k
  w32 (x.full.toNat + 2 * x.collision.toNat + 4 * x.lost.toNat + 256 * x.status
    + 65536 * (if x.lost then x.lostSeq else x.seq))

/-- Writing 1 to collision or lost clears it. -/
def mbxTxClear (s : State) (k : Nat) (w : Word) : State :=
  let x := getMbx s k
  putMbx s k { x with collision := x.collision && !fbit w 1, lost := x.lost && !fbit w 2 }

/-- RX_STAT, RX_INFO and the data of a direction, as its receiver reads them. -/
def mbxRxStat (s : State) (k : Nat) : Word :=
  let x := getMbx s k
  w32 (x.new.toNat + 2 * x.dup.toNat + 4 * x.orphan.toNat + 65536 * x.rxSeq)
def mbxRxInfo (s : State) (k : Nat) : Word :=
  let x := getMbx s k
  w32 ((if x.new then x.epoch else 0) + 65536 * (if k % 2 = 0 then s.mbx.mgrEpoch else tenantEpoch s (k / 2)))
def mbxRxData (s : State) (k i : Nat) : Word :=
  let x := getMbx s k
  if x.new then x.msg.getD i 0 else 0

/-- A map of 1,024 bits, word j. -/
def mbxMap (p : Nat → Bool) (j : Nat) : Word := w32 ((List.range 32).foldl (fun a b => a + 2 ^ b * (p (32 * j + b)).toNat) 0)

/-- MBX global page (R350). -/
def viewMbx (s : State) (off : Nat) : Option Word :=
  let t := fld (rd s (pgMbx + Reg.MBX_SEL)) 9 0
  if off = Reg.PAGE_STAT then some (flagAt (s.mbx.dirs.any (fun e => e.1 % 2 == 1 && e.2.new)) 0)
  else if off = Reg.MBX_TX_STAT then some (mbxTxStat s (toTenant t))
  else if off = Reg.MBX_RX_STAT then some (mbxRxStat s (fromTenant t))
  else if off = Reg.MBX_RX_INFO then some (mbxRxInfo s (fromTenant t))
  else if off = Reg.MBX_EPOCH then some (w32 (s.mbx.mgrEpoch + 65536 * tenantEpoch s t))
  else if Reg.MBX_TX_DATA ≤ off ∧ off < Reg.MBX_TX_DATA + 64 then
    some (rd s (mbxBuffer (toTenant t) + (off - Reg.MBX_TX_DATA)))
  else if Reg.MBX_RX_DATA ≤ off ∧ off < Reg.MBX_RX_DATA + 64 then
    some (mbxRxData s (fromTenant t) ((off - Reg.MBX_RX_DATA) / 4))
  else if Reg.MBX_PEND_MAP ≤ off ∧ off < Reg.MBX_FULL_MAP then
    some (mbxMap (fun t => (getMbx s (fromTenant t)).new) ((off - Reg.MBX_PEND_MAP) / 4))
  else if Reg.MBX_FULL_MAP ≤ off ∧ off < Reg.MBX_LOST_MAP then
    some (mbxMap (fun t => (getMbx s (toTenant t)).full) ((off - Reg.MBX_FULL_MAP) / 4))
  else if Reg.MBX_LOST_MAP ≤ off ∧ off < Reg.MBX_LOST_MAP + 128 then
    some (mbxMap (fun t => (getMbx s (toTenant t)).lost) ((off - Reg.MBX_LOST_MAP) / 4))
  else none

/-- Mailbox page of tenant t (R349). -/
def viewVfMbx (s : State) (t off : Nat) : Option Word :=
  if off = Reg.MB_TX_STAT then some (mbxTxStat s (fromTenant t))
  else if Reg.MB_RX_DATA ≤ off ∧ off < Reg.MB_RX_DATA + 64 then some (mbxRxData s (toTenant t) ((off - Reg.MB_RX_DATA) / 4))
  else if off = Reg.MB_RX_STAT then some (mbxRxStat s (toTenant t))
  else if off = Reg.MB_RX_INFO then some (mbxRxInfo s (toTenant t))
  else none

/-- VF status page of tenant t (R347). -/
def viewVfStat (s : State) (t off : Nat) : Option Word :=
  if off = Reg.VF_ID then some (w32 (t + 65536 * (2 + t)))
  else if off = Reg.VF_STAT then
    some (flagAt (isHalted s (2 + t)) 0 ||| flagAt (fbit (rd s (vfBase t + Reg.VF_ERR)) 2) 1)
  else if off = Reg.VF_EPOCH then some (w32 (tenantEpoch s t + 65536 * s.mbx.mgrEpoch))
  else none

/-! ### Dirty-page logs (R366 to R375) -/

/-- Room left in a log's ring. -/
def logRoom (x : LogSlot) : Nat := 2 ^ x.log2 - ringUsedOf x

/-- A LOG_STOP that waits for slot k ends once every staged entry has been written or found the ring full (R373). -/
def logStopTry (s : State) : State :=
  match runningOn s pgTen with
  | none => s
  | some c =>
    let k := fld c.a0 3 0
    let x := getLogSlot s k
    if c.code = 2 ∧ !x.active ∧ (x.staged.isEmpty ∨ logRoom x = 0) then
      finishCmd (putLogSlot s k LogSlot.free) pgTen stOK (w32 x.pi)
        (flagAt x.overflow 0 ||| flagAt (!x.staged.isEmpty) 1) 0
    else s

/-- The entries of a log from index i on, as ring bytes (R369). -/
def logRingBytes (log2 : Nat) : Nat → List Nat → List (Byte × Bool)
  | _, [] => []
  | i, p :: t => (leBytes 8 (p % 2 ^ 52 + 2 ^ 63 * phaseOfIndex i (2 ^ log2))).map (fun b => (b, false))
      ++ logRingBytes log2 ((i + 1) % 65536) t

/-- LOG_RING_WRITE: staged entries of log slot k are written to its ring in one request, as room, beats and R317 allow
(R370).
DEDUCED (log entry 57, unsafe). -/
def execLogRingWrite (k : Fin 16) (s : State) : Host.Outcome State Fault Refusal :=
  let x := getLogSlot s k.val
  let beats := beatsLeft s 1
  let at_ := x.pi % 2 ^ x.log2
  let n0 := Nat.min (Nat.min x.staged.length (logRoom x)) (2 ^ x.log2 - at_)
  if n0 = 0 || beats = 0 || !mayRequest s 0 then .next s
  else
    let a := x.base + 8 * at_
    let l := logRingBytes x.log2 x.pi (x.staged.take n0)
    let n := writeLen (mps s 0) a l beats / 8
    let s1 := chargeBeats s 1 (blocksOf a (8 * n))
    let s2 := putLogSlot s1 k.val { x with pi := (x.pi + n) % 65536, staged := x.staged.drop n }
    .next (logStopTry (bumpBy (hostWrite s2 0 a (l.take (8 * n))) (pgTen + Reg.TEN_LOG_CNT + 16 * k.val) n))

/-- A consumer index written to log slot k (R372). -/
def logCiWrite (s : State) (k : Nat) (w : Word) : State :=
  let x := getLogSlot s k
  let d := dist16 x.ci (fld w 15 0)
  if d = 0 then s
  else if d ≤ ringUsedOf x then putLogSlot s k { x with ci := fld w 15 0 }
  else setErr s pgTen 2

/-- TEN_LOG_CI_WRITE (R372). -/
def execTenLogCiWrite (via : Master) (k : Fin 16) (w : Word) (s : State) : Host.Outcome State Fault Refusal :=
  .next (if !Master.isGlobal via then s
    else if served s via true && s.power.phase != .recovery then logCiWrite s k.val w
    else recoveryIgnored s via)

/-- LOG_START waits for the boundary (R373).
DEDUCED (log entry 57, unsafe). -/
def specLogStart : CmdSpec where
  role := Master.isGlobal
  phases := notRecovery
  body c s :=
    let t := fld c.a0 9 0
    let n := fld c.a0 19 16
    if n < 4 ∨ fld c.a1 11 0 ≠ 0 then endCmd s pgTen stBAD_ARG
    else if !fnExists s (2 + t) then endCmd s pgTen stNOT_FOUND
    else if (getLogSlot s (fld c.a0 27 24)).inUse ∨ s.logs.any (fun e => e.2.inUse && e.2.tenant == t) then
      endCmd s pgTen stWRONG_STATE
    else s

/-- LOG_STOP waits for the boundary (R373). -/
def specLogStop : CmdSpec where
  role := Master.isGlobal
  phases := notRecovery
  body c s := if (getLogSlot s (fld c.a0 3 0)).inUse then s else endCmd s pgTen stWRONG_STATE

def execLogStart (via : Master) (seq : Byte) (a0 a1 a2 : Word) (s : State) : Host.Outcome State Fault Refusal :=
  .next (commandRow specLogStart pgTen 1 via seq a0 a1 a2 s)

def execLogStop (via : Master) (seq : Byte) (a0 : Word) (s : State) : Host.Outcome State Fault Refusal :=
  .next (commandRow specLogStop pgTen 2 via seq a0 0 0 s)

/-- The logs at a boundary: a start or stop takes effect, and logs of tenants that ceased to exist stop (R373, R374). -/
def logBoundary (s : State) : State :=
  let s1 := match runningOn s pgTen with
    | none => s
    | some c =>
      if c.code = 1 then
        let x : LogSlot := { LogSlot.free with
          inUse := true, active := true, tenant := fld c.a0 9 0, base := c.a1.toNat + 2 ^ 32 * c.a2.toNat, log2 := fld c.a0 19 16 }
        endCmd (putLogSlot s (fld c.a0 27 24) x) pgTen stOK
      else if c.code = 2 then
        let k := fld c.a0 3 0
        logStopTry (putLogSlot s k { getLogSlot s k with active := false })
      else s
  s1.logs.foldl (fun s e =>
    if e.2.active && !fnExists s (2 + e.2.tenant) then putLogSlot s e.1 { e.2 with active := false, gone := true } else s) s1

/-- TEN page (R375). -/
def viewTen (s : State) (off : Nat) : Option Word :=
  let t := fld (rd s (pgTen + Reg.TEN_SEL)) 9 0
  if off = Reg.PAGE_STAT then
    some (flagAt (s.logs.any (fun e => e.2.active)) 0 ||| flagAt (s.logs.any (fun e => e.2.overflow)) 1)
  else if off = Reg.TEN_VIEW then
    let f := 2 + t
    let log := s.logs.find? (fun e => e.2.inUse && e.2.tenant == t)
    some (w32 ((fnExists s f).toNat + 2 * (inD3 s f).toNat + 4 * (bme s f).toNat + 8 * (inFlr s f).toNat
      + 16 * (isHalted s f).toNat + 32 * ((validRecs s).filter (fun n => recOwner s n == f)).length
      + (match log with
        | some e => 4096 * e.1 + 65536
        | none => 0)))
  else if off = Reg.TEN_EPOCH then some (w32 (tenantEpoch s t + 65536 * s.mbx.mgrEpoch))
  else if 0x200 ≤ off ∧ off < 0x300 then
    let x := getLogSlot s ((off - 0x200) / 16)
    if off % 16 = 0 then some (w32 x.pi)
    else if off % 16 = 4 then some (w32 x.ci)
    else if off % 16 = 8 then
      some (w32 (x.tenant + 1024 * x.inUse.toNat + 2048 * x.active.toNat + 4096 * x.overflow.toNat + 8192 * x.gone.toNat
        + 16384 * x.staged.length + 2 ^ 24 * x.log2))
    else none
  else none

end Sys2Proof.Machine
end

