-- ==== Sys2Proof/Machine/Custody.lean ====
section
/-! DEFINITION. The custody channels and the requests of the custody store (R361 to R365, R683 to R690). -/
namespace Sys2Proof.Machine

/-! ### Channels (R361 to R365) -/

def getCch (s : State) (c : Nat) : CchChan := tget (fun _ => CchChan.closed) s.cus.chans c
def putCch (s : State) (c : Nat) (x : CchChan) : State :=
  { s with cus := { s.cus with chans := tset (fun _ => CchChan.closed) s.cus.chans c x } }

/-- OPEN (R362). -/
def specOpen (c : Nat) : CmdSpec where
  role := custodian
  phases := notRecovery
  body _ s :=
    if (getCch s c).isOpen then endCmd s (pgCch c) stWRONG_STATE
    else endCmd (putCch s c { getCch s c with isOpen := true }) (pgCch c) stOK

/-- CLOSE (R362). -/
def specClose (c : Nat) : CmdSpec where
  role := custodian
  phases := anyPhase
  body _ s :=
    if (getCch s c).isOpen then
      endCmd (putCch s c { getCch s c with isOpen := false, lastSeq := none }) (pgCch c) stOK
    else endCmd s (pgCch c) stWRONG_STATE

/-- A custody request has been performed (R363): its response and status, and the seq that is now the last. -/
def cusDone (s : State) (q : CusReq) (status : Nat) (rsp : List Byte) : State :=
  let pg := pgCch q.chan
  let s0 := { s with cus := { s.cus with queue := s.cus.queue.filter (fun x => x.chan != q.chan) } }
  let s1 := wrMany s0 (pg + Reg.CCH_RSP) ((List.range 16).map (fun i => w32 (leAt rsp (4 * i) 4)))
  let s2 := putCch s1 q.chan { getCch s1 q.chan with lastSeq := some q.seq, status := status, out0 := 0, out1 := 0 }
  finishCmd s2 pg status 0 0 0

/-- Op of a custody request (R687). -/
def CusReq.op (q : CusReq) : Nat := leAt q.bytes 0 1
def CusReq.slot (q : CusReq) : Nat := leAt q.bytes 1 1 % 16
def CusReq.kek (q : CusReq) : Nat := leAt q.bytes 2 1 % 16
def CusReq.replace (q : CusReq) : Bool := nbit (leAt q.bytes 3 1) 7

/-- Is a reserved field of a request not zero, or its op reserved (R687, R688)?.
DEDUCED (log entry 58, unsafe). -/
def CusReq.bad (q : CusReq) : Bool :=
  let b := q.bytes
  let load := q.op == 1 || q.op == 2
  let slotBad := decide (16 ≤ leAt b 1 1)
  let attrBad := leAt b 3 1 / 2 % 64 != 0
  if q.op = 1 then slotBad || attrBad || !zeroBytes b 2 3 || !zeroBytes b 8 16 || !zeroBytes b 48 64
  else if q.op = 2 then slotBad || attrBad || decide (16 ≤ leAt b 2 1) || !zeroBytes b 8 16 || !zeroBytes b 56 64
  else if q.op = 3 ∨ q.op = 4 then slotBad || !zeroBytes b 2 64
  else if q.op = 5 then !zeroBytes b 1 64
  else !load

/-- SUBMIT (R363, R364): a repeated seq repeats the last result; any other request waits for the store. -/
def specSubmit (c : Nat) : CmdSpec where
  role := custodian
  phases := notRecovery
  body r s :=
    let x := getCch s c
    let n := fld r.a0 15 0
    if !x.isOpen then endCmd s (pgCch c) stWRONG_STATE
    else if x.lastSeq = some n then finishCmd s (pgCch c) x.status x.out0 x.out1 1
    else
      let q : CusReq := ⟨c, n, (List.range 16).flatMap (fun i => wordBytes (rd s (pgCch c + Reg.CCH_REQ + 4 * i)))⟩
      if q.bad then cusDone s q stBAD_ARG [] else { s with cus := { s.cus with queue := s.cus.queue ++ [q] } }

def execOpen_ (c : Fin 16) (via : Master) (seq : Byte) (s : State) : Host.Outcome State Fault Refusal :=
  .next (commandRow (specOpen c.val) (pgCch c.val) 1 via seq 0 0 0 s)

def execClose (c : Fin 16) (via : Master) (seq : Byte) (s : State) : Host.Outcome State Fault Refusal :=
  .next (commandRow (specClose c.val) (pgCch c.val) 2 via seq 0 0 0 s)

/-- SUBMIT with the request buffer written before it (R361, R363). -/
def execSubmit (c : Fin 16) (req : Vector Word 16) (via : Master) (seq : Byte) (a0 : Word) (s : State) :
    Host.Outcome State Fault Refusal :=
  if via = .pf1 ∧ served s via true then
    .next (commandRow (specSubmit c.val) (pgCch c.val) 3 via seq a0 0 0 (wrMany s (pgCch c.val + Reg.CCH_REQ) req.toList))
  else .next s

/-- A reset closes every channel (R365, R211): pages at their reset values, the PF1 epoch to count on at the boundary. A
request not yet performed is not performed. -/
def closeCustody (s : State) : State :=
  let pg (a : Nat) : Bool := decide (pgCch 0 ≤ a ∧ a < pgCch 16)
  { s with
    regs := tdrop pg s.regs
    eff := tdrop pg s.eff
    running := s.running.filter (fun c => !pg c.page)
    cus := { s.cus with chans := [], queue := [], epochDue := s.cus.epochDue + 1 } }

/-- The PF1 epoch counts the resets that began (R361).
DEDUCED (log entry 59, unsafe). -/
def cusBoundary (s : State) : State :=
  { s with cus := { s.cus with epoch := (s.cus.epoch + s.cus.epochDue) % 65536, epochDue := 0 } }

/-! ### The store (R683 to R690, R698) -/

/-- The request the store performs next, if it has the op asked for. -/
def nextReq (s : State) (op : Nat) : Option CusReq :=
  match s.cus.queue with
  | [] => none
  | q :: _ => if q.op = op then some q else none

/-- Keys derived from a slot are to be invalidated (R690). -/
def slotChanged (s : State) (k : Nat) : State := { s with cip := { s.cip with slotDrops := s.cip.slotDrops ++ [k] } }

/-- A key is loaded into the half of a slot that its selector does not name, and the selector changes (R684). -/
def loadSlot (s : State) (k : Nat) (key : List Byte) (attr label : Nat) : State :=
  let x := getSlot s k
  let h0 : KeyHalf := ⟨BitVec.ofNat 256 (beNat key), BitVec.ofNat 8 attr, w32 label, 0⟩
  let h := { h0 with check := keyCheck h0 }
  let y : KeySlot := match x.sel with
    | some false => { x with half1 := some h, sel := some true }
    | _ => { x with half0 := some h, sel := some false }
  slotChanged (putSlot s k { y with loads := (x.loads + 1) % 2 ^ 32 }) k

/-- May a load start: the store is not in the erased lock, and the slot is empty or may be replaced (R688, R699).
DEDUCED (log entry 58, unsafe). -/
def loadMay (s : State) (q : CusReq) : Bool :=
  !s.vkeep.erasedLock && ((getSlot s q.slot).sel.isNone || q.replace)

/-- LOAD_PLAIN (R688). -/
def execLoadPlain (s : State) : Host.Outcome State Fault Refusal :=
  match nextReq s 1 with
  | none => .next s
  | some q =>
    if loadMay s q then
      .next (cusDone (loadSlot s q.slot (sliceB q.bytes 16 32) (leAt q.bytes 3 1 % 2) (leAt q.bytes 4 4)) q stOK [])
    else .next (cusDone s q stWRONG_STATE [])

/-- LOAD_WRAPPED (R688): unwrapped with the key in slot kek by RFC 3394. -/
def execLoadWrapped (s : State) : Host.Outcome State Fault Refusal :=
  match nextReq s 2 with
  | none => .next s
  | some q =>
    if !loadMay s q then .next (cusDone s q stWRONG_STATE [])
    else match (getSlot s q.kek).half with
    | none => .next (cusDone s q stNOT_FOUND [])
    | some h =>
      if q.kek = q.slot ∨ !nbit h.attr.toNat 0 then .next (cusDone s q stDENIED [])
      else match aesUnwrap (keyBytes h.key) (sliceB q.bytes 16 40) with
      | none => .next (cusDone s q stBAD_ARG [])
      | some key =>
        .next (cusDone (loadSlot s q.slot key (leAt q.bytes 3 1 % 2) (leAt q.bytes 4 4)) q stOK [])

/-- ERASE_SLOT (R684, R688). -/
def execEraseSlot (s : State) : Host.Outcome State Fault Refusal :=
  match nextReq s 3 with
  | none => .next s
  | some q =>
    if (getSlot s q.slot).sel.isNone then .next (cusDone s q stNOT_FOUND [])
    else .next (cusDone (slotChanged (eraseSlot s q.slot) q.slot) q stOK [])

/-- SLOT_INFO (R685, R689). -/
def execSlotInfo (s : State) : Host.Outcome State Fault Refusal :=
  match nextReq s 4 with
  | none => .next s
  | some q =>
    let r := slotKey s q.slot
    match r.2 with
    | none => .next (cusDone r.1 q stNOT_FOUND [])
    | some h =>
      let kcv := (aesBlock (aesRoundKeys (keyBytes h.key)) (List.replicate 16 0)).take 3
      .next (cusDone r.1 q stOK ([1, h.attr, 0, 0] ++ wordBytes h.label ++ kcv ++ [0] ++ leBytes 4 (getSlot r.1 q.slot).loads))

/-- READ_RECORD (R688, R700). -/
def execReadRecord (s : State) : Host.Outcome State Fault Refusal :=
  match nextReq s 5 with
  | none => .next s
  | some q =>
    .next (cusDone s q stOK ((List.range 5).flatMap (fun i => wordBytes ((viewCus s (Reg.CUS_TREC0 + 4 * i)).getD 0))))

/-- SLOT_CACHE_INVALIDATE: the derived keys of the slots loaded or erased are invalidated in both slices (R690). -/
def execSlotCacheInvalidate (s : State) : Host.Outcome State Fault Refusal :=
  let s1 := s.cip.slotDrops.foldl dropSlotKeys s
  .next { s1 with cip := { s1.cip with slotDrops := [] } }

/-- A frame being written to a port under protection is ended with an invalid code (R575, R696). -/
def abortSealed (s : State) (p : Nat) : State :=
  let x := getPort s p
  match x.sending with
  | some d =>
    if d.sealing.isSome then abortSend (putPort s p { x with sending := none }) p d else s
  | none => s

/-- CRIMSON_CACHE_INVALIDATE: both slices' caches are invalidated; units in the lanes are refused as no_key, and protected
frames being written are ended (R695, R696). -/
def execCrimsonCacheInvalidate (s : State) : Host.Outcome State Fault Refusal :=
  if !s.cip.crimsonDue then .next s
  else
    let s0 := { s with cip := { s.cip with crimsonDue := false } }
    let s1 := dropKeys s0 (fun _ _ => true)
    let s2 := (s1.pipe.decQ.filter (fun r => match r.stage with
      | .started _ _ => true
      | _ => false)).foldl (fun s r => refuseDec s r 4) s1
    let s3 := ((allDescs s2).filter (fun d => d.unsealed && d.sealing.isSome)).foldl
      (fun s d => refuseEnc s d (d.enc.getD ⟨0, 0, false⟩) 4) s2
    .next ((List.range 7).foldl abortSealed s3)

/-- Custody channel page c (R361). -/
def viewCch (s : State) (c off : Nat) : Option Word :=
  let x := getCch s c
  if off = Reg.CCH_STATE then some (w32 (x.isOpen.toNat + 65536 * s.cus.epoch))
  else if off = Reg.CCH_LAST then
    some (w32 (match x.lastSeq with
      | some n => n + 65536
      | none => 0))
  else if Reg.CCH_RSP ≤ off ∧ off < Reg.CCH_RSP + 64 then
    some (if fbit (rd s (pgCch c + Reg.CMD_RESULT)) 0 then rd s (pgCch c + off) else 0)
  else none

end Sys2Proof.Machine
end

