-- ==== Sys2Proof/Machine/Equinox.lean ====
section
/-! DEFINITION. The equinox and the takeover at a switch-over (R656 to R662, R672 to R677, R681). -/
namespace Sys2Proof.Machine

/-! ### The locks and commands of the sync engine (R173, R673) -/

/-- The sync engine takes a slice's bulk lock. -/
def syncLock (s : State) (sl : SliceId) : State := wr s (pgTbl sl + Reg.TBL_BULK_LOCK) 3

/-- The sync engine releases the locks it holds. -/
def syncRelease (s : State) : State :=
  let one (s : State) (sl : SliceId) : State := if lockOwner s sl = 3 then wr s (pgTbl sl + Reg.TBL_BULK_LOCK) 0 else s
  one (one s .ochre) .slate

/-- The slice that would become active. -/
def eqxB (s : State) : Option SliceId := s.activeSlice.map SliceId.other

/-- A command of the prepare stage is about to be issued on a page; it is bound to end within `bound` boundaries. -/
def syncDue (s : State) (page bound : Nat) : State :=
  { s with red := { s.red with
    syncTodo := s.red.syncTodo.filter (fun p => p != page), syncWait := s.red.syncWait ++ [page]
    prepBy := Nat.max s.red.prepBy (s.tck.boundaries + bound) } }

/-- Issue one command of the prepare stage, once its page has none running: WARM_KEYS for all tenants on a CIP page,
DIGEST of static entries and LPM rows on a TBL page. The bound is that of R578 or R498.
DEDUCED (log entry 89, unsafe). -/
def syncIssue (s : State) (page : Nat) : State :=
  if (runningOn s page).isSome then s
  else
    if page = pgTbl .ochre ∨ page = pgTbl .slate then
      let sl := if page = pgTbl .ochre then SliceId.ochre else .slate
      let grant := ((planInForce s).filter (fun e => e.key == acct 6 0)).foldl (fun a e => a + e.work) 0
      commandRow (specTbl sl) page 6 .sync 0 5 0 0 (syncDue s page (cdiv (tblDigest s sl 5).cost grant + 2))
    else
      let sl := if page = pgCip .ochre then SliceId.ochre else .slate
      let q := (s.cip.keyQ.filter (fun k => k.slice == sl)).length
      let m := ((List.range 32768).filter (fun e => saValid s (e / 32) (e % 32) && (cached s sl e).isEmpty)).length
      commandRow (specWarmKeys sl) page 2 .sync 0 0x80000000 0 0 (syncDue s page (cdiv (4 * (q + m) + 64) (nMin s) + 2))

/-- The commands of the prepare stage that can be issued now. -/
def syncIssueAll (s : State) : State := s.red.syncTodo.foldl syncIssue s

/-! ### Stages (R672 to R675) -/

/-- A condition that defers the equinox holds (R673). -/
def eqxDeferred (s : State) : Bool :=
  let held (sl : SliceId) : Bool := lockOwner s sl != 0 && lockOwner s sl != 3
  held .ochre || held .slate || s.power.phase == .test || simplex s

/-- The equinox is due or in a stage. -/
def eqxRuns (s : State) : Bool := s.red.due || s.red.stage != .idle

/-- A stage begins. -/
def eqxStage (s : State) (st : EqxStage) : State :=
  { s with red := { s.red with stage := st, stageSince := s.tck.boundaries } }

/-- The equinox falls due: deferred where a condition holds (R672, R673).
DEDUCED (log entry 88, unsafe). -/
def eqxFallsDue (s : State) : State :=
  let s1 := { s with red := { s.red with due := true, dueAgainAt := none, deferAlarmed := false } }
  if eqxDeferred s then eqxStage s1 .deferred else s1

/-- The running EQUINOX_NOW ends. -/
def endNow (s : State) (status : Nat) : State :=
  match runningOn s pgRed with
  | some c => if c.code = 1 then endCmd s pgRed status else s
  | none => s

/-- The equinox is over: idle, the count from zero. -/
def eqxOver (s : State) : State :=
  let s1 := syncRelease s
  { s1 with red := { s1.red with stage := .idle, due := false, dueAgainAt := none, deferAlarmed := false, syncTodo := [] } }

/-- EQUINOX_DUE: the count reaches the period, or the second after an abandonment has passed (R672, R674).
DEDUCED (log entry 88, unsafe). -/
def execEquinoxDue (s : State) : Host.Outcome State Fault Refusal :=
  let now := match s.red.dueAgainAt with
    | some b => decide (b ≤ s.tck.boundaries)
    | none => decide (0 < eqxPeriod s ∧ eqxPeriod s ≤ s.red.count) && s.power.phase == .normal && !simplex s
  .next (if now && !eqxRuns s && s.power.phase != .recovery then eqxFallsDue s else s)

/-- EQUINOX_PREPARE: with no condition left the prepare stage begins; its commands are issued as their pages are free
(R673).
DEDUCED (log entry 89, unsafe). -/
def execEquinoxPrepare (s : State) : Host.Outcome State Fault Refusal :=
  if s.red.stage = .prepare then .next (syncIssueAll s)
  else if !s.red.due || !(s.red.stage == .idle || s.red.stage == .deferred) then .next s
  else if eqxDeferred s then .next (if s.red.stage = .idle then eqxStage s .deferred else s)
  else match eqxB s with
  | none => .next s
  | some b =>
    let ctl := rd s (pgRed + Reg.PAGE_CTL)
    let warm := if fbit ctl 0 then [pgCip b] else []
    let digest := if fbit ctl 1 then [pgTbl .ochre, pgTbl .slate] else []
    let s1 := eqxStage s .prepare
    let s2 := { s1 with red := { s1.red with
      syncTodo := warm ++ digest, digestA := none, digestB := none, prepBy := s1.tck.boundaries } }
    .next (syncIssueAll (if fbit ctl 1 then syncLock (syncLock s2 .ochre) .slate else s2))

/-- The two slices' static tables differ (R674): count or digest of the two results. -/
def digestsDiffer (s : State) : Bool :=
  match s.red.digestA, s.red.digestB with
  | some a, some b => !(a.1 == b.1 && a.2.1 == b.2.1)
  | _, _ => false

/-- Every command of the prepare stage has completed. -/
def prepared (s : State) : Bool := s.red.stage == .prepare && s.red.syncTodo.isEmpty && s.red.syncWait.isEmpty

/-- A CARLIS_COMMIT is open. -/
def commitOpen (s : State) : Bool := s.crt.chans.any (fun e => e.2.entries.any (·.commit))

/-- EQUINOX_HOLD: the prepare stage has ended with equal digests (R673). -/
def execEquinoxHold (s : State) : Host.Outcome State Fault Refusal :=
  .next (if prepared s && !digestsDiffer s && !eqxDeferred s then eqxStage s .hold else s)

/-- EQUINOX_DRAIN: no COMMIT is open (R673). -/
def execEquinoxDrain (s : State) : Host.Outcome State Fault Refusal :=
  .next (if s.red.stage == .hold && !commitOpen s && !eqxDeferred s then eqxStage s .drain else s)

/-- The active slice holds no started, unreleased decryption and no outstanding tag (R673).
DEDUCED (log entry 90, unsafe). -/
def drained (s : State) (a : SliceId) : Bool :=
  s.pipe.decQ.all (fun r => r.stage == .wait) && s.crt.rx.isNone && s.pcie.tags.all (fun t => t.slice != a)

/-- The entries a slice carries on at a change of the active role are counted (R295). -/
def countResumed (s : State) : State :=
  bumpBy s (pgSlice s.worker 6 + Reg.QMG_RESUMED) (s.queues.items.filter (·.live)).length

/-- EQUINOX_SWAP: the roles swap at a boundary, and the new standby starts a self-test pass (R673, R675). -/
def execEquinoxSwap (s : State) : Host.Outcome State Fault Refusal :=
  match s.activeSlice with
  | none => .next s
  | some a =>
    let b := a.other
    let x := s.slice a
    let y := s.slice b
    if s.red.stage != .drain || !drained s a || eqxDeferred s || x.fenced || y.fenced then .next s
    else
      let s1 := s.setSlice a { x with role := .standby, claim := 0x80, passRunning := true, passStart := s.tck.boundaries }
      let s2 := s1.setSlice b { y with role := .active, claim := 0xC0, passRunning := false }
      let s3 := eqxOver { s2 with red := { s2.red with accepted := some b, count := 0 } }
      let s4 := crtSwitch (signal (bump s3 (pgRed + Reg.RED_EQX_CNT)) (srcEdge 5 0 1) 0 1)
      .next (endNow (countResumed <| wr s4 (pgRed + Reg.RED_LAST_EQX) (w32 (s4.stamp + 65536 * b.num + 2 ^ 31))) stOK)

/-- The limit of a stage has passed (R673). -/
def eqxLate (s : State) : Bool :=
  match s.red.stage with
  | .prepare => !prepared s && s.red.syncTodo.isEmpty && passed s s.red.prepBy 1
  | .hold => passed s s.red.stageSince (fld (rd s (pgRed + Reg.RED_EQX_HOLD)) 15 0 + 1)
  | .drain => passed s s.red.stageSince (fld (rd s (pgRed + Reg.RED_EQX_DRAIN)) 7 0 + 1)
  | _ => false

/-- The slice that would become active has withdrawn since the equinox fell due (R674). -/
def eqxLost (s : State) : Bool :=
  match eqxB s with
  | none => false
  | some b =>
    let y := s.slice b
    y.fenced || (y.role != .standby && decide (s.red.stageSince ≤ y.fencedAt))

/-- EQUINOX_ABANDON (R674). -/
def execEquinoxAbandon (s : State) : Host.Outcome State Fault Refusal :=
  let begun := s.red.stage == .prepare || s.red.stage == .hold || s.red.stage == .drain
  let diverge := prepared s && digestsDiffer s
  if (begun && (diverge || eqxLate s || eqxDeferred s)) || (eqxRuns s && eqxLost s) then
    let s1 := endNow (eqxOver s) stBUSY
    let s2 := setErr (bump s1 (pgRed + Reg.RED_EQX_ABANDON_CNT)) pgRed 4
    let s3 := if diverge then setErr s2 pgRed 5 else s2
    .next { s3 with red := { s3.red with
      dueAgainAt := some (s.tck.boundaries + boundariesIn s (10 ^ 9)) } }
  else .next s

/-- EQUINOX_DEFER_ALARM (R674). -/
def execEquinoxDeferAlarm (s : State) : Host.Outcome State Fault Refusal :=
  let limit := boundariesIn s (fld (rd s (pgRed + Reg.RED_EQX_DEFER)) 15 0 * 10 ^ 9)
  if s.red.stage == .deferred && !s.red.deferAlarmed && passed s s.red.stageSince (limit + 1) then
    let s1 := { s with red := { s.red with deferAlarmed := true } }
    .next (amber (setErr (bump s1 (pgRed + Reg.RED_EQX_DEFER_CNT)) pgRed 3) 0x16)
  else .next s

/-- EQUINOX_NOW (R681): it ends at the swap, at a switch-over that counts as the equinox, or at the abandonment. -/
def specEquinoxNow : CmdSpec where
  role := Master.isGlobal
  phases p := p == .normal
  body _ s := if simplex s || eqxRuns s then endCmd s pgRed stWRONG_STATE else eqxFallsDue s

def execEquinoxNow (via : Master) (seq : Byte) (s : State) : Host.Outcome State Fault Refusal :=
  .next (commandRow specEquinoxNow pgRed 1 via seq 0 0 0 s)

/-- The equinox at a boundary (R672, R677): it counts in normal service while the device is not simplex, from zero after
the end of simplex operation and after a change of RED_EQX_PERIOD (`changed`); recovery ends it. -/
def eqxBoundary (changed : Bool) (s : State) : State :=
  if s.power.phase = .recovery then (if eqxRuns s then endNow (eqxOver s) stBUSY else s)
  else
    let simp := simplex s
    let n := if changed || (s.red.simplexPrev && !simp) then 0
      else if s.power.phase == .normal && !simp then s.red.count + 1 else s.red.count
    { s with red := { s.red with count := n, simplexPrev := simp } }

/-! ### Switch-over (R656 to R662) -/

/-- SWITCH_OVER: the former standby becomes active and takes over the state of the old active slice; a protected frame in
transmission is ended with an invalid code (R575, R659).
DEDUCED (log entry 91, unsafe). -/
def execSwitchOver (replay : Nat) (gap : Fin 3) (s : State) : Host.Outcome State Fault Refusal :=
  match takeOver replay gap s with
  | none => .next s
  | some s1 =>
    let s2 := (List.range 7).foldl abortSealed (crtSwitch (cipSwitch (dmaSwitch (syncRelease (countResumed s1)))))
    .next (paceBoundary { s2 with red := { s2.red with syncTodo := [] } })

end Sys2Proof.Machine
end

