-- ==== Sys2Proof/Machine/FnReset.lean ====
section
/-! DEFINITION. Configuration space, function resets and halts (R202 to R214, R225 to R234, R260 to R265, R305). -/
namespace Sys2Proof.Machine

/-! ### The work of a function is discarded (R208, R210, R305, R315) -/

/-- Host frames of the functions whose header the pipeline has not processed are discarded. -/
def dropHeaders (s : State) (p : Nat → Bool) : State :=
  let mine (h : Header) : Bool := match h with
    | .host id => ((getFrame s id).map (fun f => p f.fn)).getD false
    | .carlis _ _ _ => false
  let gone := s.pipe.q1.filter mine
  let s1 := { s with pipe := { s.pipe with q1 := s.pipe.q1.filter (fun h => !mine h) } }
  gone.foldl (fun s h => match h with
    | .host id => dropRef s id
    | .carlis _ _ _ => s) s1

/-- Frames that go on have no entry to end any more.
DEDUCED (log entry 49, unsafe). -/
def forgetEntries (s : State) (p : Nat → Bool) : State :=
  let cut (f : Frame) : Frame := if p f.fn then { f with entry := none } else f
  { s with
    pipe := { s.pipe with frames := tmap (fun _ => none) (Option.map cut) s.pipe.frames }
    sched := { s.sched with
      rings := tmap (fun _ => []) (List.map (fun x => { x with frame := cut x.frame })) s.sched.rings } }

/-- Entries in hand are discarded with their reservations; a frame being delivered is dropped at its queue. -/
def dropItems (s : State) (p : Nat → Bool) : State :=
  let gone := s.queues.items.filter (fun i => p i.fn)
  let s1 := { s with queues := { s.queues with items := s.queues.items.filter (fun i => !p i.fn) } }
  gone.foldl (fun s i =>
    let s1 := freeItemCells s i
    match i.rxd with
    | some d => dropDesc (bump s1 (pgSch + Reg.SCH_RXQ_GONE)) d
    | none => s1) s1

/-- The work of functions is discarded (R210).
DEDUCED (log entry 49, unsafe). -/
def discardWork (s : State) (p : Nat → Bool) (reset : Bool) : State :=
  clearQueues (crtDetach (forgetEntries (dropItems (dropHeaders s p) p) p) p) p reset

/-- A malformed act put in the order of functions (R306). -/
def haltInsert (h : HaltReq) : List HaltReq → List HaltReq
  | [] => [h]
  | a :: l => if h.fn ≤ a.fn then h :: a :: l else a :: haltInsert h l

/-- Halts at a boundary, the lowest function first (R305, R306). -/
def haltBoundary (s : State) : State :=
  let s1 := { s with queues := { s.queues with halts := [] } }
  (s.queues.halts.foldr haltInsert []).foldl (fun s h =>
    if isHalted s h.fn then s else discardWork (haltOne s h) (fun f => f == h.fn) false) s1

/-! ### Function resets (R203, R206 to R214) -/

/-- The queue manager holds nothing more of the functions `p`: no halt, no pacing account. -/
def endHalts (s : State) (p : Nat → Bool) : State :=
  { s with queues := { s.queues with
      halted := s.queues.halted.filter (fun f => !p f), halts := s.queues.halts.filter (fun h => !p h.fn),
      paced := tdrop p s.queues.paced } }

/-- Halt and paced flags of functions clear (R208, R315). -/
def clearFlags (s : State) (p : Nat → Bool) : State :=
  (s.queues.halted.filter p).foldl (fun s f =>
    let m := pgQmg + Reg.QMG_HALTED_MAP + 4 * (f / 32)
    wr (wr s m (rd s m &&& ~~~(w32 (2 ^ (f % 32))))) (vfBase (f - 2) + 0x4000 + Reg.QV_HALT) 0) (endHalts s p)

/-- Tenants whose cipher page holds anything. -/
def cipherTenants (s : State) : List Nat :=
  (List.range 1024).filter (fun t => s.regs.any (fun e => decide (pgTenCip t ≤ e.1 ∧ e.1 < pgTenCip (t + 1))))

/-- The bulk locks PF0 owns are released (R173). -/
def releasePf0 (s : State) : State :=
  let one (s : State) (sl : SliceId) : State := if lockOwner s sl = 2 then wr s (pgTbl sl + Reg.TBL_BULK_LOCK) 0 else s
  one (one s .ochre) .slate

/-- A reset of functions begins (R203): configuration space, MSI-X, queue state, tags and work. -/
def resetFns (s : State) (p : Nat → Bool) (fns : List Nat) : State :=
  let s1 := clearFlags (discardWork (staleTagsFn s p) p true) p
  { s1 with pcie := { s1.pcie with
      cfg := tdrop (fun k => p (k / 4096)) s1.pcie.cfg
      msix := tdrop (fun k => p (k / 8192)) s1.pcie.msix
      pba := s1.pcie.pba.filter (fun k => !p (k / 2048))
      flr := s1.pcie.flr ++ fns.filter (fun f => !s1.pcie.flr.contains f) } }

/-- VFs that exist, as function numbers. -/
def liveVfs (s : State) : List Nat := (List.range s.pcie.vfLive).map (fun t => t + 2)

/-- Tenants reset in this tick count in their epochs and mailboxes at the boundary (R348). -/
def noteResets (s : State) (ts : List Nat) : State :=
  { s with mbx := { s.mbx with resets := s.mbx.resets ++ ts.filter (fun t => !s.mbx.resets.contains t) } }

/-- Every existing VF is reset, as VF Enable clears (R226). -/
def beginVfClear (s : State) : State :=
  let s0 := noteResets (resetFns s (fun f => decide (2 ≤ f)) (liveVfs s)) (List.range s.pcie.vfLive)
  let s1 := ((cipherTenants s).filter (fun t => decide (t < s.pcie.vfLive))).foldl clearAssocs s0
  { s1 with pcie := { s1.pcie with vfClearing := true } }

/-- A VF FLR (R207, R209). -/
def beginVfFlr (s : State) (t : Nat) : State :=
  if inFlr s (2 + t) then s
  else clearAssocs (noteResets (resetFns s (fun f => f == 2 + t) [2 + t]) [t]) t

/-- The associations of every tenant are cleared (R203, R209). -/
def clearAllAssocs (s : State) : State := (cipherTenants s).foldl clearAssocs s

/-- Every log slot is released, its staged entries discarded (R375). -/
def releaseLogs (s : State) : State := (List.range 16).foldl (fun t k => putLogSlot t k LogSlot.free) s

/-- A PF0 FLR (R207): PF0 and every VF, VF Enable cleared; no log stays (R375). -/
def beginPf0Flr (s : State) : State :=
  if inFlr s 0 then s
  else
    let s1 := releaseLogs (clearAllAssocs (releasePf0 (resetFns (beginVfClear s) (fun f => f == 0) [0])))
    { s1 with mbx := { s1.mbx with pf0Reset := true } }

/-- A PF1 FLR (R211). -/
def beginPf1Flr (s : State) : State :=
  if inFlr s 1 then s else closeCustody (resetFns s (fun f => f == 1) [1])

/-- A host reset (R206, R212): every function, the link down; no log stays (R375).
DEDUCED (log entry 51, unsafe). -/
def beginHostReset (s : State) (hot : Bool) : State :=
  let s1 := releaseLogs
    (closeCustody (clearAllAssocs (releasePf0 (resetFns (beginVfClear s) (fun f => decide (f < 2)) [0, 1]))))
  let a := pgSys + Reg.SYS_HOST_RESET_CNT
  let s2 := wr s1 a (w32 ((fld (rd s1 a) 15 0 + 1) % 65536 + (if hot then 65536 else 131072)))
  let s3 := bump s2 (pgHif 0 + Reg.HIF_LINK_DOWN_CNT)
  { s3 with
    pcie := { s3.pcie with hostReset := true, dlUp := false }
    mbx := { s3.mbx with hostReset := true } }

/-- HOST_RESET: a hot reset, or the link entering DL_Down (R202, R206). -/
def execHostReset (hot : Bool) (s : State) : Host.Outcome State Fault Refusal :=
  .next (if outOfReset s && s.pcie.dlUp then beginHostReset s hot else s)

/-- Does the endpoint answer requests at all (R188, R204, R262)? -/
def cfgReach (s : State) : Bool := outOfReset s && s.pcie.dlUp && !s.pcie.l23 && warmOpen s

/-- Are configuration requests of function f served (R188, R225)?.
DEDUCED (log entry 44, unsafe). -/
def cfgServed (s : State) (f : Nat) : Bool := cfgReach s && s.power.bringupDone && fnExists s f

/-- PF0_FLR. -/
def execPf0Flr (s : State) : Host.Outcome State Fault Refusal :=
  .next (if cfgServed s 0 then beginPf0Flr s else s)

/-- VF_FLR. -/
def execVfFlr (t : Fin 1024) (s : State) : Host.Outcome State Fault Refusal :=
  .next (if cfgServed s (2 + t.val) then beginVfFlr s t.val else s)

/-- PF1_FLR. -/
def execPf1Flr (s : State) : Host.Outcome State Fault Refusal :=
  .next (if cfgServed s 1 then beginPf1Flr s else s)

/-- No tag of the functions is outstanding (R265). -/
def noTags (s : State) (p : Nat → Bool) : Bool := s.pcie.tags.all (fun t => !p t.fn)

/-- Functions leave their reset. -/
def endFlr (s : State) (p : Nat → Bool) : State :=
  { s with pcie := { s.pcie with flr := s.pcie.flr.filter (fun f => !p f) } }

/-- A PF0 FLR or host reset has completed (R347): mgr_reset of every tenant. -/
def noteMgrReset (s : State) : State :=
  (List.range 1024).foldl (fun s t => wr s (vfBase t + Reg.VF_ERR) (rd s (vfBase t + Reg.VF_ERR) ||| 4)) s

/-- FLR_COMPLETE: every tag of the function has retired (R265). A reset of PF0 ends when the change of VF Enable it began
has ended; a host reset ends for both functions at once, and a VF whose Enable is being cleared ends with
VF_CHANGE_COMPLETE (R213, R226).
DEDUCED (log entry 50, unsafe). DEDUCED (log entry 51, unsafe). -/
def execFlrComplete (fn : Fin 1026) (s : State) : Host.Outcome State Fault Refusal :=
  let f := fn.val
  if !inFlr s f then .next s
  else if 2 ≤ f then .next (if !s.pcie.vfClearing && noTags s (fun g => g == f) then endFlr s (fun g => g == f) else s)
  else if f = 1 then .next (if !s.pcie.hostReset && noTags s (fun g => g == 1) then endFlr s (fun g => g == 1) else s)
  else
    let p (g : Nat) : Bool := if s.pcie.hostReset then decide (g < 2) else g == 0
    if !s.pcie.vfClearing && noTags s p then
      let s1 := noteMgrReset (endFlr s p)
      .next { s1 with pcie := { s1.pcie with hostReset := false } }
    else .next s

/-- VF_CHANGE_COMPLETE: the VFs cease to exist (R226). Should VF Enable have been set again meanwhile, NumVFs of them
exist anew.
DEDUCED (log entry 50, unsafe). -/
def execVfChangeComplete (s : State) : Host.Outcome State Fault Refusal :=
  if s.pcie.vfClearing && noTags s (fun g => decide (2 ≤ g)) then
    let s1 := endFlr s (fun g => decide (2 ≤ g))
    .next { s1 with pcie := { s1.pcie with vfClearing := false, vfLive := if vfEnable s then numVfs s else 0 } }
  else .next s

/-! ### Configuration space (R228 to R234, R260, R261, R264) -/

/-- The bits of a configuration word that software writes, and those it clears by writing 1.
PRESUMED (log entry 23, unsafe). -/
def cfgMask (s : State) (f o : Nat) : Word × Word :=
  let pf := decide (f < 2)
  let of (b : Bool) (w : Word) : Word := if b then w else 0
  if o = 0x04 then (if pf then 0x546 else 4, 0xF9000000)
  else if o = 0x0C ∨ o = 0x3C then (of pf 0xFF, 0)
  else if o = 0x10 then (if f = 0 then 0xFC000000 else of pf 0xFFFFC000, 0)
  else if o = 0x14 ∨ o = 0x24 then (of pf 0xFFFFFFFF, 0)
  else if o = 0x18 then (of (f == 0) 0xFC000000, 0)
  else if o = 0x1C then (of (f == 0) 0xFFFFFFFF, 0)
  else if o = 0x20 then (if f = 0 then 0xFFFF0000 else of pf 0xFFFFF000, 0)
  else if o = 0x44 then (0x103, 0x8000)
  else if o = 0x58 then (0x79FF, 0xF0000)
  else if o = 0x60 then (of pf 0x2CB, 0)
  else if o = 0x78 then (of pf 0x1000, 0)
  else if o = 0x80 then (of (f == 0) 0xF, 0)
  else if o = 0xB0 then (0xC0000000, 0)
  else if o = 0x104 then (0, 0x5FF010)
  else if o = 0x108 ∨ o = 0x10C then (of pf 0x5FF010, 0)
  else if o = 0x110 then (0, 0x71C1)
  else if o = 0x114 then (of pf 0x71C1, 0)
  else if o = 0x118 then (of pf 0x140, 0)
  else if f ≠ 0 then (0, 0)
  else if o = 0x158 then (0x19, 0)
  else if o = 0x160 then (of (!vfEnable s) 0xFFFF, 0)
  else if o = 0x170 then (of (!vfEnable s) 0xFFFFFFFF, 0)
  else if o = 0x174 then (0xFFFF0000, 0)
  else if o = 0x178 ∨ o = 0x188 then (0xFFFFFFFF, 0)
  else if o = 0x184 then (~~~(w32 (4096 * (cfgRd s 0 0x170).toNat) - 1), 0)
  else (0, 0)

/-- Reserved encodings keep the field (R25, R225, R232, R234, R260). -/
def cfgLegal (f o : Nat) (old new : Word) : Word :=
  let keep (w : Word) (hi lo : Nat) (bad : Bool) : Word := if bad then putFld w hi lo (fld old hi lo) else w
  if o = 0x44 then keep new 1 0 (fld new 1 0 == 1 || fld new 1 0 == 2)
  else if o = 0x58 then keep (keep new 7 5 (decide (2 < fld new 7 5))) 14 12 (decide (5 < fld new 14 12))
  else if o = 0x80 then keep new 3 0 (fld new 3 0 == 0 || decide (5 < fld new 3 0))
  else if f = 0 ∧ o = 0x160 then keep new 15 0 (decide (1024 < fld new 15 0))
  else if f = 0 ∧ o = 0x170 then
    (if new = 1 ∨ new = 2 ∨ new = 4 ∨ new = 8 ∨ new = 16 then new else old)
  else new

/-- The bits of a word under byte enables. -/
def byteMask (be : Nat) : Word :=
  (List.range 4).foldl (fun w i => if nbit be i then putFld w (8 * i + 7) (8 * i) 0xFF else w) 0

/-- VF Enable changes (R226). -/
def vfEnableChange (s : State) (old : Bool) : State :=
  if vfEnable s && !old then
    (if s.pcie.vfClearing then s else { s with pcie := { s.pcie with vfLive := numVfs s } })
  else if old && !vfEnable s then (if s.pcie.vfClearing then s else beginVfClear s)
  else s

/-- A configuration write and what it sets off: Bus Master Enable cleared (R263, R264), an FLR initiated (R207), VF
Enable changed (R226). -/
def cfgWrite (s : State) (f o be : Nat) (w : Word) : State :=
  let m := byteMask be
  let old := cfgRd s f o
  let k := cfgMask s f o
  let rw := k.1 &&& m
  let new := cfgLegal f o old (((old &&& ~~~rw) ||| (w &&& rw)) &&& ~~~(w &&& k.2 &&& m))
  let s1 := cfgWr s f o new
  if o = 4 ∧ fbit old 2 ∧ !fbit new 2 then bmeCleared s1 f
  else if o = 0x58 ∧ fbit (w &&& m) 15 then
    (if f = 0 then beginPf0Flr s1 else if f = 1 then beginPf1Flr s1 else beginVfFlr s1 (f - 2))
  else if f = 0 ∧ o = 0x158 then vfEnableChange s1 (fbit old 0)
  else s1

/-- A configuration word as read: Transactions Pending and Link Status are live. -/
def cfgRead (s : State) (f o : Nat) : Word :=
  let w := cfgRd s f o
  if o = 0x58 then w ||| flagAt (!noTags s (fun g => g == f)) 21
  else if o = 0x60 ∧ f < 2 then w ||| w32 (65536 * s.pcie.speed + 2 ^ 20 * s.pcie.width)
  else w

/-- CONFIG_REQUEST: a dword of configuration space is read, or written under byte enables (R228). During bring-up the
answer is CRS (R188); to a VF that does not exist Unsupported Request (R225, R244). -/
def execConfigRequest (fn : Fin 1026) (off : Nat) (be : Nat) (w : Option Word) (s : State) :
    Host.Outcome State Fault Refusal :=
  let f := fn.val
  let o := off % 4096 / 4 * 4
  if !cfgReach s then .next s
  else if !s.power.bringupDone then .next (emit s (.completion 2 [] false))
  else if !fnExists s f then .next (emit (unsupported s 0 false) (.completion 1 [] false))
  else match w with
  | none => .next (emit s (.completion 0 (wordBytes (cfgRead s f o)) false))
  | some v => .next (emit (cfgWrite s f o be v) (.completion 0 [] false))

/-- A configuration write of one field by a row of its own. -/
def cfgField (s : State) (f o : Nat) (w : Word) : State := if cfgServed s f then cfgWrite s f o 15 w else s

/-- POWER_STATE_WRITE: D0 or D3hot from the next boundary; 01b and 10b are ignored (R260). -/
def execPowerStateWrite (fn : Fin 1026) (ps : Fin 4) (s : State) : Host.Outcome State Fault Refusal :=
  .next (cfgField s fn.val 0x44 (putFld (cfgRd s fn.val 0x44) 1 0 ps.val &&& 0xFFFF7FFF))

/-- PME_STATUS_CLEAR: 1 written to PME_Status clears it (R261). -/
def execPmeStatusClear (fn : Fin 1026) (s : State) : Host.Outcome State Fault Refusal :=
  .next (cfgField s fn.val 0x44 (cfgRd s fn.val 0x44 ||| 0x8000))

/-- BUS_MASTER_ENABLE_CLEAR (R263, R264). -/
def execBusMasterEnableClear (fn : Fin 1026) (s : State) : Host.Outcome State Fault Refusal :=
  .next (cfgField s fn.val 4 (putBit (cfgRd s fn.val 4 &&& 0xFFFF) 2 false))

/-- BUS_MASTER_ENABLE_SET (R264). -/
def execBusMasterEnableSet (fn : Fin 1026) (s : State) : Host.Outcome State Fault Refusal :=
  .next (cfgField s fn.val 4 (putBit (cfgRd s fn.val 4 &&& 0xFFFF) 2 true))

/-- VF_ENABLE_SET (R226). -/
def execVfEnableSet (s : State) : Host.Outcome State Fault Refusal :=
  .next (cfgField s 0 0x158 (putBit (cfgRd s 0 0x158) 0 true))

/-- VF_ENABLE_CLEAR (R226). -/
def execVfEnableClear (s : State) : Host.Outcome State Fault Refusal :=
  .next (cfgField s 0 0x158 (putBit (cfgRd s 0 0x158) 0 false))

end Sys2Proof.Machine
end

