-- ==== Sys2Proof/Machine/Monitor.lean ====
section
/-! DEFINITION. Event counters, sensors and the I²C target (chapter 21). -/
namespace Sys2Proof.Machine

/-! ### Event sources (R722 to R725) -/

/-- Number of events R725 defines for a page. -/
def eventCount : PageKind → Nat
  | .tck => 4 | .pwr => 2 | .evc => 3 | .mac => 5 | .pcs => 3 | .cbp => 3 | .mem => 4 | .ecc => 2 | .red => 3
  | .alm => 2 | .slEvc => 3 | .slPip => 5 | .slTbl => 5 | .slSch => 2 | .slCip => 3 | .slCrt => 2 | .slQmg => 3
  | .slDma => 2 | .slRed => 2 | _ => 0

/-- The slice page number of a block code (R154, R175). -/
def slicePageOf (block : Nat) : Option Nat :=
  if block = 0x11 then some 0 else if block = 0x12 then some 1 else if block = 0x13 then some 2
  else if block = 0x14 then some 3 else if block = 0x15 then some 4 else if block = 8 then some 5
  else if block = 0xA then some 6 else if block = 0xB then some 7 else if block = 5 then some 8 else none

/-- The shared-edge page of a block code and instance that has events. -/
def edgePageOf (block inst : Nat) : Option Nat :=
  if block = 2 ∧ inst = 0 then some pgTck else if block = 4 ∧ inst = 0 then some pgPwr
  else if block = 5 ∧ inst = 0 then some pgRed else if block = 6 ∧ inst = 0 then some pgAlm
  else if block = 8 ∧ inst = 0 then some pgEvc
  else if block = 0xE ∧ inst < 6 then some (pgMac inst) else if block = 0xF ∧ inst < 6 then some (pgPcs inst)
  else if block = 0x10 ∧ inst = 6 then some pgCbp else if block = 0x16 ∧ inst < 4 then some (pgMem inst)
  else if block = 0x17 ∧ inst = 0 then some pgEcc else none

/-- The page of a source code (R722), none where the code names no page. -/
def sourcePage (c : Nat) : Option Nat :=
  if nfld c 7 5 ≠ 0 then none
  else if nbit c 16 then
    if nfld c 15 13 ≠ 0 then none
    else (slicePageOf (nfld c 12 8)).map (fun k => pgSlice (if nbit c 17 then .slate else .ochre) k)
  else if nbit c 17 then none
  else edgePageOf (nfld c 12 8) (nfld c 15 13)

/-- Does a source code name a defined event (R728)? -/
def sourceDefined (c : Nat) : Bool :=
  match (sourcePage c).bind pageAt with
  | none => false
  | some p => decide (nfld c 4 0 < eventCount p.kind)

/-- Is an occurrence signalled to counters (R723)? -/
def signalled (s : State) (o : Occ) : Bool :=
  match sourcePage o.src with
  | none => false
  | some p =>
    let e := rdEff s (p + Reg.EVT_SEL + 4 * nfld o.src 4 0)
    w32 o.q &&& (e >>> 16) &&& 0xFFFF == e &&& (e >>> 16) &&& 0xFFFF

/-! ### Counters (R726 to R732) -/

/-- The three counter instances: shared edge, Ochre, Slate. -/
inductive EvcInst where
  | shared | slice (sl : SliceId)
deriving DecidableEq, Repr

/-- The EVC page of an instance. -/
def EvcInst.page : EvcInst → Nat
  | .shared => pgEvc
  | .slice sl => pgSlice sl 5

/-- Counters of an instance (R726). -/
def EvcInst.count : EvcInst → Nat
  | .shared => 16
  | .slice _ => 64

/-- Is the instance frozen in this tick (R729)? -/
def EvcInst.frozen (s : State) : EvcInst → Bool
  | .shared => s.evc.frozenShared
  | .slice .ochre => s.evc.frozenOchre
  | .slice .slate => s.evc.frozenSlate

/-- The source a counter's selection names, none where it counts nothing (R726, R728). A slice counter ignores the
slice bit and names its own slice. -/
def counterSource (i : EvcInst) (sel : Word) : Option Nat :=
  let c := fld sel 17 0
  let c' := match i with
    | .shared => c
    | .slice sl => c % 131072 + 131072 * sl.num
  let ok := match i with
    | .shared => true
    | .slice _ => nbit c 16
  if ok && sourceDefined c' then some c' else none

/-- Counter n of an instance adds `k` (R727, R730). -/
def addCount (s : State) (i : EvcInst) (n k : Nat) : State :=
  let a := i.page + Reg.EVC_CNT_LO + 8 * n
  let v := rdWide s a + k
  let s1 := wrWide s a (v % 2 ^ 48)
  if v < 2 ^ 48 then s1
  else
    let o := i.page + Reg.EVC_OVF_LO + 4 * (n / 32)
    let s2 := setErr (wr s1 o (rd s1 o ||| w32 (2 ^ (n % 32)))) i.page 1
    if fbit (rdEff s (i.page + Reg.EVC_CSEL + 4 * n)) 26 then
      let s3 := wr s2 (i.page + Reg.PAGE_CTL) (rd s2 (i.page + Reg.PAGE_CTL) ||| 1)
      wr s3 (i.page + Reg.PAGE_STAT) (rd s3 (i.page + Reg.PAGE_STAT) ||| 2)
    else s2

/-- Counter n of an instance takes the occurrences `os`: each one in mode 0; one for the tick in mode 1. -/
def countOne (os : List Occ) (mode1 : Bool) (i : EvcInst) (s : State) (n : Nat) : State :=
  let sel := rdEff s (i.page + Reg.EVC_CSEL + 4 * n)
  if !fbit sel 25 || i.frozen s || fbit sel 24 != mode1 then s
  else match counterSource i sel with
  | none => s
  | some c =>
    let k := (os.filter (fun o => o.src == c && signalled s o)).length
    if k = 0 then s else addCount s i n (if mode1 then 1 else k)

/-- Every counter takes the occurrences `os`. -/
def countAll (s : State) (os : List Occ) (mode1 : Bool) : State :=
  [EvcInst.shared, .slice .ochre, .slice .slate].foldl (fun s i =>
    (List.range i.count).foldl (countOne os mode1 i) s) s

/-- The counters take the occurrences of this tick that they do not hold yet (R727). -/
def evcFlush (s : State) : State :=
  let os := s.evc.occs.take (s.evc.occs.length - s.evc.counted)
  if os.isEmpty then s
  else
    let s1 := countAll s os false
    { s1 with evc := { s1.evc with counted := s.evc.occs.length } }

/-- The end of a tick for the counters: the rest of its occurrences, and one for each counter in mode 1 (R727).
DEDUCED (log entry 98, unsafe). -/
def evcTickEnd (s : State) : State :=
  let s1 := countAll (evcFlush s) s.evc.occs true
  { s1 with evc := { s1.evc with occs := [], counted := 0 } }

/-- The selections and freezes that take effect at a boundary (R728, R729): `old` is the state before it.
DEDUCED (log entry 98, unsafe). -/
def evcTickBegin (old s : State) : State :=
  let fz (a : Nat) : Bool := fbit (rdEff s (a + Reg.PAGE_CTL)) 0
  let all := fbit (rdEff s (pgEvc + Reg.PAGE_CTL)) 1
  let s1 := { s with evc := { s.evc with
    frozenShared := fz pgEvc || all, frozenOchre := fz (pgSlice .ochre 5) || all,
    frozenSlate := fz (pgSlice .slate 5) || all } }
  [EvcInst.shared, .slice .ochre, .slice .slate].foldl (fun s i =>
    let s2 := if fbit (rdEff s (i.page + Reg.PAGE_CTL)) 0 then s
      else wr s (i.page + Reg.PAGE_STAT) (rd s (i.page + Reg.PAGE_STAT) &&& ~~~2)
    (List.range i.count).foldl (fun s n =>
      let a := i.page + Reg.EVC_CSEL + 4 * n
      let sel := rdEff s a
      if decide (sel ≠ rdEff old a) && fbit sel 25 && (counterSource i sel).isNone then setErr s i.page 2 else s) s2) s1

/-- EVC registers computed from this state. -/
def viewEvc (s : State) (i : EvcInst) (off : Nat) : Option Word :=
  if off = Reg.PAGE_STAT then some (flagAt (i.frozen s) 0 ||| (rd s (i.page + Reg.PAGE_STAT) &&& 2)) else none

/-! ### Sensors (R733 to R735) -/

/-- Has stage 1 of bring-up begun? -/
def stageOneBegun (s : State) : Bool :=
  outOfReset s && (s.power.lastStage.isSome || match s.power.bringing with
    | some (_ + 1) => true
    | _ => false)

/-- A reading of temperature sensor k. -/
def sampleTemp (s : State) (k : Nat) (v : BitVec 16) : State :=
  let a := pgEvc + Reg.EVC_TEMP + 4 * k
  let m := pgEvc + Reg.EVC_TEMP_MAX + 4 * k
  let top : BitVec 16 := BitVec.ofNat 16 (rd s m).toNat
  let s1 := wr s a (w32 (v.toNat + 2 ^ 31))
  let s2 := if !fbit (rd s a) 31 || top.slt v then wr s1 m (w32 v.toNat) else s1
  let hi : BitVec 16 := BitVec.ofNat 16 (rdEff s (pgEvc + Reg.EVC_TEMP_HI + 4 * k)).toNat
  let hot := tget (fun _ => false) s.evc.tempHot k
  let put (s : State) (b : Bool) : State :=
    { s with evc := { s.evc with tempHot := tset (fun _ => false) s.evc.tempHot k b } }
  if hi.sle v then (if hot then s2 else put (setErr s2 pgEvc 3) true)
  else if v.toInt + 32 ≤ hi.toInt then put s2 false
  else s2

/-- A reading of voltage sensor v. -/
def sampleVolt (s : State) (k : Nat) (v : BitVec 16) : State :=
  let lim := rdEff s (pgEvc + Reg.EVC_VOLT_LIM + 4 * k)
  let s1 := wr s (pgEvc + Reg.EVC_VOLT + 4 * k) (w32 (v.toNat + 2 ^ 31))
  if lim ≠ 0 ∧ (v.toNat < fld lim 15 0 ∨ fld lim 31 16 < v.toNat) then setErr s1 pgEvc 4 else s1

/-- SENSOR_SAMPLE: every 1 ms the sensors take a reading (R733 to R735).
DESIGN CHOICE (log entry 18, safe). -/
def execSensorSample (temps : Vector (BitVec 16) 4) (volts : Vector (BitVec 16) 5) (s : State) :
    Host.Outcome State Fault Refusal :=
  if !stageOneBegun s then .next s
  else
    let s1 := (List.range 4).foldl (fun s k => sampleTemp s k (temps.toList.getD k 0)) s
    .next ((List.range 5).foldl (fun s k => sampleVolt s k (volts.toList.getD k 0)) s1)

/-! ### The I²C target (R736, R737) -/

/-- The content of an I²C word (R737). -/
def i2cWord (s : State) (k : Nat) : Nat :=
  let low (off : Nat) : Nat := fld (rd s (pgEvc + off)) 15 0
  if k = 0 then 0x1460
  else if k = 1 then
    (s.power.lastStage.getD 0) + 8 * s.power.phase.code + 32 * s.power.bringupDone.toNat + 64 * s.power.faultN.toNat
      + 128 * s.vkeep.erasedLock.toNat + 256 * (decide (s.vkeep.active ≠ 0)).toNat
  else if k < 6 then low (Reg.EVC_TEMP + 4 * (k - 2))
  else if k < 0xB then low (Reg.EVC_VOLT + 4 * (k - 6))
  else if k < 0xF then low (Reg.EVC_TEMP_MAX + 4 * (k - 0xB))
  else if k = 0x10 then fld s.power.cause 11 0
  else if k = 0x11 then s.power.warmCnt
  else 0

/-- I2C_POINTER_WRITE sets the word pointer; before stage 1 the address is not acknowledged (R736, R737). -/
def execI2cPointerWrite (ptr : Byte) (s : State) : Host.Outcome State Fault Refusal :=
  .next (if stageOneBegun s then { s with board := { s.board with i2cPtr := ptr.toNat } } else s)

/-- I2C_WORD_READ returns the word at the pointer, which advances by one and wraps from 0xFF to 0x00 (R737). -/
def execI2cWordRead (s : State) : Host.Outcome State Fault Refusal :=
  if stageOneBegun s then
    let s1 := emit s (.i2c (i2cWord s s.board.i2cPtr))
    .next { s1 with board := { s1.board with i2cPtr := (s1.board.i2cPtr + 1) % 256 } }
  else .next s

end Sys2Proof.Machine
end

