-- ==== Sys2Proof/Machine/Access.lean ====
section
/-! DEFINITION. Register accesses (chapter 04): what an address names, what a read answers and does, what a write does
to each kind of register, and how a page command is found from its code. -/
namespace Sys2Proof.Machine

/-! ### What an address names (R174, R180, R181, R467, R468) -/

/-- What an address names. -/
inductive Target where
  | reg (p : PageAt) (off : Nat) (r : RegRow)     -- a register of a page
  | twin (p : PageAt) (off : Nat) (set : Bool)    -- a set or clear alias (R161)
  | undef (p : Option PageAt)                      -- an undefined offset or a reserved range (R24, R182)
  | record (n k : Nat)                             -- word k of a queue record
  | shaper (i k : Nat)                             -- word k of a shaper table entry
  | policer (i k : Nat)                            -- word k of a policer entry
  | window (a : Nat)                               -- a word of the parse-graph or action-record window
  | unmapped                                       -- R176
deriving DecidableEq, Repr

/-- The slice of a slice page. -/
def PageAt.slice (p : PageAt) : SliceId := if p.inst = 0x41 then .slate else .ochre

/-- Offsets that a page lacks although its register table, shared with another page, lists them: the command and event
registers by PAGE_CAP (R153), counters above 15 of the shared EVC page and sensors of a slice's (R732). -/
def absent (k : PageKind) (off : Nat) : Bool :=
  (k.isBlock && !k.hasCmd && decide (0x30 ≤ off ∧ off < 0x50))
    || (k.isBlock && !k.hasEvents && decide (0x80 ≤ off ∧ off < 0x100))
    || (k == .evc && decide (0x140 ≤ off ∧ off < 0x200 ∨ 0x280 ≤ off ∧ off < 0x400 ∨ off = Reg.EVC_OVF_HI))
    || (k == .slEvc && decide (0x700 ≤ off ∧ off < 0x780))

/-- The register at an offset of a page. -/
def rowAt (k : PageKind) (off : Nat) : Option RegRow := if absent k off then none else pageRow k off

/-- Offsets of the parse-graph window that hold an entry (R467). -/
def parseUsed (o : Nat) : Bool :=
  decide (o < 0x3000 ∨ 0x4000 ≤ o ∧ o < 0x5020 ∨ 0x5040 ≤ o ∧ o < 0x504C ∨ 0x5050 ≤ o ∧ o < 0x5054
    ∨ 0x5100 ≤ o ∧ o < 0x5200)

/-- What a word address names. -/
def target (a : Nat) : Target :=
  match pageAt a with
  | some p =>
    let off := a - p.base
    if p.kind.isBlock && decide (0x800 ≤ off) then .twin p (off % 0x400) (decide (off < 0xC00))
    else match rowAt p.kind off with
      | some r => .reg p off r
      | none => .undef (some p)
  | none =>
    if pf1Base ≤ a then .undef none
    else if winQueue ≤ a ∧ a < winQueue + 0x100000 then .record ((a - winQueue) / 64) ((a - winQueue) % 64 / 4)
    else if winShaper ≤ a ∧ a < winShaper + 0xA0000 then .shaper ((a - winShaper) / 32) ((a - winShaper) % 32 / 4)
    else if winPolicer ≤ a ∧ a < winPolicer + 0x20000 then .policer ((a - winPolicer) / 32) ((a - winPolicer) % 32 / 4)
    else if winParse ≤ a ∧ a < winAction then (if parseUsed (a - winParse) then .window a else .unmapped)
    else if winAction ≤ a ∧ a < 0x800000 then .window a
    else .unmapped

/-- Where a master's offset lies: the global space, PF1 BAR 0 or VF BAR 0 (R174, R180, R181). -/
def busAddr (via : Master) (off : Nat) : Option Nat :=
  match via with
  | .pf1 => if off < 0x4000 then some (pf1Base + off) else none
  | .vf t =>
    if 0x10000 ≤ off then none
    else if 0x2000 ≤ off ∧ off < 0x3000 then some (pgTenCip t.val + (off - 0x2000))
    else some (vfBase t.val + off)
  | _ => if off < 0x4000000 then some off else none

/-! ### Recording accesses that name nothing (R34, R176, R182) -/

/-- An unmapped access (R176). -/
def noteUnmapped (s : State) (via : Master) (a : Nat) (write : Bool) : State :=
  let s1 := if fbit (rd s (pgSys + Reg.PAGE_ERR)) 0 then s
    else wr (wr s (pgSys + Reg.SYS_UNMAPPED_ADDR) (w32 (a % 2 ^ 26))) (pgSys + Reg.SYS_UNMAPPED_SRC)
      (w32 (write.toNat + 2 * (decide (via = .maint)).toNat))
  bump (setErr s1 pgSys 0) (pgSys + Reg.SYS_UNMAPPED_CNT)

/-- A bit of VF_ERR with the address of the first access recorded (R182, R347). -/
def vfNote (s : State) (t off : Nat) (write : Bool) (n : Nat) : State :=
  let e := vfBase t + Reg.VF_ERR
  let f := vfBase t + Reg.VF_ERR_ADDR
  let s1 := wr s e (rd s e ||| w32 (2 ^ n))
  if fbit (rd s1 f) 31 then s1 else wr s1 f (w32 (off % 65536 + 65536 * write.toNat + 2 ^ 31))

/-- A bit of the CUS page's PAGE_ERR, and of CCH_ERR for an access to a custody channel page (R182, R361).
DEDUCED (log entry 45, unsafe). -/
def pf1Note (s : State) (off n : Nat) : State :=
  let s1 := setErr s pgCus n
  if 0x2000 ≤ off then
    let e := pgCch ((off - 0x2000) / 0x200) + Reg.CCH_ERR
    wr s1 e (rd s1 e ||| w32 (2 ^ n))
  else s1

/-- An access to a reserved range or an undefined offset (R24, R182, R549).
DEDUCED (log entry 35, unsafe). -/
def noteUndef (s : State) (via : Master) (off : Nat) (write : Bool) : State :=
  match via with
  | .pf1 => pf1Note s off 1
  | .vf t => vfNote s t.val off write 1
  | _ => match (busAddr via off).bind pageAt with
    | some p => if p.kind = .tenCip then setCpErr s p.inst 0 else s
    | none => s

/-- A write with partial byte enables is ignored and recorded (R34, R182).
DEDUCED (log entry 35, unsafe). DEDUCED (log entry 45, unsafe). -/
def partialWrite (s : State) (via : Master) (off : Nat) : State :=
  match via with
  | .pf1 => pf1Note s off 0
  | .vf t => vfNote s t.val off true 0
  | _ => match busAddr via off with
    | none => s
    | some a => match pageAt a with
      | some p => if p.kind = .tenCip then setCpErr s p.inst 0 else setErr s p.base (partialBit p.kind)
      | none => if target a = .unmapped then noteUnmapped s via a true else setErr s pgSys 2

/-! ### Reads -/

/-- The bits of a register that a read shows. -/
def RegRow.readable (r : RegRow) : Word := r.rw ||| r.once ||| r.rdclr ||| r.w1c ||| r.ro

/-- SYS_ERR_SUMMARY (R159). -/
def summaryWord (s : State) : Nat :=
  (List.range 0x189).foldl (fun a n => match pageAt (0x1000 * n) with
    | none => a
    | some p => match summaryBit p with
      | none => a
      | some b => a + 2 ^ b * (errSummary s p.base).toNat) 0

/-- Registers whose value is computed from the state, each page by its chapter. -/
def pageView (s : State) (p : PageAt) (off : Nat) : Option Word :=
  match p.kind with
  | .sys => viewSys s off | .tck => viewTck s off | .tms => viewTms s off | .pwr => viewPwr s off
  | .red => viewRed s off | .alm => viewAlm s off | .evc => viewEvc s .shared off
  | .hif0 => viewHif0 s off | .hif1 => viewHif1 s off
  | .mem => viewMem s p.inst off | .ecc => viewEcc s off
  | .mac => viewMac s p.inst off | .cbp => viewCbp s off | .pcs => viewPcs s p.inst off
  | .qmg => viewQmg s off | .dma => viewDma s off | .ten => viewTen s off | .mbx => viewMbx s off
  | .sch => viewSch s off | .crt => viewCrt s off
  | .slPip => viewPip s off | .slTbl => viewTbl s p.slice off | .slCip => viewCip s p.slice off
  | .slCrt => viewSlCrt s p.slice off | .slEvc => viewEvc s (.slice p.slice) off
  | .slQmg => viewSlQmg s p.slice off | .slDma => viewSlDma s p.slice off | .slRed => viewSelf s p.slice off
  | .cus => viewCus s off | .cch => viewCch s p.inst off
  | .vfStat => viewVfStat s p.inst off | .tenCip => viewTenCip s p.inst off
  | .vfMbx => viewVfMbx s p.inst off | .vfQv => viewQv s p.inst off
  | _ => none

/-- PAGE_ID and PAGE_CAP of a block page (R153 to R155).
DESIGN CHOICE (log entry 24, unsafe). -/
def pageIdent (p : PageAt) (off : Nat) : Option Word :=
  if !p.kind.isBlock then none
  else if off = Reg.PAGE_ID then some (w32 (65536 * p.kind.code + 256 * p.inst + 1))
  else if off = Reg.PAGE_CAP then some (flagAt p.kind.hasCmd 31 ||| flagAt p.kind.hasEvents 30)
  else none

/-- What a register shows. -/
def regValue (s : State) (p : PageAt) (off : Nat) (r : RegRow) : Word :=
  match pageIdent p off with
  | some w => w
  | none => ((pageView s p off).getD (rd s (p.base + off))) &&& r.readable

/-- The value of the field that begins in a lower-addressed register and spans two (R22). -/
def wideValue (s : State) (p : PageAt) (off : Nat) : Option Nat :=
  let at_ (o v : Nat) : Option Nat := if off = o then some v else none
  let kept (o : Nat) : Option Nat := at_ o (rdWide s (p.base + off))
  let stat (n : Nat) : Option Nat :=
    if 0x400 ≤ off ∧ off < 0x400 + 8 * n ∧ off % 8 = 0 then some (rdWide s (p.base + off)) else none
  match p.kind with
  | .sys => at_ Reg.SYS_ERR_SUMMARY_LO (summaryWord s)
  | .tms => kept Reg.TMS_PPS_IN_LO
  | .tck => (at_ Reg.TCK_COUNT_LO s.tck.tick).orElse (fun _ => (at_ Reg.TCK_LAST_OLD_LO s.tck.lastOld).orElse (fun _ =>
      at_ Reg.TCK_ARM_TICK_LO (if s.tck.armed then planActivation (shadowBank s) else 0)))
  | .pwr => at_ Reg.PWR_ENERGY_LO (s.gov.total / 1000000)
  | .red => at_ Reg.RED_EQX_NEXT_LO (eqxNext s)
  | .dma => kept Reg.DMA_HALT_ADDR_LO
  | .ecc => kept Reg.ECC_FLIP_ADDR_LO
  | .mac =>
    let x := getPort s p.inst
    (at_ Reg.MAC_GCL_ACT_LO (if x.armed.isEmpty then x.operA else x.armA)).orElse (fun _ => stat 44)
  | .cbp => stat 26
  | .pcs => (kept Reg.PCS_FEC_CORR_LO).orElse (fun _ => kept Reg.PCS_FEC_UNCORR_LO)
  | .evc | .slEvc =>
    if 0x200 ≤ off ∧ off < 0x400 ∧ off % 8 = 0 then some (rdWide s (p.base + off)) else none
  | _ => none

/-- Further registers that a read captures (R87, R122).
DEDUCED (log entry 40, unsafe). -/
def captureMore (s : State) (p : PageAt) (off : Nat) : State :=
  if p.kind = .tms ∧ off = Reg.TMS_TIME_NS then
    let sec := ptpNs s.time.ptp / 10 ^ 9
    wrMany s (pgTms + Reg.TMS_TIME_SEC_LO)
      [lo32 sec, w32 (sec / 2 ^ 32 % 65536), w32 (s.time.ptp % ptpPerNs / 10 ^ 12)]
  else if p.kind = .tck ∧ off = Reg.TCK_LAST_OLD_LO then
    wrMany s (pgTck + Reg.TCK_LAST_NEW_LO) [lo32 s.tck.lastNew, hi32 s.tck.lastNew]
  else s

/-- The last word of an index and data pair, and its index register (R105, R135, R405). -/
def indexOf (k : PageKind) (off : Nat) : Option (Nat × Nat) :=
  if k = .tck ∧ off = Reg.TCK_PLAN_DATA then some (Reg.TCK_PLAN_INDEX, 527)
  else if k = .pwr ∧ off = Reg.PWR_COEF_DATA then some (Reg.PWR_COEF_INDEX, 143)
  else if k = .mac ∧ off = Reg.MAC_GCL_DATA then some (Reg.MAC_GCL_INDEX, 255)
  else none

/-- The index moves to the next word, and stays at the last (R105). -/
def advanceIndex (s : State) (p : PageAt) (off : Nat) : State :=
  match indexOf p.kind off with
  | none => s
  | some (x, last) =>
    let i := (rd s (p.base + x)).toNat
    if i < last then wr s (p.base + x) (w32 (i + 1)) else s

/-- A read of a lock register: a free one is acquired (R172). -/
def lockRead (s : State) (sl : SliceId) (via : Master) : State × Word :=
  let a := pgTbl sl + Reg.TBL_BULK_LOCK
  if lockOwner s sl = 0 then (wr s a (w32 (ownerCode via)), 0) else (s, w32 (lockOwner s sl))

/-- Reads that change what they read, before it is read: event counters are brought up to date (R727).
DEDUCED (log entry 40, unsafe). -/
def beforeRead (s : State) (p : PageAt) : State :=
  if p.kind = .evc || p.kind = .slEvc then evcFlush s else s

/-- A read of a register: its value, and what the read does (R22, R28, R31, R172). -/
def regRead (s0 : State) (via : Master) (p : PageAt) (off : Nat) (r : RegRow) : State × Word :=
  if p.kind = .slTbl ∧ off = Reg.TBL_BULK_LOCK then lockRead s0 p.slice via
  else
    let s := beforeRead s0 p
    let a := p.base + off
    match wideValue s p off with
    | some v =>
      let s1 := captureMore (wr s (a + 4) (hi32 v)) p off
      let s2 := if r.rdclr ≠ 0 then wrWide s1 a 0 else s1
      let s3 := if p.kind = .tms then { s2 with time := { s2.time with ppsInNew := false } } else s2
      (s3, lo32 v)
    | none =>
      let held := decide (4 ≤ off) && (wideValue s p (off - 4)).isSome
      let s1 := if r.rdclr ≠ 0 && !held then wr s a (rd s a &&& ~~~r.rdclr) else s
      (advanceIndex (captureMore s1 p off) p off, regValue s p off r)

/-- A word of a shaper table or policer entry as read: kept values where hardware keeps them (R511, R535). -/
def entryRead (s : State) (police : Bool) (i k : Nat) : Word :=
  if police then (if 2 ≤ k ∧ k < 6 then policerWord s i k else rd s (winPolicer + 32 * i + 4 * k))
  else if 4 ≤ k then nodeWord s i k else rd s (winShaper + 32 * i + 4 * k)

/-- A read through a master's view, served: the word, and whether it lies in a poisoned block (R248). -/
def readAccess (s : State) (via : Master) (off : Nat) : State × Word × Bool :=
  match busAddr via off with
  | none => (s, 0, false)
  | some a => match target a with
    | .reg p o r => let x := regRead s via p o r; (x.1, x.2, false)
    | .twin _ _ _ => (s, 0, false)
    | .undef _ => (noteUndef s via off false, 0, false)
    | .record n k => (s, recWord s n k, false)
    | .shaper i k => (s, entryRead s false i k, false)
    | .policer i k => (s, entryRead s true i k, false)
    | .window w => (s, rd s w, edgePoisoned s w)
    | .unmapped => (noteUnmapped s via a false, 0, false)

/-! ### Page commands by code (R163 to R165) -/

/-- The row of a page's command table for a code; none for a code the page does not define. A management frame's
answer and a sweep's result come from outside and are free here.
DESIGN CHOICE (log entry 41, safe). -/
def cmdSpec (s : State) (p : PageAt) (code : Nat) : Option CmdSpec :=
  let pick (l : List CmdSpec) : Option CmdSpec := if code = 0 then none else l[code - 1]?
  match p.kind with
  | .sys => pick [specEnterService, specEnterTest, specExitTest, specDeviceReset]
  | .tck => pick [specCommitPeriod, specArmPlan, specDisarm]
  | .tms => pick [specSetTime, specStepTime, specSnapshot]
  | .pwr => pick [specLoadCoef, specRestoreDefault]
  | .red => pick [specEquinoxNow, specWithdraw, specReadmit]
  | .alm => pick [specErase pgAlm Master.isGlobal]
  | .cus => pick [specSealPolicy, specClearAlarm, specErase pgCus custodian]
  | .ten => pick [specLogStart, specLogStop]
  | .mac => pick [specGclArm p.inst, specGclDisarm p.inst, specGclOff p.inst]
  | .pcs => pick [specPcsEnable p.inst, specPcsDisable p.inst, specRetrain p.inst]
  | .cbp => pick [specCbpEnable, specCbpDisable, specMdioRead (Config.freeNat s.free % 65536), specMdioWrite]
  | .slTbl =>
    if (1 ≤ code ∧ code ≤ 7) ∨ (0x10 ≤ code ∧ code ≤ 0x14) ∨ code = 0x20 ∨ code = 0x21 then some (specTbl p.slice) else none
  | .slCip => pick [specFlushKeys p.slice, specWarmKeys p.slice]
  | .crt => pick [specOpenChannel, specCloseChannel, specWinSet, specWinClose]
  | .mem => pick [specMemConfig p.inst,
      specMemSweep p.inst (if Config.freeBool s.free then
        some (Config.freeByte s.free, Config.freeByte (s.free + 1)) else none),
      specMemStart p.inst, specMemRelease p.inst]
  | .slRed => pick [specInject p.slice]
  | .cch => pick [specOpen p.inst, specClose p.inst, specSubmit p.inst]
  | _ => none

/-- Has a page a command interface? -/
def PageAt.hasCmd (p : PageAt) : Bool := p.kind.hasCmd

/-- A write to PAGE_CMD.
DESIGN CHOICE (log entry 41, safe). -/
def cmdWrite (s : State) (via : Master) (p : PageAt) (w : Word) : State :=
  let spec := cmdSpec s p (fld w 7 0)
  issueCmd spec p.base (fld w 7 0) (fld w 31 24) via
    (if p.kind = .cbp || p.kind = .mem then { s with free := s.free + 2 } else s)

/-! ### Writes -/

/-- A field keeps its previous value where the new one is a reserved encoding (R25).
DEDUCED (log entry 36, unsafe). -/
def keepField (bad : Bool) (hi lo : Nat) (old new : Word) : Word := if bad then putFld new hi lo (fld old hi lo) else new

/-- A field must lie in a range.
DEDUCED (log entry 36, unsafe). -/
def inRange (hi lo least most : Nat) (old new : Word) : Word :=
  keepField (decide (fld new hi lo < least ∨ most < fld new hi lo)) hi lo old new

/-- Reserved encodings of register fields, by the chapters' register tables (R25). -/
def legalReg (k : PageKind) (off : Nat) (old new : Word) : Word :=
  match k with
  | .tck =>
    if off = Reg.TCK_PERIOD then inRange 3 0 0 11 old new
    else if off = Reg.TCK_LOCK_LIMIT then inRange 7 0 1 255 old new
    else if off = Reg.TCK_PLAN_INDEX then inRange 9 0 0 527 old new
    else new
  | .tms =>
    if off = Reg.TMS_PPS_OUT_WIDTH then inRange 19 0 1 999999 old new
    else if off = Reg.TMS_FREQ_ADJ then (if 100000000 < (sgn32 new).natAbs then old else new)
    else new
  | .pwr =>
    if off = Reg.PWR_ENVELOPE ∨ off = Reg.PWR_ENVELOPE_SHED then inRange 8 0 96 288 old new
    else if off = Reg.PWR_RAMP then inRange 15 0 1 65535 old (inRange 23 16 1 192 old new)
    else if off = Reg.PWR_COEF_INDEX then inRange 7 0 0 143 old new
    else new
  | .red =>
    if off = Reg.RED_EQX_PERIOD then (if fld new 16 0 = 0 then new else inRange 16 0 60 86400 old new)
    else if off = Reg.RED_EQX_HOLD ∨ off = Reg.RED_EQX_DEFER then inRange 15 0 1 65535 old new
    else if off = Reg.RED_EQX_DRAIN ∨ off = Reg.RED_UE_LIMIT then inRange 7 0 1 255 old new
    else new
  | .hif0 =>
    if off = Reg.HIF_CPL_TIMEOUT then inRange 5 0 10 49 old new
    else if off = Reg.HIF_TAG_LIMIT then inRange 9 0 1 768 old (inRange 25 16 0 256 old new)
    else new
  | .dma =>
    if off = Reg.DMA_RETRY then inRange 31 16 1 65535 old new
    else if 0x110 ≤ off ∧ off < 0x130 then (if off % 8 = 0 then inRange 16 0 64 81920 old new else inRange 16 0 0 81919 old new)
    else new
  | .pcs =>
    if off = Reg.PCS_MODE then inRange 3 0 0 10 old new
    else if 0x110 ≤ off ∧ off < 0x120 then inRange 4 0 0 16 old (inRange 12 8 0 24 old new)
    else new
  | .mac =>
    if off = Reg.MAC_FC then inRange 1 0 0 2 old new
    else if off = Reg.MAC_PFC_REFRESH then inRange 15 0 1 65535 old new
    else new
  | .cbp =>
    if off = Reg.CBP_PLCA then inRange 7 0 0 254 old (inRange 15 8 1 255 old new)
    else if off = Reg.CBP_PLCA_TO then inRange 7 0 1 255 old new
    else new
  | .slTbl =>
    if off = Reg.TBL_LIMIT_PORT ∨ off = Reg.TBL_LIMIT_FN then inRange 18 0 0 262144 old new
    else if off = Reg.TBL_DAMP then inRange 5 0 1 62 old new
    else new
  | .slCip =>
    if 0x100 ≤ off ∧ off < 0x120 then inRange 14 0 0 16384 old new
    else if 0x120 ≤ off ∧ off < 0x140 then inRange 16 0 0 81920 old new
    else new
  | .crt =>
    if off = Reg.CRT_CELL_LIMIT then inRange 16 0 64 81920 old new
    else if 0x200 ≤ off ∧ off < 0x300 ∧ off % 64 = 0 then inRange 6 4 0 5 old new
    else new
  | .mem =>
    if off = Reg.MEM_GEOM then inRange 1 0 0 2 old new
    else if off = Reg.MEM_DLY_INDEX then inRange 5 0 0 39 old new
    else new
  | .ecc => if off = Reg.ECC_FLIP_DRAM then inRange 11 8 0 9 old new else new
  | .cus =>
    if off = Reg.CUS_ALM_POLICY then
      [0, 2, 4, 6, 8].foldl (fun w k => inRange (k + 1) k 0 2 old w) (inRange 15 12 1 15 old new)
    else new
  | _ => new

/-- Writes that a rule records when it refuses the value: bad_adj (R78), bad_envelope (R144).
DEDUCED (log entry 38, unsafe). -/
def refusedValue (s : State) (k : PageKind) (off : Nat) (w : Word) : State :=
  if k = .tms ∧ off = Reg.TMS_FREQ_ADJ ∧ 100000000 < (sgn32 w).natAbs then setErr s pgTms 0
  else if k = .pwr ∧ (off = Reg.PWR_ENVELOPE ∨ off = Reg.PWR_ENVELOPE_SHED) ∧ (fld w 8 0 < 96 ∨ 288 < fld w 8 0) then
    setErr s pgPwr 0
  else s

/-- Is the block of a page committed, so that its RWC fields are kept (R29, R90, R647)?.
DEDUCED (log entry 37, unsafe). -/
def committed (s : State) (p : PageAt) : Bool :=
  match p.kind with
  | .tck => s.tck.committed
  | .mem => (getChan s p.inst).committed
  | .ecc => s.ecc.mapCommitted
  | _ => false

/-- Is a register locked while its port is enabled (R382, R421)?.
DEDUCED (log entry 37, unsafe). -/
def lockedReg (s : State) (p : PageAt) (off : Nat) : Bool :=
  match p.kind with
  | .pcs => (getPort s p.inst).enabled && decide (0x100 ≤ off ∧ off ≤ 0x10C)
  | .mac => (getPort s p.inst).enabled
      && decide (off = 0x100 ∨ 0x108 ≤ off ∧ off ≤ 0x128 ∨ 0x180 ≤ off ∧ off < 0x200 ∧ off % 16 ≠ 12)
  | .cbp => s.cbp.enabled && decide (0x100 ≤ off ∧ off ≤ 0x114 ∨ off = 0x11C)
  | _ => false

/-- A register written: RW and uncommitted RWC bits take the written value as far as it is legal, W1C bits are cleared
by 1, every other bit is kept (R25, R28, R29). A register of one W1C valid bit beside recorded fields is cleared
whole. -/
def merged (s : State) (p : PageAt) (off : Nat) (r : RegRow) (w : Word) : Word :=
  let old := rd s (p.base + off)
  let m := r.rw ||| (if committed s p then 0 else r.once)
  if r.w1c = 0x80000000 ∧ r.ro ≠ 0 then (if fbit w 31 then 0 else old)
  else legalReg p.kind off old ((old &&& ~~~m) ||| (w &&& m)) &&& ~~~(w &&& r.w1c)

/-- A plain write of a register that no rule treats apart. A mask that is lifted can raise a summary bit (R159,
R256), and an RWC write after the commit shows on a MEM page (R647).
DEDUCED (log entry 38, unsafe). DEDUCED (log entry 39, unsafe). -/
def plainWrite (s : State) (p : PageAt) (off : Nat) (r : RegRow) (w : Word) : State :=
  if lockedReg s p off then setErr s p.base 1
  else
    let s1 := refusedValue (wr s (p.base + off) (merged s p off r w)) p.kind off w
    let s2 := if p.kind = .mem ∧ r.once ≠ 0 ∧ committed s p then setErr s1 p.base 5 else s1
    if off = Reg.PAGE_ERR_MASK && p.kind.isBlock then summaryRise s s2 p.base else s2

/-- PAGE_ERR_FORCE: each PAGE_ERR bit named is set as if detected (R160). -/
def forceErr (s : State) (p : PageAt) (w : Word) : State :=
  let m := ((pageRow p.kind Reg.PAGE_ERR).map (·.w1c)).getD 0
  (List.range 32).foldl (fun s n => if fbit (w &&& m) n then setErr s p.base n else s) s

/-- A doorbell of function f that names queue n, if it names one. -/
def doorbell (s : State) (cr : Bool) (f : Nat) (n : Option Nat) (v : Nat) : State :=
  match n with
  | none => doorbellRefused s f
  | some n => if cr then crDoorbell s f n v else wqDoorbell s f n v

/-- A lock register written: the owner's 0 releases it (R173). -/
def lockWrite (s : State) (sl : SliceId) (via : Master) (w : Word) : State :=
  if w = 0 ∧ ownerCode via ≠ 0 ∧ lockOwner s sl = ownerCode via then wr s (pgTbl sl + Reg.TBL_BULK_LOCK) 0
  else setErr s (pgTbl sl) 2

/-- A word written through an index and data pair: ignored while its bank is barred, the index then unchanged (R105,
R107, R136, R405). -/
def dataWrite (s : State) (p : PageAt) (off : Nat) (w : Word) : State :=
  match p.kind with
  | .tck =>
    if s.tck.armed then setErr s pgTck 2
    else advanceIndex (putShadowPlan s (fld (rd s (pgTck + Reg.TCK_PLAN_INDEX)) 9 0) w) p off
  | .pwr =>
    if s.gov.loadPend then setErr s pgPwr 2
    else advanceIndex (putShadowCoef s (fld (rd s (pgPwr + Reg.PWR_COEF_INDEX)) 7 0) w) p off
  | _ =>
    if !(getPort s p.inst).armed.isEmpty then setErr s p.base 5
    else advanceIndex (wr s (gclKey p.inst (fld (rd s (p.base + Reg.MAC_GCL_INDEX)) 7 0)) w) p off

/-- TMS PAGE_CTL: a change of ref_sel is acted on at the next boundary (R79). -/
def refSelWrite (s : State) (p : PageAt) (r : RegRow) (w : Word) : State :=
  let old := fbit (rd s (pgTms + Reg.PAGE_CTL)) 0
  let s1 := plainWrite s p Reg.PAGE_CTL r w
  if old = fbit w 0 then s1 else { s1 with time := { s1.time with refSelect := some (fbit w 0) } }

/-- CUS_ALM_POLICY (R693). -/
def policyWrite (s : State) (w : Word) : State :=
  if s.vkeep.sealed then setErr s pgCus 5
  else if !s.vkeep.present then s
  else { s with vkeep := { s.vkeep with policy := legalReg .cus Reg.CUS_ALM_POLICY s.vkeep.policy (w &&& 0xF3FF) } }

/-- CRT registers that a rule guards, and the indexed ones (R579, R581, R583, R587). -/
def crtWrite (s : State) (p : PageAt) (off : Nat) (r : RegRow) (w : Word) : State :=
  let c := fld (rd s (pgCrt + Reg.CRT_CH_SEL)) 7 0
  let n := fld (rd s (pgCrt + Reg.CRT_WIN_SEL)) 5 0
  if 0x100 ≤ off ∧ off ≤ 0x108 then crtLockedWrite s (anyOpen s) (pgCrt + off) (merged s p off r w)
  else if 0x200 ≤ off ∧ off < 0x300 then crtLockedWrite s (peerInUse s ((off - 0x200) / 64)) (pgCrt + off) (merged s p off r w)
  else if Reg.CRT_CH_CFG0 ≤ off ∧ off ≤ Reg.CRT_CH_CFG2 then
    crtLockedWrite s (getCh s c).isOpen (crtCfg c ((off - Reg.CRT_CH_CFG0) / 4)) (w &&& r.rw)
  else if Reg.CRT_WIN_CTL ≤ off ∧ off ≤ Reg.CRT_WIN_SIZE_HI then wr s (crtStage n ((off - Reg.CRT_WIN_CTL) / 4)) (w &&& r.rw)
  else plainWrite s p off r w

/-- A manager's mailbox registers (R350). -/
def mbxWrite (s : State) (via : Master) (p : PageAt) (off : Nat) (r : RegRow) (w : Word) : State :=
  let k := mbxDirOf s via
  if off = Reg.MBX_TX_SEND then mbxSend s k (fld w 15 0)
  else if off = Reg.MBX_TX_STAT then mbxTxClear s k w
  else if off = Reg.MBX_RX_ACK then mbxAck s (mbxRxDirOf s via) w
  else if Reg.MBX_TX_DATA ≤ off ∧ off < Reg.MBX_TX_DATA + 64 then mbxBufferWrite s k ((off - Reg.MBX_TX_DATA) / 4) w
  else plainWrite s p off r w

/-- A tenant's mailbox registers (R349). -/
def vfMbxWrite (s : State) (p : PageAt) (off : Nat) (r : RegRow) (w : Word) : State :=
  let k := fromTenant p.inst
  if off = Reg.MB_TX_SEND then mbxSend s k (fld w 15 0)
  else if off = Reg.MB_TX_STAT then mbxTxClear s k w
  else if off = Reg.MB_RX_ACK then mbxAck s (toTenant p.inst) w
  else if off < Reg.MB_TX_DATA + 64 then mbxBufferWrite s k (off / 4) w
  else plainWrite s p off r w

/-- A tenant cipher page (R545 to R550): CP_SLOTS is read-only to the tenant. -/
def tenCipWrite (s : State) (via : Master) (p : PageAt) (off : Nat) (r : RegRow) (w : Word) : State :=
  if Reg.CP_SA ≤ off then saWrite s p.inst ((off - Reg.CP_SA) / 64) (off % 64 / 4) w
  else if off = Reg.CP_SLOTS ∧ !Master.isGlobal via then s
  else plainWrite s p off r w

/-- ECC registers (R639, R644): writing 1 to bit 0 of ECC_LOG0 frees the entry shown. -/
def eccWrite (s : State) (p : PageAt) (off : Nat) (r : RegRow) (w : Word) : State :=
  if off = Reg.ECC_FLIP_SEL then flipSelWrite s w
  else if off = Reg.ECC_LOG0 then
    (if fbit w 0 then putLog s (fld (rd s (pgEcc + Reg.ECC_LOG_SEL)) 4 0) none else s)
  else plainWrite s p off r w

/-- MEM registers that name an entry through an index (R645, R648). -/
def memWrite (s : State) (p : PageAt) (off : Nat) (r : RegRow) (w : Word) : State :=
  if off = Reg.MEM_RETIRE_DATA then retireWrite s p.inst w
  else if off = Reg.MEM_DLY_DATA then
    (if committed s p then setErr s p.base 5
    else wr s (memDelay p.inst (fld (rd s (p.base + Reg.MEM_DLY_INDEX)) 5 0)) (w &&& 0xFFFFFF))
  else plainWrite s p off r w

/-- EVC PAGE_CTL: a counter page unfrozen forgets that an overflow froze it (R729). -/
def evcWrite (s : State) (p : PageAt) (off : Nat) (r : RegRow) (w : Word) : State :=
  let s1 := plainWrite s p off (if off = Reg.PAGE_CTL ∧ p.kind = .slEvc then { r with rw := 1 } else r) w
  if off = Reg.PAGE_CTL ∧ !fbit w 0 then
    wr s1 (p.base + Reg.PAGE_STAT) (rd s1 (p.base + Reg.PAGE_STAT) &&& 0xFFFFFFFD)
  else s1

/-- A write to a register, whatever its kind. -/
def regWrite (s : State) (via : Master) (p : PageAt) (off : Nat) (r : RegRow) (w : Word) : State :=
  if p.hasCmd && off == Reg.PAGE_CMD then cmdWrite s via p w
  else if p.kind.isBlock && off == Reg.PAGE_ERR_FORCE then forceErr s p w
  else if (indexOf p.kind off).isSome then dataWrite s p off w
  else match p.kind with
  | .tms => if off = Reg.PAGE_CTL then refSelWrite s p r w else plainWrite s p off r w
  | .qmg =>
    if off = Reg.QMG_DB_WQ then doorbell s false 0 (some (fld w 13 0)) (fld w 31 16)
    else if off = Reg.QMG_DB_CR then doorbell s true 0 (some (fld w 13 0)) (fld w 31 16)
    else plainWrite s p off r w
  | .cus =>
    if off = Reg.CUS_DB_WQ then doorbell s false 1 (some (fld w 13 0)) (fld w 31 16)
    else if off = Reg.CUS_DB_CR then doorbell s true 1 (some (fld w 13 0)) (fld w 31 16)
    else if off = Reg.CUS_ALM_POLICY then policyWrite s w
    else plainWrite s p off r w
  | .vfDb =>
    doorbell s (off % 8 == 4) (2 + p.inst) (tenantRec s p.inst (off / 8)) (fld w 15 0)
  | .mbx => mbxWrite s via p off r w
  | .vfMbx => vfMbxWrite s p off r w
  | .tenCip => tenCipWrite s via p off r w
  | .crt => crtWrite s p off r w
  | .ecc => eccWrite s p off r w
  | .mem => memWrite s p off r w
  | .evc => evcWrite s p off r w
  | .slEvc => evcWrite s p off r w
  | .ten => if 0x200 ≤ off ∧ off < 0x300 ∧ off % 16 = 4 then logCiWrite s ((off - 0x200) / 16) w else plainWrite s p off r w
  | .sch =>
    if off = Reg.SCH_SPILL_BASE ∨ off = Reg.SCH_SPILL_SLOT then spillCfgWrite s off (w &&& r.rw) else plainWrite s p off r w
  | .slTbl =>
    if off = Reg.TBL_BULK_LOCK then lockWrite s p.slice via w
    else if off = Reg.TBL_SEED_A ∨ off = Reg.TBL_SEED_B then seedWrite s p.slice off w
    else plainWrite s p off r w
  | .alm =>
    if off = Reg.ALM_SRC_LATCH then { s with vkeep := { s.vkeep with latch := s.vkeep.latch &&& ~~~w } }
    else plainWrite s p off r w
  | _ => plainWrite s p off r w

/-- A write through the set or clear alias: as a plain write of the resulting value, the bits of other types as 0
(R161, R162). -/
def aliasWrite (s : State) (via : Master) (p : PageAt) (off : Nat) (set : Bool) (w : Word) : State :=
  match rowAt p.kind off with
  | none => s
  | some r =>
    let m := r.rw ||| r.once
    if m = 0 then s
    else
      let old := regValue s p off r &&& m
      regWrite s via p off r (if set then old ||| (w &&& m) else old &&& ~~~w)

/-- Is a write performed in recovery (R189)?.
DEDUCED (log entry 34, unsafe). -/
def recoveryWrite (s : State) (via : Master) (t : Target) : Bool :=
  let named (p : PageAt) (off : Nat) : Bool :=
    p.kind == .sys
      || (p.kind.isBlock && [Reg.PAGE_ERR, Reg.PAGE_ERR_FIRST, Reg.PAGE_SCRATCH].contains off)
      || (p.kind == .vfStat && [Reg.VF_ERR, Reg.VF_ERR_ADDR, Reg.VF_SCRATCH].contains off)
      || (p.kind == .tenCip && [Reg.CP_ERR, Reg.CP_SA_ERR].contains off)
      || (p.kind == .cch && off == Reg.CCH_ERR)
      || (p.kind == .slTbl && off == Reg.TBL_BULK_LOCK && lockOwner s p.slice == ownerCode via && ownerCode via != 0)
      || (p.hasCmd && decide (Reg.PAGE_CMD ≤ off ∧ off < Reg.CMD_RESULT))
  match t with
  | .reg p off _ => named p off
  | .twin p off _ => named p off
  | _ => false

/-- A whole word written through a master's view, served.
DEDUCED (log entry 34, unsafe). -/
def writeAccess (s : State) (via : Master) (off : Nat) (w : Word) : State :=
  match busAddr via off with
  | none => s
  | some a =>
    let t := target a
    let s1 := match t with
      | .undef _ => noteUndef s via off true
      | .unmapped => noteUnmapped s via a true
      | _ => s
    if s.power.phase = .recovery && !recoveryWrite s via t then
      (if !Master.isGlobal via && (match t with | .undef _ => true | _ => false) then s1 else setErr s1 pgSys 3)
    else match t with
      | .reg p o r => regWrite s1 via p o r w
      | .twin p o set => aliasWrite s1 via p o set w
      | .record n k => recordWrite s1 n k w
      | .shaper i k => shaperWrite s1 i k w
      | .policer i k => policerWrite s1 i k w
      | .window x => windowWrite s1 x w
      | .undef _ => s1
      | .unmapped => s1

end Sys2Proof.Machine
end

