-- ==== Sys2Proof/Machine/HostAccess.lean ====
section
/-! DEFINITION. The rows that are accesses: by a register's kind, through the host's BARs, to the DRAM window and to the
tables. A row that names a kind of register has no effect at an address of another kind. -/
namespace Sys2Proof.Machine

/-- TLPs sent with EP set are counted (R247, R248). -/
def poisonTx (s : State) (n : Nat) : State := bumpBy s (pgHif 0 + Reg.HIF_POISON_TX_CNT) n

/-- Is a master a function of the host, answered over PCIe? -/
def onPcie : Master → Bool
  | .maint | .sync => false
  | .pf0 | .pf1 | .vf _ => true

/-- A word read through a master's view and answered (R28, R188, R248). -/
def readServed (s : State) (via : Master) (off : Nat) : State :=
  if served s via false then
    let r := readAccess s via off
    emit (poisonTx r.1 (r.2.2 && onPcie via).toNat) (.readData via r.2.1 r.2.2)
  else s

/-- A whole word written through a master's view (R171, R188). -/
def writeServed (s : State) (via : Master) (off : Nat) (w : Word) : State :=
  if served s via true then writeAccess s via off w else s

/-- An access of one word: a write, or a read. -/
def accessServed (s : State) (via : Master) (off : Nat) (w : Option Word) : State :=
  match w with
  | none => readServed s via off
  | some v => writeServed s via off v

/-- What a master's offset names; an offset outside its view names nothing. -/
def targetOf (via : Master) (off : Nat) : Option Target := (busAddr via off).map target

/-! ### Registers -/

/-- REGISTER_WRITE. -/
def execRegisterWrite (via : Master) (addr : Nat) (w : Word) (s : State) : Host.Outcome State Fault Refusal :=
  .next (writeServed s via addr w)

/-- RC_FIELD_READ (R28, R31, R32).
DESIGN CHOICE (log entry 33, safe). -/
def execRcFieldRead (via : Master) (addr : Nat) (s : State) : Host.Outcome State Fault Refusal :=
  .next (readServed s via addr)

/-- CAPTURE_READ (R22). -/
def execCaptureRead (via : Master) (addr : Nat) (s : State) : Host.Outcome State Fault Refusal :=
  .next (readServed s via addr)

/-- TMS_PPS_IN_READ (R86). -/
def execTmsPpsInRead (via : Master) (s : State) : Host.Outcome State Fault Refusal :=
  .next (readServed s via (pgTms + Reg.TMS_PPS_IN_LO))

/-- UNDEFINED_COMMAND_CODE (R165): `addr` lies in the page; a code the page defines is another row's. -/
def execUndefinedCommandCode (via : Master) (addr : Nat) (code seq : Byte) (s : State) :
    Host.Outcome State Fault Refusal :=
  match (busAddr via addr).bind pageAt with
  | none => .next s
  | some p =>
    if served s via true && p.hasCmd && (cmdSpec s p code.toNat).isNone then
      .next (issueCmd none p.base code.toNat seq.toNat via s)
    else .next s

/-- PAGE_ERR_FORCE_WRITE (R160): `page` is the page's base in the master's view. -/
def execPageErrForceWrite (via : Master) (page : Nat) (w : Word) (s : State) : Host.Outcome State Fault Refusal :=
  .next (writeServed s via (page + Reg.PAGE_ERR_FORCE) w)

/-- SET_ALIAS_WRITE (R161, R162): `addr` is the alias's own address. -/
def execSetAliasWrite (via : Master) (addr : Nat) (w : Word) (s : State) : Host.Outcome State Fault Refusal :=
  match targetOf via addr with
  | some (.twin _ _ true) => .next (writeServed s via addr w)
  | _ => .next s

/-- CLEAR_ALIAS_WRITE (R161, R162). -/
def execClearAliasWrite (via : Master) (addr : Nat) (w : Word) (s : State) : Host.Outcome State Fault Refusal :=
  match targetOf via addr with
  | some (.twin _ _ false) => .next (writeServed s via addr w)
  | _ => .next s

/-- LOCK_READ (R172). -/
def execLockRead (via : Master) (sl : SliceId) (s : State) : Host.Outcome State Fault Refusal :=
  .next (if Master.isGlobal via then readServed s via (pgTbl sl + Reg.TBL_BULK_LOCK) else s)

/-- LOCK_RELEASE (R173). -/
def execLockRelease (via : Master) (sl : SliceId) (w : Word) (s : State) : Host.Outcome State Fault Refusal :=
  .next (if Master.isGlobal via then writeServed s via (pgTbl sl + Reg.TBL_BULK_LOCK) w else s)

/-- TCK_PLAN_DATA_ACCESS (R105, R107). -/
def execTckPlanDataAccess (via : Master) (w : Option Word) (s : State) : Host.Outcome State Fault Refusal :=
  .next (if Master.isGlobal via then accessServed s via (pgTck + Reg.TCK_PLAN_DATA) w else s)

/-- PWR_COEF_DATA_ACCESS (R135, R136). -/
def execPwrCoefDataAccess (via : Master) (w : Option Word) (s : State) : Host.Outcome State Fault Refusal :=
  .next (if Master.isGlobal via then accessServed s via (pgPwr + Reg.PWR_COEF_DATA) w else s)

/-- MAC_GCL_DATA_ACCESS (R405). -/
def execMacGclDataAccess (via : Master) (p : Fin 6) (w : Option Word) (s : State) : Host.Outcome State Fault Refusal :=
  .next (if Master.isGlobal via then accessServed s via (pgMac p.val + Reg.MAC_GCL_DATA) w else s)

/-- PARTIAL_WRITE (R34, R182). -/
def execPartialWrite (via : Master) (addr : Nat) (s : State) : Host.Outcome State Fault Refusal :=
  .next (if served s via true then partialWrite s via addr else s)

/-- UNMAPPED_ACCESS (R176). -/
def execUnmappedAccess (via : Master) (addr : Nat) (w : Option Word) (s : State) : Host.Outcome State Fault Refusal :=
  match targetOf via addr with
  | some .unmapped => .next (accessServed s via addr w)
  | _ => .next s

/-- UNDEFINED_OFFSET_ACCESS (R24, R182). -/
def execUndefinedOffsetAccess (via : Master) (addr : Nat) (w : Option Word) (s : State) :
    Host.Outcome State Fault Refusal :=
  match targetOf via addr with
  | some (.undef _) => .next (accessServed s via addr w)
  | _ => .next s

/-! ### Doorbells, records, windows and entries -/

/-- Where a master's doorbell for queue q lies, and the word that carries index v (R278). -/
def doorbellWord (via : Master) (cr : Bool) (q v : Nat) : Nat × Word :=
  let n := cr.toNat * 4
  match via with
  | .vf _ => (0x1000 + 8 * (q % 64) + n, w32 (v % 65536))
  | .pf1 => (Reg.CUS_DB_WQ + n, w32 (q % 16384 + 65536 * (v % 65536)))
  | _ => (pgQmg + Reg.QMG_DB_WQ + n, w32 (q % 16384 + 65536 * (v % 65536)))

/-- WQ_DOORBELL (R278 to R280).
DESIGN CHOICE (log entry 33, safe). -/
def execWqDoorbell (via : Master) (q v : Nat) (s : State) : Host.Outcome State Fault Refusal :=
  let d := doorbellWord via false q v
  .next (writeServed s via d.1 d.2)

/-- CR_DOORBELL (R278 to R280). -/
def execCrDoorbell (via : Master) (q v : Nat) (s : State) : Host.Outcome State Fault Refusal :=
  let d := doorbellWord via true q v
  .next (writeServed s via d.1 d.2)

/-- RECORD_VALIDATE: bytes 60–63 written with valid = 1 (R271). -/
def execRecordValidate (via : Master) (n : Fin 16384) (w : Word) (s : State) : Host.Outcome State Fault Refusal :=
  .next (if Master.isGlobal via && fbit w 0 then writeServed s via (winQueue + 64 * n.val + 60) w else s)

/-- RECORD_INVALIDATE: bytes 60–63 written with valid = 0 (R272). -/
def execRecordInvalidate (via : Master) (n : Fin 16384) (w : Word) (s : State) : Host.Outcome State Fault Refusal :=
  .next (if Master.isGlobal via && !fbit w 0 then writeServed s via (winQueue + 64 * n.val + 60) w else s)

/-- WINDOW_WRITE (R469). -/
def execWindowWrite (via : Master) (addr : Nat) (w : Word) (s : State) : Host.Outcome State Fault Refusal :=
  match targetOf via addr with
  | some (.window _) => .next (writeServed s via addr w)
  | _ => .next s

/-- SHAPER_ENTRY_WRITE (R512). -/
def execShaperEntryWrite (via : Master) (addr : Nat) (w : Word) (s : State) : Host.Outcome State Fault Refusal :=
  match targetOf via addr with
  | some (.shaper _ _) => .next (writeServed s via addr w)
  | _ => .next s

/-- POLICER_ENTRY_WRITE (R535). -/
def execPolicerEntryWrite (via : Master) (addr : Nat) (w : Word) (s : State) : Host.Outcome State Fault Refusal :=
  match targetOf via addr with
  | some (.policer _ _) => .next (writeServed s via addr w)
  | _ => .next s

/-- Where a master finds bytes 0–3 of association a of tenant t, if it reaches them (R181, R549). -/
def saOffset (via : Master) (t a : Nat) : Option Nat :=
  match via with
  | .vf u => if u.val = t then some (0x2800 + 64 * a) else none
  | .pf1 => none
  | _ => some (saBase t a)

/-- SA_VALIDATE: bytes 0–3 of an association written with valid = 1 (R546). -/
def execSaValidate (via : Master) (t : Fin 1024) (a : Fin 32) (w : Word) (s : State) : Host.Outcome State Fault Refusal :=
  match saOffset via t.val a.val with
  | none => .next s
  | some o => .next (if fbit w 0 then writeServed s via o w else s)

/-- SA_INVALIDATE: bytes 0–3 of an association written with valid = 0 (R547). -/
def execSaInvalidate (via : Master) (t : Fin 1024) (a : Fin 32) (w : Word) (s : State) :
    Host.Outcome State Fault Refusal :=
  match saOffset via t.val a.val with
  | none => .next s
  | some o => .next (if fbit w 0 then s else writeServed s via o w)

/-- FLIP_ARM: ECC_FLIP_SEL written with armed = 1 (R644). -/
def execFlipArm (via : Master) (w : Word) (s : State) : Host.Outcome State Fault Refusal :=
  .next (if Master.isGlobal via && fbit w 16 then writeServed s via (pgEcc + Reg.ECC_FLIP_SEL) w else s)

/-- RETIRE_ENTRY_WRITE (R645). -/
def execRetireEntryWrite (via : Master) (n : Fin 4) (w : Word) (s : State) : Host.Outcome State Fault Refusal :=
  .next (if Master.isGlobal via then writeServed s via (pgMem n.val + Reg.MEM_RETIRE_DATA) w else s)

/-! ### The DRAM window, PF0 BAR 2 (R177 to R179, R243, R245, R247) -/

/-- Is a BAR of a function reached by memory requests now (R188, R204, R244, R260)? -/
def barServed (s : State) (f : Nat) : Bool := barOpen s && fnExists s f && !inD3 s f && memEnabled s f

/-- DRAM address of an offset of the window (R177). -/
def windowAddr (s : State) (off : Nat) : Nat := fld (rd s (pgSys + Reg.SYS_APERTURE)) 11 0 * 2 ^ 26 + off

/-- A range outside configured DRAM shows in SYS (R179). -/
def noteAperture (s : State) (a len : Nat) : State := if dramRange s a len then s else setErr s pgSys 1

/-- The completions of a window read: each carries at most Max_Payload_Size, ends at a 64-byte boundary unless it ends
the request, and holds poisoned blocks only or none (R243, R247). -/
def completions (m : Nat) : Nat → Nat → List (Byte × Bool) → List Out
  | 0, _, _ => []
  | fuel + 1, a, l =>
    if l.isEmpty then []
    else
      let n := writeLen m a l m
      completions m fuel (a + n) (l.drop n) ++ [.completion 0 ((l.take n).map (·.1)) ((l.take n).any (·.2))]

/-- Is it a completion with EP set? -/
def Out.poisoned : Out → Bool
  | .completion _ _ ep => ep
  | _ => false

/-- A window read is answered. -/
def bar2Read (s : State) (off len : Nat) : State :=
  let a := windowAddr s off
  let r := dramRead 3 (blocksOf a len) (noteAperture s a len) a len
  let l := completions (mps s 0) (blocksOf a len) a r.2
  let s1 := poisonTx r.1 (l.filter Out.poisoned).length
  { s1 with out := l ++ s1.out }

/-- A window write: ignored in recovery (R189); data received with EP poisons every block it touches (R245). -/
def bar2Write (s : State) (off : Nat) (data : List (Option Byte)) (ep : Bool) : State :=
  let a := windowAddr s off
  let s1 := if ep then poisonedRx s 0 true else s
  if s.power.phase = .recovery then setErr s1 pgSys 3
  else dramWrite 3 (blocksOf a data.length) (noteAperture s1 a data.length) a (data.map (fun b => (b, ep)))

/-- BAR2_READ. -/
def execBar2Read (off len : Nat) (s : State) : Host.Outcome State Fault Refusal :=
  .next (if barServed s 0 && decide (0 < len ∧ off + len ≤ 2 ^ 26) then bar2Read s off len else s)

/-- BAR2_WRITE. -/
def execBar2Write (off : Nat) (data : List (Option Byte)) (ep : Bool) (s : State) : Host.Outcome State Fault Refusal :=
  .next (if barServed s 0 && !inFlr s 0 && decide (0 < data.length ∧ off + data.length ≤ 2 ^ 26) then
      bar2Write s off data ep
    else s)

/-! ### Memory requests of the host (R242 to R245) -/

/-- The master a function is. -/
def fnMaster (f : Nat) : Master :=
  if f = 0 then .pf0 else if f = 1 then .pf1 else .vf ⟨(f - 2) % 1024, Nat.mod_lt _ (by decide)⟩

/-- Bytes of a BAR, 0 for one the function lacks (R229); a VF's BAR 4 takes one system page (R234). -/
def barSize (s : State) (f bar : Nat) : Nat :=
  if bar = 0 then (if f = 0 then 2 ^ 26 else if f = 1 then 2 ^ 14 else 2 ^ 16)
  else if bar = 2 ∧ f = 0 then 2 ^ 26
  else if bar = 4 then (if f = 0 then 2 ^ 16 else if f = 1 then 2 ^ 12 else 4096 * (cfgRd s 0 0x170).toNat)
  else 0

/-- A word of a register BAR or of BAR 4 read. -/
def barRead (s : State) (f bar off : Nat) : State × Word × Bool :=
  if bar = 4 then (s, bar4Read s f off, false) else readAccess s (fnMaster f) off

/-- A word written under byte enables: whole, or partial (R34, R230). -/
def barWrite (s : State) (f bar off be : Nat) (w : Word) : State :=
  if bar = 4 then
    (if be % 16 ≠ 15 then s else if s.power.phase = .recovery then setErr s pgSys 3 else bar4Write s f off w)
  else if be % 16 = 15 then writeAccess s (fnMaster f) off w
  else partialWrite s (fnMaster f) off

/-- A read of one or two words, answered by one completion (R242).
DEDUCED (log entry 43, unsafe). -/
def barReads (s : State) (f bar off len : Nat) : State :=
  let r := barRead s f bar off
  if len = 4 then emit (poisonTx r.1 r.2.2.toNat) (.completion 0 (wordBytes r.2.1) r.2.2)
  else
    let q := barRead r.1 f bar (off + 4)
    emit (poisonTx q.1 (r.2.2 || q.2.2).toNat) (.completion 0 (wordBytes r.2.1 ++ wordBytes q.2.1) (r.2.2 || q.2.2))

/-- A write of one or two words, the lower address first (R242).
DEDUCED (log entry 43, unsafe). -/
def barWrites (s : State) (f bar off len be : Nat) (l : List Byte) : State :=
  let s1 := barWrite s f bar off be (w32 (leAt l 0 4))
  if len = 4 then s1 else barWrite s1 f bar (off + 4) (be / 16) (w32 (leAt l 4 4))

/-- The function in which an ECRC error of a received request shows: the one addressed, PF0 where there is none (R253,
R254). -/
def ecrcFn (s : State) (f : Nat) : Nat := if fnExists s f then f else 0

/-- HOST_MEMORY_REQUEST (R242, R244, R245, R253): `be` holds the byte enables from the first byte on, `ecrcBad` says that
the TLP's ECRC is wrong. A refused read is completed with UR (1) or CA (4).
DESIGN CHOICE (log entry 31, safe). -/
def execHostMemoryRequest (fn : Fin 1026) (bar : Fin 6) (off len : Nat) (be : Nat) (data : Option (List Byte))
    (ep ecrcBad : Bool) (s : State) : Host.Outcome State Fault Refusal :=
  let f := fn.val
  let b := bar.val
  let refuse (t : State) (st : Nat) : State := if data.isNone then emit t (.completion st [] false) else t
  if !cfgReach s then .next s
  else if ecrcBad && ecrcChecked s (ecrcFn s f) then .next (ecrcError s (ecrcFn s f))
  else if !s.power.bringupDone then .next (refuse (unsupported s f false) 1)
  else if !fnExists s f then .next (refuse (unsupported s 0 false) 1)
  else if inD3 s f then .next (refuse (unsupported s f true) 1)
  else if !memEnabled s f || decide (len = 0 ∨ barSize s f b < off + len) then .next (refuse (unsupported s f false) 1)
  else if b = 2 then
    match data with
    | none => .next (bar2Read s off len)
    | some l => if inFlr s f then .next s else
      .next (bar2Write s off ((List.range len).map (fun i => if nbit be i then some (l.getD i 0) else none)) ep)
  else if data.isSome && ep then .next (poisonedRx s f false)
  else if !(decide (len = 4 ∧ off % 4 = 0) || decide (len = 8 ∧ off % 8 = 0)) then .next (refuse (completerAbort s f) 4)
  else match data with
  | none => .next (barReads s f b off len)
  | some l => if inFlr s f then .next s else .next (barWrites s f b off len be l)

end Sys2Proof.Machine
end

