-- ==== Sys2Proof/Machine/Maint.lean ====
section
/-! DEFINITION. The maintenance port's frames (R183 to R187) and the JTAG port (R756). -/
namespace Sys2Proof.Machine

/-! ### Maintenance port -/

/-- Bytes of a request, its crc included, by its opcode byte (R186). -/
def maintLen (frame : List Byte) : Nat := if frame.head? = some 2 then 10 else 6

/-- A request with its crc (R183, R184). -/
def maintFrame (b : List Byte) : List Byte := b ++ [BitVec.ofNat 8 (crc8 b)]

/-- A response: header 0xA0 + status, the word for a read, crc; the fillers before it are timing (R183, R185). -/
def maintResponse (status : Nat) (w : Option Word) : List Byte :=
  maintFrame (BitVec.ofNat 8 (0xA0 + status) :: (match w with
    | none => []
    | some v => beBytes 4 v.toNat))

/-- A complete request is performed: the state after it and the response. During bring-up it is answered BUSY and not
performed (R188); a bad crc, opcode or address is answered BAD_ARG (R186). The data of a read is 0 unless it is OK.
DEDUCED (log entry 42, unsafe). -/
def maintServe (s : State) (f : List Byte) : State × List Byte :=
  let op := (f.getD 0 0).toNat
  let a := beAt f 1 4
  let n := maintLen f
  let data (v : Word) : Option Word := if op = 1 then some v else none
  if !s.power.bringupDone then (s, maintResponse stBUSY (data 0))
  else if f.take n ≠ maintFrame (f.take (n - 1)) ∨ (op ≠ 1 ∧ op ≠ 2) ∨ a % 4 ≠ 0 ∨ 0x4000000 ≤ a then
    (s, maintResponse stBAD_ARG (data 0))
  else if op = 1 then
    let r := readAccess s .maint a
    (r.1, maintResponse stOK (some r.2.1))
  else (writeAccess s .maint a (w32 (beAt f 5 4)), maintResponse stOK none)

/-- A request clocked in whole and the response clocked out; a device held in reset answers nothing.
DEDUCED (log entry 42, unsafe). -/
def maintRequest (s : State) (f : List Byte) : State :=
  if outOfReset s then
    let r := maintServe s f
    emit r.1 (.spi r.2)
  else s

/-- MAINT_READ_REQUEST. -/
def execMaintReadRequest (addr : Nat) (s : State) : Host.Outcome State Fault Refusal :=
  .next (maintRequest s (maintFrame (1 :: beBytes 4 addr)))

/-- MAINT_WRITE_REQUEST. -/
def execMaintWriteRequest (addr : Nat) (w : Word) (s : State) : Host.Outcome State Fault Refusal :=
  .next (maintRequest s (maintFrame (2 :: beBytes 4 addr ++ beBytes 4 w.toNat)))

/-- MAINT_BAD_REQUEST: a frame of any bytes; one too short for its opcode is discarded (R186, R187). -/
def execMaintBadRequest (frame : List Byte) (s : State) : Host.Outcome State Fault Refusal :=
  .next (if frame.length < maintLen frame then s else maintRequest s frame)

/-- MAINT_FRAME_ABORT: CS_N rises early. Before the request's crc byte nothing is performed; after it the access has been
performed and the response is lost (R187). -/
def execMaintFrameAbort (frame : List Byte) (s : State) : Host.Outcome State Fault Refusal :=
  .next (if frame.length < maintLen frame || !outOfReset s then s else (maintServe s frame).1)

/-! ### JTAG (R756) -/

/-- Cells of the boundary register. -/
abbrev boundaryCells : Nat := 1995

/-- A boundary register's worth of bits.
DEDUCED (log entry 46, unsafe). -/
def boundary (l : List Bool) : List Bool := l.take boundaryCells ++ List.replicate (boundaryCells - l.length) false

/-- The instruction register is loaded.
DEDUCED (log entry 46, unsafe). -/
def jtagLoad (s : State) (i : JtagInstr) : State := { s with board := { s.board with jtag := i } }

/-- Bits shifted through the one-bit bypass register. -/
def jtagBypassShift (s : State) (tdi : List Bool) : State := emit s (.jtag ((false :: tdi).take tdi.length))

/-- The boundary register captures the pins, is shifted by the bits of `tdi`, and its content becomes the update
stage. -/
def jtagScan (s : State) (pins tdi : List Bool) : State :=
  let l := boundary pins ++ tdi
  let s1 := { s with board := { s.board with scanIn := boundary pins, scanOut := l.drop tdi.length } }
  emit s1 (.jtag (l.take tdi.length))

/-- BYPASS. -/
def execJtagBypass (tdi : List Bool) (s : State) : Host.Outcome State Fault Refusal :=
  .next (jtagBypassShift (jtagLoad s .bypass) tdi)

/-- IDCODE: 0x1146_05A7, least significant bit first. -/
def execJtagIdcode (s : State) : Host.Outcome State Fault Refusal :=
  .next (emit (jtagLoad s .idcode) (.jtag ((List.range 32).map (fun k => nbit 0x114605A7 k))))

/-- SAMPLE/PRELOAD. -/
def execJtagSamplePreload (pins tdi : List Bool) (s : State) : Host.Outcome State Fault Refusal :=
  .next (jtagScan (jtagLoad s .samplePreload) pins tdi)

/-- EXTEST: takes effect only while PERST_N is low, and acts as BYPASS at any other time. -/
def execJtagExtest (pins tdi : List Bool) (s : State) : Host.Outcome State Fault Refusal :=
  let s1 := jtagLoad s (if s.power.perstLow then .extest else .bypass)
  .next (if s.power.perstLow then jtagScan s1 pins tdi else jtagBypassShift s1 tdi)

/-- CLAMP: the update stage drives the balls while PERST_N is low; the bypass register is shifted. -/
def execJtagClamp (tdi : List Bool) (s : State) : Host.Outcome State Fault Refusal :=
  .next (jtagBypassShift (jtagLoad s (if s.power.perstLow then .clamp else .bypass)) tdi)

/-- HIGHZ: the balls are released while PERST_N is low; the bypass register is shifted. -/
def execJtagHighz (tdi : List Bool) (s : State) : Host.Outcome State Fault Refusal :=
  .next (jtagBypassShift (jtagLoad s (if s.power.perstLow then .highz else .bypass)) tdi)

end Sys2Proof.Machine
end

