-- ==== Sys2Proof/Machine/OnChip.lean ====
section
/-! DEFINITION. Corrupted words of the on-chip arrays: what reading one does (R624 to R627, R636) and the on-chip
scrubber (R641). Which word of an array holds what is the model's own layout. -/
namespace Sys2Proof.Machine

/-- An uncorrectable packet-buffer word (R636): where the manual places no frame, the 64-byte block of a frame that it
falls in, if in any, is free. -/
def poisonBuffer (s : State) : State :=
  let ids := s.pipe.frames.map (·.1)
  let pick := Config.freeNat s.free % (ids.length + 1)
  let blk := Config.freeNat (s.free + 1)
  let s1 := { setErr s pgEcc 2 with free := s.free + 2 }
  match ids[pick]? with
  | none => s1
  | some id => modFrame s1 id (fun f => { f with poison := insKey (blk % (4 * Nat.max 1 f.cells)) f.poison })

/-- An uncorrectable word of the hold buffer (R574, R636): the frame it falls in, if in any, is free; it is refused as
poison. -/
def poisonHold (s : State) : State :=
  let rs := s.pipe.decQ.filter (fun r => r.stage != .wait)
  let pick := Config.freeNat s.free % (rs.length + 1)
  let s1 := tickFree s
  match rs[pick]? with
  | none => s1
  | some r => refuseDec s1 r 10

/-- Words of the parse-graph and action-record windows: 64-bit words in ascending address (R174). -/
abbrev windowWords : Nat := 0x20000

/-- The slice an array's instance names (R639). -/
def instSlice (i : Nat) : SliceId := if i = 0x41 then .slate else .ochre

/-- The consequence of an uncorrectable word of an on-chip array (R636).
DEDUCED (log entry 94, unsafe). -/
def chipUe (s : State) (f : ChipFlip) : State :=
  let sl := instSlice f.inst
  let s1 := reportUe s f.memory f.inst f.word 0xFF (flipSyndrome f)
  let s2 :=
    if f.memory = 1 then poisonBuffer s1
    else if f.memory = 3 ∧ f.word < windowWords then
      { s1 with pipe := { s1.pipe with
        edgeBad := ((List.range 16).map (fun i => 2 * f.word / 16 * 16 + i)).foldr insKey s1.pipe.edgeBad } }
    else if f.memory = 2 ∨ f.memory = 3 then needReset (setErr s1 pgEcc 3) pgEcc 3
    else if f.memory = 4 then
      if f.word < windowWords then
        { s1 with pipe := { s1.pipe with
          winBad := (sl.num, 2 * f.word) :: (sl.num, 2 * f.word + 1) :: s1.pipe.winBad } }
      else s1
    else if f.memory = 5 then poisonSlot s1 sl (f.word / 5)
    else if f.memory = 6 then poisonHold s1
    else if f.memory = 7 then poisonRow s1 sl (f.word / 3)
    else if f.memory = 8 then dropKeys s1 (fun x e => x == sl && e == f.word / 8)
    else s1
  if 4 ≤ f.memory then countUe s2 sl 0 else s2

/-- A corrupted on-chip word is read (R625, R635, R636) and no longer holds the corruption. -/
def readFlip (s : State) (f : ChipFlip) : State :=
  let s0 := { s with ecc := { s.ecc with flips := s.ecc.flips.filter (fun x => x != f) } }
  match secdedDecode (flipSyndrome f) with
  | .clean => s0
  | .corrected b => reportCe s0 (decide (64 ≤ b)) f.memory f.inst f.word b (flipSyndrome f)
  | .uncorrectable => chipUe s0 f

/-- The on-chip scrubber at a boundary (R641): it reads the words whose index is the boundary count modulo 2^22.
DESIGN CHOICE (log entry 95, unsafe). -/
def chipScrub (s : State) : State :=
  (s.ecc.flips.filter (fun f => f.word % 2 ^ 22 == s.tck.boundaries % 2 ^ 22)).foldl readFlip s

/-- A slice's copies of the shared tables are reloaded from the edge copy: what that holds is readable again (R636,
R665). -/
def reloadCopies (s : State) (sl : SliceId) : State :=
  { s with pipe := { s.pipe with
      winBad := s.pipe.winBad.filter (fun x => x.1 != sl.num || s.pipe.edgeBad.contains x.2) } }

/-- SLICE_RESET_END: the slice read every word of its arrays, reloaded its copies, and passed or failed (R665 to R668). -/
def execSliceResetEnd (sl : SliceId) (pass : Bool) (s : State) : Host.Outcome State Fault Refusal :=
  if !(s.slice sl).resetting then .next s
  else
    let s1 := (s.ecc.flips.filter (fun f => decide (4 ≤ f.memory) && instSlice f.inst == sl)).foldl readFlip s
    .next (resetEnd sl pass (reloadCopies s1 sl))

/-- What a slice loses when its reset begins (R504, R665): its learn queue, key-unit queue, derived keys and bulk lock.
DEDUCED (log entry 93, unsafe). -/
def discardSlice (s : State) (sl : SliceId) : State := cipDiscard (tblDiscard s sl) sl

end Sys2Proof.Machine
end

