-- ==== Sys2Proof/Machine/Waiting.lean ====
section
/-! DEFINITION. The units of work that wait in each account's input queue at a boundary (R139), which is what the
governor grants energy for. -/
namespace Sys2Proof.Machine

/-- Sum of a list of numbers. -/
def sumOf (l : List Nat) : Nat := l.foldl (· + ·) 0

/-- Work entries posted, seen and not yet fetched, of the functions of account a that are served (R279, R292). -/
def waitEntries (s : State) (a : Nat) : Nat :=
  sumOf ((validRecs s).map (fun n =>
    let f := recOwner s n
    let q := getWq s n
    if qmAccount f = a ∧ q.served ∧ phaseServes s f ∧ !isHalted s f then (q.seen + 65536 - q.next) % 65536 else 0))

/-- A FILL or COPY in execution: what is left of it. -/
def movesLeft (s : State) : List (WorkItem × Move × Nat) :=
  s.queues.items.filterMap (fun i =>
    if (i.etype = 3 ∨ i.etype = 4) ∧ i.stage = .run then
      let m := moveOf i.bytes
      some (i, m, m.len - i.done)
    else none)

/-- 64-byte beats of reads still to be issued for an entry, once its lists are known. -/
def readBeats (i : WorkItem) : Nat :=
  sumOf (i.needs.map (fun n => blocksOf n.addr n.len))
    + (if i.stage = .admission ∧ !i.dramSource then sumOf (i.segs.map (fun g => blocksOf g.1 g.2)) else 0)

/-- Host writes that wait, in beats: received frames, completion records, dirty-log entries. -/
def writeBeats (s : State) : Nat :=
  sumOf (s.queues.items.map (fun i => if i.stage = .deliver then blocksOf i.outAt i.out.length else 0))
    + sumOf (s.sched.rx.map (fun d => cdiv ((getFrame s d.view.frame).elim 0 (·.data.length)) 64))
    + sumOf (s.queues.cr.map (fun e => (e.2.staged.filter (fun r => r.ready.isSome)).length))
    + sumOf (s.logs.map (fun e => cdiv (8 * Nat.min e.2.staged.length (logRoom e.2)) 64))

/-- Cipher blocks a frame that waits for decryption will cost. -/
def decBlocks (s : State) (r : DecReq) : Nat :=
  match r.stage with
  | .wait => match getFrame s r.view.frame with
    | some f =>
      if !f.whole then 0
      else match judgeUnit s r f with
        | .unit u => unitBlocks u.aad.length u.text.length
        | .bad _ => 0
    | none => 0
  | .started x _ => x.owed
  | .verified _ _ _ => 0

/-- Cipher blocks a descriptor that is to be protected will cost. -/
def encBlocks (s : State) (d : Desc) : Nat :=
  match d.enc, d.sealing with
  | some _, some x => x.owed
  | some sa, none => match getFrame s d.view.frame with
    | some f =>
      let u := encUnit f d sa (saBytes s sa.tenant sa.sa)
      unitBlocks u.1 u.2
    | none => 0
  | none, _ => 0

/-- Cipher blocks of Carlis messages that wait: being built, to be sent, received. -/
def crtBlocks (s : State) : Nat :=
  sumOf (s.crt.chans.map (fun e =>
    (e.2.build.map (·.owed)).getD 0
      + sumOf ((e.2.msgs.filter (·.due)).map (fun m => unitBlocks 32 (msgBody m).length))
      + e.2.replies.length * unitBlocks 32 16 + (e.2.helloDue.toNat + e.2.ackFrom.isSome.toNat) * unitBlocks 32 0))
    + sumOf (s.pipe.toCarlis.map (fun id => (getFrame s id).elim 0 (fun f => unitBlocks 32 f.data.length)))

/-- Cipher blocks that wait on account a: units, and 12 for each derivation it needs (R557). -/
def waitBlocks (s : State) (a : Nat) : Nat :=
  sumOf ((s.pipe.decQ.filter (fun r => cipAccount r.sa == a)).map (decBlocks s))
    + sumOf (((allDescs s).filter (fun d => d.unsealed && (d.enc.map cipAccount) == some a)).map (encBlocks s))
    + 12 * (s.cip.keyQ.filter (fun k => k.acct == a)).length
    + (if a = 2 then crtBlocks s else 0)

/-- Carlis messages that wait on account a (R608): to be built, being received. -/
def waitMessages (s : State) (a : Nat) : Nat :=
  let chunks := sumOf (s.crt.chans.map (fun e =>
    (e.2.msgs.filter (fun m => m.due && m.chunk.isSome)).length
      + (e.2.entries.filter (fun x => match getItem s x.wq x.idx with
        | some i => !x.commit && i.stage == .data && readsDone s i
        | none => false)).length))
  let control := sumOf (s.crt.chans.map (fun e =>
    (e.2.msgs.filter (fun m => m.due && m.chunk.isNone)).length + e.2.replies.length + e.2.helloDue.toNat
      + e.2.ackFrom.isSome.toNat))
  let rx := (s.pipe.toCarlis.filterMap (getFrame s)).map (fun f => match crtJudge s f.data with
    | .msg h => crtAcct h.ty
    | _ => acct 5 1)
  (if a = 0 then chunks else control) + (rx.filter (fun k => k == acct 5 a)).length

/-- Learning events a slice has to do: its command's, drains, ageing visits due, learn events (R498, R503). -/
def learnWork (s : State) (sl : SliceId) : Nat :=
  let u := getTbl s sl
  let age := match u.ageAt with
    | none => 0
    | some at0 =>
      let a := fld (rdEff s (pgTbl sl + Reg.TBL_AGE)) 15 0
      Nat.min 65552 ((s.tck.boundaries - at0) * 65552 * s.T / (a * 10 ^ 9) + 1) - u.ageGroup
  (u.job.elim 0 (·.owed)) + (if lockOwner s sl = 0 then 2 * u.freed.length + age else 0) + u.learnQ.length

/-- Bursts that a DRAM range takes on channel c, of at most the blocks a tick can move. -/
def rangeBursts (s : State) (c a len : Nat) : Nat :=
  ((List.range (Nat.min (blocksOf a len) (nMin s))).filter (fun k => match dramWhere s (a / 64 * 64 + 64 * k) with
    | some (n, _) => n == c
    | none => false)).length

/-- Bursts that wait on account k of channel c (R111). -/
def waitBursts (s : State) (c k : Nat) : Nat :=
  let ch := getChan s c
  if !(ch.st == .running) then 0
  else if k = 0 then
    let w := sumOf (s.sched.spillQ.map (fun e => sumOf (e.2.map (fun d => match getFrame s d.view.frame with
      | some f => tget (fun _ => 0) (spillBursts s e.1 (tget (fun _ => 0) s.sched.ringTail e.1) (viewBytes f d.view).length) c
      | none => 0))))
    w + sumOf (s.sched.rings.map (fun e => sumOf ((e.2.take 64).map (fun x =>
      tget (fun _ => 0) (spillBursts s e.1 x.pos x.frame.data.length) c))))
  else if k = 1 then
    sumOf (s.crt.chans.map (fun e => sumOf (e.2.apply.map (fun q => match q.chunk with
      | some x => rangeBursts s c (q.win.base + x.offset + q.pos) (x.data.length - q.pos)
      | none => 0))))
  else if k = 2 then (if fbit (rdEff s (pgMem c + Reg.PAGE_CTL)) 0 then nMin s else 0)
  else
    sumOf ((movesLeft s).map (fun x =>
      let m := x.2.1
      (if m.dstDram then rangeBursts s c (m.dst + x.1.done) x.2.2 else 0)
        + (if m.copy && m.srcDram then rangeBursts s c (m.src + x.1.done) x.2.2 else 0)))
      + sumOf ((s.queues.items.filter (fun i => i.dramSource && (i.stage == .data || i.stage == .admission))).map (fun i =>
        sumOf (i.needs.map (fun n => rangeBursts s c n.addr n.len))))

/-- Units that wait in the input queue of the account with the given key (R139).
DEDUCED (log entry 28, unsafe). -/
def unitsWaiting (s : State) (key : Nat) : Nat :=
  let e := key / 256
  let a := key % 256
  if e = 1 then (if a = 0 then s.pipe.q0.length else if a = 1 then s.pipe.q1.length else s.pipe.q2.length)
  else if e = 2 then waitEntries s a
  else if e = 3 then
    if a = 1 then writeBeats s
    else
      let reads := sumOf ((s.queues.items.filter (fun i => readAccount i == a && !i.dramSource)).map readBeats)
      if a = 0 then reads
      else reads + sumOf ((movesLeft s).map (fun x => cdiv x.2.2 64 + (if x.2.1.copy && x.2.1.srcDram then cdiv x.2.2 64 else 0)))
  else if e = 4 then waitBlocks s a
  else if e = 5 then waitMessages s a
  else if e = 6 then Nat.max (learnWork s .ochre) (learnWork s .slate)
  else if e = 7 then sumOf ((List.range 8).map (fun c => (fifoOf s (8 * a + c)).length))
  else waitBursts s (e - 0x10) a

/-- The units waiting, by account key.
DEDUCED (log entry 28, unsafe). -/
def waitTable (s : State) : Table Nat :=
  charKeys.foldl (fun t k => tset (fun _ => 0) t k (unitsWaiting s k)) []

end Sys2Proof.Machine
end

