-- ==== Sys2Proof/Machine/Tick.lean ====
section
/-! DEFINITION. TICK_BOUNDARY: everything that happens at a tick boundary, in the order of R103. The blocks' own
boundaries (R101) fall together with the tick generator's. -/
namespace Sys2Proof.Machine

/-- Steps 1 to 4 of R103, after what belongs to the tick that ends: the credit waits and event counts of that tick, then
time, number and length of the new one, then the plan.
DESIGN CHOICE (log entry 4, unsafe). -/
def tickStart (b : Boundary) (s : State) : State :=
  activatePlan (advanceTime (evcTickEnd (touchWaiting (creditWaits s))) b.refDrift)

/-- Step 5 of R103 for registers, windows and configuration space: what has been written is in force (R104).
DEDUCED (log entry 14, unsafe). -/
def latchRegs (s : State) : State :=
  { s with
    eff := s.regs
    pcie := { s.pcie with cfgEff := s.pcie.cfg, flrShown := s.pcie.flr, vfShown := s.pcie.vfLive } }

/-- The phase and a warm reset (R204, R215, R217): where the transmit MACs fall idle, what they send ends with an invalid
code. -/
def phaseTick (s : State) : State :=
  let s1 := warmBoundary (phaseBoundary s)
  if macIdle s1 && !macIdle s then cbpEndSending ((List.range 6).foldl endSending s1) else s1

/-- Roles and claims (R49 to R51, R651, R655, R665): a slice that withdrew loses what its reset discards. -/
def roleTick (s : State) : State :=
  redBoundary ([SliceId.ochre, .slate].foldl (fun s sl => if (s.slice sl).fenced then discardSlice s sl else s) s)

/-- The queue manager in a new tick (R64, R279, R292, R458, R485): doorbells of the last tick are seen, and each account's
rotation starts anew. -/
def queueTick (s : State) : State :=
  let s1 := s.queues.wq.foldl (fun s e => putWq s e.1 { e.2 with seen := e.2.pi, fetched := 0 }) s
  let s2 := [SliceId.ochre, .slate].foldl (fun s sl => putTbl s sl { getTbl s sl with learnNew := 0 }) s1
  { s2 with queues := { s2.queues with started := [] }, pipe := { s2.pipe with q2New := 0 } }

/-- Step 5 of R103 for everything else that waited for the boundary; `old` is the state in the tick that ends.
DEDUCED (log entry 29, unsafe). -/
def unitsTick (old s : State) : State :=
  let s1 := roleTick (phaseTick (evcTickBegin old s))
  let s2 := eqxBoundary (rdEff old (pgRed + Reg.RED_EQX_PERIOD) != rdEff s (pgRed + Reg.RED_EQX_PERIOD)) s1
  let s3 := cbpBoundary ((List.range 6).foldl portBoundary s2)
  let s4 := queueTick (stallBoundary (paceBoundary (haltBoundary (memBoundary s3))))
  let s5 := cipBoundary (cusBoundary (logBoundary (mbxBoundary (crtBoundary s4))))
  ageBoundary old (ageBoundary old s5 .ochre) .slate

/-- The shared edge's own work at a boundary: scrubbing, the reference, PPS_OUT, voting, envelope and coefficients,
injected faults. -/
def edgeTick (s : State) : State :=
  let s1 := voteBoundary (ppsBoundary (selectReference (chipScrub s)))
  let s2 := rampStep (activateCoef (sampleShed s1))
  fireInjected (fireInjected s2 .ochre) .slate

/-- Step 6 of R103: buckets are refilled, credits granted, and the table units and schedulers begin with them. -/
def creditTick (b : Boundary) (oldEff : Table Word) (s : State) : State :=
  let s1 := refillBoundary oldEff s
  let w := waitTable s1
  let s2 := grantCredits s1 (tget (fun _ => 0) w) (fun _ => 65535) b.ledger
  schedSnapshot (tblServe (tblServe s2 .ochre) .slate)

/-- TICK_BOUNDARY (R57, R103): the tick runs only in a device that is out of reset with its bring-up ended.
DESIGN CHOICE (log entry 4, unsafe). DEDUCED (log entry 21, safe). -/
def execTickBoundary (b : Boundary) (s : State) : Host.Outcome State Fault Refusal :=
  if !s.power.bringupDone then .next s
  else .next (creditTick b s.eff (edgeTick (unitsTick s (latchRegs (tickStart b s)))))

end Sys2Proof.Machine
end

