-- ==== Sys2Proof/Machine/Dispatch.lean ====
section
/-! DEFINITION. The effect of each command on everything but the queue: one arm per row of the command table. -/
namespace Sys2Proof.Machine

def exec (i : Instr) (s : State) : Host.Outcome State Fault Refusal :=
  match i with
  | .powerOn vkeepSecs => Sys2Proof.Machine.execPowerOn vkeepSecs s
  | .perstAssert => Sys2Proof.Machine.execPerstAssert s
  | .perstDeassert => Sys2Proof.Machine.execPerstDeassert s
  | .powerOnMonitorRelease => Sys2Proof.Machine.execPowerOnMonitorRelease s
  | .coreRailGlitch => Sys2Proof.Machine.execCoreRailGlitch s
  | .coreRailLoss => Sys2Proof.Machine.execCoreRailLoss s
  | .sysclkLoss => Sys2Proof.Machine.execSysclkLoss s
  | .bringupStageEnd us failed => Sys2Proof.Machine.execBringupStageEnd us failed s
  | .warmResetAssert late => Sys2Proof.Machine.execWarmResetAssert late s
  | .internalResetRelease => Sys2Proof.Machine.execInternalResetRelease s
  | .vkeepFirstApply => Sys2Proof.Machine.execVkeepFirstApply s
  | .vkeepLoss => Sys2Proof.Machine.execVkeepLoss s
  | .tickBoundary b => Sys2Proof.Machine.execTickBoundary b s
  | .ppsOutFall => Sys2Proof.Machine.execPpsOutFall s
  | .planActivate => Sys2Proof.Machine.execPlanActivate s
  | .envelopeRampStep => Sys2Proof.Machine.execEnvelopeRampStep s
  | .pshedChange low => Sys2Proof.Machine.execPshedChange low s
  | .ppsInEdge cyc => Sys2Proof.Machine.execPpsInEdge cyc s
  | .ref10mLoss => Sys2Proof.Machine.execRef10mLoss s
  | .tickCopyOutvoted copy => Sys2Proof.Machine.execTickCopyOutvoted copy s
  | .tickCopyFence copy => Sys2Proof.Machine.execTickCopyFence copy s
  | .setTime via seq a0 a1 a2 => Sys2Proof.Machine.execSetTime via seq a0 a1 a2 s
  | .stepTime via seq a0 => Sys2Proof.Machine.execStepTime via seq a0 s
  | .snapshot via seq => Sys2Proof.Machine.execSnapshot via seq s
  | .commitPeriod via seq => Sys2Proof.Machine.execCommitPeriod via seq s
  | .armPlan via seq => Sys2Proof.Machine.execArmPlan via seq s
  | .disarm via seq => Sys2Proof.Machine.execDisarm via seq s
  | .loadCoef via seq => Sys2Proof.Machine.execLoadCoef via seq s
  | .restoreDefault via seq => Sys2Proof.Machine.execRestoreDefault via seq s
  | .enterService via seq => Sys2Proof.Machine.execEnterService via seq s
  | .enterTest via seq => Sys2Proof.Machine.execEnterTest via seq s
  | .exitTest via seq => Sys2Proof.Machine.execExitTest via seq s
  | .deviceReset via seq a0 => Sys2Proof.Machine.execDeviceReset via seq a0 s
  | .enterRecovery f => Sys2Proof.Machine.execEnterRecovery f s
  | .undefinedCommandCode via addr code seq => Sys2Proof.Machine.execUndefinedCommandCode via addr code seq s
  | .pageErrForceWrite via page w => Sys2Proof.Machine.execPageErrForceWrite via page w s
  | .setAliasWrite via addr w => Sys2Proof.Machine.execSetAliasWrite via addr w s
  | .clearAliasWrite via addr w => Sys2Proof.Machine.execClearAliasWrite via addr w s
  | .registerWrite via addr w => Sys2Proof.Machine.execRegisterWrite via addr w s
  | .rcFieldRead via addr => Sys2Proof.Machine.execRcFieldRead via addr s
  | .captureRead via addr => Sys2Proof.Machine.execCaptureRead via addr s
  | .tmsPpsInRead via => Sys2Proof.Machine.execTmsPpsInRead via s
  | .lockRead via sl => Sys2Proof.Machine.execLockRead via sl s
  | .lockRelease via sl w => Sys2Proof.Machine.execLockRelease via sl w s
  | .tckPlanDataAccess via w => Sys2Proof.Machine.execTckPlanDataAccess via w s
  | .pwrCoefDataAccess via w => Sys2Proof.Machine.execPwrCoefDataAccess via w s
  | .macGclDataAccess via p w => Sys2Proof.Machine.execMacGclDataAccess via p w s
  | .partialWrite via addr => Sys2Proof.Machine.execPartialWrite via addr s
  | .unmappedAccess via addr w => Sys2Proof.Machine.execUnmappedAccess via addr w s
  | .undefinedOffsetAccess via addr w => Sys2Proof.Machine.execUndefinedOffsetAccess via addr w s
  | .bar2Read off len => Sys2Proof.Machine.execBar2Read off len s
  | .bar2Write off data ep => Sys2Proof.Machine.execBar2Write off data ep s
  | .maintReadRequest addr => Sys2Proof.Machine.execMaintReadRequest addr s
  | .maintWriteRequest addr w => Sys2Proof.Machine.execMaintWriteRequest addr w s
  | .maintBadRequest frame => Sys2Proof.Machine.execMaintBadRequest frame s
  | .maintFrameAbort frame => Sys2Proof.Machine.execMaintFrameAbort frame s
  | .i2cPointerWrite ptr => Sys2Proof.Machine.execI2cPointerWrite ptr s
  | .i2cWordRead => Sys2Proof.Machine.execI2cWordRead s
  | .jtagBypass tdi => Sys2Proof.Machine.execJtagBypass tdi s
  | .jtagIdcode => Sys2Proof.Machine.execJtagIdcode s
  | .jtagSamplePreload pins tdi => Sys2Proof.Machine.execJtagSamplePreload pins tdi s
  | .jtagExtest pins tdi => Sys2Proof.Machine.execJtagExtest pins tdi s
  | .jtagClamp tdi => Sys2Proof.Machine.execJtagClamp tdi s
  | .jtagHighz tdi => Sys2Proof.Machine.execJtagHighz tdi s
  | .linkTrained speed width => Sys2Proof.Machine.execLinkTrained speed width s
  | .linkRetrain speed width => Sys2Proof.Machine.execLinkRetrain speed width s
  | .hostReset hot => Sys2Proof.Machine.execHostReset hot s
  | .pf0Flr => Sys2Proof.Machine.execPf0Flr s
  | .vfFlr t => Sys2Proof.Machine.execVfFlr t s
  | .pf1Flr => Sys2Proof.Machine.execPf1Flr s
  | .flrComplete fn => Sys2Proof.Machine.execFlrComplete fn s
  | .vfEnableSet => Sys2Proof.Machine.execVfEnableSet s
  | .vfEnableClear => Sys2Proof.Machine.execVfEnableClear s
  | .vfChangeComplete => Sys2Proof.Machine.execVfChangeComplete s
  | .configRequest fn off be w => Sys2Proof.Machine.execConfigRequest fn off be w s
  | .powerStateWrite fn ps => Sys2Proof.Machine.execPowerStateWrite fn ps s
  | .busMasterEnableClear fn => Sys2Proof.Machine.execBusMasterEnableClear fn s
  | .busMasterEnableSet fn => Sys2Proof.Machine.execBusMasterEnableSet fn s
  | .pmeStatusClear fn => Sys2Proof.Machine.execPmeStatusClear fn s
  | .pmeRepeat fn => Sys2Proof.Machine.execPmeRepeat fn s
  | .pmeTurnOff => Sys2Proof.Machine.execPmeTurnOff s
  | .msixTableWrite fn off be w => Sys2Proof.Machine.execMsixTableWrite fn off be w s
  | .hostMemoryRequest fn bar off len be data ep ecrcBad => Sys2Proof.Machine.execHostMemoryRequest fn bar off len be data ep ecrcBad s
  | .completionReceived c => Sys2Proof.Machine.execCompletionReceived c s
  | .completionTimeout tag => Sys2Proof.Machine.execCompletionTimeout tag s
  | .tagHoldEnd tag => Sys2Proof.Machine.execTagHoldEnd tag s
  | .wqDoorbell via q v => Sys2Proof.Machine.execWqDoorbell via q v s
  | .crDoorbell via q v => Sys2Proof.Machine.execCrDoorbell via q v s
  | .recordValidate via n w => Sys2Proof.Machine.execRecordValidate via n w s
  | .recordInvalidate via n w => Sys2Proof.Machine.execRecordInvalidate via n w s
  | .workEntryFetch a => Sys2Proof.Machine.execWorkEntryFetch a s
  | .phaseRefetch wq idx => Sys2Proof.Machine.execPhaseRefetch wq idx s
  | .nopEntry wq idx => Sys2Proof.Machine.execNopEntry wq idx s
  | .txEntry wq idx => Sys2Proof.Machine.execTxEntry wq idx s
  | .rxPostEntry wq idx => Sys2Proof.Machine.execRxPostEntry wq idx s
  | .fillEntry wq idx => Sys2Proof.Machine.execFillEntry wq idx s
  | .copyEntry wq idx => Sys2Proof.Machine.execCopyEntry wq idx s
  | .carlisPutEntry wq idx => Sys2Proof.Machine.execCarlisPutEntry wq idx s
  | .carlisCommitEntry wq idx => Sys2Proof.Machine.execCarlisCommitEntry wq idx s
  | .dmaReadIssue wq idx => Sys2Proof.Machine.execDmaReadIssue wq idx s
  | .dmaWriteIssue wq idx => Sys2Proof.Machine.execDmaWriteIssue wq idx s
  | .logRingWrite k => Sys2Proof.Machine.execLogRingWrite k s
  | .dmaRetry wq idx => Sys2Proof.Machine.execDmaRetry wq idx s
  | .entryFinish wq idx => Sys2Proof.Machine.execEntryFinish wq idx s
  | .completionEntryWrite n => Sys2Proof.Machine.execCompletionEntryWrite n s
  | .moderationTimerExpiry n => Sys2Proof.Machine.execModerationTimerExpiry n s
  | .msixMessageSend fn vec => Sys2Proof.Machine.execMsixMessageSend fn vec s
  | .mailboxSend via w => Sys2Proof.Machine.execMailboxSend via w s
  | .mailboxDeliver => Sys2Proof.Machine.execMailboxDeliver s
  | .mailboxAck via w => Sys2Proof.Machine.execMailboxAck via w s
  | .open_ c via seq => Sys2Proof.Machine.execOpen_ c via seq s
  | .close c via seq => Sys2Proof.Machine.execClose c via seq s
  | .submit c req via seq a0 => Sys2Proof.Machine.execSubmit c req via seq a0 s
  | .loadPlain => Sys2Proof.Machine.execLoadPlain s
  | .loadWrapped => Sys2Proof.Machine.execLoadWrapped s
  | .eraseSlot => Sys2Proof.Machine.execEraseSlot s
  | .slotInfo => Sys2Proof.Machine.execSlotInfo s
  | .readRecord => Sys2Proof.Machine.execReadRecord s
  | .slotCacheInvalidate => Sys2Proof.Machine.execSlotCacheInvalidate s
  | .logStart via seq a0 a1 a2 => Sys2Proof.Machine.execLogStart via seq a0 a1 a2 s
  | .logStop via seq a0 => Sys2Proof.Machine.execLogStop via seq a0 s
  | .tenLogCiWrite via k w => Sys2Proof.Machine.execTenLogCiWrite via k w s
  | .pcsEnable p via seq => Sys2Proof.Machine.execPcsEnable p via seq s
  | .pcsDisable p via seq => Sys2Proof.Machine.execPcsDisable p via seq s
  | .retrain p via seq => Sys2Proof.Machine.execRetrain p via seq s
  | .trainingAttemptEnd p ok taps => Sys2Proof.Machine.execTrainingAttemptEnd p ok taps s
  | .linkStateChange p st => Sys2Proof.Machine.execLinkStateChange p st s
  | .frameReceive p express cyc start bytes fin => Sys2Proof.Machine.execFrameReceive p express cyc start bytes fin s
  | .pauseFrameReceived p cyc src quanta => Sys2Proof.Machine.execPauseFrameReceived p cyc src quanta s
  | .pfcFrameReceived p cyc src enables quanta => Sys2Proof.Machine.execPfcFrameReceived p cyc src enables quanta s
  | .verifyMpacketReceived p => Sys2Proof.Machine.execVerifyMpacketReceived p s
  | .lpiReceived p => Sys2Proof.Machine.execLpiReceived p s
  | .pauseExpiry p => Sys2Proof.Machine.execPauseExpiry p s
  | .pfcRefresh p => Sys2Proof.Machine.execPfcRefresh p s
  | .gclArm p via seq => Sys2Proof.Machine.execGclArm p via seq s
  | .gclDisarm p via seq => Sys2Proof.Machine.execGclDisarm p via seq s
  | .gclOff p via seq => Sys2Proof.Machine.execGclOff p via seq s
  | .gclActivate p => Sys2Proof.Machine.execGclActivate p s
  | .gateStateChange p => Sys2Proof.Machine.execGateStateChange p s
  | .headerProcess => Sys2Proof.Machine.execHeaderProcess s
  | .reentry => Sys2Proof.Machine.execReentry s
  | .windowWrite via addr w => Sys2Proof.Machine.execWindowWrite via addr w s
  | .learnEventApply sl => Sys2Proof.Machine.execLearnEventApply sl s
  | .ageingVisit sl => Sys2Proof.Machine.execAgeingVisit sl s
  | .stashDrain sl => Sys2Proof.Machine.execStashDrain sl s
  | .search sl via seq => Sys2Proof.Machine.execSearch sl via seq s
  | .tblNext sl via seq a0 a1 => Sys2Proof.Machine.execTblNext sl via seq a0 a1 s
  | .insert sl via seq a0 => Sys2Proof.Machine.execInsert sl via seq a0 s
  | .delete sl via seq => Sys2Proof.Machine.execDelete sl via seq s
  | .flush sl via seq a0 a1 => Sys2Proof.Machine.execFlush sl via seq a0 a1 s
  | .digest sl via seq a0 => Sys2Proof.Machine.execDigest sl via seq a0 s
  | .srcCount sl via seq a0 => Sys2Proof.Machine.execSrcCount sl via seq a0 s
  | .lpmInsert sl via seq a0 => Sys2Proof.Machine.execLpmInsert sl via seq a0 s
  | .lpmDelete sl via seq => Sys2Proof.Machine.execLpmDelete sl via seq s
  | .lpmSearch sl via seq => Sys2Proof.Machine.execLpmSearch sl via seq s
  | .lpmLookup sl via seq => Sys2Proof.Machine.execLpmLookup sl via seq s
  | .lpmRead sl via seq a0 => Sys2Proof.Machine.execLpmRead sl via seq a0 s
  | .bulkLoad sl via seq a0 a1 a2 => Sys2Proof.Machine.execBulkLoad sl via seq a0 a1 a2 s
  | .bulkDump sl via seq a0 a1 a2 => Sys2Proof.Machine.execBulkDump sl via seq a0 a1 a2 s
  | .lpmRowRepair sl row copyBad => Sys2Proof.Machine.execLpmRowRepair sl row copyBad s
  | .shaperEntryWrite via addr w => Sys2Proof.Machine.execShaperEntryWrite via addr w s
  | .policerEntryWrite via addr w => Sys2Proof.Machine.execPolicerEntryWrite via addr w s
  | .admissionSelect => Sys2Proof.Machine.execAdmissionSelect s
  | .schedulerSelect p => Sys2Proof.Machine.execSchedulerSelect p s
  | .rxDeliver n => Sys2Proof.Machine.execRxDeliver n s
  | .spillWrite p c => Sys2Proof.Machine.execSpillWrite p c s
  | .spillReadBack p c => Sys2Proof.Machine.execSpillReadBack p c s
  | .transmitFrame p cyc crs => Sys2Proof.Machine.execTransmitFrame p cyc crs s
  | .transmitEnd p => Sys2Proof.Machine.execTransmitEnd p s
  | .cbpEnable via seq => Sys2Proof.Machine.execCbpEnable via seq s
  | .cbpDisable via seq => Sys2Proof.Machine.execCbpDisable via seq s
  | .mdioRead sampled via seq a0 a1 a2 => Sys2Proof.Machine.execMdioRead sampled via seq a0 a1 a2 s
  | .mdioWrite via seq a0 a1 a2 => Sys2Proof.Machine.execMdioWrite via seq a0 a1 a2 s
  | .p6FrameReceive cyc bytes code => Sys2Proof.Machine.execP6FrameReceive cyc bytes code s
  | .collisionDetect cyc bitTime => Sys2Proof.Machine.execCollisionDetect cyc bitTime s
  | .backoffExpiry => Sys2Proof.Machine.execBackoffExpiry s
  | .carrierDrop => Sys2Proof.Machine.execCarrierDrop s
  | .beaconReceived => Sys2Proof.Machine.execBeaconReceived s
  | .beaconSend => Sys2Proof.Machine.execBeaconSend s
  | .transmitOpportunity cyc => Sys2Proof.Machine.execTransmitOpportunity cyc s
  | .plcaBeaconTimeout => Sys2Proof.Machine.execPlcaBeaconTimeout s
  | .txClkLost => Sys2Proof.Machine.execTxClkLost s
  | .txClkRestored => Sys2Proof.Machine.execTxClkRestored s
  | .saValidate via t a w => Sys2Proof.Machine.execSaValidate via t a w s
  | .saInvalidate via t a w => Sys2Proof.Machine.execSaInvalidate via t a w s
  | .keyDerivation sl => Sys2Proof.Machine.execKeyDerivation sl s
  | .decryptStart c => Sys2Proof.Machine.execDecryptStart c s
  | .decryptVerify frame => Sys2Proof.Machine.execDecryptVerify frame s
  | .decryptRelease frame => Sys2Proof.Machine.execDecryptRelease frame s
  | .encryptFrame frame => Sys2Proof.Machine.execEncryptFrame frame s
  | .flushKeys sl via seq a0 a1 => Sys2Proof.Machine.execFlushKeys sl via seq a0 a1 s
  | .warmKeys sl via seq a0 => Sys2Proof.Machine.execWarmKeys sl via seq a0 s
  | .openChannel via seq a0 => Sys2Proof.Machine.execOpenChannel via seq a0 s
  | .closeChannel via seq a0 => Sys2Proof.Machine.execCloseChannel via seq a0 s
  | .winSet via seq a0 => Sys2Proof.Machine.execWinSet via seq a0 s
  | .winClose via seq a0 => Sys2Proof.Machine.execWinClose via seq a0 s
  | .helloSend c => Sys2Proof.Machine.execHelloSend c s
  | .chunkSend c => Sys2Proof.Machine.execChunkSend c s
  | .commitSend c => Sys2Proof.Machine.execCommitSend c s
  | .hello => Sys2Proof.Machine.execHello s
  | .helloAck => Sys2Proof.Machine.execHelloAck s
  | .chunk => Sys2Proof.Machine.execChunk s
  | .commit => Sys2Proof.Machine.execCommit s
  | .ack => Sys2Proof.Machine.execAck s
  | .refuse => Sys2Proof.Machine.execRefuse s
  | .window => Sys2Proof.Machine.execWindow s
  | .rst => Sys2Proof.Machine.execRst s
  | .chunkApply c => Sys2Proof.Machine.execChunkApply c s
  | .commitApply c => Sys2Proof.Machine.execCommitApply c s
  | .ackSend c => Sys2Proof.Machine.execAckSend c s
  | .retransmitTimerExpiry c => Sys2Proof.Machine.execRetransmitTimerExpiry c s
  | .patrolScrubBurst n => Sys2Proof.Machine.execPatrolScrubBurst n s
  | .flipArm via w => Sys2Proof.Machine.execFlipArm via w s
  | .flipApply word => Sys2Proof.Machine.execFlipApply word s
  | .retireEntryWrite via n w => Sys2Proof.Machine.execRetireEntryWrite via n w s
  | .memConfig n via seq => Sys2Proof.Machine.execMemConfig n via seq s
  | .memSweep n found via seq a0 => Sys2Proof.Machine.execMemSweep n found via seq a0 s
  | .memStart n via seq => Sys2Proof.Machine.execMemStart n via seq s
  | .memRelease n via seq => Sys2Proof.Machine.execMemRelease n via seq s
  | .onlineCheckFire sl ev eng => Sys2Proof.Machine.execOnlineCheckFire sl ev eng s
  | .switchOver replay gap => Sys2Proof.Machine.execSwitchOver replay gap s
  | .sliceResetEnd sl pass => Sys2Proof.Machine.execSliceResetEnd sl pass s
  | .autoReadmit sl => Sys2Proof.Machine.execAutoReadmit sl s
  | .selftestPassEnd ms wrong => Sys2Proof.Machine.execSelftestPassEnd ms wrong s
  | .equinoxDue => Sys2Proof.Machine.execEquinoxDue s
  | .equinoxPrepare => Sys2Proof.Machine.execEquinoxPrepare s
  | .equinoxHold => Sys2Proof.Machine.execEquinoxHold s
  | .equinoxDrain => Sys2Proof.Machine.execEquinoxDrain s
  | .equinoxSwap => Sys2Proof.Machine.execEquinoxSwap s
  | .equinoxAbandon => Sys2Proof.Machine.execEquinoxAbandon s
  | .equinoxDeferAlarm => Sys2Proof.Machine.execEquinoxDeferAlarm s
  | .equinoxNow via seq => Sys2Proof.Machine.execEquinoxNow via seq s
  | .withdraw via seq a0 => Sys2Proof.Machine.execWithdraw via seq a0 s
  | .readmit via seq a0 => Sys2Proof.Machine.execReadmit via seq a0 s
  | .inject sl via seq a0 => Sys2Proof.Machine.execInject sl via seq a0 s
  | .alarmSourceActive src => Sys2Proof.Machine.execAlarmSourceActive src s
  | .crimsonCacheInvalidate => Sys2Proof.Machine.execCrimsonCacheInvalidate s
  | .sealPolicy via seq => Sys2Proof.Machine.execSealPolicy via seq s
  | .clearAlarm via seq => Sys2Proof.Machine.execClearAlarm via seq s
  | .zeroize via seq a0 => Sys2Proof.Machine.execZeroize via seq a0 s
  | .eraseAll via seq a0 => Sys2Proof.Machine.execEraseAll via seq a0 s
  | .sensorSample temps volts => Sys2Proof.Machine.execSensorSample temps volts s
  | .ref10mRestored => Sys2Proof.Machine.execRef10mRestored s
  | .alarmSourceInactive src => Sys2Proof.Machine.execAlarmSourceInactive src s

end Sys2Proof.Machine
end

