-- ==== Sys2Proof/Machine/Step.lean ====
section
/-! DEFINITION. One step: the command at the front of the queue is performed; an idle device stays as it is. -/
namespace Sys2Proof.Machine

/-- Perform the first waiting command, on the state with the rest of the queue.
DESIGN CHOICE (log entry 1, safe). DESIGN CHOICE (log entry 2, unsafe). -/
def step (s : State) : Host.Outcome State Fault Refusal :=
  match s.pending with
  | [] => .next s
  | c :: rest => exec c { s with pending := rest }

/-- A command put in front of the queue.
DESIGN CHOICE (log entry 1, safe). -/
def State.push (s : State) (c : Instr) : State := { s with pending := c :: s.pending }

/-- `s` with the command that a word spells at the front of its queue. The command table gives no row any bits, so no
word spells a command. -/
def State.withFetchWord (s : State) (nbits w : Nat) : State :=
  match decodeTableWord nbits w with
  | none => s
  | some c => s.push c

end Sys2Proof.Machine
end

