-- ==== Sys2Proof/Safety.lean ====
section
/-! DEFINITION. What counts as a sound state of the device, in the terms the claims use. -/
namespace Sys2Proof.Machine

/-- The stores are in their canonical form (keys rise, and no entry equals what an unlisted key reads as): registers and
windows as written and as in force, wide counters, configuration space and MSI-X, the plan and coefficient banks, the
queues, frames, nodes and rings, the tables of slices and units, the DRAM channels and each one's blocks. -/
def Memory.wf (s : State) : Bool :=
  twf regDflt s.regs && twf regDflt s.eff && twf (fun _ => MemChan.reset) s.mem && twf (fun _ => 0) s.wide
    && twf cfgDflt s.pcie.cfg && twf cfgDflt s.pcie.cfgEff && twf msixDflt s.pcie.msix
    && twf (fun _ => emptySlot) s.vkeep.slots && twf (fun _ => 0) s.tck.bank0 && twf (fun _ => 0) s.tck.bank1
    && twf charWord s.gov.coef0 && twf charWord s.gov.coef1 && twf (fun _ => freshWq) s.queues.wq
    && twf (fun _ => freshCr) s.queues.cr && twf (fun _ => false) s.queues.paced && twf (fun _ => none) s.pipe.frames
    && twf (fun _ => freshNode) s.sched.nodes && twf (fun _ => 0) s.sched.vt && twf (fun _ => []) s.sched.fifo
    && twf (fun _ => []) s.sched.spillQ && twf (fun _ => (0, 0)) s.sched.police && twf (fun _ => []) s.sched.rings
    && twf (fun _ => TblUnit.reset) s.tbl && twf (fun _ => []) s.cip.cache && twf (fun _ => 0) s.cip.replay
    && twf (fun _ => CrtChan.closed) s.crt.chans && twf (fun _ => CrtWin.reset) s.crt.wins
    && twf (fun _ => (0, 0)) s.crt.copies && twf (fun _ => MbxDir.empty) s.mbx.dirs && twf (fun _ => 0) s.mbx.epochs
    && twf (fun _ => CchChan.closed) s.cus.chans && twf (fun _ => LogSlot.free) s.logs
    && twf (fun _ => PortUnit.reset) s.ports && twf (fun _ => none) s.ecc.log
    && s.mem.all (fun e => twf (fun _ => []) e.2.blocks)

/-- At most one slice is active (R48). -/
def RolesOk (s : State) : Prop := ¬(s.red.ochre.role = .active ∧ s.red.slate.role = .active)

/-- The device is in recovery and no phase command waits (R217, R218). -/
def InRecovery (s : State) : Prop := s.power.phase = .recovery ∧ phaseCmd s = none

/-- A sound state: canonical stores, and at most one active slice. -/
def Sound (s : State) : Prop := Memory.wf s = true ∧ RolesOk s

/-- The masters that manage the device from outside: the maintenance port and PF0 (R4, R8). -/
def Manages (via : Master) : Prop := via = .maint ∨ via = .pf0

/-- A page takes a master's command: the master's writes are served and no command runs on the page (R163, R188). -/
def PageReady (s : State) (page : Nat) (via : Master) : Prop := served s via true = true ∧ runningOn s page = none

/-- The words of the command registers of a page: arguments, PAGE_CMD, result and outputs (R153). -/
def CmdWord (page a : Nat) : Prop := page + Reg.CMD_ARG ≤ a ∧ a < page + Reg.CMD_OUT + 12

/-- Every register word but those of `P` reads as before. -/
def RegsKept (s t : State) (P : Nat → Prop) : Prop := ∀ a, ¬P a → rd t a = rd s a

/-- A command of a page has ended: its result, done and not refused, with its code, sequence number and status, its
arguments and outputs; no other register word has changed (R163, R166). -/
def CmdEnded (s t : State) (page code seq status : Nat) (args outs : Word × Word × Word) : Prop :=
  rd t (page + Reg.CMD_RESULT) = w32 (1 + 256 * status + 65536 * code + 2 ^ 24 * seq)
    ∧ runningOn t page = none
    ∧ (rd t (page + Reg.CMD_ARG) = args.1 ∧ rd t (page + Reg.CMD_ARG + 4) = args.2.1
      ∧ rd t (page + Reg.CMD_ARG + 8) = args.2.2)
    ∧ (rd t (page + Reg.CMD_OUT) = outs.1 ∧ rd t (page + Reg.CMD_OUT + 4) = outs.2.1
      ∧ rd t (page + Reg.CMD_OUT + 8) = outs.2.2)
    ∧ RegsKept s t (CmdWord page)

/-- The command of a page has ended with a status: its result word, and no command runs on the page (R163). -/
def Answered (t : State) (page code seq status : Nat) : Prop :=
  rd t (page + Reg.CMD_RESULT) = w32 (1 + 256 * status + 65536 * code + 2 ^ 24 * seq) ∧ runningOn t page = none

/-- A command of a page has been accepted and runs, with its arguments as latched; its result is not yet done; nothing
else of the state has changed (R163). -/
def CmdRuns (s t : State) (page code seq : Nat) (via : Master) (args : Word × Word × Word) : Prop :=
  runningOn t page = some ⟨page, code, seq, via, args.1, args.2.1, args.2.2⟩
    ∧ rd t (page + Reg.CMD_RESULT) = w32 (65536 * code + 2 ^ 24 * seq)
    ∧ RegsKept s t (CmdWord page)

/-- The request buffer of a slice's table unit (R496). -/
def tblReq (s : State) (sl : SliceId) : List Byte :=
  (List.range 10).flatMap (fun k => wordBytes (rd s (pgTbl sl + Reg.TBL_REQ + 4 * k)))

/-- A slice's table unit takes the commands of a manager (R498, R500, R503): its page is idle, the device not in recovery,
no command waits, the plan grants learning events. -/
def TblReady (s : State) (sl : SliceId) (via : Master) : Prop :=
  PageReady s (pgTbl sl) via ∧ Manages via ∧ s.power.phase ≠ .recovery ∧ (getTbl s sl).job = none
    ∧ (planInForce s).any (fun e => e.key == acct 6 0 && decide (0 < e.work)) = true

/-- What a cold device reset leaves of the units of the device (R202, R203): every register and table at its reset value,
DRAM contents lost, time and tick at zero, no slice accepted; bring-up has not begun. -/
def ColdCleared (s t : State) : Prop :=
  t.regs = [] ∧ t.eff = [] ∧ t.wide = [] ∧ t.running = [] ∧ t.mem = [] ∧ t.tbl = [] ∧ t.ports = [] ∧ t.logs = []
    ∧ t.pcie = PcieUnit.reset ∧ t.queues = QueueUnit.reset ∧ t.pipe = PipeUnit.reset ∧ t.sched = SchedUnit.reset
    ∧ t.cbp = CbpUnit.reset ∧ t.evc = EvcUnit.reset ∧ t.cip = State.reset.cip ∧ t.crt = State.reset.crt
    ∧ t.mbx = State.reset.mbx ∧ t.cus = State.reset.cus ∧ t.cred = State.reset.cred ∧ t.alog = State.reset.alog
    ∧ t.ecc = State.reset.ecc ∧ t.time.ptp = 0 ∧ t.time.timeValid = false ∧ t.tck = TickUnit.reset
    ∧ t.red.accepted = none ∧ t.power.phase = .startup ∧ t.power.bringupDone = false ∧ t.power.bringing = none
    ∧ t.power.warmCnt = 0 ∧ t.pending = s.pending

/-- A custody request has been answered with a status (R363): its seq is the last of its channel, no command runs on the
channel's page, and the request waits no longer. -/
def CustodyEnded (t : State) (q : CusReq) (status : Nat) : Prop :=
  (getCch t q.chan).lastSeq = some q.seq ∧ (getCch t q.chan).status = status ∧ runningOn t (pgCch q.chan) = none
    ∧ ∀ x ∈ t.cus.queue, x.chan ≠ q.chan

/-- A Crimson alarm has acted (R695): every root key slot is empty, the store is in the erased lock, the policy is no
longer sealed. -/
def Zeroized (t : State) : Prop :=
  (∀ k, k < 16 → (getSlot t k).sel = none ∧ (getSlot t k).half = none) ∧ t.vkeep.erasedLock = true ∧ t.vkeep.sealed = false

/-- A message of type `ty` with a body of `n` bytes can be built and sent on a channel in one step (R597): the gatekeepers
are open, the outbound association is fit and has numbers left, its key is cached, and credits, blocks and a cell are there. -/
def CrtMaySend (s : State) (c ty n : Nat) : Prop :=
  gkOpen s = true ∧ s.power.bringupDone = true ∧ crtAssocOk s (chPage s c) (chOut s c) true = true
    ∧ canStart s (crtAcct ty) 1 0 = true ∧ 0 < blocksLeft s 2
    ∧ unitBlocks 32 n ≤ blocksLeft (useCredits s (crtAcct ty) 1 0) 2 ∧ 0 < s.pipe.freeCells
    ∧ cached s s.worker (32 * chPage s c + chOut s c) ≠ []
    ∧ fbit (rd s (pgTenCip (chPage s c) + Reg.CP_EXHAUSTED)) (chOut s c) = false
    ∧ saPn s (chPage s c) (chOut s c) < 2 ^ 64 - 1

/-- A message has been sent on a channel (R591, R594, R597): its frame, encrypted under the next packet number, waits for
the pipeline; the number is used up; a message is counted. -/
def CrtSent (s t : State) (c ty gap rInc session seq : Nat) (body : List Byte) : Prop :=
  let pn := saPn s (chPage s c) (chOut s c)
  let h := crtHeader s c ty gap rInc session pn seq
  let g := gcmSeal (cached s s.worker (32 * chPage s c + chOut s c)) (beBytes 4 (nodeId s) ++ beBytes 8 pn) h body
  t.pipe.q1 = s.pipe.q1 ++ [.carlis s.pipe.nextFrame (peerPort s (chPeer s c)) (peerClass s (chPeer s c))]
    ∧ (getFrame t s.pipe.nextFrame).map (·.data) = some (crtFrame s c (h ++ g.1 ++ g.2))
    ∧ saPn t (chPage s c) (chOut s c) = pn + 1 ∧ rd t (pgCrt + Reg.CRT_TX_MSG) = rd s (pgCrt + Reg.CRT_TX_MSG) + 1

/-- The first received message is one of type `ty` of an open channel that the cipher accepts in one step, with this body
(R582, R592 to R597). -/
def CrtArrives (s : State) (ty : Nat) (h : CrtHdr) (body : List Byte) : Prop :=
  ∃ id f, s.pipe.toCarlis.head? = some id ∧ getFrame s id = some f ∧ f.whole = true ∧ f.poisoned = false ∧ gkOpen s = true
    ∧ draining s = false ∧ s.crt.rx = none ∧ crtJudge s f.data = .msg h ∧ h.ty = ty
    ∧ crtAssocOk s (chPage s h.chan) (chIn s h.chan) false = true
    ∧ replayOk s (32 * chPage s h.chan + chIn s h.chan) (saBytes s (chPage s h.chan) (chIn s h.chan)) h.pn = true
    ∧ cached s s.worker (32 * chPage s h.chan + chIn s h.chan) ≠ []
    ∧ holdOf s 0 + cellsFor h.body.length ≤ fld (rdEff s (pgCip s.worker + Reg.CIP_HOLD_LIMIT)) 14 0
    ∧ holdAll s + cellsFor h.body.length ≤ 16384 ∧ canStart s (crtAcct ty) 1 0 = true ∧ 0 < blocksLeft s 2
    ∧ unitBlocks 32 h.body.length ≤ blocksLeft (useCredits s (crtAcct ty) 1 0) 2
    ∧ gcmOpen (cached s s.worker (32 * chPage s h.chan + chIn s h.chan)) (beBytes 4 h.node ++ beBytes 8 h.pn) h.head h.body h.tag
      = some body
    ∧ bodyBad ty body = false

/-- The first received message has been taken in (R597): it has left the engine's queue and is counted. -/
def CrtTaken (s t : State) : Prop :=
  t.pipe.toCarlis = s.pipe.toCarlis.drop 1 ∧ rd t (pgCrt + Reg.CRT_RX_MSG) = rd s (pgCrt + Reg.CRT_RX_MSG) + 1

end Sys2Proof.Machine
end

