-- ==== Sys2Proof/Certificates/Slice0/Obligations.lean ====
section
/-! DEFINITION. The statements about the device, for the provers. -/
open Sys2Proof Sys2Proof.Machine

/-- For every command c and state s, a step with c at the front of the queue is exec of c on the state with the rest of the queue. With an empty queue the step leaves the state as it is (the model's own convention, log entry 2). -/
def Obligations.StepTakesFront : Prop :=
  (∀ (c : Instr) (rest : List Instr) (s : State), s.pending = c :: rest → step s = exec c { s with pending := rest })
  ∧ (∀ s : State, s.pending = [] → step s = .next s)

/-- The state right after reset meets the invariant: registers, windows and DRAM are in canonical form and at most one slice is active. Ochre is active and Slate standby, the phase is start-up with bring-up ended, PTP time and tick counter are zero and not yet valid, no command waits or runs, no port or DRAM channel is configured. -/
def Obligations.ResetIsSound : Prop :=
  Sound State.reset ∧ State.reset.pending = [] ∧ State.reset.running = []
  ∧ State.reset.red.ochre.role = .active ∧ State.reset.red.slate.role = .standby
  ∧ State.reset.power.phase = .startup ∧ State.reset.power.bringupDone = true
  ∧ State.reset.time.timeValid = false ∧ State.reset.tck.committed = false
  ∧ State.reset.ports = [] ∧ State.reset.mem = [] ∧ phaseCmd State.reset = none

/-- For every sound state s, if a step answers the next state t, then t is sound: the registers, windows and DRAM blocks are in canonical form, and at most one slice is active. -/
def Obligations.StepKeepsInv : Prop :=
  ∀ s t : State, Sound s → step s = .next t → Sound t

/-- For every state in recovery with no phase command waiting, every command but those that reset the device (POWER_ON, PERST_ASSERT, CORE_RAIL_LOSS, SYSCLK_LOSS, WARM_RESET_ASSERT) or end a bring-up stage leaves the device in recovery with no phase command waiting. The rows of a phase command are refused there and so never wait. -/
def Obligations.RecoveryLeftOnlyByReset : Prop :=
  ∀ (c : Instr) (s t : State), InRecovery s → exec c s = .next t →
    (∀ n, c ≠ .powerOn n) → c ≠ .perstAssert → c ≠ .coreRailLoss → c ≠ .sysclkLoss → (∀ l, c ≠ .warmResetAssert l) →
    (∀ us f, c ≠ .bringupStageEnd us f) → InRecovery t

/-- For every command c and state s, exec answers a next state: no command and no data ends a run. That state holds the same queue of waiting commands. -/
def Obligations.CommandsAnswer : Prop :=
  ∀ (c : Instr) (s : State), ∃ t, exec c s = .next t ∧ t.pending = s.pending

/-- POWER_ON, PERST_ASSERT and a loss of a core rail or of SYSCLK clear the whole device: every register, table and queue returns to its reset value, DRAM contents are lost, PTP time and the tick counter are zero, no slice is accepted, the warm-reset count is 0, and bring-up has not begun. Root keys and tamper record stay, but where a loss of SYSCLK raises source 0x04. SYS_RESET_CAUSE reads cold_power_on, or cold_perst where PERST# was asserted. -/
def Obligations.ColdReset : Prop :=
  ∀ s : State,
  (∀ secs, ∃ t, exec (.powerOn secs) s = .next t ∧ ColdCleared s t ∧ t.power.mainRails = true ∧ t.power.monitorHold = true
    ∧ t.power.cause = 1 ∧ t.vkeep.slots = s.vkeep.slots ∧ t.vkeep.crimsons = s.vkeep.crimsons)
  ∧ (s.power.perstLow = false → s.power.mainRails = true → ∃ t, exec .perstAssert s = .next t ∧ ColdCleared s t
    ∧ t.power.perstLow = true ∧ t.power.cause = 2 ∧ t.vkeep = s.vkeep)
  ∧ (s.power.mainRails = true → ∃ t, exec .coreRailLoss s = .next t ∧ ColdCleared s t ∧ t.power.monitorHold = true
    ∧ t.power.cause = 1 ∧ t.vkeep = s.vkeep)
  ∧ (s.power.mainRails = true → ∃ t, exec .sysclkLoss s = .next t ∧ ColdCleared s t ∧ t.power.monitorHold = true
    ∧ t.power.cause = 1 ∧ (alarmLevel s 4 ≤ 1 → t.vkeep.slots = s.vkeep.slots)
    ∧ (alarmLevel s 4 = 2 → s.vkeep.present = true → nbit s.vkeep.active.toNat 4 = false → t.vkeep.erasedLock = true))

/-- PERST# deasserted on a powered device starts bring-up stage 0 unless the power-on monitor holds the device; the release of the monitor starts it where PERST# is already high, and sets early_perst; the release of the internal reset starts it after a warm reset. Nothing else changes. Where PERST# is still low or the monitor still holds, only that level changes. -/
def Obligations.BringupBegins : Prop :=
  ∀ s : State,
  (s.power.perstLow = true → s.power.mainRails = true → s.power.monitorHold = false →
    exec .perstDeassert s = .next { s with power := { s.power with
      perstLow := false, bringing := some 0, lastStage := none, elapsedUs := 0 } })
  ∧ (s.power.perstLow = true → (s.power.mainRails = false ∨ s.power.monitorHold = true) →
    exec .perstDeassert s = .next { s with power := { s.power with perstLow := false } })
  ∧ (s.power.mainRails = true → s.power.monitorHold = true → s.power.perstLow = false →
    exec .powerOnMonitorRelease s = .next { s with power := { s.power with
      monitorHold := false, bringing := some 0, lastStage := none, elapsedUs := 0, cause := s.power.cause ||| 0x10 } })
  ∧ (s.power.mainRails = true → s.power.monitorHold = true → s.power.perstLow = true →
    exec .powerOnMonitorRelease s = .next { s with power := { s.power with monitorHold := false } })
  ∧ (s.power.warm = .asserted → exec .internalResetRelease s = .next { s with power := { s.power with
      warm := .idle, bringing := some 0, lastStage := none, elapsedUs := 0 } })

/-- The end of stage k is recorded and stage k + 1 starts; TEST_EN stops bring-up after stage 1, and nothing follows stage 5. In stages 2 and 3 a failing code of R784 takes its part out of service and the first code is recorded. Stage 4 makes Ochre active with claim 0xC0 and Slate standby with claim 0x80 where both passed, and makes Slate active where only Slate passed. At the end of stage 5 bringup_done is 1 and the phase is start-up. -/
def Obligations.BringupStages : Prop :=
  ∀ (s : State) (us : Nat) (failed : List Byte) (k : Nat), s.power.bringing = some k → ∃ t,
  exec (.bringupStageEnd us failed) s = .next t ∧ t.power.lastStage = some k ∧ t.power.elapsedUs = s.power.elapsedUs + us
  ∧ t.power.bringing = (if (k = 1 ∧ s.power.testEn = true) ∨ k = 5 then none else some (k + 1))
  ∧ (k = 2 → (t.power.ochreOk = (s.power.ochreOk && !failed.any (fun c => decide (0x10 ≤ c.toNat ∧ c.toNat ≤ 0x15)))
    ∧ t.power.slateOk = (s.power.slateOk && !failed.any (fun c => decide (0x20 ≤ c.toNat ∧ c.toNat ≤ 0x25)))
    ∧ t.power.edgeOk = (s.power.edgeOk && !failed.any (fun c => decide (1 ≤ c.toNat ∧ c.toNat ≤ 5)))))
  ∧ (k = 4 → s.power.ochreOk = true → t.red.accepted = some .ochre ∧ t.red.ochre.role = .active ∧ t.red.ochre.claim = 0xC0
    ∧ (s.power.slateOk = true → t.red.slate.role = .standby ∧ t.red.slate.claim = 0x80)
    ∧ (s.power.slateOk = false → t.red.slate.role = .out ∧ t.red.slate.claim = 0 ∧ t.red.slate.retired = true))
  ∧ (k = 4 → s.power.ochreOk = false → s.power.slateOk = true → t.red.accepted = some .slate ∧ t.red.slate.role = .active
    ∧ t.red.ochre.role = .out ∧ t.red.ochre.claim = 0 ∧ t.red.ochre.retired = true)
  ∧ (k = 5 → t.power.bringupDone = true ∧ t.power.phase = .startup)

/-- DEVICE_RESET with 0xA5A5 from a manager is accepted in every phase: its command runs and never ends, and the warm reset is under way; nothing but the page's command registers changes. With another argument it ends with BAD_ARG and no reset is under way. At least 10 µs of boundaries after the gatekeepers closed, the internal reset is asserted: bring-up has not begun again, the phase is start-up, the warm-reset count has grown by one, every register is at its reset value, and a DRAM channel that was in use keeps its blocks exactly where dram_retain_en was set and it was not late. -/
def Obligations.WarmReset : Prop :=
  ∀ s : State,
  (∀ via seq, Memory.wf s = true → PageReady s pgSys via → Manages via → ∃ t, exec (.deviceReset via seq 0xA5A5) s = .next t
    ∧ CmdRuns s t pgSys 4 seq.toNat via (0xA5A5, 0, 0) ∧ t.power.warm = .accepted ∧ t.power.warmVia = via
    ∧ { t with regs := s.regs, running := s.running, power := s.power } = s)
  ∧ (∀ late, s.power.warm = .closed → passed s s.power.warmAt (cdiv 10000 s.T) = true → ∃ t,
    exec (.warmResetAssert late) s = .next t ∧ t.power.warm = .asserted ∧ t.power.phase = .startup
    ∧ t.power.bringupDone = false ∧ t.power.warmCnt = satAt 65535 (s.power.warmCnt + 1) ∧ t.eff = [] ∧ t.running = []
    ∧ t.time.ptp = 0 ∧ t.vkeep = s.vkeep
    ∧ ∀ n : Fin 4, (getChan t n.val).blocks =
        if ((getChan s n.val).st = .idle ∨ (getChan s n.val).st = .running) ∧ fbit (rd s (pgSys + Reg.PAGE_CTL)) 0 = true
          ∧ n ∉ late then (getChan s n.val).blocks else [])

/-- In an allowed phase a manager's phase command is accepted and waits; nothing but the page's command registers changes. At the next boundary, where no recovery is due, the phase becomes normal service, test, or the phase test was entered from, the command has ended, and entering test keeps the phase it was entered from. Where recovery is due, the phase becomes recovery whatever waits. -/
def Obligations.PhaseCommands : Prop :=
  ∀ (s : State) (via : Master) (seq : Byte),
  (Memory.wf s = true → PageReady s pgSys via → Manages via →
    (s.power.phase = .startup → s.tck.committed = true → s.tck.planActive = true →
      ∃ t, exec (.enterService via seq) s = .next t ∧ CmdRuns s t pgSys 1 seq.toNat via (0, 0, 0)
        ∧ { t with regs := s.regs, running := s.running } = s)
    ∧ (s.power.phase = .startup ∨ s.power.phase = .normal →
      ∃ t, exec (.enterTest via seq) s = .next t ∧ CmdRuns s t pgSys 2 seq.toNat via (0, 0, 0)
        ∧ { t with regs := s.regs, running := s.running } = s)
    ∧ (s.power.phase = .test →
      ∃ t, exec (.exitTest via seq) s = .next t ∧ CmdRuns s t pgSys 3 seq.toNat via (0, 0, 0)
        ∧ { t with regs := s.regs, running := s.running } = s))
  ∧ (∀ k, s.power.recoverPend = none → phaseCmd s = some k → (phaseBoundary s).power.phase =
      (if k = 1 then .normal else if k = 2 then .test else s.power.testFrom)
    ∧ (k = 2 → (phaseBoundary s).power.testFrom = s.power.phase) ∧ phaseCmd (phaseBoundary s) = none)
  ∧ (∀ c, s.power.recoverPend = some c → (phaseBoundary s).power.phase = .recovery
    ∧ (phaseBoundary s).power.faultN = true ∧ phaseCmd (phaseBoundary s) = none)

/-- While a command runs on the SYS, TMS, TCK or PWR page, a command row of that page sets CMD_RESULT.refused: the running commands stay as they are, the row has written its arguments, no other register word changes, and nothing else of the state changes. The end of a command keeps refused as it is, and the next accepted command clears it. -/
def Obligations.BusyRefused : Prop :=
  ∀ (s : State), Memory.wf s = true → s.power.bringupDone = true →
  (∀ (via : Master) (seq : Byte) (a0 a1 a2 : Word) (i : Instr) (page : Nat),
    (i, page) ∈ [(Instr.setTime via seq a0 a1 a2, pgTms), (.snapshot via seq, pgTms), (.commitPeriod via seq, pgTck),
      (.armPlan via seq, pgTck), (.loadCoef via seq, pgPwr), (.enterService via seq, pgSys), (.deviceReset via seq a0, pgSys)] →
    (runningOn s page).isSome = true → ∃ t, exec i s = .next t
      ∧ rd t (page + Reg.CMD_RESULT) = rd s (page + Reg.CMD_RESULT) ||| 2
      ∧ RegsKept s t (fun a => (page + Reg.CMD_ARG ≤ a ∧ a < page + Reg.CMD_ARG + 12) ∨ a = page + Reg.CMD_RESULT)
      ∧ { t with regs := s.regs } = s)
  ∧ (∀ page st o0 o1 o2, (runningOn s page).isSome = true →
    fbit (rd (finishCmd s page st o0 o1 o2) (page + Reg.CMD_RESULT)) 1 = fbit (rd s (page + Reg.CMD_RESULT)) 1)
  ∧ (∀ via seq, runningOn s pgTms = none → Manages via → ∃ t, exec (.snapshot via seq) s = .next t
    ∧ fbit (rd t (pgTms + Reg.CMD_RESULT)) 1 = false)

/-- Where recovery is due at a boundary at which a SYS phase command waits, the phase becomes recovery and the command ends with FAULT: done, with the code of FAULT as its status. -/
def Obligations.RecoveryEndsPhaseCommand : Prop :=
  ∀ (s : State) (c : Cause) (k : Nat), Memory.wf s = true → s.power.recoverPend = some c → phaseCmd s = some k →
  (phaseBoundary s).power.phase = .recovery ∧ phaseCmd (phaseBoundary s) = none
  ∧ fbit (rd (phaseBoundary s) (pgSys + Reg.CMD_RESULT)) 0 = true
  ∧ fld (rd (phaseBoundary s) (pgSys + Reg.CMD_RESULT)) 15 8 = 0xA

/-- When VKEEP is first applied the custody store and tamper record are empty with erased_lock and blank set; when it is lost, the store, the record and the policy are gone and the unit is absent. A glitch of a core rail out of reset raises source 0x05 and changes nothing of the phase, the tick or the roles. -/
def Obligations.VkeepAndGlitch : Prop :=
  ∀ s : State,
  (s.vkeep.present = false → exec .vkeepFirstApply s = .next { s with vkeep := VkeepUnit.fresh })
  ∧ exec .vkeepLoss s = .next { s with vkeep := { VkeepUnit.fresh with present := false } }
  ∧ VkeepUnit.fresh.slots = [] ∧ VkeepUnit.fresh.crimsons = 0 ∧ VkeepUnit.fresh.erasedLock = true ∧ VkeepUnit.fresh.blank = true
  ∧ (outOfReset s = true → s.vkeep.present = true → alarmLevel s 5 = 1 → ∃ t, exec .coreRailGlitch s = .next t
    ∧ nbit t.vkeep.latch.toNat 5 = true ∧ t.vkeep.slots = s.vkeep.slots ∧ t.power = s.power ∧ t.tck = s.tck ∧ t.red = s.red)
  ∧ (outOfReset s = true → s.vkeep.present = true → alarmLevel s 5 = 2 → ∃ t, exec .coreRailGlitch s = .next t
    ∧ t.vkeep.erasedLock = true ∧ t.vkeep.lastSrc = 5 ∧ t.power = s.power ∧ t.tck = s.tck ∧ t.red = s.red)
  ∧ (outOfReset s = true → alarmLevel s 5 = 0 → exec .coreRailGlitch s = .next s)

/-- In a device whose bring-up has ended, with no TMS command waiting and no period commit due, the boundary adds to PTP time what the cycles of the ended tick amount to; it counts one boundary; while the phase error stays within TCK_LOCK_LIMIT the tick number rises by one and the length follows the phase error; what had been written to the registers by the end of the tick's own steps is in force. A device still in bring-up has no boundary. -/
def Obligations.TickBoundary : Prop :=
  ∀ (b : Boundary) (s : State),
  (s.power.bringupDone = false → exec (.tickBoundary b) s = .next s)
  ∧ (s.power.bringupDone = true → runningOn s pgTms = none → s.tck.commitPend = false → ∃ t,
    exec (.tickBoundary b) s = .next t
    ∧ t.time.ptp = s.time.ptp + tickElapsed s b.refDrift
    ∧ t.tck.boundaries = s.tck.boundaries + 1 ∧ t.tck.cycles = s.tck.cycles + s.tck.len ∧ t.tck.period = s.tck.period
    ∧ ((phaseOf t.time.ptp (s.tck.tick + 1) s.T).natAbs ≤ 160 * fld (rd s (pgTck + Reg.TCK_LOCK_LIMIT)) 7 0 →
        t.tck.tick = (s.tck.tick + 1) % 2 ^ 64 ∧ t.tck.phi = phaseOf t.time.ptp (s.tck.tick + 1) s.T
        ∧ t.tck.len = (if t.tck.phi < -80 then s.T * 8 / 5 + 1 else if 80 < t.tck.phi then s.T * 8 / 5 - 1 else s.T * 8 / 5))
    ∧ (∀ a, rdEff t a = rd (tickStart b s) a))

/-- From a manager, served now, on an idle TMS page, in every phase, SET_TIME with less than 10^9 ns, STEP within 999,999,999 ns either way and SNAPSHOT are accepted and wait; nothing but the page's command registers changes. At the next boundary SET_TIME gives PTP time its arguments and sets time_valid, STEP adds its offset to the time reached, and SNAPSHOT leaves the time alone; the command has then ended. A SET_TIME of 10^9 ns or more is not applied. -/
def Obligations.TimeCommands : Prop :=
  ∀ (s : State) (via : Master) (seq : Byte) (a0 a1 a2 : Word), Memory.wf s = true →
  (PageReady s pgTms via → Manages via →
    (a0.toNat < 10 ^ 9 → ∃ t, exec (.setTime via seq a0 a1 a2) s = .next t ∧ CmdRuns s t pgTms 1 seq.toNat via (a0, a1, a2)
      ∧ { t with regs := s.regs, running := s.running } = s)
    ∧ ((sgn32 a0).natAbs ≤ 999999999 → ∃ t, exec (.stepTime via seq a0) s = .next t
      ∧ CmdRuns s t pgTms 2 seq.toNat via (a0, 0, 0) ∧ { t with regs := s.regs, running := s.running } = s)
    ∧ (∃ t, exec (.snapshot via seq) s = .next t ∧ CmdRuns s t pgTms 3 seq.toNat via (0, 0, 0)
      ∧ { t with regs := s.regs, running := s.running } = s)
    ∧ (10 ^ 9 ≤ a0.toNat → ∃ t, exec (.setTime via seq a0 a1 a2) s = .next t ∧ runningOn t pgTms = none
      ∧ t.time = s.time ∧ t.tck = s.tck))
  ∧ (∀ (c : RunCmd) (d : Int), runningOn s pgTms = some c →
    (c.code = 1 → (advanceTime s d).time.ptp
        = ((c.a1.toNat + 2 ^ 32 * fld c.a2 15 0) * 10 ^ 9 + c.a0.toNat) * ptpPerNs ∧ (advanceTime s d).time.timeValid = true)
    ∧ (c.code = 2 → 0 ≤ (s.time.ptp + tickElapsed s d : Int) + sgn32 c.a0 * ptpPerNs →
        (s.time.ptp + tickElapsed s d : Int) + sgn32 c.a0 * ptpPerNs < 2 ^ 48 * 10 ^ 9 * ptpPerNs →
        ((advanceTime s d).time.ptp : Int) = (s.time.ptp + tickElapsed s d : Int) + sgn32 c.a0 * ptpPerNs)
    ∧ (c.code = 3 → (advanceTime s d).time.ptp = s.time.ptp + tickElapsed s d)
    ∧ runningOn (advanceTime s d) pgTms = none)

/-- PPS_OUT falls once at least TMS_PPS_OUT_WIDTH microseconds have passed since its rise, and nothing else changes. A PPS_IN edge with pps_in_en set captures the compact timestamp of its cycle, sets pps_in_new and counts one edge; the time, the tick and every unit but the register words stay. With pps_in_en clear it does nothing. Loss of REF10M_IN marks it absent and asks for the fall back where it is in use; its return marks it present. -/
def Obligations.TimingPins : Prop :=
  ∀ (s : State) (cyc : Nat),
  (s.time.ppsOut = true → s.time.ppsRiseAt + 1600 * fld (rd s (pgTms + Reg.TMS_PPS_OUT_WIDTH)) 19 0 ≤ s.tck.cycles →
    exec .ppsOutFall s = .next { s with time := { s.time with ppsOut := false } })
  ∧ (fbit (rd s (pgTms + Reg.PAGE_CTL)) 2 = false → exec (.ppsInEdge cyc) s = .next s)
  ∧ (Memory.wf s = true → fbit (rd s (pgTms + Reg.PAGE_CTL)) 2 = true → ∃ t, exec (.ppsInEdge cyc) s = .next t
    ∧ rd t (pgTms + Reg.TMS_PPS_IN_LO) = lo32 (compactStamp (ptpAtCycle s cyc))
    ∧ rdWide t (pgTms + Reg.TMS_PPS_IN_LO) = compactStamp (ptpAtCycle s cyc)
    ∧ rd t (pgTms + Reg.TMS_PPS_IN_CNT) = rd s (pgTms + Reg.TMS_PPS_IN_CNT) + 1
    ∧ t.time = { s.time with ppsInNew := true } ∧ t.tck = s.tck ∧ t.running = s.running
    ∧ (s.time.ppsInNew = true → fbit (rd t (pgTms + Reg.PAGE_ERR)) 1 = true))
  ∧ exec .ref10mLoss s = .next { s with time := { s.time with
      ref10Present := false, refFallback := s.time.refFallback || s.time.ref10InUse } }
  ∧ exec .ref10mRestored s = .next { s with time := { s.time with ref10Present := true } }

/-- With three copies in the vote an outvoted copy is noted for the boundary and counted in TCK_VOTE_CNT; the roles, the tick and the phase stay. A copy outvoted in 16 consecutive ticks is fenced off, and nothing else changes. With one copy fenced off, a difference of another copy makes recovery due at the next boundary, and a difference of the fenced copy does nothing. -/
def Obligations.TickCopies : Prop :=
  ∀ (s : State) (copy : Fin 3),
  (Memory.wf s = true → s.tck.fenced = none → ∃ t, exec (.tickCopyOutvoted copy) s = .next t
    ∧ t.tck = { s.tck with outvoted := some copy }
    ∧ rd t (pgTck + Reg.TCK_VOTE_CNT) = rd s (pgTck + Reg.TCK_VOTE_CNT) + 1
    ∧ fbit (rd t (pgTck + Reg.PAGE_ERR)) 3 = true ∧ t.power = s.power ∧ t.red = s.red ∧ t.time = s.time)
  ∧ (s.tck.fenced = none → 16 ≤ tget (fun _ => 0) s.tck.runs copy.val →
    exec (.tickCopyFence copy) s = .next { s with tck := { s.tck with fenced := some copy } })
  ∧ (∀ f, s.tck.fenced = some f → f ≠ copy → s.power.phase ≠ .recovery → ∃ t, exec (.tickCopyOutvoted copy) s = .next t
    ∧ t.power.recoverPend.isSome = true ∧ (s.power.recoverPend = none → t.power.recoverPend = some ⟨2, 0, 3⟩)
    ∧ t.power.phase = s.power.phase ∧ t.tck = s.tck)
  ∧ (s.tck.fenced = some copy → exec (.tickCopyOutvoted copy) s = .next s)

/-- From a manager, served now, on an idle TCK page: in start-up an uncommitted period is committed; once committed, a shadow bank that passes the checks is armed and one that fails is refused with BAD_ARG and the outputs of the first failing check, arming nothing; an armed bank is disarmed. Each ends at once with OK (or BAD_ARG) and changes nothing but that flag and the page's command registers (and, for BAD_ARG, the error record). An armed bank whose activation tick has come becomes active: the banks change places and keep their contents. -/
def Obligations.PeriodAndPlan : Prop :=
  ∀ (s : State) (via : Master) (seq : Byte),
  (Memory.wf s = true → PageReady s pgTck via → Manages via →
    (s.power.phase = .startup → s.tck.committed = false → ∃ t, exec (.commitPeriod via seq) s = .next t
      ∧ CmdEnded s t pgTck 1 seq.toNat 0 (0, 0, 0) (0, 0, 0)
      ∧ { t with regs := s.regs } = { s with tck := { s.tck with committed := true, commitPend := true } })
    ∧ (s.tck.committed = true → s.tck.armed = false → planCheck s (shadowBank s) = none →
      ∃ t, exec (.armPlan via seq) s = .next t ∧ CmdEnded s t pgTck 2 seq.toNat 0 (0, 0, 0) (0, 0, 0)
      ∧ { t with regs := s.regs } = { s with tck := { s.tck with armed := true } })
    ∧ (s.tck.armed = true → ∃ t, exec (.disarm via seq) s = .next t
      ∧ CmdEnded s t pgTck 3 seq.toNat 0 (0, 0, 0) (0, 0, 0)
      ∧ { t with regs := s.regs } = { s with tck := { s.tck with armed := false } })
    ∧ (∀ o, s.tck.committed = true → s.tck.armed = false → planCheck s (shadowBank s) = some o →
      ∃ t, exec (.armPlan via seq) s = .next t ∧ { t with regs := s.regs } = s
      ∧ rd t (pgTck + Reg.CMD_OUT) = o.1 ∧ rd t (pgTck + Reg.CMD_OUT + 4) = o.2.1 ∧ rd t (pgTck + Reg.CMD_OUT + 8) = o.2.2))
  ∧ (s.tck.armed = true → planActivation (shadowBank s) ≤ s.tck.tick →
    exec .planActivate s = .next { s with tck := { s.tck with
      armed := false, activeBank := !s.tck.activeBank, planActive := true } })

/-- From a manager, served now, on an idle PWR page with no load pending, a shadow bank that passes the checks waits for its boundary, and RESTORE_DEFAULT puts the characterised table into the shadow bank and leaves the active one; while a load is pending both end with BUSY and change nothing but the page's command registers. A change of PSHED_N is only the level of the pin. A target at or below the effective envelope takes effect at once; above it the envelope rises by the ramp step, never past the target, once the ramp interval since the last rise has passed, and then waits for the next; before that it stays. -/
def Obligations.GovernorCommands : Prop :=
  ∀ (s : State) (via : Master) (seq : Byte),
  (Memory.wf s = true → PageReady s pgPwr via → Manages via →
    (s.gov.loadPend = false → coefCheck (shadowCoef s) = none → ∃ t, exec (.loadCoef via seq) s = .next t
      ∧ CmdEnded s t pgPwr 1 seq.toNat 0 (0, 0, 0) (0, 0, 0)
      ∧ { t with regs := s.regs } = { s with gov := { s.gov with loadPend := true } })
    ∧ (s.gov.loadPend = false → ∃ t, exec (.restoreDefault via seq) s = .next t
      ∧ CmdEnded s t pgPwr 2 seq.toNat 0 (0, 0, 0) (0, 0, 0) ∧ shadowCoef t = [] ∧ activeCoefBank t = activeCoefBank s
      ∧ { t with regs := s.regs, gov := s.gov } = s)
    ∧ (s.gov.loadPend = true →
      (∃ t, exec (.loadCoef via seq) s = .next t ∧ CmdEnded s t pgPwr 1 seq.toNat 1 (0, 0, 0) (0, 0, 0)
        ∧ { t with regs := s.regs } = s)
      ∧ (∃ t, exec (.restoreDefault via seq) s = .next t ∧ CmdEnded s t pgPwr 2 seq.toNat 1 (0, 0, 0) (0, 0, 0)
        ∧ { t with regs := s.regs } = s)))
  ∧ (∀ low, exec (.pshedChange low) s = .next { s with gov := { s.gov with pshedLow := low } })
  ∧ (envelopeTarget s ≤ s.gov.pEff →
    exec .envelopeRampStep s = .next { s with gov := { s.gov with pEff := envelopeTarget s, rampWait := none } })
  ∧ (s.gov.pEff < envelopeTarget s →
    (rampDue s = true → exec .envelopeRampStep s = .next { s with gov := { s.gov with
      pEff := Nat.min (s.gov.pEff + fld (rdEff s (pgPwr + Reg.PWR_RAMP)) 23 16) (envelopeTarget s)
      rampWait := some (fld (rdEff s (pgPwr + Reg.PWR_RAMP)) 15 0 - 1) } })
    ∧ (rampDue s = false → exec .envelopeRampStep s = .next s))

/-- Whatever the plan, the coefficients, the wants and the ledger copies: the energy that the grants of a boundary amount to, at the unit costs in force, is at most the account budget of the tick, and so is it together with what is left for units that join later. -/
def Obligations.GrantsWithinBudget : Prop :=
  ∀ (s : State) (waiting bufs : Nat → Nat) (ledger : List (Nat × Nat)),
  (grantCredits s waiting bufs ledger).gov.granted + (grantCredits s waiting bufs ledger).gov.spare
      ≤ (grantCredits s waiting bufs ledger).gov.budget
  ∧ (grantCredits s waiting bufs ledger).gov.budget = accountBudget s.gov.pEff (standingPower s) s.T

/-- A word written by a manager to a block page outside recovery: PAGE_SCRATCH takes the whole word; of SYS_APERTURE bits [11:0] are taken and reserved bits stay; PAGE_ERR loses the bits written as 1 and no others; a read-only register stays. No other register word changes, and nothing but registers. Until the boundary the value in force stays what it was. -/
def Obligations.RegisterWrites : Prop :=
  ∀ (s : State) (via : Master) (w : Word), Memory.wf s = true → Manages via → served s via true = true →
  s.power.phase ≠ .recovery →
  (∀ a p, a < 0x400000 → pageAt a = some p → a = p.base + Reg.PAGE_SCRATCH → ∃ t, exec (.registerWrite via a w) s = .next t
    ∧ rd t a = w ∧ RegsKept s t (· = a) ∧ { t with regs := s.regs } = s)
  ∧ (∃ t, exec (.registerWrite via (pgSys + Reg.SYS_APERTURE) w) s = .next t
    ∧ rd t (pgSys + Reg.SYS_APERTURE) = (rd s (pgSys + Reg.SYS_APERTURE) &&& 0xFFFFF000) ||| (w &&& 0xFFF)
    ∧ RegsKept s t (· = pgSys + Reg.SYS_APERTURE) ∧ { t with regs := s.regs } = s)
  ∧ (∃ t, exec (.registerWrite via (pgTck + Reg.PAGE_ERR) w) s = .next t
    ∧ rd t (pgTck + Reg.PAGE_ERR) = rd s (pgTck + Reg.PAGE_ERR) &&& ~~~(w &&& 0x1F)
    ∧ RegsKept s t (· = pgTck + Reg.PAGE_ERR) ∧ { t with regs := s.regs } = s)
  ∧ (∃ t, exec (.registerWrite via (pgTck + Reg.TCK_STAMP) w) s = .next t ∧ RegsKept s t (fun _ => False)
    ∧ { t with regs := s.regs } = s)

/-- A served read of a 32-bit RC counter answers its value and leaves it zero. A read of TCK_COUNT_LO answers the low half of the tick counter and captures the high half. A read of TMS_PPS_IN_LO answers the low half of the captured edge, captures the high half and clears pps_in_new. No other register word changes, and nothing else of the state. -/
def Obligations.RegisterReads : Prop :=
  ∀ (s : State) (via : Master), Memory.wf s = true → Manages via → served s via false = true →
  (∀ a, a ∈ [pgSys + Reg.SYS_UNMAPPED_CNT, pgTck + Reg.TCK_SLIP_INS, pgTck + Reg.TCK_SLIP_REM, pgTck + Reg.TCK_REALIGN_CNT,
      pgTck + Reg.TCK_VOTE_CNT, pgPwr + Reg.PWR_BINDING_CNT] →
    ∃ t, exec (.rcFieldRead via a) s = .next t ∧ t.out = .readData via (rd s a) false :: s.out
    ∧ rd t a = 0 ∧ RegsKept s t (· = a) ∧ { t with regs := s.regs, out := s.out } = s)
  ∧ (∃ t, exec (.captureRead via (pgTck + Reg.TCK_COUNT_LO)) s = .next t
    ∧ t.out = .readData via (lo32 s.tck.tick) false :: s.out ∧ rd t (pgTck + Reg.TCK_COUNT_HI) = hi32 s.tck.tick
    ∧ RegsKept s t (· = pgTck + Reg.TCK_COUNT_HI) ∧ { t with regs := s.regs, out := s.out } = s)
  ∧ (∃ t, exec (.tmsPpsInRead via) s = .next t
    ∧ t.out = .readData via (lo32 (rdWide s (pgTms + Reg.TMS_PPS_IN_LO))) false :: s.out
    ∧ rd t (pgTms + Reg.TMS_PPS_IN_HI) = hi32 (rdWide s (pgTms + Reg.TMS_PPS_IN_LO)) ∧ t.time.ppsInNew = false
    ∧ RegsKept s t (· = pgTms + Reg.TMS_PPS_IN_HI)
    ∧ { t with regs := s.regs, out := s.out, time := { t.time with ppsInNew := s.time.ppsInNew } } = s)

/-- Outside recovery a manager's write to the set alias of PAGE_SCRATCH of a block page sets the bits written as 1, and to the clear alias clears them; no other register word changes and nothing but registers. PAGE_ERR_FORCE of the TCK page sets the PAGE_ERR bits it names of the five that page has, keeps the others, and changes no time, tick or phase. -/
def Obligations.AliasAndForceWrites : Prop :=
  ∀ (s : State) (via : Master) (w : Word), Memory.wf s = true → Manages via → served s via true = true →
  s.power.phase ≠ .recovery →
  (∀ b p, b < 0x400000 → pageAt b = some p → b = p.base →
    (∃ t, exec (.setAliasWrite via (b + 0x800 + Reg.PAGE_SCRATCH) w) s = .next t
      ∧ rd t (b + Reg.PAGE_SCRATCH) = rd s (b + Reg.PAGE_SCRATCH) ||| w
      ∧ RegsKept s t (· = b + Reg.PAGE_SCRATCH) ∧ { t with regs := s.regs } = s)
    ∧ (∃ t, exec (.clearAliasWrite via (b + 0xC00 + Reg.PAGE_SCRATCH) w) s = .next t
      ∧ rd t (b + Reg.PAGE_SCRATCH) = rd s (b + Reg.PAGE_SCRATCH) &&& ~~~w
      ∧ RegsKept s t (· = b + Reg.PAGE_SCRATCH) ∧ { t with regs := s.regs } = s))
  ∧ (∃ t, exec (.pageErrForceWrite via pgTck w) s = .next t
    ∧ (∀ n, n < 5 → fbit (rd t (pgTck + Reg.PAGE_ERR)) n = (fbit (rd s (pgTck + Reg.PAGE_ERR)) n || fbit w n))
    ∧ (∀ n, 5 ≤ n → fbit (rd t (pgTck + Reg.PAGE_ERR)) n = fbit (rd s (pgTck + Reg.PAGE_ERR)) n)
    ∧ t.time = s.time ∧ t.tck = s.tck ∧ t.power = s.power ∧ t.red = s.red ∧ t.running = s.running)

/-- A manager's read of an unmapped address answers 0, sets SYS PAGE_ERR[0] and counts; the first one since that bit was cleared is recorded by its address. A read of an undefined offset of the TCK page answers 0, and a write of it does nothing outside recovery. A partial write of a word of the TCK page sets that page's partial_write and leaves the word. A code the TCK page does not define ends at once with BAD_ARG. -/
def Obligations.AccessesThatNameNothing : Prop :=
  ∀ (s : State) (via : Master) (w : Word), Memory.wf s = true → Manages via → served s via true = true →
  served s via false = true →
  (∀ a, a < 0x4000000 → target a = .unmapped → ∃ t, exec (.unmappedAccess via a none) s = .next t
    ∧ t.out.head? = some (.readData via 0 false) ∧ fbit (rd t (pgSys + Reg.PAGE_ERR)) 0 = true
    ∧ rd t (pgSys + Reg.SYS_UNMAPPED_CNT) = rd s (pgSys + Reg.SYS_UNMAPPED_CNT) + 1
    ∧ (fbit (rd s (pgSys + Reg.PAGE_ERR)) 0 = false → rd t (pgSys + Reg.SYS_UNMAPPED_ADDR) = w32 a))
  ∧ (∀ off, target (pgTck + off) = .undef (some ⟨.tck, 0, pgTck⟩) → off < 0x1000 →
    exec (.undefinedOffsetAccess via (pgTck + off) none) s = .next (emit s (.readData via 0 false))
    ∧ (s.power.phase ≠ .recovery → exec (.undefinedOffsetAccess via (pgTck + off) (some w)) s = .next s))
  ∧ (∀ off, off < 0x1000 → ∃ t, exec (.partialWrite via (pgTck + off)) s = .next t
    ∧ fbit (rd t (pgTck + Reg.PAGE_ERR)) 4 = true ∧ t.tck = s.tck ∧ t.time = s.time ∧ t.running = s.running
    ∧ (0x28 ≤ off → rd t (pgTck + off) = rd s (pgTck + off)))
  ∧ (∀ (code seq : Byte), (code = 0 ∨ 3 < code.toNat) → runningOn s pgTck = none → ∃ t,
    exec (.undefinedCommandCode via pgTck code seq) s = .next t
    ∧ rd t (pgTck + Reg.CMD_RESULT) = w32 (1 + 256 * 3 + 65536 * code.toNat + 2 ^ 24 * seq.toNat)
    ∧ runningOn t pgTck = none ∧ { t with regs := s.regs } = s)

/-- A manager's read of a free bulk lock answers 0 and acquires it for that manager; a held one answers its owner's code and stays. The owner's write of 0 releases it; any other write leaves it. A word written to TCK_PLAN_DATA, PWR_COEF_DATA or MAC_GCL_DATA outside recovery goes to the shadow bank or list word the index names while that bank is not armed or pending, and the index moves to the next word; the active bank stays. -/
def Obligations.LocksAndDataPorts : Prop :=
  ∀ (s : State) (via : Master) (sl : SliceId) (w : Word), Memory.wf s = true → Manages via → s.power.phase ≠ .recovery →
  (served s via false = true →
    (lockOwner s sl = 0 → ∃ t, exec (.lockRead via sl) s = .next t ∧ t.out = .readData via 0 false :: s.out
      ∧ rd t (pgTbl sl + Reg.TBL_BULK_LOCK) = w32 (ownerCode via) ∧ RegsKept s t (· = pgTbl sl + Reg.TBL_BULK_LOCK)
      ∧ { t with regs := s.regs, out := s.out } = s)
    ∧ (lockOwner s sl ≠ 0 → exec (.lockRead via sl) s = .next (emit s (.readData via (w32 (lockOwner s sl)) false))))
  ∧ (served s via true = true →
    (lockOwner s sl = ownerCode via → ∃ t, exec (.lockRelease via sl 0) s = .next t ∧ lockOwner t sl = 0
      ∧ RegsKept s t (· = pgTbl sl + Reg.TBL_BULK_LOCK) ∧ { t with regs := s.regs } = s)
    ∧ (w ≠ 0 ∨ lockOwner s sl ≠ ownerCode via → ∃ t, exec (.lockRelease via sl w) s = .next t ∧ lockOwner t sl = lockOwner s sl
      ∧ fbit (rd t (pgTbl sl + Reg.PAGE_ERR)) 2 = true)
    ∧ (s.tck.armed = false → (rd s (pgTck + Reg.TCK_PLAN_INDEX)).toNat < 527 → ∃ t,
      exec (.tckPlanDataAccess via (some w)) s = .next t
      ∧ shadowBank t = tset (fun _ => 0) (shadowBank s) (rd s (pgTck + Reg.TCK_PLAN_INDEX)).toNat w
      ∧ activePlanBank t = activePlanBank s
      ∧ rd t (pgTck + Reg.TCK_PLAN_INDEX) = rd s (pgTck + Reg.TCK_PLAN_INDEX) + 1
      ∧ RegsKept s t (· = pgTck + Reg.TCK_PLAN_INDEX) ∧ { t with regs := s.regs, tck := s.tck } = s)
    ∧ (s.gov.loadPend = false → (rd s (pgPwr + Reg.PWR_COEF_INDEX)).toNat < 143 → ∃ t,
      exec (.pwrCoefDataAccess via (some w)) s = .next t
      ∧ shadowCoef t = tset charWord (shadowCoef s) (rd s (pgPwr + Reg.PWR_COEF_INDEX)).toNat w
      ∧ activeCoefBank t = activeCoefBank s
      ∧ rd t (pgPwr + Reg.PWR_COEF_INDEX) = rd s (pgPwr + Reg.PWR_COEF_INDEX) + 1
      ∧ RegsKept s t (· = pgPwr + Reg.PWR_COEF_INDEX) ∧ { t with regs := s.regs, gov := s.gov } = s)
    ∧ (∀ p : Fin 6, (getPort s p.val).armed = [] → (rd s (pgMac p.val + Reg.MAC_GCL_INDEX)).toNat < 255 → ∃ t,
      exec (.macGclDataAccess via p (some w)) s = .next t
      ∧ rd t (gclKey p.val (rd s (pgMac p.val + Reg.MAC_GCL_INDEX)).toNat) = w
      ∧ rd t (pgMac p.val + Reg.MAC_GCL_INDEX) = rd s (pgMac p.val + Reg.MAC_GCL_INDEX) + 1
      ∧ { t with regs := s.regs } = s))

/-- Out of reset and after bring-up, a maintenance read of a word address below 64 MiB performs the read as the maintenance master and answers 0xA0, the word most significant byte first, and the crc; a write performs the write and answers 0xA0 and the crc. An opcode that is neither read nor write is answered 0xA3 and performs nothing. A frame aborted before its last byte performs nothing; a write aborted after it has been performed and answers nothing. During bring-up a read is answered 0xA1 with zero data and performs nothing. The I2C pointer write sets the word pointer; a word read answers the word at the pointer, which advances by one and wraps at 0xFF; nothing else changes. -/
def Obligations.MaintenancePort : Prop :=
  ∀ (s : State) (a : Nat) (w : Word), outOfReset s = true →
  (s.power.bringupDone = true → a % 4 = 0 → a < 0x4000000 →
    exec (.maintReadRequest a) s = .next (emit (readAccess s .maint a).1
      (.spi (maintFrame (0xA0 :: beBytes 4 (readAccess s .maint a).2.1.toNat))))
    ∧ exec (.maintWriteRequest a w) s = .next (emit (writeAccess s .maint a w) (.spi (maintFrame [0xA0])))
    ∧ exec (.maintFrameAbort (maintFrame (2 :: beBytes 4 a ++ beBytes 4 w.toNat))) s = .next (writeAccess s .maint a w))
  ∧ (∀ frame : List Byte, frame.length < maintLen frame → exec (.maintFrameAbort frame) s = .next s
    ∧ exec (.maintBadRequest frame) s = .next s)
  ∧ (∀ frame : List Byte, s.power.bringupDone = true → frame.length = 6 → frame.head? ≠ some 1 → frame.head? ≠ some 2 →
    exec (.maintBadRequest frame) s = .next (emit s (.spi (maintFrame [0xA3]))))
  ∧ (s.power.bringupDone = false → exec (.maintReadRequest a) s = .next (emit s (.spi (maintFrame [0xA1, 0, 0, 0, 0]))))
  ∧ (stageOneBegun s = true → ∀ ptr : Byte,
    exec (.i2cPointerWrite ptr) s = .next { s with board := { s.board with i2cPtr := ptr.toNat } }
    ∧ exec .i2cWordRead s = .next { s with
        board := { s.board with i2cPtr := (s.board.i2cPtr + 1) % 256 }, out := .i2c (i2cWord s s.board.i2cPtr) :: s.out })

/-- BYPASS shifts the one-bit bypass register, whose first bit out is 0. IDCODE shifts out 0x1146_05A7 least significant bit first. SAMPLE/PRELOAD captures the pins into the boundary register of 1,995 cells and shifts it. While PERST_N is low EXTEST does the same and CLAMP and HIGHZ shift the bypass register; at any other time all three act as BYPASS. None of them changes a register word or any unit but the JTAG port. -/
def Obligations.JtagInstructions : Prop :=
  ∀ (s : State) (pins tdi : List Bool),
  (exec (.jtagBypass tdi) s = .next { s with
    board := { s.board with jtag := .bypass }, out := .jtag ((false :: tdi).take tdi.length) :: s.out })
  ∧ (∃ l, exec .jtagIdcode s = .next { s with board := { s.board with jtag := .idcode }, out := .jtag l :: s.out }
    ∧ l.length = 32 ∧ l.foldr (fun b n => b.toNat + 2 * n) 0 = 0x114605A7)
  ∧ (pins.length = 1995 → exec (.jtagSamplePreload pins tdi) s = .next { s with
      board := { s.board with jtag := .samplePreload, scanIn := pins, scanOut := (pins ++ tdi).drop tdi.length },
      out := .jtag ((pins ++ tdi).take tdi.length) :: s.out }
    ∧ (s.power.perstLow = true → exec (.jtagExtest pins tdi) s = .next { s with
      board := { s.board with jtag := .extest, scanIn := pins, scanOut := (pins ++ tdi).drop tdi.length },
      out := .jtag ((pins ++ tdi).take tdi.length) :: s.out }))
  ∧ (s.power.perstLow = true →
    exec (.jtagClamp tdi) s = .next { s with
      board := { s.board with jtag := .clamp }, out := .jtag ((false :: tdi).take tdi.length) :: s.out }
    ∧ exec (.jtagHighz tdi) s = .next { s with
      board := { s.board with jtag := .highz }, out := .jtag ((false :: tdi).take tdi.length) :: s.out })
  ∧ (s.power.perstLow = false → exec (.jtagExtest pins tdi) s = exec (.jtagBypass tdi) s
    ∧ exec (.jtagClamp tdi) s = exec (.jtagBypass tdi) s ∧ exec (.jtagHighz tdi) s = exec (.jtagBypass tdi) s)

/-- On a reachable link after bring-up: a four-byte aligned read of PF0 BAR 0 performs the read as PF0 and is completed with its word (poisoned ones counted); a write with all bytes enabled performs the write; one with some disabled is a partial write; a request beyond the BAR, to a function that does not exist, or with Memory Space Enable clear is unsupported, and a read of it is completed with UR; a register read of another size or alignment is a completer abort, completed with CA; a write whose ECRC is checked and wrong is recorded and changes nothing else of those. A read of the DRAM window is served at the aperture's address, a write there writes those bytes. -/
def Obligations.HostMemoryRequests : Prop :=
  ∀ (s : State) (off : Nat) (l : List Byte), Memory.wf s = true → cfgReach s = true → s.power.bringupDone = true → inD3 s 0 = false →
  (memEnabled s 0 = true → off % 4 = 0 → off + 4 ≤ 2 ^ 26 → l.length = 4 →
    exec (.hostMemoryRequest 0 0 off 4 15 none false false) s = .next (emit (poisonTx (readAccess s .pf0 off).1 (readAccess s .pf0 off).2.2.toNat)
      (.completion 0 (wordBytes (readAccess s .pf0 off).2.1) (readAccess s .pf0 off).2.2))
    ∧ (inFlr s 0 = false → exec (.hostMemoryRequest 0 0 off 4 15 (some l) false false) s
        = .next (writeAccess s .pf0 off (w32 (leNat l)))
      ∧ ∀ be, be < 15 → exec (.hostMemoryRequest 0 0 off 4 be (some l) false false) s = .next (partialWrite s .pf0 off)))
  ∧ (memEnabled s 0 = true → off % 4 ≠ 0 → off + 4 ≤ 2 ^ 26 → ∃ t, exec (.hostMemoryRequest 0 0 off 4 15 none false false) s = .next t
    ∧ t.out.head? = some (.completion 4 [] false) ∧ fbit (rd t (pgHif 0 + Reg.PAGE_ERR)) 6 = true
    ∧ t.queues = s.queues ∧ t.mem = s.mem ∧ t.running = s.running)
  ∧ (memEnabled s 0 = false ∨ 2 ^ 26 < off + 4 → ∃ t, exec (.hostMemoryRequest 0 0 off 4 15 none false false) s = .next t
    ∧ t.out.head? = some (.completion 1 [] false) ∧ fbit (rd t (pgHif 0 + Reg.PAGE_ERR)) 7 = true
    ∧ t.queues = s.queues ∧ t.mem = s.mem ∧ t.running = s.running)
  ∧ (∀ f : Fin 1026, fnExists s f.val = false → ∃ t, exec (.hostMemoryRequest f 0 off 4 15 none false false) s = .next t
    ∧ t.out.head? = some (.completion 1 [] false) ∧ t.queues = s.queues ∧ t.mem = s.mem ∧ t.running = s.running)
  ∧ (ecrcChecked s 0 = true → ∃ t, exec (.hostMemoryRequest 0 0 off 4 15 (some l) false true) s = .next t
    ∧ t.queues = s.queues ∧ t.mem = s.mem ∧ t.running = s.running ∧ (t.out = s.out ∨ ∃ c, t.out = .errMsg 0 c :: s.out)
    ∧ fbit (rd t (pgHif 0 + Reg.PAGE_ERR)) 4 = true)
  ∧ (barServed s 0 = true → ∀ len, 0 < len → off + len ≤ 2 ^ 26 →
    exec (.bar2Read off len) s = .next (bar2Read s off len) ∧ (bar2Read s off len).red = s.red
    ∧ (bar2Read s off len).tck = s.tck)
  ∧ (barServed s 0 = true → inFlr s 0 = false → s.power.phase ≠ .recovery → ∀ (data : List (Option Byte)), data ≠ [] →
    off + data.length ≤ 2 ^ 26 → dramRange s (windowAddr s off) data.length = true →
    exec (.bar2Write off data false) s
      = .next (dramWrite 3 (blocksOf (windowAddr s off) data.length) s (windowAddr s off) (data.map (fun b => (b, false)))))

/-- For every state and every command but TICK_BOUNDARY, the device resets (POWER_ON, PERST_ASSERT, CORE_RAIL_LOSS, SYSCLK_LOSS, WARM_RESET_ASSERT) and BRINGUP_STAGE_END: the phase, the end of bring-up, PTP time and its validity, the tick counter, its phase error and length, the tick period, and the counts of boundaries and cycles are what they were. BRINGUP_STAGE_END changes of these only the phase and the end of bring-up. -/
def Obligations.PhaseAndTimeMoveOnlyAtBoundaries : Prop :=
  ∀ (c : Instr) (s t : State), exec c s = .next t → (∀ b, c ≠ .tickBoundary b) → (∀ n, c ≠ .powerOn n) → c ≠ .perstAssert →
    c ≠ .coreRailLoss → c ≠ .sysclkLoss → (∀ l, c ≠ .warmResetAssert l) →
    t.time.ptp = s.time.ptp ∧ t.time.timeValid = s.time.timeValid ∧ t.tck.tick = s.tck.tick ∧ t.tck.phi = s.tck.phi
    ∧ t.tck.len = s.tck.len ∧ t.tck.period = s.tck.period ∧ t.tck.boundaries = s.tck.boundaries ∧ t.tck.cycles = s.tck.cycles
    ∧ ((∀ us f, c ≠ .bringupStageEnd us f) → t.power.phase = s.power.phase ∧ t.power.bringupDone = s.power.bringupDone)

/-- For every sound state and every command but LOAD_PLAIN and LOAD_WRAPPED, tick boundaries and device resets among them: each of the root key slots holds afterwards the key half it held before (key, attributes, label and integrity value), or is empty. -/
def Obligations.RootKeysAppearOnlyByLoads : Prop :=
  ∀ (c : Instr) (s t : State), Memory.wf s = true → exec c s = .next t → c ≠ .loadPlain → c ≠ .loadWrapped →
    ∀ n, (getSlot t n).half = (getSlot s n).half ∨ (getSlot t n).half = none

/-- Link training with a legal speed and width brings the link up, and a retrain counts one and changes speed and width; an illegal one does neither. PME_TURN_OFF is acknowledged and puts the link in L2/L3 Ready. For a function whose configuration requests are served: a power state of D0 or D3hot is stored and the other two codes are ignored; PME_Status is cleared and no other bit of its word; Bus Master Enable is set and no other bit of its word; setting VF Enable where it is clear makes NumVFs virtual functions exist. Nothing else changes. -/
def Obligations.LinkAndConfigurationFields : Prop :=
  ∀ (s : State) (speed width : Nat) (f : Fin 1026),
  (outOfReset s = true → s.pcie.dlUp = false → s.pcie.l23 = false →
    (linkLegal speed width = true → exec (.linkTrained speed width) s
      = .next { s with pcie := { s.pcie with dlUp := true, speed := speed, width := width } })
    ∧ (linkLegal speed width = false → exec (.linkTrained speed width) s = .next s))
  ∧ (s.pcie.dlUp = true →
    (linkLegal speed width = true → exec (.linkRetrain speed width) s = .next
      (wr { s with pcie := { s.pcie with speed := speed, width := width } } (pgHif 0 + Reg.HIF_RETRAIN_CNT)
        (rd s (pgHif 0 + Reg.HIF_RETRAIN_CNT) + 1)))
    ∧ (s.pcie.l23 = false → exec .pmeTurnOff s
      = .next { s with out := .pmeToAck :: s.out, pcie := { s.pcie with l23 := true } }))
  ∧ (cfgServed s f.val = true → Memory.wf s = true →
    (∀ ps : Fin 4, ps = 0 ∨ ps = 3 → exec (.powerStateWrite f ps) s
      = .next (cfgWr s f.val 0x44 (putFld (cfgRd s f.val 0x44) 1 0 ps.val)))
    ∧ (∀ ps : Fin 4, ps = 1 ∨ ps = 2 → exec (.powerStateWrite f ps) s = .next (cfgWr s f.val 0x44 (cfgRd s f.val 0x44)))
    ∧ exec (.pmeStatusClear f) s = .next (cfgWr s f.val 0x44 (cfgRd s f.val 0x44 &&& 0xFFFF7FFF))
    ∧ exec (.busMasterEnableSet f) s = .next (cfgWr s f.val 4 (cfgRd s f.val 4 ||| 4)))
  ∧ (cfgServed s 0 = true → vfEnable s = false → s.pcie.vfClearing = false → exec .vfEnableSet s
      = .next { cfgWr s 0 0x158 (cfgRd s 0 0x158 ||| 1) with
          pcie := { (cfgWr s 0 0x158 (cfgRd s 0 0x158 ||| 1)).pcie with vfLive := numVfs s } })

/-- With the link reachable: a configuration read of an existing function after bring-up is completed with the dword, and changes nothing else; a write is completed with success; during bring-up a request is answered CRS; a request to a function that does not exist is answered UR, recorded, and touches no queue, frame or memory. A write of the interrupt line word stores its low byte. Clearing Bus Master Enable clears the bit and makes every tag of the function stale. Clearing VF Enable where it was set begins the change: every existing VF is under reset, VF Enable reads 0, and no VF has an entry in hand. -/
def Obligations.ConfigurationRequests : Prop :=
  ∀ (s : State) (f : Fin 1026) (off be : Nat) (w : Word), Memory.wf s = true → cfgReach s = true →
  (s.power.bringupDone = false → ∀ d, exec (.configRequest f off be d) s = .next (emit s (.completion 2 [] false)))
  ∧ (s.power.bringupDone = true → fnExists s f.val = false → ∀ d, ∃ t, exec (.configRequest f off be d) s = .next t
    ∧ t.out.head? = some (.completion 1 [] false) ∧ fbit (rd t (pgHif 0 + Reg.PAGE_ERR)) 7 = true
    ∧ t.queues = s.queues ∧ t.pipe = s.pipe ∧ t.mem = s.mem ∧ t.running = s.running)
  ∧ (s.power.bringupDone = true → fnExists s f.val = true →
    exec (.configRequest f off be none) s
      = .next (emit s (.completion 0 (wordBytes (cfgRead s f.val (off % 4096 / 4 * 4))) false))
    ∧ (∃ t, exec (.configRequest f off be (some w)) s = .next t ∧ t.out.head? = some (.completion 0 [] false))
    ∧ (f.val < 2 → exec (.configRequest f 0x3C 15 (some w)) s
        = .next (emit (cfgWr s f.val 0x3C ((cfgRd s f.val 0x3C &&& 0xFFFFFF00) ||| (w &&& 0xFF))) (.completion 0 [] false)))
    ∧ (∃ t, exec (.busMasterEnableClear f) s = .next t ∧ cfgRd t f.val 4 = cfgRd s f.val 4 &&& 0xFFFFFFFB
        ∧ (bme s f.val = true → ∀ x ∈ t.pcie.tags, x.fn = f.val → x.stale = true)))
  ∧ (s.power.bringupDone = true → vfEnable s = true → s.pcie.vfClearing = false → ∃ t, exec .vfEnableClear s = .next t
    ∧ vfEnable t = false ∧ t.pcie.vfClearing = true ∧ t.pcie.vfLive = s.pcie.vfLive
    ∧ (∀ v, v < s.pcie.vfLive → inFlr t (2 + v) = true) ∧ (∀ i ∈ t.queues.items, i.fn < 2))

/-- Where its configuration requests are served and it is not under reset already, a VF FLR puts the VF under reset, makes its tags stale, returns its configuration words, MSI-X entries and pending bits to their reset values, discards its entries in hand, and clears its halt and pacing. A PF1 FLR does so for PF1 and closes every custody channel. A PF0 FLR resets PF0 and every existing VF and clears VF Enable. A host reset resets every function, takes the link down and counts. A VF FLR ends once no tag of the VF is outstanding, the change of VF Enable once no VF holds a tag: the VFs then cease to exist. The phase, time and tick stay throughout. -/
def Obligations.FunctionResets : Prop :=
  ∀ s : State, Memory.wf s = true →
  (∀ v : Fin 1024, cfgServed s (2 + v.val) = true → inFlr s (2 + v.val) = false → ∃ t, exec (.vfFlr v) s = .next t
    ∧ inFlr t (2 + v.val) = true ∧ (∀ x ∈ t.pcie.tags, x.fn = 2 + v.val → x.stale = true)
    ∧ (∀ o, o < 4096 → cfgRd t (2 + v.val) o = cfgDflt (4096 * (2 + v.val) + o))
    ∧ (∀ n w, n < 2048 → w < 4 → msixWord t (2 + v.val) n w = msixDflt w ∧ t.pcie.pba.contains (2048 * (2 + v.val) + n) = false)
    ∧ (∀ i ∈ t.queues.items, i.fn ≠ 2 + v.val) ∧ isHalted t (2 + v.val) = false
    ∧ t.power = s.power ∧ t.time = s.time ∧ t.tck = s.tck)
  ∧ (cfgServed s 1 = true → inFlr s 1 = false → ∃ t, exec .pf1Flr s = .next t ∧ inFlr t 1 = true ∧ t.cus.chans = []
    ∧ t.cus.queue = [] ∧ (∀ x ∈ t.pcie.tags, x.fn = 1 → x.stale = true) ∧ t.vkeep = s.vkeep ∧ t.power = s.power)
  ∧ (cfgServed s 0 = true → inFlr s 0 = false → ∃ t, exec .pf0Flr s = .next t ∧ inFlr t 0 = true
    ∧ (∀ v, v < s.pcie.vfLive → inFlr t (2 + v) = true) ∧ vfEnable t = false ∧ t.pcie.vfClearing = true
    ∧ (∀ i ∈ t.queues.items, i.fn = 1) ∧ t.power = s.power ∧ t.tck = s.tck)
  ∧ (∀ hot, outOfReset s = true → s.pcie.dlUp = true → ∃ t, exec (.hostReset hot) s = .next t ∧ t.pcie.dlUp = false
    ∧ inFlr t 0 = true ∧ inFlr t 1 = true ∧ (∀ v, v < s.pcie.vfLive → inFlr t (2 + v) = true) ∧ t.queues.items = []
    ∧ t.cus.chans = [] ∧ fld (rd t (pgSys + Reg.SYS_HOST_RESET_CNT)) 15 0 = (fld (rd s (pgSys + Reg.SYS_HOST_RESET_CNT)) 15 0 + 1) % 65536
    ∧ fbit (rd t (pgSys + Reg.SYS_HOST_RESET_CNT)) 16 = hot ∧ t.power = s.power ∧ t.tck = s.tck)
  ∧ (∀ f : Fin 1026, 2 ≤ f.val → inFlr s f.val = true → s.pcie.vfClearing = false → (∀ x ∈ s.pcie.tags, x.fn ≠ f.val) →
    exec (.flrComplete f) s = .next { s with pcie := { s.pcie with flr := s.pcie.flr.filter (fun g => g != f.val) } })
  ∧ (s.pcie.vfClearing = true → (∀ x ∈ s.pcie.tags, x.fn < 2) → vfEnable s = false → exec .vfChangeComplete s
      = .next { s with pcie := { s.pcie with
          flr := s.pcie.flr.filter (fun g => decide (g < 2)), vfClearing := false, vfLive := 0 } })

/-- On a link that is up: a completion whose tag is not outstanding is unexpected and counted; one that ends a stale request counts, and the tag retires, and nothing is delivered. A request whose K boundaries have passed times out: it is counted, its function recorded, and its tag stays outstanding; K boundaries after that the tag retires. A whole dword written to the MSI-X table of a function stores it. A set pending bit whose conditions have cleared is sent with the entry's address and data, and cleared. PM_PME is repeated after 100 ms. -/
def Obligations.TagsAndInterrupts : Prop :=
  ∀ s : State, Memory.wf s = true →
  (∀ c : Completion, s.pcie.dlUp = true → c.ecrcBad = false →
    (getTag s c.tag.val = none → ∃ t, exec (.completionReceived c) s = .next t
      ∧ rd t (pgHif 0 + Reg.HIF_UNEXP_CPL_CNT) = rd s (pgHif 0 + Reg.HIF_UNEXP_CPL_CNT) + 1
      ∧ t.pcie.tags = s.pcie.tags ∧ t.queues = s.queues)
    ∧ (∀ x, getTag s c.tag.val = some x → x.stale = true → c.status ≠ 0 → ∃ t, exec (.completionReceived c) s = .next t
      ∧ rd t (pgHif 0 + Reg.HIF_STALE_CPL_CNT) = rd s (pgHif 0 + Reg.HIF_STALE_CPL_CNT) + 1
      ∧ getTag t c.tag.val = none ∧ t.queues = s.queues ∧ t.out = s.out))
  ∧ (∀ (g : Fin 1024) (x : Tag), getTag s g.val = some x →
    (x.held = none → x.stale = false → passed s x.issuedAt x.k = true → ∃ t, exec (.completionTimeout g) s = .next t
      ∧ rd t (pgHif 0 + Reg.HIF_CPL_TIMEOUT_CNT) = rd s (pgHif 0 + Reg.HIF_CPL_TIMEOUT_CNT) + 1
      ∧ rd t (pgHif 0 + Reg.HIF_LAST_TIMEOUT_FN) = w32 (x.fn + 2 ^ 31)
      ∧ getTag t g.val = some { x with held := some s.tck.boundaries })
    ∧ (∀ h, x.held = some h → passed s h x.k = true → exec (.tagHoldEnd g) s
      = .next { s with pcie := { s.pcie with tags := s.pcie.tags.filter (fun y => y.id != g.val) } }))
  ∧ (∀ (f : Fin 1026) (v k : Nat) (w : Word), barOpen s = true → fnExists s f.val = true → inD3 s f.val = false →
    inFlr s f.val = false → memEnabled s f.val = true → s.power.phase ≠ .recovery → v < vectorsOf f.val → k = 1 ∨ k = 2 →
    exec (.msixTableWrite f (16 * v + 4 * k) 15 w) s = .next { s with pcie := { s.pcie with
      msix := tset msixDflt s.pcie.msix (4 * (2048 * f.val + v) + k) w } })
  ∧ (∀ (f : Fin 1026) (v : Fin 2048), s.pcie.pba.contains (2048 * f.val + v.val) = true → mayRequest s f.val = true →
    msixEn s f.val = true → msixFnMask s f.val = false → fbit (msixWord s f.val v.val 3) 0 = false →
    exec (.msixMessageSend f v) s = .next { s with
      out := .msix f.val v.val ((msixWord s f.val v.val 0).toNat + 2 ^ 32 * (msixWord s f.val v.val 1).toNat)
        (msixWord s f.val v.val 2).toNat :: s.out,
      pcie := { s.pcie with pba := s.pcie.pba.filter (fun x => x != 2048 * f.val + v.val) } })
  ∧ (∀ f : Fin 1026, fnExists s f.val = true → inD3 s f.val = true → fbit (cfgRd s f.val 0x44) 15 = true →
    fbit (cfgRd s f.val 0x44) 8 = true → linkOpen s = true →
    passed s (tget (fun _ => 0) s.pcie.pmeAt f.val) (boundariesIn s 100000000) = true →
    ∃ t, exec (.pmeRepeat f) s = .next t ∧ t.out = .pme f.val :: s.out ∧ t.pcie.cfg = s.pcie.cfg
    ∧ rd t (pgHif 0 + Reg.HIF_PME_CNT) = rd s (pgHif 0 + Reg.HIF_PME_CNT) + 1 ∧ t.queues = s.queues)

/-- Outside recovery, with record words reached by a manager: writing valid = 1 to an invalid record that passes the checks makes it valid with both its queues at index 0, phase 1; one that fails stays invalid, with its reason recorded. A quiet record that no other record names as its ring becomes invalid; any other stays valid and is reported. A doorbell of PF0 to a valid queue it owns is taken where the index is within the queue; the same index again does nothing; a barred one is refused and counted, one that goes back is stale and counted, and any other makes recovery due. Nothing else changes in any of these. -/
def Obligations.QueueRecordsAndDoorbells : Prop :=
  ∀ (s : State) (via : Master) (n : Fin 16384) (w : Word), Memory.wf s = true → s.power.phase ≠ .recovery →
  (Manages via → served s via true = true →
    (recValid s n.val = false → fbit w 0 = true →
      (recCheck s n.val w = none → exec (.recordValidate via n w) s
        = .next (putCr (putWq (wr s (winQueue + 64 * n.val + 60) 1) n.val freshWq) n.val freshCr))
      ∧ (∀ r, recCheck s n.val w = some r → ∃ t, exec (.recordValidate via n w) s = .next t ∧ recValid t n.val = false
        ∧ fbit (rd t (pgQmg + Reg.PAGE_ERR)) 1 = true ∧ t.queues = s.queues
        ∧ (fbit (rd s (pgQmg + Reg.QMG_REC_ERR)) 31 = false →
            rd t (pgQmg + Reg.QMG_REC_ERR) = w32 (n.val + 65536 * r + 2 ^ 31))))
    ∧ (recValid s n.val = true → fbit w 0 = false →
      (recQuiet s n.val = true → (∀ m ∈ validRecs s, m ≠ n.val → recCr s m ≠ n.val) → exec (.recordInvalidate via n w) s
        = .next (wr s (winQueue + 64 * n.val + 60) 0))
      ∧ (recQuiet s n.val = false → ∃ t, exec (.recordInvalidate via n w) s = .next t ∧ recValid t n.val = true
        ∧ fbit (rd t (pgQmg + Reg.PAGE_ERR)) 1 = true ∧ t.queues = s.queues)))
  ∧ (∀ v, v < 65536 → served s .pf0 true = true →
    (doorbellBarred s 0 n.val = true →
      (∃ t, exec (.wqDoorbell .pf0 n.val v) s = .next t ∧ t.queues = s.queues ∧ t.power = s.power
        ∧ rd t (pgQmg + Reg.QMG_DB_REFUSED_CNT) = rd s (pgQmg + Reg.QMG_DB_REFUSED_CNT) + 1)
      ∧ (∃ t, exec (.crDoorbell .pf0 n.val v) s = .next t ∧ t.queues = s.queues ∧ t.power = s.power
        ∧ rd t (pgQmg + Reg.QMG_DB_REFUSED_CNT) = rd s (pgQmg + Reg.QMG_DB_REFUSED_CNT) + 1))
    ∧ (doorbellBarred s 0 n.val = false →
      (dist16 (getWq s n.val).pi v = 0 → exec (.wqDoorbell .pf0 n.val v) s = .next s)
      ∧ (0 < dist16 (getWq s n.val).pi v →
          dist16 (getWq s n.val).pi v ≤ recWqSize s n.val - dist16 (getWq s n.val).ci (getWq s n.val).pi →
          exec (.wqDoorbell .pf0 n.val v) s
            = .next (putWq s n.val { getWq s n.val with pi := v, quiet := false, served := true }))
      ∧ (recWqSize s n.val - dist16 (getWq s n.val).ci (getWq s n.val).pi < dist16 (getWq s n.val).pi v →
          32768 ≤ dist16 (getWq s n.val).pi v → exec (.wqDoorbell .pf0 n.val v) s = .next
            (wr s (pgQmg + Reg.QMG_DB_STALE_CNT) (rd s (pgQmg + Reg.QMG_DB_STALE_CNT) + 1)))
      ∧ (recWqSize s n.val - dist16 (getWq s n.val).ci (getWq s n.val).pi < dist16 (getWq s n.val).pi v →
          dist16 (getWq s n.val).pi v < 32768 → 0 < dist16 (getWq s n.val).pi v →
          ∃ t, exec (.wqDoorbell .pf0 n.val v) s = .next t ∧ t.queues = s.queues ∧ t.power.recoverPend.isSome = true)
      ∧ (0 < dist16 (getCr s n.val).ci v → dist16 (getCr s n.val).ci v ≤ dist16 (getCr s n.val).ci (getCr s n.val).pi →
          exec (.crDoorbell .pf0 n.val v) s = .next (putCr s n.val { getCr s n.val with ci := v, quiet := false }))))

/-- With credits and some WQ of the account that may be fetched from, WORK_ENTRY_FETCH takes the next slot of one such WQ: an entry in hand with its first slot still to be read, the next index one further, the account's counter up by one. An entry whose phase was wrong is fetched again at a later boundary and counted. A read that may be issued leaves as one request under a free tag, of at most Max_Read_Request_Size and the beats left, and what remains is still to be read; while the slice drains, none is issued. A read to be retried is made again once its interval has passed. -/
def Obligations.FetchingEntries : Prop :=
  ∀ s : State, Memory.wf s = true →
  (∀ a : Fin 3, gkOpen s = true → canStart s (acct 2 a.val) 1 1 = true →
    (validRecs s).filter (fun n => qmAccount (recOwner s n) == a.val && mayFetch s n) ≠ [] →
    ∃ t n i, exec (.workEntryFetch a) s = .next t ∧ recValid s n = true ∧ mayFetch s n = true ∧ qmAccount (recOwner s n) = a.val
    ∧ t.queues.items = s.queues.items ++ [i] ∧ i.wq = n ∧ i.idx = (getWq s n).next ∧ i.fn = recOwner s n ∧ i.stage = .fetch
    ∧ i.needs = [⟨.entry, recWqBase s n + 64 * (i.idx % recWqSize s n), 0, 64, 0⟩]
    ∧ t.queues.wq = (putWq s n { getWq s n with next := (i.idx + 1) % 65536, fetched := (getWq s n).fetched + 1 }).queues.wq
    ∧ rd t (pgSlice s.worker 6 + Reg.QMG_FETCH0 + 4 * a.val) = rd s (pgSlice s.worker 6 + Reg.QMG_FETCH0 + 4 * a.val) + 1
    ∧ t.pcie = s.pcie ∧ t.pipe = s.pipe ∧ t.power = s.power)
  ∧ (∀ (wq : Fin 16384) (idx : Fin 65536) (i : WorkItem), getItem s wq.val idx.val = some i →
    (∀ k b, i.stage = .refetch k b → i.needs = [] → readsDone s i = true → passed s b 1 = true → mayRequest s i.fn = true →
      isHalted s i.fn = false → ∃ t, exec (.phaseRefetch wq idx) s = .next t
      ∧ getItem t wq.val idx.val = some { i with
          stage := .refetch (k + 1) s.tck.boundaries,
          needs := [⟨.entry, recWqBase s i.wq + 64 * (i.idx % recWqSize s i.wq), 0, 64, 0⟩] }
      ∧ rd t (pgQmg + Reg.QMG_PHASE_RETRY_CNT) = rd s (pgQmg + Reg.QMG_PHASE_RETRY_CNT) + 1 ∧ t.pcie = s.pcie)
    ∧ (∀ n rest id, i.needs = n :: rest → beatsLeft s (readAccount i) ≠ 0 → isHalted s i.fn = false →
      mayRequest s i.fn = true → mayTag s i.fn = true → freeTag s = some id →
      (draining s = true → exec (.dmaReadIssue wq idx) s = .next s)
      ∧ (draining s = false → ∃ t x, exec (.dmaReadIssue wq idx) s = .next t
        ∧ t.out = .memRead i.fn id n.addr x.len :: s.out ∧ t.pcie.tags = s.pcie.tags ++ [x]
        ∧ x.id = id ∧ x.fn = i.fn ∧ x.wq = i.wq ∧ x.idx = i.idx ∧ x.addr = n.addr ∧ x.purpose = n.purpose ∧ x.stale = false
        ∧ x.len = readLen (mrrs s i.fn) n.addr n.len (beatsLeft s (readAccount i)) ∧ x.issuedAt = s.tck.boundaries
        ∧ (x.len = n.len → getItem t wq.val idx.val = some { i with needs := rest })
        ∧ (x.len < n.len → getItem t wq.val idx.val
            = some { i with needs := { n with addr := n.addr + x.len, off := n.off + x.len, len := n.len - x.len } :: rest })))
    ∧ (∃ t, exec (.dmaRetry wq idx) s = .next t
      ∧ getItem t wq.val idx.val = some { i with
          needs := (i.retries.filter (fun r => decide (r.2 ≤ s.tck.boundaries))).map (·.1) ++ i.needs,
          retries := i.retries.filter (fun r => !decide (r.2 ≤ s.tck.boundaries)) }
      ∧ { t with queues := s.queues } = s))

/-- A NOP that may start ends at once with OK and frees what it held. An RX_POST that may start posts its buffer. A TX entry whose descriptors are in order, unchained, and make up total_len waits for admission with its segments; with a total that differs it is malformed. Admission of the only candidate, of PF0, in credit, below its pacing threshold, reserves its cells and sets its data reads going. Once its data is whole the frame enters the pipeline: it takes its cells, carries the bytes read, and its header waits its turn. -/
def Obligations.ExecutingEntries : Prop :=
  ∀ (s : State) (wq : Fin 16384) (idx : Fin 65536) (i : WorkItem), getItem s wq.val idx.val = some i →
  (i.etype = 0 → mayStart s i = true → ∃ t, exec (.nopEntry wq idx) s = .next t
    ∧ getItem t wq.val idx.val = some { i with
        stage := .finishing (report s stOK 0), needs := [], retries := [], out := [],
        cells := 0, buf := [], rxd := none }
    ∧ t.pipe.freeCells = s.pipe.freeCells + i.cells
    ∧ { t with queues := s.queues, pipe := s.pipe } = s)
  ∧ (i.etype = 2 → mayStart s i = true → ∃ t, exec (.rxPostEntry wq idx) s = .next t
    ∧ getItem t wq.val idx.val = some { i with stage := .posted } ∧ { t with queues := s.queues } = s)
  ∧ (i.etype = 1 → isHalted s i.fn = false → mayStart s i = true → firstReason (segReasons (txDescs i.bytes).1) = none →
    chainOf (txDescs i.bytes).1 = none →
    (segTotal (i.segs ++ dataSegs (txDescs i.bytes).1) = leAt i.bytes 4 2 → ∃ t, exec (.txEntry wq idx) s = .next t
      ∧ getItem t wq.val idx.val
          = some { i with stage := .admission, segs := i.segs ++ dataSegs (txDescs i.bytes).1, buf := [] }
      ∧ { t with queues := s.queues, sched := s.sched } = s)
    ∧ (segTotal (i.segs ++ dataSegs (txDescs i.bytes).1) ≠ leAt i.bytes 4 2 → 2 ≤ i.fn → exec (.txEntry wq idx) s
        = .next { s with queues := { s.queues with halts := s.queues.halts ++ [⟨i.fn, 6, i.wq, false, i.idx⟩] } }))
  ∧ (i.etype = 1 → isHalted s i.fn = false → i.stage = .data → readsDone s i = true → i.buf.length = leAt i.bytes 4 2 →
    ∃ t f, exec (.txEntry wq idx) s = .next t ∧ t.pipe.q1 = s.pipe.q1 ++ [.host s.pipe.nextFrame]
    ∧ getFrame t s.pipe.nextFrame = some f ∧ f.data = (bufBytes i.buf (leAt i.bytes 4 2)).map (·.1)
    ∧ f.flen = leAt i.bytes 4 2 + 4 ∧ f.entry = some (i.wq, i.idx) ∧ f.fn = i.fn ∧ f.cells = i.cells
    ∧ t.pipe.freeCells = s.pipe.freeCells
    ∧ getItem t wq.val idx.val = some { i with stage := .piped, cells := 0, buf := [] }
    ∧ { t with queues := s.queues, pipe := s.pipe } = s)
  ∧ (gkOpen s = true → i.wq = wq.val → i.idx = idx.val → (candidates s).filter (admitMay s) = [i] → i.admitted = false → i.fn = 0 →
    i.dramSource = false →
    inCredit (touchNode s hostRoot i.wq) i.wq = true → paceLevel s 0 + admitCells i ≤ paceHi s 0 → ∃ t, exec .admissionSelect s = .next t
    ∧ getItem t wq.val idx.val = some { i with
        stage := .data, admitted := true, cells := admitCells i, buf := [],
        needs := segNeeds i.segs 0 }
    ∧ t.pipe.freeCells = s.pipe.freeCells - admitCells i ∧ t.pcie = s.pcie ∧ t.power = s.power)

/-- A FILL or COPY that may start whose DRAM range is not configured ends with DENIED and writes nothing; a COPY onto itself ends with OK and writes nothing; any other runs. A running FILL to host memory writes the next piece of its pattern, by the address of each byte, of at most the beats left, and ends with OK and its length after the last. A running COPY from host memory asks for what it lacks; with its next piece there, it writes that piece, and makes the same progress. -/
def Obligations.FillAndCopy : Prop :=
  ∀ (s : State) (wq : Fin 16384) (idx : Fin 65536) (i : WorkItem), getItem s wq.val idx.val = some i →
  moveMay s i (moveOf i.bytes) = true →
  (mayStart s i = true → i.stage = .ready → ∀ c, (i.etype = 3 ∧ c = Instr.fillEntry wq idx) ∨ (i.etype = 4 ∧ c = Instr.copyEntry wq idx) →
    ((moveOf i.bytes).dstDram = true → dramRange s (moveOf i.bytes).dst (moveOf i.bytes).len = false → ∃ t, exec c s = .next t
      ∧ (getItem t wq.val idx.val).map (·.stage) = some (.finishing (report s stDENIED 0)) ∧ t.out = s.out ∧ t.mem = s.mem)
    ∧ ((moveOf i.bytes).dstDram = false → (moveOf i.bytes).srcDram = false →
      ((moveOf i.bytes).overlaps = true ∧ (moveOf i.bytes).gap = 0 → ∃ t, exec c s = .next t
        ∧ (getItem t wq.val idx.val).map (·.stage) = some (.finishing (report s stOK (moveOf i.bytes).len)) ∧ t.out = s.out)
      ∧ ((moveOf i.bytes).overlaps = false → exec c s = .next (modItem s i.wq i.idx (fun x => { x with stage := .run })))))
  ∧ (i.stage = .run → i.etype = 3 → (moveOf i.bytes).dstDram = false → beatsLeft s 2 ≠ 0 → ∃ t, exec (.fillEntry wq idx) s = .next t
    ∧ t.out.head? = some (.memWrite i.fn ((moveOf i.bytes).dst + (nextPiece s i (moveOf i.bytes)).1)
        ((List.range (Nat.min (nextPiece s i (moveOf i.bytes)).2
            (64 * beatsLeft s 2 - ((moveOf i.bytes).dst + (nextPiece s i (moveOf i.bytes)).1) % 64))).map
          (fun k => patternByte i.bytes ((moveOf i.bytes).dst + (nextPiece s i (moveOf i.bytes)).1 + k))) false)
    ∧ t.mem = s.mem ∧ t.pipe.frames = s.pipe.frames)
  ∧ (i.stage = .run → i.etype = 4 → (moveOf i.bytes).dstDram = false → (moveOf i.bytes).srcDram = false →
    (moveOf i.bytes).overlaps = false → 0 < (nextPiece s i (moveOf i.bytes)).2 →
    (pieceReady i (nextPiece s i (moveOf i.bytes)).1 (nextPiece s i (moveOf i.bytes)).2 = false → readsDone s i = true →
      exec (.copyEntry wq idx) s = .next (modItem s i.wq i.idx (fun x => { x with
        needs := [⟨.data, (moveOf i.bytes).src + i.done, i.done, (moveOf i.bytes).len - i.done, 0⟩] })))
    ∧ (pieceReady i (nextPiece s i (moveOf i.bytes)).1 (nextPiece s i (moveOf i.bytes)).2 = true →
      blocksOf ((moveOf i.bytes).dst + (nextPiece s i (moveOf i.bytes)).1) (nextPiece s i (moveOf i.bytes)).2 ≤ beatsLeft s 2 →
      (∀ k, k < (nextPiece s i (moveOf i.bytes)).2 →
        ((tget (fun _ => none) i.buf ((nextPiece s i (moveOf i.bytes)).1 + k)).map (·.2)) = some false) →
      ∃ t, exec (.copyEntry wq idx) s = .next t ∧ ∃ n, t.out.head? = some (.memWrite i.fn
        ((moveOf i.bytes).dst + (nextPiece s i (moveOf i.bytes)).1)
        ((List.range n).map (fun k => ((tget (fun _ => none) i.buf ((nextPiece s i (moveOf i.bytes)).1 + k)).getD (0, false)).1)) false)
      ∧ 0 < n ∧ n ≤ (nextPiece s i (moveOf i.bytes)).2))

/-- A quiet entry that ended with OK leaves no record; any other stages its record, with its status and WQ, in its ring. A ready record of a ring with room leaves as a 32-byte host write at the ring's producer index, which advances by one. When a ring's timer has run it fires: its count is 0 and the timer stopped. The first whole frame for a receive queue in credit is given its head buffer where it fits; its writes go out in order, each as long as the payload limits and beats allow, and the entry's progress grows by as much. -/
def Obligations.CompletionsAndDelivery : Prop :=
  ∀ s : State, Memory.wf s = true →
  (∀ (wq : Fin 16384) (idx : Fin 65536) (i : WorkItem) (r : Report), getItem s wq.val idx.val = some i → i.stage = .finishing r →
    ((i.quiet = true ∧ r.status = stOK) → ∃ t, exec (.entryFinish wq idx) s = .next t ∧ t.queues.cr = s.queues.cr
      ∧ { t with queues := s.queues } = s)
    ∧ ((i.quiet = false ∨ r.status ≠ stOK) → (getCr s (recCr s wq.val)).staged.length < 64 → ∃ t x,
      exec (.entryFinish wq idx) s = .next t ∧ x.wq = wq.val ∧ x.idx = idx.val ∧ x.bytes = recordBytes i r
      ∧ t.queues.cr = (putCr s (recCr s wq.val)
          { getCr s (recCr s wq.val) with staged := (getCr s (recCr s wq.val)).staged ++ [x] }).queues.cr
      ∧ { t with queues := s.queues } = s))
  ∧ (∀ (n : Fin 16384) (r : Record), recValid s n.val = true → isHalted s (recOwner s n.val) = false →
    mayRequest s (recOwner s n.val) = true → canStart s (acct 3 1) 1 0 = true → nextRecord s (getCr s n.val).staged = some r →
    crFull s n.val = false → ∃ t, exec (.completionEntryWrite n) s = .next t
    ∧ t.out.head? = some (.memWrite (recOwner s n.val)
        (recCrBase s n.val + 32 * ((getCr s n.val).pi % recCrSize s n.val))
        (putB r.bytes 5 (leBytes 1 (leAt r.bytes 5 1 % 128 + 128 * phaseOfIndex (getCr s n.val).pi (recCrSize s n.val)))) false)
    ∧ (getCr t n.val).pi = ((getCr s n.val).pi + 1) % 65536 ∧ t.queues.items = s.queues.items ∧ t.queues.wq = s.queues.wq)
  ∧ (∀ (n : Fin 16384) (b : Nat), (getCr s n.val).modSince = some b → passed s b (recModTimer s n.val) = true → ∃ t,
    exec (.moderationTimerExpiry n) s = .next t
    ∧ t.queues.cr = (putCr s n.val { getCr s n.val with modCount := 0, modSince := none }).queues.cr
    ∧ (msixEn s (recOwner s n.val) = true → inD3 s (recOwner s n.val) = false →
        t.pcie.pba.contains (2048 * recOwner s n.val + recVector s n.val) = true))
  ∧ (∀ (n : Fin 16384) (d : Desc) (f : Frame) (i : WorkItem), s.sched.rx.find? (fun d => d.queue == n.val) = some d →
    getFrame s d.view.frame = some f → gkOpen s = true → f.whole = true → d.unsealed = false → validRx s n.val = true →
    isHalted s (recOwner s n.val) = false → inFlr s (recOwner s n.val) = false → (getWq s n.val).served = true →
    mayRequest s (recOwner s n.val) = true → inCredit s n.val = true → beatsLeft s 1 ≠ 0 → headBuffer s n.val = some i →
    getItem s i.wq i.idx = some i → d.enc = none →
    ((sentData f d).length ≤ leAt i.bytes 16 2 → ∃ t y, exec (.rxDeliver n) s = .next t ∧ getItem t i.wq i.idx = some y
      ∧ y.stage = .deliver ∧ y.rxd = some d ∧ y.out.map (·.1) = sentData f d ∧ y.outAt = leAt i.bytes 8 8
      ∧ t.sched.rx = popRx n.val s.sched.rx ∧ t.pipe = s.pipe)
    ∧ (leAt i.bytes 16 2 < (sentData f d).length → ∃ t, exec (.rxDeliver n) s = .next t
      ∧ rd t (pgSch + Reg.SCH_RXBUF_DROP) = rd s (pgSch + Reg.SCH_RXBUF_DROP) + 1 ∧ t.sched.rx = popRx n.val s.sched.rx))
  ∧ (∀ (wq : Fin 16384) (idx : Fin 65536) (i : WorkItem) (d : Desc), getItem s wq.val idx.val = some i → i.stage = .deliver →
    i.rxd = some d → beatsLeft s 1 ≠ 0 → mayRequest s i.fn = true → isHalted s i.fn = false →
    writeLen (mps s i.fn) i.outAt i.out (beatsLeft s 1) < i.out.length → ∃ t, exec (.dmaWriteIssue wq idx) s = .next t
    ∧ t.out.head? = some (.memWrite i.fn i.outAt ((i.out.take (writeLen (mps s i.fn) i.outAt i.out (beatsLeft s 1))).map (·.1))
        ((i.out.take (writeLen (mps s i.fn) i.outAt i.out (beatsLeft s 1))).any (·.2)))
    ∧ getItem t wq.val idx.val = some { i with
        out := i.out.drop (writeLen (mps s i.fn) i.outAt i.out (beatsLeft s 1)),
        outAt := i.outAt + writeLen (mps s i.fn) i.outAt i.out (beatsLeft s 1),
        done := i.done + writeLen (mps s i.fn) i.outAt i.out (beatsLeft s 1) } ∧ t.pipe = s.pipe)

/-- A send by a master that reaches its mailbox, to a receiver that exists and is not under reset, while the direction is not full, posts the outbound buffer with its seq and the sender's epoch; while it is full the send is refused with BUSY as a collision and counted. At a later boundary every message posted before is delivered: new, with its seq, and a duplicate exactly where the last message delivered had the same seq and epoch; other directions stay as they are. Acknowledging consumes an inbound message, and nothing else changes. -/
def Obligations.Mailboxes : Prop :=
  ∀ s : State, Memory.wf s = true →
  (∀ (via : Master) (w : Word), mbxOpen s via = true → (mbxDirOf s via % 2 = 0 → fnExists s (2 + mbxDirOf s via / 2) = true) →
    inFlr s (if mbxDirOf s via % 2 = 0 then 2 + mbxDirOf s via / 2 else 0) = false →
    ((getMbx s (mbxDirOf s via)).full = false → exec (.mailboxSend via w) s = .next (putMbx s (mbxDirOf s via)
      { getMbx s (mbxDirOf s via) with
        status := stOK, full := true, seq := fld w 15 0, posted := some s.tck.boundaries,
        epoch := if mbxDirOf s via % 2 = 0 then s.mbx.mgrEpoch else tenantEpoch s (mbxDirOf s via / 2),
        msg := (List.range 16).map (fun i => rd s (mbxBuffer (mbxDirOf s via) + 4 * i)) }))
    ∧ ((getMbx s (mbxDirOf s via)).full = true → ∃ t, exec (.mailboxSend via w) s = .next t
      ∧ getMbx t (mbxDirOf s via) = { getMbx s (mbxDirOf s via) with status := stBUSY, collision := true }
      ∧ rd t (pgMbx + Reg.MBX_COLL_CNT) = rd s (pgMbx + Reg.MBX_COLL_CNT) + 1 ∧ t.queues = s.queues))
  ∧ (∃ t, exec .mailboxDeliver s = .next t ∧ t.queues = s.queues ∧ t.mem = s.mem ∧ ∀ k,
    (∀ b, (getMbx s k).posted = some b → b < s.tck.boundaries → getMbx t k = { getMbx s k with
      posted := none, new := true, dup := (getMbx s k).kept == some ((getMbx s k).seq, (getMbx s k).epoch),
      rxSeq := (getMbx s k).seq, kept := some ((getMbx s k).seq, (getMbx s k).epoch) })
    ∧ ((∀ b, (getMbx s k).posted = some b → s.tck.boundaries ≤ b) → getMbx t k = getMbx s k))
  ∧ (∀ (via : Master) (w : Word), mbxOpen s via = true → (getMbx s (mbxRxDirOf s via)).new = true →
    (fbit w 0 = true → exec (.mailboxAck via w) s = .next (putMbx s (mbxRxDirOf s via)
      { getMbx s (mbxRxDirOf s via) with new := false, dup := false, orphan := false, clearing := true }))
    ∧ (fbit w 0 = false → exec (.mailboxAck via w) s = .next s))

/-- From a manager, served now, on an idle TEN page outside recovery: LOG_START with a size of 2^4 entries or more, an aligned base, an existing tenant with no log, and a free slot waits for the boundary, with nothing but the page's command registers changed; LOG_STOP of a slot in use waits likewise. A consumer index within the entries in the ring is taken, the same index does nothing, any other is recorded. LOG_RING_WRITE writes staged entries, 8 bytes each, with their phase, at the ring's producer index, and advances it, as far as the ring has room and beats allow. -/
def Obligations.DirtyPageLogs : Prop :=
  ∀ (s : State) (via : Master) (seq : Byte) (a0 a1 a2 : Word), Memory.wf s = true → Manages via →
  (PageReady s pgTen via → s.power.phase ≠ .recovery →
    (4 ≤ fld a0 19 16 → fld a1 11 0 = 0 → fnExists s (2 + fld a0 9 0) = true → (getLogSlot s (fld a0 27 24)).inUse = false →
      (∀ e ∈ s.logs, e.2.inUse = true → e.2.tenant ≠ fld a0 9 0) → ∃ t, exec (.logStart via seq a0 a1 a2) s = .next t
      ∧ CmdRuns s t pgTen 1 seq.toNat via (a0, a1, a2) ∧ { t with regs := s.regs, running := s.running } = s)
    ∧ ((getLogSlot s (fld a0 3 0)).inUse = true → ∃ t, exec (.logStop via seq a0) s = .next t
      ∧ CmdRuns s t pgTen 2 seq.toNat via (a0, 0, 0) ∧ { t with regs := s.regs, running := s.running } = s))
  ∧ (∀ (k : Fin 16) (w : Word), served s via true = true → s.power.phase ≠ .recovery →
    (fld w 15 0 = (getLogSlot s k.val).ci → (getLogSlot s k.val).ci < 65536 → exec (.tenLogCiWrite via k w) s = .next s)
    ∧ (0 < dist16 (getLogSlot s k.val).ci (fld w 15 0) →
        dist16 (getLogSlot s k.val).ci (fld w 15 0) ≤ ringUsedOf (getLogSlot s k.val) →
        exec (.tenLogCiWrite via k w) s = .next (putLogSlot s k.val { getLogSlot s k.val with ci := fld w 15 0 }))
    ∧ (ringUsedOf (getLogSlot s k.val) < dist16 (getLogSlot s k.val).ci (fld w 15 0) → ∃ t,
        exec (.tenLogCiWrite via k w) s = .next t ∧ t.logs = s.logs ∧ fbit (rd t (pgTen + Reg.PAGE_ERR)) 2 = true))
  ∧ (∀ k : Fin 16, beatsLeft s 1 ≠ 0 → mayRequest s 0 = true → runningOn s pgTen = none →
    0 < Nat.min (Nat.min (getLogSlot s k.val).staged.length (logRoom (getLogSlot s k.val)))
      (2 ^ (getLogSlot s k.val).log2 - (getLogSlot s k.val).pi % 2 ^ (getLogSlot s k.val).log2) →
    ∃ t n, exec (.logRingWrite k) s = .next t ∧ n ≤ (getLogSlot s k.val).staged.length ∧ n ≤ logRoom (getLogSlot s k.val)
    ∧ t.out.head? = some (.memWrite 0
        ((getLogSlot s k.val).base + 8 * ((getLogSlot s k.val).pi % 2 ^ (getLogSlot s k.val).log2))
        ((logRingBytes (getLogSlot s k.val).log2 (getLogSlot s k.val).pi ((getLogSlot s k.val).staged.take n)).map (·.1)) false)
    ∧ getLogSlot t k.val = { getLogSlot s k.val with
        pi := ((getLogSlot s k.val).pi + n) % 65536, staged := (getLogSlot s k.val).staged.drop n }
    ∧ t.queues = s.queues ∧ t.pipe = s.pipe)

/-- From PF1, served now, on an idle channel page: OPEN outside recovery opens a closed channel and CLOSE closes an open one, each ending with OK; SUBMIT on an open channel of a new seq with a well-formed request waits for the store. The request at the head of the store's queue is answered: a plain load outside the erased lock, of an empty slot or with replace, puts the 32 bytes, attribute and label into the slot, counts the load and has the slot's derived keys dropped; a wrapped load does so with the key RFC 3394 unwraps, and is refused, with every slot unchanged, where its key slot is empty, barred, or the unwrap fails; an erasure empties the slot; SLOT_INFO and READ_RECORD change no slot whose integrity value is right. SLOT_CACHE_INVALIDATE leaves no cached key derived from those slots. -/
def Obligations.CustodyChannels : Prop :=
  ∀ s : State, Memory.wf s = true →
  (∀ (c : Fin 16) (seq : Byte), PageReady s (pgCch c.val) .pf1 →
    ((getCch s c.val).isOpen = false → s.power.phase ≠ .recovery → ∃ t, exec (.open_ c .pf1 seq) s = .next t
      ∧ CmdEnded s t (pgCch c.val) 1 seq.toNat stOK (0, 0, 0) (0, 0, 0) ∧ getCch t c.val = { getCch s c.val with isOpen := true }
      ∧ { t with regs := s.regs, running := s.running, cus := s.cus } = s)
    ∧ ((getCch s c.val).isOpen = true → ∃ t, exec (.close c .pf1 seq) s = .next t
      ∧ CmdEnded s t (pgCch c.val) 2 seq.toNat stOK (0, 0, 0) (0, 0, 0)
      ∧ getCch t c.val = { getCch s c.val with isOpen := false, lastSeq := none }
      ∧ { t with regs := s.regs, running := s.running, cus := s.cus } = s)
    ∧ (∀ (req : Vector Word 16) (a0 : Word), (getCch s c.val).isOpen = true → s.power.phase ≠ .recovery →
      (getCch s c.val).lastSeq ≠ some (fld a0 15 0) → CusReq.bad ⟨c.val, fld a0 15 0, req.toList.flatMap wordBytes⟩ = false →
      ∃ t, exec (.submit c req .pf1 seq a0) s = .next t
      ∧ runningOn t (pgCch c.val) = some ⟨pgCch c.val, 3, seq.toNat, .pf1, a0, 0, 0⟩
      ∧ t.cus.queue = s.cus.queue ++ [⟨c.val, fld a0 15 0, req.toList.flatMap wordBytes⟩]
      ∧ { t with regs := s.regs, running := s.running, cus := s.cus } = s))
  ∧ (∀ q, s.cus.queue.head? = some q →
    (q.op = 1 → loadMay s q = true → ∃ t h, exec .loadPlain s = .next t ∧ CustodyEnded t q stOK
      ∧ (getSlot t q.slot).half = some h ∧ h.key = BitVec.ofNat 256 (beNat (sliceB q.bytes 16 32))
      ∧ h.attr = BitVec.ofNat 8 (leAt q.bytes 3 1 % 2) ∧ h.label = w32 (leAt q.bytes 4 4)
      ∧ (getSlot t q.slot).loads = ((getSlot s q.slot).loads + 1) % 2 ^ 32
      ∧ (∀ k, k ≠ q.slot → getSlot t k = getSlot s k) ∧ t.cip.slotDrops = s.cip.slotDrops ++ [q.slot])
    ∧ (q.op = 1 → loadMay s q = false → ∃ t, exec .loadPlain s = .next t ∧ CustodyEnded t q stWRONG_STATE ∧ t.vkeep = s.vkeep)
    ∧ (q.op = 2 → loadMay s q = true →
      ((getSlot s q.kek).half = none → ∃ t, exec .loadWrapped s = .next t ∧ CustodyEnded t q stNOT_FOUND ∧ t.vkeep = s.vkeep)
      ∧ (∀ h, (getSlot s q.kek).half = some h →
        ((q.kek = q.slot ∨ nbit h.attr.toNat 0 = false) → ∃ t, exec .loadWrapped s = .next t ∧ CustodyEnded t q stDENIED
          ∧ t.vkeep = s.vkeep)
        ∧ (q.kek ≠ q.slot → nbit h.attr.toNat 0 = true →
          (aesUnwrap (keyBytes h.key) (sliceB q.bytes 16 40) = none → ∃ t, exec .loadWrapped s = .next t
            ∧ CustodyEnded t q stBAD_ARG ∧ t.vkeep = s.vkeep)
          ∧ (∀ key, aesUnwrap (keyBytes h.key) (sliceB q.bytes 16 40) = some key → ∃ t g, exec .loadWrapped s = .next t
            ∧ CustodyEnded t q stOK ∧ (getSlot t q.slot).half = some g ∧ g.key = BitVec.ofNat 256 (beNat key)
            ∧ ∀ k, k ≠ q.slot → getSlot t k = getSlot s k))))
    ∧ (q.op = 3 → (getSlot s q.slot).sel ≠ none → ∃ t, exec .eraseSlot s = .next t ∧ CustodyEnded t q stOK
      ∧ (getSlot t q.slot).half = none ∧ (∀ k, k ≠ q.slot → getSlot t k = getSlot s k)
      ∧ t.cip.slotDrops = s.cip.slotDrops ++ [q.slot])
    ∧ (q.op = 4 → ∀ h, (getSlot s q.slot).half = some h → keyCheck h = h.check → ∃ t, exec .slotInfo s = .next t
      ∧ CustodyEnded t q stOK ∧ t.vkeep = s.vkeep)
    ∧ (q.op = 5 → ∃ t, exec .readRecord s = .next t ∧ CustodyEnded t q stOK ∧ t.vkeep = s.vkeep))
  ∧ (∃ t, exec .slotCacheInvalidate s = .next t ∧ t.cip.slotDrops = [] ∧ t.vkeep = s.vkeep ∧ t.regs = s.regs
    ∧ ∀ sl e, e < 32768 → (saSlot (saBytes s (e / 32) (e % 32)) ∈ s.cip.slotDrops → cached t sl e = [])
      ∧ (saSlot (saBytes s (e / 32) (e % 32)) ∉ s.cip.slotDrops → cached t sl e = cached s sl e))

/-- With VKEEP present a source that becomes active sets its bit; at level 0 nothing else happens; at Amber its latch is set, the alarm counted on the main rails and no slot touched; at Crimson every slot is erased and the erased lock set. ZEROIZE from PF1 and ERASE_ALL from a manager, with 0xC0DE outside recovery, do the same and end with OK. A source that becomes inactive clears its bit alone. SEAL_POLICY seals an unsealed policy; CLEAR_ALARM, with no Crimson source active, leaves the erased lock. After CRIMSON_CACHE_INVALIDATE no derived key is cached. Each sensor sample is readable, with the highest temperature. INJECT in test mode records the fault of a slice. -/
def Obligations.AlarmsAndErasure : Prop :=
  ∀ s : State, Memory.wf s = true →
  (∀ src : AlarmSrc, s.vkeep.present = true → nbit s.vkeep.active.toNat (alarmCode src) = false →
    (alarmLevel s (alarmCode src) = 0 → exec (.alarmSourceActive src) s
      = .next { s with vkeep := { s.vkeep with active := s.vkeep.active ||| w32 (2 ^ alarmCode src) } })
    ∧ (alarmLevel s (alarmCode src) = 1 → ∃ t, exec (.alarmSourceActive src) s = .next t
      ∧ t.vkeep = { s.vkeep with
          active := s.vkeep.active ||| w32 (2 ^ alarmCode src), latch := s.vkeep.latch ||| w32 (2 ^ alarmCode src) }
      ∧ (s.power.mainRails = true → rd t (pgAlm + Reg.ALM_AMBER_CNT) = rd s (pgAlm + Reg.ALM_AMBER_CNT) + 1))
    ∧ (alarmLevel s (alarmCode src) = 2 → ∃ t, exec (.alarmSourceActive src) s = .next t ∧ Zeroized t
      ∧ t.vkeep.crimsons = satAt 65535 (s.vkeep.crimsons + 1) ∧ t.vkeep.lastSrc = alarmCode src
      ∧ (s.power.mainRails = true → t.cip.crimsonDue = true)))
  ∧ (∀ src : AlarmSrc, exec (.alarmSourceInactive src) s
    = .next { s with vkeep := { s.vkeep with active := s.vkeep.active &&& ~~~(w32 (2 ^ alarmCode src)) } })
  ∧ (∀ (via : Master) (seq : Byte), s.vkeep.present = true → s.power.phase ≠ .recovery →
    (PageReady s pgCus .pf1 → ∃ t, exec (.zeroize .pf1 seq 0xC0DE) s = .next t ∧ Zeroized t ∧ t.vkeep.lastSrc = 9
      ∧ rd t (pgCus + Reg.CMD_RESULT) = w32 (1 + 65536 * 3 + 2 ^ 24 * seq.toNat) ∧ runningOn t pgCus = none)
    ∧ (PageReady s pgAlm via → Manages via → ∃ t, exec (.eraseAll via seq 0xC0DE) s = .next t ∧ Zeroized t ∧ t.vkeep.lastSrc = 9
      ∧ rd t (pgAlm + Reg.CMD_RESULT) = w32 (1 + 65536 + 2 ^ 24 * seq.toNat) ∧ runningOn t pgAlm = none)
    ∧ (PageReady s pgCus .pf1 → s.vkeep.sealed = false → ∃ t, exec (.sealPolicy .pf1 seq) s = .next t
      ∧ CmdEnded s t pgCus 1 seq.toNat stOK (0, 0, 0) (0, 0, 0) ∧ t.vkeep = { s.vkeep with sealed := true }
      ∧ { t with regs := s.regs, running := s.running, vkeep := s.vkeep } = s)
    ∧ (PageReady s pgCus .pf1 → crimsonActive s = false → s.vkeep.erasedLock = true → ∃ t, exec (.clearAlarm .pf1 seq) s = .next t
      ∧ CmdEnded s t pgCus 2 seq.toNat stOK (0, 0, 0) (0, 0, 0)
      ∧ t.vkeep = { s.vkeep with erasedLock := false, blank := false }
      ∧ { t with regs := s.regs, running := s.running, vkeep := s.vkeep } = s))
  ∧ (s.cip.crimsonDue = true → ∃ t, exec .crimsonCacheInvalidate s = .next t ∧ t.cip.cache = [] ∧ t.cip.crimsonDue = false
    ∧ t.vkeep = s.vkeep)
  ∧ (∀ (temps : Vector (BitVec 16) 4) (volts : Vector (BitVec 16) 5), stageOneBegun s = true → ∃ t,
    exec (.sensorSample temps volts) s = .next t
    ∧ (∀ k : Fin 4, rd t (pgEvc + Reg.EVC_TEMP + 4 * k.val) = w32 (temps[k].toNat + 2 ^ 31)
      ∧ (fbit (rd s (pgEvc + Reg.EVC_TEMP + 4 * k.val)) 31 = false →
          rd t (pgEvc + Reg.EVC_TEMP_MAX + 4 * k.val) = w32 temps[k].toNat))
    ∧ (∀ k : Fin 5, rd t (pgEvc + Reg.EVC_VOLT + 4 * k.val) = w32 (volts[k].toNat + 2 ^ 31))
    ∧ t.vkeep = s.vkeep ∧ t.queues = s.queues ∧ t.power = s.power)
  ∧ (∀ (sl : SliceId) (via : Master) (seq : Byte) (a0 : Word), PageReady s (pgSelf sl) via → Manages via → s.power.phase = .test →
    (s.slice sl).role = .active ∨ (s.slice sl).role = .standby → 1 ≤ fld a0 15 8 → fld a0 15 8 ≤ 7 → fld a0 7 4 = 0 →
    fld a0 31 16 = 0 → ∀ kind, (fld a0 3 0 = 1 ∧ kind = .transient) ∨ (fld a0 3 0 = 2 ∧ kind = .permanent)
      ∨ (fld a0 3 0 = 3 ∧ kind = .latent) ∨ (fld a0 3 0 = 4 ∧ kind = .overrun) →
    ∃ t, exec (.inject sl via seq a0) s = .next t ∧ CmdEnded s t (pgSelf sl) 1 seq.toNat stOK (a0, 0, 0) (0, 0, 0)
    ∧ t.slice sl = { s.slice sl with inject := (s.slice sl).inject ++ [(fld a0 15 8, kind)] }
    ∧ { t with regs := s.regs, running := s.running, red := s.red } = s)

/-- From a manager, served now, on an idle page outside recovery: ENABLE of a disabled port whose configuration passes every check and fits the plan, DISABLE of an enabled one, and GCL_OFF wait for the boundary; ENABLE that fails a check ends with BAD_ARG and the offset of the first that failed, and no port changes. RETRAIN of an enabled port whose mode trains starts training. GCL_ARM, with nothing armed and a sound list of 1 to 256 entries, arms the list for a tick after the fourth next that lies whole cycles after its base, the first such tick unless the base itself lies later. GCL_DISARM drops an armed list. An armed list whose tick has come becomes the one in force; GCL_POS shows the entry of the tick in progress. -/
def Obligations.PortCommands : Prop :=
  ∀ (s : State) (p : Fin 6) (via : Master) (seq : Byte), Memory.wf s = true →
  (Manages via → s.power.phase ≠ .recovery →
    (PageReady s (pgPcs p.val) via →
      ((getPort s p.val).enabled = false → pcsCheck s p.val = none → overReserve s (modeRate (portMode s p.val)) = false →
        ∃ t, exec (.pcsEnable p via seq) s = .next t ∧ CmdRuns s t (pgPcs p.val) 1 seq.toNat via (0, 0, 0)
        ∧ { t with regs := s.regs, running := s.running } = s)
      ∧ (∀ o h, (getPort s p.val).enabled = false → pcsCheck s p.val = some (o, h) → ∃ t, exec (.pcsEnable p via seq) s = .next t
        ∧ runningOn t (pgPcs p.val) = none ∧ t.ports = s.ports
        ∧ rd t (pgPcs p.val + Reg.CMD_RESULT) = w32 (1 + 256 * stBAD_ARG + 65536 + 2 ^ 24 * seq.toNat)
        ∧ rd t (pgPcs p.val + Reg.CMD_OUT) = w32 o ∧ rd t (pgPcs p.val + Reg.CMD_OUT + 4) = w32 h)
      ∧ ((getPort s p.val).enabled = true →
        (∃ t, exec (.pcsDisable p via seq) s = .next t ∧ CmdRuns s t (pgPcs p.val) 2 seq.toNat via (0, 0, 0)
          ∧ { t with regs := s.regs, running := s.running } = s)
        ∧ (fbit (rd s (pgPcs p.val + Reg.PCS_MODE)) 5 = true → ∃ t, exec (.retrain p via seq) s = .next t
          ∧ CmdEnded s t (pgPcs p.val) 3 seq.toNat stOK (0, 0, 0) (0, 0, 0)
          ∧ getPort t p.val = { getPort s p.val with training := true }
          ∧ { t with regs := s.regs, running := s.running, ports := s.ports } = s)))
    ∧ (PageReady s (pgMac p.val) via →
      ((getPort s p.val).armed = [] → 1 ≤ fld (rd s (pgMac p.val + Reg.MAC_GCL_COUNT)) 8 0 →
        fld (rd s (pgMac p.val + Reg.MAC_GCL_COUNT)) 8 0 ≤ 256 →
        (∀ e ∈ adminList s p.val, gateTicks e ≠ 0 ∧ fld e 31 24 = 0) → ∃ t a k, exec (.gclArm p via seq) s = .next t
        ∧ CmdEnded s t (pgMac p.val) 1 seq.toNat stOK (0, 0, 0) (0, 0, 0)
        ∧ getPort t p.val = { getPort s p.val with armed := adminList s p.val, armA := a } ∧ s.tck.tick + 4 < a
        ∧ a = (rd s (pgMac p.val + Reg.MAC_GCL_BASE_LO)).toNat + 2 ^ 32 * (rd s (pgMac p.val + Reg.MAC_GCL_BASE_HI)).toNat
            + k * gclCycle (adminList s p.val)
        ∧ (k ≠ 0 → a ≤ s.tck.tick + 4 + gclCycle (adminList s p.val))
        ∧ { t with regs := s.regs, running := s.running, ports := s.ports } = s)
      ∧ ((getPort s p.val).armed ≠ [] → ∃ t, exec (.gclDisarm p via seq) s = .next t
        ∧ CmdEnded s t (pgMac p.val) 2 seq.toNat stOK (0, 0, 0) (0, 0, 0)
        ∧ getPort t p.val = { getPort s p.val with armed := [] }
        ∧ { t with regs := s.regs, running := s.running, ports := s.ports } = s)
      ∧ (∃ t, exec (.gclOff p via seq) s = .next t ∧ CmdRuns s t (pgMac p.val) 3 seq.toNat via (0, 0, 0)
        ∧ getPort t p.val = { getPort s p.val with gclOff := true }
        ∧ { t with regs := s.regs, running := s.running, ports := s.ports } = s)))
  ∧ ((getPort s p.val).armed ≠ [] → (getPort s p.val).armA ≤ s.tck.tick → exec (.gclActivate p) s
    = .next (putPort s p.val { getPort s p.val with
        oper := (getPort s p.val).armed, operA := (getPort s p.val).armA, armed := [] }))
  ∧ (s.tck.tick < (getPort s p.val).armA → exec (.gclActivate p) s = .next s)
  ∧ (∀ k e r, gateAt (getPort s p.val).oper 0 (gclPos (getPort s p.val) s.tck.tick) = some (k, e, r) →
    exec (.gateStateChange p) s = .next (wr s (pgMac p.val + Reg.MAC_GCL_POS)
      (w32 (k + 256 * gclPos (getPort s p.val) s.tck.tick))))

/-- The link is up exactly where the port is enabled, not training, every lane of its mode locked, aligned, the FEC locked or off, and no local fault. A training attempt that succeeds ends training with its taps; one that fails counts and training goes on. On an enabled port with its link up, bytes that begin a frame make a new frame that takes its cells; a frame that is good and whole, shorter than 260 bytes and no MAC control frame, is counted and its header queued; a bad one leaves nothing behind, and its uncorrectable codewords are counted. A PAUSE frame, and a PFC frame for its classes, sets the time each class stays paused, and is not queued. Verify mPackets are answered, LPI is counted, a pause that is over is forgotten, and xoff is sent again after the refresh time. -/
def Obligations.LinkAndReception : Prop :=
  ∀ (s : State) (p : Fin 6), Memory.wf s = true →
  (∀ st : LinkState, ∃ t, exec (.linkStateChange p st) s = .next t ∧ t.queues.wq = s.queues.wq
    ∧ (getPort t p.val).remoteFault = st.remoteFault ∧ (getPort t p.val).localFault = st.localFault
    ∧ ((getPort t p.val).linkUp = true ↔ ((getPort s p.val).enabled = true ∧ (getPort s p.val).training = false
      ∧ 0 < modeLanes (portMode s p.val)
      ∧ st.locks.val % 2 ^ modeLanes (portMode s p.val) = 2 ^ modeLanes (portMode s p.val) - 1
      ∧ st.aligned = true ∧ (st.fec = true ∨ fbit (rd s (pgPcs p.val + Reg.PCS_MODE)) 4 = true) ∧ st.localFault = false)))
  ∧ (∀ taps : Vector Word 4, (getPort s p.val).enabled = true → (getPort s p.val).training = true →
    (∃ t, exec (.trainingAttemptEnd p true taps) s = .next t ∧ getPort t p.val = { getPort s p.val with training := false }
      ∧ (∀ k : Fin 4, rd t (pgPcs p.val + Reg.PCS_TXEQ_ACT + 4 * k.val) = taps[k] &&& 0x1F1F)
      ∧ { t with regs := s.regs, ports := s.ports } = s)
    ∧ (∃ t, exec (.trainingAttemptEnd p false taps) s = .next t ∧ t.ports = s.ports
      ∧ rd t (pgPcs p.val + Reg.PCS_TRAIN_FAIL_CNT) = rd s (pgPcs p.val + Reg.PCS_TRAIN_FAIL_CNT) + 1))
  ∧ (∀ (express : Bool) (cyc : Nat) (bytes : List Byte), (getPort s p.val).enabled = true → (getPort s p.val).linkUp = true →
    getFrame s s.pipe.nextFrame = none →
    rxNow s (2 * p.val + (express && fbit (rd s (pgMac p.val + Reg.MAC_PREEMPT)) 0).toNat) = none →
    bytes.length < 260 → cellsFor (Nat.min bytes.length (maxFrame s p.val)) ≤ s.pipe.freeCells →
    passesHeadroom s p.val (rxClass s p.val bytes) (cellsFor (Nat.min bytes.length (maxFrame s p.val))) = false →
    (∃ t f, exec (.frameReceive p express cyc true bytes none) s = .next t ∧ getFrame t s.pipe.nextFrame = some f
      ∧ f.data = bytes ∧ f.port = some p.val ∧ f.whole = false ∧ f.time = rxTime s p.val cyc ∧ t.pipe.q0 = s.pipe.q0
      ∧ t.pipe.freeCells = s.pipe.freeCells - cellsFor (Nat.min bytes.length (maxFrame s p.val))
      ∧ { t with pipe := s.pipe } = s)
    ∧ (18 ≤ bytes.length → rxFlags bytes (maxFrame s p.val) false false = 0 → isCtlFrame s p.val bytes = false →
      s.pipe.q0.length < 4096 → ∃ t f, exec (.frameReceive p express cyc true bytes (some RxEnd.clean)) s = .next t
      ∧ getFrame t s.pipe.nextFrame = some f ∧ f.data = bytes.take (bytes.length - 4) ∧ f.flen = bytes.length
      ∧ f.whole = true ∧ f.bad = false ∧ t.pipe.q0 = s.pipe.q0 ++ [s.pipe.nextFrame] ∧ t.queues = s.queues
      ∧ rdWide t (pgMac p.val + 0x408) = (rdWide s (pgMac p.val + 0x408) + 1) % 2 ^ 64)
    ∧ (∀ e : RxEnd, 18 ≤ bytes.length → badFlags (rxFlags bytes (maxFrame s p.val) (e.code || e.uncorrectable != 0)
        (e.assembly && fbit (rd s (pgMac p.val + Reg.MAC_PREEMPT)) 0)) = true → badPass s p.val = false →
      ∃ t, exec (.frameReceive p express cyc true bytes (some e)) s = .next t
      ∧ rdWide t (pgPcs p.val + Reg.PCS_FEC_UNCORR_LO) = (rdWide s (pgPcs p.val + Reg.PCS_FEC_UNCORR_LO) + e.uncorrectable) % 2 ^ 64
      ∧ (e.uncorrectable ≠ 0 → fbit (rd t (pgPcs p.val + Reg.PAGE_ERR)) 4 = true)
      ∧ getFrame t s.pipe.nextFrame = none ∧ t.pipe.q0 = s.pipe.q0 ∧ t.pipe.freeCells = s.pipe.freeCells ∧ t.queues = s.queues))
  ∧ (∀ (cyc : Nat) (src : BitVec 48), (getPort s p.val).enabled = true → (getPort s p.val).linkUp = true →
    getFrame s s.pipe.nextFrame = none →
    rxNow s (2 * p.val + (fbit (rd s (pgMac p.val + Reg.MAC_PREEMPT)) 0).toNat) = none → 64 ≤ maxFrame s p.val →
    1 ≤ s.pipe.freeCells → fbit (rd s (pgMac p.val + Reg.MAC_RX_CTL)) 1 = false → fbit (rd s (pgMac p.val + Reg.MAC_FC)) 3 = true →
    (∀ c, c < 8 → passesHeadroom s p.val c 1 = false) →
    twf (fun _ => 0) (getPort s p.val).pausedTill = true →
    (∀ quanta : BitVec 16, fld (rd s (pgMac p.val + Reg.MAC_FC)) 1 0 = 1 → ∃ t,
      exec (.pauseFrameReceived p cyc src quanta) s = .next t ∧ t.pipe.q0 = s.pipe.q0 ∧ t.pipe.freeCells = s.pipe.freeCells
      ∧ ∀ c, c < 8 → tget (fun _ => 0) (getPort t p.val).pausedTill c
        = if quanta = 0 then 0 else s.tck.boundaries + pauseTicks s p.val quanta.toNat + 1)
    ∧ (∀ (enables : Byte) (quanta : Vector (BitVec 16) 8), fld (rd s (pgMac p.val + Reg.MAC_FC)) 1 0 = 2 → ∃ t,
      exec (.pfcFrameReceived p cyc src enables quanta) s = .next t ∧ t.pipe.q0 = s.pipe.q0
      ∧ t.pipe.freeCells = s.pipe.freeCells ∧ ∀ c : Fin 8, tget (fun _ => 0) (getPort t p.val).pausedTill c.val
        = if nbit enables.toNat c.val then (if quanta[c] = 0 then 0 else s.tck.boundaries + pauseTicks s p.val quanta[c].toNat + 1)
          else tget (fun _ => 0) (getPort s p.val).pausedTill c.val))
  ∧ (portUsable s p.val = true → fbit (rd s (pgMac p.val + Reg.MAC_PREEMPT)) 0 = true →
    exec (.verifyMpacketReceived p) s = .next (portStat (emit s (.respond p.val)) p.val 21 1))
  ∧ ((getPort s p.val).enabled = true → exec (.lpiReceived p) s = .next (portStat s p.val 18 1))
  ∧ (exec (.pauseExpiry p) s = .next (putPort s p.val { getPort s p.val with
      pausedTill := (getPort s p.val).pausedTill.filter (fun e => decide (s.tck.boundaries < e.2)) }))
  ∧ (portUsable s p.val = true → (getPort s p.val).xoff ≠ 0 → macIdle s = false →
    passed s (getPort s p.val).xoffSent (fld (rd s (pgMac p.val + Reg.MAC_PFC_REFRESH)) 15 0) = true → ∃ t l,
    exec (.pfcRefresh p) s = .next t ∧ getPort t p.val = { getPort s p.val with xoffSent := s.tck.boundaries }
    ∧ t.out = .wire p.val l true :: s.out ∧ l.length = 60 ∧ l.take 6 = [0x01, 0x80, 0xC2, 0, 0, 1] ∧ t.pipe = s.pipe
    ∧ t.queues = s.queues)

/-- While the pipeline runs and a slice acts: with credit the first received header takes a slot, and with none of them queued, or no credit left for them, the first transmitted one does; it leaves its queue and each working slice counts it; a received frame whose header window holds a poisoned block is also counted as dropped. Without credit for either nothing happens. The oldest re-entry of an earlier tick leaves its queue likewise. A manager's write to a window word stores it, sound again in every copy, and what is in force waits for the boundary. A word of a shaper or policer entry is stored where the entry as it would stand is invalid or sound; otherwise it is not stored, and the entry and reason are recorded. -/
def Obligations.HeaderSlotsAndWindows : Prop :=
  ∀ s : State, Memory.wf s = true →
  (pipeRuns s = true → (actingSlice s).isSome = true →
    (∀ id l, s.pipe.q0 = id :: l →
      (canStart s (acct 1 0) 1 1 = false → s.pipe.q1 = [] ∨ canStart s (acct 1 1) 1 1 = false → exec .headerProcess s = .next s)
      ∧ (∀ f, canStart s (acct 1 0) 1 1 = true → getFrame s id = some f → f.bad = false → f.port ≠ some 6 → f.port ≠ none → ∃ t,
        exec .headerProcess s = .next t ∧ t.pipe.q0 = l
        ∧ ∀ sl ∈ workingSlices s, rd t (pgSlice sl 0 + Reg.PIP_HDR_CNT) = rd s (pgSlice sl 0 + Reg.PIP_HDR_CNT) + 1
          ∧ (f.windowPoisoned = true →
              rd t (pgSlice sl 0 + Reg.PIP_POISON_DROP) = rd s (pgSlice sl 0 + Reg.PIP_POISON_DROP) + 1)))
    ∧ (∀ id l, s.pipe.q0 = [] ∨ canStart s (acct 1 0) 1 1 = false → s.pipe.q1 = .host id :: l → canStart s (acct 1 1) 1 1 = true → getFrame s id ≠ none → ∃ t,
      exec .headerProcess s = .next t ∧ t.pipe.q0 = s.pipe.q0 ∧ t.pipe.q1 = l
      ∧ ∀ sl ∈ workingSlices s, rd t (pgSlice sl 0 + Reg.PIP_HDR_CNT) = rd s (pgSlice sl 0 + Reg.PIP_HDR_CNT) + 1)
    ∧ (s.pipe.q0 = [] → s.pipe.q1 = [] → exec .headerProcess s = .next s)
    ∧ (∀ d l, s.pipe.q2 = .copy d :: l → s.pipe.q2New < s.pipe.q2.length → canStart s (acct 1 2) 1 1 = true → ∃ t,
      exec .reentry s = .next t ∧ t.pipe.q2 = l ∧ t.pipe.q0 = s.pipe.q0 ∧ t.pipe.q1 = s.pipe.q1
      ∧ ∀ sl ∈ workingSlices s, rd t (pgSlice sl 0 + Reg.PIP_HDR_CNT) = rd s (pgSlice sl 0 + Reg.PIP_HDR_CNT) + 1))
  ∧ (s.pipe.q2.length ≤ s.pipe.q2New → exec .reentry s = .next s)
  ∧ (∀ (via : Master) (w : Word), Manages via → served s via true = true → s.power.phase ≠ .recovery →
    (∀ a, (∃ x, target a = .window x) → a < 0x4000000 → exec (.windowWrite via a w) s = .next { wr s a w with
        pipe := { s.pipe with
          winBad := s.pipe.winBad.filter (fun x => x.2 != winWord a), edgeBad := s.pipe.edgeBad.filter (fun x => x != winWord a) } })
    ∧ (∀ i k, i < 20480 → k < 4 →
      ((fbit (afterWrite s (winShaper + 32 * i) k 1 w) 24 = false ∨ nodeReason s i (afterWrite s (winShaper + 32 * i) k 0 w)
          (afterWrite s (winShaper + 32 * i) k 1 w) (afterWrite s (winShaper + 32 * i) k 2 w)
          (afterWrite s (winShaper + 32 * i) k 3 w) = none) →
        exec (.shaperEntryWrite via (winShaper + 32 * i + 4 * k) w) s = .next (wr s (winShaper + 32 * i + 4 * k) w))
      ∧ (∀ r, fbit (afterWrite s (winShaper + 32 * i) k 1 w) 24 = true → nodeReason s i (afterWrite s (winShaper + 32 * i) k 0 w)
          (afterWrite s (winShaper + 32 * i) k 1 w) (afterWrite s (winShaper + 32 * i) k 2 w)
          (afterWrite s (winShaper + 32 * i) k 3 w) = some r →
        ∃ t, exec (.shaperEntryWrite via (winShaper + 32 * i + 4 * k) w) s = .next t
        ∧ rd t (winShaper + 32 * i + 4 * k) = rd s (winShaper + 32 * i + 4 * k) ∧ fbit (rd t (pgSch + Reg.PAGE_ERR)) 1 = true
        ∧ (fbit (rd s (pgSch + Reg.SCH_ENTRY_ERR)) 31 = false →
            rd t (pgSch + Reg.SCH_ENTRY_ERR) = w32 (i + 65536 * r + 2 ^ 31))))
    ∧ (∀ i k, i < 4096 → k < 2 → rd s (winPolicer + 32 * i + 24) = 0 → rd s (winPolicer + 32 * i + 28) = 0 →
      ((fbit (afterWrite s (winPolicer + 32 * i) k 1 w) 24 = false ∨ (fld (afterWrite s (winPolicer + 32 * i) k 1 w) 31 25 = 0
          ∧ 64 ≤ fld (afterWrite s (winPolicer + 32 * i) k 1 w) 23 0)) →
        exec (.policerEntryWrite via (winPolicer + 32 * i + 4 * k) w) s = .next (wr s (winPolicer + 32 * i + 4 * k) w))
      ∧ (fbit (afterWrite s (winPolicer + 32 * i) k 1 w) 24 = true → fld (afterWrite s (winPolicer + 32 * i) k 1 w) 31 25 = 0 →
        fld (afterWrite s (winPolicer + 32 * i) k 1 w) 23 0 < 64 → fbit (rd s (pgSch + Reg.SCH_ENTRY_ERR)) 31 = false →
        ∃ t, exec (.policerEntryWrite via (winPolicer + 32 * i + 4 * k) w) s = .next t
        ∧ rd t (winPolicer + 32 * i + 4 * k) = rd s (winPolicer + 32 * i + 4 * k)
        ∧ rd t (pgSch + Reg.SCH_ENTRY_ERR) = w32 (i + 32768 + 65536 * 2 + 2 ^ 31))))

/-- On a ready table unit with enough learning credits: SEARCH and NEXT answer with the position and bytes of an entry, or NOT_FOUND; INSERT of a new sound key puts it into the lowest empty slot of its first home bucket, and of a known key replaces it only where asked; DELETE empties the slot; FLUSH leaves exactly the entries that do not match; DIGEST and SRC_COUNT count and change no table. A learn event of an earlier tick leaves a fixed entry alone, adds an unknown source below its limit, and is dropped and counted under a bulk lock. An ageing visit clears the hit flag of the four slots of its group and removes those without it, but no fixed or frozen entry. A drain moves a stash entry into the freed slot. -/
def Obligations.ExactMatchTable : Prop :=
  ∀ (s : State) (sl : SliceId), Memory.wf s = true →
  (∀ (via : Master) (seq : Byte) (a0 a1 : Word), TblReady s sl via →
    (∀ p e, emtFind s sl (sliceB (tblReq s sl) 0 32) = some (p, e) → 1 ≤ learnLeft s sl → ∃ t, exec (.search sl via seq) s = .next t
      ∧ Answered t (pgTbl sl) 1 seq.toNat stOK ∧ rd t (pgTbl sl + Reg.CMD_OUT) = w32 (p + 2 ^ 24 * versionOf (getTbl s sl) p)
      ∧ (∀ k, k < 10 → rd t (pgTbl sl + Reg.TBL_RSP + 4 * k) = w32 (leAt e.bytes (4 * k) 4)) ∧ getTbl t sl = getTbl s sl)
    ∧ (emtFind s sl (sliceB (tblReq s sl) 0 32) = none → 1 ≤ learnLeft s sl → ∃ t, exec (.search sl via seq) s = .next t
      ∧ Answered t (pgTbl sl) 1 seq.toNat stNOT_FOUND ∧ getTbl t sl = getTbl s sl)
    ∧ (∀ p e, (p, some e) ∈ (getTbl s sl).emt → slotAt (getTbl s sl) p = some e → fld a0 18 0 ≤ p → p < emtSlots →
      nextMatches a1 e = true → fbit a1 12 = false →
      (∀ x ∈ (getTbl s sl).emt, fld a0 18 0 ≤ x.1 → (x.2.map (nextMatches a1)).getD false = true → p ≤ x.1) →
      p / 4 - fld a0 18 0 / 4 + 1 ≤ learnLeft s sl → ∃ t, exec (.tblNext sl via seq a0 a1) s = .next t
      ∧ Answered t (pgTbl sl) 2 seq.toNat stOK ∧ rd t (pgTbl sl + Reg.CMD_OUT) = w32 (p + 2 ^ 24 * versionOf (getTbl s sl) p)
      ∧ getTbl t sl = getTbl s sl)
    ∧ (lockOwner s sl = 0 →
      (∀ p, badEntry (sliceB (tblReq s sl) 0 32) (leAt (tblReq s sl) 36 2) = false →
        emtFind s sl (sliceB (tblReq s sl) 0 32) = none → 2 ≤ learnLeft s sl →
        emptyIn (getTbl s sl) 0 (bucketOf s sl 0 (sliceB (tblReq s sl) 0 32)) = some p → ∃ t, exec (.insert sl via seq a0) s = .next t
        ∧ Answered t (pgTbl sl) 3 seq.toNat stOK ∧ rd t (pgTbl sl + Reg.CMD_OUT) = w32 p
        ∧ getTbl t sl = setSlot (getTbl s sl) p
            (some (newEntry (sliceB (tblReq s sl) 0 32) (leAt (tblReq s sl) 32 4) (leAt (tblReq s sl) 36 2))))
      ∧ (∀ p e, emtFind s sl (sliceB (tblReq s sl) 0 32) = some (p, e) → 2 ≤ learnLeft s sl →
        (badEntry (sliceB (tblReq s sl) 0 32) (leAt (tblReq s sl) 36 2) = false →
          (fbit a0 0 = false → ∃ t, exec (.insert sl via seq a0) s = .next t
            ∧ Answered t (pgTbl sl) 3 seq.toNat stWRONG_STATE ∧ getTbl t sl = getTbl s sl)
          ∧ (fbit a0 0 = true → ∃ t, exec (.insert sl via seq a0) s = .next t ∧ Answered t (pgTbl sl) 3 seq.toNat stOK
            ∧ getTbl t sl = setSlot (getTbl s sl) p
                (some (newEntry (sliceB (tblReq s sl) 0 32) (leAt (tblReq s sl) 32 4) (leAt (tblReq s sl) 36 2)))))
        ∧ ((∀ q, stashBase ≤ q → slotAt (setSlot (getTbl s sl) p none) q = none) → ∃ t, exec (.delete sl via seq) s = .next t
          ∧ Answered t (pgTbl sl) 4 seq.toNat stOK ∧ getTbl t sl = setSlot (getTbl s sl) p none))
      ∧ (twf (fun _ => none) (getTbl s sl).emt = true → 65552 + 2 * (getTbl s sl).emt.length ≤ learnLeft s sl → ∃ t,
        exec (.flush sl via seq a0 a1) s = .next t ∧ Answered t (pgTbl sl) 5 seq.toNat stOK ∧ (getTbl t sl).lpm = (getTbl s sl).lpm
        ∧ ∀ p e, slotAt (getTbl t sl) p = some e ↔ slotAt (getTbl s sl) p = some e ∧ flushMatches a0 a1 e = false
            ∧ (fbit a0 5 = true → p ∉ (getTbl s sl).poison)))
    ∧ (65552 ≤ learnLeft s sl → ∃ t, exec (.digest sl via seq 1) s = .next t ∧ Answered t (pgTbl sl) 6 seq.toNat stOK
      ∧ rd t (pgTbl sl + Reg.CMD_OUT) = w32 ((getTbl s sl).emt.filter (fun x => (x.2.map (·.fixed)).getD false)).length
      ∧ getTbl t sl = getTbl s sl)
    ∧ (1 ≤ learnLeft s sl → sourceKnown (fld a0 11 0) = true → ∃ t, exec (.srcCount sl via seq a0) s = .next t
      ∧ Answered t (pgTbl sl) 7 seq.toNat stOK
      ∧ rd t (pgTbl sl + Reg.CMD_OUT) = w32 (learnedOf (getTbl s sl) (fld a0 11 0)) ∧ getTbl t sl = getTbl s sl))
  ∧ (sliceWorks s sl = true → (getTbl s sl).job = none → 0 < learnLeft s sl →
    (∀ ev rest, (getTbl s sl).learnQ = ev :: rest → (getTbl s sl).learnNew < (getTbl s sl).learnQ.length →
      (lockOwner s sl ≠ 0 → ∃ t, exec (.learnEventApply sl) s = .next t ∧ getTbl t sl = { getTbl s sl with learnQ := rest }
        ∧ rd t (pgTbl sl + Reg.TBL_LEARN_DROP) = rd s (pgTbl sl + Reg.TBL_LEARN_DROP) + 1)
      ∧ (lockOwner s sl = 0 → (getTbl s sl).freed = [] → ageDue s sl = false →
        (∀ p e, emtFind s sl ev.key = some (p, e) → e.fixed = true → ∃ t, exec (.learnEventApply sl) s = .next t
          ∧ getTbl t sl = { getTbl s sl with learnQ := rest } ∧ t.regs = s.regs)
        ∧ (∀ p, emtFind s sl ev.key = none →
          learnedOf (getTbl s sl) (argSource (learnArg ev.source)) < learnLimit s sl (argSource (learnArg ev.source)) →
          emptyIn (getTbl s sl) 0 (bucketOf s sl 0 ev.key) = some p → ∃ t, exec (.learnEventApply sl) s = .next t
          ∧ getTbl t sl = setSlot { getTbl s sl with learnQ := rest } p (some
              ⟨ev.key, learnArg ev.source, learnRec s sl ev.source, false, true, false, true, 0, s.seconds % 256⟩)
          ∧ rd t (pgTbl sl + Reg.TBL_LEARN_CNT) = rd s (pgTbl sl + Reg.TBL_LEARN_CNT) + 1)))
    ∧ (ageDue s sl = true → lockOwner s sl = 0 → (getTbl s sl).freed = [] → twf (fun _ => none) (getTbl s sl).emt = true →
      (getTbl s sl).ageGroup + 1 < 65552 → ∃ t, exec (.ageingVisit sl) s = .next t
      ∧ (getTbl t sl).ageGroup = (getTbl s sl).ageGroup + 1
      ∧ ∀ p, slotAt (getTbl t sl) p = if p / 4 ≠ (getTbl s sl).ageGroup then slotAt (getTbl s sl) p else
          match slotAt (getTbl s sl) p with
          | none => none
          | some e => if e.fixed ∨ e.frozen then some e else if e.hit then some { e with hit := false } else none))
  ∧ (∀ p rest q, (getTbl s sl).freed = p :: rest → (getTbl s sl).job = none → lockOwner s sl = 0 → 2 ≤ learnLeft s sl →
    drainFrom s sl p = some q → ∃ t, exec (.stashDrain sl) s = .next t
    ∧ getTbl t sl = setSlot (setSlot { getTbl s sl with freed := rest } p (slotAt (getTbl s sl) q)) q none
    ∧ rd t (pgTbl sl + Reg.TBL_DRAIN_CNT) = rd s (pgTbl sl + Reg.TBL_DRAIN_CNT) + 1)

/-- On a ready table unit with enough learning credits: LPM_INSERT of a new prefix of one row puts it behind every row at least as long and before the first shorter one; LPM_DELETE takes the prefix's rows out; LPM_SEARCH and LPM_LOOKUP answer with the row of the prefix and of the longest match; LPM_READ answers with the bytes of a row; none of these three changes a table. Under the manager's bulk lock, BULK_LOAD of n sound records in range applies each once, counting those applied and those failed; BULK_DUMP of the slice in charge writes at most as many records as asked and answers their number. A row repair leaves the table as it is, unless the copy is bad: then the row is poisoned. -/
def Obligations.LpmAndBulk : Prop :=
  ∀ (s : State) (sl : SliceId), Memory.wf s = true →
  (∀ (via : Master) (seq : Byte) (a0 a1 a2 : Word), TblReady s sl via →
    (lockOwner s sl = 0 → (lpmReq (tblReq s sl)).bad = false →
      (rowsOf (lpmReq (tblReq s sl)).v6 (lpmReq (tblReq s sl)).len = 1 → lpmIndex (lpmReq (tblReq s sl)) (getTbl s sl).lpm 0 = none →
        (getTbl s sl).lpm.length < 16384 → (getTbl s sl).lpm.length + 3 ≤ learnLeft s sl → ∃ t l r,
        exec (.lpmInsert sl via seq a0) s = .next t ∧ Answered t (pgTbl sl) 0x10 seq.toNat stOK
        ∧ (getTbl s sl).lpm = l ++ r ∧ getTbl t sl = { getTbl s sl with lpm := l ++ lpmRows (lpmReq (tblReq s sl)) 0 ++ r }
        ∧ (∀ x ∈ l, (lpmReq (tblReq s sl)).len ≤ x.len) ∧ (∀ x, r.head? = some x → x.len < (lpmReq (tblReq s sl)).len)
        ∧ rd t (pgTbl sl + Reg.CMD_OUT) = w32 l.length)
      ∧ (∀ i, lpmIndex (lpmReq (tblReq s sl)) (getTbl s sl).lpm 0 = some i → (getTbl s sl).lpm.length + 3 ≤ learnLeft s sl → ∃ t,
        exec (.lpmDelete sl via seq) s = .next t ∧ Answered t (pgTbl sl) 0x11 seq.toNat stOK
        ∧ getTbl t sl = { getTbl s sl with
            lpm := (getTbl s sl).lpm.take i
              ++ (getTbl s sl).lpm.drop (i + rowsOf (lpmReq (tblReq s sl)).v6 (lpmReq (tblReq s sl)).len) }))
    ∧ (1 ≤ learnLeft s sl →
      (∀ i h, (lpmReq (tblReq s sl)).bad = false → lpmIndex (lpmReq (tblReq s sl)) (getTbl s sl).lpm 0 = some i →
        hitAt (getTbl s sl).lpm i = some h → ∃ t, exec (.lpmSearch sl via seq) s = .next t
        ∧ Answered t (pgTbl sl) 0x12 seq.toNat stOK ∧ rd t (pgTbl sl + Reg.CMD_OUT) = w32 i ∧ getTbl t sl = getTbl s sl)
      ∧ (∀ h, lpmLookup s sl (lpmReq (tblReq s sl)).vrf (lpmReq (tblReq s sl)).v6 (lpmReq (tblReq s sl)).addr = some h → ∃ t,
        exec (.lpmLookup sl via seq) s = .next t ∧ Answered t (pgTbl sl) 0x13 seq.toNat stOK
        ∧ rd t (pgTbl sl + Reg.CMD_OUT) = w32 h.row ∧ getTbl t sl = getTbl s sl)
      ∧ (∀ r, (getTbl s sl).lpm[fld a0 13 0]? = some r → ∃ t, exec (.lpmRead sl via seq a0) s = .next t
        ∧ Answered t (pgTbl sl) 0x14 seq.toNat stOK ∧ getTbl t sl = getTbl s sl
        ∧ ∀ k, k < 5 → rd t (pgTbl sl + Reg.TBL_RSP + 4 * k) = w32 (leAt r.bytes (4 * k) 4)))
    ∧ (lockOwner s sl ≠ 0 → lockOwner s sl = ownerCode via → bulkArgs s a0 a1 a2 = true →
      ((∀ x ∈ (bulkRead (fld a2 18 0) s (bulkAddr a0 a1)).2, x.2 = false ∧ badRecordOf x.1 = false) →
        20 * fld a2 18 0 ≤ learnLeft s sl → ∃ t n, exec (.bulkLoad sl via seq a0 a1 a2) s = .next t
        ∧ Answered t (pgTbl sl) 0x20 seq.toNat stOK ∧ n ≤ fld a2 18 0 ∧ rd t (pgTbl sl + Reg.CMD_OUT) = w32 n
        ∧ rd t (pgTbl sl + Reg.CMD_OUT + 4) = w32 (fld a2 18 0 - n))
      ∧ (s.red.accepted = some sl → 65552 ≤ learnLeft s sl → (∀ x ∈ (getTbl s sl).emt, x.1 < emtSlots ∧ x.2 ≠ none) → ∃ t,
        exec (.bulkDump sl via seq a0 a1 a2) s = .next t ∧ Answered t (pgTbl sl) 0x21 seq.toNat stOK
        ∧ rd t (pgTbl sl + Reg.CMD_OUT) = w32 (Nat.min (fld a2 18 0) (getTbl s sl).emt.length) ∧ getTbl t sl = getTbl s sl)))
  ∧ (∀ row : Fin 16384, (∃ t, exec (.lpmRowRepair sl row false) s = .next t ∧ getTbl t sl = getTbl s sl
      ∧ rd t (pgEcc + Reg.ECC_CE_CNT) = rd s (pgEcc + Reg.ECC_CE_CNT) + 1)
    ∧ (∀ r, (getTbl s sl).lpm[row.val]? = some r → ∃ t, exec (.lpmRowRepair sl row true) s = .next t
      ∧ (getTbl t sl).lpm = (getTbl s sl).lpm.set row.val { r with poison := true }))

/-- While the gatekeepers are open, a port has credit and wants a frame, and no head could never fit its gate: the highest eligible strict class is served; with no strict class eligible and none waiting for credit, the class with the earliest tag is, its tag moves on by F + 20 over its weight, and the port's virtual time becomes its old tag. The head leaves its FIFO, alone, for the MAC; class and port node are charged F + 20. The lowest class whose ready head can never fit its gate loses it, counted. The next whole frame that waits for its ring is written there if room and bursts allow, else dropped and counted. The oldest frame of a ring is read back into new cells and joins its FIFO. -/
def Obligations.SelectionAndSpill : Prop :=
  ∀ (s : State) (p : Fin 7), Memory.wf s = true →
  (gkOpen s = true → canStart s (acct 7 p.val) 1 1 = true → portWants s p.val = true →
    ((∀ c, c < 8 → classReady s p.val c = true → neverFits s p.val c = false) →
      (∀ c d l, c ∈ eligible s p.val → fifoOf s (8 * p.val + c) = d :: l →
        ((isStrict s p.val c = true ∧ ∀ x ∈ eligible s p.val, isStrict s p.val x = true → x ≤ c)
          ∨ ((∀ x ∈ eligible s p.val, isStrict s p.val x = false) ∧ (∀ x, x < 8 → (getNode s (classNode p.val x)).waited = false)
            ∧ ∀ x ∈ eligible s p.val, x ≠ c →
              tagBefore (getNode s (classNode p.val c)).tag (getNode s (classNode p.val x)).tag = true
              ∨ (getNode s (classNode p.val c)).tag = (getNode s (classNode p.val x)).tag ∧ c < x)) →
        ∃ t, exec (.schedulerSelect p) s = .next t ∧ (getPort t p.val).held = (getPort s p.val).held ++ [d]
        ∧ (∀ x, fifoOf t x = if x = 8 * p.val + c then l else fifoOf s x)
        ∧ (d.enc = none → ∀ sl ∈ workingSlices s,
            rd t (pgSlice sl 2 + Reg.SCH_SEL_CNT + 4 * p.val) = rd s (pgSlice sl 2 + Reg.SCH_SEL_CNT + 4 * p.val) + 1)
        ∧ (∀ n, sentLen s d = some n →
          (∀ i ∈ [classNode p.val c, portNode p.val], nodeRate s i ≠ 0 →
            (getNode t i).tokens = (getNode s i).tokens - ((n + 20 : Nat) : Int))
          ∧ (isStrict s p.val c = false → (getNode s (classNode p.val c)).waited = false →
            vtOf t (portNode p.val) = (getNode s (classNode p.val c)).tag
            ∧ (getNode t (classNode p.val c)).tag = ((getNode s (classNode p.val c)).tag + (n + 20) * 1024
                / (if shpValid s (classNode p.val c) then Nat.max 1 (fld (shpWord s (classNode p.val c) 2) 15 0) else 1)) % 2 ^ 32))))
    ∧ (∀ c d l, c < 8 → classReady s p.val c = true → neverFits s p.val c = true →
      (∀ x, x < c → classReady s p.val x = true → neverFits s p.val x = false) → fifoOf s (8 * p.val + c) = d :: l → ∃ t,
      exec (.schedulerSelect p) s = .next t ∧ (∀ x, fifoOf t x = if x = 8 * p.val + c then l else fifoOf s x)
      ∧ (getPort t p.val).held = (getPort s p.val).held ∧ fbit (rd t (pgMac p.val + Reg.PAGE_ERR)) 4 = true
      ∧ rdWide t (pgMac p.val + 0x400 + 8 * 39) = (rdWide s (pgMac p.val + 0x400 + 8 * 39) + 1) % 2 ^ 64))
  ∧ (gkOpen s = false ∨ canStart s (acct 7 p.val) 1 1 = false ∨ portWants s p.val = false →
    exec (.schedulerSelect p) s = .next s)
  ∧ (∀ (c : Fin 8), gkOpen s = true →
    (∀ d l f, spillQOf s (8 * p.val + c.val) = d :: l → getFrame s d.view.frame = some f → f.whole = true →
      (ringUsed s (8 * p.val + c.val) + cellsFor (viewBytes f d.view).length ≤ ringCells s →
        dramRange s (ringBase s (8 * p.val + c.val)) (spillSlot s * 2 ^ 20) = true →
        spillMay s (spillBursts s (8 * p.val + c.val) (tget (fun _ => 0) s.sched.ringTail (8 * p.val + c.val))
          (viewBytes f d.view).length) true = true → ∃ t x, exec (.spillWrite p c) s = .next t
        ∧ spillQOf t (8 * p.val + c.val) = l ∧ ringOf t (8 * p.val + c.val) = ringOf s (8 * p.val + c.val) ++ [x]
        ∧ x.desc = d ∧ x.pos = tget (fun _ => 0) s.sched.ringTail (8 * p.val + c.val)
        ∧ x.cells = cellsFor (viewBytes f d.view).length
        ∧ rd t (pgSch + Reg.SCH_SPILLED) = rd s (pgSch + Reg.SCH_SPILLED) + 1)
      ∧ (ringCells s < ringUsed s (8 * p.val + c.val) + cellsFor (viewBytes f d.view).length → ∃ t,
        exec (.spillWrite p c) s = .next t ∧ spillQOf t (8 * p.val + c.val) = l
        ∧ ringOf t (8 * p.val + c.val) = ringOf s (8 * p.val + c.val) ∧ fbit (rd t (pgSch + Reg.PAGE_ERR)) 3 = true
        ∧ rd t (pgSch + Reg.SCH_SPILL_DROP) = rd s (pgSch + Reg.SCH_SPILL_DROP) + 1))
    ∧ (∀ x l, ringOf s (8 * p.val + c.val) = x :: l → (getNode s (backNode (8 * p.val + c.val))).occ = 0 →
      x.cells ≤ s.pipe.freeCells → x.desc.port = p.val → x.desc.cls = c.val →
      spillMay s (spillBursts s (8 * p.val + c.val) x.pos x.frame.data.length) false = true → ∃ t f d,
      exec (.spillReadBack p c) s = .next t ∧ ringOf t (8 * p.val + c.val) = l
      ∧ fifoOf t (8 * p.val + c.val) = fifoOf s (8 * p.val + c.val) ++ [d] ∧ d.view = asReceived s.pipe.nextFrame
      ∧ t.pipe.freeCells = s.pipe.freeCells - x.cells ∧ getFrame t s.pipe.nextFrame = some f
      ∧ f.data.length = x.frame.data.length ∧ f.whole = true))

/-- Unless the MACs send idle only, in which case nothing happens: with nothing in transmission and preemption off, the transmit MAC of P0 to P5 starts its first held frame if no held frame is too long and pause and gate let it, with the transmit timestamp of the cycle; on an unusable port the first held frame is discarded and counted. The end of a whole, good frame sends its edited bytes, padded to 60, and counts a frame; a frame that turned out bad or poisoned ends with an invalid code, counted in tx_errors. On P6 outside PLCA a ready frame starts when the carrier is free, and defers, counted once, when it is not; its end sends the bytes padded and counts the frame, and a bad one ends invalid. -/
def Obligations.FramesTransmitted : Prop :=
  ∀ s : State, Memory.wf s = true →
  (macIdle s = true → ∀ (p : Fin 7) (cyc : Nat) (crs : Bool), exec (.transmitFrame p cyc crs) s = .next s)
  ∧ (∀ (p : Fin 7), p.val < 6 →
    (∀ cyc crs d l, macIdle s = false → (getPort s p.val).held = d :: l →
      (portUsable s p.val = true → fbit (rd s (pgMac p.val + Reg.MAC_PREEMPT)) 0 = false → (getPort s p.val).sending = none →
        (∀ x ∈ d :: l, (sentLen s x).getD 0 ≤ maxFrame s p.val) → macLets s p.val cyc d = true →
        exec (.transmitFrame p cyc crs) s = .next (putPort s p.val { getPort s p.val with
          held := l, sending := some d, resumed := false
          sentAt := ((ptpNs (ptpAtCycle s cyc) : Int)
            + (BitVec.ofNat 16 (fld (rd s (pgMac p.val + Reg.MAC_TS_ADJ)) 31 16)).toInt).toNat }))
      ∧ (portUsable s p.val = false → ∃ t, exec (.transmitFrame p cyc crs) s = .next t
        ∧ getPort t p.val = { getPort s p.val with held := l }
        ∧ rdWide t (pgMac p.val + 0x400 + 8 * 38) = (rdWide s (pgMac p.val + 0x400 + 8 * 38) + 1) % 2 ^ 64))
    ∧ (∀ d f, (getPort s p.val).sending = some d → (getPort s p.val).preempted = none → (getPort s p.val).resumed = false →
      getFrame s d.view.frame = some f → d.cut = none →
      (f.whole = true → f.bad = false → f.mismatch = false → viewPoisoned f d.view = false → ∃ t, exec (.transmitEnd p) s = .next t
        ∧ t.out = .wire p.val (padded (tsEdit (sentData f d) d.ts f.time (getPort s p.val).sentAt).1) true :: s.out
        ∧ (getPort t p.val).sending = none ∧ (getPort t p.val).held = (getPort s p.val).held
        ∧ rdWide t (pgMac p.val + 0x400 + 8 * 30) = (rdWide s (pgMac p.val + 0x400 + 8 * 30) + 1) % 2 ^ 64)
      ∧ ((f.bad = true ∨ f.whole = true ∧ viewPoisoned f d.view = true) → ∃ t, exec (.transmitEnd p) s = .next t
        ∧ .wire p.val [] false ∈ t.out ∧ (getPort t p.val).sending = none ∧ fbit (rd t (pgMac p.val + Reg.PAGE_ERR)) 3 = true
        ∧ rdWide t (pgMac p.val + 0x400 + 8 * 36) = (rdWide s (pgMac p.val + 0x400 + 8 * 36) + 1) % 2 ^ 64)))
  ∧ (∀ cyc d l, macIdle s = false → (getPort s 6).held = d :: l → (getPort s 6).sending = none → s.cbp.backoff = none →
    s.cbp.deferring = false → s.cbp.plcaActive = false → cbpUsable s = true → (sentLen s d).getD 0 ≤ maxFrame s 6 →
    exec (.transmitFrame 6 cyc false) s = .next (putPort s 6 { getPort s 6 with
      held := l, sending := some d
      sentAt := ((ptpNs (ptpAtCycle s cyc) : Int)
        + (BitVec.ofNat 16 (fld (rd s (pgCbp + Reg.CBP_TS_ADJ)) 31 16)).toInt).toNat })
    ∧ ∃ t, exec (.transmitFrame 6 cyc true) s = .next t ∧ t.cbp = { s.cbp with deferring := true, counted := true }
      ∧ t.ports = s.ports ∧ (s.cbp.counted = false →
        rdWide t (pgCbp + 0x400 + 8 * 13) = (rdWide s (pgCbp + 0x400 + 8 * 13) + 1) % 2 ^ 64))
  ∧ (∀ d f, (getPort s 6).sending = some d → getFrame s d.view.frame = some f →
    (f.whole = true → spoiled f d = false → ∃ t, exec (.transmitEnd 6) s = .next t
      ∧ t.out = .wire 6 (padded (sentData f d)) true :: s.out ∧ (getPort t 6).sending = none
      ∧ t.cbp = { s.cbp with attempts := 0, deferring := false, counted := false, backoff := none }
      ∧ rdWide t (pgCbp + 0x400 + 8 * 12) = (rdWide s (pgCbp + 0x400 + 8 * 12) + 1) % 2 ^ 64)
    ∧ (f.bad = true → ∃ t, exec (.transmitEnd 6) s = .next t ∧ t.out = .wire 6 [] false :: s.out ∧ (getPort t 6).sending = none
      ∧ rdWide t (pgCbp + 0x400 + 8 * 19) = (rdWide s (pgCbp + 0x400 + 8 * 19) + 1) % 2 ^ 64))

/-- ENABLE and DISABLE are accepted where their checks pass and then wait for the boundary; MDIO_READ answers with what MDIO holds and MDIO_WRITE sends its frame. A good frame joins the header queue whole; a MAC control frame and a bad frame are discarded, the former counted. A collision within 512 bit times of an attempt below the 16th outside PLCA jams, puts the frame back and sets the backoff to the LFSR modulo 2^min(n, 10); a late or 16th collision discards and counts the frame. Backoff and carrier events clear what they end. A BEACON makes PLCA active; the coordinator sends one; an opportunity that is not used passes on, the own one sends a ready frame; a missing BEACON makes PLCA inactive. A lost TX_CLK makes P6 unusable. -/
def Obligations.CabinetBus : Prop :=
  ∀ s : State, Memory.wf s = true →
  (∀ (via : Master) (seq : Byte), Manages via → PageReady s pgCbp via → linkPhases s.power.phase = true →
    (s.cbp.enabled = false → cbpCheck s = none → overReserve s 1 = false → ∃ t, exec (.cbpEnable via seq) s = .next t
      ∧ CmdRuns s t pgCbp 1 seq.toNat via (0, 0, 0) ∧ { t with regs := s.regs, running := s.running } = s)
    ∧ (∀ o, s.cbp.enabled = false → cbpCheck s = some o → ∃ t, exec (.cbpEnable via seq) s = .next t
      ∧ Answered t pgCbp 1 seq.toNat stBAD_ARG ∧ rd t (pgCbp + Reg.CMD_OUT) = w32 o ∧ t.cbp = s.cbp)
    ∧ (s.cbp.enabled = true → ∃ t, exec (.cbpDisable via seq) s = .next t
      ∧ CmdRuns s t pgCbp 2 seq.toNat via (0, 0, 0) ∧ { t with regs := s.regs, running := s.running } = s)
    ∧ (∀ (sampled : BitVec 16) (a0 a1 a2 : Word), (∃ t, exec (.mdioRead sampled via seq a0 a1 a2) s = .next t
        ∧ CmdEnded s t pgCbp 3 seq.toNat stOK (a0, a1, a2) (w32 sampled.toNat, 0, 0) ∧ t.cbp = s.cbp)
      ∧ ∃ t, exec (.mdioWrite via seq a0 a1 a2) s = .next t ∧ CmdEnded s t pgCbp 4 seq.toNat stOK (a0, a1, a2) (0, 0, 0)
        ∧ t.out = .mdio a0 a1 a2 :: s.out))
  ∧ (∀ (cyc : Nat) (bytes : List Byte) (code : Bool), s.cbp.enabled = true → (getPort s 6).sending = none → 18 ≤ bytes.length →
    (badFlags (rxFlags bytes (maxFrame s 6) code false) = false →
      (beAt bytes 12 2 = 0x8808 → ∃ t, exec (.p6FrameReceive cyc bytes code) s = .next t ∧ t.pipe = s.pipe
        ∧ rdWide t (pgCbp + 0x400 + 8 * 7) = (rdWide s (pgCbp + 0x400 + 8 * 7) + 1) % 2 ^ 64)
      ∧ (beAt bytes 12 2 ≠ 0x8808 → cellsFor (Nat.min bytes.length (maxFrame s 6)) ≤ s.pipe.freeCells →
        s.pipe.q0.length < 4096 → ∃ t f, exec (.p6FrameReceive cyc bytes code) s = .next t
        ∧ t.pipe.q0 = s.pipe.q0 ++ [s.pipe.nextFrame] ∧ getFrame t s.pipe.nextFrame = some f
        ∧ f.data = bytes.take (bytes.length - 4) ∧ f.whole = true ∧ f.port = some 6
        ∧ rdWide t (pgCbp + 0x400 + 8) = (rdWide s (pgCbp + 0x400 + 8) + 1) % 2 ^ 64))
    ∧ (badFlags (rxFlags bytes (maxFrame s 6) code false) = true → ∃ t, exec (.p6FrameReceive cyc bytes code) s = .next t
      ∧ t.pipe = s.pipe ∧ rdWide t (pgCbp + 0x400 + 8) = rdWide s (pgCbp + 0x400 + 8)))
  ∧ (∀ (cyc bitTime : Nat) (d : Desc), (getPort s 6).sending = some d →
    (s.cbp.plcaActive = false → bitTime ≤ 512 → s.cbp.attempts + 1 < 16 → ∃ t, exec (.collisionDetect cyc bitTime) s = .next t
      ∧ t.out = .jam :: .wire 6 [] false :: s.out ∧ t.pipe = s.pipe
      ∧ getPort t 6 = { getPort s 6 with sending := none, held := d :: (getPort s 6).held }
      ∧ t.cbp = { s.cbp with
          attempts := s.cbp.attempts + 1, lfsr := lfsrAtCycle s (s.tck.cycles + cyc), lfsrAt := s.tck.cycles + cyc
          backoff := some (lfsrAtCycle s (s.tck.cycles + cyc) % 2 ^ Nat.min (s.cbp.attempts + 1) 10) }
      ∧ rdWide t (pgCbp + 0x400 + 8 * 14) = (rdWide s (pgCbp + 0x400 + 8 * 14) + 1) % 2 ^ 64)
    ∧ (s.cbp.plcaActive = false → 512 < bitTime → ∃ t, exec (.collisionDetect cyc bitTime) s = .next t
      ∧ (getPort t 6).sending = none ∧ (getPort t 6).held = (getPort s 6).held ∧ t.cbp.attempts = 0
      ∧ rdWide t (pgCbp + 0x400 + 8 * 17) = (rdWide s (pgCbp + 0x400 + 8 * 17) + 1) % 2 ^ 64)
    ∧ (bitTime ≤ 512 → 16 ≤ s.cbp.attempts + 1 → ∃ t, exec (.collisionDetect cyc bitTime) s = .next t
      ∧ (getPort t 6).sending = none ∧ (getPort t 6).held = (getPort s 6).held ∧ t.cbp.attempts = 0
      ∧ rdWide t (pgCbp + 0x400 + 8 * 18) = (rdWide s (pgCbp + 0x400 + 8 * 18) + 1) % 2 ^ 64))
  ∧ (∀ r, s.cbp.backoff = some r → (s.cbp.lfsrAt + 81920 * r ≤ s.tck.cycles + s.tck.len →
      exec .backoffExpiry s = .next { s with cbp := { s.cbp with backoff := none } })
    ∧ (s.tck.cycles + s.tck.len < s.cbp.lfsrAt + 81920 * r → exec .backoffExpiry s = .next s))
  ∧ exec .carrierDrop s = .next { s with cbp := { s.cbp with deferring := false } }
  ∧ exec .txClkRestored s = .next { s with cbp := { s.cbp with txClk := true } }
  ∧ (s.cbp.enabled = true → cbpPlcaEn s = true → cbpNode s ≠ 0 → ∃ t, exec .beaconReceived s = .next t
    ∧ t.cbp = { s.cbp with
        plcaActive := true, beaconAt := s.tck.boundaries, opportunity := 0, burst := 0, backoff := none, deferring := false }
    ∧ rdWide t (pgCbp + 0x400 + 8 * 22) = (rdWide s (pgCbp + 0x400 + 8 * 22) + 1) % 2 ^ 64)
  ∧ (cbpCoordinator s = true → cbpUsable s = true → macIdle s = false → ∃ t, exec .beaconSend s = .next t
    ∧ t.out = .beacon :: s.out ∧ t.cbp = { s.cbp with beaconAt := s.tck.boundaries, opportunity := 0, burst := 0 })
  ∧ (∀ cyc, macIdle s = false → s.cbp.plcaActive = true → cbpUsable s = true → (getPort s 6).sending = none →
    (s.cbp.opportunity ≠ cbpNode s ∨ (getPort s 6).held = [] → exec (.transmitOpportunity cyc) s = .next { s with
      cbp := { s.cbp with opportunity := (s.cbp.opportunity + 1) % 256, burst := 0 } })
    ∧ (∀ d l, s.cbp.opportunity = cbpNode s → (getPort s 6).held = d :: l → (sentLen s d).getD 0 ≤ maxFrame s 6 →
      s.cbp.burst ≤ cbpBurst s → ∃ t, exec (.transmitOpportunity cyc) s = .next t ∧ (getPort t 6).sending = some d
      ∧ (getPort t 6).held = l ∧ t.cbp = { s.cbp with burst := s.cbp.burst + 1, deferring := false, backoff := none }))
  ∧ (s.cbp.plcaActive = true → cbpCoordinator s = false → passed s s.cbp.beaconAt (boundariesIn s 400000) = true → ∃ t,
    exec .plcaBeaconTimeout s = .next t ∧ t.cbp = { s.cbp with plcaActive := false } ∧ fbit (rd t (pgCbp + Reg.PAGE_ERR)) 3 = true
    ∧ rdWide t (pgCbp + 0x400 + 8 * 23) = (rdWide s (pgCbp + 0x400 + 8 * 23) + 1) % 2 ^ 64)
  ∧ (s.cbp.enabled = true → s.cbp.txClk = true → (getPort s 6).sending = none → ∃ t, exec .txClkLost s = .next t
    ∧ t.cbp = { s.cbp with txClk := false, usable := false } ∧ t.ports = s.ports ∧ fbit (rd t (pgCbp + Reg.PAGE_ERR)) 2 = true)

/-- A manager's write that sets valid makes the association valid from the boundary if every check passes; else valid stays 0 and CP_ERR and the first CP_SA_ERR record it; on a valid association it is ignored and sets sa_locked. A write of valid 0 clears valid at once and touches nothing else. A slice's key unit with 12 units of energy takes its next request: with a valid association, an allowed slot and a sound root key it caches the key of the KDF and counts; without, the cache stays as it is; without energy nothing happens. A WARM_KEYS list is worked off likewise. FLUSH_KEYS empties exactly the entries of its scope in its slice; scope 3 is BAD_ARG. WARM_KEYS lists the valid associations not cached, and ends at once with none. -/
def Obligations.AssociationsAndKeys : Prop :=
  ∀ s : State, Memory.wf s = true →
  (∀ (via : Master) (t : Fin 1024) (a : Fin 32) (w : Word), Manages via → served s via true = true → s.power.phase ≠ .recovery →
    (fbit w 0 = true →
      (fbit (rd s (saBase t.val a.val)) 0 = false →
        (saCheck (wr s (saBase t.val a.val) w) t.val (saWritten (wr s (saBase t.val a.val) w) t.val a.val) = none →
          exec (.saValidate via t a w) s = .next { wr s (saBase t.val a.val) w with
            cip := { s.cip with changed := insKey (32 * t.val + a.val) (s.cip.changed.filter (fun x => x != 32 * t.val + a.val)) } })
        ∧ (∀ r, saCheck (wr s (saBase t.val a.val) w) t.val (saWritten (wr s (saBase t.val a.val) w) t.val a.val) = some r →
          ∃ u, exec (.saValidate via t a w) s = .next u ∧ u.cip = s.cip ∧ rd u (saBase t.val a.val) = putBit w 0 false
          ∧ fbit (rd u (pgTenCip t.val + Reg.CP_ERR)) 1 = true
          ∧ (fbit (rd s (pgTenCip t.val + Reg.CP_SA_ERR)) 31 = false →
              rd u (pgTenCip t.val + Reg.CP_SA_ERR) = w32 (a.val + 256 * r + 2 ^ 31))))
      ∧ (fbit (rd s (saBase t.val a.val)) 0 = true → exec (.saValidate via t a w) s = .next (setCpErr s t.val 2)))
    ∧ (fbit w 0 = false →
      (fbit (rd s (saBase t.val a.val)) 0 = true → exec (.saInvalidate via t a w) s = .next {
        wr s (saBase t.val a.val) (putBit (rd s (saBase t.val a.val)) 0 false) with
          cip := { s.cip with changed := insKey (32 * t.val + a.val) (s.cip.changed.filter (fun x => x != 32 * t.val + a.val)) } })
      ∧ (fbit (rd s (saBase t.val a.val)) 0 = false → exec (.saInvalidate via t a w) s = .next (wr s (saBase t.val a.val) w))))
  ∧ (∀ (sl : SliceId), sliceWorks s sl = true →
    (∀ k, s.cip.keyQ.find? (fun x => x.slice == sl) = some k → k.entry < 32768 →
      (energyLeft s (acct 4 k.acct) < 12 → exec (.keyDerivation sl) s = .next s)
      ∧ (12 ≤ energyLeft s (acct 4 k.acct) →
        (∀ h, saValid s (k.entry / 32) (k.entry % 32) = true →
          fbit (rd s (pgTenCip (k.entry / 32) + Reg.CP_SLOTS)) (saSlot (saBytes s (k.entry / 32) (k.entry % 32))) = true →
          (getSlot s (saSlot (saBytes s (k.entry / 32) (k.entry % 32)))).half = some h → keyCheck h = h.check → ∃ t,
          exec (.keyDerivation sl) s = .next t ∧ t.cip.keyQ = s.cip.keyQ.filter (fun x => x != k)
          ∧ cached t sl k.entry = kdf (keyBytes h.key) (k.entry / 32) (saBytes s (k.entry / 32) (k.entry % 32))
          ∧ (∀ x e, e < 32768 → (x ≠ sl ∨ e ≠ k.entry) → cached t x e = cached s x e)
          ∧ rd t (pgCip sl + Reg.CIP_KDF_CNT) = rd s (pgCip sl + Reg.CIP_KDF_CNT) + 1)
        ∧ (saValid s (k.entry / 32) (k.entry % 32) = false → ∃ t, exec (.keyDerivation sl) s = .next t
          ∧ t.cip.keyQ = s.cip.keyQ.filter (fun x => x != k) ∧ t.cip.cache = s.cip.cache)))
    ∧ (∀ w e rest h, s.cip.keyQ.find? (fun x => x.slice == sl) = none → s.cip.warm.find? (fun x => x.slice == sl) = some w →
      w.left = e :: rest → rest ≠ [] → e < 32768 → cached s sl e = [] → 12 ≤ energyLeft s (acct 4 0) →
      saValid s (e / 32) (e % 32) = true → fbit (rd s (pgTenCip (e / 32) + Reg.CP_SLOTS)) (saSlot (saBytes s (e / 32) (e % 32))) = true →
      (getSlot s (saSlot (saBytes s (e / 32) (e % 32)))).half = some h → keyCheck h = h.check → ∃ t,
      exec (.keyDerivation sl) s = .next t ∧ cached t sl e = kdf (keyBytes h.key) (e / 32) (saBytes s (e / 32) (e % 32))
      ∧ t.cip.warm.find? (fun x => x.slice == sl) = some { w with left := rest, derived := w.derived + 1 }))
  ∧ (∀ (sl : SliceId) (via : Master) (seq : Byte) (a0 a1 : Word), Manages via → PageReady s (pgCip sl) via →
    (fld a0 1 0 < 3 → ∃ t, exec (.flushKeys sl via seq a0 a1) s = .next t ∧ CmdEnded s t (pgCip sl) 1 seq.toNat stOK (a0, a1, 0) (0, 0, 0)
      ∧ { t with regs := s.regs, running := s.running, cip := s.cip } = s
      ∧ { t.cip with cache := s.cip.cache } = s.cip
      ∧ ∀ x e, e < 32768 → cached t x e = if x = sl ∧ (fld a0 1 0 = 0 ∨ (fld a0 1 0 = 1 ∧ e / 32 = fld a1 9 0)
          ∨ (fld a0 1 0 = 2 ∧ saSlot (saBytes s (e / 32) (e % 32)) = fld a1 3 0)) then [] else cached s x e)
    ∧ (fld a0 1 0 = 3 → ∃ t, exec (.flushKeys sl via seq a0 a1) s = .next t
      ∧ Answered t (pgCip sl) 1 seq.toNat stBAD_ARG ∧ t.cip = s.cip)
    ∧ (∀ want, s.power.phase ≠ .recovery → fbit a0 31 = false → (∀ w ∈ s.cip.warm, w.slice ≠ sl) →
      want = ((List.range 32).map (fun x => 32 * fld a0 9 0 + x)).filter
        (fun e => saValid s (e / 32) (e % 32) && (cached s sl e).isEmpty) →
      (want = [] → ∃ t, exec (.warmKeys sl via seq a0) s = .next t
        ∧ CmdEnded s t (pgCip sl) 2 seq.toNat stOK (a0, 0, 0) (0, 0, 0) ∧ t.cip = s.cip)
      ∧ (want ≠ [] → ∃ t, exec (.warmKeys sl via seq a0) s = .next t ∧ CmdRuns s t (pgCip sl) 2 seq.toNat via (a0, 0, 0)
        ∧ t.cip = { s.cip with warm := s.cip.warm ++ [⟨sl, want, 0, 0⟩] })))

/-- While the gatekeepers are open, the first whole frame waiting in a class: without a cached key it queues a derivation; judged a unit, with room and a free lane, it starts, its blocks paid and counted; judged bad, it leaves refused, its outcome counted. A started frame that owes more than the credits pays what there is; else its tag is verified: on success it is held with its protection removed and the association's PN moves on, on failure it is refused as outcome 7. A verified frame, the oldest of its port and class, leaves with outcome 0 for the re-entry queue as a new frame of its plaintext. A descriptor to be protected takes the association's next PN and its key; with an unusable association it is refused as outcome 2. -/
def Obligations.FramesUnderCipher : Prop :=
  ∀ s : State, Memory.wf s = true → gkOpen s = true →
  (∀ (c : Fin 8) r f, s.pipe.decQ.find? (fun x => x.cls == c.val && x.stage == .wait) = some r → getDec s r.view.frame = some r →
    getFrame s r.view.frame = some f → f.whole = true → draining s = false → r.sa.tenant < 1024 →
    (judgeUnit s r f ≠ .bad 2 → cached s s.worker (32 * r.sa.tenant + r.sa.sa) = [] →
      exec (.decryptStart c) s = .next (queueKey s s.worker (32 * r.sa.tenant + r.sa.sa) (cipAccount r.sa)))
    ∧ (∀ u, judgeUnit s r f = .unit u → cached s s.worker (32 * r.sa.tenant + r.sa.sa) ≠ [] →
      holdOf s c.val + cellsFor u.plain ≤ fld (rdEff s (pgCip s.worker + Reg.CIP_HOLD_LIMIT + 4 * c.val)) 14 0 →
      holdAll s + cellsFor u.plain ≤ 16384 → lanesBusy s < 8 →
      unitBlocks u.aad.length u.text.length ≤ blocksLeft s (cipAccount r.sa) → ∃ t, exec (.decryptStart c) s = .next t
      ∧ getDec t r.view.frame = some { r with stage := .started ⟨r.sa, saBytes s r.sa.tenant r.sa.sa,
          cached s s.worker (32 * r.sa.tenant + r.sa.sa), u.pn, 0⟩ (cellsFor u.plain) }
      ∧ rd t (pgCip s.worker + Reg.CIP_BLOCKS)
        = rd s (pgCip s.worker + Reg.CIP_BLOCKS) + w32 (unitBlocks u.aad.length u.text.length))
    ∧ (∀ k, judgeUnit s r f = .bad k → (k = 2 ∨ cached s s.worker (32 * r.sa.tenant + r.sa.sa) ≠ []) → ∃ t,
      exec (.decryptStart c) s = .next t ∧ getDec t r.view.frame = none
      ∧ rd t (pgCip s.worker + Reg.CIP_CNT + 4 * k) = rd s (pgCip s.worker + Reg.CIP_CNT + 4 * k) + 1))
  ∧ (∀ frame r f x cells, getDec s frame = some r → getFrame s frame = some f → r.stage = .started x cells → r.sa.tenant < 1024 →
    (blocksLeft s (cipAccount r.sa) < x.owed → ∃ t, exec (.decryptVerify frame) s = .next t
      ∧ getDec t frame = some { r with stage := .started { x with owed := x.owed - blocksLeft s (cipAccount r.sa) } cells })
    ∧ (∀ la u, x.owed ≤ blocksLeft s (cipAccount r.sa) → r.sa.esp = false → r.layers.getD (saLayer x.bytes) none = some la →
      judgeMacsec x.bytes x.pn la (la + saOff x.bytes) (viewData f r.view) = .unit u →
      (∀ plain, gcmOpen x.key (macsecNonce x.bytes (u.nonce.take 8) x.pn) u.aad u.text u.tag = some plain → x.sa = r.sa →
        saValid s r.sa.tenant r.sa.sa = true → saBytes s r.sa.tenant r.sa.sa = x.bytes → saProto x.bytes = 0 →
        replayOk s (32 * r.sa.tenant + r.sa.sa) x.bytes x.pn = true → ∃ t data, exec (.decryptVerify frame) s = .next t
        ∧ unprotect x la (viewData f r.view) plain = some (data, false)
        ∧ getDec t frame = some { r with stage := .verified data false cells }
        ∧ saPn t r.sa.tenant r.sa.sa = if saPn s r.sa.tenant r.sa.sa ≤ x.pn then (x.pn + 1) % 2 ^ 64 else saPn s r.sa.tenant r.sa.sa)
      ∧ (gcmOpen x.key (macsecNonce x.bytes (u.nonce.take 8) x.pn) u.aad u.text u.tag = none → ∃ t,
        exec (.decryptVerify frame) s = .next t ∧ getDec t frame = none
        ∧ rd t (pgCip s.worker + Reg.CIP_CNT + 28) = rd s (pgCip s.worker + Reg.CIP_CNT + 28) + 1)))
  ∧ (∀ frame r f data tun cells, getDec s frame = some r → getFrame s frame = some f → r.stage = .verified data tun cells →
    r.sa.tenant < 1024 → frame ≠ s.pipe.nextFrame →
    s.pipe.decQ.find? (fun q => q.cls == r.cls && (getFrame s q.view.frame).map (·.port) == some f.port) = some r →
    s.pipe.q2.length < 512 → cellsFor data.length ≤ s.pipe.freeCells → ∃ t g, exec (.decryptRelease frame) s = .next t
    ∧ getDec t frame = none
    ∧ t.pipe.q2 = s.pipe.q2 ++ [.again (asReceived s.pipe.nextFrame) r.state (r.pass + 1) (r.decap || tun)]
    ∧ getFrame t s.pipe.nextFrame = some g ∧ g.data = data ∧ g.decrypted = true ∧ g.port = f.port
    ∧ rd t (pgCip s.worker + Reg.CIP_CNT) = rd s (pgCip s.worker + Reg.CIP_CNT) + 1)
  ∧ (∀ frame d f sa, (allDescs s).find? (fun x => x.view.frame == frame && x.unsealed) = some d → getFrame s frame = some f →
    d.enc = some sa → d.sealing = none → f.whole = true → sa.tenant < 1024 →
    (saValid s sa.tenant sa.sa = false → ∃ t, exec (.encryptFrame frame) s = .next t
      ∧ rd t (pgCip s.worker + Reg.CIP_CNT + 8) = rd s (pgCip s.worker + Reg.CIP_CNT + 8) + 1)
    ∧ (saValid s sa.tenant sa.sa = true → saOut (saBytes s sa.tenant sa.sa) = true →
      saProto (saBytes s sa.tenant sa.sa) = sa.esp.toNat →
      (cached s s.worker (32 * sa.tenant + sa.sa) = [] →
        exec (.encryptFrame frame) s = .next (queueKey s s.worker (32 * sa.tenant + sa.sa) (cipAccount sa)))
      ∧ (∀ u, u = encUnit f d sa (saBytes s sa.tenant sa.sa) → cached s s.worker (32 * sa.tenant + sa.sa) ≠ [] →
        outMalformed sa (saBytes s sa.tenant sa.sa) d.layers (viewData f d.view) = false → u.1 + u.2 ≤ 16384 →
        0 < unitBlocks u.1 u.2 → unitBlocks u.1 u.2 ≤ blocksLeft s (cipAccount sa) → viewPoisoned f d.view = false →
        fbit (rd s (pgTenCip sa.tenant + Reg.CP_EXHAUSTED)) sa.sa = false → saPn s sa.tenant sa.sa < 2 ^ 32 - 1 → ∃ t,
        exec (.encryptFrame frame) s = .next t ∧ saPn t sa.tenant sa.sa = saPn s sa.tenant sa.sa + 1
        ∧ { d with sealing := some ⟨sa, saBytes s sa.tenant sa.sa, cached s s.worker (32 * sa.tenant + sa.sa),
              saPn s sa.tenant sa.sa, 0⟩ } ∈ allDescs t)))

/-- OPEN_CHANNEL of a closed channel whose checks pass, CLOSE_CHANNEL of an open one, WIN_SET of sound staged values and WIN_CLOSE of a valid window are accepted, run, and stand to take effect at the boundary; otherwise they end at once with the status, and for OPEN_CHANNEL the reason. A PUT or COMMIT that may start ends with DENIED for another function's channel and with NOT_FOUND for a closed one; else it joins its channel and runs. A running PUT whose turn it is asks for admission of its next chunk. A running COMMIT whose turn it is, in an established session with room, takes the next sequence and commit number and a cell. -/
def Obligations.CarlisChannels : Prop :=
  ∀ s : State, Memory.wf s = true →
  (∀ (via : Master) (seq : Byte) (a0 : Word), Manages via → PageReady s pgCrt via → s.power.phase ≠ .recovery →
    ((getCh s (fld a0 7 0)).isOpen = false → nodeId s ≠ 0 → incarn s ≠ 0 →
      (openReason s (fld a0 7 0) = none → ∃ t, exec (.openChannel via seq a0) s = .next t
        ∧ CmdRuns s t pgCrt 1 seq.toNat via (a0, 0, 0) ∧ t.crt = { s.crt with pend := some (.opens (fld a0 7 0)) })
      ∧ (∀ r, openReason s (fld a0 7 0) = some r → ∃ t, exec (.openChannel via seq a0) s = .next t
        ∧ Answered t pgCrt 1 seq.toNat stBAD_ARG ∧ rd t (pgCrt + Reg.CMD_OUT) = w32 r ∧ t.crt = s.crt))
    ∧ ((getCh s (fld a0 7 0)).isOpen = true →
      (∃ t, exec (.openChannel via seq a0) s = .next t ∧ Answered t pgCrt 1 seq.toNat stWRONG_STATE ∧ t.crt = s.crt)
      ∧ ∃ t, exec (.closeChannel via seq a0) s = .next t ∧ CmdRuns s t pgCrt 2 seq.toNat via (a0, 0, 0)
        ∧ t.crt = { s.crt with pend := some (.closes (fld a0 7 0)) })
    ∧ (∀ x, x = stagedWin s (fld a0 5 0) →
      (x.base % 64 = 0 → x.size % 64 = 0 → x.size ≠ 0 → dramRange s x.base x.size = true → x.lo ≤ x.hi → ∃ t,
        exec (.winSet via seq a0) s = .next t ∧ CmdRuns s t pgCrt 3 seq.toNat via (a0, 0, 0)
        ∧ t.crt = { s.crt with pend := some (.set (fld a0 5 0) x) })
      ∧ ((x.base % 64 ≠ 0 ∨ x.size % 64 ≠ 0 ∨ x.size = 0 ∨ dramRange s x.base x.size = false ∨ x.hi < x.lo) → ∃ t,
        exec (.winSet via seq a0) s = .next t ∧ Answered t pgCrt 3 seq.toNat stBAD_ARG ∧ t.crt = s.crt))
    ∧ ((getWin s (fld a0 5 0)).valid = true → ∃ t, exec (.winClose via seq a0) s = .next t
      ∧ CmdRuns s t pgCrt 4 seq.toNat via (a0, 0, 0) ∧ t.crt = { s.crt with pend := some (.drop (fld a0 5 0)) })
    ∧ ((getWin s (fld a0 5 0)).valid = false → ∃ t, exec (.winClose via seq a0) s = .next t
      ∧ Answered t pgCrt 4 seq.toNat stWRONG_STATE ∧ t.crt = s.crt))
  ∧ (∀ (wq : Fin 16384) (idx : Fin 65536) i c, getItem s wq.val idx.val = some i → isHalted s i.fn = false → phaseServes s i.fn = true →
    c = leAt i.bytes 4 1 →
    (∀ cmd, (i.etype = 5 ∧ cmd = Instr.carlisPutEntry wq idx ∨ i.etype = 6 ∧ cmd = Instr.carlisCommitEntry wq idx ∧ commitsHeld s = false) →
      i.stage = .ready → mayStart s i = true →
      (i.fn ≠ chOwner s c → ∃ t, exec cmd s = .next t ∧ (getItem t wq.val idx.val).map (·.stage) = some (.finishing (report s stDENIED 0))
        ∧ t.crt = s.crt)
      ∧ (i.fn = chOwner s c → (i.etype = 5 → nbit (leAt i.bytes 6 1) 0 = false) →
        ((getCh s c).isOpen = false → ∃ t, exec cmd s = .next t
          ∧ (getItem t wq.val idx.val).map (·.stage) = some (.finishing (report s stNOT_FOUND 0)) ∧ t.crt = s.crt)
        ∧ ((getCh s c).isOpen = true → (getCh s c).opening = false → (getCh s c).entries = [] → ∃ t, exec cmd s = .next t
          ∧ (getItem t wq.val idx.val).map (·.stage) = some .run ∧ (getCh t c).entries = [⟨wq.val, idx.val, i.fn, i.etype == 6,
              if i.etype = 6 then 1 else leAt i.bytes 24 4, 0, 0, 0, false, none⟩])))
    ∧ (∀ e, i.stage = .run → (getCh s c).entries = [e] → e.wq = wq.val → e.idx = idx.val → e.allTaken = false →
      (getCh s c).opening = false →
      (i.etype = 5 → ∃ t j, exec (.carlisPutEntry wq idx) s = .next t ∧ getItem t wq.val idx.val = some j ∧ j.stage = .admission
        ∧ j.admitted = false ∧ j.segs = [(leAt i.bytes 8 8 + e.taken, nextChunk s c e)])
      ∧ (i.etype = 6 → (getCh s c).session ≠ none → (getCh s c).msgs.length < chWindow s c → gkOpen s = true → 0 < s.pipe.freeCells → ∃ t,
        exec (.carlisCommitEntry wq idx) s = .next t ∧ t.pipe.freeCells = s.pipe.freeCells - 1
        ∧ (getCh t c).commits = ((getCh s c).commits + 1) % 2 ^ 32 ∧ (getCh t c).next = ((getCh s c).next + 1) % 2 ^ 32
        ∧ (getCh t c).msgs.getLast? = some ⟨(getCh s c).next, some (wq.val, idx.val), none, ((getCh s c).commits + 1) % 2 ^ 32, 1, none,
            true, false, false⟩)))

/-- Where a channel's message can be built at once: an OPENING channel that owes a HELLO sends it and starts its timer; the first due message is sent, as a CHUNK or a COMMIT, and is due no longer; the target half sends its first reply, else the ACK that is due. Each carries its type, session, numbers and body under the next packet number. A chunk whose data is whole takes the next sequence number. When the interval has passed, all unacknowledged messages, or the HELLO, are due again, the interval doubles up to 16 times, and after `retries` expiries the channel is silent. An accepted chunk that its window refuses is answered with a REFUSE; one of a single block is written to DRAM; a COMMIT sets its map bit; each raises rcv_next. -/
def Obligations.CarlisSends : Prop :=
  ∀ (s : State) (c : Fin 256), Memory.wf s = true →
  ((getCh s c.val).isOpen = true → (getCh s c.val).build = none →
    ((getCh s c.val).opening = true → (getCh s c.val).helloDue = true → (getCh s c.val).dueFrom ≤ s.tck.boundaries → CrtMaySend s c.val 1 0 → ∃ t,
      exec (.helloSend c) s = .next t
      ∧ CrtSent s t c.val 1 0 (peerIncarn s (chPeer s c.val)) ((getCh s c.val).session.getD 0) 0 []
      ∧ (getCh t c.val).helloDue = false ∧ (getCh t c.val).helloPn = some (saPn s (chPage s c.val) (chOut s c.val))
      ∧ (getCh t c.val).timer = some s.tck.boundaries)
    ∧ (∀ m, (getCh s c.val).opening = false → firstDue s (getCh s c.val) = some m →
      (m.chunk ≠ none → CrtMaySend s c.val 3 (msgBody m).length → ∃ t, exec (.chunkSend c) s = .next t
        ∧ CrtSent s t c.val 3 0 (getCh s c.val).peerInc ((getCh s c.val).session.getD 0) m.seq (msgBody m)
        ∧ (getCh t c.val).msgs = (getCh s c.val).msgs.map (fun n => if n.seq = m.seq then { n with due := false, sent := true } else n))
      ∧ (m.chunk = none → CrtMaySend s c.val 4 8 → ∃ t, exec (.commitSend c) s = .next t
        ∧ CrtSent s t c.val 4 0 (getCh s c.val).peerInc ((getCh s c.val).session.getD 0) m.seq (beBytes 4 m.number ++ [0, 0, 0, 0])
        ∧ (getCh t c.val).msgs = (getCh s c.val).msgs.map (fun n => if n.seq = m.seq then { n with due := false, sent := true } else n)))
    ∧ (∀ e i, (getCh s c.val).opening = false → gkOpen s = true → (getCh s c.val).dueFrom ≤ s.tck.boundaries →
      (getCh s c.val).msgs.any (·.due) = false → (getCh s c.val).entries = [e] → e.allTaken = false → e.commit = false →
      getItem s e.wq e.idx = some i → i.stage = .data → readsDone s i = true → i.buf.length = nextChunk s c.val e →
      (getCh s c.val).session ≠ none → (getCh s c.val).msgs.length < chWindow s c.val → ∃ t m k, exec (.chunkSend c) s = .next t
      ∧ (getCh t c.val).next = ((getCh s c.val).next + 1) % 2 ^ 32 ∧ m ∈ (getCh t c.val).msgs ∧ m.seq = (getCh s c.val).next
      ∧ m.chunk = some k ∧ k.offset = (leAt i.bytes 16 8 + e.taken) % 2 ^ 64 ∧ k.data.length = nextChunk s c.val e
      ∧ k.window = leAt i.bytes 5 1 % 64)
    ∧ ((∀ pn at_ rest, (getCh s c.val).replies = (.helloAck pn, at_) :: rest → at_ ≤ s.tck.boundaries → CrtMaySend s c.val 2 8 → ∃ t,
        exec (.ackSend c) s = .next t ∧ (getCh t c.val).replies = rest
        ∧ CrtSent s t c.val 2 0 (getCh s c.val).sInc ((getCh s c.val).tSession.getD 0) (getCh s c.val).rcvNext (beBytes 8 pn))
      ∧ (∀ n st w at_ rest, (getCh s c.val).replies = (.refuse n st w, at_) :: rest → at_ ≤ s.tck.boundaries → CrtMaySend s c.val 6 16 → ∃ t,
        exec (.ackSend c) s = .next t ∧ (getCh t c.val).replies = rest ∧ (getCh t c.val).ackFrom = none
        ∧ CrtSent s t c.val 6 0 (getCh s c.val).sInc ((getCh s c.val).tSession.getD 0) (getCh s c.val).rcvNext
          (beBytes 4 n ++ leBytes 1 st ++ leBytes 1 w ++ beBytes 2 (getWin s w).gen ++ winBody (getWin s w)))
      ∧ (∀ at_, (getCh s c.val).replies = [] → (getCh s c.val).ackFrom = some at_ → at_ ≤ s.tck.boundaries →
        (getCh s c.val).ackAt ≠ some s.tck.boundaries → CrtMaySend s c.val 5 0 → ∃ t, exec (.ackSend c) s = .next t
        ∧ (getCh t c.val).ackFrom = none ∧ (getCh t c.val).gap = false
        ∧ CrtSent s t c.val 5 (getCh s c.val).gap.toNat (getCh s c.val).sInc ((getCh s c.val).tSession.getD 0) (getCh s c.val).rcvNext [])))
  ∧ (∀ t0, (getCh s c.val).timer = some t0 → (getCh s c.val).isOpen = true → passed s t0 (getCh s c.val).interval = true → ∃ t,
    exec (.retransmitTimerExpiry c) s = .next t ∧ getCh t c.val = { getCh s c.val with
      expiries := (getCh s c.val).expiries + 1, dueFrom := s.tck.boundaries, timer := some s.tck.boundaries
      silent := (getCh s c.val).silent || decide (chRetries s c.val ≤ (getCh s c.val).expiries + 1)
      interval := Nat.min (2 * (getCh s c.val).interval) (16 * chRto s c.val), helloDue := (getCh s c.val).opening
      msgs := if (getCh s c.val).opening then (getCh s c.val).msgs else (getCh s c.val).msgs.map (fun m => { m with due := true }) })
  ∧ (∀ q rest, (getCh s c.val).apply = q :: rest → gkOpen s = true →
    (∀ k st, q.chunk = some k → chunkRefused s c.val q.win k = some st → ∃ t, exec (.chunkApply c) s = .next t
      ∧ (getCh t c.val).replies = (getCh s c.val).replies ++ [(.refuse q.seq st k.window, s.tck.boundaries + 1)]
      ∧ (getCh t c.val).rcvNext = ((getCh s c.val).rcvNext + 1) % 2 ^ 32 ∧ (getCh t c.val).apply = rest ∧ t.mem = s.mem
      ∧ rd t (pgCrt + Reg.CRT_REFUSE_TX) = rd s (pgCrt + Reg.CRT_REFUSE_TX) + 1)
    ∧ (∀ k ch ca, q.chunk = some k → chunkRefused s c.val q.win k = none → q.pos = 0 → k.data.length = 64 →
      (q.win.base + k.offset) % 64 = 0 → dramWhere s (q.win.base + k.offset) = some (ch, ca) → memMay s ch 1 1 = true →
      retired s ch (64 * (ca / 64)) = false → fbit (rd s (pgEcc + Reg.ECC_FLIP_SEL)) 16 = false → ∃ t, exec (.chunkApply c) s = .next t
      ∧ (getCh t c.val).rcvNext = ((getCh s c.val).rcvNext + 1) % 2 ^ 32 ∧ (getCh t c.val).apply = rest
      ∧ (getCh t c.val).replies = (getCh s c.val).replies
      ∧ ∀ n blk, tget (fun _ => []) (getChan t n).blocks blk = if n = ch ∧ blk = ca / 64 then encodeBlock k.data (k.poison.contains 0)
          else tget (fun _ => []) (getChan s n).blocks blk)
    ∧ (q.chunk = none → ∃ t, exec (.commitApply c) s = .next t ∧ (getCh t c.val).apply = rest
      ∧ (getCh t c.val).rcvNext = ((getCh s c.val).rcvNext + 1) % 2 ^ 32
      ∧ (getCh t c.val).tCommits = ((getCh s c.val).tCommits + 1) % 2 ^ 32
      ∧ fbit (rd t (pgCrt + Reg.CRT_COMMIT_MAP + 4 * (c.val / 32))) (c.val % 32) = true))

/-- A message of an open channel that the cipher accepts leaves the engine's queue and is counted. A new HELLO starts a target session with the next session number and owes a HELLO_ACK; the HELLO_ACK of the last HELLO of an OPENING channel establishes its session at sequence 0. In the target's session a CHUNK or COMMIT with the next number joins the apply queue, an earlier one counts as duplicate and makes an ACK due, a later one is out of order; otherwise an RST is owed. In the initiator's session an ACK beyond snd_una removes what it acknowledges, a REFUSE and a WINDOW store the peer's window; otherwise they are unknown. An RST of the session makes the channel open anew. -/
def Obligations.CarlisReceives : Prop :=
  ∀ (s : State) (h : CrtHdr) (body : List Byte), Memory.wf s = true →
  (CrtArrives s 1 h body → (getCh s h.chan).session = none →
    ((getCh s h.chan).tSession ≠ some h.session ∨ h.session = 0 ∨ (getCh s h.chan).sInc ≠ h.sInc) → ∃ t l, exec .hello s = .next t
    ∧ CrtTaken s t ∧ (getCh t h.chan).tSession = some (rd s (pgCrt + Reg.CRT_SESSION_CTR) + 1).toNat ∧ (getCh t h.chan).sInc = h.sInc
    ∧ (getCh t h.chan).rcvNext = 0 ∧ (getCh t h.chan).rcvAccept = 0 ∧ (getCh t h.chan).apply = []
    ∧ (getCh t h.chan).replies = (.helloAck h.pn, s.tck.boundaries) :: l)
  ∧ (CrtArrives s 2 h body → (getCh s h.chan).opening = true → (getCh s h.chan).helloPn = some (beAt body 0 8) →
    ((getCh s h.chan).session ≠ some h.session ∨ (getCh s h.chan).peerInc ≠ h.sInc) → ∃ t, exec .helloAck s = .next t ∧ CrtTaken s t
    ∧ (getCh t h.chan).opening = false ∧ (getCh t h.chan).session = some h.session ∧ (getCh t h.chan).peerInc = h.sInc
    ∧ (getCh t h.chan).una = 0 ∧ (getCh t h.chan).next = 0 ∧ (getCh t h.chan).msgs = []
    ∧ rd t (pgCrt + Reg.PEER_INCARN + 64 * chPeer s h.chan) = w32 h.sInc)
  ∧ (∀ ty cmd k, (ty = 3 ∧ cmd = Instr.chunk ∧ k = some (chunkOf body) ∨ ty = 4 ∧ cmd = Instr.commit ∧ k = none) → CrtArrives s ty h body →
    (namesTarget s (getCh s h.chan) h = true →
      (seqAfter (getCh s h.chan).rcvNext h.seq = false → h.seq = (getCh s h.chan).rcvAccept → ∃ t, exec cmd s = .next t ∧ CrtTaken s t
        ∧ getCh t h.chan = { getCh s h.chan with
            rcvAccept := ((getCh s h.chan).rcvAccept + 1) % 2 ^ 32
            apply := (getCh s h.chan).apply ++ [⟨h.seq, k, getWin s ((k.map (·.window)).getD 0), 0⟩] })
      ∧ (seqAfter (getCh s h.chan).rcvNext h.seq = true → ∃ t, exec cmd s = .next t ∧ CrtTaken s t
        ∧ getCh t h.chan = { getCh s h.chan with ackFrom := some ((getCh s h.chan).ackFrom.getD (s.tck.boundaries + 1)) }
        ∧ rd t (pgCrt + Reg.CRT_DUP) = rd s (pgCrt + Reg.CRT_DUP) + 1)
      ∧ (seqAfter (getCh s h.chan).rcvNext h.seq = false → seqAfter (getCh s h.chan).rcvAccept h.seq = false →
        h.seq ≠ (getCh s h.chan).rcvAccept → ∃ t, exec cmd s = .next t ∧ CrtTaken s t
        ∧ (getCh t h.chan).gap = true ∧ (getCh t h.chan).apply = (getCh s h.chan).apply
        ∧ rd t (pgCrt + Reg.CRT_OOO) = rd s (pgCrt + Reg.CRT_OOO) + 1))
    ∧ (namesTarget s (getCh s h.chan) h = false → ∃ t, exec cmd s = .next t ∧ CrtTaken s t ∧ getCh t h.chan = { getCh s h.chan with
        replies := (getCh s h.chan).replies ++ [(.rst h.session h.sInc, s.tck.boundaries)] }))
  ∧ (CrtArrives s 5 h body →
    (namesInitiator s (getCh s h.chan) h = true → seqAfter h.seq (getCh s h.chan).next = false →
      seqAfter h.seq (getCh s h.chan).una = true → h.gap = false → ∃ t, exec .ack s = .next t ∧ CrtTaken s t
      ∧ (getCh t h.chan).una = h.seq ∧ (getCh t h.chan).msgs = (getCh s h.chan).msgs.filter (fun m => !seqAfter h.seq m.seq))
    ∧ (namesInitiator s (getCh s h.chan) h = false → ∃ t, exec .ack s = .next t ∧ CrtTaken s t ∧ t.crt.chans = s.crt.chans
      ∧ rd t (pgCrt + Reg.CRT_UNKNOWN) = rd s (pgCrt + Reg.CRT_UNKNOWN) + 1))
  ∧ (CrtArrives s 6 h body → namesInitiator s (getCh s h.chan) h = true → seqAfter h.seq (getCh s h.chan).next = false → ∃ t,
    exec .refuse s = .next t ∧ CrtTaken s t ∧ getCopy t (chPeer s h.chan) (leAt body 5 1) = (beAt body 6 2, beAt body 8 8)
    ∧ rd t (pgCrt + Reg.CRT_REFUSE_RX) = rd s (pgCrt + Reg.CRT_REFUSE_RX) + 1 ∧ fbit (rd t (pgCrt + Reg.PAGE_ERR)) 4 = true)
  ∧ (CrtArrives s 7 h body → namesInitiator s (getCh s h.chan) h = true → ∃ t, exec .window s = .next t ∧ CrtTaken s t
    ∧ t.crt.chans = s.crt.chans ∧ getCopy t (chPeer s h.chan) (leAt body 0 1)
      = (beAt body 2 2, if nbit (leAt body 1 1) 0 then beAt body 8 8 else 0))
  ∧ (CrtArrives s 8 h body → h.rInc = incarn s → (getCh s h.chan).session = some (beAt body 0 4) → ∃ t, exec .rst s = .next t
    ∧ CrtTaken s t ∧ (getCh t h.chan).opening = true ∧ (getCh t h.chan).helloDue = true ∧ (getCh t h.chan).session = none
    ∧ (getCh t h.chan).msgs = [] ∧ rd t (pgCrt + Reg.CRT_RST_RX) = rd s (pgCrt + Reg.CRT_RST_RX) + 1)

/-- With its page ready, outside recovery: CONFIG makes an unconfigured channel with sound registers idle, and names the first failing register otherwise; SWEEP of an idle channel reports the passing delays and leaves every block outside its pattern; START of an idle channel with no different running channel commits its registers and runs until the boundary; RELEASE makes a retained channel run with its contents; in any other state each ends with WRONG_STATE. A write to MEM_RETIRE_DATA sets the entry MEM_RETIRE_INDEX names. In the test phase a write of armed = 1 arms the flip mask; in any other served phase it is refused. An armed on-chip mask corrupts the word written and is armed no longer. A granted patrol burst of a running channel skips a retired region, passes a clean block, writes a correctable one back corrected, and marks an uncorrectable one poisoned; the last block ends the pass. That CONFIG, SWEEP and RELEASE end in the step that accepts them is the model's choice (log entry 5), and so is the form in which it keeps an on-chip corruption (log entry 95). -/
def Obligations.DramChannels : Prop :=
  ∀ s : State, Memory.wf s = true →
  (∀ (n : Fin 4) (via : Master) (seq : Byte) (a0 : Word) (found : Option (Byte × Byte)),
    PageReady s (pgMem n.val) via → Manages via → s.power.phase ≠ .recovery →
    (∀ k cmd, (k = 1 ∧ cmd = Instr.memConfig n via seq ∧ (getChan s n.val).st ≠ .unconfigured)
        ∨ (k = 2 ∧ cmd = .memSweep n found via seq a0 ∧ (getChan s n.val).st ≠ .idle)
        ∨ (k = 3 ∧ cmd = .memStart n via seq ∧ (getChan s n.val).st ≠ .idle)
        ∨ (k = 4 ∧ cmd = .memRelease n via seq ∧ (getChan s n.val).st ≠ .retained) →
      ∃ t, exec cmd s = .next t ∧ Answered t (pgMem n.val) k seq.toNat stWRONG_STATE
      ∧ { t with regs := s.regs, running := s.running } = s
      ∧ RegsKept s t (fun a => CmdWord (pgMem n.val) a ∨ a = pgMem n.val + Reg.PAGE_ERR_FIRST))
    ∧ ((getChan s n.val).st = .unconfigured →
      (memConfigCheck s n.val = none → ∃ t, exec (.memConfig n via seq) s = .next t
        ∧ CmdEnded s t (pgMem n.val) 1 seq.toNat stOK (0, 0, 0) (0, 0, 0)
        ∧ (∀ m, getChan t m = if m = n.val then { getChan s n.val with st := .idle } else getChan s m)
        ∧ { t with regs := s.regs, running := s.running, mem := s.mem } = s)
      ∧ (∀ o, memConfigCheck s n.val = some o → ∃ t, exec (.memConfig n via seq) s = .next t
        ∧ Answered t (pgMem n.val) 1 seq.toNat stBAD_ARG ∧ rd t (pgMem n.val + Reg.CMD_OUT) = w32 o
        ∧ { t with regs := s.regs, running := s.running } = s))
    ∧ ((getChan s n.val).st = .idle → fld a0 5 0 < 40 → ∃ t, exec (.memSweep n found via seq a0) s = .next t
      ∧ CmdEnded s t (pgMem n.val) 2 seq.toNat stOK (a0, 0, 0)
          (found.elim 0x10000 (fun d => w32 (d.1.toNat + 256 * d.2.toNat)), 0, 0)
      ∧ (∀ m, getChan t m = { getChan s m with blocks := (getChan t m).blocks })
      ∧ (∀ m blk, m ≠ n.val ∨ sweepBlock s n.val (fld a0 5 0) blk = false →
          tget (fun _ => []) (getChan t m).blocks blk = tget (fun _ => []) (getChan s m).blocks blk)
      ∧ { t with regs := s.regs, running := s.running, mem := s.mem } = s)
    ∧ ((getChan s n.val).st = .idle → 40 ≤ fld a0 5 0 → ∃ t, exec (.memSweep n found via seq a0) s = .next t
      ∧ Answered t (pgMem n.val) 2 seq.toNat stBAD_ARG ∧ { t with regs := s.regs, running := s.running } = s)
    ∧ ((getChan s n.val).st = .idle →
      ((interleaved s = false ∨ ∀ m, m < 4 → (getChan s m).st = .running →
          rd s (pgMem m + Reg.MEM_GEOM) = rd s (pgMem n.val + Reg.MEM_GEOM)) → ∃ t, exec (.memStart n via seq) s = .next t
        ∧ CmdRuns s t (pgMem n.val) 3 seq.toNat via (0, 0, 0)
        ∧ (∀ m, getChan t m = if m = n.val then { getChan s n.val with committed := true } else getChan s m)
        ∧ t.ecc = { s.ecc with mapCommitted := true }
        ∧ { t with regs := s.regs, running := s.running, mem := s.mem, ecc := s.ecc } = s)
      ∧ (∀ m, interleaved s = true → m < 4 → (getChan s m).st = .running →
          rd s (pgMem m + Reg.MEM_GEOM) ≠ rd s (pgMem n.val + Reg.MEM_GEOM) → ∃ t, exec (.memStart n via seq) s = .next t
        ∧ Answered t (pgMem n.val) 3 seq.toNat stBAD_ARG ∧ { t with regs := s.regs, running := s.running } = s))
    ∧ ((getChan s n.val).st = .retained → ∃ t, exec (.memRelease n via seq) s = .next t
      ∧ CmdEnded s t (pgMem n.val) 4 seq.toNat stOK (0, 0, 0) (0, 0, 0)
      ∧ (∀ m, getChan t m = if m = n.val then { getChan s n.val with st := .running, committed := true } else getChan s m)
      ∧ t.ecc = { s.ecc with mapCommitted := true }
      ∧ { t with regs := s.regs, running := s.running, mem := s.mem, ecc := s.ecc } = s))
  ∧ (∀ (via : Master) (n : Fin 4) (w : Word), Manages via → served s via true = true → s.power.phase ≠ .recovery →
    (∃ t, exec (.retireEntryWrite via n w) s = .next t
      ∧ rd t (memRetire n.val (fld (rd s (pgMem n.val + Reg.MEM_RETIRE_INDEX)) 5 0)) = (w &&& 0x83FFFFFF)
      ∧ RegsKept s t (· = memRetire n.val (fld (rd s (pgMem n.val + Reg.MEM_RETIRE_INDEX)) 5 0))
      ∧ { t with regs := s.regs } = s)
    ∧ (fbit w 16 = true →
      (s.power.phase = .test → ∃ t, exec (.flipArm via w) s = .next t ∧ rd t (pgEcc + Reg.ECC_FLIP_SEL) = (w &&& 0x1FF0F)
        ∧ RegsKept s t (· = pgEcc + Reg.ECC_FLIP_SEL) ∧ { t with regs := s.regs } = s)
      ∧ (s.power.phase ≠ .test → ∃ t, exec (.flipArm via w) s = .next t
        ∧ rd t (pgEcc + Reg.ECC_FLIP_SEL) = rd s (pgEcc + Reg.ECC_FLIP_SEL)
        ∧ fbit (rd t (pgEcc + Reg.PAGE_ERR)) 5 = true ∧ t.mem = s.mem ∧ t.ecc = s.ecc)))
  ∧ (∀ word, fbit (rd s (pgEcc + Reg.ECC_FLIP_SEL)) 16 = true → 1 ≤ fld (rd s (pgEcc + Reg.ECC_FLIP_SEL)) 3 0 →
    fld (rd s (pgEcc + Reg.ECC_FLIP_SEL)) 3 0 ≤ 8 → ∃ t f, exec (.flipApply word) s = .next t
    ∧ f.memory = fld (rd s (pgEcc + Reg.ECC_FLIP_SEL)) 3 0 ∧ f.inst = fld (rd s (pgEcc + Reg.ECC_FLIP_SEL)) 15 8 ∧ f.word = word
    ∧ f.data.toNat = (rd s (pgEcc + Reg.ECC_FLIP_MASK_LO)).toNat + 2 ^ 32 * (rd s (pgEcc + Reg.ECC_FLIP_MASK_HI)).toNat
    ∧ f.chk.toNat = fld (rd s (pgEcc + Reg.ECC_FLIP_CHK)) 7 0 ∧ t.ecc.flips.head? = some f
    ∧ rd t (pgEcc + Reg.ECC_FLIP_SEL) = (rd s (pgEcc + Reg.ECC_FLIP_SEL) &&& 0xFFFEFFFF)
    ∧ fbit (rd t (pgEcc + Reg.PAGE_ERR)) 6 = true ∧ rdWide t (pgEcc + Reg.ECC_FLIP_ADDR_LO) = word % 2 ^ 38 ∧ t.mem = s.mem)
  ∧ (∀ (n : Fin 4) (c : MemChan) (r : DramRead) (p : Nat), c = getChan s n.val → r = decodeBlock (rawBlock s n.val c.scrubPos) →
    c.st = .running → fbit (rdEff s (pgMem n.val + Reg.PAGE_CTL)) 0 = true → memMay s n.val 2 1 = true →
    p = (if retired s n.val (64 * c.scrubPos) then (c.scrubPos / 64 + 1) * 64 else c.scrubPos + 1) →
    (retired s n.val (64 * c.scrubPos) = true ∨ (r.ce = false ∧ r.ue = false) ∨ memMay s n.val 2 2 = true) →
    ∃ t, exec (.patrolScrubBurst n) s = .next t
    ∧ (getChan t n.val).scrubPos = (if chanBytes s n.val / 64 ≤ p then 0 else p)
    ∧ rd t (pgMem n.val + Reg.MEM_SCRUB_PASSES) = rd s (pgMem n.val + Reg.MEM_SCRUB_PASSES)
        + (if chanBytes s n.val / 64 ≤ p then 1 else 0)
    ∧ (∀ m, m ≠ n.val → getChan t m = getChan s m)
    ∧ ((retired s n.val (64 * c.scrubPos) = true ∨ (r.ce = false ∧ r.ue = false)) → (getChan t n.val).blocks = c.blocks
      ∧ rd t (pgMem n.val + Reg.MEM_CE_CNT) = rd s (pgMem n.val + Reg.MEM_CE_CNT)
      ∧ rd t (pgMem n.val + Reg.MEM_UE_CNT) = rd s (pgMem n.val + Reg.MEM_UE_CNT))
    ∧ (retired s n.val (64 * c.scrubPos) = false → fbit (rd s (pgEcc + Reg.ECC_FLIP_SEL)) 16 = false →
      (r.ce = true → r.ue = false → rd t (pgMem n.val + Reg.MEM_CE_CNT) = rd s (pgMem n.val + Reg.MEM_CE_CNT) + 1
        ∧ ∀ b, tget (fun _ => []) (getChan t n.val).blocks b
            = if b = c.scrubPos then encodeBlock r.data r.poison else tget (fun _ => []) c.blocks b)
      ∧ (r.ue = true → r.ce = false → rd t (pgMem n.val + Reg.MEM_UE_CNT) = rd s (pgMem n.val + Reg.MEM_UE_CNT) + 1
        ∧ ∀ b, tget (fun _ => []) (getChan t n.val).blocks b
            = if b = c.scrubPos then encodeBlock r.data true else tget (fun _ => []) c.blocks b)))

/-- Outside recovery, with none pending, each edge fault sets its page's error bit and asks for recovery. A slice in service that detects a fault fences itself: claim 0, the class and engine recorded, the withdrawal counted, the other slice as before; an uncorrectable error only counts within the PTP second until it reaches RED_UE_LIMIT, and then withdraws with class 4. Where the gatekeepers accept a standby slice and none is active, that slice becomes active with claim 0xC0, the other slice's tags are stale, and the switch-over is counted and reported. A slice whose reset passes waits for the next boundary, unless it is to be retired; one that fails is retired and reported. A qualifying slice becomes standby one second after it became so if auto_readmit is 1. A self-test pass without a wrong answer is counted and the next begins; a wrong answer withdraws the standby with class 3. WITHDRAW of a slice in service fences it with class 0 where the other serves, else ends with WRONG_STATE; READMIT of a slice in service ends with WRONG_STATE; of any other slice both run, and READMIT starts a retired slice's reset. -/
def Obligations.SlicesAndSwitchOver : Prop :=
  ∀ s : State, Memory.wf s = true →
  (∀ f page bit p, (f = EdgeFault.gatekeeperMismatch ∧ page = pgRed ∧ bit = 6) ∨ (f = .edgeParity ∧ page = pgRed ∧ bit = 7)
      ∨ ((∃ e, f = .sharedOverrun e) ∧ page = pgTck ∧ bit = 0) ∨ (f = .lastCopiesDiffer ∧ s.tck.fenced.isSome ∧ page = pgTck ∧ bit = 3) →
    s.power.phase ≠ .recovery → s.power.recoverPend = none → pageAt page = some p → ∃ t, exec (.enterRecovery f) s = .next t
    ∧ t.power = { s.power with recoverPend := some ⟨p.kind.code, p.inst, bit⟩ } ∧ fbit (rd t (page + Reg.PAGE_ERR)) bit = true
    ∧ t.mem = s.mem ∧ t.pipe = s.pipe ∧ t.queues = s.queues)
  ∧ (∀ (sl : SliceId) (x : SliceRed) (eng : Byte), x = s.slice sl → x.role ≠ .out → x.fenced = false →
    (∀ ev cls, (ev = SliceFault.check ∧ cls = 1) ∨ (ev = .overrun ∧ cls = 2) ∨ (ev = .uncorrectable ∧ cls = 4
        ∧ fld (rd s (pgRed + Reg.RED_UE_LIMIT)) 7 0 ≤ (if x.ueSecond = s.seconds then x.ueCount else 0) + 1) →
      ∃ t, exec (.onlineCheckFire sl ev eng) s = .next t ∧ (t.slice sl).claim = 0 ∧ (t.slice sl).fenced = true
      ∧ (t.slice sl).role = x.role ∧ (t.slice sl).lastClass = cls
      ∧ (t.slice sl).withdrawals = recentWithdrawals s x.withdrawals ++ [s.seconds] ∧ t.slice sl.other = s.slice sl.other
      ∧ rd t (pgSelf sl + Reg.ST_FAIL_INFO) = (if fbit (rd s (pgSelf sl + Reg.ST_FAIL_INFO)) 31 then rd s (pgSelf sl + Reg.ST_FAIL_INFO)
          else w32 (eng.toNat + 256 * cls + 2 ^ 31)) ∧ t.pipe = s.pipe ∧ t.queues = s.queues ∧ t.mem = s.mem)
    ∧ ((if x.ueSecond = s.seconds then x.ueCount else 0) + 1 < fld (rd s (pgRed + Reg.RED_UE_LIMIT)) 7 0 →
      exec (.onlineCheckFire sl .uncorrectable eng) s = .next (s.setSlice sl { x with
        ueCount := (if x.ueSecond = s.seconds then x.ueCount else 0) + 1, ueSecond := s.seconds })))
  ∧ (∀ (sl : SliceId) (replay : Nat) (gap : Fin 3), s.red.accepted = some sl → s.activeSlice = none → (s.slice sl).role = .standby →
    ∃ t, exec (.switchOver replay gap) s = .next t
    ∧ t.slice sl = { s.slice sl with role := .active, claim := 0xC0, passRunning := false } ∧ t.slice sl.other = s.slice sl.other
    ∧ t.red.accepted = some sl ∧ t.red.stage = .idle ∧ t.red.due = false ∧ t.red.count = 0
    ∧ (∀ x, x ∈ t.pcie.tags → x.slice = sl.other → x.stale = true)
    ∧ rd t (pgRed + Reg.RED_SWITCH_CNT) = rd s (pgRed + Reg.RED_SWITCH_CNT) + 1 ∧ fbit (rd t (pgRed + Reg.PAGE_ERR)) 1 = true
    ∧ rd t (pgRed + Reg.RED_REPLAY_CNT) = rd s (pgRed + Reg.RED_REPLAY_CNT) + w32 replay
    ∧ rd t (pgRed + Reg.RED_LAST_SWITCH) = (if fbit (rd s (pgRed + Reg.RED_LAST_SWITCH)) 31 then rd s (pgRed + Reg.RED_LAST_SWITCH)
        else w32 (s.stamp + 65536 * sl.other.num + 131072 * (s.slice sl.other).lastClass + 2 ^ 31))
    ∧ t.vkeep = { s.vkeep with latch := s.vkeep.latch ||| 0x00100000 } ∧ t.mem = s.mem)
  ∧ (∀ (sl : SliceId) (x : SliceRed), x = s.slice sl → x.resetting = true → x.role = .out →
    (x.readmit = true ∨ (x.retireAtEnd = false ∧ x.retired = false) → ∃ t, exec (.sliceResetEnd sl true) s = .next t
      ∧ (t.slice sl).resetting = false ∧ (t.slice sl).retired = false ∧ (t.slice sl).readmit = x.readmit
      ∧ (t.slice sl).inject = x.inject.filter (fun i => i.2 != .permanent)
      ∧ (t.slice sl).role = .out ∧ t.slice sl.other = s.slice sl.other)
    ∧ (∃ t, exec (.sliceResetEnd sl false) s = .next t
      ∧ (t.slice sl).resetting = false ∧ (t.slice sl).retired = true ∧ (t.slice sl).readmit = false
      ∧ (t.slice sl).role = .out ∧ t.slice sl.other = s.slice sl.other
      ∧ fbit (rd t (pgRed + Reg.PAGE_ERR)) 2 = true ∧ fbit t.vkeep.latch 21 = true))
  ∧ (∀ (sl : SliceId) (x : SliceRed), x = s.slice sl →
    (x.role = .qualifying → fbit (rd s (pgRed + Reg.PAGE_CTL)) 2 = true → passed s x.qualifiedAt (boundariesIn s (10 ^ 9)) = true →
      ∃ t, exec (.autoReadmit sl) s = .next t ∧ (t.slice sl).role = .standby ∧ (t.slice sl).claim = 0x80
      ∧ (t.slice sl).retired = false ∧ (t.slice sl).passRunning = true ∧ (t.slice sl).passStart = s.tck.boundaries
      ∧ t.slice sl.other = s.slice sl.other ∧ t.pipe = s.pipe ∧ t.queues = s.queues ∧ t.mem = s.mem)
    ∧ (x.role ≠ .qualifying ∨ fbit (rd s (pgRed + Reg.PAGE_CTL)) 2 = false
        ∨ passed s x.qualifiedAt (boundariesIn s (10 ^ 9)) = false → exec (.autoReadmit sl) s = .next s)
    ∧ (∀ ms, x.role = .standby → x.passRunning = true → (s.slice sl.other).role ≠ .standby → (∀ e, (e, .latent) ∉ x.inject) →
      (∃ t, exec (.selftestPassEnd ms none) s = .next t
        ∧ t.slice sl = { x with lastPassOk := true, passStart := s.tck.boundaries } ∧ t.slice sl.other = s.slice sl.other
        ∧ rd t (pgSelf sl + Reg.ST_PASS_CNT) = rd s (pgSelf sl + Reg.ST_PASS_CNT) + 1
        ∧ rd t (pgSelf sl + Reg.ST_LAST_PASS) = w32 (ms % 65536)
        ∧ RegsKept s t (fun a => a = pgSelf sl + Reg.ST_PASS_CNT ∨ a = pgSelf sl + Reg.ST_LAST_PASS)
        ∧ { t with regs := s.regs, red := s.red, evc := s.evc } = s)
      ∧ (∀ b, x.fenced = false → ∃ t, exec (.selftestPassEnd ms (some b)) s = .next t ∧ (t.slice sl).claim = 0
        ∧ (t.slice sl).fenced = true ∧ (t.slice sl).lastClass = 3 ∧ (t.slice sl).lastPassOk = false
        ∧ t.slice sl.other = s.slice sl.other ∧ fbit (rd t (pgSelf sl + Reg.PAGE_ERR)) 3 = true
        ∧ rd t (pgSelf sl + Reg.ST_PASS_CNT) = rd s (pgSelf sl + Reg.ST_PASS_CNT))))
  ∧ (∀ (via : Master) (seq : Byte) (a0 : Word) (sl : SliceId), PageReady s pgRed via → Manages via → s.power.phase ≠ .recovery →
    sl = argSlice a0 →
    ((s.slice sl).role = .active ∨ (s.slice sl).role = .standby →
      ((s.slice sl.other).role = .active ∨ (s.slice sl.other).role = .standby → (s.slice sl).fenced = false → ∃ t,
        exec (.withdraw via seq a0) s = .next t ∧ CmdRuns s t pgRed 2 seq.toNat via (a0, 0, 0)
        ∧ (t.slice sl).claim = 0 ∧ (t.slice sl).fenced = true ∧ (t.slice sl).role = (s.slice sl).role ∧ (t.slice sl).lastClass = 0
        ∧ t.slice sl.other = s.slice sl.other ∧ { t with regs := s.regs, running := s.running, red := s.red } = s)
      ∧ ((s.slice sl.other).role = .out ∨ (s.slice sl.other).role = .qualifying → ∃ t,
        exec (.withdraw via seq a0) s = .next t ∧ Answered t pgRed 2 seq.toNat stWRONG_STATE
        ∧ { t with regs := s.regs, running := s.running } = s)
      ∧ ∃ t, exec (.readmit via seq a0) s = .next t ∧ Answered t pgRed 3 seq.toNat stWRONG_STATE
        ∧ { t with regs := s.regs, running := s.running } = s)
    ∧ ((s.slice sl).role = .out ∨ (s.slice sl).role = .qualifying →
      (∃ t, exec (.withdraw via seq a0) s = .next t ∧ CmdRuns s t pgRed 2 seq.toNat via (a0, 0, 0)
        ∧ { t with regs := s.regs, running := s.running } = s)
      ∧ ∃ t, exec (.readmit via seq a0) s = .next t ∧ CmdRuns s t pgRed 3 seq.toNat via (a0, 0, 0)
        ∧ t.slice sl = { s.slice sl with
            readmit := true, resetting := (s.slice sl).resetting || (s.slice sl).retired, retireAtEnd := false
            withdrawals := if (s.slice sl).retired then [] else (s.slice sl).withdrawals }
        ∧ t.slice sl.other = s.slice sl.other ∧ { t with regs := s.regs, running := s.running, red := s.red } = s))

/-- The equinox falls due when its count reaches the period in normal service, or a second after an abandonment, or when EQUINOX_NOW is accepted; where a condition holds it is deferred. Once due, and with no condition left, the prepare stage begins, with both bulk locks taken where digests are enabled. Hold begins once every command of the prepare stage has ended with equal digests, drain once no COMMIT is open. When the active slice holds no started decryption and no tag, the slices change roles and claims, the gatekeepers accept the new active slice, the count restarts, the locks are released, and a running EQUINOX_NOW ends with OK; no outstanding tag, frame or work entry is touched. A stage that is late, a condition, differing digests, or the loss of the standby abandons it: roles stay, the abandonment is counted, it falls due again after one second, and a running EQUINOX_NOW ends with BUSY. An equinox deferred beyond RED_EQX_DEFER raises its alarm once. EQUINOX_NOW in a simplex device, during an equinox, or outside normal service ends with WRONG_STATE. That a deferral is entered in the step of the falling due is the model's choice (log entry 88). -/
def Obligations.Equinox : Prop :=
  ∀ s : State, Memory.wf s = true →
  (eqxRuns s = false → s.power.phase ≠ .recovery →
    ((∃ b, s.red.dueAgainAt = some b ∧ b ≤ s.tck.boundaries)
      ∨ (s.red.dueAgainAt = none ∧ 0 < eqxPeriod s ∧ eqxPeriod s ≤ s.red.count ∧ s.power.phase = .normal ∧ simplex s = false) →
      exec .equinoxDue s = .next { s with red := { s.red with
        due := true, dueAgainAt := none, deferAlarmed := false
        stage := if eqxDeferred s then .deferred else s.red.stage
        stageSince := if eqxDeferred s then s.tck.boundaries else s.red.stageSince } })
    ∧ ((∃ b, s.red.dueAgainAt = some b ∧ s.tck.boundaries < b)
      ∨ (s.red.dueAgainAt = none ∧ (eqxPeriod s = 0 ∨ s.red.count < eqxPeriod s ∨ s.power.phase ≠ .normal ∨ simplex s = true)) →
      exec .equinoxDue s = .next s))
  ∧ (s.red.due = true → s.red.stage = .idle ∨ s.red.stage = .deferred →
    (eqxDeferred s = true → exec .equinoxPrepare s = .next (if s.red.stage = .idle then { s with red := { s.red with
      stage := .deferred, stageSince := s.tck.boundaries } } else s))
    ∧ (∀ a, eqxDeferred s = false → s.activeSlice = some a → s.power.bringupDone = true →
      (fld (rd s (pgRed + Reg.PAGE_CTL)) 1 0 = 0 → exec .equinoxPrepare s = .next { s with red := { s.red with
        stage := .prepare, stageSince := s.tck.boundaries, syncTodo := [], digestA := none, digestB := none
        prepBy := s.tck.boundaries } })
      ∧ (∃ t, exec .equinoxPrepare s = .next t ∧ t.red.stage = .prepare ∧ t.red.stageSince = s.tck.boundaries
        ∧ t.red.ochre = s.red.ochre ∧ t.red.slate = s.red.slate ∧ t.red.accepted = s.red.accepted
        ∧ (fbit (rd s (pgRed + Reg.PAGE_CTL)) 1 = true → lockOwner t .ochre = 3 ∧ lockOwner t .slate = 3)
        ∧ (fbit (rd s (pgRed + Reg.PAGE_CTL)) 0 = true → runningOn s (pgCip a.other) = none →
            fld (rd t (pgCip a.other + Reg.CMD_RESULT)) 23 16 = 2)
        ∧ (fbit (rd s (pgRed + Reg.PAGE_CTL)) 0 = true → runningOn s (pgCip a.other) ≠ none → pgCip a.other ∈ t.red.syncTodo)
        ∧ t.pipe = s.pipe ∧ t.queues = s.queues ∧ t.pcie.tags = s.pcie.tags)))
  ∧ (prepared s = true → digestsDiffer s = false → eqxDeferred s = false →
    exec .equinoxHold s = .next { s with red := { s.red with stage := .hold, stageSince := s.tck.boundaries } })
  ∧ (s.red.stage = .hold → commitOpen s = false → eqxDeferred s = false →
    exec .equinoxDrain s = .next { s with red := { s.red with stage := .drain, stageSince := s.tck.boundaries } })
  ∧ (∀ a, s.activeSlice = some a → s.red.stage = .drain → drained s a = true → eqxDeferred s = false → (s.slice a).fenced = false →
    (s.slice a.other).fenced = false → ∃ t, exec .equinoxSwap s = .next t
    ∧ t.slice a = { s.slice a with role := .standby, claim := 0x80, passRunning := true, passStart := s.tck.boundaries }
    ∧ t.slice a.other = { s.slice a.other with role := .active, claim := 0xC0, passRunning := false }
    ∧ t.red.accepted = some a.other ∧ t.red.stage = .idle ∧ t.red.due = false ∧ t.red.count = 0
    ∧ (∀ sl, lockOwner t sl = if lockOwner s sl = 3 then 0 else lockOwner s sl)
    ∧ rd t (pgRed + Reg.RED_EQX_CNT) = rd s (pgRed + Reg.RED_EQX_CNT) + 1
    ∧ rd t (pgRed + Reg.RED_LAST_EQX) = w32 (s.stamp + 65536 * a.other.num + 2 ^ 31)
    ∧ (∀ c, runningOn s pgRed = some c → c.code = 1 → c.via ≠ .sync → c.seq < 256 →
        fbit (rd s (pgRed + Reg.CMD_RESULT)) 1 = false → Answered t pgRed 1 c.seq stOK)
    ∧ t.pcie = s.pcie ∧ t.queues = s.queues ∧ t.pipe = s.pipe ∧ t.mem = s.mem)
  ∧ (((s.red.stage = .prepare ∨ s.red.stage = .hold ∨ s.red.stage = .drain) ∧ (eqxLate s = true ∨ eqxDeferred s = true
        ∨ (prepared s = true ∧ digestsDiffer s = true))) ∨ (eqxRuns s = true ∧ eqxLost s = true) → ∃ t,
    exec .equinoxAbandon s = .next t ∧ t.red.stage = .idle ∧ t.red.due = false
    ∧ t.red.dueAgainAt = some (s.tck.boundaries + boundariesIn s (10 ^ 9)) ∧ t.red.ochre = s.red.ochre ∧ t.red.slate = s.red.slate
    ∧ t.red.accepted = s.red.accepted ∧ (∀ sl, lockOwner t sl = if lockOwner s sl = 3 then 0 else lockOwner s sl)
    ∧ rd t (pgRed + Reg.RED_EQX_ABANDON_CNT) = rd s (pgRed + Reg.RED_EQX_ABANDON_CNT) + 1
    ∧ fbit (rd t (pgRed + Reg.PAGE_ERR)) 4 = true
    ∧ (prepared s = true → digestsDiffer s = true → fbit (rd t (pgRed + Reg.PAGE_ERR)) 5 = true)
    ∧ (∀ c, runningOn s pgRed = some c → c.code = 1 → c.via ≠ .sync → c.seq < 256 →
        fbit (rd s (pgRed + Reg.CMD_RESULT)) 1 = false → Answered t pgRed 1 c.seq stBUSY)
    ∧ t.queues = s.queues ∧ t.pipe = s.pipe ∧ t.mem = s.mem)
  ∧ (∀ n, n = boundariesIn s (fld (rd s (pgRed + Reg.RED_EQX_DEFER)) 15 0 * 10 ^ 9) + 1 → s.red.stage = .deferred →
    (s.red.deferAlarmed = false → passed s s.red.stageSince n = true → ∃ t, exec .equinoxDeferAlarm s = .next t
      ∧ t.red = { s.red with deferAlarmed := true }
      ∧ rd t (pgRed + Reg.RED_EQX_DEFER_CNT) = rd s (pgRed + Reg.RED_EQX_DEFER_CNT) + 1
      ∧ fbit (rd t (pgRed + Reg.PAGE_ERR)) 3 = true ∧ t.vkeep = { s.vkeep with latch := s.vkeep.latch ||| 0x00400000 })
    ∧ (s.red.deferAlarmed = true ∨ passed s s.red.stageSince n = false → exec .equinoxDeferAlarm s = .next s))
  ∧ (∀ (via : Master) (seq : Byte), PageReady s pgRed via → Manages via →
    (s.power.phase = .normal → simplex s = false → eqxRuns s = false → ∃ t, exec (.equinoxNow via seq) s = .next t
      ∧ CmdRuns s t pgRed 1 seq.toNat via (0, 0, 0) ∧ t.red = { s.red with
        due := true, dueAgainAt := none, deferAlarmed := false
        stage := if eqxDeferred s then .deferred else s.red.stage
        stageSince := if eqxDeferred s then s.tck.boundaries else s.red.stageSince }
      ∧ { t with regs := s.regs, running := s.running, red := s.red } = s)
    ∧ (s.power.phase ≠ .normal ∨ simplex s = true ∨ eqxRuns s = true → ∃ t, exec (.equinoxNow via seq) s = .next t
      ∧ Answered t pgRed 1 seq.toNat stWRONG_STATE ∧ { t with regs := s.regs, running := s.running } = s))
end

