-- ==== Sys2Proof/Laws/State.lean ====
section
/-! SUPPORT. What each primitive update of the state leaves alone: one lemma per field per update. -/
namespace Sys2Proof.Machine

/-! `wr` -/
@[simp] theorem wr_pending (s : State) (a : Nat) (w : Word) : (wr s a w).pending = s.pending := rfl
@[simp] theorem wr_eff (s : State) (a : Nat) (w : Word) : (wr s a w).eff = s.eff := rfl
@[simp] theorem wr_wide (s : State) (a : Nat) (w : Word) : (wr s a w).wide = s.wide := rfl
@[simp] theorem wr_running (s : State) (a : Nat) (w : Word) : (wr s a w).running = s.running := rfl
@[simp] theorem wr_power (s : State) (a : Nat) (w : Word) : (wr s a w).power = s.power := rfl
@[simp] theorem wr_time (s : State) (a : Nat) (w : Word) : (wr s a w).time = s.time := rfl
@[simp] theorem wr_tck (s : State) (a : Nat) (w : Word) : (wr s a w).tck = s.tck := rfl
@[simp] theorem wr_cred (s : State) (a : Nat) (w : Word) : (wr s a w).cred = s.cred := rfl
@[simp] theorem wr_gov (s : State) (a : Nat) (w : Word) : (wr s a w).gov = s.gov := rfl
@[simp] theorem wr_red (s : State) (a : Nat) (w : Word) : (wr s a w).red = s.red := rfl
@[simp] theorem wr_vkeep (s : State) (a : Nat) (w : Word) : (wr s a w).vkeep = s.vkeep := rfl
@[simp] theorem wr_alog (s : State) (a : Nat) (w : Word) : (wr s a w).alog = s.alog := rfl
@[simp] theorem wr_evc (s : State) (a : Nat) (w : Word) : (wr s a w).evc = s.evc := rfl
@[simp] theorem wr_board (s : State) (a : Nat) (w : Word) : (wr s a w).board = s.board := rfl
@[simp] theorem wr_pcie (s : State) (a : Nat) (w : Word) : (wr s a w).pcie = s.pcie := rfl
@[simp] theorem wr_queues (s : State) (a : Nat) (w : Word) : (wr s a w).queues = s.queues := rfl
@[simp] theorem wr_pipe (s : State) (a : Nat) (w : Word) : (wr s a w).pipe = s.pipe := rfl
@[simp] theorem wr_sched (s : State) (a : Nat) (w : Word) : (wr s a w).sched = s.sched := rfl
@[simp] theorem wr_tbl (s : State) (a : Nat) (w : Word) : (wr s a w).tbl = s.tbl := rfl
@[simp] theorem wr_cip (s : State) (a : Nat) (w : Word) : (wr s a w).cip = s.cip := rfl
@[simp] theorem wr_crt (s : State) (a : Nat) (w : Word) : (wr s a w).crt = s.crt := rfl
@[simp] theorem wr_mbx (s : State) (a : Nat) (w : Word) : (wr s a w).mbx = s.mbx := rfl
@[simp] theorem wr_cus (s : State) (a : Nat) (w : Word) : (wr s a w).cus = s.cus := rfl
@[simp] theorem wr_logs (s : State) (a : Nat) (w : Word) : (wr s a w).logs = s.logs := rfl
@[simp] theorem wr_ports (s : State) (a : Nat) (w : Word) : (wr s a w).ports = s.ports := rfl
@[simp] theorem wr_cbp (s : State) (a : Nat) (w : Word) : (wr s a w).cbp = s.cbp := rfl
@[simp] theorem wr_mem (s : State) (a : Nat) (w : Word) : (wr s a w).mem = s.mem := rfl
@[simp] theorem wr_ecc (s : State) (a : Nat) (w : Word) : (wr s a w).ecc = s.ecc := rfl
@[simp] theorem wr_free (s : State) (a : Nat) (w : Word) : (wr s a w).free = s.free := rfl
@[simp] theorem wr_out (s : State) (a : Nat) (w : Word) : (wr s a w).out = s.out := rfl

/-! `bumpBy` -/
@[simp] theorem bumpBy_pending (s : State) (a n : Nat) : (bumpBy s a n).pending = s.pending := rfl
@[simp] theorem bumpBy_eff (s : State) (a n : Nat) : (bumpBy s a n).eff = s.eff := rfl
@[simp] theorem bumpBy_wide (s : State) (a n : Nat) : (bumpBy s a n).wide = s.wide := rfl
@[simp] theorem bumpBy_running (s : State) (a n : Nat) : (bumpBy s a n).running = s.running := rfl
@[simp] theorem bumpBy_power (s : State) (a n : Nat) : (bumpBy s a n).power = s.power := rfl
@[simp] theorem bumpBy_time (s : State) (a n : Nat) : (bumpBy s a n).time = s.time := rfl
@[simp] theorem bumpBy_tck (s : State) (a n : Nat) : (bumpBy s a n).tck = s.tck := rfl
@[simp] theorem bumpBy_cred (s : State) (a n : Nat) : (bumpBy s a n).cred = s.cred := rfl
@[simp] theorem bumpBy_gov (s : State) (a n : Nat) : (bumpBy s a n).gov = s.gov := rfl
@[simp] theorem bumpBy_red (s : State) (a n : Nat) : (bumpBy s a n).red = s.red := rfl
@[simp] theorem bumpBy_vkeep (s : State) (a n : Nat) : (bumpBy s a n).vkeep = s.vkeep := rfl
@[simp] theorem bumpBy_alog (s : State) (a n : Nat) : (bumpBy s a n).alog = s.alog := rfl
@[simp] theorem bumpBy_evc (s : State) (a n : Nat) : (bumpBy s a n).evc = s.evc := rfl
@[simp] theorem bumpBy_board (s : State) (a n : Nat) : (bumpBy s a n).board = s.board := rfl
@[simp] theorem bumpBy_pcie (s : State) (a n : Nat) : (bumpBy s a n).pcie = s.pcie := rfl
@[simp] theorem bumpBy_queues (s : State) (a n : Nat) : (bumpBy s a n).queues = s.queues := rfl
@[simp] theorem bumpBy_pipe (s : State) (a n : Nat) : (bumpBy s a n).pipe = s.pipe := rfl
@[simp] theorem bumpBy_sched (s : State) (a n : Nat) : (bumpBy s a n).sched = s.sched := rfl
@[simp] theorem bumpBy_tbl (s : State) (a n : Nat) : (bumpBy s a n).tbl = s.tbl := rfl
@[simp] theorem bumpBy_cip (s : State) (a n : Nat) : (bumpBy s a n).cip = s.cip := rfl
@[simp] theorem bumpBy_crt (s : State) (a n : Nat) : (bumpBy s a n).crt = s.crt := rfl
@[simp] theorem bumpBy_mbx (s : State) (a n : Nat) : (bumpBy s a n).mbx = s.mbx := rfl
@[simp] theorem bumpBy_cus (s : State) (a n : Nat) : (bumpBy s a n).cus = s.cus := rfl
@[simp] theorem bumpBy_logs (s : State) (a n : Nat) : (bumpBy s a n).logs = s.logs := rfl
@[simp] theorem bumpBy_ports (s : State) (a n : Nat) : (bumpBy s a n).ports = s.ports := rfl
@[simp] theorem bumpBy_cbp (s : State) (a n : Nat) : (bumpBy s a n).cbp = s.cbp := rfl
@[simp] theorem bumpBy_mem (s : State) (a n : Nat) : (bumpBy s a n).mem = s.mem := rfl
@[simp] theorem bumpBy_ecc (s : State) (a n : Nat) : (bumpBy s a n).ecc = s.ecc := rfl
@[simp] theorem bumpBy_free (s : State) (a n : Nat) : (bumpBy s a n).free = s.free := rfl
@[simp] theorem bumpBy_out (s : State) (a n : Nat) : (bumpBy s a n).out = s.out := rfl

/-! `bump` -/
@[simp] theorem bump_pending (s : State) (a : Nat) : (bump s a).pending = s.pending := rfl
@[simp] theorem bump_eff (s : State) (a : Nat) : (bump s a).eff = s.eff := rfl
@[simp] theorem bump_wide (s : State) (a : Nat) : (bump s a).wide = s.wide := rfl
@[simp] theorem bump_running (s : State) (a : Nat) : (bump s a).running = s.running := rfl
@[simp] theorem bump_power (s : State) (a : Nat) : (bump s a).power = s.power := rfl
@[simp] theorem bump_time (s : State) (a : Nat) : (bump s a).time = s.time := rfl
@[simp] theorem bump_tck (s : State) (a : Nat) : (bump s a).tck = s.tck := rfl
@[simp] theorem bump_cred (s : State) (a : Nat) : (bump s a).cred = s.cred := rfl
@[simp] theorem bump_gov (s : State) (a : Nat) : (bump s a).gov = s.gov := rfl
@[simp] theorem bump_red (s : State) (a : Nat) : (bump s a).red = s.red := rfl
@[simp] theorem bump_vkeep (s : State) (a : Nat) : (bump s a).vkeep = s.vkeep := rfl
@[simp] theorem bump_alog (s : State) (a : Nat) : (bump s a).alog = s.alog := rfl
@[simp] theorem bump_evc (s : State) (a : Nat) : (bump s a).evc = s.evc := rfl
@[simp] theorem bump_board (s : State) (a : Nat) : (bump s a).board = s.board := rfl
@[simp] theorem bump_pcie (s : State) (a : Nat) : (bump s a).pcie = s.pcie := rfl
@[simp] theorem bump_queues (s : State) (a : Nat) : (bump s a).queues = s.queues := rfl
@[simp] theorem bump_pipe (s : State) (a : Nat) : (bump s a).pipe = s.pipe := rfl
@[simp] theorem bump_sched (s : State) (a : Nat) : (bump s a).sched = s.sched := rfl
@[simp] theorem bump_tbl (s : State) (a : Nat) : (bump s a).tbl = s.tbl := rfl
@[simp] theorem bump_cip (s : State) (a : Nat) : (bump s a).cip = s.cip := rfl
@[simp] theorem bump_crt (s : State) (a : Nat) : (bump s a).crt = s.crt := rfl
@[simp] theorem bump_mbx (s : State) (a : Nat) : (bump s a).mbx = s.mbx := rfl
@[simp] theorem bump_cus (s : State) (a : Nat) : (bump s a).cus = s.cus := rfl
@[simp] theorem bump_logs (s : State) (a : Nat) : (bump s a).logs = s.logs := rfl
@[simp] theorem bump_ports (s : State) (a : Nat) : (bump s a).ports = s.ports := rfl
@[simp] theorem bump_cbp (s : State) (a : Nat) : (bump s a).cbp = s.cbp := rfl
@[simp] theorem bump_mem (s : State) (a : Nat) : (bump s a).mem = s.mem := rfl
@[simp] theorem bump_ecc (s : State) (a : Nat) : (bump s a).ecc = s.ecc := rfl
@[simp] theorem bump_free (s : State) (a : Nat) : (bump s a).free = s.free := rfl
@[simp] theorem bump_out (s : State) (a : Nat) : (bump s a).out = s.out := rfl

/-! `wrWide` -/
@[simp] theorem wrWide_pending (s : State) (a n : Nat) : (wrWide s a n).pending = s.pending := rfl
@[simp] theorem wrWide_regs (s : State) (a n : Nat) : (wrWide s a n).regs = s.regs := rfl
@[simp] theorem wrWide_eff (s : State) (a n : Nat) : (wrWide s a n).eff = s.eff := rfl
@[simp] theorem wrWide_running (s : State) (a n : Nat) : (wrWide s a n).running = s.running := rfl
@[simp] theorem wrWide_power (s : State) (a n : Nat) : (wrWide s a n).power = s.power := rfl
@[simp] theorem wrWide_time (s : State) (a n : Nat) : (wrWide s a n).time = s.time := rfl
@[simp] theorem wrWide_tck (s : State) (a n : Nat) : (wrWide s a n).tck = s.tck := rfl
@[simp] theorem wrWide_cred (s : State) (a n : Nat) : (wrWide s a n).cred = s.cred := rfl
@[simp] theorem wrWide_gov (s : State) (a n : Nat) : (wrWide s a n).gov = s.gov := rfl
@[simp] theorem wrWide_red (s : State) (a n : Nat) : (wrWide s a n).red = s.red := rfl
@[simp] theorem wrWide_vkeep (s : State) (a n : Nat) : (wrWide s a n).vkeep = s.vkeep := rfl
@[simp] theorem wrWide_alog (s : State) (a n : Nat) : (wrWide s a n).alog = s.alog := rfl
@[simp] theorem wrWide_evc (s : State) (a n : Nat) : (wrWide s a n).evc = s.evc := rfl
@[simp] theorem wrWide_board (s : State) (a n : Nat) : (wrWide s a n).board = s.board := rfl
@[simp] theorem wrWide_pcie (s : State) (a n : Nat) : (wrWide s a n).pcie = s.pcie := rfl
@[simp] theorem wrWide_queues (s : State) (a n : Nat) : (wrWide s a n).queues = s.queues := rfl
@[simp] theorem wrWide_pipe (s : State) (a n : Nat) : (wrWide s a n).pipe = s.pipe := rfl
@[simp] theorem wrWide_sched (s : State) (a n : Nat) : (wrWide s a n).sched = s.sched := rfl
@[simp] theorem wrWide_tbl (s : State) (a n : Nat) : (wrWide s a n).tbl = s.tbl := rfl
@[simp] theorem wrWide_cip (s : State) (a n : Nat) : (wrWide s a n).cip = s.cip := rfl
@[simp] theorem wrWide_crt (s : State) (a n : Nat) : (wrWide s a n).crt = s.crt := rfl
@[simp] theorem wrWide_mbx (s : State) (a n : Nat) : (wrWide s a n).mbx = s.mbx := rfl
@[simp] theorem wrWide_cus (s : State) (a n : Nat) : (wrWide s a n).cus = s.cus := rfl
@[simp] theorem wrWide_logs (s : State) (a n : Nat) : (wrWide s a n).logs = s.logs := rfl
@[simp] theorem wrWide_ports (s : State) (a n : Nat) : (wrWide s a n).ports = s.ports := rfl
@[simp] theorem wrWide_cbp (s : State) (a n : Nat) : (wrWide s a n).cbp = s.cbp := rfl
@[simp] theorem wrWide_mem (s : State) (a n : Nat) : (wrWide s a n).mem = s.mem := rfl
@[simp] theorem wrWide_ecc (s : State) (a n : Nat) : (wrWide s a n).ecc = s.ecc := rfl
@[simp] theorem wrWide_free (s : State) (a n : Nat) : (wrWide s a n).free = s.free := rfl
@[simp] theorem wrWide_out (s : State) (a n : Nat) : (wrWide s a n).out = s.out := rfl

/-! `bumpWide` -/
@[simp] theorem bumpWide_pending (s : State) (a n : Nat) : (bumpWide s a n).pending = s.pending := rfl
@[simp] theorem bumpWide_regs (s : State) (a n : Nat) : (bumpWide s a n).regs = s.regs := rfl
@[simp] theorem bumpWide_eff (s : State) (a n : Nat) : (bumpWide s a n).eff = s.eff := rfl
@[simp] theorem bumpWide_running (s : State) (a n : Nat) : (bumpWide s a n).running = s.running := rfl
@[simp] theorem bumpWide_power (s : State) (a n : Nat) : (bumpWide s a n).power = s.power := rfl
@[simp] theorem bumpWide_time (s : State) (a n : Nat) : (bumpWide s a n).time = s.time := rfl
@[simp] theorem bumpWide_tck (s : State) (a n : Nat) : (bumpWide s a n).tck = s.tck := rfl
@[simp] theorem bumpWide_cred (s : State) (a n : Nat) : (bumpWide s a n).cred = s.cred := rfl
@[simp] theorem bumpWide_gov (s : State) (a n : Nat) : (bumpWide s a n).gov = s.gov := rfl
@[simp] theorem bumpWide_red (s : State) (a n : Nat) : (bumpWide s a n).red = s.red := rfl
@[simp] theorem bumpWide_vkeep (s : State) (a n : Nat) : (bumpWide s a n).vkeep = s.vkeep := rfl
@[simp] theorem bumpWide_alog (s : State) (a n : Nat) : (bumpWide s a n).alog = s.alog := rfl
@[simp] theorem bumpWide_evc (s : State) (a n : Nat) : (bumpWide s a n).evc = s.evc := rfl
@[simp] theorem bumpWide_board (s : State) (a n : Nat) : (bumpWide s a n).board = s.board := rfl
@[simp] theorem bumpWide_pcie (s : State) (a n : Nat) : (bumpWide s a n).pcie = s.pcie := rfl
@[simp] theorem bumpWide_queues (s : State) (a n : Nat) : (bumpWide s a n).queues = s.queues := rfl
@[simp] theorem bumpWide_pipe (s : State) (a n : Nat) : (bumpWide s a n).pipe = s.pipe := rfl
@[simp] theorem bumpWide_sched (s : State) (a n : Nat) : (bumpWide s a n).sched = s.sched := rfl
@[simp] theorem bumpWide_tbl (s : State) (a n : Nat) : (bumpWide s a n).tbl = s.tbl := rfl
@[simp] theorem bumpWide_cip (s : State) (a n : Nat) : (bumpWide s a n).cip = s.cip := rfl
@[simp] theorem bumpWide_crt (s : State) (a n : Nat) : (bumpWide s a n).crt = s.crt := rfl
@[simp] theorem bumpWide_mbx (s : State) (a n : Nat) : (bumpWide s a n).mbx = s.mbx := rfl
@[simp] theorem bumpWide_cus (s : State) (a n : Nat) : (bumpWide s a n).cus = s.cus := rfl
@[simp] theorem bumpWide_logs (s : State) (a n : Nat) : (bumpWide s a n).logs = s.logs := rfl
@[simp] theorem bumpWide_ports (s : State) (a n : Nat) : (bumpWide s a n).ports = s.ports := rfl
@[simp] theorem bumpWide_cbp (s : State) (a n : Nat) : (bumpWide s a n).cbp = s.cbp := rfl
@[simp] theorem bumpWide_mem (s : State) (a n : Nat) : (bumpWide s a n).mem = s.mem := rfl
@[simp] theorem bumpWide_ecc (s : State) (a n : Nat) : (bumpWide s a n).ecc = s.ecc := rfl
@[simp] theorem bumpWide_free (s : State) (a n : Nat) : (bumpWide s a n).free = s.free := rfl
@[simp] theorem bumpWide_out (s : State) (a n : Nat) : (bumpWide s a n).out = s.out := rfl

/-! `cfgWr` -/
@[simp] theorem cfgWr_pending (s : State) (f o : Nat) (w : Word) : (cfgWr s f o w).pending = s.pending := rfl
@[simp] theorem cfgWr_regs (s : State) (f o : Nat) (w : Word) : (cfgWr s f o w).regs = s.regs := rfl
@[simp] theorem cfgWr_eff (s : State) (f o : Nat) (w : Word) : (cfgWr s f o w).eff = s.eff := rfl
@[simp] theorem cfgWr_wide (s : State) (f o : Nat) (w : Word) : (cfgWr s f o w).wide = s.wide := rfl
@[simp] theorem cfgWr_running (s : State) (f o : Nat) (w : Word) : (cfgWr s f o w).running = s.running := rfl
@[simp] theorem cfgWr_power (s : State) (f o : Nat) (w : Word) : (cfgWr s f o w).power = s.power := rfl
@[simp] theorem cfgWr_time (s : State) (f o : Nat) (w : Word) : (cfgWr s f o w).time = s.time := rfl
@[simp] theorem cfgWr_tck (s : State) (f o : Nat) (w : Word) : (cfgWr s f o w).tck = s.tck := rfl
@[simp] theorem cfgWr_cred (s : State) (f o : Nat) (w : Word) : (cfgWr s f o w).cred = s.cred := rfl
@[simp] theorem cfgWr_gov (s : State) (f o : Nat) (w : Word) : (cfgWr s f o w).gov = s.gov := rfl
@[simp] theorem cfgWr_red (s : State) (f o : Nat) (w : Word) : (cfgWr s f o w).red = s.red := rfl
@[simp] theorem cfgWr_vkeep (s : State) (f o : Nat) (w : Word) : (cfgWr s f o w).vkeep = s.vkeep := rfl
@[simp] theorem cfgWr_alog (s : State) (f o : Nat) (w : Word) : (cfgWr s f o w).alog = s.alog := rfl
@[simp] theorem cfgWr_evc (s : State) (f o : Nat) (w : Word) : (cfgWr s f o w).evc = s.evc := rfl
@[simp] theorem cfgWr_board (s : State) (f o : Nat) (w : Word) : (cfgWr s f o w).board = s.board := rfl
@[simp] theorem cfgWr_queues (s : State) (f o : Nat) (w : Word) : (cfgWr s f o w).queues = s.queues := rfl
@[simp] theorem cfgWr_pipe (s : State) (f o : Nat) (w : Word) : (cfgWr s f o w).pipe = s.pipe := rfl
@[simp] theorem cfgWr_sched (s : State) (f o : Nat) (w : Word) : (cfgWr s f o w).sched = s.sched := rfl
@[simp] theorem cfgWr_tbl (s : State) (f o : Nat) (w : Word) : (cfgWr s f o w).tbl = s.tbl := rfl
@[simp] theorem cfgWr_cip (s : State) (f o : Nat) (w : Word) : (cfgWr s f o w).cip = s.cip := rfl
@[simp] theorem cfgWr_crt (s : State) (f o : Nat) (w : Word) : (cfgWr s f o w).crt = s.crt := rfl
@[simp] theorem cfgWr_mbx (s : State) (f o : Nat) (w : Word) : (cfgWr s f o w).mbx = s.mbx := rfl
@[simp] theorem cfgWr_cus (s : State) (f o : Nat) (w : Word) : (cfgWr s f o w).cus = s.cus := rfl
@[simp] theorem cfgWr_logs (s : State) (f o : Nat) (w : Word) : (cfgWr s f o w).logs = s.logs := rfl
@[simp] theorem cfgWr_ports (s : State) (f o : Nat) (w : Word) : (cfgWr s f o w).ports = s.ports := rfl
@[simp] theorem cfgWr_cbp (s : State) (f o : Nat) (w : Word) : (cfgWr s f o w).cbp = s.cbp := rfl
@[simp] theorem cfgWr_mem (s : State) (f o : Nat) (w : Word) : (cfgWr s f o w).mem = s.mem := rfl
@[simp] theorem cfgWr_ecc (s : State) (f o : Nat) (w : Word) : (cfgWr s f o w).ecc = s.ecc := rfl
@[simp] theorem cfgWr_free (s : State) (f o : Nat) (w : Word) : (cfgWr s f o w).free = s.free := rfl
@[simp] theorem cfgWr_out (s : State) (f o : Nat) (w : Word) : (cfgWr s f o w).out = s.out := rfl

/-! `devSta` -/
@[simp] theorem devSta_pending (s : State) (f bits : Nat) : (devSta s f bits).pending = s.pending := rfl
@[simp] theorem devSta_regs (s : State) (f bits : Nat) : (devSta s f bits).regs = s.regs := rfl
@[simp] theorem devSta_eff (s : State) (f bits : Nat) : (devSta s f bits).eff = s.eff := rfl
@[simp] theorem devSta_wide (s : State) (f bits : Nat) : (devSta s f bits).wide = s.wide := rfl
@[simp] theorem devSta_running (s : State) (f bits : Nat) : (devSta s f bits).running = s.running := rfl
@[simp] theorem devSta_power (s : State) (f bits : Nat) : (devSta s f bits).power = s.power := rfl
@[simp] theorem devSta_time (s : State) (f bits : Nat) : (devSta s f bits).time = s.time := rfl
@[simp] theorem devSta_tck (s : State) (f bits : Nat) : (devSta s f bits).tck = s.tck := rfl
@[simp] theorem devSta_cred (s : State) (f bits : Nat) : (devSta s f bits).cred = s.cred := rfl
@[simp] theorem devSta_gov (s : State) (f bits : Nat) : (devSta s f bits).gov = s.gov := rfl
@[simp] theorem devSta_red (s : State) (f bits : Nat) : (devSta s f bits).red = s.red := rfl
@[simp] theorem devSta_vkeep (s : State) (f bits : Nat) : (devSta s f bits).vkeep = s.vkeep := rfl
@[simp] theorem devSta_alog (s : State) (f bits : Nat) : (devSta s f bits).alog = s.alog := rfl
@[simp] theorem devSta_evc (s : State) (f bits : Nat) : (devSta s f bits).evc = s.evc := rfl
@[simp] theorem devSta_board (s : State) (f bits : Nat) : (devSta s f bits).board = s.board := rfl
@[simp] theorem devSta_queues (s : State) (f bits : Nat) : (devSta s f bits).queues = s.queues := rfl
@[simp] theorem devSta_pipe (s : State) (f bits : Nat) : (devSta s f bits).pipe = s.pipe := rfl
@[simp] theorem devSta_sched (s : State) (f bits : Nat) : (devSta s f bits).sched = s.sched := rfl
@[simp] theorem devSta_tbl (s : State) (f bits : Nat) : (devSta s f bits).tbl = s.tbl := rfl
@[simp] theorem devSta_cip (s : State) (f bits : Nat) : (devSta s f bits).cip = s.cip := rfl
@[simp] theorem devSta_crt (s : State) (f bits : Nat) : (devSta s f bits).crt = s.crt := rfl
@[simp] theorem devSta_mbx (s : State) (f bits : Nat) : (devSta s f bits).mbx = s.mbx := rfl
@[simp] theorem devSta_cus (s : State) (f bits : Nat) : (devSta s f bits).cus = s.cus := rfl
@[simp] theorem devSta_logs (s : State) (f bits : Nat) : (devSta s f bits).logs = s.logs := rfl
@[simp] theorem devSta_ports (s : State) (f bits : Nat) : (devSta s f bits).ports = s.ports := rfl
@[simp] theorem devSta_cbp (s : State) (f bits : Nat) : (devSta s f bits).cbp = s.cbp := rfl
@[simp] theorem devSta_mem (s : State) (f bits : Nat) : (devSta s f bits).mem = s.mem := rfl
@[simp] theorem devSta_ecc (s : State) (f bits : Nat) : (devSta s f bits).ecc = s.ecc := rfl
@[simp] theorem devSta_free (s : State) (f bits : Nat) : (devSta s f bits).free = s.free := rfl
@[simp] theorem devSta_out (s : State) (f bits : Nat) : (devSta s f bits).out = s.out := rfl

/-! `emit` -/
@[simp] theorem emit_pending (s : State) (o : Out) : (emit s o).pending = s.pending := rfl
@[simp] theorem emit_regs (s : State) (o : Out) : (emit s o).regs = s.regs := rfl
@[simp] theorem emit_eff (s : State) (o : Out) : (emit s o).eff = s.eff := rfl
@[simp] theorem emit_wide (s : State) (o : Out) : (emit s o).wide = s.wide := rfl
@[simp] theorem emit_running (s : State) (o : Out) : (emit s o).running = s.running := rfl
@[simp] theorem emit_power (s : State) (o : Out) : (emit s o).power = s.power := rfl
@[simp] theorem emit_time (s : State) (o : Out) : (emit s o).time = s.time := rfl
@[simp] theorem emit_tck (s : State) (o : Out) : (emit s o).tck = s.tck := rfl
@[simp] theorem emit_cred (s : State) (o : Out) : (emit s o).cred = s.cred := rfl
@[simp] theorem emit_gov (s : State) (o : Out) : (emit s o).gov = s.gov := rfl
@[simp] theorem emit_red (s : State) (o : Out) : (emit s o).red = s.red := rfl
@[simp] theorem emit_vkeep (s : State) (o : Out) : (emit s o).vkeep = s.vkeep := rfl
@[simp] theorem emit_alog (s : State) (o : Out) : (emit s o).alog = s.alog := rfl
@[simp] theorem emit_evc (s : State) (o : Out) : (emit s o).evc = s.evc := rfl
@[simp] theorem emit_board (s : State) (o : Out) : (emit s o).board = s.board := rfl
@[simp] theorem emit_pcie (s : State) (o : Out) : (emit s o).pcie = s.pcie := rfl
@[simp] theorem emit_queues (s : State) (o : Out) : (emit s o).queues = s.queues := rfl
@[simp] theorem emit_pipe (s : State) (o : Out) : (emit s o).pipe = s.pipe := rfl
@[simp] theorem emit_sched (s : State) (o : Out) : (emit s o).sched = s.sched := rfl
@[simp] theorem emit_tbl (s : State) (o : Out) : (emit s o).tbl = s.tbl := rfl
@[simp] theorem emit_cip (s : State) (o : Out) : (emit s o).cip = s.cip := rfl
@[simp] theorem emit_crt (s : State) (o : Out) : (emit s o).crt = s.crt := rfl
@[simp] theorem emit_mbx (s : State) (o : Out) : (emit s o).mbx = s.mbx := rfl
@[simp] theorem emit_cus (s : State) (o : Out) : (emit s o).cus = s.cus := rfl
@[simp] theorem emit_logs (s : State) (o : Out) : (emit s o).logs = s.logs := rfl
@[simp] theorem emit_ports (s : State) (o : Out) : (emit s o).ports = s.ports := rfl
@[simp] theorem emit_cbp (s : State) (o : Out) : (emit s o).cbp = s.cbp := rfl
@[simp] theorem emit_mem (s : State) (o : Out) : (emit s o).mem = s.mem := rfl
@[simp] theorem emit_ecc (s : State) (o : Out) : (emit s o).ecc = s.ecc := rfl
@[simp] theorem emit_free (s : State) (o : Out) : (emit s o).free = s.free := rfl

/-! `tickFree` -/
@[simp] theorem tickFree_pending (s : State) : (tickFree s).pending = s.pending := rfl
@[simp] theorem tickFree_regs (s : State) : (tickFree s).regs = s.regs := rfl
@[simp] theorem tickFree_eff (s : State) : (tickFree s).eff = s.eff := rfl
@[simp] theorem tickFree_wide (s : State) : (tickFree s).wide = s.wide := rfl
@[simp] theorem tickFree_running (s : State) : (tickFree s).running = s.running := rfl
@[simp] theorem tickFree_power (s : State) : (tickFree s).power = s.power := rfl
@[simp] theorem tickFree_time (s : State) : (tickFree s).time = s.time := rfl
@[simp] theorem tickFree_tck (s : State) : (tickFree s).tck = s.tck := rfl
@[simp] theorem tickFree_cred (s : State) : (tickFree s).cred = s.cred := rfl
@[simp] theorem tickFree_gov (s : State) : (tickFree s).gov = s.gov := rfl
@[simp] theorem tickFree_red (s : State) : (tickFree s).red = s.red := rfl
@[simp] theorem tickFree_vkeep (s : State) : (tickFree s).vkeep = s.vkeep := rfl
@[simp] theorem tickFree_alog (s : State) : (tickFree s).alog = s.alog := rfl
@[simp] theorem tickFree_evc (s : State) : (tickFree s).evc = s.evc := rfl
@[simp] theorem tickFree_board (s : State) : (tickFree s).board = s.board := rfl
@[simp] theorem tickFree_pcie (s : State) : (tickFree s).pcie = s.pcie := rfl
@[simp] theorem tickFree_queues (s : State) : (tickFree s).queues = s.queues := rfl
@[simp] theorem tickFree_pipe (s : State) : (tickFree s).pipe = s.pipe := rfl
@[simp] theorem tickFree_sched (s : State) : (tickFree s).sched = s.sched := rfl
@[simp] theorem tickFree_tbl (s : State) : (tickFree s).tbl = s.tbl := rfl
@[simp] theorem tickFree_cip (s : State) : (tickFree s).cip = s.cip := rfl
@[simp] theorem tickFree_crt (s : State) : (tickFree s).crt = s.crt := rfl
@[simp] theorem tickFree_mbx (s : State) : (tickFree s).mbx = s.mbx := rfl
@[simp] theorem tickFree_cus (s : State) : (tickFree s).cus = s.cus := rfl
@[simp] theorem tickFree_logs (s : State) : (tickFree s).logs = s.logs := rfl
@[simp] theorem tickFree_ports (s : State) : (tickFree s).ports = s.ports := rfl
@[simp] theorem tickFree_cbp (s : State) : (tickFree s).cbp = s.cbp := rfl
@[simp] theorem tickFree_mem (s : State) : (tickFree s).mem = s.mem := rfl
@[simp] theorem tickFree_ecc (s : State) : (tickFree s).ecc = s.ecc := rfl
@[simp] theorem tickFree_out (s : State) : (tickFree s).out = s.out := rfl

/-! `putSlot` -/
@[simp] theorem putSlot_pending (s : State) (k : Nat) (x : KeySlot) : (putSlot s k x).pending = s.pending := rfl
@[simp] theorem putSlot_regs (s : State) (k : Nat) (x : KeySlot) : (putSlot s k x).regs = s.regs := rfl
@[simp] theorem putSlot_eff (s : State) (k : Nat) (x : KeySlot) : (putSlot s k x).eff = s.eff := rfl
@[simp] theorem putSlot_wide (s : State) (k : Nat) (x : KeySlot) : (putSlot s k x).wide = s.wide := rfl
@[simp] theorem putSlot_running (s : State) (k : Nat) (x : KeySlot) : (putSlot s k x).running = s.running := rfl
@[simp] theorem putSlot_power (s : State) (k : Nat) (x : KeySlot) : (putSlot s k x).power = s.power := rfl
@[simp] theorem putSlot_time (s : State) (k : Nat) (x : KeySlot) : (putSlot s k x).time = s.time := rfl
@[simp] theorem putSlot_tck (s : State) (k : Nat) (x : KeySlot) : (putSlot s k x).tck = s.tck := rfl
@[simp] theorem putSlot_cred (s : State) (k : Nat) (x : KeySlot) : (putSlot s k x).cred = s.cred := rfl
@[simp] theorem putSlot_gov (s : State) (k : Nat) (x : KeySlot) : (putSlot s k x).gov = s.gov := rfl
@[simp] theorem putSlot_red (s : State) (k : Nat) (x : KeySlot) : (putSlot s k x).red = s.red := rfl
@[simp] theorem putSlot_alog (s : State) (k : Nat) (x : KeySlot) : (putSlot s k x).alog = s.alog := rfl
@[simp] theorem putSlot_evc (s : State) (k : Nat) (x : KeySlot) : (putSlot s k x).evc = s.evc := rfl
@[simp] theorem putSlot_board (s : State) (k : Nat) (x : KeySlot) : (putSlot s k x).board = s.board := rfl
@[simp] theorem putSlot_pcie (s : State) (k : Nat) (x : KeySlot) : (putSlot s k x).pcie = s.pcie := rfl
@[simp] theorem putSlot_queues (s : State) (k : Nat) (x : KeySlot) : (putSlot s k x).queues = s.queues := rfl
@[simp] theorem putSlot_pipe (s : State) (k : Nat) (x : KeySlot) : (putSlot s k x).pipe = s.pipe := rfl
@[simp] theorem putSlot_sched (s : State) (k : Nat) (x : KeySlot) : (putSlot s k x).sched = s.sched := rfl
@[simp] theorem putSlot_tbl (s : State) (k : Nat) (x : KeySlot) : (putSlot s k x).tbl = s.tbl := rfl
@[simp] theorem putSlot_cip (s : State) (k : Nat) (x : KeySlot) : (putSlot s k x).cip = s.cip := rfl
@[simp] theorem putSlot_crt (s : State) (k : Nat) (x : KeySlot) : (putSlot s k x).crt = s.crt := rfl
@[simp] theorem putSlot_mbx (s : State) (k : Nat) (x : KeySlot) : (putSlot s k x).mbx = s.mbx := rfl
@[simp] theorem putSlot_cus (s : State) (k : Nat) (x : KeySlot) : (putSlot s k x).cus = s.cus := rfl
@[simp] theorem putSlot_logs (s : State) (k : Nat) (x : KeySlot) : (putSlot s k x).logs = s.logs := rfl
@[simp] theorem putSlot_ports (s : State) (k : Nat) (x : KeySlot) : (putSlot s k x).ports = s.ports := rfl
@[simp] theorem putSlot_cbp (s : State) (k : Nat) (x : KeySlot) : (putSlot s k x).cbp = s.cbp := rfl
@[simp] theorem putSlot_mem (s : State) (k : Nat) (x : KeySlot) : (putSlot s k x).mem = s.mem := rfl
@[simp] theorem putSlot_ecc (s : State) (k : Nat) (x : KeySlot) : (putSlot s k x).ecc = s.ecc := rfl
@[simp] theorem putSlot_free (s : State) (k : Nat) (x : KeySlot) : (putSlot s k x).free = s.free := rfl
@[simp] theorem putSlot_out (s : State) (k : Nat) (x : KeySlot) : (putSlot s k x).out = s.out := rfl

/-! `eraseSlot` -/
@[simp] theorem eraseSlot_pending (s : State) (k : Nat) : (eraseSlot s k).pending = s.pending := rfl
@[simp] theorem eraseSlot_regs (s : State) (k : Nat) : (eraseSlot s k).regs = s.regs := rfl
@[simp] theorem eraseSlot_eff (s : State) (k : Nat) : (eraseSlot s k).eff = s.eff := rfl
@[simp] theorem eraseSlot_wide (s : State) (k : Nat) : (eraseSlot s k).wide = s.wide := rfl
@[simp] theorem eraseSlot_running (s : State) (k : Nat) : (eraseSlot s k).running = s.running := rfl
@[simp] theorem eraseSlot_power (s : State) (k : Nat) : (eraseSlot s k).power = s.power := rfl
@[simp] theorem eraseSlot_time (s : State) (k : Nat) : (eraseSlot s k).time = s.time := rfl
@[simp] theorem eraseSlot_tck (s : State) (k : Nat) : (eraseSlot s k).tck = s.tck := rfl
@[simp] theorem eraseSlot_cred (s : State) (k : Nat) : (eraseSlot s k).cred = s.cred := rfl
@[simp] theorem eraseSlot_gov (s : State) (k : Nat) : (eraseSlot s k).gov = s.gov := rfl
@[simp] theorem eraseSlot_red (s : State) (k : Nat) : (eraseSlot s k).red = s.red := rfl
@[simp] theorem eraseSlot_alog (s : State) (k : Nat) : (eraseSlot s k).alog = s.alog := rfl
@[simp] theorem eraseSlot_evc (s : State) (k : Nat) : (eraseSlot s k).evc = s.evc := rfl
@[simp] theorem eraseSlot_board (s : State) (k : Nat) : (eraseSlot s k).board = s.board := rfl
@[simp] theorem eraseSlot_pcie (s : State) (k : Nat) : (eraseSlot s k).pcie = s.pcie := rfl
@[simp] theorem eraseSlot_queues (s : State) (k : Nat) : (eraseSlot s k).queues = s.queues := rfl
@[simp] theorem eraseSlot_pipe (s : State) (k : Nat) : (eraseSlot s k).pipe = s.pipe := rfl
@[simp] theorem eraseSlot_sched (s : State) (k : Nat) : (eraseSlot s k).sched = s.sched := rfl
@[simp] theorem eraseSlot_tbl (s : State) (k : Nat) : (eraseSlot s k).tbl = s.tbl := rfl
@[simp] theorem eraseSlot_cip (s : State) (k : Nat) : (eraseSlot s k).cip = s.cip := rfl
@[simp] theorem eraseSlot_crt (s : State) (k : Nat) : (eraseSlot s k).crt = s.crt := rfl
@[simp] theorem eraseSlot_mbx (s : State) (k : Nat) : (eraseSlot s k).mbx = s.mbx := rfl
@[simp] theorem eraseSlot_cus (s : State) (k : Nat) : (eraseSlot s k).cus = s.cus := rfl
@[simp] theorem eraseSlot_logs (s : State) (k : Nat) : (eraseSlot s k).logs = s.logs := rfl
@[simp] theorem eraseSlot_ports (s : State) (k : Nat) : (eraseSlot s k).ports = s.ports := rfl
@[simp] theorem eraseSlot_cbp (s : State) (k : Nat) : (eraseSlot s k).cbp = s.cbp := rfl
@[simp] theorem eraseSlot_mem (s : State) (k : Nat) : (eraseSlot s k).mem = s.mem := rfl
@[simp] theorem eraseSlot_ecc (s : State) (k : Nat) : (eraseSlot s k).ecc = s.ecc := rfl
@[simp] theorem eraseSlot_free (s : State) (k : Nat) : (eraseSlot s k).free = s.free := rfl
@[simp] theorem eraseSlot_out (s : State) (k : Nat) : (eraseSlot s k).out = s.out := rfl

/-! `noteSync` -/
@[simp] theorem noteSync_pending (s : State) (page : Nat) (o : Word × Word × Word) : (noteSync s page o).pending = s.pending := rfl
@[simp] theorem noteSync_regs (s : State) (page : Nat) (o : Word × Word × Word) : (noteSync s page o).regs = s.regs := rfl
@[simp] theorem noteSync_eff (s : State) (page : Nat) (o : Word × Word × Word) : (noteSync s page o).eff = s.eff := rfl
@[simp] theorem noteSync_wide (s : State) (page : Nat) (o : Word × Word × Word) : (noteSync s page o).wide = s.wide := rfl
@[simp] theorem noteSync_running (s : State) (page : Nat) (o : Word × Word × Word) : (noteSync s page o).running = s.running := rfl
@[simp] theorem noteSync_power (s : State) (page : Nat) (o : Word × Word × Word) : (noteSync s page o).power = s.power := rfl
@[simp] theorem noteSync_time (s : State) (page : Nat) (o : Word × Word × Word) : (noteSync s page o).time = s.time := rfl
@[simp] theorem noteSync_tck (s : State) (page : Nat) (o : Word × Word × Word) : (noteSync s page o).tck = s.tck := rfl
@[simp] theorem noteSync_cred (s : State) (page : Nat) (o : Word × Word × Word) : (noteSync s page o).cred = s.cred := rfl
@[simp] theorem noteSync_gov (s : State) (page : Nat) (o : Word × Word × Word) : (noteSync s page o).gov = s.gov := rfl
@[simp] theorem noteSync_vkeep (s : State) (page : Nat) (o : Word × Word × Word) : (noteSync s page o).vkeep = s.vkeep := rfl
@[simp] theorem noteSync_alog (s : State) (page : Nat) (o : Word × Word × Word) : (noteSync s page o).alog = s.alog := rfl
@[simp] theorem noteSync_evc (s : State) (page : Nat) (o : Word × Word × Word) : (noteSync s page o).evc = s.evc := rfl
@[simp] theorem noteSync_board (s : State) (page : Nat) (o : Word × Word × Word) : (noteSync s page o).board = s.board := rfl
@[simp] theorem noteSync_pcie (s : State) (page : Nat) (o : Word × Word × Word) : (noteSync s page o).pcie = s.pcie := rfl
@[simp] theorem noteSync_queues (s : State) (page : Nat) (o : Word × Word × Word) : (noteSync s page o).queues = s.queues := rfl
@[simp] theorem noteSync_pipe (s : State) (page : Nat) (o : Word × Word × Word) : (noteSync s page o).pipe = s.pipe := rfl
@[simp] theorem noteSync_sched (s : State) (page : Nat) (o : Word × Word × Word) : (noteSync s page o).sched = s.sched := rfl
@[simp] theorem noteSync_tbl (s : State) (page : Nat) (o : Word × Word × Word) : (noteSync s page o).tbl = s.tbl := rfl
@[simp] theorem noteSync_cip (s : State) (page : Nat) (o : Word × Word × Word) : (noteSync s page o).cip = s.cip := rfl
@[simp] theorem noteSync_crt (s : State) (page : Nat) (o : Word × Word × Word) : (noteSync s page o).crt = s.crt := rfl
@[simp] theorem noteSync_mbx (s : State) (page : Nat) (o : Word × Word × Word) : (noteSync s page o).mbx = s.mbx := rfl
@[simp] theorem noteSync_cus (s : State) (page : Nat) (o : Word × Word × Word) : (noteSync s page o).cus = s.cus := rfl
@[simp] theorem noteSync_logs (s : State) (page : Nat) (o : Word × Word × Word) : (noteSync s page o).logs = s.logs := rfl
@[simp] theorem noteSync_ports (s : State) (page : Nat) (o : Word × Word × Word) : (noteSync s page o).ports = s.ports := rfl
@[simp] theorem noteSync_cbp (s : State) (page : Nat) (o : Word × Word × Word) : (noteSync s page o).cbp = s.cbp := rfl
@[simp] theorem noteSync_mem (s : State) (page : Nat) (o : Word × Word × Word) : (noteSync s page o).mem = s.mem := rfl
@[simp] theorem noteSync_ecc (s : State) (page : Nat) (o : Word × Word × Word) : (noteSync s page o).ecc = s.ecc := rfl
@[simp] theorem noteSync_free (s : State) (page : Nat) (o : Word × Word × Word) : (noteSync s page o).free = s.free := rfl
@[simp] theorem noteSync_out (s : State) (page : Nat) (o : Word × Word × Word) : (noteSync s page o).out = s.out := rfl

/-! `refuseCmd` -/
@[simp] theorem refuseCmd_pending (s : State) (page : Nat) : (refuseCmd s page).pending = s.pending := rfl
@[simp] theorem refuseCmd_eff (s : State) (page : Nat) : (refuseCmd s page).eff = s.eff := rfl
@[simp] theorem refuseCmd_wide (s : State) (page : Nat) : (refuseCmd s page).wide = s.wide := rfl
@[simp] theorem refuseCmd_running (s : State) (page : Nat) : (refuseCmd s page).running = s.running := rfl
@[simp] theorem refuseCmd_power (s : State) (page : Nat) : (refuseCmd s page).power = s.power := rfl
@[simp] theorem refuseCmd_time (s : State) (page : Nat) : (refuseCmd s page).time = s.time := rfl
@[simp] theorem refuseCmd_tck (s : State) (page : Nat) : (refuseCmd s page).tck = s.tck := rfl
@[simp] theorem refuseCmd_cred (s : State) (page : Nat) : (refuseCmd s page).cred = s.cred := rfl
@[simp] theorem refuseCmd_gov (s : State) (page : Nat) : (refuseCmd s page).gov = s.gov := rfl
@[simp] theorem refuseCmd_red (s : State) (page : Nat) : (refuseCmd s page).red = s.red := rfl
@[simp] theorem refuseCmd_vkeep (s : State) (page : Nat) : (refuseCmd s page).vkeep = s.vkeep := rfl
@[simp] theorem refuseCmd_alog (s : State) (page : Nat) : (refuseCmd s page).alog = s.alog := rfl
@[simp] theorem refuseCmd_evc (s : State) (page : Nat) : (refuseCmd s page).evc = s.evc := rfl
@[simp] theorem refuseCmd_board (s : State) (page : Nat) : (refuseCmd s page).board = s.board := rfl
@[simp] theorem refuseCmd_pcie (s : State) (page : Nat) : (refuseCmd s page).pcie = s.pcie := rfl
@[simp] theorem refuseCmd_queues (s : State) (page : Nat) : (refuseCmd s page).queues = s.queues := rfl
@[simp] theorem refuseCmd_pipe (s : State) (page : Nat) : (refuseCmd s page).pipe = s.pipe := rfl
@[simp] theorem refuseCmd_sched (s : State) (page : Nat) : (refuseCmd s page).sched = s.sched := rfl
@[simp] theorem refuseCmd_tbl (s : State) (page : Nat) : (refuseCmd s page).tbl = s.tbl := rfl
@[simp] theorem refuseCmd_cip (s : State) (page : Nat) : (refuseCmd s page).cip = s.cip := rfl
@[simp] theorem refuseCmd_crt (s : State) (page : Nat) : (refuseCmd s page).crt = s.crt := rfl
@[simp] theorem refuseCmd_mbx (s : State) (page : Nat) : (refuseCmd s page).mbx = s.mbx := rfl
@[simp] theorem refuseCmd_cus (s : State) (page : Nat) : (refuseCmd s page).cus = s.cus := rfl
@[simp] theorem refuseCmd_logs (s : State) (page : Nat) : (refuseCmd s page).logs = s.logs := rfl
@[simp] theorem refuseCmd_ports (s : State) (page : Nat) : (refuseCmd s page).ports = s.ports := rfl
@[simp] theorem refuseCmd_cbp (s : State) (page : Nat) : (refuseCmd s page).cbp = s.cbp := rfl
@[simp] theorem refuseCmd_mem (s : State) (page : Nat) : (refuseCmd s page).mem = s.mem := rfl
@[simp] theorem refuseCmd_ecc (s : State) (page : Nat) : (refuseCmd s page).ecc = s.ecc := rfl
@[simp] theorem refuseCmd_free (s : State) (page : Nat) : (refuseCmd s page).free = s.free := rfl
@[simp] theorem refuseCmd_out (s : State) (page : Nat) : (refuseCmd s page).out = s.out := rfl

/-! `logAlarm` -/
@[simp] theorem logAlarm_pending (s : State) (src : Nat) (c : Bool) : (logAlarm s src c).pending = s.pending := rfl
@[simp] theorem logAlarm_regs (s : State) (src : Nat) (c : Bool) : (logAlarm s src c).regs = s.regs := rfl
@[simp] theorem logAlarm_eff (s : State) (src : Nat) (c : Bool) : (logAlarm s src c).eff = s.eff := rfl
@[simp] theorem logAlarm_wide (s : State) (src : Nat) (c : Bool) : (logAlarm s src c).wide = s.wide := rfl
@[simp] theorem logAlarm_running (s : State) (src : Nat) (c : Bool) : (logAlarm s src c).running = s.running := rfl
@[simp] theorem logAlarm_power (s : State) (src : Nat) (c : Bool) : (logAlarm s src c).power = s.power := rfl
@[simp] theorem logAlarm_time (s : State) (src : Nat) (c : Bool) : (logAlarm s src c).time = s.time := rfl
@[simp] theorem logAlarm_tck (s : State) (src : Nat) (c : Bool) : (logAlarm s src c).tck = s.tck := rfl
@[simp] theorem logAlarm_cred (s : State) (src : Nat) (c : Bool) : (logAlarm s src c).cred = s.cred := rfl
@[simp] theorem logAlarm_gov (s : State) (src : Nat) (c : Bool) : (logAlarm s src c).gov = s.gov := rfl
@[simp] theorem logAlarm_red (s : State) (src : Nat) (c : Bool) : (logAlarm s src c).red = s.red := rfl
@[simp] theorem logAlarm_vkeep (s : State) (src : Nat) (c : Bool) : (logAlarm s src c).vkeep = s.vkeep := rfl
@[simp] theorem logAlarm_evc (s : State) (src : Nat) (c : Bool) : (logAlarm s src c).evc = s.evc := rfl
@[simp] theorem logAlarm_board (s : State) (src : Nat) (c : Bool) : (logAlarm s src c).board = s.board := rfl
@[simp] theorem logAlarm_pcie (s : State) (src : Nat) (c : Bool) : (logAlarm s src c).pcie = s.pcie := rfl
@[simp] theorem logAlarm_queues (s : State) (src : Nat) (c : Bool) : (logAlarm s src c).queues = s.queues := rfl
@[simp] theorem logAlarm_pipe (s : State) (src : Nat) (c : Bool) : (logAlarm s src c).pipe = s.pipe := rfl
@[simp] theorem logAlarm_sched (s : State) (src : Nat) (c : Bool) : (logAlarm s src c).sched = s.sched := rfl
@[simp] theorem logAlarm_tbl (s : State) (src : Nat) (c : Bool) : (logAlarm s src c).tbl = s.tbl := rfl
@[simp] theorem logAlarm_cip (s : State) (src : Nat) (c : Bool) : (logAlarm s src c).cip = s.cip := rfl
@[simp] theorem logAlarm_crt (s : State) (src : Nat) (c : Bool) : (logAlarm s src c).crt = s.crt := rfl
@[simp] theorem logAlarm_mbx (s : State) (src : Nat) (c : Bool) : (logAlarm s src c).mbx = s.mbx := rfl
@[simp] theorem logAlarm_cus (s : State) (src : Nat) (c : Bool) : (logAlarm s src c).cus = s.cus := rfl
@[simp] theorem logAlarm_logs (s : State) (src : Nat) (c : Bool) : (logAlarm s src c).logs = s.logs := rfl
@[simp] theorem logAlarm_ports (s : State) (src : Nat) (c : Bool) : (logAlarm s src c).ports = s.ports := rfl
@[simp] theorem logAlarm_cbp (s : State) (src : Nat) (c : Bool) : (logAlarm s src c).cbp = s.cbp := rfl
@[simp] theorem logAlarm_mem (s : State) (src : Nat) (c : Bool) : (logAlarm s src c).mem = s.mem := rfl
@[simp] theorem logAlarm_ecc (s : State) (src : Nat) (c : Bool) : (logAlarm s src c).ecc = s.ecc := rfl
@[simp] theorem logAlarm_free (s : State) (src : Nat) (c : Bool) : (logAlarm s src c).free = s.free := rfl
@[simp] theorem logAlarm_out (s : State) (src : Nat) (c : Bool) : (logAlarm s src c).out = s.out := rfl

/-! `useCredits` -/
@[simp] theorem useCredits_pending (s : State) (k n b : Nat) : (useCredits s k n b).pending = s.pending := rfl
@[simp] theorem useCredits_regs (s : State) (k n b : Nat) : (useCredits s k n b).regs = s.regs := rfl
@[simp] theorem useCredits_eff (s : State) (k n b : Nat) : (useCredits s k n b).eff = s.eff := rfl
@[simp] theorem useCredits_wide (s : State) (k n b : Nat) : (useCredits s k n b).wide = s.wide := rfl
@[simp] theorem useCredits_running (s : State) (k n b : Nat) : (useCredits s k n b).running = s.running := rfl
@[simp] theorem useCredits_power (s : State) (k n b : Nat) : (useCredits s k n b).power = s.power := rfl
@[simp] theorem useCredits_time (s : State) (k n b : Nat) : (useCredits s k n b).time = s.time := rfl
@[simp] theorem useCredits_tck (s : State) (k n b : Nat) : (useCredits s k n b).tck = s.tck := rfl
@[simp] theorem useCredits_red (s : State) (k n b : Nat) : (useCredits s k n b).red = s.red := rfl
@[simp] theorem useCredits_vkeep (s : State) (k n b : Nat) : (useCredits s k n b).vkeep = s.vkeep := rfl
@[simp] theorem useCredits_alog (s : State) (k n b : Nat) : (useCredits s k n b).alog = s.alog := rfl
@[simp] theorem useCredits_evc (s : State) (k n b : Nat) : (useCredits s k n b).evc = s.evc := rfl
@[simp] theorem useCredits_board (s : State) (k n b : Nat) : (useCredits s k n b).board = s.board := rfl
@[simp] theorem useCredits_pcie (s : State) (k n b : Nat) : (useCredits s k n b).pcie = s.pcie := rfl
@[simp] theorem useCredits_queues (s : State) (k n b : Nat) : (useCredits s k n b).queues = s.queues := rfl
@[simp] theorem useCredits_pipe (s : State) (k n b : Nat) : (useCredits s k n b).pipe = s.pipe := rfl
@[simp] theorem useCredits_sched (s : State) (k n b : Nat) : (useCredits s k n b).sched = s.sched := rfl
@[simp] theorem useCredits_tbl (s : State) (k n b : Nat) : (useCredits s k n b).tbl = s.tbl := rfl
@[simp] theorem useCredits_cip (s : State) (k n b : Nat) : (useCredits s k n b).cip = s.cip := rfl
@[simp] theorem useCredits_crt (s : State) (k n b : Nat) : (useCredits s k n b).crt = s.crt := rfl
@[simp] theorem useCredits_mbx (s : State) (k n b : Nat) : (useCredits s k n b).mbx = s.mbx := rfl
@[simp] theorem useCredits_cus (s : State) (k n b : Nat) : (useCredits s k n b).cus = s.cus := rfl
@[simp] theorem useCredits_logs (s : State) (k n b : Nat) : (useCredits s k n b).logs = s.logs := rfl
@[simp] theorem useCredits_ports (s : State) (k n b : Nat) : (useCredits s k n b).ports = s.ports := rfl
@[simp] theorem useCredits_cbp (s : State) (k n b : Nat) : (useCredits s k n b).cbp = s.cbp := rfl
@[simp] theorem useCredits_mem (s : State) (k n b : Nat) : (useCredits s k n b).mem = s.mem := rfl
@[simp] theorem useCredits_ecc (s : State) (k n b : Nat) : (useCredits s k n b).ecc = s.ecc := rfl
@[simp] theorem useCredits_free (s : State) (k n b : Nat) : (useCredits s k n b).free = s.free := rfl
@[simp] theorem useCredits_out (s : State) (k n b : Nat) : (useCredits s k n b).out = s.out := rfl

end Sys2Proof.Machine
end

