-- ==== Sys2Proof/Laws/Frames.lean ====
section
/-! SUPPORT. What each shared operation leaves alone: one lemma per field per operation. -/
namespace Sys2Proof.Machine

/-! `wrMany` -/
@[simp] theorem wrMany_pending (s : State) (a : Nat) (l : List Word) : (wrMany s a l).pending = s.pending := by
  induction l generalizing s a with
  | nil => rfl
  | cons w l ih => exact ih _ _
@[simp] theorem wrMany_eff (s : State) (a : Nat) (l : List Word) : (wrMany s a l).eff = s.eff := by
  induction l generalizing s a with
  | nil => rfl
  | cons w l ih => exact ih _ _
@[simp] theorem wrMany_wide (s : State) (a : Nat) (l : List Word) : (wrMany s a l).wide = s.wide := by
  induction l generalizing s a with
  | nil => rfl
  | cons w l ih => exact ih _ _
@[simp] theorem wrMany_running (s : State) (a : Nat) (l : List Word) : (wrMany s a l).running = s.running := by
  induction l generalizing s a with
  | nil => rfl
  | cons w l ih => exact ih _ _
@[simp] theorem wrMany_power (s : State) (a : Nat) (l : List Word) : (wrMany s a l).power = s.power := by
  induction l generalizing s a with
  | nil => rfl
  | cons w l ih => exact ih _ _
@[simp] theorem wrMany_time (s : State) (a : Nat) (l : List Word) : (wrMany s a l).time = s.time := by
  induction l generalizing s a with
  | nil => rfl
  | cons w l ih => exact ih _ _
@[simp] theorem wrMany_tck (s : State) (a : Nat) (l : List Word) : (wrMany s a l).tck = s.tck := by
  induction l generalizing s a with
  | nil => rfl
  | cons w l ih => exact ih _ _
@[simp] theorem wrMany_cred (s : State) (a : Nat) (l : List Word) : (wrMany s a l).cred = s.cred := by
  induction l generalizing s a with
  | nil => rfl
  | cons w l ih => exact ih _ _
@[simp] theorem wrMany_gov (s : State) (a : Nat) (l : List Word) : (wrMany s a l).gov = s.gov := by
  induction l generalizing s a with
  | nil => rfl
  | cons w l ih => exact ih _ _
@[simp] theorem wrMany_red (s : State) (a : Nat) (l : List Word) : (wrMany s a l).red = s.red := by
  induction l generalizing s a with
  | nil => rfl
  | cons w l ih => exact ih _ _
@[simp] theorem wrMany_vkeep (s : State) (a : Nat) (l : List Word) : (wrMany s a l).vkeep = s.vkeep := by
  induction l generalizing s a with
  | nil => rfl
  | cons w l ih => exact ih _ _
@[simp] theorem wrMany_alog (s : State) (a : Nat) (l : List Word) : (wrMany s a l).alog = s.alog := by
  induction l generalizing s a with
  | nil => rfl
  | cons w l ih => exact ih _ _
@[simp] theorem wrMany_evc (s : State) (a : Nat) (l : List Word) : (wrMany s a l).evc = s.evc := by
  induction l generalizing s a with
  | nil => rfl
  | cons w l ih => exact ih _ _
@[simp] theorem wrMany_board (s : State) (a : Nat) (l : List Word) : (wrMany s a l).board = s.board := by
  induction l generalizing s a with
  | nil => rfl
  | cons w l ih => exact ih _ _
@[simp] theorem wrMany_pcie (s : State) (a : Nat) (l : List Word) : (wrMany s a l).pcie = s.pcie := by
  induction l generalizing s a with
  | nil => rfl
  | cons w l ih => exact ih _ _
@[simp] theorem wrMany_queues (s : State) (a : Nat) (l : List Word) : (wrMany s a l).queues = s.queues := by
  induction l generalizing s a with
  | nil => rfl
  | cons w l ih => exact ih _ _
@[simp] theorem wrMany_pipe (s : State) (a : Nat) (l : List Word) : (wrMany s a l).pipe = s.pipe := by
  induction l generalizing s a with
  | nil => rfl
  | cons w l ih => exact ih _ _
@[simp] theorem wrMany_sched (s : State) (a : Nat) (l : List Word) : (wrMany s a l).sched = s.sched := by
  induction l generalizing s a with
  | nil => rfl
  | cons w l ih => exact ih _ _
@[simp] theorem wrMany_tbl (s : State) (a : Nat) (l : List Word) : (wrMany s a l).tbl = s.tbl := by
  induction l generalizing s a with
  | nil => rfl
  | cons w l ih => exact ih _ _
@[simp] theorem wrMany_cip (s : State) (a : Nat) (l : List Word) : (wrMany s a l).cip = s.cip := by
  induction l generalizing s a with
  | nil => rfl
  | cons w l ih => exact ih _ _
@[simp] theorem wrMany_crt (s : State) (a : Nat) (l : List Word) : (wrMany s a l).crt = s.crt := by
  induction l generalizing s a with
  | nil => rfl
  | cons w l ih => exact ih _ _
@[simp] theorem wrMany_mbx (s : State) (a : Nat) (l : List Word) : (wrMany s a l).mbx = s.mbx := by
  induction l generalizing s a with
  | nil => rfl
  | cons w l ih => exact ih _ _
@[simp] theorem wrMany_cus (s : State) (a : Nat) (l : List Word) : (wrMany s a l).cus = s.cus := by
  induction l generalizing s a with
  | nil => rfl
  | cons w l ih => exact ih _ _
@[simp] theorem wrMany_logs (s : State) (a : Nat) (l : List Word) : (wrMany s a l).logs = s.logs := by
  induction l generalizing s a with
  | nil => rfl
  | cons w l ih => exact ih _ _
@[simp] theorem wrMany_ports (s : State) (a : Nat) (l : List Word) : (wrMany s a l).ports = s.ports := by
  induction l generalizing s a with
  | nil => rfl
  | cons w l ih => exact ih _ _
@[simp] theorem wrMany_cbp (s : State) (a : Nat) (l : List Word) : (wrMany s a l).cbp = s.cbp := by
  induction l generalizing s a with
  | nil => rfl
  | cons w l ih => exact ih _ _
@[simp] theorem wrMany_mem (s : State) (a : Nat) (l : List Word) : (wrMany s a l).mem = s.mem := by
  induction l generalizing s a with
  | nil => rfl
  | cons w l ih => exact ih _ _
@[simp] theorem wrMany_ecc (s : State) (a : Nat) (l : List Word) : (wrMany s a l).ecc = s.ecc := by
  induction l generalizing s a with
  | nil => rfl
  | cons w l ih => exact ih _ _
@[simp] theorem wrMany_free (s : State) (a : Nat) (l : List Word) : (wrMany s a l).free = s.free := by
  induction l generalizing s a with
  | nil => rfl
  | cons w l ih => exact ih _ _
@[simp] theorem wrMany_out (s : State) (a : Nat) (l : List Word) : (wrMany s a l).out = s.out := by
  induction l generalizing s a with
  | nil => rfl
  | cons w l ih => exact ih _ _

/-! `setSlice` -/
@[simp] theorem setSlice_pending (s : State) (sl : SliceId) (x : SliceRed) : (s.setSlice sl x).pending = s.pending := by cases sl <;> rfl
@[simp] theorem setSlice_regs (s : State) (sl : SliceId) (x : SliceRed) : (s.setSlice sl x).regs = s.regs := by cases sl <;> rfl
@[simp] theorem setSlice_eff (s : State) (sl : SliceId) (x : SliceRed) : (s.setSlice sl x).eff = s.eff := by cases sl <;> rfl
@[simp] theorem setSlice_wide (s : State) (sl : SliceId) (x : SliceRed) : (s.setSlice sl x).wide = s.wide := by cases sl <;> rfl
@[simp] theorem setSlice_running (s : State) (sl : SliceId) (x : SliceRed) : (s.setSlice sl x).running = s.running := by cases sl <;> rfl
@[simp] theorem setSlice_power (s : State) (sl : SliceId) (x : SliceRed) : (s.setSlice sl x).power = s.power := by cases sl <;> rfl
@[simp] theorem setSlice_time (s : State) (sl : SliceId) (x : SliceRed) : (s.setSlice sl x).time = s.time := by cases sl <;> rfl
@[simp] theorem setSlice_tck (s : State) (sl : SliceId) (x : SliceRed) : (s.setSlice sl x).tck = s.tck := by cases sl <;> rfl
@[simp] theorem setSlice_cred (s : State) (sl : SliceId) (x : SliceRed) : (s.setSlice sl x).cred = s.cred := by cases sl <;> rfl
@[simp] theorem setSlice_gov (s : State) (sl : SliceId) (x : SliceRed) : (s.setSlice sl x).gov = s.gov := by cases sl <;> rfl
@[simp] theorem setSlice_vkeep (s : State) (sl : SliceId) (x : SliceRed) : (s.setSlice sl x).vkeep = s.vkeep := by cases sl <;> rfl
@[simp] theorem setSlice_alog (s : State) (sl : SliceId) (x : SliceRed) : (s.setSlice sl x).alog = s.alog := by cases sl <;> rfl
@[simp] theorem setSlice_evc (s : State) (sl : SliceId) (x : SliceRed) : (s.setSlice sl x).evc = s.evc := by cases sl <;> rfl
@[simp] theorem setSlice_board (s : State) (sl : SliceId) (x : SliceRed) : (s.setSlice sl x).board = s.board := by cases sl <;> rfl
@[simp] theorem setSlice_pcie (s : State) (sl : SliceId) (x : SliceRed) : (s.setSlice sl x).pcie = s.pcie := by cases sl <;> rfl
@[simp] theorem setSlice_queues (s : State) (sl : SliceId) (x : SliceRed) : (s.setSlice sl x).queues = s.queues := by cases sl <;> rfl
@[simp] theorem setSlice_pipe (s : State) (sl : SliceId) (x : SliceRed) : (s.setSlice sl x).pipe = s.pipe := by cases sl <;> rfl
@[simp] theorem setSlice_sched (s : State) (sl : SliceId) (x : SliceRed) : (s.setSlice sl x).sched = s.sched := by cases sl <;> rfl
@[simp] theorem setSlice_tbl (s : State) (sl : SliceId) (x : SliceRed) : (s.setSlice sl x).tbl = s.tbl := by cases sl <;> rfl
@[simp] theorem setSlice_cip (s : State) (sl : SliceId) (x : SliceRed) : (s.setSlice sl x).cip = s.cip := by cases sl <;> rfl
@[simp] theorem setSlice_crt (s : State) (sl : SliceId) (x : SliceRed) : (s.setSlice sl x).crt = s.crt := by cases sl <;> rfl
@[simp] theorem setSlice_mbx (s : State) (sl : SliceId) (x : SliceRed) : (s.setSlice sl x).mbx = s.mbx := by cases sl <;> rfl
@[simp] theorem setSlice_cus (s : State) (sl : SliceId) (x : SliceRed) : (s.setSlice sl x).cus = s.cus := by cases sl <;> rfl
@[simp] theorem setSlice_logs (s : State) (sl : SliceId) (x : SliceRed) : (s.setSlice sl x).logs = s.logs := by cases sl <;> rfl
@[simp] theorem setSlice_ports (s : State) (sl : SliceId) (x : SliceRed) : (s.setSlice sl x).ports = s.ports := by cases sl <;> rfl
@[simp] theorem setSlice_cbp (s : State) (sl : SliceId) (x : SliceRed) : (s.setSlice sl x).cbp = s.cbp := by cases sl <;> rfl
@[simp] theorem setSlice_mem (s : State) (sl : SliceId) (x : SliceRed) : (s.setSlice sl x).mem = s.mem := by cases sl <;> rfl
@[simp] theorem setSlice_ecc (s : State) (sl : SliceId) (x : SliceRed) : (s.setSlice sl x).ecc = s.ecc := by cases sl <;> rfl
@[simp] theorem setSlice_free (s : State) (sl : SliceId) (x : SliceRed) : (s.setSlice sl x).free = s.free := by cases sl <;> rfl
@[simp] theorem setSlice_out (s : State) (sl : SliceId) (x : SliceRed) : (s.setSlice sl x).out = s.out := by cases sl <;> rfl

/-! `setPba` -/
@[simp] theorem setPba_pending (s : State) (f v : Nat) : (setPba s f v).pending = s.pending := by unfold setPba; split <;> rfl
@[simp] theorem setPba_regs (s : State) (f v : Nat) : (setPba s f v).regs = s.regs := by unfold setPba; split <;> rfl
@[simp] theorem setPba_eff (s : State) (f v : Nat) : (setPba s f v).eff = s.eff := by unfold setPba; split <;> rfl
@[simp] theorem setPba_wide (s : State) (f v : Nat) : (setPba s f v).wide = s.wide := by unfold setPba; split <;> rfl
@[simp] theorem setPba_running (s : State) (f v : Nat) : (setPba s f v).running = s.running := by unfold setPba; split <;> rfl
@[simp] theorem setPba_power (s : State) (f v : Nat) : (setPba s f v).power = s.power := by unfold setPba; split <;> rfl
@[simp] theorem setPba_time (s : State) (f v : Nat) : (setPba s f v).time = s.time := by unfold setPba; split <;> rfl
@[simp] theorem setPba_tck (s : State) (f v : Nat) : (setPba s f v).tck = s.tck := by unfold setPba; split <;> rfl
@[simp] theorem setPba_cred (s : State) (f v : Nat) : (setPba s f v).cred = s.cred := by unfold setPba; split <;> rfl
@[simp] theorem setPba_gov (s : State) (f v : Nat) : (setPba s f v).gov = s.gov := by unfold setPba; split <;> rfl
@[simp] theorem setPba_red (s : State) (f v : Nat) : (setPba s f v).red = s.red := by unfold setPba; split <;> rfl
@[simp] theorem setPba_vkeep (s : State) (f v : Nat) : (setPba s f v).vkeep = s.vkeep := by unfold setPba; split <;> rfl
@[simp] theorem setPba_alog (s : State) (f v : Nat) : (setPba s f v).alog = s.alog := by unfold setPba; split <;> rfl
@[simp] theorem setPba_evc (s : State) (f v : Nat) : (setPba s f v).evc = s.evc := by unfold setPba; split <;> rfl
@[simp] theorem setPba_board (s : State) (f v : Nat) : (setPba s f v).board = s.board := by unfold setPba; split <;> rfl
@[simp] theorem setPba_queues (s : State) (f v : Nat) : (setPba s f v).queues = s.queues := by unfold setPba; split <;> rfl
@[simp] theorem setPba_pipe (s : State) (f v : Nat) : (setPba s f v).pipe = s.pipe := by unfold setPba; split <;> rfl
@[simp] theorem setPba_sched (s : State) (f v : Nat) : (setPba s f v).sched = s.sched := by unfold setPba; split <;> rfl
@[simp] theorem setPba_tbl (s : State) (f v : Nat) : (setPba s f v).tbl = s.tbl := by unfold setPba; split <;> rfl
@[simp] theorem setPba_cip (s : State) (f v : Nat) : (setPba s f v).cip = s.cip := by unfold setPba; split <;> rfl
@[simp] theorem setPba_crt (s : State) (f v : Nat) : (setPba s f v).crt = s.crt := by unfold setPba; split <;> rfl
@[simp] theorem setPba_mbx (s : State) (f v : Nat) : (setPba s f v).mbx = s.mbx := by unfold setPba; split <;> rfl
@[simp] theorem setPba_cus (s : State) (f v : Nat) : (setPba s f v).cus = s.cus := by unfold setPba; split <;> rfl
@[simp] theorem setPba_logs (s : State) (f v : Nat) : (setPba s f v).logs = s.logs := by unfold setPba; split <;> rfl
@[simp] theorem setPba_ports (s : State) (f v : Nat) : (setPba s f v).ports = s.ports := by unfold setPba; split <;> rfl
@[simp] theorem setPba_cbp (s : State) (f v : Nat) : (setPba s f v).cbp = s.cbp := by unfold setPba; split <;> rfl
@[simp] theorem setPba_mem (s : State) (f v : Nat) : (setPba s f v).mem = s.mem := by unfold setPba; split <;> rfl
@[simp] theorem setPba_ecc (s : State) (f v : Nat) : (setPba s f v).ecc = s.ecc := by unfold setPba; split <;> rfl
@[simp] theorem setPba_free (s : State) (f v : Nat) : (setPba s f v).free = s.free := by unfold setPba; split <;> rfl
@[simp] theorem setPba_out (s : State) (f v : Nat) : (setPba s f v).out = s.out := by unfold setPba; split <;> rfl

/-! `pmeEvent` -/
@[simp] theorem pmeEvent_pending (s : State) (f : Nat) : (pmeEvent s f).pending = s.pending := by unfold pmeEvent; split <;> rfl
@[simp] theorem pmeEvent_eff (s : State) (f : Nat) : (pmeEvent s f).eff = s.eff := by unfold pmeEvent; split <;> rfl
@[simp] theorem pmeEvent_wide (s : State) (f : Nat) : (pmeEvent s f).wide = s.wide := by unfold pmeEvent; split <;> rfl
@[simp] theorem pmeEvent_running (s : State) (f : Nat) : (pmeEvent s f).running = s.running := by unfold pmeEvent; split <;> rfl
@[simp] theorem pmeEvent_power (s : State) (f : Nat) : (pmeEvent s f).power = s.power := by unfold pmeEvent; split <;> rfl
@[simp] theorem pmeEvent_time (s : State) (f : Nat) : (pmeEvent s f).time = s.time := by unfold pmeEvent; split <;> rfl
@[simp] theorem pmeEvent_tck (s : State) (f : Nat) : (pmeEvent s f).tck = s.tck := by unfold pmeEvent; split <;> rfl
@[simp] theorem pmeEvent_cred (s : State) (f : Nat) : (pmeEvent s f).cred = s.cred := by unfold pmeEvent; split <;> rfl
@[simp] theorem pmeEvent_gov (s : State) (f : Nat) : (pmeEvent s f).gov = s.gov := by unfold pmeEvent; split <;> rfl
@[simp] theorem pmeEvent_red (s : State) (f : Nat) : (pmeEvent s f).red = s.red := by unfold pmeEvent; split <;> rfl
@[simp] theorem pmeEvent_vkeep (s : State) (f : Nat) : (pmeEvent s f).vkeep = s.vkeep := by unfold pmeEvent; split <;> rfl
@[simp] theorem pmeEvent_alog (s : State) (f : Nat) : (pmeEvent s f).alog = s.alog := by unfold pmeEvent; split <;> rfl
@[simp] theorem pmeEvent_evc (s : State) (f : Nat) : (pmeEvent s f).evc = s.evc := by unfold pmeEvent; split <;> rfl
@[simp] theorem pmeEvent_board (s : State) (f : Nat) : (pmeEvent s f).board = s.board := by unfold pmeEvent; split <;> rfl
@[simp] theorem pmeEvent_queues (s : State) (f : Nat) : (pmeEvent s f).queues = s.queues := by unfold pmeEvent; split <;> rfl
@[simp] theorem pmeEvent_pipe (s : State) (f : Nat) : (pmeEvent s f).pipe = s.pipe := by unfold pmeEvent; split <;> rfl
@[simp] theorem pmeEvent_sched (s : State) (f : Nat) : (pmeEvent s f).sched = s.sched := by unfold pmeEvent; split <;> rfl
@[simp] theorem pmeEvent_tbl (s : State) (f : Nat) : (pmeEvent s f).tbl = s.tbl := by unfold pmeEvent; split <;> rfl
@[simp] theorem pmeEvent_cip (s : State) (f : Nat) : (pmeEvent s f).cip = s.cip := by unfold pmeEvent; split <;> rfl
@[simp] theorem pmeEvent_crt (s : State) (f : Nat) : (pmeEvent s f).crt = s.crt := by unfold pmeEvent; split <;> rfl
@[simp] theorem pmeEvent_mbx (s : State) (f : Nat) : (pmeEvent s f).mbx = s.mbx := by unfold pmeEvent; split <;> rfl
@[simp] theorem pmeEvent_cus (s : State) (f : Nat) : (pmeEvent s f).cus = s.cus := by unfold pmeEvent; split <;> rfl
@[simp] theorem pmeEvent_logs (s : State) (f : Nat) : (pmeEvent s f).logs = s.logs := by unfold pmeEvent; split <;> rfl
@[simp] theorem pmeEvent_ports (s : State) (f : Nat) : (pmeEvent s f).ports = s.ports := by unfold pmeEvent; split <;> rfl
@[simp] theorem pmeEvent_cbp (s : State) (f : Nat) : (pmeEvent s f).cbp = s.cbp := by unfold pmeEvent; split <;> rfl
@[simp] theorem pmeEvent_mem (s : State) (f : Nat) : (pmeEvent s f).mem = s.mem := by unfold pmeEvent; split <;> rfl
@[simp] theorem pmeEvent_ecc (s : State) (f : Nat) : (pmeEvent s f).ecc = s.ecc := by unfold pmeEvent; split <;> rfl
@[simp] theorem pmeEvent_free (s : State) (f : Nat) : (pmeEvent s f).free = s.free := by unfold pmeEvent; split <;> rfl

/-! `fireVector` -/
@[simp] theorem fireVector_pending (s : State) (f v : Nat) : (fireVector s f v).pending = s.pending := by unfold fireVector; split <;> (try split) <;> simp
@[simp] theorem fireVector_eff (s : State) (f v : Nat) : (fireVector s f v).eff = s.eff := by unfold fireVector; split <;> (try split) <;> simp
@[simp] theorem fireVector_wide (s : State) (f v : Nat) : (fireVector s f v).wide = s.wide := by unfold fireVector; split <;> (try split) <;> simp
@[simp] theorem fireVector_running (s : State) (f v : Nat) : (fireVector s f v).running = s.running := by unfold fireVector; split <;> (try split) <;> simp
@[simp] theorem fireVector_power (s : State) (f v : Nat) : (fireVector s f v).power = s.power := by unfold fireVector; split <;> (try split) <;> simp
@[simp] theorem fireVector_time (s : State) (f v : Nat) : (fireVector s f v).time = s.time := by unfold fireVector; split <;> (try split) <;> simp
@[simp] theorem fireVector_tck (s : State) (f v : Nat) : (fireVector s f v).tck = s.tck := by unfold fireVector; split <;> (try split) <;> simp
@[simp] theorem fireVector_cred (s : State) (f v : Nat) : (fireVector s f v).cred = s.cred := by unfold fireVector; split <;> (try split) <;> simp
@[simp] theorem fireVector_gov (s : State) (f v : Nat) : (fireVector s f v).gov = s.gov := by unfold fireVector; split <;> (try split) <;> simp
@[simp] theorem fireVector_red (s : State) (f v : Nat) : (fireVector s f v).red = s.red := by unfold fireVector; split <;> (try split) <;> simp
@[simp] theorem fireVector_vkeep (s : State) (f v : Nat) : (fireVector s f v).vkeep = s.vkeep := by unfold fireVector; split <;> (try split) <;> simp
@[simp] theorem fireVector_alog (s : State) (f v : Nat) : (fireVector s f v).alog = s.alog := by unfold fireVector; split <;> (try split) <;> simp
@[simp] theorem fireVector_evc (s : State) (f v : Nat) : (fireVector s f v).evc = s.evc := by unfold fireVector; split <;> (try split) <;> simp
@[simp] theorem fireVector_board (s : State) (f v : Nat) : (fireVector s f v).board = s.board := by unfold fireVector; split <;> (try split) <;> simp
@[simp] theorem fireVector_queues (s : State) (f v : Nat) : (fireVector s f v).queues = s.queues := by unfold fireVector; split <;> (try split) <;> simp
@[simp] theorem fireVector_pipe (s : State) (f v : Nat) : (fireVector s f v).pipe = s.pipe := by unfold fireVector; split <;> (try split) <;> simp
@[simp] theorem fireVector_sched (s : State) (f v : Nat) : (fireVector s f v).sched = s.sched := by unfold fireVector; split <;> (try split) <;> simp
@[simp] theorem fireVector_tbl (s : State) (f v : Nat) : (fireVector s f v).tbl = s.tbl := by unfold fireVector; split <;> (try split) <;> simp
@[simp] theorem fireVector_cip (s : State) (f v : Nat) : (fireVector s f v).cip = s.cip := by unfold fireVector; split <;> (try split) <;> simp
@[simp] theorem fireVector_crt (s : State) (f v : Nat) : (fireVector s f v).crt = s.crt := by unfold fireVector; split <;> (try split) <;> simp
@[simp] theorem fireVector_mbx (s : State) (f v : Nat) : (fireVector s f v).mbx = s.mbx := by unfold fireVector; split <;> (try split) <;> simp
@[simp] theorem fireVector_cus (s : State) (f v : Nat) : (fireVector s f v).cus = s.cus := by unfold fireVector; split <;> (try split) <;> simp
@[simp] theorem fireVector_logs (s : State) (f v : Nat) : (fireVector s f v).logs = s.logs := by unfold fireVector; split <;> (try split) <;> simp
@[simp] theorem fireVector_ports (s : State) (f v : Nat) : (fireVector s f v).ports = s.ports := by unfold fireVector; split <;> (try split) <;> simp
@[simp] theorem fireVector_cbp (s : State) (f v : Nat) : (fireVector s f v).cbp = s.cbp := by unfold fireVector; split <;> (try split) <;> simp
@[simp] theorem fireVector_mem (s : State) (f v : Nat) : (fireVector s f v).mem = s.mem := by unfold fireVector; split <;> (try split) <;> simp
@[simp] theorem fireVector_ecc (s : State) (f v : Nat) : (fireVector s f v).ecc = s.ecc := by unfold fireVector; split <;> (try split) <;> simp
@[simp] theorem fireVector_free (s : State) (f v : Nat) : (fireVector s f v).free = s.free := by unfold fireVector; split <;> (try split) <;> simp

/-! `recordFirst` -/
@[simp] theorem recordFirst_pending (s : State) (page code status : Nat) (cmd : Bool) : (recordFirst s page code status cmd).pending = s.pending := by unfold recordFirst; split <;> rfl
@[simp] theorem recordFirst_eff (s : State) (page code status : Nat) (cmd : Bool) : (recordFirst s page code status cmd).eff = s.eff := by unfold recordFirst; split <;> rfl
@[simp] theorem recordFirst_wide (s : State) (page code status : Nat) (cmd : Bool) : (recordFirst s page code status cmd).wide = s.wide := by unfold recordFirst; split <;> rfl
@[simp] theorem recordFirst_running (s : State) (page code status : Nat) (cmd : Bool) : (recordFirst s page code status cmd).running = s.running := by unfold recordFirst; split <;> rfl
@[simp] theorem recordFirst_power (s : State) (page code status : Nat) (cmd : Bool) : (recordFirst s page code status cmd).power = s.power := by unfold recordFirst; split <;> rfl
@[simp] theorem recordFirst_time (s : State) (page code status : Nat) (cmd : Bool) : (recordFirst s page code status cmd).time = s.time := by unfold recordFirst; split <;> rfl
@[simp] theorem recordFirst_tck (s : State) (page code status : Nat) (cmd : Bool) : (recordFirst s page code status cmd).tck = s.tck := by unfold recordFirst; split <;> rfl
@[simp] theorem recordFirst_cred (s : State) (page code status : Nat) (cmd : Bool) : (recordFirst s page code status cmd).cred = s.cred := by unfold recordFirst; split <;> rfl
@[simp] theorem recordFirst_gov (s : State) (page code status : Nat) (cmd : Bool) : (recordFirst s page code status cmd).gov = s.gov := by unfold recordFirst; split <;> rfl
@[simp] theorem recordFirst_red (s : State) (page code status : Nat) (cmd : Bool) : (recordFirst s page code status cmd).red = s.red := by unfold recordFirst; split <;> rfl
@[simp] theorem recordFirst_vkeep (s : State) (page code status : Nat) (cmd : Bool) : (recordFirst s page code status cmd).vkeep = s.vkeep := by unfold recordFirst; split <;> rfl
@[simp] theorem recordFirst_alog (s : State) (page code status : Nat) (cmd : Bool) : (recordFirst s page code status cmd).alog = s.alog := by unfold recordFirst; split <;> rfl
@[simp] theorem recordFirst_evc (s : State) (page code status : Nat) (cmd : Bool) : (recordFirst s page code status cmd).evc = s.evc := by unfold recordFirst; split <;> rfl
@[simp] theorem recordFirst_board (s : State) (page code status : Nat) (cmd : Bool) : (recordFirst s page code status cmd).board = s.board := by unfold recordFirst; split <;> rfl
@[simp] theorem recordFirst_pcie (s : State) (page code status : Nat) (cmd : Bool) : (recordFirst s page code status cmd).pcie = s.pcie := by unfold recordFirst; split <;> rfl
@[simp] theorem recordFirst_queues (s : State) (page code status : Nat) (cmd : Bool) : (recordFirst s page code status cmd).queues = s.queues := by unfold recordFirst; split <;> rfl
@[simp] theorem recordFirst_pipe (s : State) (page code status : Nat) (cmd : Bool) : (recordFirst s page code status cmd).pipe = s.pipe := by unfold recordFirst; split <;> rfl
@[simp] theorem recordFirst_sched (s : State) (page code status : Nat) (cmd : Bool) : (recordFirst s page code status cmd).sched = s.sched := by unfold recordFirst; split <;> rfl
@[simp] theorem recordFirst_tbl (s : State) (page code status : Nat) (cmd : Bool) : (recordFirst s page code status cmd).tbl = s.tbl := by unfold recordFirst; split <;> rfl
@[simp] theorem recordFirst_cip (s : State) (page code status : Nat) (cmd : Bool) : (recordFirst s page code status cmd).cip = s.cip := by unfold recordFirst; split <;> rfl
@[simp] theorem recordFirst_crt (s : State) (page code status : Nat) (cmd : Bool) : (recordFirst s page code status cmd).crt = s.crt := by unfold recordFirst; split <;> rfl
@[simp] theorem recordFirst_mbx (s : State) (page code status : Nat) (cmd : Bool) : (recordFirst s page code status cmd).mbx = s.mbx := by unfold recordFirst; split <;> rfl
@[simp] theorem recordFirst_cus (s : State) (page code status : Nat) (cmd : Bool) : (recordFirst s page code status cmd).cus = s.cus := by unfold recordFirst; split <;> rfl
@[simp] theorem recordFirst_logs (s : State) (page code status : Nat) (cmd : Bool) : (recordFirst s page code status cmd).logs = s.logs := by unfold recordFirst; split <;> rfl
@[simp] theorem recordFirst_ports (s : State) (page code status : Nat) (cmd : Bool) : (recordFirst s page code status cmd).ports = s.ports := by unfold recordFirst; split <;> rfl
@[simp] theorem recordFirst_cbp (s : State) (page code status : Nat) (cmd : Bool) : (recordFirst s page code status cmd).cbp = s.cbp := by unfold recordFirst; split <;> rfl
@[simp] theorem recordFirst_mem (s : State) (page code status : Nat) (cmd : Bool) : (recordFirst s page code status cmd).mem = s.mem := by unfold recordFirst; split <;> rfl
@[simp] theorem recordFirst_ecc (s : State) (page code status : Nat) (cmd : Bool) : (recordFirst s page code status cmd).ecc = s.ecc := by unfold recordFirst; split <;> rfl
@[simp] theorem recordFirst_free (s : State) (page code status : Nat) (cmd : Bool) : (recordFirst s page code status cmd).free = s.free := by unfold recordFirst; split <;> rfl
@[simp] theorem recordFirst_out (s : State) (page code status : Nat) (cmd : Bool) : (recordFirst s page code status cmd).out = s.out := by unfold recordFirst; split <;> rfl

/-! `setErr` -/
@[simp] theorem setErr_pending (s : State) (page n : Nat) : (setErr s page n).pending = s.pending := by
  unfold setErr summaryRise
  split
  · rfl
  · dsimp only; split
    · simp
    · split <;> simp
@[simp] theorem setErr_eff (s : State) (page n : Nat) : (setErr s page n).eff = s.eff := by
  unfold setErr summaryRise
  split
  · rfl
  · dsimp only; split
    · simp
    · split <;> simp
@[simp] theorem setErr_wide (s : State) (page n : Nat) : (setErr s page n).wide = s.wide := by
  unfold setErr summaryRise
  split
  · rfl
  · dsimp only; split
    · simp
    · split <;> simp
@[simp] theorem setErr_running (s : State) (page n : Nat) : (setErr s page n).running = s.running := by
  unfold setErr summaryRise
  split
  · rfl
  · dsimp only; split
    · simp
    · split <;> simp
@[simp] theorem setErr_power (s : State) (page n : Nat) : (setErr s page n).power = s.power := by
  unfold setErr summaryRise
  split
  · rfl
  · dsimp only; split
    · simp
    · split <;> simp
@[simp] theorem setErr_time (s : State) (page n : Nat) : (setErr s page n).time = s.time := by
  unfold setErr summaryRise
  split
  · rfl
  · dsimp only; split
    · simp
    · split <;> simp
@[simp] theorem setErr_tck (s : State) (page n : Nat) : (setErr s page n).tck = s.tck := by
  unfold setErr summaryRise
  split
  · rfl
  · dsimp only; split
    · simp
    · split <;> simp
@[simp] theorem setErr_cred (s : State) (page n : Nat) : (setErr s page n).cred = s.cred := by
  unfold setErr summaryRise
  split
  · rfl
  · dsimp only; split
    · simp
    · split <;> simp
@[simp] theorem setErr_gov (s : State) (page n : Nat) : (setErr s page n).gov = s.gov := by
  unfold setErr summaryRise
  split
  · rfl
  · dsimp only; split
    · simp
    · split <;> simp
@[simp] theorem setErr_red (s : State) (page n : Nat) : (setErr s page n).red = s.red := by
  unfold setErr summaryRise
  split
  · rfl
  · dsimp only; split
    · simp
    · split <;> simp
@[simp] theorem setErr_vkeep (s : State) (page n : Nat) : (setErr s page n).vkeep = s.vkeep := by
  unfold setErr summaryRise
  split
  · rfl
  · dsimp only; split
    · simp
    · split <;> simp
@[simp] theorem setErr_alog (s : State) (page n : Nat) : (setErr s page n).alog = s.alog := by
  unfold setErr summaryRise
  split
  · rfl
  · dsimp only; split
    · simp
    · split <;> simp
@[simp] theorem setErr_evc (s : State) (page n : Nat) : (setErr s page n).evc = s.evc := by
  unfold setErr summaryRise
  split
  · rfl
  · dsimp only; split
    · simp
    · split <;> simp
@[simp] theorem setErr_board (s : State) (page n : Nat) : (setErr s page n).board = s.board := by
  unfold setErr summaryRise
  split
  · rfl
  · dsimp only; split
    · simp
    · split <;> simp
@[simp] theorem setErr_queues (s : State) (page n : Nat) : (setErr s page n).queues = s.queues := by
  unfold setErr summaryRise
  split
  · rfl
  · dsimp only; split
    · simp
    · split <;> simp
@[simp] theorem setErr_pipe (s : State) (page n : Nat) : (setErr s page n).pipe = s.pipe := by
  unfold setErr summaryRise
  split
  · rfl
  · dsimp only; split
    · simp
    · split <;> simp
@[simp] theorem setErr_sched (s : State) (page n : Nat) : (setErr s page n).sched = s.sched := by
  unfold setErr summaryRise
  split
  · rfl
  · dsimp only; split
    · simp
    · split <;> simp
@[simp] theorem setErr_tbl (s : State) (page n : Nat) : (setErr s page n).tbl = s.tbl := by
  unfold setErr summaryRise
  split
  · rfl
  · dsimp only; split
    · simp
    · split <;> simp
@[simp] theorem setErr_cip (s : State) (page n : Nat) : (setErr s page n).cip = s.cip := by
  unfold setErr summaryRise
  split
  · rfl
  · dsimp only; split
    · simp
    · split <;> simp
@[simp] theorem setErr_crt (s : State) (page n : Nat) : (setErr s page n).crt = s.crt := by
  unfold setErr summaryRise
  split
  · rfl
  · dsimp only; split
    · simp
    · split <;> simp
@[simp] theorem setErr_mbx (s : State) (page n : Nat) : (setErr s page n).mbx = s.mbx := by
  unfold setErr summaryRise
  split
  · rfl
  · dsimp only; split
    · simp
    · split <;> simp
@[simp] theorem setErr_cus (s : State) (page n : Nat) : (setErr s page n).cus = s.cus := by
  unfold setErr summaryRise
  split
  · rfl
  · dsimp only; split
    · simp
    · split <;> simp
@[simp] theorem setErr_logs (s : State) (page n : Nat) : (setErr s page n).logs = s.logs := by
  unfold setErr summaryRise
  split
  · rfl
  · dsimp only; split
    · simp
    · split <;> simp
@[simp] theorem setErr_ports (s : State) (page n : Nat) : (setErr s page n).ports = s.ports := by
  unfold setErr summaryRise
  split
  · rfl
  · dsimp only; split
    · simp
    · split <;> simp
@[simp] theorem setErr_cbp (s : State) (page n : Nat) : (setErr s page n).cbp = s.cbp := by
  unfold setErr summaryRise
  split
  · rfl
  · dsimp only; split
    · simp
    · split <;> simp
@[simp] theorem setErr_mem (s : State) (page n : Nat) : (setErr s page n).mem = s.mem := by
  unfold setErr summaryRise
  split
  · rfl
  · dsimp only; split
    · simp
    · split <;> simp
@[simp] theorem setErr_ecc (s : State) (page n : Nat) : (setErr s page n).ecc = s.ecc := by
  unfold setErr summaryRise
  split
  · rfl
  · dsimp only; split
    · simp
    · split <;> simp
@[simp] theorem setErr_free (s : State) (page n : Nat) : (setErr s page n).free = s.free := by
  unfold setErr summaryRise
  split
  · rfl
  · dsimp only; split
    · simp
    · split <;> simp

/-! `signal` -/
@[simp] theorem signal_pending (s : State) (src q n : Nat) : (signal s src q n).pending = s.pending := by unfold signal; repeat (first | rfl | split)
@[simp] theorem signal_regs (s : State) (src q n : Nat) : (signal s src q n).regs = s.regs := by unfold signal; repeat (first | rfl | split)
@[simp] theorem signal_eff (s : State) (src q n : Nat) : (signal s src q n).eff = s.eff := by unfold signal; repeat (first | rfl | split)
@[simp] theorem signal_wide (s : State) (src q n : Nat) : (signal s src q n).wide = s.wide := by unfold signal; repeat (first | rfl | split)
@[simp] theorem signal_running (s : State) (src q n : Nat) : (signal s src q n).running = s.running := by unfold signal; repeat (first | rfl | split)
@[simp] theorem signal_power (s : State) (src q n : Nat) : (signal s src q n).power = s.power := by unfold signal; repeat (first | rfl | split)
@[simp] theorem signal_time (s : State) (src q n : Nat) : (signal s src q n).time = s.time := by unfold signal; repeat (first | rfl | split)
@[simp] theorem signal_tck (s : State) (src q n : Nat) : (signal s src q n).tck = s.tck := by unfold signal; repeat (first | rfl | split)
@[simp] theorem signal_cred (s : State) (src q n : Nat) : (signal s src q n).cred = s.cred := by unfold signal; repeat (first | rfl | split)
@[simp] theorem signal_gov (s : State) (src q n : Nat) : (signal s src q n).gov = s.gov := by unfold signal; repeat (first | rfl | split)
@[simp] theorem signal_red (s : State) (src q n : Nat) : (signal s src q n).red = s.red := by unfold signal; repeat (first | rfl | split)
@[simp] theorem signal_vkeep (s : State) (src q n : Nat) : (signal s src q n).vkeep = s.vkeep := by unfold signal; repeat (first | rfl | split)
@[simp] theorem signal_alog (s : State) (src q n : Nat) : (signal s src q n).alog = s.alog := by unfold signal; repeat (first | rfl | split)
@[simp] theorem signal_board (s : State) (src q n : Nat) : (signal s src q n).board = s.board := by unfold signal; repeat (first | rfl | split)
@[simp] theorem signal_pcie (s : State) (src q n : Nat) : (signal s src q n).pcie = s.pcie := by unfold signal; repeat (first | rfl | split)
@[simp] theorem signal_queues (s : State) (src q n : Nat) : (signal s src q n).queues = s.queues := by unfold signal; repeat (first | rfl | split)
@[simp] theorem signal_pipe (s : State) (src q n : Nat) : (signal s src q n).pipe = s.pipe := by unfold signal; repeat (first | rfl | split)
@[simp] theorem signal_sched (s : State) (src q n : Nat) : (signal s src q n).sched = s.sched := by unfold signal; repeat (first | rfl | split)
@[simp] theorem signal_tbl (s : State) (src q n : Nat) : (signal s src q n).tbl = s.tbl := by unfold signal; repeat (first | rfl | split)
@[simp] theorem signal_cip (s : State) (src q n : Nat) : (signal s src q n).cip = s.cip := by unfold signal; repeat (first | rfl | split)
@[simp] theorem signal_crt (s : State) (src q n : Nat) : (signal s src q n).crt = s.crt := by unfold signal; repeat (first | rfl | split)
@[simp] theorem signal_mbx (s : State) (src q n : Nat) : (signal s src q n).mbx = s.mbx := by unfold signal; repeat (first | rfl | split)
@[simp] theorem signal_cus (s : State) (src q n : Nat) : (signal s src q n).cus = s.cus := by unfold signal; repeat (first | rfl | split)
@[simp] theorem signal_logs (s : State) (src q n : Nat) : (signal s src q n).logs = s.logs := by unfold signal; repeat (first | rfl | split)
@[simp] theorem signal_ports (s : State) (src q n : Nat) : (signal s src q n).ports = s.ports := by unfold signal; repeat (first | rfl | split)
@[simp] theorem signal_cbp (s : State) (src q n : Nat) : (signal s src q n).cbp = s.cbp := by unfold signal; repeat (first | rfl | split)
@[simp] theorem signal_mem (s : State) (src q n : Nat) : (signal s src q n).mem = s.mem := by unfold signal; repeat (first | rfl | split)
@[simp] theorem signal_ecc (s : State) (src q n : Nat) : (signal s src q n).ecc = s.ecc := by unfold signal; repeat (first | rfl | split)
@[simp] theorem signal_free (s : State) (src q n : Nat) : (signal s src q n).free = s.free := by unfold signal; repeat (first | rfl | split)
@[simp] theorem signal_out (s : State) (src q n : Nat) : (signal s src q n).out = s.out := by unfold signal; repeat (first | rfl | split)

/-! `needReset` -/
@[simp] theorem needReset_pending (s : State) (page bit : Nat) : (needReset s page bit).pending = s.pending := by unfold needReset; repeat (first | rfl | split)
@[simp] theorem needReset_regs (s : State) (page bit : Nat) : (needReset s page bit).regs = s.regs := by unfold needReset; repeat (first | rfl | split)
@[simp] theorem needReset_eff (s : State) (page bit : Nat) : (needReset s page bit).eff = s.eff := by unfold needReset; repeat (first | rfl | split)
@[simp] theorem needReset_wide (s : State) (page bit : Nat) : (needReset s page bit).wide = s.wide := by unfold needReset; repeat (first | rfl | split)
@[simp] theorem needReset_running (s : State) (page bit : Nat) : (needReset s page bit).running = s.running := by unfold needReset; repeat (first | rfl | split)
@[simp] theorem needReset_time (s : State) (page bit : Nat) : (needReset s page bit).time = s.time := by unfold needReset; repeat (first | rfl | split)
@[simp] theorem needReset_tck (s : State) (page bit : Nat) : (needReset s page bit).tck = s.tck := by unfold needReset; repeat (first | rfl | split)
@[simp] theorem needReset_cred (s : State) (page bit : Nat) : (needReset s page bit).cred = s.cred := by unfold needReset; repeat (first | rfl | split)
@[simp] theorem needReset_gov (s : State) (page bit : Nat) : (needReset s page bit).gov = s.gov := by unfold needReset; repeat (first | rfl | split)
@[simp] theorem needReset_red (s : State) (page bit : Nat) : (needReset s page bit).red = s.red := by unfold needReset; repeat (first | rfl | split)
@[simp] theorem needReset_vkeep (s : State) (page bit : Nat) : (needReset s page bit).vkeep = s.vkeep := by unfold needReset; repeat (first | rfl | split)
@[simp] theorem needReset_alog (s : State) (page bit : Nat) : (needReset s page bit).alog = s.alog := by unfold needReset; repeat (first | rfl | split)
@[simp] theorem needReset_evc (s : State) (page bit : Nat) : (needReset s page bit).evc = s.evc := by unfold needReset; repeat (first | rfl | split)
@[simp] theorem needReset_board (s : State) (page bit : Nat) : (needReset s page bit).board = s.board := by unfold needReset; repeat (first | rfl | split)
@[simp] theorem needReset_pcie (s : State) (page bit : Nat) : (needReset s page bit).pcie = s.pcie := by unfold needReset; repeat (first | rfl | split)
@[simp] theorem needReset_queues (s : State) (page bit : Nat) : (needReset s page bit).queues = s.queues := by unfold needReset; repeat (first | rfl | split)
@[simp] theorem needReset_pipe (s : State) (page bit : Nat) : (needReset s page bit).pipe = s.pipe := by unfold needReset; repeat (first | rfl | split)
@[simp] theorem needReset_sched (s : State) (page bit : Nat) : (needReset s page bit).sched = s.sched := by unfold needReset; repeat (first | rfl | split)
@[simp] theorem needReset_tbl (s : State) (page bit : Nat) : (needReset s page bit).tbl = s.tbl := by unfold needReset; repeat (first | rfl | split)
@[simp] theorem needReset_cip (s : State) (page bit : Nat) : (needReset s page bit).cip = s.cip := by unfold needReset; repeat (first | rfl | split)
@[simp] theorem needReset_crt (s : State) (page bit : Nat) : (needReset s page bit).crt = s.crt := by unfold needReset; repeat (first | rfl | split)
@[simp] theorem needReset_mbx (s : State) (page bit : Nat) : (needReset s page bit).mbx = s.mbx := by unfold needReset; repeat (first | rfl | split)
@[simp] theorem needReset_cus (s : State) (page bit : Nat) : (needReset s page bit).cus = s.cus := by unfold needReset; repeat (first | rfl | split)
@[simp] theorem needReset_logs (s : State) (page bit : Nat) : (needReset s page bit).logs = s.logs := by unfold needReset; repeat (first | rfl | split)
@[simp] theorem needReset_ports (s : State) (page bit : Nat) : (needReset s page bit).ports = s.ports := by unfold needReset; repeat (first | rfl | split)
@[simp] theorem needReset_cbp (s : State) (page bit : Nat) : (needReset s page bit).cbp = s.cbp := by unfold needReset; repeat (first | rfl | split)
@[simp] theorem needReset_mem (s : State) (page bit : Nat) : (needReset s page bit).mem = s.mem := by unfold needReset; repeat (first | rfl | split)
@[simp] theorem needReset_ecc (s : State) (page bit : Nat) : (needReset s page bit).ecc = s.ecc := by unfold needReset; repeat (first | rfl | split)
@[simp] theorem needReset_free (s : State) (page bit : Nat) : (needReset s page bit).free = s.free := by unfold needReset; repeat (first | rfl | split)
@[simp] theorem needReset_out (s : State) (page bit : Nat) : (needReset s page bit).out = s.out := by unfold needReset; repeat (first | rfl | split)

/-! `cusIrq` -/
@[simp] theorem cusIrq_pending (s : State) : (cusIrq s).pending = s.pending := by unfold cusIrq; dsimp only; split <;> simp
@[simp] theorem cusIrq_eff (s : State) : (cusIrq s).eff = s.eff := by unfold cusIrq; dsimp only; split <;> simp
@[simp] theorem cusIrq_wide (s : State) : (cusIrq s).wide = s.wide := by unfold cusIrq; dsimp only; split <;> simp
@[simp] theorem cusIrq_running (s : State) : (cusIrq s).running = s.running := by unfold cusIrq; dsimp only; split <;> simp
@[simp] theorem cusIrq_power (s : State) : (cusIrq s).power = s.power := by unfold cusIrq; dsimp only; split <;> simp
@[simp] theorem cusIrq_time (s : State) : (cusIrq s).time = s.time := by unfold cusIrq; dsimp only; split <;> simp
@[simp] theorem cusIrq_tck (s : State) : (cusIrq s).tck = s.tck := by unfold cusIrq; dsimp only; split <;> simp
@[simp] theorem cusIrq_cred (s : State) : (cusIrq s).cred = s.cred := by unfold cusIrq; dsimp only; split <;> simp
@[simp] theorem cusIrq_gov (s : State) : (cusIrq s).gov = s.gov := by unfold cusIrq; dsimp only; split <;> simp
@[simp] theorem cusIrq_red (s : State) : (cusIrq s).red = s.red := by unfold cusIrq; dsimp only; split <;> simp
@[simp] theorem cusIrq_vkeep (s : State) : (cusIrq s).vkeep = s.vkeep := by unfold cusIrq; dsimp only; split <;> simp
@[simp] theorem cusIrq_alog (s : State) : (cusIrq s).alog = s.alog := by unfold cusIrq; dsimp only; split <;> simp
@[simp] theorem cusIrq_evc (s : State) : (cusIrq s).evc = s.evc := by unfold cusIrq; dsimp only; split <;> simp
@[simp] theorem cusIrq_board (s : State) : (cusIrq s).board = s.board := by unfold cusIrq; dsimp only; split <;> simp
@[simp] theorem cusIrq_queues (s : State) : (cusIrq s).queues = s.queues := by unfold cusIrq; dsimp only; split <;> simp
@[simp] theorem cusIrq_pipe (s : State) : (cusIrq s).pipe = s.pipe := by unfold cusIrq; dsimp only; split <;> simp
@[simp] theorem cusIrq_sched (s : State) : (cusIrq s).sched = s.sched := by unfold cusIrq; dsimp only; split <;> simp
@[simp] theorem cusIrq_tbl (s : State) : (cusIrq s).tbl = s.tbl := by unfold cusIrq; dsimp only; split <;> simp
@[simp] theorem cusIrq_cip (s : State) : (cusIrq s).cip = s.cip := by unfold cusIrq; dsimp only; split <;> simp
@[simp] theorem cusIrq_crt (s : State) : (cusIrq s).crt = s.crt := by unfold cusIrq; dsimp only; split <;> simp
@[simp] theorem cusIrq_mbx (s : State) : (cusIrq s).mbx = s.mbx := by unfold cusIrq; dsimp only; split <;> simp
@[simp] theorem cusIrq_cus (s : State) : (cusIrq s).cus = s.cus := by unfold cusIrq; dsimp only; split <;> simp
@[simp] theorem cusIrq_logs (s : State) : (cusIrq s).logs = s.logs := by unfold cusIrq; dsimp only; split <;> simp
@[simp] theorem cusIrq_ports (s : State) : (cusIrq s).ports = s.ports := by unfold cusIrq; dsimp only; split <;> simp
@[simp] theorem cusIrq_cbp (s : State) : (cusIrq s).cbp = s.cbp := by unfold cusIrq; dsimp only; split <;> simp
@[simp] theorem cusIrq_mem (s : State) : (cusIrq s).mem = s.mem := by unfold cusIrq; dsimp only; split <;> simp
@[simp] theorem cusIrq_ecc (s : State) : (cusIrq s).ecc = s.ecc := by unfold cusIrq; dsimp only; split <;> simp
@[simp] theorem cusIrq_free (s : State) : (cusIrq s).free = s.free := by unfold cusIrq; dsimp only; split <;> simp

/-! `amber` -/
@[simp] theorem amber_pending (s : State) (src : Nat) : (amber s src).pending = s.pending := by unfold amber; dsimp only; split <;> simp
@[simp] theorem amber_eff (s : State) (src : Nat) : (amber s src).eff = s.eff := by unfold amber; dsimp only; split <;> simp
@[simp] theorem amber_wide (s : State) (src : Nat) : (amber s src).wide = s.wide := by unfold amber; dsimp only; split <;> simp
@[simp] theorem amber_running (s : State) (src : Nat) : (amber s src).running = s.running := by unfold amber; dsimp only; split <;> simp
@[simp] theorem amber_power (s : State) (src : Nat) : (amber s src).power = s.power := by unfold amber; dsimp only; split <;> simp
@[simp] theorem amber_time (s : State) (src : Nat) : (amber s src).time = s.time := by unfold amber; dsimp only; split <;> simp
@[simp] theorem amber_tck (s : State) (src : Nat) : (amber s src).tck = s.tck := by unfold amber; dsimp only; split <;> simp
@[simp] theorem amber_cred (s : State) (src : Nat) : (amber s src).cred = s.cred := by unfold amber; dsimp only; split <;> simp
@[simp] theorem amber_gov (s : State) (src : Nat) : (amber s src).gov = s.gov := by unfold amber; dsimp only; split <;> simp
@[simp] theorem amber_red (s : State) (src : Nat) : (amber s src).red = s.red := by unfold amber; dsimp only; split <;> simp
@[simp] theorem amber_board (s : State) (src : Nat) : (amber s src).board = s.board := by unfold amber; dsimp only; split <;> simp
@[simp] theorem amber_queues (s : State) (src : Nat) : (amber s src).queues = s.queues := by unfold amber; dsimp only; split <;> simp
@[simp] theorem amber_pipe (s : State) (src : Nat) : (amber s src).pipe = s.pipe := by unfold amber; dsimp only; split <;> simp
@[simp] theorem amber_sched (s : State) (src : Nat) : (amber s src).sched = s.sched := by unfold amber; dsimp only; split <;> simp
@[simp] theorem amber_tbl (s : State) (src : Nat) : (amber s src).tbl = s.tbl := by unfold amber; dsimp only; split <;> simp
@[simp] theorem amber_cip (s : State) (src : Nat) : (amber s src).cip = s.cip := by unfold amber; dsimp only; split <;> simp
@[simp] theorem amber_crt (s : State) (src : Nat) : (amber s src).crt = s.crt := by unfold amber; dsimp only; split <;> simp
@[simp] theorem amber_mbx (s : State) (src : Nat) : (amber s src).mbx = s.mbx := by unfold amber; dsimp only; split <;> simp
@[simp] theorem amber_cus (s : State) (src : Nat) : (amber s src).cus = s.cus := by unfold amber; dsimp only; split <;> simp
@[simp] theorem amber_logs (s : State) (src : Nat) : (amber s src).logs = s.logs := by unfold amber; dsimp only; split <;> simp
@[simp] theorem amber_ports (s : State) (src : Nat) : (amber s src).ports = s.ports := by unfold amber; dsimp only; split <;> simp
@[simp] theorem amber_cbp (s : State) (src : Nat) : (amber s src).cbp = s.cbp := by unfold amber; dsimp only; split <;> simp
@[simp] theorem amber_mem (s : State) (src : Nat) : (amber s src).mem = s.mem := by unfold amber; dsimp only; split <;> simp
@[simp] theorem amber_ecc (s : State) (src : Nat) : (amber s src).ecc = s.ecc := by unfold amber; dsimp only; split <;> simp
@[simp] theorem amber_free (s : State) (src : Nat) : (amber s src).free = s.free := by unfold amber; dsimp only; split <;> simp

/-! `eraseAllSlots` -/
@[simp] theorem eraseAllSlots_pending (s : State) : (eraseAllSlots s).pending = s.pending := by
  unfold eraseAllSlots
  generalize List.range 16 = l
  induction l generalizing s with
  | nil => rfl
  | cons k l ih => rw [List.foldl_cons, ih]; rfl
@[simp] theorem eraseAllSlots_regs (s : State) : (eraseAllSlots s).regs = s.regs := by
  unfold eraseAllSlots
  generalize List.range 16 = l
  induction l generalizing s with
  | nil => rfl
  | cons k l ih => rw [List.foldl_cons, ih]; rfl
@[simp] theorem eraseAllSlots_eff (s : State) : (eraseAllSlots s).eff = s.eff := by
  unfold eraseAllSlots
  generalize List.range 16 = l
  induction l generalizing s with
  | nil => rfl
  | cons k l ih => rw [List.foldl_cons, ih]; rfl
@[simp] theorem eraseAllSlots_wide (s : State) : (eraseAllSlots s).wide = s.wide := by
  unfold eraseAllSlots
  generalize List.range 16 = l
  induction l generalizing s with
  | nil => rfl
  | cons k l ih => rw [List.foldl_cons, ih]; rfl
@[simp] theorem eraseAllSlots_running (s : State) : (eraseAllSlots s).running = s.running := by
  unfold eraseAllSlots
  generalize List.range 16 = l
  induction l generalizing s with
  | nil => rfl
  | cons k l ih => rw [List.foldl_cons, ih]; rfl
@[simp] theorem eraseAllSlots_power (s : State) : (eraseAllSlots s).power = s.power := by
  unfold eraseAllSlots
  generalize List.range 16 = l
  induction l generalizing s with
  | nil => rfl
  | cons k l ih => rw [List.foldl_cons, ih]; rfl
@[simp] theorem eraseAllSlots_time (s : State) : (eraseAllSlots s).time = s.time := by
  unfold eraseAllSlots
  generalize List.range 16 = l
  induction l generalizing s with
  | nil => rfl
  | cons k l ih => rw [List.foldl_cons, ih]; rfl
@[simp] theorem eraseAllSlots_tck (s : State) : (eraseAllSlots s).tck = s.tck := by
  unfold eraseAllSlots
  generalize List.range 16 = l
  induction l generalizing s with
  | nil => rfl
  | cons k l ih => rw [List.foldl_cons, ih]; rfl
@[simp] theorem eraseAllSlots_cred (s : State) : (eraseAllSlots s).cred = s.cred := by
  unfold eraseAllSlots
  generalize List.range 16 = l
  induction l generalizing s with
  | nil => rfl
  | cons k l ih => rw [List.foldl_cons, ih]; rfl
@[simp] theorem eraseAllSlots_gov (s : State) : (eraseAllSlots s).gov = s.gov := by
  unfold eraseAllSlots
  generalize List.range 16 = l
  induction l generalizing s with
  | nil => rfl
  | cons k l ih => rw [List.foldl_cons, ih]; rfl
@[simp] theorem eraseAllSlots_red (s : State) : (eraseAllSlots s).red = s.red := by
  unfold eraseAllSlots
  generalize List.range 16 = l
  induction l generalizing s with
  | nil => rfl
  | cons k l ih => rw [List.foldl_cons, ih]; rfl
@[simp] theorem eraseAllSlots_alog (s : State) : (eraseAllSlots s).alog = s.alog := by
  unfold eraseAllSlots
  generalize List.range 16 = l
  induction l generalizing s with
  | nil => rfl
  | cons k l ih => rw [List.foldl_cons, ih]; rfl
@[simp] theorem eraseAllSlots_evc (s : State) : (eraseAllSlots s).evc = s.evc := by
  unfold eraseAllSlots
  generalize List.range 16 = l
  induction l generalizing s with
  | nil => rfl
  | cons k l ih => rw [List.foldl_cons, ih]; rfl
@[simp] theorem eraseAllSlots_board (s : State) : (eraseAllSlots s).board = s.board := by
  unfold eraseAllSlots
  generalize List.range 16 = l
  induction l generalizing s with
  | nil => rfl
  | cons k l ih => rw [List.foldl_cons, ih]; rfl
@[simp] theorem eraseAllSlots_pcie (s : State) : (eraseAllSlots s).pcie = s.pcie := by
  unfold eraseAllSlots
  generalize List.range 16 = l
  induction l generalizing s with
  | nil => rfl
  | cons k l ih => rw [List.foldl_cons, ih]; rfl
@[simp] theorem eraseAllSlots_queues (s : State) : (eraseAllSlots s).queues = s.queues := by
  unfold eraseAllSlots
  generalize List.range 16 = l
  induction l generalizing s with
  | nil => rfl
  | cons k l ih => rw [List.foldl_cons, ih]; rfl
@[simp] theorem eraseAllSlots_pipe (s : State) : (eraseAllSlots s).pipe = s.pipe := by
  unfold eraseAllSlots
  generalize List.range 16 = l
  induction l generalizing s with
  | nil => rfl
  | cons k l ih => rw [List.foldl_cons, ih]; rfl
@[simp] theorem eraseAllSlots_sched (s : State) : (eraseAllSlots s).sched = s.sched := by
  unfold eraseAllSlots
  generalize List.range 16 = l
  induction l generalizing s with
  | nil => rfl
  | cons k l ih => rw [List.foldl_cons, ih]; rfl
@[simp] theorem eraseAllSlots_tbl (s : State) : (eraseAllSlots s).tbl = s.tbl := by
  unfold eraseAllSlots
  generalize List.range 16 = l
  induction l generalizing s with
  | nil => rfl
  | cons k l ih => rw [List.foldl_cons, ih]; rfl
@[simp] theorem eraseAllSlots_cip (s : State) : (eraseAllSlots s).cip = s.cip := by
  unfold eraseAllSlots
  generalize List.range 16 = l
  induction l generalizing s with
  | nil => rfl
  | cons k l ih => rw [List.foldl_cons, ih]; rfl
@[simp] theorem eraseAllSlots_crt (s : State) : (eraseAllSlots s).crt = s.crt := by
  unfold eraseAllSlots
  generalize List.range 16 = l
  induction l generalizing s with
  | nil => rfl
  | cons k l ih => rw [List.foldl_cons, ih]; rfl
@[simp] theorem eraseAllSlots_mbx (s : State) : (eraseAllSlots s).mbx = s.mbx := by
  unfold eraseAllSlots
  generalize List.range 16 = l
  induction l generalizing s with
  | nil => rfl
  | cons k l ih => rw [List.foldl_cons, ih]; rfl
@[simp] theorem eraseAllSlots_cus (s : State) : (eraseAllSlots s).cus = s.cus := by
  unfold eraseAllSlots
  generalize List.range 16 = l
  induction l generalizing s with
  | nil => rfl
  | cons k l ih => rw [List.foldl_cons, ih]; rfl
@[simp] theorem eraseAllSlots_logs (s : State) : (eraseAllSlots s).logs = s.logs := by
  unfold eraseAllSlots
  generalize List.range 16 = l
  induction l generalizing s with
  | nil => rfl
  | cons k l ih => rw [List.foldl_cons, ih]; rfl
@[simp] theorem eraseAllSlots_ports (s : State) : (eraseAllSlots s).ports = s.ports := by
  unfold eraseAllSlots
  generalize List.range 16 = l
  induction l generalizing s with
  | nil => rfl
  | cons k l ih => rw [List.foldl_cons, ih]; rfl
@[simp] theorem eraseAllSlots_cbp (s : State) : (eraseAllSlots s).cbp = s.cbp := by
  unfold eraseAllSlots
  generalize List.range 16 = l
  induction l generalizing s with
  | nil => rfl
  | cons k l ih => rw [List.foldl_cons, ih]; rfl
@[simp] theorem eraseAllSlots_mem (s : State) : (eraseAllSlots s).mem = s.mem := by
  unfold eraseAllSlots
  generalize List.range 16 = l
  induction l generalizing s with
  | nil => rfl
  | cons k l ih => rw [List.foldl_cons, ih]; rfl
@[simp] theorem eraseAllSlots_ecc (s : State) : (eraseAllSlots s).ecc = s.ecc := by
  unfold eraseAllSlots
  generalize List.range 16 = l
  induction l generalizing s with
  | nil => rfl
  | cons k l ih => rw [List.foldl_cons, ih]; rfl
@[simp] theorem eraseAllSlots_free (s : State) : (eraseAllSlots s).free = s.free := by
  unfold eraseAllSlots
  generalize List.range 16 = l
  induction l generalizing s with
  | nil => rfl
  | cons k l ih => rw [List.foldl_cons, ih]; rfl
@[simp] theorem eraseAllSlots_out (s : State) : (eraseAllSlots s).out = s.out := by
  unfold eraseAllSlots
  generalize List.range 16 = l
  induction l generalizing s with
  | nil => rfl
  | cons k l ih => rw [List.foldl_cons, ih]; rfl

/-! `crimson` -/
@[simp] theorem crimson_pending (s : State) (src : Nat) : (crimson s src).pending = s.pending := by unfold crimson; dsimp only; split <;> simp
@[simp] theorem crimson_eff (s : State) (src : Nat) : (crimson s src).eff = s.eff := by unfold crimson; dsimp only; split <;> simp
@[simp] theorem crimson_wide (s : State) (src : Nat) : (crimson s src).wide = s.wide := by unfold crimson; dsimp only; split <;> simp
@[simp] theorem crimson_running (s : State) (src : Nat) : (crimson s src).running = s.running := by unfold crimson; dsimp only; split <;> simp
@[simp] theorem crimson_power (s : State) (src : Nat) : (crimson s src).power = s.power := by unfold crimson; dsimp only; split <;> simp
@[simp] theorem crimson_time (s : State) (src : Nat) : (crimson s src).time = s.time := by unfold crimson; dsimp only; split <;> simp
@[simp] theorem crimson_tck (s : State) (src : Nat) : (crimson s src).tck = s.tck := by unfold crimson; dsimp only; split <;> simp
@[simp] theorem crimson_cred (s : State) (src : Nat) : (crimson s src).cred = s.cred := by unfold crimson; dsimp only; split <;> simp
@[simp] theorem crimson_gov (s : State) (src : Nat) : (crimson s src).gov = s.gov := by unfold crimson; dsimp only; split <;> simp
@[simp] theorem crimson_red (s : State) (src : Nat) : (crimson s src).red = s.red := by unfold crimson; dsimp only; split <;> simp
@[simp] theorem crimson_board (s : State) (src : Nat) : (crimson s src).board = s.board := by unfold crimson; dsimp only; split <;> simp
@[simp] theorem crimson_queues (s : State) (src : Nat) : (crimson s src).queues = s.queues := by unfold crimson; dsimp only; split <;> simp
@[simp] theorem crimson_pipe (s : State) (src : Nat) : (crimson s src).pipe = s.pipe := by unfold crimson; dsimp only; split <;> simp
@[simp] theorem crimson_sched (s : State) (src : Nat) : (crimson s src).sched = s.sched := by unfold crimson; dsimp only; split <;> simp
@[simp] theorem crimson_tbl (s : State) (src : Nat) : (crimson s src).tbl = s.tbl := by unfold crimson; dsimp only; split <;> simp
@[simp] theorem crimson_crt (s : State) (src : Nat) : (crimson s src).crt = s.crt := by unfold crimson; dsimp only; split <;> simp
@[simp] theorem crimson_mbx (s : State) (src : Nat) : (crimson s src).mbx = s.mbx := by unfold crimson; dsimp only; split <;> simp
@[simp] theorem crimson_cus (s : State) (src : Nat) : (crimson s src).cus = s.cus := by unfold crimson; dsimp only; split <;> simp
@[simp] theorem crimson_logs (s : State) (src : Nat) : (crimson s src).logs = s.logs := by unfold crimson; dsimp only; split <;> simp
@[simp] theorem crimson_ports (s : State) (src : Nat) : (crimson s src).ports = s.ports := by unfold crimson; dsimp only; split <;> simp
@[simp] theorem crimson_cbp (s : State) (src : Nat) : (crimson s src).cbp = s.cbp := by unfold crimson; dsimp only; split <;> simp
@[simp] theorem crimson_mem (s : State) (src : Nat) : (crimson s src).mem = s.mem := by unfold crimson; dsimp only; split <;> simp
@[simp] theorem crimson_ecc (s : State) (src : Nat) : (crimson s src).ecc = s.ecc := by unfold crimson; dsimp only; split <;> simp
@[simp] theorem crimson_free (s : State) (src : Nat) : (crimson s src).free = s.free := by unfold crimson; dsimp only; split <;> simp

/-! `raise` -/
@[simp] theorem raise_pending (s : State) (src : Nat) : (raise s src).pending = s.pending := by unfold raise; (repeat' split) <;> simp
@[simp] theorem raise_eff (s : State) (src : Nat) : (raise s src).eff = s.eff := by unfold raise; (repeat' split) <;> simp
@[simp] theorem raise_wide (s : State) (src : Nat) : (raise s src).wide = s.wide := by unfold raise; (repeat' split) <;> simp
@[simp] theorem raise_running (s : State) (src : Nat) : (raise s src).running = s.running := by unfold raise; (repeat' split) <;> simp
@[simp] theorem raise_power (s : State) (src : Nat) : (raise s src).power = s.power := by unfold raise; (repeat' split) <;> simp
@[simp] theorem raise_time (s : State) (src : Nat) : (raise s src).time = s.time := by unfold raise; (repeat' split) <;> simp
@[simp] theorem raise_tck (s : State) (src : Nat) : (raise s src).tck = s.tck := by unfold raise; (repeat' split) <;> simp
@[simp] theorem raise_cred (s : State) (src : Nat) : (raise s src).cred = s.cred := by unfold raise; (repeat' split) <;> simp
@[simp] theorem raise_gov (s : State) (src : Nat) : (raise s src).gov = s.gov := by unfold raise; (repeat' split) <;> simp
@[simp] theorem raise_red (s : State) (src : Nat) : (raise s src).red = s.red := by unfold raise; (repeat' split) <;> simp
@[simp] theorem raise_board (s : State) (src : Nat) : (raise s src).board = s.board := by unfold raise; (repeat' split) <;> simp
@[simp] theorem raise_queues (s : State) (src : Nat) : (raise s src).queues = s.queues := by unfold raise; (repeat' split) <;> simp
@[simp] theorem raise_pipe (s : State) (src : Nat) : (raise s src).pipe = s.pipe := by unfold raise; (repeat' split) <;> simp
@[simp] theorem raise_sched (s : State) (src : Nat) : (raise s src).sched = s.sched := by unfold raise; (repeat' split) <;> simp
@[simp] theorem raise_tbl (s : State) (src : Nat) : (raise s src).tbl = s.tbl := by unfold raise; (repeat' split) <;> simp
@[simp] theorem raise_crt (s : State) (src : Nat) : (raise s src).crt = s.crt := by unfold raise; (repeat' split) <;> simp
@[simp] theorem raise_mbx (s : State) (src : Nat) : (raise s src).mbx = s.mbx := by unfold raise; (repeat' split) <;> simp
@[simp] theorem raise_cus (s : State) (src : Nat) : (raise s src).cus = s.cus := by unfold raise; (repeat' split) <;> simp
@[simp] theorem raise_logs (s : State) (src : Nat) : (raise s src).logs = s.logs := by unfold raise; (repeat' split) <;> simp
@[simp] theorem raise_ports (s : State) (src : Nat) : (raise s src).ports = s.ports := by unfold raise; (repeat' split) <;> simp
@[simp] theorem raise_cbp (s : State) (src : Nat) : (raise s src).cbp = s.cbp := by unfold raise; (repeat' split) <;> simp
@[simp] theorem raise_mem (s : State) (src : Nat) : (raise s src).mem = s.mem := by unfold raise; (repeat' split) <;> simp
@[simp] theorem raise_ecc (s : State) (src : Nat) : (raise s src).ecc = s.ecc := by unfold raise; (repeat' split) <;> simp
@[simp] theorem raise_free (s : State) (src : Nat) : (raise s src).free = s.free := by unfold raise; (repeat' split) <;> simp

/-! `aerCor` -/
@[simp] theorem aerCor_pending (s : State) (f bit : Nat) : (aerCor s f bit).pending = s.pending := by unfold aerCor; dsimp only; split <;> simp
@[simp] theorem aerCor_regs (s : State) (f bit : Nat) : (aerCor s f bit).regs = s.regs := by unfold aerCor; dsimp only; split <;> simp
@[simp] theorem aerCor_eff (s : State) (f bit : Nat) : (aerCor s f bit).eff = s.eff := by unfold aerCor; dsimp only; split <;> simp
@[simp] theorem aerCor_wide (s : State) (f bit : Nat) : (aerCor s f bit).wide = s.wide := by unfold aerCor; dsimp only; split <;> simp
@[simp] theorem aerCor_running (s : State) (f bit : Nat) : (aerCor s f bit).running = s.running := by unfold aerCor; dsimp only; split <;> simp
@[simp] theorem aerCor_power (s : State) (f bit : Nat) : (aerCor s f bit).power = s.power := by unfold aerCor; dsimp only; split <;> simp
@[simp] theorem aerCor_time (s : State) (f bit : Nat) : (aerCor s f bit).time = s.time := by unfold aerCor; dsimp only; split <;> simp
@[simp] theorem aerCor_tck (s : State) (f bit : Nat) : (aerCor s f bit).tck = s.tck := by unfold aerCor; dsimp only; split <;> simp
@[simp] theorem aerCor_cred (s : State) (f bit : Nat) : (aerCor s f bit).cred = s.cred := by unfold aerCor; dsimp only; split <;> simp
@[simp] theorem aerCor_gov (s : State) (f bit : Nat) : (aerCor s f bit).gov = s.gov := by unfold aerCor; dsimp only; split <;> simp
@[simp] theorem aerCor_red (s : State) (f bit : Nat) : (aerCor s f bit).red = s.red := by unfold aerCor; dsimp only; split <;> simp
@[simp] theorem aerCor_vkeep (s : State) (f bit : Nat) : (aerCor s f bit).vkeep = s.vkeep := by unfold aerCor; dsimp only; split <;> simp
@[simp] theorem aerCor_alog (s : State) (f bit : Nat) : (aerCor s f bit).alog = s.alog := by unfold aerCor; dsimp only; split <;> simp
@[simp] theorem aerCor_evc (s : State) (f bit : Nat) : (aerCor s f bit).evc = s.evc := by unfold aerCor; dsimp only; split <;> simp
@[simp] theorem aerCor_board (s : State) (f bit : Nat) : (aerCor s f bit).board = s.board := by unfold aerCor; dsimp only; split <;> simp
@[simp] theorem aerCor_queues (s : State) (f bit : Nat) : (aerCor s f bit).queues = s.queues := by unfold aerCor; dsimp only; split <;> simp
@[simp] theorem aerCor_pipe (s : State) (f bit : Nat) : (aerCor s f bit).pipe = s.pipe := by unfold aerCor; dsimp only; split <;> simp
@[simp] theorem aerCor_sched (s : State) (f bit : Nat) : (aerCor s f bit).sched = s.sched := by unfold aerCor; dsimp only; split <;> simp
@[simp] theorem aerCor_tbl (s : State) (f bit : Nat) : (aerCor s f bit).tbl = s.tbl := by unfold aerCor; dsimp only; split <;> simp
@[simp] theorem aerCor_cip (s : State) (f bit : Nat) : (aerCor s f bit).cip = s.cip := by unfold aerCor; dsimp only; split <;> simp
@[simp] theorem aerCor_crt (s : State) (f bit : Nat) : (aerCor s f bit).crt = s.crt := by unfold aerCor; dsimp only; split <;> simp
@[simp] theorem aerCor_mbx (s : State) (f bit : Nat) : (aerCor s f bit).mbx = s.mbx := by unfold aerCor; dsimp only; split <;> simp
@[simp] theorem aerCor_cus (s : State) (f bit : Nat) : (aerCor s f bit).cus = s.cus := by unfold aerCor; dsimp only; split <;> simp
@[simp] theorem aerCor_logs (s : State) (f bit : Nat) : (aerCor s f bit).logs = s.logs := by unfold aerCor; dsimp only; split <;> simp
@[simp] theorem aerCor_ports (s : State) (f bit : Nat) : (aerCor s f bit).ports = s.ports := by unfold aerCor; dsimp only; split <;> simp
@[simp] theorem aerCor_cbp (s : State) (f bit : Nat) : (aerCor s f bit).cbp = s.cbp := by unfold aerCor; dsimp only; split <;> simp
@[simp] theorem aerCor_mem (s : State) (f bit : Nat) : (aerCor s f bit).mem = s.mem := by unfold aerCor; dsimp only; split <;> simp
@[simp] theorem aerCor_ecc (s : State) (f bit : Nat) : (aerCor s f bit).ecc = s.ecc := by unfold aerCor; dsimp only; split <;> simp
@[simp] theorem aerCor_free (s : State) (f bit : Nat) : (aerCor s f bit).free = s.free := by unfold aerCor; dsimp only; split <;> simp

/-! `finishCmd` -/
@[simp] theorem finishCmd_pending (s : State) (page st : Nat) (o0 o1 o2 : Word) : (finishCmd s page st o0 o1 o2).pending = s.pending := by
  unfold finishCmd
  split
  · rfl
  · dsimp only; split <;> split <;> simp
@[simp] theorem finishCmd_eff (s : State) (page st : Nat) (o0 o1 o2 : Word) : (finishCmd s page st o0 o1 o2).eff = s.eff := by
  unfold finishCmd
  split
  · rfl
  · dsimp only; split <;> split <;> simp
@[simp] theorem finishCmd_wide (s : State) (page st : Nat) (o0 o1 o2 : Word) : (finishCmd s page st o0 o1 o2).wide = s.wide := by
  unfold finishCmd
  split
  · rfl
  · dsimp only; split <;> split <;> simp
@[simp] theorem finishCmd_power (s : State) (page st : Nat) (o0 o1 o2 : Word) : (finishCmd s page st o0 o1 o2).power = s.power := by
  unfold finishCmd
  split
  · rfl
  · dsimp only; split <;> split <;> simp
@[simp] theorem finishCmd_time (s : State) (page st : Nat) (o0 o1 o2 : Word) : (finishCmd s page st o0 o1 o2).time = s.time := by
  unfold finishCmd
  split
  · rfl
  · dsimp only; split <;> split <;> simp
@[simp] theorem finishCmd_tck (s : State) (page st : Nat) (o0 o1 o2 : Word) : (finishCmd s page st o0 o1 o2).tck = s.tck := by
  unfold finishCmd
  split
  · rfl
  · dsimp only; split <;> split <;> simp
@[simp] theorem finishCmd_cred (s : State) (page st : Nat) (o0 o1 o2 : Word) : (finishCmd s page st o0 o1 o2).cred = s.cred := by
  unfold finishCmd
  split
  · rfl
  · dsimp only; split <;> split <;> simp
@[simp] theorem finishCmd_gov (s : State) (page st : Nat) (o0 o1 o2 : Word) : (finishCmd s page st o0 o1 o2).gov = s.gov := by
  unfold finishCmd
  split
  · rfl
  · dsimp only; split <;> split <;> simp
@[simp] theorem finishCmd_vkeep (s : State) (page st : Nat) (o0 o1 o2 : Word) : (finishCmd s page st o0 o1 o2).vkeep = s.vkeep := by
  unfold finishCmd
  split
  · rfl
  · dsimp only; split <;> split <;> simp
@[simp] theorem finishCmd_alog (s : State) (page st : Nat) (o0 o1 o2 : Word) : (finishCmd s page st o0 o1 o2).alog = s.alog := by
  unfold finishCmd
  split
  · rfl
  · dsimp only; split <;> split <;> simp
@[simp] theorem finishCmd_evc (s : State) (page st : Nat) (o0 o1 o2 : Word) : (finishCmd s page st o0 o1 o2).evc = s.evc := by
  unfold finishCmd
  split
  · rfl
  · dsimp only; split <;> split <;> simp
@[simp] theorem finishCmd_board (s : State) (page st : Nat) (o0 o1 o2 : Word) : (finishCmd s page st o0 o1 o2).board = s.board := by
  unfold finishCmd
  split
  · rfl
  · dsimp only; split <;> split <;> simp
@[simp] theorem finishCmd_pcie (s : State) (page st : Nat) (o0 o1 o2 : Word) : (finishCmd s page st o0 o1 o2).pcie = s.pcie := by
  unfold finishCmd
  split
  · rfl
  · dsimp only; split <;> split <;> simp
@[simp] theorem finishCmd_queues (s : State) (page st : Nat) (o0 o1 o2 : Word) : (finishCmd s page st o0 o1 o2).queues = s.queues := by
  unfold finishCmd
  split
  · rfl
  · dsimp only; split <;> split <;> simp
@[simp] theorem finishCmd_pipe (s : State) (page st : Nat) (o0 o1 o2 : Word) : (finishCmd s page st o0 o1 o2).pipe = s.pipe := by
  unfold finishCmd
  split
  · rfl
  · dsimp only; split <;> split <;> simp
@[simp] theorem finishCmd_sched (s : State) (page st : Nat) (o0 o1 o2 : Word) : (finishCmd s page st o0 o1 o2).sched = s.sched := by
  unfold finishCmd
  split
  · rfl
  · dsimp only; split <;> split <;> simp
@[simp] theorem finishCmd_tbl (s : State) (page st : Nat) (o0 o1 o2 : Word) : (finishCmd s page st o0 o1 o2).tbl = s.tbl := by
  unfold finishCmd
  split
  · rfl
  · dsimp only; split <;> split <;> simp
@[simp] theorem finishCmd_cip (s : State) (page st : Nat) (o0 o1 o2 : Word) : (finishCmd s page st o0 o1 o2).cip = s.cip := by
  unfold finishCmd
  split
  · rfl
  · dsimp only; split <;> split <;> simp
@[simp] theorem finishCmd_crt (s : State) (page st : Nat) (o0 o1 o2 : Word) : (finishCmd s page st o0 o1 o2).crt = s.crt := by
  unfold finishCmd
  split
  · rfl
  · dsimp only; split <;> split <;> simp
@[simp] theorem finishCmd_mbx (s : State) (page st : Nat) (o0 o1 o2 : Word) : (finishCmd s page st o0 o1 o2).mbx = s.mbx := by
  unfold finishCmd
  split
  · rfl
  · dsimp only; split <;> split <;> simp
@[simp] theorem finishCmd_cus (s : State) (page st : Nat) (o0 o1 o2 : Word) : (finishCmd s page st o0 o1 o2).cus = s.cus := by
  unfold finishCmd
  split
  · rfl
  · dsimp only; split <;> split <;> simp
@[simp] theorem finishCmd_logs (s : State) (page st : Nat) (o0 o1 o2 : Word) : (finishCmd s page st o0 o1 o2).logs = s.logs := by
  unfold finishCmd
  split
  · rfl
  · dsimp only; split <;> split <;> simp
@[simp] theorem finishCmd_ports (s : State) (page st : Nat) (o0 o1 o2 : Word) : (finishCmd s page st o0 o1 o2).ports = s.ports := by
  unfold finishCmd
  split
  · rfl
  · dsimp only; split <;> split <;> simp
@[simp] theorem finishCmd_cbp (s : State) (page st : Nat) (o0 o1 o2 : Word) : (finishCmd s page st o0 o1 o2).cbp = s.cbp := by
  unfold finishCmd
  split
  · rfl
  · dsimp only; split <;> split <;> simp
@[simp] theorem finishCmd_mem (s : State) (page st : Nat) (o0 o1 o2 : Word) : (finishCmd s page st o0 o1 o2).mem = s.mem := by
  unfold finishCmd
  split
  · rfl
  · dsimp only; split <;> split <;> simp
@[simp] theorem finishCmd_ecc (s : State) (page st : Nat) (o0 o1 o2 : Word) : (finishCmd s page st o0 o1 o2).ecc = s.ecc := by
  unfold finishCmd
  split
  · rfl
  · dsimp only; split <;> split <;> simp
@[simp] theorem finishCmd_free (s : State) (page st : Nat) (o0 o1 o2 : Word) : (finishCmd s page st o0 o1 o2).free = s.free := by
  unfold finishCmd
  split
  · rfl
  · dsimp only; split <;> split <;> simp
@[simp] theorem finishCmd_out (s : State) (page st : Nat) (o0 o1 o2 : Word) : (finishCmd s page st o0 o1 o2).out = s.out := by
  unfold finishCmd
  split
  · rfl
  · dsimp only; split <;> split <;> simp

/-! `endCmd` -/
@[simp] theorem endCmd_pending (s : State) (page st : Nat) : (endCmd s page st).pending = s.pending := by unfold endCmd; simp
@[simp] theorem endCmd_eff (s : State) (page st : Nat) : (endCmd s page st).eff = s.eff := by unfold endCmd; simp
@[simp] theorem endCmd_wide (s : State) (page st : Nat) : (endCmd s page st).wide = s.wide := by unfold endCmd; simp
@[simp] theorem endCmd_power (s : State) (page st : Nat) : (endCmd s page st).power = s.power := by unfold endCmd; simp
@[simp] theorem endCmd_time (s : State) (page st : Nat) : (endCmd s page st).time = s.time := by unfold endCmd; simp
@[simp] theorem endCmd_tck (s : State) (page st : Nat) : (endCmd s page st).tck = s.tck := by unfold endCmd; simp
@[simp] theorem endCmd_cred (s : State) (page st : Nat) : (endCmd s page st).cred = s.cred := by unfold endCmd; simp
@[simp] theorem endCmd_gov (s : State) (page st : Nat) : (endCmd s page st).gov = s.gov := by unfold endCmd; simp
@[simp] theorem endCmd_vkeep (s : State) (page st : Nat) : (endCmd s page st).vkeep = s.vkeep := by unfold endCmd; simp
@[simp] theorem endCmd_alog (s : State) (page st : Nat) : (endCmd s page st).alog = s.alog := by unfold endCmd; simp
@[simp] theorem endCmd_evc (s : State) (page st : Nat) : (endCmd s page st).evc = s.evc := by unfold endCmd; simp
@[simp] theorem endCmd_board (s : State) (page st : Nat) : (endCmd s page st).board = s.board := by unfold endCmd; simp
@[simp] theorem endCmd_pcie (s : State) (page st : Nat) : (endCmd s page st).pcie = s.pcie := by unfold endCmd; simp
@[simp] theorem endCmd_queues (s : State) (page st : Nat) : (endCmd s page st).queues = s.queues := by unfold endCmd; simp
@[simp] theorem endCmd_pipe (s : State) (page st : Nat) : (endCmd s page st).pipe = s.pipe := by unfold endCmd; simp
@[simp] theorem endCmd_sched (s : State) (page st : Nat) : (endCmd s page st).sched = s.sched := by unfold endCmd; simp
@[simp] theorem endCmd_tbl (s : State) (page st : Nat) : (endCmd s page st).tbl = s.tbl := by unfold endCmd; simp
@[simp] theorem endCmd_cip (s : State) (page st : Nat) : (endCmd s page st).cip = s.cip := by unfold endCmd; simp
@[simp] theorem endCmd_crt (s : State) (page st : Nat) : (endCmd s page st).crt = s.crt := by unfold endCmd; simp
@[simp] theorem endCmd_mbx (s : State) (page st : Nat) : (endCmd s page st).mbx = s.mbx := by unfold endCmd; simp
@[simp] theorem endCmd_cus (s : State) (page st : Nat) : (endCmd s page st).cus = s.cus := by unfold endCmd; simp
@[simp] theorem endCmd_logs (s : State) (page st : Nat) : (endCmd s page st).logs = s.logs := by unfold endCmd; simp
@[simp] theorem endCmd_ports (s : State) (page st : Nat) : (endCmd s page st).ports = s.ports := by unfold endCmd; simp
@[simp] theorem endCmd_cbp (s : State) (page st : Nat) : (endCmd s page st).cbp = s.cbp := by unfold endCmd; simp
@[simp] theorem endCmd_mem (s : State) (page st : Nat) : (endCmd s page st).mem = s.mem := by unfold endCmd; simp
@[simp] theorem endCmd_ecc (s : State) (page st : Nat) : (endCmd s page st).ecc = s.ecc := by unfold endCmd; simp
@[simp] theorem endCmd_free (s : State) (page st : Nat) : (endCmd s page st).free = s.free := by unfold endCmd; simp
@[simp] theorem endCmd_out (s : State) (page st : Nat) : (endCmd s page st).out = s.out := by unfold endCmd; simp

/-! `acceptCmd` -/
@[simp] theorem acceptCmd_pending (s : State) (page code seq : Nat) (via : Master) : (acceptCmd s page code seq via).pending = s.pending := by unfold acceptCmd; dsimp only; split <;> simp
@[simp] theorem acceptCmd_eff (s : State) (page code seq : Nat) (via : Master) : (acceptCmd s page code seq via).eff = s.eff := by unfold acceptCmd; dsimp only; split <;> simp
@[simp] theorem acceptCmd_wide (s : State) (page code seq : Nat) (via : Master) : (acceptCmd s page code seq via).wide = s.wide := by unfold acceptCmd; dsimp only; split <;> simp
@[simp] theorem acceptCmd_power (s : State) (page code seq : Nat) (via : Master) : (acceptCmd s page code seq via).power = s.power := by unfold acceptCmd; dsimp only; split <;> simp
@[simp] theorem acceptCmd_time (s : State) (page code seq : Nat) (via : Master) : (acceptCmd s page code seq via).time = s.time := by unfold acceptCmd; dsimp only; split <;> simp
@[simp] theorem acceptCmd_tck (s : State) (page code seq : Nat) (via : Master) : (acceptCmd s page code seq via).tck = s.tck := by unfold acceptCmd; dsimp only; split <;> simp
@[simp] theorem acceptCmd_cred (s : State) (page code seq : Nat) (via : Master) : (acceptCmd s page code seq via).cred = s.cred := by unfold acceptCmd; dsimp only; split <;> simp
@[simp] theorem acceptCmd_gov (s : State) (page code seq : Nat) (via : Master) : (acceptCmd s page code seq via).gov = s.gov := by unfold acceptCmd; dsimp only; split <;> simp
@[simp] theorem acceptCmd_red (s : State) (page code seq : Nat) (via : Master) : (acceptCmd s page code seq via).red = s.red := by unfold acceptCmd; dsimp only; split <;> simp
@[simp] theorem acceptCmd_vkeep (s : State) (page code seq : Nat) (via : Master) : (acceptCmd s page code seq via).vkeep = s.vkeep := by unfold acceptCmd; dsimp only; split <;> simp
@[simp] theorem acceptCmd_alog (s : State) (page code seq : Nat) (via : Master) : (acceptCmd s page code seq via).alog = s.alog := by unfold acceptCmd; dsimp only; split <;> simp
@[simp] theorem acceptCmd_evc (s : State) (page code seq : Nat) (via : Master) : (acceptCmd s page code seq via).evc = s.evc := by unfold acceptCmd; dsimp only; split <;> simp
@[simp] theorem acceptCmd_board (s : State) (page code seq : Nat) (via : Master) : (acceptCmd s page code seq via).board = s.board := by unfold acceptCmd; dsimp only; split <;> simp
@[simp] theorem acceptCmd_pcie (s : State) (page code seq : Nat) (via : Master) : (acceptCmd s page code seq via).pcie = s.pcie := by unfold acceptCmd; dsimp only; split <;> simp
@[simp] theorem acceptCmd_queues (s : State) (page code seq : Nat) (via : Master) : (acceptCmd s page code seq via).queues = s.queues := by unfold acceptCmd; dsimp only; split <;> simp
@[simp] theorem acceptCmd_pipe (s : State) (page code seq : Nat) (via : Master) : (acceptCmd s page code seq via).pipe = s.pipe := by unfold acceptCmd; dsimp only; split <;> simp
@[simp] theorem acceptCmd_sched (s : State) (page code seq : Nat) (via : Master) : (acceptCmd s page code seq via).sched = s.sched := by unfold acceptCmd; dsimp only; split <;> simp
@[simp] theorem acceptCmd_tbl (s : State) (page code seq : Nat) (via : Master) : (acceptCmd s page code seq via).tbl = s.tbl := by unfold acceptCmd; dsimp only; split <;> simp
@[simp] theorem acceptCmd_cip (s : State) (page code seq : Nat) (via : Master) : (acceptCmd s page code seq via).cip = s.cip := by unfold acceptCmd; dsimp only; split <;> simp
@[simp] theorem acceptCmd_crt (s : State) (page code seq : Nat) (via : Master) : (acceptCmd s page code seq via).crt = s.crt := by unfold acceptCmd; dsimp only; split <;> simp
@[simp] theorem acceptCmd_mbx (s : State) (page code seq : Nat) (via : Master) : (acceptCmd s page code seq via).mbx = s.mbx := by unfold acceptCmd; dsimp only; split <;> simp
@[simp] theorem acceptCmd_cus (s : State) (page code seq : Nat) (via : Master) : (acceptCmd s page code seq via).cus = s.cus := by unfold acceptCmd; dsimp only; split <;> simp
@[simp] theorem acceptCmd_logs (s : State) (page code seq : Nat) (via : Master) : (acceptCmd s page code seq via).logs = s.logs := by unfold acceptCmd; dsimp only; split <;> simp
@[simp] theorem acceptCmd_ports (s : State) (page code seq : Nat) (via : Master) : (acceptCmd s page code seq via).ports = s.ports := by unfold acceptCmd; dsimp only; split <;> simp
@[simp] theorem acceptCmd_cbp (s : State) (page code seq : Nat) (via : Master) : (acceptCmd s page code seq via).cbp = s.cbp := by unfold acceptCmd; dsimp only; split <;> simp
@[simp] theorem acceptCmd_mem (s : State) (page code seq : Nat) (via : Master) : (acceptCmd s page code seq via).mem = s.mem := by unfold acceptCmd; dsimp only; split <;> simp
@[simp] theorem acceptCmd_ecc (s : State) (page code seq : Nat) (via : Master) : (acceptCmd s page code seq via).ecc = s.ecc := by unfold acceptCmd; dsimp only; split <;> simp
@[simp] theorem acceptCmd_free (s : State) (page code seq : Nat) (via : Master) : (acceptCmd s page code seq via).free = s.free := by unfold acceptCmd; dsimp only; split <;> simp
@[simp] theorem acceptCmd_out (s : State) (page code seq : Nat) (via : Master) : (acceptCmd s page code seq via).out = s.out := by unfold acceptCmd; dsimp only; split <;> simp

end Sys2Proof.Machine
end

