-- ==== Sys2Proof/Laws/Store.lean ====
section
/-! SUPPORT. The laws of the store: read after write, writes elsewhere, and that every operation keeps the canonical
form. -/
namespace Sys2Proof.Machine

variable {α : Type}

@[simp] theorem tget_nil (d : Nat → α) (k : Nat) : tget d [] k = d k := rfl

@[simp] theorem twf_nil [DecidableEq α] (d : Nat → α) : twf d [] = true := rfl

theorem twfFrom_tmap [DecidableEq α] (d : Nat → α) (g : α → α) : ∀ (t : Table α) (lo : Nat),
    twfFrom d lo t = true → twfFrom d lo (tmap d g t) = true
  | [], _, _ => rfl
  | (a, x) :: t, lo, h => by
    simp only [twfFrom, Bool.and_eq_true, decide_eq_true_eq] at h
    have ih := twfFrom_tmap d g t (a + 1) h.2
    have mono : ∀ (t : Table α) (lo lo' : Nat), lo' ≤ lo → twfFrom d lo t = true → twfFrom d lo' t = true := by
      intro t
      cases t with
      | nil => exact fun _ _ _ _ => rfl
      | cons e t =>
        intro lo lo' hl hw
        simp only [twfFrom, Bool.and_eq_true, decide_eq_true_eq] at hw ⊢
        exact ⟨⟨by omega, hw.1.2⟩, hw.2⟩
    unfold tmap at ih ⊢
    rw [List.map_cons, List.filter_cons]
    split
    · rename_i hc
      simp only [decide_eq_true_eq] at hc
      simp only [twfFrom, Bool.and_eq_true, decide_eq_true_eq]
      exact ⟨⟨h.1.1, hc⟩, ih⟩
    · exact mono _ _ _ (by omega) ih

/-- Changing the entries of a table keeps its form. -/
theorem twf_tmap [DecidableEq α] (d : Nat → α) (g : α → α) (t : Table α) (h : twf d t = true) :
    twf d (tmap d g t) = true := twfFrom_tmap d g t 0 h

/-- Below the lower bound of its keys a table reads as unlisted. -/
theorem tget_below [DecidableEq α] (d : Nat → α) : ∀ (t : Table α) (lo k : Nat),
    twfFrom d lo t = true → k < lo → tget d t k = d k
  | [], _, _, _, _ => rfl
  | (a, x) :: t, lo, k, h, hk => by
    simp only [twfFrom, Bool.and_eq_true, decide_eq_true_eq] at h
    have hne : a ≠ k := by omega
    simp only [tget, if_neg hne]
    exact tget_below d t (a + 1) k h.2 (by omega)

/-- The canonical form holds from any smaller bound. -/
theorem twfFrom_mono [DecidableEq α] (d : Nat → α) : ∀ (t : Table α) (lo lo' : Nat),
    lo' ≤ lo → twfFrom d lo t = true → twfFrom d lo' t = true
  | [], _, _, _, _ => rfl
  | (a, x) :: t, lo, lo', hle, h => by
    simp only [twfFrom, Bool.and_eq_true, decide_eq_true_eq] at h ⊢
    exact ⟨⟨by omega, h.1.2⟩, h.2⟩

theorem twfFrom_tset [DecidableEq α] (d : Nat → α) (k : Nat) (v : α) : ∀ (t : Table α) (lo : Nat),
    lo ≤ k → twfFrom d lo t = true → twfFrom d lo (tset d t k v) = true
  | [], lo, hk, _ => by
    unfold tset
    split
    · rfl
    · simp_all [twfFrom]
  | (a, x) :: t, lo, hk, h => by
    have h0 := h
    simp only [twfFrom, Bool.and_eq_true, decide_eq_true_eq] at h
    unfold tset
    split
    · split
      · exact h0
      · simp only [twfFrom, Bool.and_eq_true, decide_eq_true_eq]
        exact ⟨⟨hk, by assumption⟩, ⟨by omega, h.1.2⟩, h.2⟩
    · split
      · split
        · exact twfFrom_mono d t (a + 1) lo (by omega) h.2
        · simp only [twfFrom, Bool.and_eq_true, decide_eq_true_eq]
          subst_vars
          exact ⟨⟨hk, by assumption⟩, h.2⟩
      · simp only [twfFrom, Bool.and_eq_true, decide_eq_true_eq]
        exact ⟨h.1, twfFrom_tset d k v t (a + 1) (by omega) h.2⟩

/-- A write keeps the canonical form. -/
theorem twf_tset [DecidableEq α] (d : Nat → α) (t : Table α) (k : Nat) (v : α) (h : twf d t = true) :
    twf d (tset d t k v) = true := twfFrom_tset d k v t 0 (Nat.zero_le _) h

theorem twfFrom_tdrop [DecidableEq α] (d : Nat → α) (p : Nat → Bool) : ∀ (t : Table α) (lo : Nat),
    twfFrom d lo t = true → twfFrom d lo (tdrop p t) = true
  | [], _, _ => rfl
  | (a, x) :: t, lo, h => by
    simp only [twfFrom, Bool.and_eq_true, decide_eq_true_eq] at h
    have ih := twfFrom_tdrop d p t (a + 1) h.2
    unfold tdrop at ih ⊢
    simp only [List.filter_cons]
    split
    · simp only [twfFrom, Bool.and_eq_true, decide_eq_true_eq]
      exact ⟨h.1, ih⟩
    · exact twfFrom_mono d _ (a + 1) lo (by omega) ih

/-- Dropping entries keeps the canonical form. -/
theorem twf_tdrop [DecidableEq α] (d : Nat → α) (p : Nat → Bool) (t : Table α) (h : twf d t = true) :
    twf d (tdrop p t) = true := twfFrom_tdrop d p t 0 h

theorem tget_tset_from [DecidableEq α] (d : Nat → α) (k : Nat) (v : α) : ∀ (t : Table α) (lo : Nat),
    twfFrom d lo t = true → tget d (tset d t k v) k = v
  | [], _, _ => by
    unfold tset
    split
    · simp_all [tget]
    · simp [tget]
  | (a, x) :: t, lo, h => by
    simp only [twfFrom, Bool.and_eq_true, decide_eq_true_eq] at h
    unfold tset
    split
    · rename_i hlt
      split
      · rename_i hv
        have hne : a ≠ k := by omega
        simp only [tget, if_neg hne]
        rw [tget_below d t (a + 1) k h.2 (by omega), hv]
      · simp [tget]
    · split
      · split
        · rename_i hk hv
          rw [tget_below d t (a + 1) k h.2 (by omega), hv]
        · simp [tget]
      · rename_i h1 h2
        have hne : a ≠ k := fun e => h2 e.symm
        simp only [tget, if_neg hne]
        exact tget_tset_from d k v t (a + 1) h.2

/-- A read after a write to the same key gives the value written. -/
theorem tget_tset_same [DecidableEq α] (d : Nat → α) (t : Table α) (k : Nat) (v : α) (h : twf d t = true) :
    tget d (tset d t k v) k = v := tget_tset_from d k v t 0 h

/-- A write leaves every other key as it is. -/
theorem tget_tset_other [DecidableEq α] (d : Nat → α) (k j : Nat) (v : α) (hj : k ≠ j) : ∀ t : Table α,
    tget d (tset d t k v) j = tget d t j
  | [] => by
    unfold tset
    split
    · rfl
    · simp [tget, hj]
  | (a, x) :: t => by
    have ih := tget_tset_other d k j v hj t
    unfold tset
    split
    · split
      · rfl
      · simp [tget, hj]
    · split
      · rename_i hk
        subst hk
        split <;> simp [tget, hj]
      · simp only [tget, ih]

/-- What a dropped key reads as, and that the others stay. -/
theorem tget_tdrop [DecidableEq α] (d : Nat → α) (p : Nat → Bool) (k : Nat) : ∀ t : Table α,
    tget d (tdrop p t) k = if p k then d k else tget d t k
  | [] => by simp [tdrop]
  | (a, x) :: t => by
    have ih := tget_tdrop d p k t
    unfold tdrop at ih ⊢
    simp only [List.filter_cons]
    by_cases ha : p a = true
    · simp only [ha, Bool.not_true, Bool.false_eq_true, if_false, ih, tget]
      by_cases hk : a = k
      · subst hk; simp [ha]
      · simp [hk]
    · have hb : p a = false := by simpa using ha
      simp only [hb, Bool.not_false, if_true, tget, ih]
      by_cases hk : a = k
      · subst hk; simp [hb]
      · simp [hk]

theorem tget_tsetMany_below [DecidableEq α] (d : Nat → α) : ∀ (l : List α) (t : Table α) (k j : Nat), j < k →
    tget d (tsetMany d t k l) j = tget d t j
  | [], _, _, _, _ => rfl
  | v :: vs, t, k, j, h => by
    rw [tsetMany, tget_tsetMany_below d vs _ _ j (by omega), tget_tset_other d k j v (by omega)]

end Sys2Proof.Machine
end

