-- ==== Sys2Proof/Laws/Keeps.lean ====
section
/-! SUPPORT. What operations of the device leave alone, stated once as a relation between the state before and after: the
queue of commands is untouched, the stores stay canonical, at most one slice stays active; and, for the kinds of operation
that a `Kind` names, recovery is not left, phase, time and tick stay, the registers in force stay, and no root key
appears. The shared operations come first. -/
namespace Sys2Proof.Machine

/-- What an operation is claimed to leave alone: recovery is not left, the phase stays, the clock stays, the registers in
force stay, no root key appears. -/
structure Kind where
  rcv : Bool
  pha : Bool
  clk : Bool
  eff : Bool
  key : Bool

/-- The stores that only an operation of their own changes. -/
abbrev storesOf (wide : Table Nat) (pcie : PcieUnit) (vkeep : VkeepUnit) (tck : TickUnit) (gov : PowerGov)
    (queues : QueueUnit) (pipe : PipeUnit) (sched : SchedUnit) (tbl : Table TblUnit) (cip : CipUnit) (crt : CrtUnit)
    (mbx : MbxUnit) (cus : CusUnit) (logs : Table LogSlot) (ports : Table PortUnit) (ecc : EccUnit) :=
  (wide, pcie.cfg, pcie.cfgEff, pcie.msix, vkeep.slots, tck.bank0, tck.bank1, gov.coef0, gov.coef1, queues.wq,
  queues.cr, queues.paced, pipe.frames, sched.nodes, sched.vt, sched.fifo, sched.spillQ, sched.police, sched.rings,
  tbl, cip.cache, cip.replay, crt.chans, crt.wins, crt.copies, mbx.dirs, mbx.epochs, cus.chans, logs, ports, ecc.log)

/-- The phase, and whether bring-up has ended. -/
abbrev phaseHeld (power : PowerUnit) : Phase × Bool := (power.phase, power.bringupDone)

/-- What only a tick boundary or a device reset changes besides: PTP time, and the numbering of ticks. -/
abbrev clockOf (time : TimeUnit) (tck : TickUnit) : Nat × Bool × Nat × Int × Nat × Nat × Nat × Nat :=
  (time.ptp, time.timeValid, tck.tick, tck.phi, tck.len, tck.period, tck.boundaries, tck.cycles)

/-- The root key of slot n is as before, or the slot is empty. -/
def KeyKept (s t : State) (n : Nat) : Prop :=
  (getSlot t n).half = (getSlot s n).half ∨ (getSlot t n).half = none

structure Keeps (k : Kind) (s t : State) : Prop where
  pending : t.pending = s.pending
  wf : Memory.wf s = true → Memory.wf t = true
  roles : RolesOk s → RolesOk t
  recovery : k.rcv = true → InRecovery s → InRecovery t
  phase : k.pha = true → phaseHeld t.power = phaseHeld s.power
  clock : k.clk = true → clockOf t.time t.tck = clockOf s.time s.tck
  inForce : k.eff = true → t.eff = s.eff
  keys : k.key = true → Memory.wf s = true → ∀ n, KeyKept s t n

theorem KeyKept.same {s t : State} (h : t.vkeep.slots = s.vkeep.slots) (n : Nat) : KeyKept s t n := by
  unfold KeyKept getSlot; rw [h]; exact .inl rfl

theorem Keeps.refl {k : Kind} (s : State) : Keeps k s s :=
  ⟨rfl, id, id, fun _ => id, fun _ => rfl, fun _ => rfl, fun _ => rfl, fun _ _ n => KeyKept.same rfl n⟩

theorem Keeps.trans {k : Kind} {s t u : State} (h : Keeps k s t) (g : Keeps k t u) : Keeps k s u :=
  ⟨g.pending.trans h.pending, g.wf ∘ h.wf, g.roles ∘ h.roles, fun e => g.recovery e ∘ h.recovery e,
    fun e => (g.phase e).trans (h.phase e), fun e => (g.clock e).trans (h.clock e), fun e => (g.inForce e).trans (h.inForce e), fun e w n => by
      rcases g.keys e (h.wf w) n with a | a
      · rcases h.keys e w n with b | b
        · exact .inl (a.trans b)
        · exact .inr (a.trans b)
      · exact .inr a⟩

/-- The parts of the canonical form. -/
structure Memory.Parts (s : State) : Prop where
  regs : twf regDflt s.regs = true
  eff : twf regDflt s.eff = true
  mem : twf (fun _ => MemChan.reset) s.mem = true
  wide : twf (fun _ => 0) s.wide = true
  cfg : twf cfgDflt s.pcie.cfg = true
  cfgEff : twf cfgDflt s.pcie.cfgEff = true
  msix : twf msixDflt s.pcie.msix = true
  slots : twf (fun _ => emptySlot) s.vkeep.slots = true
  bank0 : twf (fun _ => 0) s.tck.bank0 = true
  bank1 : twf (fun _ => 0) s.tck.bank1 = true
  coef0 : twf charWord s.gov.coef0 = true
  coef1 : twf charWord s.gov.coef1 = true
  wq : twf (fun _ => freshWq) s.queues.wq = true
  cr : twf (fun _ => freshCr) s.queues.cr = true
  paced : twf (fun _ => false) s.queues.paced = true
  frames : twf (fun _ => none) s.pipe.frames = true
  nodes : twf (fun _ => freshNode) s.sched.nodes = true
  vt : twf (fun _ => 0) s.sched.vt = true
  fifo : twf (fun _ => []) s.sched.fifo = true
  spillQ : twf (fun _ => []) s.sched.spillQ = true
  police : twf (fun _ => (0, 0)) s.sched.police = true
  rings : twf (fun _ => []) s.sched.rings = true
  tbl : twf (fun _ => TblUnit.reset) s.tbl = true
  cache : twf (fun _ => []) s.cip.cache = true
  replay : twf (fun _ => 0) s.cip.replay = true
  crtChans : twf (fun _ => CrtChan.closed) s.crt.chans = true
  wins : twf (fun _ => CrtWin.reset) s.crt.wins = true
  copies : twf (fun _ => (0, 0)) s.crt.copies = true
  dirs : twf (fun _ => MbxDir.empty) s.mbx.dirs = true
  epochs : twf (fun _ => 0) s.mbx.epochs = true
  cusChans : twf (fun _ => CchChan.closed) s.cus.chans = true
  logs : twf (fun _ => LogSlot.free) s.logs = true
  ports : twf (fun _ => PortUnit.reset) s.ports = true
  ecclog : twf (fun _ => none) s.ecc.log = true
  blocks : (s.mem.all (fun e => twf (fun _ => []) e.2.blocks)) = true

theorem Memory.wf_iff {s : State} : Memory.wf s = true ↔ Memory.Parts s := by
  unfold Memory.wf
  simp only [Bool.and_eq_true]
  constructor
  · rintro ⟨⟨⟨⟨⟨⟨⟨⟨⟨⟨⟨⟨⟨⟨⟨⟨⟨⟨⟨⟨⟨⟨⟨⟨⟨⟨⟨⟨⟨⟨⟨⟨⟨⟨p0, p1⟩, p2⟩, p3⟩, p4⟩, p5⟩, p6⟩, p7⟩, p8⟩, p9⟩, p10⟩, p11⟩, p12⟩, p13⟩, p14⟩, p15⟩, p16⟩, p17⟩, p18⟩, p19⟩, p20⟩, p21⟩, p22⟩, p23⟩, p24⟩, p25⟩, p26⟩, p27⟩, p28⟩, p29⟩, p30⟩, p31⟩, p32⟩, p33⟩, p34⟩
    exact ⟨p0, p1, p2, p3, p4, p5, p6, p7, p8, p9, p10, p11, p12, p13, p14, p15, p16, p17, p18, p19, p20, p21, p22, p23, p24, p25, p26, p27, p28, p29, p30, p31, p32, p33, p34⟩
  · rintro ⟨p0, p1, p2, p3, p4, p5, p6, p7, p8, p9, p10, p11, p12, p13, p14, p15, p16, p17, p18, p19, p20, p21, p22, p23, p24, p25, p26, p27, p28, p29, p30, p31, p32, p33, p34⟩
    exact ⟨⟨⟨⟨⟨⟨⟨⟨⟨⟨⟨⟨⟨⟨⟨⟨⟨⟨⟨⟨⟨⟨⟨⟨⟨⟨⟨⟨⟨⟨⟨⟨⟨⟨p0, p1⟩, p2⟩, p3⟩, p4⟩, p5⟩, p6⟩, p7⟩, p8⟩, p9⟩, p10⟩, p11⟩, p12⟩, p13⟩, p14⟩, p15⟩, p16⟩, p17⟩, p18⟩, p19⟩, p20⟩, p21⟩, p22⟩, p23⟩, p24⟩, p25⟩, p26⟩, p27⟩, p28⟩, p29⟩, p30⟩, p31⟩, p32⟩, p33⟩, p34⟩

theorem Memory.wf_regs {s : State} (h : Memory.wf s = true) : twf regDflt s.regs = true := (Memory.wf_iff.1 h).regs
theorem Memory.wf_cfg {s : State} (h : Memory.wf s = true) : twf cfgDflt s.pcie.cfg = true := (Memory.wf_iff.1 h).cfg
theorem Memory.wf_slots {s : State} (h : Memory.wf s = true) : twf (fun _ => emptySlot) s.vkeep.slots = true :=
  (Memory.wf_iff.1 h).slots

/-- The canonical form of a state whose stores are those of another. -/
theorem Memory.wf_of {s t : State} (hr : t.regs = s.regs) (he : t.eff = s.eff) (hm : t.mem = s.mem)
    (hx : storesOf t.wide t.pcie t.vkeep t.tck t.gov t.queues t.pipe t.sched t.tbl t.cip t.crt t.mbx t.cus t.logs t.ports t.ecc
      = storesOf s.wide s.pcie s.vkeep s.tck s.gov s.queues s.pipe s.sched s.tbl s.cip s.crt s.mbx s.cus s.logs s.ports s.ecc) (w : Memory.wf s = true) : Memory.wf t = true := by
  simp only [storesOf, Prod.mk.injEq] at hx
  obtain ⟨h0, h1, h2, h3, h4, h5, h6, h7, h8, h9, h10, h11, h12, h13, h14, h15, h16, h17, h18, h19, h20, h21, h22, h23, h24, h25, h26, h27, h28, h29, h30⟩ := hx
  rw [Memory.wf_iff] at w ⊢
  constructor <;> simp only [hr, he, hm, h0, h1, h2, h3, h4, h5, h6, h7, h8, h9, h10, h11, h12, h13, h14, h15, h16, h17, h18, h19, h20, h21, h22, h23, h24, h25, h26, h27, h28, h29, h30]
  all_goals first | exact w.blocks | exact w.regs | exact w.eff | exact w.mem | exact w.wide | exact w.cfg | exact w.cfgEff | exact w.msix | exact w.slots | exact w.bank0 | exact w.bank1 | exact w.coef0 | exact w.coef1 | exact w.wq | exact w.cr | exact w.paced | exact w.frames | exact w.nodes | exact w.vt | exact w.fifo | exact w.spillQ | exact w.police | exact w.rings | exact w.tbl | exact w.cache | exact w.replay | exact w.crtChans | exact w.wins | exact w.copies | exact w.dirs | exact w.epochs | exact w.cusChans | exact w.logs | exact w.ports | exact w.ecclog

/-- An update of anything else. -/
theorem Keeps.same {k : Kind} {s t u : State} (h : Keeps k s t) (hp : u.pending = t.pending) (hr : u.regs = t.regs)
    (he : u.eff = t.eff) (hm : u.mem = t.mem) (ho : u.red.ochre.role = t.red.ochre.role)
    (hs : u.red.slate.role = t.red.slate.role)
    (hx : storesOf u.wide u.pcie u.vkeep u.tck u.gov u.queues u.pipe u.sched u.tbl u.cip u.crt u.mbx u.cus u.logs u.ports u.ecc
      = storesOf t.wide t.pcie t.vkeep t.tck t.gov t.queues t.pipe t.sched t.tbl t.cip t.crt t.mbx t.cus t.logs t.ports t.ecc)
    (hph : u.power.phase = t.power.phase)
    (hp2 : k.pha = true → phaseHeld u.power = phaseHeld t.power)
    (hc : k.clk = true → clockOf u.time u.tck = clockOf t.time t.tck) (hru : u.running = t.running) :
    Keeps k s u := by
  refine h.trans ⟨hp, Memory.wf_of hr he hm hx, fun w => ?_, fun _ w => ?_, hp2, hc, fun _ => he, fun _ _ n => ?_⟩
  · unfold RolesOk at w ⊢; rw [ho, hs]; exact w
  · unfold InRecovery phaseCmd runningOn at w ⊢; rw [hph, hru]; exact w
  · exact KeyKept.same (congrArg (fun x => x.2.2.2.2.1) hx) n

/-- A state built from the kept fields of another. -/
theorem Keeps.upd {k : Kind} {s t : State} {wide : Table Nat} {power : PowerUnit} {time : TimeUnit} {tck : TickUnit}
    {cred : Credits} {gov : PowerGov} {red : RedUnit} {vkeep : VkeepUnit} {alog : AlarmLog} {evc : EvcUnit} {board :
    BoardUnit} {pcie : PcieUnit} {queues : QueueUnit} {pipe : PipeUnit} {sched : SchedUnit} {tbl : Table TblUnit} {cip
    : CipUnit} {crt : CrtUnit} {mbx : MbxUnit} {cus : CusUnit} {logs : Table LogSlot} {ports : Table PortUnit} {cbp :
    CbpUnit} {ecc : EccUnit} {free : Nat} {out : List Out}
    (h : Keeps k s t) (ho : red.ochre.role = t.red.ochre.role) (hs : red.slate.role = t.red.slate.role)
    (hx : storesOf wide pcie vkeep tck gov queues pipe sched tbl cip crt mbx cus logs ports ecc
      = storesOf t.wide t.pcie t.vkeep t.tck t.gov t.queues t.pipe t.sched t.tbl t.cip t.crt t.mbx t.cus t.logs t.ports t.ecc)
    (hp : phaseHeld power = phaseHeld t.power) (hc : clockOf time tck = clockOf t.time t.tck) :
    Keeps k s (State.mk t.pending t.regs t.eff wide t.running power time tck cred gov red vkeep alog evc board pcie
    queues pipe sched tbl cip crt mbx cus logs ports cbp t.mem ecc free out) :=
  h.same rfl rfl rfl rfl ho hs hx (congrArg (·.1) hp) (fun _ => hp) (fun _ => hc) rfl

/-- The same for an operation of the clock. -/
theorem Keeps.updClk {kr kp ke ky : Bool} {s t : State} {wide : Table Nat} {power : PowerUnit} {time : TimeUnit} {tck : TickUnit}
    {cred : Credits} {gov : PowerGov} {red : RedUnit} {vkeep : VkeepUnit} {alog : AlarmLog} {evc : EvcUnit} {board :
    BoardUnit} {pcie : PcieUnit} {queues : QueueUnit} {pipe : PipeUnit} {sched : SchedUnit} {tbl : Table TblUnit} {cip
    : CipUnit} {crt : CrtUnit} {mbx : MbxUnit} {cus : CusUnit} {logs : Table LogSlot} {ports : Table PortUnit} {cbp :
    CbpUnit} {ecc : EccUnit} {free : Nat} {out : List Out}
    (h : Keeps ⟨kr, kp, false, ke, ky⟩ s t) (ho : red.ochre.role = t.red.ochre.role) (hs : red.slate.role = t.red.slate.role)
    (hx : storesOf wide pcie vkeep tck gov queues pipe sched tbl cip crt mbx cus logs ports ecc
      = storesOf t.wide t.pcie t.vkeep t.tck t.gov t.queues t.pipe t.sched t.tbl t.cip t.crt t.mbx t.cus t.logs t.ports t.ecc)
    (hp : phaseHeld power = phaseHeld t.power) :
    Keeps ⟨kr, kp, false, ke, ky⟩ s (State.mk t.pending t.regs t.eff wide t.running power time tck cred gov red vkeep alog evc board pcie
    queues pipe sched tbl cip crt mbx cus logs ports cbp t.mem ecc free out) :=
  h.same rfl rfl rfl rfl ho hs hx (congrArg (·.1) hp) (fun _ => hp) (fun e => by cases e) rfl

/-- The same in a reset of the device, which leaves any phase. -/
theorem Keeps.updReset {kc ke ky : Bool} {s t : State} {wide : Table Nat} {power : PowerUnit} {time : TimeUnit} {tck : TickUnit}
    {cred : Credits} {gov : PowerGov} {red : RedUnit} {vkeep : VkeepUnit} {alog : AlarmLog} {evc : EvcUnit} {board :
    BoardUnit} {pcie : PcieUnit} {queues : QueueUnit} {pipe : PipeUnit} {sched : SchedUnit} {tbl : Table TblUnit} {cip
    : CipUnit} {crt : CrtUnit} {mbx : MbxUnit} {cus : CusUnit} {logs : Table LogSlot} {ports : Table PortUnit} {cbp :
    CbpUnit} {ecc : EccUnit} {free : Nat} {out : List Out}
    (h : Keeps ⟨false, false, kc, ke, ky⟩ s t) (ho : red.ochre.role = t.red.ochre.role) (hs : red.slate.role = t.red.slate.role)
    (hx : storesOf wide pcie vkeep tck gov queues pipe sched tbl cip crt mbx cus logs ports ecc
      = storesOf t.wide t.pcie t.vkeep t.tck t.gov t.queues t.pipe t.sched t.tbl t.cip t.crt t.mbx t.cus t.logs t.ports t.ecc)
    (hc : clockOf time tck = clockOf t.time t.tck) :
    Keeps ⟨false, false, kc, ke, ky⟩ s (State.mk t.pending t.regs t.eff wide t.running power time tck cred gov red vkeep alog evc board pcie
    queues pipe sched tbl cip crt mbx cus logs ports cbp t.mem ecc free out) := by
  refine h.trans ⟨rfl, Memory.wf_of rfl rfl rfl hx, fun w => ?_, (fun e => by cases e), (fun e => by cases e), fun _ => hc,
    fun _ => rfl,
    fun _ _ n => KeyKept.same (congrArg (fun x => x.2.2.2.2.1) hx) n⟩
  unfold RolesOk at w ⊢
  dsimp only
  rw [ho, hs]; exact w

theorem Keeps.ite {k : Kind} {s a b : State} {c : Prop} [Decidable c] (ha : Keeps k s a) (hb : Keeps k s b) :
    Keeps k s (if c then a else b) := by split <;> assumption

theorem Keeps.foldl {α : Type} {k : Kind} {s : State} (f : State → α → State) (hf : ∀ t a, Keeps k s t → Keeps k s (f t a)) :
    ∀ (l : List α) (t : State), Keeps k s t → Keeps k s (l.foldl f t)
  | [], _, h => h
  | a :: l, t, h => Keeps.foldl f hf l (f t a) (hf t a h)

theorem Keeps.foldlP {α β : Type} {k : Kind} {s : State} (f : State × β → α → State × β)
    (hf : ∀ x a, Keeps k s x.1 → Keeps k s (f x a).1) :
    ∀ (l : List α) (x : State × β), Keeps k s x.1 → Keeps k s (l.foldl f x).1
  | [], _, h => h
  | a :: l, x, h => Keeps.foldlP f hf l (f x a) (hf x a h)

/-- An outcome that keeps everything, if it is a next state. -/
def KeepsO (k : Kind) (s : State) (o : Host.Outcome State Fault Refusal) : Prop := ∀ t, o = .next t → Keeps k s t

theorem KeepsO.next {k : Kind} {s t : State} (h : Keeps k s t) : KeepsO k s (.next t) := by
  rintro u ⟨⟩; exact h

theorem KeepsO.ite {k : Kind} {s : State} {a b : Host.Outcome State Fault Refusal} {c : Prop} [Decidable c]
    (ha : KeepsO k s a) (hb : KeepsO k s b) : KeepsO k s (if c then a else b) := by split <;> assumption

/-- A store that keeps the canonical form, of an operation that leaves the rest of what is kept alone. -/
theorem Keeps.store {k : Kind} {sb s t : State} (hw : Memory.Parts s → Memory.Parts t) (hp : t.pending = s.pending)
    (hd : t.red = s.red) (hph : t.power = s.power) (hc : clockOf t.time t.tck = clockOf s.time s.tck)
    (hru : t.running = s.running) (he : t.eff = s.eff) (hv : t.vkeep = s.vkeep) (h : Keeps k sb s) : Keeps k sb t := by
  refine h.trans ⟨hp, fun w => Memory.wf_iff.2 (hw (Memory.wf_iff.1 w)), fun w => ?_, fun _ w => ?_, fun _ => ?_, fun _ => hc,
    fun _ => he, fun _ _ n => KeyKept.same (by rw [hv]) n⟩
  · unfold RolesOk at w ⊢; rw [hd]; exact w
  · unfold InRecovery phaseCmd runningOn at w ⊢; rw [hph, hru]; exact w
  · rw [hph]

theorem wr_keeps {k : Kind} {s0 s : State} (a : Nat) (w : Word) (h : Keeps k s0 s) : Keeps k s0 (wr s a w) :=
  h.store (fun p : Memory.Parts s => { p with regs := twf_tset _ _ _ _ p.regs }) rfl rfl rfl rfl rfl rfl rfl

end Sys2Proof.Machine
end

