-- ==== Sys2Proof/Laws/KeepsOps.lean ====
section
/-! SUPPORT. The operations of Ops keep what Laws/Keeps.lean states. -/
set_option linter.tactic.unusedName false
set_option linter.unusedVariables false
namespace Sys2Proof.Machine

theorem wrMany_keeps {kk : Kind} {sb : State} : ∀ (l : List Word) (s : State) (a : Nat), Keeps kk sb s →
    Keeps kk sb (wrMany s a l)
  | [], _, _, h => h
  | _ :: l, _, _, h => wrMany_keeps l _ _ (wr_keeps _ _ h)

theorem bumpBy_keeps {kk : Kind} {sb : State} (s : State) (a n : Nat) (hk : Keeps kk sb s) :
    Keeps kk sb (bumpBy s a n) := by
  unfold bumpBy
  repeat' first | with_reducible assumption | with_reducible apply wr_keeps | (with_reducible apply Keeps.foldl; intro _ _ _) | with_reducible apply Keeps.ite | split | (with_reducible refine Keeps.upd ?_ rfl rfl rfl rfl rfl)

theorem bump_keeps {kk : Kind} {sb : State} (s : State) (a : Nat) (hk : Keeps kk sb s) :
    Keeps kk sb (bump s a) := by
  unfold bump
  repeat' first | with_reducible assumption | with_reducible apply bumpBy_keeps | (with_reducible apply Keeps.foldl; intro _ _ _) | with_reducible apply Keeps.ite | split | (with_reducible refine Keeps.upd ?_ rfl rfl rfl rfl rfl)

theorem wrWide_keeps {kk : Kind} {sb : State} (s : State) (a n : Nat) (hk : Keeps kk sb s) :
    Keeps kk sb (wrWide s a n) := by
  unfold wrWide
  exact hk.store (fun w : Memory.Parts s => { w with wide := twf_tset _ _ _ _ w.wide }) rfl rfl rfl rfl rfl rfl rfl

theorem bumpWide_keeps {kk : Kind} {sb : State} (s : State) (a n : Nat) (hk : Keeps kk sb s) :
    Keeps kk sb (bumpWide s a n) := by
  unfold bumpWide
  repeat' first | with_reducible assumption | with_reducible apply wrWide_keeps | (with_reducible apply Keeps.foldl; intro _ _ _) | with_reducible apply Keeps.ite | split | (with_reducible refine Keeps.upd ?_ rfl rfl rfl rfl rfl)

/-- The endpoint changes and its stores keep their form. -/
theorem Keeps.pcie {kk : Kind} {sb s : State} (p : PcieUnit)
    (hc : twf cfgDflt s.pcie.cfg = true → twf cfgDflt p.cfg = true) (he : p.cfgEff = s.pcie.cfgEff)
    (hm : twf msixDflt s.pcie.msix = true → twf msixDflt p.msix = true) (h : Keeps kk sb s) :
    Keeps kk sb { s with pcie := p } :=
  h.store (fun w : Memory.Parts s => { w with
    cfg := hc w.cfg, cfgEff := (show twf cfgDflt p.cfgEff = true by rw [he]; exact w.cfgEff), msix := hm w.msix })
    rfl rfl rfl rfl rfl rfl rfl

theorem cfgWr_keeps {kk : Kind} {sb : State} (s : State) (f o : Nat) (w : Word) (h : Keeps kk sb s) :
    Keeps kk sb (cfgWr s f o w) :=
  h.pcie _ (fun e => twf_tset _ _ _ _ e) rfl id

theorem emit_keeps {kk : Kind} {sb : State} (s : State) (o : Out) (hk : Keeps kk sb s) :
    Keeps kk sb (emit s o) := by
  unfold emit
  repeat' first | (extract_lets +onlyGivenNames z; first | (have hz : Keeps kk sb z := (by unfold z; with_reducible assumption); clear hz; subst z) | (have hz : Keeps kk sb z := (by unfold z; repeat' first | with_reducible assumption | (with_reducible apply Keeps.foldl; intro _ _ _) | with_reducible apply Keeps.ite | split | (with_reducible refine Keeps.upd ?_ rfl rfl rfl rfl rfl)); clear_value z)  | (have hz : PowerUnit := z; clear hz) | (have hz : RedUnit := z; clear hz) | (have hz : PcieUnit := z; clear hz) | (have hz : VkeepUnit := z; clear hz) | (have hz : TimeUnit := z; clear hz) | (have hz : TickUnit := z; clear hz) | (have hz : QueueUnit := z; clear hz) | (have hz : PipeUnit := z; clear hz) | (have hz : SchedUnit := z; clear hz) | (have hz : CipUnit := z; clear hz) | (have hz : CrtUnit := z; clear hz) | (have hz : MbxUnit := z; clear hz) | (have hz : CusUnit := z; clear hz) | (have hz : EccUnit := z; clear hz) | (have hz : PowerGov := z; clear hz) | (have hz : SliceRed := z; clear hz) | (have hz : MemChan := z; clear hz) | clear_value z | skip) | with_reducible assumption | (with_reducible apply Keeps.foldl; intro _ _ _) | with_reducible apply Keeps.ite | split | (with_reducible refine Keeps.upd ?_ rfl rfl rfl rfl rfl)

theorem pmeEvent_keeps {kk : Kind} {sb : State} (s : State) (f : Nat) (hk : Keeps kk sb s) :
    Keeps kk sb (pmeEvent s f) := by
  unfold pmeEvent
  repeat' first | (extract_lets +onlyGivenNames z; first | (have hz : Keeps kk sb z := (by unfold z; with_reducible assumption); clear hz; subst z) | (have hz : Keeps kk sb z := (by unfold z; repeat' first | with_reducible assumption | with_reducible apply emit_keeps | with_reducible apply bump_keeps | with_reducible apply cfgWr_keeps | (with_reducible apply Keeps.foldl; intro _ _ _) | with_reducible apply Keeps.ite | split | (with_reducible refine Keeps.upd ?_ rfl rfl rfl rfl rfl)); clear_value z)  | (have hz : PowerUnit := z; clear hz) | (have hz : RedUnit := z; clear hz) | (have hz : PcieUnit := z; clear hz) | (have hz : VkeepUnit := z; clear hz) | (have hz : TimeUnit := z; clear hz) | (have hz : TickUnit := z; clear hz) | (have hz : QueueUnit := z; clear hz) | (have hz : PipeUnit := z; clear hz) | (have hz : SchedUnit := z; clear hz) | (have hz : CipUnit := z; clear hz) | (have hz : CrtUnit := z; clear hz) | (have hz : MbxUnit := z; clear hz) | (have hz : CusUnit := z; clear hz) | (have hz : EccUnit := z; clear hz) | (have hz : PowerGov := z; clear hz) | (have hz : SliceRed := z; clear hz) | (have hz : MemChan := z; clear hz) | clear_value z | skip) | with_reducible assumption | with_reducible apply emit_keeps | with_reducible apply bump_keeps | with_reducible apply cfgWr_keeps | (with_reducible apply Keeps.foldl; intro _ _ _) | with_reducible apply Keeps.ite | split | (with_reducible refine Keeps.upd ?_ rfl rfl rfl rfl rfl)

theorem setPba_keeps {kk : Kind} {sb : State} (s : State) (f v : Nat) (hk : Keeps kk sb s) :
    Keeps kk sb (setPba s f v) := by
  unfold setPba
  repeat' first | (extract_lets +onlyGivenNames z; first | (have hz : Keeps kk sb z := (by unfold z; with_reducible assumption); clear hz; subst z) | (have hz : Keeps kk sb z := (by unfold z; repeat' first | with_reducible assumption | (with_reducible apply Keeps.foldl; intro _ _ _) | with_reducible apply Keeps.ite | split | (with_reducible refine Keeps.upd ?_ rfl rfl rfl rfl rfl)); clear_value z)  | (have hz : PowerUnit := z; clear hz) | (have hz : RedUnit := z; clear hz) | (have hz : PcieUnit := z; clear hz) | (have hz : VkeepUnit := z; clear hz) | (have hz : TimeUnit := z; clear hz) | (have hz : TickUnit := z; clear hz) | (have hz : QueueUnit := z; clear hz) | (have hz : PipeUnit := z; clear hz) | (have hz : SchedUnit := z; clear hz) | (have hz : CipUnit := z; clear hz) | (have hz : CrtUnit := z; clear hz) | (have hz : MbxUnit := z; clear hz) | (have hz : CusUnit := z; clear hz) | (have hz : EccUnit := z; clear hz) | (have hz : PowerGov := z; clear hz) | (have hz : SliceRed := z; clear hz) | (have hz : MemChan := z; clear hz) | clear_value z | skip) | with_reducible assumption | (with_reducible apply Keeps.foldl; intro _ _ _) | with_reducible apply Keeps.ite | split | (with_reducible refine Keeps.upd ?_ rfl rfl rfl rfl rfl)

theorem fireVector_keeps {kk : Kind} {sb : State} (s : State) (f v : Nat) (hk : Keeps kk sb s) :
    Keeps kk sb (fireVector s f v) := by
  unfold fireVector
  repeat' first | with_reducible assumption | with_reducible apply bump_keeps | with_reducible apply setPba_keeps | with_reducible apply pmeEvent_keeps | (with_reducible apply Keeps.foldl; intro _ _ _) | with_reducible apply Keeps.ite | split | (with_reducible refine Keeps.upd ?_ rfl rfl rfl rfl rfl)

theorem recordFirst_keeps {kk : Kind} {sb : State} (s : State) (page code status : Nat) (cmd : Bool) (hk : Keeps kk sb s) :
    Keeps kk sb (recordFirst s page code status cmd) := by
  unfold recordFirst
  repeat' first | with_reducible assumption | with_reducible apply wr_keeps | (with_reducible apply Keeps.foldl; intro _ _ _) | with_reducible apply Keeps.ite | split | (with_reducible refine Keeps.upd ?_ rfl rfl rfl rfl rfl)

theorem summaryRise_keeps {kk : Kind} {sb : State} (s0 s1 : State) (page : Nat) (hk : Keeps kk sb s1) :
    Keeps kk sb (summaryRise s0 s1 page) := by
  unfold summaryRise
  repeat' first | with_reducible assumption | with_reducible apply fireVector_keeps | (with_reducible apply Keeps.foldl; intro _ _ _) | with_reducible apply Keeps.ite | split | (with_reducible refine Keeps.upd ?_ rfl rfl rfl rfl rfl)

theorem setErr_keeps {kk : Kind} {sb : State} (s : State) (page n : Nat) (hk : Keeps kk sb s) :
    Keeps kk sb (setErr s page n) := by
  unfold setErr
  repeat' first | (extract_lets +onlyGivenNames z; first | (have hz : Keeps kk sb z := (by unfold z; with_reducible assumption); clear hz; subst z) | (have hz : Keeps kk sb z := (by unfold z; repeat' first | with_reducible assumption | with_reducible apply recordFirst_keeps | with_reducible apply summaryRise_keeps | with_reducible apply wr_keeps | (with_reducible apply Keeps.foldl; intro _ _ _) | with_reducible apply Keeps.ite | split | (with_reducible refine Keeps.upd ?_ rfl rfl rfl rfl rfl)); clear_value z)  | (have hz : PowerUnit := z; clear hz) | (have hz : RedUnit := z; clear hz) | (have hz : PcieUnit := z; clear hz) | (have hz : VkeepUnit := z; clear hz) | (have hz : TimeUnit := z; clear hz) | (have hz : TickUnit := z; clear hz) | (have hz : QueueUnit := z; clear hz) | (have hz : PipeUnit := z; clear hz) | (have hz : SchedUnit := z; clear hz) | (have hz : CipUnit := z; clear hz) | (have hz : CrtUnit := z; clear hz) | (have hz : MbxUnit := z; clear hz) | (have hz : CusUnit := z; clear hz) | (have hz : EccUnit := z; clear hz) | (have hz : PowerGov := z; clear hz) | (have hz : SliceRed := z; clear hz) | (have hz : MemChan := z; clear hz) | clear_value z | skip) | with_reducible assumption | with_reducible apply recordFirst_keeps | with_reducible apply summaryRise_keeps | with_reducible apply wr_keeps | (with_reducible apply Keeps.foldl; intro _ _ _) | with_reducible apply Keeps.ite | split | (with_reducible refine Keeps.upd ?_ rfl rfl rfl rfl rfl)

theorem noteSync_keeps {kk : Kind} {sb : State} (s : State) (page : Nat) (o : Word × Word × Word) (hk : Keeps kk sb s) :
    Keeps kk sb (noteSync s page o) := by
  unfold noteSync
  repeat' first | (extract_lets +onlyGivenNames z; first | (have hz : Keeps kk sb z := (by unfold z; with_reducible assumption); clear hz; subst z) | (have hz : Keeps kk sb z := (by unfold z; repeat' first | with_reducible assumption | (with_reducible apply Keeps.foldl; intro _ _ _) | with_reducible apply Keeps.ite | split | (with_reducible refine Keeps.upd ?_ rfl rfl rfl rfl rfl)); clear_value z)  | (have hz : PowerUnit := z; clear hz) | (have hz : RedUnit := z; clear hz) | (have hz : PcieUnit := z; clear hz) | (have hz : VkeepUnit := z; clear hz) | (have hz : TimeUnit := z; clear hz) | (have hz : TickUnit := z; clear hz) | (have hz : QueueUnit := z; clear hz) | (have hz : PipeUnit := z; clear hz) | (have hz : SchedUnit := z; clear hz) | (have hz : CipUnit := z; clear hz) | (have hz : CrtUnit := z; clear hz) | (have hz : MbxUnit := z; clear hz) | (have hz : CusUnit := z; clear hz) | (have hz : EccUnit := z; clear hz) | (have hz : PowerGov := z; clear hz) | (have hz : SliceRed := z; clear hz) | (have hz : MemChan := z; clear hz) | clear_value z | skip) | with_reducible assumption | (with_reducible apply Keeps.foldl; intro _ _ _) | with_reducible apply Keeps.ite | split | (with_reducible refine Keeps.upd ?_ rfl rfl rfl rfl rfl)

/-- After a page's command has ended, the page is idle. -/
theorem finishCmd_idle (s : State) (page st : Nat) (o0 o1 o2 : Word) :
    runningOn (finishCmd s page st o0 o1 o2) page = none := by
  have hrun : ∀ l : List RunCmd, (l.filter (fun c => c.page != page)).find? (fun c => c.page == page) = none := by
    intro l
    simp only [List.find?_eq_none, List.mem_filter]
    rintro c ⟨_, hc⟩
    simpa using hc
  unfold finishCmd
  generalize hr : runningOn s page = r
  cases r with
  | none => exact hr
  | some c =>
    dsimp only
    unfold runningOn
    split <;> simp [hrun]

/-- A page's command leaves the list of running commands. -/
theorem Keeps.ended {kk : Kind} {s t : State} (page : Nat) (h : Keeps kk s t) :
    Keeps kk s { t with running := t.running.filter (fun c => c.page != page) } := by
  refine h.trans ⟨rfl, id, id, fun _ w => ⟨w.1, ?_⟩, fun _ => rfl, fun _ => rfl, fun _ => rfl, fun _ _ n => KeyKept.same rfl n⟩
  have w2 := w.2
  unfold phaseCmd runningOn at w2 ⊢
  by_cases hp : page = pgSys
  · have : (t.running.filter (fun c => c.page != page)).find? (fun c => c.page == pgSys) = none := by
      simp only [List.find?_eq_none, List.mem_filter]
      rintro c ⟨_, hc⟩
      simpa [hp] using hc
    simp only [this]
  · have : ∀ l : List RunCmd, (l.filter (fun c => c.page != page)).find? (fun c => c.page == pgSys)
        = l.find? (fun c => c.page == pgSys) := by
      intro l
      induction l with
      | nil => rfl
      | cons c l ih =>
        rw [List.filter_cons]
        by_cases hc : c.page = pgSys
        · have he : (c.page != page) = true := by rw [hc]; simpa using fun e : pgSys = page => hp e.symm
          have hc2 : (fun c : RunCmd => c.page == pgSys) c = true := by simpa using hc
          rw [if_pos he, List.find?_cons_of_pos (p := fun c : RunCmd => c.page == pgSys) hc2,
            List.find?_cons_of_pos (p := fun c : RunCmd => c.page == pgSys) hc2]
        · have hc2 : ¬ (fun c : RunCmd => c.page == pgSys) c = true := by simpa using hc
          rw [List.find?_cons_of_neg (p := fun c : RunCmd => c.page == pgSys) hc2]
          split
          · rw [List.find?_cons_of_neg (p := fun c : RunCmd => c.page == pgSys) hc2, ih]
          · exact ih
    rw [this]
    exact w2

theorem finishCmd_keeps {kk : Kind} {sb : State} (s : State) (page status : Nat) (o0 o1 o2 : Word) (h : Keeps kk sb s) :
    Keeps kk sb (finishCmd s page status o0 o1 o2) := by
  unfold finishCmd
  split
  · exact h
  · dsimp only
    have h0 : ∀ c : RunCmd, Keeps kk sb (if c.via = .sync then noteSync s page (o0, o1, o2) else s) :=
      fun c => Keeps.ite (noteSync_keeps _ _ _ h) h
    have h1 : ∀ c : RunCmd, ∀ w, Keeps kk sb (wrMany (wr _ (page + Reg.CMD_RESULT) w) (page + Reg.CMD_OUT) [o0, o1, o2]) :=
      fun c w => wrMany_keeps _ _ _ (wr_keeps _ _ ((h0 c).ended page))
    exact Keeps.ite (recordFirst_keeps _ _ _ _ _ (h1 _ _)) (h1 _ _)

theorem endCmd_keeps {kk : Kind} {sb : State} (s : State) (page status : Nat) (hk : Keeps kk sb s) :
    Keeps kk sb (endCmd s page status) := by
  unfold endCmd
  repeat' first | with_reducible assumption | with_reducible apply finishCmd_keeps | (with_reducible apply Keeps.foldl; intro _ _ _) | with_reducible apply Keeps.ite | split | (with_reducible refine Keeps.upd ?_ rfl rfl rfl rfl rfl)

theorem refuseCmd_keeps {kk : Kind} {sb : State} (s : State) (page : Nat) (hk : Keeps kk sb s) :
    Keeps kk sb (refuseCmd s page) := by
  unfold refuseCmd
  repeat' first | with_reducible assumption | with_reducible apply wr_keeps | (with_reducible apply Keeps.foldl; intro _ _ _) | with_reducible apply Keeps.ite | split | (with_reducible refine Keeps.upd ?_ rfl rfl rfl rfl rfl)

/-- A kind without the claim about recovery. -/
def Kind.free (k : Kind) : Kind := { k with rcv := false }

/-- The recovery part apart from the rest. -/
theorem Keeps.of_false {kk : Kind} {s t : State} (h : Keeps kk.free s t) (g : InRecovery s → InRecovery t) : Keeps kk s t :=
  ⟨h.pending, h.wf, h.roles, fun _ => g, h.phase, h.clock, h.inForce, h.keys⟩

theorem acceptCmd_keeps {kk : Kind} {sb : State} (s : State) (page code seq : Nat) (via : Master) (h : Keeps kk.free sb s) :
    Keeps kk.free sb (acceptCmd s page code seq via) := by
  have hr : ∀ l : List RunCmd, Keeps kk.free sb { s with running := l } := fun l =>
    h.trans ⟨rfl, id, id, (fun e => by cases e), fun _ => rfl, fun _ => rfl, fun _ => rfl, fun _ _ n => KeyKept.same rfl n⟩
  unfold acceptCmd
  dsimp only
  exact Keeps.ite (wrMany_keeps _ _ _ (wrMany_keeps _ _ _ (wr_keeps _ _ (hr _))))
    (wrMany_keeps _ _ _ (wr_keeps _ _ (hr _)))

/-- A command that phaseCmd does not look at is accepted. -/
theorem acceptCmd_other {kk : Kind} {sb : State} (s : State) (page code seq : Nat) (via : Master)
    (hp : page ≠ pgSys ∨ 3 < code) (h : Keeps kk sb s) : Keeps kk sb (acceptCmd s page code seq via) := by
  refine h.trans (Keeps.of_false (acceptCmd_keeps s page code seq via (Keeps.refl s)) fun w => ⟨by simpa using w.1, ?_⟩)
  have w2 := w.2
  have hrun : ∃ c : RunCmd, c.page = page ∧ c.code = code ∧ (acceptCmd s page code seq via).running = s.running ++ [c] := by
    refine ⟨⟨page, code, seq, via, rd s (page + Reg.CMD_ARG + 4 * 0), rd s (page + Reg.CMD_ARG + 4 * 1),
      rd s (page + Reg.CMD_ARG + 4 * 2)⟩, rfl, rfl, ?_⟩
    unfold acceptCmd
    dsimp only
    split <;> simp
  obtain ⟨c, h1, h2, hrun⟩ := hrun
  unfold phaseCmd runningOn at w2 ⊢
  simp only [hrun, List.find?_append]
  cases hf : s.running.find? (fun c => c.page == pgSys) with
  | some d => simpa [hf] using w2
  | none =>
    simp only [Option.none_or, List.find?_singleton]
    by_cases hq : page = pgSys
    · have : ¬ code ≤ 3 := by rcases hp with e | e <;> omega
      simp [h1, h2, hq, this]
    · simp [h1, hq]

/-- What a command of a page may do: its body keeps everything, and a phase command is none of recovery's. -/
structure SpecOk (kk : Kind) (spec : Option CmdSpec) (page code : Nat) : Prop where
  body : ∀ sp, spec = some sp → ∀ (r : Bool) (sb t : State) (c : RunCmd), Keeps ⟨r, kk.pha, kk.clk, kk.eff, kk.key⟩ sb t →
    Keeps ⟨r, kk.pha, kk.clk, kk.eff, kk.key⟩ sb (sp.body c t)
  phase : (page ≠ pgSys ∨ 3 < code) ∨ ∀ sp, spec = some sp → sp.phases .recovery = false

theorem issueCmd_keeps {kk : Kind} {sb : State} (spec : Option CmdSpec) (page code seq : Nat) (via : Master) (s : State)
    (ok : SpecOk kk spec page code) (h : Keeps kk sb s) : Keeps kk sb (issueCmd spec page code seq via s) := by
  have go : ∀ r : Bool, Keeps ⟨r, kk.pha, kk.clk, kk.eff, kk.key⟩ s (acceptCmd s page code seq via) →
      Keeps ⟨r, kk.pha, kk.clk, kk.eff, kk.key⟩ s (issueCmd spec page code seq via s) := by
    intro r ha
    unfold issueCmd
    split
    · exact Keeps.refl s
    · split
      · unfold refuseCmd; exact wr_keeps _ _ (Keeps.refl s)
      · dsimp only
        split
        · rename_i sp c he
          exact Keeps.ite (endCmd_keeps _ _ _ ha) (Keeps.ite (endCmd_keeps _ _ _ ha) (ok.body _ rfl _ _ _ _ ha))
        · exact endCmd_keeps _ _ _ ha
  rcases ok.phase with hp | hp
  · exact h.trans (go kk.rcv (acceptCmd_other s page code seq via hp (Keeps.refl s)))
  · refine h.trans (Keeps.of_false (go false (acceptCmd_keeps s page code seq via (Keeps.refl s))) fun w => ?_)
    by_cases hq : page ≠ pgSys ∨ 3 < code
    · exact (go true (acceptCmd_other s page code seq via hq (Keeps.refl s))).recovery rfl w
    have hpage : page = pgSys := by omega
    have hend : ∀ st, InRecovery (endCmd (acceptCmd s page code seq via) page st) := by
      intro st
      refine ⟨by simpa [endCmd] using w.1, ?_⟩
      unfold phaseCmd endCmd
      rw [← hpage, finishCmd_idle]
    unfold issueCmd
    split
    · exact w
    · split
      · unfold refuseCmd; exact (wr_keeps (k := ⟨true, true, true, true, true⟩) _ _ (Keeps.refl s)).recovery rfl w
      · dsimp only
        split
        · rename_i sp c he
          have hf : sp.phases s.power.phase = false := by rw [w.1]; exact hp _ rfl
          have hf2 : (!sp.phases s.power.phase) = true := by rw [hf]; rfl
          split
          · exact hend _
          · first | exact hend _ | (rw [if_pos hf2]; exact hend _)
        · exact hend _

theorem commandRow_keeps {kk : Kind} {sb : State} (spec : CmdSpec) (page code : Nat) (via : Master) (seq : Byte)
    (a0 a1 a2 : Word) (s : State) (ok : SpecOk kk (some spec) page code) (h : Keeps kk sb s) :
    Keeps kk sb (commandRow spec page code via seq a0 a1 a2 s) :=
  Keeps.ite h (issueCmd_keeps _ _ _ _ _ _ ok (wrMany_keeps _ _ _ h))

theorem signal_keeps {kk : Kind} {sb : State} (s : State) (src q n : Nat) (hk : Keeps kk sb s) :
    Keeps kk sb (signal s src q n) := by
  unfold signal
  repeat' first | (extract_lets +onlyGivenNames z; first | (have hz : Keeps kk sb z := (by unfold z; with_reducible assumption); clear hz; subst z) | (have hz : Keeps kk sb z := (by unfold z; repeat' first | with_reducible assumption | (with_reducible apply Keeps.foldl; intro _ _ _) | with_reducible apply Keeps.ite | split | (with_reducible refine Keeps.upd ?_ rfl rfl rfl rfl rfl)); clear_value z)  | (have hz : PowerUnit := z; clear hz) | (have hz : RedUnit := z; clear hz) | (have hz : PcieUnit := z; clear hz) | (have hz : VkeepUnit := z; clear hz) | (have hz : TimeUnit := z; clear hz) | (have hz : TickUnit := z; clear hz) | (have hz : QueueUnit := z; clear hz) | (have hz : PipeUnit := z; clear hz) | (have hz : SchedUnit := z; clear hz) | (have hz : CipUnit := z; clear hz) | (have hz : CrtUnit := z; clear hz) | (have hz : MbxUnit := z; clear hz) | (have hz : CusUnit := z; clear hz) | (have hz : EccUnit := z; clear hz) | (have hz : PowerGov := z; clear hz) | (have hz : SliceRed := z; clear hz) | (have hz : MemChan := z; clear hz) | clear_value z | skip) | with_reducible assumption | (with_reducible apply Keeps.foldl; intro _ _ _) | with_reducible apply Keeps.ite | split | (with_reducible refine Keeps.upd ?_ rfl rfl rfl rfl rfl)

/-- A slice takes a role that is not `active`, keeps its role, or becomes active while the other is not. -/
theorem State_setSlice_keeps {kk : Kind} {sb : State} (s : State) (sl : SliceId) (x : SliceRed)
    (hx : x.role = (s.slice sl).role ∨ x.role ≠ .active ∨ (s.slice sl.other).role ≠ .active) (h : Keeps kk sb s) :
    Keeps kk sb (s.setSlice sl x) := by
  refine h.trans ⟨by cases sl <;> rfl, fun w => ?_, fun w => ?_, fun _ w => ?_, fun _ => by cases sl <;> rfl,
    fun _ => by cases sl <;> rfl, fun _ => by cases sl <;> rfl, fun _ _ n => KeyKept.same (by cases sl <;> rfl) n⟩
  · cases sl <;> exact w
  · unfold RolesOk at *
    cases sl <;> simp only [State.setSlice, State.slice, SliceId.other] at * <;> rcases hx with e | e | e
    · rw [e]; exact w
    · exact fun k => e k.1
    · exact fun k => e k.2
    · rw [e]; exact w
    · exact fun k => e k.2
    · exact fun k => e k.1
  · cases sl <;> exact w

theorem devSta_keeps {kk : Kind} {sb : State} (s : State) (f bits : Nat) (hk : Keeps kk sb s) :
    Keeps kk sb (devSta s f bits) := by
  unfold devSta
  repeat' first | with_reducible assumption | with_reducible apply cfgWr_keeps | (with_reducible apply Keeps.foldl; intro _ _ _) | with_reducible apply Keeps.ite | split | (with_reducible refine Keeps.upd ?_ rfl rfl rfl rfl rfl)

theorem aerUnc_keeps {kk : Kind} {sb : State} (s : State) (f bit : Nat) (header : List Word) (advisory : Bool) (hk : Keeps kk sb s) :
    Keeps kk sb (aerUnc s f bit header advisory) := by
  unfold aerUnc
  repeat' first | (extract_lets +onlyGivenNames z; first | (have hz : Keeps kk sb z := (by unfold z; with_reducible assumption); clear hz; subst z) | (have hz : Keeps kk sb z := (by unfold z; repeat' first | with_reducible assumption | with_reducible apply emit_keeps | with_reducible apply cfgWr_keeps | with_reducible apply devSta_keeps | (with_reducible apply Keeps.foldl; intro _ _ _) | with_reducible apply Keeps.ite | split | (with_reducible refine Keeps.upd ?_ rfl rfl rfl rfl rfl)); clear_value z)  | (have hz : PowerUnit := z; clear hz) | (have hz : RedUnit := z; clear hz) | (have hz : PcieUnit := z; clear hz) | (have hz : VkeepUnit := z; clear hz) | (have hz : TimeUnit := z; clear hz) | (have hz : TickUnit := z; clear hz) | (have hz : QueueUnit := z; clear hz) | (have hz : PipeUnit := z; clear hz) | (have hz : SchedUnit := z; clear hz) | (have hz : CipUnit := z; clear hz) | (have hz : CrtUnit := z; clear hz) | (have hz : MbxUnit := z; clear hz) | (have hz : CusUnit := z; clear hz) | (have hz : EccUnit := z; clear hz) | (have hz : PowerGov := z; clear hz) | (have hz : SliceRed := z; clear hz) | (have hz : MemChan := z; clear hz) | clear_value z | skip) | with_reducible assumption | with_reducible apply emit_keeps | with_reducible apply cfgWr_keeps | with_reducible apply devSta_keeps | (with_reducible apply Keeps.foldl; intro _ _ _) | with_reducible apply Keeps.ite | split | (with_reducible refine Keeps.upd ?_ rfl rfl rfl rfl rfl)

theorem aerCor_keeps {kk : Kind} {sb : State} (s : State) (f bit : Nat) (hk : Keeps kk sb s) :
    Keeps kk sb (aerCor s f bit) := by
  unfold aerCor
  repeat' first | (extract_lets +onlyGivenNames z; first | (have hz : Keeps kk sb z := (by unfold z; with_reducible assumption); clear hz; subst z) | (have hz : Keeps kk sb z := (by unfold z; repeat' first | with_reducible assumption | with_reducible apply emit_keeps | with_reducible apply cfgWr_keeps | with_reducible apply devSta_keeps | (with_reducible apply Keeps.foldl; intro _ _ _) | with_reducible apply Keeps.ite | split | (with_reducible refine Keeps.upd ?_ rfl rfl rfl rfl rfl)); clear_value z)  | (have hz : PowerUnit := z; clear hz) | (have hz : RedUnit := z; clear hz) | (have hz : PcieUnit := z; clear hz) | (have hz : VkeepUnit := z; clear hz) | (have hz : TimeUnit := z; clear hz) | (have hz : TickUnit := z; clear hz) | (have hz : QueueUnit := z; clear hz) | (have hz : PipeUnit := z; clear hz) | (have hz : SchedUnit := z; clear hz) | (have hz : CipUnit := z; clear hz) | (have hz : CrtUnit := z; clear hz) | (have hz : MbxUnit := z; clear hz) | (have hz : CusUnit := z; clear hz) | (have hz : EccUnit := z; clear hz) | (have hz : PowerGov := z; clear hz) | (have hz : SliceRed := z; clear hz) | (have hz : MemChan := z; clear hz) | clear_value z | skip) | with_reducible assumption | with_reducible apply emit_keeps | with_reducible apply cfgWr_keeps | with_reducible apply devSta_keeps | (with_reducible apply Keeps.foldl; intro _ _ _) | with_reducible apply Keeps.ite | split | (with_reducible refine Keeps.upd ?_ rfl rfl rfl rfl rfl)

theorem logAlarm_keeps {kk : Kind} {sb : State} (s : State) (src : Nat) (crimson : Bool) (hk : Keeps kk sb s) :
    Keeps kk sb (logAlarm s src crimson) := by
  unfold logAlarm
  repeat' first | (extract_lets +onlyGivenNames z; first | (have hz : Keeps kk sb z := (by unfold z; with_reducible assumption); clear hz; subst z) | (have hz : Keeps kk sb z := (by unfold z; repeat' first | with_reducible assumption | (with_reducible apply Keeps.foldl; intro _ _ _) | with_reducible apply Keeps.ite | split | (with_reducible refine Keeps.upd ?_ rfl rfl rfl rfl rfl)); clear_value z)  | (have hz : Keeps kk sb z.1 := (by unfold z; repeat' first | with_reducible assumption | (with_reducible apply Keeps.foldl; intro _ _ _) | with_reducible apply Keeps.ite | split | (with_reducible refine Keeps.upd ?_ rfl rfl rfl rfl rfl)); clear_value z) | (have hz : Keeps kk sb z.st := (by unfold z; repeat' first | with_reducible assumption | (with_reducible apply Keeps.foldl; intro _ _ _) | with_reducible apply Keeps.ite | split | (with_reducible refine Keeps.upd ?_ rfl rfl rfl rfl rfl)); clear_value z) | (have hz : PowerUnit := z; clear hz) | (have hz : RedUnit := z; clear hz) | (have hz : PcieUnit := z; clear hz) | (have hz : VkeepUnit := z; clear hz) | (have hz : TimeUnit := z; clear hz) | (have hz : TickUnit := z; clear hz) | (have hz : QueueUnit := z; clear hz) | (have hz : PipeUnit := z; clear hz) | (have hz : SchedUnit := z; clear hz) | (have hz : CipUnit := z; clear hz) | (have hz : CrtUnit := z; clear hz) | (have hz : MbxUnit := z; clear hz) | (have hz : CusUnit := z; clear hz) | (have hz : EccUnit := z; clear hz) | (have hz : PowerGov := z; clear hz) | (have hz : SliceRed := z; clear hz) | (have hz : MemChan := z; clear hz) | clear_value z | skip) | with_reducible assumption | (with_reducible apply Keeps.foldl; intro _ _ _) | with_reducible apply Keeps.ite | split | (with_reducible refine Keeps.upd ?_ rfl rfl rfl rfl rfl)

theorem cusIrq_keeps {kk : Kind} {sb : State} (s : State) (hk : Keeps kk sb s) :
    Keeps kk sb (cusIrq s) := by
  unfold cusIrq
  repeat' first | (extract_lets +onlyGivenNames z; first | (have hz : Keeps kk sb z := (by unfold z; with_reducible assumption); clear hz; subst z) | (have hz : Keeps kk sb z := (by unfold z; repeat' first | with_reducible assumption | with_reducible apply fireVector_keeps | (with_reducible apply Keeps.foldl; intro _ _ _) | with_reducible apply Keeps.ite | split | (with_reducible refine Keeps.upd ?_ rfl rfl rfl rfl rfl)); clear_value z)  | (have hz : PowerUnit := z; clear hz) | (have hz : RedUnit := z; clear hz) | (have hz : PcieUnit := z; clear hz) | (have hz : VkeepUnit := z; clear hz) | (have hz : TimeUnit := z; clear hz) | (have hz : TickUnit := z; clear hz) | (have hz : QueueUnit := z; clear hz) | (have hz : PipeUnit := z; clear hz) | (have hz : SchedUnit := z; clear hz) | (have hz : CipUnit := z; clear hz) | (have hz : CrtUnit := z; clear hz) | (have hz : MbxUnit := z; clear hz) | (have hz : CusUnit := z; clear hz) | (have hz : EccUnit := z; clear hz) | (have hz : PowerGov := z; clear hz) | (have hz : SliceRed := z; clear hz) | (have hz : MemChan := z; clear hz) | clear_value z | skip) | with_reducible assumption | with_reducible apply fireVector_keeps | (with_reducible apply Keeps.foldl; intro _ _ _) | with_reducible apply Keeps.ite | split | (with_reducible refine Keeps.upd ?_ rfl rfl rfl rfl rfl)

/-- A slot is written: with a slot that holds no key, or by an operation that may load keys. -/
theorem putSlot_keeps {kk : Kind} {sb : State} (s : State) (k : Nat) (x : KeySlot) (hx : kk.key = true → x.half = none)
    (h : Keeps kk sb s) : Keeps kk sb (putSlot s k x) := by
  refine h.trans ⟨rfl, fun w => ?_, id, fun _ => id, fun _ => rfl, fun _ => rfl, fun _ => rfl, fun e w n => ?_⟩
  · rw [Memory.wf_iff] at w ⊢
    exact { w with slots := twf_tset _ _ _ _ w.slots }
  · by_cases hn : k = n
    · refine .inr ?_
      subst hn
      have hs : getSlot (putSlot s k x) k = x := tget_tset_same _ _ _ _ (Memory.wf_slots w)
      rw [hs]; exact hx e
    · exact .inl (congrArg KeySlot.half (tget_tset_other _ _ _ _ hn _))

/-- The VKEEP domain starts empty. -/
theorem Keeps.noKeys {kk : Kind} {sb s : State} (v : VkeepUnit) (hv : v.slots = []) (h : Keeps kk sb s) :
    Keeps kk sb { s with vkeep := v } := by
  refine h.trans ⟨rfl, fun w => ?_, id, fun _ => id, fun _ => rfl, fun _ => rfl, fun _ => rfl, fun _ _ n => .inr ?_⟩
  · rw [Memory.wf_iff] at w ⊢
    exact { w with slots := (show twf (fun _ => emptySlot) v.slots = true by rw [hv]; rfl) }
  · unfold getSlot
    have hv' : ({ s with vkeep := v } : State).vkeep.slots = [] := hv
    rw [hv']; rfl

theorem eraseSlot_keeps {kk : Kind} {sb : State} (s : State) (k : Nat) (h : Keeps kk sb s) : Keeps kk sb (eraseSlot s k) :=
  putSlot_keeps _ _ _ (fun _ => rfl) h

theorem eraseAllSlots_keeps {kk : Kind} {sb : State} (s : State) (h : Keeps kk sb s) : Keeps kk sb (eraseAllSlots s) :=
  Keeps.foldl _ (fun _ _ g => eraseSlot_keeps _ _ g) _ _ h

theorem amber_keeps {kk : Kind} {sb : State} (s : State) (src : Nat) (hk : Keeps kk sb s) :
    Keeps kk sb (amber s src) := by
  unfold amber
  repeat' first | (extract_lets +onlyGivenNames z; first | (have hz : Keeps kk sb z := (by unfold z; with_reducible assumption); clear hz; subst z) | (have hz : Keeps kk sb z := (by unfold z; repeat' first | with_reducible assumption | with_reducible apply signal_keeps | with_reducible apply setErr_keeps | with_reducible apply cusIrq_keeps | with_reducible apply logAlarm_keeps | with_reducible apply bump_keeps | (with_reducible apply Keeps.foldl; intro _ _ _) | with_reducible apply Keeps.ite | split | (with_reducible refine Keeps.upd ?_ rfl rfl rfl rfl rfl)); clear_value z)  | (have hz : PowerUnit := z; clear hz) | (have hz : RedUnit := z; clear hz) | (have hz : PcieUnit := z; clear hz) | (have hz : VkeepUnit := z; clear hz) | (have hz : TimeUnit := z; clear hz) | (have hz : TickUnit := z; clear hz) | (have hz : QueueUnit := z; clear hz) | (have hz : PipeUnit := z; clear hz) | (have hz : SchedUnit := z; clear hz) | (have hz : CipUnit := z; clear hz) | (have hz : CrtUnit := z; clear hz) | (have hz : MbxUnit := z; clear hz) | (have hz : CusUnit := z; clear hz) | (have hz : EccUnit := z; clear hz) | (have hz : PowerGov := z; clear hz) | (have hz : SliceRed := z; clear hz) | (have hz : MemChan := z; clear hz) | clear_value z | skip) | with_reducible assumption | with_reducible apply signal_keeps | with_reducible apply setErr_keeps | with_reducible apply cusIrq_keeps | with_reducible apply logAlarm_keeps | with_reducible apply bump_keeps | (with_reducible apply Keeps.foldl; intro _ _ _) | with_reducible apply Keeps.ite | split | (with_reducible refine Keeps.upd ?_ rfl rfl rfl rfl rfl)

theorem crimson_keeps {kk : Kind} {sb : State} (s : State) (src : Nat) (hk : Keeps kk sb s) :
    Keeps kk sb (crimson s src) := by
  unfold crimson
  repeat' first | (extract_lets +onlyGivenNames z; first | (have hz : Keeps kk sb z := (by unfold z; with_reducible assumption); clear hz; subst z) | (have hz : Keeps kk sb z := (by unfold z; repeat' first | with_reducible assumption | with_reducible apply setErr_keeps | with_reducible apply cusIrq_keeps | with_reducible apply logAlarm_keeps | with_reducible apply signal_keeps | with_reducible apply eraseAllSlots_keeps | (with_reducible apply Keeps.foldl; intro _ _ _) | with_reducible apply Keeps.ite | split | (with_reducible refine Keeps.upd ?_ rfl rfl rfl rfl rfl)); clear_value z)  | (have hz : PowerUnit := z; clear hz) | (have hz : RedUnit := z; clear hz) | (have hz : PcieUnit := z; clear hz) | (have hz : VkeepUnit := z; clear hz) | (have hz : TimeUnit := z; clear hz) | (have hz : TickUnit := z; clear hz) | (have hz : QueueUnit := z; clear hz) | (have hz : PipeUnit := z; clear hz) | (have hz : SchedUnit := z; clear hz) | (have hz : CipUnit := z; clear hz) | (have hz : CrtUnit := z; clear hz) | (have hz : MbxUnit := z; clear hz) | (have hz : CusUnit := z; clear hz) | (have hz : EccUnit := z; clear hz) | (have hz : PowerGov := z; clear hz) | (have hz : SliceRed := z; clear hz) | (have hz : MemChan := z; clear hz) | clear_value z | skip) | with_reducible assumption | with_reducible apply setErr_keeps | with_reducible apply cusIrq_keeps | with_reducible apply logAlarm_keeps | with_reducible apply signal_keeps | with_reducible apply eraseAllSlots_keeps | (with_reducible apply Keeps.foldl; intro _ _ _) | with_reducible apply Keeps.ite | split | (with_reducible refine Keeps.upd ?_ rfl rfl rfl rfl rfl)

theorem raise_keeps {kk : Kind} {sb : State} (s : State) (src : Nat) (hk : Keeps kk sb s) :
    Keeps kk sb (raise s src) := by
  unfold raise
  repeat' first | with_reducible assumption | with_reducible apply crimson_keeps | with_reducible apply amber_keeps | (with_reducible apply Keeps.foldl; intro _ _ _) | with_reducible apply Keeps.ite | split | (with_reducible refine Keeps.upd ?_ rfl rfl rfl rfl rfl)

theorem needReset_keeps {kk : Kind} {sb : State} (s : State) (page bit : Nat) (hk : Keeps kk sb s) :
    Keeps kk sb (needReset s page bit) := by
  unfold needReset
  repeat' first | (extract_lets +onlyGivenNames z; first | (have hz : Keeps kk sb z := (by unfold z; with_reducible assumption); clear hz; subst z) | (have hz : Keeps kk sb z := (by unfold z; repeat' first | with_reducible assumption | (with_reducible apply Keeps.foldl; intro _ _ _) | with_reducible apply Keeps.ite | split | (with_reducible refine Keeps.upd ?_ rfl rfl rfl rfl rfl)); clear_value z)  | (have hz : PowerUnit := z; clear hz) | (have hz : RedUnit := z; clear hz) | (have hz : PcieUnit := z; clear hz) | (have hz : VkeepUnit := z; clear hz) | (have hz : TimeUnit := z; clear hz) | (have hz : TickUnit := z; clear hz) | (have hz : QueueUnit := z; clear hz) | (have hz : PipeUnit := z; clear hz) | (have hz : SchedUnit := z; clear hz) | (have hz : CipUnit := z; clear hz) | (have hz : CrtUnit := z; clear hz) | (have hz : MbxUnit := z; clear hz) | (have hz : CusUnit := z; clear hz) | (have hz : EccUnit := z; clear hz) | (have hz : PowerGov := z; clear hz) | (have hz : SliceRed := z; clear hz) | (have hz : MemChan := z; clear hz) | clear_value z | skip) | with_reducible assumption | (with_reducible apply Keeps.foldl; intro _ _ _) | with_reducible apply Keeps.ite | split | (with_reducible refine Keeps.upd ?_ rfl rfl rfl rfl rfl)

theorem tickFree_keeps {kk : Kind} {sb : State} (s : State) (hk : Keeps kk sb s) :
    Keeps kk sb (tickFree s) := by
  unfold tickFree
  repeat' first | (extract_lets +onlyGivenNames z; first | (have hz : Keeps kk sb z := (by unfold z; with_reducible assumption); clear hz; subst z) | (have hz : Keeps kk sb z := (by unfold z; repeat' first | with_reducible assumption | (with_reducible apply Keeps.foldl; intro _ _ _) | with_reducible apply Keeps.ite | split | (with_reducible refine Keeps.upd ?_ rfl rfl rfl rfl rfl)); clear_value z)  | (have hz : PowerUnit := z; clear hz) | (have hz : RedUnit := z; clear hz) | (have hz : PcieUnit := z; clear hz) | (have hz : VkeepUnit := z; clear hz) | (have hz : TimeUnit := z; clear hz) | (have hz : TickUnit := z; clear hz) | (have hz : QueueUnit := z; clear hz) | (have hz : PipeUnit := z; clear hz) | (have hz : SchedUnit := z; clear hz) | (have hz : CipUnit := z; clear hz) | (have hz : CrtUnit := z; clear hz) | (have hz : MbxUnit := z; clear hz) | (have hz : CusUnit := z; clear hz) | (have hz : EccUnit := z; clear hz) | (have hz : PowerGov := z; clear hz) | (have hz : SliceRed := z; clear hz) | (have hz : MemChan := z; clear hz) | clear_value z | skip) | with_reducible assumption | (with_reducible apply Keeps.foldl; intro _ _ _) | with_reducible apply Keeps.ite | split | (with_reducible refine Keeps.upd ?_ rfl rfl rfl rfl rfl)

end Sys2Proof.Machine
end

