-- ==== Sys2Proof/Laws/Commands.lean ====
section
/-! SUPPORT. What a page command does once accepted, and what its end leaves (R163 to R166), for the meanings of the
command rows to be read off. -/
namespace Sys2Proof.Machine

theorem Memory.wf_of_keeps {kk : Kind} {s t : State} (h : Keeps kk s t) (w : Memory.wf s = true) : twf regDflt t.regs = true :=
  Memory.wf_regs (h.wf w)

/-- A word written reads back. -/
theorem rd_wr_same {s : State} (a : Nat) (w : Word) (h : twf regDflt s.regs = true) : rd (wr s a w) a = w :=
  tget_tset_same _ _ _ _ h

/-- A word written leaves every other address as it was. -/
theorem rd_wr_other {s : State} {a b : Nat} (w : Word) (h : a ≠ b) : rd (wr s a w) b = rd s b :=
  tget_tset_other _ _ _ _ h _

theorem rd_wr {s : State} (a b : Nat) (w : Word) (h : twf regDflt s.regs = true) :
    rd (wr s a w) b = if a = b then w else rd s b := by
  split
  · rename_i e; subst e; exact rd_wr_same _ _ h
  · rename_i e; exact rd_wr_other _ e

theorem twf_wr {s : State} (a : Nat) (w : Word) (h : twf regDflt s.regs = true) : twf regDflt (wr s a w).regs = true :=
  twf_tset _ _ _ _ h

theorem twf_wrMany : ∀ (l : List Word) (s : State) (a : Nat), twf regDflt s.regs = true → twf regDflt (wrMany s a l).regs = true
  | [], _, _, h => h
  | _ :: l, _, _, h => twf_wrMany l _ _ (twf_wr _ _ h)

/-- Consecutive words written leave every address outside them as it was. -/
theorem rd_wrMany_other : ∀ (l : List Word) (s : State) (a b : Nat), (b < a ∨ a + 4 * l.length ≤ b) →
    rd (wrMany s a l) b = rd s b
  | [], _, _, _, _ => rfl
  | w :: l, s, a, b, h => by
    have e : a ≠ b := by simp only [List.length_cons] at h; omega
    have h2 : b < a + 4 ∨ a + 4 + 4 * l.length ≤ b := by simp only [List.length_cons] at h; omega
    exact (rd_wrMany_other l (wr s a w) (a + 4) b h2).trans (rd_wr_other w e)

/-- The three argument or output words of a page read back. -/
theorem rd_wrMany3 {s : State} (a : Nat) (x y z : Word) (h : twf regDflt s.regs = true) :
    rd (wrMany s a [x, y, z]) a = x ∧ rd (wrMany s a [x, y, z]) (a + 4) = y ∧ rd (wrMany s a [x, y, z]) (a + 8) = z := by
  have h1 := twf_wr a x h
  have h2 := twf_wr (a + 4) y h1
  refine ⟨?_, ?_, ?_⟩
  · exact (rd_wrMany_other [y, z] (wr s a x) (a + 4) a (by omega)).trans (rd_wr_same _ _ h)
  · exact (rd_wrMany_other [z] (wr (wr s a x) (a + 4) y) (a + 4 + 4) (a + 4) (by omega)).trans (rd_wr_same _ _ h1)
  · exact rd_wr_same _ _ h2

/-! ### Ends -/

theorem recordFirst_rd (s : State) (page code st : Nat) (cmd : Bool) (a : Nat) (h : a ≠ page + Reg.PAGE_ERR_FIRST) :
    rd (recordFirst s page code st cmd) a = rd s a := by
  unfold recordFirst
  split
  · rfl
  · exact rd_wr_other _ (fun e => h e.symm)

@[simp] theorem noteSync_rd (s : State) (page : Nat) (o : Word × Word × Word) (a : Nat) : rd (noteSync s page o) a = rd s a := rfl

/-- Where a command ends, its result and outputs read as R166 says; no other word of the page changes but PAGE_ERR_FIRST. -/
theorem finishCmd_result {s : State} {page st : Nat} {c : RunCmd} (o0 o1 o2 : Word) (h : twf regDflt s.regs = true)
    (hc : runningOn s page = some c) (hq : rd s (page + Reg.CMD_RESULT) &&& 2 = 0) :
    rd (finishCmd s page st o0 o1 o2) (page + Reg.CMD_RESULT)
        = w32 (1 + 256 * st + 65536 * (c.code % 256) + 2 ^ 24 * (c.seq % 256))
      ∧ rd (finishCmd s page st o0 o1 o2) (page + Reg.CMD_OUT) = o0
      ∧ rd (finishCmd s page st o0 o1 o2) (page + Reg.CMD_OUT + 4) = o1
      ∧ rd (finishCmd s page st o0 o1 o2) (page + Reg.CMD_OUT + 8) = o2 := by
  have key : ∀ s1 : State, twf regDflt s1.regs = true → ∀ w,
      rd (wrMany (wr s1 (page + Reg.CMD_RESULT) w) (page + Reg.CMD_OUT) [o0, o1, o2]) (page + Reg.CMD_RESULT) = w
      ∧ rd (wrMany (wr s1 (page + Reg.CMD_RESULT) w) (page + Reg.CMD_OUT) [o0, o1, o2]) (page + Reg.CMD_OUT) = o0
      ∧ rd (wrMany (wr s1 (page + Reg.CMD_RESULT) w) (page + Reg.CMD_OUT) [o0, o1, o2]) (page + Reg.CMD_OUT + 4) = o1
      ∧ rd (wrMany (wr s1 (page + Reg.CMD_RESULT) w) (page + Reg.CMD_OUT) [o0, o1, o2]) (page + Reg.CMD_OUT + 8) = o2 := by
    intro s1 h1 w
    refine ⟨?_, rd_wrMany3 _ _ _ _ (twf_wr _ _ h1)⟩
    rw [rd_wrMany_other _ _ _ _ (by left; show _ + 64 < _ + 68; omega)]
    exact rd_wr_same _ _ h1
  have lift : ∀ t a, a = page + Reg.CMD_RESULT ∨ a = page + Reg.CMD_OUT ∨ a = page + Reg.CMD_OUT + 4
      ∨ a = page + Reg.CMD_OUT + 8 → rd (recordFirst t page c.code st true) a = rd t a := by
    intro t a ha
    refine recordFirst_rd _ _ _ _ _ _ ?_
    show a ≠ page + 36
    rcases ha with e | e | e | e <;> subst e
    · show page + 64 ≠ _; omega
    · show page + 68 ≠ _; omega
    · show page + 68 + 4 ≠ _; omega
    · show page + 68 + 8 ≠ _; omega
  unfold finishCmd
  rw [hc]
  dsimp only
  rw [hq]
  have h0 : ∀ w : Word, w ||| 0 = w := fun w => by simp
  rw [h0]
  have hs : twf regDflt (if c.via = Master.sync then noteSync s page (o0, o1, o2) else s).regs = true := by
    split <;> exact h
  have k := key { (if c.via = Master.sync then noteSync s page (o0, o1, o2) else s) with
    running := (if c.via = Master.sync then noteSync s page (o0, o1, o2) else s).running.filter (fun c => c.page != page) } hs
    (w32 (1 + 256 * st + 65536 * (c.code % 256) + 2 ^ 24 * (c.seq % 256)))
  split
  · rw [lift _ _ (.inl rfl), lift _ _ (.inr (.inl rfl)), lift _ _ (.inr (.inr (.inl rfl))), lift _ _ (.inr (.inr (.inr rfl)))]
    exact k
  · exact k

/-! ### Acceptance -/

/-- The state in which the body of a command row starts: arguments written, command accepted. -/
def begun (s : State) (page code : Nat) (via : Master) (seq : Byte) (a0 a1 a2 : Word) : State :=
  acceptCmd (wrMany s (page + Reg.CMD_ARG) [a0, a1, a2]) page code seq.toNat via

theorem find_append_one {α : Type} (p : α → Bool) (l : List α) (x : α) (h : l.find? p = none) (hx : p x = true) :
    (l ++ [x]).find? p = some x := by
  rw [List.find?_append, h]; simp [hx]

theorem filter_append_one {α : Type} (p : α → Bool) (l : List α) (x : α) (h : l.find? p = none) (hx : p x = true) :
    (l ++ [x]).filter (fun y => !p y) = l := by
  rw [List.filter_append]
  have h1 : [x].filter (fun y => !p y) = [] := by simp [hx]
  have h2 : l.filter (fun y => !p y) = l := by
    rw [List.filter_eq_self]
    intro y hy
    have := List.find?_eq_none.1 h y hy
    simpa using this
  rw [h1, h2, List.append_nil]

/-- Not a table unit's page: there the response is cleared as well (R496). -/
def PlainPage (page : Nat) : Prop := page ≠ pgSlice .ochre 1 ∧ page ≠ pgSlice .slate 1

theorem begun_eq {s : State} {page code : Nat} {via : Master} {seq : Byte} {a0 a1 a2 : Word}
    (hw : twf regDflt s.regs = true) (hp : PlainPage page) :
    begun s page code via seq a0 a1 a2 =
      { wrMany (wr (wrMany s (page + Reg.CMD_ARG) [a0, a1, a2]) (page + Reg.CMD_RESULT)
          (w32 (65536 * (code % 256) + 2 ^ 24 * (seq.toNat % 256)))) (page + Reg.CMD_OUT) [0, 0, 0]
        with running := s.running ++ [⟨page, code, seq.toNat, via, a0, a1, a2⟩] } := by
  obtain ⟨h0, h1, h2⟩ := rd_wrMany3 (s := s) (page + Reg.CMD_ARG) a0 a1 a2 hw
  unfold begun acceptCmd
  rw [if_neg (by rcases hp with ⟨p1, p2⟩; exact fun e => e.elim p1 p2)]
  show _ = _
  simp only [Nat.mul_zero, Nat.add_zero, Nat.mul_one]
  rw [h0, h1, h2]
  rfl

section
variable {s : State} {page code : Nat} {via : Master} {seq : Byte} {a0 a1 a2 : Word}

theorem begun_running (hw : twf regDflt s.regs = true) (hp : PlainPage page) :
    (begun s page code via seq a0 a1 a2).running = s.running ++ [⟨page, code, seq.toNat, via, a0, a1, a2⟩] := by
  rw [begun_eq hw hp]

theorem begun_runningOn (hw : twf regDflt s.regs = true) (hp : PlainPage page) (hi : runningOn s page = none) :
    runningOn (begun s page code via seq a0 a1 a2) page = some ⟨page, code, seq.toNat, via, a0, a1, a2⟩ := by
  unfold runningOn
  rw [begun_running hw hp]
  exact find_append_one _ _ _ hi (by simp)

/-- Acceptance changes registers and the running commands only. -/
theorem begun_frame (hw : twf regDflt s.regs = true) (hp : PlainPage page) :
    { begun s page code via seq a0 a1 a2 with regs := s.regs, running := s.running } = s := by
  rw [begun_eq hw hp]; rfl

theorem begun_rd_other (hw : twf regDflt s.regs = true) (hp : PlainPage page) (a : Nat) (ha : ¬CmdWord page a) :
    rd (begun s page code via seq a0 a1 a2) a = rd s a := by
  have hc : a < page + 52 ∨ page + 80 ≤ a := by
    unfold CmdWord at ha
    have h1 : page + Reg.CMD_ARG = page + 52 := rfl
    have h2 : page + Reg.CMD_OUT + 12 = page + 80 := rfl
    rw [h1, h2] at ha; omega
  rw [begun_eq hw hp]
  show rd (wrMany (wr (wrMany s (page + 52) [a0, a1, a2]) (page + 64) _) (page + 68) [0, 0, 0]) a = _
  rw [rd_wrMany_other _ _ _ _ (by simp; omega), rd_wr_other _ (by omega), rd_wrMany_other _ _ _ _ (by simp; omega)]

theorem begun_twf (hw : twf regDflt s.regs = true) (hp : PlainPage page) :
    twf regDflt (begun s page code via seq a0 a1 a2).regs = true := by
  rw [begun_eq hw hp]
  exact twf_wrMany _ _ _ (twf_wr _ _ (twf_wrMany _ _ _ hw))

theorem begun_result (hw : twf regDflt s.regs = true) (hp : PlainPage page) :
    rd (begun s page code via seq a0 a1 a2) (page + Reg.CMD_RESULT)
      = w32 (65536 * (code % 256) + 2 ^ 24 * (seq.toNat % 256)) := by
  rw [begun_eq hw hp]
  show rd (wrMany (wr _ (page + 64) _) (page + 68) [0, 0, 0]) (page + 64) = _
  rw [rd_wrMany_other _ _ _ _ (by simp)]
  exact rd_wr_same _ _ (twf_wrMany _ _ _ hw)

theorem begun_args (hw : twf regDflt s.regs = true) (hp : PlainPage page) :
    rd (begun s page code via seq a0 a1 a2) (page + Reg.CMD_ARG) = a0
      ∧ rd (begun s page code via seq a0 a1 a2) (page + Reg.CMD_ARG + 4) = a1
      ∧ rd (begun s page code via seq a0 a1 a2) (page + Reg.CMD_ARG + 8) = a2 := by
  rw [begun_eq hw hp]
  obtain ⟨h0, h1, h2⟩ := rd_wrMany3 (s := s) (page + Reg.CMD_ARG) a0 a1 a2 hw
  refine ⟨?_, ?_, ?_⟩
  · refine Eq.trans ?_ h0
    show rd (wrMany (wr _ (page + 64) _) (page + 68) [0, 0, 0]) (page + 52) = _
    rw [rd_wrMany_other _ _ _ _ (by simp), rd_wr_other _ (by omega)]
  · refine Eq.trans ?_ h1
    show rd (wrMany (wr _ (page + 64) _) (page + 68) [0, 0, 0]) (page + 52 + 4) = _
    rw [rd_wrMany_other _ _ _ _ (by simp), rd_wr_other _ (by omega)]
  · refine Eq.trans ?_ h2
    show rd (wrMany (wr _ (page + 64) _) (page + 68) [0, 0, 0]) (page + 52 + 8) = _
    rw [rd_wrMany_other _ _ _ _ (by simp), rd_wr_other _ (by omega)]

/-- A command row whose page is ready, whose master and phase are allowed, starts its body. -/
theorem commandRow_accepted {spec : CmdSpec} (hw : twf regDflt s.regs = true) (hp : PlainPage page)
    (hr : PageReady s page via) (hrole : spec.role via = true) (hph : spec.phases s.power.phase = true) :
    commandRow spec page code via seq a0 a1 a2 s
      = spec.body ⟨page, code, seq.toNat, via, a0, a1, a2⟩ (begun s page code via seq a0 a1 a2) := by
  have hrun := begun_runningOn (code := code) (via := via) (seq := seq) (a0 := a0) (a1 := a1) (a2 := a2) hw hp hr.2
  have hq : runningOn (wrMany s (page + Reg.CMD_ARG) [a0, a1, a2]) page = none := hr.2
  have hb : s.power.bringupDone = true := (Bool.and_eq_true _ _ ▸ hr.1).1
  unfold commandRow issueCmd
  rw [if_neg (by rw [hr.1]; decide)]
  rw [if_neg (by rw [wrMany_power, hb]; decide)]
  rw [if_neg (by rw [hq]; decide)]
  dsimp only
  rw [show acceptCmd (wrMany s (page + Reg.CMD_ARG) [a0, a1, a2]) page code seq.toNat via
    = begun s page code via seq a0 a1 a2 from rfl, hrun]
  dsimp only
  rw [if_neg (by rw [hrole]; decide), if_neg (by rw [wrMany_power, hph]; decide)]

/-- A command that waits after acceptance. -/
theorem begun_runs (hw : twf regDflt s.regs = true) (hp : PlainPage page) (hi : runningOn s page = none)
    (hc : code < 256) : CmdRuns s (begun s page code via seq a0 a1 a2) page code seq.toNat via (a0, a1, a2) := by
  refine ⟨begun_runningOn hw hp hi, ?_, begun_rd_other hw hp⟩
  rw [begun_result hw hp, Nat.mod_eq_of_lt hc, Nat.mod_eq_of_lt seq.isLt]

/-- A command that ends at once with OK or BUSY, on a state that differs from the accepting one in no register. -/
theorem begun_ended {v : State} {st : Nat} {o0 o1 o2 : Word} (hw : twf regDflt s.regs = true) (hp : PlainPage page)
    (hi : runningOn s page = none) (hc : code < 256) (hs : st = 0 ∨ st = 1)
    (hvr : v.regs = (begun s page code via seq a0 a1 a2).regs)
    (hvn : v.running = (begun s page code via seq a0 a1 a2).running) :
    CmdEnded s (finishCmd v page st o0 o1 o2) page code seq.toNat st (a0, a1, a2) (o0, o1, o2) := by
  have hrun : runningOn v page = some ⟨page, code, seq.toNat, via, a0, a1, a2⟩ := by
    unfold runningOn; rw [hvn]; exact begun_runningOn hw hp hi
  have hrd : ∀ a, rd v a = rd (begun s page code via seq a0 a1 a2) a := fun a => by unfold rd; rw [hvr]
  have hq : rd v (page + Reg.CMD_RESULT) &&& 2 = 0 := by
    rw [hrd, begun_result hw hp]
    apply BitVec.eq_of_toNat_eq
    rw [BitVec.toNat_and]
    unfold w32
    rw [BitVec.toNat_ofNat]
    show _ &&& 2 = 0
    apply Nat.eq_of_testBit_eq
    intro i
    rw [Nat.testBit_and]
    by_cases h1 : i = 1
    · subst h1
      have : (65536 * (code % 256) + 2 ^ 24 * (seq.toNat % 256)) % 2 ^ 32
          = 65536 * (code % 256) + 2 ^ 24 * (seq.toNat % 256) := Nat.mod_eq_of_lt (by omega)
      rw [this, Nat.testBit_eq_decide_div_mod_eq]
      have : (65536 * (code % 256) + 2 ^ 24 * (seq.toNat % 256)) / 2 ^ 1 % 2 = 0 := by omega
      rw [this]; simp
    · have : Nat.testBit 2 i = false := by
        rw [show (2 : Nat) = 2 ^ 1 from rfl, Nat.testBit_two_pow]; simp; omega
      rw [this]; simp
  have hv : twf regDflt v.regs = true := by rw [hvr]; exact begun_twf hw hp
  have res := finishCmd_result o0 o1 o2 (st := st) hv hrun hq
  have hother : ∀ a, ¬(page + 64 ≤ a ∧ a < page + 80) → rd (finishCmd v page st o0 o1 o2) a = rd v a := by
    intro a ha
    unfold finishCmd
    rw [hrun]
    dsimp only
    have hb : ¬(st ≠ stOK ∧ st ≠ stBUSY ∧ page < pgCch 0) := by
      rcases hs with e | e <;> subst e <;> simp [stOK, stBUSY]
    rw [if_neg hb, rd_wrMany_other _ _ _ _ (by show a < page + 68 ∨ page + 68 + 4 * 3 ≤ a; omega), rd_wr_other _ (by show page + 64 ≠ a; omega)]
    split <;> rfl
  obtain ⟨ra, rb, rc⟩ := begun_args (code := code) (via := via) (seq := seq) (a0 := a0) (a1 := a1) (a2 := a2) hw hp
  refine ⟨?_, ?_, ⟨?_, ?_, ?_⟩, ⟨res.2.1, res.2.2.1, res.2.2.2⟩, ?_⟩
  · rw [res.1]
    dsimp only
    rw [Nat.mod_eq_of_lt hc, Nat.mod_eq_of_lt seq.isLt]
  · exact finishCmd_idle _ _ _ _ _ _
  · rw [hother _ (by show ¬(page + 64 ≤ page + 52 ∧ _); omega), hrd, ra]
  · rw [hother _ (by show ¬(page + 64 ≤ page + 52 + 4 ∧ _); omega), hrd, rb]
  · rw [hother _ (by show ¬(page + 64 ≤ page + 52 + 8 ∧ _); omega), hrd, rc]
  · intro a ha
    have hc : ¬(page + 64 ≤ a ∧ a < page + 80) := fun e => ha ⟨by show page + 52 ≤ a; omega, by show a < page + 68 + 12; omega⟩
    rw [hother a hc, hrd, begun_rd_other hw hp a ha]

/-- What else that end changes: nothing, where the command did not come from the sync engine. -/
theorem begun_ended_frame {v : State} {st : Nat} {o0 o1 o2 : Word} (hw : twf regDflt s.regs = true) (hp : PlainPage page)
    (hi : runningOn s page = none) (hs : st = 0 ∨ st = 1) (hvia : via ≠ .sync)
    (hvn : v.running = (begun s page code via seq a0 a1 a2).running) :
    { finishCmd v page st o0 o1 o2 with regs := s.regs } = { v with regs := s.regs, running := s.running } := by
  have hrun : runningOn v page = some ⟨page, code, seq.toNat, via, a0, a1, a2⟩ := by
    unfold runningOn; rw [hvn]; exact begun_runningOn hw hp hi
  have hb : ¬(st ≠ stOK ∧ st ≠ stBUSY ∧ page < pgCch 0) := by
    rcases hs with e | e <;> subst e <;> simp [stOK, stBUSY]
  have hf : v.running.filter (fun c => c.page != page) = s.running := by
    rw [hvn, begun_running hw hp]
    exact filter_append_one (fun c : RunCmd => c.page == page) _ _ hi (by simp)
  unfold finishCmd
  rw [hrun]
  dsimp only
  rw [if_neg hb, if_neg hvia]
  rw [← hf]
  rfl

theorem eq_of_frame {s u : State} (h : { u with regs := s.regs, running := s.running } = s) :
    u = { s with regs := u.regs, running := u.running } := by
  cases s; cases u; simp only [State.mk.injEq] at h ⊢; simp [h]

/-- What an accepted command row does, in one piece: its body runs on a state that differs from the one before in the
registers and the running commands only; if it leaves it so, the command runs; if it ends it with OK or BUSY, it has ended
and nothing but the body's own effect has happened. -/
theorem commandRow_started {spec : CmdSpec} (hw : twf regDflt s.regs = true) (hp : PlainPage page) (hr : PageReady s page via)
    (hrole : spec.role via = true) (hph : spec.phases s.power.phase = true) (hc : code < 256) :
    ∃ r n, commandRow spec page code via seq a0 a1 a2 s
        = spec.body ⟨page, code, seq.toNat, via, a0, a1, a2⟩ { s with regs := r, running := n }
      ∧ CmdRuns s { s with regs := r, running := n } page code seq.toNat via (a0, a1, a2)
      ∧ twf regDflt r = true
      ∧ ∀ (v : State) (st : Nat) (o0 o1 o2 : Word), v.regs = r → v.running = n → (st = 0 ∨ st = 1) →
          CmdEnded s (finishCmd v page st o0 o1 o2) page code seq.toNat st (a0, a1, a2) (o0, o1, o2)
          ∧ (via ≠ .sync → { finishCmd v page st o0 o1 o2 with regs := s.regs }
              = { v with regs := s.regs, running := s.running }) := by
  refine ⟨(begun s page code via seq a0 a1 a2).regs, (begun s page code via seq a0 a1 a2).running, ?_, ?_,
    begun_twf hw hp, ?_⟩
  · rw [← eq_of_frame (begun_frame hw hp)]
    exact commandRow_accepted hw hp hr hrole hph
  · rw [← eq_of_frame (begun_frame hw hp)]
    exact begun_runs hw hp hr.2 hc
  · exact fun v st o0 o1 o2 h1 h2 h3 =>
      ⟨begun_ended hw hp hr.2 hc h3 h1 h2, fun h4 => begun_ended_frame hw hp hr.2 h3 h4 h2⟩

end

end Sys2Proof.Machine
end

