-- ==== Sys2Proof/Laws/KeepsCredit.lean ====
section
/-! SUPPORT. The operations of Credit keep what Laws/Keeps.lean states. -/
set_option linter.tactic.unusedName false
set_option linter.unusedVariables false
namespace Sys2Proof.Machine

theorem putShadowPlan_keeps {kk : Kind} {sb : State} (s : State) (i : Nat) (w : Word) (hk : Keeps kk sb s) :
    Keeps kk sb (putShadowPlan s i w) := by
  unfold putShadowPlan
  exact Keeps.ite (hk.store (fun w : Memory.Parts s => { w with bank0 := twf_tset _ _ _ _ w.bank0 }) rfl rfl rfl rfl rfl rfl rfl)
    (hk.store (fun w : Memory.Parts s => { w with bank1 := twf_tset _ _ _ _ w.bank1 }) rfl rfl rfl rfl rfl rfl rfl)

theorem putPort_keeps {kk : Kind} {sb : State} (s : State) (p : Nat) (x : PortUnit) (hk : Keeps kk sb s) :
    Keeps kk sb (putPort s p x) := by
  unfold putPort
  exact hk.store (fun w : Memory.Parts s => { w with ports := twf_tset _ _ _ _ w.ports }) rfl rfl rfl rfl rfl rfl rfl

theorem all_tset {α : Type} [DecidableEq α] (d : Nat → α) (p : α → Bool) (k : Nat) (v : α) (hv : p v = true) :
    ∀ t : Table α, t.all (fun e => p e.2) = true → (tset d t k v).all (fun e => p e.2) = true
  | [], _ => by
    unfold tset
    split <;> simp [hv]
  | (a, x) :: t, h => by
    simp only [List.all_cons, Bool.and_eq_true] at h
    unfold tset
    split
    · split <;> simp [h.1, h.2, hv]
    · split
      · split <;> simp [h.2, hv]
      · simp [h.1, all_tset d p k v hv t h.2]

theorem all_tget {α : Type} (d : Nat → α) (p : α → Bool) (k : Nat) (hd : p (d k) = true) :
    ∀ t : Table α, t.all (fun e => p e.2) = true → p (tget d t k) = true
  | [], _ => hd
  | (a, x) :: t, h => by
    simp only [List.all_cons, Bool.and_eq_true] at h
    unfold tget
    split
    · exact h.1
    · exact all_tget d p k hd t h.2

/-- The blocks of a channel are in their canonical form. -/
theorem getChan_wf (s : State) (c : Nat) (h : Memory.wf s = true) : twf (fun _ => []) (getChan s c).blocks = true := by
  exact all_tget (fun _ => MemChan.reset) (fun x => twf (fun _ => []) x.blocks) c rfl s.mem (Memory.wf_iff.1 h).blocks

theorem putChan_keeps {kk : Kind} {sb : State} (s : State) (c : Nat) (x : MemChan)
    (hx : Memory.wf sb = true → Memory.wf s = true → twf (fun _ => []) x.blocks = true) (h : Keeps kk sb s) : Keeps kk sb (putChan s c x) := by
  refine ⟨h.pending, fun w0 => ?_, h.roles, h.recovery, h.phase, h.clock, h.inForce, h.keys⟩
  have w := h.wf w0
  have hx := hx w0 w
  rw [Memory.wf_iff] at w ⊢
  exact { w with
    mem := twf_tset _ _ _ _ w.mem
    blocks := all_tset _ (fun x : MemChan => twf (fun _ => []) x.blocks) c x hx s.mem w.blocks }

theorem putShadowCoef_keeps {kk : Kind} {sb : State} (s : State) (i : Nat) (w : Word) (hk : Keeps kk sb s) :
    Keeps kk sb (putShadowCoef s i w) := by
  unfold putShadowCoef
  exact Keeps.ite (hk.store (fun w : Memory.Parts s => { w with coef0 := twf_tset _ _ _ _ w.coef0 }) rfl rfl rfl rfl rfl rfl rfl)
    (hk.store (fun w : Memory.Parts s => { w with coef1 := twf_tset _ _ _ _ w.coef1 }) rfl rfl rfl rfl rfl rfl rfl)

theorem spendEnergy_keeps {kk : Kind} {sb : State} (s : State) (k n : Nat) (hk : Keeps kk sb s) :
    Keeps kk sb (spendEnergy s k n) := by
  unfold spendEnergy
  repeat' first | (extract_lets +onlyGivenNames z; first | (have hz : Keeps kk sb z := (by unfold z; with_reducible assumption); clear hz; subst z) | (have hz : Keeps kk sb z := (by unfold z; repeat' first | with_reducible assumption | (with_reducible apply Keeps.foldl; intro _ _ _) | with_reducible apply Keeps.ite | split | (with_reducible refine Keeps.upd ?_ rfl rfl rfl rfl rfl)); clear_value z)  | (have hz : PowerUnit := z; clear hz) | (have hz : RedUnit := z; clear hz) | (have hz : PcieUnit := z; clear hz) | (have hz : VkeepUnit := z; clear hz) | (have hz : TimeUnit := z; clear hz) | (have hz : TickUnit := z; clear hz) | (have hz : QueueUnit := z; clear hz) | (have hz : PipeUnit := z; clear hz) | (have hz : SchedUnit := z; clear hz) | (have hz : CipUnit := z; clear hz) | (have hz : CrtUnit := z; clear hz) | (have hz : MbxUnit := z; clear hz) | (have hz : CusUnit := z; clear hz) | (have hz : EccUnit := z; clear hz) | (have hz : PowerGov := z; clear hz) | (have hz : SliceRed := z; clear hz) | (have hz : MemChan := z; clear hz) | clear_value z | skip) | with_reducible assumption | (with_reducible apply Keeps.foldl; intro _ _ _) | with_reducible apply Keeps.ite | split | (with_reducible refine Keeps.upd ?_ rfl rfl rfl rfl rfl)

theorem useCredits_keeps {kk : Kind} {sb : State} (s : State) (k n b : Nat) (hk : Keeps kk sb s) :
    Keeps kk sb (useCredits s k n b) := by
  unfold useCredits
  repeat' first | (extract_lets +onlyGivenNames z; first | (have hz : Keeps kk sb z := (by unfold z; with_reducible assumption); clear hz; subst z) | (have hz : Keeps kk sb z := (by unfold z; repeat' first | with_reducible assumption | with_reducible apply spendEnergy_keeps | (with_reducible apply Keeps.foldl; intro _ _ _) | with_reducible apply Keeps.ite | split | (with_reducible refine Keeps.upd ?_ rfl rfl rfl rfl rfl)); clear_value z)  | (have hz : Keeps kk sb z.1 := (by unfold z; repeat' first | with_reducible assumption | with_reducible apply spendEnergy_keeps | (with_reducible apply Keeps.foldl; intro _ _ _) | with_reducible apply Keeps.ite | split | (with_reducible refine Keeps.upd ?_ rfl rfl rfl rfl rfl)); clear_value z) | (have hz : Keeps kk sb z.st := (by unfold z; repeat' first | with_reducible assumption | with_reducible apply spendEnergy_keeps | (with_reducible apply Keeps.foldl; intro _ _ _) | with_reducible apply Keeps.ite | split | (with_reducible refine Keeps.upd ?_ rfl rfl rfl rfl rfl)); clear_value z) | (have hz : PowerUnit := z; clear hz) | (have hz : RedUnit := z; clear hz) | (have hz : PcieUnit := z; clear hz) | (have hz : VkeepUnit := z; clear hz) | (have hz : TimeUnit := z; clear hz) | (have hz : TickUnit := z; clear hz) | (have hz : QueueUnit := z; clear hz) | (have hz : PipeUnit := z; clear hz) | (have hz : SchedUnit := z; clear hz) | (have hz : CipUnit := z; clear hz) | (have hz : CrtUnit := z; clear hz) | (have hz : MbxUnit := z; clear hz) | (have hz : CusUnit := z; clear hz) | (have hz : EccUnit := z; clear hz) | (have hz : PowerGov := z; clear hz) | (have hz : SliceRed := z; clear hz) | (have hz : MemChan := z; clear hz) | clear_value z | skip) | with_reducible assumption | with_reducible apply spendEnergy_keeps | (with_reducible apply Keeps.foldl; intro _ _ _) | with_reducible apply Keeps.ite | split | (with_reducible refine Keeps.upd ?_ rfl rfl rfl rfl rfl)

theorem learnUse_keeps {kk : Kind} {sb : State} (s : State) (sl : SliceId) (n : Nat) (hk : Keeps kk sb s) :
    Keeps kk sb (learnUse s sl n) := by
  unfold learnUse
  repeat' first | (extract_lets +onlyGivenNames z; first | (have hz : Keeps kk sb z := (by unfold z; with_reducible assumption); clear hz; subst z) | (have hz : Keeps kk sb z := (by unfold z; repeat' first | with_reducible assumption | (with_reducible apply Keeps.foldl; intro _ _ _) | with_reducible apply Keeps.ite | split | (with_reducible refine Keeps.upd ?_ rfl rfl rfl rfl rfl)); clear_value z)  | (have hz : PowerUnit := z; clear hz) | (have hz : RedUnit := z; clear hz) | (have hz : PcieUnit := z; clear hz) | (have hz : VkeepUnit := z; clear hz) | (have hz : TimeUnit := z; clear hz) | (have hz : TickUnit := z; clear hz) | (have hz : QueueUnit := z; clear hz) | (have hz : PipeUnit := z; clear hz) | (have hz : SchedUnit := z; clear hz) | (have hz : CipUnit := z; clear hz) | (have hz : CrtUnit := z; clear hz) | (have hz : MbxUnit := z; clear hz) | (have hz : CusUnit := z; clear hz) | (have hz : EccUnit := z; clear hz) | (have hz : PowerGov := z; clear hz) | (have hz : SliceRed := z; clear hz) | (have hz : MemChan := z; clear hz) | clear_value z | skip) | with_reducible assumption | (with_reducible apply Keeps.foldl; intro _ _ _) | with_reducible apply Keeps.ite | split | (with_reducible refine Keeps.upd ?_ rfl rfl rfl rfl rfl)

end Sys2Proof.Machine
end

