-- ==== Sys2Proof/Laws/KeepsClock.lean ====
section
/-! SUPPORT. The operations of Clock keep what Laws/Keeps.lean states. -/
set_option linter.tactic.unusedName false
set_option linter.unusedVariables false
namespace Sys2Proof.Machine

theorem advanceTime_keeps {kr kp ke ky : Bool} {sb : State} (s : State) (drift : Int) (hk : Keeps ⟨kr, kp, false, ke, ky⟩ sb s) :
    Keeps ⟨kr, kp, false, ke, ky⟩ sb (advanceTime s drift) := by
  unfold advanceTime
  repeat' first | (extract_lets +onlyGivenNames z; first | (have hz : Keeps ⟨kr, kp, false, ke, ky⟩ sb z := (by unfold z; with_reducible assumption); clear hz; subst z) | (have hz : Keeps ⟨kr, kp, false, ke, ky⟩ sb z := (by unfold z; repeat' first | with_reducible assumption | with_reducible apply endCmd_keeps | with_reducible apply finishCmd_keeps | with_reducible apply setErr_keeps | with_reducible apply amber_keeps | with_reducible apply bump_keeps | with_reducible apply signal_keeps | (with_reducible apply Keeps.foldl; intro _ _ _) | with_reducible apply Keeps.ite | split | (with_reducible refine Keeps.upd ?_ rfl rfl rfl rfl rfl) | (with_reducible refine Keeps.updClk ?_ rfl rfl rfl rfl)); clear_value z)  | (have hz : PowerUnit := z; clear hz) | (have hz : RedUnit := z; clear hz) | (have hz : PcieUnit := z; clear hz) | (have hz : VkeepUnit := z; clear hz) | (have hz : TimeUnit := z; clear hz) | (have hz : TickUnit := z; clear hz) | (have hz : QueueUnit := z; clear hz) | (have hz : PipeUnit := z; clear hz) | (have hz : SchedUnit := z; clear hz) | (have hz : CipUnit := z; clear hz) | (have hz : CrtUnit := z; clear hz) | (have hz : MbxUnit := z; clear hz) | (have hz : CusUnit := z; clear hz) | (have hz : EccUnit := z; clear hz) | (have hz : PowerGov := z; clear hz) | (have hz : SliceRed := z; clear hz) | (have hz : MemChan := z; clear hz) | clear_value z | skip) | with_reducible assumption | with_reducible apply endCmd_keeps | with_reducible apply finishCmd_keeps | with_reducible apply setErr_keeps | with_reducible apply amber_keeps | with_reducible apply bump_keeps | with_reducible apply signal_keeps | (with_reducible apply Keeps.foldl; intro _ _ _) | with_reducible apply Keeps.ite | split | (with_reducible refine Keeps.upd ?_ rfl rfl rfl rfl rfl) | (with_reducible refine Keeps.updClk ?_ rfl rfl rfl rfl)

theorem selectReference_keeps {kk : Kind} {sb : State} (s : State) (hk : Keeps kk sb s) :
    Keeps kk sb (selectReference s) := by
  unfold selectReference
  repeat' first | (extract_lets +onlyGivenNames z; first | (have hz : Keeps kk sb z := (by unfold z; with_reducible assumption); clear hz; subst z) | (have hz : Keeps kk sb z := (by unfold z; repeat' first | with_reducible assumption | with_reducible apply setErr_keeps | with_reducible apply amber_keeps | (with_reducible apply Keeps.foldl; intro _ _ _) | with_reducible apply Keeps.ite | split | (with_reducible refine Keeps.upd ?_ rfl rfl rfl rfl rfl)); clear_value z)  | (have hz : PowerUnit := z; clear hz) | (have hz : RedUnit := z; clear hz) | (have hz : PcieUnit := z; clear hz) | (have hz : VkeepUnit := z; clear hz) | (have hz : TimeUnit := z; clear hz) | (have hz : TickUnit := z; clear hz) | (have hz : QueueUnit := z; clear hz) | (have hz : PipeUnit := z; clear hz) | (have hz : SchedUnit := z; clear hz) | (have hz : CipUnit := z; clear hz) | (have hz : CrtUnit := z; clear hz) | (have hz : MbxUnit := z; clear hz) | (have hz : CusUnit := z; clear hz) | (have hz : EccUnit := z; clear hz) | (have hz : PowerGov := z; clear hz) | (have hz : SliceRed := z; clear hz) | (have hz : MemChan := z; clear hz) | clear_value z | skip) | with_reducible assumption | with_reducible apply setErr_keeps | with_reducible apply amber_keeps | (with_reducible apply Keeps.foldl; intro _ _ _) | with_reducible apply Keeps.ite | split | (with_reducible refine Keeps.upd ?_ rfl rfl rfl rfl rfl)

theorem ppsBoundary_keeps {kk : Kind} {sb : State} (s : State) (hk : Keeps kk sb s) :
    Keeps kk sb (ppsBoundary s) := by
  unfold ppsBoundary
  repeat' first | (extract_lets +onlyGivenNames z; first | (have hz : Keeps kk sb z := (by unfold z; with_reducible assumption); clear hz; subst z) | (have hz : Keeps kk sb z := (by unfold z; repeat' first | with_reducible assumption | (with_reducible apply Keeps.foldl; intro _ _ _) | with_reducible apply Keeps.ite | split | (with_reducible refine Keeps.upd ?_ rfl rfl rfl rfl rfl)); clear_value z)  | (have hz : PowerUnit := z; clear hz) | (have hz : RedUnit := z; clear hz) | (have hz : PcieUnit := z; clear hz) | (have hz : VkeepUnit := z; clear hz) | (have hz : TimeUnit := z; clear hz) | (have hz : TickUnit := z; clear hz) | (have hz : QueueUnit := z; clear hz) | (have hz : PipeUnit := z; clear hz) | (have hz : SchedUnit := z; clear hz) | (have hz : CipUnit := z; clear hz) | (have hz : CrtUnit := z; clear hz) | (have hz : MbxUnit := z; clear hz) | (have hz : CusUnit := z; clear hz) | (have hz : EccUnit := z; clear hz) | (have hz : PowerGov := z; clear hz) | (have hz : SliceRed := z; clear hz) | (have hz : MemChan := z; clear hz) | clear_value z | skip) | with_reducible assumption | (with_reducible apply Keeps.foldl; intro _ _ _) | with_reducible apply Keeps.ite | split | (with_reducible refine Keeps.upd ?_ rfl rfl rfl rfl rfl)

theorem voteBoundary_keeps {kk : Kind} {sb : State} (s : State) (hk : Keeps kk sb s) :
    Keeps kk sb (voteBoundary s) := by
  unfold voteBoundary
  repeat' first | (extract_lets +onlyGivenNames z; first | (have hz : Keeps kk sb z := (by unfold z; with_reducible assumption); clear hz; subst z) | (have hz : Keeps kk sb z := (by unfold z; repeat' first | with_reducible assumption | (with_reducible apply Keeps.foldl; intro _ _ _) | with_reducible apply Keeps.ite | split | (with_reducible refine Keeps.upd ?_ rfl rfl rfl rfl rfl)); clear_value z)  | (have hz : PowerUnit := z; clear hz) | (have hz : RedUnit := z; clear hz) | (have hz : PcieUnit := z; clear hz) | (have hz : VkeepUnit := z; clear hz) | (have hz : TimeUnit := z; clear hz) | (have hz : TickUnit := z; clear hz) | (have hz : QueueUnit := z; clear hz) | (have hz : PipeUnit := z; clear hz) | (have hz : SchedUnit := z; clear hz) | (have hz : CipUnit := z; clear hz) | (have hz : CrtUnit := z; clear hz) | (have hz : MbxUnit := z; clear hz) | (have hz : CusUnit := z; clear hz) | (have hz : EccUnit := z; clear hz) | (have hz : PowerGov := z; clear hz) | (have hz : SliceRed := z; clear hz) | (have hz : MemChan := z; clear hz) | clear_value z | skip) | with_reducible assumption | (with_reducible apply Keeps.foldl; intro _ _ _) | with_reducible apply Keeps.ite | split | (with_reducible refine Keeps.upd ?_ rfl rfl rfl rfl rfl)

theorem execPpsOutFall_keeps {kk : Kind} {sb : State} (s : State) (hk : Keeps kk sb s) :
    KeepsO kk sb (execPpsOutFall s) := by
  unfold execPpsOutFall
  repeat' first | (extract_lets +onlyGivenNames z; first | (have hz : Keeps kk sb z := (by unfold z; with_reducible assumption); clear hz; subst z) | (have hz : Keeps kk sb z := (by unfold z; repeat' first | with_reducible apply KeepsO.next | with_reducible assumption | (with_reducible apply Keeps.foldl; intro _ _ _) | with_reducible apply Keeps.ite | with_reducible apply KeepsO.ite | split | (with_reducible refine Keeps.upd ?_ rfl rfl rfl rfl rfl)); clear_value z)  | (have hz : PowerUnit := z; clear hz) | (have hz : RedUnit := z; clear hz) | (have hz : PcieUnit := z; clear hz) | (have hz : VkeepUnit := z; clear hz) | (have hz : TimeUnit := z; clear hz) | (have hz : TickUnit := z; clear hz) | (have hz : QueueUnit := z; clear hz) | (have hz : PipeUnit := z; clear hz) | (have hz : SchedUnit := z; clear hz) | (have hz : CipUnit := z; clear hz) | (have hz : CrtUnit := z; clear hz) | (have hz : MbxUnit := z; clear hz) | (have hz : CusUnit := z; clear hz) | (have hz : EccUnit := z; clear hz) | (have hz : PowerGov := z; clear hz) | (have hz : SliceRed := z; clear hz) | (have hz : MemChan := z; clear hz) | clear_value z | skip) | with_reducible apply KeepsO.next | with_reducible assumption | (with_reducible apply Keeps.foldl; intro _ _ _) | with_reducible apply Keeps.ite | with_reducible apply KeepsO.ite | split | (with_reducible refine Keeps.upd ?_ rfl rfl rfl rfl rfl)

theorem execPpsInEdge_keeps {kk : Kind} {sb : State} (cyc : Nat) (s : State) (hk : Keeps kk sb s) :
    KeepsO kk sb (execPpsInEdge cyc s) := by
  unfold execPpsInEdge
  repeat' first | (extract_lets +onlyGivenNames z; first | (have hz : Keeps kk sb z := (by unfold z; with_reducible assumption); clear hz; subst z) | (have hz : Keeps kk sb z := (by unfold z; repeat' first | with_reducible apply KeepsO.next | with_reducible assumption | with_reducible apply bump_keeps | with_reducible apply wrWide_keeps | with_reducible apply wr_keeps | with_reducible apply setErr_keeps | (with_reducible apply Keeps.foldl; intro _ _ _) | with_reducible apply Keeps.ite | with_reducible apply KeepsO.ite | split | (with_reducible refine Keeps.upd ?_ rfl rfl rfl rfl rfl)); clear_value z)  | (have hz : PowerUnit := z; clear hz) | (have hz : RedUnit := z; clear hz) | (have hz : PcieUnit := z; clear hz) | (have hz : VkeepUnit := z; clear hz) | (have hz : TimeUnit := z; clear hz) | (have hz : TickUnit := z; clear hz) | (have hz : QueueUnit := z; clear hz) | (have hz : PipeUnit := z; clear hz) | (have hz : SchedUnit := z; clear hz) | (have hz : CipUnit := z; clear hz) | (have hz : CrtUnit := z; clear hz) | (have hz : MbxUnit := z; clear hz) | (have hz : CusUnit := z; clear hz) | (have hz : EccUnit := z; clear hz) | (have hz : PowerGov := z; clear hz) | (have hz : SliceRed := z; clear hz) | (have hz : MemChan := z; clear hz) | clear_value z | skip) | with_reducible apply KeepsO.next | with_reducible assumption | with_reducible apply bump_keeps | with_reducible apply wrWide_keeps | with_reducible apply wr_keeps | with_reducible apply setErr_keeps | (with_reducible apply Keeps.foldl; intro _ _ _) | with_reducible apply Keeps.ite | with_reducible apply KeepsO.ite | split | (with_reducible refine Keeps.upd ?_ rfl rfl rfl rfl rfl)

theorem execRef10mLoss_keeps {kk : Kind} {sb : State} (s : State) (hk : Keeps kk sb s) :
    KeepsO kk sb (execRef10mLoss s) := by
  unfold execRef10mLoss
  repeat' first | (extract_lets +onlyGivenNames z; first | (have hz : Keeps kk sb z := (by unfold z; with_reducible assumption); clear hz; subst z) | (have hz : Keeps kk sb z := (by unfold z; repeat' first | with_reducible apply KeepsO.next | with_reducible assumption | (with_reducible apply Keeps.foldl; intro _ _ _) | with_reducible apply Keeps.ite | with_reducible apply KeepsO.ite | split | (with_reducible refine Keeps.upd ?_ rfl rfl rfl rfl rfl)); clear_value z)  | (have hz : PowerUnit := z; clear hz) | (have hz : RedUnit := z; clear hz) | (have hz : PcieUnit := z; clear hz) | (have hz : VkeepUnit := z; clear hz) | (have hz : TimeUnit := z; clear hz) | (have hz : TickUnit := z; clear hz) | (have hz : QueueUnit := z; clear hz) | (have hz : PipeUnit := z; clear hz) | (have hz : SchedUnit := z; clear hz) | (have hz : CipUnit := z; clear hz) | (have hz : CrtUnit := z; clear hz) | (have hz : MbxUnit := z; clear hz) | (have hz : CusUnit := z; clear hz) | (have hz : EccUnit := z; clear hz) | (have hz : PowerGov := z; clear hz) | (have hz : SliceRed := z; clear hz) | (have hz : MemChan := z; clear hz) | clear_value z | skip) | with_reducible apply KeepsO.next | with_reducible assumption | (with_reducible apply Keeps.foldl; intro _ _ _) | with_reducible apply Keeps.ite | with_reducible apply KeepsO.ite | split | (with_reducible refine Keeps.upd ?_ rfl rfl rfl rfl rfl)

theorem execRef10mRestored_keeps {kk : Kind} {sb : State} (s : State) (hk : Keeps kk sb s) :
    KeepsO kk sb (execRef10mRestored s) := by
  unfold execRef10mRestored
  repeat' first | (extract_lets +onlyGivenNames z; first | (have hz : Keeps kk sb z := (by unfold z; with_reducible assumption); clear hz; subst z) | (have hz : Keeps kk sb z := (by unfold z; repeat' first | with_reducible apply KeepsO.next | with_reducible assumption | (with_reducible apply Keeps.foldl; intro _ _ _) | with_reducible apply Keeps.ite | with_reducible apply KeepsO.ite | split | (with_reducible refine Keeps.upd ?_ rfl rfl rfl rfl rfl)); clear_value z)  | (have hz : PowerUnit := z; clear hz) | (have hz : RedUnit := z; clear hz) | (have hz : PcieUnit := z; clear hz) | (have hz : VkeepUnit := z; clear hz) | (have hz : TimeUnit := z; clear hz) | (have hz : TickUnit := z; clear hz) | (have hz : QueueUnit := z; clear hz) | (have hz : PipeUnit := z; clear hz) | (have hz : SchedUnit := z; clear hz) | (have hz : CipUnit := z; clear hz) | (have hz : CrtUnit := z; clear hz) | (have hz : MbxUnit := z; clear hz) | (have hz : CusUnit := z; clear hz) | (have hz : EccUnit := z; clear hz) | (have hz : PowerGov := z; clear hz) | (have hz : SliceRed := z; clear hz) | (have hz : MemChan := z; clear hz) | clear_value z | skip) | with_reducible apply KeepsO.next | with_reducible assumption | (with_reducible apply Keeps.foldl; intro _ _ _) | with_reducible apply Keeps.ite | with_reducible apply KeepsO.ite | split | (with_reducible refine Keeps.upd ?_ rfl rfl rfl rfl rfl)

theorem execTickCopyOutvoted_keeps {kk : Kind} {sb : State} (copy : Fin 3) (s : State) (hk : Keeps kk sb s) :
    KeepsO kk sb (execTickCopyOutvoted copy s) := by
  unfold execTickCopyOutvoted
  repeat' first | (extract_lets +onlyGivenNames z; first | (have hz : Keeps kk sb z := (by unfold z; with_reducible assumption); clear hz; subst z) | (have hz : Keeps kk sb z := (by unfold z; repeat' first | with_reducible apply KeepsO.next | with_reducible assumption | with_reducible apply needReset_keeps | with_reducible apply setErr_keeps | with_reducible apply bump_keeps | (with_reducible apply Keeps.foldl; intro _ _ _) | with_reducible apply Keeps.ite | with_reducible apply KeepsO.ite | split | (with_reducible refine Keeps.upd ?_ rfl rfl rfl rfl rfl)); clear_value z)  | (have hz : PowerUnit := z; clear hz) | (have hz : RedUnit := z; clear hz) | (have hz : PcieUnit := z; clear hz) | (have hz : VkeepUnit := z; clear hz) | (have hz : TimeUnit := z; clear hz) | (have hz : TickUnit := z; clear hz) | (have hz : QueueUnit := z; clear hz) | (have hz : PipeUnit := z; clear hz) | (have hz : SchedUnit := z; clear hz) | (have hz : CipUnit := z; clear hz) | (have hz : CrtUnit := z; clear hz) | (have hz : MbxUnit := z; clear hz) | (have hz : CusUnit := z; clear hz) | (have hz : EccUnit := z; clear hz) | (have hz : PowerGov := z; clear hz) | (have hz : SliceRed := z; clear hz) | (have hz : MemChan := z; clear hz) | clear_value z | skip) | with_reducible apply KeepsO.next | with_reducible assumption | with_reducible apply needReset_keeps | with_reducible apply setErr_keeps | with_reducible apply bump_keeps | (with_reducible apply Keeps.foldl; intro _ _ _) | with_reducible apply Keeps.ite | with_reducible apply KeepsO.ite | split | (with_reducible refine Keeps.upd ?_ rfl rfl rfl rfl rfl)

theorem execTickCopyFence_keeps {kk : Kind} {sb : State} (copy : Fin 3) (s : State) (hk : Keeps kk sb s) :
    KeepsO kk sb (execTickCopyFence copy s) := by
  unfold execTickCopyFence
  repeat' first | (extract_lets +onlyGivenNames z; first | (have hz : Keeps kk sb z := (by unfold z; with_reducible assumption); clear hz; subst z) | (have hz : Keeps kk sb z := (by unfold z; repeat' first | with_reducible apply KeepsO.next | with_reducible assumption | (with_reducible apply Keeps.foldl; intro _ _ _) | with_reducible apply Keeps.ite | with_reducible apply KeepsO.ite | split | (with_reducible refine Keeps.upd ?_ rfl rfl rfl rfl rfl)); clear_value z)  | (have hz : PowerUnit := z; clear hz) | (have hz : RedUnit := z; clear hz) | (have hz : PcieUnit := z; clear hz) | (have hz : VkeepUnit := z; clear hz) | (have hz : TimeUnit := z; clear hz) | (have hz : TickUnit := z; clear hz) | (have hz : QueueUnit := z; clear hz) | (have hz : PipeUnit := z; clear hz) | (have hz : SchedUnit := z; clear hz) | (have hz : CipUnit := z; clear hz) | (have hz : CrtUnit := z; clear hz) | (have hz : MbxUnit := z; clear hz) | (have hz : CusUnit := z; clear hz) | (have hz : EccUnit := z; clear hz) | (have hz : PowerGov := z; clear hz) | (have hz : SliceRed := z; clear hz) | (have hz : MemChan := z; clear hz) | clear_value z | skip) | with_reducible apply KeepsO.next | with_reducible assumption | (with_reducible apply Keeps.foldl; intro _ _ _) | with_reducible apply Keeps.ite | with_reducible apply KeepsO.ite | split | (with_reducible refine Keeps.upd ?_ rfl rfl rfl rfl rfl)

theorem specSetTime_keeps {kk : Kind} {sb : State} (c0 : RunCmd) (s0 : State) (hk : Keeps kk sb s0) :
    Keeps kk sb ((specSetTime).body c0 s0) := by
  unfold specSetTime
  repeat' first | with_reducible assumption | with_reducible apply endCmd_keeps | (with_reducible apply Keeps.foldl; intro _ _ _) | with_reducible apply Keeps.ite | split | (with_reducible refine Keeps.upd ?_ rfl rfl rfl rfl rfl)

theorem specStepTime_keeps {kk : Kind} {sb : State} (c0 : RunCmd) (s0 : State) (hk : Keeps kk sb s0) :
    Keeps kk sb ((specStepTime).body c0 s0) := by
  unfold specStepTime
  repeat' first | with_reducible assumption | with_reducible apply endCmd_keeps | (with_reducible apply Keeps.foldl; intro _ _ _) | with_reducible apply Keeps.ite | split | (with_reducible refine Keeps.upd ?_ rfl rfl rfl rfl rfl)

theorem specSnapshot_keeps {kk : Kind} {sb : State} (c0 : RunCmd) (s0 : State) (hk : Keeps kk sb s0) :
    Keeps kk sb ((specSnapshot).body c0 s0) := by
  unfold specSnapshot
  repeat' first | with_reducible assumption | (with_reducible apply Keeps.foldl; intro _ _ _) | with_reducible apply Keeps.ite | split | (with_reducible refine Keeps.upd ?_ rfl rfl rfl rfl rfl)

theorem execSetTime_keeps {kk : Kind} {sb : State} (via : Master) (seq : Byte) (a0 a1 a2 : Word) (s : State) (hk : Keeps kk sb s) :
    KeepsO kk sb (execSetTime via seq a0 a1 a2 s) := by
  unfold execSetTime
  repeat' first | with_reducible apply KeepsO.next | with_reducible assumption | with_reducible apply commandRow_keeps | (constructor; (rintro _ ⟨⟩ _ _ _ _ _; first | (with_reducible apply specSetTime_keeps; with_reducible assumption)); (first | (left; left; decide) | (left; right; decide) | (left; left; unfold pgSys; omega) | (left; left; unfold pgCip pgSlice pgSys; omega) | (left; left; unfold pgSlice pgSys; omega) | (left; left; unfold pgTbl pgSlice pgSys; omega) | (left; left; unfold pgCch pgSys pf1Base; omega) | (right; rintro _ ⟨⟩; rfl))) | (with_reducible apply Keeps.foldl; intro _ _ _) | with_reducible apply Keeps.ite | with_reducible apply KeepsO.ite | split | (with_reducible refine Keeps.upd ?_ rfl rfl rfl rfl rfl)

theorem execStepTime_keeps {kk : Kind} {sb : State} (via : Master) (seq : Byte) (a0 : Word) (s : State) (hk : Keeps kk sb s) :
    KeepsO kk sb (execStepTime via seq a0 s) := by
  unfold execStepTime
  repeat' first | with_reducible apply KeepsO.next | with_reducible assumption | with_reducible apply commandRow_keeps | (constructor; (rintro _ ⟨⟩ _ _ _ _ _; first | (with_reducible apply specStepTime_keeps; with_reducible assumption)); (first | (left; left; decide) | (left; right; decide) | (left; left; unfold pgSys; omega) | (left; left; unfold pgCip pgSlice pgSys; omega) | (left; left; unfold pgSlice pgSys; omega) | (left; left; unfold pgTbl pgSlice pgSys; omega) | (left; left; unfold pgCch pgSys pf1Base; omega) | (right; rintro _ ⟨⟩; rfl))) | (with_reducible apply Keeps.foldl; intro _ _ _) | with_reducible apply Keeps.ite | with_reducible apply KeepsO.ite | split | (with_reducible refine Keeps.upd ?_ rfl rfl rfl rfl rfl)

theorem execSnapshot_keeps {kk : Kind} {sb : State} (via : Master) (seq : Byte) (s : State) (hk : Keeps kk sb s) :
    KeepsO kk sb (execSnapshot via seq s) := by
  unfold execSnapshot
  repeat' first | with_reducible apply KeepsO.next | with_reducible assumption | with_reducible apply commandRow_keeps | (constructor; (rintro _ ⟨⟩ _ _ _ _ _; first | (with_reducible apply specSnapshot_keeps; with_reducible assumption)); (first | (left; left; decide) | (left; right; decide) | (left; left; unfold pgSys; omega) | (left; left; unfold pgCip pgSlice pgSys; omega) | (left; left; unfold pgSlice pgSys; omega) | (left; left; unfold pgTbl pgSlice pgSys; omega) | (left; left; unfold pgCch pgSys pf1Base; omega) | (right; rintro _ ⟨⟩; rfl))) | (with_reducible apply Keeps.foldl; intro _ _ _) | with_reducible apply Keeps.ite | with_reducible apply KeepsO.ite | split | (with_reducible refine Keeps.upd ?_ rfl rfl rfl rfl rfl)

theorem specCommitPeriod_keeps {kk : Kind} {sb : State} (c0 : RunCmd) (s0 : State) (hk : Keeps kk sb s0) :
    Keeps kk sb ((specCommitPeriod).body c0 s0) := by
  unfold specCommitPeriod
  repeat' first | (extract_lets +onlyGivenNames z; first | (have hz : Keeps kk sb z := (by unfold z; with_reducible assumption); clear hz; subst z) | (have hz : Keeps kk sb z := (by unfold z; repeat' first | with_reducible assumption | with_reducible apply endCmd_keeps | (with_reducible apply Keeps.foldl; intro _ _ _) | with_reducible apply Keeps.ite | split | (with_reducible refine Keeps.upd ?_ rfl rfl rfl rfl rfl)); clear_value z)  | (have hz : Keeps kk sb z.1 := (by unfold z; repeat' first | with_reducible assumption | with_reducible apply endCmd_keeps | (with_reducible apply Keeps.foldl; intro _ _ _) | with_reducible apply Keeps.ite | split | (with_reducible refine Keeps.upd ?_ rfl rfl rfl rfl rfl)); clear_value z) | (have hz : Keeps kk sb z.st := (by unfold z; repeat' first | with_reducible assumption | with_reducible apply endCmd_keeps | (with_reducible apply Keeps.foldl; intro _ _ _) | with_reducible apply Keeps.ite | split | (with_reducible refine Keeps.upd ?_ rfl rfl rfl rfl rfl)); clear_value z) | (have hz : PowerUnit := z; clear hz) | (have hz : RedUnit := z; clear hz) | (have hz : PcieUnit := z; clear hz) | (have hz : VkeepUnit := z; clear hz) | (have hz : TimeUnit := z; clear hz) | (have hz : TickUnit := z; clear hz) | (have hz : QueueUnit := z; clear hz) | (have hz : PipeUnit := z; clear hz) | (have hz : SchedUnit := z; clear hz) | (have hz : CipUnit := z; clear hz) | (have hz : CrtUnit := z; clear hz) | (have hz : MbxUnit := z; clear hz) | (have hz : CusUnit := z; clear hz) | (have hz : EccUnit := z; clear hz) | (have hz : PowerGov := z; clear hz) | (have hz : SliceRed := z; clear hz) | (have hz : MemChan := z; clear hz) | clear_value z | skip) | with_reducible assumption | with_reducible apply endCmd_keeps | (with_reducible apply Keeps.foldl; intro _ _ _) | with_reducible apply Keeps.ite | split | (with_reducible refine Keeps.upd ?_ rfl rfl rfl rfl rfl)

theorem specArmPlan_keeps {kk : Kind} {sb : State} (c0 : RunCmd) (s0 : State) (hk : Keeps kk sb s0) :
    Keeps kk sb ((specArmPlan).body c0 s0) := by
  unfold specArmPlan
  repeat' first | (extract_lets +onlyGivenNames z; first | (have hz : Keeps kk sb z := (by unfold z; with_reducible assumption); clear hz; subst z) | (have hz : Keeps kk sb z := (by unfold z; repeat' first | with_reducible assumption | with_reducible apply finishCmd_keeps | with_reducible apply endCmd_keeps | (with_reducible apply Keeps.foldl; intro _ _ _) | with_reducible apply Keeps.ite | split | (with_reducible refine Keeps.upd ?_ rfl rfl rfl rfl rfl)); clear_value z)  | (have hz : PowerUnit := z; clear hz) | (have hz : RedUnit := z; clear hz) | (have hz : PcieUnit := z; clear hz) | (have hz : VkeepUnit := z; clear hz) | (have hz : TimeUnit := z; clear hz) | (have hz : TickUnit := z; clear hz) | (have hz : QueueUnit := z; clear hz) | (have hz : PipeUnit := z; clear hz) | (have hz : SchedUnit := z; clear hz) | (have hz : CipUnit := z; clear hz) | (have hz : CrtUnit := z; clear hz) | (have hz : MbxUnit := z; clear hz) | (have hz : CusUnit := z; clear hz) | (have hz : EccUnit := z; clear hz) | (have hz : PowerGov := z; clear hz) | (have hz : SliceRed := z; clear hz) | (have hz : MemChan := z; clear hz) | clear_value z | skip) | with_reducible assumption | with_reducible apply finishCmd_keeps | with_reducible apply endCmd_keeps | (with_reducible apply Keeps.foldl; intro _ _ _) | with_reducible apply Keeps.ite | split | (with_reducible refine Keeps.upd ?_ rfl rfl rfl rfl rfl)

theorem specDisarm_keeps {kk : Kind} {sb : State} (c0 : RunCmd) (s0 : State) (hk : Keeps kk sb s0) :
    Keeps kk sb ((specDisarm).body c0 s0) := by
  unfold specDisarm
  repeat' first | (extract_lets +onlyGivenNames z; first | (have hz : Keeps kk sb z := (by unfold z; with_reducible assumption); clear hz; subst z) | (have hz : Keeps kk sb z := (by unfold z; repeat' first | with_reducible assumption | with_reducible apply endCmd_keeps | (with_reducible apply Keeps.foldl; intro _ _ _) | with_reducible apply Keeps.ite | split | (with_reducible refine Keeps.upd ?_ rfl rfl rfl rfl rfl)); clear_value z)  | (have hz : PowerUnit := z; clear hz) | (have hz : RedUnit := z; clear hz) | (have hz : PcieUnit := z; clear hz) | (have hz : VkeepUnit := z; clear hz) | (have hz : TimeUnit := z; clear hz) | (have hz : TickUnit := z; clear hz) | (have hz : QueueUnit := z; clear hz) | (have hz : PipeUnit := z; clear hz) | (have hz : SchedUnit := z; clear hz) | (have hz : CipUnit := z; clear hz) | (have hz : CrtUnit := z; clear hz) | (have hz : MbxUnit := z; clear hz) | (have hz : CusUnit := z; clear hz) | (have hz : EccUnit := z; clear hz) | (have hz : PowerGov := z; clear hz) | (have hz : SliceRed := z; clear hz) | (have hz : MemChan := z; clear hz) | clear_value z | skip) | with_reducible assumption | with_reducible apply endCmd_keeps | (with_reducible apply Keeps.foldl; intro _ _ _) | with_reducible apply Keeps.ite | split | (with_reducible refine Keeps.upd ?_ rfl rfl rfl rfl rfl)

theorem execCommitPeriod_keeps {kk : Kind} {sb : State} (via : Master) (seq : Byte) (s : State) (hk : Keeps kk sb s) :
    KeepsO kk sb (execCommitPeriod via seq s) := by
  unfold execCommitPeriod
  repeat' first | with_reducible apply KeepsO.next | with_reducible assumption | with_reducible apply commandRow_keeps | (constructor; (rintro _ ⟨⟩ _ _ _ _ _; first | (with_reducible apply specCommitPeriod_keeps; with_reducible assumption)); (first | (left; left; decide) | (left; right; decide) | (left; left; unfold pgSys; omega) | (left; left; unfold pgCip pgSlice pgSys; omega) | (left; left; unfold pgSlice pgSys; omega) | (left; left; unfold pgTbl pgSlice pgSys; omega) | (left; left; unfold pgCch pgSys pf1Base; omega) | (right; rintro _ ⟨⟩; rfl))) | (with_reducible apply Keeps.foldl; intro _ _ _) | with_reducible apply Keeps.ite | with_reducible apply KeepsO.ite | split | (with_reducible refine Keeps.upd ?_ rfl rfl rfl rfl rfl)

theorem execArmPlan_keeps {kk : Kind} {sb : State} (via : Master) (seq : Byte) (s : State) (hk : Keeps kk sb s) :
    KeepsO kk sb (execArmPlan via seq s) := by
  unfold execArmPlan
  repeat' first | with_reducible apply KeepsO.next | with_reducible assumption | with_reducible apply commandRow_keeps | (constructor; (rintro _ ⟨⟩ _ _ _ _ _; first | (with_reducible apply specArmPlan_keeps; with_reducible assumption)); (first | (left; left; decide) | (left; right; decide) | (left; left; unfold pgSys; omega) | (left; left; unfold pgCip pgSlice pgSys; omega) | (left; left; unfold pgSlice pgSys; omega) | (left; left; unfold pgTbl pgSlice pgSys; omega) | (left; left; unfold pgCch pgSys pf1Base; omega) | (right; rintro _ ⟨⟩; rfl))) | (with_reducible apply Keeps.foldl; intro _ _ _) | with_reducible apply Keeps.ite | with_reducible apply KeepsO.ite | split | (with_reducible refine Keeps.upd ?_ rfl rfl rfl rfl rfl)

theorem execDisarm_keeps {kk : Kind} {sb : State} (via : Master) (seq : Byte) (s : State) (hk : Keeps kk sb s) :
    KeepsO kk sb (execDisarm via seq s) := by
  unfold execDisarm
  repeat' first | with_reducible apply KeepsO.next | with_reducible assumption | with_reducible apply commandRow_keeps | (constructor; (rintro _ ⟨⟩ _ _ _ _ _; first | (with_reducible apply specDisarm_keeps; with_reducible assumption)); (first | (left; left; decide) | (left; right; decide) | (left; left; unfold pgSys; omega) | (left; left; unfold pgCip pgSlice pgSys; omega) | (left; left; unfold pgSlice pgSys; omega) | (left; left; unfold pgTbl pgSlice pgSys; omega) | (left; left; unfold pgCch pgSys pf1Base; omega) | (right; rintro _ ⟨⟩; rfl))) | (with_reducible apply Keeps.foldl; intro _ _ _) | with_reducible apply Keeps.ite | with_reducible apply KeepsO.ite | split | (with_reducible refine Keeps.upd ?_ rfl rfl rfl rfl rfl)

theorem activatePlan_keeps {kk : Kind} {sb : State} (s : State) (hk : Keeps kk sb s) :
    Keeps kk sb (activatePlan s) := by
  unfold activatePlan
  repeat' first | (extract_lets +onlyGivenNames z; first | (have hz : Keeps kk sb z := (by unfold z; with_reducible assumption); clear hz; subst z) | (have hz : Keeps kk sb z := (by unfold z; repeat' first | with_reducible assumption | (with_reducible apply Keeps.foldl; intro _ _ _) | with_reducible apply Keeps.ite | split | (with_reducible refine Keeps.upd ?_ rfl rfl rfl rfl rfl)); clear_value z)  | (have hz : PowerUnit := z; clear hz) | (have hz : RedUnit := z; clear hz) | (have hz : PcieUnit := z; clear hz) | (have hz : VkeepUnit := z; clear hz) | (have hz : TimeUnit := z; clear hz) | (have hz : TickUnit := z; clear hz) | (have hz : QueueUnit := z; clear hz) | (have hz : PipeUnit := z; clear hz) | (have hz : SchedUnit := z; clear hz) | (have hz : CipUnit := z; clear hz) | (have hz : CrtUnit := z; clear hz) | (have hz : MbxUnit := z; clear hz) | (have hz : CusUnit := z; clear hz) | (have hz : EccUnit := z; clear hz) | (have hz : PowerGov := z; clear hz) | (have hz : SliceRed := z; clear hz) | (have hz : MemChan := z; clear hz) | clear_value z | skip) | with_reducible assumption | (with_reducible apply Keeps.foldl; intro _ _ _) | with_reducible apply Keeps.ite | split | (with_reducible refine Keeps.upd ?_ rfl rfl rfl rfl rfl)

theorem execPlanActivate_keeps {kk : Kind} {sb : State} (s : State) (hk : Keeps kk sb s) :
    KeepsO kk sb (execPlanActivate s) := by
  unfold execPlanActivate
  repeat' first | with_reducible apply KeepsO.next | with_reducible assumption | with_reducible apply activatePlan_keeps | (with_reducible apply Keeps.foldl; intro _ _ _) | with_reducible apply Keeps.ite | with_reducible apply KeepsO.ite | split | (with_reducible refine Keeps.upd ?_ rfl rfl rfl rfl rfl)

theorem sampleShed_keeps {kk : Kind} {sb : State} (s : State) (hk : Keeps kk sb s) :
    Keeps kk sb (sampleShed s) := by
  unfold sampleShed
  repeat' first | (extract_lets +onlyGivenNames z; first | (have hz : Keeps kk sb z := (by unfold z; with_reducible assumption); clear hz; subst z) | (have hz : Keeps kk sb z := (by unfold z; repeat' first | with_reducible assumption | (with_reducible apply Keeps.foldl; intro _ _ _) | with_reducible apply Keeps.ite | split | (with_reducible refine Keeps.upd ?_ rfl rfl rfl rfl rfl)); clear_value z)  | (have hz : PowerUnit := z; clear hz) | (have hz : RedUnit := z; clear hz) | (have hz : PcieUnit := z; clear hz) | (have hz : VkeepUnit := z; clear hz) | (have hz : TimeUnit := z; clear hz) | (have hz : TickUnit := z; clear hz) | (have hz : QueueUnit := z; clear hz) | (have hz : PipeUnit := z; clear hz) | (have hz : SchedUnit := z; clear hz) | (have hz : CipUnit := z; clear hz) | (have hz : CrtUnit := z; clear hz) | (have hz : MbxUnit := z; clear hz) | (have hz : CusUnit := z; clear hz) | (have hz : EccUnit := z; clear hz) | (have hz : PowerGov := z; clear hz) | (have hz : SliceRed := z; clear hz) | (have hz : MemChan := z; clear hz) | clear_value z | skip) | with_reducible assumption | (with_reducible apply Keeps.foldl; intro _ _ _) | with_reducible apply Keeps.ite | split | (with_reducible refine Keeps.upd ?_ rfl rfl rfl rfl rfl)

theorem rampStep_keeps {kk : Kind} {sb : State} (s : State) (hk : Keeps kk sb s) :
    Keeps kk sb (rampStep s) := by
  unfold rampStep
  repeat' first | (extract_lets +onlyGivenNames z; first | (have hz : Keeps kk sb z := (by unfold z; with_reducible assumption); clear hz; subst z) | (have hz : Keeps kk sb z := (by unfold z; repeat' first | with_reducible assumption | (with_reducible apply Keeps.foldl; intro _ _ _) | with_reducible apply Keeps.ite | split | (with_reducible refine Keeps.upd ?_ rfl rfl rfl rfl rfl)); clear_value z)  | (have hz : PowerUnit := z; clear hz) | (have hz : RedUnit := z; clear hz) | (have hz : PcieUnit := z; clear hz) | (have hz : VkeepUnit := z; clear hz) | (have hz : TimeUnit := z; clear hz) | (have hz : TickUnit := z; clear hz) | (have hz : QueueUnit := z; clear hz) | (have hz : PipeUnit := z; clear hz) | (have hz : SchedUnit := z; clear hz) | (have hz : CipUnit := z; clear hz) | (have hz : CrtUnit := z; clear hz) | (have hz : MbxUnit := z; clear hz) | (have hz : CusUnit := z; clear hz) | (have hz : EccUnit := z; clear hz) | (have hz : PowerGov := z; clear hz) | (have hz : SliceRed := z; clear hz) | (have hz : MemChan := z; clear hz) | clear_value z | skip) | with_reducible assumption | (with_reducible apply Keeps.foldl; intro _ _ _) | with_reducible apply Keeps.ite | split | (with_reducible refine Keeps.upd ?_ rfl rfl rfl rfl rfl)

theorem execEnvelopeRampStep_keeps {kk : Kind} {sb : State} (s : State) (hk : Keeps kk sb s) :
    KeepsO kk sb (execEnvelopeRampStep s) := by
  unfold execEnvelopeRampStep
  repeat' first | with_reducible apply KeepsO.next | with_reducible assumption | with_reducible apply rampStep_keeps | (with_reducible apply Keeps.foldl; intro _ _ _) | with_reducible apply Keeps.ite | with_reducible apply KeepsO.ite | split | (with_reducible refine Keeps.upd ?_ rfl rfl rfl rfl rfl)

theorem execPshedChange_keeps {kk : Kind} {sb : State} (low : Bool) (s : State) (hk : Keeps kk sb s) :
    KeepsO kk sb (execPshedChange low s) := by
  unfold execPshedChange
  repeat' first | (extract_lets +onlyGivenNames z; first | (have hz : Keeps kk sb z := (by unfold z; with_reducible assumption); clear hz; subst z) | (have hz : Keeps kk sb z := (by unfold z; repeat' first | with_reducible apply KeepsO.next | with_reducible assumption | (with_reducible apply Keeps.foldl; intro _ _ _) | with_reducible apply Keeps.ite | with_reducible apply KeepsO.ite | split | (with_reducible refine Keeps.upd ?_ rfl rfl rfl rfl rfl)); clear_value z)  | (have hz : PowerUnit := z; clear hz) | (have hz : RedUnit := z; clear hz) | (have hz : PcieUnit := z; clear hz) | (have hz : VkeepUnit := z; clear hz) | (have hz : TimeUnit := z; clear hz) | (have hz : TickUnit := z; clear hz) | (have hz : QueueUnit := z; clear hz) | (have hz : PipeUnit := z; clear hz) | (have hz : SchedUnit := z; clear hz) | (have hz : CipUnit := z; clear hz) | (have hz : CrtUnit := z; clear hz) | (have hz : MbxUnit := z; clear hz) | (have hz : CusUnit := z; clear hz) | (have hz : EccUnit := z; clear hz) | (have hz : PowerGov := z; clear hz) | (have hz : SliceRed := z; clear hz) | (have hz : MemChan := z; clear hz) | clear_value z | skip) | with_reducible apply KeepsO.next | with_reducible assumption | (with_reducible apply Keeps.foldl; intro _ _ _) | with_reducible apply Keeps.ite | with_reducible apply KeepsO.ite | split | (with_reducible refine Keeps.upd ?_ rfl rfl rfl rfl rfl)

theorem specLoadCoef_keeps {kk : Kind} {sb : State} (c0 : RunCmd) (s0 : State) (hk : Keeps kk sb s0) :
    Keeps kk sb ((specLoadCoef).body c0 s0) := by
  unfold specLoadCoef
  repeat' first | (extract_lets +onlyGivenNames z; first | (have hz : Keeps kk sb z := (by unfold z; with_reducible assumption); clear hz; subst z) | (have hz : Keeps kk sb z := (by unfold z; repeat' first | with_reducible assumption | with_reducible apply finishCmd_keeps | with_reducible apply endCmd_keeps | (with_reducible apply Keeps.foldl; intro _ _ _) | with_reducible apply Keeps.ite | split | (with_reducible refine Keeps.upd ?_ rfl rfl rfl rfl rfl)); clear_value z)  | (have hz : PowerUnit := z; clear hz) | (have hz : RedUnit := z; clear hz) | (have hz : PcieUnit := z; clear hz) | (have hz : VkeepUnit := z; clear hz) | (have hz : TimeUnit := z; clear hz) | (have hz : TickUnit := z; clear hz) | (have hz : QueueUnit := z; clear hz) | (have hz : PipeUnit := z; clear hz) | (have hz : SchedUnit := z; clear hz) | (have hz : CipUnit := z; clear hz) | (have hz : CrtUnit := z; clear hz) | (have hz : MbxUnit := z; clear hz) | (have hz : CusUnit := z; clear hz) | (have hz : EccUnit := z; clear hz) | (have hz : PowerGov := z; clear hz) | (have hz : SliceRed := z; clear hz) | (have hz : MemChan := z; clear hz) | clear_value z | skip) | with_reducible assumption | with_reducible apply finishCmd_keeps | with_reducible apply endCmd_keeps | (with_reducible apply Keeps.foldl; intro _ _ _) | with_reducible apply Keeps.ite | split | (with_reducible refine Keeps.upd ?_ rfl rfl rfl rfl rfl)

theorem specRestoreDefault_keeps {kk : Kind} {sb : State} (c0 : RunCmd) (s0 : State) (hk : Keeps kk sb s0) :
    Keeps kk sb ((specRestoreDefault).body c0 s0) := by
  unfold specRestoreDefault
  dsimp only
  exact Keeps.ite (endCmd_keeps _ _ _ hk) (endCmd_keeps _ _ _ (Keeps.ite
    (hk.store (fun w : Memory.Parts s0 => { w with coef0 := rfl }) rfl rfl rfl rfl rfl rfl rfl)
    (hk.store (fun w : Memory.Parts s0 => { w with coef1 := rfl }) rfl rfl rfl rfl rfl rfl rfl)))

theorem execLoadCoef_keeps {kk : Kind} {sb : State} (via : Master) (seq : Byte) (s : State) (hk : Keeps kk sb s) :
    KeepsO kk sb (execLoadCoef via seq s) := by
  unfold execLoadCoef
  repeat' first | with_reducible apply KeepsO.next | with_reducible assumption | with_reducible apply commandRow_keeps | (constructor; (rintro _ ⟨⟩ _ _ _ _ _; first | (with_reducible apply specLoadCoef_keeps; with_reducible assumption)); (first | (left; left; decide) | (left; right; decide) | (left; left; unfold pgSys; omega) | (left; left; unfold pgCip pgSlice pgSys; omega) | (left; left; unfold pgSlice pgSys; omega) | (left; left; unfold pgTbl pgSlice pgSys; omega) | (left; left; unfold pgCch pgSys pf1Base; omega) | (right; rintro _ ⟨⟩; rfl))) | (with_reducible apply Keeps.foldl; intro _ _ _) | with_reducible apply Keeps.ite | with_reducible apply KeepsO.ite | split | (with_reducible refine Keeps.upd ?_ rfl rfl rfl rfl rfl)

theorem execRestoreDefault_keeps {kk : Kind} {sb : State} (via : Master) (seq : Byte) (s : State) (hk : Keeps kk sb s) :
    KeepsO kk sb (execRestoreDefault via seq s) := by
  unfold execRestoreDefault
  repeat' first | with_reducible apply KeepsO.next | with_reducible assumption | with_reducible apply commandRow_keeps | (constructor; (rintro _ ⟨⟩ _ _ _ _ _; first | (with_reducible apply specRestoreDefault_keeps; with_reducible assumption)); (first | (left; left; decide) | (left; right; decide) | (left; left; unfold pgSys; omega) | (left; left; unfold pgCip pgSlice pgSys; omega) | (left; left; unfold pgSlice pgSys; omega) | (left; left; unfold pgTbl pgSlice pgSys; omega) | (left; left; unfold pgCch pgSys pf1Base; omega) | (right; rintro _ ⟨⟩; rfl))) | (with_reducible apply Keeps.foldl; intro _ _ _) | with_reducible apply Keeps.ite | with_reducible apply KeepsO.ite | split | (with_reducible refine Keeps.upd ?_ rfl rfl rfl rfl rfl)

theorem activateCoef_keeps {kk : Kind} {sb : State} (s : State) (hk : Keeps kk sb s) :
    Keeps kk sb (activateCoef s) := by
  unfold activateCoef
  repeat' first | (extract_lets +onlyGivenNames z; first | (have hz : Keeps kk sb z := (by unfold z; with_reducible assumption); clear hz; subst z) | (have hz : Keeps kk sb z := (by unfold z; repeat' first | with_reducible assumption | (with_reducible apply Keeps.foldl; intro _ _ _) | with_reducible apply Keeps.ite | split | (with_reducible refine Keeps.upd ?_ rfl rfl rfl rfl rfl)); clear_value z)  | (have hz : PowerUnit := z; clear hz) | (have hz : RedUnit := z; clear hz) | (have hz : PcieUnit := z; clear hz) | (have hz : VkeepUnit := z; clear hz) | (have hz : TimeUnit := z; clear hz) | (have hz : TickUnit := z; clear hz) | (have hz : QueueUnit := z; clear hz) | (have hz : PipeUnit := z; clear hz) | (have hz : SchedUnit := z; clear hz) | (have hz : CipUnit := z; clear hz) | (have hz : CrtUnit := z; clear hz) | (have hz : MbxUnit := z; clear hz) | (have hz : CusUnit := z; clear hz) | (have hz : EccUnit := z; clear hz) | (have hz : PowerGov := z; clear hz) | (have hz : SliceRed := z; clear hz) | (have hz : MemChan := z; clear hz) | clear_value z | skip) | with_reducible assumption | (with_reducible apply Keeps.foldl; intro _ _ _) | with_reducible apply Keeps.ite | split | (with_reducible refine Keeps.upd ?_ rfl rfl rfl rfl rfl)

theorem energyEvents_keeps {kk : Kind} {sb : State} (s : State) (es : List PlanEntry) (want : Nat → Nat) (g : Table Nat) (hk : Keeps kk sb s) :
    Keeps kk sb (energyEvents s es want g) := by
  unfold energyEvents
  repeat' first | with_reducible assumption | with_reducible apply signal_keeps | (with_reducible apply Keeps.foldl; intro _ _ _) | with_reducible apply Keeps.ite | split | (with_reducible refine Keeps.upd ?_ rfl rfl rfl rfl rfl)

theorem waitEvent_keeps {kk : Kind} {sb : State} (s : State) (k e : Nat) (hk : Keeps kk sb s) :
    Keeps kk sb (waitEvent s k e) := by
  unfold waitEvent
  repeat' first | with_reducible assumption | with_reducible apply signal_keeps | (with_reducible apply Keeps.foldl; intro _ _ _) | with_reducible apply Keeps.ite | split | (with_reducible refine Keeps.upd ?_ rfl rfl rfl rfl rfl)

theorem waitEvents_keeps {kk : Kind} {sb : State} (s : State) (waiting bufs : Nat → Nat) (hk : Keeps kk sb s) :
    Keeps kk sb (waitEvents s waiting bufs) := by
  unfold waitEvents
  repeat' first | (extract_lets +onlyGivenNames z; first | (have hz : Keeps kk sb z := (by unfold z; with_reducible assumption); clear hz; subst z) | (have hz : Keeps kk sb z := (by unfold z; repeat' first | with_reducible assumption | with_reducible apply waitEvent_keeps | (with_reducible apply Keeps.foldl; intro _ _ _) | with_reducible apply Keeps.ite | split | (with_reducible refine Keeps.upd ?_ rfl rfl rfl rfl rfl)); clear_value z)  | (have hz : PowerUnit := z; clear hz) | (have hz : RedUnit := z; clear hz) | (have hz : PcieUnit := z; clear hz) | (have hz : VkeepUnit := z; clear hz) | (have hz : TimeUnit := z; clear hz) | (have hz : TickUnit := z; clear hz) | (have hz : QueueUnit := z; clear hz) | (have hz : PipeUnit := z; clear hz) | (have hz : SchedUnit := z; clear hz) | (have hz : CipUnit := z; clear hz) | (have hz : CrtUnit := z; clear hz) | (have hz : MbxUnit := z; clear hz) | (have hz : CusUnit := z; clear hz) | (have hz : EccUnit := z; clear hz) | (have hz : PowerGov := z; clear hz) | (have hz : SliceRed := z; clear hz) | (have hz : MemChan := z; clear hz) | clear_value z | skip) | with_reducible assumption | with_reducible apply waitEvent_keeps | (with_reducible apply Keeps.foldl; intro _ _ _) | with_reducible apply Keeps.ite | split | (with_reducible refine Keeps.upd ?_ rfl rfl rfl rfl rfl)

theorem grantCredits_keeps {kk : Kind} {sb : State} (s : State) (waiting bufs : Nat → Nat) (ledger : List (Nat × Nat)) (hk : Keeps kk sb s) :
    Keeps kk sb (grantCredits s waiting bufs ledger) := by
  unfold grantCredits
  repeat' first | (extract_lets +onlyGivenNames z; first | (have hz : Keeps kk sb z := (by unfold z; with_reducible assumption); clear hz; subst z) | (have hz : Keeps kk sb z := (by unfold z; repeat' first | with_reducible assumption | with_reducible apply energyEvents_keeps | with_reducible apply waitEvents_keeps | with_reducible apply needReset_keeps | with_reducible apply setErr_keeps | with_reducible apply bump_keeps | with_reducible apply signal_keeps | (with_reducible apply Keeps.foldl; intro _ _ _) | (with_reducible apply Keeps.foldlP; intro _ _ _) | with_reducible apply Keeps.ite | split | (with_reducible refine Keeps.upd ?_ rfl rfl rfl rfl rfl)); clear_value z)  | (have hz : Keeps kk sb z.1 := (by unfold z; repeat' first | with_reducible assumption | with_reducible apply energyEvents_keeps | with_reducible apply waitEvents_keeps | with_reducible apply needReset_keeps | with_reducible apply setErr_keeps | with_reducible apply bump_keeps | with_reducible apply signal_keeps | (with_reducible apply Keeps.foldl; intro _ _ _) | (with_reducible apply Keeps.foldlP; intro _ _ _) | with_reducible apply Keeps.ite | split | (with_reducible refine Keeps.upd ?_ rfl rfl rfl rfl rfl)); clear_value z) | (have hz : PowerUnit := z; clear hz) | (have hz : RedUnit := z; clear hz) | (have hz : PcieUnit := z; clear hz) | (have hz : VkeepUnit := z; clear hz) | (have hz : TimeUnit := z; clear hz) | (have hz : TickUnit := z; clear hz) | (have hz : QueueUnit := z; clear hz) | (have hz : PipeUnit := z; clear hz) | (have hz : SchedUnit := z; clear hz) | (have hz : CipUnit := z; clear hz) | (have hz : CrtUnit := z; clear hz) | (have hz : MbxUnit := z; clear hz) | (have hz : CusUnit := z; clear hz) | (have hz : EccUnit := z; clear hz) | (have hz : PowerGov := z; clear hz) | (have hz : SliceRed := z; clear hz) | (have hz : MemChan := z; clear hz) | clear_value z | skip) | with_reducible assumption | with_reducible apply energyEvents_keeps | with_reducible apply waitEvents_keeps | with_reducible apply needReset_keeps | with_reducible apply setErr_keeps | with_reducible apply bump_keeps | with_reducible apply signal_keeps | (with_reducible apply Keeps.foldl; intro _ _ _) | (with_reducible apply Keeps.foldlP; intro _ _ _) | with_reducible apply Keeps.ite | split | (with_reducible refine Keeps.upd ?_ rfl rfl rfl rfl rfl)

end Sys2Proof.Machine
end

