-- ==== Sys2Proof/Laws/KeepsSysCmds.lean ====
section
/-! SUPPORT. The operations of SysCmds keep what Laws/Keeps.lean states. -/
set_option linter.tactic.unusedName false
set_option linter.unusedVariables false
namespace Sys2Proof.Machine

theorem specEnterService_keeps {kk : Kind} {sb : State} (c0 : RunCmd) (s0 : State) (hk : Keeps kk sb s0) :
    Keeps kk sb ((specEnterService).body c0 s0) := by
  unfold specEnterService
  repeat' first | with_reducible assumption | with_reducible apply endCmd_keeps | (with_reducible apply Keeps.foldl; intro _ _ _) | with_reducible apply Keeps.ite | split | (with_reducible refine Keeps.upd ?_ rfl rfl rfl rfl rfl)

theorem specEnterTest_keeps {kk : Kind} {sb : State} (c0 : RunCmd) (s0 : State) (hk : Keeps kk sb s0) :
    Keeps kk sb ((specEnterTest).body c0 s0) := by
  unfold specEnterTest
  repeat' first | with_reducible assumption | (with_reducible apply Keeps.foldl; intro _ _ _) | with_reducible apply Keeps.ite | split | (with_reducible refine Keeps.upd ?_ rfl rfl rfl rfl rfl)

theorem specExitTest_keeps {kk : Kind} {sb : State} (c0 : RunCmd) (s0 : State) (hk : Keeps kk sb s0) :
    Keeps kk sb ((specExitTest).body c0 s0) := by
  unfold specExitTest
  repeat' first | with_reducible assumption | (with_reducible apply Keeps.foldl; intro _ _ _) | with_reducible apply Keeps.ite | split | (with_reducible refine Keeps.upd ?_ rfl rfl rfl rfl rfl)

theorem specDeviceReset_keeps {kk : Kind} {sb : State} (c0 : RunCmd) (s0 : State) (hk : Keeps kk sb s0) :
    Keeps kk sb ((specDeviceReset).body c0 s0) := by
  unfold specDeviceReset
  repeat' first | (extract_lets +onlyGivenNames z; first | (have hz : Keeps kk sb z := (by unfold z; with_reducible assumption); clear hz; subst z) | (have hz : Keeps kk sb z := (by unfold z; repeat' first | with_reducible assumption | with_reducible apply endCmd_keeps | (with_reducible apply Keeps.foldl; intro _ _ _) | with_reducible apply Keeps.ite | split | (with_reducible refine Keeps.upd ?_ rfl rfl rfl rfl rfl)); clear_value z)  | (have hz : PowerUnit := z; clear hz) | (have hz : RedUnit := z; clear hz) | (have hz : PcieUnit := z; clear hz) | (have hz : VkeepUnit := z; clear hz) | (have hz : TimeUnit := z; clear hz) | (have hz : TickUnit := z; clear hz) | (have hz : QueueUnit := z; clear hz) | (have hz : PipeUnit := z; clear hz) | (have hz : SchedUnit := z; clear hz) | (have hz : CipUnit := z; clear hz) | (have hz : CrtUnit := z; clear hz) | (have hz : MbxUnit := z; clear hz) | (have hz : CusUnit := z; clear hz) | (have hz : EccUnit := z; clear hz) | (have hz : PowerGov := z; clear hz) | (have hz : SliceRed := z; clear hz) | (have hz : MemChan := z; clear hz) | clear_value z | skip) | with_reducible assumption | with_reducible apply endCmd_keeps | (with_reducible apply Keeps.foldl; intro _ _ _) | with_reducible apply Keeps.ite | split | (with_reducible refine Keeps.upd ?_ rfl rfl rfl rfl rfl)

theorem execEnterService_keeps {kk : Kind} {sb : State} (via : Master) (seq : Byte) (s : State) (hk : Keeps kk sb s) :
    KeepsO kk sb (execEnterService via seq s) := by
  unfold execEnterService
  repeat' first | with_reducible apply KeepsO.next | with_reducible assumption | with_reducible apply commandRow_keeps | (constructor; (rintro _ ⟨⟩ _ _ _ _ _; first | (with_reducible apply specEnterService_keeps; with_reducible assumption)); (first | (left; left; decide) | (left; right; decide) | (left; left; unfold pgSys; omega) | (left; left; unfold pgCip pgSlice pgSys; omega) | (left; left; unfold pgSlice pgSys; omega) | (left; left; unfold pgTbl pgSlice pgSys; omega) | (left; left; unfold pgCch pgSys pf1Base; omega) | (right; rintro _ ⟨⟩; rfl))) | (with_reducible apply Keeps.foldl; intro _ _ _) | with_reducible apply Keeps.ite | with_reducible apply KeepsO.ite | split | (with_reducible refine Keeps.upd ?_ rfl rfl rfl rfl rfl)

theorem execEnterTest_keeps {kk : Kind} {sb : State} (via : Master) (seq : Byte) (s : State) (hk : Keeps kk sb s) :
    KeepsO kk sb (execEnterTest via seq s) := by
  unfold execEnterTest
  repeat' first | with_reducible apply KeepsO.next | with_reducible assumption | with_reducible apply commandRow_keeps | (constructor; (rintro _ ⟨⟩ _ _ _ _ _; first | (with_reducible apply specEnterTest_keeps; with_reducible assumption)); (first | (left; left; decide) | (left; right; decide) | (left; left; unfold pgSys; omega) | (left; left; unfold pgCip pgSlice pgSys; omega) | (left; left; unfold pgSlice pgSys; omega) | (left; left; unfold pgTbl pgSlice pgSys; omega) | (left; left; unfold pgCch pgSys pf1Base; omega) | (right; rintro _ ⟨⟩; rfl))) | (with_reducible apply Keeps.foldl; intro _ _ _) | with_reducible apply Keeps.ite | with_reducible apply KeepsO.ite | split | (with_reducible refine Keeps.upd ?_ rfl rfl rfl rfl rfl)

theorem execExitTest_keeps {kk : Kind} {sb : State} (via : Master) (seq : Byte) (s : State) (hk : Keeps kk sb s) :
    KeepsO kk sb (execExitTest via seq s) := by
  unfold execExitTest
  repeat' first | with_reducible apply KeepsO.next | with_reducible assumption | with_reducible apply commandRow_keeps | (constructor; (rintro _ ⟨⟩ _ _ _ _ _; first | (with_reducible apply specExitTest_keeps; with_reducible assumption)); (first | (left; left; decide) | (left; right; decide) | (left; left; unfold pgSys; omega) | (left; left; unfold pgCip pgSlice pgSys; omega) | (left; left; unfold pgSlice pgSys; omega) | (left; left; unfold pgTbl pgSlice pgSys; omega) | (left; left; unfold pgCch pgSys pf1Base; omega) | (right; rintro _ ⟨⟩; rfl))) | (with_reducible apply Keeps.foldl; intro _ _ _) | with_reducible apply Keeps.ite | with_reducible apply KeepsO.ite | split | (with_reducible refine Keeps.upd ?_ rfl rfl rfl rfl rfl)

theorem execDeviceReset_keeps {kk : Kind} {sb : State} (via : Master) (seq : Byte) (a0 : Word) (s : State) (hk : Keeps kk sb s) :
    KeepsO kk sb (execDeviceReset via seq a0 s) := by
  unfold execDeviceReset
  repeat' first | with_reducible apply KeepsO.next | with_reducible assumption | with_reducible apply commandRow_keeps | (constructor; (rintro _ ⟨⟩ _ _ _ _ _; first | (with_reducible apply specDeviceReset_keeps; with_reducible assumption)); (first | (left; left; decide) | (left; right; decide) | (left; left; unfold pgSys; omega) | (left; left; unfold pgCip pgSlice pgSys; omega) | (left; left; unfold pgSlice pgSys; omega) | (left; left; unfold pgTbl pgSlice pgSys; omega) | (left; left; unfold pgCch pgSys pf1Base; omega) | (right; rintro _ ⟨⟩; rfl))) | (with_reducible apply Keeps.foldl; intro _ _ _) | with_reducible apply Keeps.ite | with_reducible apply KeepsO.ite | split | (with_reducible refine Keeps.upd ?_ rfl rfl rfl rfl rfl)

/-- Recovery may always be entered. -/
theorem Keeps.recover {kr kc ke ky : Bool} {s t : State} (p : PowerUnit) (hp : p.phase = .recovery) (hc : phaseCmd t = none)
    (h : Keeps ⟨kr, false, kc, ke, ky⟩ s t) : Keeps ⟨kr, false, kc, ke, ky⟩ s { t with power := p } :=
  h.trans ⟨rfl, id, id, fun _ _ => ⟨hp, hc⟩, (fun e => by cases e), fun _ => rfl, fun _ => rfl, fun _ _ n => KeyKept.same rfl n⟩

theorem endPhase_none (s : State) (st : Nat) : phaseCmd (endCmd s pgSys st) = none := by
  unfold phaseCmd endCmd
  rw [finishCmd_idle]

theorem enterRecoveryNow_keeps {kr kc ke ky : Bool} {sb : State} (s : State) (c : Cause)
    (h : Keeps ⟨kr, false, kc, ke, ky⟩ sb s) : Keeps ⟨kr, false, kc, ke, ky⟩ sb (enterRecoveryNow s c) := by
  unfold enterRecoveryNow
  refine aerUnc_keeps _ _ _ _ _ (setErr_keeps _ _ _ (wr_keeps _ _ (Keeps.recover _ rfl ?_ ?_)))
  · split
    · exact endPhase_none s _
    · rename_i e; simpa using e
  · exact Keeps.ite (endCmd_keeps _ _ _ h) h

theorem phaseBoundary_keeps {kr kc ke ky : Bool} {sb : State} (s : State) (h : Keeps ⟨kr, false, kc, ke, ky⟩ sb s) :
    Keeps ⟨kr, false, kc, ke, ky⟩ sb (phaseBoundary s) := by
  unfold phaseBoundary
  split
  · exact enterRecoveryNow_keeps _ _ h
  · split
    · exact h
    · rename_i e
      refine h.trans (Keeps.of_false (endCmd_keeps _ _ _ ?_) fun w => ?_)
      · exact ⟨rfl, id, id, (fun e => by cases e), (fun e => by cases e), fun _ => rfl, fun _ => rfl, fun _ _ n => KeyKept.same rfl n⟩
      · exact absurd (w.2.symm.trans e) (by simp)


theorem warmBoundary_keeps {kk : Kind} {sb : State} (s : State) (hk : Keeps kk sb s) :
    Keeps kk sb (warmBoundary s) := by
  unfold warmBoundary
  repeat' first | (extract_lets +onlyGivenNames z; first | (have hz : Keeps kk sb z := (by unfold z; with_reducible assumption); clear hz; subst z) | (have hz : Keeps kk sb z := (by unfold z; repeat' first | with_reducible assumption | (with_reducible apply Keeps.foldl; intro _ _ _) | with_reducible apply Keeps.ite | split | (with_reducible refine Keeps.upd ?_ rfl rfl rfl rfl rfl)); clear_value z)  | (have hz : PowerUnit := z; clear hz) | (have hz : RedUnit := z; clear hz) | (have hz : PcieUnit := z; clear hz) | (have hz : VkeepUnit := z; clear hz) | (have hz : TimeUnit := z; clear hz) | (have hz : TickUnit := z; clear hz) | (have hz : QueueUnit := z; clear hz) | (have hz : PipeUnit := z; clear hz) | (have hz : SchedUnit := z; clear hz) | (have hz : CipUnit := z; clear hz) | (have hz : CrtUnit := z; clear hz) | (have hz : MbxUnit := z; clear hz) | (have hz : CusUnit := z; clear hz) | (have hz : EccUnit := z; clear hz) | (have hz : PowerGov := z; clear hz) | (have hz : SliceRed := z; clear hz) | (have hz : MemChan := z; clear hz) | clear_value z | skip) | with_reducible assumption | (with_reducible apply Keeps.foldl; intro _ _ _) | with_reducible apply Keeps.ite | split | (with_reducible refine Keeps.upd ?_ rfl rfl rfl rfl rfl)

theorem execEnterRecovery_keeps {kk : Kind} {sb : State} (f : EdgeFault) (s : State) (hk : Keeps kk sb s) :
    KeepsO kk sb (execEnterRecovery f s) := by
  unfold execEnterRecovery
  repeat' first | (extract_lets +onlyGivenNames z; first | (have hz : Keeps kk sb z := (by unfold z; with_reducible assumption); clear hz; subst z) | (have hz : Keeps kk sb z := (by unfold z; repeat' first | with_reducible apply KeepsO.next | with_reducible assumption | with_reducible apply wr_keeps | with_reducible apply setErr_keeps | with_reducible apply needReset_keeps | (with_reducible apply Keeps.foldl; intro _ _ _) | with_reducible apply Keeps.ite | with_reducible apply KeepsO.ite | split | (with_reducible refine Keeps.upd ?_ rfl rfl rfl rfl rfl)); clear_value z)  | (have hz : PowerUnit := z; clear hz) | (have hz : RedUnit := z; clear hz) | (have hz : PcieUnit := z; clear hz) | (have hz : VkeepUnit := z; clear hz) | (have hz : TimeUnit := z; clear hz) | (have hz : TickUnit := z; clear hz) | (have hz : QueueUnit := z; clear hz) | (have hz : PipeUnit := z; clear hz) | (have hz : SchedUnit := z; clear hz) | (have hz : CipUnit := z; clear hz) | (have hz : CrtUnit := z; clear hz) | (have hz : MbxUnit := z; clear hz) | (have hz : CusUnit := z; clear hz) | (have hz : EccUnit := z; clear hz) | (have hz : PowerGov := z; clear hz) | (have hz : SliceRed := z; clear hz) | (have hz : MemChan := z; clear hz) | clear_value z | skip) | with_reducible apply KeepsO.next | with_reducible assumption | with_reducible apply wr_keeps | with_reducible apply setErr_keeps | with_reducible apply needReset_keeps | (with_reducible apply Keeps.foldl; intro _ _ _) | with_reducible apply Keeps.ite | with_reducible apply KeepsO.ite | split | (with_reducible refine Keeps.upd ?_ rfl rfl rfl rfl rfl)

end Sys2Proof.Machine
end

