-- ==== Sys2Proof/Laws/KeepsRedundancy.lean ====
section
/-! SUPPORT. The operations of Redundancy keep what Laws/Keeps.lean states. -/
set_option linter.tactic.unusedName false
set_option linter.unusedVariables false
namespace Sys2Proof.Machine

theorem reportWithdrawal_keeps {kk : Kind} {sb : State} (s : State) (sl : SliceId) (cls eng : Nat) (hk : Keeps kk sb s) :
    Keeps kk sb (reportWithdrawal s sl cls eng) := by
  unfold reportWithdrawal
  repeat' first | (extract_lets +onlyGivenNames z; first | (have hz : Keeps kk sb z := (by unfold z; with_reducible assumption); clear hz; subst z) | (have hz : Keeps kk sb z := (by unfold z; repeat' first | with_reducible assumption | with_reducible apply setErr_keeps | with_reducible apply bump_keeps | with_reducible apply signal_keeps | with_reducible apply wr_keeps | (with_reducible apply Keeps.foldl; intro _ _ _) | with_reducible apply Keeps.ite | split | (with_reducible refine Keeps.upd ?_ rfl rfl rfl rfl rfl)); clear_value z)  | (have hz : PowerUnit := z; clear hz) | (have hz : RedUnit := z; clear hz) | (have hz : PcieUnit := z; clear hz) | (have hz : VkeepUnit := z; clear hz) | (have hz : TimeUnit := z; clear hz) | (have hz : TickUnit := z; clear hz) | (have hz : QueueUnit := z; clear hz) | (have hz : PipeUnit := z; clear hz) | (have hz : SchedUnit := z; clear hz) | (have hz : CipUnit := z; clear hz) | (have hz : CrtUnit := z; clear hz) | (have hz : MbxUnit := z; clear hz) | (have hz : CusUnit := z; clear hz) | (have hz : EccUnit := z; clear hz) | (have hz : PowerGov := z; clear hz) | (have hz : SliceRed := z; clear hz) | (have hz : MemChan := z; clear hz) | clear_value z | skip) | with_reducible assumption | with_reducible apply setErr_keeps | with_reducible apply bump_keeps | with_reducible apply signal_keeps | with_reducible apply wr_keeps | (with_reducible apply Keeps.foldl; intro _ _ _) | with_reducible apply Keeps.ite | split | (with_reducible refine Keeps.upd ?_ rfl rfl rfl rfl rfl)

theorem withdrawSlice_keeps {kk : Kind} {sb : State} (s : State) (sl : SliceId) (cls eng : Nat) (hk : Keeps kk sb s) :
    Keeps kk sb (withdrawSlice s sl cls eng) := by
  unfold withdrawSlice
  repeat' first | (extract_lets +onlyGivenNames z; first | (have hz : Keeps kk sb z := (by unfold z; with_reducible assumption); clear hz; subst z) | (have hz : Keeps kk sb z := (by unfold z; repeat' first | with_reducible assumption | with_reducible apply reportWithdrawal_keeps | with_reducible apply State_setSlice_keeps | (left; rfl) | (right; left; nofun) | (with_reducible apply Keeps.foldl; intro _ _ _) | with_reducible apply Keeps.ite | split | (with_reducible refine Keeps.upd ?_ rfl rfl rfl rfl rfl)); clear_value z)  | (have hz : PowerUnit := z; clear hz) | (have hz : RedUnit := z; clear hz) | (have hz : PcieUnit := z; clear hz) | (have hz : VkeepUnit := z; clear hz) | (have hz : TimeUnit := z; clear hz) | (have hz : TickUnit := z; clear hz) | (have hz : QueueUnit := z; clear hz) | (have hz : PipeUnit := z; clear hz) | (have hz : SchedUnit := z; clear hz) | (have hz : CipUnit := z; clear hz) | (have hz : CrtUnit := z; clear hz) | (have hz : MbxUnit := z; clear hz) | (have hz : CusUnit := z; clear hz) | (have hz : EccUnit := z; clear hz) | (have hz : PowerGov := z; clear hz) | (have hz : SliceRed := z; clear hz) | (have hz : MemChan := z; clear hz) | clear_value z | skip) | with_reducible assumption | with_reducible apply reportWithdrawal_keeps | with_reducible apply State_setSlice_keeps | (left; rfl) | (right; left; nofun) | (with_reducible apply Keeps.foldl; intro _ _ _) | with_reducible apply Keeps.ite | split | (with_reducible refine Keeps.upd ?_ rfl rfl rfl rfl rfl)

theorem faultSliceCmds_keeps {kk : Kind} {sb : State} (s : State) (sl : SliceId) (hk : Keeps kk sb s) :
    Keeps kk sb (faultSliceCmds s sl) := by
  unfold faultSliceCmds
  repeat' first | with_reducible assumption | with_reducible apply endCmd_keeps | (with_reducible apply Keeps.foldl; intro _ _ _) | with_reducible apply Keeps.ite | split | (with_reducible refine Keeps.upd ?_ rfl rfl rfl rfl rfl)

theorem reportOut_keeps {kk : Kind} {sb : State} (s : State) (hk : Keeps kk sb s) :
    Keeps kk sb (reportOut s) := by
  unfold reportOut
  repeat' first | with_reducible assumption | with_reducible apply setErr_keeps | with_reducible apply amber_keeps | (with_reducible apply Keeps.foldl; intro _ _ _) | with_reducible apply Keeps.ite | split | (with_reducible refine Keeps.upd ?_ rfl rfl rfl rfl rfl)

theorem becomeStandby_keeps {kk : Kind} {sb : State} (s : State) (sl : SliceId) (hk : Keeps kk sb s) :
    Keeps kk sb (becomeStandby s sl) := by
  unfold becomeStandby
  repeat' first | (extract_lets +onlyGivenNames z; first | (have hz : Keeps kk sb z := (by unfold z; with_reducible assumption); clear hz; subst z) | (have hz : Keeps kk sb z := (by unfold z; repeat' first | with_reducible assumption | with_reducible apply endCmd_keeps | with_reducible apply State_setSlice_keeps | (left; rfl) | (right; left; nofun) | (with_reducible apply Keeps.foldl; intro _ _ _) | with_reducible apply Keeps.ite | split | (with_reducible refine Keeps.upd ?_ rfl rfl rfl rfl rfl)); clear_value z)  | (have hz : Keeps kk sb z.1 := (by unfold z; repeat' first | with_reducible assumption | with_reducible apply endCmd_keeps | with_reducible apply State_setSlice_keeps | (left; rfl) | (right; left; nofun) | (with_reducible apply Keeps.foldl; intro _ _ _) | with_reducible apply Keeps.ite | split | (with_reducible refine Keeps.upd ?_ rfl rfl rfl rfl rfl)); clear_value z) | (have hz : Keeps kk sb z.st := (by unfold z; repeat' first | with_reducible assumption | with_reducible apply endCmd_keeps | with_reducible apply State_setSlice_keeps | (left; rfl) | (right; left; nofun) | (with_reducible apply Keeps.foldl; intro _ _ _) | with_reducible apply Keeps.ite | split | (with_reducible refine Keeps.upd ?_ rfl rfl rfl rfl rfl)); clear_value z) | (have hz : PowerUnit := z; clear hz) | (have hz : RedUnit := z; clear hz) | (have hz : PcieUnit := z; clear hz) | (have hz : VkeepUnit := z; clear hz) | (have hz : TimeUnit := z; clear hz) | (have hz : TickUnit := z; clear hz) | (have hz : QueueUnit := z; clear hz) | (have hz : PipeUnit := z; clear hz) | (have hz : SchedUnit := z; clear hz) | (have hz : CipUnit := z; clear hz) | (have hz : CrtUnit := z; clear hz) | (have hz : MbxUnit := z; clear hz) | (have hz : CusUnit := z; clear hz) | (have hz : EccUnit := z; clear hz) | (have hz : PowerGov := z; clear hz) | (have hz : SliceRed := z; clear hz) | (have hz : MemChan := z; clear hz) | clear_value z | skip) | with_reducible assumption | with_reducible apply endCmd_keeps | with_reducible apply State_setSlice_keeps | (left; rfl) | (right; left; nofun) | (with_reducible apply Keeps.foldl; intro _ _ _) | with_reducible apply Keeps.ite | split | (with_reducible refine Keeps.upd ?_ rfl rfl rfl rfl rfl)

theorem roleBoundary_keeps {kk : Kind} {sb : State} (s : State) (sl : SliceId) (hk : Keeps kk sb s) :
    Keeps kk sb (roleBoundary s sl) := by
  unfold roleBoundary
  repeat' first | (extract_lets +onlyGivenNames z; first | (have hz : Keeps kk sb z := (by unfold z; with_reducible assumption); clear hz; subst z) | (have hz : Keeps kk sb z := (by unfold z; repeat' first | with_reducible assumption | with_reducible apply becomeStandby_keeps | with_reducible apply reportOut_keeps | with_reducible apply endCmd_keeps | with_reducible apply faultSliceCmds_keeps | with_reducible apply State_setSlice_keeps | (left; rfl) | (right; left; nofun) | (with_reducible apply Keeps.foldl; intro _ _ _) | with_reducible apply Keeps.ite | split | (with_reducible refine Keeps.upd ?_ rfl rfl rfl rfl rfl)); clear_value z)  | (have hz : PowerUnit := z; clear hz) | (have hz : RedUnit := z; clear hz) | (have hz : PcieUnit := z; clear hz) | (have hz : VkeepUnit := z; clear hz) | (have hz : TimeUnit := z; clear hz) | (have hz : TickUnit := z; clear hz) | (have hz : QueueUnit := z; clear hz) | (have hz : PipeUnit := z; clear hz) | (have hz : SchedUnit := z; clear hz) | (have hz : CipUnit := z; clear hz) | (have hz : CrtUnit := z; clear hz) | (have hz : MbxUnit := z; clear hz) | (have hz : CusUnit := z; clear hz) | (have hz : EccUnit := z; clear hz) | (have hz : PowerGov := z; clear hz) | (have hz : SliceRed := z; clear hz) | (have hz : MemChan := z; clear hz) | clear_value z | skip) | with_reducible assumption | with_reducible apply becomeStandby_keeps | with_reducible apply reportOut_keeps | with_reducible apply endCmd_keeps | with_reducible apply faultSliceCmds_keeps | with_reducible apply State_setSlice_keeps | (left; rfl) | (right; left; nofun) | (with_reducible apply Keeps.foldl; intro _ _ _) | with_reducible apply Keeps.ite | split | (with_reducible refine Keeps.upd ?_ rfl rfl rfl rfl rfl)

theorem compareClaims_keeps {kk : Kind} {sb : State} (s : State) (hk : Keeps kk sb s) :
    Keeps kk sb (compareClaims s) := by
  unfold compareClaims
  repeat' first | (extract_lets +onlyGivenNames z; first | (have hz : Keeps kk sb z := (by unfold z; with_reducible assumption); clear hz; subst z) | (have hz : Keeps kk sb z := (by unfold z; repeat' first | with_reducible assumption | with_reducible apply setErr_keeps | with_reducible apply needReset_keeps | (with_reducible apply Keeps.foldl; intro _ _ _) | with_reducible apply Keeps.ite | split | (with_reducible refine Keeps.upd ?_ rfl rfl rfl rfl rfl)); clear_value z)  | (have hz : PowerUnit := z; clear hz) | (have hz : RedUnit := z; clear hz) | (have hz : PcieUnit := z; clear hz) | (have hz : VkeepUnit := z; clear hz) | (have hz : TimeUnit := z; clear hz) | (have hz : TickUnit := z; clear hz) | (have hz : QueueUnit := z; clear hz) | (have hz : PipeUnit := z; clear hz) | (have hz : SchedUnit := z; clear hz) | (have hz : CipUnit := z; clear hz) | (have hz : CrtUnit := z; clear hz) | (have hz : MbxUnit := z; clear hz) | (have hz : CusUnit := z; clear hz) | (have hz : EccUnit := z; clear hz) | (have hz : PowerGov := z; clear hz) | (have hz : SliceRed := z; clear hz) | (have hz : MemChan := z; clear hz) | clear_value z | skip) | with_reducible assumption | with_reducible apply setErr_keeps | with_reducible apply needReset_keeps | (with_reducible apply Keeps.foldl; intro _ _ _) | with_reducible apply Keeps.ite | split | (with_reducible refine Keeps.upd ?_ rfl rfl rfl rfl rfl)

theorem dropInject_keeps {kk : Kind} {sb : State} (s : State) (sl : SliceId) (i : Nat × InjectKind) (hk : Keeps kk sb s) :
    Keeps kk sb (dropInject s sl i) := by
  unfold dropInject
  repeat' first | (extract_lets +onlyGivenNames z; first | (have hz : Keeps kk sb z := (by unfold z; with_reducible assumption); clear hz; subst z) | (have hz : Keeps kk sb z := (by unfold z; repeat' first | with_reducible assumption | with_reducible apply State_setSlice_keeps | (left; rfl) | (right; left; nofun) | (with_reducible apply Keeps.foldl; intro _ _ _) | with_reducible apply Keeps.ite | split | (with_reducible refine Keeps.upd ?_ rfl rfl rfl rfl rfl)); clear_value z)  | (have hz : PowerUnit := z; clear hz) | (have hz : RedUnit := z; clear hz) | (have hz : PcieUnit := z; clear hz) | (have hz : VkeepUnit := z; clear hz) | (have hz : TimeUnit := z; clear hz) | (have hz : TickUnit := z; clear hz) | (have hz : QueueUnit := z; clear hz) | (have hz : PipeUnit := z; clear hz) | (have hz : SchedUnit := z; clear hz) | (have hz : CipUnit := z; clear hz) | (have hz : CrtUnit := z; clear hz) | (have hz : MbxUnit := z; clear hz) | (have hz : CusUnit := z; clear hz) | (have hz : EccUnit := z; clear hz) | (have hz : PowerGov := z; clear hz) | (have hz : SliceRed := z; clear hz) | (have hz : MemChan := z; clear hz) | clear_value z | skip) | with_reducible assumption | with_reducible apply State_setSlice_keeps | (left; rfl) | (right; left; nofun) | (with_reducible apply Keeps.foldl; intro _ _ _) | with_reducible apply Keeps.ite | split | (with_reducible refine Keeps.upd ?_ rfl rfl rfl rfl rfl)

theorem fireOne_keeps {kk : Kind} {sb : State} (sl : SliceId) (s : State) (i : Nat × InjectKind) (hk : Keeps kk sb s) :
    Keeps kk sb (fireOne sl s i) := by
  unfold fireOne
  repeat' first | (extract_lets +onlyGivenNames z; first | (have hz : Keeps kk sb z := (by unfold z; with_reducible assumption); clear hz; subst z) | (have hz : Keeps kk sb z := (by unfold z; repeat' first | with_reducible assumption | with_reducible apply dropInject_keeps | with_reducible apply withdrawSlice_keeps | (with_reducible apply Keeps.foldl; intro _ _ _) | (with_reducible apply Keeps.foldlP; intro _ _ _) | with_reducible apply Keeps.ite | split | (with_reducible refine Keeps.upd ?_ rfl rfl rfl rfl rfl)); clear_value z)  | (have hz : Keeps kk sb z.1 := (by unfold z; repeat' first | with_reducible assumption | with_reducible apply dropInject_keeps | with_reducible apply withdrawSlice_keeps | (with_reducible apply Keeps.foldl; intro _ _ _) | (with_reducible apply Keeps.foldlP; intro _ _ _) | with_reducible apply Keeps.ite | split | (with_reducible refine Keeps.upd ?_ rfl rfl rfl rfl rfl)); clear_value z) | (have hz : Keeps kk sb z.st := (by unfold z; repeat' first | with_reducible assumption | with_reducible apply dropInject_keeps | with_reducible apply withdrawSlice_keeps | (with_reducible apply Keeps.foldl; intro _ _ _) | (with_reducible apply Keeps.foldlP; intro _ _ _) | with_reducible apply Keeps.ite | split | (with_reducible refine Keeps.upd ?_ rfl rfl rfl rfl rfl)); clear_value z) | (have hz : PowerUnit := z; clear hz) | (have hz : RedUnit := z; clear hz) | (have hz : PcieUnit := z; clear hz) | (have hz : VkeepUnit := z; clear hz) | (have hz : TimeUnit := z; clear hz) | (have hz : TickUnit := z; clear hz) | (have hz : QueueUnit := z; clear hz) | (have hz : PipeUnit := z; clear hz) | (have hz : SchedUnit := z; clear hz) | (have hz : CipUnit := z; clear hz) | (have hz : CrtUnit := z; clear hz) | (have hz : MbxUnit := z; clear hz) | (have hz : CusUnit := z; clear hz) | (have hz : EccUnit := z; clear hz) | (have hz : PowerGov := z; clear hz) | (have hz : SliceRed := z; clear hz) | (have hz : MemChan := z; clear hz) | clear_value z | skip) | with_reducible assumption | with_reducible apply dropInject_keeps | with_reducible apply withdrawSlice_keeps | (with_reducible apply Keeps.foldl; intro _ _ _) | (with_reducible apply Keeps.foldlP; intro _ _ _) | with_reducible apply Keeps.ite | split | (with_reducible refine Keeps.upd ?_ rfl rfl rfl rfl rfl)

theorem fireInjected_keeps {kk : Kind} {sb : State} (s : State) (sl : SliceId) (hk : Keeps kk sb s) :
    Keeps kk sb (fireInjected s sl) := by
  unfold fireInjected
  repeat' first | with_reducible assumption | with_reducible apply fireOne_keeps | (with_reducible apply Keeps.foldl; intro _ _ _) | with_reducible apply Keeps.ite | split | (with_reducible refine Keeps.upd ?_ rfl rfl rfl rfl rfl)

theorem redBoundary_keeps {kk : Kind} {sb : State} (s : State) (hk : Keeps kk sb s) :
    Keeps kk sb (redBoundary s) := by
  unfold redBoundary
  repeat' first | with_reducible assumption | with_reducible apply roleBoundary_keeps | with_reducible apply compareClaims_keeps | (with_reducible apply Keeps.foldl; intro _ _ _) | with_reducible apply Keeps.ite | split | (with_reducible refine Keeps.upd ?_ rfl rfl rfl rfl rfl)

theorem countUe_keeps {kk : Kind} {sb : State} (s : State) (sl : SliceId) (eng : Nat) (hk : Keeps kk sb s) :
    Keeps kk sb (countUe s sl eng) := by
  unfold countUe
  repeat' first | (extract_lets +onlyGivenNames z; first | (have hz : Keeps kk sb z := (by unfold z; with_reducible assumption); clear hz; subst z) | (have hz : Keeps kk sb z := (by unfold z; repeat' first | with_reducible assumption | with_reducible apply withdrawSlice_keeps | with_reducible apply State_setSlice_keeps | (left; rfl) | (right; left; nofun) | (with_reducible apply Keeps.foldl; intro _ _ _) | with_reducible apply Keeps.ite | split | (with_reducible refine Keeps.upd ?_ rfl rfl rfl rfl rfl)); clear_value z)  | (have hz : PowerUnit := z; clear hz) | (have hz : RedUnit := z; clear hz) | (have hz : PcieUnit := z; clear hz) | (have hz : VkeepUnit := z; clear hz) | (have hz : TimeUnit := z; clear hz) | (have hz : TickUnit := z; clear hz) | (have hz : QueueUnit := z; clear hz) | (have hz : PipeUnit := z; clear hz) | (have hz : SchedUnit := z; clear hz) | (have hz : CipUnit := z; clear hz) | (have hz : CrtUnit := z; clear hz) | (have hz : MbxUnit := z; clear hz) | (have hz : CusUnit := z; clear hz) | (have hz : EccUnit := z; clear hz) | (have hz : PowerGov := z; clear hz) | (have hz : SliceRed := z; clear hz) | (have hz : MemChan := z; clear hz) | clear_value z | skip) | with_reducible assumption | with_reducible apply withdrawSlice_keeps | with_reducible apply State_setSlice_keeps | (left; rfl) | (right; left; nofun) | (with_reducible apply Keeps.foldl; intro _ _ _) | with_reducible apply Keeps.ite | split | (with_reducible refine Keeps.upd ?_ rfl rfl rfl rfl rfl)

theorem execOnlineCheckFire_keeps {kk : Kind} {sb : State} (sl : SliceId) (ev : SliceFault) (eng : Byte) (s : State) (hk : Keeps kk sb s) :
    KeepsO kk sb (execOnlineCheckFire sl ev eng s) := by
  unfold execOnlineCheckFire
  repeat' first | with_reducible apply KeepsO.next | with_reducible assumption | with_reducible apply countUe_keeps | with_reducible apply withdrawSlice_keeps | (with_reducible apply Keeps.foldl; intro _ _ _) | with_reducible apply Keeps.ite | with_reducible apply KeepsO.ite | split | (with_reducible refine Keeps.upd ?_ rfl rfl rfl rfl rfl)

theorem staleTagsOf_keeps {kk : Kind} {sb : State} (s : State) (sl : SliceId) (hk : Keeps kk sb s) :
    Keeps kk sb (staleTagsOf s sl) := by
  unfold staleTagsOf
  repeat' first | (extract_lets +onlyGivenNames z; first | (have hz : Keeps kk sb z := (by unfold z; with_reducible assumption); clear hz; subst z) | (have hz : Keeps kk sb z := (by unfold z; repeat' first | with_reducible assumption | (with_reducible apply Keeps.foldl; intro _ _ _) | with_reducible apply Keeps.ite | split | (with_reducible refine Keeps.upd ?_ rfl rfl rfl rfl rfl)); clear_value z)  | (have hz : PowerUnit := z; clear hz) | (have hz : RedUnit := z; clear hz) | (have hz : PcieUnit := z; clear hz) | (have hz : VkeepUnit := z; clear hz) | (have hz : TimeUnit := z; clear hz) | (have hz : TickUnit := z; clear hz) | (have hz : QueueUnit := z; clear hz) | (have hz : PipeUnit := z; clear hz) | (have hz : SchedUnit := z; clear hz) | (have hz : CipUnit := z; clear hz) | (have hz : CrtUnit := z; clear hz) | (have hz : MbxUnit := z; clear hz) | (have hz : CusUnit := z; clear hz) | (have hz : EccUnit := z; clear hz) | (have hz : PowerGov := z; clear hz) | (have hz : SliceRed := z; clear hz) | (have hz : MemChan := z; clear hz) | clear_value z | skip) | with_reducible assumption | (with_reducible apply Keeps.foldl; intro _ _ _) | with_reducible apply Keeps.ite | split | (with_reducible refine Keeps.upd ?_ rfl rfl rfl rfl rfl)

theorem reportSwitch_keeps {kk : Kind} {sb : State} (s : State) (old : SliceId) (hk : Keeps kk sb s) :
    Keeps kk sb (reportSwitch s old) := by
  unfold reportSwitch
  repeat' first | (extract_lets +onlyGivenNames z; first | (have hz : Keeps kk sb z := (by unfold z; with_reducible assumption); clear hz; subst z) | (have hz : Keeps kk sb z := (by unfold z; repeat' first | with_reducible assumption | with_reducible apply aerCor_keeps | with_reducible apply signal_keeps | with_reducible apply amber_keeps | with_reducible apply wr_keeps | with_reducible apply setErr_keeps | with_reducible apply bump_keeps | (with_reducible apply Keeps.foldl; intro _ _ _) | with_reducible apply Keeps.ite | split | (with_reducible refine Keeps.upd ?_ rfl rfl rfl rfl rfl)); clear_value z)  | (have hz : Keeps kk sb z.1 := (by unfold z; repeat' first | with_reducible assumption | with_reducible apply aerCor_keeps | with_reducible apply signal_keeps | with_reducible apply amber_keeps | with_reducible apply wr_keeps | with_reducible apply setErr_keeps | with_reducible apply bump_keeps | (with_reducible apply Keeps.foldl; intro _ _ _) | with_reducible apply Keeps.ite | split | (with_reducible refine Keeps.upd ?_ rfl rfl rfl rfl rfl)); clear_value z) | (have hz : Keeps kk sb z.st := (by unfold z; repeat' first | with_reducible assumption | with_reducible apply aerCor_keeps | with_reducible apply signal_keeps | with_reducible apply amber_keeps | with_reducible apply wr_keeps | with_reducible apply setErr_keeps | with_reducible apply bump_keeps | (with_reducible apply Keeps.foldl; intro _ _ _) | with_reducible apply Keeps.ite | split | (with_reducible refine Keeps.upd ?_ rfl rfl rfl rfl rfl)); clear_value z) | (have hz : PowerUnit := z; clear hz) | (have hz : RedUnit := z; clear hz) | (have hz : PcieUnit := z; clear hz) | (have hz : VkeepUnit := z; clear hz) | (have hz : TimeUnit := z; clear hz) | (have hz : TickUnit := z; clear hz) | (have hz : QueueUnit := z; clear hz) | (have hz : PipeUnit := z; clear hz) | (have hz : SchedUnit := z; clear hz) | (have hz : CipUnit := z; clear hz) | (have hz : CrtUnit := z; clear hz) | (have hz : MbxUnit := z; clear hz) | (have hz : CusUnit := z; clear hz) | (have hz : EccUnit := z; clear hz) | (have hz : PowerGov := z; clear hz) | (have hz : SliceRed := z; clear hz) | (have hz : MemChan := z; clear hz) | clear_value z | skip) | with_reducible assumption | with_reducible apply aerCor_keeps | with_reducible apply signal_keeps | with_reducible apply amber_keeps | with_reducible apply wr_keeps | with_reducible apply setErr_keeps | with_reducible apply bump_keeps | (with_reducible apply Keeps.foldl; intro _ _ _) | with_reducible apply Keeps.ite | split | (with_reducible refine Keeps.upd ?_ rfl rfl rfl rfl rfl)

theorem takeOver_keeps {kk : Kind} {sb : State} (replay : Nat) (gap : Fin 3) (s t : State)
    (e : takeOver replay gap s = some t) (h : Keeps kk sb s) : Keeps kk sb t := by
  unfold takeOver at e
  split at e
  · rename_i sl _ ha
    have hn : (s.slice sl.other).role ≠ .active := by
      unfold State.activeSlice at ha
      split at ha
      · cases ha
      · split at ha
        · cases ha
        · cases sl <;> assumption
    extract_lets x s1 s2 s3 s4 s5 s6 at e
    have h1 : Keeps kk sb s1 := State_setSlice_keeps _ _ _ (.inr (.inr hn)) h
    have h2 : Keeps kk sb s2 := staleTagsOf_keeps _ _ h1
    have h3 : Keeps kk sb s3 := bumpBy_keeps _ _ _ (reportSwitch_keeps _ _ h2)
    have h4 : Keeps kk sb s4 := signal_keeps _ _ _ _ h3
    have h5 : Keeps kk sb s5 := Keeps.ite (wr_keeps _ _ h4) h4
    have h6 : Keeps kk sb s6 := Keeps.ite (endCmd_keeps _ _ _ h5) h5
    split at e
    · cases e
      exact Keeps.upd h6 rfl rfl rfl rfl rfl
    · cases e
  · cases e

theorem resetEnd_keeps {kk : Kind} {sb : State} (sl : SliceId) (pass : Bool) (s : State) (hk : Keeps kk sb s) :
    Keeps kk sb (resetEnd sl pass s) := by
  unfold resetEnd
  repeat' first | (extract_lets +onlyGivenNames z; first | (have hz : Keeps kk sb z := (by unfold z; with_reducible assumption); clear hz; subst z) | (have hz : Keeps kk sb z := (by unfold z; repeat' first | with_reducible assumption | with_reducible apply endCmd_keeps | with_reducible apply reportOut_keeps | with_reducible apply State_setSlice_keeps | (left; rfl) | (right; left; nofun) | (with_reducible apply Keeps.foldl; intro _ _ _) | with_reducible apply Keeps.ite | split | (with_reducible refine Keeps.upd ?_ rfl rfl rfl rfl rfl)); clear_value z)  | (have hz : PowerUnit := z; clear hz) | (have hz : RedUnit := z; clear hz) | (have hz : PcieUnit := z; clear hz) | (have hz : VkeepUnit := z; clear hz) | (have hz : TimeUnit := z; clear hz) | (have hz : TickUnit := z; clear hz) | (have hz : QueueUnit := z; clear hz) | (have hz : PipeUnit := z; clear hz) | (have hz : SchedUnit := z; clear hz) | (have hz : CipUnit := z; clear hz) | (have hz : CrtUnit := z; clear hz) | (have hz : MbxUnit := z; clear hz) | (have hz : CusUnit := z; clear hz) | (have hz : EccUnit := z; clear hz) | (have hz : PowerGov := z; clear hz) | (have hz : SliceRed := z; clear hz) | (have hz : MemChan := z; clear hz) | clear_value z | skip) | with_reducible assumption | with_reducible apply endCmd_keeps | with_reducible apply reportOut_keeps | with_reducible apply State_setSlice_keeps | (left; rfl) | (right; left; nofun) | (with_reducible apply Keeps.foldl; intro _ _ _) | with_reducible apply Keeps.ite | split | (with_reducible refine Keeps.upd ?_ rfl rfl rfl rfl rfl)

theorem execAutoReadmit_keeps {kk : Kind} {sb : State} (sl : SliceId) (s : State) (hk : Keeps kk sb s) :
    KeepsO kk sb (execAutoReadmit sl s) := by
  unfold execAutoReadmit
  repeat' first | (extract_lets +onlyGivenNames z; first | (have hz : Keeps kk sb z := (by unfold z; with_reducible assumption); clear hz; subst z) | (have hz : Keeps kk sb z := (by unfold z; repeat' first | with_reducible apply KeepsO.next | with_reducible assumption | with_reducible apply becomeStandby_keeps | (with_reducible apply Keeps.foldl; intro _ _ _) | with_reducible apply Keeps.ite | with_reducible apply KeepsO.ite | split | (with_reducible refine Keeps.upd ?_ rfl rfl rfl rfl rfl)); clear_value z)  | (have hz : PowerUnit := z; clear hz) | (have hz : RedUnit := z; clear hz) | (have hz : PcieUnit := z; clear hz) | (have hz : VkeepUnit := z; clear hz) | (have hz : TimeUnit := z; clear hz) | (have hz : TickUnit := z; clear hz) | (have hz : QueueUnit := z; clear hz) | (have hz : PipeUnit := z; clear hz) | (have hz : SchedUnit := z; clear hz) | (have hz : CipUnit := z; clear hz) | (have hz : CrtUnit := z; clear hz) | (have hz : MbxUnit := z; clear hz) | (have hz : CusUnit := z; clear hz) | (have hz : EccUnit := z; clear hz) | (have hz : PowerGov := z; clear hz) | (have hz : SliceRed := z; clear hz) | (have hz : MemChan := z; clear hz) | clear_value z | skip) | with_reducible apply KeepsO.next | with_reducible assumption | with_reducible apply becomeStandby_keeps | (with_reducible apply Keeps.foldl; intro _ _ _) | with_reducible apply Keeps.ite | with_reducible apply KeepsO.ite | split | (with_reducible refine Keeps.upd ?_ rfl rfl rfl rfl rfl)

theorem shownLatent_keeps {kk : Kind} {sb : State} (s : State) (sl : SliceId) (e : Nat) (hk : Keeps kk sb s) :
    Keeps kk sb (shownLatent s sl e) := by
  unfold shownLatent
  repeat' first | with_reducible assumption | with_reducible apply dropInject_keeps | (with_reducible apply Keeps.foldl; intro _ _ _) | with_reducible apply Keeps.ite | split | (with_reducible refine Keeps.upd ?_ rfl rfl rfl rfl rfl)

theorem passEnd_keeps {kk : Kind} {sb : State} (s : State) (sl : SliceId) (ms : Nat) (o : Option Nat) (hk : Keeps kk sb s) :
    Keeps kk sb (passEnd s sl ms o) := by
  cases o with
  | none => exact signal_keeps _ _ _ _ (wr_keeps _ _ (bump_keeps _ _ (State_setSlice_keeps _ _ _ (.inl rfl) hk)))
  | some e => exact withdrawSlice_keeps _ _ _ _ (shownLatent_keeps _ _ _ (State_setSlice_keeps _ _ _ (.inl rfl) hk))

theorem execSelftestPassEnd_keeps {kk : Kind} {sb : State} (ms : Nat) (wrong : Option Byte) (s : State) (hk : Keeps kk sb s) :
    KeepsO kk sb (execSelftestPassEnd ms wrong s) := by
  unfold execSelftestPassEnd
  repeat' first | (extract_lets +onlyGivenNames z; first | (have hz : Keeps kk sb z := (by unfold z; with_reducible assumption); clear hz; subst z) | (have hz : Keeps kk sb z := (by unfold z; repeat' first | with_reducible apply KeepsO.next | with_reducible assumption | with_reducible apply passEnd_keeps | (with_reducible apply Keeps.foldl; intro _ _ _) | with_reducible apply_assumption | with_reducible apply Keeps.ite | with_reducible apply KeepsO.ite | split | (with_reducible refine Keeps.upd ?_ rfl rfl rfl rfl rfl)); clear_value z)  | (have hz : Keeps kk sb z.1 := (by unfold z; repeat' first | with_reducible apply KeepsO.next | with_reducible assumption | with_reducible apply passEnd_keeps | (with_reducible apply Keeps.foldl; intro _ _ _) | with_reducible apply Keeps.ite | with_reducible apply KeepsO.ite | split | (with_reducible refine Keeps.upd ?_ rfl rfl rfl rfl rfl)); clear_value z) | (have hz : Keeps kk sb z.st := (by unfold z; repeat' first | with_reducible apply KeepsO.next | with_reducible assumption | with_reducible apply passEnd_keeps | (with_reducible apply Keeps.foldl; intro _ _ _) | with_reducible apply Keeps.ite | with_reducible apply KeepsO.ite | split | (with_reducible refine Keeps.upd ?_ rfl rfl rfl rfl rfl)); clear_value z) | (have hz : ∀ (v0 : SliceId), Keeps kk sb (z v0) := (by intro v0 ; unfold z; repeat' first | with_reducible apply KeepsO.next | with_reducible assumption | with_reducible apply passEnd_keeps | (with_reducible apply Keeps.foldl; intro _ _ _) | with_reducible apply Keeps.ite | with_reducible apply KeepsO.ite | split | (with_reducible refine Keeps.upd ?_ rfl rfl rfl rfl rfl)); clear_value z) | (have hz : PowerUnit := z; clear hz) | (have hz : RedUnit := z; clear hz) | (have hz : PcieUnit := z; clear hz) | (have hz : VkeepUnit := z; clear hz) | (have hz : TimeUnit := z; clear hz) | (have hz : TickUnit := z; clear hz) | (have hz : QueueUnit := z; clear hz) | (have hz : PipeUnit := z; clear hz) | (have hz : SchedUnit := z; clear hz) | (have hz : CipUnit := z; clear hz) | (have hz : CrtUnit := z; clear hz) | (have hz : MbxUnit := z; clear hz) | (have hz : CusUnit := z; clear hz) | (have hz : EccUnit := z; clear hz) | (have hz : PowerGov := z; clear hz) | (have hz : SliceRed := z; clear hz) | (have hz : MemChan := z; clear hz) | clear_value z | skip) | with_reducible apply KeepsO.next | with_reducible assumption | with_reducible apply passEnd_keeps | (with_reducible apply Keeps.foldl; intro _ _ _) | with_reducible apply_assumption | with_reducible apply Keeps.ite | with_reducible apply KeepsO.ite | split | (with_reducible refine Keeps.upd ?_ rfl rfl rfl rfl rfl)

theorem specWithdraw_keeps {kk : Kind} {sb : State} (c0 : RunCmd) (s0 : State) (hk : Keeps kk sb s0) :
    Keeps kk sb ((specWithdraw).body c0 s0) := by
  unfold specWithdraw
  repeat' first | (extract_lets +onlyGivenNames z; first | (have hz : Keeps kk sb z := (by unfold z; with_reducible assumption); clear hz; subst z) | (have hz : Keeps kk sb z := (by unfold z; repeat' first | with_reducible assumption | with_reducible apply endCmd_keeps | with_reducible apply withdrawSlice_keeps | (with_reducible apply Keeps.foldl; intro _ _ _) | with_reducible apply Keeps.ite | split | (with_reducible refine Keeps.upd ?_ rfl rfl rfl rfl rfl)); clear_value z)  | (have hz : Keeps kk sb z.1 := (by unfold z; repeat' first | with_reducible assumption | with_reducible apply endCmd_keeps | with_reducible apply withdrawSlice_keeps | (with_reducible apply Keeps.foldl; intro _ _ _) | with_reducible apply Keeps.ite | split | (with_reducible refine Keeps.upd ?_ rfl rfl rfl rfl rfl)); clear_value z) | (have hz : Keeps kk sb z.st := (by unfold z; repeat' first | with_reducible assumption | with_reducible apply endCmd_keeps | with_reducible apply withdrawSlice_keeps | (with_reducible apply Keeps.foldl; intro _ _ _) | with_reducible apply Keeps.ite | split | (with_reducible refine Keeps.upd ?_ rfl rfl rfl rfl rfl)); clear_value z) | (have hz : PowerUnit := z; clear hz) | (have hz : RedUnit := z; clear hz) | (have hz : PcieUnit := z; clear hz) | (have hz : VkeepUnit := z; clear hz) | (have hz : TimeUnit := z; clear hz) | (have hz : TickUnit := z; clear hz) | (have hz : QueueUnit := z; clear hz) | (have hz : PipeUnit := z; clear hz) | (have hz : SchedUnit := z; clear hz) | (have hz : CipUnit := z; clear hz) | (have hz : CrtUnit := z; clear hz) | (have hz : MbxUnit := z; clear hz) | (have hz : CusUnit := z; clear hz) | (have hz : EccUnit := z; clear hz) | (have hz : PowerGov := z; clear hz) | (have hz : SliceRed := z; clear hz) | (have hz : MemChan := z; clear hz) | clear_value z | skip) | with_reducible assumption | with_reducible apply endCmd_keeps | with_reducible apply withdrawSlice_keeps | (with_reducible apply Keeps.foldl; intro _ _ _) | with_reducible apply Keeps.ite | split | (with_reducible refine Keeps.upd ?_ rfl rfl rfl rfl rfl)

theorem specReadmit_keeps {kk : Kind} {sb : State} (c0 : RunCmd) (s0 : State) (hk : Keeps kk sb s0) :
    Keeps kk sb ((specReadmit).body c0 s0) := by
  unfold specReadmit
  repeat' first | (extract_lets +onlyGivenNames z; first | (have hz : Keeps kk sb z := (by unfold z; with_reducible assumption); clear hz; subst z) | (have hz : Keeps kk sb z := (by unfold z; repeat' first | with_reducible assumption | with_reducible apply State_setSlice_keeps | with_reducible apply endCmd_keeps | (left; rfl) | (right; left; nofun) | (with_reducible apply Keeps.foldl; intro _ _ _) | with_reducible apply Keeps.ite | split | (with_reducible refine Keeps.upd ?_ rfl rfl rfl rfl rfl)); clear_value z)  | (have hz : Keeps kk sb z.1 := (by unfold z; repeat' first | with_reducible assumption | with_reducible apply State_setSlice_keeps | with_reducible apply endCmd_keeps | (left; rfl) | (right; left; nofun) | (with_reducible apply Keeps.foldl; intro _ _ _) | with_reducible apply Keeps.ite | split | (with_reducible refine Keeps.upd ?_ rfl rfl rfl rfl rfl)); clear_value z) | (have hz : Keeps kk sb z.st := (by unfold z; repeat' first | with_reducible assumption | with_reducible apply State_setSlice_keeps | with_reducible apply endCmd_keeps | (left; rfl) | (right; left; nofun) | (with_reducible apply Keeps.foldl; intro _ _ _) | with_reducible apply Keeps.ite | split | (with_reducible refine Keeps.upd ?_ rfl rfl rfl rfl rfl)); clear_value z) | (have hz : PowerUnit := z; clear hz) | (have hz : RedUnit := z; clear hz) | (have hz : PcieUnit := z; clear hz) | (have hz : VkeepUnit := z; clear hz) | (have hz : TimeUnit := z; clear hz) | (have hz : TickUnit := z; clear hz) | (have hz : QueueUnit := z; clear hz) | (have hz : PipeUnit := z; clear hz) | (have hz : SchedUnit := z; clear hz) | (have hz : CipUnit := z; clear hz) | (have hz : CrtUnit := z; clear hz) | (have hz : MbxUnit := z; clear hz) | (have hz : CusUnit := z; clear hz) | (have hz : EccUnit := z; clear hz) | (have hz : PowerGov := z; clear hz) | (have hz : SliceRed := z; clear hz) | (have hz : MemChan := z; clear hz) | clear_value z | skip) | with_reducible assumption | with_reducible apply State_setSlice_keeps | with_reducible apply endCmd_keeps | (left; rfl) | (right; left; nofun) | (with_reducible apply Keeps.foldl; intro _ _ _) | with_reducible apply Keeps.ite | split | (with_reducible refine Keeps.upd ?_ rfl rfl rfl rfl rfl)

theorem specInject_keeps {kk : Kind} {sb : State} (sl : SliceId) (c0 : RunCmd) (s0 : State) (hk : Keeps kk sb s0) :
    Keeps kk sb ((specInject sl).body c0 s0) := by
  unfold specInject
  repeat' first | (extract_lets +onlyGivenNames z; first | (have hz : Keeps kk sb z := (by unfold z; with_reducible assumption); clear hz; subst z) | (have hz : Keeps kk sb z := (by unfold z; repeat' first | with_reducible assumption | with_reducible apply State_setSlice_keeps | with_reducible apply endCmd_keeps | (left; rfl) | (right; left; nofun) | (with_reducible apply Keeps.foldl; intro _ _ _) | with_reducible apply Keeps.ite | split | (with_reducible refine Keeps.upd ?_ rfl rfl rfl rfl rfl)); clear_value z)  | (have hz : Keeps kk sb z.1 := (by unfold z; repeat' first | with_reducible assumption | with_reducible apply State_setSlice_keeps | with_reducible apply endCmd_keeps | (left; rfl) | (right; left; nofun) | (with_reducible apply Keeps.foldl; intro _ _ _) | with_reducible apply Keeps.ite | split | (with_reducible refine Keeps.upd ?_ rfl rfl rfl rfl rfl)); clear_value z) | (have hz : Keeps kk sb z.st := (by unfold z; repeat' first | with_reducible assumption | with_reducible apply State_setSlice_keeps | with_reducible apply endCmd_keeps | (left; rfl) | (right; left; nofun) | (with_reducible apply Keeps.foldl; intro _ _ _) | with_reducible apply Keeps.ite | split | (with_reducible refine Keeps.upd ?_ rfl rfl rfl rfl rfl)); clear_value z) | (have hz : PowerUnit := z; clear hz) | (have hz : RedUnit := z; clear hz) | (have hz : PcieUnit := z; clear hz) | (have hz : VkeepUnit := z; clear hz) | (have hz : TimeUnit := z; clear hz) | (have hz : TickUnit := z; clear hz) | (have hz : QueueUnit := z; clear hz) | (have hz : PipeUnit := z; clear hz) | (have hz : SchedUnit := z; clear hz) | (have hz : CipUnit := z; clear hz) | (have hz : CrtUnit := z; clear hz) | (have hz : MbxUnit := z; clear hz) | (have hz : CusUnit := z; clear hz) | (have hz : EccUnit := z; clear hz) | (have hz : PowerGov := z; clear hz) | (have hz : SliceRed := z; clear hz) | (have hz : MemChan := z; clear hz) | clear_value z | skip) | with_reducible assumption | with_reducible apply State_setSlice_keeps | with_reducible apply endCmd_keeps | (left; rfl) | (right; left; nofun) | (with_reducible apply Keeps.foldl; intro _ _ _) | with_reducible apply Keeps.ite | split | (with_reducible refine Keeps.upd ?_ rfl rfl rfl rfl rfl)

theorem execWithdraw_keeps {kk : Kind} {sb : State} (via : Master) (seq : Byte) (a0 : Word) (s : State) (hk : Keeps kk sb s) :
    KeepsO kk sb (execWithdraw via seq a0 s) := by
  unfold execWithdraw
  repeat' first | with_reducible apply KeepsO.next | with_reducible assumption | with_reducible apply commandRow_keeps | (constructor; (rintro _ ⟨⟩ _ _ _ _ _; first | (with_reducible apply specWithdraw_keeps; with_reducible assumption)); (first | (left; left; decide) | (left; right; decide) | (left; left; unfold pgSys; omega) | (left; left; unfold pgCip pgSlice pgSys; omega) | (left; left; unfold pgSlice pgSys; omega) | (left; left; unfold pgTbl pgSlice pgSys; omega) | (left; left; unfold pgCch pgSys pf1Base; omega) | (right; rintro _ ⟨⟩; rfl))) | (with_reducible apply Keeps.foldl; intro _ _ _) | with_reducible apply Keeps.ite | with_reducible apply KeepsO.ite | split | (with_reducible refine Keeps.upd ?_ rfl rfl rfl rfl rfl)

theorem execReadmit_keeps {kk : Kind} {sb : State} (via : Master) (seq : Byte) (a0 : Word) (s : State) (hk : Keeps kk sb s) :
    KeepsO kk sb (execReadmit via seq a0 s) := by
  unfold execReadmit
  repeat' first | with_reducible apply KeepsO.next | with_reducible assumption | with_reducible apply commandRow_keeps | (constructor; (rintro _ ⟨⟩ _ _ _ _ _; first | (with_reducible apply specReadmit_keeps; with_reducible assumption)); (first | (left; left; decide) | (left; right; decide) | (left; left; unfold pgSys; omega) | (left; left; unfold pgCip pgSlice pgSys; omega) | (left; left; unfold pgSlice pgSys; omega) | (left; left; unfold pgTbl pgSlice pgSys; omega) | (left; left; unfold pgCch pgSys pf1Base; omega) | (right; rintro _ ⟨⟩; rfl))) | (with_reducible apply Keeps.foldl; intro _ _ _) | with_reducible apply Keeps.ite | with_reducible apply KeepsO.ite | split | (with_reducible refine Keeps.upd ?_ rfl rfl rfl rfl rfl)

theorem execInject_keeps {kk : Kind} {sb : State} (sl : SliceId) (via : Master) (seq : Byte) (a0 : Word) (s : State) (hk : Keeps kk sb s) :
    KeepsO kk sb (execInject sl via seq a0 s) := by
  unfold execInject
  repeat' first | with_reducible apply KeepsO.next | with_reducible assumption | with_reducible apply commandRow_keeps | (constructor; (rintro _ ⟨⟩ _ _ _ _ _; first | (with_reducible apply specInject_keeps; with_reducible assumption)); (first | (left; left; decide) | (left; right; decide) | (left; left; unfold pgSys; omega) | (left; left; unfold pgCip pgSlice pgSys; omega) | (left; left; unfold pgSlice pgSys; omega) | (left; left; unfold pgTbl pgSlice pgSys; omega) | (left; left; unfold pgCch pgSys pf1Base; omega) | (right; rintro _ ⟨⟩; rfl))) | (with_reducible apply Keeps.foldl; intro _ _ _) | with_reducible apply Keeps.ite | with_reducible apply KeepsO.ite | split | (with_reducible refine Keeps.upd ?_ rfl rfl rfl rfl rfl)

end Sys2Proof.Machine
end

