-- ==== Sys2Proof/Laws/KeepsAlarm.lean ====
section
/-! SUPPORT. The operations of Alarm keep what Laws/Keeps.lean states. -/
set_option linter.tactic.unusedName false
set_option linter.unusedVariables false
namespace Sys2Proof.Machine

theorem execAlarmSourceActive_keeps {kk : Kind} {sb : State} (src : AlarmSrc) (s : State) (hk : Keeps kk sb s) :
    KeepsO kk sb (execAlarmSourceActive src s) := by
  unfold execAlarmSourceActive
  repeat' first | (extract_lets +onlyGivenNames z; first | (have hz : Keeps kk sb z := (by unfold z; with_reducible assumption); clear hz; subst z) | (have hz : Keeps kk sb z := (by unfold z; repeat' first | with_reducible apply KeepsO.next | with_reducible assumption | with_reducible apply raise_keeps | (with_reducible apply Keeps.foldl; intro _ _ _) | with_reducible apply Keeps.ite | with_reducible apply KeepsO.ite | split | (with_reducible refine Keeps.upd ?_ rfl rfl rfl rfl rfl)); clear_value z)  | (have hz : PowerUnit := z; clear hz) | (have hz : RedUnit := z; clear hz) | (have hz : PcieUnit := z; clear hz) | (have hz : VkeepUnit := z; clear hz) | (have hz : TimeUnit := z; clear hz) | (have hz : TickUnit := z; clear hz) | (have hz : QueueUnit := z; clear hz) | (have hz : PipeUnit := z; clear hz) | (have hz : SchedUnit := z; clear hz) | (have hz : CipUnit := z; clear hz) | (have hz : CrtUnit := z; clear hz) | (have hz : MbxUnit := z; clear hz) | (have hz : CusUnit := z; clear hz) | (have hz : EccUnit := z; clear hz) | (have hz : PowerGov := z; clear hz) | (have hz : SliceRed := z; clear hz) | (have hz : MemChan := z; clear hz) | clear_value z | skip) | with_reducible apply KeepsO.next | with_reducible assumption | with_reducible apply raise_keeps | (with_reducible apply Keeps.foldl; intro _ _ _) | with_reducible apply Keeps.ite | with_reducible apply KeepsO.ite | split | (with_reducible refine Keeps.upd ?_ rfl rfl rfl rfl rfl)

theorem execAlarmSourceInactive_keeps {kk : Kind} {sb : State} (src : AlarmSrc) (s : State) (hk : Keeps kk sb s) :
    KeepsO kk sb (execAlarmSourceInactive src s) := by
  unfold execAlarmSourceInactive
  repeat' first | (extract_lets +onlyGivenNames z; first | (have hz : Keeps kk sb z := (by unfold z; with_reducible assumption); clear hz; subst z) | (have hz : Keeps kk sb z := (by unfold z; repeat' first | with_reducible apply KeepsO.next | with_reducible assumption | (with_reducible apply Keeps.foldl; intro _ _ _) | with_reducible apply Keeps.ite | with_reducible apply KeepsO.ite | split | (with_reducible refine Keeps.upd ?_ rfl rfl rfl rfl rfl)); clear_value z)  | (have hz : PowerUnit := z; clear hz) | (have hz : RedUnit := z; clear hz) | (have hz : PcieUnit := z; clear hz) | (have hz : VkeepUnit := z; clear hz) | (have hz : TimeUnit := z; clear hz) | (have hz : TickUnit := z; clear hz) | (have hz : QueueUnit := z; clear hz) | (have hz : PipeUnit := z; clear hz) | (have hz : SchedUnit := z; clear hz) | (have hz : CipUnit := z; clear hz) | (have hz : CrtUnit := z; clear hz) | (have hz : MbxUnit := z; clear hz) | (have hz : CusUnit := z; clear hz) | (have hz : EccUnit := z; clear hz) | (have hz : PowerGov := z; clear hz) | (have hz : SliceRed := z; clear hz) | (have hz : MemChan := z; clear hz) | clear_value z | skip) | with_reducible apply KeepsO.next | with_reducible assumption | (with_reducible apply Keeps.foldl; intro _ _ _) | with_reducible apply Keeps.ite | with_reducible apply KeepsO.ite | split | (with_reducible refine Keeps.upd ?_ rfl rfl rfl rfl rfl)

theorem specSealPolicy_keeps {kk : Kind} {sb : State} (c0 : RunCmd) (s0 : State) (hk : Keeps kk sb s0) :
    Keeps kk sb ((specSealPolicy).body c0 s0) := by
  unfold specSealPolicy
  repeat' first | (extract_lets +onlyGivenNames z; first | (have hz : Keeps kk sb z := (by unfold z; with_reducible assumption); clear hz; subst z) | (have hz : Keeps kk sb z := (by unfold z; repeat' first | with_reducible assumption | with_reducible apply endCmd_keeps | (with_reducible apply Keeps.foldl; intro _ _ _) | with_reducible apply Keeps.ite | split | (with_reducible refine Keeps.upd ?_ rfl rfl rfl rfl rfl)); clear_value z)  | (have hz : PowerUnit := z; clear hz) | (have hz : RedUnit := z; clear hz) | (have hz : PcieUnit := z; clear hz) | (have hz : VkeepUnit := z; clear hz) | (have hz : TimeUnit := z; clear hz) | (have hz : TickUnit := z; clear hz) | (have hz : QueueUnit := z; clear hz) | (have hz : PipeUnit := z; clear hz) | (have hz : SchedUnit := z; clear hz) | (have hz : CipUnit := z; clear hz) | (have hz : CrtUnit := z; clear hz) | (have hz : MbxUnit := z; clear hz) | (have hz : CusUnit := z; clear hz) | (have hz : EccUnit := z; clear hz) | (have hz : PowerGov := z; clear hz) | (have hz : SliceRed := z; clear hz) | (have hz : MemChan := z; clear hz) | clear_value z | skip) | with_reducible assumption | with_reducible apply endCmd_keeps | (with_reducible apply Keeps.foldl; intro _ _ _) | with_reducible apply Keeps.ite | split | (with_reducible refine Keeps.upd ?_ rfl rfl rfl rfl rfl)

theorem specClearAlarm_keeps {kk : Kind} {sb : State} (c0 : RunCmd) (s0 : State) (hk : Keeps kk sb s0) :
    Keeps kk sb ((specClearAlarm).body c0 s0) := by
  unfold specClearAlarm
  repeat' first | (extract_lets +onlyGivenNames z; first | (have hz : Keeps kk sb z := (by unfold z; with_reducible assumption); clear hz; subst z) | (have hz : Keeps kk sb z := (by unfold z; repeat' first | with_reducible assumption | with_reducible apply endCmd_keeps | (with_reducible apply Keeps.foldl; intro _ _ _) | with_reducible apply Keeps.ite | split | (with_reducible refine Keeps.upd ?_ rfl rfl rfl rfl rfl)); clear_value z)  | (have hz : PowerUnit := z; clear hz) | (have hz : RedUnit := z; clear hz) | (have hz : PcieUnit := z; clear hz) | (have hz : VkeepUnit := z; clear hz) | (have hz : TimeUnit := z; clear hz) | (have hz : TickUnit := z; clear hz) | (have hz : QueueUnit := z; clear hz) | (have hz : PipeUnit := z; clear hz) | (have hz : SchedUnit := z; clear hz) | (have hz : CipUnit := z; clear hz) | (have hz : CrtUnit := z; clear hz) | (have hz : MbxUnit := z; clear hz) | (have hz : CusUnit := z; clear hz) | (have hz : EccUnit := z; clear hz) | (have hz : PowerGov := z; clear hz) | (have hz : SliceRed := z; clear hz) | (have hz : MemChan := z; clear hz) | clear_value z | skip) | with_reducible assumption | with_reducible apply endCmd_keeps | (with_reducible apply Keeps.foldl; intro _ _ _) | with_reducible apply Keeps.ite | split | (with_reducible refine Keeps.upd ?_ rfl rfl rfl rfl rfl)

theorem specErase_keeps {kk : Kind} {sb : State} (page : Nat) (role : Master → Bool) (c0 : RunCmd) (s0 : State) (hk : Keeps kk sb s0) :
    Keeps kk sb ((specErase page role).body c0 s0) := by
  unfold specErase
  repeat' first | with_reducible assumption | with_reducible apply raise_keeps | with_reducible apply endCmd_keeps | (with_reducible apply Keeps.foldl; intro _ _ _) | with_reducible apply Keeps.ite | split | (with_reducible refine Keeps.upd ?_ rfl rfl rfl rfl rfl)

theorem execSealPolicy_keeps {kk : Kind} {sb : State} (via : Master) (seq : Byte) (s : State) (hk : Keeps kk sb s) :
    KeepsO kk sb (execSealPolicy via seq s) := by
  unfold execSealPolicy
  repeat' first | with_reducible apply KeepsO.next | with_reducible assumption | with_reducible apply commandRow_keeps | (constructor; (rintro _ ⟨⟩ _ _ _ _ _; first | (with_reducible apply specSealPolicy_keeps; with_reducible assumption)); (first | (left; left; decide) | (left; right; decide) | (left; left; unfold pgSys; omega) | (left; left; unfold pgCip pgSlice pgSys; omega) | (left; left; unfold pgSlice pgSys; omega) | (left; left; unfold pgTbl pgSlice pgSys; omega) | (left; left; unfold pgCch pgSys pf1Base; omega) | (right; rintro _ ⟨⟩; rfl))) | (with_reducible apply Keeps.foldl; intro _ _ _) | with_reducible apply Keeps.ite | with_reducible apply KeepsO.ite | split | (with_reducible refine Keeps.upd ?_ rfl rfl rfl rfl rfl)

theorem execClearAlarm_keeps {kk : Kind} {sb : State} (via : Master) (seq : Byte) (s : State) (hk : Keeps kk sb s) :
    KeepsO kk sb (execClearAlarm via seq s) := by
  unfold execClearAlarm
  repeat' first | with_reducible apply KeepsO.next | with_reducible assumption | with_reducible apply commandRow_keeps | (constructor; (rintro _ ⟨⟩ _ _ _ _ _; first | (with_reducible apply specClearAlarm_keeps; with_reducible assumption)); (first | (left; left; decide) | (left; right; decide) | (left; left; unfold pgSys; omega) | (left; left; unfold pgCip pgSlice pgSys; omega) | (left; left; unfold pgSlice pgSys; omega) | (left; left; unfold pgTbl pgSlice pgSys; omega) | (left; left; unfold pgCch pgSys pf1Base; omega) | (right; rintro _ ⟨⟩; rfl))) | (with_reducible apply Keeps.foldl; intro _ _ _) | with_reducible apply Keeps.ite | with_reducible apply KeepsO.ite | split | (with_reducible refine Keeps.upd ?_ rfl rfl rfl rfl rfl)

theorem execZeroize_keeps {kk : Kind} {sb : State} (via : Master) (seq : Byte) (a0 : Word) (s : State) (hk : Keeps kk sb s) :
    KeepsO kk sb (execZeroize via seq a0 s) := by
  unfold execZeroize
  repeat' first | with_reducible apply KeepsO.next | with_reducible assumption | with_reducible apply commandRow_keeps | (constructor; (rintro _ ⟨⟩ _ _ _ _ _; first | (with_reducible apply specErase_keeps; with_reducible assumption)); (first | (left; left; decide) | (left; right; decide) | (left; left; unfold pgSys; omega) | (left; left; unfold pgCip pgSlice pgSys; omega) | (left; left; unfold pgSlice pgSys; omega) | (left; left; unfold pgTbl pgSlice pgSys; omega) | (left; left; unfold pgCch pgSys pf1Base; omega) | (right; rintro _ ⟨⟩; rfl))) | (with_reducible apply Keeps.foldl; intro _ _ _) | with_reducible apply Keeps.ite | with_reducible apply KeepsO.ite | split | (with_reducible refine Keeps.upd ?_ rfl rfl rfl rfl rfl)

theorem execEraseAll_keeps {kk : Kind} {sb : State} (via : Master) (seq : Byte) (a0 : Word) (s : State) (hk : Keeps kk sb s) :
    KeepsO kk sb (execEraseAll via seq a0 s) := by
  unfold execEraseAll
  repeat' first | with_reducible apply KeepsO.next | with_reducible assumption | with_reducible apply commandRow_keeps | (constructor; (rintro _ ⟨⟩ _ _ _ _ _; first | (with_reducible apply specErase_keeps; with_reducible assumption)); (first | (left; left; decide) | (left; right; decide) | (left; left; unfold pgSys; omega) | (left; left; unfold pgCip pgSlice pgSys; omega) | (left; left; unfold pgSlice pgSys; omega) | (left; left; unfold pgTbl pgSlice pgSys; omega) | (left; left; unfold pgCch pgSys pf1Base; omega) | (right; rintro _ ⟨⟩; rfl))) | (with_reducible apply Keeps.foldl; intro _ _ _) | with_reducible apply Keeps.ite | with_reducible apply KeepsO.ite | split | (with_reducible refine Keeps.upd ?_ rfl rfl rfl rfl rfl)

theorem vkeepRun_keeps {kk : Kind} {sb : State} (s : State) (n : Nat) (hk : Keeps kk sb s) :
    Keeps kk sb (vkeepRun s n) := by
  unfold vkeepRun
  repeat' first | (extract_lets +onlyGivenNames z; first | (have hz : Keeps kk sb z := (by unfold z; with_reducible assumption); clear hz; subst z) | (have hz : Keeps kk sb z := (by unfold z; repeat' first | with_reducible assumption | (with_reducible apply Keeps.foldl; intro _ _ _) | with_reducible apply Keeps.ite | split | (with_reducible refine Keeps.upd ?_ rfl rfl rfl rfl rfl)); clear_value z)  | (have hz : PowerUnit := z; clear hz) | (have hz : RedUnit := z; clear hz) | (have hz : PcieUnit := z; clear hz) | (have hz : VkeepUnit := z; clear hz) | (have hz : TimeUnit := z; clear hz) | (have hz : TickUnit := z; clear hz) | (have hz : QueueUnit := z; clear hz) | (have hz : PipeUnit := z; clear hz) | (have hz : SchedUnit := z; clear hz) | (have hz : CipUnit := z; clear hz) | (have hz : CrtUnit := z; clear hz) | (have hz : MbxUnit := z; clear hz) | (have hz : CusUnit := z; clear hz) | (have hz : EccUnit := z; clear hz) | (have hz : PowerGov := z; clear hz) | (have hz : SliceRed := z; clear hz) | (have hz : MemChan := z; clear hz) | clear_value z | skip) | with_reducible assumption | (with_reducible apply Keeps.foldl; intro _ _ _) | with_reducible apply Keeps.ite | split | (with_reducible refine Keeps.upd ?_ rfl rfl rfl rfl rfl)

end Sys2Proof.Machine
end

