-- ==== Sys2Proof/Laws/KeepsPowerReset.lean ====
section
/-! SUPPORT. The operations of PowerReset keep what Laws/Keeps.lean states. -/
set_option linter.tactic.unusedName false
set_option linter.unusedVariables false
namespace Sys2Proof.Machine

/-- A device reset empties every store but the root key slots and leaves no slice active. -/
theorem clearDevice_keeps {ky : Bool} {sb : State} (s : State) (cause : Word) (h : Keeps ⟨false, false, false, false, ky⟩ sb s) :
    Keeps ⟨false, false, false, false, ky⟩ sb (clearDevice s cause) :=
  h.trans ⟨rfl, fun w => Memory.wf_iff.2 (by
      have hv : twf (fun _ => emptySlot) s.vkeep.slots = true := Memory.wf_slots w
      constructor <;> first | exact hv | rfl),
    fun _ k => (by cases k.1), (fun e => (by cases e)), (fun e => (by cases e)), (fun e => (by cases e)), (fun e => (by cases e)),
    fun _ _ n => KeyKept.same rfl n⟩

theorem coldReset_keeps {ky : Bool} {sb : State} (s : State) (cause : Word) (hk : Keeps ⟨false, false, false, false, ky⟩ sb s) :
    Keeps ⟨false, false, false, false, ky⟩ sb (coldReset s cause) := by
  unfold coldReset
  repeat' first | (extract_lets +onlyGivenNames z; first | (have hz : Keeps ⟨false, false, false, false, ky⟩ sb z := (by unfold z; with_reducible assumption); clear hz; subst z) | (have hz : Keeps ⟨false, false, false, false, ky⟩ sb z := (by unfold z; repeat' first | with_reducible assumption | with_reducible apply clearDevice_keeps | (with_reducible apply Keeps.foldl; intro _ _ _) | with_reducible apply Keeps.ite | split | (with_reducible refine Keeps.upd ?_ rfl rfl rfl rfl rfl) | (with_reducible refine Keeps.updClk ?_ rfl rfl rfl rfl)); clear_value z)  | (have hz : PowerUnit := z; clear hz) | (have hz : RedUnit := z; clear hz) | (have hz : PcieUnit := z; clear hz) | (have hz : VkeepUnit := z; clear hz) | (have hz : TimeUnit := z; clear hz) | (have hz : TickUnit := z; clear hz) | (have hz : QueueUnit := z; clear hz) | (have hz : PipeUnit := z; clear hz) | (have hz : SchedUnit := z; clear hz) | (have hz : CipUnit := z; clear hz) | (have hz : CrtUnit := z; clear hz) | (have hz : MbxUnit := z; clear hz) | (have hz : CusUnit := z; clear hz) | (have hz : EccUnit := z; clear hz) | (have hz : PowerGov := z; clear hz) | (have hz : SliceRed := z; clear hz) | (have hz : MemChan := z; clear hz) | clear_value z | skip) | with_reducible assumption | with_reducible apply clearDevice_keeps | (with_reducible apply Keeps.foldl; intro _ _ _) | with_reducible apply Keeps.ite | split | (with_reducible refine Keeps.upd ?_ rfl rfl rfl rfl rfl) | (with_reducible refine Keeps.updClk ?_ rfl rfl rfl rfl)

theorem beginBringup_keeps {kk : Kind} {sb : State} (s : State) (hk : Keeps kk sb s) :
    Keeps kk sb (beginBringup s) := by
  unfold beginBringup
  repeat' first | (extract_lets +onlyGivenNames z; first | (have hz : Keeps kk sb z := (by unfold z; with_reducible assumption); clear hz; subst z) | (have hz : Keeps kk sb z := (by unfold z; repeat' first | with_reducible assumption | (with_reducible apply Keeps.foldl; intro _ _ _) | with_reducible apply Keeps.ite | split | (with_reducible refine Keeps.upd ?_ rfl rfl rfl rfl rfl)); clear_value z)  | (have hz : PowerUnit := z; clear hz) | (have hz : RedUnit := z; clear hz) | (have hz : PcieUnit := z; clear hz) | (have hz : VkeepUnit := z; clear hz) | (have hz : TimeUnit := z; clear hz) | (have hz : TickUnit := z; clear hz) | (have hz : QueueUnit := z; clear hz) | (have hz : PipeUnit := z; clear hz) | (have hz : SchedUnit := z; clear hz) | (have hz : CipUnit := z; clear hz) | (have hz : CrtUnit := z; clear hz) | (have hz : MbxUnit := z; clear hz) | (have hz : CusUnit := z; clear hz) | (have hz : EccUnit := z; clear hz) | (have hz : PowerGov := z; clear hz) | (have hz : SliceRed := z; clear hz) | (have hz : MemChan := z; clear hz) | clear_value z | skip) | with_reducible assumption | (with_reducible apply Keeps.foldl; intro _ _ _) | with_reducible apply Keeps.ite | split | (with_reducible refine Keeps.upd ?_ rfl rfl rfl rfl rfl)

theorem execPowerOn_keeps {ky : Bool} {sb : State} (secs : Nat) (s : State) (hk : Keeps ⟨false, false, false, false, ky⟩ sb s) :
    KeepsO ⟨false, false, false, false, ky⟩ sb (execPowerOn secs s) := by
  unfold execPowerOn
  repeat' first | (extract_lets +onlyGivenNames z; first | (have hz : Keeps ⟨false, false, false, false, ky⟩ sb z := (by unfold z; with_reducible assumption); clear hz; subst z) | (have hz : Keeps ⟨false, false, false, false, ky⟩ sb z := (by unfold z; repeat' first | with_reducible apply KeepsO.next | with_reducible assumption | with_reducible apply coldReset_keeps | with_reducible apply vkeepRun_keeps | (with_reducible apply Keeps.foldl; intro _ _ _) | with_reducible apply Keeps.ite | with_reducible apply KeepsO.ite | split | (with_reducible refine Keeps.upd ?_ rfl rfl rfl rfl rfl) | (with_reducible refine Keeps.updClk ?_ rfl rfl rfl rfl)); clear_value z)  | (have hz : PowerUnit := z; clear hz) | (have hz : RedUnit := z; clear hz) | (have hz : PcieUnit := z; clear hz) | (have hz : VkeepUnit := z; clear hz) | (have hz : TimeUnit := z; clear hz) | (have hz : TickUnit := z; clear hz) | (have hz : QueueUnit := z; clear hz) | (have hz : PipeUnit := z; clear hz) | (have hz : SchedUnit := z; clear hz) | (have hz : CipUnit := z; clear hz) | (have hz : CrtUnit := z; clear hz) | (have hz : MbxUnit := z; clear hz) | (have hz : CusUnit := z; clear hz) | (have hz : EccUnit := z; clear hz) | (have hz : PowerGov := z; clear hz) | (have hz : SliceRed := z; clear hz) | (have hz : MemChan := z; clear hz) | clear_value z | skip) | with_reducible apply KeepsO.next | with_reducible assumption | with_reducible apply coldReset_keeps | with_reducible apply vkeepRun_keeps | (with_reducible apply Keeps.foldl; intro _ _ _) | with_reducible apply Keeps.ite | with_reducible apply KeepsO.ite | split | (with_reducible refine Keeps.upd ?_ rfl rfl rfl rfl rfl) | (with_reducible refine Keeps.updClk ?_ rfl rfl rfl rfl)

theorem execPerstAssert_keeps {ky : Bool} {sb : State} (s : State) (hk : Keeps ⟨false, false, false, false, ky⟩ sb s) :
    KeepsO ⟨false, false, false, false, ky⟩ sb (execPerstAssert s) := by
  unfold execPerstAssert
  repeat' first | (extract_lets +onlyGivenNames z; first | (have hz : Keeps ⟨false, false, false, false, ky⟩ sb z := (by unfold z; with_reducible assumption); clear hz; subst z) | (have hz : Keeps ⟨false, false, false, false, ky⟩ sb z := (by unfold z; repeat' first | with_reducible apply KeepsO.next | with_reducible assumption | with_reducible apply coldReset_keeps | (with_reducible apply Keeps.foldl; intro _ _ _) | with_reducible apply Keeps.ite | with_reducible apply KeepsO.ite | split | (with_reducible refine Keeps.upd ?_ rfl rfl rfl rfl rfl) | (with_reducible refine Keeps.updClk ?_ rfl rfl rfl rfl)); clear_value z)  | (have hz : PowerUnit := z; clear hz) | (have hz : RedUnit := z; clear hz) | (have hz : PcieUnit := z; clear hz) | (have hz : VkeepUnit := z; clear hz) | (have hz : TimeUnit := z; clear hz) | (have hz : TickUnit := z; clear hz) | (have hz : QueueUnit := z; clear hz) | (have hz : PipeUnit := z; clear hz) | (have hz : SchedUnit := z; clear hz) | (have hz : CipUnit := z; clear hz) | (have hz : CrtUnit := z; clear hz) | (have hz : MbxUnit := z; clear hz) | (have hz : CusUnit := z; clear hz) | (have hz : EccUnit := z; clear hz) | (have hz : PowerGov := z; clear hz) | (have hz : SliceRed := z; clear hz) | (have hz : MemChan := z; clear hz) | clear_value z | skip) | with_reducible apply KeepsO.next | with_reducible assumption | with_reducible apply coldReset_keeps | (with_reducible apply Keeps.foldl; intro _ _ _) | with_reducible apply Keeps.ite | with_reducible apply KeepsO.ite | split | (with_reducible refine Keeps.upd ?_ rfl rfl rfl rfl rfl) | (with_reducible refine Keeps.updClk ?_ rfl rfl rfl rfl)

theorem execPerstDeassert_keeps {kk : Kind} {sb : State} (s : State) (hk : Keeps kk sb s) :
    KeepsO kk sb (execPerstDeassert s) := by
  unfold execPerstDeassert
  repeat' first | (extract_lets +onlyGivenNames z; first | (have hz : Keeps kk sb z := (by unfold z; with_reducible assumption); clear hz; subst z) | (have hz : Keeps kk sb z := (by unfold z; repeat' first | with_reducible apply KeepsO.next | with_reducible assumption | with_reducible apply beginBringup_keeps | (with_reducible apply Keeps.foldl; intro _ _ _) | with_reducible apply Keeps.ite | with_reducible apply KeepsO.ite | split | (with_reducible refine Keeps.upd ?_ rfl rfl rfl rfl rfl)); clear_value z)  | (have hz : PowerUnit := z; clear hz) | (have hz : RedUnit := z; clear hz) | (have hz : PcieUnit := z; clear hz) | (have hz : VkeepUnit := z; clear hz) | (have hz : TimeUnit := z; clear hz) | (have hz : TickUnit := z; clear hz) | (have hz : QueueUnit := z; clear hz) | (have hz : PipeUnit := z; clear hz) | (have hz : SchedUnit := z; clear hz) | (have hz : CipUnit := z; clear hz) | (have hz : CrtUnit := z; clear hz) | (have hz : MbxUnit := z; clear hz) | (have hz : CusUnit := z; clear hz) | (have hz : EccUnit := z; clear hz) | (have hz : PowerGov := z; clear hz) | (have hz : SliceRed := z; clear hz) | (have hz : MemChan := z; clear hz) | clear_value z | skip) | with_reducible apply KeepsO.next | with_reducible assumption | with_reducible apply beginBringup_keeps | (with_reducible apply Keeps.foldl; intro _ _ _) | with_reducible apply Keeps.ite | with_reducible apply KeepsO.ite | split | (with_reducible refine Keeps.upd ?_ rfl rfl rfl rfl rfl)

theorem execPowerOnMonitorRelease_keeps {kk : Kind} {sb : State} (s : State) (hk : Keeps kk sb s) :
    KeepsO kk sb (execPowerOnMonitorRelease s) := by
  unfold execPowerOnMonitorRelease
  repeat' first | (extract_lets +onlyGivenNames z; first | (have hz : Keeps kk sb z := (by unfold z; with_reducible assumption); clear hz; subst z) | (have hz : Keeps kk sb z := (by unfold z; repeat' first | with_reducible apply KeepsO.next | with_reducible assumption | with_reducible apply beginBringup_keeps | (with_reducible apply Keeps.foldl; intro _ _ _) | with_reducible apply Keeps.ite | with_reducible apply KeepsO.ite | split | (with_reducible refine Keeps.upd ?_ rfl rfl rfl rfl rfl)); clear_value z)  | (have hz : PowerUnit := z; clear hz) | (have hz : RedUnit := z; clear hz) | (have hz : PcieUnit := z; clear hz) | (have hz : VkeepUnit := z; clear hz) | (have hz : TimeUnit := z; clear hz) | (have hz : TickUnit := z; clear hz) | (have hz : QueueUnit := z; clear hz) | (have hz : PipeUnit := z; clear hz) | (have hz : SchedUnit := z; clear hz) | (have hz : CipUnit := z; clear hz) | (have hz : CrtUnit := z; clear hz) | (have hz : MbxUnit := z; clear hz) | (have hz : CusUnit := z; clear hz) | (have hz : EccUnit := z; clear hz) | (have hz : PowerGov := z; clear hz) | (have hz : SliceRed := z; clear hz) | (have hz : MemChan := z; clear hz) | clear_value z | skip) | with_reducible apply KeepsO.next | with_reducible assumption | with_reducible apply beginBringup_keeps | (with_reducible apply Keeps.foldl; intro _ _ _) | with_reducible apply Keeps.ite | with_reducible apply KeepsO.ite | split | (with_reducible refine Keeps.upd ?_ rfl rfl rfl rfl rfl)

theorem execCoreRailGlitch_keeps {kk : Kind} {sb : State} (s : State) (hk : Keeps kk sb s) :
    KeepsO kk sb (execCoreRailGlitch s) := by
  unfold execCoreRailGlitch
  repeat' first | with_reducible apply KeepsO.next | with_reducible assumption | with_reducible apply raise_keeps | (with_reducible apply Keeps.foldl; intro _ _ _) | with_reducible apply Keeps.ite | with_reducible apply KeepsO.ite | split | (with_reducible refine Keeps.upd ?_ rfl rfl rfl rfl rfl)

theorem execCoreRailLoss_keeps {ky : Bool} {sb : State} (s : State) (hk : Keeps ⟨false, false, false, false, ky⟩ sb s) :
    KeepsO ⟨false, false, false, false, ky⟩ sb (execCoreRailLoss s) := by
  unfold execCoreRailLoss
  repeat' first | (extract_lets +onlyGivenNames z; first | (have hz : Keeps ⟨false, false, false, false, ky⟩ sb z := (by unfold z; with_reducible assumption); clear hz; subst z) | (have hz : Keeps ⟨false, false, false, false, ky⟩ sb z := (by unfold z; repeat' first | with_reducible apply KeepsO.next | with_reducible assumption | with_reducible apply coldReset_keeps | (with_reducible apply Keeps.foldl; intro _ _ _) | with_reducible apply Keeps.ite | with_reducible apply KeepsO.ite | split | (with_reducible refine Keeps.upd ?_ rfl rfl rfl rfl rfl) | (with_reducible refine Keeps.updClk ?_ rfl rfl rfl rfl)); clear_value z)  | (have hz : PowerUnit := z; clear hz) | (have hz : RedUnit := z; clear hz) | (have hz : PcieUnit := z; clear hz) | (have hz : VkeepUnit := z; clear hz) | (have hz : TimeUnit := z; clear hz) | (have hz : TickUnit := z; clear hz) | (have hz : QueueUnit := z; clear hz) | (have hz : PipeUnit := z; clear hz) | (have hz : SchedUnit := z; clear hz) | (have hz : CipUnit := z; clear hz) | (have hz : CrtUnit := z; clear hz) | (have hz : MbxUnit := z; clear hz) | (have hz : CusUnit := z; clear hz) | (have hz : EccUnit := z; clear hz) | (have hz : PowerGov := z; clear hz) | (have hz : SliceRed := z; clear hz) | (have hz : MemChan := z; clear hz) | clear_value z | skip) | with_reducible apply KeepsO.next | with_reducible assumption | with_reducible apply coldReset_keeps | (with_reducible apply Keeps.foldl; intro _ _ _) | with_reducible apply Keeps.ite | with_reducible apply KeepsO.ite | split | (with_reducible refine Keeps.upd ?_ rfl rfl rfl rfl rfl) | (with_reducible refine Keeps.updClk ?_ rfl rfl rfl rfl)

theorem execSysclkLoss_keeps {ky : Bool} {sb : State} (s : State) (hk : Keeps ⟨false, false, false, false, ky⟩ sb s) :
    KeepsO ⟨false, false, false, false, ky⟩ sb (execSysclkLoss s) := by
  unfold execSysclkLoss
  repeat' first | (extract_lets +onlyGivenNames z; first | (have hz : Keeps ⟨false, false, false, false, ky⟩ sb z := (by unfold z; with_reducible assumption); clear hz; subst z) | (have hz : Keeps ⟨false, false, false, false, ky⟩ sb z := (by unfold z; repeat' first | with_reducible apply KeepsO.next | with_reducible assumption | with_reducible apply coldReset_keeps | with_reducible apply raise_keeps | (with_reducible apply Keeps.foldl; intro _ _ _) | with_reducible apply Keeps.ite | with_reducible apply KeepsO.ite | split | (with_reducible refine Keeps.upd ?_ rfl rfl rfl rfl rfl) | (with_reducible refine Keeps.updClk ?_ rfl rfl rfl rfl)); clear_value z)  | (have hz : PowerUnit := z; clear hz) | (have hz : RedUnit := z; clear hz) | (have hz : PcieUnit := z; clear hz) | (have hz : VkeepUnit := z; clear hz) | (have hz : TimeUnit := z; clear hz) | (have hz : TickUnit := z; clear hz) | (have hz : QueueUnit := z; clear hz) | (have hz : PipeUnit := z; clear hz) | (have hz : SchedUnit := z; clear hz) | (have hz : CipUnit := z; clear hz) | (have hz : CrtUnit := z; clear hz) | (have hz : MbxUnit := z; clear hz) | (have hz : CusUnit := z; clear hz) | (have hz : EccUnit := z; clear hz) | (have hz : PowerGov := z; clear hz) | (have hz : SliceRed := z; clear hz) | (have hz : MemChan := z; clear hz) | clear_value z | skip) | with_reducible apply KeepsO.next | with_reducible assumption | with_reducible apply coldReset_keeps | with_reducible apply raise_keeps | (with_reducible apply Keeps.foldl; intro _ _ _) | with_reducible apply Keeps.ite | with_reducible apply KeepsO.ite | split | (with_reducible refine Keeps.upd ?_ rfl rfl rfl rfl rfl) | (with_reducible refine Keeps.updClk ?_ rfl rfl rfl rfl)

theorem bistStage_keeps {kk : Kind} {sb : State} (s : State) (stage : Nat) (failed : List Byte) (hk : Keeps kk sb s) :
    Keeps kk sb (bistStage s stage failed) := by
  unfold bistStage
  repeat' first | (extract_lets +onlyGivenNames z; first | (have hz : Keeps kk sb z := (by unfold z; with_reducible assumption); clear hz; subst z) | (have hz : Keeps kk sb z := (by unfold z; repeat' first | with_reducible assumption | (with_reducible apply Keeps.foldl; intro _ _ _) | with_reducible apply Keeps.ite | split | (with_reducible refine Keeps.upd ?_ rfl rfl rfl rfl rfl)); clear_value z)  | (have hz : PowerUnit := z; clear hz) | (have hz : RedUnit := z; clear hz) | (have hz : PcieUnit := z; clear hz) | (have hz : VkeepUnit := z; clear hz) | (have hz : TimeUnit := z; clear hz) | (have hz : TickUnit := z; clear hz) | (have hz : QueueUnit := z; clear hz) | (have hz : PipeUnit := z; clear hz) | (have hz : SchedUnit := z; clear hz) | (have hz : CipUnit := z; clear hz) | (have hz : CrtUnit := z; clear hz) | (have hz : MbxUnit := z; clear hz) | (have hz : CusUnit := z; clear hz) | (have hz : EccUnit := z; clear hz) | (have hz : PowerGov := z; clear hz) | (have hz : SliceRed := z; clear hz) | (have hz : MemChan := z; clear hz) | clear_value z | skip) | with_reducible assumption | (with_reducible apply Keeps.foldl; intro _ _ _) | with_reducible apply Keeps.ite | split | (with_reducible refine Keeps.upd ?_ rfl rfl rfl rfl rfl)

theorem assignRoles_keeps {kk : Kind} {sb : State} (s : State) (h : Keeps kk sb s) :
    Keeps kk sb (assignRoles s) := by
  unfold assignRoles
  have h1 : ∀ r : RedUnit, ¬(r.ochre.role = .active ∧ r.slate.role = .active) → Keeps kk sb { s with red := r } :=
    fun r hr => h.trans ⟨rfl, id, fun _ => hr, fun _ => id, fun _ => rfl, fun _ => rfl, fun _ => rfl, fun _ _ n => KeyKept.same rfl n⟩
  refine Keeps.ite (h1 _ ?_) (amber_keeps _ _ (setErr_keeps _ _ _ (h1 _ ?_))) <;>
  · dsimp only
    rintro ⟨a, b⟩
    cases ho : s.power.ochreOk <;> cases hl : s.power.slateOk <;> simp [ho, hl, SliceRed.fresh] at a b

theorem endBringup_keeps {kc ke ky : Bool} {sb : State} (s : State) (hk : Keeps ⟨false, false, kc, ke, ky⟩ sb s) :
    Keeps ⟨false, false, kc, ke, ky⟩ sb (endBringup s) := by
  unfold endBringup
  repeat' first | (extract_lets +onlyGivenNames z; first | (have hz : Keeps ⟨false, false, kc, ke, ky⟩ sb z := (by unfold z; with_reducible assumption); clear hz; subst z) | (have hz : Keeps ⟨false, false, kc, ke, ky⟩ sb z := (by unfold z; repeat' first | with_reducible assumption | with_reducible apply needReset_keeps | with_reducible apply logAlarm_keeps | with_reducible apply setErr_keeps | (with_reducible apply Keeps.foldl; intro _ _ _) | with_reducible apply Keeps.ite | split | (with_reducible refine Keeps.upd ?_ rfl rfl rfl rfl rfl) | (with_reducible refine Keeps.updReset ?_ rfl rfl rfl rfl)); clear_value z)  | (have hz : Keeps ⟨false, false, kc, ke, ky⟩ sb z.1 := (by unfold z; repeat' first | with_reducible assumption | with_reducible apply needReset_keeps | with_reducible apply logAlarm_keeps | with_reducible apply setErr_keeps | (with_reducible apply Keeps.foldl; intro _ _ _) | with_reducible apply Keeps.ite | split | (with_reducible refine Keeps.upd ?_ rfl rfl rfl rfl rfl) | (with_reducible refine Keeps.updReset ?_ rfl rfl rfl rfl)); clear_value z) | (have hz : Keeps ⟨false, false, kc, ke, ky⟩ sb z.st := (by unfold z; repeat' first | with_reducible assumption | with_reducible apply needReset_keeps | with_reducible apply logAlarm_keeps | with_reducible apply setErr_keeps | (with_reducible apply Keeps.foldl; intro _ _ _) | with_reducible apply Keeps.ite | split | (with_reducible refine Keeps.upd ?_ rfl rfl rfl rfl rfl) | (with_reducible refine Keeps.updReset ?_ rfl rfl rfl rfl)); clear_value z) | (have hz : PowerUnit := z; clear hz) | (have hz : RedUnit := z; clear hz) | (have hz : PcieUnit := z; clear hz) | (have hz : VkeepUnit := z; clear hz) | (have hz : TimeUnit := z; clear hz) | (have hz : TickUnit := z; clear hz) | (have hz : QueueUnit := z; clear hz) | (have hz : PipeUnit := z; clear hz) | (have hz : SchedUnit := z; clear hz) | (have hz : CipUnit := z; clear hz) | (have hz : CrtUnit := z; clear hz) | (have hz : MbxUnit := z; clear hz) | (have hz : CusUnit := z; clear hz) | (have hz : EccUnit := z; clear hz) | (have hz : PowerGov := z; clear hz) | (have hz : SliceRed := z; clear hz) | (have hz : MemChan := z; clear hz) | clear_value z | skip) | with_reducible assumption | with_reducible apply needReset_keeps | with_reducible apply logAlarm_keeps | with_reducible apply setErr_keeps | (with_reducible apply Keeps.foldl; intro _ _ _) | with_reducible apply Keeps.ite | split | (with_reducible refine Keeps.upd ?_ rfl rfl rfl rfl rfl) | (with_reducible refine Keeps.updReset ?_ rfl rfl rfl rfl)

theorem execBringupStageEnd_keeps {kc ke ky : Bool} {sb : State} (us : Nat) (failed : List Byte) (s : State) (hk : Keeps ⟨false, false, kc, ke, ky⟩ sb s) :
    KeepsO ⟨false, false, kc, ke, ky⟩ sb (execBringupStageEnd us failed s) := by
  unfold execBringupStageEnd
  repeat' first | (extract_lets +onlyGivenNames z; first | (have hz : Keeps ⟨false, false, kc, ke, ky⟩ sb z := (by unfold z; with_reducible assumption); clear hz; subst z) | (have hz : Keeps ⟨false, false, kc, ke, ky⟩ sb z := (by unfold z; repeat' first | with_reducible apply KeepsO.next | with_reducible assumption | with_reducible apply endBringup_keeps | with_reducible apply assignRoles_keeps | with_reducible apply bistStage_keeps | (with_reducible apply Keeps.foldl; intro _ _ _) | with_reducible apply Keeps.ite | with_reducible apply KeepsO.ite | split | (with_reducible refine Keeps.upd ?_ rfl rfl rfl rfl rfl)); clear_value z)  | (have hz : PowerUnit := z; clear hz) | (have hz : RedUnit := z; clear hz) | (have hz : PcieUnit := z; clear hz) | (have hz : VkeepUnit := z; clear hz) | (have hz : TimeUnit := z; clear hz) | (have hz : TickUnit := z; clear hz) | (have hz : QueueUnit := z; clear hz) | (have hz : PipeUnit := z; clear hz) | (have hz : SchedUnit := z; clear hz) | (have hz : CipUnit := z; clear hz) | (have hz : CrtUnit := z; clear hz) | (have hz : MbxUnit := z; clear hz) | (have hz : CusUnit := z; clear hz) | (have hz : EccUnit := z; clear hz) | (have hz : PowerGov := z; clear hz) | (have hz : SliceRed := z; clear hz) | (have hz : MemChan := z; clear hz) | clear_value z | skip) | with_reducible apply KeepsO.next | with_reducible assumption | with_reducible apply endBringup_keeps | with_reducible apply assignRoles_keeps | with_reducible apply bistStage_keeps | (with_reducible apply Keeps.foldl; intro _ _ _) | with_reducible apply Keeps.ite | with_reducible apply KeepsO.ite | split | (with_reducible refine Keeps.upd ?_ rfl rfl rfl rfl rfl)

theorem execInternalResetRelease_keeps {kk : Kind} {sb : State} (s : State) (hk : Keeps kk sb s) :
    KeepsO kk sb (execInternalResetRelease s) := by
  unfold execInternalResetRelease
  repeat' first | (extract_lets +onlyGivenNames z; first | (have hz : Keeps kk sb z := (by unfold z; with_reducible assumption); clear hz; subst z) | (have hz : Keeps kk sb z := (by unfold z; repeat' first | with_reducible apply KeepsO.next | with_reducible assumption | with_reducible apply beginBringup_keeps | (with_reducible apply Keeps.foldl; intro _ _ _) | with_reducible apply Keeps.ite | with_reducible apply KeepsO.ite | split | (with_reducible refine Keeps.upd ?_ rfl rfl rfl rfl rfl)); clear_value z)  | (have hz : PowerUnit := z; clear hz) | (have hz : RedUnit := z; clear hz) | (have hz : PcieUnit := z; clear hz) | (have hz : VkeepUnit := z; clear hz) | (have hz : TimeUnit := z; clear hz) | (have hz : TickUnit := z; clear hz) | (have hz : QueueUnit := z; clear hz) | (have hz : PipeUnit := z; clear hz) | (have hz : SchedUnit := z; clear hz) | (have hz : CipUnit := z; clear hz) | (have hz : CrtUnit := z; clear hz) | (have hz : MbxUnit := z; clear hz) | (have hz : CusUnit := z; clear hz) | (have hz : EccUnit := z; clear hz) | (have hz : PowerGov := z; clear hz) | (have hz : SliceRed := z; clear hz) | (have hz : MemChan := z; clear hz) | clear_value z | skip) | with_reducible apply KeepsO.next | with_reducible assumption | with_reducible apply beginBringup_keeps | (with_reducible apply Keeps.foldl; intro _ _ _) | with_reducible apply Keeps.ite | with_reducible apply KeepsO.ite | split | (with_reducible refine Keeps.upd ?_ rfl rfl rfl rfl rfl)

theorem execVkeepFirstApply_keeps {kk : Kind} {sb : State} (s : State) (hk : Keeps kk sb s) :
    KeepsO kk sb (execVkeepFirstApply s) := by
  unfold execVkeepFirstApply
  exact KeepsO.next (Keeps.ite hk (Keeps.noKeys _ rfl hk))

theorem execVkeepLoss_keeps {kk : Kind} {sb : State} (s : State) (hk : Keeps kk sb s) :
    KeepsO kk sb (execVkeepLoss s) := by
  unfold execVkeepLoss
  exact KeepsO.next (Keeps.noKeys _ rfl hk)

end Sys2Proof.Machine
end

