-- ==== Sys2Proof/Laws/KeepsMemory.lean ====
section
/-! SUPPORT. The operations of Memory keep what Laws/Keeps.lean states. -/
set_option linter.tactic.unusedName false
set_option linter.unusedVariables false
namespace Sys2Proof.Machine

theorem putLog_keeps {kk : Kind} {sb : State} (s : State) (k : Nat) (e : Option EccEntry) (hk : Keeps kk sb s) :
    Keeps kk sb (putLog s k e) := by
  unfold putLog
  exact hk.store (fun w : Memory.Parts s => { w with ecclog := twf_tset _ _ _ _ w.ecclog }) rfl rfl rfl rfl rfl rfl rfl

theorem logEcc_keeps {kk : Kind} {sb : State} (s : State) (ue checkOnly : Bool) (memory inst address position synd : Nat) (hk : Keeps kk sb s) :
    Keeps kk sb (logEcc s ue checkOnly memory inst address position synd) := by
  unfold logEcc
  repeat' first | (extract_lets +onlyGivenNames z; first | (have hz : Keeps kk sb z := (by unfold z; with_reducible assumption); clear hz; subst z) | (have hz : Keeps kk sb z := (by unfold z; repeat' first | with_reducible assumption | with_reducible apply bump_keeps | with_reducible apply setErr_keeps | with_reducible apply putLog_keeps | (with_reducible apply Keeps.foldl; intro _ _ _) | with_reducible apply_assumption | with_reducible apply Keeps.ite | split | (with_reducible refine Keeps.upd ?_ rfl rfl rfl rfl rfl)); clear_value z)  | (have hz : Keeps kk sb z.1 := (by unfold z; repeat' first | with_reducible assumption | with_reducible apply bump_keeps | with_reducible apply setErr_keeps | with_reducible apply putLog_keeps | (with_reducible apply Keeps.foldl; intro _ _ _) | with_reducible apply Keeps.ite | split | (with_reducible refine Keeps.upd ?_ rfl rfl rfl rfl rfl)); clear_value z) | (have hz : Keeps kk sb z.st := (by unfold z; repeat' first | with_reducible assumption | with_reducible apply bump_keeps | with_reducible apply setErr_keeps | with_reducible apply putLog_keeps | (with_reducible apply Keeps.foldl; intro _ _ _) | with_reducible apply Keeps.ite | split | (with_reducible refine Keeps.upd ?_ rfl rfl rfl rfl rfl)); clear_value z) | (have hz : ∀ (v0 : Nat), Keeps kk sb (z v0) := (by intro v0 ; unfold z; repeat' first | with_reducible assumption | with_reducible apply bump_keeps | with_reducible apply setErr_keeps | with_reducible apply putLog_keeps | (with_reducible apply Keeps.foldl; intro _ _ _) | with_reducible apply Keeps.ite | split | (with_reducible refine Keeps.upd ?_ rfl rfl rfl rfl rfl)); clear_value z) | (have hz : PowerUnit := z; clear hz) | (have hz : RedUnit := z; clear hz) | (have hz : PcieUnit := z; clear hz) | (have hz : VkeepUnit := z; clear hz) | (have hz : TimeUnit := z; clear hz) | (have hz : TickUnit := z; clear hz) | (have hz : QueueUnit := z; clear hz) | (have hz : PipeUnit := z; clear hz) | (have hz : SchedUnit := z; clear hz) | (have hz : CipUnit := z; clear hz) | (have hz : CrtUnit := z; clear hz) | (have hz : MbxUnit := z; clear hz) | (have hz : CusUnit := z; clear hz) | (have hz : EccUnit := z; clear hz) | (have hz : PowerGov := z; clear hz) | (have hz : SliceRed := z; clear hz) | (have hz : MemChan := z; clear hz) | clear_value z | skip) | with_reducible assumption | with_reducible apply bump_keeps | with_reducible apply setErr_keeps | with_reducible apply putLog_keeps | (with_reducible apply Keeps.foldl; intro _ _ _) | with_reducible apply_assumption | with_reducible apply Keeps.ite | split | (with_reducible refine Keeps.upd ?_ rfl rfl rfl rfl rfl)

theorem reportCe_keeps {kk : Kind} {sb : State} (s : State) (checkOnly : Bool) (memory inst address position synd : Nat) (hk : Keeps kk sb s) :
    Keeps kk sb (reportCe s checkOnly memory inst address position synd) := by
  unfold reportCe
  repeat' first | (extract_lets +onlyGivenNames z; first | (have hz : Keeps kk sb z := (by unfold z; with_reducible assumption); clear hz; subst z) | (have hz : Keeps kk sb z := (by unfold z; repeat' first | with_reducible assumption | with_reducible apply signal_keeps | with_reducible apply logEcc_keeps | with_reducible apply bump_keeps | with_reducible apply setErr_keeps | (with_reducible apply Keeps.foldl; intro _ _ _) | with_reducible apply Keeps.ite | split | (with_reducible refine Keeps.upd ?_ rfl rfl rfl rfl rfl)); clear_value z)  | (have hz : PowerUnit := z; clear hz) | (have hz : RedUnit := z; clear hz) | (have hz : PcieUnit := z; clear hz) | (have hz : VkeepUnit := z; clear hz) | (have hz : TimeUnit := z; clear hz) | (have hz : TickUnit := z; clear hz) | (have hz : QueueUnit := z; clear hz) | (have hz : PipeUnit := z; clear hz) | (have hz : SchedUnit := z; clear hz) | (have hz : CipUnit := z; clear hz) | (have hz : CrtUnit := z; clear hz) | (have hz : MbxUnit := z; clear hz) | (have hz : CusUnit := z; clear hz) | (have hz : EccUnit := z; clear hz) | (have hz : PowerGov := z; clear hz) | (have hz : SliceRed := z; clear hz) | (have hz : MemChan := z; clear hz) | clear_value z | skip) | with_reducible assumption | with_reducible apply signal_keeps | with_reducible apply logEcc_keeps | with_reducible apply bump_keeps | with_reducible apply setErr_keeps | (with_reducible apply Keeps.foldl; intro _ _ _) | with_reducible apply Keeps.ite | split | (with_reducible refine Keeps.upd ?_ rfl rfl rfl rfl rfl)

theorem reportUe_keeps {kk : Kind} {sb : State} (s : State) (memory inst address position synd : Nat) (hk : Keeps kk sb s) :
    Keeps kk sb (reportUe s memory inst address position synd) := by
  unfold reportUe
  repeat' first | (extract_lets +onlyGivenNames z; first | (have hz : Keeps kk sb z := (by unfold z; with_reducible assumption); clear hz; subst z) | (have hz : Keeps kk sb z := (by unfold z; repeat' first | with_reducible assumption | with_reducible apply signal_keeps | with_reducible apply logEcc_keeps | with_reducible apply bump_keeps | (with_reducible apply Keeps.foldl; intro _ _ _) | with_reducible apply Keeps.ite | split | (with_reducible refine Keeps.upd ?_ rfl rfl rfl rfl rfl)); clear_value z)  | (have hz : PowerUnit := z; clear hz) | (have hz : RedUnit := z; clear hz) | (have hz : PcieUnit := z; clear hz) | (have hz : VkeepUnit := z; clear hz) | (have hz : TimeUnit := z; clear hz) | (have hz : TickUnit := z; clear hz) | (have hz : QueueUnit := z; clear hz) | (have hz : PipeUnit := z; clear hz) | (have hz : SchedUnit := z; clear hz) | (have hz : CipUnit := z; clear hz) | (have hz : CrtUnit := z; clear hz) | (have hz : MbxUnit := z; clear hz) | (have hz : CusUnit := z; clear hz) | (have hz : EccUnit := z; clear hz) | (have hz : PowerGov := z; clear hz) | (have hz : SliceRed := z; clear hz) | (have hz : MemChan := z; clear hz) | clear_value z | skip) | with_reducible assumption | with_reducible apply signal_keeps | with_reducible apply logEcc_keeps | with_reducible apply bump_keeps | (with_reducible apply Keeps.foldl; intro _ _ _) | with_reducible apply Keeps.ite | split | (with_reducible refine Keeps.upd ?_ rfl rfl rfl rfl rfl)

theorem memBurst_keeps {kk : Kind} {sb : State} (s : State) (n k : Nat) (hk : Keeps kk sb s) :
    Keeps kk sb (memBurst s n k) := by
  unfold memBurst
  repeat' first | with_reducible assumption | with_reducible apply useCredits_keeps | with_reducible apply signal_keeps | (with_reducible apply Keeps.foldl; intro _ _ _) | with_reducible apply Keeps.ite | split | (with_reducible refine Keeps.upd ?_ rfl rfl rfl rfl rfl)

theorem storeRaw_keeps {kk : Kind} {sb : State} (s : State) (n blk : Nat) (raw : List Byte) (hk : Keeps kk sb s) :
    Keeps kk sb (storeRaw s n blk raw) := by
  unfold storeRaw
  repeat' first | (extract_lets +onlyGivenNames z; first | (have hz : Keeps kk sb z := (by unfold z; with_reducible assumption); clear hz; subst z) | (have hz : Keeps kk sb z := (by unfold z; repeat' first | with_reducible assumption | with_reducible apply setErr_keeps | with_reducible apply wrWide_keeps | with_reducible apply wr_keeps | with_reducible apply putChan_keeps | (intro _ w; first | exact getChan_wf _ _ w | exact twf_tset _ _ _ _ (getChan_wf _ _ w) | exact twf_tdrop _ _ _ (getChan_wf _ _ w)) | (with_reducible apply Keeps.foldl; intro _ _ _) | with_reducible apply_assumption | with_reducible apply Keeps.ite | split | (with_reducible refine Keeps.upd ?_ rfl rfl rfl rfl rfl)); clear_value z)  | (have hz : ∀ (v0 : State) (v1 : List Byte), Keeps kk sb v0 → Keeps kk sb (z v0 v1) := (by intro v0 v1 hv0; unfold z; repeat' first | with_reducible assumption | with_reducible apply setErr_keeps | with_reducible apply wrWide_keeps | with_reducible apply wr_keeps | with_reducible apply putChan_keeps | (intro _ w; first | exact getChan_wf _ _ w | exact twf_tset _ _ _ _ (getChan_wf _ _ w) | exact twf_tdrop _ _ _ (getChan_wf _ _ w)) | (with_reducible apply Keeps.foldl; intro _ _ _) | with_reducible apply Keeps.ite | split | (with_reducible refine Keeps.upd ?_ rfl rfl rfl rfl rfl)); clear_value z) | (have hz : PowerUnit := z; clear hz) | (have hz : RedUnit := z; clear hz) | (have hz : PcieUnit := z; clear hz) | (have hz : VkeepUnit := z; clear hz) | (have hz : TimeUnit := z; clear hz) | (have hz : TickUnit := z; clear hz) | (have hz : QueueUnit := z; clear hz) | (have hz : PipeUnit := z; clear hz) | (have hz : SchedUnit := z; clear hz) | (have hz : CipUnit := z; clear hz) | (have hz : CrtUnit := z; clear hz) | (have hz : MbxUnit := z; clear hz) | (have hz : CusUnit := z; clear hz) | (have hz : EccUnit := z; clear hz) | (have hz : PowerGov := z; clear hz) | (have hz : SliceRed := z; clear hz) | (have hz : MemChan := z; clear hz) | clear_value z | skip) | with_reducible assumption | with_reducible apply setErr_keeps | with_reducible apply wrWide_keeps | with_reducible apply wr_keeps | with_reducible apply putChan_keeps | (intro _ w; first | exact getChan_wf _ _ w | exact twf_tset _ _ _ _ (getChan_wf _ _ w) | exact twf_tdrop _ _ _ (getChan_wf _ _ w)) | (with_reducible apply Keeps.foldl; intro _ _ _) | with_reducible apply_assumption | with_reducible apply Keeps.ite | split | (with_reducible refine Keeps.upd ?_ rfl rfl rfl rfl rfl)

theorem reportRead_keeps {kk : Kind} {sb : State} (s : State) (n blk : Nat) (r : DramRead) (hk : Keeps kk sb s) :
    Keeps kk sb (reportRead s n blk r) := by
  unfold reportRead
  repeat' first | (extract_lets +onlyGivenNames z; first | (have hz : Keeps kk sb z := (by unfold z; with_reducible assumption); clear hz; subst z) | (have hz : Keeps kk sb z := (by unfold z; repeat' first | with_reducible assumption | with_reducible apply reportCe_keeps | with_reducible apply reportUe_keeps | with_reducible apply storeRaw_keeps | with_reducible apply signal_keeps | with_reducible apply bump_keeps | with_reducible apply setErr_keeps | (with_reducible apply Keeps.foldl; intro _ _ _) | with_reducible apply Keeps.ite | split | (with_reducible refine Keeps.upd ?_ rfl rfl rfl rfl rfl)); clear_value z)  | (have hz : PowerUnit := z; clear hz) | (have hz : RedUnit := z; clear hz) | (have hz : PcieUnit := z; clear hz) | (have hz : VkeepUnit := z; clear hz) | (have hz : TimeUnit := z; clear hz) | (have hz : TickUnit := z; clear hz) | (have hz : QueueUnit := z; clear hz) | (have hz : PipeUnit := z; clear hz) | (have hz : SchedUnit := z; clear hz) | (have hz : CipUnit := z; clear hz) | (have hz : CrtUnit := z; clear hz) | (have hz : MbxUnit := z; clear hz) | (have hz : CusUnit := z; clear hz) | (have hz : EccUnit := z; clear hz) | (have hz : PowerGov := z; clear hz) | (have hz : SliceRed := z; clear hz) | (have hz : MemChan := z; clear hz) | clear_value z | skip) | with_reducible assumption | with_reducible apply reportCe_keeps | with_reducible apply reportUe_keeps | with_reducible apply storeRaw_keeps | with_reducible apply signal_keeps | with_reducible apply bump_keeps | with_reducible apply setErr_keeps | (with_reducible apply Keeps.foldl; intro _ _ _) | with_reducible apply Keeps.ite | split | (with_reducible refine Keeps.upd ?_ rfl rfl rfl rfl rfl)

theorem retiredHit_keeps {kk : Kind} {sb : State} (s : State) (n : Nat) (hk : Keeps kk sb s) :
    Keeps kk sb (retiredHit s n) := by
  unfold retiredHit
  repeat' first | with_reducible assumption | with_reducible apply bump_keeps | with_reducible apply setErr_keeps | (with_reducible apply Keeps.foldl; intro _ _ _) | with_reducible apply Keeps.ite | split | (with_reducible refine Keeps.upd ?_ rfl rfl rfl rfl rfl)

theorem readBlock_keeps {kk : Kind} {sb : State} (s : State) (n blk k : Nat) (hk : Keeps kk sb s) :
    Keeps kk sb (readBlock s n blk k).1 := by
  unfold readBlock
  repeat' first | (extract_lets +onlyGivenNames z; first | (have hz : Keeps kk sb z := (by unfold z; with_reducible assumption); clear hz; subst z) | (have hz : Keeps kk sb z := (by unfold z; repeat' first | with_reducible assumption | with_reducible apply reportRead_keeps | with_reducible apply tickFree_keeps | with_reducible apply retiredHit_keeps | with_reducible apply memBurst_keeps | (with_reducible apply Keeps.foldl; intro _ _ _) | with_reducible apply Keeps.ite | split | (with_reducible refine Keeps.upd ?_ rfl rfl rfl rfl rfl)); clear_value z)  | (have hz : PowerUnit := z; clear hz) | (have hz : RedUnit := z; clear hz) | (have hz : PcieUnit := z; clear hz) | (have hz : VkeepUnit := z; clear hz) | (have hz : TimeUnit := z; clear hz) | (have hz : TickUnit := z; clear hz) | (have hz : QueueUnit := z; clear hz) | (have hz : PipeUnit := z; clear hz) | (have hz : SchedUnit := z; clear hz) | (have hz : CipUnit := z; clear hz) | (have hz : CrtUnit := z; clear hz) | (have hz : MbxUnit := z; clear hz) | (have hz : CusUnit := z; clear hz) | (have hz : EccUnit := z; clear hz) | (have hz : PowerGov := z; clear hz) | (have hz : SliceRed := z; clear hz) | (have hz : MemChan := z; clear hz) | clear_value z | skip) | with_reducible assumption | with_reducible apply reportRead_keeps | with_reducible apply tickFree_keeps | with_reducible apply retiredHit_keeps | with_reducible apply memBurst_keeps | (with_reducible apply Keeps.foldl; intro _ _ _) | with_reducible apply Keeps.ite | split | (with_reducible refine Keeps.upd ?_ rfl rfl rfl rfl rfl)

theorem writeBlock_keeps {kk : Kind} {sb : State} (s : State) (n blk : Nat) (new : List (Option Byte)) (poison : Bool) (k : Nat) (hk : Keeps kk sb s) :
    Keeps kk sb (writeBlock s n blk new poison k) := by
  unfold writeBlock
  repeat' first | (extract_lets +onlyGivenNames z; first | (have hz : Keeps kk sb z := (by unfold z; with_reducible assumption); clear hz; subst z) | (have hz : Keeps kk sb z := (by unfold z; repeat' first | with_reducible assumption | with_reducible apply bump_keeps | with_reducible apply signal_keeps | with_reducible apply reportRead_keeps | with_reducible apply tickFree_keeps | with_reducible apply storeRaw_keeps | with_reducible apply memBurst_keeps | with_reducible apply retiredHit_keeps | (with_reducible apply Keeps.foldl; intro _ _ _) | with_reducible apply Keeps.ite | split | (with_reducible refine Keeps.upd ?_ rfl rfl rfl rfl rfl)); clear_value z)  | (have hz : PowerUnit := z; clear hz) | (have hz : RedUnit := z; clear hz) | (have hz : PcieUnit := z; clear hz) | (have hz : VkeepUnit := z; clear hz) | (have hz : TimeUnit := z; clear hz) | (have hz : TickUnit := z; clear hz) | (have hz : QueueUnit := z; clear hz) | (have hz : PipeUnit := z; clear hz) | (have hz : SchedUnit := z; clear hz) | (have hz : CipUnit := z; clear hz) | (have hz : CrtUnit := z; clear hz) | (have hz : MbxUnit := z; clear hz) | (have hz : CusUnit := z; clear hz) | (have hz : EccUnit := z; clear hz) | (have hz : PowerGov := z; clear hz) | (have hz : SliceRed := z; clear hz) | (have hz : MemChan := z; clear hz) | clear_value z | skip) | with_reducible assumption | with_reducible apply bump_keeps | with_reducible apply signal_keeps | with_reducible apply reportRead_keeps | with_reducible apply tickFree_keeps | with_reducible apply storeRaw_keeps | with_reducible apply memBurst_keeps | with_reducible apply retiredHit_keeps | (with_reducible apply Keeps.foldl; intro _ _ _) | with_reducible apply Keeps.ite | split | (with_reducible refine Keeps.upd ?_ rfl rfl rfl rfl rfl)

theorem dramRead_keeps {kk : Kind} {sb : State} (k : Nat) : ∀ (fuel : Nat) (s : State) (a len : Nat), Keeps kk sb s →
    Keeps kk sb (dramRead k fuel s a len).1
  | 0, _, _, _, h => h
  | fuel + 1, s, a, len, h => by
    unfold dramRead
    split
    · exact h
    · refine dramRead_keeps k fuel _ _ _ ?_
      split
      · exact h
      · exact readBlock_keeps _ _ _ _ h

theorem dramWrite_keeps {kk : Kind} {sb : State} (k : Nat) : ∀ (fuel : Nat) (s : State) (a : Nat)
    (l : List (Option Byte × Bool)), Keeps kk sb s → Keeps kk sb (dramWrite k fuel s a l)
  | 0, _, _, _, h => h
  | fuel + 1, s, a, l, h => by
    unfold dramWrite
    split
    · exact h
    · refine dramWrite_keeps k fuel _ _ _ ?_
      split
      · exact h
      · exact Keeps.ite h (writeBlock_keeps _ _ _ _ _ _ h)

theorem execPatrolScrubBurst_keeps {kk : Kind} {sb : State} (n : Fin 4) (s : State) (hk : Keeps kk sb s) :
    KeepsO kk sb (execPatrolScrubBurst n s) := by
  unfold execPatrolScrubBurst
  repeat' first | (extract_lets +onlyGivenNames z; first | (have hz : Keeps kk sb z := (by unfold z; with_reducible assumption); clear hz; subst z) | (have hz : Keeps kk sb z := (by unfold z; repeat' first | with_reducible apply KeepsO.next | with_reducible assumption | with_reducible apply storeRaw_keeps | with_reducible apply reportRead_keeps | with_reducible apply memBurst_keeps | with_reducible apply tickFree_keeps | with_reducible apply bump_keeps | with_reducible apply putChan_keeps | (intro _ w; first | exact getChan_wf _ _ w | exact twf_tset _ _ _ _ (getChan_wf _ _ w) | exact twf_tdrop _ _ _ (getChan_wf _ _ w)) | (with_reducible apply Keeps.foldl; intro _ _ _) | with_reducible apply_assumption | with_reducible apply Keeps.ite | with_reducible apply KeepsO.ite | split | (with_reducible refine Keeps.upd ?_ rfl rfl rfl rfl rfl)); clear_value z)  | (have hz : Keeps kk sb z.1 := (by unfold z; repeat' first | with_reducible apply KeepsO.next | with_reducible assumption | with_reducible apply storeRaw_keeps | with_reducible apply reportRead_keeps | with_reducible apply memBurst_keeps | with_reducible apply tickFree_keeps | with_reducible apply bump_keeps | with_reducible apply putChan_keeps | (intro _ w; first | exact getChan_wf _ _ w | exact twf_tset _ _ _ _ (getChan_wf _ _ w) | exact twf_tdrop _ _ _ (getChan_wf _ _ w)) | (with_reducible apply Keeps.foldl; intro _ _ _) | with_reducible apply Keeps.ite | with_reducible apply KeepsO.ite | split | (with_reducible refine Keeps.upd ?_ rfl rfl rfl rfl rfl)); clear_value z) | (have hz : Keeps kk sb z.st := (by unfold z; repeat' first | with_reducible apply KeepsO.next | with_reducible assumption | with_reducible apply storeRaw_keeps | with_reducible apply reportRead_keeps | with_reducible apply memBurst_keeps | with_reducible apply tickFree_keeps | with_reducible apply bump_keeps | with_reducible apply putChan_keeps | (intro _ w; first | exact getChan_wf _ _ w | exact twf_tset _ _ _ _ (getChan_wf _ _ w) | exact twf_tdrop _ _ _ (getChan_wf _ _ w)) | (with_reducible apply Keeps.foldl; intro _ _ _) | with_reducible apply Keeps.ite | with_reducible apply KeepsO.ite | split | (with_reducible refine Keeps.upd ?_ rfl rfl rfl rfl rfl)); clear_value z) | (have hz : ∀ (v0 : State) (v1 : Nat), Keeps kk sb v0 → Keeps kk sb (z v0 v1) := (by intro v0 v1 hv0; unfold z; repeat' first | with_reducible apply KeepsO.next | with_reducible assumption | with_reducible apply storeRaw_keeps | with_reducible apply reportRead_keeps | with_reducible apply memBurst_keeps | with_reducible apply tickFree_keeps | with_reducible apply bump_keeps | with_reducible apply putChan_keeps | (intro _ w; first | exact getChan_wf _ _ w | exact twf_tset _ _ _ _ (getChan_wf _ _ w) | exact twf_tdrop _ _ _ (getChan_wf _ _ w)) | (with_reducible apply Keeps.foldl; intro _ _ _) | with_reducible apply Keeps.ite | with_reducible apply KeepsO.ite | split | (with_reducible refine Keeps.upd ?_ rfl rfl rfl rfl rfl)); clear_value z) | (have hz : PowerUnit := z; clear hz) | (have hz : RedUnit := z; clear hz) | (have hz : PcieUnit := z; clear hz) | (have hz : VkeepUnit := z; clear hz) | (have hz : TimeUnit := z; clear hz) | (have hz : TickUnit := z; clear hz) | (have hz : QueueUnit := z; clear hz) | (have hz : PipeUnit := z; clear hz) | (have hz : SchedUnit := z; clear hz) | (have hz : CipUnit := z; clear hz) | (have hz : CrtUnit := z; clear hz) | (have hz : MbxUnit := z; clear hz) | (have hz : CusUnit := z; clear hz) | (have hz : EccUnit := z; clear hz) | (have hz : PowerGov := z; clear hz) | (have hz : SliceRed := z; clear hz) | (have hz : MemChan := z; clear hz) | clear_value z | skip) | with_reducible apply KeepsO.next | with_reducible assumption | with_reducible apply storeRaw_keeps | with_reducible apply reportRead_keeps | with_reducible apply memBurst_keeps | with_reducible apply tickFree_keeps | with_reducible apply bump_keeps | with_reducible apply putChan_keeps | (intro _ w; first | exact getChan_wf _ _ w | exact twf_tset _ _ _ _ (getChan_wf _ _ w) | exact twf_tdrop _ _ _ (getChan_wf _ _ w)) | (with_reducible apply Keeps.foldl; intro _ _ _) | with_reducible apply_assumption | with_reducible apply Keeps.ite | with_reducible apply KeepsO.ite | split | (with_reducible refine Keeps.upd ?_ rfl rfl rfl rfl rfl)

theorem flipSelWrite_keeps {kk : Kind} {sb : State} (s : State) (w : Word) (hk : Keeps kk sb s) :
    Keeps kk sb (flipSelWrite s w) := by
  unfold flipSelWrite
  repeat' first | (extract_lets +onlyGivenNames z; first | (have hz : Keeps kk sb z := (by unfold z; with_reducible assumption); clear hz; subst z) | (have hz : Keeps kk sb z := (by unfold z; repeat' first | with_reducible assumption | with_reducible apply setErr_keeps | with_reducible apply wr_keeps | (with_reducible apply Keeps.foldl; intro _ _ _) | with_reducible apply Keeps.ite | split | (with_reducible refine Keeps.upd ?_ rfl rfl rfl rfl rfl)); clear_value z)  | (have hz : PowerUnit := z; clear hz) | (have hz : RedUnit := z; clear hz) | (have hz : PcieUnit := z; clear hz) | (have hz : VkeepUnit := z; clear hz) | (have hz : TimeUnit := z; clear hz) | (have hz : TickUnit := z; clear hz) | (have hz : QueueUnit := z; clear hz) | (have hz : PipeUnit := z; clear hz) | (have hz : SchedUnit := z; clear hz) | (have hz : CipUnit := z; clear hz) | (have hz : CrtUnit := z; clear hz) | (have hz : MbxUnit := z; clear hz) | (have hz : CusUnit := z; clear hz) | (have hz : EccUnit := z; clear hz) | (have hz : PowerGov := z; clear hz) | (have hz : SliceRed := z; clear hz) | (have hz : MemChan := z; clear hz) | clear_value z | skip) | with_reducible assumption | with_reducible apply setErr_keeps | with_reducible apply wr_keeps | (with_reducible apply Keeps.foldl; intro _ _ _) | with_reducible apply Keeps.ite | split | (with_reducible refine Keeps.upd ?_ rfl rfl rfl rfl rfl)

theorem execFlipApply_keeps {kk : Kind} {sb : State} (word : Nat) (s : State) (hk : Keeps kk sb s) :
    KeepsO kk sb (execFlipApply word s) := by
  unfold execFlipApply
  repeat' first | (extract_lets +onlyGivenNames z; first | (have hz : Keeps kk sb z := (by unfold z; with_reducible assumption); clear hz; subst z) | (have hz : Keeps kk sb z := (by unfold z; repeat' first | with_reducible apply KeepsO.next | with_reducible assumption | with_reducible apply setErr_keeps | with_reducible apply wrWide_keeps | with_reducible apply wr_keeps | (with_reducible apply Keeps.foldl; intro _ _ _) | with_reducible apply Keeps.ite | with_reducible apply KeepsO.ite | split | (with_reducible refine Keeps.upd ?_ rfl rfl rfl rfl rfl)); clear_value z)  | (have hz : PowerUnit := z; clear hz) | (have hz : RedUnit := z; clear hz) | (have hz : PcieUnit := z; clear hz) | (have hz : VkeepUnit := z; clear hz) | (have hz : TimeUnit := z; clear hz) | (have hz : TickUnit := z; clear hz) | (have hz : QueueUnit := z; clear hz) | (have hz : PipeUnit := z; clear hz) | (have hz : SchedUnit := z; clear hz) | (have hz : CipUnit := z; clear hz) | (have hz : CrtUnit := z; clear hz) | (have hz : MbxUnit := z; clear hz) | (have hz : CusUnit := z; clear hz) | (have hz : EccUnit := z; clear hz) | (have hz : PowerGov := z; clear hz) | (have hz : SliceRed := z; clear hz) | (have hz : MemChan := z; clear hz) | clear_value z | skip) | with_reducible apply KeepsO.next | with_reducible assumption | with_reducible apply setErr_keeps | with_reducible apply wrWide_keeps | with_reducible apply wr_keeps | (with_reducible apply Keeps.foldl; intro _ _ _) | with_reducible apply Keeps.ite | with_reducible apply KeepsO.ite | split | (with_reducible refine Keeps.upd ?_ rfl rfl rfl rfl rfl)

theorem retireWrite_keeps {kk : Kind} {sb : State} (s : State) (n : Nat) (w : Word) (hk : Keeps kk sb s) :
    Keeps kk sb (retireWrite s n w) := by
  unfold retireWrite
  repeat' first | with_reducible assumption | with_reducible apply wr_keeps | (with_reducible apply Keeps.foldl; intro _ _ _) | with_reducible apply Keeps.ite | split | (with_reducible refine Keeps.upd ?_ rfl rfl rfl rfl rfl)

theorem specMemConfig_keeps {kk : Kind} {sb : State} (n : Nat) (c0 : RunCmd) (s0 : State) (hk : Keeps kk sb s0) :
    Keeps kk sb ((specMemConfig n).body c0 s0) := by
  unfold specMemConfig
  repeat' first | (extract_lets +onlyGivenNames z; first | (have hz : Keeps kk sb z := (by unfold z; with_reducible assumption); clear hz; subst z) | (have hz : Keeps kk sb z := (by unfold z; repeat' first | with_reducible assumption | with_reducible apply putChan_keeps | with_reducible apply finishCmd_keeps | with_reducible apply endCmd_keeps | (intro _ w; first | exact getChan_wf _ _ w | exact twf_tset _ _ _ _ (getChan_wf _ _ w) | exact twf_tdrop _ _ _ (getChan_wf _ _ w)) | (with_reducible apply Keeps.foldl; intro _ _ _) | with_reducible apply Keeps.ite | split | (with_reducible refine Keeps.upd ?_ rfl rfl rfl rfl rfl)); clear_value z)  | (have hz : Keeps kk sb z.1 := (by unfold z; repeat' first | with_reducible assumption | with_reducible apply putChan_keeps | with_reducible apply finishCmd_keeps | with_reducible apply endCmd_keeps | (intro _ w; first | exact getChan_wf _ _ w | exact twf_tset _ _ _ _ (getChan_wf _ _ w) | exact twf_tdrop _ _ _ (getChan_wf _ _ w)) | (with_reducible apply Keeps.foldl; intro _ _ _) | with_reducible apply Keeps.ite | split | (with_reducible refine Keeps.upd ?_ rfl rfl rfl rfl rfl)); clear_value z) | (have hz : Keeps kk sb z.st := (by unfold z; repeat' first | with_reducible assumption | with_reducible apply putChan_keeps | with_reducible apply finishCmd_keeps | with_reducible apply endCmd_keeps | (intro _ w; first | exact getChan_wf _ _ w | exact twf_tset _ _ _ _ (getChan_wf _ _ w) | exact twf_tdrop _ _ _ (getChan_wf _ _ w)) | (with_reducible apply Keeps.foldl; intro _ _ _) | with_reducible apply Keeps.ite | split | (with_reducible refine Keeps.upd ?_ rfl rfl rfl rfl rfl)); clear_value z) | (have hz : PowerUnit := z; clear hz) | (have hz : RedUnit := z; clear hz) | (have hz : PcieUnit := z; clear hz) | (have hz : VkeepUnit := z; clear hz) | (have hz : TimeUnit := z; clear hz) | (have hz : TickUnit := z; clear hz) | (have hz : QueueUnit := z; clear hz) | (have hz : PipeUnit := z; clear hz) | (have hz : SchedUnit := z; clear hz) | (have hz : CipUnit := z; clear hz) | (have hz : CrtUnit := z; clear hz) | (have hz : MbxUnit := z; clear hz) | (have hz : CusUnit := z; clear hz) | (have hz : EccUnit := z; clear hz) | (have hz : PowerGov := z; clear hz) | (have hz : SliceRed := z; clear hz) | (have hz : MemChan := z; clear hz) | clear_value z | skip) | with_reducible assumption | with_reducible apply putChan_keeps | with_reducible apply finishCmd_keeps | with_reducible apply endCmd_keeps | (intro _ w; first | exact getChan_wf _ _ w | exact twf_tset _ _ _ _ (getChan_wf _ _ w) | exact twf_tdrop _ _ _ (getChan_wf _ _ w)) | (with_reducible apply Keeps.foldl; intro _ _ _) | with_reducible apply Keeps.ite | split | (with_reducible refine Keeps.upd ?_ rfl rfl rfl rfl rfl)

theorem specMemSweep_keeps {kk : Kind} {sb : State} (n : Nat) (found : Option (Byte × Byte)) (c0 : RunCmd) (s0 : State) (hk : Keeps kk sb s0) :
    Keeps kk sb ((specMemSweep n found).body c0 s0) := by
  unfold specMemSweep
  repeat' first | (extract_lets +onlyGivenNames z; first | (have hz : Keeps kk sb z := (by unfold z; with_reducible assumption); clear hz; subst z) | (have hz : Keeps kk sb z := (by unfold z; repeat' first | with_reducible assumption | with_reducible apply finishCmd_keeps | with_reducible apply putChan_keeps | with_reducible apply endCmd_keeps | (intro _ w; first | exact getChan_wf _ _ w | exact twf_tset _ _ _ _ (getChan_wf _ _ w) | exact twf_tdrop _ _ _ (getChan_wf _ _ w)) | (with_reducible apply Keeps.foldl; intro _ _ _) | with_reducible apply Keeps.ite | split | (with_reducible refine Keeps.upd ?_ rfl rfl rfl rfl rfl)); clear_value z)  | (have hz : Keeps kk sb z.1 := (by unfold z; repeat' first | with_reducible assumption | with_reducible apply finishCmd_keeps | with_reducible apply putChan_keeps | with_reducible apply endCmd_keeps | (intro _ w; first | exact getChan_wf _ _ w | exact twf_tset _ _ _ _ (getChan_wf _ _ w) | exact twf_tdrop _ _ _ (getChan_wf _ _ w)) | (with_reducible apply Keeps.foldl; intro _ _ _) | with_reducible apply Keeps.ite | split | (with_reducible refine Keeps.upd ?_ rfl rfl rfl rfl rfl)); clear_value z) | (have hz : Keeps kk sb z.st := (by unfold z; repeat' first | with_reducible assumption | with_reducible apply finishCmd_keeps | with_reducible apply putChan_keeps | with_reducible apply endCmd_keeps | (intro _ w; first | exact getChan_wf _ _ w | exact twf_tset _ _ _ _ (getChan_wf _ _ w) | exact twf_tdrop _ _ _ (getChan_wf _ _ w)) | (with_reducible apply Keeps.foldl; intro _ _ _) | with_reducible apply Keeps.ite | split | (with_reducible refine Keeps.upd ?_ rfl rfl rfl rfl rfl)); clear_value z) | (have hz : PowerUnit := z; clear hz) | (have hz : RedUnit := z; clear hz) | (have hz : PcieUnit := z; clear hz) | (have hz : VkeepUnit := z; clear hz) | (have hz : TimeUnit := z; clear hz) | (have hz : TickUnit := z; clear hz) | (have hz : QueueUnit := z; clear hz) | (have hz : PipeUnit := z; clear hz) | (have hz : SchedUnit := z; clear hz) | (have hz : CipUnit := z; clear hz) | (have hz : CrtUnit := z; clear hz) | (have hz : MbxUnit := z; clear hz) | (have hz : CusUnit := z; clear hz) | (have hz : EccUnit := z; clear hz) | (have hz : PowerGov := z; clear hz) | (have hz : SliceRed := z; clear hz) | (have hz : MemChan := z; clear hz) | clear_value z | skip) | with_reducible assumption | with_reducible apply finishCmd_keeps | with_reducible apply putChan_keeps | with_reducible apply endCmd_keeps | (intro _ w; first | exact getChan_wf _ _ w | exact twf_tset _ _ _ _ (getChan_wf _ _ w) | exact twf_tdrop _ _ _ (getChan_wf _ _ w)) | (with_reducible apply Keeps.foldl; intro _ _ _) | with_reducible apply Keeps.ite | split | (with_reducible refine Keeps.upd ?_ rfl rfl rfl rfl rfl)

theorem specMemStart_keeps {kk : Kind} {sb : State} (n : Nat) (c0 : RunCmd) (s0 : State) (hk : Keeps kk sb s0) :
    Keeps kk sb ((specMemStart n).body c0 s0) := by
  unfold specMemStart
  repeat' first | (extract_lets +onlyGivenNames z; first | (have hz : Keeps kk sb z := (by unfold z; with_reducible assumption); clear hz; subst z) | (have hz : Keeps kk sb z := (by unfold z; repeat' first | with_reducible assumption | with_reducible apply putChan_keeps | with_reducible apply endCmd_keeps | (intro _ w; first | exact getChan_wf _ _ w | exact twf_tset _ _ _ _ (getChan_wf _ _ w) | exact twf_tdrop _ _ _ (getChan_wf _ _ w)) | (with_reducible apply Keeps.foldl; intro _ _ _) | with_reducible apply Keeps.ite | split | (with_reducible refine Keeps.upd ?_ rfl rfl rfl rfl rfl)); clear_value z)  | (have hz : Keeps kk sb z.1 := (by unfold z; repeat' first | with_reducible assumption | with_reducible apply putChan_keeps | with_reducible apply endCmd_keeps | (intro _ w; first | exact getChan_wf _ _ w | exact twf_tset _ _ _ _ (getChan_wf _ _ w) | exact twf_tdrop _ _ _ (getChan_wf _ _ w)) | (with_reducible apply Keeps.foldl; intro _ _ _) | with_reducible apply Keeps.ite | split | (with_reducible refine Keeps.upd ?_ rfl rfl rfl rfl rfl)); clear_value z) | (have hz : Keeps kk sb z.st := (by unfold z; repeat' first | with_reducible assumption | with_reducible apply putChan_keeps | with_reducible apply endCmd_keeps | (intro _ w; first | exact getChan_wf _ _ w | exact twf_tset _ _ _ _ (getChan_wf _ _ w) | exact twf_tdrop _ _ _ (getChan_wf _ _ w)) | (with_reducible apply Keeps.foldl; intro _ _ _) | with_reducible apply Keeps.ite | split | (with_reducible refine Keeps.upd ?_ rfl rfl rfl rfl rfl)); clear_value z) | (have hz : PowerUnit := z; clear hz) | (have hz : RedUnit := z; clear hz) | (have hz : PcieUnit := z; clear hz) | (have hz : VkeepUnit := z; clear hz) | (have hz : TimeUnit := z; clear hz) | (have hz : TickUnit := z; clear hz) | (have hz : QueueUnit := z; clear hz) | (have hz : PipeUnit := z; clear hz) | (have hz : SchedUnit := z; clear hz) | (have hz : CipUnit := z; clear hz) | (have hz : CrtUnit := z; clear hz) | (have hz : MbxUnit := z; clear hz) | (have hz : CusUnit := z; clear hz) | (have hz : EccUnit := z; clear hz) | (have hz : PowerGov := z; clear hz) | (have hz : SliceRed := z; clear hz) | (have hz : MemChan := z; clear hz) | clear_value z | skip) | with_reducible assumption | with_reducible apply putChan_keeps | with_reducible apply endCmd_keeps | (intro _ w; first | exact getChan_wf _ _ w | exact twf_tset _ _ _ _ (getChan_wf _ _ w) | exact twf_tdrop _ _ _ (getChan_wf _ _ w)) | (with_reducible apply Keeps.foldl; intro _ _ _) | with_reducible apply Keeps.ite | split | (with_reducible refine Keeps.upd ?_ rfl rfl rfl rfl rfl)

theorem specMemRelease_keeps {kk : Kind} {sb : State} (n : Nat) (c0 : RunCmd) (s0 : State) (hk : Keeps kk sb s0) :
    Keeps kk sb ((specMemRelease n).body c0 s0) := by
  unfold specMemRelease
  repeat' first | (extract_lets +onlyGivenNames z; first | (have hz : Keeps kk sb z := (by unfold z; with_reducible assumption); clear hz; subst z) | (have hz : Keeps kk sb z := (by unfold z; repeat' first | with_reducible assumption | with_reducible apply putChan_keeps | with_reducible apply endCmd_keeps | (intro _ w; first | exact getChan_wf _ _ w | exact twf_tset _ _ _ _ (getChan_wf _ _ w) | exact twf_tdrop _ _ _ (getChan_wf _ _ w)) | (with_reducible apply Keeps.foldl; intro _ _ _) | with_reducible apply Keeps.ite | split | (with_reducible refine Keeps.upd ?_ rfl rfl rfl rfl rfl)); clear_value z)  | (have hz : Keeps kk sb z.1 := (by unfold z; repeat' first | with_reducible assumption | with_reducible apply putChan_keeps | with_reducible apply endCmd_keeps | (intro _ w; first | exact getChan_wf _ _ w | exact twf_tset _ _ _ _ (getChan_wf _ _ w) | exact twf_tdrop _ _ _ (getChan_wf _ _ w)) | (with_reducible apply Keeps.foldl; intro _ _ _) | with_reducible apply Keeps.ite | split | (with_reducible refine Keeps.upd ?_ rfl rfl rfl rfl rfl)); clear_value z) | (have hz : Keeps kk sb z.st := (by unfold z; repeat' first | with_reducible assumption | with_reducible apply putChan_keeps | with_reducible apply endCmd_keeps | (intro _ w; first | exact getChan_wf _ _ w | exact twf_tset _ _ _ _ (getChan_wf _ _ w) | exact twf_tdrop _ _ _ (getChan_wf _ _ w)) | (with_reducible apply Keeps.foldl; intro _ _ _) | with_reducible apply Keeps.ite | split | (with_reducible refine Keeps.upd ?_ rfl rfl rfl rfl rfl)); clear_value z) | (have hz : PowerUnit := z; clear hz) | (have hz : RedUnit := z; clear hz) | (have hz : PcieUnit := z; clear hz) | (have hz : VkeepUnit := z; clear hz) | (have hz : TimeUnit := z; clear hz) | (have hz : TickUnit := z; clear hz) | (have hz : QueueUnit := z; clear hz) | (have hz : PipeUnit := z; clear hz) | (have hz : SchedUnit := z; clear hz) | (have hz : CipUnit := z; clear hz) | (have hz : CrtUnit := z; clear hz) | (have hz : MbxUnit := z; clear hz) | (have hz : CusUnit := z; clear hz) | (have hz : EccUnit := z; clear hz) | (have hz : PowerGov := z; clear hz) | (have hz : SliceRed := z; clear hz) | (have hz : MemChan := z; clear hz) | clear_value z | skip) | with_reducible assumption | with_reducible apply putChan_keeps | with_reducible apply endCmd_keeps | (intro _ w; first | exact getChan_wf _ _ w | exact twf_tset _ _ _ _ (getChan_wf _ _ w) | exact twf_tdrop _ _ _ (getChan_wf _ _ w)) | (with_reducible apply Keeps.foldl; intro _ _ _) | with_reducible apply Keeps.ite | split | (with_reducible refine Keeps.upd ?_ rfl rfl rfl rfl rfl)

theorem memBoundary_keeps {kk : Kind} {sb : State} (s : State) (hk : Keeps kk sb s) :
    Keeps kk sb (memBoundary s) := by
  unfold memBoundary
  repeat' first | (extract_lets +onlyGivenNames z; first | (have hz : Keeps kk sb z := (by unfold z; with_reducible assumption); clear hz; subst z) | (have hz : Keeps kk sb z := (by unfold z; repeat' first | with_reducible assumption | with_reducible apply putChan_keeps | with_reducible apply endCmd_keeps | (intro _ w; first | exact getChan_wf _ _ w | exact twf_tset _ _ _ _ (getChan_wf _ _ w) | exact twf_tdrop _ _ _ (getChan_wf _ _ w)) | (with_reducible apply Keeps.foldl; intro _ _ _) | with_reducible apply Keeps.ite | split | (with_reducible refine Keeps.upd ?_ rfl rfl rfl rfl rfl)); clear_value z)  | (have hz : PowerUnit := z; clear hz) | (have hz : RedUnit := z; clear hz) | (have hz : PcieUnit := z; clear hz) | (have hz : VkeepUnit := z; clear hz) | (have hz : TimeUnit := z; clear hz) | (have hz : TickUnit := z; clear hz) | (have hz : QueueUnit := z; clear hz) | (have hz : PipeUnit := z; clear hz) | (have hz : SchedUnit := z; clear hz) | (have hz : CipUnit := z; clear hz) | (have hz : CrtUnit := z; clear hz) | (have hz : MbxUnit := z; clear hz) | (have hz : CusUnit := z; clear hz) | (have hz : EccUnit := z; clear hz) | (have hz : PowerGov := z; clear hz) | (have hz : SliceRed := z; clear hz) | (have hz : MemChan := z; clear hz) | clear_value z | skip) | with_reducible assumption | with_reducible apply putChan_keeps | with_reducible apply endCmd_keeps | (intro _ w; first | exact getChan_wf _ _ w | exact twf_tset _ _ _ _ (getChan_wf _ _ w) | exact twf_tdrop _ _ _ (getChan_wf _ _ w)) | (with_reducible apply Keeps.foldl; intro _ _ _) | with_reducible apply Keeps.ite | split | (with_reducible refine Keeps.upd ?_ rfl rfl rfl rfl rfl)

theorem execMemConfig_keeps {kk : Kind} {sb : State} (n : Fin 4) (via : Master) (seq : Byte) (s : State) (hk : Keeps kk sb s) :
    KeepsO kk sb (execMemConfig n via seq s) := by
  unfold execMemConfig
  repeat' first | with_reducible apply KeepsO.next | with_reducible assumption | with_reducible apply commandRow_keeps | (constructor; (rintro _ ⟨⟩ _ _ _ _ _; first | (with_reducible apply specMemConfig_keeps; with_reducible assumption)); (first | (left; left; decide) | (left; right; decide) | (left; left; unfold pgSys; omega) | (left; left; unfold pgCip pgSlice pgSys; omega) | (left; left; unfold pgSlice pgSys; omega) | (left; left; unfold pgTbl pgSlice pgSys; omega) | (left; left; unfold pgCch pgSys pf1Base; omega) | (right; rintro _ ⟨⟩; rfl))) | (with_reducible apply Keeps.foldl; intro _ _ _) | with_reducible apply Keeps.ite | with_reducible apply KeepsO.ite | split | (with_reducible refine Keeps.upd ?_ rfl rfl rfl rfl rfl)

theorem execMemSweep_keeps {kk : Kind} {sb : State} (n : Fin 4) (found : Option (Byte × Byte)) (via : Master) (seq : Byte) (a0 : Word) (s : State) (hk : Keeps kk sb s) :
    KeepsO kk sb (execMemSweep n found via seq a0 s) := by
  unfold execMemSweep
  repeat' first | with_reducible apply KeepsO.next | with_reducible assumption | with_reducible apply commandRow_keeps | (constructor; (rintro _ ⟨⟩ _ _ _ _ _; first | (with_reducible apply specMemSweep_keeps; with_reducible assumption)); (first | (left; left; decide) | (left; right; decide) | (left; left; unfold pgSys; omega) | (left; left; unfold pgCip pgSlice pgSys; omega) | (left; left; unfold pgSlice pgSys; omega) | (left; left; unfold pgTbl pgSlice pgSys; omega) | (left; left; unfold pgCch pgSys pf1Base; omega) | (right; rintro _ ⟨⟩; rfl))) | (with_reducible apply Keeps.foldl; intro _ _ _) | with_reducible apply Keeps.ite | with_reducible apply KeepsO.ite | split | (with_reducible refine Keeps.upd ?_ rfl rfl rfl rfl rfl)

theorem execMemStart_keeps {kk : Kind} {sb : State} (n : Fin 4) (via : Master) (seq : Byte) (s : State) (hk : Keeps kk sb s) :
    KeepsO kk sb (execMemStart n via seq s) := by
  unfold execMemStart
  repeat' first | with_reducible apply KeepsO.next | with_reducible assumption | with_reducible apply commandRow_keeps | (constructor; (rintro _ ⟨⟩ _ _ _ _ _; first | (with_reducible apply specMemStart_keeps; with_reducible assumption)); (first | (left; left; decide) | (left; right; decide) | (left; left; unfold pgSys; omega) | (left; left; unfold pgCip pgSlice pgSys; omega) | (left; left; unfold pgSlice pgSys; omega) | (left; left; unfold pgTbl pgSlice pgSys; omega) | (left; left; unfold pgCch pgSys pf1Base; omega) | (right; rintro _ ⟨⟩; rfl))) | (with_reducible apply Keeps.foldl; intro _ _ _) | with_reducible apply Keeps.ite | with_reducible apply KeepsO.ite | split | (with_reducible refine Keeps.upd ?_ rfl rfl rfl rfl rfl)

theorem execMemRelease_keeps {kk : Kind} {sb : State} (n : Fin 4) (via : Master) (seq : Byte) (s : State) (hk : Keeps kk sb s) :
    KeepsO kk sb (execMemRelease n via seq s) := by
  unfold execMemRelease
  repeat' first | with_reducible apply KeepsO.next | with_reducible assumption | with_reducible apply commandRow_keeps | (constructor; (rintro _ ⟨⟩ _ _ _ _ _; first | (with_reducible apply specMemRelease_keeps; with_reducible assumption)); (first | (left; left; decide) | (left; right; decide) | (left; left; unfold pgSys; omega) | (left; left; unfold pgCip pgSlice pgSys; omega) | (left; left; unfold pgSlice pgSys; omega) | (left; left; unfold pgTbl pgSlice pgSys; omega) | (left; left; unfold pgCch pgSys pf1Base; omega) | (right; rintro _ ⟨⟩; rfl))) | (with_reducible apply Keeps.foldl; intro _ _ _) | with_reducible apply Keeps.ite | with_reducible apply KeepsO.ite | split | (with_reducible refine Keeps.upd ?_ rfl rfl rfl rfl rfl)

theorem execWarmResetAssert_keeps {ky : Bool} {sb : State} (late : List (Fin 4)) (s : State) (hk : Keeps ⟨false, false, false, false, ky⟩ sb s) :
    KeepsO ⟨false, false, false, false, ky⟩ sb (execWarmResetAssert late s) := by
  unfold execWarmResetAssert
  refine KeepsO.ite (KeepsO.next hk) ?_
  extract_lets keep lost cause s1 mc s2 p c s3
  refine KeepsO.next (hk.trans ?_)
  have h1 : Keeps ⟨false, false, false, false, ky⟩ s s1 := clearDevice_keeps _ _ (Keeps.refl s)
  have h2 : Keeps ⟨false, false, false, false, ky⟩ s s2 := by
    refine Keeps.foldl _ (fun _ n ht => Keeps.ite (putChan_keeps _ _ _ (fun w _ => ?_) ht) ht) _ _ h1
    exact getChan_wf s n w
  have h3 : Keeps ⟨false, false, false, false, ky⟩ s s3 := Keeps.updReset h2 rfl rfl rfl rfl
  exact Keeps.ite (setErr_keeps _ _ _ h3) h3

end Sys2Proof.Machine
end

