-- ==== Sys2Proof/Laws/KeepsFnReset.lean ====
section
/-! SUPPORT. The operations of FnReset keep what Laws/Keeps.lean states. -/
set_option linter.tactic.unusedName false
set_option linter.unusedVariables false
namespace Sys2Proof.Machine

theorem dropHeaders_keeps {kk : Kind} {sb : State} (s : State) (p : Nat → Bool) (hk : Keeps kk sb s) :
    Keeps kk sb (dropHeaders s p) := by
  unfold dropHeaders
  repeat' first | (extract_lets +onlyGivenNames z; first | (have hz : Keeps kk sb z := (by unfold z; with_reducible assumption); clear hz; subst z) | (have hz : Keeps kk sb z := (by unfold z; repeat' first | with_reducible assumption | with_reducible apply dropRef_keeps | (with_reducible apply Keeps.foldl; intro _ _ _) | with_reducible apply Keeps.ite | split | (with_reducible refine Keeps.upd ?_ rfl rfl rfl rfl rfl)); clear_value z)  | (have hz : PowerUnit := z; clear hz) | (have hz : RedUnit := z; clear hz) | (have hz : PcieUnit := z; clear hz) | (have hz : VkeepUnit := z; clear hz) | (have hz : TimeUnit := z; clear hz) | (have hz : TickUnit := z; clear hz) | (have hz : QueueUnit := z; clear hz) | (have hz : PipeUnit := z; clear hz) | (have hz : SchedUnit := z; clear hz) | (have hz : CipUnit := z; clear hz) | (have hz : CrtUnit := z; clear hz) | (have hz : MbxUnit := z; clear hz) | (have hz : CusUnit := z; clear hz) | (have hz : EccUnit := z; clear hz) | (have hz : PowerGov := z; clear hz) | (have hz : SliceRed := z; clear hz) | (have hz : MemChan := z; clear hz) | clear_value z | skip) | with_reducible assumption | with_reducible apply dropRef_keeps | (with_reducible apply Keeps.foldl; intro _ _ _) | with_reducible apply Keeps.ite | split | (with_reducible refine Keeps.upd ?_ rfl rfl rfl rfl rfl)

theorem forgetEntries_keeps {kk : Kind} {sb : State} (s : State) (p : Nat → Bool) (hk : Keeps kk sb s) :
    Keeps kk sb (forgetEntries s p) := by
  unfold forgetEntries
  exact hk.store (fun w : Memory.Parts s => { w with frames := twf_tmap _ _ _ w.frames, rings := twf_tmap _ _ _ w.rings }) rfl rfl rfl rfl rfl rfl rfl

theorem dropItems_keeps {kk : Kind} {sb : State} (s : State) (p : Nat → Bool) (hk : Keeps kk sb s) :
    Keeps kk sb (dropItems s p) := by
  unfold dropItems
  repeat' first | (extract_lets +onlyGivenNames z; first | (have hz : Keeps kk sb z := (by unfold z; with_reducible assumption); clear hz; subst z) | (have hz : Keeps kk sb z := (by unfold z; repeat' first | with_reducible assumption | with_reducible apply bump_keeps | with_reducible apply dropDesc_keeps | with_reducible apply freeItemCells_keeps | (with_reducible apply Keeps.foldl; intro _ _ _) | with_reducible apply Keeps.ite | split | (with_reducible refine Keeps.upd ?_ rfl rfl rfl rfl rfl)); clear_value z)  | (have hz : PowerUnit := z; clear hz) | (have hz : RedUnit := z; clear hz) | (have hz : PcieUnit := z; clear hz) | (have hz : VkeepUnit := z; clear hz) | (have hz : TimeUnit := z; clear hz) | (have hz : TickUnit := z; clear hz) | (have hz : QueueUnit := z; clear hz) | (have hz : PipeUnit := z; clear hz) | (have hz : SchedUnit := z; clear hz) | (have hz : CipUnit := z; clear hz) | (have hz : CrtUnit := z; clear hz) | (have hz : MbxUnit := z; clear hz) | (have hz : CusUnit := z; clear hz) | (have hz : EccUnit := z; clear hz) | (have hz : PowerGov := z; clear hz) | (have hz : SliceRed := z; clear hz) | (have hz : MemChan := z; clear hz) | clear_value z | skip) | with_reducible assumption | with_reducible apply bump_keeps | with_reducible apply dropDesc_keeps | with_reducible apply freeItemCells_keeps | (with_reducible apply Keeps.foldl; intro _ _ _) | with_reducible apply Keeps.ite | split | (with_reducible refine Keeps.upd ?_ rfl rfl rfl rfl rfl)

theorem discardWork_keeps {kk : Kind} {sb : State} (s : State) (p : Nat → Bool) (reset : Bool) (hk : Keeps kk sb s) :
    Keeps kk sb (discardWork s p reset) := by
  unfold discardWork
  repeat' first | with_reducible assumption | with_reducible apply dropHeaders_keeps | with_reducible apply dropItems_keeps | with_reducible apply forgetEntries_keeps | with_reducible apply crtDetach_keeps | with_reducible apply clearQueues_keeps | (with_reducible apply Keeps.foldl; intro _ _ _) | with_reducible apply Keeps.ite | split | (with_reducible refine Keeps.upd ?_ rfl rfl rfl rfl rfl)

theorem haltBoundary_keeps {kk : Kind} {sb : State} (s : State) (hk : Keeps kk sb s) :
    Keeps kk sb (haltBoundary s) := by
  unfold haltBoundary
  repeat' first | (extract_lets +onlyGivenNames z; first | (have hz : Keeps kk sb z := (by unfold z; with_reducible assumption); clear hz; subst z) | (have hz : Keeps kk sb z := (by unfold z; repeat' first | with_reducible assumption | with_reducible apply haltOne_keeps | with_reducible apply discardWork_keeps | (with_reducible apply Keeps.foldl; intro _ _ _) | with_reducible apply Keeps.ite | split | (with_reducible refine Keeps.upd ?_ rfl rfl rfl rfl rfl)); clear_value z)  | (have hz : PowerUnit := z; clear hz) | (have hz : RedUnit := z; clear hz) | (have hz : PcieUnit := z; clear hz) | (have hz : VkeepUnit := z; clear hz) | (have hz : TimeUnit := z; clear hz) | (have hz : TickUnit := z; clear hz) | (have hz : QueueUnit := z; clear hz) | (have hz : PipeUnit := z; clear hz) | (have hz : SchedUnit := z; clear hz) | (have hz : CipUnit := z; clear hz) | (have hz : CrtUnit := z; clear hz) | (have hz : MbxUnit := z; clear hz) | (have hz : CusUnit := z; clear hz) | (have hz : EccUnit := z; clear hz) | (have hz : PowerGov := z; clear hz) | (have hz : SliceRed := z; clear hz) | (have hz : MemChan := z; clear hz) | clear_value z | skip) | with_reducible assumption | with_reducible apply haltOne_keeps | with_reducible apply discardWork_keeps | (with_reducible apply Keeps.foldl; intro _ _ _) | with_reducible apply Keeps.ite | split | (with_reducible refine Keeps.upd ?_ rfl rfl rfl rfl rfl)

theorem endHalts_keeps {kk : Kind} {sb : State} (s : State) (p : Nat → Bool) (hk : Keeps kk sb s) :
    Keeps kk sb (endHalts s p) := by
  unfold endHalts
  exact hk.store (fun w : Memory.Parts s => { w with paced := by dsimp only; exact twf_tdrop _ _ _ w.paced }) rfl rfl rfl rfl rfl rfl rfl

theorem clearFlags_keeps {kk : Kind} {sb : State} (s : State) (p : Nat → Bool) (hk : Keeps kk sb s) :
    Keeps kk sb (clearFlags s p) := by
  unfold clearFlags
  repeat' first | (extract_lets +onlyGivenNames z; first | (have hz : Keeps kk sb z := (by unfold z; with_reducible assumption); clear hz; subst z) | (have hz : Keeps kk sb z := (by unfold z; repeat' first | with_reducible assumption | with_reducible apply endHalts_keeps | with_reducible apply wr_keeps | (with_reducible apply Keeps.foldl; intro _ _ _) | with_reducible apply Keeps.ite | split | (with_reducible refine Keeps.upd ?_ rfl rfl rfl rfl rfl)); clear_value z)  | (have hz : PowerUnit := z; clear hz) | (have hz : RedUnit := z; clear hz) | (have hz : PcieUnit := z; clear hz) | (have hz : VkeepUnit := z; clear hz) | (have hz : TimeUnit := z; clear hz) | (have hz : TickUnit := z; clear hz) | (have hz : QueueUnit := z; clear hz) | (have hz : PipeUnit := z; clear hz) | (have hz : SchedUnit := z; clear hz) | (have hz : CipUnit := z; clear hz) | (have hz : CrtUnit := z; clear hz) | (have hz : MbxUnit := z; clear hz) | (have hz : CusUnit := z; clear hz) | (have hz : EccUnit := z; clear hz) | (have hz : PowerGov := z; clear hz) | (have hz : SliceRed := z; clear hz) | (have hz : MemChan := z; clear hz) | clear_value z | skip) | with_reducible assumption | with_reducible apply endHalts_keeps | with_reducible apply wr_keeps | (with_reducible apply Keeps.foldl; intro _ _ _) | with_reducible apply Keeps.ite | split | (with_reducible refine Keeps.upd ?_ rfl rfl rfl rfl rfl)

theorem releasePf0_keeps {kk : Kind} {sb : State} (s : State) (hk : Keeps kk sb s) :
    Keeps kk sb (releasePf0 s) := by
  unfold releasePf0
  repeat' first | (extract_lets +onlyGivenNames z; first | (have hz : Keeps kk sb z := (by unfold z; with_reducible assumption); clear hz; subst z) | (have hz : Keeps kk sb z := (by unfold z; repeat' first | with_reducible assumption | with_reducible apply wr_keeps | (with_reducible apply Keeps.foldl; intro _ _ _) | with_reducible apply_assumption | with_reducible apply Keeps.ite | split | (with_reducible refine Keeps.upd ?_ rfl rfl rfl rfl rfl)); clear_value z)  | (have hz : ∀ (v0 : State) (v1 : SliceId), Keeps kk sb v0 → Keeps kk sb (z v0 v1) := (by intro v0 v1 hv0; unfold z; repeat' first | with_reducible assumption | with_reducible apply wr_keeps | (with_reducible apply Keeps.foldl; intro _ _ _) | with_reducible apply Keeps.ite | split | (with_reducible refine Keeps.upd ?_ rfl rfl rfl rfl rfl)); clear_value z) | (have hz : PowerUnit := z; clear hz) | (have hz : RedUnit := z; clear hz) | (have hz : PcieUnit := z; clear hz) | (have hz : VkeepUnit := z; clear hz) | (have hz : TimeUnit := z; clear hz) | (have hz : TickUnit := z; clear hz) | (have hz : QueueUnit := z; clear hz) | (have hz : PipeUnit := z; clear hz) | (have hz : SchedUnit := z; clear hz) | (have hz : CipUnit := z; clear hz) | (have hz : CrtUnit := z; clear hz) | (have hz : MbxUnit := z; clear hz) | (have hz : CusUnit := z; clear hz) | (have hz : EccUnit := z; clear hz) | (have hz : PowerGov := z; clear hz) | (have hz : SliceRed := z; clear hz) | (have hz : MemChan := z; clear hz) | clear_value z | skip) | with_reducible assumption | with_reducible apply wr_keeps | (with_reducible apply Keeps.foldl; intro _ _ _) | with_reducible apply_assumption | with_reducible apply Keeps.ite | split | (with_reducible refine Keeps.upd ?_ rfl rfl rfl rfl rfl)

theorem resetFns_keeps {kk : Kind} {sb : State} (s : State) (p : Nat → Bool) (fns : List Nat) (hk : Keeps kk sb s) :
    Keeps kk sb (resetFns s p fns) := by
  unfold resetFns
  extract_lets s1
  have h1 : Keeps kk sb s1 := clearFlags_keeps _ _ (discardWork_keeps _ _ _ (staleTagsFn_keeps _ _ hk))
  clear_value s1
  refine Keeps.pcie _ (fun e => ?_) rfl (fun e => ?_) h1
  · dsimp only; exact twf_tdrop _ _ _ e
  · dsimp only; exact twf_tdrop _ _ _ e

theorem noteResets_keeps {kk : Kind} {sb : State} (s : State) (ts : List Nat) (hk : Keeps kk sb s) :
    Keeps kk sb (noteResets s ts) := by
  unfold noteResets
  repeat' first | (extract_lets +onlyGivenNames z; first | (have hz : Keeps kk sb z := (by unfold z; with_reducible assumption); clear hz; subst z) | (have hz : Keeps kk sb z := (by unfold z; repeat' first | with_reducible assumption | (with_reducible apply Keeps.foldl; intro _ _ _) | with_reducible apply Keeps.ite | split | (with_reducible refine Keeps.upd ?_ rfl rfl rfl rfl rfl)); clear_value z)  | (have hz : PowerUnit := z; clear hz) | (have hz : RedUnit := z; clear hz) | (have hz : PcieUnit := z; clear hz) | (have hz : VkeepUnit := z; clear hz) | (have hz : TimeUnit := z; clear hz) | (have hz : TickUnit := z; clear hz) | (have hz : QueueUnit := z; clear hz) | (have hz : PipeUnit := z; clear hz) | (have hz : SchedUnit := z; clear hz) | (have hz : CipUnit := z; clear hz) | (have hz : CrtUnit := z; clear hz) | (have hz : MbxUnit := z; clear hz) | (have hz : CusUnit := z; clear hz) | (have hz : EccUnit := z; clear hz) | (have hz : PowerGov := z; clear hz) | (have hz : SliceRed := z; clear hz) | (have hz : MemChan := z; clear hz) | clear_value z | skip) | with_reducible assumption | (with_reducible apply Keeps.foldl; intro _ _ _) | with_reducible apply Keeps.ite | split | (with_reducible refine Keeps.upd ?_ rfl rfl rfl rfl rfl)

theorem beginVfClear_keeps {kr kp kc ky : Bool} {sb : State} (s : State) (hk : Keeps ⟨kr, kp, kc, false, ky⟩ sb s) :
    Keeps ⟨kr, kp, kc, false, ky⟩ sb (beginVfClear s) := by
  unfold beginVfClear
  repeat' first | (extract_lets +onlyGivenNames z; first | (have hz : Keeps ⟨kr, kp, kc, false, ky⟩ sb z := (by unfold z; with_reducible assumption); clear hz; subst z) | (have hz : Keeps ⟨kr, kp, kc, false, ky⟩ sb z := (by unfold z; repeat' first | with_reducible assumption | with_reducible apply clearAssocs_keeps | with_reducible apply resetFns_keeps | with_reducible apply noteResets_keeps | (with_reducible apply Keeps.foldl; intro _ _ _) | with_reducible apply Keeps.ite | split | (with_reducible refine Keeps.upd ?_ rfl rfl rfl rfl rfl)); clear_value z)  | (have hz : PowerUnit := z; clear hz) | (have hz : RedUnit := z; clear hz) | (have hz : PcieUnit := z; clear hz) | (have hz : VkeepUnit := z; clear hz) | (have hz : TimeUnit := z; clear hz) | (have hz : TickUnit := z; clear hz) | (have hz : QueueUnit := z; clear hz) | (have hz : PipeUnit := z; clear hz) | (have hz : SchedUnit := z; clear hz) | (have hz : CipUnit := z; clear hz) | (have hz : CrtUnit := z; clear hz) | (have hz : MbxUnit := z; clear hz) | (have hz : CusUnit := z; clear hz) | (have hz : EccUnit := z; clear hz) | (have hz : PowerGov := z; clear hz) | (have hz : SliceRed := z; clear hz) | (have hz : MemChan := z; clear hz) | clear_value z | skip) | with_reducible assumption | with_reducible apply clearAssocs_keeps | with_reducible apply resetFns_keeps | with_reducible apply noteResets_keeps | (with_reducible apply Keeps.foldl; intro _ _ _) | with_reducible apply Keeps.ite | split | (with_reducible refine Keeps.upd ?_ rfl rfl rfl rfl rfl)

theorem beginVfFlr_keeps {kr kp kc ky : Bool} {sb : State} (s : State) (t : Nat) (hk : Keeps ⟨kr, kp, kc, false, ky⟩ sb s) :
    Keeps ⟨kr, kp, kc, false, ky⟩ sb (beginVfFlr s t) := by
  unfold beginVfFlr
  repeat' first | with_reducible assumption | with_reducible apply resetFns_keeps | with_reducible apply noteResets_keeps | with_reducible apply clearAssocs_keeps | (with_reducible apply Keeps.foldl; intro _ _ _) | with_reducible apply Keeps.ite | split | (with_reducible refine Keeps.upd ?_ rfl rfl rfl rfl rfl)

theorem clearAllAssocs_keeps {kr kp kc ky : Bool} {sb : State} (s : State) (hk : Keeps ⟨kr, kp, kc, false, ky⟩ sb s) :
    Keeps ⟨kr, kp, kc, false, ky⟩ sb (clearAllAssocs s) := by
  unfold clearAllAssocs
  repeat' first | with_reducible assumption | with_reducible apply clearAssocs_keeps | (with_reducible apply Keeps.foldl; intro _ _ _) | with_reducible apply Keeps.ite | split | (with_reducible refine Keeps.upd ?_ rfl rfl rfl rfl rfl)

theorem releaseLogs_keeps {kk : Kind} {sb : State} (s : State) (hk : Keeps kk sb s) :
    Keeps kk sb (releaseLogs s) := by
  unfold releaseLogs
  repeat' first | with_reducible assumption | with_reducible apply putLogSlot_keeps | (with_reducible apply Keeps.foldl; intro _ _ _) | with_reducible apply Keeps.ite | split | (with_reducible refine Keeps.upd ?_ rfl rfl rfl rfl rfl)

theorem beginPf0Flr_keeps {kr kp kc ky : Bool} {sb : State} (s : State) (hk : Keeps ⟨kr, kp, kc, false, ky⟩ sb s) :
    Keeps ⟨kr, kp, kc, false, ky⟩ sb (beginPf0Flr s) := by
  unfold beginPf0Flr
  repeat' first | (extract_lets +onlyGivenNames z; first | (have hz : Keeps ⟨kr, kp, kc, false, ky⟩ sb z := (by unfold z; with_reducible assumption); clear hz; subst z) | (have hz : Keeps ⟨kr, kp, kc, false, ky⟩ sb z := (by unfold z; repeat' first | with_reducible assumption | with_reducible apply beginVfClear_keeps | with_reducible apply resetFns_keeps | with_reducible apply releasePf0_keeps | with_reducible apply clearAllAssocs_keeps | with_reducible apply releaseLogs_keeps | (with_reducible apply Keeps.foldl; intro _ _ _) | with_reducible apply Keeps.ite | split | (with_reducible refine Keeps.upd ?_ rfl rfl rfl rfl rfl)); clear_value z)  | (have hz : PowerUnit := z; clear hz) | (have hz : RedUnit := z; clear hz) | (have hz : PcieUnit := z; clear hz) | (have hz : VkeepUnit := z; clear hz) | (have hz : TimeUnit := z; clear hz) | (have hz : TickUnit := z; clear hz) | (have hz : QueueUnit := z; clear hz) | (have hz : PipeUnit := z; clear hz) | (have hz : SchedUnit := z; clear hz) | (have hz : CipUnit := z; clear hz) | (have hz : CrtUnit := z; clear hz) | (have hz : MbxUnit := z; clear hz) | (have hz : CusUnit := z; clear hz) | (have hz : EccUnit := z; clear hz) | (have hz : PowerGov := z; clear hz) | (have hz : SliceRed := z; clear hz) | (have hz : MemChan := z; clear hz) | clear_value z | skip) | with_reducible assumption | with_reducible apply beginVfClear_keeps | with_reducible apply resetFns_keeps | with_reducible apply releasePf0_keeps | with_reducible apply clearAllAssocs_keeps | with_reducible apply releaseLogs_keeps | (with_reducible apply Keeps.foldl; intro _ _ _) | with_reducible apply Keeps.ite | split | (with_reducible refine Keeps.upd ?_ rfl rfl rfl rfl rfl)

theorem beginPf1Flr_keeps {kr kp kc ky : Bool} {sb : State} (s : State) (hk : Keeps ⟨kr, kp, kc, false, ky⟩ sb s) :
    Keeps ⟨kr, kp, kc, false, ky⟩ sb (beginPf1Flr s) := by
  unfold beginPf1Flr
  repeat' first | with_reducible assumption | with_reducible apply resetFns_keeps | with_reducible apply closeCustody_keeps | (with_reducible apply Keeps.foldl; intro _ _ _) | with_reducible apply Keeps.ite | split | (with_reducible refine Keeps.upd ?_ rfl rfl rfl rfl rfl)

theorem beginHostReset_keeps {kr kp kc ky : Bool} {sb : State} (s : State) (hot : Bool) (hk : Keeps ⟨kr, kp, kc, false, ky⟩ sb s) :
    Keeps ⟨kr, kp, kc, false, ky⟩ sb (beginHostReset s hot) := by
  unfold beginHostReset
  repeat' first | (extract_lets +onlyGivenNames z; first | (have hz : Keeps ⟨kr, kp, kc, false, ky⟩ sb z := (by unfold z; with_reducible assumption); clear hz; subst z) | (have hz : Keeps ⟨kr, kp, kc, false, ky⟩ sb z := (by unfold z; repeat' first | with_reducible assumption | with_reducible apply bump_keeps | with_reducible apply wr_keeps | with_reducible apply beginVfClear_keeps | with_reducible apply resetFns_keeps | with_reducible apply releasePf0_keeps | with_reducible apply clearAllAssocs_keeps | with_reducible apply closeCustody_keeps | with_reducible apply releaseLogs_keeps | (with_reducible apply Keeps.foldl; intro _ _ _) | with_reducible apply Keeps.ite | split | (with_reducible refine Keeps.upd ?_ rfl rfl rfl rfl rfl)); clear_value z)  | (have hz : PowerUnit := z; clear hz) | (have hz : RedUnit := z; clear hz) | (have hz : PcieUnit := z; clear hz) | (have hz : VkeepUnit := z; clear hz) | (have hz : TimeUnit := z; clear hz) | (have hz : TickUnit := z; clear hz) | (have hz : QueueUnit := z; clear hz) | (have hz : PipeUnit := z; clear hz) | (have hz : SchedUnit := z; clear hz) | (have hz : CipUnit := z; clear hz) | (have hz : CrtUnit := z; clear hz) | (have hz : MbxUnit := z; clear hz) | (have hz : CusUnit := z; clear hz) | (have hz : EccUnit := z; clear hz) | (have hz : PowerGov := z; clear hz) | (have hz : SliceRed := z; clear hz) | (have hz : MemChan := z; clear hz) | clear_value z | skip) | with_reducible assumption | with_reducible apply bump_keeps | with_reducible apply wr_keeps | with_reducible apply beginVfClear_keeps | with_reducible apply resetFns_keeps | with_reducible apply releasePf0_keeps | with_reducible apply clearAllAssocs_keeps | with_reducible apply closeCustody_keeps | with_reducible apply releaseLogs_keeps | (with_reducible apply Keeps.foldl; intro _ _ _) | with_reducible apply Keeps.ite | split | (with_reducible refine Keeps.upd ?_ rfl rfl rfl rfl rfl)

theorem execHostReset_keeps {kr kp kc ky : Bool} {sb : State} (hot : Bool) (s : State) (hk : Keeps ⟨kr, kp, kc, false, ky⟩ sb s) :
    KeepsO ⟨kr, kp, kc, false, ky⟩ sb (execHostReset hot s) := by
  unfold execHostReset
  repeat' first | with_reducible apply KeepsO.next | with_reducible assumption | with_reducible apply beginHostReset_keeps | (with_reducible apply Keeps.foldl; intro _ _ _) | with_reducible apply Keeps.ite | with_reducible apply KeepsO.ite | split | (with_reducible refine Keeps.upd ?_ rfl rfl rfl rfl rfl)

theorem execPf0Flr_keeps {kr kp kc ky : Bool} {sb : State} (s : State) (hk : Keeps ⟨kr, kp, kc, false, ky⟩ sb s) :
    KeepsO ⟨kr, kp, kc, false, ky⟩ sb (execPf0Flr s) := by
  unfold execPf0Flr
  repeat' first | with_reducible apply KeepsO.next | with_reducible assumption | with_reducible apply beginPf0Flr_keeps | (with_reducible apply Keeps.foldl; intro _ _ _) | with_reducible apply Keeps.ite | with_reducible apply KeepsO.ite | split | (with_reducible refine Keeps.upd ?_ rfl rfl rfl rfl rfl)

theorem execVfFlr_keeps {kr kp kc ky : Bool} {sb : State} (t : Fin 1024) (s : State) (hk : Keeps ⟨kr, kp, kc, false, ky⟩ sb s) :
    KeepsO ⟨kr, kp, kc, false, ky⟩ sb (execVfFlr t s) := by
  unfold execVfFlr
  repeat' first | with_reducible apply KeepsO.next | with_reducible assumption | with_reducible apply beginVfFlr_keeps | (with_reducible apply Keeps.foldl; intro _ _ _) | with_reducible apply Keeps.ite | with_reducible apply KeepsO.ite | split | (with_reducible refine Keeps.upd ?_ rfl rfl rfl rfl rfl)

theorem execPf1Flr_keeps {kr kp kc ky : Bool} {sb : State} (s : State) (hk : Keeps ⟨kr, kp, kc, false, ky⟩ sb s) :
    KeepsO ⟨kr, kp, kc, false, ky⟩ sb (execPf1Flr s) := by
  unfold execPf1Flr
  repeat' first | with_reducible apply KeepsO.next | with_reducible assumption | with_reducible apply beginPf1Flr_keeps | (with_reducible apply Keeps.foldl; intro _ _ _) | with_reducible apply Keeps.ite | with_reducible apply KeepsO.ite | split | (with_reducible refine Keeps.upd ?_ rfl rfl rfl rfl rfl)

theorem endFlr_keeps {kk : Kind} {sb : State} (s : State) (p : Nat → Bool) (hk : Keeps kk sb s) :
    Keeps kk sb (endFlr s p) := by
  unfold endFlr
  repeat' first | (extract_lets +onlyGivenNames z; first | (have hz : Keeps kk sb z := (by unfold z; with_reducible assumption); clear hz; subst z) | (have hz : Keeps kk sb z := (by unfold z; repeat' first | with_reducible assumption | (with_reducible apply Keeps.foldl; intro _ _ _) | with_reducible apply Keeps.ite | split | (with_reducible refine Keeps.upd ?_ rfl rfl rfl rfl rfl)); clear_value z)  | (have hz : PowerUnit := z; clear hz) | (have hz : RedUnit := z; clear hz) | (have hz : PcieUnit := z; clear hz) | (have hz : VkeepUnit := z; clear hz) | (have hz : TimeUnit := z; clear hz) | (have hz : TickUnit := z; clear hz) | (have hz : QueueUnit := z; clear hz) | (have hz : PipeUnit := z; clear hz) | (have hz : SchedUnit := z; clear hz) | (have hz : CipUnit := z; clear hz) | (have hz : CrtUnit := z; clear hz) | (have hz : MbxUnit := z; clear hz) | (have hz : CusUnit := z; clear hz) | (have hz : EccUnit := z; clear hz) | (have hz : PowerGov := z; clear hz) | (have hz : SliceRed := z; clear hz) | (have hz : MemChan := z; clear hz) | clear_value z | skip) | with_reducible assumption | (with_reducible apply Keeps.foldl; intro _ _ _) | with_reducible apply Keeps.ite | split | (with_reducible refine Keeps.upd ?_ rfl rfl rfl rfl rfl)

theorem noteMgrReset_keeps {kk : Kind} {sb : State} (s : State) (hk : Keeps kk sb s) :
    Keeps kk sb (noteMgrReset s) := by
  unfold noteMgrReset
  repeat' first | with_reducible assumption | with_reducible apply wr_keeps | (with_reducible apply Keeps.foldl; intro _ _ _) | with_reducible apply Keeps.ite | split | (with_reducible refine Keeps.upd ?_ rfl rfl rfl rfl rfl)

theorem execFlrComplete_keeps {kk : Kind} {sb : State} (fn : Fin 1026) (s : State) (hk : Keeps kk sb s) :
    KeepsO kk sb (execFlrComplete fn s) := by
  unfold execFlrComplete
  repeat' first | (extract_lets +onlyGivenNames z; first | (have hz : Keeps kk sb z := (by unfold z; with_reducible assumption); clear hz; subst z) | (have hz : Keeps kk sb z := (by unfold z; repeat' first | with_reducible apply KeepsO.next | with_reducible assumption | with_reducible apply noteMgrReset_keeps | with_reducible apply endFlr_keeps | (with_reducible apply Keeps.foldl; intro _ _ _) | with_reducible apply Keeps.ite | with_reducible apply KeepsO.ite | split | (with_reducible refine Keeps.upd ?_ rfl rfl rfl rfl rfl)); clear_value z)  | (have hz : PowerUnit := z; clear hz) | (have hz : RedUnit := z; clear hz) | (have hz : PcieUnit := z; clear hz) | (have hz : VkeepUnit := z; clear hz) | (have hz : TimeUnit := z; clear hz) | (have hz : TickUnit := z; clear hz) | (have hz : QueueUnit := z; clear hz) | (have hz : PipeUnit := z; clear hz) | (have hz : SchedUnit := z; clear hz) | (have hz : CipUnit := z; clear hz) | (have hz : CrtUnit := z; clear hz) | (have hz : MbxUnit := z; clear hz) | (have hz : CusUnit := z; clear hz) | (have hz : EccUnit := z; clear hz) | (have hz : PowerGov := z; clear hz) | (have hz : SliceRed := z; clear hz) | (have hz : MemChan := z; clear hz) | clear_value z | skip) | with_reducible apply KeepsO.next | with_reducible assumption | with_reducible apply noteMgrReset_keeps | with_reducible apply endFlr_keeps | (with_reducible apply Keeps.foldl; intro _ _ _) | with_reducible apply Keeps.ite | with_reducible apply KeepsO.ite | split | (with_reducible refine Keeps.upd ?_ rfl rfl rfl rfl rfl)

theorem execVfChangeComplete_keeps {kk : Kind} {sb : State} (s : State) (hk : Keeps kk sb s) :
    KeepsO kk sb (execVfChangeComplete s) := by
  unfold execVfChangeComplete
  repeat' first | (extract_lets +onlyGivenNames z; first | (have hz : Keeps kk sb z := (by unfold z; with_reducible assumption); clear hz; subst z) | (have hz : Keeps kk sb z := (by unfold z; repeat' first | with_reducible apply KeepsO.next | with_reducible assumption | with_reducible apply endFlr_keeps | (with_reducible apply Keeps.foldl; intro _ _ _) | with_reducible apply Keeps.ite | with_reducible apply KeepsO.ite | split | (with_reducible refine Keeps.upd ?_ rfl rfl rfl rfl rfl)); clear_value z)  | (have hz : PowerUnit := z; clear hz) | (have hz : RedUnit := z; clear hz) | (have hz : PcieUnit := z; clear hz) | (have hz : VkeepUnit := z; clear hz) | (have hz : TimeUnit := z; clear hz) | (have hz : TickUnit := z; clear hz) | (have hz : QueueUnit := z; clear hz) | (have hz : PipeUnit := z; clear hz) | (have hz : SchedUnit := z; clear hz) | (have hz : CipUnit := z; clear hz) | (have hz : CrtUnit := z; clear hz) | (have hz : MbxUnit := z; clear hz) | (have hz : CusUnit := z; clear hz) | (have hz : EccUnit := z; clear hz) | (have hz : PowerGov := z; clear hz) | (have hz : SliceRed := z; clear hz) | (have hz : MemChan := z; clear hz) | clear_value z | skip) | with_reducible apply KeepsO.next | with_reducible assumption | with_reducible apply endFlr_keeps | (with_reducible apply Keeps.foldl; intro _ _ _) | with_reducible apply Keeps.ite | with_reducible apply KeepsO.ite | split | (with_reducible refine Keeps.upd ?_ rfl rfl rfl rfl rfl)

theorem vfEnableChange_keeps {kr kp kc ky : Bool} {sb : State} (s : State) (old : Bool) (hk : Keeps ⟨kr, kp, kc, false, ky⟩ sb s) :
    Keeps ⟨kr, kp, kc, false, ky⟩ sb (vfEnableChange s old) := by
  unfold vfEnableChange
  repeat' first | (extract_lets +onlyGivenNames z; first | (have hz : Keeps ⟨kr, kp, kc, false, ky⟩ sb z := (by unfold z; with_reducible assumption); clear hz; subst z) | (have hz : Keeps ⟨kr, kp, kc, false, ky⟩ sb z := (by unfold z; repeat' first | with_reducible assumption | with_reducible apply beginVfClear_keeps | (with_reducible apply Keeps.foldl; intro _ _ _) | with_reducible apply Keeps.ite | split | (with_reducible refine Keeps.upd ?_ rfl rfl rfl rfl rfl)); clear_value z)  | (have hz : PowerUnit := z; clear hz) | (have hz : RedUnit := z; clear hz) | (have hz : PcieUnit := z; clear hz) | (have hz : VkeepUnit := z; clear hz) | (have hz : TimeUnit := z; clear hz) | (have hz : TickUnit := z; clear hz) | (have hz : QueueUnit := z; clear hz) | (have hz : PipeUnit := z; clear hz) | (have hz : SchedUnit := z; clear hz) | (have hz : CipUnit := z; clear hz) | (have hz : CrtUnit := z; clear hz) | (have hz : MbxUnit := z; clear hz) | (have hz : CusUnit := z; clear hz) | (have hz : EccUnit := z; clear hz) | (have hz : PowerGov := z; clear hz) | (have hz : SliceRed := z; clear hz) | (have hz : MemChan := z; clear hz) | clear_value z | skip) | with_reducible assumption | with_reducible apply beginVfClear_keeps | (with_reducible apply Keeps.foldl; intro _ _ _) | with_reducible apply Keeps.ite | split | (with_reducible refine Keeps.upd ?_ rfl rfl rfl rfl rfl)

theorem cfgWrite_keeps {kr kp kc ky : Bool} {sb : State} (s : State) (f o be : Nat) (w : Word) (hk : Keeps ⟨kr, kp, kc, false, ky⟩ sb s) :
    Keeps ⟨kr, kp, kc, false, ky⟩ sb (cfgWrite s f o be w) := by
  unfold cfgWrite
  repeat' first | (extract_lets +onlyGivenNames z; first | (have hz : Keeps ⟨kr, kp, kc, false, ky⟩ sb z := (by unfold z; with_reducible assumption); clear hz; subst z) | (have hz : Keeps ⟨kr, kp, kc, false, ky⟩ sb z := (by unfold z; repeat' first | with_reducible assumption | with_reducible apply vfEnableChange_keeps | with_reducible apply beginVfFlr_keeps | with_reducible apply beginPf1Flr_keeps | with_reducible apply beginPf0Flr_keeps | with_reducible apply bmeCleared_keeps | with_reducible apply cfgWr_keeps | (with_reducible apply Keeps.foldl; intro _ _ _) | (with_reducible apply Keeps.foldlP; intro _ _ _) | with_reducible apply Keeps.ite | split | (with_reducible refine Keeps.upd ?_ rfl rfl rfl rfl rfl)); clear_value z)  | (have hz : Keeps ⟨kr, kp, kc, false, ky⟩ sb z.1 := (by unfold z; repeat' first | with_reducible assumption | with_reducible apply vfEnableChange_keeps | with_reducible apply beginVfFlr_keeps | with_reducible apply beginPf1Flr_keeps | with_reducible apply beginPf0Flr_keeps | with_reducible apply bmeCleared_keeps | with_reducible apply cfgWr_keeps | (with_reducible apply Keeps.foldl; intro _ _ _) | (with_reducible apply Keeps.foldlP; intro _ _ _) | with_reducible apply Keeps.ite | split | (with_reducible refine Keeps.upd ?_ rfl rfl rfl rfl rfl)); clear_value z) | (have hz : PowerUnit := z; clear hz) | (have hz : RedUnit := z; clear hz) | (have hz : PcieUnit := z; clear hz) | (have hz : VkeepUnit := z; clear hz) | (have hz : TimeUnit := z; clear hz) | (have hz : TickUnit := z; clear hz) | (have hz : QueueUnit := z; clear hz) | (have hz : PipeUnit := z; clear hz) | (have hz : SchedUnit := z; clear hz) | (have hz : CipUnit := z; clear hz) | (have hz : CrtUnit := z; clear hz) | (have hz : MbxUnit := z; clear hz) | (have hz : CusUnit := z; clear hz) | (have hz : EccUnit := z; clear hz) | (have hz : PowerGov := z; clear hz) | (have hz : SliceRed := z; clear hz) | (have hz : MemChan := z; clear hz) | clear_value z | skip) | with_reducible assumption | with_reducible apply vfEnableChange_keeps | with_reducible apply beginVfFlr_keeps | with_reducible apply beginPf1Flr_keeps | with_reducible apply beginPf0Flr_keeps | with_reducible apply bmeCleared_keeps | with_reducible apply cfgWr_keeps | (with_reducible apply Keeps.foldl; intro _ _ _) | (with_reducible apply Keeps.foldlP; intro _ _ _) | with_reducible apply Keeps.ite | split | (with_reducible refine Keeps.upd ?_ rfl rfl rfl rfl rfl)

theorem execConfigRequest_keeps {kr kp kc ky : Bool} {sb : State} (fn : Fin 1026) (off : Nat) (be : Nat) (w : Option Word) (s : State) (hk : Keeps ⟨kr, kp, kc, false, ky⟩ sb s) :
    KeepsO ⟨kr, kp, kc, false, ky⟩ sb (execConfigRequest fn off be w s) := by
  unfold execConfigRequest
  repeat' first | (extract_lets +onlyGivenNames z; first | (have hz : Keeps ⟨kr, kp, kc, false, ky⟩ sb z := (by unfold z; with_reducible assumption); clear hz; subst z) | (have hz : Keeps ⟨kr, kp, kc, false, ky⟩ sb z := (by unfold z; repeat' first | with_reducible apply KeepsO.next | with_reducible assumption | with_reducible apply cfgWrite_keeps | with_reducible apply unsupported_keeps | with_reducible apply emit_keeps | (with_reducible apply Keeps.foldl; intro _ _ _) | with_reducible apply Keeps.ite | with_reducible apply KeepsO.ite | split | (with_reducible refine Keeps.upd ?_ rfl rfl rfl rfl rfl)); clear_value z)  | (have hz : PowerUnit := z; clear hz) | (have hz : RedUnit := z; clear hz) | (have hz : PcieUnit := z; clear hz) | (have hz : VkeepUnit := z; clear hz) | (have hz : TimeUnit := z; clear hz) | (have hz : TickUnit := z; clear hz) | (have hz : QueueUnit := z; clear hz) | (have hz : PipeUnit := z; clear hz) | (have hz : SchedUnit := z; clear hz) | (have hz : CipUnit := z; clear hz) | (have hz : CrtUnit := z; clear hz) | (have hz : MbxUnit := z; clear hz) | (have hz : CusUnit := z; clear hz) | (have hz : EccUnit := z; clear hz) | (have hz : PowerGov := z; clear hz) | (have hz : SliceRed := z; clear hz) | (have hz : MemChan := z; clear hz) | clear_value z | skip) | with_reducible apply KeepsO.next | with_reducible assumption | with_reducible apply cfgWrite_keeps | with_reducible apply unsupported_keeps | with_reducible apply emit_keeps | (with_reducible apply Keeps.foldl; intro _ _ _) | with_reducible apply Keeps.ite | with_reducible apply KeepsO.ite | split | (with_reducible refine Keeps.upd ?_ rfl rfl rfl rfl rfl)

theorem cfgField_keeps {kr kp kc ky : Bool} {sb : State} (s : State) (f o : Nat) (w : Word) (hk : Keeps ⟨kr, kp, kc, false, ky⟩ sb s) :
    Keeps ⟨kr, kp, kc, false, ky⟩ sb (cfgField s f o w) := by
  unfold cfgField
  repeat' first | with_reducible assumption | with_reducible apply cfgWrite_keeps | (with_reducible apply Keeps.foldl; intro _ _ _) | with_reducible apply Keeps.ite | split | (with_reducible refine Keeps.upd ?_ rfl rfl rfl rfl rfl)

theorem execPowerStateWrite_keeps {kr kp kc ky : Bool} {sb : State} (fn : Fin 1026) (ps : Fin 4) (s : State) (hk : Keeps ⟨kr, kp, kc, false, ky⟩ sb s) :
    KeepsO ⟨kr, kp, kc, false, ky⟩ sb (execPowerStateWrite fn ps s) := by
  unfold execPowerStateWrite
  repeat' first | with_reducible apply KeepsO.next | with_reducible assumption | with_reducible apply cfgField_keeps | (with_reducible apply Keeps.foldl; intro _ _ _) | with_reducible apply Keeps.ite | with_reducible apply KeepsO.ite | split | (with_reducible refine Keeps.upd ?_ rfl rfl rfl rfl rfl)

theorem execPmeStatusClear_keeps {kr kp kc ky : Bool} {sb : State} (fn : Fin 1026) (s : State) (hk : Keeps ⟨kr, kp, kc, false, ky⟩ sb s) :
    KeepsO ⟨kr, kp, kc, false, ky⟩ sb (execPmeStatusClear fn s) := by
  unfold execPmeStatusClear
  repeat' first | with_reducible apply KeepsO.next | with_reducible assumption | with_reducible apply cfgField_keeps | (with_reducible apply Keeps.foldl; intro _ _ _) | with_reducible apply Keeps.ite | with_reducible apply KeepsO.ite | split | (with_reducible refine Keeps.upd ?_ rfl rfl rfl rfl rfl)

theorem execBusMasterEnableClear_keeps {kr kp kc ky : Bool} {sb : State} (fn : Fin 1026) (s : State) (hk : Keeps ⟨kr, kp, kc, false, ky⟩ sb s) :
    KeepsO ⟨kr, kp, kc, false, ky⟩ sb (execBusMasterEnableClear fn s) := by
  unfold execBusMasterEnableClear
  repeat' first | with_reducible apply KeepsO.next | with_reducible assumption | with_reducible apply cfgField_keeps | (with_reducible apply Keeps.foldl; intro _ _ _) | with_reducible apply Keeps.ite | with_reducible apply KeepsO.ite | split | (with_reducible refine Keeps.upd ?_ rfl rfl rfl rfl rfl)

theorem execBusMasterEnableSet_keeps {kr kp kc ky : Bool} {sb : State} (fn : Fin 1026) (s : State) (hk : Keeps ⟨kr, kp, kc, false, ky⟩ sb s) :
    KeepsO ⟨kr, kp, kc, false, ky⟩ sb (execBusMasterEnableSet fn s) := by
  unfold execBusMasterEnableSet
  repeat' first | with_reducible apply KeepsO.next | with_reducible assumption | with_reducible apply cfgField_keeps | (with_reducible apply Keeps.foldl; intro _ _ _) | with_reducible apply Keeps.ite | with_reducible apply KeepsO.ite | split | (with_reducible refine Keeps.upd ?_ rfl rfl rfl rfl rfl)

theorem execVfEnableSet_keeps {kr kp kc ky : Bool} {sb : State} (s : State) (hk : Keeps ⟨kr, kp, kc, false, ky⟩ sb s) :
    KeepsO ⟨kr, kp, kc, false, ky⟩ sb (execVfEnableSet s) := by
  unfold execVfEnableSet
  repeat' first | with_reducible apply KeepsO.next | with_reducible assumption | with_reducible apply cfgField_keeps | (with_reducible apply Keeps.foldl; intro _ _ _) | with_reducible apply Keeps.ite | with_reducible apply KeepsO.ite | split | (with_reducible refine Keeps.upd ?_ rfl rfl rfl rfl rfl)

theorem execVfEnableClear_keeps {kr kp kc ky : Bool} {sb : State} (s : State) (hk : Keeps ⟨kr, kp, kc, false, ky⟩ sb s) :
    KeepsO ⟨kr, kp, kc, false, ky⟩ sb (execVfEnableClear s) := by
  unfold execVfEnableClear
  repeat' first | with_reducible apply KeepsO.next | with_reducible assumption | with_reducible apply cfgField_keeps | (with_reducible apply Keeps.foldl; intro _ _ _) | with_reducible apply Keeps.ite | with_reducible apply KeepsO.ite | split | (with_reducible refine Keeps.upd ?_ rfl rfl rfl rfl rfl)

end Sys2Proof.Machine
end

