-- ==== Sys2Proof/Laws/KeepsAccess.lean ====
section
/-! SUPPORT. The operations of Access keep what Laws/Keeps.lean states. -/
set_option linter.tactic.unusedName false
set_option linter.unusedVariables false
namespace Sys2Proof.Machine

theorem noteUnmapped_keeps {kk : Kind} {sb : State} (s : State) (via : Master) (a : Nat) (write : Bool) (hk : Keeps kk sb s) :
    Keeps kk sb (noteUnmapped s via a write) := by
  unfold noteUnmapped
  repeat' first | (extract_lets +onlyGivenNames z; first | (have hz : Keeps kk sb z := (by unfold z; with_reducible assumption); clear hz; subst z) | (have hz : Keeps kk sb z := (by unfold z; repeat' first | with_reducible assumption | with_reducible apply setErr_keeps | with_reducible apply bump_keeps | with_reducible apply wr_keeps | (with_reducible apply Keeps.foldl; intro _ _ _) | with_reducible apply Keeps.ite | split | (with_reducible refine Keeps.upd ?_ rfl rfl rfl rfl rfl)); clear_value z)  | (have hz : PowerUnit := z; clear hz) | (have hz : RedUnit := z; clear hz) | (have hz : PcieUnit := z; clear hz) | (have hz : VkeepUnit := z; clear hz) | (have hz : TimeUnit := z; clear hz) | (have hz : TickUnit := z; clear hz) | (have hz : QueueUnit := z; clear hz) | (have hz : PipeUnit := z; clear hz) | (have hz : SchedUnit := z; clear hz) | (have hz : CipUnit := z; clear hz) | (have hz : CrtUnit := z; clear hz) | (have hz : MbxUnit := z; clear hz) | (have hz : CusUnit := z; clear hz) | (have hz : EccUnit := z; clear hz) | (have hz : PowerGov := z; clear hz) | (have hz : SliceRed := z; clear hz) | (have hz : MemChan := z; clear hz) | clear_value z | skip) | with_reducible assumption | with_reducible apply setErr_keeps | with_reducible apply bump_keeps | with_reducible apply wr_keeps | (with_reducible apply Keeps.foldl; intro _ _ _) | with_reducible apply Keeps.ite | split | (with_reducible refine Keeps.upd ?_ rfl rfl rfl rfl rfl)

theorem vfNote_keeps {kk : Kind} {sb : State} (s : State) (t off : Nat) (write : Bool) (n : Nat) (hk : Keeps kk sb s) :
    Keeps kk sb (vfNote s t off write n) := by
  unfold vfNote
  repeat' first | (extract_lets +onlyGivenNames z; first | (have hz : Keeps kk sb z := (by unfold z; with_reducible assumption); clear hz; subst z) | (have hz : Keeps kk sb z := (by unfold z; repeat' first | with_reducible assumption | with_reducible apply wr_keeps | (with_reducible apply Keeps.foldl; intro _ _ _) | with_reducible apply Keeps.ite | split | (with_reducible refine Keeps.upd ?_ rfl rfl rfl rfl rfl)); clear_value z)  | (have hz : PowerUnit := z; clear hz) | (have hz : RedUnit := z; clear hz) | (have hz : PcieUnit := z; clear hz) | (have hz : VkeepUnit := z; clear hz) | (have hz : TimeUnit := z; clear hz) | (have hz : TickUnit := z; clear hz) | (have hz : QueueUnit := z; clear hz) | (have hz : PipeUnit := z; clear hz) | (have hz : SchedUnit := z; clear hz) | (have hz : CipUnit := z; clear hz) | (have hz : CrtUnit := z; clear hz) | (have hz : MbxUnit := z; clear hz) | (have hz : CusUnit := z; clear hz) | (have hz : EccUnit := z; clear hz) | (have hz : PowerGov := z; clear hz) | (have hz : SliceRed := z; clear hz) | (have hz : MemChan := z; clear hz) | clear_value z | skip) | with_reducible assumption | with_reducible apply wr_keeps | (with_reducible apply Keeps.foldl; intro _ _ _) | with_reducible apply Keeps.ite | split | (with_reducible refine Keeps.upd ?_ rfl rfl rfl rfl rfl)

theorem pf1Note_keeps {kk : Kind} {sb : State} (s : State) (off n : Nat) (hk : Keeps kk sb s) :
    Keeps kk sb (pf1Note s off n) := by
  unfold pf1Note
  repeat' first | (extract_lets +onlyGivenNames z; first | (have hz : Keeps kk sb z := (by unfold z; with_reducible assumption); clear hz; subst z) | (have hz : Keeps kk sb z := (by unfold z; repeat' first | with_reducible assumption | with_reducible apply wr_keeps | with_reducible apply setErr_keeps | (with_reducible apply Keeps.foldl; intro _ _ _) | with_reducible apply Keeps.ite | split | (with_reducible refine Keeps.upd ?_ rfl rfl rfl rfl rfl)); clear_value z)  | (have hz : PowerUnit := z; clear hz) | (have hz : RedUnit := z; clear hz) | (have hz : PcieUnit := z; clear hz) | (have hz : VkeepUnit := z; clear hz) | (have hz : TimeUnit := z; clear hz) | (have hz : TickUnit := z; clear hz) | (have hz : QueueUnit := z; clear hz) | (have hz : PipeUnit := z; clear hz) | (have hz : SchedUnit := z; clear hz) | (have hz : CipUnit := z; clear hz) | (have hz : CrtUnit := z; clear hz) | (have hz : MbxUnit := z; clear hz) | (have hz : CusUnit := z; clear hz) | (have hz : EccUnit := z; clear hz) | (have hz : PowerGov := z; clear hz) | (have hz : SliceRed := z; clear hz) | (have hz : MemChan := z; clear hz) | clear_value z | skip) | with_reducible assumption | with_reducible apply wr_keeps | with_reducible apply setErr_keeps | (with_reducible apply Keeps.foldl; intro _ _ _) | with_reducible apply Keeps.ite | split | (with_reducible refine Keeps.upd ?_ rfl rfl rfl rfl rfl)

theorem noteUndef_keeps {kk : Kind} {sb : State} (s : State) (via : Master) (off : Nat) (write : Bool) (hk : Keeps kk sb s) :
    Keeps kk sb (noteUndef s via off write) := by
  unfold noteUndef
  repeat' first | with_reducible assumption | with_reducible apply setCpErr_keeps | with_reducible apply vfNote_keeps | with_reducible apply pf1Note_keeps | (with_reducible apply Keeps.foldl; intro _ _ _) | with_reducible apply Keeps.ite | split | (with_reducible refine Keeps.upd ?_ rfl rfl rfl rfl rfl)

theorem partialWrite_keeps {kk : Kind} {sb : State} (s : State) (via : Master) (off : Nat) (hk : Keeps kk sb s) :
    Keeps kk sb (partialWrite s via off) := by
  unfold partialWrite
  repeat' first | with_reducible assumption | with_reducible apply noteUnmapped_keeps | with_reducible apply setErr_keeps | with_reducible apply setCpErr_keeps | with_reducible apply vfNote_keeps | with_reducible apply pf1Note_keeps | (with_reducible apply Keeps.foldl; intro _ _ _) | with_reducible apply Keeps.ite | split | (with_reducible refine Keeps.upd ?_ rfl rfl rfl rfl rfl)

theorem captureMore_keeps {kk : Kind} {sb : State} (s : State) (p : PageAt) (off : Nat) (hk : Keeps kk sb s) :
    Keeps kk sb (captureMore s p off) := by
  unfold captureMore
  repeat' first | (extract_lets +onlyGivenNames z; first | (have hz : Keeps kk sb z := (by unfold z; with_reducible assumption); clear hz; subst z) | (have hz : Keeps kk sb z := (by unfold z; repeat' first | with_reducible assumption | with_reducible apply wrMany_keeps | (with_reducible apply Keeps.foldl; intro _ _ _) | with_reducible apply Keeps.ite | split | (with_reducible refine Keeps.upd ?_ rfl rfl rfl rfl rfl)); clear_value z)  | (have hz : PowerUnit := z; clear hz) | (have hz : RedUnit := z; clear hz) | (have hz : PcieUnit := z; clear hz) | (have hz : VkeepUnit := z; clear hz) | (have hz : TimeUnit := z; clear hz) | (have hz : TickUnit := z; clear hz) | (have hz : QueueUnit := z; clear hz) | (have hz : PipeUnit := z; clear hz) | (have hz : SchedUnit := z; clear hz) | (have hz : CipUnit := z; clear hz) | (have hz : CrtUnit := z; clear hz) | (have hz : MbxUnit := z; clear hz) | (have hz : CusUnit := z; clear hz) | (have hz : EccUnit := z; clear hz) | (have hz : PowerGov := z; clear hz) | (have hz : SliceRed := z; clear hz) | (have hz : MemChan := z; clear hz) | clear_value z | skip) | with_reducible assumption | with_reducible apply wrMany_keeps | (with_reducible apply Keeps.foldl; intro _ _ _) | with_reducible apply Keeps.ite | split | (with_reducible refine Keeps.upd ?_ rfl rfl rfl rfl rfl)

theorem advanceIndex_keeps {kk : Kind} {sb : State} (s : State) (p : PageAt) (off : Nat) (hk : Keeps kk sb s) :
    Keeps kk sb (advanceIndex s p off) := by
  unfold advanceIndex
  repeat' first | (extract_lets +onlyGivenNames z; first | (have hz : Keeps kk sb z := (by unfold z; with_reducible assumption); clear hz; subst z) | (have hz : Keeps kk sb z := (by unfold z; repeat' first | with_reducible assumption | with_reducible apply wr_keeps | (with_reducible apply Keeps.foldl; intro _ _ _) | with_reducible apply Keeps.ite | split | (with_reducible refine Keeps.upd ?_ rfl rfl rfl rfl rfl)); clear_value z)  | (have hz : PowerUnit := z; clear hz) | (have hz : RedUnit := z; clear hz) | (have hz : PcieUnit := z; clear hz) | (have hz : VkeepUnit := z; clear hz) | (have hz : TimeUnit := z; clear hz) | (have hz : TickUnit := z; clear hz) | (have hz : QueueUnit := z; clear hz) | (have hz : PipeUnit := z; clear hz) | (have hz : SchedUnit := z; clear hz) | (have hz : CipUnit := z; clear hz) | (have hz : CrtUnit := z; clear hz) | (have hz : MbxUnit := z; clear hz) | (have hz : CusUnit := z; clear hz) | (have hz : EccUnit := z; clear hz) | (have hz : PowerGov := z; clear hz) | (have hz : SliceRed := z; clear hz) | (have hz : MemChan := z; clear hz) | clear_value z | skip) | with_reducible assumption | with_reducible apply wr_keeps | (with_reducible apply Keeps.foldl; intro _ _ _) | with_reducible apply Keeps.ite | split | (with_reducible refine Keeps.upd ?_ rfl rfl rfl rfl rfl)

theorem lockRead_keeps {kk : Kind} {sb : State} (s : State) (sl : SliceId) (via : Master) (hk : Keeps kk sb s) :
    Keeps kk sb (lockRead s sl via).1 := by
  unfold lockRead
  repeat' first | (extract_lets +onlyGivenNames z; first | (have hz : Keeps kk sb z := (by unfold z; with_reducible assumption); clear hz; subst z) | (have hz : Keeps kk sb z := (by unfold z; repeat' first | with_reducible assumption | with_reducible apply wr_keeps | (with_reducible apply Keeps.foldl; intro _ _ _) | with_reducible apply Keeps.ite | split | (with_reducible refine Keeps.upd ?_ rfl rfl rfl rfl rfl)); clear_value z)  | (have hz : PowerUnit := z; clear hz) | (have hz : RedUnit := z; clear hz) | (have hz : PcieUnit := z; clear hz) | (have hz : VkeepUnit := z; clear hz) | (have hz : TimeUnit := z; clear hz) | (have hz : TickUnit := z; clear hz) | (have hz : QueueUnit := z; clear hz) | (have hz : PipeUnit := z; clear hz) | (have hz : SchedUnit := z; clear hz) | (have hz : CipUnit := z; clear hz) | (have hz : CrtUnit := z; clear hz) | (have hz : MbxUnit := z; clear hz) | (have hz : CusUnit := z; clear hz) | (have hz : EccUnit := z; clear hz) | (have hz : PowerGov := z; clear hz) | (have hz : SliceRed := z; clear hz) | (have hz : MemChan := z; clear hz) | clear_value z | skip) | with_reducible assumption | with_reducible apply wr_keeps | (with_reducible apply Keeps.foldl; intro _ _ _) | with_reducible apply Keeps.ite | split | (with_reducible refine Keeps.upd ?_ rfl rfl rfl rfl rfl)

theorem beforeRead_keeps {kk : Kind} {sb : State} (s : State) (p : PageAt) (hk : Keeps kk sb s) :
    Keeps kk sb (beforeRead s p) := by
  unfold beforeRead
  repeat' first | with_reducible assumption | with_reducible apply evcFlush_keeps | (with_reducible apply Keeps.foldl; intro _ _ _) | with_reducible apply Keeps.ite | split | (with_reducible refine Keeps.upd ?_ rfl rfl rfl rfl rfl)

theorem regRead_keeps {kk : Kind} {sb : State} (s0 : State) (via : Master) (p : PageAt) (off : Nat) (r : RegRow) (hk : Keeps kk sb s0) :
    Keeps kk sb (regRead s0 via p off r).1 := by
  unfold regRead
  repeat' first | (extract_lets +onlyGivenNames z; first | (have hz : Keeps kk sb z := (by unfold z; with_reducible assumption); clear hz; subst z) | (have hz : Keeps kk sb z := (by unfold z; repeat' first | with_reducible assumption | with_reducible apply advanceIndex_keeps | with_reducible apply wrWide_keeps | with_reducible apply wr_keeps | with_reducible apply captureMore_keeps | with_reducible apply beforeRead_keeps | with_reducible apply lockRead_keeps | (with_reducible apply Keeps.foldl; intro _ _ _) | with_reducible apply Keeps.ite | split | (with_reducible refine Keeps.upd ?_ rfl rfl rfl rfl rfl)); clear_value z)  | (have hz : PowerUnit := z; clear hz) | (have hz : RedUnit := z; clear hz) | (have hz : PcieUnit := z; clear hz) | (have hz : VkeepUnit := z; clear hz) | (have hz : TimeUnit := z; clear hz) | (have hz : TickUnit := z; clear hz) | (have hz : QueueUnit := z; clear hz) | (have hz : PipeUnit := z; clear hz) | (have hz : SchedUnit := z; clear hz) | (have hz : CipUnit := z; clear hz) | (have hz : CrtUnit := z; clear hz) | (have hz : MbxUnit := z; clear hz) | (have hz : CusUnit := z; clear hz) | (have hz : EccUnit := z; clear hz) | (have hz : PowerGov := z; clear hz) | (have hz : SliceRed := z; clear hz) | (have hz : MemChan := z; clear hz) | clear_value z | skip) | with_reducible assumption | with_reducible apply advanceIndex_keeps | with_reducible apply wrWide_keeps | with_reducible apply wr_keeps | with_reducible apply captureMore_keeps | with_reducible apply beforeRead_keeps | with_reducible apply lockRead_keeps | (with_reducible apply Keeps.foldl; intro _ _ _) | with_reducible apply Keeps.ite | split | (with_reducible refine Keeps.upd ?_ rfl rfl rfl rfl rfl)

theorem readAccess_keeps {kk : Kind} {sb : State} (s : State) (via : Master) (off : Nat) (hk : Keeps kk sb s) :
    Keeps kk sb (readAccess s via off).1 := by
  unfold readAccess
  repeat' first | (extract_lets +onlyGivenNames z; first | (have hz : Keeps kk sb z := (by unfold z; with_reducible assumption); clear hz; subst z) | (have hz : Keeps kk sb z := (by unfold z; repeat' first | with_reducible assumption | with_reducible apply noteUnmapped_keeps | with_reducible apply noteUndef_keeps | with_reducible apply regRead_keeps | (with_reducible apply Keeps.foldl; intro _ _ _) | (with_reducible apply Keeps.foldlP; intro _ _ _) | with_reducible apply Keeps.ite | split | (with_reducible refine Keeps.upd ?_ rfl rfl rfl rfl rfl)); clear_value z)  | (have hz : Keeps kk sb z.1 := (by unfold z; repeat' first | with_reducible assumption | with_reducible apply noteUnmapped_keeps | with_reducible apply noteUndef_keeps | with_reducible apply regRead_keeps | (with_reducible apply Keeps.foldl; intro _ _ _) | (with_reducible apply Keeps.foldlP; intro _ _ _) | with_reducible apply Keeps.ite | split | (with_reducible refine Keeps.upd ?_ rfl rfl rfl rfl rfl)); clear_value z) | (have hz : PowerUnit := z; clear hz) | (have hz : RedUnit := z; clear hz) | (have hz : PcieUnit := z; clear hz) | (have hz : VkeepUnit := z; clear hz) | (have hz : TimeUnit := z; clear hz) | (have hz : TickUnit := z; clear hz) | (have hz : QueueUnit := z; clear hz) | (have hz : PipeUnit := z; clear hz) | (have hz : SchedUnit := z; clear hz) | (have hz : CipUnit := z; clear hz) | (have hz : CrtUnit := z; clear hz) | (have hz : MbxUnit := z; clear hz) | (have hz : CusUnit := z; clear hz) | (have hz : EccUnit := z; clear hz) | (have hz : PowerGov := z; clear hz) | (have hz : SliceRed := z; clear hz) | (have hz : MemChan := z; clear hz) | clear_value z | skip) | with_reducible assumption | with_reducible apply noteUnmapped_keeps | with_reducible apply noteUndef_keeps | with_reducible apply regRead_keeps | (with_reducible apply Keeps.foldl; intro _ _ _) | (with_reducible apply Keeps.foldlP; intro _ _ _) | with_reducible apply Keeps.ite | split | (with_reducible refine Keeps.upd ?_ rfl rfl rfl rfl rfl)

/-- The page at address 0 is the SYS page. -/
def PageOk (p : PageAt) : Prop := p.base = pgSys → p.kind = .sys

theorem pick_mem {l : List CmdSpec} {code : Nat} {sp : CmdSpec} (h : (if code = 0 then none else l[code - 1]?) = some sp) :
    sp ∈ l := by
  split at h
  · cases h
  · exact List.mem_of_getElem? h

theorem cmdSpec_body {kk : Kind} {sb t : State} {s : State} {p : PageAt} {code : Nat} {sp : CmdSpec} (c : RunCmd)
    (h : cmdSpec s p code = some sp) (hk : Keeps kk sb t) : Keeps kk sb (sp.body c t) := by
  unfold cmdSpec at h
  dsimp only at h
  split at h
  · replace h := pick_mem h
    obtain rfl | h := List.mem_cons.1 h
    · exact specEnterService_keeps _ _ hk
    obtain rfl | h := List.mem_cons.1 h
    · exact specEnterTest_keeps _ _ hk
    obtain rfl | h := List.mem_cons.1 h
    · exact specExitTest_keeps _ _ hk
    obtain rfl | h := List.mem_cons.1 h
    · exact specDeviceReset_keeps _ _ hk
    cases h
  · replace h := pick_mem h
    obtain rfl | h := List.mem_cons.1 h
    · exact specCommitPeriod_keeps _ _ hk
    obtain rfl | h := List.mem_cons.1 h
    · exact specArmPlan_keeps _ _ hk
    obtain rfl | h := List.mem_cons.1 h
    · exact specDisarm_keeps _ _ hk
    cases h
  · replace h := pick_mem h
    obtain rfl | h := List.mem_cons.1 h
    · exact specSetTime_keeps _ _ hk
    obtain rfl | h := List.mem_cons.1 h
    · exact specStepTime_keeps _ _ hk
    obtain rfl | h := List.mem_cons.1 h
    · exact specSnapshot_keeps _ _ hk
    cases h
  · replace h := pick_mem h
    obtain rfl | h := List.mem_cons.1 h
    · exact specLoadCoef_keeps _ _ hk
    obtain rfl | h := List.mem_cons.1 h
    · exact specRestoreDefault_keeps _ _ hk
    cases h
  · replace h := pick_mem h
    obtain rfl | h := List.mem_cons.1 h
    · exact specEquinoxNow_keeps _ _ hk
    obtain rfl | h := List.mem_cons.1 h
    · exact specWithdraw_keeps _ _ hk
    obtain rfl | h := List.mem_cons.1 h
    · exact specReadmit_keeps _ _ hk
    cases h
  · replace h := pick_mem h
    obtain rfl | h := List.mem_cons.1 h
    · exact specErase_keeps _ _ _ _ hk
    cases h
  · replace h := pick_mem h
    obtain rfl | h := List.mem_cons.1 h
    · exact specSealPolicy_keeps _ _ hk
    obtain rfl | h := List.mem_cons.1 h
    · exact specClearAlarm_keeps _ _ hk
    obtain rfl | h := List.mem_cons.1 h
    · exact specErase_keeps _ _ _ _ hk
    cases h
  · replace h := pick_mem h
    obtain rfl | h := List.mem_cons.1 h
    · exact specLogStart_keeps _ _ hk
    obtain rfl | h := List.mem_cons.1 h
    · exact specLogStop_keeps _ _ hk
    cases h
  · replace h := pick_mem h
    obtain rfl | h := List.mem_cons.1 h
    · exact specGclArm_keeps _ _ _ hk
    obtain rfl | h := List.mem_cons.1 h
    · exact specGclDisarm_keeps _ _ _ hk
    obtain rfl | h := List.mem_cons.1 h
    · exact specGclOff_keeps _ _ _ hk
    cases h
  · replace h := pick_mem h
    obtain rfl | h := List.mem_cons.1 h
    · exact specPcsEnable_keeps _ _ _ hk
    obtain rfl | h := List.mem_cons.1 h
    · exact specPcsDisable_keeps _ _ _ hk
    obtain rfl | h := List.mem_cons.1 h
    · exact specRetrain_keeps _ _ _ hk
    cases h
  · replace h := pick_mem h
    obtain rfl | h := List.mem_cons.1 h
    · exact specCbpEnable_keeps _ _ hk
    obtain rfl | h := List.mem_cons.1 h
    · exact specCbpDisable_keeps _ _ hk
    obtain rfl | h := List.mem_cons.1 h
    · exact specMdioRead_keeps _ _ _ hk
    obtain rfl | h := List.mem_cons.1 h
    · exact specMdioWrite_keeps _ _ hk
    cases h
  · split at h
    · cases h; exact specTbl_keeps _ _ _ hk
    · cases h
  · replace h := pick_mem h
    obtain rfl | h := List.mem_cons.1 h
    · exact specFlushKeys_keeps _ _ _ hk
    obtain rfl | h := List.mem_cons.1 h
    · exact specWarmKeys_keeps _ _ _ hk
    cases h
  · replace h := pick_mem h
    obtain rfl | h := List.mem_cons.1 h
    · exact specOpenChannel_keeps _ _ hk
    obtain rfl | h := List.mem_cons.1 h
    · exact specCloseChannel_keeps _ _ hk
    obtain rfl | h := List.mem_cons.1 h
    · exact specWinSet_keeps _ _ hk
    obtain rfl | h := List.mem_cons.1 h
    · exact specWinClose_keeps _ _ hk
    cases h
  · replace h := pick_mem h
    obtain rfl | h := List.mem_cons.1 h
    · exact specMemConfig_keeps _ _ _ hk
    obtain rfl | h := List.mem_cons.1 h
    · exact specMemSweep_keeps _ _ _ _ hk
    obtain rfl | h := List.mem_cons.1 h
    · exact specMemStart_keeps _ _ _ hk
    obtain rfl | h := List.mem_cons.1 h
    · exact specMemRelease_keeps _ _ _ hk
    cases h
  · replace h := pick_mem h
    obtain rfl | h := List.mem_cons.1 h
    · exact specInject_keeps _ _ _ hk
    cases h
  · replace h := pick_mem h
    obtain rfl | h := List.mem_cons.1 h
    · exact specOpen_keeps _ _ _ hk
    obtain rfl | h := List.mem_cons.1 h
    · exact specClose_keeps _ _ _ hk
    obtain rfl | h := List.mem_cons.1 h
    · exact specSubmit_keeps _ _ _ hk
    cases h
  · cases h

theorem cmdSpec_ok {kk : Kind} {s : State} {p : PageAt} {code : Nat} (hp : PageOk p) : SpecOk kk (cmdSpec s p code) p.base code where
  body sp h r sb t c hk := cmdSpec_body c h hk
  phase := by
    by_cases hb : p.base = pgSys
    · by_cases hc : 3 < code
      · exact .inl (.inr hc)
      · refine .inr fun sp h => ?_
        have hc : code = 0 ∨ code = 1 ∨ code = 2 ∨ code = 3 := by omega
        unfold cmdSpec at h
        rw [hp hb] at h
        rcases hc with rfl | rfl | rfl | rfl
        · cases h
        · cases h; rfl
        · cases h; rfl
        · cases h; rfl
    · exact .inl (.inl hb)

theorem cmdWrite_keeps {kk : Kind} {sb : State} (s : State) (via : Master) (p : PageAt) (w : Word) (hp : PageOk p)
    (hk : Keeps kk sb s) : Keeps kk sb (cmdWrite s via p w) :=
  issueCmd_keeps _ _ _ _ _ _ (cmdSpec_ok hp) (Keeps.ite (Keeps.upd hk rfl rfl rfl rfl rfl) hk)

theorem refusedValue_keeps {kk : Kind} {sb : State} (s : State) (k : PageKind) (off : Nat) (w : Word) (hk : Keeps kk sb s) :
    Keeps kk sb (refusedValue s k off w) := by
  unfold refusedValue
  repeat' first | with_reducible assumption | with_reducible apply setErr_keeps | (with_reducible apply Keeps.foldl; intro _ _ _) | with_reducible apply Keeps.ite | split | (with_reducible refine Keeps.upd ?_ rfl rfl rfl rfl rfl)

theorem plainWrite_keeps {kk : Kind} {sb : State} (s : State) (p : PageAt) (off : Nat) (r : RegRow) (w : Word) (hk : Keeps kk sb s) :
    Keeps kk sb (plainWrite s p off r w) := by
  unfold plainWrite
  repeat' first | (extract_lets +onlyGivenNames z; first | (have hz : Keeps kk sb z := (by unfold z; with_reducible assumption); clear hz; subst z) | (have hz : Keeps kk sb z := (by unfold z; repeat' first | with_reducible assumption | with_reducible apply summaryRise_keeps | with_reducible apply wr_keeps | with_reducible apply refusedValue_keeps | with_reducible apply setErr_keeps | (with_reducible apply Keeps.foldl; intro _ _ _) | with_reducible apply Keeps.ite | split | (with_reducible refine Keeps.upd ?_ rfl rfl rfl rfl rfl)); clear_value z)  | (have hz : PowerUnit := z; clear hz) | (have hz : RedUnit := z; clear hz) | (have hz : PcieUnit := z; clear hz) | (have hz : VkeepUnit := z; clear hz) | (have hz : TimeUnit := z; clear hz) | (have hz : TickUnit := z; clear hz) | (have hz : QueueUnit := z; clear hz) | (have hz : PipeUnit := z; clear hz) | (have hz : SchedUnit := z; clear hz) | (have hz : CipUnit := z; clear hz) | (have hz : CrtUnit := z; clear hz) | (have hz : MbxUnit := z; clear hz) | (have hz : CusUnit := z; clear hz) | (have hz : EccUnit := z; clear hz) | (have hz : PowerGov := z; clear hz) | (have hz : SliceRed := z; clear hz) | (have hz : MemChan := z; clear hz) | clear_value z | skip) | with_reducible assumption | with_reducible apply summaryRise_keeps | with_reducible apply wr_keeps | with_reducible apply refusedValue_keeps | with_reducible apply setErr_keeps | (with_reducible apply Keeps.foldl; intro _ _ _) | with_reducible apply Keeps.ite | split | (with_reducible refine Keeps.upd ?_ rfl rfl rfl rfl rfl)

theorem forceErr_keeps {kk : Kind} {sb : State} (s : State) (p : PageAt) (w : Word) (hk : Keeps kk sb s) :
    Keeps kk sb (forceErr s p w) := by
  unfold forceErr
  repeat' first | (extract_lets +onlyGivenNames z; first | (have hz : Keeps kk sb z := (by unfold z; with_reducible assumption); clear hz; subst z) | (have hz : Keeps kk sb z := (by unfold z; repeat' first | with_reducible assumption | with_reducible apply setErr_keeps | (with_reducible apply Keeps.foldl; intro _ _ _) | with_reducible apply Keeps.ite | split | (with_reducible refine Keeps.upd ?_ rfl rfl rfl rfl rfl)); clear_value z)  | (have hz : PowerUnit := z; clear hz) | (have hz : RedUnit := z; clear hz) | (have hz : PcieUnit := z; clear hz) | (have hz : VkeepUnit := z; clear hz) | (have hz : TimeUnit := z; clear hz) | (have hz : TickUnit := z; clear hz) | (have hz : QueueUnit := z; clear hz) | (have hz : PipeUnit := z; clear hz) | (have hz : SchedUnit := z; clear hz) | (have hz : CipUnit := z; clear hz) | (have hz : CrtUnit := z; clear hz) | (have hz : MbxUnit := z; clear hz) | (have hz : CusUnit := z; clear hz) | (have hz : EccUnit := z; clear hz) | (have hz : PowerGov := z; clear hz) | (have hz : SliceRed := z; clear hz) | (have hz : MemChan := z; clear hz) | clear_value z | skip) | with_reducible assumption | with_reducible apply setErr_keeps | (with_reducible apply Keeps.foldl; intro _ _ _) | with_reducible apply Keeps.ite | split | (with_reducible refine Keeps.upd ?_ rfl rfl rfl rfl rfl)

theorem doorbell_keeps {kk : Kind} {sb : State} (s : State) (cr : Bool) (f : Nat) (n : Option Nat) (v : Nat) (hk : Keeps kk sb s) :
    Keeps kk sb (doorbell s cr f n v) := by
  unfold doorbell
  repeat' first | with_reducible assumption | with_reducible apply wqDoorbell_keeps | with_reducible apply crDoorbell_keeps | with_reducible apply doorbellRefused_keeps | (with_reducible apply Keeps.foldl; intro _ _ _) | with_reducible apply Keeps.ite | split | (with_reducible refine Keeps.upd ?_ rfl rfl rfl rfl rfl)

theorem lockWrite_keeps {kk : Kind} {sb : State} (s : State) (sl : SliceId) (via : Master) (w : Word) (hk : Keeps kk sb s) :
    Keeps kk sb (lockWrite s sl via w) := by
  unfold lockWrite
  repeat' first | with_reducible assumption | with_reducible apply setErr_keeps | with_reducible apply wr_keeps | (with_reducible apply Keeps.foldl; intro _ _ _) | with_reducible apply Keeps.ite | split | (with_reducible refine Keeps.upd ?_ rfl rfl rfl rfl rfl)

theorem dataWrite_keeps {kk : Kind} {sb : State} (s : State) (p : PageAt) (off : Nat) (w : Word) (hk : Keeps kk sb s) :
    Keeps kk sb (dataWrite s p off w) := by
  unfold dataWrite
  repeat' first | with_reducible assumption | with_reducible apply wr_keeps | with_reducible apply putShadowCoef_keeps | with_reducible apply putShadowPlan_keeps | with_reducible apply advanceIndex_keeps | with_reducible apply setErr_keeps | (with_reducible apply Keeps.foldl; intro _ _ _) | with_reducible apply Keeps.ite | split | (with_reducible refine Keeps.upd ?_ rfl rfl rfl rfl rfl)

theorem refSelWrite_keeps {kk : Kind} {sb : State} (s : State) (p : PageAt) (r : RegRow) (w : Word) (hk : Keeps kk sb s) :
    Keeps kk sb (refSelWrite s p r w) := by
  unfold refSelWrite
  repeat' first | (extract_lets +onlyGivenNames z; first | (have hz : Keeps kk sb z := (by unfold z; with_reducible assumption); clear hz; subst z) | (have hz : Keeps kk sb z := (by unfold z; repeat' first | with_reducible assumption | with_reducible apply plainWrite_keeps | (with_reducible apply Keeps.foldl; intro _ _ _) | with_reducible apply Keeps.ite | split | (with_reducible refine Keeps.upd ?_ rfl rfl rfl rfl rfl)); clear_value z)  | (have hz : PowerUnit := z; clear hz) | (have hz : RedUnit := z; clear hz) | (have hz : PcieUnit := z; clear hz) | (have hz : VkeepUnit := z; clear hz) | (have hz : TimeUnit := z; clear hz) | (have hz : TickUnit := z; clear hz) | (have hz : QueueUnit := z; clear hz) | (have hz : PipeUnit := z; clear hz) | (have hz : SchedUnit := z; clear hz) | (have hz : CipUnit := z; clear hz) | (have hz : CrtUnit := z; clear hz) | (have hz : MbxUnit := z; clear hz) | (have hz : CusUnit := z; clear hz) | (have hz : EccUnit := z; clear hz) | (have hz : PowerGov := z; clear hz) | (have hz : SliceRed := z; clear hz) | (have hz : MemChan := z; clear hz) | clear_value z | skip) | with_reducible assumption | with_reducible apply plainWrite_keeps | (with_reducible apply Keeps.foldl; intro _ _ _) | with_reducible apply Keeps.ite | split | (with_reducible refine Keeps.upd ?_ rfl rfl rfl rfl rfl)

theorem policyWrite_keeps {kk : Kind} {sb : State} (s : State) (w : Word) (hk : Keeps kk sb s) :
    Keeps kk sb (policyWrite s w) := by
  unfold policyWrite
  repeat' first | (extract_lets +onlyGivenNames z; first | (have hz : Keeps kk sb z := (by unfold z; with_reducible assumption); clear hz; subst z) | (have hz : Keeps kk sb z := (by unfold z; repeat' first | with_reducible assumption | with_reducible apply setErr_keeps | (with_reducible apply Keeps.foldl; intro _ _ _) | with_reducible apply Keeps.ite | split | (with_reducible refine Keeps.upd ?_ rfl rfl rfl rfl rfl)); clear_value z)  | (have hz : PowerUnit := z; clear hz) | (have hz : RedUnit := z; clear hz) | (have hz : PcieUnit := z; clear hz) | (have hz : VkeepUnit := z; clear hz) | (have hz : TimeUnit := z; clear hz) | (have hz : TickUnit := z; clear hz) | (have hz : QueueUnit := z; clear hz) | (have hz : PipeUnit := z; clear hz) | (have hz : SchedUnit := z; clear hz) | (have hz : CipUnit := z; clear hz) | (have hz : CrtUnit := z; clear hz) | (have hz : MbxUnit := z; clear hz) | (have hz : CusUnit := z; clear hz) | (have hz : EccUnit := z; clear hz) | (have hz : PowerGov := z; clear hz) | (have hz : SliceRed := z; clear hz) | (have hz : MemChan := z; clear hz) | clear_value z | skip) | with_reducible assumption | with_reducible apply setErr_keeps | (with_reducible apply Keeps.foldl; intro _ _ _) | with_reducible apply Keeps.ite | split | (with_reducible refine Keeps.upd ?_ rfl rfl rfl rfl rfl)

theorem crtWrite_keeps {kk : Kind} {sb : State} (s : State) (p : PageAt) (off : Nat) (r : RegRow) (w : Word) (hk : Keeps kk sb s) :
    Keeps kk sb (crtWrite s p off r w) := by
  unfold crtWrite
  repeat' first | (extract_lets +onlyGivenNames z; first | (have hz : Keeps kk sb z := (by unfold z; with_reducible assumption); clear hz; subst z) | (have hz : Keeps kk sb z := (by unfold z; repeat' first | with_reducible assumption | with_reducible apply plainWrite_keeps | with_reducible apply wr_keeps | with_reducible apply crtLockedWrite_keeps | (with_reducible apply Keeps.foldl; intro _ _ _) | with_reducible apply Keeps.ite | split | (with_reducible refine Keeps.upd ?_ rfl rfl rfl rfl rfl)); clear_value z)  | (have hz : PowerUnit := z; clear hz) | (have hz : RedUnit := z; clear hz) | (have hz : PcieUnit := z; clear hz) | (have hz : VkeepUnit := z; clear hz) | (have hz : TimeUnit := z; clear hz) | (have hz : TickUnit := z; clear hz) | (have hz : QueueUnit := z; clear hz) | (have hz : PipeUnit := z; clear hz) | (have hz : SchedUnit := z; clear hz) | (have hz : CipUnit := z; clear hz) | (have hz : CrtUnit := z; clear hz) | (have hz : MbxUnit := z; clear hz) | (have hz : CusUnit := z; clear hz) | (have hz : EccUnit := z; clear hz) | (have hz : PowerGov := z; clear hz) | (have hz : SliceRed := z; clear hz) | (have hz : MemChan := z; clear hz) | clear_value z | skip) | with_reducible assumption | with_reducible apply plainWrite_keeps | with_reducible apply wr_keeps | with_reducible apply crtLockedWrite_keeps | (with_reducible apply Keeps.foldl; intro _ _ _) | with_reducible apply Keeps.ite | split | (with_reducible refine Keeps.upd ?_ rfl rfl rfl rfl rfl)

theorem mbxWrite_keeps {kk : Kind} {sb : State} (s : State) (via : Master) (p : PageAt) (off : Nat) (r : RegRow) (w : Word) (hk : Keeps kk sb s) :
    Keeps kk sb (mbxWrite s via p off r w) := by
  unfold mbxWrite
  repeat' first | (extract_lets +onlyGivenNames z; first | (have hz : Keeps kk sb z := (by unfold z; with_reducible assumption); clear hz; subst z) | (have hz : Keeps kk sb z := (by unfold z; repeat' first | with_reducible assumption | with_reducible apply plainWrite_keeps | with_reducible apply mbxBufferWrite_keeps | with_reducible apply mbxAck_keeps | with_reducible apply mbxTxClear_keeps | with_reducible apply mbxSend_keeps | (with_reducible apply Keeps.foldl; intro _ _ _) | with_reducible apply Keeps.ite | split | (with_reducible refine Keeps.upd ?_ rfl rfl rfl rfl rfl)); clear_value z)  | (have hz : PowerUnit := z; clear hz) | (have hz : RedUnit := z; clear hz) | (have hz : PcieUnit := z; clear hz) | (have hz : VkeepUnit := z; clear hz) | (have hz : TimeUnit := z; clear hz) | (have hz : TickUnit := z; clear hz) | (have hz : QueueUnit := z; clear hz) | (have hz : PipeUnit := z; clear hz) | (have hz : SchedUnit := z; clear hz) | (have hz : CipUnit := z; clear hz) | (have hz : CrtUnit := z; clear hz) | (have hz : MbxUnit := z; clear hz) | (have hz : CusUnit := z; clear hz) | (have hz : EccUnit := z; clear hz) | (have hz : PowerGov := z; clear hz) | (have hz : SliceRed := z; clear hz) | (have hz : MemChan := z; clear hz) | clear_value z | skip) | with_reducible assumption | with_reducible apply plainWrite_keeps | with_reducible apply mbxBufferWrite_keeps | with_reducible apply mbxAck_keeps | with_reducible apply mbxTxClear_keeps | with_reducible apply mbxSend_keeps | (with_reducible apply Keeps.foldl; intro _ _ _) | with_reducible apply Keeps.ite | split | (with_reducible refine Keeps.upd ?_ rfl rfl rfl rfl rfl)

theorem vfMbxWrite_keeps {kk : Kind} {sb : State} (s : State) (p : PageAt) (off : Nat) (r : RegRow) (w : Word) (hk : Keeps kk sb s) :
    Keeps kk sb (vfMbxWrite s p off r w) := by
  unfold vfMbxWrite
  repeat' first | (extract_lets +onlyGivenNames z; first | (have hz : Keeps kk sb z := (by unfold z; with_reducible assumption); clear hz; subst z) | (have hz : Keeps kk sb z := (by unfold z; repeat' first | with_reducible assumption | with_reducible apply plainWrite_keeps | with_reducible apply mbxBufferWrite_keeps | with_reducible apply mbxAck_keeps | with_reducible apply mbxTxClear_keeps | with_reducible apply mbxSend_keeps | (with_reducible apply Keeps.foldl; intro _ _ _) | with_reducible apply Keeps.ite | split | (with_reducible refine Keeps.upd ?_ rfl rfl rfl rfl rfl)); clear_value z)  | (have hz : PowerUnit := z; clear hz) | (have hz : RedUnit := z; clear hz) | (have hz : PcieUnit := z; clear hz) | (have hz : VkeepUnit := z; clear hz) | (have hz : TimeUnit := z; clear hz) | (have hz : TickUnit := z; clear hz) | (have hz : QueueUnit := z; clear hz) | (have hz : PipeUnit := z; clear hz) | (have hz : SchedUnit := z; clear hz) | (have hz : CipUnit := z; clear hz) | (have hz : CrtUnit := z; clear hz) | (have hz : MbxUnit := z; clear hz) | (have hz : CusUnit := z; clear hz) | (have hz : EccUnit := z; clear hz) | (have hz : PowerGov := z; clear hz) | (have hz : SliceRed := z; clear hz) | (have hz : MemChan := z; clear hz) | clear_value z | skip) | with_reducible assumption | with_reducible apply plainWrite_keeps | with_reducible apply mbxBufferWrite_keeps | with_reducible apply mbxAck_keeps | with_reducible apply mbxTxClear_keeps | with_reducible apply mbxSend_keeps | (with_reducible apply Keeps.foldl; intro _ _ _) | with_reducible apply Keeps.ite | split | (with_reducible refine Keeps.upd ?_ rfl rfl rfl rfl rfl)

theorem tenCipWrite_keeps {kk : Kind} {sb : State} (s : State) (via : Master) (p : PageAt) (off : Nat) (r : RegRow) (w : Word) (hk : Keeps kk sb s) :
    Keeps kk sb (tenCipWrite s via p off r w) := by
  unfold tenCipWrite
  repeat' first | with_reducible assumption | with_reducible apply plainWrite_keeps | with_reducible apply saWrite_keeps | (with_reducible apply Keeps.foldl; intro _ _ _) | with_reducible apply Keeps.ite | split | (with_reducible refine Keeps.upd ?_ rfl rfl rfl rfl rfl)

theorem eccWrite_keeps {kk : Kind} {sb : State} (s : State) (p : PageAt) (off : Nat) (r : RegRow) (w : Word) (hk : Keeps kk sb s) :
    Keeps kk sb (eccWrite s p off r w) := by
  unfold eccWrite
  repeat' first | with_reducible assumption | with_reducible apply plainWrite_keeps | with_reducible apply putLog_keeps | with_reducible apply flipSelWrite_keeps | (with_reducible apply Keeps.foldl; intro _ _ _) | with_reducible apply Keeps.ite | split | (with_reducible refine Keeps.upd ?_ rfl rfl rfl rfl rfl)

theorem memWrite_keeps {kk : Kind} {sb : State} (s : State) (p : PageAt) (off : Nat) (r : RegRow) (w : Word) (hk : Keeps kk sb s) :
    Keeps kk sb (memWrite s p off r w) := by
  unfold memWrite
  repeat' first | with_reducible assumption | with_reducible apply plainWrite_keeps | with_reducible apply wr_keeps | with_reducible apply setErr_keeps | with_reducible apply retireWrite_keeps | (with_reducible apply Keeps.foldl; intro _ _ _) | with_reducible apply Keeps.ite | split | (with_reducible refine Keeps.upd ?_ rfl rfl rfl rfl rfl)

theorem evcWrite_keeps {kk : Kind} {sb : State} (s : State) (p : PageAt) (off : Nat) (r : RegRow) (w : Word) (hk : Keeps kk sb s) :
    Keeps kk sb (evcWrite s p off r w) := by
  unfold evcWrite
  repeat' first | (extract_lets +onlyGivenNames z; first | (have hz : Keeps kk sb z := (by unfold z; with_reducible assumption); clear hz; subst z) | (have hz : Keeps kk sb z := (by unfold z; repeat' first | with_reducible assumption | with_reducible apply wr_keeps | with_reducible apply plainWrite_keeps | (with_reducible apply Keeps.foldl; intro _ _ _) | with_reducible apply Keeps.ite | split | (with_reducible refine Keeps.upd ?_ rfl rfl rfl rfl rfl)); clear_value z)  | (have hz : PowerUnit := z; clear hz) | (have hz : RedUnit := z; clear hz) | (have hz : PcieUnit := z; clear hz) | (have hz : VkeepUnit := z; clear hz) | (have hz : TimeUnit := z; clear hz) | (have hz : TickUnit := z; clear hz) | (have hz : QueueUnit := z; clear hz) | (have hz : PipeUnit := z; clear hz) | (have hz : SchedUnit := z; clear hz) | (have hz : CipUnit := z; clear hz) | (have hz : CrtUnit := z; clear hz) | (have hz : MbxUnit := z; clear hz) | (have hz : CusUnit := z; clear hz) | (have hz : EccUnit := z; clear hz) | (have hz : PowerGov := z; clear hz) | (have hz : SliceRed := z; clear hz) | (have hz : MemChan := z; clear hz) | clear_value z | skip) | with_reducible assumption | with_reducible apply wr_keeps | with_reducible apply plainWrite_keeps | (with_reducible apply Keeps.foldl; intro _ _ _) | with_reducible apply Keeps.ite | split | (with_reducible refine Keeps.upd ?_ rfl rfl rfl rfl rfl)

theorem regWrite_keeps {kk : Kind} {sb : State} (s : State) (via : Master) (p : PageAt) (off : Nat) (r : RegRow) (w : Word) (hp : PageOk p) (hk : Keeps kk sb s) :
    Keeps kk sb (regWrite s via p off r w) := by
  unfold regWrite
  repeat' first | (extract_lets +onlyGivenNames z; first | (have hz : Keeps kk sb z := (by unfold z; with_reducible assumption); clear hz; subst z) | (have hz : Keeps kk sb z := (by unfold z; repeat' first | with_reducible assumption | with_reducible apply seedWrite_keeps | with_reducible apply lockWrite_keeps | with_reducible apply spillCfgWrite_keeps | with_reducible apply logCiWrite_keeps | with_reducible apply evcWrite_keeps | with_reducible apply memWrite_keeps | with_reducible apply eccWrite_keeps | with_reducible apply crtWrite_keeps | with_reducible apply tenCipWrite_keeps | with_reducible apply vfMbxWrite_keeps | with_reducible apply mbxWrite_keeps | with_reducible apply policyWrite_keeps | with_reducible apply doorbell_keeps | with_reducible apply plainWrite_keeps | with_reducible apply refSelWrite_keeps | with_reducible apply dataWrite_keeps | with_reducible apply forceErr_keeps | with_reducible apply cmdWrite_keeps | (with_reducible apply Keeps.foldl; intro _ _ _) | with_reducible apply Keeps.ite | split | (with_reducible refine Keeps.upd ?_ rfl rfl rfl rfl rfl)); clear_value z)  | (have hz : PowerUnit := z; clear hz) | (have hz : RedUnit := z; clear hz) | (have hz : PcieUnit := z; clear hz) | (have hz : VkeepUnit := z; clear hz) | (have hz : TimeUnit := z; clear hz) | (have hz : TickUnit := z; clear hz) | (have hz : QueueUnit := z; clear hz) | (have hz : PipeUnit := z; clear hz) | (have hz : SchedUnit := z; clear hz) | (have hz : CipUnit := z; clear hz) | (have hz : CrtUnit := z; clear hz) | (have hz : MbxUnit := z; clear hz) | (have hz : CusUnit := z; clear hz) | (have hz : EccUnit := z; clear hz) | (have hz : PowerGov := z; clear hz) | (have hz : SliceRed := z; clear hz) | (have hz : MemChan := z; clear hz) | clear_value z | skip) | with_reducible assumption | with_reducible apply seedWrite_keeps | with_reducible apply lockWrite_keeps | with_reducible apply spillCfgWrite_keeps | with_reducible apply logCiWrite_keeps | with_reducible apply evcWrite_keeps | with_reducible apply memWrite_keeps | with_reducible apply eccWrite_keeps | with_reducible apply crtWrite_keeps | with_reducible apply tenCipWrite_keeps | with_reducible apply vfMbxWrite_keeps | with_reducible apply mbxWrite_keeps | with_reducible apply policyWrite_keeps | with_reducible apply doorbell_keeps | with_reducible apply plainWrite_keeps | with_reducible apply refSelWrite_keeps | with_reducible apply dataWrite_keeps | with_reducible apply forceErr_keeps | with_reducible apply cmdWrite_keeps | (with_reducible apply Keeps.foldl; intro _ _ _) | with_reducible apply Keeps.ite | split | (with_reducible refine Keeps.upd ?_ rfl rfl rfl rfl rfl)

theorem aliasWrite_keeps {kk : Kind} {sb : State} (s : State) (via : Master) (p : PageAt) (off : Nat) (set : Bool) (w : Word) (hp : PageOk p) (hk : Keeps kk sb s) :
    Keeps kk sb (aliasWrite s via p off set w) := by
  unfold aliasWrite
  repeat' first | (extract_lets +onlyGivenNames z; first | (have hz : Keeps kk sb z := (by unfold z; with_reducible assumption); clear hz; subst z) | (have hz : Keeps kk sb z := (by unfold z; repeat' first | with_reducible assumption | with_reducible apply regWrite_keeps | (with_reducible apply Keeps.foldl; intro _ _ _) | with_reducible apply Keeps.ite | split | (with_reducible refine Keeps.upd ?_ rfl rfl rfl rfl rfl)); clear_value z)  | (have hz : PowerUnit := z; clear hz) | (have hz : RedUnit := z; clear hz) | (have hz : PcieUnit := z; clear hz) | (have hz : VkeepUnit := z; clear hz) | (have hz : TimeUnit := z; clear hz) | (have hz : TickUnit := z; clear hz) | (have hz : QueueUnit := z; clear hz) | (have hz : PipeUnit := z; clear hz) | (have hz : SchedUnit := z; clear hz) | (have hz : CipUnit := z; clear hz) | (have hz : CrtUnit := z; clear hz) | (have hz : MbxUnit := z; clear hz) | (have hz : CusUnit := z; clear hz) | (have hz : EccUnit := z; clear hz) | (have hz : PowerGov := z; clear hz) | (have hz : SliceRed := z; clear hz) | (have hz : MemChan := z; clear hz) | clear_value z | skip) | with_reducible assumption | with_reducible apply regWrite_keeps | (with_reducible apply Keeps.foldl; intro _ _ _) | with_reducible apply Keeps.ite | split | (with_reducible refine Keeps.upd ?_ rfl rfl rfl rfl rfl)

theorem globalPage_zero {n : Nat} {k : PageKind × Nat} (h : globalPageKind n = some k) (hn : n = 0) : k.1 = .sys := by
  subst hn
  cases h
  rfl

theorem some_ok {c : Prop} [Decidable c] {q p : PageAt} {o : Option PageAt} (h : (if c then some q else o) = some p)
    (hq : q.base ≠ pgSys) (ho : o = some p → PageOk p) : PageOk p := by
  split at h
  · cases h; exact fun hb => absurd hb hq
  · exact ho h

theorem vfPage_ok (t o : Nat) {p : PageAt}
    (h : (if 1024 ≤ t then none
    else if o < 0x1000 then some ⟨.vfStat, t, vfBase t⟩
    else if o < 0x2000 then some ⟨.vfDb, t, vfBase t + 0x1000⟩
    else if o < 0x3000 then some ⟨.tenCip, t, pgTenCip t⟩
    else if o < 0x4000 then some ⟨.vfMbx, t, vfBase t + 0x3000⟩
    else if o < 0x5000 then some ⟨.vfQv, t, vfBase t + 0x4000⟩
    else none) = some p) : PageOk p := by
  have hv : vfBase t ≠ 0 := by unfold vfBase; omega
  have hc : pgTenCip t ≠ 0 := by unfold pgTenCip; omega
  split at h
  · cases h
  · refine some_ok h hv fun h => some_ok h (by dsimp only [pgSys]; omega) fun h => some_ok h hc fun h =>
      some_ok h (by dsimp only [pgSys]; omega) fun h => some_ok h (by dsimp only [pgSys]; omega) fun h => ?_
    cases h

theorem ite_ok {c : Prop} [Decidable c] {p : PageAt} {o1 o2 : Option PageAt} (h : (if c then o1 else o2) = some p)
    (h1 : o1 = some p → PageOk p) (h2 : ¬c → o2 = some p → PageOk p) : PageOk p := by
  by_cases hc : c
  · rw [if_pos hc] at h; exact h1 h
  · rw [if_neg hc] at h; exact h2 hc h

theorem slicePage_ne (a : Nat) (p : PageAt) (h : pageAt a = some p) : PageOk p := by
  unfold pageAt at h
  have hb : pf1Base ≠ 0 := by decide
  refine ite_ok h (fun h => ?_) fun _ h => ite_ok h nofun fun h1 h => ite_ok h
    (fun h => by cases h; intro e; dsimp only [pgSys] at e; omega) fun _ h => ite_ok h nofun fun _ h => ite_ok h
    (fun h => ?_) fun _ h => vfPage_ok _ _ h
  · rw [Option.map_eq_some_iff] at h
    obtain ⟨k, hk, rfl⟩ := h
    intro e
    exact globalPage_zero hk (by dsimp only [pgSys] at e; omega)
  · exact ite_ok h (fun h => by cases h; exact fun e => absurd e hb) fun _ h => ite_ok h nofun fun _ h => ite_ok h
      (fun h => by cases h; intro e; dsimp only [pgSys] at e; omega) fun _ h => nomatch h

theorem target_reg {a : Nat} {p : PageAt} {o : Nat} {r : RegRow} (h : target a = .reg p o r) : PageOk p := by
  unfold target at h
  split at h
  · rename_i q hq
    dsimp only at h
    split at h
    · cases h
    · split at h
      · cases h; exact slicePage_ne _ _ hq
      · cases h
  · repeat' split at h
    all_goals cases h

theorem target_twin {a : Nat} {p : PageAt} {o : Nat} {b : Bool} (h : target a = .twin p o b) : PageOk p := by
  unfold target at h
  split at h
  · rename_i q hq
    dsimp only at h
    split at h
    · cases h; exact slicePage_ne _ _ hq
    · split at h
      · cases h
      · cases h
  · repeat' split at h
    all_goals cases h

theorem writeAccess_keeps {kk : Kind} {sb : State} (s : State) (via : Master) (off : Nat) (w : Word) (hk : Keeps kk sb s) :
    Keeps kk sb (writeAccess s via off w) := by
  unfold writeAccess
  split
  · exact hk
  · rename_i a _
    extract_lets t s1
    have ht : target a = t := rfl
    clear_value t
    have h1 : Keeps kk sb s1 := by
      unfold s1
      split
      · exact noteUndef_keeps _ _ _ _ hk
      · exact noteUnmapped_keeps _ _ _ _ hk
      · exact hk
    clear_value s1
    refine Keeps.ite (Keeps.ite h1 (setErr_keeps _ _ _ h1)) ?_
    cases t with
    | reg p o r => exact regWrite_keeps _ _ _ _ _ _ (target_reg ht) h1
    | twin p o b => exact aliasWrite_keeps _ _ _ _ _ _ (target_twin ht) h1
    | record n k => exact recordWrite_keeps _ _ _ _ h1
    | shaper i k => exact shaperWrite_keeps _ _ _ _ h1
    | policer i k => exact policerWrite_keeps _ _ _ _ h1
    | window x => exact windowWrite_keeps _ _ _ h1
    | undef q => exact h1
    | unmapped => exact h1

end Sys2Proof.Machine
end

