-- ==== Sys2Proof/Laws/KeepsHostAccess.lean ====
section
/-! SUPPORT. The operations of HostAccess keep what Laws/Keeps.lean states. -/
set_option linter.tactic.unusedName false
set_option linter.unusedVariables false
namespace Sys2Proof.Machine

theorem poisonTx_keeps {kk : Kind} {sb : State} (s : State) (n : Nat) (hk : Keeps kk sb s) :
    Keeps kk sb (poisonTx s n) := by
  unfold poisonTx
  repeat' first | with_reducible assumption | with_reducible apply bumpBy_keeps | (with_reducible apply Keeps.foldl; intro _ _ _) | with_reducible apply Keeps.ite | split | (with_reducible refine Keeps.upd ?_ rfl rfl rfl rfl rfl)

theorem readServed_keeps {kk : Kind} {sb : State} (s : State) (via : Master) (off : Nat) (hk : Keeps kk sb s) :
    Keeps kk sb (readServed s via off) := by
  unfold readServed
  repeat' first | (extract_lets +onlyGivenNames z; first | (have hz : Keeps kk sb z := (by unfold z; with_reducible assumption); clear hz; subst z) | (have hz : Keeps kk sb z := (by unfold z; repeat' first | with_reducible assumption | with_reducible apply poisonTx_keeps | with_reducible apply emit_keeps | with_reducible apply readAccess_keeps | (with_reducible apply Keeps.foldl; intro _ _ _) | (with_reducible apply Keeps.foldlP; intro _ _ _) | with_reducible apply Keeps.ite | split | (with_reducible refine Keeps.upd ?_ rfl rfl rfl rfl rfl)); clear_value z)  | (have hz : Keeps kk sb z.1 := (by unfold z; repeat' first | with_reducible assumption | with_reducible apply poisonTx_keeps | with_reducible apply emit_keeps | with_reducible apply readAccess_keeps | (with_reducible apply Keeps.foldl; intro _ _ _) | (with_reducible apply Keeps.foldlP; intro _ _ _) | with_reducible apply Keeps.ite | split | (with_reducible refine Keeps.upd ?_ rfl rfl rfl rfl rfl)); clear_value z) | (have hz : PowerUnit := z; clear hz) | (have hz : RedUnit := z; clear hz) | (have hz : PcieUnit := z; clear hz) | (have hz : VkeepUnit := z; clear hz) | (have hz : TimeUnit := z; clear hz) | (have hz : TickUnit := z; clear hz) | (have hz : QueueUnit := z; clear hz) | (have hz : PipeUnit := z; clear hz) | (have hz : SchedUnit := z; clear hz) | (have hz : CipUnit := z; clear hz) | (have hz : CrtUnit := z; clear hz) | (have hz : MbxUnit := z; clear hz) | (have hz : CusUnit := z; clear hz) | (have hz : EccUnit := z; clear hz) | (have hz : PowerGov := z; clear hz) | (have hz : SliceRed := z; clear hz) | (have hz : MemChan := z; clear hz) | clear_value z | skip) | with_reducible assumption | with_reducible apply poisonTx_keeps | with_reducible apply emit_keeps | with_reducible apply readAccess_keeps | (with_reducible apply Keeps.foldl; intro _ _ _) | (with_reducible apply Keeps.foldlP; intro _ _ _) | with_reducible apply Keeps.ite | split | (with_reducible refine Keeps.upd ?_ rfl rfl rfl rfl rfl)

theorem writeServed_keeps {kk : Kind} {sb : State} (s : State) (via : Master) (off : Nat) (w : Word) (hk : Keeps kk sb s) :
    Keeps kk sb (writeServed s via off w) := by
  unfold writeServed
  repeat' first | with_reducible assumption | with_reducible apply writeAccess_keeps | (with_reducible apply Keeps.foldl; intro _ _ _) | with_reducible apply Keeps.ite | split | (with_reducible refine Keeps.upd ?_ rfl rfl rfl rfl rfl)

theorem accessServed_keeps {kk : Kind} {sb : State} (s : State) (via : Master) (off : Nat) (w : Option Word) (hk : Keeps kk sb s) :
    Keeps kk sb (accessServed s via off w) := by
  unfold accessServed
  repeat' first | with_reducible assumption | with_reducible apply writeServed_keeps | with_reducible apply readServed_keeps | (with_reducible apply Keeps.foldl; intro _ _ _) | with_reducible apply Keeps.ite | split | (with_reducible refine Keeps.upd ?_ rfl rfl rfl rfl rfl)

theorem execRegisterWrite_keeps {kk : Kind} {sb : State} (via : Master) (addr : Nat) (w : Word) (s : State) (hk : Keeps kk sb s) :
    KeepsO kk sb (execRegisterWrite via addr w s) := by
  unfold execRegisterWrite
  repeat' first | with_reducible apply KeepsO.next | with_reducible assumption | with_reducible apply writeServed_keeps | (with_reducible apply Keeps.foldl; intro _ _ _) | with_reducible apply Keeps.ite | with_reducible apply KeepsO.ite | split | (with_reducible refine Keeps.upd ?_ rfl rfl rfl rfl rfl)

theorem execRcFieldRead_keeps {kk : Kind} {sb : State} (via : Master) (addr : Nat) (s : State) (hk : Keeps kk sb s) :
    KeepsO kk sb (execRcFieldRead via addr s) := by
  unfold execRcFieldRead
  repeat' first | with_reducible apply KeepsO.next | with_reducible assumption | with_reducible apply readServed_keeps | (with_reducible apply Keeps.foldl; intro _ _ _) | with_reducible apply Keeps.ite | with_reducible apply KeepsO.ite | split | (with_reducible refine Keeps.upd ?_ rfl rfl rfl rfl rfl)

theorem execCaptureRead_keeps {kk : Kind} {sb : State} (via : Master) (addr : Nat) (s : State) (hk : Keeps kk sb s) :
    KeepsO kk sb (execCaptureRead via addr s) := by
  unfold execCaptureRead
  repeat' first | with_reducible apply KeepsO.next | with_reducible assumption | with_reducible apply readServed_keeps | (with_reducible apply Keeps.foldl; intro _ _ _) | with_reducible apply Keeps.ite | with_reducible apply KeepsO.ite | split | (with_reducible refine Keeps.upd ?_ rfl rfl rfl rfl rfl)

theorem execTmsPpsInRead_keeps {kk : Kind} {sb : State} (via : Master) (s : State) (hk : Keeps kk sb s) :
    KeepsO kk sb (execTmsPpsInRead via s) := by
  unfold execTmsPpsInRead
  repeat' first | with_reducible apply KeepsO.next | with_reducible assumption | with_reducible apply readServed_keeps | (with_reducible apply Keeps.foldl; intro _ _ _) | with_reducible apply Keeps.ite | with_reducible apply KeepsO.ite | split | (with_reducible refine Keeps.upd ?_ rfl rfl rfl rfl rfl)

theorem execUndefinedCommandCode_keeps {kk : Kind} {sb : State} (via : Master) (addr : Nat) (code seq : Byte) (s : State) (hk : Keeps kk sb s) :
    KeepsO kk sb (execUndefinedCommandCode via addr code seq s) := by
  unfold execUndefinedCommandCode
  split
  · exact KeepsO.next hk
  · exact KeepsO.ite (KeepsO.next (issueCmd_keeps _ _ _ _ _ _ ⟨nofun, .inr nofun⟩ hk)) (KeepsO.next hk)

theorem execPageErrForceWrite_keeps {kk : Kind} {sb : State} (via : Master) (page : Nat) (w : Word) (s : State) (hk : Keeps kk sb s) :
    KeepsO kk sb (execPageErrForceWrite via page w s) := by
  unfold execPageErrForceWrite
  repeat' first | with_reducible apply KeepsO.next | with_reducible assumption | with_reducible apply writeServed_keeps | (with_reducible apply Keeps.foldl; intro _ _ _) | with_reducible apply Keeps.ite | with_reducible apply KeepsO.ite | split | (with_reducible refine Keeps.upd ?_ rfl rfl rfl rfl rfl)

theorem execSetAliasWrite_keeps {kk : Kind} {sb : State} (via : Master) (addr : Nat) (w : Word) (s : State) (hk : Keeps kk sb s) :
    KeepsO kk sb (execSetAliasWrite via addr w s) := by
  unfold execSetAliasWrite
  repeat' first | with_reducible apply KeepsO.next | with_reducible assumption | with_reducible apply writeServed_keeps | (with_reducible apply Keeps.foldl; intro _ _ _) | with_reducible apply Keeps.ite | with_reducible apply KeepsO.ite | split | (with_reducible refine Keeps.upd ?_ rfl rfl rfl rfl rfl)

theorem execClearAliasWrite_keeps {kk : Kind} {sb : State} (via : Master) (addr : Nat) (w : Word) (s : State) (hk : Keeps kk sb s) :
    KeepsO kk sb (execClearAliasWrite via addr w s) := by
  unfold execClearAliasWrite
  repeat' first | with_reducible apply KeepsO.next | with_reducible assumption | with_reducible apply writeServed_keeps | (with_reducible apply Keeps.foldl; intro _ _ _) | with_reducible apply Keeps.ite | with_reducible apply KeepsO.ite | split | (with_reducible refine Keeps.upd ?_ rfl rfl rfl rfl rfl)

theorem execLockRead_keeps {kk : Kind} {sb : State} (via : Master) (sl : SliceId) (s : State) (hk : Keeps kk sb s) :
    KeepsO kk sb (execLockRead via sl s) := by
  unfold execLockRead
  repeat' first | with_reducible apply KeepsO.next | with_reducible assumption | with_reducible apply readServed_keeps | (with_reducible apply Keeps.foldl; intro _ _ _) | with_reducible apply Keeps.ite | with_reducible apply KeepsO.ite | split | (with_reducible refine Keeps.upd ?_ rfl rfl rfl rfl rfl)

theorem execLockRelease_keeps {kk : Kind} {sb : State} (via : Master) (sl : SliceId) (w : Word) (s : State) (hk : Keeps kk sb s) :
    KeepsO kk sb (execLockRelease via sl w s) := by
  unfold execLockRelease
  repeat' first | with_reducible apply KeepsO.next | with_reducible assumption | with_reducible apply writeServed_keeps | (with_reducible apply Keeps.foldl; intro _ _ _) | with_reducible apply Keeps.ite | with_reducible apply KeepsO.ite | split | (with_reducible refine Keeps.upd ?_ rfl rfl rfl rfl rfl)

theorem execTckPlanDataAccess_keeps {kk : Kind} {sb : State} (via : Master) (w : Option Word) (s : State) (hk : Keeps kk sb s) :
    KeepsO kk sb (execTckPlanDataAccess via w s) := by
  unfold execTckPlanDataAccess
  repeat' first | with_reducible apply KeepsO.next | with_reducible assumption | with_reducible apply accessServed_keeps | (with_reducible apply Keeps.foldl; intro _ _ _) | with_reducible apply Keeps.ite | with_reducible apply KeepsO.ite | split | (with_reducible refine Keeps.upd ?_ rfl rfl rfl rfl rfl)

theorem execPwrCoefDataAccess_keeps {kk : Kind} {sb : State} (via : Master) (w : Option Word) (s : State) (hk : Keeps kk sb s) :
    KeepsO kk sb (execPwrCoefDataAccess via w s) := by
  unfold execPwrCoefDataAccess
  repeat' first | with_reducible apply KeepsO.next | with_reducible assumption | with_reducible apply accessServed_keeps | (with_reducible apply Keeps.foldl; intro _ _ _) | with_reducible apply Keeps.ite | with_reducible apply KeepsO.ite | split | (with_reducible refine Keeps.upd ?_ rfl rfl rfl rfl rfl)

theorem execMacGclDataAccess_keeps {kk : Kind} {sb : State} (via : Master) (p : Fin 6) (w : Option Word) (s : State) (hk : Keeps kk sb s) :
    KeepsO kk sb (execMacGclDataAccess via p w s) := by
  unfold execMacGclDataAccess
  repeat' first | with_reducible apply KeepsO.next | with_reducible assumption | with_reducible apply accessServed_keeps | (with_reducible apply Keeps.foldl; intro _ _ _) | with_reducible apply Keeps.ite | with_reducible apply KeepsO.ite | split | (with_reducible refine Keeps.upd ?_ rfl rfl rfl rfl rfl)

theorem execPartialWrite_keeps {kk : Kind} {sb : State} (via : Master) (addr : Nat) (s : State) (hk : Keeps kk sb s) :
    KeepsO kk sb (execPartialWrite via addr s) := by
  unfold execPartialWrite
  repeat' first | with_reducible apply KeepsO.next | with_reducible assumption | with_reducible apply partialWrite_keeps | (with_reducible apply Keeps.foldl; intro _ _ _) | with_reducible apply Keeps.ite | with_reducible apply KeepsO.ite | split | (with_reducible refine Keeps.upd ?_ rfl rfl rfl rfl rfl)

theorem execUnmappedAccess_keeps {kk : Kind} {sb : State} (via : Master) (addr : Nat) (w : Option Word) (s : State) (hk : Keeps kk sb s) :
    KeepsO kk sb (execUnmappedAccess via addr w s) := by
  unfold execUnmappedAccess
  repeat' first | with_reducible apply KeepsO.next | with_reducible assumption | with_reducible apply accessServed_keeps | (with_reducible apply Keeps.foldl; intro _ _ _) | with_reducible apply Keeps.ite | with_reducible apply KeepsO.ite | split | (with_reducible refine Keeps.upd ?_ rfl rfl rfl rfl rfl)

theorem execUndefinedOffsetAccess_keeps {kk : Kind} {sb : State} (via : Master) (addr : Nat) (w : Option Word) (s : State) (hk : Keeps kk sb s) :
    KeepsO kk sb (execUndefinedOffsetAccess via addr w s) := by
  unfold execUndefinedOffsetAccess
  repeat' first | with_reducible apply KeepsO.next | with_reducible assumption | with_reducible apply accessServed_keeps | (with_reducible apply Keeps.foldl; intro _ _ _) | with_reducible apply Keeps.ite | with_reducible apply KeepsO.ite | split | (with_reducible refine Keeps.upd ?_ rfl rfl rfl rfl rfl)

theorem execWqDoorbell_keeps {kk : Kind} {sb : State} (via : Master) (q v : Nat) (s : State) (hk : Keeps kk sb s) :
    KeepsO kk sb (execWqDoorbell via q v s) := by
  unfold execWqDoorbell
  repeat' first | (extract_lets +onlyGivenNames z; first | (have hz : Keeps kk sb z := (by unfold z; with_reducible assumption); clear hz; subst z) | (have hz : Keeps kk sb z := (by unfold z; repeat' first | with_reducible apply KeepsO.next | with_reducible assumption | with_reducible apply writeServed_keeps | (with_reducible apply Keeps.foldl; intro _ _ _) | (with_reducible apply Keeps.foldlP; intro _ _ _) | with_reducible apply Keeps.ite | with_reducible apply KeepsO.ite | split | (with_reducible refine Keeps.upd ?_ rfl rfl rfl rfl rfl)); clear_value z)  | (have hz : Keeps kk sb z.1 := (by unfold z; repeat' first | with_reducible apply KeepsO.next | with_reducible assumption | with_reducible apply writeServed_keeps | (with_reducible apply Keeps.foldl; intro _ _ _) | (with_reducible apply Keeps.foldlP; intro _ _ _) | with_reducible apply Keeps.ite | with_reducible apply KeepsO.ite | split | (with_reducible refine Keeps.upd ?_ rfl rfl rfl rfl rfl)); clear_value z) | (have hz : PowerUnit := z; clear hz) | (have hz : RedUnit := z; clear hz) | (have hz : PcieUnit := z; clear hz) | (have hz : VkeepUnit := z; clear hz) | (have hz : TimeUnit := z; clear hz) | (have hz : TickUnit := z; clear hz) | (have hz : QueueUnit := z; clear hz) | (have hz : PipeUnit := z; clear hz) | (have hz : SchedUnit := z; clear hz) | (have hz : CipUnit := z; clear hz) | (have hz : CrtUnit := z; clear hz) | (have hz : MbxUnit := z; clear hz) | (have hz : CusUnit := z; clear hz) | (have hz : EccUnit := z; clear hz) | (have hz : PowerGov := z; clear hz) | (have hz : SliceRed := z; clear hz) | (have hz : MemChan := z; clear hz) | clear_value z | skip) | with_reducible apply KeepsO.next | with_reducible assumption | with_reducible apply writeServed_keeps | (with_reducible apply Keeps.foldl; intro _ _ _) | (with_reducible apply Keeps.foldlP; intro _ _ _) | with_reducible apply Keeps.ite | with_reducible apply KeepsO.ite | split | (with_reducible refine Keeps.upd ?_ rfl rfl rfl rfl rfl)

theorem execCrDoorbell_keeps {kk : Kind} {sb : State} (via : Master) (q v : Nat) (s : State) (hk : Keeps kk sb s) :
    KeepsO kk sb (execCrDoorbell via q v s) := by
  unfold execCrDoorbell
  repeat' first | (extract_lets +onlyGivenNames z; first | (have hz : Keeps kk sb z := (by unfold z; with_reducible assumption); clear hz; subst z) | (have hz : Keeps kk sb z := (by unfold z; repeat' first | with_reducible apply KeepsO.next | with_reducible assumption | with_reducible apply writeServed_keeps | (with_reducible apply Keeps.foldl; intro _ _ _) | (with_reducible apply Keeps.foldlP; intro _ _ _) | with_reducible apply Keeps.ite | with_reducible apply KeepsO.ite | split | (with_reducible refine Keeps.upd ?_ rfl rfl rfl rfl rfl)); clear_value z)  | (have hz : Keeps kk sb z.1 := (by unfold z; repeat' first | with_reducible apply KeepsO.next | with_reducible assumption | with_reducible apply writeServed_keeps | (with_reducible apply Keeps.foldl; intro _ _ _) | (with_reducible apply Keeps.foldlP; intro _ _ _) | with_reducible apply Keeps.ite | with_reducible apply KeepsO.ite | split | (with_reducible refine Keeps.upd ?_ rfl rfl rfl rfl rfl)); clear_value z) | (have hz : PowerUnit := z; clear hz) | (have hz : RedUnit := z; clear hz) | (have hz : PcieUnit := z; clear hz) | (have hz : VkeepUnit := z; clear hz) | (have hz : TimeUnit := z; clear hz) | (have hz : TickUnit := z; clear hz) | (have hz : QueueUnit := z; clear hz) | (have hz : PipeUnit := z; clear hz) | (have hz : SchedUnit := z; clear hz) | (have hz : CipUnit := z; clear hz) | (have hz : CrtUnit := z; clear hz) | (have hz : MbxUnit := z; clear hz) | (have hz : CusUnit := z; clear hz) | (have hz : EccUnit := z; clear hz) | (have hz : PowerGov := z; clear hz) | (have hz : SliceRed := z; clear hz) | (have hz : MemChan := z; clear hz) | clear_value z | skip) | with_reducible apply KeepsO.next | with_reducible assumption | with_reducible apply writeServed_keeps | (with_reducible apply Keeps.foldl; intro _ _ _) | (with_reducible apply Keeps.foldlP; intro _ _ _) | with_reducible apply Keeps.ite | with_reducible apply KeepsO.ite | split | (with_reducible refine Keeps.upd ?_ rfl rfl rfl rfl rfl)

theorem execRecordValidate_keeps {kk : Kind} {sb : State} (via : Master) (n : Fin 16384) (w : Word) (s : State) (hk : Keeps kk sb s) :
    KeepsO kk sb (execRecordValidate via n w s) := by
  unfold execRecordValidate
  repeat' first | with_reducible apply KeepsO.next | with_reducible assumption | with_reducible apply writeServed_keeps | (with_reducible apply Keeps.foldl; intro _ _ _) | with_reducible apply Keeps.ite | with_reducible apply KeepsO.ite | split | (with_reducible refine Keeps.upd ?_ rfl rfl rfl rfl rfl)

theorem execRecordInvalidate_keeps {kk : Kind} {sb : State} (via : Master) (n : Fin 16384) (w : Word) (s : State) (hk : Keeps kk sb s) :
    KeepsO kk sb (execRecordInvalidate via n w s) := by
  unfold execRecordInvalidate
  repeat' first | with_reducible apply KeepsO.next | with_reducible assumption | with_reducible apply writeServed_keeps | (with_reducible apply Keeps.foldl; intro _ _ _) | with_reducible apply Keeps.ite | with_reducible apply KeepsO.ite | split | (with_reducible refine Keeps.upd ?_ rfl rfl rfl rfl rfl)

theorem execWindowWrite_keeps {kk : Kind} {sb : State} (via : Master) (addr : Nat) (w : Word) (s : State) (hk : Keeps kk sb s) :
    KeepsO kk sb (execWindowWrite via addr w s) := by
  unfold execWindowWrite
  repeat' first | with_reducible apply KeepsO.next | with_reducible assumption | with_reducible apply writeServed_keeps | (with_reducible apply Keeps.foldl; intro _ _ _) | with_reducible apply Keeps.ite | with_reducible apply KeepsO.ite | split | (with_reducible refine Keeps.upd ?_ rfl rfl rfl rfl rfl)

theorem execShaperEntryWrite_keeps {kk : Kind} {sb : State} (via : Master) (addr : Nat) (w : Word) (s : State) (hk : Keeps kk sb s) :
    KeepsO kk sb (execShaperEntryWrite via addr w s) := by
  unfold execShaperEntryWrite
  repeat' first | with_reducible apply KeepsO.next | with_reducible assumption | with_reducible apply writeServed_keeps | (with_reducible apply Keeps.foldl; intro _ _ _) | with_reducible apply Keeps.ite | with_reducible apply KeepsO.ite | split | (with_reducible refine Keeps.upd ?_ rfl rfl rfl rfl rfl)

theorem execPolicerEntryWrite_keeps {kk : Kind} {sb : State} (via : Master) (addr : Nat) (w : Word) (s : State) (hk : Keeps kk sb s) :
    KeepsO kk sb (execPolicerEntryWrite via addr w s) := by
  unfold execPolicerEntryWrite
  repeat' first | with_reducible apply KeepsO.next | with_reducible assumption | with_reducible apply writeServed_keeps | (with_reducible apply Keeps.foldl; intro _ _ _) | with_reducible apply Keeps.ite | with_reducible apply KeepsO.ite | split | (with_reducible refine Keeps.upd ?_ rfl rfl rfl rfl rfl)

theorem execSaValidate_keeps {kk : Kind} {sb : State} (via : Master) (t : Fin 1024) (a : Fin 32) (w : Word) (s : State) (hk : Keeps kk sb s) :
    KeepsO kk sb (execSaValidate via t a w s) := by
  unfold execSaValidate
  repeat' first | with_reducible apply KeepsO.next | with_reducible assumption | with_reducible apply writeServed_keeps | (with_reducible apply Keeps.foldl; intro _ _ _) | with_reducible apply Keeps.ite | with_reducible apply KeepsO.ite | split | (with_reducible refine Keeps.upd ?_ rfl rfl rfl rfl rfl)

theorem execSaInvalidate_keeps {kk : Kind} {sb : State} (via : Master) (t : Fin 1024) (a : Fin 32) (w : Word) (s : State) (hk : Keeps kk sb s) :
    KeepsO kk sb (execSaInvalidate via t a w s) := by
  unfold execSaInvalidate
  repeat' first | with_reducible apply KeepsO.next | with_reducible assumption | with_reducible apply writeServed_keeps | (with_reducible apply Keeps.foldl; intro _ _ _) | with_reducible apply Keeps.ite | with_reducible apply KeepsO.ite | split | (with_reducible refine Keeps.upd ?_ rfl rfl rfl rfl rfl)

theorem execFlipArm_keeps {kk : Kind} {sb : State} (via : Master) (w : Word) (s : State) (hk : Keeps kk sb s) :
    KeepsO kk sb (execFlipArm via w s) := by
  unfold execFlipArm
  repeat' first | with_reducible apply KeepsO.next | with_reducible assumption | with_reducible apply writeServed_keeps | (with_reducible apply Keeps.foldl; intro _ _ _) | with_reducible apply Keeps.ite | with_reducible apply KeepsO.ite | split | (with_reducible refine Keeps.upd ?_ rfl rfl rfl rfl rfl)

theorem execRetireEntryWrite_keeps {kk : Kind} {sb : State} (via : Master) (n : Fin 4) (w : Word) (s : State) (hk : Keeps kk sb s) :
    KeepsO kk sb (execRetireEntryWrite via n w s) := by
  unfold execRetireEntryWrite
  repeat' first | with_reducible apply KeepsO.next | with_reducible assumption | with_reducible apply writeServed_keeps | (with_reducible apply Keeps.foldl; intro _ _ _) | with_reducible apply Keeps.ite | with_reducible apply KeepsO.ite | split | (with_reducible refine Keeps.upd ?_ rfl rfl rfl rfl rfl)

theorem noteAperture_keeps {kk : Kind} {sb : State} (s : State) (a len : Nat) (hk : Keeps kk sb s) :
    Keeps kk sb (noteAperture s a len) := by
  unfold noteAperture
  repeat' first | with_reducible assumption | with_reducible apply setErr_keeps | (with_reducible apply Keeps.foldl; intro _ _ _) | with_reducible apply Keeps.ite | split | (with_reducible refine Keeps.upd ?_ rfl rfl rfl rfl rfl)

theorem bar2Read_keeps {kk : Kind} {sb : State} (s : State) (off len : Nat) (hk : Keeps kk sb s) :
    Keeps kk sb (bar2Read s off len) := by
  unfold bar2Read
  repeat' first | (extract_lets +onlyGivenNames z; first | (have hz : Keeps kk sb z := (by unfold z; with_reducible assumption); clear hz; subst z) | (have hz : Keeps kk sb z := (by unfold z; repeat' first | with_reducible assumption | with_reducible apply poisonTx_keeps | with_reducible apply noteAperture_keeps | with_reducible apply dramRead_keeps | (with_reducible apply Keeps.foldl; intro _ _ _) | (with_reducible apply Keeps.foldlP; intro _ _ _) | with_reducible apply Keeps.ite | split | (with_reducible refine Keeps.upd ?_ rfl rfl rfl rfl rfl)); clear_value z)  | (have hz : Keeps kk sb z.1 := (by unfold z; repeat' first | with_reducible assumption | with_reducible apply poisonTx_keeps | with_reducible apply noteAperture_keeps | with_reducible apply dramRead_keeps | (with_reducible apply Keeps.foldl; intro _ _ _) | (with_reducible apply Keeps.foldlP; intro _ _ _) | with_reducible apply Keeps.ite | split | (with_reducible refine Keeps.upd ?_ rfl rfl rfl rfl rfl)); clear_value z) | (have hz : PowerUnit := z; clear hz) | (have hz : RedUnit := z; clear hz) | (have hz : PcieUnit := z; clear hz) | (have hz : VkeepUnit := z; clear hz) | (have hz : TimeUnit := z; clear hz) | (have hz : TickUnit := z; clear hz) | (have hz : QueueUnit := z; clear hz) | (have hz : PipeUnit := z; clear hz) | (have hz : SchedUnit := z; clear hz) | (have hz : CipUnit := z; clear hz) | (have hz : CrtUnit := z; clear hz) | (have hz : MbxUnit := z; clear hz) | (have hz : CusUnit := z; clear hz) | (have hz : EccUnit := z; clear hz) | (have hz : PowerGov := z; clear hz) | (have hz : SliceRed := z; clear hz) | (have hz : MemChan := z; clear hz) | clear_value z | skip) | with_reducible assumption | with_reducible apply poisonTx_keeps | with_reducible apply noteAperture_keeps | with_reducible apply dramRead_keeps | (with_reducible apply Keeps.foldl; intro _ _ _) | (with_reducible apply Keeps.foldlP; intro _ _ _) | with_reducible apply Keeps.ite | split | (with_reducible refine Keeps.upd ?_ rfl rfl rfl rfl rfl)

theorem bar2Write_keeps {kk : Kind} {sb : State} (s : State) (off : Nat) (data : List (Option Byte)) (ep : Bool) (hk : Keeps kk sb s) :
    Keeps kk sb (bar2Write s off data ep) := by
  unfold bar2Write
  repeat' first | (extract_lets +onlyGivenNames z; first | (have hz : Keeps kk sb z := (by unfold z; with_reducible assumption); clear hz; subst z) | (have hz : Keeps kk sb z := (by unfold z; repeat' first | with_reducible assumption | with_reducible apply noteAperture_keeps | with_reducible apply dramWrite_keeps | with_reducible apply setErr_keeps | with_reducible apply poisonedRx_keeps | (with_reducible apply Keeps.foldl; intro _ _ _) | with_reducible apply Keeps.ite | split | (with_reducible refine Keeps.upd ?_ rfl rfl rfl rfl rfl)); clear_value z)  | (have hz : PowerUnit := z; clear hz) | (have hz : RedUnit := z; clear hz) | (have hz : PcieUnit := z; clear hz) | (have hz : VkeepUnit := z; clear hz) | (have hz : TimeUnit := z; clear hz) | (have hz : TickUnit := z; clear hz) | (have hz : QueueUnit := z; clear hz) | (have hz : PipeUnit := z; clear hz) | (have hz : SchedUnit := z; clear hz) | (have hz : CipUnit := z; clear hz) | (have hz : CrtUnit := z; clear hz) | (have hz : MbxUnit := z; clear hz) | (have hz : CusUnit := z; clear hz) | (have hz : EccUnit := z; clear hz) | (have hz : PowerGov := z; clear hz) | (have hz : SliceRed := z; clear hz) | (have hz : MemChan := z; clear hz) | clear_value z | skip) | with_reducible assumption | with_reducible apply noteAperture_keeps | with_reducible apply dramWrite_keeps | with_reducible apply setErr_keeps | with_reducible apply poisonedRx_keeps | (with_reducible apply Keeps.foldl; intro _ _ _) | with_reducible apply Keeps.ite | split | (with_reducible refine Keeps.upd ?_ rfl rfl rfl rfl rfl)

theorem execBar2Read_keeps {kk : Kind} {sb : State} (off len : Nat) (s : State) (hk : Keeps kk sb s) :
    KeepsO kk sb (execBar2Read off len s) := by
  unfold execBar2Read
  repeat' first | with_reducible apply KeepsO.next | with_reducible assumption | with_reducible apply bar2Read_keeps | (with_reducible apply Keeps.foldl; intro _ _ _) | with_reducible apply Keeps.ite | with_reducible apply KeepsO.ite | split | (with_reducible refine Keeps.upd ?_ rfl rfl rfl rfl rfl)

theorem execBar2Write_keeps {kk : Kind} {sb : State} (off : Nat) (data : List (Option Byte)) (ep : Bool) (s : State) (hk : Keeps kk sb s) :
    KeepsO kk sb (execBar2Write off data ep s) := by
  unfold execBar2Write
  repeat' first | with_reducible apply KeepsO.next | with_reducible assumption | with_reducible apply bar2Write_keeps | (with_reducible apply Keeps.foldl; intro _ _ _) | with_reducible apply Keeps.ite | with_reducible apply KeepsO.ite | split | (with_reducible refine Keeps.upd ?_ rfl rfl rfl rfl rfl)

theorem barRead_keeps {kk : Kind} {sb : State} (s : State) (f bar off : Nat) (hk : Keeps kk sb s) :
    Keeps kk sb (barRead s f bar off).1 := by
  unfold barRead
  repeat' first | with_reducible assumption | with_reducible apply readAccess_keeps | (with_reducible apply Keeps.foldl; intro _ _ _) | with_reducible apply Keeps.ite | split | (with_reducible refine Keeps.upd ?_ rfl rfl rfl rfl rfl)

theorem barWrite_keeps {kk : Kind} {sb : State} (s : State) (f bar off be : Nat) (w : Word) (hk : Keeps kk sb s) :
    Keeps kk sb (barWrite s f bar off be w) := by
  unfold barWrite
  repeat' first | with_reducible assumption | with_reducible apply partialWrite_keeps | with_reducible apply writeAccess_keeps | with_reducible apply bar4Write_keeps | with_reducible apply setErr_keeps | (with_reducible apply Keeps.foldl; intro _ _ _) | with_reducible apply Keeps.ite | split | (with_reducible refine Keeps.upd ?_ rfl rfl rfl rfl rfl)

theorem barReads_keeps {kk : Kind} {sb : State} (s : State) (f bar off len : Nat) (hk : Keeps kk sb s) :
    Keeps kk sb (barReads s f bar off len) := by
  unfold barReads
  repeat' first | (extract_lets +onlyGivenNames z; first | (have hz : Keeps kk sb z := (by unfold z; with_reducible assumption); clear hz; subst z) | (have hz : Keeps kk sb z := (by unfold z; repeat' first | with_reducible assumption | with_reducible apply poisonTx_keeps | with_reducible apply emit_keeps | with_reducible apply barRead_keeps | (with_reducible apply Keeps.foldl; intro _ _ _) | (with_reducible apply Keeps.foldlP; intro _ _ _) | with_reducible apply Keeps.ite | split | (with_reducible refine Keeps.upd ?_ rfl rfl rfl rfl rfl)); clear_value z)  | (have hz : Keeps kk sb z.1 := (by unfold z; repeat' first | with_reducible assumption | with_reducible apply poisonTx_keeps | with_reducible apply emit_keeps | with_reducible apply barRead_keeps | (with_reducible apply Keeps.foldl; intro _ _ _) | (with_reducible apply Keeps.foldlP; intro _ _ _) | with_reducible apply Keeps.ite | split | (with_reducible refine Keeps.upd ?_ rfl rfl rfl rfl rfl)); clear_value z) | (have hz : PowerUnit := z; clear hz) | (have hz : RedUnit := z; clear hz) | (have hz : PcieUnit := z; clear hz) | (have hz : VkeepUnit := z; clear hz) | (have hz : TimeUnit := z; clear hz) | (have hz : TickUnit := z; clear hz) | (have hz : QueueUnit := z; clear hz) | (have hz : PipeUnit := z; clear hz) | (have hz : SchedUnit := z; clear hz) | (have hz : CipUnit := z; clear hz) | (have hz : CrtUnit := z; clear hz) | (have hz : MbxUnit := z; clear hz) | (have hz : CusUnit := z; clear hz) | (have hz : EccUnit := z; clear hz) | (have hz : PowerGov := z; clear hz) | (have hz : SliceRed := z; clear hz) | (have hz : MemChan := z; clear hz) | clear_value z | skip) | with_reducible assumption | with_reducible apply poisonTx_keeps | with_reducible apply emit_keeps | with_reducible apply barRead_keeps | (with_reducible apply Keeps.foldl; intro _ _ _) | (with_reducible apply Keeps.foldlP; intro _ _ _) | with_reducible apply Keeps.ite | split | (with_reducible refine Keeps.upd ?_ rfl rfl rfl rfl rfl)

theorem barWrites_keeps {kk : Kind} {sb : State} (s : State) (f bar off len be : Nat) (l : List Byte) (hk : Keeps kk sb s) :
    Keeps kk sb (barWrites s f bar off len be l) := by
  unfold barWrites
  repeat' first | (extract_lets +onlyGivenNames z; first | (have hz : Keeps kk sb z := (by unfold z; with_reducible assumption); clear hz; subst z) | (have hz : Keeps kk sb z := (by unfold z; repeat' first | with_reducible assumption | with_reducible apply barWrite_keeps | (with_reducible apply Keeps.foldl; intro _ _ _) | with_reducible apply Keeps.ite | split | (with_reducible refine Keeps.upd ?_ rfl rfl rfl rfl rfl)); clear_value z)  | (have hz : PowerUnit := z; clear hz) | (have hz : RedUnit := z; clear hz) | (have hz : PcieUnit := z; clear hz) | (have hz : VkeepUnit := z; clear hz) | (have hz : TimeUnit := z; clear hz) | (have hz : TickUnit := z; clear hz) | (have hz : QueueUnit := z; clear hz) | (have hz : PipeUnit := z; clear hz) | (have hz : SchedUnit := z; clear hz) | (have hz : CipUnit := z; clear hz) | (have hz : CrtUnit := z; clear hz) | (have hz : MbxUnit := z; clear hz) | (have hz : CusUnit := z; clear hz) | (have hz : EccUnit := z; clear hz) | (have hz : PowerGov := z; clear hz) | (have hz : SliceRed := z; clear hz) | (have hz : MemChan := z; clear hz) | clear_value z | skip) | with_reducible assumption | with_reducible apply barWrite_keeps | (with_reducible apply Keeps.foldl; intro _ _ _) | with_reducible apply Keeps.ite | split | (with_reducible refine Keeps.upd ?_ rfl rfl rfl rfl rfl)

theorem execHostMemoryRequest_keeps {kk : Kind} {sb : State} (fn : Fin 1026) (bar : Fin 6) (off len : Nat) (be : Nat) (data : Option (List Byte)) (ep ecrcBad : Bool) (s : State) (hk : Keeps kk sb s) :
    KeepsO kk sb (execHostMemoryRequest fn bar off len be data ep ecrcBad s) := by
  unfold execHostMemoryRequest
  repeat' first | (extract_lets +onlyGivenNames z; first | (have hz : Keeps kk sb z := (by unfold z; with_reducible assumption); clear hz; subst z) | (have hz : Keeps kk sb z := (by unfold z; repeat' first | with_reducible apply KeepsO.next | with_reducible assumption | with_reducible apply barWrites_keeps | with_reducible apply barReads_keeps | with_reducible apply completerAbort_keeps | with_reducible apply poisonedRx_keeps | with_reducible apply bar2Write_keeps | with_reducible apply bar2Read_keeps | with_reducible apply unsupported_keeps | with_reducible apply ecrcError_keeps | with_reducible apply emit_keeps | (with_reducible apply Keeps.foldl; intro _ _ _) | with_reducible apply_assumption | with_reducible apply Keeps.ite | with_reducible apply KeepsO.ite | split | (with_reducible refine Keeps.upd ?_ rfl rfl rfl rfl rfl)); clear_value z)  | (have hz : ∀ (v0 : State) (v1 : Nat), Keeps kk sb v0 → Keeps kk sb (z v0 v1) := (by intro v0 v1 hv0; unfold z; repeat' first | with_reducible apply KeepsO.next | with_reducible assumption | with_reducible apply barWrites_keeps | with_reducible apply barReads_keeps | with_reducible apply completerAbort_keeps | with_reducible apply poisonedRx_keeps | with_reducible apply bar2Write_keeps | with_reducible apply bar2Read_keeps | with_reducible apply unsupported_keeps | with_reducible apply ecrcError_keeps | with_reducible apply emit_keeps | (with_reducible apply Keeps.foldl; intro _ _ _) | with_reducible apply Keeps.ite | with_reducible apply KeepsO.ite | split | (with_reducible refine Keeps.upd ?_ rfl rfl rfl rfl rfl)); clear_value z) | (have hz : PowerUnit := z; clear hz) | (have hz : RedUnit := z; clear hz) | (have hz : PcieUnit := z; clear hz) | (have hz : VkeepUnit := z; clear hz) | (have hz : TimeUnit := z; clear hz) | (have hz : TickUnit := z; clear hz) | (have hz : QueueUnit := z; clear hz) | (have hz : PipeUnit := z; clear hz) | (have hz : SchedUnit := z; clear hz) | (have hz : CipUnit := z; clear hz) | (have hz : CrtUnit := z; clear hz) | (have hz : MbxUnit := z; clear hz) | (have hz : CusUnit := z; clear hz) | (have hz : EccUnit := z; clear hz) | (have hz : PowerGov := z; clear hz) | (have hz : SliceRed := z; clear hz) | (have hz : MemChan := z; clear hz) | clear_value z | skip) | with_reducible apply KeepsO.next | with_reducible assumption | with_reducible apply barWrites_keeps | with_reducible apply barReads_keeps | with_reducible apply completerAbort_keeps | with_reducible apply poisonedRx_keeps | with_reducible apply bar2Write_keeps | with_reducible apply bar2Read_keeps | with_reducible apply unsupported_keeps | with_reducible apply ecrcError_keeps | with_reducible apply emit_keeps | (with_reducible apply Keeps.foldl; intro _ _ _) | with_reducible apply_assumption | with_reducible apply Keeps.ite | with_reducible apply KeepsO.ite | split | (with_reducible refine Keeps.upd ?_ rfl rfl rfl rfl rfl)

end Sys2Proof.Machine
end

