-- ==== Sys2Proof/Laws/KeepsTick.lean ====
section
/-! SUPPORT. The operations of Tick keep what Laws/Keeps.lean states. -/
set_option linter.tactic.unusedName false
set_option linter.unusedVariables false
namespace Sys2Proof.Machine

theorem tickStart_keeps {kr kp ke ky : Bool} {sb : State} (b : Boundary) (s : State) (hk : Keeps ⟨kr, kp, false, ke, ky⟩ sb s) :
    Keeps ⟨kr, kp, false, ke, ky⟩ sb (tickStart b s) := by
  unfold tickStart
  repeat' first | with_reducible assumption | with_reducible apply creditWaits_keeps | with_reducible apply touchWaiting_keeps | with_reducible apply evcTickEnd_keeps | with_reducible apply advanceTime_keeps | with_reducible apply activatePlan_keeps | (with_reducible apply Keeps.foldl; intro _ _ _) | with_reducible apply Keeps.ite | split | (with_reducible refine Keeps.upd ?_ rfl rfl rfl rfl rfl) | (with_reducible refine Keeps.updClk ?_ rfl rfl rfl rfl)

/-- What was written comes into force at a boundary: a canonical store again. -/
theorem latchRegs_keeps {kr kp kc ky : Bool} {sb : State} (s : State) (hk : Keeps ⟨kr, kp, kc, false, ky⟩ sb s) :
    Keeps ⟨kr, kp, kc, false, ky⟩ sb (latchRegs s) := by
  refine hk.trans ⟨rfl, fun w => ?_, id, fun _ => id, fun _ => rfl, fun _ => rfl, (fun e => by cases e), fun _ _ n => KeyKept.same rfl n⟩
  rw [Memory.wf_iff] at w ⊢
  exact { w with eff := w.regs, cfgEff := w.cfg }

theorem phaseTick_keeps {kr kc ke ky : Bool} {sb : State} (s : State) (hk : Keeps ⟨kr, false, kc, ke, ky⟩ sb s) :
    Keeps ⟨kr, false, kc, ke, ky⟩ sb (phaseTick s) := by
  unfold phaseTick
  repeat' first | (extract_lets +onlyGivenNames z; first | (have hz : Keeps ⟨kr, false, kc, ke, ky⟩ sb z := (by unfold z; with_reducible assumption); clear hz; subst z) | (have hz : Keeps ⟨kr, false, kc, ke, ky⟩ sb z := (by unfold z; repeat' first | with_reducible assumption | with_reducible apply endSending_keeps | with_reducible apply cbpEndSending_keeps | with_reducible apply phaseBoundary_keeps | with_reducible apply warmBoundary_keeps | (with_reducible apply Keeps.foldl; intro _ _ _) | with_reducible apply Keeps.ite | split | (with_reducible refine Keeps.upd ?_ rfl rfl rfl rfl rfl)); clear_value z)  | (have hz : PowerUnit := z; clear hz) | (have hz : RedUnit := z; clear hz) | (have hz : PcieUnit := z; clear hz) | (have hz : VkeepUnit := z; clear hz) | (have hz : TimeUnit := z; clear hz) | (have hz : TickUnit := z; clear hz) | (have hz : QueueUnit := z; clear hz) | (have hz : PipeUnit := z; clear hz) | (have hz : SchedUnit := z; clear hz) | (have hz : CipUnit := z; clear hz) | (have hz : CrtUnit := z; clear hz) | (have hz : MbxUnit := z; clear hz) | (have hz : CusUnit := z; clear hz) | (have hz : EccUnit := z; clear hz) | (have hz : PowerGov := z; clear hz) | (have hz : SliceRed := z; clear hz) | (have hz : MemChan := z; clear hz) | clear_value z | skip) | with_reducible assumption | with_reducible apply endSending_keeps | with_reducible apply cbpEndSending_keeps | with_reducible apply phaseBoundary_keeps | with_reducible apply warmBoundary_keeps | (with_reducible apply Keeps.foldl; intro _ _ _) | with_reducible apply Keeps.ite | split | (with_reducible refine Keeps.upd ?_ rfl rfl rfl rfl rfl)

theorem roleTick_keeps {kk : Kind} {sb : State} (s : State) (hk : Keeps kk sb s) :
    Keeps kk sb (roleTick s) := by
  unfold roleTick
  repeat' first | with_reducible assumption | with_reducible apply discardSlice_keeps | with_reducible apply redBoundary_keeps | (with_reducible apply Keeps.foldl; intro _ _ _) | with_reducible apply Keeps.ite | split | (with_reducible refine Keeps.upd ?_ rfl rfl rfl rfl rfl)

theorem queueTick_keeps {kk : Kind} {sb : State} (s : State) (hk : Keeps kk sb s) :
    Keeps kk sb (queueTick s) := by
  unfold queueTick
  repeat' first | (extract_lets +onlyGivenNames z; first | (have hz : Keeps kk sb z := (by unfold z; with_reducible assumption); clear hz; subst z) | (have hz : Keeps kk sb z := (by unfold z; repeat' first | with_reducible assumption | with_reducible apply putTbl_keeps | with_reducible apply putWq_keeps | (with_reducible apply Keeps.foldl; intro _ _ _) | (with_reducible apply Keeps.foldlP; intro _ _ _) | with_reducible apply Keeps.ite | split | (with_reducible refine Keeps.upd ?_ rfl rfl rfl rfl rfl)); clear_value z)  | (have hz : Keeps kk sb z.1 := (by unfold z; repeat' first | with_reducible assumption | with_reducible apply putTbl_keeps | with_reducible apply putWq_keeps | (with_reducible apply Keeps.foldl; intro _ _ _) | (with_reducible apply Keeps.foldlP; intro _ _ _) | with_reducible apply Keeps.ite | split | (with_reducible refine Keeps.upd ?_ rfl rfl rfl rfl rfl)); clear_value z) | (have hz : PowerUnit := z; clear hz) | (have hz : RedUnit := z; clear hz) | (have hz : PcieUnit := z; clear hz) | (have hz : VkeepUnit := z; clear hz) | (have hz : TimeUnit := z; clear hz) | (have hz : TickUnit := z; clear hz) | (have hz : QueueUnit := z; clear hz) | (have hz : PipeUnit := z; clear hz) | (have hz : SchedUnit := z; clear hz) | (have hz : CipUnit := z; clear hz) | (have hz : CrtUnit := z; clear hz) | (have hz : MbxUnit := z; clear hz) | (have hz : CusUnit := z; clear hz) | (have hz : EccUnit := z; clear hz) | (have hz : PowerGov := z; clear hz) | (have hz : SliceRed := z; clear hz) | (have hz : MemChan := z; clear hz) | clear_value z | skip) | with_reducible assumption | with_reducible apply putTbl_keeps | with_reducible apply putWq_keeps | (with_reducible apply Keeps.foldl; intro _ _ _) | (with_reducible apply Keeps.foldlP; intro _ _ _) | with_reducible apply Keeps.ite | split | (with_reducible refine Keeps.upd ?_ rfl rfl rfl rfl rfl)

theorem unitsTick_keeps {kr kc ke ky : Bool} {sb : State} (old s : State) (hk : Keeps ⟨kr, false, kc, ke, ky⟩ sb s) :
    Keeps ⟨kr, false, kc, ke, ky⟩ sb (unitsTick old s) := by
  unfold unitsTick
  repeat' first | (extract_lets +onlyGivenNames z; first | (have hz : Keeps ⟨kr, false, kc, ke, ky⟩ sb z := (by unfold z; with_reducible assumption); clear hz; subst z) | (have hz : Keeps ⟨kr, false, kc, ke, ky⟩ sb z := (by unfold z; repeat' first | with_reducible assumption | with_reducible apply ageBoundary_keeps | with_reducible apply crtBoundary_keeps | with_reducible apply mbxBoundary_keeps | with_reducible apply logBoundary_keeps | with_reducible apply cusBoundary_keeps | with_reducible apply cipBoundary_keeps | with_reducible apply memBoundary_keeps | with_reducible apply haltBoundary_keeps | with_reducible apply paceBoundary_keeps | with_reducible apply stallBoundary_keeps | with_reducible apply queueTick_keeps | with_reducible apply portBoundary_keeps | with_reducible apply cbpBoundary_keeps | with_reducible apply eqxBoundary_keeps | with_reducible apply evcTickBegin_keeps | with_reducible apply phaseTick_keeps | with_reducible apply roleTick_keeps | (with_reducible apply Keeps.foldl; intro _ _ _) | with_reducible apply Keeps.ite | split | (with_reducible refine Keeps.upd ?_ rfl rfl rfl rfl rfl)); clear_value z)  | (have hz : PowerUnit := z; clear hz) | (have hz : RedUnit := z; clear hz) | (have hz : PcieUnit := z; clear hz) | (have hz : VkeepUnit := z; clear hz) | (have hz : TimeUnit := z; clear hz) | (have hz : TickUnit := z; clear hz) | (have hz : QueueUnit := z; clear hz) | (have hz : PipeUnit := z; clear hz) | (have hz : SchedUnit := z; clear hz) | (have hz : CipUnit := z; clear hz) | (have hz : CrtUnit := z; clear hz) | (have hz : MbxUnit := z; clear hz) | (have hz : CusUnit := z; clear hz) | (have hz : EccUnit := z; clear hz) | (have hz : PowerGov := z; clear hz) | (have hz : SliceRed := z; clear hz) | (have hz : MemChan := z; clear hz) | clear_value z | skip) | with_reducible assumption | with_reducible apply ageBoundary_keeps | with_reducible apply crtBoundary_keeps | with_reducible apply mbxBoundary_keeps | with_reducible apply logBoundary_keeps | with_reducible apply cusBoundary_keeps | with_reducible apply cipBoundary_keeps | with_reducible apply memBoundary_keeps | with_reducible apply haltBoundary_keeps | with_reducible apply paceBoundary_keeps | with_reducible apply stallBoundary_keeps | with_reducible apply queueTick_keeps | with_reducible apply portBoundary_keeps | with_reducible apply cbpBoundary_keeps | with_reducible apply eqxBoundary_keeps | with_reducible apply evcTickBegin_keeps | with_reducible apply phaseTick_keeps | with_reducible apply roleTick_keeps | (with_reducible apply Keeps.foldl; intro _ _ _) | with_reducible apply Keeps.ite | split | (with_reducible refine Keeps.upd ?_ rfl rfl rfl rfl rfl)

theorem edgeTick_keeps {kk : Kind} {sb : State} (s : State) (hk : Keeps kk sb s) :
    Keeps kk sb (edgeTick s) := by
  unfold edgeTick
  repeat' first | (extract_lets +onlyGivenNames z; first | (have hz : Keeps kk sb z := (by unfold z; with_reducible assumption); clear hz; subst z) | (have hz : Keeps kk sb z := (by unfold z; repeat' first | with_reducible assumption | with_reducible apply fireInjected_keeps | with_reducible apply sampleShed_keeps | with_reducible apply activateCoef_keeps | with_reducible apply rampStep_keeps | with_reducible apply chipScrub_keeps | with_reducible apply selectReference_keeps | with_reducible apply ppsBoundary_keeps | with_reducible apply voteBoundary_keeps | (with_reducible apply Keeps.foldl; intro _ _ _) | with_reducible apply Keeps.ite | split | (with_reducible refine Keeps.upd ?_ rfl rfl rfl rfl rfl)); clear_value z)  | (have hz : PowerUnit := z; clear hz) | (have hz : RedUnit := z; clear hz) | (have hz : PcieUnit := z; clear hz) | (have hz : VkeepUnit := z; clear hz) | (have hz : TimeUnit := z; clear hz) | (have hz : TickUnit := z; clear hz) | (have hz : QueueUnit := z; clear hz) | (have hz : PipeUnit := z; clear hz) | (have hz : SchedUnit := z; clear hz) | (have hz : CipUnit := z; clear hz) | (have hz : CrtUnit := z; clear hz) | (have hz : MbxUnit := z; clear hz) | (have hz : CusUnit := z; clear hz) | (have hz : EccUnit := z; clear hz) | (have hz : PowerGov := z; clear hz) | (have hz : SliceRed := z; clear hz) | (have hz : MemChan := z; clear hz) | clear_value z | skip) | with_reducible assumption | with_reducible apply fireInjected_keeps | with_reducible apply sampleShed_keeps | with_reducible apply activateCoef_keeps | with_reducible apply rampStep_keeps | with_reducible apply chipScrub_keeps | with_reducible apply selectReference_keeps | with_reducible apply ppsBoundary_keeps | with_reducible apply voteBoundary_keeps | (with_reducible apply Keeps.foldl; intro _ _ _) | with_reducible apply Keeps.ite | split | (with_reducible refine Keeps.upd ?_ rfl rfl rfl rfl rfl)

theorem creditTick_keeps {kk : Kind} {sb : State} (b : Boundary) (oldEff : Table Word) (s : State) (hk : Keeps kk sb s) :
    Keeps kk sb (creditTick b oldEff s) := by
  unfold creditTick
  repeat' first | (extract_lets +onlyGivenNames z; first | (have hz : Keeps kk sb z := (by unfold z; with_reducible assumption); clear hz; subst z) | (have hz : Keeps kk sb z := (by unfold z; repeat' first | with_reducible assumption | with_reducible apply tblServe_keeps | with_reducible apply schedSnapshot_keeps | with_reducible apply grantCredits_keeps | with_reducible apply refillBoundary_keeps | (with_reducible apply Keeps.foldl; intro _ _ _) | with_reducible apply Keeps.ite | split | (with_reducible refine Keeps.upd ?_ rfl rfl rfl rfl rfl)); clear_value z)  | (have hz : PowerUnit := z; clear hz) | (have hz : RedUnit := z; clear hz) | (have hz : PcieUnit := z; clear hz) | (have hz : VkeepUnit := z; clear hz) | (have hz : TimeUnit := z; clear hz) | (have hz : TickUnit := z; clear hz) | (have hz : QueueUnit := z; clear hz) | (have hz : PipeUnit := z; clear hz) | (have hz : SchedUnit := z; clear hz) | (have hz : CipUnit := z; clear hz) | (have hz : CrtUnit := z; clear hz) | (have hz : MbxUnit := z; clear hz) | (have hz : CusUnit := z; clear hz) | (have hz : EccUnit := z; clear hz) | (have hz : PowerGov := z; clear hz) | (have hz : SliceRed := z; clear hz) | (have hz : MemChan := z; clear hz) | clear_value z | skip) | with_reducible assumption | with_reducible apply tblServe_keeps | with_reducible apply schedSnapshot_keeps | with_reducible apply grantCredits_keeps | with_reducible apply refillBoundary_keeps | (with_reducible apply Keeps.foldl; intro _ _ _) | with_reducible apply Keeps.ite | split | (with_reducible refine Keeps.upd ?_ rfl rfl rfl rfl rfl)

theorem execTickBoundary_keeps {kr ky : Bool} {sb : State} (b : Boundary) (s : State) (hk : Keeps ⟨kr, false, false, false, ky⟩ sb s) :
    KeepsO ⟨kr, false, false, false, ky⟩ sb (execTickBoundary b s) := by
  unfold execTickBoundary
  repeat' first | with_reducible apply KeepsO.next | with_reducible assumption | with_reducible apply tickStart_keeps | with_reducible apply latchRegs_keeps | with_reducible apply unitsTick_keeps | with_reducible apply edgeTick_keeps | with_reducible apply creditTick_keeps | (with_reducible apply Keeps.foldl; intro _ _ _) | with_reducible apply Keeps.ite | with_reducible apply KeepsO.ite | split | (with_reducible refine Keeps.upd ?_ rfl rfl rfl rfl rfl) | (with_reducible refine Keeps.updClk ?_ rfl rfl rfl rfl)

end Sys2Proof.Machine
end

