-- ==== Sys2Proof/Laws/Exec.lean ====
section
/-! SUPPORT. What every command leaves alone (Laws/Keeps.lean), command by command: the resets of the device change
everything but the root keys and the queue, the end of bring-up the phase, a tick boundary phase, time and the registers in
force, a key load the root keys, and every other command none of these. -/
namespace Sys2Proof.Machine

/-- What each command is claimed to leave alone. -/
def kindOf : Instr → Kind
  | .powerOn .. => ⟨false, false, false, false, true⟩
  | .perstAssert => ⟨false, false, false, false, true⟩
  | .coreRailLoss => ⟨false, false, false, false, true⟩
  | .sysclkLoss => ⟨false, false, false, false, true⟩
  | .warmResetAssert _ => ⟨false, false, false, false, true⟩
  | .bringupStageEnd .. => ⟨false, false, true, true, true⟩
  | .tickBoundary _ => ⟨true, false, false, false, true⟩
  | .loadPlain => ⟨true, true, true, true, false⟩
  | .loadWrapped => ⟨true, true, true, true, false⟩
  | _ => ⟨true, true, true, false, true⟩

/-- Every command keeps what its kind says. -/
theorem exec_keeps (c : Instr) (s : State) : KeepsO (kindOf c) s (exec c s) := by
  cases c with
  | powerOn vkeepSecs => exact execPowerOn_keeps _ _ (Keeps.refl s)
  | perstAssert  => exact execPerstAssert_keeps _ (Keeps.refl s)
  | perstDeassert  => exact execPerstDeassert_keeps _ (Keeps.refl s)
  | powerOnMonitorRelease  => exact execPowerOnMonitorRelease_keeps _ (Keeps.refl s)
  | coreRailGlitch  => exact execCoreRailGlitch_keeps _ (Keeps.refl s)
  | coreRailLoss  => exact execCoreRailLoss_keeps _ (Keeps.refl s)
  | sysclkLoss  => exact execSysclkLoss_keeps _ (Keeps.refl s)
  | bringupStageEnd us failed => exact execBringupStageEnd_keeps _ _ _ (Keeps.refl s)
  | warmResetAssert late => exact execWarmResetAssert_keeps _ _ (Keeps.refl s)
  | internalResetRelease  => exact execInternalResetRelease_keeps _ (Keeps.refl s)
  | vkeepFirstApply  => exact execVkeepFirstApply_keeps _ (Keeps.refl s)
  | vkeepLoss  => exact execVkeepLoss_keeps _ (Keeps.refl s)
  | tickBoundary b => exact execTickBoundary_keeps _ _ (Keeps.refl s)
  | ppsOutFall  => exact execPpsOutFall_keeps _ (Keeps.refl s)
  | planActivate  => exact execPlanActivate_keeps _ (Keeps.refl s)
  | envelopeRampStep  => exact execEnvelopeRampStep_keeps _ (Keeps.refl s)
  | pshedChange low => exact execPshedChange_keeps _ _ (Keeps.refl s)
  | ppsInEdge cyc => exact execPpsInEdge_keeps _ _ (Keeps.refl s)
  | ref10mLoss  => exact execRef10mLoss_keeps _ (Keeps.refl s)
  | tickCopyOutvoted copy => exact execTickCopyOutvoted_keeps _ _ (Keeps.refl s)
  | tickCopyFence copy => exact execTickCopyFence_keeps _ _ (Keeps.refl s)
  | setTime via seq a0 a1 a2 => exact execSetTime_keeps _ _ _ _ _ _ (Keeps.refl s)
  | stepTime via seq a0 => exact execStepTime_keeps _ _ _ _ (Keeps.refl s)
  | snapshot via seq => exact execSnapshot_keeps _ _ _ (Keeps.refl s)
  | commitPeriod via seq => exact execCommitPeriod_keeps _ _ _ (Keeps.refl s)
  | armPlan via seq => exact execArmPlan_keeps _ _ _ (Keeps.refl s)
  | disarm via seq => exact execDisarm_keeps _ _ _ (Keeps.refl s)
  | loadCoef via seq => exact execLoadCoef_keeps _ _ _ (Keeps.refl s)
  | restoreDefault via seq => exact execRestoreDefault_keeps _ _ _ (Keeps.refl s)
  | enterService via seq => exact execEnterService_keeps _ _ _ (Keeps.refl s)
  | enterTest via seq => exact execEnterTest_keeps _ _ _ (Keeps.refl s)
  | exitTest via seq => exact execExitTest_keeps _ _ _ (Keeps.refl s)
  | deviceReset via seq a0 => exact execDeviceReset_keeps _ _ _ _ (Keeps.refl s)
  | enterRecovery f => exact execEnterRecovery_keeps _ _ (Keeps.refl s)
  | undefinedCommandCode via addr code seq => exact execUndefinedCommandCode_keeps _ _ _ _ _ (Keeps.refl s)
  | pageErrForceWrite via page w => exact execPageErrForceWrite_keeps _ _ _ _ (Keeps.refl s)
  | setAliasWrite via addr w => exact execSetAliasWrite_keeps _ _ _ _ (Keeps.refl s)
  | clearAliasWrite via addr w => exact execClearAliasWrite_keeps _ _ _ _ (Keeps.refl s)
  | registerWrite via addr w => exact execRegisterWrite_keeps _ _ _ _ (Keeps.refl s)
  | rcFieldRead via addr => exact execRcFieldRead_keeps _ _ _ (Keeps.refl s)
  | captureRead via addr => exact execCaptureRead_keeps _ _ _ (Keeps.refl s)
  | tmsPpsInRead via => exact execTmsPpsInRead_keeps _ _ (Keeps.refl s)
  | lockRead via sl => exact execLockRead_keeps _ _ _ (Keeps.refl s)
  | lockRelease via sl w => exact execLockRelease_keeps _ _ _ _ (Keeps.refl s)
  | tckPlanDataAccess via w => exact execTckPlanDataAccess_keeps _ _ _ (Keeps.refl s)
  | pwrCoefDataAccess via w => exact execPwrCoefDataAccess_keeps _ _ _ (Keeps.refl s)
  | macGclDataAccess via p w => exact execMacGclDataAccess_keeps _ _ _ _ (Keeps.refl s)
  | partialWrite via addr => exact execPartialWrite_keeps _ _ _ (Keeps.refl s)
  | unmappedAccess via addr w => exact execUnmappedAccess_keeps _ _ _ _ (Keeps.refl s)
  | undefinedOffsetAccess via addr w => exact execUndefinedOffsetAccess_keeps _ _ _ _ (Keeps.refl s)
  | bar2Read off len => exact execBar2Read_keeps _ _ _ (Keeps.refl s)
  | bar2Write off data ep => exact execBar2Write_keeps _ _ _ _ (Keeps.refl s)
  | maintReadRequest addr => exact execMaintReadRequest_keeps _ _ (Keeps.refl s)
  | maintWriteRequest addr w => exact execMaintWriteRequest_keeps _ _ _ (Keeps.refl s)
  | maintBadRequest frame => exact execMaintBadRequest_keeps _ _ (Keeps.refl s)
  | maintFrameAbort frame => exact execMaintFrameAbort_keeps _ _ (Keeps.refl s)
  | i2cPointerWrite ptr => exact execI2cPointerWrite_keeps _ _ (Keeps.refl s)
  | i2cWordRead  => exact execI2cWordRead_keeps _ (Keeps.refl s)
  | jtagBypass tdi => exact execJtagBypass_keeps _ _ (Keeps.refl s)
  | jtagIdcode  => exact execJtagIdcode_keeps _ (Keeps.refl s)
  | jtagSamplePreload pins tdi => exact execJtagSamplePreload_keeps _ _ _ (Keeps.refl s)
  | jtagExtest pins tdi => exact execJtagExtest_keeps _ _ _ (Keeps.refl s)
  | jtagClamp tdi => exact execJtagClamp_keeps _ _ (Keeps.refl s)
  | jtagHighz tdi => exact execJtagHighz_keeps _ _ (Keeps.refl s)
  | linkTrained speed width => exact execLinkTrained_keeps _ _ _ (Keeps.refl s)
  | linkRetrain speed width => exact execLinkRetrain_keeps _ _ _ (Keeps.refl s)
  | hostReset hot => exact execHostReset_keeps _ _ (Keeps.refl s)
  | pf0Flr  => exact execPf0Flr_keeps _ (Keeps.refl s)
  | vfFlr t => exact execVfFlr_keeps _ _ (Keeps.refl s)
  | pf1Flr  => exact execPf1Flr_keeps _ (Keeps.refl s)
  | flrComplete fn => exact execFlrComplete_keeps _ _ (Keeps.refl s)
  | vfEnableSet  => exact execVfEnableSet_keeps _ (Keeps.refl s)
  | vfEnableClear  => exact execVfEnableClear_keeps _ (Keeps.refl s)
  | vfChangeComplete  => exact execVfChangeComplete_keeps _ (Keeps.refl s)
  | configRequest fn off be w => exact execConfigRequest_keeps _ _ _ _ _ (Keeps.refl s)
  | powerStateWrite fn ps => exact execPowerStateWrite_keeps _ _ _ (Keeps.refl s)
  | busMasterEnableClear fn => exact execBusMasterEnableClear_keeps _ _ (Keeps.refl s)
  | busMasterEnableSet fn => exact execBusMasterEnableSet_keeps _ _ (Keeps.refl s)
  | pmeStatusClear fn => exact execPmeStatusClear_keeps _ _ (Keeps.refl s)
  | pmeRepeat fn => exact execPmeRepeat_keeps _ _ (Keeps.refl s)
  | pmeTurnOff  => exact execPmeTurnOff_keeps _ (Keeps.refl s)
  | msixTableWrite fn off be w => exact execMsixTableWrite_keeps _ _ _ _ _ (Keeps.refl s)
  | hostMemoryRequest fn bar off len be data ep e => exact execHostMemoryRequest_keeps _ _ _ _ _ _ _ _ _ (Keeps.refl s)
  | completionReceived c => exact execCompletionReceived_keeps _ _ (Keeps.refl s)
  | completionTimeout tag => exact execCompletionTimeout_keeps _ _ (Keeps.refl s)
  | tagHoldEnd tag => exact execTagHoldEnd_keeps _ _ (Keeps.refl s)
  | wqDoorbell via q v => exact execWqDoorbell_keeps _ _ _ _ (Keeps.refl s)
  | crDoorbell via q v => exact execCrDoorbell_keeps _ _ _ _ (Keeps.refl s)
  | recordValidate via n w => exact execRecordValidate_keeps _ _ _ _ (Keeps.refl s)
  | recordInvalidate via n w => exact execRecordInvalidate_keeps _ _ _ _ (Keeps.refl s)
  | workEntryFetch a => exact execWorkEntryFetch_keeps _ _ (Keeps.refl s)
  | phaseRefetch wq idx => exact execPhaseRefetch_keeps _ _ _ (Keeps.refl s)
  | nopEntry wq idx => exact execNopEntry_keeps _ _ _ (Keeps.refl s)
  | txEntry wq idx => exact execTxEntry_keeps _ _ _ (Keeps.refl s)
  | rxPostEntry wq idx => exact execRxPostEntry_keeps _ _ _ (Keeps.refl s)
  | fillEntry wq idx => exact execFillEntry_keeps _ _ _ (Keeps.refl s)
  | copyEntry wq idx => exact execCopyEntry_keeps _ _ _ (Keeps.refl s)
  | carlisPutEntry wq idx => exact execCarlisPutEntry_keeps _ _ _ (Keeps.refl s)
  | carlisCommitEntry wq idx => exact execCarlisCommitEntry_keeps _ _ _ (Keeps.refl s)
  | dmaReadIssue wq idx => exact execDmaReadIssue_keeps _ _ _ (Keeps.refl s)
  | dmaWriteIssue wq idx => exact execDmaWriteIssue_keeps _ _ _ (Keeps.refl s)
  | logRingWrite k => exact execLogRingWrite_keeps _ _ (Keeps.refl s)
  | dmaRetry wq idx => exact execDmaRetry_keeps _ _ _ (Keeps.refl s)
  | entryFinish wq idx => exact execEntryFinish_keeps _ _ _ (Keeps.refl s)
  | completionEntryWrite n => exact execCompletionEntryWrite_keeps _ _ (Keeps.refl s)
  | moderationTimerExpiry n => exact execModerationTimerExpiry_keeps _ _ (Keeps.refl s)
  | msixMessageSend fn vec => exact execMsixMessageSend_keeps _ _ _ (Keeps.refl s)
  | mailboxSend via w => exact execMailboxSend_keeps _ _ _ (Keeps.refl s)
  | mailboxDeliver  => exact execMailboxDeliver_keeps _ (Keeps.refl s)
  | mailboxAck via w => exact execMailboxAck_keeps _ _ _ (Keeps.refl s)
  | open_ c via seq => exact execOpen__keeps _ _ _ _ (Keeps.refl s)
  | close c via seq => exact execClose_keeps _ _ _ _ (Keeps.refl s)
  | submit c req via seq a0 => exact execSubmit_keeps _ _ _ _ _ _ (Keeps.refl s)
  | loadPlain  => exact execLoadPlain_keeps _ (Keeps.refl s)
  | loadWrapped  => exact execLoadWrapped_keeps _ (Keeps.refl s)
  | eraseSlot  => exact execEraseSlot_keeps _ (Keeps.refl s)
  | slotInfo  => exact execSlotInfo_keeps _ (Keeps.refl s)
  | readRecord  => exact execReadRecord_keeps _ (Keeps.refl s)
  | slotCacheInvalidate  => exact execSlotCacheInvalidate_keeps _ (Keeps.refl s)
  | logStart via seq a0 a1 a2 => exact execLogStart_keeps _ _ _ _ _ _ (Keeps.refl s)
  | logStop via seq a0 => exact execLogStop_keeps _ _ _ _ (Keeps.refl s)
  | tenLogCiWrite via k w => exact execTenLogCiWrite_keeps _ _ _ _ (Keeps.refl s)
  | pcsEnable p via seq => exact execPcsEnable_keeps _ _ _ _ (Keeps.refl s)
  | pcsDisable p via seq => exact execPcsDisable_keeps _ _ _ _ (Keeps.refl s)
  | retrain p via seq => exact execRetrain_keeps _ _ _ _ (Keeps.refl s)
  | trainingAttemptEnd p ok taps => exact execTrainingAttemptEnd_keeps _ _ _ _ (Keeps.refl s)
  | linkStateChange p st => exact execLinkStateChange_keeps _ _ _ (Keeps.refl s)
  | frameReceive p express cyc start bytes fin => exact execFrameReceive_keeps _ _ _ _ _ _ _ (Keeps.refl s)
  | pauseFrameReceived p cyc src quanta => exact execPauseFrameReceived_keeps _ _ _ _ _ (Keeps.refl s)
  | pfcFrameReceived p cyc src enables quanta => exact execPfcFrameReceived_keeps _ _ _ _ _ _ (Keeps.refl s)
  | verifyMpacketReceived p => exact execVerifyMpacketReceived_keeps _ _ (Keeps.refl s)
  | lpiReceived p => exact execLpiReceived_keeps _ _ (Keeps.refl s)
  | pauseExpiry p => exact execPauseExpiry_keeps _ _ (Keeps.refl s)
  | pfcRefresh p => exact execPfcRefresh_keeps _ _ (Keeps.refl s)
  | gclArm p via seq => exact execGclArm_keeps _ _ _ _ (Keeps.refl s)
  | gclDisarm p via seq => exact execGclDisarm_keeps _ _ _ _ (Keeps.refl s)
  | gclOff p via seq => exact execGclOff_keeps _ _ _ _ (Keeps.refl s)
  | gclActivate p => exact execGclActivate_keeps _ _ (Keeps.refl s)
  | gateStateChange p => exact execGateStateChange_keeps _ _ (Keeps.refl s)
  | headerProcess  => exact execHeaderProcess_keeps _ (Keeps.refl s)
  | reentry  => exact execReentry_keeps _ (Keeps.refl s)
  | windowWrite via addr w => exact execWindowWrite_keeps _ _ _ _ (Keeps.refl s)
  | learnEventApply sl => exact execLearnEventApply_keeps _ _ (Keeps.refl s)
  | ageingVisit sl => exact execAgeingVisit_keeps _ _ (Keeps.refl s)
  | stashDrain sl => exact execStashDrain_keeps _ _ (Keeps.refl s)
  | search sl via seq => exact execSearch_keeps _ _ _ _ (Keeps.refl s)
  | tblNext sl via seq a0 a1 => exact execTblNext_keeps _ _ _ _ _ _ (Keeps.refl s)
  | insert sl via seq a0 => exact execInsert_keeps _ _ _ _ _ (Keeps.refl s)
  | delete sl via seq => exact execDelete_keeps _ _ _ _ (Keeps.refl s)
  | flush sl via seq a0 a1 => exact execFlush_keeps _ _ _ _ _ _ (Keeps.refl s)
  | digest sl via seq a0 => exact execDigest_keeps _ _ _ _ _ (Keeps.refl s)
  | srcCount sl via seq a0 => exact execSrcCount_keeps _ _ _ _ _ (Keeps.refl s)
  | lpmInsert sl via seq a0 => exact execLpmInsert_keeps _ _ _ _ _ (Keeps.refl s)
  | lpmDelete sl via seq => exact execLpmDelete_keeps _ _ _ _ (Keeps.refl s)
  | lpmSearch sl via seq => exact execLpmSearch_keeps _ _ _ _ (Keeps.refl s)
  | lpmLookup sl via seq => exact execLpmLookup_keeps _ _ _ _ (Keeps.refl s)
  | lpmRead sl via seq a0 => exact execLpmRead_keeps _ _ _ _ _ (Keeps.refl s)
  | bulkLoad sl via seq a0 a1 a2 => exact execBulkLoad_keeps _ _ _ _ _ _ _ (Keeps.refl s)
  | bulkDump sl via seq a0 a1 a2 => exact execBulkDump_keeps _ _ _ _ _ _ _ (Keeps.refl s)
  | lpmRowRepair sl row copyBad => exact execLpmRowRepair_keeps _ _ _ _ (Keeps.refl s)
  | shaperEntryWrite via addr w => exact execShaperEntryWrite_keeps _ _ _ _ (Keeps.refl s)
  | policerEntryWrite via addr w => exact execPolicerEntryWrite_keeps _ _ _ _ (Keeps.refl s)
  | admissionSelect  => exact execAdmissionSelect_keeps _ (Keeps.refl s)
  | schedulerSelect p => exact execSchedulerSelect_keeps _ _ (Keeps.refl s)
  | rxDeliver n => exact execRxDeliver_keeps _ _ (Keeps.refl s)
  | spillWrite p c => exact execSpillWrite_keeps _ _ _ (Keeps.refl s)
  | spillReadBack p c => exact execSpillReadBack_keeps _ _ _ (Keeps.refl s)
  | transmitFrame p cyc crs => exact execTransmitFrame_keeps _ _ _ _ (Keeps.refl s)
  | transmitEnd p => exact execTransmitEnd_keeps _ _ (Keeps.refl s)
  | cbpEnable via seq => exact execCbpEnable_keeps _ _ _ (Keeps.refl s)
  | cbpDisable via seq => exact execCbpDisable_keeps _ _ _ (Keeps.refl s)
  | mdioRead sampled via seq a0 a1 a2 => exact execMdioRead_keeps _ _ _ _ _ _ _ (Keeps.refl s)
  | mdioWrite via seq a0 a1 a2 => exact execMdioWrite_keeps _ _ _ _ _ _ (Keeps.refl s)
  | p6FrameReceive cyc bytes code => exact execP6FrameReceive_keeps _ _ _ _ (Keeps.refl s)
  | collisionDetect cyc bitTime => exact execCollisionDetect_keeps _ _ _ (Keeps.refl s)
  | backoffExpiry  => exact execBackoffExpiry_keeps _ (Keeps.refl s)
  | carrierDrop  => exact execCarrierDrop_keeps _ (Keeps.refl s)
  | beaconReceived  => exact execBeaconReceived_keeps _ (Keeps.refl s)
  | beaconSend  => exact execBeaconSend_keeps _ (Keeps.refl s)
  | transmitOpportunity cyc => exact execTransmitOpportunity_keeps _ _ (Keeps.refl s)
  | plcaBeaconTimeout  => exact execPlcaBeaconTimeout_keeps _ (Keeps.refl s)
  | txClkLost  => exact execTxClkLost_keeps _ (Keeps.refl s)
  | txClkRestored  => exact execTxClkRestored_keeps _ (Keeps.refl s)
  | saValidate via t a w => exact execSaValidate_keeps _ _ _ _ _ (Keeps.refl s)
  | saInvalidate via t a w => exact execSaInvalidate_keeps _ _ _ _ _ (Keeps.refl s)
  | keyDerivation sl => exact execKeyDerivation_keeps _ _ (Keeps.refl s)
  | decryptStart c => exact execDecryptStart_keeps _ _ (Keeps.refl s)
  | decryptVerify frame => exact execDecryptVerify_keeps _ _ (Keeps.refl s)
  | decryptRelease frame => exact execDecryptRelease_keeps _ _ (Keeps.refl s)
  | encryptFrame frame => exact execEncryptFrame_keeps _ _ (Keeps.refl s)
  | flushKeys sl via seq a0 a1 => exact execFlushKeys_keeps _ _ _ _ _ _ (Keeps.refl s)
  | warmKeys sl via seq a0 => exact execWarmKeys_keeps _ _ _ _ _ (Keeps.refl s)
  | openChannel via seq a0 => exact execOpenChannel_keeps _ _ _ _ (Keeps.refl s)
  | closeChannel via seq a0 => exact execCloseChannel_keeps _ _ _ _ (Keeps.refl s)
  | winSet via seq a0 => exact execWinSet_keeps _ _ _ _ (Keeps.refl s)
  | winClose via seq a0 => exact execWinClose_keeps _ _ _ _ (Keeps.refl s)
  | helloSend c => exact execHelloSend_keeps _ _ (Keeps.refl s)
  | chunkSend c => exact execChunkSend_keeps _ _ (Keeps.refl s)
  | commitSend c => exact execCommitSend_keeps _ _ (Keeps.refl s)
  | hello  => exact execHello_keeps _ (Keeps.refl s)
  | helloAck  => exact execHelloAck_keeps _ (Keeps.refl s)
  | chunk  => exact execChunk_keeps _ (Keeps.refl s)
  | commit  => exact execCommit_keeps _ (Keeps.refl s)
  | ack  => exact execAck_keeps _ (Keeps.refl s)
  | refuse  => exact execRefuse_keeps _ (Keeps.refl s)
  | window  => exact execWindow_keeps _ (Keeps.refl s)
  | rst  => exact execRst_keeps _ (Keeps.refl s)
  | chunkApply c => exact execChunkApply_keeps _ _ (Keeps.refl s)
  | commitApply c => exact execCommitApply_keeps _ _ (Keeps.refl s)
  | ackSend c => exact execAckSend_keeps _ _ (Keeps.refl s)
  | retransmitTimerExpiry c => exact execRetransmitTimerExpiry_keeps _ _ (Keeps.refl s)
  | patrolScrubBurst n => exact execPatrolScrubBurst_keeps _ _ (Keeps.refl s)
  | flipArm via w => exact execFlipArm_keeps _ _ _ (Keeps.refl s)
  | flipApply word => exact execFlipApply_keeps _ _ (Keeps.refl s)
  | retireEntryWrite via n w => exact execRetireEntryWrite_keeps _ _ _ _ (Keeps.refl s)
  | memConfig n via seq => exact execMemConfig_keeps _ _ _ _ (Keeps.refl s)
  | memSweep n found via seq a0 => exact execMemSweep_keeps _ _ _ _ _ _ (Keeps.refl s)
  | memStart n via seq => exact execMemStart_keeps _ _ _ _ (Keeps.refl s)
  | memRelease n via seq => exact execMemRelease_keeps _ _ _ _ (Keeps.refl s)
  | onlineCheckFire sl ev eng => exact execOnlineCheckFire_keeps _ _ _ _ (Keeps.refl s)
  | switchOver replay gap => exact execSwitchOver_keeps _ _ _ (Keeps.refl s)
  | sliceResetEnd sl pass => exact execSliceResetEnd_keeps _ _ _ (Keeps.refl s)
  | autoReadmit sl => exact execAutoReadmit_keeps _ _ (Keeps.refl s)
  | selftestPassEnd ms wrong => exact execSelftestPassEnd_keeps _ _ _ (Keeps.refl s)
  | equinoxDue  => exact execEquinoxDue_keeps _ (Keeps.refl s)
  | equinoxPrepare  => exact execEquinoxPrepare_keeps _ (Keeps.refl s)
  | equinoxHold  => exact execEquinoxHold_keeps _ (Keeps.refl s)
  | equinoxDrain  => exact execEquinoxDrain_keeps _ (Keeps.refl s)
  | equinoxSwap  => exact execEquinoxSwap_keeps _ (Keeps.refl s)
  | equinoxAbandon  => exact execEquinoxAbandon_keeps _ (Keeps.refl s)
  | equinoxDeferAlarm  => exact execEquinoxDeferAlarm_keeps _ (Keeps.refl s)
  | equinoxNow via seq => exact execEquinoxNow_keeps _ _ _ (Keeps.refl s)
  | withdraw via seq a0 => exact execWithdraw_keeps _ _ _ _ (Keeps.refl s)
  | readmit via seq a0 => exact execReadmit_keeps _ _ _ _ (Keeps.refl s)
  | inject sl via seq a0 => exact execInject_keeps _ _ _ _ _ (Keeps.refl s)
  | alarmSourceActive src => exact execAlarmSourceActive_keeps _ _ (Keeps.refl s)
  | crimsonCacheInvalidate  => exact execCrimsonCacheInvalidate_keeps _ (Keeps.refl s)
  | sealPolicy via seq => exact execSealPolicy_keeps _ _ _ (Keeps.refl s)
  | clearAlarm via seq => exact execClearAlarm_keeps _ _ _ (Keeps.refl s)
  | zeroize via seq a0 => exact execZeroize_keeps _ _ _ _ (Keeps.refl s)
  | eraseAll via seq a0 => exact execEraseAll_keeps _ _ _ _ (Keeps.refl s)
  | sensorSample temps volts => exact execSensorSample_keeps _ _ _ (Keeps.refl s)
  | ref10mRestored  => exact execRef10mRestored_keeps _ (Keeps.refl s)
  | alarmSourceInactive src => exact execAlarmSourceInactive_keeps _ _ (Keeps.refl s)

/-- A step of the device keeps what the kind of its command says; an idle step is no step. -/
theorem step_keeps {s t : State} (h : step s = .next t) :
    (s.pending = [] ∧ t = s) ∨ ∃ c rest, s.pending = c :: rest ∧ Keeps (kindOf c) { s with pending := rest } t := by
  unfold step at h
  split at h
  · rename_i e
    cases h
    exact .inl ⟨e, rfl⟩
  · rename_i c rest e
    exact .inr ⟨c, rest, e, exec_keeps c _ t h⟩

end Sys2Proof.Machine
end

