-- ==== Sys2Proof/WellFormed.lean ====
section
/-! DEFINITION. Which commands the outside can form: the checks on operands that the types of `Instr` leave open. The
meanings take any command; a program of commands that is to stand for the device holds well-formed ones. -/
namespace Sys2Proof

/-- The masters outside the device (R168); the equinox sync engine's own commands are no rows. -/
def fromOutside : Master → Bool
  | .sync => false
  | _ => true

/-- A link speed of 1 to 5 (2.5 to 32 GT/s) and a width of x1, x2, x4, x8 or x16 (R221). -/
def linkShape (speed width : Nat) : Bool := decide (1 ≤ speed ∧ speed ≤ 5) && [1, 2, 4, 8, 16].contains width

/-- Is the command one that the outside can form? -/
def Instr.wellFormed : Instr → Bool
  | .powerOn vkeepSecs => decide (vkeepSecs < 2 ^ 32)
  | .perstAssert => true
  | .perstDeassert => true
  | .powerOnMonitorRelease => true
  | .coreRailGlitch => true
  | .coreRailLoss => true
  | .sysclkLoss => true
  | .bringupStageEnd us _ => decide (us < 2 ^ 32)
  | .warmResetAssert _ => true
  | .internalResetRelease => true
  | .vkeepFirstApply => true
  | .vkeepLoss => true
  | .tickBoundary _ => true
  | .ppsOutFall => true
  | .planActivate => true
  | .envelopeRampStep => true
  | .pshedChange _ => true
  | .ppsInEdge cyc => decide (cyc < 16384)
  | .ref10mLoss => true
  | .tickCopyOutvoted _ => true
  | .tickCopyFence _ => true
  | .setTime via _ _ _ _ => fromOutside via
  | .stepTime via _ _ => fromOutside via
  | .snapshot via _ => fromOutside via
  | .commitPeriod via _ => fromOutside via
  | .armPlan via _ => fromOutside via
  | .disarm via _ => fromOutside via
  | .loadCoef via _ => fromOutside via
  | .restoreDefault via _ => fromOutside via
  | .enterService via _ => fromOutside via
  | .enterTest via _ => fromOutside via
  | .exitTest via _ => fromOutside via
  | .deviceReset via _ _ => fromOutside via
  | .enterRecovery _ => true
  | .undefinedCommandCode via _ _ _ => fromOutside via
  | .pageErrForceWrite via _ _ => fromOutside via
  | .setAliasWrite via _ _ => fromOutside via
  | .clearAliasWrite via _ _ => fromOutside via
  | .registerWrite via _ _ => fromOutside via
  | .rcFieldRead via _ => fromOutside via
  | .captureRead via _ => fromOutside via
  | .tmsPpsInRead via => fromOutside via
  | .lockRead via _ => fromOutside via
  | .lockRelease via _ _ => fromOutside via
  | .tckPlanDataAccess via _ => fromOutside via
  | .pwrCoefDataAccess via _ => fromOutside via
  | .macGclDataAccess via _ _ => fromOutside via
  | .partialWrite via _ => fromOutside via
  | .unmappedAccess via _ _ => fromOutside via
  | .undefinedOffsetAccess via _ _ => fromOutside via
  | .bar2Read off len => decide (0 < len ∧ off + len ≤ 0x4000000)
  | .bar2Write off data _ => decide (data ≠ [] ∧ off + data.length ≤ 0x4000000)
  | .maintReadRequest addr => decide (addr < 2 ^ 32)
  | .maintWriteRequest addr _ => decide (addr < 2 ^ 32)
  | .maintBadRequest _ => true
  | .maintFrameAbort _ => true
  | .i2cPointerWrite _ => true
  | .i2cWordRead => true
  | .jtagBypass _ => true
  | .jtagIdcode => true
  | .jtagSamplePreload _ _ => true
  | .jtagExtest _ _ => true
  | .jtagClamp _ => true
  | .jtagHighz _ => true
  | .linkTrained speed width => linkShape speed width
  | .linkRetrain speed width => linkShape speed width
  | .hostReset _ => true
  | .pf0Flr => true
  | .vfFlr _ => true
  | .pf1Flr => true
  | .flrComplete _ => true
  | .vfEnableSet => true
  | .vfEnableClear => true
  | .vfChangeComplete => true
  | .configRequest _ off be _ => decide (off < 4096 ∧ off % 4 = 0 ∧ be < 16)
  | .powerStateWrite _ _ => true
  | .busMasterEnableClear _ => true
  | .busMasterEnableSet _ => true
  | .pmeStatusClear _ => true
  | .pmeRepeat _ => true
  | .pmeTurnOff => true
  | .msixTableWrite _ off be _ => decide (off % 4 = 0 ∧ be < 16)
  | .hostMemoryRequest _ _ _ len be data _ _ => decide (0 < len ∧ be < 2 ^ len) && (data.map (fun d => decide (d.length = len))).getD true
  | .completionReceived _ => true
  | .completionTimeout _ => true
  | .tagHoldEnd _ => true
  | .wqDoorbell via q v => fromOutside via && decide (q < 16384 ∧ v < 65536)
  | .crDoorbell via q v => fromOutside via && decide (q < 16384 ∧ v < 65536)
  | .recordValidate via _ _ => fromOutside via
  | .recordInvalidate via _ _ => fromOutside via
  | .workEntryFetch _ => true
  | .phaseRefetch _ _ => true
  | .nopEntry _ _ => true
  | .txEntry _ _ => true
  | .rxPostEntry _ _ => true
  | .fillEntry _ _ => true
  | .copyEntry _ _ => true
  | .carlisPutEntry _ _ => true
  | .carlisCommitEntry _ _ => true
  | .dmaReadIssue _ _ => true
  | .dmaWriteIssue _ _ => true
  | .logRingWrite _ => true
  | .dmaRetry _ _ => true
  | .entryFinish _ _ => true
  | .completionEntryWrite _ => true
  | .moderationTimerExpiry _ => true
  | .msixMessageSend _ _ => true
  | .mailboxSend via _ => fromOutside via
  | .mailboxDeliver => true
  | .mailboxAck via _ => fromOutside via
  | .open_ _ via _ => fromOutside via
  | .close _ via _ => fromOutside via
  | .submit _ _ via _ _ => fromOutside via
  | .loadPlain => true
  | .loadWrapped => true
  | .eraseSlot => true
  | .slotInfo => true
  | .readRecord => true
  | .slotCacheInvalidate => true
  | .logStart via _ _ _ _ => fromOutside via
  | .logStop via _ _ => fromOutside via
  | .tenLogCiWrite via _ _ => fromOutside via
  | .pcsEnable _ via _ => fromOutside via
  | .pcsDisable _ via _ => fromOutside via
  | .retrain _ via _ => fromOutside via
  | .trainingAttemptEnd _ _ _ => true
  | .linkStateChange _ _ => true
  | .frameReceive _ _ cyc _ _ _ => decide (cyc < 16384)
  | .pauseFrameReceived _ cyc _ _ => decide (cyc < 16384)
  | .pfcFrameReceived _ cyc _ _ _ => decide (cyc < 16384)
  | .verifyMpacketReceived _ => true
  | .lpiReceived _ => true
  | .pauseExpiry _ => true
  | .pfcRefresh _ => true
  | .gclArm _ via _ => fromOutside via
  | .gclDisarm _ via _ => fromOutside via
  | .gclOff _ via _ => fromOutside via
  | .gclActivate _ => true
  | .gateStateChange _ => true
  | .headerProcess => true
  | .reentry => true
  | .windowWrite via _ _ => fromOutside via
  | .learnEventApply _ => true
  | .ageingVisit _ => true
  | .stashDrain _ => true
  | .search _ via _ => fromOutside via
  | .tblNext _ via _ _ _ => fromOutside via
  | .insert _ via _ _ => fromOutside via
  | .delete _ via _ => fromOutside via
  | .flush _ via _ _ _ => fromOutside via
  | .digest _ via _ _ => fromOutside via
  | .srcCount _ via _ _ => fromOutside via
  | .lpmInsert _ via _ _ => fromOutside via
  | .lpmDelete _ via _ => fromOutside via
  | .lpmSearch _ via _ => fromOutside via
  | .lpmLookup _ via _ => fromOutside via
  | .lpmRead _ via _ _ => fromOutside via
  | .bulkLoad _ via _ _ _ _ => fromOutside via
  | .bulkDump _ via _ _ _ _ => fromOutside via
  | .lpmRowRepair _ _ _ => true
  | .shaperEntryWrite via _ _ => fromOutside via
  | .policerEntryWrite via _ _ => fromOutside via
  | .admissionSelect => true
  | .schedulerSelect _ => true
  | .rxDeliver _ => true
  | .spillWrite _ _ => true
  | .spillReadBack _ _ => true
  | .transmitFrame _ cyc _ => decide (cyc < 16384)
  | .transmitEnd _ => true
  | .cbpEnable via _ => fromOutside via
  | .cbpDisable via _ => fromOutside via
  | .mdioRead _ via _ _ _ _ => fromOutside via
  | .mdioWrite via _ _ _ _ => fromOutside via
  | .p6FrameReceive cyc _ _ => decide (cyc < 16384)
  | .collisionDetect cyc _ => decide (cyc < 16384)
  | .backoffExpiry => true
  | .carrierDrop => true
  | .beaconReceived => true
  | .beaconSend => true
  | .transmitOpportunity cyc => decide (cyc < 16384)
  | .plcaBeaconTimeout => true
  | .txClkLost => true
  | .txClkRestored => true
  | .saValidate via _ _ _ => fromOutside via
  | .saInvalidate via _ _ _ => fromOutside via
  | .keyDerivation _ => true
  | .decryptStart _ => true
  | .decryptVerify _ => true
  | .decryptRelease _ => true
  | .encryptFrame _ => true
  | .flushKeys _ via _ _ _ => fromOutside via
  | .warmKeys _ via _ _ => fromOutside via
  | .openChannel via _ _ => fromOutside via
  | .closeChannel via _ _ => fromOutside via
  | .winSet via _ _ => fromOutside via
  | .winClose via _ _ => fromOutside via
  | .helloSend _ => true
  | .chunkSend _ => true
  | .commitSend _ => true
  | .hello => true
  | .helloAck => true
  | .chunk => true
  | .commit => true
  | .ack => true
  | .refuse => true
  | .window => true
  | .rst => true
  | .chunkApply _ => true
  | .commitApply _ => true
  | .ackSend _ => true
  | .retransmitTimerExpiry _ => true
  | .patrolScrubBurst _ => true
  | .flipArm via _ => fromOutside via
  | .flipApply _ => true
  | .retireEntryWrite via _ _ => fromOutside via
  | .memConfig _ via _ => fromOutside via
  | .memSweep _ _ via _ _ => fromOutside via
  | .memStart _ via _ => fromOutside via
  | .memRelease _ via _ => fromOutside via
  | .onlineCheckFire _ _ _ => true
  | .switchOver _ _ => true
  | .sliceResetEnd _ _ => true
  | .autoReadmit _ => true
  | .selftestPassEnd ms _ => decide (ms < 65536)
  | .equinoxDue => true
  | .equinoxPrepare => true
  | .equinoxHold => true
  | .equinoxDrain => true
  | .equinoxSwap => true
  | .equinoxAbandon => true
  | .equinoxDeferAlarm => true
  | .equinoxNow via _ => fromOutside via
  | .withdraw via _ _ => fromOutside via
  | .readmit via _ _ => fromOutside via
  | .inject _ via _ _ => fromOutside via
  | .alarmSourceActive _ => true
  | .crimsonCacheInvalidate => true
  | .sealPolicy via _ => fromOutside via
  | .clearAlarm via _ => fromOutside via
  | .zeroize via _ _ => fromOutside via
  | .eraseAll via _ _ => fromOutside via
  | .sensorSample _ _ => true
  | .ref10mRestored => true
  | .alarmSourceInactive _ => true

end Sys2Proof
end

