-- ==== Sys2Proof/Tests/Slice0.lean ====
section
/-! SUPPORT. Small checks of the model: concrete commands on small states, ill-formed operands, and for every statement
a state that meets its hypotheses. -/
namespace Sys2Proof.Machine

set_option Elab.async false

/-- A device whose link is up, with Memory Space Enable and Bus Master Enable of PF0 set. -/
def linkedState : State := { State.reset with pcie := { State.reset.pcie with
  dlUp := true, speed := 5, width := 16, cfg := [(4, 0x00100006)], cfgEff := [(4, 0x00100006)] } }

/-- The same with eight virtual functions. -/
def vfState : State := { linkedState with pcie := { linkedState.pcie with
  cfg := [(4, 0x00100006), (0x158, 1), (0x160, 8)], cfgEff := [(4, 0x00100006), (0x158, 1), (0x160, 8)], vfLive := 8 } }

/-- The same with a message pending. -/
def pendingState : State := { linkedState with pcie := { linkedState.pcie with
  cfg := [(4, 0x00100006), (0xB0, 0x87FF0011)], pba := [5], msix := [(20, 0xFEE00000), (22, 0x41), (23, 0)] } }

/-- A read of WQ 0 is outstanding under tag 7. -/
def tagState (stale : Bool) (held : Option Nat) : State := { linkedState with
  tck := { linkedState.tck with boundaries := 10000 }
  pcie := { linkedState.pcie with tags := [{
    id := 7, fn := 0, slice := .ochre, wq := 0, idx := 0, purpose := .data, addr := 0, off := 0, len := 64, tries := 0,
    data := [], bad := [], issuedAt := 0, k := 5, normal := true, stale := stale, held := held }] } }

/-- PF0 in D3hot with PME_Status and PME_En set. -/
def pmeState : State := { linkedState with
  tck := { linkedState.tck with boundaries := 10 ^ 9 }
  pcie := { linkedState.pcie with cfg := [(4, 0x00100006), (0x44, 0x810B)], cfgEff := [(4, 0x00100006), (0x44, 0x810B)] } }

/-- A root key in slot 3. -/
def keyedState : State := { State.reset with vkeep := { State.reset.vkeep with
  slots := [(3, ⟨some ⟨7, 1, 0x41, 0⟩, none, some false, 1⟩)] } }

/-- The shadow plan bank holds a plan that passes every check. -/
def planReadyState : State := { State.reset with tck := { State.reset.tck with
  committed := true
  bank1 := [(0, 0x00020001), (1, 1), (2, 5), (4, 1221209759), (16, 0x00010101)] } }

/-- A running DRAM channel 0. -/
def dramState : State := { State.reset with mem := [(0, { MemChan.reset with st := .running, committed := true })] }

/-- The same with the link up. -/
def memState : State := { linkedState with mem := [(0, { MemChan.reset with st := .running, committed := true })] }

/-- The shadow coefficient bank holds a short table that passes every check. -/
def coefReadyState : State := { State.reset with gov := { State.reset.gov with coef1 := [(0, 0x00010001), (4, 0xAC9F8202)] } }

/-- Queue record 5 of PF0, with a WQ of 16 entries and a ring of 16 entries of its own. -/
def recordWords (valid rx : Bool) : Table Word :=
  [(winQueue + 320, 0x10000), (winQueue + 328, 0x20000), (winQueue + 336, 0), (winQueue + 340, if rx then 0x00050414 else 0x00050404),
   (winQueue + 348, 1)] ++ (if valid then [(winQueue + 380, 1)] else [])

/-- A device whose link is up with the record of queue 5 written. -/
def recordedState (valid rx : Bool) : State := (recordWords valid rx).foldl (fun s e => wr s e.1 e.2) linkedState
def recordState (valid : Bool) : State := recordedState valid false

/-- The same record in force, its WQ served, with credits and the given entries in hand. -/
def queuedState (rx : Bool) (items : List WorkItem) : State :=
  let base := recordedState true rx
  { base with
    cred := { base.cred with
      work := [(acct 2 0, 4), (acct 3 0, 200), (acct 3 1, 200), (acct 3 2, 200)]
      buffer := [(acct 2 0, 4), (acct 3 0, 200), (acct 3 1, 200), (acct 3 2, 200)]
      energy := [(acct 2 0, 4), (acct 3 0, 200), (acct 3 1, 200), (acct 3 2, 200)] }
    queues := { base.queues with
      wq := [(5, { freshWq with pi := 3, seen := 3, served := true, quiet := false })], items := items } }
def workState (items : List WorkItem) : State := queuedState false items

/-- An entry of WQ 5 at index 0. -/
def someItem : WorkItem :=
  { wq := 5, idx := 0, fn := 0, stage := .ready, bytes := [], needs := [], retries := [], buf := [], segs := [], hops := 0
    admitted := false, cells := 0, done := 0, out := [], outAt := 0, rxd := none, lastAdvance := 0, advanced := 0 }

/-- A TX entry of one segment of 100 bytes whose total_len is `total`. -/
def txBytes (total : Nat) : List Byte :=
  [1, 1, 0, 0] ++ leBytes 2 total ++ [0, 1] ++ List.replicate 8 0 ++ leBytes 8 0x1000 ++ leBytes 4 100 ++ List.replicate 4 0
    ++ List.replicate 32 0

/-- A FILL of 4 bytes, and a COPY of 2 bytes. -/
def fillBytes (dram : Nat) : List Byte :=
  [3, 0, 0, 0] ++ leBytes 4 dram ++ leBytes 8 0x4000 ++ leBytes 8 4 ++ List.replicate 40 7
def copyBytes (src dst : Nat) : List Byte :=
  [4, 0, 0, 0] ++ List.replicate 4 0 ++ leBytes 8 src ++ leBytes 8 dst ++ leBytes 8 2 ++ List.replicate 32 0

/-- A frame of 72 bytes as the pipeline holds it, and a descriptor that sends it to receive queue 5. -/
def someFrame : Frame :=
  { port := some 0, entry := none, fn := 0x7FF, data := List.replicate 72 9, fcs := [0, 0, 0, 0], flen := 76, whole := true
    bad := false, flags := 0, cls := 0, time := 0, cells := 1, poison := [], meta32 := 0, tsReq := false, refs := 1
    charges := [], grow := [], late := [], ctBy := [], lenField := none, mismatch := false, discard := false, decrypted := false }
def someDesc : Desc :=
  { view := ⟨0, [], 0⟩, port := 7, cls := 0, queue := 5, meta32 := 0, fixes := [], ts := ⟨0, 0, none⟩, enc := none, sf := true
    cut := none, decap := false, cells := 1, src := 0, layers := [], sealing := none, orig := true }

/-- Receive queue 5 with a posted buffer of `len` bytes and the frame waiting for it. -/
def rxState (len : Nat) : State :=
  let q := queuedState true [{ someItem with stage := .posted, bytes := [2, 0, 0, 0, 0, 0, 0, 0] ++ leBytes 8 0x7000 ++ leBytes 8 len }]
  { q with
    pipe := { q.pipe with frames := [(0, some someFrame)], nextFrame := 1 }
    sched := { q.sched with rx := [someDesc] } }

/-- A custody request that begins with the given bytes waits on the open channel 2; slot 3 holds a key and the store is not
locked. -/
def custodyState (l : List Byte) : State := { putCch State.reset 2 { CchChan.closed with isOpen := true } with
  vkeep := { State.reset.vkeep with
    erasedLock := false, slots := [(3, ⟨some ⟨7, 1, 0x41, 0xA8D48275⟩, none, some false, 1⟩)] }
  cus := { State.reset.cus with
    chans := [(2, { CchChan.closed with isOpen := true })], queue := [⟨2, 9, l ++ List.replicate 60 0⟩] } }

/-- A device whose port `p` is enabled with its link up. -/
def portState (p : Nat) : State := putPort State.reset p { PortUnit.reset with enabled := true, linkUp := true }

/-- The same for port 0, with flow control configured and room in every class. -/
def pauseState (fc : Nat) : State :=
  (List.range 8).foldl (fun s c => wr s (pgMac 0 + Reg.MAC_HEADROOM + 16 * c) 0x100)
    (wr (wr (portState 0) (pgPcs 0 + Reg.PCS_MODE) 1) (pgMac 0 + Reg.MAC_FC) (w32 fc))

/-- Headers and re-entries wait, frame 0 is in the buffer, and the pipeline has credits. -/
def slotState (q0 : List Nat) (q1 : List Header) (q2 : List Reentry) (f : Frame) : State := { State.reset with
  cred := { State.reset.cred with
    work := [(acct 1 0, 4), (acct 1 1, 4), (acct 1 2, 4)], buffer := [(acct 1 0, 4), (acct 1 1, 4), (acct 1 2, 4)]
    energy := [(acct 1 0, 4), (acct 1 1, 4), (acct 1 2, 4)] }
  pipe := { State.reset.pipe with q0 := q0, q1 := q1, q2 := q2, frames := [(0, some f)], nextFrame := 1 } }

/-- The tables of slice Ochre, with a request whose first byte is 1 and ample learning credits. -/
def tableState (u : TblUnit) : State :=
  let base := putTbl (wr State.reset (pgTbl .ochre + Reg.TBL_REQ) 1) .ochre u
  { base with
    tck := { base.tck with planActive := true, bank0 := [(1, 1), (16, 0x00010600)] }
    cred := { base.cred with work := [(learnKey .ochre, 100000)], energy := [(learnKey .ochre, 100000)] } }

/-- The entry with that key; its first home slot is 104836. -/
def someEntry : EmtEntry := ⟨1 :: List.replicate 31 0, 7, 5, false, false, false, true, 0, 0⟩

/-- The same entry in its home slot, found by the request. -/
def knownState : State := tableState { TblUnit.reset with emt := [(104836, some someEntry)] }

/-- One learn event of that key from port 0 waits, below the limit of the port. -/
def learnState (u : TblUnit) : State :=
  { State.reset with
    tbl := [(0, { u with learnQ := [⟨someEntry.key, none, [0, 0, 0, 0]⟩] })]
    cred := { State.reset.cred with work := [(learnKey .ochre, 100000)], energy := [(learnKey .ochre, 100000)] } }

/-- The prefix 10.1.0.0/16 of VRF 0 in the request buffer. -/
def lpmState (rows : List LpmRow) : State :=
  let b := tableState { TblUnit.reset with lpm := rows }
  [(0, 0x1000), (1, 0x0000010A), (5, 0x00070005)].foldl (fun s e => wr s (pgTbl .ochre + Reg.TBL_REQ + 4 * e.1) e.2) b

/-- Its row. -/
def someRow : LpmRow := ⟨0, false, 16, 0, 0x0A01000000000000, 5, 7, 0, false⟩

/-- DRAM channel 0 holds one record at address 64, and PF0 owns the bulk lock. -/
def bulkState : State :=
  let b := wr (tableState TblUnit.reset) (pgTbl .ochre + Reg.TBL_BULK_LOCK) 2
  { b with
    mem := [(0, { MemChan.reset with
      st := .running, committed := true
      blocks := [(1, encodeBlock ([1, 0, 0, 0, 0, 0, 0, 0] ++ someEntry.key ++ [7, 0, 0, 0, 5, 0] ++ List.replicate 18 0) false)] })] }

/-- A descriptor of frame 0 for port 0 and a class. -/
def wiredDesc (c : Nat) : Desc := { someDesc with port := 0, cls := c, queue := 0 }

/-- Port 0 is up and has credits, each given class holds a descriptor and its node the given tag; `gates` is the gate list. -/
def selectState (tags : List (Nat × Nat)) (gates : List Word) : State :=
  let base := wr State.reset (pgPcs 0 + Reg.PCS_MODE) 1
  { putPort base 0 { PortUnit.reset with enabled := true, linkUp := true, oper := gates } with
    cred := { base.cred with work := [(acct 7 0, 4)], buffer := [(acct 7 0, 4)], energy := [(acct 7 0, 4)] }
    pipe := { base.pipe with frames := [(0, some someFrame)], nextFrame := 1 }
    sched := { base.sched with
      fifo := tags.map (fun x => (x.1, [wiredDesc x.1]))
      nodes := tags.map (fun x => (classNode 0 x.1, { freshNode with tag := x.2 })) } }

/-- The same with classes 5 and 7, of which class 5 is strict and shaped. -/
def strictState : State :=
  let s := selectState [(5, 9), (7, 7)] []
  let w := wr (wr s (winShaper + 32 * classNode 0 5) 1000) (winShaper + 32 * classNode 0 5 + 4) 0x03001000
  { w with
    eff := [(winShaper + 32 * classNode 0 5, 1000), (winShaper + 32 * classNode 0 5 + 4, 0x03001000)]
    sched := { w.sched with nodes := [(classNode 0 5, { freshNode with tokens := 4096, tag := 9 }), (classNode 0 7, { freshNode with tag := 7 })] } }

/-- A frame of class 3 of port 0 waits for its ring of `slot` MiB, or stands in it; DRAM has bursts. -/
def spillState (slot : Nat) (ring : List Spilled) : State :=
  let base := wr memState (pgSch + Reg.SCH_SPILL_SLOT) (w32 slot)
  { base with
    tck := { base.tck with planActive := true, bank0 := [(1, 1), (16, 0x00201000)] }
    cred := { base.cred with work := [(acct 16 0, 50)], buffer := [(acct 16 0, 50)], energy := [(acct 16 0, 50)] }
    pipe := { base.pipe with frames := [(0, some someFrame)], nextFrame := 1 }
    sched := { base.sched with
      spillQ := if ring.isEmpty then [(3, [wiredDesc 3])] else []
      rings := if ring.isEmpty then [] else [(3, ring)] } }

/-- The MAC of port `p` holds a frame; the port is up or not. -/
def heldState (p : Nat) (up : Bool) : State :=
  { putPort State.reset p { PortUnit.reset with enabled := true, linkUp := up, held := [wiredDesc 3] } with
    pipe := { State.reset.pipe with frames := [(0, some someFrame)], nextFrame := 1 } }

/-- The MAC of port `p` sends the frame. -/
def sendingState (p : Nat) (f : Frame) : State :=
  { putPort State.reset p { PortUnit.reset with enabled := true, linkUp := true, sending := some (wiredDesc 3) } with
    pipe := { State.reset.pipe with frames := [(0, some f)], nextFrame := 1 } }

/-- P6 is enabled with its clock running. -/
def busState (s : State) : State :=
  { wr s (pgCbp + Reg.CBP_MAX_FRAME) 1522 with cbp := { CbpUnit.reset with enabled := true, txClk := true, usable := true } }

/-- PLCA is active at the given opportunity; the device is node 3 and holds a frame. -/
def plcaState (at0 : Nat) : State :=
  let b := wr (wr (busState (heldState 6 true)) (pgCbp + Reg.CBP_MODE) 1) (pgCbp + Reg.CBP_PLCA) 0x0803
  { b with cbp := { b.cbp with plcaActive := true, opportunity := at0 } }

/-- Bytes with their FCS. -/
def withFcs (l : List Byte) : List Byte := l ++ leBytes 4 (crc32 l)

/-- Association 2 of tenant 1 holds MACsec with offset 12 and root slot 3, in force, its first word as given; slot 3 may be used. -/
def saState (w0 : Word) : State :=
  let t := wr (wr (wr State.reset (pgTenCip 1 + Reg.CP_SLOTS) 8) (saBase 1 2) w0) (saBase 1 2 + 40) 1
  { t with eff := if fbit w0 0 then [(saBase 1 2, w0), (saBase 1 2 + 40, 1)] else [(saBase 1 2 + 40, 1)] }

/-- A frame under MACsec with an all-zero key, PN 1 and 4 bytes of text. -/
def sealedFrame : Frame := { someFrame with
  data := List.replicate 12 0 ++ [0x88, 0xE5, 0x0C, 4, 0, 0, 0, 1]
    ++ [111, 3, 218, 52, 248, 229, 74, 25, 166, 5, 189, 249, 72, 83, 85, 16, 115, 131, 224, 184]
  flen := 44 }

/-- The request that the frame be decrypted. -/
def decReq (st : DecStage) : DecReq :=
  { view := asReceived 0, sa := ⟨1, 2, false⟩, state := 5, pass := 0, layers := List.replicate 8 (some 0), cls := 0, decap := false
    stage := st }

/-- What is in use for it, with the given blocks owed. -/
def inSeal (owed : Nat) : Seal :=
  ⟨⟨1, 2, false⟩, saBytes (saState 0x030C0041) 1 2, List.replicate 16 0, 1, owed⟩

/-- The cipher has the frame, with the key cached or not, and 9 blocks to spend. -/
def cipherState (w0 : Word) (key : List Byte) (f : Frame) (dec : List DecReq) (rx : List Desc) : State :=
  let b := saState w0
  { b with
    cip := { b.cip with cache := if key.isEmpty then [] else [(34, key)] }
    cred := { b.cred with work := [(acct 4 0, 9)], energy := [(acct 4 0, 20)] }
    pipe := { b.pipe with frames := [(0, some f)], nextFrame := 1, decQ := dec }
    sched := { b.sched with rx := rx } }

/-- A descriptor whose frame is to be protected by that association. -/
def encDesc : Desc := { someDesc with enc := some ⟨1, 2, false⟩, layers := List.replicate 8 (some 0) }

/-- A derivation for it waits; slot 3 holds a sound root key. -/
def kdfState (q : List KeyReq) (warm : List WarmJob) : State :=
  let b := cipherState 0x030C0041 [] someFrame [] []
  { b with
    cip := { b.cip with keyQ := q, warm := warm }
    vkeep := { b.vkeep with slots := [(3, ⟨some ⟨7, 1, 0x41, 0xA8D48275⟩, none, some false, 1⟩)] } }

/-- Carlis channel 0 of PF0 with peer 7 and chunks of 64 bytes: its registers. -/
def crtWords : Table Word :=
  [(crtCfg 0 0, 0x02010000), (crtCfg 0 1, 0x03020001), (crtCfg 0 2, 0x00030064), (pgCrt + Reg.CRT_NODE_ID, 5),
   (pgCrt + Reg.CRT_INCARN, 9), (pgCrt + Reg.PEER_CTL, 1), (pgCrt + Reg.PEER_NODE, 7), (pgTenCip 1 + Reg.CP_SLOTS, 8),
   (saBase 1 2, 0x0300006B), (saBase 1 2 + 40, 1), (saBase 1 3, 0x03000069), (saBase 1 3 + 40, 1), (saBase 1 3 + 48, 64)]

/-- The channel as given, with the entries of WQ 5, both keys cached, credits, DRAM, and the frames given to the engine. -/
def crtState (x : CrtChan) (items : List WorkItem) (rx : List Frame) : State :=
  let b := crtWords.foldl (fun s e => wr s e.1 e.2) (workState items)
  { b with
    eff := [(saBase 1 2, 0x0300006B), (saBase 1 2 + 40, 1), (saBase 1 3, 0x03000069), (saBase 1 3 + 40, 1), (saBase 1 3 + 48, 64)]
    mem := [(0, { MemChan.reset with st := .running, committed := true })]
    cip := { b.cip with cache := [(34, List.replicate 16 0), (35, List.replicate 16 0)] }
    crt := { b.crt with chans := if x = CrtChan.closed then [] else [(0, x)] }
    pipe := { b.pipe with
      frames := rx.zip (List.range rx.length) |>.map (fun x => (x.2, some x.1)), nextFrame := rx.length
      toCarlis := List.range rx.length }
    cred := { b.cred with
      work := [(acct 4 2, 90), (acct 5 0, 4), (acct 5 1, 4), (acct 16 1, 4)]
      buffer := [(acct 5 0, 4), (acct 5 1, 4), (acct 16 1, 4)]
      energy := [(acct 4 2, 90), (acct 5 0, 4), (acct 5 1, 4), (acct 16 1, 4)] } }

/-- An established channel. -/
def openChan : CrtChan :=
  { CrtChan.closed with isOpen := true, session := some 3, peerInc := 8, next := 2, tSession := some 4, sInc := 8 }

/-- A PUT of `n` bytes and a COMMIT on channel 0, and their entries. -/
def putItem (st : Stage) (n : Nat) : WorkItem :=
  { someItem with stage := st, bytes := [5, 0, 0, 0, 0, 2, 0, 0] ++ leBytes 8 0x9000 ++ leBytes 8 128 ++ leBytes 4 n ++ List.replicate 36 0 }
def commitItem (st : Stage) : WorkItem := { someItem with stage := st, bytes := [6, 0, 0, 0, 0, 0, 0, 0] ++ List.replicate 56 0 }
def putEntry (n : Nat) : CrtEntry := ⟨5, 0, 0, false, n, 0, 0, 0, false, none⟩
def commitEntry : CrtEntry := ⟨5, 0, 0, true, 1, 0, 0, 0, false, none⟩

/-- A numbered CHUNK or COMMIT that is due. -/
def dueMsg (chunk : Option CrtChunk) : CrtMsg := ⟨1, none, chunk, 6, 1, none, true, false, false⟩
def someChunk (n : Nat) : CrtChunk := ⟨2, 1, 128, [], List.replicate n 7⟩
def someWin : CrtWin := ⟨0, 4096, 0, 0, 3, 1, true⟩

/-- A frame with a message of the peer on channel 0: its type, session, number, and the encrypted body with its tag. -/
def crtMsgHead (ty rInc session seq : Nat) : List Byte :=
  leBytes 1 (16 + ty) ++ [0, 0, 0] ++ beBytes 4 7 ++ beBytes 4 8 ++ beBytes 4 rInc ++ beBytes 4 session ++ beBytes 8 1 ++ beBytes 4 seq
def crtMsgFrame (ty rInc session seq : Nat) (g : List Byte) : Frame := { someFrame with
  data := List.replicate 12 0 ++ [8, 0, 0x45, 0, 0, 0, 0, 0, 0, 0, 0, 17] ++ List.replicate 10 0
    ++ [0xC0, 0, 0xA2, 0xF0] ++ beBytes 2 (40 + g.length) ++ [0, 0] ++ crtMsgHead ty rInc session seq ++ g }

/-- The header of that message as the engine reads it. -/
def crtMsgHdr (ty rInc session seq : Nat) (g : List Byte) : CrtHdr :=
  ⟨ty, false, 0, 8, rInc, session, 1, seq, 7, crtMsgHead ty rInc session seq, g.take (g.length - 16), g.drop (g.length - 16)⟩

/-- A running DRAM channel 0 with the scrubber enabled and its credits, one written block at the scrub position. -/
def scrubState (pos : Nat) (raw : List Byte) : State :=
  let b := wr State.reset (pgMem 0 + Reg.PAGE_CTL) 1
  { b with
    eff := tset regDflt b.eff (pgMem 0 + Reg.PAGE_CTL) 1
    mem := [(0, { MemChan.reset with st := .running, committed := true, scrubPos := pos, blocks := [(pos, raw)] })]
    cred := { b.cred with work := [(acct 16 2, 4)], buffer := [], energy := [(acct 16 2, 4)] } }

/-- A written block of zeros, with a mask on its first symbols. -/
def blockWith (flips : List Byte) : List Byte :=
  (encodeBlock (List.replicate 64 0) false).zipWith (· ^^^ ·) (flips ++ List.replicate (80 - flips.length) 0)

/-- Channel 0 in a given state with sound registers. -/
def chanState (st : ChanState) : State :=
  let b := [(Reg.MEM_TIM0, 0x01010101), (Reg.MEM_TIM1, 0x01010101), (Reg.MEM_TIM2, 0x01010101), (Reg.MEM_TIM3, 0x010101),
    (Reg.MEM_TIM4, 0x00010001), (Reg.MEM_TIM5, 2)].foldl (fun s e => wr s (pgMem 0 + e.1) e.2) State.reset
  if st = .unconfigured then b else { b with mem := [(0, { MemChan.reset with st := st })] }

/-- The device with the redundancy logic as given. -/
def redState (r : RedUnit) : State := { State.reset with red := r }

/-- The test phase. -/
def testState : State := { State.reset with power := { State.reset.power with phase := .test } }

/-- Normal service, the equinox as given, Ochre active and Slate standby. -/
def eqxState (r : RedUnit) : State :=
  { redState r with
    power := { State.reset.power with phase := .normal }
    tck := { State.reset.tck with boundaries := 10 ^ 9 } }

/-! ### Ill-formed operands are refused -/

theorem test_ill_formed_power_on : (Instr.powerOn (2 ^ 32)).wellFormed = false := by decide
theorem test_ill_formed_stage_time : (Instr.bringupStageEnd (2 ^ 32) []).wellFormed = false := by decide
theorem test_ill_formed_capture_cycle : (Instr.ppsInEdge 16384).wellFormed = false := by decide
theorem test_ill_formed_master : (Instr.setTime .sync 0 0 0 0).wellFormed = false := by decide
theorem test_ill_formed_register_master : (Instr.registerWrite .sync 0 0).wellFormed = false := by decide
theorem test_ill_formed_window_read_empty : (Instr.bar2Read 0 0).wellFormed = false := by decide
theorem test_ill_formed_window_read_end : (Instr.bar2Read 0x3FFFFFF 2).wellFormed = false := by decide
theorem test_ill_formed_window_write_empty : (Instr.bar2Write 0 [] false).wellFormed = false := by decide
theorem test_ill_formed_window_write_end : (Instr.bar2Write 0x4000000 [some 0] false).wellFormed = false := by decide
theorem test_ill_formed_maint_read : (Instr.maintReadRequest (2 ^ 32)).wellFormed = false := by decide
theorem test_ill_formed_maint_write : (Instr.maintWriteRequest (2 ^ 32) 0).wellFormed = false := by decide
theorem test_ill_formed_link_speed : (Instr.linkTrained 6 16).wellFormed = false := by decide
theorem test_ill_formed_link_width : (Instr.linkRetrain 5 3).wellFormed = false := by decide
theorem test_ill_formed_config_offset : (Instr.configRequest 0 4096 15 none).wellFormed = false := by decide
theorem test_ill_formed_config_alignment : (Instr.configRequest 0 2 15 none).wellFormed = false := by decide
theorem test_ill_formed_config_enables : (Instr.configRequest 0 0 16 none).wellFormed = false := by decide
theorem test_ill_formed_msix_alignment : (Instr.msixTableWrite 0 6 15 0).wellFormed = false := by decide
theorem test_ill_formed_msix_enables : (Instr.msixTableWrite 0 0 16 0).wellFormed = false := by decide
theorem test_ill_formed_request_length : (Instr.hostMemoryRequest 0 0 0 0 0 none false false).wellFormed = false := by decide
theorem test_ill_formed_request_enables : (Instr.hostMemoryRequest 0 0 0 4 16 none false false).wellFormed = false := by decide
theorem test_ill_formed_request_data : (Instr.hostMemoryRequest 0 0 0 4 15 (some [0]) false false).wellFormed = false := by decide
theorem test_ill_formed_wq_number : (Instr.wqDoorbell .pf0 16384 0).wellFormed = false := by decide
theorem test_ill_formed_wq_value : (Instr.wqDoorbell .pf0 0 65536).wellFormed = false := by decide
theorem test_ill_formed_cr_number : (Instr.crDoorbell .pf0 16384 0).wellFormed = false := by decide
theorem test_ill_formed_cr_value : (Instr.crDoorbell .pf0 0 65536).wellFormed = false := by decide
theorem test_ill_formed_receive_cycle : (Instr.frameReceive 0 true 16384 true [] none).wellFormed = false := by decide
theorem test_ill_formed_pause_cycle : (Instr.pauseFrameReceived 0 16384 0 0).wellFormed = false := by decide
theorem test_ill_formed_pfc_cycle :
    (Instr.pfcFrameReceived 0 16384 0 0 (Vector.replicate 8 0)).wellFormed = false := by decide
theorem test_ill_formed_transmit_cycle : (Instr.transmitFrame 0 16384 false).wellFormed = false := by decide
theorem test_ill_formed_p6_cycle : (Instr.p6FrameReceive 16384 [] false).wellFormed = false := by decide
theorem test_ill_formed_collision_cycle : (Instr.collisionDetect 16384 0).wellFormed = false := by decide
theorem test_ill_formed_opportunity_cycle : (Instr.transmitOpportunity 16384).wellFormed = false := by decide
theorem test_ill_formed_pass_time : (Instr.selftestPassEnd 65536 none).wellFormed = false := by decide
theorem test_well_formed_command : (Instr.setTime .pf0 1 2 3 4).wellFormed = true := by decide

/-! ### Examples of the manual -/

/-- The next state of a command, the state itself where it stops. -/
def after (c : Instr) (s : State) : State := match exec c s with | .next t => t | _ => s

/-- No word spells a command: the command table gives no row any bits. -/
theorem test_no_word_spells_a_command : decodeTableWord 32 0xFFFFFFFF = none := by decide

/-- R625: the check bits of 0xFF are 0x06, and a flip of bit 4 gives the syndrome of column 4. -/
theorem test_sram_code : secdedCheck 0xFF = 0x06 ∧ secdedDecode (secdedCheck 0xEF ^^^ 0x06) = .corrected 4 := by decide

/-- R632: symbol 0x5A of component 3 in codeword 2 of a zero block shows S0 = 0x5A and S1 = 0x8F at position 5. -/
theorem test_dram_code :
    let raw := (List.range 80).map (fun i => if i = 2 * 10 + 5 then (0x5A : Byte) else 0)
    syndromes raw 2 = (0x5A, 0x8F) ∧ (decodeBlock raw).pos = some 5 ∧ (decodeBlock raw).ce = true
      ∧ (decodeBlock raw).data = List.replicate 64 0 := by decide +kernel

/-- R316: the four reads of 1,500 bytes at …0FD0 with Max_Read_Request_Size 512. -/
theorem test_read_split : readLen 512 0x700000FD0 1500 64 = 48 ∧ readLen 512 0x700001000 1452 64 = 512
    ∧ readLen 512 0x700001200 940 64 = 512 ∧ readLen 512 0x700001400 428 64 = 428 := by decide

/-- R317: the first writes of 300 bytes at …0FE6 with Max_Payload_Size 128, poisoned from block …10C0 on. -/
theorem test_write_split :
    let d := (List.range 300).map (fun i => ((0 : Byte), decide (218 ≤ i)))
    writeLen 128 0x4000000FE6 d 64 = 26 ∧ writeLen 128 0x4000001000 (d.drop 26) 64 = 128
      ∧ writeLen 128 0x4000001080 (d.drop 154) 64 = 64 ∧ writeLen 128 0x40000010C0 (d.drop 218) 64 = 64
      ∧ writeLen 128 0x4000001100 (d.drop 282) 64 = 18 := by decide +kernel

/-- R276: in a queue of 256 slots, index 0xFFC0 has phase 0 and index 0 phase 1. -/
theorem test_phase_bits : phaseOfIndex 0xFFC0 256 = 0 ∧ phaseOfIndex 0 256 = 1 := by decide

/-- R138: the grants of the 36 W tick: 300, 120, 2,000, 390 and none, with nothing left. -/
theorem test_energy_grants :
    let cost (k : Nat) : Nat := if k = 1 then 16000 else if k = 2 then 3000 else if k = 3 then 625 else if k = 4 then 1000 else 2750
    let want (k : Nat) : Nat := if k = 1 then 300 else if k = 2 then 120 else if k = 3 then 2000 else if k = 4 then 600 else 4
    grantPass want cost [1, 2, 3, 4, 5] 6800000 [] = (0, [(1, 300), (2, 120), (3, 2000), (4, 390)]) := by decide

/-- R127: (36,000 − 20,000) × 500 − 1,200,000 pJ at 36 W (144 units of 250 mW). -/
theorem test_account_budget : accountBudget 144 2400 500 = 6800000 := by decide

/-- R515: 625 bytes per tick at 10 Gb/s, from −6,024 to −5,399. -/
theorem test_bucket_refill :
    (refillBucket { freshNode with tokens := -6024 } 10000000 500 3000).tokens = -5399 := by decide

/-- R400: 1,000 quanta at 200 Gb/s are 6 ticks of 500 ns. -/
theorem test_pause_ticks : pauseTicks (wr State.reset (pgPcs 0 + Reg.PCS_MODE) 1) 0 1000 = 6 := by decide

/-- R403: 151 cells at 50 Gb/s with frames of 2,000 bytes and 600 ns. -/
theorem test_headroom : headroomMin (wr (wr State.reset (pgMac 2 + Reg.MAC_MAX_FRAME) 2000) (pgMac 2 + Reg.MAC_PFC_DELAY) 600) 2 5000
    = 151 := by decide

/-- R551: the KDF input of the example, an inbound GCM-AES-XPN-256 association of page 17. -/
theorem test_kdf_input : kdfInput 1 17 ([0x71, 0, 0, 3] ++ leBytes 8 5 ++ leBytes 4 0xA01) =
    [0, 0, 0, 1, 0x54, 0x47, 0x4B, 0x2D, 0x4B, 0x45, 0x59, 1, 0, 0, 0x11, 3, 3, 0, 0, 0, 0, 0, 0, 0, 5, 0, 0, 0x0A, 0x01,
      0, 0, 1, 0] := by decide

/-- R566: the MACsec frame of the example costs 96 blocks. -/
theorem test_cipher_cost : unitBlocks 28 1470 = 96 := by decide

/-- R161: the set alias sets PWR PAGE_CTL.shed_en, and the clear alias clears it. -/
theorem test_set_alias : rd (after (.setAliasWrite .pf0 0x3810 1) State.reset) 0x3010 = (rd State.reset 0x3010 ||| 1) := by decide
theorem test_clear_alias :
    fbit (rd (after (.clearAliasWrite .pf0 0x3C10 1) (wr State.reset 0x3010 0x3)) 0x3010) 0 = false := by decide

/-- R186: reading PAGE_ID of TCK answers OK and 0x00020001. -/
theorem test_maintenance_read :
    (after (.maintReadRequest 0x1000) State.reset).out.any (fun o => match o with
      | .spi l => l.take 5 == [0xA0, 0x00, 0x02, 0x00, 0x01]
      | _ => false) = true := by decide +kernel

/-- R756: IDCODE shifts out 0x114605A7, bit 0 first. -/
theorem test_idcode : ((after .jtagIdcode State.reset).out.head?).map (fun o => match o with
      | .jtag l => l.zipIdx.foldl (fun a b => a + b.1.toNat * 2 ^ b.2) 0
      | _ => 0) = some 0x114605A7 := by decide

/-- R552: AES-128 of the FIPS 197 example block. -/
theorem test_aes : aesBlock (aesRoundKeys ((List.range 16).map (BitVec.ofNat 8)))
    ((List.range 16).map (fun i => BitVec.ofNat 8 (17 * i)))
    = [0x69, 0xC4, 0xE0, 0xD8, 0x6A, 0x7B, 0x04, 0x30, 0xD8, 0xCD, 0xB7, 0x80, 0x70, 0xB4, 0xC5, 0x5A] := by decide +kernel

/-- R566: the tag of the empty text under a zero key, from the GCM specification's test case 1. -/
theorem test_gcm : gcmTag (aesRoundKeys (List.replicate 16 0)) (List.replicate 12 0) [] []
    = [0x58, 0xE2, 0xFC, 0xCE, 0xFA, 0x7E, 0x30, 0x61, 0x36, 0x7F, 0x1D, 0x57, 0xA4, 0xE7, 0x45, 0x5A] := by decide +kernel

/-- R468: CRC-32C and CRC-32 of the nine digits. -/
theorem test_crc : crc32c ((List.range 9).map (fun i => BitVec.ofNat 8 (0x31 + i))) = 0xE3069283
    ∧ crc32 ((List.range 9).map (fun i => BitVec.ofNat 8 (0x31 + i))) = 0xCBF43926 := by decide +kernel

/-- R93: the counter of ticks is 2,000,000 per second at the default period. -/
theorem test_boundaries_in_a_second : boundariesIn State.reset (10 ^ 9) = 2000000 := by decide

/-- R164, R35: a command for an unready purpose answers WRONG_STATE with its code and sequence number: DISARM with no plan
armed. -/
theorem test_disarm_unarmed : rd (after (.disarm .pf0 7) State.reset) (pgTck + Reg.CMD_RESULT) = 0x07030201 := by decide

/-- R681: WITHDRAW of the active slice fences it at once; its claim is 0. -/
theorem test_withdraw : (after (.withdraw .pf0 1 0) State.reset).red.ochre.claim = 0 := by decide

/-- R656: the standby that the gatekeepers accept becomes active with claim 0xC0. -/
theorem test_switch_over :
    (after (.switchOver 0 0) (redState { RedUnit.reset with ochre := SliceRed.fresh .out 0 false, accepted := some .slate })).red.slate.claim
      = 0xC0 := by decide

/-- An idle device stays as it is. -/
theorem test_idle_step : step State.reset = .next State.reset := rfl

/-! ### States that meet the hypotheses of the statements -/

theorem witness_StepTakesFront_1 : ∃ (c : Instr) (rest : List Instr) (s : State), s.pending = c :: rest :=
  ⟨.perstAssert, [], { State.reset with pending := [.perstAssert] }, rfl⟩

theorem witness_StepTakesFront_2 : ∃ s : State, s.pending = [] := ⟨State.reset, rfl⟩

theorem witness_StepKeepsInv_1 : ∃ s t : State, Sound s ∧ step s = .next t := ⟨State.reset, State.reset, by unfold Sound RolesOk; decide, rfl⟩

theorem witness_RecoveryLeftOnlyByReset_1 : ∃ (c : Instr) (s t : State), InRecovery s ∧ exec c s = .next t ∧ (∀ n, c ≠ .powerOn n) ∧ c ≠ .perstAssert ∧
    c ≠ .coreRailLoss ∧ c ≠ .sysclkLoss ∧ (∀ l, c ≠ .warmResetAssert l) ∧ (∀ us f, c ≠ .bringupStageEnd us f) :=
  ⟨.hello, { State.reset with power := { State.reset.power with phase := .recovery } }, _, ⟨rfl, rfl⟩, rfl, nofun, nofun, nofun,
    nofun, nofun, nofun⟩

theorem witness_ColdReset_1 : ∃ s : State, s.power.perstLow = false ∧ s.power.mainRails = true := ⟨State.reset, rfl, rfl⟩

theorem witness_ColdReset_2 : ∃ s : State, s.power.mainRails = true ∧ alarmLevel s 4 ≤ 1 := ⟨State.reset, by decide⟩

theorem witness_ColdReset_3 : ∃ s : State, s.power.mainRails = true ∧ alarmLevel s 4 = 2 ∧ s.vkeep.present = true ∧ nbit s.vkeep.active.toNat 4 = false :=
  ⟨{ State.reset with vkeep := { State.reset.vkeep with policy := 0x180 } }, by decide⟩

theorem witness_BringupBegins_1 : ∃ s : State, s.power.perstLow = true ∧ s.power.mainRails = true ∧ s.power.monitorHold = false :=
  ⟨{ State.reset with power := { State.reset.power with perstLow := true } }, rfl, rfl, rfl⟩

theorem witness_BringupBegins_2 : ∃ s : State, s.power.perstLow = true ∧ (s.power.mainRails = false ∨ s.power.monitorHold = true) :=
  ⟨{ State.reset with power := { State.reset.power with perstLow := true, monitorHold := true } }, rfl, .inr rfl⟩

theorem witness_BringupBegins_3 : ∃ s : State, s.power.mainRails = true ∧ s.power.monitorHold = true ∧ s.power.perstLow = false :=
  ⟨{ State.reset with power := { State.reset.power with monitorHold := true } }, rfl, rfl, rfl⟩

theorem witness_BringupBegins_4 : ∃ s : State, s.power.mainRails = true ∧ s.power.monitorHold = true ∧ s.power.perstLow = true :=
  ⟨{ State.reset with power := { State.reset.power with monitorHold := true, perstLow := true } }, rfl, rfl, rfl⟩

theorem witness_BringupBegins_5 : ∃ s : State, s.power.warm = .asserted :=
  ⟨{ State.reset with power := { State.reset.power with warm := .asserted } }, rfl⟩

theorem witness_BringupStages_1 : ∃ s : State, s.power.bringing = some 0 := ⟨{ State.reset with power := { State.reset.power with bringing := some 0 } }, rfl⟩

theorem witness_BringupStages_2 : ∃ s : State, s.power.bringing = some 2 := ⟨{ State.reset with power := { State.reset.power with bringing := some 2 } }, rfl⟩

theorem witness_BringupStages_3 : ∃ s : State, s.power.bringing = some 4 ∧ s.power.ochreOk = true ∧ s.power.slateOk = true :=
  ⟨{ State.reset with power := { State.reset.power with bringing := some 4 } }, rfl, rfl, rfl⟩

theorem witness_BringupStages_4 : ∃ s : State, s.power.bringing = some 4 ∧ s.power.ochreOk = true ∧ s.power.slateOk = false :=
  ⟨{ State.reset with power := { State.reset.power with bringing := some 4, slateOk := false } }, rfl, rfl, rfl⟩

theorem witness_BringupStages_5 : ∃ s : State, s.power.bringing = some 4 ∧ s.power.ochreOk = false ∧ s.power.slateOk = true :=
  ⟨{ State.reset with power := { State.reset.power with bringing := some 4, ochreOk := false } }, rfl, rfl, rfl⟩

theorem witness_BringupStages_6 : ∃ s : State, s.power.bringing = some 5 := ⟨{ State.reset with power := { State.reset.power with bringing := some 5 } }, rfl⟩

theorem witness_WarmReset_1 : ∃ (s : State) (via : Master), Memory.wf s = true ∧ PageReady s pgSys via ∧ Manages via :=
  ⟨State.reset, .maint, by decide, ⟨rfl, rfl⟩, .inl rfl⟩

theorem witness_WarmReset_2 : ∃ s : State, s.power.warm = .closed ∧ passed s s.power.warmAt (cdiv 10000 s.T) = true :=
  ⟨{ State.reset with power := { State.reset.power with warm := .closed }, tck := { State.reset.tck with boundaries := 20 } },
    by decide⟩

theorem witness_PhaseCommands_1 : ∃ (s : State) (via : Master), Memory.wf s = true ∧ PageReady s pgSys via ∧ Manages via ∧ s.power.phase = .startup ∧
    s.tck.committed = true ∧ s.tck.planActive = true :=
  ⟨{ State.reset with tck := { State.reset.tck with committed := true, planActive := true } }, .pf0, by decide, ⟨rfl, rfl⟩,
    .inr rfl, rfl, rfl, rfl⟩

theorem witness_PhaseCommands_2 : ∃ (s : State) (via : Master), Memory.wf s = true ∧ PageReady s pgSys via ∧ Manages via ∧
    (s.power.phase = .startup ∨ s.power.phase = .normal) := ⟨State.reset, .pf0, by decide, ⟨rfl, rfl⟩, .inr rfl, .inl rfl⟩

theorem witness_PhaseCommands_3 : ∃ (s : State) (via : Master), Memory.wf s = true ∧ PageReady s pgSys via ∧ Manages via ∧ s.power.phase = .test :=
  ⟨{ State.reset with power := { State.reset.power with phase := .test } }, .pf0, by decide, ⟨rfl, rfl⟩, .inr rfl, rfl⟩

theorem witness_PhaseCommands_4 : ∃ s : State, s.power.recoverPend = none ∧ phaseCmd s = some 2 :=
  ⟨{ State.reset with running := [⟨pgSys, 2, 0, .pf0, 0, 0, 0⟩] }, rfl, by decide⟩

theorem witness_PhaseCommands_5 : ∃ s : State, s.power.recoverPend = some ⟨1, 0, 4⟩ :=
  ⟨{ State.reset with power := { State.reset.power with recoverPend := some ⟨1, 0, 4⟩ } }, rfl⟩

theorem witness_BusyRefused_1 : ∃ (s : State) (i : Instr) (page : Nat), Memory.wf s = true ∧ s.power.bringupDone = true ∧
    (i, page) ∈ [(Instr.setTime .pf0 1 0 0 0, pgTms), (.snapshot .pf0 1, pgTms)] ∧ (runningOn s page).isSome = true :=
  ⟨{ State.reset with running := [⟨pgTms, 3, 0, .pf0, 0, 0, 0⟩] }, _, _, by decide, rfl, .head _, by decide⟩

theorem witness_BusyRefused_2 : ∃ (s : State) (via : Master), Memory.wf s = true ∧ s.power.bringupDone = true ∧ runningOn s pgTms = none ∧ Manages via :=
  ⟨State.reset, .pf0, by decide, rfl, rfl, .inr rfl⟩

theorem witness_RecoveryEndsPhaseCommand_1 : ∃ s : State, Memory.wf s = true ∧ s.power.recoverPend = some ⟨1, 0, 4⟩ ∧ phaseCmd s = some 1 :=
  ⟨{ State.reset with running := [⟨pgSys, 1, 0, .pf0, 0, 0, 0⟩], power := { State.reset.power with
    recoverPend := some ⟨1, 0, 4⟩ } }, by decide, rfl, by decide⟩

theorem witness_VkeepAndGlitch_1 : ∃ s : State, s.vkeep.present = false :=
  ⟨{ State.reset with vkeep := { State.reset.vkeep with present := false } }, rfl⟩

theorem witness_VkeepAndGlitch_2 : ∃ s : State, outOfReset s = true ∧ s.vkeep.present = true ∧ alarmLevel s 5 = 1 :=
  ⟨{ State.reset with vkeep := { State.reset.vkeep with policy := 0x100 } }, by decide⟩

theorem witness_VkeepAndGlitch_3 : ∃ s : State, outOfReset s = true ∧ s.vkeep.present = true ∧ alarmLevel s 5 = 2 :=
  ⟨{ State.reset with vkeep := { State.reset.vkeep with policy := 0x200 } }, by decide⟩

theorem witness_VkeepAndGlitch_4 : ∃ s : State, outOfReset s = true ∧ alarmLevel s 5 = 0 :=
  ⟨{ State.reset with vkeep := { State.reset.vkeep with policy := 0 } }, by decide⟩

theorem witness_TickBoundary_1 : ∃ s : State, s.power.bringupDone = false :=
  ⟨{ State.reset with power := { State.reset.power with bringupDone := false } }, rfl⟩

theorem witness_TickBoundary_2 : ∃ s : State, s.power.bringupDone = true ∧ runningOn s pgTms = none ∧ s.tck.commitPend = false :=
  ⟨State.reset, rfl, rfl, rfl⟩

theorem witness_TimeCommands_1 : ∃ (s : State) (via : Master) (a0 : Word), Memory.wf s = true ∧ PageReady s pgTms via ∧ Manages via ∧ a0.toNat < 10 ^ 9 :=
  ⟨State.reset, .maint, 999999999, by decide, ⟨rfl, rfl⟩, .inl rfl, by decide⟩

theorem witness_TimeCommands_2 : ∃ (s : State) (via : Master) (a0 : Word), Memory.wf s = true ∧ PageReady s pgTms via ∧ Manages via ∧
    (sgn32 a0).natAbs ≤ 999999999 := ⟨State.reset, .maint, 0xC4653601, by decide, ⟨rfl, rfl⟩, .inl rfl, by decide⟩

theorem witness_TimeCommands_3 : ∃ (s : State) (via : Master) (a0 : Word), Memory.wf s = true ∧ PageReady s pgTms via ∧ Manages via ∧ 10 ^ 9 ≤ a0.toNat :=
  ⟨State.reset, .maint, 1000000000, by decide, ⟨rfl, rfl⟩, .inl rfl, by decide⟩

theorem witness_TimeCommands_4 : ∃ (s : State) (c : RunCmd), Memory.wf s = true ∧ runningOn s pgTms = some c ∧ c.code = 1 :=
  ⟨{ State.reset with running := [⟨pgTms, 1, 0, .pf0, 0, 0, 0⟩] }, _, by decide, rfl, rfl⟩

theorem witness_TimeCommands_5 : ∃ (s : State) (c : RunCmd) (d : Int), Memory.wf s = true ∧ runningOn s pgTms = some c ∧ c.code = 2 ∧
    0 ≤ (s.time.ptp + tickElapsed s d : Int) + sgn32 c.a0 * ptpPerNs ∧
    (s.time.ptp + tickElapsed s d : Int) + sgn32 c.a0 * ptpPerNs < 2 ^ 48 * 10 ^ 9 * ptpPerNs :=
  ⟨{ State.reset with running := [⟨pgTms, 2, 0, .pf0, 0, 0, 0⟩] }, _, 0, by decide, rfl, rfl, by decide, by decide⟩

theorem witness_TimeCommands_6 : ∃ (s : State) (c : RunCmd), Memory.wf s = true ∧ runningOn s pgTms = some c ∧ c.code = 3 :=
  ⟨{ State.reset with running := [⟨pgTms, 3, 0, .pf0, 0, 0, 0⟩] }, _, by decide, rfl, rfl⟩

theorem witness_TimingPins_1 : ∃ s : State, s.time.ppsOut = true ∧ s.time.ppsRiseAt + 1600 * fld (rd s (pgTms + Reg.TMS_PPS_OUT_WIDTH)) 19 0 ≤ s.tck.cycles :=
  ⟨{ State.reset with time := { State.reset.time with ppsOut := true }, tck := { State.reset.tck with cycles := 10 ^ 12 } },
    by decide⟩

theorem witness_TimingPins_2 : ∃ s : State, fbit (rd s (pgTms + Reg.PAGE_CTL)) 2 = false := ⟨State.reset, by decide⟩

theorem witness_TimingPins_3 : ∃ s : State, Memory.wf s = true ∧ fbit (rd s (pgTms + Reg.PAGE_CTL)) 2 = true ∧ s.time.ppsInNew = true :=
  ⟨wr { State.reset with time := { State.reset.time with ppsInNew := true } } (pgTms + Reg.PAGE_CTL) 4, by decide⟩

theorem witness_TickCopies_1 : ∃ s : State, Memory.wf s = true ∧ s.tck.fenced = none := ⟨State.reset, by decide, rfl⟩

theorem witness_TickCopies_2 : ∃ (s : State) (copy : Fin 3), s.tck.fenced = none ∧ 16 ≤ tget (fun _ => 0) s.tck.runs copy.val :=
  ⟨{ State.reset with tck := { State.reset.tck with runs := [(1, 16)] } }, 1, rfl, by decide⟩

theorem witness_TickCopies_3 : ∃ (s : State) (f copy : Fin 3), s.tck.fenced = some f ∧ f ≠ copy ∧ s.power.phase ≠ .recovery :=
  ⟨{ State.reset with tck := { State.reset.tck with fenced := some 0 } }, 0, 1, rfl, by decide, by decide⟩

theorem witness_TickCopies_4 : ∃ (s : State) (copy : Fin 3), s.tck.fenced = some copy :=
  ⟨{ State.reset with tck := { State.reset.tck with fenced := some 0 } }, 0, rfl⟩

theorem witness_PeriodAndPlan_1 : ∃ (s : State) (via : Master), Memory.wf s = true ∧ PageReady s pgTck via ∧ Manages via ∧ s.power.phase = .startup ∧
    s.tck.committed = false := ⟨State.reset, .pf0, by decide, ⟨rfl, rfl⟩, .inr rfl, rfl, rfl⟩

theorem witness_PeriodAndPlan_2 : ∃ s : State, Memory.wf s = true ∧ PageReady s pgTck .maint ∧ s.tck.committed = true ∧ s.tck.armed = false ∧
    planCheck s (shadowBank s) = none := ⟨planReadyState, by decide, ⟨rfl, rfl⟩, rfl, rfl, by decide +kernel⟩

theorem witness_PeriodAndPlan_3 : ∃ s : State, Memory.wf s = true ∧ PageReady s pgTck .maint ∧ s.tck.armed = true :=
  ⟨{ State.reset with tck := { State.reset.tck with armed := true } }, by decide, ⟨rfl, rfl⟩, rfl⟩

theorem witness_PeriodAndPlan_4 : ∃ (s : State) (o : Word × Word × Word), Memory.wf s = true ∧ PageReady s pgTck .maint ∧ s.tck.committed = true ∧
    s.tck.armed = false ∧ planCheck s (shadowBank s) = some o :=
  ⟨{ State.reset with tck := { State.reset.tck with committed := true } }, (0, 0, 0), by decide, ⟨rfl, rfl⟩, rfl, rfl, by decide⟩

theorem witness_PeriodAndPlan_5 : ∃ s : State, s.tck.armed = true ∧ planActivation (shadowBank s) ≤ s.tck.tick :=
  ⟨{ State.reset with tck := { State.reset.tck with armed := true } }, rfl, by decide⟩

theorem witness_GovernorCommands_1 : ∃ (s : State) (via : Master), Memory.wf s = true ∧ PageReady s pgPwr via ∧ Manages via ∧ s.gov.loadPend = false ∧
    coefCheck (shadowCoef s) = none := ⟨coefReadyState, .pf0, by decide, ⟨rfl, rfl⟩, .inr rfl, rfl, by decide +kernel⟩

theorem witness_GovernorCommands_2 : ∃ (s : State) (via : Master), Memory.wf s = true ∧ PageReady s pgPwr via ∧ Manages via ∧ s.gov.loadPend = true :=
  ⟨{ State.reset with gov := { State.reset.gov with loadPend := true } }, .pf0, by decide, ⟨rfl, rfl⟩, .inr rfl, rfl⟩

theorem witness_GovernorCommands_3 : ∃ s : State, envelopeTarget s ≤ s.gov.pEff := ⟨State.reset, by decide⟩

theorem witness_GovernorCommands_4 : ∃ s : State, s.gov.pEff < envelopeTarget s ∧ rampDue s = true :=
  ⟨{ State.reset with gov := { State.reset.gov with pEff := 80 } }, by decide⟩

theorem witness_GovernorCommands_5 : ∃ s : State, s.gov.pEff < envelopeTarget s ∧ rampDue s = false :=
  ⟨{ State.reset with gov := { State.reset.gov with pEff := 80, rampWait := some 3 } }, by decide⟩

theorem witness_RegisterWrites_1 : ∃ (s : State) (via : Master), Memory.wf s = true ∧ Manages via ∧ served s via true = true ∧ s.power.phase ≠ .recovery :=
  ⟨State.reset, .pf0, by decide, .inr rfl, by decide, by decide⟩

theorem witness_RegisterWrites_2 : ∃ (a : Nat) (p : PageAt), a < 0x400000 ∧ pageAt a = some p ∧ a = p.base + Reg.PAGE_SCRATCH := ⟨0x100C, ⟨.tck, 0, 0x1000⟩, by decide⟩

theorem witness_RegisterReads_1 : ∃ (s : State) (via : Master), Memory.wf s = true ∧ Manages via ∧ served s via false = true :=
  ⟨State.reset, .maint, by decide, .inl rfl, by decide⟩

theorem witness_AliasAndForceWrites_1 : ∃ (s : State) (via : Master), Memory.wf s = true ∧ Manages via ∧ served s via true = true ∧ s.power.phase ≠ .recovery :=
  ⟨State.reset, .pf0, by decide, .inr rfl, by decide, by decide⟩

theorem witness_AliasAndForceWrites_2 : ∃ (b : Nat) (p : PageAt), b < 0x400000 ∧ pageAt b = some p ∧ b = p.base := ⟨0x3000, ⟨.pwr, 0, 0x3000⟩, by decide⟩

theorem witness_AccessesThatNameNothing_1 : ∃ (s : State) (via : Master), Memory.wf s = true ∧ Manages via ∧ served s via true = true ∧ served s via false = true :=
  ⟨State.reset, .pf0, by decide, .inr rfl, by decide, by decide⟩

theorem witness_AccessesThatNameNothing_2 : ∃ a : Nat, a < 0x4000000 ∧ target a = .unmapped := ⟨0x7000, by decide⟩

theorem witness_AccessesThatNameNothing_3 : ∃ off : Nat, target (pgTck + off) = .undef (some ⟨.tck, 0, pgTck⟩) ∧ off < 0x1000 := ⟨0x400, by decide⟩

theorem witness_AccessesThatNameNothing_4 : ∃ (s : State) (code : Byte), (code = 0 ∨ 3 < code.toNat) ∧ runningOn s pgTck = none := ⟨State.reset, 4, .inr (by decide), rfl⟩

theorem witness_LocksAndDataPorts_1 : ∃ (s : State) (via : Master), Memory.wf s = true ∧ Manages via ∧ s.power.phase ≠ .recovery ∧ served s via false = true ∧
    served s via true = true ∧ lockOwner s .ochre = 0 :=
  ⟨State.reset, .pf0, by decide, .inr rfl, by decide, by decide, by decide, by decide⟩

theorem witness_LocksAndDataPorts_2 : ∃ s : State, Memory.wf s = true ∧ served s .pf0 true = true ∧ lockOwner s .slate = ownerCode .pf0 ∧ lockOwner s .slate ≠ 0 :=
  ⟨wr State.reset (pgTbl .slate + Reg.TBL_BULK_LOCK) 2, by decide⟩

theorem witness_LocksAndDataPorts_3 : ∃ s : State, s.tck.armed = false ∧ (rd s (pgTck + Reg.TCK_PLAN_INDEX)).toNat < 527 ∧ s.gov.loadPend = false ∧
    (rd s (pgPwr + Reg.PWR_COEF_INDEX)).toNat < 143 ∧ (getPort s 5).armed = [] ∧
    (rd s (pgMac 5 + Reg.MAC_GCL_INDEX)).toNat < 255 := ⟨State.reset, by decide⟩

theorem witness_MaintenancePort_1 : ∃ (s : State) (a : Nat), outOfReset s = true ∧ s.power.bringupDone = true ∧ a % 4 = 0 ∧ a < 0x4000000 ∧ stageOneBegun s = true :=
  ⟨State.reset, 0x3FFFFFC, by decide⟩

theorem witness_MaintenancePort_2 : ∃ (s : State) (frame : List Byte), outOfReset s = true ∧ frame.length < maintLen frame := ⟨State.reset, [1], by decide⟩

theorem witness_MaintenancePort_3 : ∃ (s : State) (frame : List Byte), outOfReset s = true ∧ s.power.bringupDone = true ∧ frame.length = 6 ∧ frame.head? ≠ some 1 ∧
    frame.head? ≠ some 2 := ⟨State.reset, [3, 0, 0, 0, 0, 0], by decide⟩

theorem witness_MaintenancePort_4 : ∃ s : State, outOfReset s = true ∧ s.power.bringupDone = false :=
  ⟨{ State.reset with power := { State.reset.power with bringupDone := false } }, by decide⟩

theorem witness_JtagInstructions_1 : ∃ (s : State) (pins : List Bool), s.power.perstLow = true ∧ pins.length = 1995 :=
  ⟨{ State.reset with power := { State.reset.power with perstLow := true } }, List.replicate 1995 false, rfl, List.length_replicate⟩

theorem witness_JtagInstructions_2 : ∃ s : State, s.power.perstLow = false := ⟨State.reset, rfl⟩

theorem witness_HostMemoryRequests_1 : ∃ (s : State) (off : Nat) (l : List Byte), Memory.wf s = true ∧ cfgReach s = true ∧ s.power.bringupDone = true ∧ inD3 s 0 = false ∧
    memEnabled s 0 = true ∧ off % 4 = 0 ∧ off + 4 ≤ 2 ^ 26 ∧ l.length = 4 ∧ inFlr s 0 = false ∧ barServed s 0 = true :=
  ⟨linkedState, 0x3FFFFFC, [1, 2, 3, 4], by decide⟩

theorem witness_HostMemoryRequests_2 : ∃ (s : State) (off : Nat), Memory.wf s = true ∧ cfgReach s = true ∧ s.power.bringupDone = true ∧ inD3 s 0 = false ∧ memEnabled s 0 = true ∧
    off % 4 ≠ 0 ∧ off + 4 ≤ 2 ^ 26 := ⟨linkedState, 2, by decide⟩

theorem witness_HostMemoryRequests_3 : ∃ (s : State) (off : Nat), Memory.wf s = true ∧ cfgReach s = true ∧ s.power.bringupDone = true ∧ inD3 s 0 = false ∧
    (memEnabled s 0 = false ∨ 2 ^ 26 < off + 4) := ⟨linkedState, 0x4000000, by decide⟩

theorem witness_HostMemoryRequests_4 : ∃ (s : State) (f : Fin 1026), Memory.wf s = true ∧ cfgReach s = true ∧ s.power.bringupDone = true ∧ inD3 s 0 = false ∧ fnExists s f.val = false :=
  ⟨linkedState, 5, by decide⟩

theorem witness_HostMemoryRequests_5 : ∃ s : State, Memory.wf s = true ∧ cfgReach s = true ∧ s.power.bringupDone = true ∧ inD3 s 0 = false ∧ ecrcChecked s 0 = true :=
  ⟨cfgWr linkedState 0 0x118 0x1A0, by decide⟩

theorem witness_HostMemoryRequests_6 : ∃ (s : State) (off : Nat) (data : List (Option Byte)), barServed s 0 = true ∧ inFlr s 0 = false ∧ s.power.phase ≠ .recovery ∧
    data ≠ [] ∧ off + data.length ≤ 2 ^ 26 ∧ dramRange s (windowAddr s off) data.length = true :=
  ⟨memState, 0, [some 7], by decide⟩

theorem witness_PhaseAndTimeMoveOnlyAtBoundaries_1 : ∃ (c : Instr) (s t : State), exec c s = .next t ∧ (∀ b, c ≠ .tickBoundary b) ∧ (∀ n, c ≠ .powerOn n) ∧ c ≠ .perstAssert ∧
    c ≠ .coreRailLoss ∧ c ≠ .sysclkLoss ∧ (∀ l, c ≠ .warmResetAssert l) ∧ (∀ us f, c ≠ .bringupStageEnd us f) :=
  ⟨.ref10mLoss, State.reset, _, rfl, nofun, nofun, nofun, nofun, nofun, nofun, nofun⟩

theorem witness_RootKeysAppearOnlyByLoads_1 : ∃ (c : Instr) (s t : State) (n : Nat), Memory.wf s = true ∧ exec c s = .next t ∧ c ≠ .loadPlain ∧ c ≠ .loadWrapped ∧
    (getSlot s n).half ≠ none := ⟨.coreRailLoss, keyedState, _, 3, by decide, rfl, nofun, nofun, by decide⟩

theorem witness_LinkAndConfigurationFields_1 : ∃ (s : State) (sp w : Nat), outOfReset s = true ∧ s.pcie.dlUp = false ∧ s.pcie.l23 = false ∧ linkLegal sp w = true :=
  ⟨State.reset, 5, 16, by decide⟩

theorem witness_LinkAndConfigurationFields_2 : ∃ (s : State) (sp w : Nat), outOfReset s = true ∧ s.pcie.dlUp = false ∧ s.pcie.l23 = false ∧ linkLegal sp w = false :=
  ⟨State.reset, 6, 16, by decide⟩

theorem witness_LinkAndConfigurationFields_3 : ∃ (s : State) (sp w : Nat), s.pcie.dlUp = true ∧ linkLegal sp w = true ∧ s.pcie.l23 = false := ⟨linkedState, 1, 1, by decide⟩

theorem witness_LinkAndConfigurationFields_4 : ∃ (s : State) (f : Fin 1026), cfgServed s f.val = true ∧ Memory.wf s = true := ⟨linkedState, 1, by decide⟩

theorem witness_LinkAndConfigurationFields_5 : ∃ s : State, cfgServed s 0 = true ∧ vfEnable s = false ∧ s.pcie.vfClearing = false := ⟨linkedState, by decide⟩

theorem witness_ConfigurationRequests_1 : ∃ s : State, Memory.wf s = true ∧ cfgReach s = true ∧ s.power.bringupDone = false :=
  ⟨{ linkedState with power := { linkedState.power with bringupDone := false } }, by decide⟩

theorem witness_ConfigurationRequests_2 : ∃ (s : State) (f : Fin 1026), Memory.wf s = true ∧ cfgReach s = true ∧ s.power.bringupDone = true ∧ fnExists s f.val = false :=
  ⟨linkedState, 2, by decide⟩

theorem witness_ConfigurationRequests_3 : ∃ (s : State) (f : Fin 1026), Memory.wf s = true ∧ cfgReach s = true ∧ s.power.bringupDone = true ∧ fnExists s f.val = true ∧
    bme s f.val = true := ⟨cfgWr linkedState 0 4 0x00100006, 0, by decide⟩

theorem witness_ConfigurationRequests_4 : ∃ s : State, Memory.wf s = true ∧ cfgReach s = true ∧ s.power.bringupDone = true ∧ vfEnable s = true ∧ s.pcie.vfClearing = false :=
  ⟨vfState, by decide⟩

theorem witness_FunctionResets_1 : ∃ (s : State) (v : Fin 1024), Memory.wf s = true ∧ cfgServed s (2 + v.val) = true ∧ inFlr s (2 + v.val) = false :=
  ⟨vfState, 3, by decide⟩

theorem witness_FunctionResets_2 : ∃ s : State, Memory.wf s = true ∧ cfgServed s 1 = true ∧ inFlr s 1 = false ∧ cfgServed s 0 = true ∧ inFlr s 0 = false ∧
    outOfReset s = true ∧ s.pcie.dlUp = true := ⟨vfState, by decide⟩

theorem witness_FunctionResets_3 : ∃ (s : State) (f : Fin 1026), Memory.wf s = true ∧ 2 ≤ f.val ∧ inFlr s f.val = true ∧ s.pcie.vfClearing = false ∧
    ∀ x ∈ s.pcie.tags, x.fn ≠ f.val :=
  ⟨{ vfState with pcie := { vfState.pcie with flr := [5] } }, 5, by decide, by decide, by decide, by decide, by decide⟩

theorem witness_FunctionResets_4 : ∃ s : State, Memory.wf s = true ∧ s.pcie.vfClearing = true ∧ (∀ x ∈ s.pcie.tags, x.fn < 2) ∧ vfEnable s = false :=
  ⟨{ State.reset with pcie := { State.reset.pcie with vfClearing := true, vfLive := 4, flr := [2, 3, 4, 5] } },
    by decide, by decide, by decide, by decide⟩

theorem witness_TagsAndInterrupts_1 : ∃ (s : State) (c : Completion), Memory.wf s = true ∧ s.pcie.dlUp = true ∧ c.ecrcBad = false ∧ getTag s c.tag.val = none :=
  ⟨linkedState, ⟨7, 0, 0, [1], false, false⟩, by decide⟩

theorem witness_TagsAndInterrupts_2 : ∃ (s : State) (c : Completion) (x : Tag), Memory.wf s = true ∧ s.pcie.dlUp = true ∧ c.ecrcBad = false ∧
    getTag s c.tag.val = some x ∧ x.stale = true ∧ c.status ≠ 0 :=
  ⟨tagState true none, ⟨7, 1, 0, [], false, false⟩, _, by decide, by decide, by decide, rfl, rfl, by decide⟩

theorem witness_TagsAndInterrupts_3 : ∃ (s : State) (g : Fin 1024) (x : Tag), Memory.wf s = true ∧ getTag s g.val = some x ∧ x.held = none ∧ x.stale = false ∧
    passed s x.issuedAt x.k = true := ⟨tagState false none, 7, _, by decide, rfl, rfl, rfl, by decide⟩

theorem witness_TagsAndInterrupts_4 : ∃ (s : State) (g : Fin 1024) (x : Tag) (h : Nat), Memory.wf s = true ∧ getTag s g.val = some x ∧ x.held = some h ∧
    passed s h x.k = true := ⟨tagState false (some 1), 7, _, 1, by decide, rfl, rfl, by decide⟩

theorem witness_TagsAndInterrupts_5 : ∃ (s : State) (f : Fin 1026) (v k : Nat), Memory.wf s = true ∧ barOpen s = true ∧ fnExists s f.val = true ∧ inD3 s f.val = false ∧
    inFlr s f.val = false ∧ memEnabled s f.val = true ∧ s.power.phase ≠ .recovery ∧ v < vectorsOf f.val ∧ (k = 1 ∨ k = 2) :=
  ⟨linkedState, 0, 2047, 2, by decide⟩

theorem witness_TagsAndInterrupts_6 : ∃ (s : State) (f : Fin 1026) (v : Fin 2048), Memory.wf s = true ∧ s.pcie.pba.contains (2048 * f.val + v.val) = true ∧
    mayRequest s f.val = true ∧ msixEn s f.val = true ∧ msixFnMask s f.val = false ∧ fbit (msixWord s f.val v.val 3) 0 = false :=
  ⟨pendingState, 0, 5, by decide⟩

theorem witness_TagsAndInterrupts_7 : ∃ (s : State) (f : Fin 1026), Memory.wf s = true ∧ fnExists s f.val = true ∧ inD3 s f.val = true ∧
    fbit (cfgRd s f.val 0x44) 15 = true ∧ fbit (cfgRd s f.val 0x44) 8 = true ∧ linkOpen s = true ∧
    passed s (tget (fun _ => 0) s.pcie.pmeAt f.val) (boundariesIn s 100000000) = true := ⟨pmeState, 0, by decide⟩

theorem witness_QueueRecordsAndDoorbells_1 : ∃ (s : State) (via : Master) (n : Fin 16384) (w : Word), Memory.wf s = true ∧ s.power.phase ≠ .recovery ∧ Manages via ∧
    served s via true = true ∧ recValid s n.val = false ∧ fbit w 0 = true ∧ recCheck s n.val w = none :=
  ⟨recordState false, .pf0, 5, 1, by decide, by decide, .inr rfl, by decide⟩

theorem witness_QueueRecordsAndDoorbells_2 : ∃ (s : State) (via : Master) (n : Fin 16384) (w : Word), Memory.wf s = true ∧ s.power.phase ≠ .recovery ∧ Manages via ∧
    served s via true = true ∧ recValid s n.val = false ∧ fbit w 0 = true ∧ recCheck s n.val w = some 1 ∧
    fbit (rd s (pgQmg + Reg.QMG_REC_ERR)) 31 = false :=
  ⟨recordState false, .pf0, 5, 3, by decide, by decide, .inr rfl, by decide⟩

theorem witness_QueueRecordsAndDoorbells_3 : ∃ (s : State) (via : Master) (n : Fin 16384) (w : Word), Memory.wf s = true ∧ s.power.phase ≠ .recovery ∧ Manages via ∧
    served s via true = true ∧ recValid s n.val = true ∧ fbit w 0 = false ∧ recQuiet s n.val = true ∧
    ∀ m ∈ validRecs s, m ≠ n.val → recCr s m ≠ n.val :=
  ⟨recordState true, .pf0, 5, 0, by decide, by decide, .inr rfl, by decide, by decide, by decide, by decide, by decide⟩

theorem witness_QueueRecordsAndDoorbells_4 : ∃ (s : State) (via : Master) (n : Fin 16384) (w : Word), Memory.wf s = true ∧ s.power.phase ≠ .recovery ∧ Manages via ∧
    served s via true = true ∧ recValid s n.val = true ∧ fbit w 0 = false ∧ recQuiet s n.val = false :=
  ⟨putWq (recordState true) 5 { freshWq with quiet := false }, .pf0, 5, 0, by decide, by decide, .inr rfl, by decide⟩

theorem witness_QueueRecordsAndDoorbells_5 : ∃ (s : State) (n : Fin 16384), Memory.wf s = true ∧ s.power.phase ≠ .recovery ∧ served s .pf0 true = true ∧
    doorbellBarred s 0 n.val = true := ⟨recordState false, 5, by decide⟩

theorem witness_QueueRecordsAndDoorbells_6 : ∃ (s : State) (n : Fin 16384) (v : Nat), Memory.wf s = true ∧ s.power.phase ≠ .recovery ∧ served s .pf0 true = true ∧ v < 65536 ∧
    doorbellBarred s 0 n.val = false ∧ 0 < dist16 (getWq s n.val).pi v ∧
    dist16 (getWq s n.val).pi v ≤ recWqSize s n.val - dist16 (getWq s n.val).ci (getWq s n.val).pi :=
  ⟨recordState true, 5, 16, by decide⟩

theorem witness_QueueRecordsAndDoorbells_7 : ∃ (s : State) (n : Fin 16384) (v : Nat), Memory.wf s = true ∧ s.power.phase ≠ .recovery ∧ served s .pf0 true = true ∧ v < 65536 ∧
    doorbellBarred s 0 n.val = false ∧
    recWqSize s n.val - dist16 (getWq s n.val).ci (getWq s n.val).pi < dist16 (getWq s n.val).pi v ∧
    32768 ≤ dist16 (getWq s n.val).pi v := ⟨recordState true, 5, 32768, by decide⟩

theorem witness_QueueRecordsAndDoorbells_8 : ∃ (s : State) (n : Fin 16384) (v : Nat), Memory.wf s = true ∧ s.power.phase ≠ .recovery ∧ served s .pf0 true = true ∧ v < 65536 ∧
    doorbellBarred s 0 n.val = false ∧
    recWqSize s n.val - dist16 (getWq s n.val).ci (getWq s n.val).pi < dist16 (getWq s n.val).pi v ∧
    dist16 (getWq s n.val).pi v < 32768 := ⟨recordState true, 5, 17, by decide⟩

theorem witness_QueueRecordsAndDoorbells_9 : ∃ (s : State) (n : Fin 16384) (v : Nat), Memory.wf s = true ∧ s.power.phase ≠ .recovery ∧ served s .pf0 true = true ∧ v < 65536 ∧
    doorbellBarred s 0 n.val = false ∧ 0 < dist16 (getCr s n.val).ci v ∧
    dist16 (getCr s n.val).ci v ≤ dist16 (getCr s n.val).ci (getCr s n.val).pi :=
  ⟨putCr (recordState true) 5 { freshCr with pi := 3 }, 5, 3, by decide⟩

theorem witness_FetchingEntries_1 : ∃ (s : State) (a : Fin 3), Memory.wf s = true ∧ gkOpen s = true ∧ canStart s (acct 2 a.val) 1 1 = true ∧
    (validRecs s).filter (fun n => qmAccount (recOwner s n) == a.val && mayFetch s n) ≠ [] := ⟨workState [], 0, by decide⟩

theorem witness_FetchingEntries_2 : ∃ (s : State) (wq : Fin 16384) (idx : Fin 65536) (i : WorkItem), Memory.wf s = true ∧ getItem s wq.val idx.val = some i ∧
    i.stage = .refetch 1 5 ∧ i.needs = [] ∧ readsDone s i = true ∧ passed s 5 1 = true ∧ mayRequest s i.fn = true ∧ isHalted s i.fn = false :=
  ⟨{ workState [{ someItem with stage := .refetch 1 5 }] with tck := { State.reset.tck with boundaries := 7 } }, 5, 0, _, by decide, rfl,
    rfl, rfl, by decide, by decide, by decide, by decide⟩

theorem witness_FetchingEntries_3 : ∃ (s : State) (wq : Fin 16384) (idx : Fin 65536) (i : WorkItem) (n : Need) (id : Nat), Memory.wf s = true ∧
    getItem s wq.val idx.val = some i ∧ i.needs = [n] ∧ beatsLeft s (readAccount i) ≠ 0 ∧ isHalted s i.fn = false ∧
    mayRequest s i.fn = true ∧ mayTag s i.fn = true ∧ freeTag s = some id ∧ draining s = false ∧
    readLen (mrrs s i.fn) n.addr n.len (beatsLeft s (readAccount i)) < n.len :=
  ⟨workState [{ someItem with needs := [⟨.data, 0x1010, 0, 9000, 0⟩] }], 5, 0, _, _, 0, by decide, rfl, rfl, by decide, by decide,
    by decide, by decide, by decide, by decide, by decide⟩

theorem witness_FetchingEntries_4 : ∃ (s : State) (wq : Fin 16384) (idx : Fin 65536) (i : WorkItem) (n : Need) (id : Nat), Memory.wf s = true ∧
    getItem s wq.val idx.val = some i ∧ i.needs = [n] ∧ beatsLeft s (readAccount i) ≠ 0 ∧ isHalted s i.fn = false ∧
    mayRequest s i.fn = true ∧ mayTag s i.fn = true ∧ freeTag s = some id ∧ draining s = true :=
  ⟨{ workState [{ someItem with needs := [⟨.data, 0x1010, 0, 64, 0⟩] }] with red := { State.reset.red with stage := .drain } },
    5, 0, _, _, 0, by decide, rfl, rfl, by decide, by decide, by decide, by decide, by decide, by decide⟩

theorem witness_ExecutingEntries_1 : ∃ (s : State) (wq : Fin 16384) (idx : Fin 65536) (i : WorkItem), getItem s wq.val idx.val = some i ∧ i.etype = 0 ∧
    mayStart s i = true := ⟨workState [{ someItem with bytes := [0], stage := .ready }], 5, 0, _, rfl, rfl, by decide⟩

theorem witness_ExecutingEntries_2 : ∃ (s : State) (wq : Fin 16384) (idx : Fin 65536) (i : WorkItem), getItem s wq.val idx.val = some i ∧ i.etype = 2 ∧
    mayStart s i = true := ⟨workState [{ someItem with bytes := [2], stage := .ready }], 5, 0, _, rfl, rfl, by decide⟩

theorem witness_ExecutingEntries_3 : ∃ (s : State) (wq : Fin 16384) (idx : Fin 65536) (i : WorkItem), getItem s wq.val idx.val = some i ∧ i.etype = 1 ∧
    isHalted s i.fn = false ∧ mayStart s i = true ∧ firstReason (segReasons (txDescs i.bytes).1) = none ∧
    chainOf (txDescs i.bytes).1 = none ∧ segTotal (i.segs ++ dataSegs (txDescs i.bytes).1) = leAt i.bytes 4 2 :=
  ⟨workState [{ someItem with bytes := txBytes 100, stage := .ready }], 5, 0, _, rfl, by decide⟩

theorem witness_ExecutingEntries_4 : ∃ (s : State) (wq : Fin 16384) (idx : Fin 65536) (i : WorkItem), getItem s wq.val idx.val = some i ∧ i.etype = 1 ∧
    isHalted s i.fn = false ∧ mayStart s i = true ∧ firstReason (segReasons (txDescs i.bytes).1) = none ∧
    chainOf (txDescs i.bytes).1 = none ∧ segTotal (i.segs ++ dataSegs (txDescs i.bytes).1) ≠ leAt i.bytes 4 2 ∧ 2 ≤ i.fn :=
  ⟨{ workState [{ someItem with fn := 4, bytes := txBytes 101, stage := .ready }] with power := { State.reset.power with phase := .normal } },
    5, 0, _, rfl, by decide⟩

theorem witness_ExecutingEntries_5 : ∃ (s : State) (wq : Fin 16384) (idx : Fin 65536) (i : WorkItem), getItem s wq.val idx.val = some i ∧ i.etype = 1 ∧
    isHalted s i.fn = false ∧ i.stage = .data ∧ readsDone s i = true ∧ i.buf.length = leAt i.bytes 4 2 :=
  ⟨workState [{ someItem with bytes := [1, 0, 0, 0, 2, 0, 0, 0], stage := .data, buf := [(0, some (1, false)), (1, some (2, false))] }],
    5, 0, _, rfl, by decide⟩

theorem witness_ExecutingEntries_6 : ∃ (s : State) (wq : Fin 16384) (idx : Fin 65536) (i : WorkItem), getItem s wq.val idx.val = some i ∧ gkOpen s = true ∧
    i.wq = wq.val ∧ i.idx = idx.val ∧ (candidates s).filter (admitMay s) = [i] ∧ i.admitted = false ∧ i.fn = 0 ∧
    i.dramSource = false ∧ inCredit (touchNode s hostRoot i.wq) i.wq = true ∧ paceLevel s 0 + admitCells i ≤ paceHi s 0 :=
  ⟨workState [{ someItem with bytes := txBytes 100, stage := .admission, segs := [(0x1000, 100)] }], 5, 0, _, rfl, by decide⟩

theorem witness_FillAndCopy_1 : ∃ (s : State) (wq : Fin 16384) (idx : Fin 65536) (i : WorkItem), getItem s wq.val idx.val = some i ∧
    moveMay s i (moveOf i.bytes) = true ∧ mayStart s i = true ∧ i.stage = .ready ∧ i.etype = 3 ∧
    (moveOf i.bytes).dstDram = true ∧ dramRange s (moveOf i.bytes).dst (moveOf i.bytes).len = false :=
  ⟨workState [{ someItem with bytes := fillBytes 1, stage := .ready }], 5, 0, _, rfl, by decide⟩

theorem witness_FillAndCopy_2 : ∃ (s : State) (wq : Fin 16384) (idx : Fin 65536) (i : WorkItem), getItem s wq.val idx.val = some i ∧
    moveMay s i (moveOf i.bytes) = true ∧ mayStart s i = true ∧ i.stage = .ready ∧ i.etype = 4 ∧
    (moveOf i.bytes).dstDram = false ∧ (moveOf i.bytes).srcDram = false ∧ (moveOf i.bytes).overlaps = true ∧ (moveOf i.bytes).gap = 0 :=
  ⟨workState [{ someItem with bytes := copyBytes 0x2000 0x2000, stage := .ready }], 5, 0, _, rfl, by decide⟩

theorem witness_FillAndCopy_3 : ∃ (s : State) (wq : Fin 16384) (idx : Fin 65536) (i : WorkItem), getItem s wq.val idx.val = some i ∧
    moveMay s i (moveOf i.bytes) = true ∧ i.stage = .run ∧ i.etype = 3 ∧ (moveOf i.bytes).dstDram = false ∧ beatsLeft s 2 ≠ 0 :=
  ⟨workState [{ someItem with bytes := fillBytes 0, stage := .run }], 5, 0, _, rfl, by decide⟩

theorem witness_FillAndCopy_4 : ∃ (s : State) (wq : Fin 16384) (idx : Fin 65536) (i : WorkItem), getItem s wq.val idx.val = some i ∧
    moveMay s i (moveOf i.bytes) = true ∧ i.stage = .run ∧ i.etype = 4 ∧ (moveOf i.bytes).dstDram = false ∧
    (moveOf i.bytes).srcDram = false ∧ (moveOf i.bytes).overlaps = false ∧ 0 < (nextPiece s i (moveOf i.bytes)).2 ∧
    pieceReady i (nextPiece s i (moveOf i.bytes)).1 (nextPiece s i (moveOf i.bytes)).2 = false ∧ readsDone s i = true :=
  ⟨workState [{ someItem with bytes := copyBytes 0x1000 0x8000, stage := .run }], 5, 0, _, rfl, by decide⟩

theorem witness_FillAndCopy_5 : ∃ (s : State) (wq : Fin 16384) (idx : Fin 65536) (i : WorkItem), getItem s wq.val idx.val = some i ∧
    moveMay s i (moveOf i.bytes) = true ∧ i.stage = .run ∧ i.etype = 4 ∧ (moveOf i.bytes).dstDram = false ∧
    (moveOf i.bytes).srcDram = false ∧ (moveOf i.bytes).overlaps = false ∧ (nextPiece s i (moveOf i.bytes)).2 = 2 ∧
    pieceReady i (nextPiece s i (moveOf i.bytes)).1 (nextPiece s i (moveOf i.bytes)).2 = true ∧
    blocksOf ((moveOf i.bytes).dst + (nextPiece s i (moveOf i.bytes)).1) 2 ≤ beatsLeft s 2 :=
  ⟨workState [{ someItem with bytes := copyBytes 0x1000 0x8000, stage := .run, buf := [(0, some (1, false)), (1, some (2, false))] }],
    5, 0, _, rfl, by decide⟩

theorem witness_CompletionsAndDelivery_1 : ∃ (s : State) (wq : Fin 16384) (idx : Fin 65536) (i : WorkItem) (r : Report), Memory.wf s = true ∧
    getItem s wq.val idx.val = some i ∧ i.stage = .finishing r ∧ i.quiet = true ∧ r.status = stOK :=
  ⟨workState [{ someItem with bytes := [0, 16], stage := .finishing (report State.reset 0 0) }], 5, 0, _, _, by decide, rfl, rfl, by decide⟩

theorem witness_CompletionsAndDelivery_2 : ∃ (s : State) (wq : Fin 16384) (idx : Fin 65536) (i : WorkItem) (r : Report), Memory.wf s = true ∧
    getItem s wq.val idx.val = some i ∧ i.stage = .finishing r ∧ (i.quiet = false ∨ r.status ≠ stOK) ∧
    (getCr s (recCr s wq.val)).staged.length < 64 :=
  ⟨workState [{ someItem with stage := .finishing (report State.reset 0 0) }], 5, 0, _, _, by decide, rfl, rfl, by decide⟩

theorem witness_CompletionsAndDelivery_3 : ∃ (s : State) (n : Fin 16384) (r : Record), Memory.wf s = true ∧ recValid s n.val = true ∧ isHalted s (recOwner s n.val) = false ∧
    mayRequest s (recOwner s n.val) = true ∧ canStart s (acct 3 1) 1 0 = true ∧
    nextRecord s (getCr s n.val).staged = some r ∧ crFull s n.val = false :=
  ⟨putCr (workState []) 5 { freshCr with staged := [⟨5, 0, List.replicate 32 0, some 0⟩] }, 5, _, by decide, by decide, by decide,
    by decide, by decide, rfl, by decide⟩

theorem witness_CompletionsAndDelivery_4 : ∃ (s : State) (n : Fin 16384) (b : Nat), Memory.wf s = true ∧ (getCr s n.val).modSince = some b ∧
    passed s b (recModTimer s n.val) = true ∧ msixEn s (recOwner s n.val) = true ∧ inD3 s (recOwner s n.val) = false :=
  ⟨putCr pendingState 5 { freshCr with modCount := 1, modSince := some 0 }, 5, 0, by decide⟩

theorem witness_CompletionsAndDelivery_5 : ∃ (s : State) (n : Fin 16384) (d : Desc) (f : Frame) (i : WorkItem), Memory.wf s = true ∧
    s.sched.rx.find? (fun d => d.queue == n.val) = some d ∧ getFrame s d.view.frame = some f ∧ gkOpen s = true ∧ f.whole = true ∧
    d.unsealed = false ∧ validRx s n.val = true ∧ isHalted s (recOwner s n.val) = false ∧ inFlr s (recOwner s n.val) = false ∧
    (getWq s n.val).served = true ∧ mayRequest s (recOwner s n.val) = true ∧ inCredit s n.val = true ∧ beatsLeft s 1 ≠ 0 ∧
    headBuffer s n.val = some i ∧ getItem s i.wq i.idx = some i ∧ d.enc = none ∧ (sentData f d).length ≤ leAt i.bytes 16 2 :=
  ⟨rxState 100, 5, _, _, _, by decide, rfl, rfl, by decide, rfl, rfl, by decide, by decide, by decide, by decide, by decide,
    by decide, by decide, rfl, by decide, rfl, by decide⟩

theorem witness_CompletionsAndDelivery_6 : ∃ (s : State) (n : Fin 16384) (d : Desc) (f : Frame) (i : WorkItem), Memory.wf s = true ∧
    s.sched.rx.find? (fun d => d.queue == n.val) = some d ∧ getFrame s d.view.frame = some f ∧ gkOpen s = true ∧ f.whole = true ∧
    d.unsealed = false ∧ validRx s n.val = true ∧ isHalted s (recOwner s n.val) = false ∧ inFlr s (recOwner s n.val) = false ∧
    (getWq s n.val).served = true ∧ mayRequest s (recOwner s n.val) = true ∧ inCredit s n.val = true ∧ beatsLeft s 1 ≠ 0 ∧
    headBuffer s n.val = some i ∧ getItem s i.wq i.idx = some i ∧ d.enc = none ∧ leAt i.bytes 16 2 < (sentData f d).length :=
  ⟨rxState 64, 5, _, _, _, by decide, rfl, rfl, by decide, rfl, rfl, by decide, by decide, by decide, by decide, by decide,
    by decide, by decide, rfl, by decide, rfl, by decide⟩

theorem witness_CompletionsAndDelivery_7 : ∃ (s : State) (wq : Fin 16384) (idx : Fin 65536) (i : WorkItem) (d : Desc), Memory.wf s = true ∧
    getItem s wq.val idx.val = some i ∧ i.stage = .deliver ∧ i.rxd = some d ∧ beatsLeft s 1 ≠ 0 ∧ mayRequest s i.fn = true ∧
    isHalted s i.fn = false ∧ writeLen (mps s i.fn) i.outAt i.out (beatsLeft s 1) < i.out.length :=
  ⟨{ workState [{ someItem with stage := .deliver, rxd := some someDesc, out := List.replicate 60 (0, false), outAt := 0x1010 }] with
    cred := { State.reset.cred with work := [(acct 3 1, 1)], energy := [(acct 3 1, 1)] } }, 5, 0, _, _, by decide, rfl, rfl, rfl, by decide⟩

theorem witness_Mailboxes_1 : ∃ (s : State) (via : Master), Memory.wf s = true ∧ mbxOpen s via = true ∧
    (mbxDirOf s via % 2 = 0 → fnExists s (2 + mbxDirOf s via / 2) = true) ∧
    inFlr s (if mbxDirOf s via % 2 = 0 then 2 + mbxDirOf s via / 2 else 0) = false ∧ (getMbx s (mbxDirOf s via)).full = false :=
  ⟨vfState, .vf 7, by decide⟩

theorem witness_Mailboxes_2 : ∃ (s : State) (via : Master), Memory.wf s = true ∧ mbxOpen s via = true ∧
    (mbxDirOf s via % 2 = 0 → fnExists s (2 + mbxDirOf s via / 2) = true) ∧
    inFlr s (if mbxDirOf s via % 2 = 0 then 2 + mbxDirOf s via / 2 else 0) = false ∧ (getMbx s (mbxDirOf s via)).full = true :=
  ⟨putMbx vfState 0 { MbxDir.empty with full := true }, .pf0, by decide⟩

theorem witness_Mailboxes_3 : ∃ (s : State) (k b : Nat), Memory.wf s = true ∧ (getMbx s k).posted = some b ∧ b < s.tck.boundaries :=
  ⟨{ putMbx vfState 4 { MbxDir.empty with posted := some 0 } with tck := { State.reset.tck with boundaries := 1 } }, 4, 0, by decide⟩

theorem witness_Mailboxes_4 : ∃ (s : State) (via : Master) (w : Word), Memory.wf s = true ∧ mbxOpen s via = true ∧
    (getMbx s (mbxRxDirOf s via)).new = true ∧ fbit w 0 = true :=
  ⟨putMbx vfState 1 { MbxDir.empty with new := true }, .maint, 1, by decide⟩

theorem witness_DirtyPageLogs_1 : ∃ (s : State) (a0 a1 : Word), Memory.wf s = true ∧ PageReady s pgTen .maint ∧ s.power.phase ≠ .recovery ∧ 4 ≤ fld a0 19 16 ∧
    fld a1 11 0 = 0 ∧ fnExists s (2 + fld a0 9 0) = true ∧ (getLogSlot s (fld a0 27 24)).inUse = false ∧
    ∀ e ∈ s.logs, e.2.inUse = true → e.2.tenant ≠ fld a0 9 0 :=
  ⟨vfState, 0x0F040007, 0x1000, by decide, ⟨by decide, by decide⟩, by decide, by decide, by decide, by decide, by decide, by decide⟩

theorem witness_DirtyPageLogs_2 : ∃ (s : State) (a0 : Word), Memory.wf s = true ∧ PageReady s pgTen .maint ∧ s.power.phase ≠ .recovery ∧
    (getLogSlot s (fld a0 3 0)).inUse = true :=
  ⟨putLogSlot vfState 15 { LogSlot.free with inUse := true }, 15, by decide, ⟨by decide, by decide⟩, by decide, by decide⟩

theorem witness_DirtyPageLogs_3 : ∃ (s : State) (k : Fin 16) (w : Word), Memory.wf s = true ∧ served s .maint true = true ∧ s.power.phase ≠ .recovery ∧
    0 < dist16 (getLogSlot s k.val).ci (fld w 15 0) ∧
    dist16 (getLogSlot s k.val).ci (fld w 15 0) ≤ ringUsedOf (getLogSlot s k.val) :=
  ⟨putLogSlot vfState 15 { LogSlot.free with inUse := true, log2 := 4, pi := 3 }, 15, 3, by decide⟩

theorem witness_DirtyPageLogs_4 : ∃ (s : State) (k : Fin 16) (w : Word), Memory.wf s = true ∧ served s .maint true = true ∧ s.power.phase ≠ .recovery ∧
    ringUsedOf (getLogSlot s k.val) < dist16 (getLogSlot s k.val).ci (fld w 15 0) :=
  ⟨putLogSlot vfState 15 { LogSlot.free with inUse := true, log2 := 4, pi := 3 }, 15, 4, by decide⟩

theorem witness_DirtyPageLogs_5 : ∃ (s : State) (k : Fin 16), Memory.wf s = true ∧ beatsLeft s 1 ≠ 0 ∧ mayRequest s 0 = true ∧ runningOn s pgTen = none ∧
    0 < Nat.min (Nat.min (getLogSlot s k.val).staged.length (logRoom (getLogSlot s k.val)))
      (2 ^ (getLogSlot s k.val).log2 - (getLogSlot s k.val).pi % 2 ^ (getLogSlot s k.val).log2) :=
  ⟨putLogSlot (workState []) 2 { LogSlot.free with inUse := true, active := true, log2 := 4, pi := 15, staged := [5, 6, 7] }, 2, by decide⟩

theorem witness_CustodyChannels_1 : ∃ (s : State) (c : Fin 16), Memory.wf s = true ∧ PageReady s (pgCch c.val) .pf1 ∧ (getCch s c.val).isOpen = false ∧
    s.power.phase ≠ .recovery := ⟨linkedState, 15, by decide, ⟨by decide, by decide⟩, by decide⟩

theorem witness_CustodyChannels_2 : ∃ (s : State) (c : Fin 16) (req : Vector Word 16) (a0 : Word), Memory.wf s = true ∧ PageReady s (pgCch c.val) .pf1 ∧
    (getCch s c.val).isOpen = true ∧ s.power.phase ≠ .recovery ∧ (getCch s c.val).lastSeq ≠ some (fld a0 15 0) ∧
    CusReq.bad ⟨c.val, fld a0 15 0, req.toList.flatMap wordBytes⟩ = false :=
  ⟨putCch linkedState 15 { CchChan.closed with isOpen := true }, 15,
    #v[5, 0, 0, 0, 0, 0, 0, 0, 0, 0, 0, 0, 0, 0, 0, 0], 7, by decide, ⟨by decide, by decide⟩, by decide⟩

theorem witness_CustodyChannels_3 : ∃ (s : State) (q : CusReq), Memory.wf s = true ∧ s.cus.queue.head? = some q ∧ q.op = 1 ∧ loadMay s q = true :=
  ⟨custodyState [1, 4, 0, 0], _, by decide, rfl, by decide⟩

theorem witness_CustodyChannels_4 : ∃ (s : State) (q : CusReq), Memory.wf s = true ∧ s.cus.queue.head? = some q ∧ q.op = 1 ∧ loadMay s q = false :=
  ⟨custodyState [1, 3, 0, 0], _, by decide, rfl, by decide⟩

theorem witness_CustodyChannels_5 : ∃ (s : State) (q : CusReq), Memory.wf s = true ∧ s.cus.queue.head? = some q ∧ q.op = 2 ∧ loadMay s q = true ∧
    (getSlot s q.kek).half = none := ⟨custodyState [2, 4, 9, 0], _, by decide, rfl, by decide⟩

theorem witness_CustodyChannels_6 : ∃ (s : State) (q : CusReq) (h : KeyHalf), Memory.wf s = true ∧ s.cus.queue.head? = some q ∧ q.op = 2 ∧ loadMay s q = true ∧
    (getSlot s q.kek).half = some h ∧ (q.kek = q.slot ∨ nbit h.attr.toNat 0 = false) :=
  ⟨custodyState [2, 3, 3, 128], _, _, by decide, rfl, by decide, by decide, rfl, by decide⟩

theorem witness_CustodyChannels_7 : ∃ (s : State) (q : CusReq) (h : KeyHalf), Memory.wf s = true ∧ s.cus.queue.head? = some q ∧ q.op = 2 ∧ loadMay s q = true ∧
    (getSlot s q.kek).half = some h ∧ q.kek ≠ q.slot ∧ nbit h.attr.toNat 0 = true :=
  ⟨custodyState [2, 4, 3, 0], _, _, by decide, rfl, by decide, by decide, rfl, by decide⟩

theorem witness_CustodyChannels_8 : ∃ (s : State) (q : CusReq), Memory.wf s = true ∧ s.cus.queue.head? = some q ∧ q.op = 3 ∧ (getSlot s q.slot).sel ≠ none :=
  ⟨custodyState [3, 3, 0, 0], _, by decide, rfl, by decide⟩

theorem witness_CustodyChannels_9 : ∃ (s : State) (q : CusReq) (h : KeyHalf), Memory.wf s = true ∧ s.cus.queue.head? = some q ∧ q.op = 4 ∧
    (getSlot s q.slot).half = some h ∧ keyCheck h = h.check :=
  ⟨custodyState [4, 3, 0, 0], _, _, by decide, rfl, by decide, rfl, by decide +kernel⟩

theorem witness_CustodyChannels_10 : ∃ (s : State) (q : CusReq), Memory.wf s = true ∧ s.cus.queue.head? = some q ∧ q.op = 5 :=
  ⟨custodyState [5, 0, 0, 0], _, by decide, rfl, by decide⟩

theorem witness_CustodyChannels_11 : ∃ s : State, Memory.wf s = true ∧ s.cip.slotDrops ≠ [] :=
  ⟨{ State.reset with cip := { State.reset.cip with slotDrops := [3] } }, by decide⟩

theorem witness_AlarmsAndErasure_1 : ∃ (s : State) (src : AlarmSrc), Memory.wf s = true ∧ s.vkeep.present = true ∧
    nbit s.vkeep.active.toNat (alarmCode src) = false ∧ alarmLevel s (alarmCode src) = 0 :=
  ⟨{ State.reset with vkeep := { State.reset.vkeep with policy := 0x4168 } }, .tamper0, by decide⟩

theorem witness_AlarmsAndErasure_2 : ∃ (s : State) (src : AlarmSrc), Memory.wf s = true ∧ s.vkeep.present = true ∧
    nbit s.vkeep.active.toNat (alarmCode src) = false ∧ alarmLevel s (alarmCode src) = 1 ∧ s.power.mainRails = true :=
  ⟨State.reset, .vkeepLow, by decide⟩

theorem witness_AlarmsAndErasure_3 : ∃ (s : State) (src : AlarmSrc), Memory.wf s = true ∧ s.vkeep.present = true ∧
    nbit s.vkeep.active.toNat (alarmCode src) = false ∧ alarmLevel s (alarmCode src) = 2 ∧ s.power.mainRails = true :=
  ⟨State.reset, .tamper0, by decide⟩

theorem witness_AlarmsAndErasure_4 : ∃ s : State, Memory.wf s = true ∧ s.vkeep.present = true ∧ s.power.phase ≠ .recovery ∧ PageReady s pgCus .pf1 ∧ PageReady s pgAlm .maint ∧
    s.vkeep.sealed = false ∧ crimsonActive s = false ∧ s.vkeep.erasedLock = true :=
  ⟨State.reset, by decide, by decide, by decide, ⟨by decide, by decide⟩, ⟨by decide, by decide⟩, by decide⟩

theorem witness_AlarmsAndErasure_5 : ∃ s : State, Memory.wf s = true ∧ s.cip.crimsonDue = true :=
  ⟨{ State.reset with cip := { State.reset.cip with crimsonDue := true } }, by decide⟩

theorem witness_AlarmsAndErasure_6 : ∃ s : State, Memory.wf s = true ∧ stageOneBegun s = true ∧ ∀ k : Fin 4, fbit (rd s (pgEvc + Reg.EVC_TEMP + 4 * k.val)) 31 = false :=
  ⟨State.reset, by decide⟩

theorem witness_AlarmsAndErasure_7 : ∃ (s : State) (sl : SliceId) (a0 : Word), Memory.wf s = true ∧ PageReady s (pgSelf sl) .maint ∧ s.power.phase = .test ∧
    ((s.slice sl).role = .active ∨ (s.slice sl).role = .standby) ∧ 1 ≤ fld a0 15 8 ∧ fld a0 15 8 ≤ 7 ∧ fld a0 7 4 = 0 ∧
    fld a0 31 16 = 0 ∧ fld a0 3 0 = 4 :=
  ⟨{ State.reset with power := { State.reset.power with phase := .test } }, .slate, 0x704, by decide, ⟨by decide, by decide⟩,
    by decide⟩

theorem witness_PortCommands_1 : ∃ (s : State) (p : Fin 6), Memory.wf s = true ∧ s.power.phase ≠ .recovery ∧ PageReady s (pgPcs p.val) .maint ∧
    (getPort s p.val).enabled = false ∧ pcsCheck s p.val = none ∧ overReserve s (modeRate (portMode s p.val)) = false :=
  ⟨wr State.reset (pgPcs 5 + Reg.PCS_MODE) 9, 5, by decide, by decide, ⟨by decide, by decide⟩, by decide⟩

theorem witness_PortCommands_2 : ∃ (s : State) (p : Fin 6) (o h : Nat), Memory.wf s = true ∧ s.power.phase ≠ .recovery ∧ PageReady s (pgPcs p.val) .maint ∧
    (getPort s p.val).enabled = false ∧ pcsCheck s p.val = some (o, h) :=
  ⟨wr State.reset (pgPcs 0 + Reg.PCS_MODE) 9, 0, Reg.PCS_MODE, 0, by decide, by decide, ⟨by decide, by decide⟩, by decide⟩

theorem witness_PortCommands_3 : ∃ (s : State) (p : Fin 6), Memory.wf s = true ∧ s.power.phase ≠ .recovery ∧ PageReady s (pgPcs p.val) .maint ∧
    (getPort s p.val).enabled = true ∧ fbit (rd s (pgPcs p.val + Reg.PCS_MODE)) 5 = true :=
  ⟨wr (portState 2) (pgPcs 2 + Reg.PCS_MODE) 0x26, 2, by decide, by decide, ⟨by decide, by decide⟩, by decide⟩

theorem witness_PortCommands_4 : ∃ (s : State) (p : Fin 6), Memory.wf s = true ∧ s.power.phase ≠ .recovery ∧ PageReady s (pgMac p.val) .maint ∧
    (getPort s p.val).armed = [] ∧ 1 ≤ fld (rd s (pgMac p.val + Reg.MAC_GCL_COUNT)) 8 0 ∧
    fld (rd s (pgMac p.val + Reg.MAC_GCL_COUNT)) 8 0 ≤ 256 ∧ ∀ e ∈ adminList s p.val, gateTicks e ≠ 0 ∧ fld e 31 24 = 0 :=
  ⟨wr (wr (portState 0) (pgMac 0 + Reg.MAC_GCL_COUNT) 1) (gclKey 0 0) 0x3FF, 0, by decide, by decide,
    ⟨by decide, by decide⟩, by decide, by decide, by decide, fun e h => by
      have l : adminList (wr (wr (portState 0) (pgMac 0 + Reg.MAC_GCL_COUNT) 1) (gclKey 0 0) 0x3FF) 0 = [0x3FF] := by decide
      rw [show (0 : Fin 6).val = 0 from rfl, l] at h
      obtain rfl := List.mem_singleton.1 h
      decide⟩

theorem witness_PortCommands_5 : ∃ (s : State) (p : Fin 6), Memory.wf s = true ∧ s.power.phase ≠ .recovery ∧ PageReady s (pgMac p.val) .maint ∧
    (getPort s p.val).armed ≠ [] ∧ (getPort s p.val).armA ≤ s.tck.tick :=
  ⟨putPort State.reset 3 { PortUnit.reset with armed := [0x101] }, 3, by decide, by decide, ⟨by decide, by decide⟩, by decide⟩

theorem witness_PortCommands_6 : ∃ (s : State) (p : Fin 6), Memory.wf s = true ∧ s.tck.tick < (getPort s p.val).armA :=
  ⟨putPort State.reset 3 { PortUnit.reset with armed := [0x101], armA := 9 }, 3, by decide⟩

theorem witness_PortCommands_7 : ∃ (s : State) (p : Fin 6) (x : Nat × Word × Nat), Memory.wf s = true ∧
    gateAt (getPort s p.val).oper 0 (gclPos (getPort s p.val) s.tck.tick) = some x :=
  ⟨putPort { State.reset with tck := { State.reset.tck with tick := 7 } } 3 { PortUnit.reset with oper := [0x101, 0x302] }, 3, _,
    by decide, rfl⟩

theorem witness_LinkAndReception_1 : ∃ (s : State) (p : Fin 6), Memory.wf s = true ∧ (getPort s p.val).enabled = true ∧ (getPort s p.val).training = true :=
  ⟨putPort State.reset 5 { PortUnit.reset with enabled := true, training := true }, 5, by decide⟩

theorem witness_LinkAndReception_2 : ∃ (s : State) (p : Fin 6) (express : Bool) (bytes : List Byte), Memory.wf s = true ∧ (getPort s p.val).enabled = true ∧
    (getPort s p.val).linkUp = true ∧ getFrame s s.pipe.nextFrame = none ∧
    rxNow s (2 * p.val + (express && fbit (rd s (pgMac p.val + Reg.MAC_PREEMPT)) 0).toNat) = none ∧ bytes.length < 260 ∧
    cellsFor (Nat.min bytes.length (maxFrame s p.val)) ≤ s.pipe.freeCells ∧ 
    passesHeadroom s p.val (rxClass s p.val bytes) (cellsFor (Nat.min bytes.length (maxFrame s p.val))) = false ∧
    18 ≤ bytes.length ∧ rxFlags bytes (maxFrame s p.val) false false = 0 ∧ isCtlFrame s p.val bytes = false ∧
    s.pipe.q0.length < 4096 :=
  ⟨portState 1, 1, true, List.replicate 60 0 ++ [0x08, 0x89, 0x12, 0x04], by decide +kernel⟩

theorem witness_LinkAndReception_3 : ∃ (s : State) (p : Fin 6) (express : Bool) (bytes : List Byte) (e : RxEnd), Memory.wf s = true ∧ (getPort s p.val).enabled = true ∧
    (getPort s p.val).linkUp = true ∧ getFrame s s.pipe.nextFrame = none ∧
    rxNow s (2 * p.val + (express && fbit (rd s (pgMac p.val + Reg.MAC_PREEMPT)) 0).toNat) = none ∧ bytes.length < 260 ∧
    cellsFor (Nat.min bytes.length (maxFrame s p.val)) ≤ s.pipe.freeCells ∧ 
    passesHeadroom s p.val (rxClass s p.val bytes) (cellsFor (Nat.min bytes.length (maxFrame s p.val))) = false ∧
    18 ≤ bytes.length ∧ badFlags (rxFlags bytes (maxFrame s p.val) (e.code || e.uncorrectable != 0)
      (e.assembly && fbit (rd s (pgMac p.val + Reg.MAC_PREEMPT)) 0)) = true ∧ badPass s p.val = false :=
  ⟨portState 1, 1, true, List.replicate 64 1, { RxEnd.clean with uncorrectable := 2 }, by decide +kernel⟩

theorem witness_LinkAndReception_4 : ∃ (s : State) (p : Fin 6), Memory.wf s = true ∧ (getPort s p.val).enabled = true ∧ (getPort s p.val).linkUp = true ∧
    getFrame s s.pipe.nextFrame = none ∧ rxNow s (2 * p.val + (fbit (rd s (pgMac p.val + Reg.MAC_PREEMPT)) 0).toNat) = none ∧
    64 ≤ maxFrame s p.val ∧ 1 ≤ s.pipe.freeCells ∧ fbit (rd s (pgMac p.val + Reg.MAC_RX_CTL)) 1 = false ∧
    fbit (rd s (pgMac p.val + Reg.MAC_FC)) 3 = true ∧
    (∀ c, c < 8 → passesHeadroom s p.val c 1 = false) ∧
    twf (fun _ => 0) (getPort s p.val).pausedTill = true ∧ fld (rd s (pgMac p.val + Reg.MAC_FC)) 1 0 = 1 :=
  ⟨pauseState 0x009, 0, by decide⟩

theorem witness_LinkAndReception_5 : ∃ (s : State) (p : Fin 6), Memory.wf s = true ∧ (getPort s p.val).enabled = true ∧ (getPort s p.val).linkUp = true ∧
    getFrame s s.pipe.nextFrame = none ∧ rxNow s (2 * p.val + (fbit (rd s (pgMac p.val + Reg.MAC_PREEMPT)) 0).toNat) = none ∧
    64 ≤ maxFrame s p.val ∧ 1 ≤ s.pipe.freeCells ∧ fbit (rd s (pgMac p.val + Reg.MAC_RX_CTL)) 1 = false ∧
    fbit (rd s (pgMac p.val + Reg.MAC_FC)) 3 = true ∧
    (∀ c, c < 8 → passesHeadroom s p.val c 1 = false) ∧
    twf (fun _ => 0) (getPort s p.val).pausedTill = true ∧ fld (rd s (pgMac p.val + Reg.MAC_FC)) 1 0 = 2 :=
  ⟨pauseState 0xFF0A, 0, by decide⟩

theorem witness_LinkAndReception_6 : ∃ (s : State) (p : Fin 6), Memory.wf s = true ∧ portUsable s p.val = true ∧ fbit (rd s (pgMac p.val + Reg.MAC_PREEMPT)) 0 = true :=
  ⟨wr (portState 0) (pgMac 0 + Reg.MAC_PREEMPT) 1, 0, by decide⟩

theorem witness_LinkAndReception_7 : ∃ (s : State) (p : Fin 6), Memory.wf s = true ∧ portUsable s p.val = true ∧ (getPort s p.val).xoff ≠ 0 ∧ macIdle s = false ∧
    passed s (getPort s p.val).xoffSent (fld (rd s (pgMac p.val + Reg.MAC_PFC_REFRESH)) 15 0) = true :=
  ⟨{ putPort (pauseState 0xFF0E) 0 { PortUnit.reset with enabled := true, linkUp := true, xoff := 1 } with
      tck := { State.reset.tck with boundaries := 70000 } }, 0, by decide⟩

theorem witness_HeaderSlotsAndWindows_1 : ∃ (s : State) (id : Nat) (l : List Nat) (f : Frame), Memory.wf s = true ∧ pipeRuns s = true ∧ (actingSlice s).isSome = true ∧
    s.pipe.q0 = id :: l ∧ canStart s (acct 1 0) 1 1 = true ∧ getFrame s id = some f ∧ f.bad = false ∧ f.port ≠ some 6 ∧
    f.port ≠ none ∧ f.windowPoisoned = true := ⟨slotState [0] [] [] { someFrame with poison := [1] }, 0, [], _, by decide, by decide, by decide, rfl, by decide,
    rfl, by decide⟩

theorem witness_HeaderSlotsAndWindows_2 : ∃ (s : State) (id : Nat) (l : List Nat), Memory.wf s = true ∧ pipeRuns s = true ∧ (actingSlice s).isSome = true ∧
    s.pipe.q0 = id :: l ∧ canStart s (acct 1 0) 1 1 = false ∧ (s.pipe.q1 = [] ∨ canStart s (acct 1 1) 1 1 = false) :=
  ⟨{ slotState [0] [] [] someFrame with cred := State.reset.cred }, 0, [], by decide⟩

theorem witness_HeaderSlotsAndWindows_3 : ∃ (s : State) (id : Nat) (l : List Header), Memory.wf s = true ∧ pipeRuns s = true ∧ (actingSlice s).isSome = true ∧
    s.pipe.q0 = [] ∧ s.pipe.q1 = .host id :: l ∧ canStart s (acct 1 1) 1 1 = true ∧ getFrame s id ≠ none :=
  ⟨slotState [] [.host 0] [] { someFrame with port := none }, 0, [], by decide⟩

theorem witness_HeaderSlotsAndWindows_4 : ∃ (s : State) (d : Desc) (l : List Reentry), Memory.wf s = true ∧ pipeRuns s = true ∧ (actingSlice s).isSome = true ∧
    s.pipe.q2 = .copy d :: l ∧ s.pipe.q2New < s.pipe.q2.length ∧ canStart s (acct 1 2) 1 1 = true :=
  ⟨slotState [] [] [.copy { someDesc with orig := false }] someFrame, _, [], by decide, by decide, by decide, rfl, by decide⟩

theorem witness_HeaderSlotsAndWindows_5 : ∃ (s : State) (via : Master) (a : Nat), Memory.wf s = true ∧ Manages via ∧ served s via true = true ∧ s.power.phase ≠ .recovery ∧
    (∃ x, target a = .window x) ∧ a < 0x4000000 := ⟨linkedState, .pf0, 0x7FFFFC, by decide, .inr rfl, by decide, by decide, ⟨_, rfl⟩, by decide⟩

theorem witness_HeaderSlotsAndWindows_6 : ∃ (s : State) (via : Master) (w : Word) (i k : Nat), Memory.wf s = true ∧ Manages via ∧ served s via true = true ∧
    s.power.phase ≠ .recovery ∧ i < 20480 ∧ k < 4 ∧ fbit (afterWrite s (winShaper + 32 * i) k 1 w) 24 = true ∧
    nodeReason s i (afterWrite s (winShaper + 32 * i) k 0 w) (afterWrite s (winShaper + 32 * i) k 1 w)
      (afterWrite s (winShaper + 32 * i) k 2 w) (afterWrite s (winShaper + 32 * i) k 3 w) = some 5 :=
  ⟨linkedState, .maint, 0x01000040, 17471, 1, by decide, .inl rfl, by decide⟩

theorem witness_HeaderSlotsAndWindows_7 : ∃ (s : State) (via : Master) (w : Word) (i k : Nat), Memory.wf s = true ∧ Manages via ∧ served s via true = true ∧
    s.power.phase ≠ .recovery ∧ i < 4096 ∧ k < 2 ∧ rd s (winPolicer + 32 * i + 24) = 0 ∧ rd s (winPolicer + 32 * i + 28) = 0 ∧ fbit (afterWrite s (winPolicer + 32 * i) k 1 w) 24 = true ∧
    fld (afterWrite s (winPolicer + 32 * i) k 1 w) 31 25 = 0 ∧ fld (afterWrite s (winPolicer + 32 * i) k 1 w) 23 0 < 64 ∧
    fbit (rd s (pgSch + Reg.SCH_ENTRY_ERR)) 31 = false := ⟨linkedState, .maint, 0x0100003F, 4095, 1, by decide, .inl rfl, by decide⟩

theorem witness_ExactMatchTable_1 : ∃ (s : State) (sl : SliceId) (via : Master) (p : Nat) (e : EmtEntry), Memory.wf s = true ∧ TblReady s sl via ∧
    emtFind s sl (sliceB (tblReq s sl) 0 32) = some (p, e) ∧ 2 ≤ learnLeft s sl ∧ lockOwner s sl = 0 ∧
    badEntry (sliceB (tblReq s sl) 0 32) (leAt (tblReq s sl) 36 2) = false ∧
    ∀ q, stashBase ≤ q → slotAt (setSlot (getTbl s sl) p none) q = none :=
  ⟨knownState, .ochre, .pf0, 104836, someEntry, by decide +kernel, ⟨⟨by decide, by decide⟩, .inr rfl, by decide, by decide, by decide +kernel⟩,
    by decide +kernel, by decide +kernel, by decide, by decide +kernel, fun q h => by
      rw [show setSlot (getTbl knownState .ochre) 104836 none = TblUnit.reset by decide +kernel]; rfl⟩

theorem witness_ExactMatchTable_2 : ∃ (s : State) (sl : SliceId) (via : Master) (p : Nat), Memory.wf s = true ∧ TblReady s sl via ∧
    emtFind s sl (sliceB (tblReq s sl) 0 32) = none ∧ 2 ≤ learnLeft s sl ∧ lockOwner s sl = 0 ∧
    badEntry (sliceB (tblReq s sl) 0 32) (leAt (tblReq s sl) 36 2) = false ∧
    emptyIn (getTbl s sl) 0 (bucketOf s sl 0 (sliceB (tblReq s sl) 0 32)) = some p :=
  ⟨tableState TblUnit.reset, .ochre, .pf0, 104836, by decide +kernel, ⟨⟨by decide, by decide⟩, .inr rfl, by decide, by decide, by decide +kernel⟩,
    by decide +kernel, by decide +kernel, by decide, by decide +kernel⟩

theorem witness_ExactMatchTable_3 : ∃ (s : State) (sl : SliceId) (via : Master) (a0 a1 : Word) (p : Nat) (e : EmtEntry), Memory.wf s = true ∧ TblReady s sl via ∧
    (p, some e) ∈ (getTbl s sl).emt ∧ slotAt (getTbl s sl) p = some e ∧ fld a0 18 0 ≤ p ∧ p < emtSlots ∧
    nextMatches a1 e = true ∧ fbit a1 12 = false ∧
    (∀ x ∈ (getTbl s sl).emt, fld a0 18 0 ≤ x.1 → (x.2.map (nextMatches a1)).getD false = true → p ≤ x.1) ∧
    p / 4 - fld a0 18 0 / 4 + 1 ≤ learnLeft s sl :=
  ⟨knownState, .ochre, .pf0, 0, 0, 104836, someEntry, by decide +kernel, ⟨⟨by decide, by decide⟩, .inr rfl, by decide, by decide, by decide +kernel⟩,
    by decide +kernel⟩

theorem witness_ExactMatchTable_4 : ∃ (s : State) (sl : SliceId) (via : Master), Memory.wf s = true ∧ TblReady s sl via ∧ lockOwner s sl = 0 ∧
    twf (fun _ => none) (getTbl s sl).emt = true ∧ 65552 + 2 * (getTbl s sl).emt.length ≤ learnLeft s sl ∧
    sourceKnown (fld 3 11 0) = true :=
  ⟨knownState, .ochre, .pf0, by decide +kernel, ⟨⟨by decide, by decide⟩, .inr rfl, by decide, by decide, by decide +kernel⟩, by decide +kernel⟩

theorem witness_ExactMatchTable_5 : ∃ (s : State) (sl : SliceId) (ev : LearnEvent) (rest : List LearnEvent), Memory.wf s = true ∧ sliceWorks s sl = true ∧
    (getTbl s sl).job = none ∧ 0 < learnLeft s sl ∧ (getTbl s sl).learnQ = ev :: rest ∧
    (getTbl s sl).learnNew < (getTbl s sl).learnQ.length ∧ lockOwner s sl ≠ 0 :=
  ⟨wr (learnState TblUnit.reset) (pgTbl .ochre + Reg.TBL_BULK_LOCK) 2, .ochre, _, _, by decide, by decide, by decide, by decide, rfl, by decide⟩

theorem witness_ExactMatchTable_6 : ∃ (s : State) (sl : SliceId) (ev : LearnEvent) (rest : List LearnEvent) (p : Nat) (e : EmtEntry), Memory.wf s = true ∧
    sliceWorks s sl = true ∧ (getTbl s sl).job = none ∧ 0 < learnLeft s sl ∧ (getTbl s sl).learnQ = ev :: rest ∧
    (getTbl s sl).learnNew < (getTbl s sl).learnQ.length ∧ lockOwner s sl = 0 ∧ (getTbl s sl).freed = [] ∧ ageDue s sl = false ∧
    emtFind s sl ev.key = some (p, e) ∧ e.fixed = true :=
  ⟨learnState { TblUnit.reset with emt := [(104836, some { someEntry with fixed := true })] }, .ochre, ⟨someEntry.key, none, [0, 0, 0, 0]⟩, [],
    104836, { someEntry with fixed := true }, by decide +kernel, by decide,
    by decide, by decide +kernel, rfl, by decide, by decide, by decide, by decide, by decide +kernel, rfl⟩

theorem witness_ExactMatchTable_7 : ∃ (s : State) (sl : SliceId) (ev : LearnEvent) (rest : List LearnEvent) (p : Nat), Memory.wf s = true ∧
    sliceWorks s sl = true ∧ (getTbl s sl).job = none ∧ 0 < learnLeft s sl ∧ (getTbl s sl).learnQ = ev :: rest ∧
    (getTbl s sl).learnNew < (getTbl s sl).learnQ.length ∧ lockOwner s sl = 0 ∧ (getTbl s sl).freed = [] ∧ ageDue s sl = false ∧
    emtFind s sl ev.key = none ∧
    learnedOf (getTbl s sl) (argSource (learnArg ev.source)) < learnLimit s sl (argSource (learnArg ev.source)) ∧
    emptyIn (getTbl s sl) 0 (bucketOf s sl 0 ev.key) = some p :=
  ⟨learnState TblUnit.reset, .ochre, ⟨someEntry.key, none, [0, 0, 0, 0]⟩, [], 104836, by decide +kernel, by decide,
    by decide, by decide +kernel, rfl, by decide, by decide, by decide, by decide, by decide +kernel, by decide +kernel, by decide +kernel⟩

theorem witness_ExactMatchTable_8 : ∃ (s : State) (sl : SliceId), Memory.wf s = true ∧ sliceWorks s sl = true ∧ (getTbl s sl).job = none ∧ 0 < learnLeft s sl ∧
    ageDue s sl = true ∧ lockOwner s sl = 0 ∧ (getTbl s sl).freed = [] ∧ twf (fun _ => none) (getTbl s sl).emt = true ∧
    (getTbl s sl).ageGroup + 1 < 65552 :=
  ⟨{ tableState { TblUnit.reset with emt := [(0, some someEntry)], ageAt := some 0 } with tck := { State.reset.tck with boundaries := 9 } },
    .ochre, by decide +kernel⟩

theorem witness_ExactMatchTable_9 : ∃ (s : State) (sl : SliceId) (p q : Nat) (rest : List Nat), Memory.wf s = true ∧ (getTbl s sl).freed = p :: rest ∧
    (getTbl s sl).job = none ∧ lockOwner s sl = 0 ∧ 2 ≤ learnLeft s sl ∧ drainFrom s sl p = some q :=
  ⟨tableState { TblUnit.reset with freed := [104836], emt := [(stashBase + 9, some someEntry)] }, .ochre, 104836, stashBase + 9, [], by decide +kernel⟩

theorem witness_LpmAndBulk_1 : ∃ (s : State) (sl : SliceId) (via : Master), Memory.wf s = true ∧ TblReady s sl via ∧ lockOwner s sl = 0 ∧
    (lpmReq (tblReq s sl)).bad = false ∧ rowsOf (lpmReq (tblReq s sl)).v6 (lpmReq (tblReq s sl)).len = 1 ∧
    lpmIndex (lpmReq (tblReq s sl)) (getTbl s sl).lpm 0 = none ∧ (getTbl s sl).lpm.length < 16384 ∧
    (getTbl s sl).lpm.length + 3 ≤ learnLeft s sl :=
  ⟨lpmState [], .ochre, .pf0, by decide +kernel, ⟨⟨by decide, by decide⟩, .inr rfl, by decide, by decide, by decide +kernel⟩, by decide +kernel⟩

theorem witness_LpmAndBulk_2 : ∃ (s : State) (sl : SliceId) (via : Master) (i : Nat) (h : LpmHit), Memory.wf s = true ∧ TblReady s sl via ∧ lockOwner s sl = 0 ∧
    (lpmReq (tblReq s sl)).bad = false ∧ lpmIndex (lpmReq (tblReq s sl)) (getTbl s sl).lpm 0 = some i ∧
    (getTbl s sl).lpm.length + 3 ≤ learnLeft s sl ∧ hitAt (getTbl s sl).lpm i = some h ∧
    lpmLookup s sl (lpmReq (tblReq s sl)).vrf (lpmReq (tblReq s sl)).v6 (lpmReq (tblReq s sl)).addr = some h ∧
    (getTbl s sl).lpm[fld 0 13 0]? ≠ none :=
  ⟨lpmState [someRow], .ochre, .pf0, 0, ⟨0, 5, 7, 16, 0x0A010000000000000000000000000000⟩, by decide +kernel, ⟨⟨by decide, by decide⟩, .inr rfl,
    by decide, by decide, by decide +kernel⟩, by decide +kernel⟩

theorem witness_LpmAndBulk_3 : ∃ (s : State) (sl : SliceId) (via : Master) (a0 a1 a2 : Word), Memory.wf s = true ∧ TblReady s sl via ∧ lockOwner s sl ≠ 0 ∧
    lockOwner s sl = ownerCode via ∧ bulkArgs s a0 a1 a2 = true ∧ s.red.accepted = some sl ∧ 65552 ≤ learnLeft s sl ∧
    20 * fld a2 18 0 ≤ learnLeft s sl ∧ ∀ x ∈ (getTbl s sl).emt, x.1 < emtSlots ∧ x.2 ≠ none :=
  ⟨bulkState, .ochre, .pf0, 64, 0, 1, by decide +kernel, ⟨⟨by decide, by decide⟩, .inr rfl,
    by decide, by decide, by decide +kernel⟩, by decide +kernel⟩

theorem witness_LpmAndBulk_4 : ∃ (s : State) (a0 a1 a2 : Word), Memory.wf s = true ∧ bulkArgs s a0 a1 a2 = true ∧
    ∀ x ∈ (bulkRead (fld a2 18 0) s (bulkAddr a0 a1)).2, x.2 = false ∧ badRecordOf x.1 = false :=
  ⟨bulkState, 64, 0, 1, by decide +kernel⟩

theorem witness_LpmAndBulk_5 : ∃ (s : State) (sl : SliceId) (row : Fin 16384) (r : LpmRow), Memory.wf s = true ∧ (getTbl s sl).lpm[row.val]? = some r :=
  ⟨lpmState [someRow], .ochre, 0, someRow, by decide +kernel, rfl⟩

theorem witness_SelectionAndSpill_1 : ∃ (s : State) (p : Fin 7) (c : Nat) (d : Desc) (l : List Desc), Memory.wf s = true ∧ gkOpen s = true ∧
    canStart s (acct 7 p.val) 1 1 = true ∧ portWants s p.val = true ∧
    (∀ c, c < 8 → classReady s p.val c = true → neverFits s p.val c = false) ∧ c ∈ eligible s p.val ∧
    fifoOf s (8 * p.val + c) = d :: l ∧ (∀ x ∈ eligible s p.val, isStrict s p.val x = false) ∧
    (∀ x, x < 8 → (getNode s (classNode p.val x)).waited = false) ∧ (∀ x ∈ eligible s p.val, x ≠ c →
      tagBefore (getNode s (classNode p.val c)).tag (getNode s (classNode p.val x)).tag = true ∨
      (getNode s (classNode p.val c)).tag = (getNode s (classNode p.val x)).tag ∧ c < x) ∧ sentLen s d = some 76 ∧ d.enc = none :=
  ⟨selectState [(3, 10), (5, 7)] [], 0, 5, wiredDesc 5, [], by decide, by decide, by decide, by decide, by decide, by decide, rfl,
    by decide, by decide, by decide, by decide, rfl⟩

theorem witness_SelectionAndSpill_2 : ∃ (s : State) (p : Fin 7) (c : Nat) (d : Desc) (l : List Desc), Memory.wf s = true ∧ gkOpen s = true ∧
    canStart s (acct 7 p.val) 1 1 = true ∧ portWants s p.val = true ∧
    (∀ c, c < 8 → classReady s p.val c = true → neverFits s p.val c = false) ∧ c ∈ eligible s p.val ∧
    fifoOf s (8 * p.val + c) = d :: l ∧ isStrict s p.val c = true ∧
    (∀ x ∈ eligible s p.val, isStrict s p.val x = true → x ≤ c) ∧ (∃ x ∈ eligible s p.val, c < x) ∧
    nodeRate s (classNode p.val c) ≠ 0 :=
  ⟨strictState, 0, 5, wiredDesc 5, [], by decide, by decide, by decide, by decide, by decide, by decide, rfl,
    by decide, by decide, by decide, by decide⟩

theorem witness_SelectionAndSpill_3 : ∃ (s : State) (p : Fin 7) (c : Nat) (d : Desc) (l : List Desc), Memory.wf s = true ∧ gkOpen s = true ∧
    canStart s (acct 7 p.val) 1 1 = true ∧ portWants s p.val = true ∧ c < 8 ∧ classReady s p.val c = true ∧
    neverFits s p.val c = true ∧ (∀ x, x < c → classReady s p.val x = true → neverFits s p.val x = false) ∧
    fifoOf s (8 * p.val + c) = d :: l :=
  ⟨selectState [(3, 10), (5, 7)] [0x108], 0, 5, wiredDesc 5, [], by decide, by decide, by decide, by decide, by decide, by decide,
    by decide, by decide, rfl⟩

theorem witness_SelectionAndSpill_4 : ∃ (s : State) (p : Fin 7), Memory.wf s = true ∧ canStart s (acct 7 p.val) 1 1 = false := ⟨State.reset, 0, by decide⟩

theorem witness_SelectionAndSpill_5 : ∃ (s : State) (p : Fin 7) (c : Fin 8) (d : Desc) (l : List Desc) (f : Frame), Memory.wf s = true ∧ gkOpen s = true ∧
    spillQOf s (8 * p.val + c.val) = d :: l ∧ getFrame s d.view.frame = some f ∧ f.whole = true ∧
    ringUsed s (8 * p.val + c.val) + cellsFor (viewBytes f d.view).length ≤ ringCells s ∧
    dramRange s (ringBase s (8 * p.val + c.val)) (spillSlot s * 2 ^ 20) = true ∧
    spillMay s (spillBursts s (8 * p.val + c.val) (tget (fun _ => 0) s.sched.ringTail (8 * p.val + c.val))
      (viewBytes f d.view).length) true = true :=
  ⟨spillState 1 [], 0, 3, wiredDesc 3, [], someFrame, by decide, by decide, rfl, rfl, rfl, by decide, by decide, by decide⟩

theorem witness_SelectionAndSpill_6 : ∃ (s : State) (p : Fin 7) (c : Fin 8) (d : Desc) (l : List Desc) (f : Frame), Memory.wf s = true ∧ gkOpen s = true ∧
    spillQOf s (8 * p.val + c.val) = d :: l ∧ getFrame s d.view.frame = some f ∧ f.whole = true ∧
    ringCells s < ringUsed s (8 * p.val + c.val) + cellsFor (viewBytes f d.view).length :=
  ⟨spillState 0 [], 0, 3, wiredDesc 3, [], someFrame, by decide, by decide, rfl, rfl, rfl, by decide⟩

theorem witness_SelectionAndSpill_7 : ∃ (s : State) (p : Fin 7) (c : Fin 8) (x : Spilled) (l : List Spilled), Memory.wf s = true ∧ gkOpen s = true ∧
    ringOf s (8 * p.val + c.val) = x :: l ∧ (getNode s (backNode (8 * p.val + c.val))).occ = 0 ∧ x.cells ≤ s.pipe.freeCells ∧
    x.desc.port = p.val ∧ x.desc.cls = c.val ∧
    spillMay s (spillBursts s (8 * p.val + c.val) x.pos x.frame.data.length) false = true :=
  ⟨spillState 1 [⟨wiredDesc 3, { someFrame with cells := 0 }, 4, 1⟩], 0, 3, _, [], by decide, by decide, rfl, by decide, by decide, rfl, rfl,
    by decide⟩

theorem witness_FramesTransmitted_1 : ∃ (s : State) (p : Fin 7) (cyc : Nat) (d : Desc) (l : List Desc), Memory.wf s = true ∧ p.val < 6 ∧ macIdle s = false ∧
    (getPort s p.val).held = d :: l ∧ portUsable s p.val = true ∧ fbit (rd s (pgMac p.val + Reg.MAC_PREEMPT)) 0 = false ∧
    (getPort s p.val).sending = none ∧ (∀ x ∈ d :: l, (sentLen s x).getD 0 ≤ maxFrame s p.val) ∧ macLets s p.val cyc d = true :=
  ⟨heldState 2 true, 2, 5, wiredDesc 3, [], by decide, by decide, by decide, rfl, by decide, by decide, by decide, by decide, by decide⟩

theorem witness_FramesTransmitted_2 : ∃ (s : State) (p : Fin 7) (d : Desc) (l : List Desc), Memory.wf s = true ∧ p.val < 6 ∧ macIdle s = false ∧
    (getPort s p.val).held = d :: l ∧ portUsable s p.val = false :=
  ⟨heldState 2 false, 2, wiredDesc 3, [], by decide, by decide, by decide, rfl, by decide⟩

theorem witness_FramesTransmitted_3 : ∃ (s : State) (p : Fin 7) (d : Desc) (f : Frame), Memory.wf s = true ∧ p.val < 6 ∧ (getPort s p.val).sending = some d ∧
    (getPort s p.val).preempted = none ∧ (getPort s p.val).resumed = false ∧ getFrame s d.view.frame = some f ∧ d.cut = none ∧
    f.whole = true ∧ f.bad = false ∧ f.mismatch = false ∧ viewPoisoned f d.view = false :=
  ⟨sendingState 2 someFrame, 2, wiredDesc 3, someFrame, by decide, by decide, rfl, rfl, rfl, rfl, rfl, by decide⟩

theorem witness_FramesTransmitted_4 : ∃ (s : State) (p : Fin 7) (d : Desc) (f : Frame), Memory.wf s = true ∧ p.val < 6 ∧ (getPort s p.val).sending = some d ∧
    (getPort s p.val).preempted = none ∧ (getPort s p.val).resumed = false ∧ getFrame s d.view.frame = some f ∧ d.cut = none ∧
    f.whole = true ∧ viewPoisoned f d.view = true :=
  ⟨sendingState 2 { someFrame with poison := [0] }, 2, wiredDesc 3, _, by decide, by decide, rfl, rfl, rfl, rfl, rfl, by decide⟩

theorem witness_FramesTransmitted_5 : ∃ (s : State) (d : Desc) (l : List Desc), Memory.wf s = true ∧ macIdle s = false ∧ (getPort s 6).held = d :: l ∧
    (getPort s 6).sending = none ∧ s.cbp.backoff = none ∧ s.cbp.deferring = false ∧ s.cbp.plcaActive = false ∧ cbpUsable s = true ∧
    (sentLen s d).getD 0 ≤ maxFrame s 6 ∧ s.cbp.counted = false :=
  ⟨busState (heldState 6 true), wiredDesc 3, [], by decide, by decide, rfl, by decide⟩

theorem witness_FramesTransmitted_6 : ∃ (s : State) (d : Desc) (f : Frame), Memory.wf s = true ∧ (getPort s 6).sending = some d ∧ getFrame s d.view.frame = some f ∧
    f.whole = true ∧ spoiled f d = false :=
  ⟨busState (sendingState 6 someFrame), wiredDesc 3, someFrame, by decide, rfl, rfl, by decide⟩

theorem witness_FramesTransmitted_7 : ∃ (s : State) (d : Desc) (f : Frame), Memory.wf s = true ∧ (getPort s 6).sending = some d ∧ getFrame s d.view.frame = some f ∧
    f.bad = true := ⟨busState (sendingState 6 { someFrame with bad := true }), wiredDesc 3, _, by decide, rfl, rfl, rfl⟩

theorem witness_FramesTransmitted_8 : ∃ s : State, Memory.wf s = true ∧ macIdle s = true := ⟨{ State.reset with power := { State.reset.power with phase := .recovery } }, by decide⟩

theorem witness_CabinetBus_1 : ∃ (s : State) (via : Master), Memory.wf s = true ∧ Manages via ∧ PageReady s pgCbp via ∧ linkPhases s.power.phase = true ∧
    s.cbp.enabled = false ∧ cbpCheck s = none ∧ overReserve s 1 = false :=
  ⟨wr State.reset (pgCbp + Reg.CBP_MAX_FRAME) 1522, .pf0, by decide, .inr rfl, ⟨rfl, rfl⟩, by decide⟩

theorem witness_CabinetBus_2 : ∃ (s : State) (o : Nat), Memory.wf s = true ∧ s.cbp.enabled = false ∧ cbpCheck s = some o :=
  ⟨wr State.reset (pgCbp + Reg.CBP_MAX_FRAME) 63, Reg.CBP_MAX_FRAME, by decide⟩

theorem witness_CabinetBus_3 : ∃ (s : State) (via : Master), Memory.wf s = true ∧ Manages via ∧ PageReady s pgCbp via ∧ linkPhases s.power.phase = true ∧
    s.cbp.enabled = true := ⟨busState State.reset, .pf0, by decide, .inr rfl, ⟨rfl, rfl⟩, by decide⟩

theorem witness_CabinetBus_4 : ∃ (s : State) (bytes : List Byte), Memory.wf s = true ∧ s.cbp.enabled = true ∧ (getPort s 6).sending = none ∧ 18 ≤ bytes.length ∧
    badFlags (rxFlags bytes (maxFrame s 6) false false) = false ∧ beAt bytes 12 2 ≠ 0x8808 ∧
    cellsFor (Nat.min bytes.length (maxFrame s 6)) ≤ s.pipe.freeCells ∧ s.pipe.q0.length < 4096 :=
  ⟨busState State.reset, List.replicate 60 0 ++ [0x08, 0x89, 0x12, 0x04], by decide +kernel⟩

theorem witness_CabinetBus_5 : ∃ (s : State) (bytes : List Byte), Memory.wf s = true ∧ s.cbp.enabled = true ∧ (getPort s 6).sending = none ∧ 18 ≤ bytes.length ∧
    badFlags (rxFlags bytes (maxFrame s 6) false false) = false ∧ beAt bytes 12 2 = 0x8808 :=
  ⟨busState State.reset, withFcs (List.replicate 12 0 ++ [0x88, 0x08] ++ List.replicate 46 0), by decide +kernel⟩

theorem witness_CabinetBus_6 : ∃ (s : State) (bytes : List Byte), Memory.wf s = true ∧ s.cbp.enabled = true ∧ (getPort s 6).sending = none ∧ 18 ≤ bytes.length ∧
    badFlags (rxFlags bytes (maxFrame s 6) true false) = true :=
  ⟨busState State.reset, List.replicate 60 0 ++ [0x08, 0x89, 0x12, 0x04], by decide +kernel⟩

theorem witness_CabinetBus_7 : ∃ (s : State) (bitTime : Nat) (d : Desc), Memory.wf s = true ∧ (getPort s 6).sending = some d ∧ s.cbp.plcaActive = false ∧ bitTime ≤ 512 ∧
    s.cbp.attempts + 1 < 16 := ⟨busState (sendingState 6 someFrame), 512, wiredDesc 3, by decide, rfl, by decide⟩

theorem witness_CabinetBus_8 : ∃ (s : State) (d : Desc), Memory.wf s = true ∧ (getPort s 6).sending = some d ∧ 16 ≤ s.cbp.attempts + 1 :=
  ⟨{ sendingState 6 someFrame with cbp := { (busState State.reset).cbp with attempts := 15 } }, wiredDesc 3, by decide, rfl, by decide⟩

theorem witness_CabinetBus_9 : ∃ (s : State) (r : Nat), Memory.wf s = true ∧ s.cbp.backoff = some r ∧ s.cbp.lfsrAt + 81920 * r ≤ s.tck.cycles + s.tck.len :=
  ⟨{ busState State.reset with cbp := { (busState State.reset).cbp with backoff := some 1 }
                               tck := { State.reset.tck with cycles := 81920 } }, 1, by decide⟩

theorem witness_CabinetBus_10 : ∃ (s : State) (r : Nat), Memory.wf s = true ∧ s.cbp.backoff = some r ∧ s.tck.cycles + s.tck.len < s.cbp.lfsrAt + 81920 * r :=
  ⟨{ busState State.reset with cbp := { (busState State.reset).cbp with backoff := some 1 } }, 1, by decide⟩

theorem witness_CabinetBus_11 : ∃ s : State, Memory.wf s = true ∧ s.cbp.enabled = true ∧ cbpPlcaEn s = true ∧ cbpNode s ≠ 0 ∧ (getPort s 6).sending = none ∧
    s.cbp.txClk = true := ⟨wr (wr (busState State.reset) (pgCbp + Reg.CBP_MODE) 1) (pgCbp + Reg.CBP_PLCA) 0x0203, by decide⟩

theorem witness_CabinetBus_12 : ∃ s : State, Memory.wf s = true ∧ cbpCoordinator s = true ∧ cbpUsable s = true ∧ macIdle s = false :=
  ⟨wr (wr (busState State.reset) (pgCbp + Reg.CBP_MODE) 1) (pgCbp + Reg.CBP_PLCA) 0x0200, by decide⟩

theorem witness_CabinetBus_13 : ∃ (s : State) (d : Desc) (l : List Desc), Memory.wf s = true ∧ macIdle s = false ∧ s.cbp.plcaActive = true ∧ cbpUsable s = true ∧
    (getPort s 6).sending = none ∧ s.cbp.opportunity = cbpNode s ∧ (getPort s 6).held = d :: l ∧
    (sentLen s d).getD 0 ≤ maxFrame s 6 ∧ s.cbp.burst ≤ cbpBurst s :=
  ⟨plcaState 3, wiredDesc 3, [], by decide, by decide, rfl, by decide, by decide, by decide, rfl, by decide⟩

theorem witness_CabinetBus_14 : ∃ s : State, Memory.wf s = true ∧ macIdle s = false ∧ s.cbp.plcaActive = true ∧ cbpUsable s = true ∧ (getPort s 6).sending = none ∧
    s.cbp.opportunity ≠ cbpNode s := ⟨plcaState 255, by decide⟩

theorem witness_CabinetBus_15 : ∃ s : State, Memory.wf s = true ∧ s.cbp.plcaActive = true ∧ cbpCoordinator s = false ∧
    passed s s.cbp.beaconAt (boundariesIn s 400000) = true :=
  ⟨{ plcaState 3 with tck := { State.reset.tck with boundaries := 70000 } }, by decide⟩

theorem witness_AssociationsAndKeys_1 : ∃ (s : State) (via : Master) (t : Fin 1024) (a : Fin 32) (w : Word), Memory.wf s = true ∧ Manages via ∧ served s via true = true ∧
    s.power.phase ≠ .recovery ∧ fbit w 0 = true ∧ fbit (rd s (saBase t.val a.val)) 0 = false ∧
    saCheck (wr s (saBase t.val a.val) w) t.val (saWritten (wr s (saBase t.val a.val) w) t.val a.val) = none :=
  ⟨saState 0x030C0040, .maint, 1, 2, 0x030C0041, by decide, .inl rfl, by decide⟩

theorem witness_AssociationsAndKeys_2 : ∃ (s : State) (via : Master) (t : Fin 1024) (a : Fin 32) (w : Word), Memory.wf s = true ∧ Manages via ∧ served s via true = true ∧
    s.power.phase ≠ .recovery ∧ fbit w 0 = true ∧ fbit (rd s (saBase t.val a.val)) 0 = false ∧
    saCheck (wr s (saBase t.val a.val) w) t.val (saWritten (wr s (saBase t.val a.val) w) t.val a.val) = some 3 ∧
    fbit (rd s (pgTenCip t.val + Reg.CP_SA_ERR)) 31 = false :=
  ⟨saState 0x030C0040, .maint, 1, 2, 0x040C0041, by decide, .inl rfl, by decide⟩

theorem witness_AssociationsAndKeys_3 : ∃ (s : State) (via : Master) (t : Fin 1024) (a : Fin 32), Memory.wf s = true ∧ Manages via ∧ served s via true = true ∧
    s.power.phase ≠ .recovery ∧ fbit (rd s (saBase t.val a.val)) 0 = true := ⟨saState 0x030C0041, .maint, 1, 2, by decide, .inl rfl, by decide⟩

theorem witness_AssociationsAndKeys_4 : ∃ (s : State) (sl : SliceId) (k : KeyReq) (h : KeyHalf), Memory.wf s = true ∧ sliceWorks s sl = true ∧
    s.cip.keyQ.find? (fun x => x.slice == sl) = some k ∧ k.entry < 32768 ∧ 12 ≤ energyLeft s (acct 4 k.acct) ∧
    saValid s (k.entry / 32) (k.entry % 32) = true ∧
    fbit (rd s (pgTenCip (k.entry / 32) + Reg.CP_SLOTS)) (saSlot (saBytes s (k.entry / 32) (k.entry % 32))) = true ∧
    (getSlot s (saSlot (saBytes s (k.entry / 32) (k.entry % 32)))).half = some h ∧ keyCheck h = h.check :=
  ⟨kdfState [⟨.ochre, 34, 0⟩] [], .ochre, ⟨.ochre, 34, 0⟩, ⟨7, 1, 0x41, 0xA8D48275⟩, by decide +kernel⟩

theorem witness_AssociationsAndKeys_5 : ∃ (s : State) (sl : SliceId) (k : KeyReq), Memory.wf s = true ∧ sliceWorks s sl = true ∧
    s.cip.keyQ.find? (fun x => x.slice == sl) = some k ∧ k.entry < 32768 ∧ 12 ≤ energyLeft s (acct 4 k.acct) ∧
    saValid s (k.entry / 32) (k.entry % 32) = false := ⟨kdfState [⟨.ochre, 35, 0⟩] [], .ochre, ⟨.ochre, 35, 0⟩, by decide⟩

theorem witness_AssociationsAndKeys_6 : ∃ (s : State) (sl : SliceId) (k : KeyReq), Memory.wf s = true ∧ sliceWorks s sl = true ∧
    s.cip.keyQ.find? (fun x => x.slice == sl) = some k ∧ energyLeft s (acct 4 k.acct) < 12 :=
  ⟨kdfState [⟨.ochre, 34, 1⟩] [], .ochre, ⟨.ochre, 34, 1⟩, by decide⟩

theorem witness_AssociationsAndKeys_7 : ∃ (s : State) (sl : SliceId) (w : WarmJob) (e : Nat) (rest : List Nat) (h : KeyHalf), Memory.wf s = true ∧ sliceWorks s sl = true ∧
    s.cip.keyQ.find? (fun x => x.slice == sl) = none ∧ s.cip.warm.find? (fun x => x.slice == sl) = some w ∧ w.left = e :: rest ∧
    rest ≠ [] ∧ e < 32768 ∧ cached s sl e = [] ∧ 12 ≤ energyLeft s (acct 4 0) ∧ saValid s (e / 32) (e % 32) = true ∧
    fbit (rd s (pgTenCip (e / 32) + Reg.CP_SLOTS)) (saSlot (saBytes s (e / 32) (e % 32))) = true ∧
    (getSlot s (saSlot (saBytes s (e / 32) (e % 32)))).half = some h ∧ keyCheck h = h.check :=
  ⟨kdfState [] [⟨.ochre, [34, 35], 0, 0⟩], .ochre, _, 34, [35], ⟨7, 1, 0x41, 0xA8D48275⟩, by decide, by decide, by decide, rfl, rfl,
    by decide +kernel⟩

theorem witness_AssociationsAndKeys_8 : ∃ (s : State) (sl : SliceId) (via : Master), Memory.wf s = true ∧ Manages via ∧ PageReady s (pgCip sl) via ∧ s.power.phase ≠ .recovery ∧
    (∀ w ∈ s.cip.warm, w.slice ≠ sl) ∧ ((List.range 32).map (fun x => 32 * fld 1 9 0 + x)).filter
      (fun e => saValid s (e / 32) (e % 32) && (cached s sl e).isEmpty) ≠ [] :=
  ⟨saState 0x030C0041, .slate, .pf0, by decide, .inr rfl, ⟨rfl, rfl⟩, by decide⟩

theorem witness_AssociationsAndKeys_9 : ∃ (s : State) (sl : SliceId) (via : Master), Memory.wf s = true ∧ Manages via ∧ PageReady s (pgCip sl) via ∧ s.power.phase ≠ .recovery ∧
    (∀ w ∈ s.cip.warm, w.slice ≠ sl) ∧ ((List.range 32).map (fun x => 32 * fld 2 9 0 + x)).filter
      (fun e => saValid s (e / 32) (e % 32) && (cached s sl e).isEmpty) = [] :=
  ⟨saState 0x030C0041, .slate, .pf0, by decide, .inr rfl, ⟨rfl, rfl⟩, by decide⟩

theorem witness_FramesUnderCipher_1 : ∃ (s : State) (c : Fin 8) (r : DecReq) (f : Frame) (u : InUnit), Memory.wf s = true ∧ gkOpen s = true ∧
    s.pipe.decQ.find? (fun x => x.cls == c.val && x.stage == .wait) = some r ∧ getDec s r.view.frame = some r ∧
    getFrame s r.view.frame = some f ∧ f.whole = true ∧ draining s = false ∧ r.sa.tenant < 1024 ∧
    judgeUnit s r f = .unit u ∧ cached s s.worker (32 * r.sa.tenant + r.sa.sa) ≠ [] ∧
    holdOf s c.val + cellsFor u.plain ≤ fld (rdEff s (pgCip s.worker + Reg.CIP_HOLD_LIMIT + 4 * c.val)) 14 0 ∧
    holdAll s + cellsFor u.plain ≤ 16384 ∧ lanesBusy s < 8 ∧
    unitBlocks u.aad.length u.text.length ≤ blocksLeft s (cipAccount r.sa) :=
  ⟨cipherState 0x030C0041 (List.replicate 16 0) sealedFrame [decReq .wait] [], 0, decReq .wait, sealedFrame,
    ⟨List.replicate 8 0 ++ beBytes 4 1, sealedFrame.data.take 20, (sealedFrame.data.drop 20).take 4, sealedFrame.data.drop 24, 1, 16⟩,
    by decide⟩

theorem witness_FramesUnderCipher_2 : ∃ (s : State) (c : Fin 8) (r : DecReq) (f : Frame), Memory.wf s = true ∧ gkOpen s = true ∧
    s.pipe.decQ.find? (fun x => x.cls == c.val && x.stage == .wait) = some r ∧ getDec s r.view.frame = some r ∧
    getFrame s r.view.frame = some f ∧ f.whole = true ∧ draining s = false ∧ r.sa.tenant < 1024 ∧
    judgeUnit s r f ≠ .bad 2 ∧ cached s s.worker (32 * r.sa.tenant + r.sa.sa) = [] :=
  ⟨cipherState 0x030C0041 [] sealedFrame [decReq .wait] [], 0, decReq .wait, sealedFrame, by decide⟩

theorem witness_FramesUnderCipher_3 : ∃ (s : State) (c : Fin 8) (r : DecReq) (f : Frame), Memory.wf s = true ∧ gkOpen s = true ∧
    s.pipe.decQ.find? (fun x => x.cls == c.val && x.stage == .wait) = some r ∧ getDec s r.view.frame = some r ∧
    getFrame s r.view.frame = some f ∧ f.whole = true ∧ draining s = false ∧ r.sa.tenant < 1024 ∧
    judgeUnit s r f = .bad 5 ∧ cached s s.worker (32 * r.sa.tenant + r.sa.sa) ≠ [] :=
  ⟨cipherState 0x030C0041 (List.replicate 16 0) someFrame [decReq .wait] [], 0, decReq .wait, someFrame, by decide⟩

theorem witness_FramesUnderCipher_4 : ∃ (s : State) (frame : Nat) (r : DecReq) (f : Frame) (x : Seal) (cells : Nat), Memory.wf s = true ∧ gkOpen s = true ∧
    getDec s frame = some r ∧ getFrame s frame = some f ∧ r.stage = .started x cells ∧ r.sa.tenant < 1024 ∧
    blocksLeft s (cipAccount r.sa) < x.owed :=
  ⟨cipherState 0x030C0041 [] sealedFrame [decReq (.started (inSeal 10) 1)] [], 0, _, sealedFrame, inSeal 10, 1, by decide, by decide, rfl, rfl,
    rfl, by decide⟩

theorem witness_FramesUnderCipher_5 : ∃ (s : State) (frame : Nat) (r : DecReq) (f : Frame) (x : Seal) (cells la : Nat) (u : InUnit), Memory.wf s = true ∧ gkOpen s = true ∧
    getDec s frame = some r ∧ getFrame s frame = some f ∧ r.stage = .started x cells ∧ r.sa.tenant < 1024 ∧
    x.owed ≤ blocksLeft s (cipAccount r.sa) ∧ r.sa.esp = false ∧ r.layers.getD (saLayer x.bytes) none = some la ∧
    judgeMacsec x.bytes x.pn la (la + saOff x.bytes) (viewData f r.view) = .unit u ∧
    gcmOpen x.key (macsecNonce x.bytes (u.nonce.take 8) x.pn) u.aad u.text u.tag = some [1, 2, 3, 4] ∧ x.sa = r.sa ∧
    saValid s r.sa.tenant r.sa.sa = true ∧ saBytes s r.sa.tenant r.sa.sa = x.bytes ∧ saProto x.bytes = 0 ∧
    replayOk s (32 * r.sa.tenant + r.sa.sa) x.bytes x.pn = true :=
  ⟨cipherState 0x030C0041 [] sealedFrame [decReq (.started (inSeal 9) 1)] [], 0, decReq (.started (inSeal 9) 1), sealedFrame, inSeal 9, 1, 0,
    ⟨List.replicate 8 0 ++ beBytes 4 1, sealedFrame.data.take 20, (sealedFrame.data.drop 20).take 4, sealedFrame.data.drop 24, 1, 16⟩,
    by decide +kernel⟩

theorem witness_FramesUnderCipher_6 : ∃ (s : State) (frame : Nat) (r : DecReq) (f : Frame) (x : Seal) (cells la : Nat) (u : InUnit), Memory.wf s = true ∧ gkOpen s = true ∧
    getDec s frame = some r ∧ getFrame s frame = some f ∧ r.stage = .started x cells ∧ r.sa.tenant < 1024 ∧
    x.owed ≤ blocksLeft s (cipAccount r.sa) ∧ r.sa.esp = false ∧ r.layers.getD (saLayer x.bytes) none = some la ∧
    judgeMacsec x.bytes x.pn la (la + saOff x.bytes) (viewData f r.view) = .unit u ∧
    gcmOpen x.key (macsecNonce x.bytes (u.nonce.take 8) x.pn) u.aad u.text u.tag = none :=
  ⟨cipherState 0x030C0041 [] sealedFrame [decReq (.started { inSeal 9 with key := List.replicate 16 1 } 1)] [], 0,
    decReq (.started { inSeal 9 with key := List.replicate 16 1 } 1), sealedFrame, { inSeal 9 with key := List.replicate 16 1 }, 1, 0,
    ⟨List.replicate 8 0 ++ beBytes 4 1, sealedFrame.data.take 20, (sealedFrame.data.drop 20).take 4, sealedFrame.data.drop 24, 1, 16⟩,
    by decide +kernel⟩

theorem witness_FramesUnderCipher_7 : ∃ (s : State) (frame : Nat) (r : DecReq) (f : Frame) (data : List Byte) (tun : Bool) (cells : Nat), Memory.wf s = true ∧ gkOpen s = true ∧
    getDec s frame = some r ∧ getFrame s frame = some f ∧ r.stage = .verified data tun cells ∧ r.sa.tenant < 1024 ∧
    frame ≠ s.pipe.nextFrame ∧
    s.pipe.decQ.find? (fun q => q.cls == r.cls && (getFrame s q.view.frame).map (·.port) == some f.port) = some r ∧
    s.pipe.q2.length < 512 ∧ cellsFor data.length ≤ s.pipe.freeCells :=
  ⟨cipherState 0x030C0041 [] sealedFrame [decReq (.verified [1, 2] true 1)] [], 0, decReq (.verified [1, 2] true 1), sealedFrame, [1, 2], true, 1,
    by decide⟩

theorem witness_FramesUnderCipher_8 : ∃ (s : State) (frame : Nat) (d : Desc) (f : Frame) (sa : SaRef), Memory.wf s = true ∧ gkOpen s = true ∧
    (allDescs s).find? (fun x => x.view.frame == frame && x.unsealed) = some d ∧ getFrame s frame = some f ∧ d.enc = some sa ∧
    d.sealing = none ∧ f.whole = true ∧ sa.tenant < 1024 ∧ saValid s sa.tenant sa.sa = false :=
  ⟨cipherState 0x030C0040 [] someFrame [] [encDesc], 0, encDesc, someFrame, ⟨1, 2, false⟩, by decide⟩

theorem witness_FramesUnderCipher_9 : ∃ (s : State) (frame : Nat) (d : Desc) (f : Frame) (sa : SaRef) (u : Nat × Nat), Memory.wf s = true ∧ gkOpen s = true ∧
    (allDescs s).find? (fun x => x.view.frame == frame && x.unsealed) = some d ∧ getFrame s frame = some f ∧ d.enc = some sa ∧
    d.sealing = none ∧ f.whole = true ∧ sa.tenant < 1024 ∧ saValid s sa.tenant sa.sa = true ∧
    saOut (saBytes s sa.tenant sa.sa) = true ∧ saProto (saBytes s sa.tenant sa.sa) = sa.esp.toNat ∧
    u = encUnit f d sa (saBytes s sa.tenant sa.sa) ∧ cached s s.worker (32 * sa.tenant + sa.sa) ≠ [] ∧
    outMalformed sa (saBytes s sa.tenant sa.sa) d.layers (viewData f d.view) = false ∧ u.1 + u.2 ≤ 16384 ∧
    0 < unitBlocks u.1 u.2 ∧ unitBlocks u.1 u.2 ≤ blocksLeft s (cipAccount sa) ∧ viewPoisoned f d.view = false ∧
    fbit (rd s (pgTenCip sa.tenant + Reg.CP_EXHAUSTED)) sa.sa = false ∧ saPn s sa.tenant sa.sa < 2 ^ 32 - 1 :=
  ⟨cipherState 0x030C0043 (List.replicate 16 0) someFrame [] [encDesc], 0, encDesc, someFrame, ⟨1, 2, false⟩, (20, 60), by decide⟩

theorem witness_FramesUnderCipher_10 : ∃ (s : State) (frame : Nat) (d : Desc) (sa : SaRef), Memory.wf s = true ∧ gkOpen s = true ∧
    (allDescs s).find? (fun x => x.view.frame == frame && x.unsealed) = some d ∧ d.enc = some sa ∧ d.sealing = none ∧
    saValid s sa.tenant sa.sa = true ∧ saOut (saBytes s sa.tenant sa.sa) = true ∧
    saProto (saBytes s sa.tenant sa.sa) = sa.esp.toNat ∧ cached s s.worker (32 * sa.tenant + sa.sa) = [] :=
  ⟨cipherState 0x030C0043 [] someFrame [] [encDesc], 0, encDesc, ⟨1, 2, false⟩, by decide⟩

theorem witness_CarlisChannels_1 : ∃ (s : State) (via : Master) (a0 : Word), Memory.wf s = true ∧ Manages via ∧ PageReady s pgCrt via ∧ s.power.phase ≠ .recovery ∧
    (getCh s (fld a0 7 0)).isOpen = false ∧ nodeId s ≠ 0 ∧ incarn s ≠ 0 ∧ openReason s (fld a0 7 0) = none :=
  ⟨crtState CrtChan.closed [] [], .pf0, 0, by decide +kernel, .inr rfl, ⟨rfl, rfl⟩, by decide +kernel⟩

theorem witness_CarlisChannels_2 : ∃ (s : State) (via : Master) (a0 : Word), Memory.wf s = true ∧ Manages via ∧ PageReady s pgCrt via ∧ s.power.phase ≠ .recovery ∧
    (getCh s (fld a0 7 0)).isOpen = false ∧ nodeId s ≠ 0 ∧ incarn s ≠ 0 ∧ openReason s (fld a0 7 0) = some 3 :=
  ⟨crtState CrtChan.closed [] [], .pf0, 1, by decide +kernel, .inr rfl, ⟨rfl, rfl⟩, by decide +kernel⟩

theorem witness_CarlisChannels_3 : ∃ (s : State) (via : Master) (a0 : Word), Memory.wf s = true ∧ Manages via ∧ PageReady s pgCrt via ∧ s.power.phase ≠ .recovery ∧
    (getCh s (fld a0 7 0)).isOpen = true := ⟨crtState openChan [] [], .pf0, 0, by decide +kernel, .inr rfl, ⟨rfl, rfl⟩, by decide +kernel⟩

theorem witness_CarlisChannels_4 : ∃ (s : State) (via : Master) (a0 : Word) (x : CrtWin), Memory.wf s = true ∧ Manages via ∧ PageReady s pgCrt via ∧ s.power.phase ≠ .recovery ∧
    x = stagedWin s (fld a0 5 0) ∧ x.base % 64 = 0 ∧ x.size % 64 = 0 ∧ x.size ≠ 0 ∧ dramRange s x.base x.size = true ∧ x.lo ≤ x.hi :=
  ⟨wr (crtState openChan [] []) (crtStage 2 3) 4096, .pf0, 2, ⟨0, 4096, 0, 0, 0, 0, true⟩, by decide +kernel, .inr rfl, ⟨rfl, rfl⟩, by decide +kernel⟩

theorem witness_CarlisChannels_5 : ∃ (s : State) (via : Master) (a0 : Word), Memory.wf s = true ∧ Manages via ∧ PageReady s pgCrt via ∧ s.power.phase ≠ .recovery ∧
    (getWin s (fld a0 5 0)).valid = true :=
  ⟨putWin (crtState openChan [] []) 2 someWin, .pf0, 2, by decide +kernel, .inr rfl, ⟨rfl, rfl⟩, by decide +kernel⟩

theorem witness_CarlisChannels_6 : ∃ (s : State) (wq : Fin 16384) (idx : Fin 65536) (i : WorkItem), Memory.wf s = true ∧ getItem s wq.val idx.val = some i ∧
    isHalted s i.fn = false ∧ phaseServes s i.fn = true ∧ i.etype = 5 ∧ i.stage = .ready ∧ mayStart s i = true ∧
    i.fn ≠ chOwner s (leAt i.bytes 4 1) :=
  ⟨wr (crtState openChan [putItem .ready 100] []) (crtCfg 0 0) 0x02010002, 5, 0, putItem .ready 100, by decide +kernel⟩

theorem witness_CarlisChannels_7 : ∃ (s : State) (wq : Fin 16384) (idx : Fin 65536) (i : WorkItem), Memory.wf s = true ∧ getItem s wq.val idx.val = some i ∧
    isHalted s i.fn = false ∧ phaseServes s i.fn = true ∧ i.etype = 6 ∧ commitsHeld s = false ∧ i.stage = .ready ∧ mayStart s i = true ∧
    i.fn = chOwner s (leAt i.bytes 4 1) ∧ (getCh s (leAt i.bytes 4 1)).isOpen = true ∧ (getCh s (leAt i.bytes 4 1)).opening = false ∧
    (getCh s (leAt i.bytes 4 1)).entries = [] := ⟨crtState openChan [commitItem .ready] [], 5, 0, commitItem .ready, by decide +kernel⟩

theorem witness_CarlisChannels_8 : ∃ (s : State) (wq : Fin 16384) (idx : Fin 65536) (i : WorkItem), Memory.wf s = true ∧ getItem s wq.val idx.val = some i ∧
    isHalted s i.fn = false ∧ phaseServes s i.fn = true ∧ i.etype = 5 ∧ i.stage = .ready ∧ mayStart s i = true ∧
    i.fn = chOwner s (leAt i.bytes 4 1) ∧ nbit (leAt i.bytes 6 1) 0 = false ∧ (getCh s (leAt i.bytes 4 1)).isOpen = false :=
  ⟨crtState CrtChan.closed [putItem .ready 100] [], 5, 0, putItem .ready 100, by decide +kernel⟩

theorem witness_CarlisChannels_9 : ∃ (s : State) (wq : Fin 16384) (idx : Fin 65536) (i : WorkItem) (e : CrtEntry), Memory.wf s = true ∧ getItem s wq.val idx.val = some i ∧
    isHalted s i.fn = false ∧ phaseServes s i.fn = true ∧ i.etype = 5 ∧ i.stage = .run ∧ (getCh s (leAt i.bytes 4 1)).entries = [e] ∧
    e.wq = wq.val ∧ e.idx = idx.val ∧ e.allTaken = false ∧ (getCh s (leAt i.bytes 4 1)).opening = false :=
  ⟨crtState { openChan with entries := [putEntry 100] } [putItem .run 100] [], 5, 0, putItem .run 100, putEntry 100, by decide +kernel⟩

theorem witness_CarlisChannels_10 : ∃ (s : State) (wq : Fin 16384) (idx : Fin 65536) (i : WorkItem) (e : CrtEntry), Memory.wf s = true ∧ getItem s wq.val idx.val = some i ∧
    isHalted s i.fn = false ∧ phaseServes s i.fn = true ∧ i.etype = 6 ∧ i.stage = .run ∧ (getCh s (leAt i.bytes 4 1)).entries = [e] ∧
    e.wq = wq.val ∧ e.idx = idx.val ∧ e.allTaken = false ∧ (getCh s (leAt i.bytes 4 1)).opening = false ∧
    (getCh s (leAt i.bytes 4 1)).session ≠ none ∧ (getCh s (leAt i.bytes 4 1)).msgs.length < chWindow s (leAt i.bytes 4 1) ∧
    gkOpen s = true ∧ 0 < s.pipe.freeCells :=
  ⟨crtState { openChan with entries := [commitEntry] } [commitItem .run] [], 5, 0, commitItem .run, commitEntry, by decide +kernel⟩

theorem witness_CarlisSends_1 : ∃ (s : State) (c : Fin 256), Memory.wf s = true ∧ (getCh s c.val).isOpen = true ∧ (getCh s c.val).build = none ∧
    (getCh s c.val).opening = true ∧ (getCh s c.val).helloDue = true ∧ (getCh s c.val).dueFrom ≤ s.tck.boundaries ∧
    CrtMaySend s c.val 1 0 :=
  ⟨crtState { openChan with opening := true, helloDue := true } [] [], 0, by decide +kernel, by decide +kernel, by decide +kernel, by decide +kernel, by decide +kernel, by decide +kernel,
    ⟨by decide +kernel, by decide +kernel, by decide +kernel, by decide +kernel, by decide +kernel, by decide +kernel, by decide +kernel, by decide +kernel, by decide +kernel, by decide +kernel⟩⟩

theorem witness_CarlisSends_2 : ∃ (s : State) (c : Fin 256) (m : CrtMsg), Memory.wf s = true ∧ (getCh s c.val).isOpen = true ∧ (getCh s c.val).build = none ∧
    (getCh s c.val).opening = false ∧ firstDue s (getCh s c.val) = some m ∧ m.chunk ≠ none ∧
    CrtMaySend s c.val 3 (msgBody m).length :=
  ⟨crtState { openChan with msgs := [dueMsg (some (someChunk 64))] } [] [], 0, dueMsg (some (someChunk 64)), by decide +kernel, by decide +kernel, by decide +kernel,
    by decide +kernel, by decide +kernel, by decide +kernel, ⟨by decide +kernel, by decide +kernel, by decide +kernel, by decide +kernel, by decide +kernel, by decide +kernel, by decide +kernel, by decide +kernel, by decide +kernel, by decide +kernel⟩⟩

theorem witness_CarlisSends_3 : ∃ (s : State) (c : Fin 256) (m : CrtMsg), Memory.wf s = true ∧ (getCh s c.val).isOpen = true ∧ (getCh s c.val).build = none ∧
    (getCh s c.val).opening = false ∧ firstDue s (getCh s c.val) = some m ∧ m.chunk = none ∧ CrtMaySend s c.val 4 8 :=
  ⟨crtState { openChan with msgs := [dueMsg none] } [] [], 0, dueMsg none, by decide +kernel, by decide +kernel, by decide +kernel,
    by decide +kernel, by decide +kernel, by decide +kernel, ⟨by decide +kernel, by decide +kernel, by decide +kernel, by decide +kernel, by decide +kernel, by decide +kernel, by decide +kernel, by decide +kernel, by decide +kernel, by decide +kernel⟩⟩

theorem witness_CarlisSends_4 : ∃ (s : State) (c : Fin 256) (e : CrtEntry) (i : WorkItem), Memory.wf s = true ∧ (getCh s c.val).isOpen = true ∧
    (getCh s c.val).build = none ∧ (getCh s c.val).opening = false ∧ gkOpen s = true ∧ (getCh s c.val).dueFrom ≤ s.tck.boundaries ∧
    (getCh s c.val).msgs.any (·.due) = false ∧ (getCh s c.val).entries = [e] ∧ e.allTaken = false ∧ e.commit = false ∧
    getItem s e.wq e.idx = some i ∧ i.stage = .data ∧ readsDone s i = true ∧ i.buf.length = nextChunk s c.val e ∧
    (getCh s c.val).session ≠ none ∧ (getCh s c.val).msgs.length < chWindow s c.val :=
  ⟨crtState { openChan with entries := [putEntry 2] } [{ putItem .data 2 with buf := [(0, some (5, false)), (1, some (6, false))] }] [], 0,
    putEntry 2, { putItem .data 2 with buf := [(0, some (5, false)), (1, some (6, false))] }, by decide +kernel⟩

theorem witness_CarlisSends_5 : ∃ (s : State) (c : Fin 256) (pn at_ : Nat) (rest : List (CrtReply × Nat)), Memory.wf s = true ∧ (getCh s c.val).isOpen = true ∧
    (getCh s c.val).build = none ∧ (getCh s c.val).replies = (.helloAck pn, at_) :: rest ∧ at_ ≤ s.tck.boundaries ∧ CrtMaySend s c.val 2 8 :=
  ⟨crtState { openChan with replies := [(.helloAck 77, 0), (.window 1, 0)] } [] [], 0, 77, 0, [(.window 1, 0)], by decide +kernel, by decide +kernel, by decide +kernel,
    by decide +kernel, by decide +kernel, ⟨by decide +kernel, by decide +kernel, by decide +kernel, by decide +kernel, by decide +kernel, by decide +kernel, by decide +kernel, by decide +kernel, by decide +kernel, by decide +kernel⟩⟩

theorem witness_CarlisSends_6 : ∃ (s : State) (c : Fin 256) (n st w at_ : Nat) (rest : List (CrtReply × Nat)), Memory.wf s = true ∧ (getCh s c.val).isOpen = true ∧
    (getCh s c.val).build = none ∧ (getCh s c.val).replies = (.refuse n st w, at_) :: rest ∧ at_ ≤ s.tck.boundaries ∧ CrtMaySend s c.val 6 16 :=
  ⟨crtState { openChan with replies := [(.refuse 1 9 2, 0)] } [] [], 0, 1, 9, 2, 0, [], by decide +kernel, by decide +kernel, by decide +kernel,
    by decide +kernel, by decide +kernel, ⟨by decide +kernel, by decide +kernel, by decide +kernel, by decide +kernel, by decide +kernel, by decide +kernel, by decide +kernel, by decide +kernel, by decide +kernel, by decide +kernel⟩⟩

theorem witness_CarlisSends_7 : ∃ (s : State) (c : Fin 256) (at_ : Nat), Memory.wf s = true ∧ (getCh s c.val).isOpen = true ∧ (getCh s c.val).build = none ∧
    (getCh s c.val).replies = [] ∧ (getCh s c.val).ackFrom = some at_ ∧ at_ ≤ s.tck.boundaries ∧
    (getCh s c.val).ackAt ≠ some s.tck.boundaries ∧ CrtMaySend s c.val 5 0 :=
  ⟨crtState { openChan with ackFrom := some 0, gap := true } [] [], 0, 0, by decide +kernel, by decide +kernel, by decide +kernel,
    by decide +kernel, by decide +kernel, by decide +kernel, by decide +kernel, ⟨by decide +kernel, by decide +kernel, by decide +kernel, by decide +kernel, by decide +kernel, by decide +kernel, by decide +kernel, by decide +kernel, by decide +kernel, by decide +kernel⟩⟩

theorem witness_CarlisSends_8 : ∃ (s : State) (c : Fin 256) (t0 : Nat), Memory.wf s = true ∧ (getCh s c.val).timer = some t0 ∧ (getCh s c.val).isOpen = true ∧
    passed s t0 (getCh s c.val).interval = true ∧ chRetries s c.val ≤ (getCh s c.val).expiries + 1 :=
  ⟨crtState { openChan with timer := some 0, expiries := 2, msgs := [{ dueMsg none with due := false }] } [] [], 0, 0, by decide +kernel⟩

theorem witness_CarlisSends_9 : ∃ (s : State) (c : Fin 256) (q : CrtIn) (rest : List CrtIn) (k : CrtChunk), Memory.wf s = true ∧ (getCh s c.val).apply = q :: rest ∧
    gkOpen s = true ∧ q.chunk = some k ∧ chunkRefused s c.val q.win k = some stSTALE_GENERATION :=
  ⟨crtState { openChan with apply := [⟨0, some (someChunk 64), { someWin with gen := 2 }, 0⟩] } [] [], 0, _, [], someChunk 64, by decide +kernel, rfl,
    by decide +kernel, rfl, by decide +kernel⟩

theorem witness_CarlisSends_10 : ∃ (s : State) (c : Fin 256) (q : CrtIn) (rest : List CrtIn) (k : CrtChunk) (ch ca : Nat), Memory.wf s = true ∧
    (getCh s c.val).apply = q :: rest ∧ gkOpen s = true ∧ q.chunk = some k ∧ chunkRefused s c.val q.win k = none ∧ q.pos = 0 ∧
    k.data.length = 64 ∧ (q.win.base + k.offset) % 64 = 0 ∧ dramWhere s (q.win.base + k.offset) = some (ch, ca) ∧
    memMay s ch 1 1 = true ∧ retired s ch (64 * (ca / 64)) = false ∧ fbit (rd s (pgEcc + Reg.ECC_FLIP_SEL)) 16 = false :=
  ⟨crtState { openChan with apply := [⟨0, some (someChunk 64), someWin, 0⟩] } [] [], 0, ⟨0, some (someChunk 64), someWin, 0⟩, [], someChunk 64,
    0, 128, by decide +kernel⟩

theorem witness_CarlisSends_11 : ∃ (s : State) (c : Fin 256) (q : CrtIn) (rest : List CrtIn), Memory.wf s = true ∧ (getCh s c.val).apply = q :: rest ∧
    gkOpen s = true ∧ q.chunk = none := ⟨crtState { openChan with apply := [⟨0, none, someWin, 0⟩] } [] [], 0, _, [], by decide +kernel, rfl, by decide +kernel, rfl⟩

theorem opens_0 : gcmOpen (List.replicate 16 0) (beBytes 4 7 ++ beBytes 8 1) (crtMsgHdr 1 0 0 0 [109, 255, 39, 246, 233, 202, 8, 0, 120, 58, 169, 42, 148, 38, 8, 211]).head (crtMsgHdr 1 0 0 0 [109, 255, 39, 246, 233, 202, 8, 0, 120, 58, 169, 42, 148, 38, 8, 211]).body
    (crtMsgHdr 1 0 0 0 [109, 255, 39, 246, 233, 202, 8, 0, 120, 58, 169, 42, 148, 38, 8, 211]).tag = some [] := by decide +kernel

theorem opens_1 : gcmOpen (List.replicate 16 0) (beBytes 4 7 ++ beBytes 8 1) (crtMsgHdr 2 9 6 0 [81, 245, 241, 115, 93, 5, 171, 102, 105, 88, 81, 17, 60, 170, 5, 9, 59, 13, 193, 103, 47, 143, 229, 108]).head (crtMsgHdr 2 9 6 0 [81, 245, 241, 115, 93, 5, 171, 102, 105, 88, 81, 17, 60, 170, 5, 9, 59, 13, 193, 103, 47, 143, 229, 108]).body
    (crtMsgHdr 2 9 6 0 [81, 245, 241, 115, 93, 5, 171, 102, 105, 88, 81, 17, 60, 170, 5, 9, 59, 13, 193, 103, 47, 143, 229, 108]).tag = some (beBytes 8 77) := by decide +kernel

theorem opens_2 : gcmOpen (List.replicate 16 0) (beBytes 4 7 ++ beBytes 8 1) (crtMsgHdr 3 9 4 0 [81, 244, 243, 115, 93, 5, 171, 42, 239, 143, 110, 83, 129, 41, 236, 89, 155, 255, 120, 138, 128, 30, 152, 197, 248, 87, 142, 0, 216, 69, 179, 71, 122, 142, 253, 49, 173, 199, 23, 80, 106, 76, 101, 249, 32, 255, 220, 142, 53, 162, 37, 107, 35, 239, 97, 82, 253, 60, 27, 114, 120, 27, 212, 46, 51]).head (crtMsgHdr 3 9 4 0 [81, 244, 243, 115, 93, 5, 171, 42, 239, 143, 110, 83, 129, 41, 236, 89, 155, 255, 120, 138, 128, 30, 152, 197, 248, 87, 142, 0, 216, 69, 179, 71, 122, 142, 253, 49, 173, 199, 23, 80, 106, 76, 101, 249, 32, 255, 220, 142, 53, 162, 37, 107, 35, 239, 97, 82, 253, 60, 27, 114, 120, 27, 212, 46, 51]).body
    (crtMsgHdr 3 9 4 0 [81, 244, 243, 115, 93, 5, 171, 42, 239, 143, 110, 83, 129, 41, 236, 89, 155, 255, 120, 138, 128, 30, 152, 197, 248, 87, 142, 0, 216, 69, 179, 71, 122, 142, 253, 49, 173, 199, 23, 80, 106, 76, 101, 249, 32, 255, 220, 142, 53, 162, 37, 107, 35, 239, 97, 82, 253, 60, 27, 114, 120, 27, 212, 46, 51]).tag = some (beBytes 2 1 ++ [2, 0] ++ beBytes 4 1 ++ beBytes 8 128 ++ List.replicate 32 0 ++ [7]) := by decide +kernel

theorem opens_3 : gcmOpen (List.replicate 16 0) (beBytes 4 7 ++ beBytes 8 1) (crtMsgHdr 4 9 4 0 [81, 245, 241, 115, 93, 5, 171, 43, 234, 169, 239, 82, 167, 156, 31, 237, 102, 221, 116, 146, 30, 167, 197, 251]).head (crtMsgHdr 4 9 4 0 [81, 245, 241, 115, 93, 5, 171, 43, 234, 169, 239, 82, 167, 156, 31, 237, 102, 221, 116, 146, 30, 167, 197, 251]).body
    (crtMsgHdr 4 9 4 0 [81, 245, 241, 115, 93, 5, 171, 43, 234, 169, 239, 82, 167, 156, 31, 237, 102, 221, 116, 146, 30, 167, 197, 251]).tag = some (List.replicate 8 0) := by decide +kernel

theorem opens_6 : gcmOpen (List.replicate 16 0) (beBytes 4 7 ++ beBytes 8 1) (crtMsgHdr 5 9 3 2 [76, 228, 33, 159, 155, 20, 74, 84, 74, 22, 36, 75, 201, 34, 84, 241]).head (crtMsgHdr 5 9 3 2 [76, 228, 33, 159, 155, 20, 74, 84, 74, 22, 36, 75, 201, 34, 84, 241]).body
    (crtMsgHdr 5 9 3 2 [76, 228, 33, 159, 155, 20, 74, 84, 74, 22, 36, 75, 201, 34, 84, 241]).tag = some [] := by decide +kernel

theorem opens_8 : gcmOpen (List.replicate 16 0) (beBytes 4 7 ++ beBytes 8 1) (crtMsgHdr 6 9 3 0 [81, 245, 241, 114, 84, 7, 171, 40, 239, 143, 110, 83, 129, 41, 252, 217, 183, 244, 52, 22, 4, 165, 7, 126, 231, 132, 91, 235, 250, 161, 82, 204]).head (crtMsgHdr 6 9 3 0 [81, 245, 241, 114, 84, 7, 171, 40, 239, 143, 110, 83, 129, 41, 252, 217, 183, 244, 52, 22, 4, 165, 7, 126, 231, 132, 91, 235, 250, 161, 82, 204]).body
    (crtMsgHdr 6 9 3 0 [81, 245, 241, 114, 84, 7, 171, 40, 239, 143, 110, 83, 129, 41, 252, 217, 183, 244, 52, 22, 4, 165, 7, 126, 231, 132, 91, 235, 250, 161, 82, 204]).tag = some (beBytes 4 1 ++ [9, 2] ++ beBytes 2 3 ++ beBytes 8 4096) := by decide +kernel

theorem opens_9 : gcmOpen (List.replicate 16 0) (beBytes 4 7 ++ beBytes 8 1) (crtMsgHdr 7 9 3 0 [83, 244, 241, 112, 93, 5, 171, 43, 239, 143, 110, 83, 129, 41, 252, 217, 135, 3, 197, 219, 102, 178, 125, 147, 182, 70, 231, 80, 70, 166, 100, 60]).head (crtMsgHdr 7 9 3 0 [83, 244, 241, 112, 93, 5, 171, 43, 239, 143, 110, 83, 129, 41, 252, 217, 135, 3, 197, 219, 102, 178, 125, 147, 182, 70, 231, 80, 70, 166, 100, 60]).body
    (crtMsgHdr 7 9 3 0 [83, 244, 241, 112, 93, 5, 171, 43, 239, 143, 110, 83, 129, 41, 252, 217, 135, 3, 197, 219, 102, 178, 125, 147, 182, 70, 231, 80, 70, 166, 100, 60]).tag = some ([2, 1] ++ beBytes 2 3 ++ [0, 0, 0, 0] ++ beBytes 8 4096) := by decide +kernel

theorem opens_10 : gcmOpen (List.replicate 16 0) (beBytes 4 7 ++ beBytes 8 1) (crtMsgHdr 8 9 4 0 [81, 245, 241, 112, 93, 5, 171, 43, 222, 72, 1, 46, 243, 142, 101, 123, 229, 207, 155, 157, 43, 138, 217, 108]).head (crtMsgHdr 8 9 4 0 [81, 245, 241, 112, 93, 5, 171, 43, 222, 72, 1, 46, 243, 142, 101, 123, 229, 207, 155, 157, 43, 138, 217, 108]).body
    (crtMsgHdr 8 9 4 0 [81, 245, 241, 112, 93, 5, 171, 43, 222, 72, 1, 46, 243, 142, 101, 123, 229, 207, 155, 157, 43, 138, 217, 108]).tag = some (beBytes 4 3 ++ [0, 0, 0, 0]) := by decide +kernel

theorem witness_CarlisReceives_1 : ∃ (s : State) (h : CrtHdr) (body : List Byte), Memory.wf s = true ∧ CrtArrives s 1 h body ∧ (getCh s h.chan).session = none ∧ (getCh s h.chan).tSession ≠ some h.session :=
  ⟨crtState ({ openChan with session := none }) [] [crtMsgFrame 1 0 0 0 [109, 255, 39, 246, 233, 202, 8, 0, 120, 58, 169, 42, 148, 38, 8, 211]], crtMsgHdr 1 0 0 0 [109, 255, 39, 246, 233, 202, 8, 0, 120, 58, 169, 42, 148, 38, 8, 211], [], by decide +kernel,
    ⟨0, crtMsgFrame 1 0 0 0 [109, 255, 39, 246, 233, 202, 8, 0, 120, 58, 169, 42, 148, 38, 8, 211], by decide +kernel, rfl, rfl, by decide +kernel, by decide +kernel, by decide +kernel, by decide +kernel,
      by decide +kernel, rfl, by decide +kernel, by decide +kernel, by decide +kernel,
      by decide +kernel, by decide +kernel, by decide +kernel, by decide +kernel, by decide +kernel, opens_0, by decide +kernel⟩, by decide +kernel⟩

theorem witness_CarlisReceives_2 : ∃ (s : State) (h : CrtHdr) (body : List Byte), Memory.wf s = true ∧ CrtArrives s 2 h body ∧ (getCh s h.chan).opening = true ∧ (getCh s h.chan).helloPn = some (beAt body 0 8) ∧ (getCh s h.chan).session ≠ some h.session :=
  ⟨crtState ({ openChan with opening := true, helloPn := some 77 }) [] [crtMsgFrame 2 9 6 0 [81, 245, 241, 115, 93, 5, 171, 102, 105, 88, 81, 17, 60, 170, 5, 9, 59, 13, 193, 103, 47, 143, 229, 108]], crtMsgHdr 2 9 6 0 [81, 245, 241, 115, 93, 5, 171, 102, 105, 88, 81, 17, 60, 170, 5, 9, 59, 13, 193, 103, 47, 143, 229, 108], (beBytes 8 77), by decide +kernel,
    ⟨0, crtMsgFrame 2 9 6 0 [81, 245, 241, 115, 93, 5, 171, 102, 105, 88, 81, 17, 60, 170, 5, 9, 59, 13, 193, 103, 47, 143, 229, 108], by decide +kernel, rfl, rfl, by decide +kernel, by decide +kernel, by decide +kernel, by decide +kernel,
      by decide +kernel, rfl, by decide +kernel, by decide +kernel, by decide +kernel,
      by decide +kernel, by decide +kernel, by decide +kernel, by decide +kernel, by decide +kernel, opens_1, by decide +kernel⟩, by decide +kernel⟩

theorem witness_CarlisReceives_3 : ∃ (s : State) (h : CrtHdr) (body : List Byte), Memory.wf s = true ∧ CrtArrives s 3 h body ∧ namesTarget s (getCh s h.chan) h = true ∧
    seqAfter (getCh s h.chan).rcvNext h.seq = false ∧ h.seq = (getCh s h.chan).rcvAccept :=
  ⟨crtState (openChan) [] [crtMsgFrame 3 9 4 0 [81, 244, 243, 115, 93, 5, 171, 42, 239, 143, 110, 83, 129, 41, 236, 89, 155, 255, 120, 138, 128, 30, 152, 197, 248, 87, 142, 0, 216, 69, 179, 71, 122, 142, 253, 49, 173, 199, 23, 80, 106, 76, 101, 249, 32, 255, 220, 142, 53, 162, 37, 107, 35, 239, 97, 82, 253, 60, 27, 114, 120, 27, 212, 46, 51]], crtMsgHdr 3 9 4 0 [81, 244, 243, 115, 93, 5, 171, 42, 239, 143, 110, 83, 129, 41, 236, 89, 155, 255, 120, 138, 128, 30, 152, 197, 248, 87, 142, 0, 216, 69, 179, 71, 122, 142, 253, 49, 173, 199, 23, 80, 106, 76, 101, 249, 32, 255, 220, 142, 53, 162, 37, 107, 35, 239, 97, 82, 253, 60, 27, 114, 120, 27, 212, 46, 51], (beBytes 2 1 ++ [2, 0] ++ beBytes 4 1 ++ beBytes 8 128 ++ List.replicate 32 0 ++ [7]), by decide +kernel,
    ⟨0, crtMsgFrame 3 9 4 0 [81, 244, 243, 115, 93, 5, 171, 42, 239, 143, 110, 83, 129, 41, 236, 89, 155, 255, 120, 138, 128, 30, 152, 197, 248, 87, 142, 0, 216, 69, 179, 71, 122, 142, 253, 49, 173, 199, 23, 80, 106, 76, 101, 249, 32, 255, 220, 142, 53, 162, 37, 107, 35, 239, 97, 82, 253, 60, 27, 114, 120, 27, 212, 46, 51], by decide +kernel, rfl, rfl, by decide +kernel, by decide +kernel, by decide +kernel, by decide +kernel,
      by decide +kernel, rfl, by decide +kernel, by decide +kernel, by decide +kernel,
      by decide +kernel, by decide +kernel, by decide +kernel, by decide +kernel, by decide +kernel, opens_2, by decide +kernel⟩, by decide +kernel⟩

theorem witness_CarlisReceives_4 : ∃ (s : State) (h : CrtHdr) (body : List Byte), Memory.wf s = true ∧ CrtArrives s 4 h body ∧ namesTarget s (getCh s h.chan) h = true ∧
    seqAfter (getCh s h.chan).rcvNext h.seq = true :=
  ⟨crtState ({ openChan with rcvNext := 1, rcvAccept := 1 }) [] [crtMsgFrame 4 9 4 0 [81, 245, 241, 115, 93, 5, 171, 43, 234, 169, 239, 82, 167, 156, 31, 237, 102, 221, 116, 146, 30, 167, 197, 251]], crtMsgHdr 4 9 4 0 [81, 245, 241, 115, 93, 5, 171, 43, 234, 169, 239, 82, 167, 156, 31, 237, 102, 221, 116, 146, 30, 167, 197, 251], (List.replicate 8 0), by decide +kernel,
    ⟨0, crtMsgFrame 4 9 4 0 [81, 245, 241, 115, 93, 5, 171, 43, 234, 169, 239, 82, 167, 156, 31, 237, 102, 221, 116, 146, 30, 167, 197, 251], by decide +kernel, rfl, rfl, by decide +kernel, by decide +kernel, by decide +kernel, by decide +kernel,
      by decide +kernel, rfl, by decide +kernel, by decide +kernel, by decide +kernel,
      by decide +kernel, by decide +kernel, by decide +kernel, by decide +kernel, by decide +kernel, opens_3, by decide +kernel⟩, by decide +kernel⟩

theorem witness_CarlisReceives_5 : ∃ (s : State) (h : CrtHdr) (body : List Byte), Memory.wf s = true ∧ CrtArrives s 4 h body ∧ namesTarget s (getCh s h.chan) h = true ∧
    seqAfter (getCh s h.chan).rcvNext h.seq = false ∧ seqAfter (getCh s h.chan).rcvAccept h.seq = false ∧ h.seq ≠ (getCh s h.chan).rcvAccept :=
  ⟨crtState ({ openChan with rcvNext := 0xFFFFFFFF, rcvAccept := 0xFFFFFFFF }) [] [crtMsgFrame 4 9 4 0 [81, 245, 241, 115, 93, 5, 171, 43, 234, 169, 239, 82, 167, 156, 31, 237, 102, 221, 116, 146, 30, 167, 197, 251]], crtMsgHdr 4 9 4 0 [81, 245, 241, 115, 93, 5, 171, 43, 234, 169, 239, 82, 167, 156, 31, 237, 102, 221, 116, 146, 30, 167, 197, 251], (List.replicate 8 0), by decide +kernel,
    ⟨0, crtMsgFrame 4 9 4 0 [81, 245, 241, 115, 93, 5, 171, 43, 234, 169, 239, 82, 167, 156, 31, 237, 102, 221, 116, 146, 30, 167, 197, 251], by decide +kernel, rfl, rfl, by decide +kernel, by decide +kernel, by decide +kernel, by decide +kernel,
      by decide +kernel, rfl, by decide +kernel, by decide +kernel, by decide +kernel,
      by decide +kernel, by decide +kernel, by decide +kernel, by decide +kernel, by decide +kernel, opens_3, by decide +kernel⟩, by decide +kernel⟩

theorem witness_CarlisReceives_6 : ∃ (s : State) (h : CrtHdr) (body : List Byte), Memory.wf s = true ∧ CrtArrives s 4 h body ∧ namesTarget s (getCh s h.chan) h = false :=
  ⟨crtState ({ openChan with tSession := some 5 }) [] [crtMsgFrame 4 9 4 0 [81, 245, 241, 115, 93, 5, 171, 43, 234, 169, 239, 82, 167, 156, 31, 237, 102, 221, 116, 146, 30, 167, 197, 251]], crtMsgHdr 4 9 4 0 [81, 245, 241, 115, 93, 5, 171, 43, 234, 169, 239, 82, 167, 156, 31, 237, 102, 221, 116, 146, 30, 167, 197, 251], (List.replicate 8 0), by decide +kernel,
    ⟨0, crtMsgFrame 4 9 4 0 [81, 245, 241, 115, 93, 5, 171, 43, 234, 169, 239, 82, 167, 156, 31, 237, 102, 221, 116, 146, 30, 167, 197, 251], by decide +kernel, rfl, rfl, by decide +kernel, by decide +kernel, by decide +kernel, by decide +kernel,
      by decide +kernel, rfl, by decide +kernel, by decide +kernel, by decide +kernel,
      by decide +kernel, by decide +kernel, by decide +kernel, by decide +kernel, by decide +kernel, opens_3, by decide +kernel⟩, by decide +kernel⟩

theorem witness_CarlisReceives_7 : ∃ (s : State) (h : CrtHdr) (body : List Byte), Memory.wf s = true ∧ CrtArrives s 5 h body ∧ namesInitiator s (getCh s h.chan) h = true ∧
    seqAfter h.seq (getCh s h.chan).next = false ∧ seqAfter h.seq (getCh s h.chan).una = true ∧ h.gap = false :=
  ⟨crtState ({ openChan with msgs := [dueMsg none] }) [] [crtMsgFrame 5 9 3 2 [76, 228, 33, 159, 155, 20, 74, 84, 74, 22, 36, 75, 201, 34, 84, 241]], crtMsgHdr 5 9 3 2 [76, 228, 33, 159, 155, 20, 74, 84, 74, 22, 36, 75, 201, 34, 84, 241], [], by decide +kernel,
    ⟨0, crtMsgFrame 5 9 3 2 [76, 228, 33, 159, 155, 20, 74, 84, 74, 22, 36, 75, 201, 34, 84, 241], by decide +kernel, rfl, rfl, by decide +kernel, by decide +kernel, by decide +kernel, by decide +kernel,
      by decide +kernel, rfl, by decide +kernel, by decide +kernel, by decide +kernel,
      by decide +kernel, by decide +kernel, by decide +kernel, by decide +kernel, by decide +kernel, opens_6, by decide +kernel⟩, by decide +kernel⟩

theorem witness_CarlisReceives_8 : ∃ (s : State) (h : CrtHdr) (body : List Byte), Memory.wf s = true ∧ CrtArrives s 5 h body ∧ namesInitiator s (getCh s h.chan) h = false :=
  ⟨crtState ({ openChan with session := some 9 }) [] [crtMsgFrame 5 9 3 2 [76, 228, 33, 159, 155, 20, 74, 84, 74, 22, 36, 75, 201, 34, 84, 241]], crtMsgHdr 5 9 3 2 [76, 228, 33, 159, 155, 20, 74, 84, 74, 22, 36, 75, 201, 34, 84, 241], [], by decide +kernel,
    ⟨0, crtMsgFrame 5 9 3 2 [76, 228, 33, 159, 155, 20, 74, 84, 74, 22, 36, 75, 201, 34, 84, 241], by decide +kernel, rfl, rfl, by decide +kernel, by decide +kernel, by decide +kernel, by decide +kernel,
      by decide +kernel, rfl, by decide +kernel, by decide +kernel, by decide +kernel,
      by decide +kernel, by decide +kernel, by decide +kernel, by decide +kernel, by decide +kernel, opens_6, by decide +kernel⟩, by decide +kernel⟩

theorem witness_CarlisReceives_9 : ∃ (s : State) (h : CrtHdr) (body : List Byte), Memory.wf s = true ∧ CrtArrives s 6 h body ∧ namesInitiator s (getCh s h.chan) h = true ∧
    seqAfter h.seq (getCh s h.chan).next = false :=
  ⟨crtState (openChan) [] [crtMsgFrame 6 9 3 0 [81, 245, 241, 114, 84, 7, 171, 40, 239, 143, 110, 83, 129, 41, 252, 217, 183, 244, 52, 22, 4, 165, 7, 126, 231, 132, 91, 235, 250, 161, 82, 204]], crtMsgHdr 6 9 3 0 [81, 245, 241, 114, 84, 7, 171, 40, 239, 143, 110, 83, 129, 41, 252, 217, 183, 244, 52, 22, 4, 165, 7, 126, 231, 132, 91, 235, 250, 161, 82, 204], (beBytes 4 1 ++ [9, 2] ++ beBytes 2 3 ++ beBytes 8 4096), by decide +kernel,
    ⟨0, crtMsgFrame 6 9 3 0 [81, 245, 241, 114, 84, 7, 171, 40, 239, 143, 110, 83, 129, 41, 252, 217, 183, 244, 52, 22, 4, 165, 7, 126, 231, 132, 91, 235, 250, 161, 82, 204], by decide +kernel, rfl, rfl, by decide +kernel, by decide +kernel, by decide +kernel, by decide +kernel,
      by decide +kernel, rfl, by decide +kernel, by decide +kernel, by decide +kernel,
      by decide +kernel, by decide +kernel, by decide +kernel, by decide +kernel, by decide +kernel, opens_8, by decide +kernel⟩, by decide +kernel⟩

theorem witness_CarlisReceives_10 : ∃ (s : State) (h : CrtHdr) (body : List Byte), Memory.wf s = true ∧ CrtArrives s 7 h body ∧ namesInitiator s (getCh s h.chan) h = true :=
  ⟨crtState (openChan) [] [crtMsgFrame 7 9 3 0 [83, 244, 241, 112, 93, 5, 171, 43, 239, 143, 110, 83, 129, 41, 252, 217, 135, 3, 197, 219, 102, 178, 125, 147, 182, 70, 231, 80, 70, 166, 100, 60]], crtMsgHdr 7 9 3 0 [83, 244, 241, 112, 93, 5, 171, 43, 239, 143, 110, 83, 129, 41, 252, 217, 135, 3, 197, 219, 102, 178, 125, 147, 182, 70, 231, 80, 70, 166, 100, 60], ([2, 1] ++ beBytes 2 3 ++ [0, 0, 0, 0] ++ beBytes 8 4096), by decide +kernel,
    ⟨0, crtMsgFrame 7 9 3 0 [83, 244, 241, 112, 93, 5, 171, 43, 239, 143, 110, 83, 129, 41, 252, 217, 135, 3, 197, 219, 102, 178, 125, 147, 182, 70, 231, 80, 70, 166, 100, 60], by decide +kernel, rfl, rfl, by decide +kernel, by decide +kernel, by decide +kernel, by decide +kernel,
      by decide +kernel, rfl, by decide +kernel, by decide +kernel, by decide +kernel,
      by decide +kernel, by decide +kernel, by decide +kernel, by decide +kernel, by decide +kernel, opens_9, by decide +kernel⟩, by decide +kernel⟩

theorem witness_CarlisReceives_11 : ∃ (s : State) (h : CrtHdr) (body : List Byte), Memory.wf s = true ∧ CrtArrives s 8 h body ∧ h.rInc = incarn s ∧ (getCh s h.chan).session = some (beAt body 0 4) :=
  ⟨crtState (openChan) [] [crtMsgFrame 8 9 4 0 [81, 245, 241, 112, 93, 5, 171, 43, 222, 72, 1, 46, 243, 142, 101, 123, 229, 207, 155, 157, 43, 138, 217, 108]], crtMsgHdr 8 9 4 0 [81, 245, 241, 112, 93, 5, 171, 43, 222, 72, 1, 46, 243, 142, 101, 123, 229, 207, 155, 157, 43, 138, 217, 108], (beBytes 4 3 ++ [0, 0, 0, 0]), by decide +kernel,
    ⟨0, crtMsgFrame 8 9 4 0 [81, 245, 241, 112, 93, 5, 171, 43, 222, 72, 1, 46, 243, 142, 101, 123, 229, 207, 155, 157, 43, 138, 217, 108], by decide +kernel, rfl, rfl, by decide +kernel, by decide +kernel, by decide +kernel, by decide +kernel,
      by decide +kernel, rfl, by decide +kernel, by decide +kernel, by decide +kernel,
      by decide +kernel, by decide +kernel, by decide +kernel, by decide +kernel, by decide +kernel, opens_10, by decide +kernel⟩, by decide +kernel⟩

theorem witness_DramChannels_1 : ∃ (s : State) (n : Fin 4) (via : Master), Memory.wf s = true ∧ PageReady s (pgMem n.val) via ∧ Manages via ∧ s.power.phase ≠ .recovery ∧
    (getChan s n.val).st ≠ .unconfigured ∧ (getChan s n.val).st ≠ .idle ∧ (getChan s n.val).st ≠ .retained :=
  ⟨dramState, 0, .pf0, by decide, ⟨rfl, rfl⟩, .inr rfl, by decide, by decide, by decide, by decide⟩

theorem witness_DramChannels_2 : ∃ (s : State) (n : Fin 4) (via : Master), Memory.wf s = true ∧ PageReady s (pgMem n.val) via ∧ Manages via ∧ s.power.phase ≠ .recovery ∧
    (getChan s n.val).st = .unconfigured ∧ memConfigCheck s n.val = none :=
  ⟨chanState .unconfigured, 0, .pf0, by decide, ⟨rfl, rfl⟩, .inr rfl, by decide, by decide, by decide +kernel⟩

theorem witness_DramChannels_3 : ∃ (s : State) (n : Fin 4) (via : Master), Memory.wf s = true ∧ PageReady s (pgMem n.val) via ∧ Manages via ∧ s.power.phase ≠ .recovery ∧
    (getChan s n.val).st = .unconfigured ∧ memConfigCheck s n.val = some Reg.MEM_TIM0 :=
  ⟨State.reset, 3, .maint, by decide, ⟨rfl, rfl⟩, .inl rfl, by decide, by decide, by decide +kernel⟩

theorem witness_DramChannels_4 : ∃ (s : State) (n : Fin 4) (via : Master), Memory.wf s = true ∧ PageReady s (pgMem n.val) via ∧ Manages via ∧ s.power.phase ≠ .recovery ∧
    (getChan s n.val).st = .idle ∧ interleaved s = false ∧ fld (39 : Word) 5 0 < 40 ∧ 40 ≤ fld (40 : Word) 5 0 ∧
    sweepBlock s n.val (fld (39 : Word) 5 0) 2 = false :=
  ⟨chanState .idle, 0, .pf0, by decide, ⟨rfl, rfl⟩, .inr rfl, by decide, by decide, by decide, by decide, by decide, by decide⟩

theorem witness_DramChannels_5 : ∃ (s : State) (n : Fin 4) (via : Master) (m : Nat), Memory.wf s = true ∧ PageReady s (pgMem n.val) via ∧ Manages via ∧
    s.power.phase ≠ .recovery ∧ (getChan s n.val).st = .idle ∧ interleaved s = true ∧ m < 4 ∧ (getChan s m).st = .running ∧
    rd s (pgMem m + Reg.MEM_GEOM) ≠ rd s (pgMem n.val + Reg.MEM_GEOM) :=
  ⟨wr (wr (putChan (chanState .idle) 1 { MemChan.reset with st := .running, committed := true }) (pgMem 1 + Reg.MEM_GEOM) 1)
    (pgEcc + Reg.ECC_DRAM_MAP) 1, 0, .pf0, 1, by decide, ⟨rfl, rfl⟩, .inr rfl, by decide, by decide, by decide, by decide, by decide,
    by decide⟩

theorem witness_DramChannels_6 : ∃ (s : State) (n : Fin 4) (via : Master), Memory.wf s = true ∧ PageReady s (pgMem n.val) via ∧ Manages via ∧ s.power.phase ≠ .recovery ∧
    (getChan s n.val).st = .retained :=
  ⟨chanState .retained, 0, .pf0, by decide, ⟨rfl, rfl⟩, .inr rfl, by decide, by decide⟩

theorem witness_DramChannels_7 : ∃ (s : State) (via : Master) (w : Word), Memory.wf s = true ∧ Manages via ∧ served s via true = true ∧ s.power.phase ≠ .recovery ∧
    fbit w 16 = true ∧ s.power.phase = .test := ⟨testState, .pf0, 0x10100, by decide, .inr rfl, by decide, by decide, by decide, rfl⟩

theorem witness_DramChannels_8 : ∃ (s : State) (via : Master) (w : Word), Memory.wf s = true ∧ Manages via ∧ served s via true = true ∧ s.power.phase ≠ .recovery ∧
    fbit w 16 = true ∧ s.power.phase ≠ .test :=
  ⟨State.reset, .pf0, 0x10100, by decide, .inr rfl, by decide, by decide, by decide, by decide⟩

theorem witness_DramChannels_9 : ∃ s : State, Memory.wf s = true ∧ fbit (rd s (pgEcc + Reg.ECC_FLIP_SEL)) 16 = true ∧
    1 ≤ fld (rd s (pgEcc + Reg.ECC_FLIP_SEL)) 3 0 ∧ fld (rd s (pgEcc + Reg.ECC_FLIP_SEL)) 3 0 ≤ 8 :=
  ⟨wr testState (pgEcc + Reg.ECC_FLIP_SEL) 0x14108, by decide⟩

theorem witness_DramChannels_10 : ∃ (s : State) (n : Fin 4) (c : MemChan) (r : DramRead), Memory.wf s = true ∧ c = getChan s n.val ∧
    r = decodeBlock (rawBlock s n.val c.scrubPos) ∧ c.st = .running ∧ fbit (rdEff s (pgMem n.val + Reg.PAGE_CTL)) 0 = true ∧
    memMay s n.val 2 1 = true ∧ retired s n.val (64 * c.scrubPos) = true :=
  ⟨let b := scrubState 70 (blockWith []); { b with eff := tset regDflt b.eff (memRetire 0 63) 0x80000001 }, 0, _, _, by decide +kernel,
    rfl, rfl, by decide +kernel, by decide +kernel, by decide +kernel, by decide +kernel⟩

theorem witness_DramChannels_11 : ∃ (s : State) (n : Fin 4) (c : MemChan) (r : DramRead), Memory.wf s = true ∧ c = getChan s n.val ∧
    r = decodeBlock (rawBlock s n.val c.scrubPos) ∧ c.st = .running ∧ fbit (rdEff s (pgMem n.val + Reg.PAGE_CTL)) 0 = true ∧
    memMay s n.val 2 1 = true ∧ retired s n.val (64 * c.scrubPos) = false ∧ r.ce = false ∧ r.ue = false ∧
    chanBytes s n.val / 64 ≤ c.scrubPos + 1 :=
  ⟨scrubState (chanBytes State.reset 0 / 64 - 1) (blockWith []), 0, _, _, by decide +kernel, rfl, rfl, by decide +kernel, by decide +kernel,
    by decide +kernel, by decide +kernel, by decide +kernel, by decide +kernel, by decide +kernel⟩

theorem witness_DramChannels_12 : ∃ (s : State) (n : Fin 4) (c : MemChan) (r : DramRead), Memory.wf s = true ∧ c = getChan s n.val ∧
    r = decodeBlock (rawBlock s n.val c.scrubPos) ∧ c.st = .running ∧ fbit (rdEff s (pgMem n.val + Reg.PAGE_CTL)) 0 = true ∧
    memMay s n.val 2 1 = true ∧ memMay s n.val 2 2 = true ∧ retired s n.val (64 * c.scrubPos) = false ∧
    fbit (rd s (pgEcc + Reg.ECC_FLIP_SEL)) 16 = false ∧ r.ce = true ∧ r.ue = false :=
  ⟨scrubState 9 (blockWith [1]), 0, _, _, by decide +kernel, rfl, rfl, by decide +kernel, by decide +kernel, by decide +kernel,
    by decide +kernel, by decide +kernel, by decide +kernel, by decide +kernel, by decide +kernel⟩

theorem witness_DramChannels_13 : ∃ (s : State) (n : Fin 4) (c : MemChan) (r : DramRead), Memory.wf s = true ∧ c = getChan s n.val ∧
    r = decodeBlock (rawBlock s n.val c.scrubPos) ∧ c.st = .running ∧ fbit (rdEff s (pgMem n.val + Reg.PAGE_CTL)) 0 = true ∧
    memMay s n.val 2 1 = true ∧ memMay s n.val 2 2 = true ∧ retired s n.val (64 * c.scrubPos) = false ∧
    fbit (rd s (pgEcc + Reg.ECC_FLIP_SEL)) 16 = false ∧ r.ue = true ∧ r.ce = false :=
  ⟨scrubState 9 (blockWith [1, 1]), 0, _, _, by decide +kernel, rfl, rfl, by decide +kernel, by decide +kernel, by decide +kernel,
    by decide +kernel, by decide +kernel, by decide +kernel, by decide +kernel, by decide +kernel⟩

theorem witness_SlicesAndSwitchOver_1 : ∃ (s : State) (p : PageAt), Memory.wf s = true ∧ s.power.phase ≠ .recovery ∧ s.power.recoverPend = none ∧ pageAt pgRed = some p :=
  ⟨State.reset, _, by decide, by decide, rfl, rfl⟩

theorem witness_SlicesAndSwitchOver_2 : ∃ (s : State) (p : PageAt), Memory.wf s = true ∧ s.tck.fenced.isSome ∧ s.power.phase ≠ .recovery ∧ s.power.recoverPend = none ∧
    pageAt pgTck = some p :=
  ⟨{ State.reset with tck := { State.reset.tck with fenced := some 1 } }, _, by decide, by decide, by decide, rfl, rfl⟩

theorem witness_SlicesAndSwitchOver_3 : ∃ (s : State) (sl : SliceId) (x : SliceRed), Memory.wf s = true ∧ x = s.slice sl ∧ x.role ≠ .out ∧ x.fenced = false ∧
    (if x.ueSecond = s.seconds then x.ueCount else 0) + 1 < fld (rd s (pgRed + Reg.RED_UE_LIMIT)) 7 0 :=
  ⟨State.reset, .ochre, _, by decide, rfl, by decide, by decide, by decide⟩

theorem witness_SlicesAndSwitchOver_4 : ∃ (s : State) (sl : SliceId) (x : SliceRed), Memory.wf s = true ∧ x = s.slice sl ∧ x.role ≠ .out ∧ x.fenced = false ∧
    fld (rd s (pgRed + Reg.RED_UE_LIMIT)) 7 0 ≤ (if x.ueSecond = s.seconds then x.ueCount else 0) + 1 :=
  ⟨redState { RedUnit.reset with ochre := { RedUnit.reset.ochre with ueCount := 3 } }, .ochre, _, by decide, rfl, by decide, by decide,
    by decide⟩

theorem witness_SlicesAndSwitchOver_5 : ∃ (s : State) (sl : SliceId), Memory.wf s = true ∧ s.red.accepted = some sl ∧ s.activeSlice = none ∧ (s.slice sl).role = .standby :=
  ⟨redState { RedUnit.reset with ochre := SliceRed.fresh .out 0 false, accepted := some .slate }, .slate, by decide⟩

theorem witness_SlicesAndSwitchOver_6 : ∃ (s : State) (sl : SliceId) (x : SliceRed), Memory.wf s = true ∧ x = s.slice sl ∧ x.resetting = true ∧ x.role = .out ∧
    x.retireAtEnd = false ∧ x.retired = false :=
  ⟨redState { RedUnit.reset with slate := { SliceRed.fresh .out 0 false with resetting := true } }, .slate, _, by decide, rfl, by decide⟩

theorem witness_SlicesAndSwitchOver_7 : ∃ (s : State) (sl : SliceId) (x : SliceRed), Memory.wf s = true ∧ x = s.slice sl ∧ x.resetting = true ∧ x.role = .out ∧
    x.readmit = true :=
  ⟨redState { RedUnit.reset with slate := { SliceRed.fresh .out 0 false with resetting := true, readmit := true, retired := true } },
    .slate, _, by decide, rfl, by decide⟩

theorem witness_SlicesAndSwitchOver_8 : ∃ (s : State) (sl : SliceId) (x : SliceRed), Memory.wf s = true ∧ x = s.slice sl ∧ x.role = .qualifying ∧
    fbit (rd s (pgRed + Reg.PAGE_CTL)) 2 = true ∧ passed s x.qualifiedAt (boundariesIn s (10 ^ 9)) = true :=
  ⟨wr (eqxState { RedUnit.reset with slate := SliceRed.fresh .qualifying 0 false }) (pgRed + Reg.PAGE_CTL) 4, .slate, _, by decide, rfl,
    by decide⟩

theorem witness_SlicesAndSwitchOver_9 : ∃ (s : State) (sl : SliceId) (x : SliceRed), Memory.wf s = true ∧ x = s.slice sl ∧ x.role = .standby ∧ x.passRunning = true ∧
    (s.slice sl.other).role ≠ .standby ∧ (∀ e, (e, .latent) ∉ x.inject) ∧ x.fenced = false :=
  ⟨State.reset, .slate, State.reset.red.slate, by decide, rfl, by decide, by decide, by decide, fun _ h => (nomatch h), by decide⟩

theorem witness_SlicesAndSwitchOver_10 : ∃ (s : State) (via : Master) (a0 : Word) (sl : SliceId), Memory.wf s = true ∧ PageReady s pgRed via ∧ Manages via ∧
    s.power.phase ≠ .recovery ∧ sl = argSlice a0 ∧ (s.slice sl).role = .active ∧ (s.slice sl.other).role = .standby ∧
    (s.slice sl).fenced = false :=
  ⟨State.reset, .pf0, 0, .ochre, by decide, ⟨rfl, rfl⟩, .inr rfl, by decide, by decide, by decide, by decide, by decide⟩

theorem witness_SlicesAndSwitchOver_11 : ∃ (s : State) (via : Master) (a0 : Word) (sl : SliceId), Memory.wf s = true ∧ PageReady s pgRed via ∧ Manages via ∧
    s.power.phase ≠ .recovery ∧ sl = argSlice a0 ∧ (s.slice sl).role = .active ∧ (s.slice sl.other).role = .out :=
  ⟨redState { RedUnit.reset with slate := SliceRed.fresh .out 0 false }, .pf0, 0, .ochre, by decide, ⟨rfl, rfl⟩, .inr rfl, by decide,
    by decide, by decide, by decide⟩

theorem witness_SlicesAndSwitchOver_12 : ∃ (s : State) (via : Master) (a0 : Word) (sl : SliceId), Memory.wf s = true ∧ PageReady s pgRed via ∧ Manages via ∧
    s.power.phase ≠ .recovery ∧ sl = argSlice a0 ∧ (s.slice sl).role = .out ∧ (s.slice sl).retired = true :=
  ⟨redState { RedUnit.reset with slate := { SliceRed.fresh .out 0 false with retired := true } }, .pf0, 1, .slate, by decide, ⟨rfl, rfl⟩,
    .inr rfl, by decide, by decide, by decide, by decide⟩

theorem witness_Equinox_1 : ∃ s : State, Memory.wf s = true ∧ eqxRuns s = false ∧ s.power.phase = .normal ∧ s.red.dueAgainAt = none ∧ 0 < eqxPeriod s ∧
    eqxPeriod s ≤ s.red.count ∧ simplex s = false :=
  ⟨let b := eqxState { RedUnit.reset with count := 10 ^ 12 }; { b with eff := tset regDflt b.eff (pgRed + Reg.RED_EQX_PERIOD) 60 }, by decide⟩

theorem witness_Equinox_2 : ∃ (s : State) (b : Nat), Memory.wf s = true ∧ eqxRuns s = false ∧ s.power.phase ≠ .recovery ∧ s.red.dueAgainAt = some b ∧
    b ≤ s.tck.boundaries ∧ eqxDeferred s = true :=
  ⟨{ eqxState { RedUnit.reset with dueAgainAt := some 5 } with power := { State.reset.power with phase := .test } }, 5, by decide⟩

theorem witness_Equinox_3 : ∃ (s : State) (a : SliceId), Memory.wf s = true ∧ s.red.due = true ∧ s.red.stage = .deferred ∧ eqxDeferred s = false ∧
    s.activeSlice = some a ∧ s.power.bringupDone = true ∧ fld (rd s (pgRed + Reg.PAGE_CTL)) 1 0 = 0 :=
  ⟨wr (eqxState { RedUnit.reset with due := true, stage := .deferred }) (pgRed + Reg.PAGE_CTL) 0, .ochre, by decide⟩

theorem witness_Equinox_4 : ∃ (s : State) (a : SliceId), Memory.wf s = true ∧ s.red.due = true ∧ s.red.stage = .idle ∧ eqxDeferred s = false ∧
    s.activeSlice = some a ∧ s.power.bringupDone = true ∧ fbit (rd s (pgRed + Reg.PAGE_CTL)) 0 = true ∧
    fbit (rd s (pgRed + Reg.PAGE_CTL)) 1 = true ∧ runningOn s (pgCip a.other) = none :=
  ⟨wr (eqxState { RedUnit.reset with due := true }) (pgRed + Reg.PAGE_CTL) 3, .ochre, by decide⟩

theorem witness_Equinox_5 : ∃ s : State, Memory.wf s = true ∧ prepared s = true ∧ digestsDiffer s = false ∧ eqxDeferred s = false :=
  ⟨eqxState { RedUnit.reset with due := true, stage := .prepare, digestA := some (1, 2, 0), digestB := some (1, 2, 3) }, by decide⟩

theorem witness_Equinox_6 : ∃ s : State, Memory.wf s = true ∧ s.red.stage = .hold ∧ commitOpen s = false ∧ eqxDeferred s = false :=
  ⟨eqxState { RedUnit.reset with due := true, stage := .hold }, by decide⟩

theorem witness_Equinox_7 : ∃ (s : State) (a : SliceId) (c : RunCmd), Memory.wf s = true ∧ s.activeSlice = some a ∧ s.red.stage = .drain ∧ drained s a = true ∧
    eqxDeferred s = false ∧ (s.slice a).fenced = false ∧ (s.slice a.other).fenced = false ∧ runningOn s pgRed = some c ∧ c.code = 1 ∧
    c.via ≠ .sync ∧ c.seq < 256 ∧ fbit (rd s (pgRed + Reg.CMD_RESULT)) 1 = false ∧ lockOwner s .slate = 3 :=
  ⟨wr { eqxState { RedUnit.reset with due := true, stage := .drain } with running := [⟨pgRed, 1, 7, .pf0, 0, 0, 0⟩] }
    (pgTbl .slate + Reg.TBL_BULK_LOCK) 3, .ochre, _, by decide, by decide, by decide, by decide, by decide, by decide, by decide, rfl,
    by decide⟩

theorem witness_Equinox_8 : ∃ (s : State) (c : RunCmd), Memory.wf s = true ∧ s.red.stage = .hold ∧ eqxLate s = true ∧ runningOn s pgRed = some c ∧ c.code = 1 ∧
    c.via ≠ .sync ∧ c.seq < 256 ∧ fbit (rd s (pgRed + Reg.CMD_RESULT)) 1 = false :=
  ⟨{ eqxState { RedUnit.reset with due := true, stage := .hold } with running := [⟨pgRed, 1, 7, .pf0, 0, 0, 0⟩] }, _, by decide, by decide,
    by decide, rfl, by decide⟩

theorem witness_Equinox_9 : ∃ s : State, Memory.wf s = true ∧ s.red.stage = .prepare ∧ prepared s = true ∧ digestsDiffer s = true :=
  ⟨eqxState { RedUnit.reset with due := true, stage := .prepare, digestA := some (1, 2, 0), digestB := some (1, 3, 0) }, by decide⟩

theorem witness_Equinox_10 : ∃ s : State, Memory.wf s = true ∧ eqxRuns s = true ∧ eqxLost s = true :=
  ⟨eqxState { RedUnit.reset with due := true, slate := SliceRed.fresh .out 0 false }, by decide⟩

theorem witness_Equinox_11 : ∃ (s : State) (n : Nat), Memory.wf s = true ∧ n = boundariesIn s (fld (rd s (pgRed + Reg.RED_EQX_DEFER)) 15 0 * 10 ^ 9) + 1 ∧
    s.red.stage = .deferred ∧ s.red.deferAlarmed = false ∧ passed s s.red.stageSince n = true :=
  ⟨eqxState { RedUnit.reset with due := true, stage := .deferred }, _, by decide, rfl, by decide⟩

theorem witness_Equinox_12 : ∃ (s : State) (via : Master), Memory.wf s = true ∧ PageReady s pgRed via ∧ Manages via ∧ s.power.phase = .normal ∧ simplex s = false ∧
    eqxRuns s = false := ⟨eqxState RedUnit.reset, .pf0, by decide, ⟨rfl, rfl⟩, .inr rfl, by decide, by decide, by decide⟩

theorem witness_Equinox_13 : ∃ (s : State) (via : Master), Memory.wf s = true ∧ PageReady s pgRed via ∧ Manages via ∧ s.power.phase ≠ .normal :=
  ⟨State.reset, .pf0, by decide, ⟨rfl, rfl⟩, .inr rfl, by decide⟩

end Sys2Proof.Machine
end

/-! SUPPORT. What an error and an unmapped access write, what a manager's access to an address without a register does, and
how a command code that a page does not define ends; from these, O24. -/
namespace Sys2Proof.Machine

/-! ### Register words -/

/-- In a canonical table, writing back what a key reads as changes nothing. -/
theorem twfFrom_tset_tget {α : Type} [DecidableEq α] (d : Nat → α) (k : Nat) : ∀ (t : Table α) (lo : Nat),
    twfFrom d lo t = true → tset d t k (tget d t k) = t
  | [], _, _ => by simp [tset]
  | (a, x) :: t, lo, h => by
    simp only [twfFrom, Bool.and_eq_true, decide_eq_true_eq] at h
    obtain ⟨⟨-, hx⟩, ht⟩ := h
    rcases Nat.lt_trichotomy k a with hlt | rfl | hgt
    · simp [tset, tget, hlt, Nat.ne_of_gt hlt, tget_below d t (a + 1) k ht (by omega)]
    · simp [tset, tget, hx]
    · simp [tset, tget, Nat.not_lt_of_gt hgt, Nat.ne_of_gt hgt, Nat.ne_of_lt hgt, twfFrom_tset_tget d k t (a + 1) ht]

/-- Writing back the word read changes nothing. -/
theorem wr_rd_self {s : State} (a : Nat) (h : twf regDflt s.regs = true) : wr s a (rd s a) = s := by
  unfold wr rd
  rw [twfFrom_tset_tget regDflt a s.regs 0 h]

theorem bumpBy_zero {s : State} (a : Nat) (h : twf regDflt s.regs = true) : bumpBy s a 0 = s := by
  unfold bumpBy
  rw [show rd s a + w32 0 = rd s a from BitVec.add_zero _]
  exact wr_rd_self a h

theorem rd_bump_same {s : State} (a : Nat) (h : twf regDflt s.regs = true) : rd (bump s a) a = rd s a + 1 :=
  rd_wr_same a _ h

theorem rd_bump_other {s : State} {a b : Nat} (h : a ≠ b) : rd (bump s a) b = rd s b := rd_wr_other _ h

theorem fbit_eq_testBit (w : Word) (n : Nat) : fbit w n = w.toNat.testBit n := by
  rw [fbit, Nat.testBit_eq_decide_div_mod_eq, Nat.shiftRight_eq_div_pow]; rfl

theorem fbit_or_two_pow (w : Word) {n : Nat} (hn : n < 32) : fbit (w ||| w32 (2 ^ n)) n = true := by
  have hlt : 2 ^ n < 2 ^ 32 := Nat.pow_lt_pow_right (by decide) hn
  rw [fbit_eq_testBit, BitVec.toNat_or, w32, BitVec.toNat_ofNat, Nat.mod_eq_of_lt hlt, Nat.testBit_or,
    Nat.testBit_two_pow_self, Bool.or_true]

/-! ### Errors (R157 to R159) -/

/-- The counters of the host interface that a fired vector may move (R259, R261). -/
def vectorCounters : List Nat := [pgHif 0 + Reg.HIF_PME_CNT, pgHif 0 + Reg.HIF_INT_DROP_CNT]

theorem rd_pmeEvent {s : State} (f : Nat) {a : Nat} (ha : a ∉ vectorCounters) : rd (pmeEvent s f) a = rd s a := by
  unfold pmeEvent
  split
  · exact rd_bump_other (fun e => ha (by simp [vectorCounters, ← e]))
  · rfl

theorem rd_setPba (s : State) (f v a : Nat) : rd (setPba s f v) a = rd s a := by
  unfold rd; rw [setPba_regs]

theorem rd_fireVector {s : State} (f v : Nat) {a : Nat} (ha : a ∉ vectorCounters) : rd (fireVector s f v) a = rd s a := by
  unfold fireVector
  split
  · exact (rd_pmeEvent f ha).trans (rd_setPba s f v a)
  · split
    · exact rd_bump_other (fun e => ha (by simp [vectorCounters, ← e]))
    · exact rd_setPba s f v a

theorem rd_summaryRise {s0 s1 : State} (page : Nat) {a : Nat} (ha : a ∉ vectorCounters) :
    rd (summaryRise s0 s1 page) a = rd s1 a := by
  unfold summaryRise
  split
  · rfl
  · split
    · exact rd_fireVector _ _ ha
    · rfl

/-- An error leaves every word but the page's two error words and the counters of a fired vector. -/
theorem rd_setErr_other {s : State} {page a : Nat} (n : Nat) (ha : a ∉ vectorCounters) (he : a ≠ page + Reg.PAGE_ERR)
    (hf : a ≠ page + Reg.PAGE_ERR_FIRST) : rd (setErr s page n) a = rd s a := by
  unfold setErr
  split
  · rfl
  · rw [rd_summaryRise page ha, recordFirst_rd _ _ _ _ _ _ hf, rd_wr_other _ he.symm]

/-- An error sets its bit of PAGE_ERR (R157). -/
theorem fbit_setErr {s : State} {page n : Nat} (hw : twf regDflt s.regs = true) (hn : n < 32)
    (ha : page + Reg.PAGE_ERR ∉ vectorCounters) : fbit (rd (setErr s page n) (page + Reg.PAGE_ERR)) n = true := by
  unfold setErr
  split
  · assumption
  · rw [rd_summaryRise page ha, recordFirst_rd _ _ _ _ _ _ (fun e => absurd (Nat.add_left_cancel e) (by decide)),
      rd_wr_same _ _ hw]
    exact fbit_or_two_pow _ hn

theorem twf_setErr {s : State} (page n : Nat) (hw : Memory.wf s = true) : twf regDflt (setErr s page n).regs = true :=
  Memory.wf_of_keeps (setErr_keeps (kk := ⟨false, false, false, false, false⟩) s page n (Keeps.refl s)) hw

/-! ### What a manager's access names -/

theorem busAddr_of_manages {via : Master} (hv : Manages via) {a : Nat} (ha : a < 0x4000000) : busAddr via a = some a := by
  rcases hv with rfl | rfl <;> exact if_pos ha

theorem tckOffset_lt {off : Nat} (h : off < 0x1000) : pgTck + off < 0x4000000 := by
  simp only [pgTck]; omega

theorem pageAt_tck {off : Nat} (h : off < 0x1000) : pageAt (pgTck + off) = some ⟨.tck, 0, pgTck⟩ := by
  have hlt : pgTck + off < 0x400000 := by simp only [pgTck]; omega
  have hdiv : (pgTck + off) / 0x1000 = 1 := by simp only [pgTck]; omega
  rw [pageAt, if_pos hlt, hdiv]
  rfl

/-- Only a tenant cipher page records a manager's access that names nothing (R24, R549). -/
theorem noteUndef_tck {s : State} {via : Master} (hv : Manages via) {off : Nat} (h : off < 0x1000) (write : Bool) :
    noteUndef s via (pgTck + off) write = s := by
  have hb : (busAddr via (pgTck + off)).bind pageAt = some ⟨.tck, 0, pgTck⟩ := by
    rw [busAddr_of_manages hv (tckOffset_lt h)]
    exact pageAt_tck h
  rcases hv with rfl | rfl <;> simp [noteUndef, hb]

/-- A served read of a sound word answers it and does what the access does, no more (R28, R248). -/
theorem readServed_sound {s t : State} {via : Master} {off : Nat} {w : Word} (hs : served s via false = true)
    (hr : readAccess s via off = (t, w, false)) (ht : twf regDflt t.regs = true) :
    readServed s via off = emit t (.readData via w false) := by
  unfold readServed
  rw [if_pos hs, hr]
  show emit (bumpBy t _ 0) _ = _
  rw [bumpBy_zero _ ht]

/-! ### Unmapped addresses (R176) -/

theorem readAccess_unmapped {s : State} {via : Master} (hv : Manages via) {a : Nat} (ha : a < 0x4000000)
    (ht : target a = .unmapped) : readAccess s via a = (noteUnmapped s via a false, 0, false) := by
  rw [readAccess, busAddr_of_manages hv ha]
  simp only [ht]

/-- The words a first unmapped access writes before the error is raised. -/
def unmappedSeen (s : State) (via : Master) (a : Nat) (write : Bool) : State :=
  if fbit (rd s (pgSys + Reg.PAGE_ERR)) 0 then s
  else wr (wr s (pgSys + Reg.SYS_UNMAPPED_ADDR) (w32 (a % 2 ^ 26))) (pgSys + Reg.SYS_UNMAPPED_SRC)
    (w32 (write.toNat + 2 * (decide (via = .maint)).toNat))

theorem noteUnmapped_eq (s : State) (via : Master) (a : Nat) (write : Bool) :
    noteUnmapped s via a write = bump (setErr (unmappedSeen s via a write) pgSys 0) (pgSys + Reg.SYS_UNMAPPED_CNT) := rfl

theorem unmappedSeen_wf {s : State} (via : Master) (a : Nat) (write : Bool) (hw : Memory.wf s = true) :
    Memory.wf (unmappedSeen s via a write) = true := by
  have hk : Keeps ⟨false, false, false, false, false⟩ s (unmappedSeen s via a write) := by
    unfold unmappedSeen
    exact Keeps.ite (Keeps.refl s) (wr_keeps _ _ (wr_keeps _ _ (Keeps.refl s)))
  exact hk.wf hw

theorem fbit_noteUnmapped {s : State} (via : Master) (a : Nat) (write : Bool) (hw : Memory.wf s = true) :
    fbit (rd (noteUnmapped s via a write) (pgSys + Reg.PAGE_ERR)) 0 = true := by
  rw [noteUnmapped_eq, rd_bump_other (by decide)]
  exact fbit_setErr (Memory.wf_regs (unmappedSeen_wf via a write hw)) (by decide) (by decide)

theorem rd_noteUnmapped_cnt {s : State} (via : Master) (a : Nat) (write : Bool) (hw : Memory.wf s = true) :
    rd (noteUnmapped s via a write) (pgSys + Reg.SYS_UNMAPPED_CNT) = rd s (pgSys + Reg.SYS_UNMAPPED_CNT) + 1 := by
  rw [noteUnmapped_eq, rd_bump_same _ (twf_setErr _ _ (unmappedSeen_wf via a write hw)),
    rd_setErr_other _ (by decide) (by decide) (by decide)]
  unfold unmappedSeen
  split
  · rfl
  · rw [rd_wr_other _ (by decide), rd_wr_other _ (by decide)]

theorem rd_noteUnmapped_addr {s : State} (via : Master) (a : Nat) (write : Bool) (hw : Memory.wf s = true)
    (hf : fbit (rd s (pgSys + Reg.PAGE_ERR)) 0 = false) :
    rd (noteUnmapped s via a write) (pgSys + Reg.SYS_UNMAPPED_ADDR) = w32 (a % 2 ^ 26) := by
  rw [noteUnmapped_eq, rd_bump_other (by decide), rd_setErr_other _ (by decide) (by decide) (by decide)]
  unfold unmappedSeen
  rw [if_neg (by rw [hf]; decide), rd_wr_other _ (by decide), rd_wr_same _ _ (Memory.wf_regs hw)]

/-! ### Accesses of the TCK page that name nothing -/

theorem readAccess_undef_tck {s : State} {via : Master} (hv : Manages via) {off : Nat} (h : off < 0x1000)
    (ht : target (pgTck + off) = .undef (some ⟨.tck, 0, pgTck⟩)) : readAccess s via (pgTck + off) = (s, 0, false) := by
  rw [readAccess, busAddr_of_manages hv (tckOffset_lt h)]
  simp only [ht, noteUndef_tck hv h]

theorem writeAccess_undef_tck {s : State} {via : Master} (hv : Manages via) {off : Nat} (h : off < 0x1000)
    (ht : target (pgTck + off) = .undef (some ⟨.tck, 0, pgTck⟩)) (hp : s.power.phase ≠ .recovery) (w : Word) :
    writeAccess s via (pgTck + off) w = s := by
  rw [writeAccess, busAddr_of_manages hv (tckOffset_lt h)]
  simp only [ht, noteUndef_tck hv h, hp, decide_false, Bool.false_and, Bool.false_eq_true, if_false]

theorem partialWrite_tck {s : State} {via : Master} (hv : Manages via) {off : Nat} (h : off < 0x1000) :
    partialWrite s via (pgTck + off) = setErr s pgTck 4 := by
  have hb := busAddr_of_manages hv (tckOffset_lt h)
  have hpage := pageAt_tck h
  rcases hv with rfl | rfl <;> simp [partialWrite, hb, hpage, partialBit]

theorem targetOf_manages {via : Master} (hv : Manages via) {a : Nat} (ha : a < 0x4000000) :
    targetOf via a = some (target a) := by
  rw [targetOf, busAddr_of_manages hv ha]; rfl

theorem Manages.ne_sync {via : Master} (hv : Manages via) : via ≠ .sync := by
  rcases hv with rfl | rfl <;> decide

/-! ### Command codes that a page does not define (R165) -/

theorem acceptCmd_eq {s : State} {page code seq : Nat} {via : Master} (hp : PlainPage page) :
    acceptCmd s page code seq via =
      { wrMany (wr s (page + Reg.CMD_RESULT) (w32 (65536 * (code % 256) + 2 ^ 24 * (seq % 256))))
          (page + Reg.CMD_OUT) [0, 0, 0] with
        running := s.running ++ [⟨page, code, seq, via, rd s (page + Reg.CMD_ARG),
          rd s (page + Reg.CMD_ARG + 4), rd s (page + Reg.CMD_ARG + 8)⟩] } := by
  obtain ⟨p1, p2⟩ := hp
  unfold acceptCmd
  rw [if_neg (fun e => e.elim p1 p2)]
  rfl

theorem recordFirst_frame (s : State) (page code st : Nat) (cmd : Bool) (r : Table Word) :
    { recordFirst s page code st cmd with regs := r } = { s with regs := r } := by
  unfold recordFirst
  split <;> rfl

theorem finishCmd_frame {s : State} {page st : Nat} {o0 o1 o2 : Word} {c : RunCmd} (hc : runningOn s page = some c)
    (hv : c.via ≠ .sync) (r : Table Word) :
    { finishCmd s page st o0 o1 o2 with regs := r }
      = { s with regs := r, running := s.running.filter (fun c => c.page != page) } := by
  unfold finishCmd
  rw [hc]
  dsimp only
  rw [if_neg hv]
  split
  · exact recordFirst_frame _ _ _ _ _ r
  · rfl

/-- The result word that acceptance writes does not have `refused` set. -/
theorem acceptedResult_and_two (c q : Nat) : w32 (65536 * c + 2 ^ 24 * q) &&& 2 = 0 := by
  apply BitVec.eq_of_toNat_eq
  have h : 65536 * c + 2 ^ 24 * q = 2 ^ 2 * (16384 * c + 2 ^ 22 * q) := by omega
  rw [BitVec.toNat_and, w32, BitVec.toNat_ofNat, h]
  show _ &&& 2 ^ 1 = 0
  apply Nat.eq_of_testBit_eq
  intro i
  rw [Nat.testBit_and, Nat.testBit_mod_two_pow, Nat.testBit_two_pow_mul, Nat.testBit_two_pow, Nat.zero_testBit]
  by_cases hi : 1 = i
  · subst hi; rfl
  · rw [decide_eq_false hi, Bool.and_false]

section
variable {s : State} {page code : Nat} {via : Master} {seq : Nat}

theorem acceptCmd_runningOn (hp : PlainPage page) (hi : runningOn s page = none) :
    runningOn (acceptCmd s page code seq via) page = some ⟨page, code, seq, via, rd s (page + Reg.CMD_ARG),
      rd s (page + Reg.CMD_ARG + 4), rd s (page + Reg.CMD_ARG + 8)⟩ := by
  rw [acceptCmd_eq hp]
  exact find_append_one _ _ _ hi (by simp)

theorem acceptCmd_frame (hp : PlainPage page) (hi : runningOn s page = none) :
    { acceptCmd s page code seq via with
      regs := s.regs, running := (acceptCmd s page code seq via).running.filter (fun c => c.page != page) } = s := by
  have hf := filter_append_one (fun c : RunCmd => c.page == page) s.running ⟨page, code, seq, via,
    rd s (page + Reg.CMD_ARG), rd s (page + Reg.CMD_ARG + 4), rd s (page + Reg.CMD_ARG + 8)⟩ hi (by simp)
  rw [acceptCmd_eq hp]
  show { s with running := List.filter _ _ } = s
  exact congrArg (fun l => { s with running := l }) hf

theorem acceptCmd_twf (hp : PlainPage page) (hw : twf regDflt s.regs = true) :
    twf regDflt (acceptCmd s page code seq via).regs = true := by
  rw [acceptCmd_eq hp]
  exact twf_wrMany _ _ _ (twf_wr _ _ hw)

theorem acceptCmd_result (hp : PlainPage page) (hw : twf regDflt s.regs = true) :
    rd (acceptCmd s page code seq via) (page + Reg.CMD_RESULT) = w32 (65536 * (code % 256) + 2 ^ 24 * (seq % 256)) := by
  rw [acceptCmd_eq hp]
  show rd (wrMany (wr s (page + Reg.CMD_RESULT) _) (page + Reg.CMD_OUT) [0, 0, 0]) (page + Reg.CMD_RESULT) = _
  rw [rd_wrMany_other _ _ _ _ (.inl (Nat.add_lt_add_left (by decide) page)), rd_wr_same _ _ hw]

theorem issueCmd_undefined (hb : s.power.bringupDone = true) (hi : runningOn s page = none) :
    issueCmd none page code seq via s = endCmd (acceptCmd s page code seq via) page stBAD_ARG := by
  simp [issueCmd, hb, hi]

/-- A code that the page does not define ends at once with BAD_ARG, and nothing but registers changes (R165). -/
theorem issueCmd_undefined_ends (hw : twf regDflt s.regs = true) (hp : PlainPage page) (hb : s.power.bringupDone = true)
    (hi : runningOn s page = none) (hv : via ≠ .sync) :
    rd (issueCmd none page code seq via s) (page + Reg.CMD_RESULT)
        = w32 (1 + 256 * stBAD_ARG + 65536 * (code % 256) + 2 ^ 24 * (seq % 256))
      ∧ runningOn (issueCmd none page code seq via s) page = none
      ∧ { issueCmd none page code seq via s with regs := s.regs } = s := by
  have hrun := acceptCmd_runningOn (code := code) (seq := seq) (via := via) hp hi
  have hclear : rd (acceptCmd s page code seq via) (page + Reg.CMD_RESULT) &&& 2 = 0 := by
    rw [acceptCmd_result hp hw, acceptedResult_and_two]
  rw [issueCmd_undefined hb hi]
  refine ⟨(finishCmd_result 0 0 0 (acceptCmd_twf hp hw) hrun hclear).1, finishCmd_idle _ _ _ _ _ _, ?_⟩
  exact (finishCmd_frame hrun hv s.regs).trans (acceptCmd_frame hp hi)

end

theorem tckPlain : PlainPage pgTck := ⟨by decide, by decide⟩

theorem served_bringupDone {s : State} {via : Master} {write : Bool} (h : served s via write = true) :
    s.power.bringupDone = true := (Bool.and_eq_true_iff.1 h).1

theorem cmdSpec_tck_undefined (s : State) {code : Nat} (h : code = 0 ∨ 3 < code) :
    cmdSpec s ⟨.tck, 0, pgTck⟩ code = none := by
  unfold cmdSpec
  dsimp only
  split
  · rfl
  · exact List.getElem?_eq_none (by simp only [List.length_cons, List.length_nil]; omega)

theorem exec_undefinedCommandCode_tck {s : State} {via : Master} (hv : Manages via) (hs : served s via true = true)
    {code : Byte} (seq : Byte) (hc : code = 0 ∨ 3 < code.toNat) :
    exec (.undefinedCommandCode via pgTck code seq) s = .next (issueCmd none pgTck code.toNat seq.toNat via s) := by
  have hpage : (busAddr via pgTck).bind pageAt = some ⟨.tck, 0, pgTck⟩ := by
    rw [busAddr_of_manages hv (by decide)]
    rfl
  have hspec : cmdSpec s ⟨.tck, 0, pgTck⟩ code.toNat = none :=
    cmdSpec_tck_undefined s (hc.imp (fun e => by rw [e]; rfl) id)
  show execUndefinedCommandCode via pgTck code seq s = _
  simp [execUndefinedCommandCode, hpage, hs, hspec, PageAt.hasCmd, PageKind.hasCmd]

/-! ### The rows -/

theorem exec_unmappedAccess_read {s : State} {via : Master} (hw : Memory.wf s = true) (hv : Manages via)
    (hs : served s via false = true) {a : Nat} (ha : a < 0x4000000) (ht : target a = .unmapped) :
    exec (.unmappedAccess via a none) s = .next (emit (noteUnmapped s via a false) (.readData via 0 false)) := by
  have hk := noteUnmapped_keeps (kk := ⟨false, false, false, false, false⟩) s via a false (Keeps.refl s)
  have hread := readServed_sound hs (readAccess_unmapped hv ha ht) (Memory.wf_of_keeps hk hw)
  show execUnmappedAccess via a none s = _
  simp only [execUnmappedAccess, targetOf_manages hv ha, ht, accessServed, hread]

theorem exec_undefinedOffsetAccess_tck {s : State} {via : Master} (hv : Manages via) {off : Nat} (ho : off < 0x1000)
    (ht : target (pgTck + off) = .undef (some ⟨.tck, 0, pgTck⟩)) (w : Option Word) :
    exec (.undefinedOffsetAccess via (pgTck + off) w) s = .next (accessServed s via (pgTck + off) w) := by
  show execUndefinedOffsetAccess via (pgTck + off) w s = _
  simp only [execUndefinedOffsetAccess, targetOf_manages hv (tckOffset_lt ho), ht]

theorem exec_partialWrite_tck {s : State} {via : Master} (hv : Manages via) (hs : served s via true = true) {off : Nat}
    (ho : off < 0x1000) : exec (.partialWrite via (pgTck + off)) s = .next (setErr s pgTck 4) := by
  show execPartialWrite via (pgTck + off) s = _
  rw [execPartialWrite, if_pos hs, partialWrite_tck hv ho]

/-- Behind its error words the TCK page reads as before an error. -/
theorem rd_setErr_tck {s : State} (n : Nat) {off : Nat} (hlo : 0x28 ≤ off) (hhi : off < 0x1000) :
    rd (setErr s pgTck n) (pgTck + off) = rd s (pgTck + off) := by
  have hc : ∀ c ∈ vectorCounters, 0x2000 ≤ c := by decide
  have herr : Reg.PAGE_ERR < 0x28 ∧ Reg.PAGE_ERR_FIRST < 0x28 := by decide
  exact rd_setErr_other n (fun h => absurd (hc _ h) (by simp only [pgTck]; omega)) (by omega) (by omega)

/-- Settles O24: each access names nothing, so its row is one error record or none at all. -/
theorem accessesThatNameNothing : Obligations.AccessesThatNameNothing := by
  intro s via w hw hv hsw hsr
  have hr := Memory.wf_regs hw
  refine ⟨fun a ha ht => ?_, fun off ht ho => ⟨?_, fun hp => ?_⟩, fun off ho => ?_, fun code seq hc hi => ?_⟩
  · refine ⟨_, exec_unmappedAccess_read hw hv hsr ha ht, rfl, fbit_noteUnmapped via a false hw,
      rd_noteUnmapped_cnt via a false hw, fun hf => ?_⟩
    exact (rd_noteUnmapped_addr via a false hw hf).trans (congrArg w32 (Nat.mod_eq_of_lt ha))
  · rw [exec_undefinedOffsetAccess_tck hv ho ht, accessServed, readServed_sound hsr (readAccess_undef_tck hv ho ht) hr]
  · rw [exec_undefinedOffsetAccess_tck hv ho ht, accessServed, writeServed, if_pos hsw, writeAccess_undef_tck hv ho ht hp]
  · exact ⟨_, exec_partialWrite_tck hv hsw ho, fbit_setErr hr (by decide) (by decide), setErr_tck _ _ _, setErr_time _ _ _,
      setErr_running _ _ _, fun hlo => rd_setErr_tck 4 hlo ho⟩
  · obtain ⟨hres, hidle, hframe⟩ := issueCmd_undefined_ends (code := code.toNat) (seq := seq.toNat) hr tckPlain
      (served_bringupDone hsw) hi hv.ne_sync
    refine ⟨_, exec_undefinedCommandCode_tck hv hsw seq hc, ?_, hidle, hframe⟩
    rw [hres, Nat.mod_eq_of_lt code.isLt, Nat.mod_eq_of_lt seq.isLt]

end Sys2Proof.Machine

/-! SUPPORT. Every row of the command table answers a next state; from this and `exec_keeps`, O5. -/
namespace Sys2Proof.Machine

/-- A row answers: it goes on to a next state, by no fault and no refusal. -/
def Answers (o : Host.Outcome State Fault Refusal) : Prop := ∃ t, o = .next t

theorem Answers.next (t : State) : Answers (.next t) := ⟨t, rfl⟩

theorem Answers.ite {c : Prop} [Decidable c] {a b : Host.Outcome State Fault Refusal} (ha : Answers a) (hb : Answers b) :
    Answers (if c then a else b) := by
  split <;> assumption

/-! ### PCIe endpoint -/

theorem execTagHoldEnd_answers (tag s) : Answers (execTagHoldEnd tag s) := by
  unfold execTagHoldEnd
  split
  · exact .next _
  · split <;> exact .next _

/-! ### Work queues -/

theorem execEntryFinish_answers (wq idx s) : Answers (execEntryFinish wq idx s) := by
  unfold execEntryFinish
  split
  · exact .next _
  · split
    · exact .ite (.next _) (.ite (.next _) (.next _))
    · exact .next _

theorem execCompletionEntryWrite_answers (n s) : Answers (execCompletionEntryWrite n s) := by
  unfold execCompletionEntryWrite
  refine .ite (.next _) ?_
  split
  · exact .next _
  · exact .ite (.next _) (.next _)

/-! ### DMA engine -/

theorem execCompletionReceived_answers (c s) : Answers (execCompletionReceived c s) := by
  unfold execCompletionReceived
  refine .ite (.next _) ?_
  split
  · exact .next _
  · exact .ite (.next _) (.ite (.next _) (.ite (.next _) (.ite (.next _) (.ite (.next _) (.next _)))))

theorem execCompletionTimeout_answers (tag s) : Answers (execCompletionTimeout tag s) := by
  unfold execCompletionTimeout
  split
  · exact .next _
  · exact .ite (.next _) (.ite (.next _) (.next _))

theorem execWorkEntryFetch_answers (a s) : Answers (execWorkEntryFetch a s) := by
  unfold execWorkEntryFetch
  refine .ite (.next _) ?_
  extract_lets
  split
  · exact .next _
  · split <;> exact .next _

theorem execPhaseRefetch_answers (wq idx s) : Answers (execPhaseRefetch wq idx s) := by
  unfold execPhaseRefetch
  split
  · exact .next _
  · split
    · exact .ite (.next _) (.next _)
    · exact .next _

theorem execTxEntry_answers (wq idx s) : Answers (execTxEntry wq idx s) := by
  unfold execTxEntry
  split
  · exact .next _
  · refine .ite (.next _) ?_
    split
    · exact .next _
    · exact .ite (.next _) (.next _)
    · exact .next _
    · exact .next _

theorem execFillEntry_answers (wq idx s) : Answers (execFillEntry wq idx s) := by
  unfold execFillEntry
  split
  · exact .next _
  · refine .ite (.next _) ?_
    split
    · exact .next _
    · exact .ite (.next _) (.next _)
    · exact .next _

theorem execCopyEntry_answers (wq idx s) : Answers (execCopyEntry wq idx s) := by
  unfold execCopyEntry
  split
  · exact .next _
  · refine .ite (.next _) ?_
    split
    · exact .next _
    · exact .ite (.next _) (.ite (.ite (.next _) (.next _)) (.ite (.ite (.next _) (.next _)) (.ite (.next _) (.next _))))
    · exact .next _

theorem execDmaReadIssue_answers (wq idx s) : Answers (execDmaReadIssue wq idx s) := by
  unfold execDmaReadIssue
  split
  · exact .next _
  · split
    · exact .next _
    · refine .ite (.next _) ?_
      split <;> exact .next _

theorem execDmaWriteIssue_answers (wq idx s) : Answers (execDmaWriteIssue wq idx s) := by
  unfold execDmaWriteIssue
  split
  · exact .next _
  · split
    · refine .ite (.next _) (.ite (.next _) ?_)
      split <;> exact .next _
    · exact .next _

/-! ### Forwarding tables -/

theorem execLearnEventApply_answers (sl s) : Answers (execLearnEventApply sl s) := by
  unfold execLearnEventApply
  extract_lets
  split
  · exact .next _
  · exact .ite (.next _) (.ite (.next _) (.next _))

theorem execStashDrain_answers (sl s) : Answers (execStashDrain sl s) := by
  unfold execStashDrain
  extract_lets
  split
  · exact .next _
  · exact .ite (.next _) (.ite (.next _) (.ite (.next _) (.next _)))

/-! ### Cipher -/

theorem execKeyDerivation_answers (sl s) : Answers (execKeyDerivation sl s) := by
  unfold execKeyDerivation
  refine .ite (.next _) ?_
  split
  · refine .ite (.next _) ?_
    extract_lets
    split <;> exact .next _
  · split
    · exact .next _
    · refine .ite (.next _) (.ite (.next _) ?_)
      extract_lets
      split <;> exact .next _
  · exact .next _

theorem execDecryptStart_answers (c s) : Answers (execDecryptStart c s) := by
  unfold execDecryptStart
  split
  · exact .next _
  · split
    · exact .next _
    · refine .ite (.next _) ?_
      split
      · exact .next _
      · refine .ite (.next _) ?_
        split
        · exact .next _
        · exact .ite (.next _) (.next _)

theorem execDecryptVerify_answers (frame s) : Answers (execDecryptVerify frame s) := by
  unfold execDecryptVerify
  split
  · split
    · refine .ite (.next _) (.ite (.next _) ?_)
      extract_lets
      split
      · exact .next _
      · split
        · exact .next _
        · extract_lets
          split
          · exact .next _
          · refine .ite (.next _) ?_
            extract_lets
            split
            · exact .next _
            · exact .ite (.next _) (.next _)
    · exact .next _
  · exact .next _

theorem execDecryptRelease_answers (frame s) : Answers (execDecryptRelease frame s) := by
  unfold execDecryptRelease
  split
  · split
    · exact .ite (.next _) (.next _)
    · exact .next _
  · exact .next _

theorem execEncryptFrame_answers (frame s) : Answers (execEncryptFrame frame s) := by
  unfold execEncryptFrame
  split
  · split
    · exact .ite (.next _) (.next _)
    · exact .ite (.next _) (.ite (.next _) (.ite (.next _) (.ite (.next _) (.ite (.next _) (.ite (.next _) (.next _))))))
    · exact .next _
  · exact .next _

/-! ### Header processing -/

theorem execHeaderProcess_answers (s) : Answers (execHeaderProcess s) := by
  unfold execHeaderProcess
  refine .ite (.next _) ?_
  split <;> exact .next _

theorem execReentry_answers (s) : Answers (execReentry s) := by
  unfold execReentry
  refine .ite (.next _) ?_
  split
  · exact .next _
  · extract_lets
    split <;> exact .next _

/-! ### Scheduling -/

theorem execSchedulerSelect_answers (p s) : Answers (execSchedulerSelect p s) := by
  unfold execSchedulerSelect
  refine .ite (.next _) ?_
  split
  · exact .next _
  · extract_lets
    split
    · exact .next _
    · split <;> exact .next _

theorem execRxDeliver_answers (n s) : Answers (execRxDeliver n s) := by
  unfold execRxDeliver
  extract_lets
  split
  · exact .next _
  · split
    · exact .next _
    · refine .ite (.next _) (.ite (.next _) (.ite (.next _) ?_))
      split
      · exact .next _
      · exact .ite (.next _) (.next _)

theorem execSpillWrite_answers (p c s) : Answers (execSpillWrite p c s) := by
  unfold execSpillWrite
  extract_lets
  split
  · exact .next _
  · split
    · exact .next _
    · exact .ite (.next _) (.ite (.next _) (.next _))

theorem execSpillReadBack_answers (p c s) : Answers (execSpillReadBack p c s) := by
  unfold execSpillReadBack
  extract_lets
  split
  · exact .next _
  · exact .ite (.next _) (.next _)

/-! ### Cabinet bus -/

theorem execP6FrameReceive_answers (cyc bytes code s) : Answers (execP6FrameReceive cyc bytes code s) := by
  unfold execP6FrameReceive
  refine .ite (.next _) (.ite (.next _) (.ite (.next _) ?_))
  extract_lets
  split <;> exact .next _

theorem execCollisionDetect_answers (cyc bitTime s) : Answers (execCollisionDetect cyc bitTime s) := by
  unfold execCollisionDetect
  extract_lets
  split
  · exact .next _
  · exact .ite (.next _) (.ite (.next _) (.next _))

theorem execTxClkLost_answers (s) : Answers (execTxClkLost s) := by
  unfold execTxClkLost
  refine .ite ?_ (.next _)
  extract_lets
  split <;> exact .next _

/-! ### Carlis -/

theorem execCarlisPutEntry_answers (wq idx s0) : Answers (execCarlisPutEntry wq idx s0) := by
  unfold execCarlisPutEntry
  split
  · exact .next _
  · refine .ite (.next _) ?_
    split
    · refine .ite (.next _) ?_
      split <;> exact .next _
    · extract_lets
      split
      · exact .next _
      · exact .ite (.next _) (.next _)
    · split
      · exact .ite (.next _) (.next _)
      · exact .next _
    · exact .next _

theorem execCarlisCommitEntry_answers (wq idx s0) : Answers (execCarlisCommitEntry wq idx s0) := by
  unfold execCarlisCommitEntry
  split
  · exact .next _
  · refine .ite (.next _) ?_
    split
    · refine .ite (.next _) ?_
      split <;> exact .next _
    · extract_lets
      split
      · exact .next _
      · exact .ite (.next _) (.next _)
    · exact .next _

theorem execHelloSend_answers (c s) : Answers (execHelloSend c s) := by
  unfold execHelloSend
  extract_lets
  split
  · exact .next _
  · refine .ite (.next _) ?_
    extract_lets
    split <;> exact .next _

theorem execChunkSend_answers (c s) : Answers (execChunkSend c s) := by
  unfold execChunkSend
  extract_lets
  split
  · exact .next _
  · refine .ite (.next _) ?_
    extract_lets
    split <;> exact .next _

theorem execCommitSend_answers (c s) : Answers (execCommitSend c s) := by
  unfold execCommitSend
  extract_lets
  split
  · exact .next _
  · refine .ite (.next _) ?_
    split <;> exact .next _

theorem execChunkApply_answers (c s) : Answers (execChunkApply c s) := by
  unfold execChunkApply
  extract_lets
  split
  · exact .next _
  · split
    · exact .next _
    · refine .ite (.next _) ?_
      split
      · exact .next _
      · exact .ite (.next _) (.ite (.next _) (.next _))

theorem execAckSend_answers (c s) : Answers (execAckSend c s) := by
  unfold execAckSend
  extract_lets
  split
  · exact .next _
  · refine .ite (.next _) ?_
    split
    · refine .ite (.next _) ?_
      extract_lets
      split <;> exact .next _
    · split
      · exact .next _
      · refine .ite (.next _) ?_
        extract_lets
        split <;> exact .next _

theorem execRetransmitTimerExpiry_answers (c s) : Answers (execRetransmitTimerExpiry c s) := by
  unfold execRetransmitTimerExpiry
  extract_lets
  split
  · exact .next _
  · exact .ite (.next _) (.next _)

/-! ### Admission -/

theorem execAdmissionSelect_answers (s) : Answers (execAdmissionSelect s) := by
  unfold execAdmissionSelect
  refine .ite (.next _) ?_
  extract_lets
  split
  · exact .next _
  · split
    · exact .next _
    · extract_lets
      split
      · exact .next _
      · split <;> exact .next _

/-! ### Custody -/

theorem execLoadWrapped_answers (s) : Answers (execLoadWrapped s) := by
  unfold execLoadWrapped
  split
  · exact .next _
  · refine .ite (.next _) ?_
    split
    · exact .next _
    · refine .ite (.next _) ?_
      split <;> exact .next _

theorem execSlotInfo_answers (s) : Answers (execSlotInfo s) := by
  unfold execSlotInfo
  split
  · exact .next _
  · extract_lets
    split <;> exact .next _

/-! ### Equinox -/

theorem execEquinoxPrepare_answers (s) : Answers (execEquinoxPrepare s) := by
  unfold execEquinoxPrepare
  refine .ite (.next _) (.ite (.next _) (.ite (.next _) ?_))
  split <;> exact .next _

/-! ### Configuration requests -/

theorem execConfigRequest_answers (fn off be w s) : Answers (execConfigRequest fn off be w s) := by
  unfold execConfigRequest
  refine .ite (.next _) (.ite (.next _) (.ite (.next _) ?_))
  split <;> exact .next _

/-! ### Accesses by the host -/

theorem execHostMemoryRequest_answers (fn bar off len be data ep ecrcBad s) :
    Answers (execHostMemoryRequest fn bar off len be data ep ecrcBad s) := by
  unfold execHostMemoryRequest
  refine .ite (.next _) (.ite (.next _) (.ite (.next _) (.ite (.next _) (.ite (.next _) (.ite (.next _)
    (.ite ?_ (.ite (.next _) (.ite (.next _) ?_))))))))
  · split
    · exact .next _
    · exact .ite (.next _) (.next _)
  · split
    · exact .next _
    · exact .ite (.next _) (.next _)

/-- Every command answers. The rows named are those that branch, by the shape of their branches; every other row is one
next state. -/
theorem exec_answers (c : Instr) (s : State) : Answers (exec c s) := by
  cases c with
  | configRequest fn off be w => exact execConfigRequest_answers _ _ _ _ _
  | hostMemoryRequest fn bar off len be data ep ecrcBad => exact execHostMemoryRequest_answers _ _ _ _ _ _ _ _ _
  | completionReceived c => exact execCompletionReceived_answers _ _
  | completionTimeout tag => exact execCompletionTimeout_answers _ _
  | tagHoldEnd tag => exact execTagHoldEnd_answers _ _
  | workEntryFetch a => exact execWorkEntryFetch_answers _ _
  | phaseRefetch wq idx => exact execPhaseRefetch_answers _ _ _
  | txEntry wq idx => exact execTxEntry_answers _ _ _
  | fillEntry wq idx => exact execFillEntry_answers _ _ _
  | copyEntry wq idx => exact execCopyEntry_answers _ _ _
  | carlisPutEntry wq idx => exact execCarlisPutEntry_answers _ _ _
  | carlisCommitEntry wq idx => exact execCarlisCommitEntry_answers _ _ _
  | dmaReadIssue wq idx => exact execDmaReadIssue_answers _ _ _
  | dmaWriteIssue wq idx => exact execDmaWriteIssue_answers _ _ _
  | entryFinish wq idx => exact execEntryFinish_answers _ _ _
  | completionEntryWrite n => exact execCompletionEntryWrite_answers _ _
  | loadWrapped => exact execLoadWrapped_answers _
  | slotInfo => exact execSlotInfo_answers _
  | headerProcess => exact execHeaderProcess_answers _
  | reentry => exact execReentry_answers _
  | learnEventApply sl => exact execLearnEventApply_answers _ _
  | stashDrain sl => exact execStashDrain_answers _ _
  | admissionSelect => exact execAdmissionSelect_answers _
  | schedulerSelect p => exact execSchedulerSelect_answers _ _
  | rxDeliver n => exact execRxDeliver_answers _ _
  | spillWrite p c => exact execSpillWrite_answers _ _ _
  | spillReadBack p c => exact execSpillReadBack_answers _ _ _
  | p6FrameReceive cyc bytes code => exact execP6FrameReceive_answers _ _ _ _
  | collisionDetect cyc bitTime => exact execCollisionDetect_answers _ _ _
  | txClkLost => exact execTxClkLost_answers _
  | keyDerivation sl => exact execKeyDerivation_answers _ _
  | decryptStart c => exact execDecryptStart_answers _ _
  | decryptVerify frame => exact execDecryptVerify_answers _ _
  | decryptRelease frame => exact execDecryptRelease_answers _ _
  | encryptFrame frame => exact execEncryptFrame_answers _ _
  | helloSend c => exact execHelloSend_answers _ _
  | chunkSend c => exact execChunkSend_answers _ _
  | commitSend c => exact execCommitSend_answers _ _
  | chunkApply c => exact execChunkApply_answers _ _
  | ackSend c => exact execAckSend_answers _ _
  | retransmitTimerExpiry c => exact execRetransmitTimerExpiry_answers _ _
  | equinoxPrepare => exact execEquinoxPrepare_answers _
  | powerOnMonitorRelease =>
    exact .ite (.ite (.next _) (.next _)) (.next _)
  | flrComplete | patrolScrubBurst =>
    exact .ite (.next _) (.ite (.next _) (.ite (.next _) (.ite (.next _) (.next _))))
  | trainingAttemptEnd | transmitOpportunity | selftestPassEnd =>
    exact .ite (.next _) (.ite (.next _) (.next _))
  | perstAssert | perstDeassert | coreRailLoss | sysclkLoss | warmResetAssert | internalResetRelease | tickBoundary
  | ppsInEdge | i2cWordRead | vfChangeComplete | pmeRepeat | pmeTurnOff | msixTableWrite | logRingWrite | msixMessageSend
  | mailboxDeliver | submit | verifyMpacketReceived | lpiReceived | pfcRefresh | ageingVisit | lpmRowRepair | beaconReceived
  | beaconSend | plcaBeaconTimeout | flipApply | sliceResetEnd | equinoxAbandon | equinoxDeferAlarm | alarmSourceActive
  | sensorSample | crimsonCacheInvalidate =>
    exact .ite (.next _) (.next _)
  | bringupStageEnd | moderationTimerExpiry | nopEntry | rxPostEntry | tickCopyOutvoted | enterRecovery | onlineCheckFire
  | readRecord | switchOver | setAliasWrite | clearAliasWrite | unmappedAccess | undefinedOffsetAccess | windowWrite
  | shaperEntryWrite | policerEntryWrite | saValidate | saInvalidate =>
    simp only [exec, execBringupStageEnd, execModerationTimerExpiry, execNopEntry, execRxPostEntry, execTickCopyOutvoted,
      execEnterRecovery, execOnlineCheckFire, execReadRecord, execSwitchOver, execSetAliasWrite, execClearAliasWrite,
      execUnmappedAccess, execUndefinedOffsetAccess, execWindowWrite, execShaperEntryWrite, execPolicerEntryWrite,
      execSaValidate, execSaInvalidate]
    split <;> exact .next _
  | commitApply | loadPlain | eraseSlot | equinoxSwap | undefinedCommandCode =>
    simp only [exec, execCommitApply, execLoadPlain, execEraseSlot, execEquinoxSwap, execUndefinedCommandCode]
    split
    · exact .next _
    · exact .ite (.next _) (.next _)
  | _ => exact .next _

/-- Settles O5: no branch of any row ends in a fault or a refusal, and every command keeps the queue (`exec_keeps`). -/
theorem commandsAnswer : Obligations.CommandsAnswer := by
  intro c s
  obtain ⟨t, ht⟩ := exec_answers c s
  exact ⟨t, ht, (exec_keeps c s t ht).pending⟩

end Sys2Proof.Machine

/-! SUPPORT. Which commands the kinds of Laws/Exec.lean leave the clock and the phase alone for; from these and
`exec_keeps`, O29. -/
namespace Sys2Proof.Machine

section
variable {c : Instr} (hboundary : ∀ b, c ≠ .tickBoundary b) (hpower : ∀ n, c ≠ .powerOn n) (hperst : c ≠ .perstAssert)
  (hrail : c ≠ .coreRailLoss) (hclock : c ≠ .sysclkLoss) (hwarm : ∀ l, c ≠ .warmResetAssert l)
include hboundary hpower hperst hrail hclock hwarm

/-- Outside the tick boundary and the device resets, time and the numbering of ticks stay (R76, R91, R103), and the phase
too but at the end of a bring-up stage (R215). -/
theorem kindOf_clk_and_pha :
    (kindOf c).clk = true ∧ ((∀ us f, c ≠ .bringupStageEnd us f) → (kindOf c).pha = true) := by
  cases c with
  | tickBoundary b => exact absurd rfl (hboundary b)
  | powerOn n => exact absurd rfl (hpower n)
  | perstAssert => exact absurd rfl hperst
  | coreRailLoss => exact absurd rfl hrail
  | sysclkLoss => exact absurd rfl hclock
  | warmResetAssert l => exact absurd rfl (hwarm l)
  | bringupStageEnd us f => exact ⟨rfl, fun hstage => absurd rfl (hstage us f)⟩
  | _ => exact ⟨rfl, fun _ => rfl⟩

end

/-- Settles O29: each command keeps what its kind says, and the kinds that let the clock or the phase go are those of the
commands excepted. -/
theorem phaseAndTimeMoveOnlyAtBoundaries : Obligations.PhaseAndTimeMoveOnlyAtBoundaries := by
  intro c s t h hboundary hpower hperst hrail hclock hwarm
  have hkeeps : Keeps (kindOf c) s t := exec_keeps c s t h
  obtain ⟨hclk, hpha⟩ := kindOf_clk_and_pha hboundary hpower hperst hrail hclock hwarm
  have hheld := hkeeps.clock hclk
  simp only [clockOf, Prod.mk.injEq] at hheld
  obtain ⟨hptp, hvalid, htick, hphi, hlen, hperiod, hboundaries, hcycles⟩ := hheld
  exact ⟨hptp, hvalid, htick, hphi, hlen, hperiod, hboundaries, hcycles,
    fun hstage => Prod.mk.inj (hkeeps.phase (hpha hstage))⟩

end Sys2Proof.Machine

/-! SUPPORT. A command row that waits after acceptance, and what a tick boundary makes of a waiting TMS command; from
these, O15. -/
namespace Sys2Proof.Machine

section
variable {s : State} {page code : Nat} {via : Master} {seq : Byte} {a0 a1 a2 : Word} {spec : CmdSpec}

/-- An accepted row whose body leaves the command waiting changes nothing but the page's command registers (R163). -/
theorem commandRow_waits (hw : twf regDflt s.regs = true) (hp : PlainPage page) (hr : PageReady s page via)
    (hrole : spec.role via = true) (hph : spec.phases s.power.phase = true) (hc : code < 256)
    (hbody : ∀ u, spec.body ⟨page, code, seq.toNat, via, a0, a1, a2⟩ u = u) :
    CmdRuns s (commandRow spec page code via seq a0 a1 a2 s) page code seq.toNat via (a0, a1, a2)
      ∧ { commandRow spec page code via seq a0 a1 a2 s with regs := s.regs, running := s.running } = s := by
  obtain ⟨r, n, hrow, hruns, -, -⟩ :=
    commandRow_started (code := code) (seq := seq) (a0 := a0) (a1 := a1) (a2 := a2) hw hp hr hrole hph hc
  rw [hrow, hbody]
  exact ⟨hruns, rfl⟩

end

theorem Manages.isGlobal {via : Master} (hv : Manages via) : Master.isGlobal via = true := by
  rcases hv with rfl | rfl <;> rfl

theorem tmsPlain : PlainPage pgTms := ⟨by decide, by decide⟩

/-- A SET_TIME of 10^9 ns or more ends at once, and time and tick stay (R88). -/
theorem commandRow_setTime_refused {s : State} {via : Master} {seq : Byte} {a0 a1 a2 : Word}
    (hw : twf regDflt s.regs = true) (hr : PageReady s pgTms via) (hv : Manages via) (ha : 10 ^ 9 ≤ a0.toNat) :
    runningOn (commandRow specSetTime pgTms 1 via seq a0 a1 a2 s) pgTms = none
      ∧ (commandRow specSetTime pgTms 1 via seq a0 a1 a2 s).time = s.time
      ∧ (commandRow specSetTime pgTms 1 via seq a0 a1 a2 s).tck = s.tck := by
  obtain ⟨r, n, hrow, -, -, -⟩ := commandRow_started (spec := specSetTime) (code := 1) (seq := seq) (a0 := a0) (a1 := a1)
    (a2 := a2) hw tmsPlain hr hv.isGlobal rfl (by decide)
  have hbody : ∀ u : State, specSetTime.body ⟨pgTms, 1, seq.toNat, via, a0, a1, a2⟩ u = endCmd u pgTms stBAD_ARG :=
    fun u => if_pos ha
  rw [hrow, hbody]
  exact ⟨finishCmd_idle _ _ _ _ _ _, endCmd_time _ _ _, endCmd_tck _ _ _⟩

/-! ### The boundary -/

/-- The time a waiting TMS command sets at the boundary at which PTP time has reached p (R83, R88). -/
def timeSet (cmd : Option RunCmd) (p : Nat) : Option Nat :=
  match cmd with
  | some c => if c.code = 1 then some (setTimeValue c) else if c.code = 2 then stepTimeValue p c else none
  | none => none

/-- What a boundary counts and signals of the tick it numbers (R96 to R99). -/
def reportTick (nb : Numbering) (n : Nat) (s1 : State) : State :=
  let s2 := if nb.realign then signal (bump s1 (pgTck + Reg.TCK_REALIGN_CNT)) (srcEdge 2 0 3) 0 1 else s1
  let s3 := if nb.len = n + 1 then signal (bump s2 (pgTck + Reg.TCK_SLIP_INS)) (srcEdge 2 0 1) 0 1
    else if nb.len + 1 = n then signal (bump s2 (pgTck + Reg.TCK_SLIP_REM)) (srcEdge 2 0 2) 0 1 else s2
  signal (if nb.lost then amber (setErr s3 pgTck 1) 0x11 else s3) (srcEdge 2 0 0) 0 1

/-- How a waiting TMS command ends at the boundary: `isSet` where it has set the time to p (R83, R84, R88). -/
def endTimeCmd (cmd : Option RunCmd) (isSet : Bool) (p : Nat) (s : State) : State :=
  match cmd with
  | none => s
  | some c =>
    let t := s.tck.tick
    if c.code = 1 then finishCmd s pgTms stOK (lo32 t) (hi32 t) 0
    else if c.code = 2 then
      if isSet then finishCmd s pgTms stOK (lo32 t) (hi32 t) 0 else endCmd s pgTms stBAD_ARG
    else finishCmd s pgTms stOK (w32 (ptpNs p % 10 ^ 9)) (lo32 (ptpNs p / 10 ^ 9)) (lo32 t)

theorem reportTick_time (nb : Numbering) (n : Nat) (s : State) : (reportTick nb n s).time = s.time := by
  simp only [reportTick, apply_ite State.time, signal_time, amber_time, setErr_time, bump_time, ite_self]

theorem endTimeCmd_time (cmd : Option RunCmd) (isSet : Bool) (p : Nat) (s : State) :
    (endTimeCmd cmd isSet p s).time = s.time := by
  cases cmd with
  | none => rfl
  | some c => simp only [endTimeCmd, apply_ite State.time, finishCmd_time, endCmd_time, ite_self]

theorem endTimeCmd_idle (c : RunCmd) (isSet : Bool) (p : Nat) (s : State) :
    runningOn (endTimeCmd (some c) isSet p s) pgTms = none := by
  unfold endTimeCmd
  dsimp only
  split
  · exact finishCmd_idle _ _ _ _ _ _
  · split
    · split <;> exact finishCmd_idle _ _ _ _ _ _
    · exact finishCmd_idle _ _ _ _ _ _

section
variable (s : State) (d : Int)

/-- Steps 1 to 3 of R103 in order: the time set or reached, the new tick reported, the waiting command ended. -/
theorem advanceTime_eq : ∃ nb n tck,
    let p := s.time.ptp + tickElapsed s d
    let cmd := runningOn s pgTms
    advanceTime s d = endTimeCmd cmd (timeSet cmd p).isSome ((timeSet cmd p).getD p)
      (reportTick nb n { s with
        time := { s.time with
          ptp := (timeSet cmd p).getD p
          timeValid := s.time.timeValid || ((timeSet cmd p).isSome && (cmd.map (·.code)) == some 1) }
        tck := tck }) := ⟨_, _, _, rfl⟩

theorem advanceTime_ptp :
    (advanceTime s d).time.ptp
      = (timeSet (runningOn s pgTms) (s.time.ptp + tickElapsed s d)).getD (s.time.ptp + tickElapsed s d) := by
  obtain ⟨nb, n, tck, h⟩ := advanceTime_eq s d
  rw [h, endTimeCmd_time, reportTick_time]

variable {s} {c : RunCmd}

theorem advanceTime_timeValid (hc : runningOn s pgTms = some c) (hcode : c.code = 1) :
    (advanceTime s d).time.timeValid = true := by
  obtain ⟨nb, n, tck, h⟩ := advanceTime_eq s d
  rw [h, endTimeCmd_time, reportTick_time, hc]
  simp [timeSet, hcode]

theorem advanceTime_idle (hc : runningOn s pgTms = some c) : runningOn (advanceTime s d) pgTms = none := by
  obtain ⟨nb, n, tck, h⟩ := advanceTime_eq s d
  rw [h, hc]
  exact endTimeCmd_idle _ _ _ _

end

theorem timeSet_setTime {c : RunCmd} (h : c.code = 1) (p : Nat) : timeSet (some c) p = some (setTimeValue c) := if_pos h

theorem timeSet_stepTime {c : RunCmd} (h : c.code = 2) (p : Nat) : timeSet (some c) p = stepTimeValue p c := by
  simp [timeSet, h]

theorem timeSet_snapshot {c : RunCmd} (h : c.code = 3) (p : Nat) : timeSet (some c) p = none := by
  simp [timeSet, h]

/-- A step within the range of PTP time adds its offset (R83). -/
theorem stepTimeValue_inRange {p : Nat} {c : RunCmd} (hlo : 0 ≤ (p : Int) + sgn32 c.a0 * ptpPerNs)
    (hhi : (p : Int) + sgn32 c.a0 * ptpPerNs < 2 ^ 48 * 10 ^ 9 * ptpPerNs) :
    stepTimeValue p c = some ((p : Int) + sgn32 c.a0 * ptpPerNs).toNat :=
  if_neg (fun h => h.elim (fun h => absurd hlo (Int.not_le.2 h)) (fun h => absurd hhi (Int.not_lt.2 h)))

/-- Settles O15: the three rows wait after acceptance (`commandRow_waits`), and the boundary applies what waits
(`advanceTime_eq`). -/
theorem timeCommands : Obligations.TimeCommands := by
  intro s via seq a0 a1 a2 hwf
  have hw := Memory.wf_regs hwf
  refine ⟨fun hr hv => ⟨fun ha => ?_, fun ha => ?_, ?_, fun ha => ?_⟩,
    fun c d hc => ⟨fun h => ?_, fun h hlo hhi => ?_, fun h => ?_, advanceTime_idle d hc⟩⟩
  · exact ⟨_, rfl, commandRow_waits hw tmsPlain hr hv.isGlobal rfl (by decide) (fun u => if_neg (Nat.not_le.2 ha))⟩
  · exact ⟨_, rfl, commandRow_waits hw tmsPlain hr hv.isGlobal rfl (by decide) (fun u => if_neg (Nat.not_lt.2 ha))⟩
  · exact ⟨_, rfl, commandRow_waits hw tmsPlain hr hv.isGlobal rfl (by decide) (fun u => rfl)⟩
  · exact ⟨_, rfl, commandRow_setTime_refused hw hr hv ha⟩
  · refine ⟨?_, advanceTime_timeValid d hc h⟩
    rw [advanceTime_ptp, hc, timeSet_setTime h, Option.getD_some, setTimeValue]
  · rw [← Int.natCast_add] at hlo hhi ⊢
    rw [advanceTime_ptp, hc, timeSet_stepTime h, stepTimeValue_inRange hlo hhi, Option.getD_some, Int.toNat_of_nonneg hlo]
  · rw [advanceTime_ptp, hc, timeSet_snapshot h, Option.getD_none]

end Sys2Proof.Machine

/-! SUPPORT. The copies of the tick generator and the timing pins: each row's writes read back; O17 and O16. -/
namespace Sys2Proof.Machine

/-! ### The copies of the tick generator (R100) -/

theorem Memory.wf_wide {s : State} (h : Memory.wf s = true) : twf (fun _ => 0) s.wide = true := (Memory.wf_iff.1 h).wide

/-- A fault of a shared-edge page that needs a device reset makes recovery due; an earlier cause is kept (R217). -/
theorem needReset_recoverPend {s : State} {page : Nat} {p : PageAt} (bit : Nat) (hp : s.power.phase ≠ .recovery)
    (hpage : pageAt page = some p) :
    (needReset s page bit).power.recoverPend = s.power.recoverPend.or (some ⟨p.kind.code, p.inst, bit⟩) := by
  unfold needReset
  rw [decide_eq_false hp, Bool.false_or, hpage]
  cases h : s.power.recoverPend <;> simp [h]

@[simp] theorem needReset_phase (s : State) (page bit : Nat) : (needReset s page bit).power.phase = s.power.phase := by
  unfold needReset
  split
  · rfl
  · split <;> rfl

/-- Settles O17: a masked difference is an error and a count, an unmasked one makes recovery due. -/
theorem tickCopies : Obligations.TickCopies := by
  intro s copy
  refine ⟨fun hwf hf => ?_, fun hf hrun => ?_, fun f hf hne hp => ?_, fun hf => ?_⟩
  · have hexec : exec (.tickCopyOutvoted copy) s
        = .next { bump (setErr s pgTck 3) (pgTck + Reg.TCK_VOTE_CNT) with tck := { s.tck with outvoted := some copy } } := by
      show execTickCopyOutvoted copy s = _
      simp only [execTickCopyOutvoted, hf, bump_tck, setErr_tck]
    refine ⟨_, hexec, rfl, ?_, ?_, setErr_power _ _ _, setErr_red _ _ _, setErr_time _ _ _⟩
    · refine (rd_bump_same _ (twf_setErr _ _ hwf)).trans ?_
      rw [rd_setErr_tck 3 (by decide) (by decide)]
    · refine Eq.trans (congrArg (fbit · 3) (rd_bump_other (by decide))) ?_
      exact fbit_setErr (Memory.wf_regs hwf) (by decide) (by decide)
  · show execTickCopyFence copy s = _
    simp only [execTickCopyFence, hf, hrun, Option.isNone_none, decide_true, Bool.and_self, if_true]
  · have hexec : exec (.tickCopyOutvoted copy) s = .next (needReset (setErr s pgTck 3) pgTck 3) := by
      show execTickCopyOutvoted copy s = _
      simp only [execTickCopyOutvoted, hf, if_neg hne]
    have hpend := needReset_recoverPend (s := setErr s pgTck 3) (page := pgTck) (p := ⟨.tck, 0, pgTck⟩) 3
      (by rwa [setErr_power]) rfl
    rw [setErr_power] at hpend
    refine ⟨_, hexec, ?_, fun hnone => ?_, ?_, ?_⟩
    · rw [hpend, Option.isSome_or]
      exact Bool.or_true _
    · rw [hpend, hnone]
      rfl
    · rw [needReset_phase, setErr_power]
    · rw [needReset_tck, setErr_tck]
  · show execTickCopyOutvoted copy s = _
    simp only [execTickCopyOutvoted, hf, if_true]

/-! ### The timing pins (R79, R86, R87) -/

/-- The state in which a captured PPS_IN edge writes: an edge not yet read is an error (R86). -/
def edgeSeen (s : State) : State := if s.time.ppsInNew then setErr s pgTms 1 else s

theorem exec_ppsInEdge_captured {s : State} (cyc : Nat) (h : fbit (rd s (pgTms + Reg.PAGE_CTL)) 2 = true) :
    exec (.ppsInEdge cyc) s = .next (bump { wrWide (wr (edgeSeen s) (pgTms + Reg.TMS_PPS_IN_LO)
        (lo32 (compactStamp (ptpAtCycle s cyc)))) (pgTms + Reg.TMS_PPS_IN_LO) (compactStamp (ptpAtCycle s cyc)) with
      time := { (edgeSeen s).time with ppsInNew := true } } (pgTms + Reg.TMS_PPS_IN_CNT)) := by
  show execPpsInEdge cyc s = _
  rw [execPpsInEdge, h]
  rfl

theorem edgeSeen_wf {s : State} (hw : Memory.wf s = true) : Memory.wf (edgeSeen s) = true := by
  unfold edgeSeen
  split
  · exact (setErr_keeps (kk := ⟨false, false, false, false, false⟩) s pgTms 1 (Keeps.refl s)).wf hw
  · exact hw

/-- A captured edge leaves every word alone but the page's error words and the counters of a fired vector. -/
theorem rd_edgeSeen {s : State} {a : Nat} (ha : a ∉ vectorCounters) (he : a ≠ pgTms + Reg.PAGE_ERR)
    (hf : a ≠ pgTms + Reg.PAGE_ERR_FIRST) : rd (edgeSeen s) a = rd s a := by
  unfold edgeSeen
  split
  · exact rd_setErr_other 1 ha he hf
  · rfl

@[simp] theorem edgeSeen_time (s : State) : (edgeSeen s).time = s.time := by
  unfold edgeSeen
  split
  · exact setErr_time _ _ _
  · rfl

@[simp] theorem edgeSeen_tck (s : State) : (edgeSeen s).tck = s.tck := by
  unfold edgeSeen
  split
  · exact setErr_tck _ _ _
  · rfl

@[simp] theorem edgeSeen_running (s : State) : (edgeSeen s).running = s.running := by
  unfold edgeSeen
  split
  · exact setErr_running _ _ _
  · rfl

/-- Settles O16: the level of a pin is one field, and a captured edge is two words, a stamp and at most one error. -/
theorem timingPins : Obligations.TimingPins := by
  intro s cyc
  refine ⟨fun hout hdue => ?_, fun hen => ?_, fun hwf hen => ?_, rfl, rfl⟩
  · show execPpsOutFall s = _
    rw [execPpsOutFall, hout, decide_eq_true hdue]
    rfl
  · show execPpsInEdge cyc s = _
    rw [execPpsInEdge, hen]
    rfl
  · have hseen := edgeSeen_wf hwf
    have hregs := twf_wr (pgTms + Reg.TMS_PPS_IN_LO) (lo32 (compactStamp (ptpAtCycle s cyc))) (Memory.wf_regs hseen)
    refine ⟨_, exec_ppsInEdge_captured cyc hen, ?_, ?_, ?_, ?_, edgeSeen_tck s, edgeSeen_running s, fun hnew => ?_⟩
    · exact (rd_bump_other (by decide)).trans (rd_wr_same _ _ (Memory.wf_regs hseen))
    · exact tget_tset_same _ _ _ _ (Memory.wf_wide (s := edgeSeen s) hseen)
    · refine (rd_bump_same _ hregs).trans (congrArg (· + 1) ?_)
      exact (rd_wr_other _ (by decide)).trans (rd_edgeSeen (by decide) (by decide) (by decide))
    · show { (edgeSeen s).time with ppsInNew := true } = _
      rw [edgeSeen_time]
    · refine Eq.trans (congrArg (fbit · 1) ((rd_bump_other (by decide)).trans (rd_wr_other _ (by decide)))) ?_
      rw [edgeSeen, if_pos hnew]
      exact fbit_setErr (Memory.wf_regs hwf) (by decide) (by decide)

end Sys2Proof.Machine

/-! SUPPORT. What a manager's access to a register of a page comes down to: the lock registers (R172, R173) and the words
behind index and data pairs (R105, R135, R405); from these, O25. -/
namespace Sys2Proof.Machine

/-! ### A manager's access to a register -/

section
variable {s : State} {via : Master} {a o : Nat} {p : PageAt} {r : RegRow}

theorem readAccess_reg (hv : Manages via) (ha : a < 0x4000000) (ht : target a = .reg p o r) :
    readAccess s via a = ((regRead s via p o r).1, (regRead s via p o r).2, false) := by
  rw [readAccess, busAddr_of_manages hv ha]
  simp only [ht]

theorem writeAccess_reg (hv : Manages via) (ha : a < 0x4000000) (ht : target a = .reg p o r)
    (hp : s.power.phase ≠ .recovery) (w : Word) : writeAccess s via a w = regWrite s via p o r w := by
  rw [writeAccess, busAddr_of_manages hv ha]
  simp only [ht, hp, decide_false, Bool.false_and, Bool.false_eq_true, if_false]

end

/-! ### Lock registers (R172, R173) -/

theorem target_lock (sl : SliceId) : ∃ p r, target (pgTbl sl + Reg.TBL_BULK_LOCK) = .reg p Reg.TBL_BULK_LOCK r
    ∧ p.kind = .slTbl ∧ p.slice = sl := by
  cases sl <;> exact ⟨_, _, rfl, rfl, rfl⟩

theorem lockAddr_lt (sl : SliceId) : pgTbl sl + Reg.TBL_BULK_LOCK < 0x4000000 := by
  cases sl <;> decide

theorem ownerCode_of_manages {via : Master} (hv : Manages via) : ownerCode via = 1 ∨ ownerCode via = 2 :=
  hv.imp (fun h => by rw [h]; rfl) (fun h => by rw [h]; rfl)

theorem fld_zero (hi lo : Nat) : fld 0 hi lo = 0 := by
  simp [fld]

section
variable {s : State} {via : Master} (sl : SliceId)

theorem lockRead_free (h : lockOwner s sl = 0) :
    lockRead s sl via = (wr s (pgTbl sl + Reg.TBL_BULK_LOCK) (w32 (ownerCode via)), 0) := if_pos h

theorem lockRead_held (h : lockOwner s sl ≠ 0) : lockRead s sl via = (s, w32 (lockOwner s sl)) := if_neg h

/-- A read of a lock register answers and does what `lockRead` says. -/
theorem exec_lockRead (hw : Memory.wf s = true) (hv : Manages via) (hs : served s via false = true) :
    exec (.lockRead via sl) s = .next (emit (lockRead s sl via).1 (.readData via (lockRead s sl via).2 false)) := by
  obtain ⟨p, r, ht, hkind, hslice⟩ := target_lock sl
  have hreg : regRead s via p Reg.TBL_BULK_LOCK r = lockRead s sl via := by
    rw [regRead, if_pos ⟨hkind, rfl⟩, hslice]
  have hread := readAccess_reg (s := s) hv (lockAddr_lt sl) ht
  rw [hreg] at hread
  have hkeep := lockRead_keeps (kk := ⟨false, false, false, false, false⟩) s sl via (Keeps.refl s)
  show execLockRead via sl s = _
  rw [execLockRead, if_pos hv.isGlobal, readServed_sound hs hread (Memory.wf_of_keeps hkeep hw)]

/-- A word written to a lock register is neither a command nor a forced error nor a data word. -/
theorem regWrite_lock {p : PageAt} {r : RegRow} {w : Word} (hkind : p.kind = .slTbl) :
    regWrite s via p Reg.TBL_BULK_LOCK r w = lockWrite s p.slice via w := by
  have hcmd : (Reg.TBL_BULK_LOCK == Reg.PAGE_CMD) = false := rfl
  have hforce : (Reg.TBL_BULK_LOCK == Reg.PAGE_ERR_FORCE) = false := rfl
  have hidx : (indexOf .slTbl Reg.TBL_BULK_LOCK).isSome = false := rfl
  simp only [regWrite, hkind, hcmd, hforce, hidx, Bool.and_false, Bool.false_eq_true, if_false, if_true]

theorem exec_lockRelease (hv : Manages via) (hp : s.power.phase ≠ .recovery) (hs : served s via true = true) (w : Word) :
    exec (.lockRelease via sl w) s = .next (lockWrite s sl via w) := by
  obtain ⟨p, r, ht, hkind, hslice⟩ := target_lock sl
  have hreg : regWrite s via p Reg.TBL_BULK_LOCK r w = lockWrite s sl via w := by
    rw [regWrite_lock hkind, hslice]
  show execLockRelease via sl w s = _
  rw [execLockRelease, if_pos hv.isGlobal, writeServed, if_pos hs, writeAccess_reg hv (lockAddr_lt sl) ht hp, hreg]

theorem lockWrite_released (hv : Manages via) (h : lockOwner s sl = ownerCode via) :
    lockWrite s sl via 0 = wr s (pgTbl sl + Reg.TBL_BULK_LOCK) 0 := by
  have hcode : ownerCode via ≠ 0 := by rcases ownerCode_of_manages hv with e | e <;> omega
  exact if_pos ⟨rfl, hcode, h⟩

theorem lockWrite_refused {w : Word} (h : w ≠ 0 ∨ lockOwner s sl ≠ ownerCode via) :
    lockWrite s sl via w = setErr s (pgTbl sl) 2 :=
  if_neg (fun ⟨hzero, _, howner⟩ => h.elim (· hzero) (· howner))

theorem lockOwner_released (hw : twf regDflt s.regs = true) :
    lockOwner (wr s (pgTbl sl + Reg.TBL_BULK_LOCK) 0) sl = 0 := by
  rw [lockOwner, rd_wr_same _ _ hw, fld_zero]

/-- An error of the table unit's page leaves its lock. -/
theorem lockOwner_setErr (s : State) (n : Nat) : lockOwner (setErr s (pgTbl sl) n) sl = lockOwner s sl := by
  rw [lockOwner, rd_setErr_other n (by cases sl <;> decide) (by cases sl <;> decide) (by cases sl <;> decide), lockOwner]

end

/-! ### Index and data pairs (R105, R135, R405) -/

theorem w32_toNat_succ (w : Word) : w32 (w.toNat + 1) = w + 1 := by
  apply BitVec.eq_of_toNat_eq
  simp [w32]

/-- The low field of a word that fits into it is the word. -/
theorem fld_low {w : Word} {hi : Nat} (h : w.toNat < 2 ^ (hi + 1)) : fld w hi 0 = w.toNat :=
  Nat.mod_eq_of_lt h

theorem advanceIndex_below {s : State} {p : PageAt} {off x last : Nat} (hidx : indexOf p.kind off = some (x, last))
    (h : (rd s (p.base + x)).toNat < last) : advanceIndex s p off = wr s (p.base + x) (rd s (p.base + x) + 1) := by
  unfold advanceIndex
  rw [hidx]
  dsimp only
  rw [if_pos h, w32_toNat_succ]

section
variable {s : State} {via : Master}

/-- A served write of a manager to a data port, outside recovery, is the port's. -/
theorem writeServed_data {a o : Nat} {p : PageAt} {r : RegRow} (hv : Manages via) (hs : served s via true = true)
    (hp : s.power.phase ≠ .recovery) (ha : a < 0x4000000) (ht : target a = .reg p o r)
    (hidx : (indexOf p.kind o).isSome = true) (hplain : o ≠ Reg.PAGE_CMD ∧ o ≠ Reg.PAGE_ERR_FORCE) (w : Word) :
    writeServed s via a w = dataWrite s p o w := by
  obtain ⟨hcmd, hforce⟩ := hplain
  rw [writeServed, if_pos hs, writeAccess_reg hv ha ht hp, regWrite, beq_false_of_ne hcmd, beq_false_of_ne hforce]
  simp only [Bool.and_false, Bool.false_eq_true, if_false, hidx, if_true]

/-! #### The plan bank -/

theorem target_planData : ∃ r, target (pgTck + Reg.TCK_PLAN_DATA) = .reg ⟨.tck, 0, pgTck⟩ Reg.TCK_PLAN_DATA r := ⟨_, rfl⟩

@[simp] theorem putShadowPlan_regs (s : State) (i : Nat) (w : Word) : (putShadowPlan s i w).regs = s.regs := by
  unfold putShadowPlan
  split <;> rfl

theorem rd_putShadowPlan (s : State) (i : Nat) (w : Word) (a : Nat) : rd (putShadowPlan s i w) a = rd s a := by
  unfold rd
  rw [putShadowPlan_regs]

theorem shadowBank_putShadowPlan (s : State) (i : Nat) (w : Word) :
    shadowBank (putShadowPlan s i w) = tset (fun _ => 0) (shadowBank s) i w := by
  unfold putShadowPlan shadowBank
  split <;> rfl

theorem activePlanBank_putShadowPlan (s : State) (i : Nat) (w : Word) :
    activePlanBank (putShadowPlan s i w) = activePlanBank s := by
  unfold putShadowPlan activePlanBank
  split <;> rfl

/-- A word of the plan bank written changes the tick unit alone. -/
theorem putShadowPlan_frame (s : State) (i : Nat) (w : Word) : { putShadowPlan s i w with tck := s.tck } = s := by
  unfold putShadowPlan
  split <;> rfl

/-- A plan word written while the bank is not armed goes to the word the index names, and the index moves on (R105). -/
theorem dataWrite_plan (harmed : s.tck.armed = false) (hi : (rd s (pgTck + Reg.TCK_PLAN_INDEX)).toNat < 527) (w : Word) :
    dataWrite s ⟨.tck, 0, pgTck⟩ Reg.TCK_PLAN_DATA w
      = wr (putShadowPlan s (rd s (pgTck + Reg.TCK_PLAN_INDEX)).toNat w) (pgTck + Reg.TCK_PLAN_INDEX)
          (rd s (pgTck + Reg.TCK_PLAN_INDEX) + 1) := by
  have hfld : fld (rd s (pgTck + Reg.TCK_PLAN_INDEX)) 9 0 = (rd s (pgTck + Reg.TCK_PLAN_INDEX)).toNat :=
    fld_low (Nat.lt_trans hi (by decide))
  have hidx := rd_putShadowPlan s (rd s (pgTck + Reg.TCK_PLAN_INDEX)).toNat w (pgTck + Reg.TCK_PLAN_INDEX)
  simp only [dataWrite, harmed, Bool.false_eq_true, if_false, hfld]
  rw [advanceIndex_below (x := Reg.TCK_PLAN_INDEX) (last := 527) rfl (by rwa [hidx]), hidx]

theorem exec_tckPlanData (hv : Manages via) (hs : served s via true = true) (hp : s.power.phase ≠ .recovery) (w : Word) :
    exec (.tckPlanDataAccess via (some w)) s = .next (dataWrite s ⟨.tck, 0, pgTck⟩ Reg.TCK_PLAN_DATA w) := by
  obtain ⟨r, ht⟩ := target_planData
  show execTckPlanDataAccess via (some w) s = _
  rw [execTckPlanDataAccess, if_pos hv.isGlobal, accessServed,
    writeServed_data hv hs hp (by decide) ht rfl ⟨by decide, by decide⟩]

/-! #### The coefficient bank -/

theorem target_coefData : ∃ r, target (pgPwr + Reg.PWR_COEF_DATA) = .reg ⟨.pwr, 0, pgPwr⟩ Reg.PWR_COEF_DATA r := ⟨_, rfl⟩

@[simp] theorem putShadowCoef_regs (s : State) (i : Nat) (w : Word) : (putShadowCoef s i w).regs = s.regs := by
  unfold putShadowCoef
  split <;> rfl

theorem rd_putShadowCoef (s : State) (i : Nat) (w : Word) (a : Nat) : rd (putShadowCoef s i w) a = rd s a := by
  unfold rd
  rw [putShadowCoef_regs]

theorem shadowCoef_putShadowCoef (s : State) (i : Nat) (w : Word) :
    shadowCoef (putShadowCoef s i w) = tset charWord (shadowCoef s) i w := by
  unfold putShadowCoef shadowCoef
  split <;> rfl

theorem activeCoefBank_putShadowCoef (s : State) (i : Nat) (w : Word) :
    activeCoefBank (putShadowCoef s i w) = activeCoefBank s := by
  unfold putShadowCoef activeCoefBank
  split <;> rfl

/-- A word of the coefficient bank written changes the governor alone. -/
theorem putShadowCoef_frame (s : State) (i : Nat) (w : Word) : { putShadowCoef s i w with gov := s.gov } = s := by
  unfold putShadowCoef
  split <;> rfl

/-- A coefficient word written while no load is pending goes to the word the index names, and the index moves on
(R135). -/
theorem dataWrite_coef (hpend : s.gov.loadPend = false) (hi : (rd s (pgPwr + Reg.PWR_COEF_INDEX)).toNat < 143) (w : Word) :
    dataWrite s ⟨.pwr, 0, pgPwr⟩ Reg.PWR_COEF_DATA w
      = wr (putShadowCoef s (rd s (pgPwr + Reg.PWR_COEF_INDEX)).toNat w) (pgPwr + Reg.PWR_COEF_INDEX)
          (rd s (pgPwr + Reg.PWR_COEF_INDEX) + 1) := by
  have hfld : fld (rd s (pgPwr + Reg.PWR_COEF_INDEX)) 7 0 = (rd s (pgPwr + Reg.PWR_COEF_INDEX)).toNat :=
    fld_low (Nat.lt_trans hi (by decide))
  have hidx := rd_putShadowCoef s (rd s (pgPwr + Reg.PWR_COEF_INDEX)).toNat w (pgPwr + Reg.PWR_COEF_INDEX)
  simp only [dataWrite, hpend, Bool.false_eq_true, if_false, hfld]
  rw [advanceIndex_below (x := Reg.PWR_COEF_INDEX) (last := 143) rfl (by rwa [hidx]), hidx]

theorem exec_pwrCoefData (hv : Manages via) (hs : served s via true = true) (hp : s.power.phase ≠ .recovery) (w : Word) :
    exec (.pwrCoefDataAccess via (some w)) s = .next (dataWrite s ⟨.pwr, 0, pgPwr⟩ Reg.PWR_COEF_DATA w) := by
  obtain ⟨r, ht⟩ := target_coefData
  show execPwrCoefDataAccess via (some w) s = _
  rw [execPwrCoefDataAccess, if_pos hv.isGlobal, accessServed,
    writeServed_data hv hs hp (by decide) ht rfl ⟨by decide, by decide⟩]

/-! #### The gate lists -/

/-- The register at MAC_GCL_DATA of each port's page (R405). -/
theorem target_gclData : ∀ p : Fin 6,
    target (pgMac p.val + Reg.MAC_GCL_DATA)
      = .reg ⟨.mac, p.val, pgMac p.val⟩ Reg.MAC_GCL_DATA ⟨Reg.MAC_GCL_DATA, 4, 1, 0xFFFFFFFF, 0, 0, 0, 0, 0⟩ := by
  decide

theorem gclData_lt (p : Fin 6) : pgMac p.val + Reg.MAC_GCL_DATA < 0x4000000 := by
  have := p.isLt
  simp only [pgMac, Reg.MAC_GCL_DATA]
  omega

theorem gclKey_ne_index (p : Fin 6) (i : Nat) : gclKey p.val i ≠ pgMac p.val + Reg.MAC_GCL_INDEX := by
  have := p.isLt
  simp only [gclKey, pgMac, Reg.MAC_GCL_INDEX]
  omega

/-- A gate entry written while no list is armed goes to the entry the index names, and the index moves on (R405). -/
theorem dataWrite_gcl (p : Fin 6) (harmed : (getPort s p.val).armed = [])
    (hi : (rd s (pgMac p.val + Reg.MAC_GCL_INDEX)).toNat < 255) (w : Word) :
    dataWrite s ⟨.mac, p.val, pgMac p.val⟩ Reg.MAC_GCL_DATA w
      = wr (wr s (gclKey p.val (rd s (pgMac p.val + Reg.MAC_GCL_INDEX)).toNat) w) (pgMac p.val + Reg.MAC_GCL_INDEX)
          (rd s (pgMac p.val + Reg.MAC_GCL_INDEX) + 1) := by
  have hfld : fld (rd s (pgMac p.val + Reg.MAC_GCL_INDEX)) 7 0 = (rd s (pgMac p.val + Reg.MAC_GCL_INDEX)).toNat :=
    fld_low (Nat.lt_trans hi (by decide))
  have hidx : rd (wr s (gclKey p.val (rd s (pgMac p.val + Reg.MAC_GCL_INDEX)).toNat) w) (pgMac p.val + Reg.MAC_GCL_INDEX)
      = rd s (pgMac p.val + Reg.MAC_GCL_INDEX) := rd_wr_other _ (gclKey_ne_index p _)
  simp only [dataWrite, harmed, List.isEmpty_nil, Bool.not_true, Bool.false_eq_true, if_false, hfld]
  rw [advanceIndex_below (x := Reg.MAC_GCL_INDEX) (last := 255) rfl (by rwa [hidx]), hidx]

theorem exec_macGclData (p : Fin 6) (hv : Manages via) (hs : served s via true = true) (hp : s.power.phase ≠ .recovery)
    (w : Word) :
    exec (.macGclDataAccess via p (some w)) s
      = .next (dataWrite s ⟨.mac, p.val, pgMac p.val⟩ Reg.MAC_GCL_DATA w) := by
  show execMacGclDataAccess via p (some w) s = _
  rw [execMacGclDataAccess, if_pos hv.isGlobal, accessServed,
    writeServed_data hv hs hp (gclData_lt p) (target_gclData p) rfl ⟨by decide, by decide⟩]

end

/-- Settles O25: each access is one write of a lock, an error, or the two writes of a data port. -/
theorem locksAndDataPorts : Obligations.LocksAndDataPorts := by
  intro s via sl w hwf hv hp
  have hw := Memory.wf_regs hwf
  refine ⟨fun hs => ⟨fun hfree => ?_, fun hheld => ?_⟩,
    fun hs => ⟨fun howner => ?_, fun hother => ?_, fun harmed hi => ?_, fun hpend hi => ?_, fun p harmed hi => ?_⟩⟩
  · refine ⟨_, exec_lockRead sl hwf hv hs, ?_⟩
    rw [lockRead_free sl hfree]
    exact ⟨rfl, rd_wr_same _ _ hw, fun a ha => rd_wr_other _ (Ne.symm ha), rfl⟩
  · rw [exec_lockRead sl hwf hv hs, lockRead_held sl hheld]
  · refine ⟨_, exec_lockRelease sl hv hp hs 0, ?_⟩
    rw [lockWrite_released sl hv howner]
    exact ⟨lockOwner_released sl hw, fun a ha => rd_wr_other _ (Ne.symm ha), rfl⟩
  · refine ⟨_, exec_lockRelease sl hv hp hs w, ?_⟩
    rw [lockWrite_refused sl hother]
    exact ⟨lockOwner_setErr sl s 2, fbit_setErr hw (by decide) (by cases sl <;> decide)⟩
  · refine ⟨_, exec_tckPlanData hv hs hp w, ?_⟩
    rw [dataWrite_plan harmed hi]
    exact ⟨shadowBank_putShadowPlan _ _ _, activePlanBank_putShadowPlan _ _ _, rd_wr_same _ _ (by rwa [putShadowPlan_regs]),
      fun a ha => (rd_wr_other _ (Ne.symm ha)).trans (rd_putShadowPlan _ _ _ a),
      congrArg (fun u : State => { u with regs := s.regs }) (putShadowPlan_frame s _ w)⟩
  · refine ⟨_, exec_pwrCoefData hv hs hp w, ?_⟩
    rw [dataWrite_coef hpend hi]
    exact ⟨shadowCoef_putShadowCoef _ _ _, activeCoefBank_putShadowCoef _ _ _, rd_wr_same _ _ (by rwa [putShadowCoef_regs]),
      fun a ha => (rd_wr_other _ (Ne.symm ha)).trans (rd_putShadowCoef _ _ _ a),
      congrArg (fun u : State => { u with regs := s.regs }) (putShadowCoef_frame s _ w)⟩
  · refine ⟨_, exec_macGclData p hv hs hp w, ?_⟩
    rw [dataWrite_gcl p harmed hi]
    exact ⟨(rd_wr_other _ (gclKey_ne_index p _).symm).trans (rd_wr_same _ _ hw), rd_wr_same _ _ (twf_wr _ _ hw), rfl⟩

end Sys2Proof.Machine

/-! SUPPORT. The energy of a table of grants, and that the passes over the priorities and the smaller of two ledger copies
keep it within the budget (R127, R138, R151); what the rows of the PWR page and of the envelope do (R136, R146, R152); from
these, O20 and O19. -/
namespace Sys2Proof.Machine

/-! ### The energy of a table of grants -/

/-- The energy that a table of grants amounts to at given unit costs (R131). -/
def grantEnergy (cost : Nat → Nat) (g : Table Nat) : Nat := (g.map (fun e => e.2 * cost e.1)).sum

/-- Summed one account after the other, as the governor reports it in PWR_GRANTED. -/
theorem foldl_eq_grantEnergy (cost : Nat → Nat) (g : Table Nat) :
    g.foldl (fun a e => a + e.2 * cost e.1) 0 = grantEnergy cost g := by
  rw [grantEnergy, List.sum_eq_foldl, List.foldl_map]

/-- A grant written takes the place of the account's earlier one. -/
theorem grantEnergy_tset (cost : Nat → Nat) (k n : Nat) : ∀ (g : Table Nat) (lo : Nat), twfFrom (fun _ => 0) lo g = true →
    grantEnergy cost (tset (fun _ => 0) g k n) + tget (fun _ => 0) g k * cost k = grantEnergy cost g + n * cost k
  | [], _, _ => by
    by_cases hn : n = 0 <;> simp [tset, tget, grantEnergy, hn]
  | (a, x) :: t, lo, h => by
    simp only [twfFrom, Bool.and_eq_true] at h
    obtain ⟨-, ht⟩ := h
    rcases Nat.lt_trichotomy k a with hlt | rfl | hgt
    · have hk := tget_below (fun _ => 0) t (a + 1) k ht (by omega)
      by_cases hn : n = 0 <;> simp [tset, tget, grantEnergy, hlt, Nat.ne_of_gt hlt, hk, hn, Nat.add_comm]
    · by_cases hn : n = 0 <;> simp [tset, tget, grantEnergy, hn] <;> omega
    · have ih := grantEnergy_tset cost k n t (a + 1) ht
      simp only [grantEnergy] at ih
      simp only [tset, tget, grantEnergy, Nat.not_lt_of_gt hgt, Nat.ne_of_gt hgt, Nat.ne_of_lt hgt, if_false, List.map_cons,
        List.sum_cons]
      omega

/-- Grants in a canonical table that leave `left` of a budget unspent. -/
structure GrantsWithin (cost : Nat → Nat) (budget left : Nat) (g : Table Nat) : Prop where
  canonical : twf (fun _ => 0) g = true
  within : grantEnergy cost g + left ≤ budget

section
variable {cost : Nat → Nat} {budget left : Nat} {g : Table Nat}

/-- A grant paid from what is left keeps the grants within the budget. -/
theorem GrantsWithin.pay (h : GrantsWithin cost budget left g) (k : Nat) {n : Nat} (hn : n * cost k ≤ left) :
    GrantsWithin cost budget (left - n * cost k) (tset (fun _ => 0) g k n) := by
  have henergy := grantEnergy_tset cost k n g 0 h.canonical
  have hwithin := h.within
  exact ⟨twf_tset _ _ _ _ h.canonical, by omega⟩

/-- So does a grant made smaller. -/
theorem GrantsWithin.lower (h : GrantsWithin cost budget left g) (k : Nat) {n : Nat} (hn : n ≤ tget (fun _ => 0) g k) :
    GrantsWithin cost budget left (tset (fun _ => 0) g k n) := by
  have henergy := grantEnergy_tset cost k n g 0 h.canonical
  have hle := Nat.mul_le_mul_right (cost k) hn
  have hwithin := h.within
  exact ⟨twf_tset _ _ _ _ h.canonical, by omega⟩

/-- What an account is granted costs no more than is left (R138). -/
theorem granted_cost_le (want c left : Nat) : (if c = 0 then want else Nat.min want (left / c)) * c ≤ left := by
  split
  · rename_i hc
    rw [hc, Nat.mul_zero]
    exact Nat.zero_le _
  · exact Nat.le_trans (Nat.mul_le_mul_right c (Nat.min_le_right _ _)) (Nat.div_mul_le_self _ _)

/-- One priority (R138). -/
theorem GrantsWithin.pass (want : Nat → Nat) (ks : List Nat) (h : GrantsWithin cost budget left g) :
    GrantsWithin cost budget (grantPass want cost ks left g).1 (grantPass want cost ks left g).2 := by
  induction ks generalizing left g with
  | nil => exact h
  | cons k ks ih => exact ih (h.pay k (granted_cost_le _ _ _))

/-- All priorities (R138 to R140). -/
theorem GrantsWithin.all (es : List PlanEntry) (want : Nat → Nat) (ps : List Nat) {r : GrantResult}
    (h : GrantsWithin cost budget r.left r.grants) :
    GrantsWithin cost budget (grantAll es want cost ps r).left (grantAll es want cost ps r).grants := by
  induction ps generalizing r with
  | nil => exact h
  | cons p ps ih => exact ih (h.pass want _)

/-- An account receives the smaller of its two grants (R151). -/
def lowerGrant (g : Table Nat) (d : Nat × Nat) : Table Nat :=
  tset (fun _ => 0) g d.1 (Nat.min d.2 (tget (fun _ => 0) g d.1))

/-- The smaller grants of the two ledger copies (R151). -/
theorem GrantsWithin.ledger (ds : List (Nat × Nat)) (h : GrantsWithin cost budget left g) :
    GrantsWithin cost budget left (ds.foldl lowerGrant g) := by
  induction ds generalizing g with
  | nil => exact h
  | cons d ds ih => exact ih (h.lower d.1 (Nat.min_le_right _ _))

end

/-! ### The boundary's grants -/

theorem foldl_gov {α : Type} {f : State → α → State} (hf : ∀ s a, (f s a).gov = s.gov) (l : List α) (s : State) :
    (l.foldl f s).gov = s.gov := by
  induction l generalizing s with
  | nil => rfl
  | cons a l ih => exact (ih (f s a)).trans (hf s a)

@[simp] theorem waitEvent_gov (s : State) (k e : Nat) : (waitEvent s k e).gov = s.gov := by
  simp only [waitEvent, apply_ite State.gov, signal_gov, ite_self]

@[simp] theorem waitEvents_gov (s : State) (waiting bufs : Nat → Nat) : (waitEvents s waiting bufs).gov = s.gov :=
  foldl_gov (fun t k => by simp only [apply_ite State.gov, waitEvent_gov, ite_self]) charKeys s

@[simp] theorem energyEvents_gov (s : State) (es : List PlanEntry) (want : Nat → Nat) (g : Table Nat) :
    (energyEvents s es want g).gov = s.gov :=
  foldl_gov (fun t e => by simp only [apply_ite State.gov, signal_gov, ite_self]) es s

/-- The units an account waits for and has work credits for: no more are granted (R138, R139). -/
def grantWant (s : State) (waiting : Nat → Nat) (k : Nat) : Nat :=
  Nat.min (tget (fun _ => 0) ((planInForce s).foldl (fun w e => tset (fun _ => 0) w e.key e.work) []) k) (waiting k)

/-- The grants a ledger copy computes at a boundary, and what is left of the budget (R127, R138). -/
def boundaryGrants (s : State) (waiting : Nat → Nat) : GrantResult :=
  grantAll (planInForce s) (grantWant s waiting) (unitCost s) [7, 6, 5, 4, 3, 2, 1, 0]
    ⟨accountBudget s.gov.pEff (standingPower s) s.T, [], s.gov.first⟩

/-- What the governor counts and signals of a boundary: `binding` where an account got less than it wanted, `above` where
the standing power exceeds what the envelope leaves over the floor (R130), `differs` where the ledger copies differ, `again`
where they did at the boundary before as well (R151). -/
def reportGrants (binding above differs again : Bool) (s1 : State) : State :=
  let s2 := if binding then signal (bump s1 (pgPwr + Reg.PWR_BINDING_CNT)) (srcEdge 4 0 0) 0 1 else s1
  let s3 := if above then setErr s2 pgPwr 4 else s2
  let s4 := if differs then bump (setErr s3 pgPwr 1) (pgPwr + Reg.PWR_MISMATCH_CNT) else s3
  if again then needReset s4 pgPwr 1 else s4

@[simp] theorem reportGrants_gov (binding above differs again : Bool) (s : State) :
    (reportGrants binding above differs again s).gov = s.gov := by
  simp only [reportGrants, apply_ite State.gov, needReset_gov, bump_gov, setErr_gov, signal_gov, ite_self]

/-- Step 6 of R103: the credits and the governor of the new tick, then what is counted and signalled of them. -/
theorem grantCredits_eq (s : State) (waiting bufs : Nat → Nat) (ledger : List (Nat × Nat)) :
    ∃ binding above differs again es want g s1,
      grantCredits s waiting bufs ledger
          = waitEvents (energyEvents (reportGrants binding above differs again s1) es want g) waiting bufs
        ∧ s1.gov.granted = grantEnergy (unitCost s) (ledger.foldl lowerGrant (boundaryGrants s waiting).grants)
        ∧ s1.gov.spare = (boundaryGrants s waiting).left
        ∧ s1.gov.budget = accountBudget s.gov.pEff (standingPower s) s.T :=
  ⟨_, _, _, _, _, _, _, _, rfl, foldl_eq_grantEnergy _ _, rfl, rfl⟩

/-- What the governor reports of a boundary: the energy of the smaller grants, what the passes left, and the budget. -/
theorem grantCredits_gov (s : State) (waiting bufs : Nat → Nat) (ledger : List (Nat × Nat)) :
    (grantCredits s waiting bufs ledger).gov.granted
        = grantEnergy (unitCost s) (ledger.foldl lowerGrant (boundaryGrants s waiting).grants)
      ∧ (grantCredits s waiting bufs ledger).gov.spare = (boundaryGrants s waiting).left
      ∧ (grantCredits s waiting bufs ledger).gov.budget = accountBudget s.gov.pEff (standingPower s) s.T := by
  obtain ⟨_, _, _, _, _, _, _, _, h, hgov⟩ := grantCredits_eq s waiting bufs ledger
  rw [h, waitEvents_gov, energyEvents_gov, reportGrants_gov]
  exact hgov

/-- The grants of a boundary are within the account budget (R127, R138). -/
theorem boundaryGrants_within (s : State) (waiting : Nat → Nat) :
    GrantsWithin (unitCost s) (accountBudget s.gov.pEff (standingPower s) s.T) (boundaryGrants s waiting).left
      (boundaryGrants s waiting).grants :=
  GrantsWithin.all _ _ _ ⟨rfl, by simp [grantEnergy]⟩

/-- Settles O20: every grant is paid from what is left of the budget (`boundaryGrants_within`), and the ledger copies only
lower grants (`GrantsWithin.ledger`). -/
theorem grantsWithinBudget : Obligations.GrantsWithinBudget := by
  intro s waiting bufs ledger
  obtain ⟨hgranted, hspare, hbudget⟩ := grantCredits_gov s waiting bufs ledger
  rw [hgranted, hspare, hbudget]
  exact ⟨((boundaryGrants_within s waiting).ledger ledger).within, rfl⟩

/-! ### A command that ends at once -/

section
variable {s v : State} {page code st : Nat} {via : Master} {seq : Byte} {a0 a1 a2 : Word} {spec : CmdSpec}

/-- An accepted row whose body ends it with OK or BUSY, having brought all but the command registers to `v` (R163,
R166). -/
theorem commandRow_ended (hw : twf regDflt s.regs = true) (hp : PlainPage page) (hr : PageReady s page via)
    (hv : Manages via) (hrole : spec.role via = true) (hph : spec.phases s.power.phase = true) (hc : code < 256)
    (hst : st = 0 ∨ st = 1)
    (hbody : ∀ r n, spec.body ⟨page, code, seq.toNat, via, a0, a1, a2⟩ { s with regs := r, running := n }
      = endCmd { v with regs := r, running := n } page st) :
    CmdEnded s (commandRow spec page code via seq a0 a1 a2 s) page code seq.toNat st (a0, a1, a2) (0, 0, 0)
      ∧ { commandRow spec page code via seq a0 a1 a2 s with regs := s.regs }
          = { v with regs := s.regs, running := s.running } := by
  obtain ⟨r, n, hrow, -, -, hend⟩ :=
    commandRow_started (code := code) (seq := seq) (a0 := a0) (a1 := a1) (a2 := a2) hw hp hr hrole hph hc
  obtain ⟨hended, hframe⟩ := hend { v with regs := r, running := n } st 0 0 0 rfl rfl hst
  rw [hrow, hbody]
  exact ⟨hended, hframe (by rcases hv with rfl | rfl <;> decide)⟩

end

/-! ### The commands of the PWR page (R136, R152) -/

theorem pwrPlain : PlainPage pgPwr := ⟨by decide, by decide⟩

theorem specLoadCoef_accepts {s : State} (c : RunCmd) (hpend : s.gov.loadPend = false)
    (hcheck : coefCheck (shadowCoef s) = none) :
    specLoadCoef.body c s = endCmd { s with gov := { s.gov with loadPend := true } } pgPwr stOK := by
  simp only [specLoadCoef, hpend, hcheck, Bool.false_eq_true, if_false]

/-- The governor with the characterised table in its shadow bank (R152). -/
def restoredGov (g : PowerGov) : PowerGov := if g.activeCoef then { g with coef0 := [] } else { g with coef1 := [] }

theorem specRestoreDefault_restores {s : State} (c : RunCmd) (hpend : s.gov.loadPend = false) :
    specRestoreDefault.body c s = endCmd { s with gov := restoredGov s.gov } pgPwr stOK := by
  simp only [specRestoreDefault, hpend, Bool.false_eq_true, if_false, restoredGov]
  split <;> rfl

theorem shadowCoef_restored {s t : State} (h : t.gov = restoredGov s.gov) : shadowCoef t = [] := by
  simp only [shadowCoef, h, restoredGov]
  split <;> simp [*]

theorem activeCoefBank_restored {s t : State} (h : t.gov = restoredGov s.gov) : activeCoefBank t = activeCoefBank s := by
  simp only [activeCoefBank, h, restoredGov]
  split <;> simp [*]

/-! ### The envelope (R146) -/

theorem rampStep_falls {s : State} (h : envelopeTarget s ≤ s.gov.pEff) :
    rampStep s = { s with gov := { s.gov with pEff := envelopeTarget s, rampWait := none } } := if_pos h

/-- A rise is by the ramp step, and not past the target. -/
theorem rampStep_rises {s : State} (h : s.gov.pEff < envelopeTarget s) (hdue : rampDue s = true) :
    rampStep s = { s with gov := { s.gov with
      pEff := Nat.min (s.gov.pEff + fld (rdEff s (pgPwr + Reg.PWR_RAMP)) 23 16) (envelopeTarget s)
      rampWait := some (fld (rdEff s (pgPwr + Reg.PWR_RAMP)) 15 0 - 1) } } := by
  have hmin : ∀ x, s.gov.pEff + Nat.min x (envelopeTarget s - s.gov.pEff)
      = Nat.min (s.gov.pEff + x) (envelopeTarget s) := fun x => by
    simp only [Nat.min_def]
    split <;> split <;> omega
  rw [rampStep, if_neg (Nat.not_le.2 h), hmin]
  cases hwait : s.gov.rampWait with
  | none => rfl
  | some k =>
    cases k with
    | zero => rfl
    | succ k => simp [rampDue, hwait] at hdue

theorem exec_envelopeRampStep_of {s : State} (h : envelopeTarget s ≤ s.gov.pEff ∨ rampDue s = true) :
    exec .envelopeRampStep s = .next (rampStep s) :=
  congrArg Host.Outcome.next (if_pos (by simpa using h))

theorem exec_envelopeRampStep_early {s : State} (h : s.gov.pEff < envelopeTarget s) (hdue : rampDue s = false) :
    exec .envelopeRampStep s = .next s :=
  congrArg Host.Outcome.next (if_neg (by simp [h, hdue]))

/-- Settles O19: each command ends at once (`commandRow_ended`), and the envelope moves as `rampStep` does. -/
theorem governorCommands : Obligations.GovernorCommands := by
  intro s via seq
  refine ⟨fun hwf hr hv => ?_, fun low => rfl, fun hfall => ?_, fun hrise => ⟨fun hdue => ?_, fun hdue => ?_⟩⟩
  · have hw := Memory.wf_regs hwf
    refine ⟨fun hpend hcheck => ?_, fun hpend => ?_, fun hpend => ⟨?_, ?_⟩⟩
    · exact ⟨_, rfl, commandRow_ended (v := { s with gov := { s.gov with loadPend := true } }) hw pwrPlain hr hv
        hv.isGlobal rfl (by decide) (.inl rfl) (fun _ _ => specLoadCoef_accepts _ hpend hcheck)⟩
    · obtain ⟨hended, hframe⟩ := commandRow_ended (v := { s with gov := restoredGov s.gov }) (seq := seq) (a0 := 0)
        (a1 := 0) (a2 := 0) (code := 2) hw pwrPlain hr hv hv.isGlobal rfl (by decide) (.inl rfl)
        (fun _ _ => specRestoreDefault_restores _ hpend)
      have hgov := congrArg State.gov hframe
      exact ⟨_, rfl, hended, shadowCoef_restored hgov, activeCoefBank_restored hgov,
        congrArg (fun u : State => { u with gov := s.gov }) hframe⟩
    · exact ⟨_, rfl, commandRow_ended (v := s) hw pwrPlain hr hv hv.isGlobal rfl (by decide) (.inr rfl)
        (fun _ _ => if_pos hpend)⟩
    · exact ⟨_, rfl, commandRow_ended (v := s) hw pwrPlain hr hv hv.isGlobal rfl (by decide) (.inr rfl)
        (fun _ _ => if_pos hpend)⟩
  · rw [exec_envelopeRampStep_of (.inl hfall), rampStep_falls hfall]
  · rw [exec_envelopeRampStep_of (.inr hdue), rampStep_rises hrise hdue]
  · exact exec_envelopeRampStep_early hrise hdue

end Sys2Proof.Machine

/-! SUPPORT. A block page's scratch word and its two aliases (R161, R162), and the errors that one write forces (R160);
from these, O23. -/
namespace Sys2Proof.Machine

/-! ### Block pages and their aliases (R153, R161, R174) -/

/-- Is a page, given with its number among its kind, a block page? -/
def blockKind (k : PageKind × Nat) : Bool := k.1.isBlock

theorem all_slicePageKind (n i : Nat) : ((slicePageKind n).map (fun k => (k, i))).all blockKind = true := by
  unfold slicePageKind
  split <;> rfl

theorem blockKind_hif (n i : Nat) :
    blockKind (if n = 8 then .hif0 else if n = 9 then .hif1 else .hifN, i) = true := by
  repeat' split
  all_goals rfl

/-- Every page below the windows that exists is a block page. -/
theorem all_globalPageKind (n : Nat) : (globalPageKind n).all blockKind = true := by
  simp only [globalPageKind, apply_ite (Option.all _), Option.all_some, Option.all_none, all_slicePageKind, blockKind_hif]
  simp only [blockKind, PageKind.isBlock, ite_self]

section
variable {b : Nat} {p : PageAt} (hlt : b < 0x400000) (h : pageAt b = some p)
include hlt h

theorem pageAt_isBlock : p.kind.isBlock = true := by
  rw [pageAt, if_pos hlt] at h
  obtain ⟨k, hk, rfl⟩ := Option.map_eq_some_iff.1 h
  exact (Option.all_eq_true _ _).1 (all_globalPageKind _) k hk

/-- Every offset of a block page lies in it. -/
theorem pageAt_base_add (hb : b = p.base) {off : Nat} (ho : off < 0x1000) :
    pageAt (b + off) = some p ∧ b + off < 0x400000 := by
  have hpage := h
  rw [pageAt, if_pos hlt] at h
  obtain ⟨k, -, rfl⟩ := Option.map_eq_some_iff.1 h
  have hdiv : (b + off) / 0x1000 = b / 0x1000 := by dsimp only at hb; omega
  have hin : b + off < 0x400000 := by dsimp only at hb; omega
  rw [← hpage, pageAt, pageAt, if_pos hin, if_pos hlt, hdiv]
  exact ⟨rfl, hin⟩

/-- The upper half of a block page is the aliases of its lower 1 KiB. -/
theorem target_upperHalf (hb : b = p.base) {off : Nat} (hlo : 0x800 ≤ off) (ho : off < 0x1000) :
    target (b + off) = .twin p (off % 0x400) (decide (off < 0xC00)) := by
  have hoff : b + off - p.base = off := by omega
  simp only [target, (pageAt_base_add hlt h hb ho).1, hoff, pageAt_isBlock hlt h, hlo, decide_true, Bool.and_self, if_true]

/-- From 0x800 on lie the set aliases (R161). -/
theorem target_setAlias (hb : b = p.base) {o : Nat} (ho : o < 0x400) : target (b + 0x800 + o) = .twin p o true := by
  have hmod : (0x800 + o) % 0x400 = o := by omega
  rw [Nat.add_assoc, target_upperHalf hlt h hb (by omega) (by omega), hmod, decide_eq_true (by omega)]

/-- From 0xC00 on lie the clear aliases (R161). -/
theorem target_clearAlias (hb : b = p.base) {o : Nat} (ho : o < 0x400) : target (b + 0xC00 + o) = .twin p o false := by
  have hmod : (0xC00 + o) % 0x400 = o := by omega
  rw [Nat.add_assoc, target_upperHalf hlt h hb (by omega) (by omega), hmod, decide_eq_false (by omega)]

end

section
variable {s : State} {via : Master} {a o : Nat} {p : PageAt} (hv : Manages via) (hs : served s via true = true)
  (hp : s.power.phase ≠ .recovery) (ha : a < 0x4000000)
include hv hs hp ha

/-- Outside recovery a served write of a manager to one of the aliases is `aliasWrite`. -/
theorem writeServed_alias {set : Bool} (ht : target a = .twin p o set) (w : Word) :
    writeServed s via a w = aliasWrite s via p o set w := by
  rw [writeServed, if_pos hs, writeAccess, busAddr_of_manages hv ha]
  simp only [ht, hp, decide_false, Bool.false_and, Bool.false_eq_true, if_false]

theorem exec_setAliasWrite (ht : target a = .twin p o true) (w : Word) :
    exec (.setAliasWrite via a w) s = .next (aliasWrite s via p o true w) := by
  show execSetAliasWrite via a w s = _
  simp only [execSetAliasWrite, targetOf_manages hv ha, ht, writeServed_alias hv hs hp ha ht]

theorem exec_clearAliasWrite (ht : target a = .twin p o false) (w : Word) :
    exec (.clearAliasWrite via a w) s = .next (aliasWrite s via p o false w) := by
  show execClearAliasWrite via a w s = _
  simp only [execClearAliasWrite, targetOf_manages hv ha, ht, writeServed_alias hv hs hp ha ht]

end

/-! ### PAGE_SCRATCH (R153) -/

/-- A word written is the only change. -/
theorem wr_alone {s : State} (hw : twf regDflt s.regs = true) (a : Nat) (w : Word) :
    rd (wr s a w) a = w ∧ RegsKept s (wr s a w) (· = a) ∧ { wr s a w with regs := s.regs } = s :=
  ⟨rd_wr_same a w hw, fun _ hb => rd_wr_other w (Ne.symm hb), rfl⟩

/-- The row of PAGE_SCRATCH: one word, all of it RW. -/
def scratchRow : RegRow := ⟨Reg.PAGE_SCRATCH, 4, 1, 0xFFFFFFFF, 0, 0, 0, 0, 0⟩

theorem legalReg_scratch (k : PageKind) (old new : Word) : legalReg k Reg.PAGE_SCRATCH old new = new := by
  cases k <;> rfl

section
variable (s : State) (p : PageAt) (w : Word)

theorem lockedReg_scratch : lockedReg s p Reg.PAGE_SCRATCH = false := by
  unfold lockedReg
  split
  case h_4 => rfl
  all_goals exact Bool.and_eq_false_iff.2 (.inr (by decide))

theorem merged_scratch : merged s p Reg.PAGE_SCRATCH scratchRow w = w := by
  have hmask : scratchRow.rw ||| (if committed s p then 0 else scratchRow.once) = BitVec.allOnes 32 := by split <;> decide
  have hw1c : scratchRow.w1c = 0#32 := rfl
  simp only [merged, hmask, hw1c, legalReg_scratch]
  rw [if_neg (by decide), BitVec.not_allOnes, BitVec.and_zero, BitVec.zero_or, BitVec.and_allOnes, BitVec.and_zero]
  exact BitVec.and_allOnes

/-- No rule refuses a value of PAGE_SCRATCH. -/
theorem refusedValue_scratch (k : PageKind) : refusedValue s k Reg.PAGE_SCRATCH w = s := by
  have hadj : Reg.PAGE_SCRATCH ≠ Reg.TMS_FREQ_ADJ := by decide
  have henv : ¬(Reg.PAGE_SCRATCH = Reg.PWR_ENVELOPE ∨ Reg.PAGE_SCRATCH = Reg.PWR_ENVELOPE_SHED) := by decide
  rw [refusedValue, if_neg (fun h => hadj h.2.1), if_neg (fun h => henv h.2.1)]

theorem plainWrite_scratch :
    plainWrite s p Reg.PAGE_SCRATCH scratchRow w = wr s (p.base + Reg.PAGE_SCRATCH) w := by
  have honce : ¬(p.kind = .mem ∧ scratchRow.once ≠ 0 ∧ committed s p = true) := fun h => h.2.1 rfl
  have hmask : (decide (Reg.PAGE_SCRATCH = Reg.PAGE_ERR_MASK) && p.kind.isBlock) = false := rfl
  simp only [plainWrite, lockedReg_scratch, merged_scratch, refusedValue_scratch, if_neg honce, hmask,
    Bool.false_eq_true, if_false]

variable {p} (hk : p.kind.isBlock = true)
include hk

theorem rowAt_scratch : rowAt p.kind Reg.PAGE_SCRATCH = some scratchRow := by
  obtain ⟨k, i, b⟩ := p
  cases k
  case cch | vfStat | vfDb | tenCip | vfMbx | vfQv => cases hk
  all_goals rfl

theorem pageView_scratch : pageView s p Reg.PAGE_SCRATCH = none := by
  obtain ⟨k, i, b⟩ := p
  cases k
  case cch | vfStat | vfDb | tenCip | vfMbx | vfQv => cases hk
  all_goals rfl

/-- PAGE_SCRATCH shows what it holds. -/
theorem regValue_scratch : regValue s p Reg.PAGE_SCRATCH scratchRow = rd s (p.base + Reg.PAGE_SCRATCH) := by
  have hident : pageIdent p Reg.PAGE_SCRATCH = none := by
    rw [pageIdent, hk, if_neg (by decide), if_neg (by decide), if_neg (by decide)]
  have hread : scratchRow.readable = BitVec.allOnes 32 := by decide
  rw [regValue, hident, pageView_scratch s hk, hread]
  exact BitVec.and_allOnes

/-- No block page treats its PAGE_SCRATCH apart. -/
theorem regWrite_scratch (via : Master) :
    regWrite s via p Reg.PAGE_SCRATCH scratchRow w = wr s (p.base + Reg.PAGE_SCRATCH) w := by
  rw [← plainWrite_scratch]
  obtain ⟨k, i, b⟩ := p
  cases k
  case cch | vfStat | vfDb | tenCip | vfMbx | vfQv => cases hk
  all_goals rfl

/-- The aliases of PAGE_SCRATCH store its word with the named bits set or cleared (R161). -/
theorem aliasWrite_scratch (via : Master) (set : Bool) :
    aliasWrite s via p Reg.PAGE_SCRATCH set w = wr s (p.base + Reg.PAGE_SCRATCH)
      (if set then rd s (p.base + Reg.PAGE_SCRATCH) ||| w else rd s (p.base + Reg.PAGE_SCRATCH) &&& ~~~w) := by
  have hmask : scratchRow.rw ||| scratchRow.once = BitVec.allOnes 32 := by decide
  simp only [aliasWrite, rowAt_scratch hk, hmask, regValue_scratch s hk, regWrite_scratch s _ hk, BitVec.and_allOnes]
  exact if_neg (by decide)

end

/-! ### Forced errors (R160) -/

theorem fbit_or (v w : Word) (n : Nat) : fbit (v ||| w) n = (fbit v n || fbit w n) := by
  simp only [fbit_eq_testBit, BitVec.toNat_or, Nat.testBit_or]

theorem fbit_and (v w : Word) (n : Nat) : fbit (v &&& w) n = (fbit v n && fbit w n) := by
  simp only [fbit_eq_testBit, BitVec.toNat_and, Nat.testBit_and]

theorem fbit_two_pow {k : Nat} (hk : k < 32) (n : Nat) : fbit (w32 (2 ^ k)) n = decide (k = n) := by
  rw [fbit_eq_testBit, w32, BitVec.toNat_ofNat, Nat.mod_eq_of_lt (Nat.pow_lt_pow_right (by decide) hk), Nat.testBit_two_pow]

/-- The bits of the TCK page's PAGE_ERR are its five lowest. -/
theorem fbit_tckErrMask (n : Nat) : fbit 0x1F n = decide (n < 5) := by
  rw [fbit_eq_testBit]
  exact Nat.testBit_two_pow_sub_one 5 n

/-- An error sets its bit of PAGE_ERR and leaves the others (R157). -/
theorem fbit_setErr_page {s : State} {page k : Nat} (hw : twf regDflt s.regs = true) (hk : k < 32)
    (ha : page + Reg.PAGE_ERR ∉ vectorCounters) (n : Nat) :
    fbit (rd (setErr s page k) (page + Reg.PAGE_ERR)) n = (fbit (rd s (page + Reg.PAGE_ERR)) n || decide (k = n)) := by
  unfold setErr
  split
  next hset =>
    by_cases hkn : k = n
    · rw [← hkn, hset, Bool.true_or]
    · rw [decide_eq_false hkn, Bool.or_false]
  next =>
    rw [rd_summaryRise page ha, recordFirst_rd _ _ _ _ _ _ (fun e => absurd (Nat.add_left_cancel e) (by decide)),
      rd_wr_same _ _ hw, fbit_or, fbit_two_pow hk]

theorem wf_setErr {s : State} (page n : Nat) (hw : Memory.wf s = true) : Memory.wf (setErr s page n) = true :=
  (setErr_keeps (kk := ⟨false, false, false, false, false⟩) s page n (Keeps.refl s)).wf hw

/-- The errors of a page that a word names, of those in a list, each set in turn. -/
def setErrs (page : Nat) (v : Word) (l : List Nat) (s : State) : State :=
  l.foldl (fun s n => if fbit v n then setErr s page n else s) s

theorem setErrs_cons (page : Nat) (v : Word) (k : Nat) (l : List Nat) (s : State) :
    setErrs page v (k :: l) s = setErrs page v l (if fbit v k then setErr s page k else s) := rfl

/-- What no error of the page touches, forced errors leave. -/
theorem setErrs_frame {α : Type} {page : Nat} (f : State → α) (hf : ∀ s n, f (setErr s page n) = f s) (v : Word)
    (l : List Nat) (s : State) : f (setErrs page v l s) = f s := by
  induction l generalizing s with
  | nil => rfl
  | cons k l ih =>
    rw [setErrs_cons, ih]
    split
    · exact hf s k
    · rfl

theorem fbit_setErrs {page : Nat} (ha : page + Reg.PAGE_ERR ∉ vectorCounters) (v : Word) (n : Nat) (l : List Nat)
    (hl : ∀ k ∈ l, k < 32) (s : State) (hw : Memory.wf s = true) :
    fbit (rd (setErrs page v l s) (page + Reg.PAGE_ERR)) n
      = (fbit (rd s (page + Reg.PAGE_ERR)) n || (decide (n ∈ l) && fbit v n)) := by
  induction l generalizing s with
  | nil => simp [setErrs]
  | cons k l ih =>
    have hrest := fun m hm => hl m (List.mem_cons_of_mem k hm)
    rw [setErrs_cons]
    by_cases hv : fbit v k = true
    · rw [if_pos hv, ih hrest _ (wf_setErr page k hw), fbit_setErr_page (Memory.wf_regs hw) (hl k List.mem_cons_self) ha]
      by_cases hkn : k = n
      · simp [← hkn, hv]
      · simp [hkn, Ne.symm hkn]
    · rw [if_neg hv, ih hrest _ hw]
      by_cases hkn : k = n
      · simp [← hkn, hv]
      · simp [Ne.symm hkn]

theorem forceErr_tck (s : State) (w : Word) :
    forceErr s ⟨.tck, 0, pgTck⟩ w = setErrs pgTck (w &&& 0x1F) (List.range 32) s := rfl

theorem fbit_forceErr_tck {s : State} (hw : Memory.wf s = true) (w : Word) (n : Nat) :
    fbit (rd (forceErr s ⟨.tck, 0, pgTck⟩ w) (pgTck + Reg.PAGE_ERR)) n
      = (fbit (rd s (pgTck + Reg.PAGE_ERR)) n || (decide (n < 5) && fbit w n)) := by
  rw [forceErr_tck, fbit_setErrs (by decide) _ _ _ (fun k hk => List.mem_range.1 hk) s hw, fbit_and, fbit_tckErrMask]
  by_cases hn : n < 5
  · simp [hn, Nat.lt_trans hn (by decide : 5 < 32)]
  · simp [hn]

theorem exec_pageErrForceWrite_tck {s : State} {via : Master} (hv : Manages via) (hs : served s via true = true)
    (hp : s.power.phase ≠ .recovery) (w : Word) :
    exec (.pageErrForceWrite via pgTck w) s = .next (forceErr s ⟨.tck, 0, pgTck⟩ w) := by
  obtain ⟨r, ht⟩ : ∃ r, target (pgTck + Reg.PAGE_ERR_FORCE) = .reg ⟨.tck, 0, pgTck⟩ Reg.PAGE_ERR_FORCE r := ⟨_, rfl⟩
  show execPageErrForceWrite via pgTck w s = _
  rw [execPageErrForceWrite, writeServed, if_pos hs, writeAccess_reg hv (by decide) ht hp]
  rfl

/-- Settles O23: a write to one of the aliases is one word stored (`aliasWrite_scratch`), and forced errors are the page's
errors raised in turn (`fbit_forceErr_tck`). -/
theorem aliasAndForceWrites : Obligations.AliasAndForceWrites := by
  intro s via w hwf hv hs hp
  have hw := Memory.wf_regs hwf
  refine ⟨fun b p hlt hpage hb => ?_, ?_⟩
  · have hk := pageAt_isBlock hlt hpage
    have hscratch : Reg.PAGE_SCRATCH < 0x400 := by decide
    refine ⟨⟨_, exec_setAliasWrite hv hs hp (by omega) (target_setAlias hlt hpage hb hscratch) w, ?_⟩,
      ⟨_, exec_clearAliasWrite hv hs hp (by omega) (target_clearAlias hlt hpage hb hscratch) w, ?_⟩⟩
    · rw [aliasWrite_scratch s w hk, ← hb]
      exact wr_alone hw _ _
    · rw [aliasWrite_scratch s w hk, ← hb]
      exact wr_alone hw _ _
  · refine ⟨_, exec_pageErrForceWrite_tck hv hs hp w, fun n hn => ?_, fun n hn => ?_, ?_⟩
    · rw [fbit_forceErr_tck hwf, decide_eq_true hn, Bool.true_and]
    · rw [fbit_forceErr_tck hwf, decide_eq_false (Nat.not_lt.2 hn), Bool.false_and, Bool.or_false]
    · rw [forceErr_tck]
      exact ⟨setErrs_frame State.time (fun s => setErr_time s _) _ _ s,
        setErrs_frame State.tck (fun s => setErr_tck s _) _ _ s,
        setErrs_frame State.power (fun s => setErr_power s _) _ _ s,
        setErrs_frame State.red (fun s => setErr_red s _) _ _ s,
        setErrs_frame State.running (fun s => setErr_running s _) _ _ s⟩

end Sys2Proof.Machine

/-! SUPPORT. Numbers in network byte order (R21), the frames of the maintenance port, and what each of them does (R183 to
R188); from these, O26. -/
namespace Sys2Proof.Machine

/-! ### Numbers in network byte order (R21) -/

theorem length_beBytes (n v : Nat) : (beBytes n v).length = n := by
  have hlength : ∀ v, (leBytes n v).length = n := by
    induction n with
    | zero => exact fun _ => rfl
    | succ n ih => exact fun v => congrArg (· + 1) (ih (v / 256))
  rw [beBytes, List.length_reverse, hlength]

theorem leNat_leBytes (n v : Nat) : leNat (leBytes n v) = v % 256 ^ n := by
  induction n generalizing v with
  | zero => exact (Nat.mod_one v).symm
  | succ n ih =>
    rw [leBytes, leNat, ih, BitVec.toNat_ofNat, Nat.pow_succ' (n := n)]
    exact Nat.mod_mul.symm

theorem beNat_append_one (l : List Byte) (b : Byte) : beNat (l ++ [b]) = beNat l * 256 + b.toNat := by
  simp only [beNat, List.foldl_append, List.foldl_cons, List.foldl_nil]

theorem beNat_reverse (l : List Byte) : beNat l.reverse = leNat l := by
  induction l with
  | nil => rfl
  | cons b l ih => rw [List.reverse_cons, beNat_append_one, ih, leNat, Nat.mul_comm, Nat.add_comm]

theorem beNat_beBytes (n v : Nat) : beNat (beBytes n v) = v % 256 ^ n := by
  rw [beBytes, beNat_reverse, leNat_leBytes]

/-- The bytes between two parts of a string. -/
theorem sliceB_middle (l m r : List Byte) : sliceB (l ++ m ++ r) l.length m.length = m := by
  rw [sliceB, List.append_assoc, List.drop_left, List.take_left]
  simp only [Nat.sub_self, List.replicate_zero, List.append_nil]

/-- A field reads back the number it was built from. -/
theorem beAt_beBytes (l r : List Byte) (n v : Nat) : beAt (l ++ beBytes n v ++ r) l.length n = v % 256 ^ n := by
  have hslice := sliceB_middle l (beBytes n v) r
  rw [length_beBytes] at hslice
  rw [beAt, hslice, beNat_beBytes]

/-! ### Requests (R183, R184, R186) -/

/-- A read request: opcode and address. -/
def readRequest (a : Nat) : List Byte := maintFrame (1 :: beBytes 4 a)

/-- A write request: opcode, address and word. -/
def writeRequest (a : Nat) (w : Word) : List Byte := maintFrame (2 :: beBytes 4 a ++ beBytes 4 w.toNat)

theorem length_maintFrame (l : List Byte) : (maintFrame l).length = l.length + 1 := List.length_append

/-- The last byte of a frame built with its crc is the crc of what stands before it. -/
theorem maintFrame_crc {l : List Byte} {n : Nat} (hn : (maintFrame l).length = n) :
    (maintFrame l).take n = maintFrame ((maintFrame l).take (n - 1)) := by
  have hbody : (maintFrame l).take l.length = l := List.take_left
  rw [← hn, List.take_length, length_maintFrame, Nat.add_sub_cancel, hbody]

section
variable {a : Nat} {w : Word}

theorem length_readRequest : (readRequest a).length = maintLen (readRequest a) := by
  rw [readRequest, length_maintFrame, List.length_cons, length_beBytes]
  rfl

theorem length_writeRequest : (writeRequest a w).length = maintLen (writeRequest a w) := by
  rw [writeRequest, length_maintFrame, List.length_append, List.length_cons, length_beBytes, length_beBytes]
  rfl

theorem readRequest_address (ha : a < 0x4000000) : beAt (readRequest a) 1 4 = a :=
  (beAt_beBytes [1] _ 4 a).trans (Nat.mod_eq_of_lt (by omega))

theorem writeRequest_address (ha : a < 0x4000000) : beAt (writeRequest a w) 1 4 = a := by
  have h := beAt_beBytes [2] (beBytes 4 w.toNat ++ [BitVec.ofNat 8 (crc8 (2 :: beBytes 4 a ++ beBytes 4 w.toNat))]) 4 a
  rw [← List.append_assoc] at h
  exact h.trans (Nat.mod_eq_of_lt (by omega))

theorem writeRequest_word : w32 (beAt (writeRequest a w) 5 4) = w := by
  have h := beAt_beBytes (2 :: beBytes 4 a) [BitVec.ofNat 8 (crc8 (2 :: beBytes 4 a ++ beBytes 4 w.toNat))] 4 w.toNat
  have hlt := w.isLt
  rw [List.length_cons, length_beBytes, Nat.mod_eq_of_lt (by omega)] at h
  exact (congrArg w32 h).trans (BitVec.eq_of_toNat_eq (Nat.mod_eq_of_lt hlt))

end

/-! ### What a request does (R186, R188) -/

section
variable {s : State} {a : Nat} {w : Word} {f : List Byte}

/-- During bring-up a request is answered BUSY, a read with zero data, and nothing is performed. -/
theorem maintServe_busy (hb : s.power.bringupDone = false) :
    maintServe s f = (s, maintResponse stBUSY (if (f.getD 0 0).toNat = 1 then some 0 else none)) := by
  unfold maintServe
  exact if_pos (by rw [hb]; rfl)

/-- An opcode that is neither read nor write is answered BAD_ARG. -/
theorem maintServe_badOpcode (hb : s.power.bringupDone = true) (hread : (f.getD 0 0).toNat ≠ 1)
    (hwrite : (f.getD 0 0).toNat ≠ 2) : maintServe s f = (s, maintResponse stBAD_ARG none) := by
  unfold maintServe
  dsimp only
  rw [hb, if_neg (by decide), if_pos (.inr (.inl ⟨hread, hwrite⟩)), if_neg hread]

/-- A sound request is performed by the maintenance master and answered OK. -/
theorem maintServe_sound (hb : s.power.bringupDone = true)
    (hcrc : f.take (maintLen f) = maintFrame (f.take (maintLen f - 1)))
    (hop : (f.getD 0 0).toNat = 1 ∨ (f.getD 0 0).toNat = 2) (halign : beAt f 1 4 % 4 = 0) (ha : beAt f 1 4 < 0x4000000) :
    maintServe s f = if (f.getD 0 0).toNat = 1
      then ((readAccess s .maint (beAt f 1 4)).1, maintResponse stOK (some (readAccess s .maint (beAt f 1 4)).2.1))
      else (writeAccess s .maint (beAt f 1 4) (w32 (beAt f 5 4)), maintResponse stOK none) := by
  unfold maintServe
  dsimp only
  rw [hb, if_neg (by decide), if_neg]
  rintro (hbad | ⟨hread, hwrite⟩ | hlow | hhigh)
  · exact hbad hcrc
  · exact hop.elim hread hwrite
  · exact hlow halign
  · exact Nat.not_le.2 ha hhigh

theorem maintServe_read (hb : s.power.bringupDone = true) (halign : a % 4 = 0) (ha : a < 0x4000000) :
    maintServe s (readRequest a)
      = ((readAccess s .maint a).1, maintFrame (0xA0 :: beBytes 4 (readAccess s .maint a).2.1.toNat)) := by
  have haddr := readRequest_address ha
  rw [maintServe_sound (f := readRequest a) hb (maintFrame_crc length_readRequest) (.inl rfl) (by rwa [haddr])
    (by rwa [haddr]), haddr]
  rfl

theorem maintServe_write (hb : s.power.bringupDone = true) (halign : a % 4 = 0) (ha : a < 0x4000000) :
    maintServe s (writeRequest a w) = (writeAccess s .maint a w, maintFrame [0xA0]) := by
  have haddr := writeRequest_address (w := w) ha
  rw [maintServe_sound (f := writeRequest a w) hb (maintFrame_crc length_writeRequest) (.inr rfl) (by rwa [haddr])
    (by rwa [haddr]), haddr, writeRequest_word]
  rfl

theorem maintRequest_eq (hr : outOfReset s = true) (f : List Byte) :
    maintRequest s f = emit (maintServe s f).1 (.spi (maintServe s f).2) := if_pos hr

theorem exec_maintReadRequest : exec (.maintReadRequest a) s = .next (maintRequest s (readRequest a)) := rfl

theorem exec_maintWriteRequest : exec (.maintWriteRequest a w) s = .next (maintRequest s (writeRequest a w)) := rfl

/-- A frame at least as long as its opcode asks for is a request, clocked in whole. -/
theorem exec_maintBadRequest_whole (hlen : maintLen f ≤ f.length) :
    exec (.maintBadRequest f) s = .next (maintRequest s f) :=
  congrArg Host.Outcome.next (if_neg (Nat.not_lt.2 hlen))

/-- A frame cut after its last byte has been performed, and its response is lost (R187). -/
theorem exec_maintFrameAbort_whole (hr : outOfReset s = true) (hlen : maintLen f ≤ f.length) :
    exec (.maintFrameAbort f) s = .next (maintServe s f).1 :=
  congrArg Host.Outcome.next (if_neg (by rw [hr, decide_eq_false (Nat.not_lt.2 hlen)]; decide))

/-- The opcode of a frame is its first byte. -/
theorem head_eq_of_opcode {n : Nat} (hne : f ≠ []) (h : (f.getD 0 0).toNat = n) :
    f.head? = some (BitVec.ofNat 8 n) := by
  obtain ⟨b, l, rfl⟩ := List.exists_cons_of_ne_nil hne
  rw [← h, List.getD_cons_zero, BitVec.ofNat_toNat, BitVec.setWidth_eq, List.head?_cons]

end

/-- Settles O26: each request is one case of `maintServe`, by what its frame reads back as; an I2C row moves the pointer and
sends at most one word. -/
theorem maintenancePort : Obligations.MaintenancePort := by
  intro s a w hr
  refine ⟨fun hb halign ha => ⟨?_, ?_, ?_⟩, fun f hshort => ⟨?_, ?_⟩, fun f hb hlen hread hwrite => ?_, fun hb => ?_,
    fun hone ptr => ⟨?_, ?_⟩⟩
  · rw [exec_maintReadRequest, maintRequest_eq hr, maintServe_read hb halign ha]
  · rw [exec_maintWriteRequest, maintRequest_eq hr, maintServe_write hb halign ha]
  · exact (exec_maintFrameAbort_whole hr (Nat.le_of_eq length_writeRequest.symm)).trans
      (congrArg (fun r : State × List Byte => Host.Outcome.next r.1) (maintServe_write hb halign ha))
  · exact congrArg Host.Outcome.next (if_pos (by rw [decide_eq_true hshort, Bool.true_or]))
  · exact congrArg Host.Outcome.next (if_pos hshort)
  · have hne : f ≠ [] := List.ne_nil_of_length_pos (by rw [hlen]; decide)
    have hsize : maintLen f = 6 := if_neg hwrite
    rw [exec_maintBadRequest_whole (Nat.le_of_eq (hsize.trans hlen.symm)), maintRequest_eq hr,
      maintServe_badOpcode hb (fun h => hread (head_eq_of_opcode hne h))
        (fun h => hwrite (head_eq_of_opcode hne h))]
    rfl
  · rw [exec_maintReadRequest, maintRequest_eq hr, maintServe_busy hb]
    rfl
  · exact congrArg Host.Outcome.next (if_pos hone)
  · exact if_pos hone

end Sys2Proof.Machine

/-! SUPPORT. What the kinds of Laws/Exec.lean say of recovery, and how bring-up starts; O4 and O7. -/
namespace Sys2Proof.Machine

section
variable {c : Instr} (hpower : ∀ n, c ≠ .powerOn n) (hperst : c ≠ .perstAssert) (hrail : c ≠ .coreRailLoss)
  (hclock : c ≠ .sysclkLoss) (hwarm : ∀ l, c ≠ .warmResetAssert l) (hstage : ∀ us f, c ≠ .bringupStageEnd us f)
include hpower hperst hrail hclock hwarm hstage

/-- Outside the device resets and the ends of bring-up stages, no command leaves recovery (R214, R215). -/
theorem kindOf_rcv : (kindOf c).rcv = true := by
  cases c with
  | powerOn n => exact absurd rfl (hpower n)
  | perstAssert => exact absurd rfl hperst
  | coreRailLoss => exact absurd rfl hrail
  | sysclkLoss => exact absurd rfl hclock
  | warmResetAssert l => exact absurd rfl (hwarm l)
  | bringupStageEnd us f => exact absurd rfl (hstage us f)
  | _ => rfl

end

/-- Settles O4: each command keeps what its kind says, and the kinds that let recovery go are those of the commands
excepted. -/
theorem recoveryLeftOnlyByReset : Obligations.RecoveryLeftOnlyByReset := by
  intro c s t hrec h hpower hperst hrail hclock hwarm hstage
  have hkeeps : Keeps (kindOf c) s t := exec_keeps c s t h
  exact hkeeps.recovery (kindOf_rcv hpower hperst hrail hclock hwarm hstage) hrec

section
variable {s : State}

/-- PERST# rises: bring-up starts where the device is powered and the monitor has released it (R192, R194). -/
theorem execPerstDeassert_low (hlow : s.power.perstLow = true) :
    execPerstDeassert s = .next (if s.power.mainRails && !s.power.monitorHold
      then beginBringup { s with power := { s.power with perstLow := false } }
      else { s with power := { s.power with perstLow := false } }) := by
  rw [execPerstDeassert, hlow]
  rfl

/-- The monitor releases a powered device (R192). -/
theorem execPowerOnMonitorRelease_held (hrails : s.power.mainRails = true) (hhold : s.power.monitorHold = true) :
    execPowerOnMonitorRelease s = if s.power.perstLow
      then .next { s with power := { s.power with monitorHold := false } }
      else .next { s with power := { s.power with
        monitorHold := false, bringing := some 0, lastStage := none, elapsedUs := 0, cause := s.power.cause ||| 0x10 } } := by
  rw [execPowerOnMonitorRelease, hrails, hhold]
  rfl

end

/-- Settles O7: each of the three rows is one condition on the pins, then `beginBringup` or the level alone. -/
theorem bringupBegins : Obligations.BringupBegins := by
  intro s
  refine ⟨fun hlow hrails hfree => ?_, fun hlow hheld => ?_, fun hrails hhold hhigh => ?_, fun hrails hhold hlow => ?_,
    fun hwarm => if_pos hwarm⟩
  · refine (execPerstDeassert_low hlow).trans (congrArg _ (if_pos ?_))
    rw [hrails, hfree]
    rfl
  · refine (execPerstDeassert_low hlow).trans (congrArg _ (if_neg ?_))
    rcases hheld with hrails | hhold
    · rw [hrails, Bool.false_and]; decide
    · rw [hhold, Bool.not_true, Bool.and_false]; decide
  · exact (execPowerOnMonitorRelease_held hrails hhold).trans (if_neg (by rw [hhigh]; decide))
  · exact (execPowerOnMonitorRelease_held hrails hhold).trans (if_pos hlow)

end Sys2Proof.Machine

/-! SUPPORT. The result word of a command that ends, the phase commands, and what a boundary makes of them and of a due
recovery; O10 and O12. -/
namespace Sys2Proof.Machine

/-! ### The result word -/

theorem fld_or (v w : Word) (hi lo : Nat) : fld (v ||| w) hi lo = fld v hi lo ||| fld w hi lo := by
  simp only [fld, BitVec.toNat_or, Nat.shiftRight_or_distrib, Nat.or_mod_two_pow]

theorem fld_and (v w : Word) (hi lo : Nat) : fld (v &&& w) hi lo = fld v hi lo &&& fld w hi lo := by
  simp only [fld, BitVec.toNat_and, Nat.shiftRight_and_distrib, Nat.and_mod_two_pow]

/-- The result word a command's end writes: done, status, code and sequence number; `refused` stays (R164, R166). -/
theorem rd_finishCmd_result {s : State} {page : Nat} {c : RunCmd} (st : Nat) (o0 o1 o2 : Word)
    (hw : twf regDflt s.regs = true) (hc : runningOn s page = some c) :
    rd (finishCmd s page st o0 o1 o2) (page + Reg.CMD_RESULT)
      = w32 (1 + 256 * st + 65536 * (c.code % 256) + 2 ^ 24 * (c.seq % 256))
        ||| (rd s (page + Reg.CMD_RESULT) &&& 2) := by
  have hfirst : page + Reg.CMD_RESULT ≠ page + Reg.PAGE_ERR_FIRST := fun e => absurd (Nat.add_left_cancel e) (by decide)
  have hbelow : page + Reg.CMD_RESULT < page + Reg.CMD_OUT := Nat.add_lt_add_left (by decide) page
  have hword : ∀ (t : State) (w : Word), twf regDflt t.regs = true →
      rd (wrMany (wr t (page + Reg.CMD_RESULT) w) (page + Reg.CMD_OUT) [o0, o1, o2]) (page + Reg.CMD_RESULT) = w :=
    fun t w ht => (rd_wrMany_other _ _ _ _ (.inl hbelow)).trans (rd_wr_same _ _ ht)
  have hsync : twf regDflt (if c.via = .sync then noteSync s page (o0, o1, o2) else s).regs = true := by
    split <;> exact hw
  unfold finishCmd
  rw [hc]
  dsimp only
  split
  · exact (recordFirst_rd _ _ _ _ _ _ hfirst).trans (hword _ _ hsync)
  · exact hword _ _ hsync

/-- The bits of a result word: done is set, and the status is in [15:8] (R166). -/
theorem fbit_result_done (st code seq : Nat) : fbit (w32 (1 + 256 * st + 65536 * code + 2 ^ 24 * seq)) 0 = true := by
  have hmod : (1 + 256 * st + 65536 * code + 2 ^ 24 * seq) % 2 ^ 32 % 2 = 1 := by omega
  simpa [fbit, w32] using hmod

theorem fld_result_status {st : Nat} (hst : st < 256) (code seq : Nat) :
    fld (w32 (1 + 256 * st + 65536 * code + 2 ^ 24 * seq)) 15 8 = st := by
  rw [fld, w32, BitVec.toNat_ofNat, Nat.shiftRight_eq_div_pow]
  omega

/-- A command that ends with no outputs is done with its status. -/
theorem endCmd_done {s : State} {page st : Nat} {c : RunCmd} (hw : twf regDflt s.regs = true)
    (hc : runningOn s page = some c) (hst : st < 256) :
    fbit (rd (endCmd s page st) (page + Reg.CMD_RESULT)) 0 = true
      ∧ fld (rd (endCmd s page st) (page + Reg.CMD_RESULT)) 15 8 = st := by
  have hrefused : fld (2 : Word) 15 8 = 0 := by decide
  rw [endCmd, rd_finishCmd_result st 0 0 0 hw hc]
  exact ⟨by rw [fbit_or, fbit_result_done, Bool.true_or],
    by rw [fld_or, fld_and, fld_result_status hst, hrefused, Nat.and_zero, Nat.or_zero]⟩

/-! ### Acceptance of a phase command (R219) -/

theorem sysPlain : PlainPage pgSys := ⟨by decide, by decide⟩

section
variable {s : State} {page code : Nat} {via : Master} {seq : Byte} {a0 a1 a2 : Word} {spec : CmdSpec}

/-- An accepted row whose body leaves the command waiting in this very state, up to registers and running commands. -/
theorem commandRow_waits_here (hw : twf regDflt s.regs = true) (hp : PlainPage page) (hr : PageReady s page via)
    (hrole : spec.role via = true) (hph : spec.phases s.power.phase = true) (hc : code < 256)
    (hbody : ∀ r n, spec.body ⟨page, code, seq.toNat, via, a0, a1, a2⟩ { s with regs := r, running := n }
      = { s with regs := r, running := n }) :
    CmdRuns s (commandRow spec page code via seq a0 a1 a2 s) page code seq.toNat via (a0, a1, a2)
      ∧ { commandRow spec page code via seq a0 a1 a2 s with regs := s.regs, running := s.running } = s := by
  obtain ⟨r, n, hrow, hruns, -, -⟩ :=
    commandRow_started (code := code) (seq := seq) (a0 := a0) (a1 := a1) (a2 := a2) hw hp hr hrole hph hc
  rw [hrow, hbody]
  exact ⟨hruns, rfl⟩

end

/-- ENTER_SERVICE waits where a period is committed and a plan loaded. -/
theorem specEnterService_waits {s : State} (c : RunCmd) (hper : s.tck.committed = true) (hplan : s.tck.planActive = true) :
    specEnterService.body c s = s := by
  refine if_pos ?_
  rw [hper, hplan]
  rfl

/-! ### The boundary (R215, R217, R218) -/

theorem phaseCmd_congr {s t : State} (h : t.running = s.running) : phaseCmd t = phaseCmd s := by
  rw [phaseCmd, runningOn, h, phaseCmd, runningOn]

/-- A phase command that waits runs on the SYS page. -/
theorem runningOn_of_phaseCmd {s : State} {k : Nat} (h : phaseCmd s = some k) : ∃ c, runningOn s pgSys = some c := by
  unfold phaseCmd at h
  split at h
  next c hc => exact ⟨c, hc⟩
  next => exact absurd h (by simp)

/-- The waiting phase command has its effect where no recovery is due. -/
theorem phaseBoundary_command {s : State} {k : Nat} (hp : s.power.recoverPend = none) (hk : phaseCmd s = some k) :
    phaseBoundary s = endCmd { s with power := { s.power with
      phase := if k = 1 then .normal else if k = 2 then .test else s.power.testFrom,
      testFrom := if k = 2 then s.power.phase else s.power.testFrom } } pgSys stOK := by
  simp only [phaseBoundary, hp, hk]

theorem phaseBoundary_recovery {s : State} {c : Cause} (hp : s.power.recoverPend = some c) :
    phaseBoundary s = enterRecoveryNow s c := by
  simp only [phaseBoundary, hp]

/-- What neither a configuration word nor a message touches, an uncorrectable error leaves (R254). -/
theorem aerUnc_frame {α : Type} (g : State → α) (hcfg : ∀ s f o w, g (cfgWr s f o w) = g s)
    (hemit : ∀ s o, g (emit s o) = g s) (s : State) (f bit : Nat) (header : List Word) (advisory : Bool) :
    g (aerUnc s f bit header advisory) = g s := by
  simp only [aerUnc, devSta, apply_ite g, hcfg, hemit, ite_self]

section
variable (s : State) (f bit : Nat) (header : List Word) (advisory : Bool)

theorem aerUnc_regs : (aerUnc s f bit header advisory).regs = s.regs :=
  aerUnc_frame State.regs (fun _ _ _ _ => rfl) (fun _ _ => rfl) s f bit header advisory

theorem aerUnc_running : (aerUnc s f bit header advisory).running = s.running :=
  aerUnc_frame State.running (fun _ _ _ _ => rfl) (fun _ _ => rfl) s f bit header advisory

theorem aerUnc_power : (aerUnc s f bit header advisory).power = s.power :=
  aerUnc_frame State.power (fun _ _ _ _ => rfl) (fun _ _ => rfl) s f bit header advisory

end

/-- The state in which recovery is entered: a waiting phase command has ended with FAULT (R218). -/
def phaseFaulted (s : State) : State := if (phaseCmd s).isSome then endCmd s pgSys stFAULT else s

theorem phaseFaulted_power (s : State) : (phaseFaulted s).power = s.power := by
  unfold phaseFaulted
  split
  · exact endCmd_power s pgSys stFAULT
  · rfl

theorem phaseFaulted_idle (s : State) : phaseCmd (phaseFaulted s) = none := by
  unfold phaseFaulted
  split
  · exact endPhase_none s stFAULT
  next h => exact Option.not_isSome_iff_eq_none.1 h

section
variable (s : State) (c : Cause)

theorem enterRecoveryNow_power :
    (enterRecoveryNow s c).power = { s.power with phase := .recovery, recoverPend := none, faultN := true } := by
  refine (aerUnc_power _ _ _ _ _).trans ((setErr_power _ _ _).trans ?_)
  show { (phaseFaulted s).power with phase := .recovery, recoverPend := none, faultN := true } = _
  rw [phaseFaulted_power]

theorem enterRecoveryNow_idle : phaseCmd (enterRecoveryNow s c) = none := by
  have hrun : (enterRecoveryNow s c).running = (phaseFaulted s).running :=
    (aerUnc_running _ _ _ _ _).trans (setErr_running _ _ _)
  rw [phaseCmd_congr hrun, phaseFaulted_idle]

/-- On entry into recovery the result word of the SYS page is the one the phase command's end leaves. -/
theorem rd_enterRecoveryNow_result :
    rd (enterRecoveryNow s c) (pgSys + Reg.CMD_RESULT) = rd (phaseFaulted s) (pgSys + Reg.CMD_RESULT) := by
  rw [rd, enterRecoveryNow, aerUnc_regs]
  refine (rd_setErr_other 5 (by decide) (by decide) (by decide)).trans ?_
  exact rd_wr_other _ (by decide)

end

/-- Settles O10: the three rows wait after acceptance (`commandRow_waits_here`), and the boundary changes the phase and ends
the command, or enters recovery. -/
theorem phaseCommands : Obligations.PhaseCommands := by
  intro s via seq
  refine ⟨fun hwf hr hv => ?_, fun k hp hk => ?_, fun c hp => ?_⟩
  · have hw := Memory.wf_regs hwf
    refine ⟨fun hph hper hplan => ⟨_, rfl, ?_⟩, fun hph => ⟨_, rfl, ?_⟩, fun hph => ⟨_, rfl, ?_⟩⟩
    · exact commandRow_waits_here hw sysPlain hr hv.isGlobal (by rw [hph]; rfl) (by decide)
        (fun _ _ => specEnterService_waits _ hper hplan)
    · exact commandRow_waits_here hw sysPlain hr hv.isGlobal (by rcases hph with h | h <;> rw [h] <;> rfl) (by decide)
        (fun _ _ => rfl)
    · exact commandRow_waits_here hw sysPlain hr hv.isGlobal (by rw [hph]; rfl) (by decide) (fun _ _ => rfl)
  · rw [phaseBoundary_command hp hk, endCmd_power]
    exact ⟨rfl, fun h => if_pos h, endPhase_none _ _⟩
  · rw [phaseBoundary_recovery hp, enterRecoveryNow_power]
    exact ⟨rfl, rfl, enterRecoveryNow_idle s c⟩

/-- Settles O12: entry into recovery ends the waiting command (`phaseFaulted`), and nothing it does after that touches the
result word. -/
theorem recoveryEndsPhaseCommand : Obligations.RecoveryEndsPhaseCommand := by
  intro s c k hwf hp hk
  obtain ⟨r, hr⟩ := runningOn_of_phaseCmd hk
  have hfault : phaseFaulted s = endCmd s pgSys stFAULT := if_pos (by rw [hk]; rfl)
  rw [phaseBoundary_recovery hp, enterRecoveryNow_power, rd_enterRecoveryNow_result, hfault]
  exact ⟨rfl, enterRecoveryNow_idle s c, endCmd_done (Memory.wf_regs hwf) hr (by decide)⟩

end Sys2Proof.Machine

/-! SUPPORT. What the rows of configuration space leave of the endpoint and of the entries in hand, and the words they
store; O32. -/
namespace Sys2Proof.Machine

/-! ### What queue work leaves of the endpoint -/

theorem foldl_frame {α β : Type} (g : State → β) {f : State → α → State} (hf : ∀ s a, g (f s a) = g s) (l : List α)
    (s : State) : g (l.foldl f s) = g s := by
  induction l generalizing s with
  | nil => rfl
  | cons a l ih => exact (ih (f s a)).trans (hf s a)

/-- The endpoint, and the function of each entry in hand. -/
def endpointOf (s : State) : PcieUnit × List Nat := (s.pcie, s.queues.items.map (·.fn))

theorem endpointOf_eq_iff {s : State} {x : PcieUnit × List Nat} :
    endpointOf s = x ↔ s.pcie = x.1 ∧ s.queues.items.map (·.fn) = x.2 := Prod.ext_iff

theorem endpointOf_modItem (s : State) (wq idx : Nat) {f : WorkItem → WorkItem} (hf : ∀ i, (f i).fn = i.fn) :
    endpointOf (modItem s wq idx f) = endpointOf s := by
  have hfn : ∀ i : WorkItem, (if i.wq = wq ∧ i.idx = idx then f i else i).fn = i.fn := by
    intro i
    split
    · exact hf i
    · rfl
  simp [endpointOf, modItem, Function.comp_def, hfn]

@[simp] theorem endpointOf_endItem (s : State) (wq idx : Nat) (r : Report) :
    endpointOf (endItem s wq idx r) = endpointOf s := by
  unfold endItem
  split
  · rfl
  · split
    · rfl
    · rfl
    · exact endpointOf_modItem (freeItemCells s _) wq idx (fun _ => rfl)

@[simp] theorem endpointOf_releaseFrame (s : State) (id : Nat) : endpointOf (releaseFrame s id) = endpointOf s := by
  unfold releaseFrame
  split
  · rfl
  next f _ => exact foldl_frame endpointOf (f := fun s c => subOcc s c.1 c.2) (fun _ _ => rfl) f.charges s

@[simp] theorem endpointOf_dropRef (s : State) (id : Nat) : endpointOf (dropRef s id) = endpointOf s := by
  unfold dropRef
  split
  · rfl
  · split
    · exact endpointOf_releaseFrame s id
    · rfl

@[simp] theorem endpointOf_endTx (s : State) (id st : Nat) (ready : Bool) :
    endpointOf (endTx s id st ready) = endpointOf s := by
  unfold endTx
  split
  · rfl
  · split
    · rfl
    · exact endpointOf_endItem _ _ _ _

@[simp] theorem endpointOf_dropDesc (s : State) (d : Desc) : endpointOf (dropDesc s d) = endpointOf s := by
  unfold dropDesc
  split
  · exact (endpointOf_dropRef _ _).trans (endpointOf_endTx _ _ _ _)
  · exact endpointOf_dropRef _ _

@[simp] theorem endpointOf_wr (s : State) (a : Nat) (w : Word) : endpointOf (wr s a w) = endpointOf s := rfl
@[simp] theorem endpointOf_wrBoth (s : State) (a : Nat) (w : Word) : endpointOf (wrBoth s a w) = endpointOf s := rfl
@[simp] theorem endpointOf_putReplay (s : State) (e n : Nat) : endpointOf (putReplay s e n) = endpointOf s := rfl
@[simp] theorem endpointOf_dropKeys (s : State) (p : SliceId → Nat → Bool) : endpointOf (dropKeys s p) = endpointOf s := rfl

/-! ### Work discarded at a reset (R203, R210) -/

theorem endpointOf_dropHeaders (s : State) (p : Nat → Bool) : endpointOf (dropHeaders s p) = endpointOf s := by
  unfold dropHeaders
  refine (foldl_frame endpointOf (fun t h => ?_) _ _).trans rfl
  cases h with
  | host id => exact endpointOf_dropRef t id
  | carlis _ _ _ => rfl

/-- Of the entries in hand, those of other functions stay. -/
theorem endpointOf_dropItems (s : State) (p : Nat → Bool) :
    endpointOf (dropItems s p) = (s.pcie, (s.queues.items.map (·.fn)).filter (fun f => !p f)) := by
  unfold dropItems
  refine (foldl_frame endpointOf (fun t i => ?_) _ _).trans ?_
  · dsimp only
    split
    · exact endpointOf_dropDesc _ _
    · rfl
  · simp [endpointOf, List.filter_map, Function.comp_def]

theorem endpointOf_crtDetach (s : State) (p : Nat → Bool) : endpointOf (crtDetach s p) = endpointOf s := by
  refine foldl_frame endpointOf (fun t e => ?_) s.crt.chans s
  rfl

theorem endpointOf_clearQueues (s : State) (p : Nat → Bool) (reset : Bool) :
    endpointOf (clearQueues s p reset) = endpointOf s := by
  refine foldl_frame endpointOf (fun t n => ?_) _ _
  dsimp only
  split
  · rfl
  · split <;> rfl

theorem endpointOf_clearFlags (s : State) (p : Nat → Bool) : endpointOf (clearFlags s p) = endpointOf s := by
  refine (foldl_frame endpointOf (fun t f => ?_) (s.queues.halted.filter p) (endHalts s p)).trans ?_
  · rfl
  · rfl

theorem endpointOf_discardWork (s : State) (p : Nat → Bool) (reset : Bool) :
    endpointOf (discardWork s p reset) = (s.pcie, (s.queues.items.map (·.fn)).filter (fun f => !p f)) := by
  obtain ⟨hpcie, hfns⟩ := endpointOf_eq_iff.1 (endpointOf_dropHeaders s p)
  calc endpointOf (discardWork s p reset)
      = endpointOf (forgetEntries (dropItems (dropHeaders s p) p) p) :=
        (endpointOf_clearQueues _ _ _).trans (endpointOf_crtDetach _ _)
    _ = endpointOf (dropItems (dropHeaders s p) p) := rfl
    _ = (s.pcie, (s.queues.items.map (·.fn)).filter (fun f => !p f)) := by
        rw [endpointOf_dropItems, hpcie, hfns]
        rfl

section
variable (s : State) (p : Nat → Bool) (fns : List Nat)

theorem endpointOf_reset : endpointOf (clearFlags (discardWork (staleTagsFn s p) p true) p)
    = ((staleTagsFn s p).pcie, (s.queues.items.map (·.fn)).filter (fun f => !p f)) :=
  (endpointOf_clearFlags _ p).trans (endpointOf_discardWork _ p true)

/-- What a reset of functions does to the endpoint (R203, R207). -/
theorem resetFns_pcie : (resetFns s p fns).pcie = { (staleTagsFn s p).pcie with
    cfg := tdrop (fun k => p (k / 4096)) s.pcie.cfg
    msix := tdrop (fun k => p (k / 8192)) s.pcie.msix
    pba := s.pcie.pba.filter (fun k => !p (k / 2048))
    flr := s.pcie.flr ++ fns.filter (fun f => !s.pcie.flr.contains f) } := by
  rw [resetFns, (endpointOf_eq_iff.1 (endpointOf_reset s p)).1]
  rfl

/-- Only entries of other functions stay in hand (R210). -/
theorem resetFns_fns : (resetFns s p fns).queues.items.map (·.fn) = (s.queues.items.map (·.fn)).filter (fun f => !p f) :=
  (endpointOf_eq_iff.1 (endpointOf_reset s p)).2

end

/-- Association `a` of a tenant is cleared. -/
def clearAssoc (t : Nat) (s : State) (a : Nat) : State :=
  putReplay ([40, 44, 52, 56].foldl (fun s o => wrBoth s (saBase t a + o) 0)
    (wrBoth s (saBase t a) (putBit (rd s (saBase t a)) 0 false))) (32 * t + a) 0

theorem clearAssocs_eq (s : State) (t : Nat) :
    clearAssocs s t = dropKeys (wr (wr ((List.range 32).foldl (clearAssoc t) s) (pgTenCip t + Reg.CP_PN_NEAR) 0)
      (pgTenCip t + Reg.CP_EXHAUSTED) 0) (fun _ e => e / 32 == t) := rfl

theorem endpointOf_clearAssoc (t : Nat) (s : State) (a : Nat) : endpointOf (clearAssoc t s a) = endpointOf s := by
  rw [clearAssoc, endpointOf_putReplay, foldl_frame endpointOf (fun _ _ => endpointOf_wrBoth _ _ _), endpointOf_wrBoth]

theorem endpointOf_clearAssocs (s : State) (t : Nat) : endpointOf (clearAssocs s t) = endpointOf s := by
  rw [clearAssocs_eq, endpointOf_dropKeys, endpointOf_wr, endpointOf_wr]
  exact foldl_frame endpointOf (endpointOf_clearAssoc t) _ s

/-! ### The change of VF Enable (R226) -/

section
variable (s : State)

theorem endpointOf_beginVfClear : endpointOf (beginVfClear s) =
    ({ (resetFns s (fun f => decide (2 ≤ f)) (liveVfs s)).pcie with vfClearing := true },
      (resetFns s (fun f => decide (2 ≤ f)) (liveVfs s)).queues.items.map (·.fn)) := by
  have hassocs := foldl_frame endpointOf endpointOf_clearAssocs
    ((cipherTenants s).filter (fun t => decide (t < s.pcie.vfLive)))
    (noteResets (resetFns s (fun f => decide (2 ≤ f)) (liveVfs s)) (List.range s.pcie.vfLive))
  obtain ⟨hpcie, hfns⟩ := endpointOf_eq_iff.1 hassocs
  refine endpointOf_eq_iff.2 ⟨?_, ?_⟩
  · rw [beginVfClear, hpcie]
    rfl
  · dsimp only [beginVfClear]
    rw [hfns]
    rfl

theorem beginVfClear_pcie : (beginVfClear s).pcie =
    { (resetFns s (fun f => decide (2 ≤ f)) (liveVfs s)).pcie with vfClearing := true } :=
  (endpointOf_eq_iff.1 (endpointOf_beginVfClear s)).1

theorem vfLive_beginVfClear : (beginVfClear s).pcie.vfLive = s.pcie.vfLive := by
  rw [beginVfClear_pcie, resetFns_pcie]
  rfl

theorem inFlr_beginVfClear {v : Nat} (hv : v < s.pcie.vfLive) : inFlr (beginVfClear s) (2 + v) = true := by
  have hlive : 2 + v ∈ liveVfs s := List.mem_map.2 ⟨v, List.mem_range.2 hv, Nat.add_comm v 2⟩
  rw [inFlr, beginVfClear_pcie, resetFns_pcie, List.contains_iff_mem, List.mem_append, List.mem_filter]
  by_cases hin : 2 + v ∈ s.pcie.flr
  · exact .inl hin
  · exact .inr ⟨hlive, by simpa using hin⟩

theorem cfgRd_beginVfClear {f o : Nat} (hf : f < 2) (ho : o < 4096) : cfgRd (beginVfClear s) f o = cfgRd s f o := by
  have hpf : ¬2 ≤ (4096 * f + o) / 4096 := by omega
  rw [cfgRd, beginVfClear_pcie, resetFns_pcie, tget_tdrop, decide_eq_false hpf]
  rfl

theorem fn_of_mem_items_beginVfClear {i : WorkItem} (hi : i ∈ (beginVfClear s).queues.items) : i.fn < 2 := by
  have hfns := (endpointOf_eq_iff.1 (endpointOf_beginVfClear s)).2.trans (resetFns_fns s _ _)
  have hmem : i.fn ∈ (beginVfClear s).queues.items.map (·.fn) := List.mem_map.2 ⟨i, hi, rfl⟩
  rw [hfns, List.mem_filter] at hmem
  simpa using hmem.2

end

/-! ### Bus Master Enable cleared (R263, R264) -/

theorem endpointOf_restartItem (s : State) (i : WorkItem) : endpointOf (restartItem s i) = endpointOf s :=
  endpointOf_modItem (freeItemCells s i) i.wq i.idx (fun _ => rfl)

theorem endpointOf_cutShort (s : State) (i : WorkItem) : endpointOf (cutShort s i) = endpointOf s := by
  unfold cutShort
  split
  · rfl
  · refine (endpointOf_dropRef _ _).trans ?_
    split
    · exact endpointOf_modItem s i.wq i.idx (fun _ => rfl)
    · exact (endpointOf_endItem _ _ _ _).trans (endpointOf_modItem s i.wq i.idx (fun _ => rfl))

theorem pcie_bmeCleared (s : State) (f : Nat) : (bmeCleared s f).pcie = (staleTagsFn s (fun x => x == f)).pcie :=
  (endpointOf_eq_iff.1 ((foldl_frame endpointOf endpointOf_cutShort _ _).trans
    (foldl_frame endpointOf endpointOf_restartItem _ _))).1

theorem cfgRd_bmeCleared (s : State) (f g o : Nat) : cfgRd (bmeCleared s f) g o = cfgRd s g o := by
  rw [cfgRd, pcie_bmeCleared]
  rfl

theorem stale_of_mem_tags_bmeCleared (s : State) (f : Nat) {x : Tag} (hx : x ∈ (bmeCleared s f).pcie.tags) (hf : x.fn = f) :
    x.stale = true := by
  rw [pcie_bmeCleared] at hx
  obtain ⟨y, -, rfl⟩ := List.mem_map.1 hx
  by_cases hy : y.fn = f
  · simp [hy]
  · simp [hy] at hf

/-! ### Configuration words -/

theorem cfgRd_cfgWr_same {s : State} (hw : Memory.wf s = true) (f o : Nat) (w : Word) : cfgRd (cfgWr s f o w) f o = w :=
  tget_tset_same _ _ _ _ (Memory.wf_cfg hw)

theorem putBit_false (w : Word) (n : Nat) : putBit w n false = w &&& ~~~(fmask n n) := by
  simp [putBit, putFld]

theorem and_not_zero (w : Word) : w &&& ~~~(0 : Word) = w := BitVec.and_allOnes

theorem vfEnableChange_begins {s : State} (hv : vfEnable s = false) (hc : s.pcie.vfClearing = false) :
    vfEnableChange s true = beginVfClear s := by
  simp [vfEnableChange, hv, hc]

theorem vfEnable_cleared {s : State} (hw : Memory.wf s = true) :
    vfEnable (cfgWr s 0 0x158 (cfgRd s 0 0x158 &&& 0xFFFFFFFE)) = false := by
  rw [vfEnable, cfgRd_cfgWr_same hw, fbit_and]
  exact Bool.and_false _

/-- A word's own value written back with some bits cleared: the writable ones among them clear, no other bit changes. -/
theorem writeBack_clears {w1c k : Word} (old rw : Word) (h1 : k &&& w1c = 0) :
    ((old &&& ~~~rw) ||| ((old &&& k) &&& rw)) &&& ~~~((old &&& k) &&& w1c) = old &&& (k ||| ~~~rw) := by
  have hclear : (old &&& k) &&& w1c = 0 := by
    rw [BitVec.and_assoc, h1]
    exact BitVec.and_zero
  rw [hclear, and_not_zero]
  ext i hi
  simp only [BitVec.getElem_or, BitVec.getElem_and, BitVec.getElem_not]
  cases old[i] <;> cases k[i] <;> cases rw[i] <;> rfl

/-- The word that a write of configuration space stores (R228). -/
def cfgStored (s : State) (f o be : Nat) (w : Word) : Word :=
  let m := byteMask be
  let old := cfgRd s f o
  let k := cfgMask s f o
  let rw := k.1 &&& m
  cfgLegal f o old (((old &&& ~~~rw) ||| (w &&& rw)) &&& ~~~(w &&& k.2 &&& m))

/-- A write stores its word; three words set off more. -/
theorem cfgWrite_eq (s : State) (f o be : Nat) (w : Word) :
    cfgWrite s f o be w =
      if o = 4 ∧ fbit (cfgRd s f o) 2 ∧ !fbit (cfgStored s f o be w) 2 then bmeCleared (cfgWr s f o (cfgStored s f o be w)) f
      else if o = 0x58 ∧ fbit (w &&& byteMask be) 15 then
        (if f = 0 then beginPf0Flr (cfgWr s f o (cfgStored s f o be w))
        else if f = 1 then beginPf1Flr (cfgWr s f o (cfgStored s f o be w))
        else beginVfFlr (cfgWr s f o (cfgStored s f o be w)) (f - 2))
      else if f = 0 ∧ o = 0x158 then vfEnableChange (cfgWr s f o (cfgStored s f o be w)) (fbit (cfgRd s f o) 0)
      else cfgWr s f o (cfgStored s f o be w) := rfl

/-- With all byte enables, where no encoding is reserved, a write goes by the word's masks alone. -/
theorem cfgStored_whole {s : State} {f o : Nat} (hlegal : ∀ old new, cfgLegal f o old new = new) (w : Word) :
    cfgStored s f o 15 w = ((cfgRd s f o &&& ~~~(cfgMask s f o).1) ||| (w &&& (cfgMask s f o).1))
      &&& ~~~(w &&& (cfgMask s f o).2) := by
  have hall : ∀ v : Word, v &&& byteMask 15 = v := fun v => BitVec.and_allOnes
  rw [cfgStored, hlegal, hall, hall]

/-- The interrupt line of a physical function: its low byte is stored (R228). -/
theorem cfgWrite_interruptLine (s : State) {f : Nat} (hf : f < 2) (w : Word) :
    cfgWrite s f 0x3C 15 w = cfgWr s f 0x3C ((cfgRd s f 0x3C &&& 0xFFFFFF00) ||| (w &&& 0xFF)) := by
  have hmask : cfgMask s f 0x3C = (0xFF, 0) := by simp [cfgMask, hf]
  have hstored : cfgStored s f 0x3C 15 w = (cfgRd s f 0x3C &&& 0xFFFFFF00) ||| (w &&& 0xFF) := by
    rw [cfgStored_whole (fun _ _ => by simp [cfgLegal]), hmask, show w &&& (0 : Word) = 0 from BitVec.and_zero, and_not_zero]
    rfl
  rw [cfgWrite_eq, hstored, if_neg (by omega), if_neg (by omega), if_neg (by omega)]

/-- Bus Master Enable written 0 clears that bit alone and, where it was set, what R263 and R264 say follows. -/
theorem cfgWrite_clearBusMaster (s : State) (f : Nat) :
    cfgWrite s f 4 15 (putBit (cfgRd s f 4 &&& 0xFFFF) 2 false) =
      if bme s f then bmeCleared (cfgWr s f 4 (cfgRd s f 4 &&& 0xFFFFFFFB)) f
      else cfgWr s f 4 (cfgRd s f 4 &&& 0xFFFFFFFB) := by
  have hvalue : putBit (cfgRd s f 4 &&& 0xFFFF) 2 false = cfgRd s f 4 &&& 0xFFFB := by
    rw [putBit_false, BitVec.and_assoc]
    rfl
  have hmask : cfgMask s f 4 = (if f < 2 then 0x546 else 4, 0xF9000000) := by simp [cfgMask]
  have hbits : (0xFFFB ||| ~~~(if f < 2 then 0x546 else 4) : Word) = 0xFFFFFFFB := by split <;> rfl
  have hstored : cfgStored s f 4 15 (cfgRd s f 4 &&& 0xFFFB) = cfgRd s f 4 &&& 0xFFFFFFFB := by
    rw [cfgStored_whole (fun _ _ => by simp [cfgLegal]), hmask]
    exact (writeBack_clears (cfgRd s f 4) _ (by decide : (0xFFFB &&& 0xF9000000 : Word) = 0)).trans (by rw [hbits])
  have hoff : fbit (cfgRd s f 4 &&& 0xFFFFFFFB) 2 = false := by
    rw [fbit_and]
    exact Bool.and_false _
  rw [hvalue, cfgWrite_eq, hstored, hoff]
  by_cases hb : fbit (cfgRd s f 4) 2 = true
  · rw [if_pos ⟨rfl, hb, rfl⟩, bme, if_pos hb]
  · rw [if_neg (fun h => hb h.2.1), if_neg (by omega), if_neg (by omega), bme, if_neg hb]

/-- VF Enable written 0 where it was set clears that bit alone and begins the change (R226). -/
theorem cfgWrite_clearVfEnable {s : State} (hw : Memory.wf s = true) (hv : vfEnable s = true)
    (hc : s.pcie.vfClearing = false) :
    cfgWrite s 0 0x158 15 (putBit (cfgRd s 0 0x158) 0 false)
      = beginVfClear (cfgWr s 0 0x158 (cfgRd s 0 0x158 &&& 0xFFFFFFFE)) := by
  have hmask : cfgMask s 0 0x158 = (0x19, 0) := rfl
  have hstored : cfgStored s 0 0x158 15 (cfgRd s 0 0x158 &&& ~~~(fmask 0 0)) = cfgRd s 0 0x158 &&& 0xFFFFFFFE := by
    rw [cfgStored_whole (fun _ _ => rfl), hmask, writeBack_clears _ _ (by decide)]
    rfl
  rw [putBit_false, cfgWrite_eq, hstored, if_neg (by omega), if_neg (by omega), if_pos ⟨rfl, rfl⟩,
    show fbit (cfgRd s 0 0x158) 0 = true from hv]
  exact vfEnableChange_begins (vfEnable_cleared hw) hc

/-! ### The rows -/

theorem cfgServed_of {s : State} {f : Nat} (hr : cfgReach s = true) (hb : s.power.bringupDone = true)
    (hf : fnExists s f = true) : cfgServed s f = true := by
  rw [cfgServed, hr, hb, hf]
  rfl

/-- What a request to a function that does not exist leaves of a state, an Unsupported Request leaves (R244). -/
theorem unsupported_frame {α : Type} (g : State → α) (hcfg : ∀ s f o w, g (cfgWr s f o w) = g s)
    (hemit : ∀ s o, g (emit s o) = g s) (hset : ∀ s page n, g (setErr s page n) = g s) (s : State) (f : Nat)
    (advisory : Bool) : g (unsupported s f advisory) = g s :=
  (aerUnc_frame g hcfg hemit _ _ _ _ _).trans (hset _ _ _)

theorem fbit_unsupported {s : State} (hw : Memory.wf s = true) (f : Nat) (advisory : Bool) :
    fbit (rd (unsupported s f advisory) (pgHif 0 + Reg.PAGE_ERR)) 7 = true := by
  rw [rd, unsupported, aerUnc_regs]
  exact fbit_setErr (Memory.wf_regs hw) (by decide) (by decide)

section
variable {s : State} (hr : cfgReach s = true)
include hr

theorem exec_configRequest_bringup (hb : s.power.bringupDone = false) (f : Fin 1026) (off be : Nat) (d : Option Word) :
    exec (.configRequest f off be d) s = .next (emit s (.completion 2 [] false)) := by
  show execConfigRequest f off be d s = _
  simp [execConfigRequest, hr, hb]

variable (hb : s.power.bringupDone = true) {f : Fin 1026}
include hb

theorem exec_configRequest_missing (hf : fnExists s f.val = false) (off be : Nat) (d : Option Word) :
    exec (.configRequest f off be d) s = .next (emit (unsupported s 0 false) (.completion 1 [] false)) := by
  show execConfigRequest f off be d s = _
  simp [execConfigRequest, hr, hb, hf]

theorem exec_configRequest_read (hf : fnExists s f.val = true) (off be : Nat) :
    exec (.configRequest f off be none) s
      = .next (emit s (.completion 0 (wordBytes (cfgRead s f.val (off % 4096 / 4 * 4))) false)) := by
  show execConfigRequest f off be none s = _
  simp [execConfigRequest, hr, hb, hf]

theorem exec_configRequest_write (hf : fnExists s f.val = true) (off be : Nat) (w : Word) :
    exec (.configRequest f off be (some w)) s
      = .next (emit (cfgWrite s f.val (off % 4096 / 4 * 4) be w) (.completion 0 [] false)) := by
  show execConfigRequest f off be (some w) s = _
  simp [execConfigRequest, hr, hb, hf]

theorem exec_busMasterEnableClear (hf : fnExists s f.val = true) :
    exec (.busMasterEnableClear f) s = .next (
      if bme s f.val then bmeCleared (cfgWr s f.val 4 (cfgRd s f.val 4 &&& 0xFFFFFFFB)) f.val
      else cfgWr s f.val 4 (cfgRd s f.val 4 &&& 0xFFFFFFFB)) := by
  show Host.Outcome.next (cfgField s f.val 4 _) = _
  rw [cfgField, if_pos (cfgServed_of hr hb hf), cfgWrite_clearBusMaster]

theorem exec_vfEnableClear (hw : Memory.wf s = true) (hv : vfEnable s = true) (hc : s.pcie.vfClearing = false) :
    exec .vfEnableClear s = .next (beginVfClear (cfgWr s 0 0x158 (cfgRd s 0 0x158 &&& 0xFFFFFFFE))) := by
  show Host.Outcome.next (cfgField s 0 0x158 _) = _
  rw [cfgField, if_pos (cfgServed_of hr hb rfl), cfgWrite_clearVfEnable hw hv hc]

end

/-- Settles O32: a request comes down to one configuration word, the queue work that clearing a bit discards leaves the
endpoint alone (`endpointOf`), and an Unsupported Request is an error bit and AER words. -/
theorem configurationRequests : Obligations.ConfigurationRequests := by
  intro s f off be w hw hr
  refine ⟨fun hb d => exec_configRequest_bringup hr hb f off be d, fun hb hf d => ?_,
    fun hb hf => ⟨?_, ?_, fun hpf => ?_, ?_⟩, fun hb hv hc => ?_⟩
  · have hkept := unsupported_frame (fun t => (t.queues, t.pipe, t.mem, t.running)) (fun _ _ _ _ => rfl) (fun _ _ => rfl)
      (fun t page n => by simp) s 0 false
    simp only [Prod.mk.injEq] at hkept
    exact ⟨_, exec_configRequest_missing hr hb hf off be d, rfl, fbit_unsupported hw 0 false, hkept⟩
  · exact exec_configRequest_read hr hb hf off be
  · exact ⟨_, exec_configRequest_write hr hb hf off be w, rfl⟩
  · exact (exec_configRequest_write hr hb hf 0x3C 15 w).trans (by rw [← cfgWrite_interruptLine s hpf w])
  · refine ⟨_, exec_busMasterEnableClear hr hb hf, ?_, fun hbme x hx hxf => ?_⟩
    · rw [apply_ite (cfgRd · f.val 4), cfgRd_bmeCleared, cfgRd_cfgWr_same hw, ite_self]
    · rw [if_pos hbme] at hx
      exact stale_of_mem_tags_bmeCleared _ _ hx hxf
  · refine ⟨_, exec_vfEnableClear hr hb hw hv hc, ?_, rfl, vfLive_beginVfClear _, fun v hlt => inFlr_beginVfClear _ hlt,
      fun i hi => fn_of_mem_items_beginVfClear _ hi⟩
    rw [vfEnable, cfgRd_beginVfClear _ (by decide) (by decide)]
    exact vfEnable_cleared hw

end Sys2Proof.Machine

/-! SUPPORT. How a tag is found, changed and retired, what an error and the end of a failed read leave alone, and the rows
of completions, timeouts and interrupts; O34. -/
namespace Sys2Proof.Machine

/-! ### Tags (R239) -/

theorem getTag_id {s : State} {g : Nat} {x : Tag} (h : getTag s g = some x) : x.id = g :=
  beq_iff_eq.1 (List.find?_some (p := fun t : Tag => t.id == g) h)

theorem getTag_congr {s t : State} (h : t.pcie.tags = s.pcie.tags) (g : Nat) : getTag t g = getTag s g := by
  rw [getTag, h, getTag]

theorem getTag_retireTag (s : State) (g : Nat) : getTag (retireTag s g) g = none :=
  List.find?_eq_none.2 fun y hy => by simpa using (List.mem_filter.1 hy).2

theorem getTag_setTag {s : State} {g : Nat} {x : Tag} {f : Tag → Tag} (hf : ∀ y, (f y).id = y.id)
    (h : getTag s g = some x) : getTag (setTag s x.id f) g = some (f x) := by
  have hid : ((fun y : Tag => y.id == g) ∘ fun y => if y.id = g then f y else y) = fun y => y.id == g := by
    funext y
    simp only [Function.comp_apply, apply_ite Tag.id, hf, ite_self]
  have hx := getTag_id h
  rw [getTag] at h
  simp only [hx, getTag, setTag, List.find?_map, hid, h, Option.map_some, if_true]

theorem setTag_wf {s : State} (g : Nat) (f : Tag → Tag) (hw : Memory.wf s = true) : Memory.wf (setTag s g f) = true :=
  (setTag_keeps (kk := ⟨false, false, false, false, false⟩) s g f (Keeps.refl s)).wf hw

/-! ### What an error leaves of the tags -/

theorem setPba_tags (s : State) (f v : Nat) : (setPba s f v).pcie.tags = s.pcie.tags := by
  unfold setPba
  split <;> rfl

theorem pmeEvent_tags (s : State) (f : Nat) : (pmeEvent s f).pcie.tags = s.pcie.tags := by
  unfold pmeEvent
  split <;> rfl

theorem fireVector_tags (s : State) (f v : Nat) : (fireVector s f v).pcie.tags = s.pcie.tags := by
  unfold fireVector
  split
  · exact (pmeEvent_tags _ _).trans (setPba_tags _ _ _)
  · split
    · rfl
    · exact setPba_tags _ _ _

theorem summaryRise_tags (s0 s1 : State) (page : Nat) : (summaryRise s0 s1 page).pcie.tags = s1.pcie.tags := by
  unfold summaryRise
  split
  · rfl
  · split
    · exact fireVector_tags _ _ _
    · rfl

theorem setErr_tags (s : State) (page n : Nat) : (setErr s page n).pcie.tags = s.pcie.tags := by
  unfold setErr
  split
  · rfl
  · exact (summaryRise_tags _ _ _).trans (congrArg PcieUnit.tags (recordFirst_pcie _ _ _ _ _))

theorem aerUnc_tags (s : State) (f bit : Nat) (header : List Word) (advisory : Bool) :
    (aerUnc s f bit header advisory).pcie.tags = s.pcie.tags :=
  aerUnc_frame (fun t => t.pcie.tags) (fun _ _ _ _ => rfl) (fun _ _ => rfl) s f bit header advisory

theorem aerUnc_queues (s : State) (f bit : Nat) (header : List Word) (advisory : Bool) :
    (aerUnc s f bit header advisory).queues = s.queues :=
  aerUnc_frame State.queues (fun _ _ _ _ => rfl) (fun _ _ => rfl) s f bit header advisory

theorem rd_aerUnc (s : State) (f bit : Nat) (header : List Word) (advisory : Bool) (a : Nat) :
    rd (aerUnc s f bit header advisory) a = rd s a := by
  rw [rd, aerUnc_regs, rd]

/-! ### The end of a failed read (R249, R252, R338 to R340) -/

theorem endItem_regs (s : State) (wq idx : Nat) (r : Report) : (endItem s wq idx r).regs = s.regs := by
  unfold endItem
  split
  · rfl
  · split <;> rfl

/-- The tags, and one register word. -/
def tagsAndWord (a : Nat) (s : State) : List Tag × Word := (s.pcie.tags, rd s a)

theorem tagsAndWord_eq_iff {a : Nat} {s : State} {x : List Tag × Word} :
    tagsAndWord a s = x ↔ s.pcie.tags = x.1 ∧ rd s a = x.2 := Prod.ext_iff

section
variable {a : Nat}

theorem tagsAndWord_modItem (s : State) (wq idx : Nat) (f : WorkItem → WorkItem) :
    tagsAndWord a (modItem s wq idx f) = tagsAndWord a s := rfl

theorem tagsAndWord_wrWide (s : State) (b n : Nat) : tagsAndWord a (wrWide s b n) = tagsAndWord a s := rfl

theorem tagsAndWord_endItem (s : State) (wq idx : Nat) (r : Report) : tagsAndWord a (endItem s wq idx r) = tagsAndWord a s := by
  have hpcie := (endpointOf_eq_iff.1 (endpointOf_endItem s wq idx r)).1
  refine tagsAndWord_eq_iff.2 ⟨congrArg PcieUnit.tags hpcie, ?_⟩
  rw [rd, endItem_regs]
  rfl

variable (hlow : a < pgQmg)
include hlow

theorem tagsAndWord_wr (s : State) {b : Nat} (w : Word) (hb : pgQmg ≤ b) : tagsAndWord a (wr s b w) = tagsAndWord a s :=
  tagsAndWord_eq_iff.2 ⟨rfl, rd_wr_other w (Nat.ne_of_gt (Nat.lt_of_lt_of_le hlow hb))⟩

theorem tagsAndWord_bump (s : State) {b : Nat} (hb : pgQmg ≤ b) : tagsAndWord a (bump s b) = tagsAndWord a s :=
  tagsAndWord_wr hlow s _ hb

theorem tagsAndWord_recordMalformed (s : State) (h : HaltReq) : tagsAndWord a (recordMalformed s h) = tagsAndWord a s := by
  unfold recordMalformed
  split
  · rfl
  · exact (tagsAndWord_wr hlow _ _ (by decide)).trans (tagsAndWord_wr hlow _ _ (by decide))

variable (hv : a ∉ vectorCounters)
include hv

/-- An error of the queue manager's page or one above leaves the tags and the words below those pages. -/
theorem tagsAndWord_setErr (s : State) {page : Nat} (n : Nat) (hp : pgQmg ≤ page) :
    tagsAndWord a (setErr s page n) = tagsAndWord a s := by
  have hne : ∀ k, a ≠ page + k := fun k => Nat.ne_of_lt (Nat.lt_of_lt_of_le hlow (Nat.le_add_right_of_le hp))
  exact tagsAndWord_eq_iff.2 ⟨setErr_tags s page n, rd_setErr_other n hv (hne _) (hne _)⟩

theorem tagsAndWord_malformed (s : State) (h : HaltReq) : tagsAndWord a (malformed s h) = tagsAndWord a s := by
  unfold malformed
  split
  · refine Eq.trans ?_ ((tagsAndWord_setErr hlow hv _ 4 (Nat.le_refl _)).trans (tagsAndWord_recordMalformed hlow s h))
    exact tagsAndWord_eq_iff.2 ⟨by rw [needReset_pcie]; rfl, by rw [rd, needReset_regs]; rfl⟩
  · rfl

theorem tagsAndWord_busError (s : State) (x : Tag) (cause : Nat) : tagsAndWord a (busError s x cause) = tagsAndWord a s := by
  have hcount : tagsAndWord a (bump (setErr s pgDma 1) (pgDma + Reg.DMA_CH_HALT_CNT)) = tagsAndWord a s :=
    (tagsAndWord_bump hlow _ (by decide)).trans (tagsAndWord_setErr hlow hv s 1 (by decide))
  unfold busError
  dsimp only
  split
  · exact (tagsAndWord_bump hlow _ (by decide)).trans (tagsAndWord_modItem _ _ _ _)
  · refine (tagsAndWord_malformed hlow hv _ _).trans ?_
    split
    · exact hcount
    · exact (tagsAndWord_wrWide _ _ _).trans ((tagsAndWord_wr hlow _ _ (by decide)).trans hcount)

/-- A read that ends without its data changes no tag and no word below the queue manager's page but the counters of a
fired vector. -/
theorem tagsAndWord_endRead (s : State) (x : Tag) {e : ReadEnd} (he : e ≠ .whole) :
    tagsAndWord a (endRead s x e) = tagsAndWord a s := by
  unfold endRead
  split
  · rfl
  · split
    · rfl
    · split
      · split
        · exact (tagsAndWord_wr hlow _ _ (by decide)).trans (tagsAndWord_modItem _ _ _ _)
        · exact tagsAndWord_endItem _ _ _ _
      · rw [if_neg (fun h => he h.1)]
        exact tagsAndWord_busError hlow hv _ _ _

end

/-! ### Completions and timeouts (R249 to R251, R263) -/

theorem rd_unexpectedCpl {s : State} (hw : Memory.wf s = true) :
    rd (unexpectedCpl s) (pgHif 0 + Reg.HIF_UNEXP_CPL_CNT) = rd s (pgHif 0 + Reg.HIF_UNEXP_CPL_CNT) + 1 := by
  rw [unexpectedCpl, rd_aerUnc, rd_bump_same _ (twf_setErr _ _ hw), rd_setErr_other _ (by decide) (by decide) (by decide)]

theorem unexpectedCpl_tags (s : State) : (unexpectedCpl s).pcie.tags = s.pcie.tags :=
  (aerUnc_tags _ _ _ _ _).trans (setErr_tags _ _ _)

theorem unexpectedCpl_queues (s : State) : (unexpectedCpl s).queues = s.queues :=
  (aerUnc_queues _ _ _ _ _).trans (setErr_queues _ _ _)

/-- What a tag keeps of a completion for a request of `len` bytes (R241, R246). -/
def completionKept (c : Completion) (len : Nat) (x : Tag) : Tag :=
  let bytes := c.data.take (len - c.off)
  { x with
    data := (bytes.zip (List.range bytes.length)).foldl (fun d b => tset (fun _ => none) d (c.off + b.2) (some b.1)) x.data
    bad := if c.ep then x.bad ++ (List.range (blocksOf (x.addr + c.off) bytes.length)).map
      (fun k => (x.addr + c.off) / 64 + k) else x.bad }

section
variable {s : State} {c : Completion} (hup : s.pcie.dlUp = true) (hecrc : c.ecrcBad = false)
include hup hecrc

theorem exec_completionReceived_unexpected (hg : getTag s c.tag.val = none) :
    exec (.completionReceived c) s = .next (unexpectedCpl s) := by
  show execCompletionReceived c s = _
  simp [execCompletionReceived, hup, hecrc, hg]

/-- The completion that ends a stale request is counted, and the tag retires, whatever it carried. -/
theorem exec_completionReceived_stale {x : Tag} (hg : getTag s c.tag.val = some x) (hx : x.stale = true) (hc : c.status ≠ 0) :
    exec (.completionReceived c) s
      = .next (retireTag (bump (setTag s x.id (completionKept c x.len)) (pgHif 0 + Reg.HIF_STALE_CPL_CNT)) x.id) := by
  have hstatus : (c.status.val != 0) = true := by
    rw [bne_iff_ne]
    exact fun h => hc (Fin.ext h)
  show execCompletionReceived c s = _
  simp only [execCompletionReceived, hup, hg, hecrc, hx, hstatus, Bool.not_true, Bool.false_and, Bool.and_false, Bool.true_or,
    Bool.false_eq_true, if_true, if_false]
  rfl

end

/-- A request that has timed out is counted with its function, and its tag held (R249, R250). -/
def timeoutNoted (s : State) (x : Tag) : State :=
  wr (bump (setErr (setTag s x.id (fun y => { y with held := some s.tck.boundaries })) (pgHif 0) 1)
    (pgHif 0 + Reg.HIF_CPL_TIMEOUT_CNT)) (pgHif 0 + Reg.HIF_LAST_TIMEOUT_FN) (w32 (x.fn + 2 ^ 31))

theorem exec_completionTimeout {s : State} {g : Fin 1024} {x : Tag} (hg : getTag s g.val = some x) (hh : x.held = none)
    (hs : x.stale = false) (hp : passed s x.issuedAt x.k = true) :
    exec (.completionTimeout g) s = .next (endRead (aerUnc (timeoutNoted s x) x.fn 14 [] x.normal) x .timeout) := by
  show execCompletionTimeout g s = _
  simp only [execCompletionTimeout, hg, hh, hs, hp]
  rfl

section
variable (s : State) (x : Tag)

theorem timeoutNoted_tags : (timeoutNoted s x).pcie.tags
    = (setTag s x.id (fun y => { y with held := some s.tck.boundaries })).pcie.tags := setErr_tags _ _ _

theorem rd_timeoutNoted_fn (hw : Memory.wf s = true) :
    rd (timeoutNoted s x) (pgHif 0 + Reg.HIF_LAST_TIMEOUT_FN) = w32 (x.fn + 2 ^ 31) :=
  rd_wr_same _ _ (twf_wr _ _ (twf_setErr _ _ (setTag_wf x.id _ hw)))

theorem rd_timeoutNoted_cnt (hw : Memory.wf s = true) :
    rd (timeoutNoted s x) (pgHif 0 + Reg.HIF_CPL_TIMEOUT_CNT) = rd s (pgHif 0 + Reg.HIF_CPL_TIMEOUT_CNT) + 1 := by
  rw [timeoutNoted, rd_wr_other _ (by decide), rd_bump_same _ (twf_setErr _ _ (setTag_wf x.id _ hw)),
    rd_setErr_other _ (by decide) (by decide) (by decide)]
  rfl

/-- The end of a read that has timed out leaves what R249 and R250 record of it. -/
theorem tagsAndWord_timeout {a : Nat} (hlow : a < pgQmg) (hv : a ∉ vectorCounters) :
    tagsAndWord a (endRead (aerUnc (timeoutNoted s x) x.fn 14 [] x.normal) x .timeout) = tagsAndWord a (timeoutNoted s x) :=
  (tagsAndWord_endRead hlow hv _ x (by decide)).trans (tagsAndWord_eq_iff.2 ⟨aerUnc_tags _ _ _ _ _, rd_aerUnc _ _ _ _ _ _⟩)

end

theorem exec_tagHoldEnd {s : State} {g : Fin 1024} {x : Tag} {h : Nat} (hg : getTag s g.val = some x) (hh : x.held = some h)
    (hp : passed s h x.k = true) : exec (.tagHoldEnd g) s = .next (retireTag s g.val) := by
  show execTagHoldEnd g s = _
  simp only [execTagHoldEnd, hg, hh, hp, if_true]

/-! ### Interrupts and power management messages (R230, R259, R261) -/

/-- Words 1 and 2 of an entry of the MSI-X table are stored as written. -/
theorem bar4Write_whole (s : State) (f : Nat) {v k : Nat} (hv : v < vectorsOf f) (hk : k = 1 ∨ k = 2) (w : Word) :
    bar4Write s f (16 * v + 4 * k) w
      = { s with pcie := { s.pcie with msix := tset msixDflt s.pcie.msix (4 * (2048 * f + v) + k) w } } := by
  have hin : 16 * v + 4 * k < 16 * vectorsOf f := by omega
  have hentry : (16 * v + 4 * k) / 16 = v := by omega
  have hword : (16 * v + 4 * k) % 16 = 4 * k := by omega
  have hfour : 4 * k / 4 = k := by omega
  rw [bar4Write, if_pos hin, hentry, hword, hfour, if_neg (by omega : ¬k = 3), if_neg (by omega : ¬4 * k = 0)]

theorem exec_msixTableWrite {s : State} {f : Fin 1026} (ho : barOpen s = true) (he : fnExists s f.val = true)
    (hd : inD3 s f.val = false) (hr : inFlr s f.val = false) (hm : memEnabled s f.val = true)
    (hp : s.power.phase ≠ .recovery) {off : Nat} (hoff : off % 4 = 0) (w : Word) :
    exec (.msixTableWrite f off 15 w) s = .next (bar4Write s f.val off w) := by
  show execMsixTableWrite f off 15 w s = _
  simp [execMsixTableWrite, ho, he, hd, hr, hm, hp, hoff]

theorem exec_msixMessageSend {s : State} {f : Fin 1026} {v : Fin 2048}
    (hpend : s.pcie.pba.contains (2048 * f.val + v.val) = true) (hmay : mayRequest s f.val = true)
    (hen : msixEn s f.val = true) (hfn : msixFnMask s f.val = false) (hmask : fbit (msixWord s f.val v.val 3) 0 = false) :
    exec (.msixMessageSend f v) s = .next { s with
      out := .msix f.val v.val ((msixWord s f.val v.val 0).toNat + 2 ^ 32 * (msixWord s f.val v.val 1).toNat)
        (msixWord s f.val v.val 2).toNat :: s.out,
      pcie := { s.pcie with pba := s.pcie.pba.filter (fun x => x != 2048 * f.val + v.val) } } := by
  show execMsixMessageSend f v s = _
  simp only [execMsixMessageSend, hpend, hmay, hen, hfn, hmask]
  rfl

theorem exec_pmeRepeat {s : State} {f : Fin 1026} (he : fnExists s f.val = true) (hd : inD3 s f.val = true)
    (hst : fbit (cfgRd s f.val 0x44) 15 = true) (hen : fbit (cfgRd s f.val 0x44) 8 = true) (ho : linkOpen s = true)
    (hp : passed s (tget (fun _ => 0) s.pcie.pmeAt f.val) (boundariesIn s 100000000) = true) :
    exec (.pmeRepeat f) s = .next { bump (emit s (.pme f.val)) (pgHif 0 + Reg.HIF_PME_CNT) with
      pcie := { s.pcie with pmeAt := tset (fun _ => 0) s.pcie.pmeAt f.val s.tck.boundaries } } := by
  show execPmeRepeat f s = _
  simp only [execPmeRepeat, he, hd, hst, hen, ho, hp]
  rfl

/-- Settles O34: the tags change only by name (`getTag_setTag`, `getTag_retireTag`), and neither an error nor the end of a
read that timed out touches them or the counters of the host interface (`tagsAndWord`). -/
theorem tagsAndInterrupts : Obligations.TagsAndInterrupts := by
  intro s hw
  have hregs := Memory.wf_regs hw
  refine ⟨fun c hup hecrc => ⟨fun hg => ?_, fun x hg hx hc => ?_⟩, fun g x hg => ⟨fun hh hs hp => ?_, fun h hh hp => ?_⟩,
    fun f v k w ho he hd hr hm hph hv hk => ?_, fun f v hpend hmay hen hfn hmask => ?_, fun f he hd hst hen ho hp => ?_⟩
  · exact ⟨_, exec_completionReceived_unexpected hup hecrc hg, rd_unexpectedCpl hw, unexpectedCpl_tags s,
      unexpectedCpl_queues s⟩
  · refine ⟨_, exec_completionReceived_stale hup hecrc hg hx hc, rd_bump_same _ hregs, ?_, rfl, rfl⟩
    rw [getTag_id hg]
    exact getTag_retireTag _ _
  · have hkept {a : Nat} (hlow : a < pgQmg) (hv : a ∉ vectorCounters) :=
      tagsAndWord_eq_iff.1 (tagsAndWord_timeout s x hlow hv)
    obtain ⟨htags, hcnt⟩ := hkept (a := pgHif 0 + Reg.HIF_CPL_TIMEOUT_CNT) (by decide) (by decide)
    obtain ⟨-, hfn⟩ := hkept (a := pgHif 0 + Reg.HIF_LAST_TIMEOUT_FN) (by decide) (by decide)
    refine ⟨_, exec_completionTimeout hg hh hs hp, hcnt.trans (rd_timeoutNoted_cnt s x hw),
      hfn.trans (rd_timeoutNoted_fn s x hw), ?_⟩
    rw [getTag_congr (htags.trans (timeoutNoted_tags s x))]
    exact getTag_setTag (fun _ => rfl) hg
  · exact exec_tagHoldEnd hg hh hp
  · exact (exec_msixTableWrite ho he hd hr hm hph (by omega) w).trans (by rw [bar4Write_whole s f.val hv hk w])
  · exact exec_msixMessageSend hpend hmay hen hfn hmask
  · exact ⟨_, exec_pmeRepeat he hd hst hen ho hp, rfl, rfl, rd_bump_same _ hregs, rfl⟩

end Sys2Proof.Machine

/-! SUPPORT. Entries in hand read back as changed, and what the charges of the DMA engine leave of the state. -/
namespace Sys2Proof.Machine

theorem rd_congr {s t : State} (h : t.regs = s.regs) {a : Nat} : rd t a = rd s a := by
  rw [rd, h, rd]

/-! ### Entries in hand -/

theorem getItem_key {s : State} {wq idx : Nat} {i : WorkItem} (h : getItem s wq idx = some i) : i.wq = wq ∧ i.idx = idx := by
  have hkey := List.find?_some (p := fun i : WorkItem => i.wq == wq && i.idx == idx) h
  simpa using hkey

theorem getItem_congr {s t : State} (h : t.queues.items = s.queues.items) (wq idx : Nat) :
    getItem t wq idx = getItem s wq idx := by
  rw [getItem, h, getItem]

/-- An entry changed, its place kept, reads back changed. -/
theorem getItem_modItem {s : State} {wq idx : Nat} {i : WorkItem} {f : WorkItem → WorkItem}
    (hf : ∀ x, (f x).wq = x.wq ∧ (f x).idx = x.idx) (h : getItem s wq idx = some i) :
    getItem (modItem s i.wq i.idx f) wq idx = some (f i) := by
  obtain ⟨hwq, hidx⟩ := getItem_key h
  have hkey : ((fun x : WorkItem => x.wq == wq && x.idx == idx) ∘ fun x => if x.wq = wq ∧ x.idx = idx then f x else x)
      = fun x => x.wq == wq && x.idx == idx := by
    funext x
    simp only [Function.comp_apply, apply_ite WorkItem.wq, apply_ite WorkItem.idx, hf, ite_self]
  rw [getItem] at h
  simp only [getItem, modItem, List.find?_map, hwq, hidx, hkey, h, Option.map_some, and_self, if_true]

/-- The same in any state with those entries in hand. -/
theorem getItem_changed {s t : State} {wq idx : Nat} {i : WorkItem} {f : WorkItem → WorkItem}
    (h : getItem s wq idx = some i) (ht : t.queues.items = (modItem s i.wq i.idx f).queues.items)
    (hf : ∀ x, (f x).wq = x.wq ∧ (f x).idx = x.idx := by exact fun _ => ⟨rfl, rfl⟩) :
    getItem t wq idx = some (f i) :=
  (getItem_congr ht wq idx).trans (getItem_modItem hf h)

theorem modItem_items_congr {s t : State} (h : t.queues.items = s.queues.items) (wq idx : Nat) (f : WorkItem → WorkItem) :
    (modItem t wq idx f).queues.items = (modItem s wq idx f).queues.items := by
  simp only [modItem, h]

theorem modItem_regs (s : State) (wq idx : Nat) (f : WorkItem → WorkItem) : (modItem s wq idx f).regs = s.regs := rfl
theorem modItem_out (s : State) (wq idx : Nat) (f : WorkItem → WorkItem) : (modItem s wq idx f).out = s.out := rfl
theorem modItem_pipe (s : State) (wq idx : Nat) (f : WorkItem → WorkItem) : (modItem s wq idx f).pipe = s.pipe := rfl
theorem modItem_pcie (s : State) (wq idx : Nat) (f : WorkItem → WorkItem) : (modItem s wq idx f).pcie = s.pcie := rfl

/-- An entry that has ended with a report (R294). -/
def itemEnded (r : Report) (x : WorkItem) : WorkItem :=
  { x with stage := .finishing r, needs := [], retries := [], out := [], cells := 0, buf := [], rxd := none }

/-- An entry that has not ended ends: its reservation is freed and its report waits (R294). -/
theorem endItem_begun {s : State} {i : WorkItem} (h : getItem s i.wq i.idx = some i) (hfin : ∀ r, i.stage ≠ .finishing r)
    (hend : i.stage ≠ .ended) (r : Report) :
    endItem s i.wq i.idx r = modItem (freeItemCells s i) i.wq i.idx (itemEnded r) := by
  unfold endItem
  split
  next hnone => simp [h] at hnone
  next j hj =>
    obtain rfl : i = j := Option.some.inj (h.symm.trans hj)
    split
    next r' hr' => exact absurd hr' (hfin r')
    next he => exact absurd he hend
    next => rfl

/-! ### Beats charged on the DMA engine (R321) -/

section
variable (s : State) (a n : Nat)

@[simp] theorem chargeBeats_queues : (chargeBeats s a n).queues = s.queues := by simp [chargeBeats]
@[simp] theorem chargeBeats_pcie : (chargeBeats s a n).pcie = s.pcie := by simp [chargeBeats]
@[simp] theorem chargeBeats_pipe : (chargeBeats s a n).pipe = s.pipe := by simp [chargeBeats]
@[simp] theorem chargeBeats_tck : (chargeBeats s a n).tck = s.tck := by simp [chargeBeats]
@[simp] theorem chargeBeats_out : (chargeBeats s a n).out = s.out := by simp [chargeBeats]

end

/-- The pages of the slices lie above the pages of the shared edge (R174). -/
theorem le_pgSlice (sl : SliceId) (k : Nat) : 0x100000 ≤ pgSlice sl k := by
  rw [pgSlice, Nat.add_assoc]
  exact Nat.le_add_right _ _

/-- And the pages of the slices lie below the queue records (R174). -/
theorem pgSlice_lt_winQueue (sl : SliceId) {k off : Nat} (hk : k < 9) (hoff : off < 0x1000) :
    pgSlice sl k + off < winQueue := by
  cases sl <;> simp only [pgSlice, SliceId.num, winQueue] <;> omega

end Sys2Proof.Machine

/-! SUPPORT. Which WQ is fetched from, and what a fetch, a fetch again and a read request leave; O36. -/
namespace Sys2Proof.Machine

/-! ### Which WQ is fetched from (R292) -/

theorem le_of_mem_twfFrom {α : Type} [DecidableEq α] {d : Nat → α} {e : Nat × α} : ∀ {t : Table α} {lo : Nat},
    twfFrom d lo t = true → e ∈ t → lo ≤ e.1
  | (a, x) :: t, lo, hw, h => by
    simp only [twfFrom, Bool.and_eq_true, decide_eq_true_eq] at hw
    rcases List.mem_cons.1 h with rfl | hmem
    · exact hw.1.1
    · exact Nat.le_trans (Nat.le_succ_of_le hw.1.1) (le_of_mem_twfFrom hw.2 hmem)

/-- What a canonical table lists for a key is what the key reads as. -/
theorem tget_of_mem {α : Type} [DecidableEq α] {d : Nat → α} {e : Nat × α} : ∀ {t : Table α} {lo : Nat},
    twfFrom d lo t = true → e ∈ t → tget d t e.1 = e.2
  | (a, x) :: t, lo, hw, h => by
    simp only [twfFrom, Bool.and_eq_true, decide_eq_true_eq] at hw
    rcases List.mem_cons.1 h with rfl | hmem
    · simp [tget]
    · have hlater : a < e.1 := le_of_mem_twfFrom hw.2 hmem
      simp [tget, Nat.ne_of_lt hlater, tget_of_mem hw.2 hmem]

theorem recValid_of_mem_validRecs {s : State} (hw : Memory.wf s = true) {n : Nat} (h : n ∈ validRecs s) :
    recValid s n = true := by
  obtain ⟨e, he, hn⟩ := List.mem_filterMap.1 h
  split at hn
  next hc =>
    obtain ⟨hlo, hhi, hoff, hbit⟩ := hc
    have hkey : winQueue + 64 * n + 60 = e.1 := by
      simp only [winQueue, Option.some.injEq] at hn hlo hoff ⊢
      omega
    have hlt : n < 16384 := by
      simp only [winQueue] at hkey hhi
      omega
    have hword : recWord s n 15 = e.2 := by
      rw [recWord, rd, show winQueue + 64 * n + 4 * 15 = e.1 from hkey]
      exact tget_of_mem (Memory.wf_regs hw) he
    simp [recValid, hlt, hword, hbit]
  next => cases hn

/-- Of a list that is not empty one element comes next. -/
theorem nextAfter_mem (last : Nat) {l : List Nat} (h : l ≠ []) : ∃ x ∈ l, nextAfter last l = some x := by
  unfold nextAfter
  split
  next x hx => exact ⟨x, List.mem_of_find?_eq_some hx, rfl⟩
  next => exact ⟨l.head h, List.head_mem h, List.head?_eq_some_head h⟩

theorem mem_insKey {x k : Nat} {l : List Nat} : x ∈ insKey k l ↔ x = k ∨ x ∈ l := by
  induction l with
  | nil => simp [insKey]
  | cons a t ih =>
    rw [insKey]
    split
    · simp
    · simp only [List.mem_cons, ih]
      exact or_left_comm

/-- The keys of a list, each once in ascending order, are the elements of the list. -/
theorem mem_foldl_insKey {x : Nat} (ks : List Nat) : ∀ l : List Nat,
    x ∈ ks.foldl (fun l f => if l.contains f then l else insKey f l) l ↔ x ∈ ks ∨ x ∈ l := by
  induction ks with
  | nil => simp
  | cons k ks ih =>
    intro l
    rw [List.foldl_cons, ih]
    split
    next hin =>
      have hk : k ∈ l := List.contains_iff_mem.1 hin
      constructor
      · exact Or.imp_left (List.mem_cons_of_mem k)
      · rintro (h | h)
        · exact (List.mem_cons.1 h).elim (fun e => .inr (e ▸ hk)) .inl
        · exact .inr h
    next => simp only [mem_insKey, List.mem_cons, or_assoc, or_left_comm]

/-- The entry in hand that a fetch from WQ n begins (R292). -/
def fetchedItem (s : State) (n : Nat) : WorkItem := {
  wq := n, idx := (getWq s n).next, fn := recOwner s n, stage := .fetch, bytes := [],
  needs := [⟨.entry, recWqBase s n + 64 * ((getWq s n).next % recWqSize s n), 0, 64, 0⟩], retries := [], buf := [],
  segs := [], hops := 0, admitted := false, cells := 0, done := 0, out := [], outAt := 0, rxd := none, lastAdvance := 0, advanced := 0 }

/-- The next slot of WQ n is taken under account a (R292). -/
def slotTaken (s : State) (a n : Nat) : State :=
  let s1 := putWq (useCredits s (acct 2 a) 1 1) n
    { getWq s n with next := ((getWq s n).next + 1) % 65536, fetched := (getWq s n).fetched + 1 }
  let q := s1.queues
  { s1 with queues := { q with
    items := q.items ++ [fetchedItem s n]
    lastFn := if tget (fun _ => false) s.queues.started a then q.lastFn else tset (fun _ => 0) q.lastFn a (recOwner s n + 1)
    turnFn := tset (fun _ => 0) q.turnFn a (recOwner s n + 1)
    lastWq := tset (fun _ => 0) q.lastWq (recOwner s n) (n + 1)
    started := tset (fun _ => false) q.started a true } }

theorem slotTaken_regs (s : State) (a n : Nat) : (slotTaken s a n).regs = s.regs := rfl

/-- WORK_ENTRY_FETCH takes the next slot of one of the WQs it may fetch from (R292). -/
theorem exec_workEntryFetch {s : State} {a : Fin 3} (hgk : gkOpen s = true) (hcan : canStart s (acct 2 a.val) 1 1 = true)
    (hne : (validRecs s).filter (fun n => qmAccount (recOwner s n) == a.val && mayFetch s n) ≠ []) :
    ∃ n ∈ (validRecs s).filter (fun n => qmAccount (recOwner s n) == a.val && mayFetch s n),
      exec (.workEntryFetch a) s = .next (signal (bump (slotTaken s a.val n) (pgSlice s.worker 6 + Reg.QMG_FETCH0 + 4 * a.val))
        (srcSlice s.worker 0xA 0) a.val 1) := by
  generalize hns : (validRecs s).filter (fun n => qmAccount (recOwner s n) == a.val && mayFetch s n) = ns at hne
  obtain ⟨m, hm⟩ := List.exists_mem_of_ne_nil ns hne
  have howners : (ns.map (recOwner s)).foldl (fun l f => if l.contains f then l else insKey f l) [] ≠ [] :=
    List.ne_nil_of_mem ((mem_foldl_insKey _ []).2 (.inl (List.mem_map_of_mem hm)))
  obtain ⟨f, hf, hturn⟩ := nextAfter_mem (tget (fun _ => 0)
    (if tget (fun _ => false) s.queues.started a.val then s.queues.turnFn else s.queues.lastFn) a.val) howners
  obtain ⟨m', hm', rfl⟩ := List.mem_map.1 (((mem_foldl_insKey _ []).1 hf).resolve_right (List.not_mem_nil))
  have hqueues : ns.filter (fun n => recOwner s n == recOwner s m') ≠ [] :=
    List.ne_nil_of_mem (List.mem_filter.2 ⟨hm', beq_self_eq_true _⟩)
  obtain ⟨n, hn, hqueue⟩ := nextAfter_mem (tget (fun _ => 0) s.queues.lastWq (recOwner s m')) hqueues
  obtain ⟨hnmem, howner⟩ := List.mem_filter.1 hn
  refine ⟨n, hnmem, ?_⟩
  show execWorkEntryFetch a s = _
  simp only [execWorkEntryFetch, hgk, hcan, hns, hturn, hqueue, Bool.not_true, Bool.or_self, Bool.false_eq_true, if_false]
  rw [← beq_iff_eq.1 howner]
  rfl

/-! ### Fetching again (R277), the reads (R239, R316) and retries (R340) -/

/-- The read of the first slot of an entry. -/
def slotNeed (s : State) (i : WorkItem) : Need := ⟨.entry, recWqBase s i.wq + 64 * (i.idx % recWqSize s i.wq), 0, 64, 0⟩

/-- An entry of the wrong phase on its way to be read again (R277). -/
def itemRefetched (s : State) (i : WorkItem) (k : Nat) (x : WorkItem) : WorkItem :=
  { x with stage := .refetch (k + 1) s.tck.boundaries, needs := [slotNeed s i] }

theorem exec_phaseRefetch {s : State} {wq : Fin 16384} {idx : Fin 65536} {i : WorkItem} {k b : Nat}
    (hi : getItem s wq.val idx.val = some i) (hst : i.stage = .refetch k b) (hneeds : i.needs = []) (hdone : readsDone s i = true)
    (hpast : passed s b 1 = true) (hmay : mayRequest s i.fn = true) (hhalt : isHalted s i.fn = false) :
    exec (.phaseRefetch wq idx) s = .next (signal (bump (bump (modItem s i.wq i.idx (itemRefetched s i k))
      (pgQmg + Reg.QMG_PHASE_RETRY_CNT)) (pgSlice s.worker 6 + Reg.QMG_REFETCH)) (srcSlice s.worker 0xA 2) 0 1) := by
  show execPhaseRefetch wq idx s = _
  simp only [execPhaseRefetch, hi, hst, hneeds, hdone, hpast, hmay, hhalt]
  rfl

/-- The tag of a read request that is issued now (R239). -/
def readTag (s : State) (id fn wq idx : Nat) (n : Need) (len : Nat) : Tag := {
  id := id, fn := fn, slice := s.worker, wq := wq, idx := idx, purpose := n.purpose, addr := n.addr, off := n.off, len := len,
  tries := n.tries, data := [], bad := [], issuedAt := s.tck.boundaries, k := timeoutK s, normal := s.power.phase == .normal,
  stale := false, held := none }

section
variable (s : State) (id fn wq idx : Nat) (n : Need) (len : Nat)

theorem readTag_issuedAt : (readTag s id fn wq idx n len).issuedAt = s.tck.boundaries := rfl
theorem issueRead_out : (issueRead s id fn wq idx n len).out = .memRead fn id n.addr len :: s.out := rfl
theorem issueRead_tags : (issueRead s id fn wq idx n len).pcie.tags = s.pcie.tags ++ [readTag s id fn wq idx n len] := rfl
theorem issueRead_queues : (issueRead s id fn wq idx n len).queues = s.queues := rfl

end

/-- What is still to be read after `len` bytes of the first of the reads. -/
def needsAfter (n : Need) (rest : List Need) (len : Nat) : List Need :=
  if len < n.len then { n with addr := n.addr + len, off := n.off + len, len := n.len - len } :: rest else rest

/-- The first of an entry's reads leaves, as much of it as may (R316). -/
def readIssued (s : State) (i : WorkItem) (id : Nat) (n : Need) (rest : List Need) (len : Nat) : State :=
  modItem (issueRead (chargeBeats s (readAccount i) (blocksOf n.addr len)) id i.fn i.wq i.idx n len) i.wq i.idx
    (fun x => { x with needs := needsAfter n rest len })

section
variable {s : State} {wq idx : Nat} {i : WorkItem} (id : Nat) (n : Need) (rest : List Need) (len : Nat)

theorem readIssued_out : (readIssued s i id n rest len).out = .memRead i.fn id n.addr len :: s.out := by
  rw [readIssued, modItem_out, issueRead_out, chargeBeats_out]

theorem readIssued_tags : (readIssued s i id n rest len).pcie.tags = s.pcie.tags
    ++ [readTag (chargeBeats s (readAccount i) (blocksOf n.addr len)) id i.fn i.wq i.idx n len] := by
  rw [readIssued, modItem_pcie, issueRead_tags, chargeBeats_pcie]

theorem getItem_readIssued (hi : getItem s wq idx = some i) :
    getItem (readIssued s i id n rest len) wq idx = some { i with needs := needsAfter n rest len } := by
  refine getItem_changed (f := fun x => { x with needs := needsAfter n rest len }) hi ?_
  exact modItem_items_congr (by rw [issueRead_queues, chargeBeats_queues]) _ _ _

end

/-- An entry whose reads that are due to be made again are to be issued (R340). -/
def itemRetried (s : State) (i : WorkItem) : WorkItem :=
  { i with
    needs := (i.retries.filter (fun r => decide (r.2 ≤ s.tck.boundaries))).map (·.1) ++ i.needs
    retries := i.retries.filter (fun r => !decide (r.2 ≤ s.tck.boundaries)) }

section
variable {s : State} {wq : Fin 16384} {idx : Fin 65536} {i : WorkItem} {n : Need} {rest : List Need}
  (hi : getItem s wq.val idx.val = some i) (hneeds : i.needs = n :: rest)
include hi hneeds

theorem exec_dmaReadIssue_draining (hdrain : draining s = true) : exec (.dmaReadIssue wq idx) s = .next s := by
  show execDmaReadIssue wq idx s = _
  simp [execDmaReadIssue, hi, hneeds, hdrain]

theorem exec_dmaReadIssue {id : Nat} (hbeats : beatsLeft s (readAccount i) ≠ 0) (hhalt : isHalted s i.fn = false)
    (hmay : mayRequest s i.fn = true) (htag : mayTag s i.fn = true) (hfree : freeTag s = some id) (hdrain : draining s = false) :
    exec (.dmaReadIssue wq idx) s
      = .next (readIssued s i id n rest (readLen (mrrs s i.fn) n.addr n.len (beatsLeft s (readAccount i)))) := by
  show execDmaReadIssue wq idx s = _
  simp only [execDmaReadIssue, hi, hneeds, hbeats, hhalt, hmay, htag, hfree, hdrain]
  rfl

end

/-- Settles O36: a fetch takes a slot of a WQ out of those it may fetch from (`exec_workEntryFetch`), and each of the other rows
changes the one entry it names (`getItem_changed`). -/
theorem fetchingEntries : Obligations.FetchingEntries := by
  intro s hw
  have hregs := Memory.wf_regs hw
  refine ⟨fun a hgk hcan hne => ?_, fun wq idx i hi =>
    ⟨fun k b hst hneeds hdone hpast hmay hhalt => ?_, fun n rest id hneeds hbeats hhalt hmay htag hfree =>
      ⟨exec_dmaReadIssue_draining hi hneeds, fun hdrain => ?_⟩, ?_⟩⟩
  · obtain ⟨n, hn, hexec⟩ := exec_workEntryFetch hgk hcan hne
    obtain ⟨hrec, hfetch⟩ := List.mem_filter.1 hn
    obtain ⟨hacct, hmay⟩ := Bool.and_eq_true_iff.1 hfetch
    refine ⟨_, n, fetchedItem s n, hexec, recValid_of_mem_validRecs hw hrec, hmay, beq_iff_eq.1 hacct, ?_, rfl, rfl, rfl,
      rfl, rfl, ?_, ?_, ?_, ?_, ?_⟩
    · rw [signal_queues, bump_queues]; rfl
    · rw [signal_queues, bump_queues]; rfl
    · rw [rd_congr (signal_regs _ _ _ _), rd_bump_same _ (slotTaken_regs s a n ▸ hregs), rd_congr (slotTaken_regs s a n)]
    · rw [signal_pcie, bump_pcie]; rfl
    · rw [signal_pipe, bump_pipe]; rfl
    · rw [signal_power, bump_power]; rfl
  · refine ⟨_, exec_phaseRefetch hi hst hneeds hdone hpast hmay hhalt, ?_, ?_, ?_⟩
    · exact getItem_changed (f := itemRefetched s i k) hi (by rw [signal_queues, bump_queues, bump_queues])
    · have hpage : pgSlice s.worker 6 + Reg.QMG_REFETCH ≠ pgQmg + Reg.QMG_PHASE_RETRY_CNT :=
        Nat.ne_of_gt (Nat.lt_of_lt_of_le (by decide) (Nat.le_add_right_of_le (le_pgSlice s.worker 6)))
      rw [rd_congr (signal_regs _ _ _ _), rd_bump_other hpage, rd_bump_same _ (by exact hregs), rd_congr (modItem_regs s _ _ _)]
    · rw [signal_pcie, bump_pcie, bump_pcie]; rfl
  · have hexec := exec_dmaReadIssue hi hneeds hbeats hhalt hmay htag hfree hdrain
    generalize readLen (mrrs s i.fn) n.addr n.len (beatsLeft s (readAccount i)) = len at hexec ⊢
    have hitem := getItem_readIssued id n rest len hi
    refine ⟨_, readTag (chargeBeats s (readAccount i) (blocksOf n.addr len)) id i.fn i.wq i.idx n len, hexec,
      readIssued_out id n rest len, readIssued_tags id n rest len, rfl, rfl, rfl, rfl, rfl, rfl, rfl, rfl, ?_, ?_, ?_⟩
    · rw [readTag_issuedAt, chargeBeats_tck]
    · intro (hwhole : len = n.len)
      rw [hitem, needsAfter, if_neg (Nat.not_lt_of_ge (Nat.le_of_eq hwhole.symm))]
    · intro (hpart : len < n.len)
      rw [hitem, needsAfter, if_pos hpart]
      rfl
  · refine ⟨_, rfl, ?_, rfl⟩
    obtain ⟨hwq, hidx⟩ := getItem_key hi
    exact getItem_changed (f := itemRetried s) hi (by rw [hwq, hidx]; rfl)

end Sys2Proof.Machine

/-! SUPPORT. How entries start and end, and how a TX frame is admitted and becomes a frame of the pipeline; O37. -/
namespace Sys2Proof.Machine

/-- A receive buffer that is posted (R287). -/
def itemPosted (x : WorkItem) : WorkItem := { x with stage := .posted }

/-! ### NOP and RX_POST (R283, R287, R293) -/

theorem mayStart_stage {s : State} {i : WorkItem} (h : mayStart s i = true) : i.stage = .ready := by
  simp only [mayStart, Bool.and_eq_true, beq_iff_eq] at h
  obtain ⟨⟨⟨⟨hst, -⟩, -⟩, -⟩, -⟩ := h
  exact hst

section
variable {s : State} {wq : Fin 16384} {idx : Fin 65536} {i : WorkItem} (hi : getItem s wq.val idx.val = some i)
include hi

theorem exec_nopEntry (hty : i.etype = 0) (hmay : mayStart s i = true) :
    exec (.nopEntry wq idx) s = .next (modItem (freeItemCells s i) i.wq i.idx (itemEnded (report s stOK 0))) := by
  obtain ⟨hwq, hidx⟩ := getItem_key hi
  have hst := mayStart_stage hmay
  show execNopEntry wq idx s = _
  simp only [execNopEntry, hi, hty, hmay, decide_true, Bool.and_true, if_true]
  rw [endItem_begun (by rw [hwq, hidx, hi]) (by simp [hst]) (by simp [hst])]

theorem exec_rxPostEntry (hty : i.etype = 2) (hmay : mayStart s i = true) :
    exec (.rxPostEntry wq idx) s = .next (modItem s i.wq i.idx itemPosted) := by
  show execRxPostEntry wq idx s = _
  simp only [execRxPostEntry, hi, hty, hmay, decide_true, Bool.and_true, if_true]
  rfl

/-! ### TX entries (R284 to R286) -/

theorem exec_txEntry_ready (hty : i.etype = 1) (hhalt : isHalted s i.fn = false) (hmay : mayStart s i = true) :
    exec (.txEntry wq idx) s = .next (takeDescs s i (txDescs i.bytes).1) := by
  show execTxEntry wq idx s = _
  simp [execTxEntry, hi, hty, hhalt, mayStart_stage hmay, hmay]

theorem exec_txEntry_data (hty : i.etype = 1) (hhalt : isHalted s i.fn = false) (hst : i.stage = .data)
    (hdone : readsDone s i = true) (hlen : i.buf.length = leAt i.bytes 4 2) :
    exec (.txEntry wq idx) s = .next (handToPipe s i) := by
  show execTxEntry wq idx s = _
  simp [execTxEntry, hi, hty, hhalt, hst, hdone, hlen]

end

/-- A node that gains a frame changes nothing outside the scheduler. -/
theorem tagOnGain_eq (s : State) (node parent : Nat) (had : Bool) :
    ∃ x, tagOnGain s node parent had = { s with sched := x } := by
  unfold tagOnGain
  split
  · exact ⟨s.sched, rfl⟩
  · exact ⟨_, rfl⟩

theorem joinAdmit_eq (s : State) (i : WorkItem) : ∃ x, joinAdmit s i = { s with sched := x } := by
  unfold joinAdmit
  dsimp only
  obtain ⟨x, hx⟩ := tagOnGain_eq s i.wq (queueParent i.fn) (s.queues.items.any fun y => y.stage == .admission && y.wq == i.wq)
  rw [hx]
  split
  · exact ⟨x, rfl⟩
  · exact tagOnGain_eq _ _ _ _

/-- A TX entry with its segments, to be admitted. -/
def itemSegmented (segs : List (Nat × Nat)) (x : WorkItem) : WorkItem := { x with stage := .admission, segs := segs, buf := [] }

section
variable {s : State} {i : WorkItem} {ds : List SegDesc} (hsound : firstReason (segReasons ds) = none) (hlast : chainOf ds = none)
include hsound hlast

theorem takeDescs_whole (h : segTotal (i.segs ++ dataSegs ds) = leAt i.bytes 4 2) :
    takeDescs s i ds = modItem (joinAdmit s i) i.wq i.idx (itemSegmented (i.segs ++ dataSegs ds)) := by
  simp only [takeDescs, hsound, hlast, h, ne_eq, not_true, if_false]
  rfl

theorem takeDescs_unequal (h : segTotal (i.segs ++ dataSegs ds) ≠ leAt i.bytes 4 2) :
    takeDescs s i ds = malformed s ⟨i.fn, 6, i.wq, false, i.idx⟩ := by
  simp only [takeDescs, hsound, hlast, ne_eq, h, not_false_eq_true, if_true]

end

/-- A tenant's malformed act waits for the boundary, where it halts the tenant (R305). -/
theorem malformed_tenant (s : State) {h : HaltReq} (hfn : 2 ≤ h.fn) :
    malformed s h = { s with queues := { s.queues with halts := s.queues.halts ++ [h] } } :=
  if_neg (Nat.not_lt_of_ge hfn)

/-! ### The frame of a TX entry (R396, R435) -/

/-- A value other than what an unlisted key reads as reads back, whatever the form of the table. -/
theorem tget_tset_listed {α : Type} [DecidableEq α] {d : Nat → α} {k : Nat} {v : α} (hv : v ≠ d k) : ∀ t : Table α,
    tget d (tset d t k v) k = v
  | [] => by simp [tset, tget, hv]
  | (a, x) :: t => by
    rw [tset, if_neg hv, if_neg hv]
    split
    · simp [tget]
    · split
      · simp [tget]
      next hne => simp [tget, Ne.symm hne, tget_tset_listed hv t]

/-- The frame that a TX entry's data makes. -/
def txFrame (s : State) (i : WorkItem) : Frame :=
  let l := bufBytes i.buf (leAt i.bytes 4 2)
  { port := none, entry := some (i.wq, i.idx), fn := i.fn, data := l.map (·.1), fcs := [], flen := leAt i.bytes 4 2 + 4,
    whole := true, bad := false, flags := 0, cls := 0, time := ptpNs s.time.ptp, cells := i.cells, poison := poisonList l,
    meta32 := w32 (leAt i.bytes 8 4), tsReq := nbit (leAt i.bytes 6 1) 0, refs := 1, charges := [], grow := [], late := [],
    ctBy := [], lenField := none, mismatch := false, discard := false, decrypted := false }

/-- A TX entry whose frame the pipeline holds. -/
def itemPiped (x : WorkItem) : WorkItem := { x with stage := .piped, cells := 0, buf := [] }

/-- The pipeline holds a frame whose cells were reserved, and its header waits its turn. -/
def pipeGains (p : PipeUnit) (f : Frame) : PipeUnit :=
  { p with
    frames := tset (fun _ => none) p.frames p.nextFrame (some f)
    nextFrame := p.nextFrame + 1
    q1 := p.q1 ++ [.host p.nextFrame] }

theorem handToPipe_eq (s : State) (i : WorkItem) :
    handToPipe s i = { modItem s i.wq i.idx itemPiped with pipe := pipeGains s.pipe (txFrame s i) } := by
  simp only [handToPipe, newFrame, freeItemCells, modItem, putFrame, Nat.add_sub_cancel]
  rfl

/-! ### Charges at the scheduler's nodes (R516, R517, R519, R521) -/

theorem chargeOne_eq (s : State) (k bytes : Nat) :
    ∃ x, chargeOne s k bytes = { s with sched := { s.sched with nodes := x } } := by
  unfold chargeOne
  split
  · exact ⟨s.sched.nodes, rfl⟩
  · exact ⟨_, rfl⟩

theorem chargeTokens_eq (s : State) (k bytes : Nat) :
    ∃ x, chargeTokens s k bytes = { s with sched := { s.sched with nodes := x } } := by
  unfold chargeTokens
  split
  · exact chargeOne_eq s k bytes
  next g _ =>
    obtain ⟨x, hx⟩ := chargeOne_eq s k bytes
    rw [hx]
    exact chargeOne_eq _ g bytes

theorem touchNode_eq (s : State) (parent k : Nat) :
    ∃ x, touchNode s parent k = { s with sched := { s.sched with nodes := x } } := by
  unfold touchNode
  dsimp only
  split
  · exact ⟨_, rfl⟩
  · split
    · exact ⟨_, rfl⟩
    · exact ⟨s.sched.nodes, rfl⟩

theorem signal_eq (s : State) (src q n : Nat) : ∃ e, signal s src q n = { s with evc := e } := by
  unfold signal
  split <;> split <;> exact ⟨_, rfl⟩

theorem chargeAdmit_eq (s : State) {i : WorkItem} (hfn : i.fn = 0) : ∃ x, chargeAdmit s i = { s with sched := x } := by
  obtain ⟨x, hx⟩ := chargeTokens_eq (serveChild s (queueParent i.fn) i.wq (admitCharge s i)) i.wq (admitCharge s i)
  simp only [chargeAdmit, hfn, Nat.zero_lt_two, if_true] at hx ⊢
  exact ⟨_, hx⟩

/-- What the slices at work count of an admission. -/
theorem countSlices_eq (l : List SliceId) (s : State) : ∃ r e,
    l.foldl (fun s sl => signal (bump s (pgSlice sl 2 + Reg.SCH_ADMIT_CNT)) (srcSlice sl 0x13 1) 0 1) s
      = { s with regs := r, evc := e } := by
  induction l generalizing s with
  | nil => exact ⟨s.regs, s.evc, rfl⟩
  | cons sl l ih =>
    obtain ⟨e, he⟩ := signal_eq (bump s (pgSlice sl 2 + Reg.SCH_ADMIT_CNT)) (srcSlice sl 0x13 1) 0 1
    rw [List.foldl_cons, he]
    exact ih _

theorem countAdmit_eq (s : State) {i : WorkItem} (hfn : i.fn = 0) :
    ∃ x r e, countAdmit i s = { s with sched := x, regs := r, evc := e } := by
  obtain ⟨x, hx⟩ := chargeAdmit_eq s hfn
  obtain ⟨r, e, h⟩ := countSlices_eq (workingSlices (chargeAdmit s i)) (chargeAdmit s i)
  refine ⟨x, r, e, ?_⟩
  rw [countAdmit, h, hx]

/-! ### Admission (R522) -/

/-- A function that is not paced and stays below its threshold may start what has its cells (R333, R334). -/
theorem paceTry_below {s : State} {f cells : Nat} (hp : isPaced s f = false) (hl : paceLevel s f + cells ≤ paceHi s f) :
    paceTry s f cells = (decide (cells ≤ s.pipe.freeCells), s) := by
  simp only [paceTry, hp, hl, Bool.not_false, decide_true, Bool.and_true, if_true]

/-- An entry whose data reads are to be issued. -/
def itemReading (i x : WorkItem) : WorkItem :=
  { x with stage := .data, admitted := true, cells := admitCells i, buf := [], needs := segNeeds i.segs 0 }

theorem earliest_singleton (s : State) (k : Nat) : earliest s [k] none = some k := rfl

theorem pacedStart_below {s : State} {i : WorkItem} (hdram : i.dramSource = false) (hp : isPaced s i.fn = false)
    (hl : paceLevel s i.fn + admitCells i ≤ paceHi s i.fn) (hcells : admitCells i ≤ s.pipe.freeCells)
    (charge : State → State) : pacedStart s i charge = startReads (charge s) i := by
  simp only [pacedStart, hdram, Bool.false_eq_true, if_false, paceTry_below hp hl, hcells, decide_true, if_true]

theorem startReads_host (s : State) {i : WorkItem} (hdram : i.dramSource = false) : startReads s i =
    { modItem s i.wq i.idx (itemReading i) with pipe := { s.pipe with freeCells := s.pipe.freeCells - admitCells i } } := by
  rw [startReads, hdram]
  rfl

theorem admitMay_host {s : State} {i : WorkItem} (hdram : i.dramSource = false) (h : admitMay s i = true) :
    isPaced s i.fn = false ∧ admitCells i ≤ s.pipe.freeCells := by
  simp only [admitMay, hdram, Bool.false_or, Bool.and_eq_true, decide_eq_true_eq, Bool.not_eq_true'] at h
  obtain ⟨⟨⟨-, hcells⟩, -, hpaced⟩, -⟩ := h
  exact ⟨hpaced, hcells⟩

/-- The only candidate, an entry of PF0 in credit and below its threshold, is admitted. -/
theorem exec_admissionSelect {s : State} {i : WorkItem} (hgk : gkOpen s = true) (hc : (candidates s).filter (admitMay s) = [i])
    (hnew : i.admitted = false) (hfn : i.fn = 0) (hdram : i.dramSource = false)
    (hcredit : inCredit (touchNode s hostRoot i.wq) i.wq = true) (hlevel : paceLevel s 0 + admitCells i ≤ paceHi s 0) :
    exec .admissionSelect s = .next (startReads (countAdmit i (touchNode s hostRoot i.wq)) i) := by
  obtain ⟨hpaced, hcells⟩ := admitMay_host hdram (List.mem_filter.1 (hc ▸ List.mem_singleton_self i)).2
  obtain ⟨x, hx⟩ := touchNode_eq s hostRoot i.wq
  have hstart : pacedStart (touchNode s hostRoot i.wq) i (countAdmit i)
      = startReads (countAdmit i (touchNode s hostRoot i.wq)) i := by
    refine pacedStart_below hdram ?_ ?_ ?_ _
    · rw [hx]; exact hpaced
    · rw [hx, hfn]; exact hlevel
    · rw [hx]; exact hcells
  have hparent : queueParent 0 = hostRoot := rfl
  generalize hs1 : touchNode s hostRoot i.wq = s1 at hcredit hstart ⊢
  show execAdmissionSelect s = _
  simp [execAdmissionSelect, hgk, hc, hnew, hfn, hparent, hs1, hcredit, rootChild, insKey, earliest_singleton, hstart]

/-- Settles O37: each row changes the one entry it names (`getItem_changed`), and what joins or is charged at a scheduler node
changes nothing outside the scheduler (`joinAdmit_eq`, `touchNode_eq`, `countAdmit_eq`). -/
theorem executingEntries : Obligations.ExecutingEntries := by
  intro s wq idx i hi
  refine ⟨fun hty hmay => ?_, fun hty hmay => ?_, fun hty hhalt hmay hsound hlast => ⟨fun htot => ?_, fun htot hfn => ?_⟩,
    fun hty hhalt hst hdone hlen => ?_, fun hgk hwq hidx hc hnew hfn hdram hcredit hlevel => ?_⟩
  · refine ⟨_, exec_nopEntry hi hty hmay, ?_, rfl, rfl⟩
    exact getItem_changed (f := itemEnded (report s stOK 0)) hi rfl
  · refine ⟨_, exec_rxPostEntry hi hty hmay, ?_, rfl⟩
    exact getItem_changed (f := itemPosted) hi rfl
  · obtain ⟨x, hx⟩ := joinAdmit_eq s i
    have hexec := exec_txEntry_ready hi hty hhalt hmay
    rw [takeDescs_whole hsound hlast htot, hx] at hexec
    refine ⟨_, hexec, ?_, rfl⟩
    exact getItem_changed (f := itemSegmented _) hi rfl
  · rw [exec_txEntry_ready hi hty hhalt hmay, takeDescs_unequal hsound hlast htot, malformed_tenant s hfn]
  · have hexec := exec_txEntry_data hi hty hhalt hst hdone hlen
    rw [handToPipe_eq] at hexec
    refine ⟨_, txFrame s i, hexec, rfl, tget_tset_listed (Option.some_ne_none _) _, rfl, rfl, rfl, rfl, rfl, rfl,
      ?_, rfl⟩
    exact getItem_changed (f := itemPiped) hi rfl
  · obtain ⟨x, hx⟩ := touchNode_eq s hostRoot i.wq
    obtain ⟨y, r, e, hy⟩ := countAdmit_eq (touchNode s hostRoot i.wq) hfn
    have hexec := exec_admissionSelect hgk hc hnew hfn hdram hcredit hlevel
    rw [hy, hx, startReads_host _ hdram] at hexec
    refine ⟨_, hexec, ?_, rfl, rfl, rfl⟩
    exact getItem_changed (f := itemReading i) hi rfl

end Sys2Proof.Machine

/-! SUPPORT. How a finished entry leaves, how completion entries and the data of received frames are written to the host; O39. -/
namespace Sys2Proof.Machine

/-! ### Ended entries leave (R294) -/

/-- The advance of a consumer index changes the entries and the indices of the WQ alone. -/
theorem advanceCi_eq (n fuel : Nat) (s : State) :
    ∃ items wq, advanceCi n fuel s = { s with queues := { s.queues with items := items, wq := wq } } := by
  induction fuel generalizing s with
  | zero => exact ⟨s.queues.items, s.queues.wq, rfl⟩
  | succ fuel ih =>
    rw [advanceCi]
    dsimp only
    split
    · exact ⟨s.queues.items, s.queues.wq, rfl⟩
    · split
      · exact ⟨s.queues.items, s.queues.wq, rfl⟩
      · obtain ⟨items, wq, h⟩ := ih _
        exact ⟨items, wq, h⟩

/-- The record that a finished entry stages (R298). -/
def stagedRecord (s : State) (wq idx : Nat) (i : WorkItem) (r : Report) : Record :=
  ⟨wq, idx, recordBytes i r, if r.ready then some s.queues.readySeq else none⟩

/-- An entry whose record is staged, or that needs none. -/
def itemLeaves (x : WorkItem) : WorkItem := { x with stage := .ended }

/-- A ring with one more record staged. -/
def ringStaged (s : State) (n : Nat) (x : Record) : CrState := { getCr s n with staged := (getCr s n).staged ++ [x] }

/-- The record is staged in the ring of its WQ. -/
def recordStaged (s : State) (wq idx : Nat) (i : WorkItem) (r : Report) : State :=
  { s with queues := { s.queues with
    items := (modItem s wq idx itemLeaves).queues.items
    cr := (putCr s (recCr s wq) (ringStaged s (recCr s wq) (stagedRecord s wq idx i r))).queues.cr
    readySeq := s.queues.readySeq + 1 } }

section
variable {s : State} {wq : Fin 16384} {idx : Fin 65536} {i : WorkItem} {r : Report}
  (hi : getItem s wq.val idx.val = some i) (hst : i.stage = .finishing r)
include hi hst

theorem exec_entryFinish_quiet (hq : i.quiet = true) (hok : r.status = stOK) :
    exec (.entryFinish wq idx) s = .next (advanceCi wq.val 64 (modItem s wq.val idx.val itemLeaves)) := by
  show execEntryFinish wq idx s = _
  simp only [execEntryFinish, hi, hst, hq, hok, Bool.true_and, beq_self_eq_true, if_true]
  rfl

theorem exec_entryFinish_staged (hrep : i.quiet = false ∨ r.status ≠ stOK)
    (hroom : (getCr s (recCr s wq.val)).staged.length < 64) :
    exec (.entryFinish wq idx) s = .next (advanceCi wq.val 64 (recordStaged s wq.val idx.val i r)) := by
  have hreport : (i.quiet && r.status == stOK) = false := by
    rcases hrep with h | h <;> simp [h]
  have hfree : ¬64 ≤ (getCr (modItem s wq.val idx.val itemLeaves) (recCr s wq.val)).staged.length := Nat.not_le_of_lt hroom
  show execEntryFinish wq idx s = _
  simp only [execEntryFinish, hi, hst, hreport, Bool.false_eq_true, if_false]
  exact if_neg hfree

end

/-! ### Vectors and rings (R258, R259) -/

/-- A vector of a function that is not in D3hot sends nothing by itself. -/
theorem fireVector_out {s : State} {f : Nat} (hd : inD3 s f = false) (v : Nat) : (fireVector s f v).out = s.out := by
  rw [fireVector, hd, if_neg Bool.false_ne_true]
  split
  · rfl
  · exact setPba_out s f v

theorem fireVector_pends {s : State} {f : Nat} (hd : inD3 s f = false) (hen : msixEn s f = true) (v : Nat) :
    (fireVector s f v).pcie.pba.contains (2048 * f + v) = true := by
  rw [fireVector, hd, hen, if_neg Bool.false_ne_true, if_neg (by decide), setPba]
  split
  next hset => exact hset
  next => simp

theorem putCr_out (s : State) (n : Nat) (x : CrState) : (putCr s n x).out = s.out := rfl
theorem putCr_regs (s : State) (n : Nat) (x : CrState) : (putCr s n x).regs = s.regs := rfl
theorem putCr_pcie (s : State) (n : Nat) (x : CrState) : (putCr s n x).pcie = s.pcie := rfl
theorem inD3_putCr (s : State) (n : Nat) (x : CrState) (f : Nat) : inD3 (putCr s n x) f = inD3 s f := rfl
theorem msixEn_putCr (s : State) (n : Nat) (x : CrState) (f : Nat) : msixEn (putCr s n x) f = msixEn s f := rfl
theorem recOwner_putCr (s : State) (n : Nat) (x : CrState) (m : Nat) : recOwner (putCr s n x) m = recOwner s m := rfl

theorem fireRing_out {s : State} {n : Nat} (hd : inD3 s (recOwner s n) = false) : (fireRing s n).out = s.out := by
  rw [fireRing, fireVector_out (by rw [inD3_putCr, hd]), putCr_out]

theorem fireRing_pends {s : State} {n : Nat} (hd : inD3 s (recOwner s n) = false) (hen : msixEn s (recOwner s n) = true) :
    (fireRing s n).pcie.pba.contains (2048 * recOwner s n + recVector s n) = true := by
  rw [fireRing]
  exact fireVector_pends (by rw [inD3_putCr, hd]) (by rw [msixEn_putCr, hen]) _

theorem fireRing_queues (s : State) (n : Nat) :
    (fireRing s n).queues = (putCr s n { getCr s n with modCount := 0, modSince := none }).queues := fireVector_queues _ _ _

theorem getCr_putCr {s : State} (hcr : twf (fun _ => freshCr) s.queues.cr = true) (n : Nat) (x : CrState) :
    getCr (putCr s n x) n = x := tget_tset_same _ _ _ _ hcr

theorem getCr_congr {s t : State} (h : t.queues = s.queues) (n : Nat) : getCr t n = getCr s n := by
  rw [getCr, h, getCr]

/-- The ring after one more completion entry (R258). -/
def ringCounts (s : State) (n : Nat) : CrState :=
  { getCr s n with
    modCount := (getCr s n).modCount + 1
    modSince := if (getCr s n).modCount = 0 ∧ recModTimer s n ≠ 0 then some s.tck.boundaries else (getCr s n).modSince }

theorem moderate_cases (s : State) (n : Nat) :
    moderate s n = fireRing (putCr s n (ringCounts s n)) n ∨ moderate s n = putCr s n (ringCounts s n) := by
  rw [moderate]
  split
  · exact .inl rfl
  · exact .inr rfl

theorem moderate_out {s : State} {n : Nat} (hd : inD3 s (recOwner s n) = false) : (moderate s n).out = s.out := by
  rcases moderate_cases s n with h | h <;> rw [h]
  · rw [fireRing_out (by rw [recOwner_putCr, inD3_putCr, hd]), putCr_out]
  · rw [putCr_out]

theorem moderate_items (s : State) (n : Nat) : (moderate s n).queues.items = s.queues.items := by
  rcases moderate_cases s n with h | h <;> rw [h]
  · rw [fireRing_queues]; rfl
  · rfl

theorem moderate_wq (s : State) (n : Nat) : (moderate s n).queues.wq = s.queues.wq := by
  rcases moderate_cases s n with h | h <;> rw [h]
  · rw [fireRing_queues]; rfl
  · rfl

theorem moderate_pi {s : State} (hcr : twf (fun _ => freshCr) s.queues.cr = true) (n : Nat) :
    (getCr (moderate s n) n).pi = (getCr s n).pi := by
  have hcounts := getCr_putCr hcr n (ringCounts s n)
  rcases moderate_cases s n with h | h <;> rw [h]
  · rw [getCr_congr (fireRing_queues _ _), getCr_putCr (twf_tset _ _ _ _ hcr), hcounts]
    rfl
  · rw [hcounts]
    rfl

theorem exec_moderationTimerExpiry {s : State} {n : Fin 16384} {b : Nat} (hsince : (getCr s n.val).modSince = some b)
    (hpast : passed s b (recModTimer s n.val) = true) : exec (.moderationTimerExpiry n) s = .next (fireRing s n.val) := by
  show execModerationTimerExpiry n s = _
  simp only [execModerationTimerExpiry, hsince, hpast, if_true]

/-! ### Writes to the host (R240, R247, R366) -/

/-- Logging a page changes the logs, and reports an overflow. -/
theorem logWrite_cases (s : State) (fn addr : Nat) : ∃ x,
    logWrite s fn addr = { s with logs := x } ∨ logWrite s fn addr = setErr { s with logs := x } pgTen 1 := by
  unfold logWrite
  split
  · exact ⟨s.logs, .inl rfl⟩
  · unfold logPage
    dsimp only
    split
    · exact ⟨s.logs, .inl rfl⟩
    · split
      · exact ⟨_, .inr rfl⟩
      · exact ⟨_, .inl rfl⟩

theorem hostWrite_out (s : State) (fn addr : Nat) (data : List (Byte × Bool)) :
    (hostWrite s fn addr data).out.head? = some (.memWrite fn addr (data.map (·.1)) (data.any (·.2))) := by
  rw [hostWrite]
  split <;> rfl

/-- What logging, an emission and the count of poisoned writes leave alone, a write to the host leaves alone. -/
theorem hostWrite_frame {β : Type} (g : State → β) (hlogs : ∀ s x, g { s with logs := x } = g s)
    (herr : ∀ s, g (setErr s pgTen 1) = g s) (hemit : ∀ s o, g (emit s o) = g s)
    (hcount : ∀ s, g (bump s (pgHif 0 + Reg.HIF_POISON_TX_CNT)) = g s) (s : State) (fn addr : Nat)
    (data : List (Byte × Bool)) : g (hostWrite s fn addr data) = g s := by
  have hlog : g (logWrite s fn addr) = g s := by
    obtain ⟨x, h | h⟩ := logWrite_cases s fn addr
    · rw [h, hlogs]
    · rw [h, herr, hlogs]
  rw [hostWrite]
  split
  · rw [hcount, hemit, hlog]
  · rw [hemit, hlog]

@[simp] theorem hostWrite_queues (s : State) (fn addr : Nat) (data : List (Byte × Bool)) :
    (hostWrite s fn addr data).queues = s.queues :=
  hostWrite_frame State.queues (fun _ _ => rfl) (fun _ => setErr_queues _ _ _) (fun _ _ => rfl) (fun _ => rfl) s fn addr data

@[simp] theorem hostWrite_pipe (s : State) (fn addr : Nat) (data : List (Byte × Bool)) :
    (hostWrite s fn addr data).pipe = s.pipe :=
  hostWrite_frame State.pipe (fun _ _ => rfl) (fun _ => setErr_pipe _ _ _) (fun _ _ => rfl) (fun _ => rfl) s fn addr data

/-- No queue record changes. -/
theorem rd_hostWrite (s : State) (fn addr : Nat) (data : List (Byte × Bool)) {a : Nat} (ha : winQueue ≤ a) :
    rd (hostWrite s fn addr data) a = rd s a := by
  have hne : ∀ b, b < winQueue → a ≠ b := fun b hb => Nat.ne_of_gt (Nat.lt_of_lt_of_le hb ha)
  have hvec : a ∉ vectorCounters := by
    simp only [vectorCounters, List.mem_cons, List.not_mem_nil, or_false, not_or]
    exact ⟨hne _ (by decide), hne _ (by decide)⟩
  exact hostWrite_frame (fun t => rd t a) (fun _ _ => rfl)
    (fun _ => rd_setErr_other 1 hvec (hne _ (by decide)) (hne _ (by decide))) (fun _ _ => rfl)
    (fun _ => rd_bump_other (hne _ (by decide)).symm) s fn addr data

theorem pmeEvent_cfgEff (s : State) (f : Nat) : (pmeEvent s f).pcie.cfgEff = s.pcie.cfgEff := by
  unfold pmeEvent
  split <;> rfl

theorem setPba_cfgEff (s : State) (f v : Nat) : (setPba s f v).pcie.cfgEff = s.pcie.cfgEff := by
  unfold setPba
  split <;> rfl

theorem fireVector_cfgEff (s : State) (f v : Nat) : (fireVector s f v).pcie.cfgEff = s.pcie.cfgEff := by
  unfold fireVector
  split
  · exact (pmeEvent_cfgEff _ _).trans (setPba_cfgEff _ _ _)
  · split
    · rfl
    · exact setPba_cfgEff _ _ _

theorem setErr_cfgEff (s : State) (page n : Nat) : (setErr s page n).pcie.cfgEff = s.pcie.cfgEff := by
  have hfirst (t : State) (code : Nat) : (recordFirst t page code 0 false).pcie.cfgEff = t.pcie.cfgEff :=
    congrArg PcieUnit.cfgEff (recordFirst_pcie _ _ _ _ _)
  unfold setErr summaryRise
  split
  · rfl
  · dsimp only
    split
    · exact hfirst _ _
    · split
      · exact (fireVector_cfgEff _ _ _).trans (hfirst _ _)
      · exact hfirst _ _

theorem inD3_congr {s t : State} (h : t.pcie.cfgEff = s.pcie.cfgEff) (f : Nat) : inD3 t f = inD3 s f := by
  rw [inD3, cfgEff, h, inD3, cfgEff]

theorem hostWrite_cfgEff (s : State) (fn addr : Nat) (data : List (Byte × Bool)) :
    (hostWrite s fn addr data).pcie.cfgEff = s.pcie.cfgEff :=
  hostWrite_frame (fun t => t.pcie.cfgEff) (fun _ _ => rfl) (fun _ => setErr_cfgEff _ _ _) (fun _ _ => rfl) (fun _ => rfl)
    s fn addr data

/-! ### Completion entries (R298, R302) -/

theorem inD3_of_mayRequest {s : State} {f : Nat} (h : mayRequest s f = true) : inD3 s f = false := by
  simp only [mayRequest, Bool.and_eq_true, Bool.not_eq_true'] at h
  obtain ⟨⟨⟨-, hd⟩, -⟩, -⟩ := h
  exact hd

/-- The bytes of a record with the phase of the ring's producer index (R296). -/
def entryBytes (s : State) (n : Nat) (r : Record) : List Byte :=
  putB r.bytes 5 (leBytes 1 (leAt r.bytes 5 1 % 128 + 128 * phaseOfIndex (getCr s n).pi (recCrSize s n)))

/-- The ring once a record has left its staging area. -/
def ringAdvanced (s : State) (n : Nat) (r : Record) : CrState :=
  { getCr s n with
    pi := ((getCr s n).pi + 1) % 65536
    staged := (getCr s n).staged.filter (fun x => !(x.wq == r.wq && x.idx == r.idx)) }

/-- The record has been written to the host at the ring's producer index. -/
def recordWritten (s : State) (n : Nat) (r : Record) : State :=
  hostWrite (useCredits s (acct 3 1) 1 0) (recOwner s n) (recCrBase s n + 32 * ((getCr s n).pi % recCrSize s n))
    ((entryBytes s n r).map (fun x => (x, false)))

/-- The ring has advanced past the record written, and the slice has counted it. -/
def entryWritten (s : State) (n : Nat) (r : Record) : State :=
  signal (signal (bump (bump (putCr (recordWritten s n r) n (ringAdvanced s n r)) (pgSlice s.worker 6 + Reg.QMG_CPL_WR))
    (pgSlice s.worker 7 + Reg.DMA_BEATS1)) (srcSlice s.worker 0xA 1) 0 1) (srcSlice s.worker 0xB 0) 1 1

theorem exec_completionEntryWrite {s : State} {n : Fin 16384} {r : Record} (hv : recValid s n.val = true)
    (hhalt : isHalted s (recOwner s n.val) = false) (hmay : mayRequest s (recOwner s n.val) = true)
    (hcan : canStart s (acct 3 1) 1 0 = true) (hnext : nextRecord s (getCr s n.val).staged = some r)
    (hroom : crFull s n.val = false) :
    exec (.completionEntryWrite n) s = .next (moderate (entryWritten s n.val r) n.val) := by
  show execCompletionEntryWrite n s = _
  simp only [execCompletionEntryWrite, hv, hhalt, hmay, hcan, hnext, hroom]
  rfl

section
variable (s : State) (n : Nat) (r : Record)

theorem entryWritten_out : (entryWritten s n r).out.head? = some (.memWrite (recOwner s n)
    (recCrBase s n + 32 * ((getCr s n).pi % recCrSize s n)) (entryBytes s n r) false) := by
  rw [entryWritten, signal_out, signal_out, bump_out, bump_out, putCr_out, recordWritten, hostWrite_out]
  simp [Function.comp_def]

theorem recordWritten_queues : (recordWritten s n r).queues = s.queues := by
  rw [recordWritten, hostWrite_queues, useCredits_queues]

theorem recordWritten_cfgEff : (recordWritten s n r).pcie.cfgEff = s.pcie.cfgEff := by
  rw [recordWritten, hostWrite_cfgEff, useCredits_pcie]

theorem rd_recordWritten {a : Nat} (ha : winQueue ≤ a) : rd (recordWritten s n r) a = rd s a := by
  rw [recordWritten, rd_hostWrite _ _ _ _ ha, rd_congr (useCredits_regs _ _ _ _)]

theorem entryWritten_queues : (entryWritten s n r).queues = (putCr s n (ringAdvanced s n r)).queues := by
  rw [entryWritten, signal_queues, signal_queues, bump_queues, bump_queues, putCr, recordWritten_queues]
  rfl

theorem inD3_entryWritten (f : Nat) : inD3 (entryWritten s n r) f = inD3 s f := by
  refine inD3_congr ?_ f
  rw [entryWritten, signal_pcie, signal_pcie, bump_pcie, bump_pcie, putCr_pcie, recordWritten_cfgEff]

theorem recOwner_entryWritten : recOwner (entryWritten s n r) n = recOwner s n := by
  have ha : winQueue ≤ winQueue + 64 * n + 4 * 4 := Nat.le_add_right_of_le (Nat.le_add_right _ _)
  have hpage (k off : Nat) (hk : k < 9) (hoff : off < 0x1000) : pgSlice s.worker k + off ≠ winQueue + 64 * n + 4 * 4 :=
    Nat.ne_of_lt (Nat.lt_of_lt_of_le (pgSlice_lt_winQueue s.worker hk hoff) ha)
  rw [recOwner, recWord, entryWritten, rd_congr (signal_regs _ _ _ _), rd_congr (signal_regs _ _ _ _),
    rd_bump_other (hpage 7 _ (by decide) (by decide)), rd_bump_other (hpage 6 _ (by decide) (by decide)),
    rd_congr (putCr_regs _ _ _), rd_recordWritten s n r ha, recOwner, recWord]

end

/-! ### Delivery (R294, R317, R529) -/

/-- The first frame for receive queue n is whole and may be delivered now into the buffer i (R529). -/
structure Deliverable (s : State) (n : Nat) (d : Desc) (f : Frame) (i : WorkItem) : Prop where
  first : s.sched.rx.find? (fun d => d.queue == n) = some d
  frame : getFrame s d.view.frame = some f
  gate : gkOpen s = true
  whole : f.whole = true
  plain : d.unsealed = false
  valid : validRx s n = true
  running : isHalted s (recOwner s n) = false
  live : inFlr s (recOwner s n) = false
  served : (getWq s n).served = true
  may : mayRequest s (recOwner s n) = true
  credit : inCredit s n = true
  beats : beatsLeft s 1 ≠ 0
  buffer : headBuffer s n = some i

/-- The state with the first frame for queue n taken from the order of arrival. -/
def rxPopped (s : State) (n : Nat) : State := { s with sched := { s.sched with rx := popRx n s.sched.rx } }

theorem rxPopped_regs (s : State) (n : Nat) : (rxPopped s n).regs = s.regs := rfl

/-- The bytes that a delivery writes, with the poison marks of the frame's blocks. -/
def markedData (f : Frame) (d : Desc) : List (Byte × Bool) :=
  ((sentData f d).zip (List.range (sentData f d).length)).map
    (fun x => (x.1, (((viewBytes f d.view)[x.2]?).map (·.2)).getD false))

theorem markedData_bytes (f : Frame) (d : Desc) : (markedData f d).map (·.1) = sentData f d := by
  rw [markedData, List.map_map]
  exact List.map_fst_zip (Nat.le_of_eq List.length_range.symm)

/-- A receive buffer that takes a frame. -/
def itemDelivers (f : Frame) (d : Desc) (i x : WorkItem) : WorkItem :=
  { x with stage := .deliver, rxd := some d, out := markedData f d, outAt := leAt i.bytes 8 8, done := 0 }

section
variable {s : State} {n : Fin 16384} {d : Desc} {f : Frame} {i : WorkItem} (h : Deliverable s n.val d f i)
include h

theorem exec_rxDeliver_fits (henc : d.enc = none) (hfits : (sentData f d).length ≤ leAt i.bytes 16 2) :
    exec (.rxDeliver n) s = .next (modItem (chargeTokens (rxPopped s n.val) n.val ((sentData f d).length + 24)) i.wq i.idx
      (itemDelivers f d i)) := by
  show execRxDeliver n s = _
  simp only [execRxDeliver, h.first, h.frame, h.gate, h.whole, h.plain, h.valid, h.running, h.live, h.served, h.may, h.credit,
    h.beats, h.buffer, henc, Nat.not_lt_of_ge hfits, if_false]
  rfl

theorem exec_rxDeliver_tooLong (hlong : leAt i.bytes 16 2 < (sentData f d).length) :
    exec (.rxDeliver n) s = .next (dropDesc (bump (rxPopped s n.val) (pgSch + Reg.SCH_RXBUF_DROP)) d) := by
  show execRxDeliver n s = _
  simp only [execRxDeliver, h.first, h.frame, h.gate, h.whole, h.plain, h.valid, h.running, h.live, h.served, h.may, h.credit,
    h.beats, h.buffer, hlong, if_true]
  rfl

end

/-! ### Frames dropped (R294, R458) -/

theorem endItem_eq (s : State) (wq idx : Nat) (r : Report) : ∃ q p, endItem s wq idx r = { s with queues := q, pipe := p } := by
  unfold endItem
  split
  · exact ⟨s.queues, s.pipe, rfl⟩
  · split
    · exact ⟨s.queues, s.pipe, rfl⟩
    · exact ⟨s.queues, s.pipe, rfl⟩
    · exact ⟨_, _, rfl⟩

theorem subOccs_eq (l : List (Nat × Nat)) (s : State) : ∃ x,
    l.foldl (fun s c => subOcc s c.1 c.2) s = { s with sched := { s.sched with nodes := x } } := by
  induction l generalizing s with
  | nil => exact ⟨s.sched.nodes, rfl⟩
  | cons c l ih => exact ih (subOcc s c.1 c.2)

theorem dropRef_eq (s : State) (id : Nat) : ∃ p x,
    dropRef s id = { s with pipe := p, sched := { s.sched with nodes := x } } := by
  unfold dropRef
  split
  · exact ⟨s.pipe, s.sched.nodes, rfl⟩
  · split
    · unfold releaseFrame
      split
      · exact ⟨s.pipe, s.sched.nodes, rfl⟩
      next f _ =>
        obtain ⟨x, hx⟩ := subOccs_eq f.charges s
        rw [hx]
        exact ⟨_, x, rfl⟩
    · exact ⟨_, s.sched.nodes, rfl⟩

theorem endTx_eq (s : State) (id st : Nat) (ready : Bool) : ∃ q p, endTx s id st ready = { s with queues := q, pipe := p } := by
  unfold endTx
  split
  · exact ⟨s.queues, s.pipe, rfl⟩
  · split
    · exact ⟨s.queues, s.pipe, rfl⟩
    · exact endItem_eq _ _ _ _

/-- A descriptor dropped changes entries, frames and the occupancy of nodes alone. -/
theorem dropDesc_eq (s : State) (d : Desc) : ∃ q p x,
    dropDesc s d = { s with queues := q, pipe := p, sched := { s.sched with nodes := x } } := by
  unfold dropDesc
  split
  · obtain ⟨q, p, h⟩ := endTx_eq s d.view.frame stOK true
    obtain ⟨p', x, h'⟩ := dropRef_eq (endTx s d.view.frame stOK true) d.view.frame
    refine ⟨q, p', x, ?_⟩
    rw [dropFrame, h', h]
  · obtain ⟨p, x, h⟩ := dropRef_eq s d.view.frame
    exact ⟨s.queues, p, x, h⟩

theorem dropDesc_regs (s : State) (d : Desc) : (dropDesc s d).regs = s.regs := by
  obtain ⟨q, p, x, h⟩ := dropDesc_eq s d
  rw [h]

theorem dropDesc_rx (s : State) (d : Desc) : (dropDesc s d).sched.rx = s.sched.rx := by
  obtain ⟨q, p, x, h⟩ := dropDesc_eq s d
  rw [h]

/-! ### The writes of a delivery (R317) -/

/-- A buffer of which the next n bytes are written. -/
def itemWritten (n : Nat) (x : WorkItem) : WorkItem :=
  { x with out := x.out.drop n, outAt := x.outAt + n, done := x.done + n }

/-- The next n bytes of a delivery leave (R317). -/
def pieceWritten (s : State) (i : WorkItem) (n : Nat) : State :=
  modItem (hostWrite (bumpBy (chargeBeats s 1 (blocksOf i.outAt n)) (pgDma + Reg.DMA_POISON_CNT)
    (poisonedBlocks i.outAt (i.out.take n))) i.fn i.outAt (i.out.take n)) i.wq i.idx (itemWritten n)

theorem exec_dmaWriteIssue {s : State} {wq : Fin 16384} {idx : Fin 65536} {i : WorkItem} {d : Desc}
    (hi : getItem s wq.val idx.val = some i) (hst : i.stage = .deliver) (hd : i.rxd = some d) (hbeats : beatsLeft s 1 ≠ 0)
    (hmay : mayRequest s i.fn = true) (hhalt : isHalted s i.fn = false)
    (hmore : writeLen (mps s i.fn) i.outAt i.out (beatsLeft s 1) < i.out.length) :
    exec (.dmaWriteIssue wq idx) s = .next (pieceWritten s i (writeLen (mps s i.fn) i.outAt i.out (beatsLeft s 1))) := by
  show execDmaWriteIssue wq idx s = _
  simp only [execDmaWriteIssue, hi, hst, hd, hbeats, hmay, hhalt, hmore, if_true]
  rfl

theorem pieceWritten_items (s : State) (i : WorkItem) (n : Nat) :
    (pieceWritten s i n).queues.items = (modItem s i.wq i.idx (itemWritten n)).queues.items :=
  modItem_items_congr (by rw [hostWrite_queues, bumpBy_queues, chargeBeats_queues]) _ _ _

theorem pieceWritten_pipe (s : State) (i : WorkItem) (n : Nat) : (pieceWritten s i n).pipe = s.pipe := by
  rw [pieceWritten, modItem_pipe, hostWrite_pipe, bumpBy_pipe, chargeBeats_pipe]

/-- Settles O39: the ends and drops of entries change only what `advanceCi_eq` and `dropDesc_eq` name, and a write to the host
leaves the entries, the rings and the queue records as they are (`hostWrite_frame`). -/
theorem completionsAndDelivery : Obligations.CompletionsAndDelivery := by
  intro s hw
  have hregs := Memory.wf_regs hw
  have hcr := (Memory.wf_iff.1 hw).cr
  refine ⟨fun wq idx i r hi hst => ⟨fun hquiet => ?_, fun hrep hroom => ?_⟩, fun n r hv hhalt hmay hcan hnext hroom => ?_,
    fun n b hsince hpast => ?_,
    fun n d f i hfirst hframe hgk hwhole hplain hvalid hhalt hflr hserved hmay hcredit hbeats hbuf hi henc =>
      ⟨fun hfits => ?_, fun hlong => ?_⟩,
    fun wq idx i d hi hst hd hbeats hmay hhalt hmore => ?_⟩
  · obtain ⟨items, wqs, h⟩ := advanceCi_eq wq.val 64 (modItem s wq.val idx.val itemLeaves)
    have hexec := exec_entryFinish_quiet hi hst hquiet.1 hquiet.2
    rw [h] at hexec
    exact ⟨_, hexec, rfl, rfl⟩
  · obtain ⟨items, wqs, h⟩ := advanceCi_eq wq.val 64 (recordStaged s wq.val idx.val i r)
    have hexec := exec_entryFinish_staged hi hst hrep hroom
    rw [h] at hexec
    exact ⟨_, stagedRecord s wq.val idx.val i r, hexec, rfl, rfl, rfl, rfl, rfl⟩
  · have hd : inD3 (entryWritten s n.val r) (recOwner (entryWritten s n.val r) n.val) = false := by
      rw [recOwner_entryWritten, inD3_entryWritten, inD3_of_mayRequest hmay]
    have hcr' : twf (fun _ => freshCr) (entryWritten s n.val r).queues.cr = true := by
      rw [entryWritten_queues]
      exact twf_tset _ _ _ _ hcr
    refine ⟨_, exec_completionEntryWrite hv hhalt hmay hcan hnext hroom, ?_, ?_, ?_, ?_⟩
    · rw [moderate_out hd, entryWritten_out]
      rfl
    · rw [moderate_pi hcr', getCr_congr (entryWritten_queues s n.val r), getCr_putCr hcr]
      rfl
    · rw [moderate_items, entryWritten_queues]
      rfl
    · rw [moderate_wq, entryWritten_queues]
      rfl
  · refine ⟨_, exec_moderationTimerExpiry hsince hpast, ?_, fun hen hd => ?_⟩
    · rw [fireRing_queues]
    · exact fireRing_pends hd hen
  · obtain ⟨x, hx⟩ := chargeTokens_eq (rxPopped s n.val) n.val ((sentData f d).length + 24)
    have hexec := exec_rxDeliver_fits ⟨hfirst, hframe, hgk, hwhole, hplain, hvalid, hhalt, hflr, hserved, hmay, hcredit,
      hbeats, hbuf⟩ henc hfits
    rw [hx] at hexec
    exact ⟨_, itemDelivers f d i i, hexec, getItem_changed hi rfl, rfl, rfl, markedData_bytes f d, rfl, rfl, rfl⟩
  · refine ⟨_, exec_rxDeliver_tooLong ⟨hfirst, hframe, hgk, hwhole, hplain, hvalid, hhalt, hflr, hserved, hmay, hcredit,
      hbeats, hbuf⟩ hlong, ?_, ?_⟩
    · rw [rd_congr (dropDesc_regs _ _), rd_bump_same _ (rxPopped_regs s n.val ▸ hregs), rd_congr (rxPopped_regs s n.val)]
    · rw [dropDesc_rx, bump_sched]
      rfl
  · have hexec := exec_dmaWriteIssue hi hst hd hbeats hmay hhalt hmore
    generalize writeLen (mps s i.fn) i.outAt i.out (beatsLeft s 1) = n at hexec ⊢
    refine ⟨_, hexec, ?_, ?_, pieceWritten_pipe s i n⟩
    · rw [pieceWritten, modItem_out, hostWrite_out]
    · exact getItem_changed (f := itemWritten n) hi (pieceWritten_items s i n)

end Sys2Proof.Machine

/-! SUPPORT. Mailbox directions read back as changed, what posting, refusing, delivering and acknowledging a message leave of the
state, and which directions a boundary delivers; O40. -/
namespace Sys2Proof.Machine

/-! ### Directions -/

theorem getMbx_congr {s t : State} (h : t.mbx = s.mbx) (k : Nat) : getMbx t k = getMbx s k := by
  rw [getMbx, h, getMbx]

theorem getMbx_putMbx_same {s : State} (hdirs : twf (fun _ => MbxDir.empty) s.mbx.dirs = true) (k : Nat) (x : MbxDir) :
    getMbx (putMbx s k x) k = x := tget_tset_same _ _ _ _ hdirs

theorem getMbx_putMbx_other (s : State) {j k : Nat} (h : k ≠ j) (x : MbxDir) : getMbx (putMbx s k x) j = getMbx s j :=
  tget_tset_other _ _ _ _ h _

theorem putMbx_regs (s : State) (k : Nat) (x : MbxDir) : (putMbx s k x).regs = s.regs := rfl
theorem putMbx_queues (s : State) (k : Nat) (x : MbxDir) : (putMbx s k x).queues = s.queues := rfl
theorem putMbx_mem (s : State) (k : Nat) (x : MbxDir) : (putMbx s k x).mem = s.mem := rfl

theorem twf_putMbx {s : State} (hdirs : twf (fun _ => MbxDir.empty) s.mbx.dirs = true) (k : Nat) (x : MbxDir) :
    twf (fun _ => MbxDir.empty) (putMbx s k x).mbx.dirs = true := twf_tset _ _ _ _ hdirs

/-! ### Sending (R351, R352) -/

theorem exec_mailboxSend {s : State} {via : Master} (h : mbxOpen s via = true) (w : Word) :
    exec (.mailboxSend via w) s = .next (mbxSend s (mbxDirOf s via) (fld w 15 0)) := by
  show execMailboxSend via w s = _
  rw [execMailboxSend, if_pos h]

/-- A direction that holds the outbound buffer as a message with seq n, to be delivered after this boundary. -/
def mbxPosted (s : State) (k n : Nat) : MbxDir :=
  { getMbx s k with
    status := stOK, full := true, seq := n, posted := some s.tck.boundaries,
    epoch := if k % 2 = 0 then s.mbx.mgrEpoch else tenantEpoch s (k / 2),
    msg := (List.range 16).map (fun i => rd s (mbxBuffer k + 4 * i)) }

/-- A direction whose message was refused while it was full. -/
def mbxBusy (x : MbxDir) : MbxDir := { x with status := stBUSY, collision := true }

section
variable {s : State} {k : Nat} (hex : k % 2 = 0 → fnExists s (2 + k / 2) = true)
  (hflr : inFlr s (if k % 2 = 0 then 2 + k / 2 else 0) = false)
include hex hflr

/-- To a receiver that exists and is not under reset a send is posted or, while full is 1, refused. -/
theorem mbxSend_eq (n : Nat) : mbxSend s k n =
    if (getMbx s k).full then setErr (bump (putMbx s k (mbxBusy (getMbx s k))) (pgMbx + Reg.MBX_COLL_CNT)) pgMbx 1
    else putMbx s k (mbxPosted s k n) := by
  have hfound : ¬(k % 2 = 0 ∧ (!fnExists s (if k % 2 = 0 then 2 + k / 2 else 0)) = true) := by
    rintro ⟨heven, hmissing⟩
    rw [if_pos heven, hex heven] at hmissing
    cases hmissing
  simp only [mbxSend, if_neg hfound, hflr, Bool.false_eq_true, if_false]
  rfl

theorem mbxSend_free (hfull : (getMbx s k).full = false) (n : Nat) : mbxSend s k n = putMbx s k (mbxPosted s k n) := by
  rw [mbxSend_eq hex hflr, hfull, if_neg Bool.false_ne_true]

theorem mbxSend_full (hfull : (getMbx s k).full = true) (n : Nat) :
    mbxSend s k n = setErr (bump (putMbx s k (mbxBusy (getMbx s k))) (pgMbx + Reg.MBX_COLL_CNT)) pgMbx 1 := by
  rw [mbxSend_eq hex hflr, if_pos hfull]

end

/-- The collision error of the mailbox page is not the collision counter. -/
theorem rd_setErr_collCnt (s : State) (n : Nat) :
    rd (setErr s pgMbx n) (pgMbx + Reg.MBX_COLL_CNT) = rd s (pgMbx + Reg.MBX_COLL_CNT) :=
  rd_setErr_other n (by decide) (by decide) (by decide)

/-! ### Delivery of one message (R352, R354) -/

/-- A direction whose posted message reached the receiver. -/
def mbxDelivered (x : MbxDir) : MbxDir :=
  { x with
    posted := none, new := true, dup := x.kept == some (x.seq, x.epoch), rxSeq := x.seq, kept := some (x.seq, x.epoch) }

/-- What neither a vector nor a PME event touches, the notice of a function leaves (R355). -/
theorem notice_frame {α : Type} (g : State → α) (hfire : ∀ s f v, g (fireVector s f v) = g s)
    (hpme : ∀ s f, g (pmeEvent s f) = g s) (irq pme : Prop) [Decidable irq] [Decidable pme] (s : State) (f v : Nat) :
    g (if pme then pmeEvent (if irq then fireVector s f v else s) f else if irq then fireVector s f v else s) = g s := by
  have hirq : g (if irq then fireVector s f v else s) = g s := by
    split
    · exact hfire s f v
    · rfl
  split
  · exact (hpme _ f).trans hirq
  · exact hirq

/-- What neither a counter nor a notice touches, a delivery leaves as its change of the direction does. -/
theorem mbxDeliver_frame {α : Type} (g : State → α) (hbump : ∀ s a, g (bump s a) = g s)
    (hfire : ∀ s f v, g (fireVector s f v) = g s) (hpme : ∀ s f, g (pmeEvent s f) = g s) (s : State) (k : Nat) :
    g (mbxDeliver s k) = g (putMbx s k (mbxDelivered (getMbx s k))) := by
  have hcounted : g (if (getMbx s k).kept == some ((getMbx s k).seq, (getMbx s k).epoch)
      then bump (putMbx s k (mbxDelivered (getMbx s k))) (pgMbx + Reg.MBX_DUP_CNT)
      else putMbx s k (mbxDelivered (getMbx s k))) = g (putMbx s k (mbxDelivered (getMbx s k))) := by
    split
    · exact hbump _ _
    · rfl
  unfold mbxDeliver
  dsimp only
  split
  · exact hcounted
  · exact (notice_frame g hfire hpme _ _ _ _ _).trans hcounted

theorem mbxDeliver_mbx (s : State) (k : Nat) : (mbxDeliver s k).mbx = (putMbx s k (mbxDelivered (getMbx s k))).mbx :=
  mbxDeliver_frame State.mbx bump_mbx fireVector_mbx pmeEvent_mbx s k

theorem mbxDeliver_queues (s : State) (k : Nat) : (mbxDeliver s k).queues = s.queues :=
  mbxDeliver_frame State.queues bump_queues fireVector_queues pmeEvent_queues s k

theorem mbxDeliver_mem (s : State) (k : Nat) : (mbxDeliver s k).mem = s.mem :=
  mbxDeliver_frame State.mem bump_mem fireVector_mem pmeEvent_mem s k

theorem getMbx_mbxDeliver {s : State} (hdirs : twf (fun _ => MbxDir.empty) s.mbx.dirs = true) (j k : Nat) :
    getMbx (mbxDeliver s k) j = if k = j then mbxDelivered (getMbx s j) else getMbx s j := by
  rw [getMbx_congr (mbxDeliver_mbx s k)]
  split
  next heq => rw [← heq, getMbx_putMbx_same hdirs]
  next hne => exact getMbx_putMbx_other s hne _

/-- Deliveries in distinct directions change each of them once, and no other. -/
theorem getMbx_foldl_mbxDeliver {l : List Nat} (hl : l.Nodup) (j : Nat) : ∀ {s : State},
    twf (fun _ => MbxDir.empty) s.mbx.dirs = true →
    getMbx (l.foldl mbxDeliver s) j = if j ∈ l then mbxDelivered (getMbx s j) else getMbx s j := by
  induction l with
  | nil => intro s _; rfl
  | cons k l ih =>
    intro s hdirs
    obtain ⟨hk, hl⟩ := List.nodup_cons.1 hl
    have hdirs' : twf (fun _ => MbxDir.empty) (mbxDeliver s k).mbx.dirs = true := by
      rw [mbxDeliver_mbx]
      exact twf_putMbx hdirs k _
    rw [List.foldl_cons, ih hl hdirs', getMbx_mbxDeliver hdirs]
    by_cases hj : k = j
    · subst hj; simp [hk]
    · simp [hj, Ne.symm hj]

/-! ### Which directions a boundary delivers (R352) -/

/-- Does a direction hold a message posted before the last boundary? -/
def mbxDue (s : State) (x : MbxDir) : Bool :=
  match x.posted with
  | some b => decide (b < s.tck.boundaries)
  | none => false

theorem mbxDue_iff {s : State} {x : MbxDir} : mbxDue s x = true ↔ ∃ b, x.posted = some b ∧ b < s.tck.boundaries := by
  unfold mbxDue
  cases x.posted <;> simp

/-- The directions that hold such a message. -/
def dueDirs (s : State) : List Nat := (s.mbx.dirs.filter (fun e => mbxDue s e.2)).map (·.1)

/-- The keys of a canonical table are distinct. -/
theorem nodup_keys {α : Type} [DecidableEq α] {d : Nat → α} : ∀ {t : Table α} {lo : Nat},
    twfFrom d lo t = true → (t.map (·.1)).Nodup
  | [], _, _ => List.nodup_nil
  | (a, x) :: t, lo, hw => by
    simp only [twfFrom, Bool.and_eq_true, decide_eq_true_eq] at hw
    obtain ⟨-, ht⟩ := hw
    refine List.nodup_cons.2 ⟨fun hmem => ?_, nodup_keys ht⟩
    obtain ⟨e, he, heq⟩ := List.mem_map.1 hmem
    have hlater : a + 1 ≤ e.1 := le_of_mem_twfFrom ht he
    exact Nat.ne_of_gt hlater heq

/-- A key that does not read as unlisted is listed with what it reads as. -/
theorem mem_of_tget_ne {α : Type} {d : Nat → α} {k : Nat} : ∀ {t : Table α}, tget d t k ≠ d k → (k, tget d t k) ∈ t
  | [], h => absurd rfl h
  | (a, x) :: t, h => by
    unfold tget at h ⊢
    split
    next heq => exact heq ▸ List.mem_cons_self
    next hne => exact List.mem_cons_of_mem _ (mem_of_tget_ne (by rwa [if_neg hne] at h))

theorem dueDirs_nodup {s : State} (hdirs : twf (fun _ => MbxDir.empty) s.mbx.dirs = true) : (dueDirs s).Nodup :=
  (nodup_keys hdirs).sublist (List.filter_sublist.map _)

theorem mem_dueDirs {s : State} (hdirs : twf (fun _ => MbxDir.empty) s.mbx.dirs = true) {k : Nat} :
    k ∈ dueDirs s ↔ mbxDue s (getMbx s k) = true := by
  constructor
  · intro h
    obtain ⟨e, he, rfl⟩ := List.mem_map.1 h
    obtain ⟨hlisted, hdue⟩ := List.mem_filter.1 he
    rwa [getMbx, tget_of_mem hdirs hlisted]
  · intro hdue
    have hne : getMbx s k ≠ MbxDir.empty := by
      intro hempty
      rw [hempty] at hdue
      cases hdue
    exact List.mem_map.2 ⟨_, List.mem_filter.2 ⟨mem_of_tget_ne hne, hdue⟩, rfl⟩

/-- MAILBOX_DELIVER delivers in the directions that are due, and gives PF0 its notice. -/
theorem exec_mailboxDeliver (s : State) : ∃ t, exec .mailboxDeliver s = .next t ∧
    ∀ {α : Type} (g : State → α), (∀ s f v, g (fireVector s f v) = g s) → (∀ s f, g (pmeEvent s f) = g s) →
      g t = g ((dueDirs s).foldl mbxDeliver s) := by
  show ∃ t, execMailboxDeliver s = .next t ∧ _
  unfold execMailboxDeliver
  dsimp only
  split
  · exact ⟨_, rfl, fun g hfire hpme => notice_frame g hfire hpme _ _ _ _ _⟩
  · exact ⟨_, rfl, fun _ _ _ => rfl⟩

/-! ### Acknowledging (R353) -/

theorem exec_mailboxAck {s : State} {via : Master} (h : mbxOpen s via = true) (w : Word) :
    exec (.mailboxAck via w) s = .next (mbxAck s (mbxRxDirOf s via) w) := by
  show execMailboxAck via w s = _
  rw [execMailboxAck, if_pos h]

theorem mbxAck_set {s : State} {k : Nat} {w : Word} (hbit : fbit w 0 = true) (hnew : (getMbx s k).new = true) :
    mbxAck s k w = putMbx s k { getMbx s k with new := false, dup := false, orphan := false, clearing := true } := by
  simp only [mbxAck, hbit, hnew, Bool.and_true, if_true]

theorem mbxAck_clear {s : State} {k : Nat} {w : Word} (hbit : fbit w 0 = false) : mbxAck s k w = s := by
  simp only [mbxAck, hbit, Bool.false_and, Bool.false_eq_true, if_false]

/-- Settles O40: a send is posted or refused as `mbxSend_eq` says, the due directions are distinct, so each is delivered once
(`getMbx_foldl_mbxDeliver`), and an acknowledgement changes the one direction it consumes. -/
theorem mailboxes : Obligations.Mailboxes := by
  intro s hw
  have hregs := Memory.wf_regs hw
  have hdirs := (Memory.wf_iff.1 hw).dirs
  refine ⟨fun via w hopen hex hflr => ⟨fun hfree => ?_, fun hfull => ?_⟩, ?_,
    fun via w hopen hnew => ⟨fun hbit => ?_, fun hbit => ?_⟩⟩
  · rw [exec_mailboxSend hopen, mbxSend_free hex hflr hfree]
    rfl
  · refine ⟨_, exec_mailboxSend hopen w, ?_⟩
    rw [mbxSend_full hex hflr hfull]
    refine ⟨?_, ?_, ?_⟩
    · rw [getMbx_congr (setErr_mbx _ _ _), getMbx_congr (bump_mbx _ _), getMbx_putMbx_same hdirs]
      rfl
    · rw [rd_setErr_collCnt, rd_bump_same _ (by rwa [putMbx_regs]), rd_congr (putMbx_regs s _ _)]
    · rw [setErr_queues, bump_queues, putMbx_queues]
  · obtain ⟨t, hexec, hframe⟩ := exec_mailboxDeliver s
    have hread : ∀ k, getMbx t k = if mbxDue s (getMbx s k) then mbxDelivered (getMbx s k) else getMbx s k := by
      intro k
      rw [getMbx_congr (hframe State.mbx fireVector_mbx pmeEvent_mbx), getMbx_foldl_mbxDeliver (dueDirs_nodup hdirs) k hdirs]
      exact ite_congr (propext (mem_dueDirs hdirs)) (fun _ => rfl) (fun _ => rfl)
    refine ⟨t, hexec, (hframe State.queues fireVector_queues pmeEvent_queues).trans (foldl_frame State.queues mbxDeliver_queues _ s),
      (hframe State.mem fireVector_mem pmeEvent_mem).trans (foldl_frame State.mem mbxDeliver_mem _ s), fun k => ⟨fun b hposted hpast => ?_, fun hwaits => ?_⟩⟩
    · rw [hread, if_pos (mbxDue_iff.2 ⟨b, hposted, hpast⟩)]
      rfl
    · rw [hread, if_neg fun hdue => ?_]
      obtain ⟨b, hposted, hpast⟩ := mbxDue_iff.1 hdue
      exact Nat.not_lt_of_ge (hwaits b hposted) hpast
  · rw [exec_mailboxAck hopen, mbxAck_set hbit hnew]
  · rw [exec_mailboxAck hopen, mbxAck_clear hbit]

end Sys2Proof.Machine

/-! SUPPORT. Wide counters and ports read back as written, and what a MAC leaves of the state when a frame is no longer in
hand, when it counts a frame and when it cuts one off; O50. -/
namespace Sys2Proof.Machine

/-! ### Wide counters (R417, R434) -/

theorem rdWide_bumpWide_same {s : State} (a n : Nat) (hw : twf (fun _ => 0) s.wide = true) :
    rdWide (bumpWide s a n) a = (rdWide s a + n) % 2 ^ 64 := tget_tset_same _ _ _ _ hw

theorem rdWide_bumpWide_other {s : State} {a b : Nat} (n : Nat) (h : a ≠ b) : rdWide (bumpWide s a n) b = rdWide s b :=
  tget_tset_other _ _ _ _ h _

/-- Statistic k of port p. -/
def portCount (s : State) (p k : Nat) : Nat := rdWide s (pgMac p + 0x400 + 8 * k)

theorem portCount_congr {s t : State} (h : t.wide = s.wide) (p k : Nat) : portCount t p k = portCount s p k := by
  rw [portCount, rdWide, h, portCount, rdWide]

@[simp] theorem portCount_emit (s : State) (o : Out) (p k : Nat) : portCount (emit s o) p k = portCount s p k := rfl
@[simp] theorem portCount_setErr (s : State) (page n p k : Nat) : portCount (setErr s page n) p k = portCount s p k :=
  portCount_congr (setErr_wide s page n) p k
@[simp] theorem portCount_signal (s : State) (src q n p k : Nat) : portCount (signal s src q n) p k = portCount s p k :=
  portCount_congr (signal_wide s src q n) p k

@[simp] theorem portCount_portStat_other {s : State} {p j k n : Nat} (h : j ≠ k) :
    portCount (portStat s p j n) p k = portCount s p k :=
  rdWide_bumpWide_other n (by omega)

theorem portCount_portStat_same {s : State} {p k n : Nat} (hw : twf (fun _ => 0) s.wide = true) :
    portCount (portStat s p k n) p k = (portCount s p k + n) % 2 ^ 64 := rdWide_bumpWide_same _ n hw

theorem twf_portStat {s : State} (p k n : Nat) (hw : twf (fun _ => 0) s.wide = true) :
    twf (fun _ => 0) (portStat s p k n).wide = true := twf_tset _ _ _ _ hw

@[simp] theorem portStat_ports (s : State) (p k n : Nat) : (portStat s p k n).ports = s.ports := rfl
@[simp] theorem portStat_out (s : State) (p k n : Nat) : (portStat s p k n).out = s.out := rfl
@[simp] theorem portStat_cbp (s : State) (p k n : Nat) : (portStat s p k n).cbp = s.cbp := rfl

/-! ### Ports -/

theorem getPort_putPort_same {s : State} (p : Nat) (x : PortUnit) (hp : twf (fun _ => PortUnit.reset) s.ports = true) :
    getPort (putPort s p x) p = x := tget_tset_same _ _ _ _ hp

theorem getPort_congr {s t : State} (h : t.ports = s.ports) (p : Nat) : getPort t p = getPort s p := by
  rw [getPort, h, getPort]

/-! ### A frame no longer in hand (R298) -/

theorem readyRecord_eq (s : State) (wq idx : Nat) (time : Option Nat) :
    ∃ q, readyRecord s wq idx time = { s with queues := q } := ⟨_, rfl⟩

/-- A frame that has left a MAC, or was discarded there, changes queues, frames and the occupancy of nodes alone. -/
theorem doneSending_eq (s : State) (d : Desc) (time : Option Nat) : ∃ q p x,
    doneSending s d time = { s with queues := q, pipe := p, sched := { s.sched with nodes := x } } := by
  unfold doneSending
  split
  · exact ⟨s.queues, s.pipe, s.sched.nodes, rfl⟩
  · dsimp only
    split
    next e _ =>
      obtain ⟨q, hq⟩ := readyRecord_eq s e.1 e.2 time
      obtain ⟨p, x, hd⟩ := dropRef_eq (readyRecord s e.1 e.2 time) d.view.frame
      exact ⟨q, p, x, by rw [hd, hq]⟩
    · obtain ⟨p, x, hd⟩ := dropRef_eq s d.view.frame
      exact ⟨s.queues, p, x, hd⟩

section
variable (s : State) (d : Desc) (time : Option Nat)

@[simp] theorem doneSending_regs : (doneSending s d time).regs = s.regs := by
  obtain ⟨q, p, x, h⟩ := doneSending_eq s d time
  rw [h]
@[simp] theorem doneSending_wide : (doneSending s d time).wide = s.wide := by
  obtain ⟨q, p, x, h⟩ := doneSending_eq s d time
  rw [h]
@[simp] theorem doneSending_ports : (doneSending s d time).ports = s.ports := by
  obtain ⟨q, p, x, h⟩ := doneSending_eq s d time
  rw [h]
@[simp] theorem doneSending_out : (doneSending s d time).out = s.out := by
  obtain ⟨q, p, x, h⟩ := doneSending_eq s d time
  rw [h]
@[simp] theorem doneSending_cbp : (doneSending s d time).cbp = s.cbp := by
  obtain ⟨q, p, x, h⟩ := doneSending_eq s d time
  rw [h]
@[simp] theorem portCount_doneSending (p k : Nat) : portCount (doneSending s d time) p k = portCount s p k :=
  portCount_congr (doneSending_wide s d time) p k

end

/-! ### What an error sends -/

theorem mem_fireVector_out {s : State} {f v : Nat} {o : Out} (h : o ∈ s.out) : o ∈ (fireVector s f v).out := by
  have hpba : o ∈ (setPba s f v).out := by rwa [setPba_out]
  unfold fireVector
  split
  · unfold pmeEvent
    split
    · exact List.mem_cons_of_mem _ hpba
    · exact hpba
  · split
    · exact h
    · exact hpba

theorem mem_summaryRise_out {s0 s1 : State} {page : Nat} {o : Out} (h : o ∈ s1.out) :
    o ∈ (summaryRise s0 s1 page).out := by
  unfold summaryRise
  split
  · exact h
  · split
    · exact mem_fireVector_out h
    · exact h

/-- What has left the device before an error has left it still. -/
theorem mem_setErr_out {s : State} {page n : Nat} {o : Out} (h : o ∈ s.out) : o ∈ (setErr s page n).out := by
  unfold setErr
  split
  · exact h
  · exact mem_summaryRise_out (by rwa [recordFirst_out])

theorem macErr_plain {p : Nat} (hp : p < 6) : pgMac p + Reg.PAGE_ERR ∉ vectorCounters := by
  simp only [vectorCounters, pgMac, pgHif, Reg.PAGE_ERR, Reg.HIF_PME_CNT, Reg.HIF_INT_DROP_CNT, List.mem_cons,
    List.not_mem_nil, or_false]
  omega

/-! ### Frames counted (R417) -/

/-- The statistic of a frame sent whole by the kind of its destination. -/
def sentKind (l : List Byte) : Nat :=
  if l.take 6 = List.replicate 6 0xFF then 33 else if nbit (leAt l 0 1) 0 then 32 else 31

theorem countSent_eq (s : State) (p : Nat) (l : List Byte) :
    countSent s p l = portStat (portStat (portStat s p 29 (l.length + 4)) p 30 1) p (sentKind l) 1 := by
  unfold countSent sentKind
  dsimp only
  split
  · rfl
  · split <;> rfl

theorem sentKind_range (l : List Byte) : 31 ≤ sentKind l ∧ sentKind l ≤ 33 := by
  unfold sentKind
  split
  · omega
  · split <;> omega

/-- A frame sent whole is counted in tx_frames. -/
theorem portCount_countSent {s : State} (p : Nat) (l : List Byte) (hw : twf (fun _ => 0) s.wide = true) :
    portCount (countSent s p l) p 30 = (portCount s p 30 + 1) % 2 ^ 64 := by
  have hkind := sentKind_range l
  rw [countSent_eq, portCount_portStat_other (by omega), portCount_portStat_same (twf_portStat _ _ _ hw),
    portCount_portStat_other (by decide)]

@[simp] theorem countSent_ports (s : State) (p : Nat) (l : List Byte) : (countSent s p l).ports = s.ports := by
  rw [countSent_eq]; rfl
@[simp] theorem countSent_out (s : State) (p : Nat) (l : List Byte) : (countSent s p l).out = s.out := by
  rw [countSent_eq]; rfl

/-! ### The transmit MACs of P0 to P5 (R387, R394 to R396, R409) -/

/-- The transmit timestamp of a frame that starts at cycle `cyc`, from the word that holds the egress adjustment (R414). -/
def startStamp (s : State) (w : Word) (cyc : Nat) : Nat :=
  ((ptpNs (ptpAtCycle s cyc) : Int) + (BitVec.ofNat 16 (fld w 31 16)).toInt).toNat

theorem dropFirst_head (d : Desc) (l : List Desc) : dropFirst (fun y => y == d) (d :: l) = l := by
  simp [dropFirst]

section
variable {s : State} {p cyc : Nat} {d : Desc} {l : List Desc}

/-- On an unusable port the first held frame is discarded and counted (R387). -/
theorem macStart_unusable (hheld : (getPort s p).held = d :: l) (hu : portUsable s p = false) :
    macStart s p cyc = doneSending (portStat (putPort s p { getPort s p with held := l }) p 38 1) d none := by
  simp only [macStart, hu, hheld, Bool.not_false, if_true]

/-- With nothing in transmission and preemption off, a first frame that pause and gate let starts. -/
theorem macStart_starts (hheld : (getPort s p).held = d :: l) (hu : portUsable s p = true)
    (hpre : fbit (rd s (pgMac p + Reg.MAC_PREEMPT)) 0 = false) (hidle : (getPort s p).sending = none)
    (hlen : ∀ x ∈ d :: l, (sentLen s x).getD 0 ≤ maxFrame s p) (hlets : macLets s p cyc d = true) :
    macStart s p cyc = putPort s p { getPort s p with
      held := l, sending := some d, resumed := false
      sentAt := startStamp s (rd s (pgMac p + Reg.MAC_TS_ADJ)) cyc } := by
  have hfit : (d :: l).find? (fun x => decide (maxFrame s p < (sentLen s x).getD 0)) = none :=
    List.find?_eq_none.2 fun x hx => by simpa using hlen x hx
  simp only [macStart, hu, hheld, hpre, hidle, hfit, hlets, Bool.not_true, Bool.false_eq_true, if_false, List.find?_cons,
    Bool.and_self, dropFirst_head]
  rfl

end

/-- A port whose frame in transmission, none preempted, has ended. -/
def portEnded (x : PortUnit) : PortUnit :=
  { x with sending := none, preempted := none, sentAt := x.preAt, resumed := false, lanesOn := x.lanesOn && x.enabled }

/-- The timestamp that the end of a transmission reports to the frame's entry (R298). -/
def endStamp (f : Frame) (d : Desc) (sentAt : Nat) : Option Nat :=
  if f.tsReq && d.orig then some (compactStamp (sentAt * ptpPerNs)) else none

section
variable {s : State} {p : Nat} {d : Desc} {f : Frame}

theorem macEnd_spoiled (hs : (getPort s p).sending = some d) (hp : (getPort s p).preempted = none)
    (hr : (getPort s p).resumed = false) (hf : getFrame s d.view.frame = some f) (hend : f.whole = true ∨ f.bad = true)
    (hbad : spoiled f d = true) : macEnd s p = abortSend (putPort s p (portEnded (getPort s p))) p d := by
  have hgo : (!f.whole && !f.bad) = false := by
    rcases hend with h | h <;> simp [h]
  simp only [macEnd, hs, hp, hr, hf, hgo, hbad, Bool.false_eq_true, if_false, if_true, Option.isSome_none, Bool.or_false]
  rfl

/-- A whole, good frame leaves edited and padded (R394, R415), and is counted. -/
theorem macEnd_good (hs : (getPort s p).sending = some d) (hp : (getPort s p).preempted = none)
    (hr : (getPort s p).resumed = false) (hf : getFrame s d.view.frame = some f) (hw : f.whole = true)
    (hgood : spoiled f d = false) :
    let e := tsEdit (sentData f d) d.ts f.time (getPort s p).sentAt
    let t := signal (countSent (emit (putPort s p (portEnded (getPort s p))) (.wire p (padded e.1) true)) p (padded e.1))
      (srcEdge 0xE p 1) d.cls 1
    macEnd s p = doneSending (if e.2 then portStat t p 43 1 else t) d (endStamp f d (getPort s p).sentAt) := by
  simp only [macEnd, hs, hp, hr, hf, hw, hgood, Bool.not_true, Bool.false_and, Bool.false_eq_true, if_false,
    Option.isSome_none, Bool.or_false]
  rfl

end

theorem spoiled_good {f : Frame} {d : Desc} (hb : f.bad = false) (hm : f.mismatch = false) (hc : d.cut = none)
    (hv : viewPoisoned f d.view = false) : spoiled f d = false := by
  simp [spoiled, hb, hm, hc, hv]

theorem spoiled_bad {f : Frame} {d : Desc} (h : f.bad = true) : spoiled f d = true := by
  simp [spoiled, h]

theorem spoiled_poisoned {f : Frame} {d : Desc} (hc : d.cut = none) (hv : viewPoisoned f d.view = true) :
    spoiled f d = true := by
  simp [spoiled, hc, hv]

/-! ### The transmit MAC of P6 (R420, R428, R429) -/

/-- P6 outside PLCA, usable, with nothing in transmission and no wait, and a first frame of lawful length. -/
structure BusReady (s : State) (d : Desc) (l : List Desc) : Prop where
  held : (getPort s 6).held = d :: l
  sending : (getPort s 6).sending = none
  backoff : s.cbp.backoff = none
  deferring : s.cbp.deferring = false
  plca : s.cbp.plcaActive = false
  usable : cbpUsable s = true
  fits : (sentLen s d).getD 0 ≤ maxFrame s 6

section
variable {s : State} {d : Desc} {l : List Desc} {cyc : Nat}

theorem BusReady.keeps_frame (h : BusReady s d l) : cbpDiscard s = none := by
  simp only [cbpDiscard, h.held, h.usable, Bool.not_true, Bool.false_eq_true, if_false, Nat.not_lt.2 h.fits]

/-- A ready frame starts when the carrier is free. -/
theorem BusReady.starts (h : BusReady s d l) : cbpStart s cyc false = putPort s 6 { getPort s 6 with
    held := l, sending := some d, sentAt := startStamp s (rd s (pgCbp + Reg.CBP_TS_ADJ)) cyc } := by
  have hbegin : cbpStart s cyc false = cbpBegin s cyc := by
    simp only [cbpStart, h.keeps_frame, h.sending, h.backoff, h.deferring, h.plca, Option.isSome_none, Bool.or_self,
      Bool.false_eq_true, if_false]
  have hcbp : { s.cbp with deferring := false, backoff := none } = s.cbp := by
    rw [← h.deferring, ← h.backoff]
  rw [hbegin, cbpBegin]
  simp only [h.held]
  exact congrArg (setCbp (putPort s 6 _)) hcbp

/-- A ready frame defers while the carrier is there (R429). -/
theorem BusReady.defers (h : BusReady s d l) : cbpStart s cyc true
    = setCbp (if s.cbp.counted then s else portStat s 6 13 1) { s.cbp with deferring := true, counted := true } := by
  simp only [cbpStart, h.keeps_frame, h.sending, h.backoff, h.deferring, h.plca, Option.isSome_none, Bool.or_self,
    Bool.false_eq_true, if_false, if_true]

end

/-- What P6 holds once no frame is in hand. -/
def cbpIdle (c : CbpUnit) : CbpUnit := { c with attempts := 0, deferring := false, counted := false, backoff := none }

section
variable (s : State) (d : Desc) (time : Option Nat)

theorem cbpDone_out : (cbpDone s d time).out = s.out := doneSending_out _ _ _
theorem cbpDone_cbp : (cbpDone s d time).cbp = cbpIdle s.cbp := doneSending_cbp _ _ _
theorem portCount_cbpDone (p k : Nat) : portCount (cbpDone s d time) p k = portCount s p k :=
  portCount_doneSending _ _ _ _ _

end

theorem cbpDone_sending {s : State} (d : Desc) (time : Option Nat)
    (hp : twf (fun _ => PortUnit.reset) s.ports = true) : (getPort (cbpDone s d time) 6).sending = none := by
  rw [cbpDone, getPort_congr (doneSending_ports _ _ _)]
  exact congrArg PortUnit.sending (getPort_putPort_same 6 _ hp)

/-- What P6 counts of a frame sent whole, beside its bytes and the frame: the collisions before it (R429) and the edit asked
for (R427). -/
def countAttempts (s : State) (attempts op : Nat) : State :=
  let s2 := if attempts = 1 then portStat s 6 15 1 else if 2 ≤ attempts then portStat s 6 16 1 else s
  if 2 ≤ op then portStat s2 6 25 1 else s2

theorem countAttempts_out (s : State) (a op : Nat) : (countAttempts s a op).out = s.out := by
  simp only [countAttempts, apply_ite State.out, portStat_out, ite_self]

theorem countAttempts_ports (s : State) (a op : Nat) : (countAttempts s a op).ports = s.ports := by
  simp only [countAttempts, apply_ite State.ports, portStat_ports, ite_self]

theorem countAttempts_cbp (s : State) (a op : Nat) : (countAttempts s a op).cbp = s.cbp := by
  simp only [countAttempts, apply_ite State.cbp, portStat_cbp, ite_self]

theorem portCount_countAttempts (s : State) (a op : Nat) : portCount (countAttempts s a op) 6 12 = portCount s 6 12 := by
  have hstat : ∀ (u : State) (j : Nat), j ≠ 12 → portCount (portStat u 6 j 1) 6 12 = portCount u 6 12 :=
    fun _ _ h => portCount_portStat_other h
  simp only [countAttempts, apply_ite (fun u : State => portCount u 6 12), hstat _ 25 (by decide),
    hstat _ 15 (by decide), hstat _ 16 (by decide), ite_self]

section
variable {s : State} {d : Desc} {f : Frame}

theorem cbpEnd_spoiled (hs : (getPort s 6).sending = some d) (hf : getFrame s d.view.frame = some f)
    (hbad : f.bad = true) : cbpEnd s = cbpDone (portStat (emit s (.wire 6 [] false)) 6 19 1) d none := by
  simp only [cbpEnd, hs, hf, hbad, spoiled_bad hbad, Bool.not_true, Bool.and_false, Bool.false_eq_true, if_false, if_true]

/-- A whole, good frame leaves padded, and is counted (R428, R434). -/
theorem cbpEnd_good (hs : (getPort s 6).sending = some d) (hf : getFrame s d.view.frame = some f) (hw : f.whole = true)
    (hgood : spoiled f d = false) :
    let l := padded (sentData f d)
    cbpEnd s = cbpDone (countAttempts (signal (portStat (portStat (emit s (.wire 6 l true)) 6 11 (l.length + 4)) 6 12 1)
      (srcEdge 0x10 6 1) 0 1) s.cbp.attempts d.ts.op) d (endStamp f d (getPort s 6).sentAt) := by
  simp only [cbpEnd, hs, hf, hw, hgood, Bool.not_true, Bool.false_and, Bool.false_eq_true, if_false]
  rfl

end

/-! ### The rows -/

theorem exec_transmitFrame_idle {s : State} (h : macIdle s = true) (p : Fin 7) (cyc : Nat) (crs : Bool) :
    exec (.transmitFrame p cyc crs) s = .next s :=
  congrArg Host.Outcome.next (if_pos h)

theorem exec_transmitFrame_mac {s : State} (h : macIdle s = false) {p : Fin 7} (hp : p.val < 6) (cyc : Nat) (crs : Bool) :
    exec (.transmitFrame p cyc crs) s = .next (macStart s p.val cyc) :=
  congrArg Host.Outcome.next ((if_neg (by simp [h])).trans (if_neg (Nat.ne_of_lt hp)))

theorem exec_transmitFrame_bus {s : State} (h : macIdle s = false) (cyc : Nat) (crs : Bool) :
    exec (.transmitFrame 6 cyc crs) s = .next (cbpStart s cyc crs) :=
  congrArg Host.Outcome.next ((if_neg (by simp [h])).trans (if_pos rfl))

theorem exec_transmitEnd_mac (s : State) {p : Fin 7} (hp : p.val < 6) :
    exec (.transmitEnd p) s = .next (macEnd s p.val) :=
  congrArg Host.Outcome.next (if_neg (Nat.ne_of_lt hp))

theorem exec_transmitEnd_bus (s : State) : exec (.transmitEnd 6) s = .next (cbpEnd s) :=
  congrArg Host.Outcome.next (if_pos rfl)

/-- What the end of a whole, good frame on P0 to P5 leaves. -/
theorem macEnd_good_effects {s : State} {p : Nat} {d : Desc} {f : Frame} (hwf : Memory.wf s = true)
    (hs : (getPort s p).sending = some d) (hp : (getPort s p).preempted = none) (hr : (getPort s p).resumed = false)
    (hf : getFrame s d.view.frame = some f) (hw : f.whole = true) (hgood : spoiled f d = false) :
    (macEnd s p).out = .wire p (padded (tsEdit (sentData f d) d.ts f.time (getPort s p).sentAt).1) true :: s.out
      ∧ getPort (macEnd s p) p = portEnded (getPort s p)
      ∧ portCount (macEnd s p) p 30 = (portCount s p 30 + 1) % 2 ^ 64 := by
  have hports := (Memory.wf_iff.1 hwf).ports
  have hwide := Memory.wf_wide hwf
  rw [macEnd_good hs hp hr hf hw hgood]
  generalize tsEdit (sentData f d) d.ts f.time (getPort s p).sentAt = e
  refine ⟨?_, ?_, ?_⟩
  · rw [doneSending_out, apply_ite State.out, portStat_out, ite_self, signal_out, countSent_out]
    rfl
  · rw [getPort_congr (t := doneSending _ _ _) (s := putPort s p (portEnded (getPort s p))), getPort_putPort_same p _ hports]
    rw [doneSending_ports, apply_ite State.ports, portStat_ports, ite_self, signal_ports, countSent_ports, emit_ports]
  · rw [portCount_doneSending, apply_ite (fun u : State => portCount u p 30), portCount_portStat_other (by decide),
      ite_self, portCount_signal]
    exact portCount_countSent (s := emit _ _) p _ hwide

/-- What the end of a frame that must not leave sound does on P0 to P5 (R391, R396). -/
theorem macEnd_spoiled_effects {s : State} {p : Nat} {d : Desc} {f : Frame} (hwf : Memory.wf s = true) (hport : p < 6)
    (hs : (getPort s p).sending = some d) (hp : (getPort s p).preempted = none) (hr : (getPort s p).resumed = false)
    (hf : getFrame s d.view.frame = some f) (hend : f.whole = true ∨ f.bad = true) (hbad : spoiled f d = true) :
    .wire p [] false ∈ (macEnd s p).out ∧ (getPort (macEnd s p) p).sending = none
      ∧ fbit (rd (macEnd s p) (pgMac p + Reg.PAGE_ERR)) 3 = true
      ∧ portCount (macEnd s p) p 36 = (portCount s p 36 + 1) % 2 ^ 64 := by
  have hports := (Memory.wf_iff.1 hwf).ports
  have hwide := Memory.wf_wide hwf
  have hw := Memory.wf_regs hwf
  rw [macEnd_spoiled hs hp hr hf hend hbad, abortSend]
  refine ⟨?_, ?_, ?_, ?_⟩
  · rw [doneSending_out]
    exact mem_setErr_out (List.mem_cons_self ..)
  · rw [getPort_congr (t := doneSending _ _ _) (s := putPort s p (portEnded (getPort s p))), getPort_putPort_same p _ hports]
    · rfl
    · rw [doneSending_ports, setErr_ports]
      rfl
  · rw [rd, doneSending_regs]
    exact fbit_setErr (s := portStat _ _ _ _) hw (by decide) (macErr_plain hport)
  · rw [portCount_doneSending, portCount_setErr]
    exact portCount_portStat_same (s := emit _ _) hwide

/-- Settles O50: each row is a start, a deferral or a discard by the state of its MAC, or one of the ends that
`macEnd_good`, `macEnd_spoiled`, `cbpEnd_good` and `cbpEnd_spoiled` name. -/
theorem framesTransmitted : Obligations.FramesTransmitted := by
  intro s hwf
  have hwide := Memory.wf_wide hwf
  have hports := (Memory.wf_iff.1 hwf).ports
  refine ⟨exec_transmitFrame_idle, fun p hp => ⟨fun cyc crs d l hmac hheld => ⟨?_, ?_⟩, fun d f hs hpre hres hf hcut => ⟨?_, ?_⟩⟩,
    fun cyc d l hmac hheld hs hback hdef hplca huse hfit => ?_, fun d f hs hf => ⟨?_, ?_⟩⟩
  · intro huse hpre hidle hlen hlets
    rw [exec_transmitFrame_mac hmac hp, macStart_starts hheld huse hpre hidle hlen hlets]
    rfl
  · intro huse
    refine ⟨_, exec_transmitFrame_mac hmac hp cyc crs, ?_⟩
    rw [macStart_unusable hheld huse]
    exact ⟨(getPort_congr (doneSending_ports _ _ _) _).trans (getPort_putPort_same _ _ hports),
      (portCount_doneSending _ _ _ _ _).trans (portCount_portStat_same hwide)⟩
  · intro hw hb hm hv
    obtain ⟨hout, hport, hcount⟩ := macEnd_good_effects hwf hs hpre hres hf hw (spoiled_good hb hm hcut hv)
    exact ⟨_, exec_transmitEnd_mac s hp, hout, congrArg PortUnit.sending hport, (congrArg PortUnit.held hport).trans rfl, hcount⟩
  · intro hbad
    have hend : f.whole = true ∨ f.bad = true := hbad.elim .inr (fun h => .inl h.1)
    have hspoiled : spoiled f d = true := hbad.elim spoiled_bad (fun h => spoiled_poisoned hcut h.2)
    exact ⟨_, exec_transmitEnd_mac s hp, macEnd_spoiled_effects hwf hp hs hpre hres hf hend hspoiled⟩
  · have hready : BusReady s d l := ⟨hheld, hs, hback, hdef, hplca, huse, hfit⟩
    refine ⟨?_, _, exec_transmitFrame_bus hmac cyc true, ?_⟩
    · rw [exec_transmitFrame_bus hmac, hready.starts]
      rfl
    · rw [hready.defers]
      refine ⟨rfl, ?_, fun hcount => ?_⟩
      · show (if s.cbp.counted then s else portStat s 6 13 1).ports = s.ports
        rw [apply_ite State.ports, portStat_ports, ite_self]
      · rw [hcount]
        exact portCount_portStat_same hwide
  · intro hw hgood
    refine ⟨_, exec_transmitEnd_bus s, ?_⟩
    rw [cbpEnd_good hs hf hw hgood]
    refine ⟨?_, cbpDone_sending _ _ ?_, ?_, ?_⟩
    · rw [cbpDone_out, countAttempts_out, signal_out]
      rfl
    · rw [countAttempts_ports, signal_ports]
      exact hports
    · rw [cbpDone_cbp, countAttempts_cbp, signal_cbp]
      rfl
    · show portCount (cbpDone _ _ _) 6 12 = (portCount s 6 12 + 1) % 2 ^ 64
      rw [portCount_cbpDone, portCount_countAttempts, portCount_signal,
        portCount_portStat_same (twf_portStat _ _ _ (s := emit _ _) hwide), portCount_portStat_other (by decide),
        portCount_emit]
  · intro hbad
    refine ⟨_, exec_transmitEnd_bus s, ?_⟩
    rw [cbpEnd_spoiled hs hf hbad]
    exact ⟨cbpDone_out _ _ _, cbpDone_sending _ _ hports,
      (portCount_cbpDone _ _ _ 6 19).trans (portCount_portStat_same (s := emit _ _) hwide)⟩

end Sys2Proof.Machine

/-! SUPPORT. A port's command rows: what they read is as it was before acceptance (R163), the rate of an accepted ENABLE counts
as reserved (R114), and the tick a gate list is armed for (R407); O44. -/
namespace Sys2Proof.Machine

/-! ### An accepted row (R163) -/

theorem pcsPlain (p : Fin 6) : PlainPage (pgPcs p.val) := by
  revert p
  unfold PlainPage
  decide

theorem macPlain (p : Fin 6) : PlainPage (pgMac p.val) := by
  revert p
  unfold PlainPage
  decide

section
variable {s : State} {page code : Nat} {via : Master} {seq : Byte} {a0 a1 a2 : Word}

theorem begun_kept (hw : twf regDflt s.regs = true) (hp : PlainPage page) :
    RegsKept s (begun s page code via seq a0 a1 a2) (CmdWord page) := begun_rd_other hw hp

theorem begun_getPort (hw : twf regDflt s.regs = true) (hp : PlainPage page) (q : Nat) :
    getPort (begun s page code via seq a0 a1 a2) q = getPort s q :=
  getPort_congr (congrArg State.ports (begun_frame (code := code) (via := via) (seq := seq) (a0 := a0) (a1 := a1)
    (a2 := a2) hw hp) : _) q

theorem begun_tck (hw : twf regDflt s.regs = true) (hp : PlainPage page) :
    (begun s page code via seq a0 a1 a2).tck = s.tck :=
  (congrArg State.tck (begun_frame (code := code) (via := via) (seq := seq) (a0 := a0) (a1 := a1) (a2 := a2) hw hp) : _)

/-- A row that ends with OK, having brought a port to `x`. -/
theorem begun_putPort_ended (hwf : Memory.wf s = true) (hp : PlainPage page) (hr : PageReady s page via)
    (hv : Manages via) (hc : code < 256) (p : Nat) (x : PortUnit) :
    let t := endCmd (putPort (begun s page code via seq a0 a1 a2) p x) page stOK
    CmdEnded s t page code seq.toNat stOK (a0, a1, a2) (0, 0, 0) ∧ getPort t p = x
      ∧ { t with regs := s.regs, running := s.running, ports := s.ports } = s := by
  have hw := Memory.wf_regs hwf
  have hbegun := begun_frame (code := code) (via := via) (seq := seq) (a0 := a0) (a1 := a1) (a2 := a2) hw hp
  have hframe := begun_ended_frame (v := putPort (begun s page code via seq a0 a1 a2) p x) (st := 0) (o0 := 0) (o1 := 0)
    (o2 := 0) hw hp hr.2 (.inl rfl) (by rcases hv with rfl | rfl <;> decide) rfl
  have hput : { putPort (begun s page code via seq a0 a1 a2) p x with regs := s.regs, running := s.running }
      = putPort s p x := congrArg (putPort · p x) hbegun
  rw [hput] at hframe
  have hports : (endCmd (putPort (begun s page code via seq a0 a1 a2) p x) page stOK).ports = (putPort s p x).ports :=
    (congrArg State.ports hframe :)
  exact ⟨begun_ended hw hp hr.2 hc (.inl rfl) rfl rfl,
    (getPort_congr hports p).trans (getPort_putPort_same p x (Memory.wf_iff.1 hwf).ports),
    congrArg (fun u : State => { u with running := s.running, ports := s.ports }) hframe⟩

/-- A row that ends with BAD_ARG tells why, and leaves every port. -/
theorem begun_badArg (hw : twf regDflt s.regs = true) (hp : PlainPage page) (hr : PageReady s page via) (hc : code < 256)
    (o0 o1 o2 : Word) :
    let t := finishCmd (begun s page code via seq a0 a1 a2) page stBAD_ARG o0 o1 o2
    runningOn t page = none ∧ t.ports = s.ports
      ∧ rd t (page + Reg.CMD_RESULT) = w32 (1 + 256 * stBAD_ARG + 65536 * code + 2 ^ 24 * seq.toNat)
      ∧ rd t (page + Reg.CMD_OUT) = o0 ∧ rd t (page + Reg.CMD_OUT + 4) = o1 := by
  have hclear : rd (begun s page code via seq a0 a1 a2) (page + Reg.CMD_RESULT) &&& 2 = 0 := by
    rw [begun_result hw hp, acceptedResult_and_two]
  obtain ⟨hres, h0, h1, -⟩ := finishCmd_result (st := stBAD_ARG) o0 o1 o2 (begun_twf hw hp) (begun_runningOn hw hp hr.2) hclear
  have hports := congrArg State.ports
    (begun_frame (code := code) (via := via) (seq := seq) (a0 := a0) (a1 := a1) (a2 := a2) hw hp)
  rw [Nat.mod_eq_of_lt hc, Nat.mod_eq_of_lt seq.isLt] at hres
  exact ⟨finishCmd_idle _ _ _ _ _ _, (finishCmd_ports _ _ _ _ _ _).trans hports, hres, h0, h1⟩

end

/-! ### What ENABLE checks (R384) -/

section
variable {s t : State} {p : Nat}

/-- The command registers of a PCS page lie above every MAC page, and below the windows. -/
theorem RegsKept.below (h : RegsKept s t (CmdWord (pgPcs p))) {a : Nat} (ha : a < pgPcs 0) : rd t a = rd s a :=
  h a (by simp only [CmdWord, pgPcs, Reg.CMD_ARG, Reg.CMD_OUT] at ha ⊢; omega)

theorem RegsKept.window (h : RegsKept s t (CmdWord (pgPcs p))) (hp : p < 6) {a : Nat} (ha : winQueue ≤ a) :
    rd t a = rd s a :=
  h a (by simp only [CmdWord, pgPcs, winQueue, Reg.CMD_ARG, Reg.CMD_OUT] at ha ⊢; omega)

/-- A PCS page's own words above the command registers. -/
theorem RegsKept.pcs (h : RegsKept s t (CmdWord (pgPcs p))) (q : Nat) {o : Nat} (ho : 0x100 ≤ o ∧ o < 0x1000) :
    rd t (pgPcs q + o) = rd s (pgPcs q + o) :=
  h _ (by simp only [CmdWord, pgPcs, Reg.CMD_ARG, Reg.CMD_OUT]; omega)

theorem pf0Rx_congr {n : Nat} (h : ∀ a, winQueue ≤ a → rd t a = rd s a) : pf0Rx t n = pf0Rx s n := by
  have hrec : ∀ k, recWord t n k = recWord s n k := fun k => h _ (by omega)
  simp only [pf0Rx, validRx, recValid, recRx, recOwner, hrec]

theorem fcClasses_lt {c : Nat} (h : c ∈ fcClasses s p) : c < 8 := by
  unfold fcClasses at h
  dsimp only at h
  split at h
  · simp at h; omega
  · split at h
    · exact List.mem_range.1 (List.mem_filter.1 h).1
    · simp at h

theorem find?_congr_mem {α : Type} {f g : α → Bool} : ∀ {l : List α}, (∀ x ∈ l, f x = g x) → l.find? f = l.find? g
  | [], _ => rfl
  | x :: l, h => by
    rw [List.find?_cons, List.find?_cons, h x List.mem_cons_self,
      find?_congr_mem fun y hy => h y (List.mem_cons_of_mem _ hy)]

/-- ENABLE checks the words it was accepted on. -/
theorem pcsCheck_kept (h : RegsKept s t (CmdWord (pgPcs p))) (htck : t.tck = s.tck) (hp : p < 6) :
    pcsCheck t p = pcsCheck s p := by
  have hmac : ∀ {o}, o < 0x1000 → rd t (pgMac p + o) = rd s (pgMac p + o) := fun ho =>
    h.below (by simp only [pgMac, pgPcs]; omega)
  have hfc := hmac (o := Reg.MAC_FC) (by decide)
  have hT : t.T = s.T := by rw [State.T, htck, State.T]
  have hclasses : fcClasses t p = fcClasses s p := by simp only [fcClasses, hfc]
  have hmin : ∀ r, headroomMin t p r = headroomMin s p r := fun r => by
    simp only [headroomMin, hT, hmac (o := Reg.MAC_MAX_FRAME) (by decide), hmac (o := Reg.MAC_PFC_DELAY) (by decide)]
  have hclass : ∀ c, c < 8 → xoffOf t p c = xoffOf s p c ∧ xonOf t p c = xonOf s p c
      ∧ headroomOf t p c = headroomOf s p c := fun c hc => by
    have hword : ∀ o, o < 0x200 → rd t (pgMac p + o + 16 * c) = rd s (pgMac p + o + 16 * c) := fun o ho =>
      h.below (by simp only [pgMac, pgPcs]; omega)
    simp only [xoffOf, xonOf, headroomOf, hword Reg.MAC_XOFF (by decide), hword Reg.MAC_XON (by decide),
      hword Reg.MAC_HEADROOM (by decide), and_self]
  have hfind : ∀ m, (fcClasses s p).find? (fun c => decide (xoffOf t p c ≤ xonOf t p c ∨ headroomOf t p c < m))
      = (fcClasses s p).find? (fun c => decide (xoffOf s p c ≤ xonOf s p c ∨ headroomOf s p c < m)) := fun m =>
    find?_congr_mem fun c hc => by
      obtain ⟨hoff, hon, hroom⟩ := hclass c (fcClasses_lt hc)
      rw [hoff, hon, hroom]
  have hbad : badPass t p = badPass s p := by simp only [badPass, hmac (o := Reg.MAC_RX_CTL) (by decide)]
  have hrx : ∀ n, pf0Rx t n = pf0Rx s n := fun n => pf0Rx_congr (fun a ha => h.window hp ha)
  simp only [pcsCheck, h.pcs p (o := Reg.PCS_MODE) (by decide), h.pcs p (o := Reg.PCS_LANE_MAP) (by decide), hfc,
    hmac (o := Reg.MAC_MAX_FRAME) (by decide), hmac (o := Reg.MAC_PFC_REFRESH) (by decide),
    hmac (o := Reg.MAC_PFC_QUANTA) (by decide), hmac (o := Reg.MAC_BAD_Q) (by decide), hT, hclasses, hmin, hfind, hbad, hrx]
  cases hc : (fcClasses s p).find? (fun c => decide (xoffOf s p c ≤ xonOf s p c
      ∨ headroomOf s p c < headroomMin s p (modeRate (fld (rd s (pgPcs p + Reg.PCS_MODE)) 3 0)))) with
  | none => rfl
  | some c =>
    obtain ⟨hoff, hon, -⟩ := hclass c (fcClasses_lt (List.mem_of_find?_eq_some hc))
    simp only [hoff, hon]

/-! ### The rates of the ports (R113, R114) -/

theorem portMode_kept (h : RegsKept s t (CmdWord (pgPcs p))) (q : Nat) : portMode t q = portMode s q := by
  simp only [portMode, h.pcs q (o := Reg.PCS_MODE) (by decide)]

/-- What port q adds to the rates of the ports whose ENABLE waits. -/
def enablingPart (s : State) (q : Nat) : Nat :=
  match runningOn s (pgPcs q) with
  | some c => if c.code = 1 ∧ !(getPort s q).enabled then modeRate (portMode s q) else 0
  | none => 0

theorem foldl_add_eq_sum {α : Type} (f : α → Nat) (l : List α) : l.foldl (fun a x => a + f x) 0 = (l.map f).sum := by
  rw [List.sum_eq_foldl, List.foldl_map]

theorem sum_map_add {α : Type} (f g : α → Nat) (l : List α) :
    (l.map (fun x => f x + g x)).sum = (l.map f).sum + (l.map g).sum := by
  induction l with
  | nil => rfl
  | cons x l ih =>
    rw [List.map_cons, List.map_cons, List.map_cons, List.sum_cons, List.sum_cons, List.sum_cons, ih]
    omega

theorem enablingRate_eq (s : State) : enablingRate s = ((List.range 6).map (enablingPart s)).sum := by
  have hstep : (fun (a q : Nat) => match runningOn s (pgPcs q) with
      | some c => if c.code = 1 ∧ !(getPort s q).enabled then a + modeRate (portMode s q) else a
      | none => a) = fun a q => a + enablingPart s q := by
    funext a q
    unfold enablingPart
    split
    · split <;> rfl
    · rfl
  rw [← foldl_add_eq_sum, ← hstep]
  rfl

end

theorem pgPcs_ne {p q : Nat} (h : q ≠ p) : pgPcs p ≠ pgPcs q := by
  simp only [pgPcs]
  omega

theorem sum_indicator {p : Nat} (hp : p < 6) (r : Nat) : ((List.range 6).map (fun q => if q = p then r else 0)).sum = r := by
  have hcases : p = 0 ∨ p = 1 ∨ p = 2 ∨ p = 3 ∨ p = 4 ∨ p = 5 := by omega
  have hrange : List.range 6 = [0, 1, 2, 3, 4, 5] := rfl
  rw [hrange]
  rcases hcases with rfl | rfl | rfl | rfl | rfl | rfl <;>
    simp only [List.map_cons, List.map_nil, List.sum_cons, List.sum_nil, Nat.reduceEqDiff, reduceIte, Nat.add_zero,
      Nat.zero_add]

/-- State u is state s with ENABLE of the disabled port p accepted. -/
structure EnableAccepted (s u : State) (p : Nat) (c : RunCmd) : Prop where
  kept : RegsKept s u (CmdWord (pgPcs p))
  frame : { u with regs := s.regs, running := s.running } = s
  running : u.running = s.running ++ [c]
  page : c.page = pgPcs p
  code : c.code = 1
  idle : runningOn s (pgPcs p) = none
  off : (getPort s p).enabled = false

section
variable {s u : State} {p : Nat} {c : RunCmd}

theorem EnableAccepted.getPort (h : EnableAccepted s u p c) (q : Nat) : getPort u q = Machine.getPort s q :=
  getPort_congr (congrArg State.ports h.frame :) q

theorem EnableAccepted.runningOn_same (h : EnableAccepted s u p c) : runningOn u (pgPcs p) = some c := by
  rw [runningOn, h.running]
  exact find_append_one _ _ _ h.idle (by simp [h.page])

theorem EnableAccepted.runningOn_other (h : EnableAccepted s u p c) {q : Nat} (hq : q ≠ p) :
    runningOn u (pgPcs q) = runningOn s (pgPcs q) := by
  have hpage : (c.page == pgPcs q) = false := by
    rw [h.page]
    exact beq_false_of_ne (pgPcs_ne hq)
  rw [runningOn, h.running, List.find?_append, List.find?_singleton, hpage, runningOn]
  exact Option.or_none

/-- An accepted ENABLE adds its own rate to those that wait. -/
theorem EnableAccepted.part (h : EnableAccepted s u p c) (q : Nat) :
    enablingPart u q = enablingPart s q + if q = p then modeRate (portMode s p) else 0 := by
  by_cases hq : q = p
  · subst hq
    simp [enablingPart, h.runningOn_same, h.idle, h.code, h.getPort, h.off, portMode_kept h.kept]
  · simp only [enablingPart, h.runningOn_other hq, portMode_kept h.kept, h.getPort, if_neg hq, Nat.add_zero]

theorem EnableAccepted.enablingRate (h : EnableAccepted s u p c) (hp : p < 6) :
    enablingRate u = Machine.enablingRate s + modeRate (portMode s p) := by
  rw [enablingRate_eq, enablingRate_eq, funext h.part, sum_map_add, sum_indicator hp]

/-- The plan has room for an accepted ENABLE if it has room for the port's rate beside what was reserved. -/
theorem EnableAccepted.overReserve (h : EnableAccepted s u p c) (hp : p < 6) :
    overReserve u 0 = Machine.overReserve s (modeRate (portMode s p)) := by
  have htck : u.tck = s.tck := (congrArg State.tck h.frame :)
  have hcbp : u.cbp = s.cbp := (congrArg State.cbp h.frame :)
  have hsum : rateSum u = rateSum s := by
    simp only [rateSum, h.getPort, portMode_kept h.kept, hcbp]
  simp only [Machine.overReserve, h.enablingRate hp, hsum, netReserveOf, State.T, activePlanBank, shadowBank, htck,
    Nat.add_zero, Nat.add_assoc]

end

/-! ### Gate lists (R405 to R408) -/

theorem firstIdx_none {α : Type} {f : α → Bool} : ∀ {l : List α} (i : Nat), (∀ x ∈ l, f x = false) → firstIdx f l i = none
  | [], _, _ => rfl
  | x :: l, i, h => by
    rw [firstIdx, h x (List.mem_cons_self ..)]
    exact firstIdx_none (i + 1) fun y hy => h y (List.mem_cons_of_mem _ hy)

/-- A list with entries, none of zero ticks, has a cycle. -/
theorem gclCycle_pos {l : List Word} (hne : l ≠ []) (h : ∀ e ∈ l, gateTicks e ≠ 0) : 0 < gclCycle l := by
  obtain ⟨e, l, rfl⟩ := List.exists_cons_of_ne_nil hne
  have := h e (List.mem_cons_self ..)
  rw [gclCycle, foldl_add_eq_sum, List.map_cons, List.sum_cons]
  omega

/-- The tick GCL_ARM takes (R407): after the fourth next of tick t, whole cycles c after base b. -/
def armTick (t b c : Nat) : Nat := if t + 4 < b then b else b + ((t + 4 - b) / c + 1) * c

/-- It is the base if that lies later, else the first tick of its kind. -/
theorem armTick_spec (t b : Nat) {c : Nat} (hc : 0 < c) :
    ∃ k, t + 4 < armTick t b c ∧ armTick t b c = b + k * c ∧ (k ≠ 0 → armTick t b c ≤ t + 4 + c) := by
  unfold armTick
  split
  next h => exact ⟨0, h, by rw [Nat.zero_mul, Nat.add_zero], fun h0 => absurd rfl h0⟩
  next h =>
    have hdiv : (t + 4 - b) / c * c + (t + 4 - b) % c = t + 4 - b := Nat.div_add_mod' _ _
    have hmod := Nat.mod_lt (t + 4 - b) hc
    have hmul : ((t + 4 - b) / c + 1) * c = (t + 4 - b) / c * c + c := Nat.succ_mul _ _
    exact ⟨_, by omega, rfl, fun _ => by omega⟩

section
variable {s t : State} {p : Fin 6}

theorem RegsKept.gates (h : RegsKept s t (CmdWord (pgMac p.val))) (i : Nat) : rd t (gclKey p.val i) = rd s (gclKey p.val i) :=
  h _ (by simp only [CmdWord, pgMac, gclKey, Reg.CMD_ARG, Reg.CMD_OUT]; omega)

theorem RegsKept.mac (h : RegsKept s t (CmdWord (pgMac p.val))) {o : Nat} (ho : 0x100 ≤ o) :
    rd t (pgMac p.val + o) = rd s (pgMac p.val + o) :=
  h _ (by simp only [CmdWord, pgMac, Reg.CMD_ARG, Reg.CMD_OUT]; omega)

theorem adminList_kept (h : RegsKept s t (CmdWord (pgMac p.val))) : adminList t p.val = adminList s p.val := by
  simp only [adminList, h.mac (o := Reg.MAC_GCL_COUNT) (by decide), h.gates]

/-- The base of a gate list (R407). -/
def gclBase (s : State) (p : Nat) : Nat :=
  (rd s (pgMac p + Reg.MAC_GCL_BASE_LO)).toNat + 2 ^ 32 * (rd s (pgMac p + Reg.MAC_GCL_BASE_HI)).toNat

/-- A port with the admin list of state s armed for tick a. -/
def portArmed (s : State) (p a : Nat) : PortUnit := { getPort s p with armed := adminList s p, armA := a }

/-- GCL_ARM of a sound list, on the words it was accepted on. -/
theorem specGclArm_arms (c : RunCmd) (h : RegsKept s t (CmdWord (pgMac p.val))) (hport : getPort t p.val = getPort s p.val)
    (htck : t.tck = s.tck) (hnone : (getPort s p.val).armed = [])
    (hlo : 1 ≤ fld (rd s (pgMac p.val + Reg.MAC_GCL_COUNT)) 8 0)
    (hhi : fld (rd s (pgMac p.val + Reg.MAC_GCL_COUNT)) 8 0 ≤ 256)
    (hsound : ∀ e ∈ adminList s p.val, gateTicks e ≠ 0 ∧ fld e 31 24 = 0) :
    (specGclArm p.val).body c t = endCmd (putPort t p.val
      (portArmed s p.val (armTick s.tck.tick (gclBase s p.val) (gclCycle (adminList s p.val))))) (pgMac p.val) stOK := by
  have hcount : ¬(fld (rd s (pgMac p.val + Reg.MAC_GCL_COUNT)) 8 0 = 0
      ∨ 256 < fld (rd s (pgMac p.val + Reg.MAC_GCL_COUNT)) 8 0) := by omega
  have hfirst : firstIdx (fun e => gateTicks e == 0 || fld e 31 24 != 0) (adminList s p.val) 0 = none :=
    firstIdx_none 0 fun e he => by simp [hsound e he]
  simp only [specGclArm, hport, adminList_kept h, h.mac (o := Reg.MAC_GCL_COUNT) (by decide),
    h.mac (o := Reg.MAC_GCL_BASE_LO) (by decide), h.mac (o := Reg.MAC_GCL_BASE_HI) (by decide), htck, hnone,
    List.isEmpty_nil, Bool.not_true, Bool.false_eq_true, if_false, hcount, hfirst]
  rfl

end

/-! ### The rows -/

/-- A row of a manager's on a page that is ready, outside recovery. -/
structure RowReady (s : State) (page : Nat) (via : Master) : Prop where
  sound : Memory.wf s = true
  plain : PlainPage page
  ready : PageReady s page via
  manages : Manages via
  phase : s.power.phase ≠ .recovery

section
variable {s : State} {p : Fin 6} {via : Master} (seq : Byte)

theorem RowReady.regs {page : Nat} (h : RowReady s page via) : twf regDflt s.regs = true := Memory.wf_regs h.sound

/-- Such a row runs its body on the accepting state. -/
theorem RowReady.body {page code : Nat} {a0 a1 a2 : Word} {spec : CmdSpec} (h : RowReady s page via)
    (hrole : spec.role = Master.isGlobal) (hphases : spec.phases = linkPhases) :
    commandRow spec page code via seq a0 a1 a2 s
      = spec.body ⟨page, code, seq.toNat, via, a0, a1, a2⟩ (begun s page code via seq a0 a1 a2) :=
  commandRow_accepted h.regs h.plain h.ready (hrole ▸ h.manages.isGlobal)
    (by rw [hphases]; simpa [linkPhases, notRecovery] using h.phase)

theorem exec_pcsEnable_waits (h : RowReady s (pgPcs p.val) via) (hoff : (getPort s p.val).enabled = false)
    (hcheck : pcsCheck s p.val = none) (hroom : overReserve s (modeRate (portMode s p.val)) = false) :
    exec (.pcsEnable p via seq) s = .next (begun s (pgPcs p.val) 1 via seq 0 0 0) := by
  have hkept := begun_kept (code := 1) (via := via) (seq := seq) (a0 := 0) (a1 := 0) (a2 := 0) h.regs h.plain
  have haccept : EnableAccepted s (begun s (pgPcs p.val) 1 via seq 0 0 0) p.val _ :=
    ⟨hkept, begun_frame h.regs h.plain, begun_running h.regs h.plain, rfl, rfl, h.ready.2, hoff⟩
  refine congrArg Host.Outcome.next ((h.body seq rfl rfl).trans ?_)
  simp only [specPcsEnable, haccept.getPort, hoff, pcsCheck_kept hkept (begun_tck h.regs h.plain) p.isLt, hcheck,
    haccept.overReserve p.isLt, hroom, Bool.false_eq_true, if_false]

theorem exec_pcsEnable_badArg (h : RowReady s (pgPcs p.val) via) (hoff : (getPort s p.val).enabled = false) {o m : Nat}
    (hcheck : pcsCheck s p.val = some (o, m)) : exec (.pcsEnable p via seq) s
      = .next (finishCmd (begun s (pgPcs p.val) 1 via seq 0 0 0) (pgPcs p.val) stBAD_ARG (w32 o) (w32 m) 0) := by
  have hkept := begun_kept (code := 1) (via := via) (seq := seq) (a0 := 0) (a1 := 0) (a2 := 0) h.regs h.plain
  refine congrArg Host.Outcome.next ((h.body seq rfl rfl).trans ?_)
  simp only [specPcsEnable, begun_getPort h.regs h.plain, hoff,
    pcsCheck_kept hkept (begun_tck h.regs h.plain) p.isLt, hcheck, Bool.false_eq_true, if_false]

theorem exec_pcsDisable_waits (h : RowReady s (pgPcs p.val) via) (hon : (getPort s p.val).enabled = true) :
    exec (.pcsDisable p via seq) s = .next (begun s (pgPcs p.val) 2 via seq 0 0 0) := by
  refine congrArg Host.Outcome.next ((h.body seq rfl rfl).trans ?_)
  simp only [specPcsDisable, begun_getPort h.regs h.plain, hon, if_true]

theorem exec_retrain (h : RowReady s (pgPcs p.val) via) (hon : (getPort s p.val).enabled = true)
    (htrain : fbit (rd s (pgPcs p.val + Reg.PCS_MODE)) 5 = true) : exec (.retrain p via seq) s
      = .next (endCmd (putPort (begun s (pgPcs p.val) 3 via seq 0 0 0) p.val { getPort s p.val with training := true })
          (pgPcs p.val) stOK) := by
  have hkept := begun_kept (code := 3) (via := via) (seq := seq) (a0 := 0) (a1 := 0) (a2 := 0) h.regs h.plain
  refine congrArg Host.Outcome.next ((h.body seq rfl rfl).trans ?_)
  simp only [specRetrain, begun_getPort h.regs h.plain, hon, hkept.pcs p.val (o := Reg.PCS_MODE) (by decide), htrain,
    Bool.not_true, Bool.or_self, Bool.false_eq_true, if_false]

theorem exec_gclArm (h : RowReady s (pgMac p.val) via) (hnone : (getPort s p.val).armed = [])
    (hlo : 1 ≤ fld (rd s (pgMac p.val + Reg.MAC_GCL_COUNT)) 8 0)
    (hhi : fld (rd s (pgMac p.val + Reg.MAC_GCL_COUNT)) 8 0 ≤ 256)
    (hsound : ∀ e ∈ adminList s p.val, gateTicks e ≠ 0 ∧ fld e 31 24 = 0) : exec (.gclArm p via seq) s
      = .next (endCmd (putPort (begun s (pgMac p.val) 1 via seq 0 0 0) p.val
          (portArmed s p.val (armTick s.tck.tick (gclBase s p.val) (gclCycle (adminList s p.val))))) (pgMac p.val) stOK) :=
  congrArg Host.Outcome.next ((h.body seq rfl rfl).trans (specGclArm_arms _ (begun_kept h.regs h.plain)
    (begun_getPort h.regs h.plain _) (begun_tck h.regs h.plain) hnone hlo hhi hsound))

theorem exec_gclDisarm (h : RowReady s (pgMac p.val) via) (harmed : (getPort s p.val).armed ≠ []) :
    exec (.gclDisarm p via seq) s
      = .next (endCmd (putPort (begun s (pgMac p.val) 2 via seq 0 0 0) p.val { getPort s p.val with armed := [] })
          (pgMac p.val) stOK) := by
  refine congrArg Host.Outcome.next ((h.body seq rfl rfl).trans ?_)
  simp only [specGclDisarm, begun_getPort h.regs h.plain, List.isEmpty_eq_false_iff.2 harmed, Bool.false_eq_true, if_false]

theorem exec_gclOff (h : RowReady s (pgMac p.val) via) : exec (.gclOff p via seq) s
    = .next (putPort (begun s (pgMac p.val) 3 via seq 0 0 0) p.val { getPort s p.val with gclOff := true }) := by
  refine congrArg Host.Outcome.next ((h.body seq rfl rfl).trans ?_)
  simp only [specGclOff, begun_getPort h.regs h.plain]

end

theorem adminList_ne_nil {s : State} {p : Nat} (h : 1 ≤ fld (rd s (pgMac p + Reg.MAC_GCL_COUNT)) 8 0) :
    adminList s p ≠ [] := by
  rw [adminList, ne_eq, List.map_eq_nil_iff, List.range_eq_nil]
  omega

/-- MAC_GCL_POS shows the entry of the tick in progress (R408). -/
theorem gatePosition_some {s : State} {p k r : Nat} {e : Word}
    (h : gateAt (getPort s p).oper 0 (gclPos (getPort s p) s.tck.tick) = some (k, e, r)) :
    gatePosition s p = wr s (pgMac p + Reg.MAC_GCL_POS) (w32 (k + 256 * gclPos (getPort s p) s.tck.tick)) := by
  have hoper : (getPort s p).oper.isEmpty = false := by
    cases hlist : (getPort s p).oper with
    | nil => rw [hlist] at h; cases h
    | cons e l => rfl
  simp only [gatePosition, hoper, Bool.false_eq_true, if_false, h]

/-- Settles O44: the rows wait (`begun_runs`), end with OK on a changed port (`begun_putPort_ended`) or end with BAD_ARG
(`begun_badArg`), for what they read is as it was before acceptance. -/
theorem portCommands : Obligations.PortCommands := by
  intro s p via seq hwf
  have hw := Memory.wf_regs hwf
  have hpcs := pcsPlain p
  have hmac := macPlain p
  refine ⟨fun hv hph => ⟨fun hr => ?_, fun hr => ?_⟩, fun harmed hdue => ?_, fun hearly => ?_, fun k e r hgate => ?_⟩
  · have h : RowReady s (pgPcs p.val) via := ⟨hwf, hpcs, hr, hv, hph⟩
    refine ⟨fun hoff hcheck hroom => ?_, fun o m hoff hcheck => ?_, fun hon => ⟨?_, fun htrain => ?_⟩⟩
    · exact ⟨_, exec_pcsEnable_waits seq h hoff hcheck hroom, begun_runs hw hpcs hr.2 (by decide), begun_frame hw hpcs⟩
    · exact ⟨_, exec_pcsEnable_badArg seq h hoff hcheck, begun_badArg hw hpcs hr (by decide) _ _ _⟩
    · exact ⟨_, exec_pcsDisable_waits seq h hon, begun_runs hw hpcs hr.2 (by decide), begun_frame hw hpcs⟩
    · exact ⟨_, exec_retrain seq h hon htrain, begun_putPort_ended hwf hpcs hr hv (by decide) _ _⟩
  · have h : RowReady s (pgMac p.val) via := ⟨hwf, hmac, hr, hv, hph⟩
    refine ⟨fun hnone hlo hhi hsound => ?_, fun harmed => ?_, ?_⟩
    · obtain ⟨k, hlate, hwhole, hfirst⟩ := armTick_spec s.tck.tick (gclBase s p.val)
        (gclCycle_pos (adminList_ne_nil hlo) fun e he => (hsound e he).1)
      obtain ⟨hended, hport, hframe⟩ := begun_putPort_ended (code := 1) (seq := seq) (a0 := 0) (a1 := 0) (a2 := 0) hwf hmac
        hr hv (by decide) p.val
        (portArmed s p.val (armTick s.tck.tick (gclBase s p.val) (gclCycle (adminList s p.val))))
      exact ⟨_, _, k, exec_gclArm seq h hnone hlo hhi hsound, hended, hport, hlate, hwhole, hfirst, hframe⟩
    · exact ⟨_, exec_gclDisarm seq h harmed, begun_putPort_ended hwf hmac hr hv (by decide) _ _⟩
    · have hframe := begun_frame (code := 3) (via := via) (seq := seq) (a0 := 0) (a1 := 0) (a2 := 0) hw hmac
      have hports : (begun s (pgMac p.val) 3 via seq 0 0 0).ports = s.ports := (congrArg State.ports hframe :)
      exact ⟨_, exec_gclOff seq h, begun_runs hw hmac hr.2 (by decide),
        getPort_putPort_same _ _ (by rw [hports]; exact (Memory.wf_iff.1 hwf).ports),
        congrArg (fun u : State => { u with ports := s.ports }) hframe⟩
  · exact congrArg Host.Outcome.next (if_pos (by simp [harmed, hdue]))
  · exact congrArg Host.Outcome.next (if_neg (by simp [hearly]))
  · exact congrArg Host.Outcome.next (gatePosition_some hgate)

end Sys2Proof.Machine

/-! SUPPORT. A frame received bad without uncorrectable codewords, on a port whose count of them stands at 2^64; O45. -/
namespace Sys2Proof.Machine

/-- P1, enabled and with its link up, whose counter of uncorrectable codewords (R379) stands at 2^64. `bumpWide` never
leaves a counter so high, but the stores are in canonical form, and O45 supposes no more of the state. -/
def overfullCount : State :=
  { State.reset with
    wide := [(pgPcs 1 + Reg.PCS_FEC_UNCORR_LO, 2 ^ 64)]
    ports := [(1, { PortUnit.reset with enabled := true, linkUp := true })] }

/-- A frame too short to be good (R389). -/
def shortFrame : List Byte := List.replicate 18 0

/-- Its reception, with no uncorrectable codeword, leaves the counter as it is: it is not reduced modulo 2^64. -/
theorem overfullCount_kept :
    rdWide (receiveBytes overfullCount 1 true 0 true shortFrame (some RxEnd.clean)) (pgPcs 1 + Reg.PCS_FEC_UNCORR_LO)
      = 2 ^ 64 := by
  decide +kernel

/-- Refutes O45: a bad frame without uncorrectable codewords leaves their counter, but the statement claims it to be
reduced modulo 2^64, which a counter at 2^64 (`overfullCount`) tells apart. -/
theorem not_linkAndReception : ¬ Obligations.LinkAndReception := by
  unfold Obligations.LinkAndReception
  intro h
  obtain ⟨-, -, hreceive, -⟩ := h overfullCount 1 (by decide)
  obtain ⟨-, -, hbad⟩ := hreceive true 0 shortFrame (by decide) (by decide) (by decide) (by decide) (by decide) (by decide)
    (by decide)
  obtain ⟨t, ht, hcount, -⟩ := hbad RxEnd.clean (by decide) (by decide +kernel) (by decide)
  obtain rfl : receiveBytes overfullCount 1 true 0 true shortFrame (some RxEnd.clean) = t := Host.Outcome.next.inj ht
  have hreduced : (rdWide overfullCount (pgPcs 1 + Reg.PCS_FEC_UNCORR_LO) + 0) % 2 ^ 64 = 0 := by decide
  exact absurd (overfullCount_kept.symm.trans (hcount.trans hreduced)) (by decide)

end Sys2Proof.Machine

/-! SUPPORT. Port P6: what ENABLE checks is as it was before acceptance, a frame received stays in hand until its window
is queued, and what a collision, a discard and a turn of PLCA leave of the state; O51. -/
namespace Sys2Proof.Machine

/-! ### Commands (R421, R422, R433) -/

theorem cbpPlain : PlainPage pgCbp := ⟨by decide, by decide⟩

section
variable {s t : State}

/-- The CBP page's own words above its command registers. -/
theorem RegsKept.bus (h : RegsKept s t (CmdWord pgCbp)) {o : Nat} (ho : 0x100 ≤ o) : rd t (pgCbp + o) = rd s (pgCbp + o) :=
  h _ (by simp only [CmdWord, pgCbp, Reg.CMD_ARG, Reg.CMD_OUT]; omega)

/-- The PCS pages and the windows lie above the CBP page. -/
theorem RegsKept.aboveBus (h : RegsKept s t (CmdWord pgCbp)) {a : Nat} (ha : pgPcs 0 ≤ a) : rd t a = rd s a :=
  h a (by simp only [CmdWord, pgCbp, pgPcs, Reg.CMD_ARG, Reg.CMD_OUT] at ha ⊢; omega)

/-- ENABLE checks the words it was accepted on. -/
theorem cbpCheck_kept (h : RegsKept s t (CmdWord pgCbp)) : cbpCheck t = cbpCheck s := by
  have hmax : maxFrame t 6 = maxFrame s 6 := congrArg (fld · 11 0) (h.bus (o := Reg.CBP_MAX_FRAME) (by decide))
  have hplca : rd t (pgCbp + Reg.CBP_PLCA) = rd s (pgCbp + Reg.CBP_PLCA) := h.bus (by decide)
  have hmode : rd t (pgCbp + Reg.CBP_MODE) = rd s (pgCbp + Reg.CBP_MODE) := h.bus (by decide)
  have hrx : pf0Rx t = pf0Rx s := funext fun n =>
    pf0Rx_congr fun a ha => h.aboveBus (Nat.le_trans (by decide) ha)
  unfold cbpCheck cbpPlcaEn cbpNodes cbpNode
  rw [hmax, hplca, hmode, hrx, h.bus (o := Reg.CBP_RX_Q) (by decide)]

theorem portMode_keptBus (h : RegsKept s t (CmdWord pgCbp)) (q : Nat) : portMode t q = portMode s q := by
  have hmode : rd t (pgPcs q + Reg.PCS_MODE) = rd s (pgPcs q + Reg.PCS_MODE) :=
    h.aboveBus (by simp only [pgPcs]; omega)
  rw [portMode, hmode, portMode]

end

section
variable {s : State} {code : Nat} {via : Master} {seq : Byte} {a0 a1 a2 : Word}

/-- A command accepted on one page leaves every other page's. -/
theorem begun_runningOn_other {page : Nat} (hw : twf regDflt s.regs = true) (hp : PlainPage page) {q : Nat} (hq : page ≠ q) :
    runningOn (begun s page code via seq a0 a1 a2) q = runningOn s q := by
  have hpage : (page == q) = false := beq_false_of_ne hq
  rw [runningOn, begun_running hw hp, List.find?_append, List.find?_singleton, hpage, runningOn]
  exact Option.or_none

theorem begun_cbp {page : Nat} (hw : twf regDflt s.regs = true) (hp : PlainPage page) :
    (begun s page code via seq a0 a1 a2).cbp = s.cbp :=
  (congrArg State.cbp (begun_frame (code := code) (via := via) (seq := seq) (a0 := a0) (a1 := a1) (a2 := a2) hw hp) : _)

/-- A command of P6 leaves what the plan reserves for the ports (R114). -/
theorem begun_overReserve (hw : twf regDflt s.regs = true) (n : Nat) :
    overReserve (begun s pgCbp code via seq a0 a1 a2) n = overReserve s n := by
  have hmode := portMode_keptBus
    (begun_kept (code := code) (via := via) (seq := seq) (a0 := a0) (a1 := a1) (a2 := a2) hw cbpPlain)
  have hrun : ∀ q, runningOn (begun s pgCbp code via seq a0 a1 a2) (pgPcs q) = runningOn s (pgPcs q) := fun q =>
    begun_runningOn_other hw cbpPlain (by simp only [pgCbp, pgPcs]; omega)
  have hpart : enablingPart (begun s pgCbp code via seq a0 a1 a2) = enablingPart s := funext fun q => by
    simp only [enablingPart, hrun, hmode, begun_getPort hw cbpPlain]
  simp only [overReserve, enablingRate_eq, hpart, rateSum, netReserveOf, State.T, activePlanBank, shadowBank, hmode,
    begun_getPort hw cbpPlain, begun_tck hw cbpPlain, begun_cbp hw cbpPlain]

end

section
variable {s : State} {via : Master} (seq : Byte)

theorem exec_cbpEnable_waits (h : RowReady s pgCbp via) (hoff : s.cbp.enabled = false) (hcheck : cbpCheck s = none)
    (hroom : overReserve s 1 = false) : exec (.cbpEnable via seq) s = .next (begun s pgCbp 1 via seq 0 0 0) := by
  refine congrArg Host.Outcome.next ((h.body seq rfl rfl).trans ?_)
  simp only [specCbpEnable, begun_cbp h.regs h.plain, hoff, cbpCheck_kept (begun_kept h.regs h.plain), hcheck,
    begun_overReserve h.regs, hroom, Bool.false_eq_true, if_false]

theorem exec_cbpEnable_badArg (h : RowReady s pgCbp via) (hoff : s.cbp.enabled = false) {o : Nat}
    (hcheck : cbpCheck s = some o) : exec (.cbpEnable via seq) s
      = .next (finishCmd (begun s pgCbp 1 via seq 0 0 0) pgCbp stBAD_ARG (w32 o) 0 0) := by
  refine congrArg Host.Outcome.next ((h.body seq rfl rfl).trans ?_)
  simp only [specCbpEnable, begun_cbp h.regs h.plain, hoff, cbpCheck_kept (begun_kept h.regs h.plain), hcheck,
    Bool.false_eq_true, if_false]

theorem exec_cbpDisable_waits (h : RowReady s pgCbp via) (hon : s.cbp.enabled = true) :
    exec (.cbpDisable via seq) s = .next (begun s pgCbp 2 via seq 0 0 0) := by
  refine congrArg Host.Outcome.next ((h.body seq rfl rfl).trans ?_)
  simp only [specCbpDisable, begun_cbp h.regs h.plain, hon, if_true]

theorem exec_mdioRead (h : RowReady s pgCbp via) (sampled : BitVec 16) (a0 a1 a2 : Word) :
    exec (.mdioRead sampled via seq a0 a1 a2) s
      = .next (finishCmd (begun s pgCbp 3 via seq a0 a1 a2) pgCbp stOK (w32 sampled.toNat) 0 0) := by
  have hrow : exec (.mdioRead sampled via seq a0 a1 a2) s
      = .next (finishCmd (begun s pgCbp 3 via seq a0 a1 a2) pgCbp stOK (w32 (sampled.toNat % 65536)) 0 0) :=
    congrArg Host.Outcome.next (h.body (spec := specMdioRead sampled.toNat) seq rfl rfl)
  rwa [Nat.mod_eq_of_lt sampled.isLt] at hrow

theorem exec_mdioWrite (h : RowReady s pgCbp via) (a0 a1 a2 : Word) : exec (.mdioWrite via seq a0 a1 a2) s
    = .next (endCmd (emit (begun s pgCbp 4 via seq a0 a1 a2) (.mdio a0 a1 a2)) pgCbp stOK) :=
  congrArg Host.Outcome.next (h.body (spec := specMdioWrite) seq rfl rfl)

end

/-! ### Reception (R424, R425, R434) -/

/-- The bad marks of a frame received on P6, counted. -/
def countMarks (s : State) (flags : Nat) : State :=
  ([(0, 2), (1, 3), (2, 4), (3, 5), (4, 6)].filter (fun x => nbit flags x.1)).foldl (fun s x => portStat s 6 x.2 1) s

/-- Statistics counted leave every statistic that is not among them. -/
theorem portCount_foldl_portStat {p k : Nat} : ∀ {l : List (Nat × Nat)} (s : State), (∀ x ∈ l, x.2 ≠ k) →
    portCount (l.foldl (fun s x => portStat s p x.2 1) s) p k = portCount s p k
  | [], _, _ => rfl
  | x :: _, s, h => (portCount_foldl_portStat (portStat s p x.2 1) fun y hy => h y (List.mem_cons_of_mem _ hy)).trans
    (portCount_portStat_other (h x List.mem_cons_self))

theorem twf_foldl_portStat {p : Nat} : ∀ (l : List (Nat × Nat)) {s : State}, twf (fun _ => 0) s.wide = true →
    twf (fun _ => 0) (l.foldl (fun s x => portStat s p x.2 1) s).wide = true
  | [], _, h => h
  | x :: l, s, h => twf_foldl_portStat (s := portStat s p x.2 1) l (twf_portStat p x.2 1 h)

section
variable (s : State) (flags : Nat)

theorem countMarks_pipe : (countMarks s flags).pipe = s.pipe :=
  foldl_frame State.pipe (f := fun s (x : Nat × Nat) => portStat s 6 x.2 1) (fun _ _ => rfl) _ s
theorem countMarks_regs : (countMarks s flags).regs = s.regs :=
  foldl_frame State.regs (f := fun s (x : Nat × Nat) => portStat s 6 x.2 1) (fun _ _ => rfl) _ s

variable {s}

theorem twf_countMarks (hw : twf (fun _ => 0) s.wide = true) :
    twf (fun _ => 0) (countMarks s flags).wide = true := twf_foldl_portStat _ hw

theorem portCount_countMarks {k : Nat} (h : k < 2 ∨ 6 < k) : portCount (countMarks s flags) 6 k = portCount s 6 k := by
  refine portCount_foldl_portStat s fun x hx => ?_
  have hmem := (List.mem_filter.1 hx).1
  simp only [List.mem_cons, List.not_mem_nil, or_false] at hmem
  rcases hmem with rfl | rfl | rfl | rfl | rfl <;> dsimp only <;> omega

end

/-- P6 once a good frame of n bytes has been counted. -/
def busCounted (s : State) (flags n : Nat) : State :=
  signal (portStat (portStat (countMarks s flags) 6 0 n) 6 1 1) (srcEdge 0x10 6 0) 0 1

section
variable (s : State) (flags n : Nat)

theorem busCounted_pipe : (busCounted s flags n).pipe = s.pipe := by
  rw [busCounted, signal_pipe]
  exact countMarks_pipe s flags

theorem busCounted_regs : (busCounted s flags n).regs = s.regs := by
  rw [busCounted, signal_regs]
  exact countMarks_regs s flags

variable {s}

theorem twf_busCounted (hw : twf (fun _ => 0) s.wide = true) :
    twf (fun _ => 0) (busCounted s flags n).wide = true := by
  rw [busCounted, signal_wide]
  exact twf_portStat _ _ _ (twf_portStat _ _ _ (twf_countMarks flags hw))

/-- A good frame is counted in rx_frames. -/
theorem portCount_busCounted (hw : twf (fun _ => 0) s.wide = true) :
    portCount (busCounted s flags n) 6 1 = (portCount s 6 1 + 1) % 2 ^ 64 := by
  rw [busCounted, portCount_signal, portCount_portStat_same (twf_portStat _ _ _ (twf_countMarks flags hw)),
    portCount_portStat_other (by decide), portCount_countMarks flags (.inl (by decide))]

theorem portCount_busCounted_control : portCount (busCounted s flags n) 6 7 = portCount s 6 7 := by
  rw [busCounted, portCount_signal, portCount_portStat_other (by decide), portCount_portStat_other (by decide),
    portCount_countMarks flags (.inr (by decide))]

/-- A MAC control frame is counted beside, and not buffered. -/
theorem busControl_effects (hw : twf (fun _ => 0) s.wide = true) :
    let t := portStat (busCounted s flags n) 6 7 1
    t.pipe = s.pipe ∧ portCount t 6 7 = (portCount s 6 7 + 1) % 2 ^ 64 := by
  refine ⟨busCounted_pipe s flags n, ?_⟩
  rw [portCount_portStat_same (twf_busCounted flags n hw), portCount_busCounted_control]

end

/-! ### A frame in hand -/

/-- State t holds frame `id` as `f`; beside its buffered frames it has the header queue and the statistics of s. -/
structure InHand (s t : State) (id : Nat) (f : Frame) : Prop where
  frame : getFrame t id = some f
  frames : twf (fun _ => none) t.pipe.frames = true
  window : t.pipe.q0 = s.pipe.q0
  wide : t.wide = s.wide

section
variable {s t : State} {id : Nat} {f : Frame}

theorem getFrame_putFrame_same (f : Option Frame) (h : twf (fun _ => none) s.pipe.frames = true) :
    getFrame (putFrame s id f) id = f := tget_tset_same _ _ _ _ h

theorem InHand.modFrame (h : InHand s t id f) (g : Frame → Frame) : InHand s (modFrame t id g) id (g f) := by
  have hput : Machine.modFrame t id g = putFrame t id (some (g f)) := by
    simp only [Machine.modFrame, h.frame]
  rw [hput]
  exact ⟨getFrame_putFrame_same _ h.frames, twf_tset _ _ _ _ h.frames, h.window, h.wide⟩

/-- A new frame is in hand. -/
theorem newFrame_inHand (f : Frame) (h : twf (fun _ => none) s.pipe.frames = true) :
    InHand s (newFrame s f).1 (newFrame s f).2 f :=
  ⟨getFrame_putFrame_same _ h, twf_tset _ _ _ _ h, rfl, rfl⟩

/-- Cells of a frame of P6 with all of `l` received. -/
def busCells (t : State) (f : Frame) (l : List Byte) : Nat := cellsFor (Nat.min (f.data ++ l).length (maxFrame t 6))

/-- That frame. -/
def busFilled (t : State) (f : Frame) (l : List Byte) : Frame :=
  { f with data := f.data ++ l, flen := (f.data ++ l).length, cls := 0, cells := busCells t f l }

/-- Bytes of a frame of P6 that the free cells hold are stored (R58): P6 has no headroom to pass. -/
theorem InHand.rxBytes (h : InHand s t id f) (hkept : f.discard = false) (hgrow : f.grow = []) (l : List Byte)
    (hroom : busCells t f l - f.cells ≤ t.pipe.freeCells) : InHand s (rxBytes t id 6 l) id (busFilled t f l) := by
  have hhead : ∀ c more, passesHeadroom t 6 c more = false := fun c more => by simp [passesHeadroom]
  have hfull : ¬t.pipe.freeCells < cellsFor (Nat.min (f.data ++ l).length (maxFrame t 6)) - f.cells := Nat.not_lt.2 hroom
  have hstored : InHand s { t with pipe := { t.pipe with freeCells := t.pipe.freeCells - (busCells t f l - f.cells) } } id f :=
    ⟨h.frame, h.frames, h.window, h.wide⟩
  have hmod := (hstored.modFrame (fun g => { g with
    cells := busCells t f l, charges := g.grow.map (fun n => (n, busCells t f l - f.cells)) ++ g.charges })).modFrame
      (fun g => { g with data := f.data ++ l, flen := (f.data ++ l).length, cls := 0 })
  have hfilled : busFilled t f l = { f with
      data := f.data ++ l, flen := (f.data ++ l).length, cls := 0, cells := busCells t f l
      charges := f.grow.map (fun n => (n, busCells t f l - f.cells)) ++ f.charges } := by
    simp only [busFilled, hgrow, List.map_nil, List.nil_append]
  have hnodes : ∀ (u : State) (m : Nat), f.grow.foldl (fun s n => addOcc s n m) u = u := fun u m => by rw [hgrow]; rfl
  simp only [Machine.rxBytes, h.frame, hkept, hhead, hfull, hnodes, Bool.false_eq_true, if_false]
  rw [hfilled]
  exact hmod

/-- The window of a frame in use joins the header queue while that has room (R393). -/
theorem InHand.queueWindow (h : InHand s t id f) (hroom : s.pipe.q0.length < 4096) (hused : f.refs ≠ 0) (p : Nat) :
    (settleFrame (queueWindow t id p) id).pipe.q0 = s.pipe.q0 ++ [id]
      ∧ getFrame (settleFrame (queueWindow t id p) id) id = some f
      ∧ (settleFrame (queueWindow t id p) id).wide = s.wide := by
  have hqueue : Machine.queueWindow t id p = { t with pipe := { t.pipe with q0 := t.pipe.q0 ++ [id] } } :=
    if_neg (by rw [h.window]; exact Nat.not_le.2 hroom)
  have hframe : getFrame { t with pipe := { t.pipe with q0 := t.pipe.q0 ++ [id] } } id = some f := h.frame
  have hsettle : settleFrame { t with pipe := { t.pipe with q0 := t.pipe.q0 ++ [id] } } id
      = { t with pipe := { t.pipe with q0 := t.pipe.q0 ++ [id] } } := by
    simp only [settleFrame, hframe, hused, if_false]
  rw [hqueue, hsettle]
  exact ⟨congrArg (· ++ [id]) h.window, hframe, h.wide⟩

end

/-- A frame received on P6 with its end. -/
def busWhole (f : Frame) (bytes : List Byte) (flags : Nat) : Frame :=
  { f with data := bytes.take (bytes.length - 4), fcs := bytes.drop (bytes.length - 4), whole := true, flags := flags }

section
variable {s : State} {cyc : Nat} {bytes : List Byte} {code : Bool}

/-- State c with a frame of P6 stored from its first byte to its last. -/
def busStored (c : State) (cyc : Nat) (bytes : List Byte) (flags : Nat) : State :=
  modFrame (rxBytes (newFrame c (rxFrame c 6 cyc)).1 c.pipe.nextFrame 6 bytes) c.pipe.nextFrame
    (fun f => busWhole f bytes flags)

theorem busStored_inHand {c : State} {cyc flags : Nat} {bytes : List Byte} (hw : twf (fun _ => none) c.pipe.frames = true)
    (hcells : cellsFor (Nat.min bytes.length (maxFrame c 6)) ≤ c.pipe.freeCells) :
    InHand c (busStored c cyc bytes flags) c.pipe.nextFrame
      (busWhole (busFilled (newFrame c (rxFrame c 6 cyc)).1 (rxFrame c 6 cyc) bytes) bytes flags) :=
  ((newFrame_inHand (rxFrame c 6 cyc) hw).rxBytes rfl rfl bytes hcells).modFrame fun f => busWhole f bytes flags

/-- The marks of a frame received on P6 (R389). -/
abbrev busMarks (s : State) (bytes : List Byte) (code : Bool) : Nat := rxFlags bytes (maxFrame s 6) code false

/-- P6 receives a frame of 18 bytes or more while it is enabled and does not send. -/
structure BusHears (s : State) (bytes : List Byte) : Prop where
  enabled : s.cbp.enabled = true
  quiet : (getPort s 6).sending = none
  length : 18 ≤ bytes.length

theorem BusHears.bad (h : BusHears s bytes) (hbad : badFlags (busMarks s bytes code) = true) :
    exec (.p6FrameReceive cyc bytes code) s = .next (countMarks s (busMarks s bytes code)) := by
  show execP6FrameReceive cyc bytes code s = _
  simp only [execP6FrameReceive, h.enabled, h.quiet, Nat.not_lt.2 h.length, hbad, Option.isSome_none, Bool.not_true,
    Bool.or_self, decide_false, Bool.false_eq_true, if_false, if_true]
  rfl

/-- A MAC control frame is counted and discarded (R425). -/
theorem BusHears.control (h : BusHears s bytes) (hgood : badFlags (busMarks s bytes code) = false)
    (hctl : beAt bytes 12 2 = 0x8808) : exec (.p6FrameReceive cyc bytes code) s
      = .next (portStat (busCounted s (busMarks s bytes code) bytes.length) 6 7 1) := by
  show execP6FrameReceive cyc bytes code s = _
  simp only [execP6FrameReceive, h.enabled, h.quiet, Nat.not_lt.2 h.length, hgood, hctl, Option.isSome_none, Bool.not_true,
    Bool.or_self, decide_false, Bool.false_eq_true, if_false, if_true]
  rfl

/-- Such a frame, in the buffer once it is counted, and not discarded there, goes to the header queue. -/
theorem BusHears.stores (h : BusHears s bytes) (hgood : badFlags (busMarks s bytes code) = false)
    (hdata : beAt bytes 12 2 ≠ 0x8808) {c : State} {f : Frame} (hc : busCounted s (busMarks s bytes code) bytes.length = c)
    (hf : getFrame (busStored c cyc bytes (busMarks s bytes code)) c.pipe.nextFrame = some f) (hkept : f.discard = false) :
    exec (.p6FrameReceive cyc bytes code) s = .next (settleFrame (queueWindow
      (busStored c cyc bytes (busMarks s bytes code)) c.pipe.nextFrame 6) c.pipe.nextFrame) := by
  subst hc
  show execP6FrameReceive cyc bytes code s = _
  unfold busStored busCounted countMarks busWhole newFrame at hf
  simp only [execP6FrameReceive, h.enabled, h.quiet, Nat.not_lt.2 h.length, hgood, hdata, Option.isSome_none, Bool.not_true,
    Bool.or_self, decide_false, Bool.false_eq_true, if_false]
  simp only [newFrame, hf, hkept, Bool.false_eq_true, if_false]
  rfl

/-- A good frame that the buffer and the header queue have room for is queued whole (R424). -/
theorem BusHears.good (h : BusHears s bytes) (hwf : Memory.wf s = true)
    (hgood : badFlags (busMarks s bytes code) = false) (hdata : beAt bytes 12 2 ≠ 0x8808)
    (hcells : cellsFor (Nat.min bytes.length (maxFrame s 6)) ≤ s.pipe.freeCells) (hroom : s.pipe.q0.length < 4096) :
    ∃ t f, exec (.p6FrameReceive cyc bytes code) s = .next t ∧ t.pipe.q0 = s.pipe.q0 ++ [s.pipe.nextFrame]
      ∧ getFrame t s.pipe.nextFrame = some (busWhole f bytes (busMarks s bytes code)) ∧ f.port = some 6
      ∧ portCount t 6 1 = (portCount s 6 1 + 1) % 2 ^ 64 := by
  have hcount := portCount_busCounted (busMarks s bytes code) bytes.length (Memory.wf_wide hwf)
  have hpipe := busCounted_pipe s (busMarks s bytes code) bytes.length
  have hmax : maxFrame (busCounted s (busMarks s bytes code) bytes.length) 6 = maxFrame s 6 :=
    congrArg (fld · 11 0) (rd_congr (busCounted_regs s _ _))
  generalize hc : busCounted s (busMarks s bytes code) bytes.length = c at hpipe hmax hcount
  rw [← hpipe] at hcells hroom ⊢
  rw [← hmax] at hcells
  have hhand := busStored_inHand (cyc := cyc) (flags := busMarks s bytes code)
    (by rw [hpipe]; exact (Memory.wf_iff.1 hwf).frames) hcells
  obtain ⟨hqueue, hframe, hwide⟩ := hhand.queueWindow hroom Nat.one_ne_zero 6
  exact ⟨_, _, h.stores hgood hdata hc hhand.frame rfl, hqueue, hframe, rfl,
    (portCount_congr hwide 6 1).trans hcount⟩

end

/-! ### Collisions (R429) -/

/-- P6 with a collision jammed and counted; under PLCA it is an error as well (R430). -/
def collided (s : State) : State :=
  let t := signal (portStat (emit (emit s (.wire 6 [] false)) .jam) 6 14 1) (srcEdge 0x10 6 2) 0 1
  if s.cbp.plcaActive then setErr (portStat t 6 24 1) pgCbp 6 else t

section
variable {s : State}

theorem collided_csma (h : s.cbp.plcaActive = false) :
    collided s = signal (portStat (emit (emit s (.wire 6 [] false)) .jam) 6 14 1) (srcEdge 0x10 6 2) 0 1 :=
  if_neg (by simp [h])

theorem collided_ports (s : State) : (collided s).ports = s.ports := by
  simp only [collided, apply_ite State.ports, setErr_ports, portStat_ports, signal_ports, emit_ports, ite_self]

theorem collided_wide (hw : twf (fun _ => 0) s.wide = true) : twf (fun _ => 0) (collided s).wide = true := by
  have hcount : ∀ u : State, u.wide = (portStat s 6 14 1).wide → twf (fun _ => 0) u.wide = true := fun u hu => by
    rw [hu]
    exact twf_portStat _ _ _ hw
  unfold collided
  dsimp only
  split
  · rw [setErr_wide]
    exact twf_portStat _ _ _ (hcount _ (signal_wide _ _ _ _))
  · exact hcount _ (signal_wide _ _ _ _)

theorem portCount_collided {k : Nat} (h : 14 ≠ k ∧ 24 ≠ k) : portCount (collided s) 6 k = portCount s 6 k := by
  simp only [collided, apply_ite (fun u : State => portCount u 6 k), portCount_setErr, portCount_portStat_other h.1,
    portCount_portStat_other h.2, portCount_signal, portCount_emit, ite_self]

/-- A frame no longer in hand leaves the port without it, and with what else is held. -/
theorem cbpDone_port (d : Desc) (time : Option Nat) (hp : twf (fun _ => PortUnit.reset) s.ports = true) :
    getPort (cbpDone s d time) 6 = { getPort s 6 with sending := none } := by
  rw [cbpDone, getPort_congr (doneSending_ports _ _ _)]
  exact getPort_putPort_same 6 _ hp

end

section
variable {s : State} {cyc bitTime : Nat} {d : Desc}

/-- What P6 holds after a collision that lets the frame be tried again: a backoff drawn at cycle `cyc` (R429). -/
def backedOff (s : State) (cyc : Nat) : CbpUnit :=
  { s.cbp with
    attempts := s.cbp.attempts + 1, lfsr := lfsrAtCycle s (s.tck.cycles + cyc), lfsrAt := s.tck.cycles + cyc
    backoff := some (lfsrAtCycle s (s.tck.cycles + cyc) % 2 ^ Nat.min (s.cbp.attempts + 1) 10) }

theorem exec_collision_retry (hs : (getPort s 6).sending = some d) (hplca : s.cbp.plcaActive = false)
    (hearly : bitTime ≤ 512) (hfew : s.cbp.attempts + 1 < 16) : exec (.collisionDetect cyc bitTime) s
      = .next (setCbp (putPort (collided s) 6 { getPort s 6 with sending := none, held := d :: (getPort s 6).held })
          (backedOff s cyc)) := by
  have hcbp : ∀ x : PortUnit, (putPort (signal (portStat (emit (emit s (.wire 6 [] false)) .jam) 6 14 1)
      (srcEdge 0x10 6 2) 0 1) 6 x).cbp = s.cbp := fun _ => signal_cbp _ _ _ _
  show execCollisionDetect cyc bitTime s = _
  rw [collided_csma hplca]
  simp only [execCollisionDetect, hs, hplca, Nat.not_lt.2 hearly, Nat.not_le.2 hfew, hcbp, backedOff, Bool.not_false,
    decide_false, Bool.and_false, Bool.false_eq_true, if_false]

/-- A collided frame is put back, its loss on the wire jammed and counted; the buffer stays (R429). -/
theorem collided_putsBack (hwf : Memory.wf s = true) (hplca : s.cbp.plcaActive = false) :
    let t := setCbp (putPort (collided s) 6 { getPort s 6 with sending := none, held := d :: (getPort s 6).held })
      (backedOff s cyc)
    t.out = .jam :: .wire 6 [] false :: s.out ∧ t.pipe = s.pipe
      ∧ getPort t 6 = { getPort s 6 with sending := none, held := d :: (getPort s 6).held } ∧ t.cbp = backedOff s cyc
      ∧ portCount t 6 14 = (portCount s 6 14 + 1) % 2 ^ 64 := by
  refine ⟨?_, ?_, getPort_putPort_same 6 _ (by rw [collided_ports]; exact (Memory.wf_iff.1 hwf).ports), rfl, ?_⟩
  · show (collided s).out = _
    rw [collided_csma hplca, signal_out]
    rfl
  · show (collided s).pipe = _
    rw [collided_csma hplca, signal_pipe]
    rfl
  · show portCount (collided s) 6 14 = _
    rw [collided_csma hplca, portCount_signal]
    exact portCount_portStat_same (s := emit (emit s _) _) (Memory.wf_wide hwf)

/-- A collision after 512 bit times outside PLCA discards the frame. -/
theorem exec_collision_late (hs : (getPort s 6).sending = some d) (hplca : s.cbp.plcaActive = false)
    (hlate : 512 < bitTime) : exec (.collisionDetect cyc bitTime) s
      = .next (cbpDone (setErr (portStat (collided s) 6 17 1) pgCbp 4) d none) := by
  show execCollisionDetect cyc bitTime s = _
  rw [collided_csma hplca]
  simp only [execCollisionDetect, hs, hplca, hlate, Bool.not_false, decide_true, Bool.and_self, Bool.false_eq_true, if_false,
    if_true]

/-- So does the 16th collision of a frame. -/
theorem exec_collision_excess (hs : (getPort s 6).sending = some d) (hearly : bitTime ≤ 512)
    (hmany : 16 ≤ s.cbp.attempts + 1) : exec (.collisionDetect cyc bitTime) s
      = .next (cbpDone (setErr (portStat (collided s) 6 18 1) pgCbp 5) d none) := by
  show execCollisionDetect cyc bitTime s = _
  simp only [execCollisionDetect, hs, Nat.not_lt.2 hearly, hmany, decide_false, Bool.and_false, Bool.false_eq_true, if_false,
    if_true]
  rfl

/-- A frame discarded after a collision is no longer in hand, and counted by its reason. -/
theorem collided_discards (hwf : Memory.wf s = true) {k n : Nat} (hk : 14 ≠ k ∧ 24 ≠ k) :
    let t := cbpDone (setErr (portStat (collided s) 6 k 1) pgCbp n) d none
    (getPort t 6).sending = none ∧ (getPort t 6).held = (getPort s 6).held ∧ t.cbp.attempts = 0
      ∧ portCount t 6 k = (portCount s 6 k + 1) % 2 ^ 64 := by
  have hports : (setErr (portStat (collided s) 6 k 1) pgCbp n).ports = s.ports :=
    (setErr_ports _ _ _).trans (collided_ports s)
  have hport := cbpDone_port d none (by rw [hports]; exact (Memory.wf_iff.1 hwf).ports)
  rw [getPort_congr hports] at hport
  refine ⟨congrArg PortUnit.sending hport, (congrArg PortUnit.held hport).trans rfl,
    congrArg CbpUnit.attempts (cbpDone_cbp _ _ _), ?_⟩
  rw [portCount_cbpDone, portCount_setErr, portCount_portStat_same (collided_wide (Memory.wf_wide hwf)), portCount_collided hk]

end

/-! ### PLCA and TX_CLK (R420, R430, R431) -/

section
variable {s : State}

theorem busErr_plain : pgCbp + Reg.PAGE_ERR ∉ vectorCounters := by decide

theorem exec_beaconReceived (hon : s.cbp.enabled = true) (hplca : cbpPlcaEn s = true) (hnode : cbpNode s ≠ 0) :
    exec .beaconReceived s = .next (setCbp (portStat s 6 22 1) { s.cbp with
      plcaActive := true, beaconAt := s.tck.boundaries, opportunity := 0, burst := 0, backoff := none, deferring := false }) :=
  if_pos (by simp [hon, hplca, hnode])

theorem exec_beaconSend (hcoord : cbpCoordinator s = true) (huse : cbpUsable s = true) (hmac : macIdle s = false) :
    exec .beaconSend s = .next (setCbp (portStat (emit s .beacon) 6 22 1)
      { s.cbp with beaconAt := s.tck.boundaries, opportunity := 0, burst := 0 }) :=
  if_pos (by simp [hcoord, huse, hmac])

theorem exec_plcaBeaconTimeout (hplca : s.cbp.plcaActive = true) (hcoord : cbpCoordinator s = false)
    (hpast : passed s s.cbp.beaconAt (boundariesIn s 400000) = true) : exec .plcaBeaconTimeout s
      = .next (setCbp (portStat (setErr s pgCbp 3) 6 23 1) { (setErr s pgCbp 3).cbp with plcaActive := false }) :=
  if_pos (by simp [hplca, hcoord, hpast])

theorem exec_txClkLost (hon : s.cbp.enabled = true) (hclk : s.cbp.txClk = true) (hquiet : (getPort s 6).sending = none) :
    exec .txClkLost s = .next (setErr (setCbp s { s.cbp with txClk := false, usable := false }) pgCbp 2) := by
  show execTxClkLost s = _
  simp only [execTxClkLost, hon, hclk, hquiet, Bool.and_self, if_true]

/-- PLCA is active, and P6 could send. -/
structure PlcaTurn (s : State) : Prop where
  mac : macIdle s = false
  plca : s.cbp.plcaActive = true
  usable : cbpUsable s = true
  sending : (getPort s 6).sending = none

variable {cyc : Nat}

/-- An opportunity of another node, or with no frame held, passes on (R430). -/
theorem PlcaTurn.passes (h : PlcaTurn s) (hnone : s.cbp.opportunity ≠ cbpNode s ∨ (getPort s 6).held = []) :
    exec (.transmitOpportunity cyc) s
      = .next (setCbp s { s.cbp with opportunity := (s.cbp.opportunity + 1) % 256, burst := 0 }) := by
  have hskip : ((s.cbp.opportunity == cbpNode s) && (!(getPort s 6).held.isEmpty && (cbpDiscard s).isNone)
      && decide (s.cbp.burst ≤ cbpBurst s)) = false := by
    rcases hnone with hother | hempty
    · rw [beq_false_of_ne hother, Bool.false_and, Bool.false_and]
    · rw [hempty, List.isEmpty_nil, Bool.not_true, Bool.false_and, Bool.and_false, Bool.false_and]
  show execTransmitOpportunity cyc s = _
  simp only [execTransmitOpportunity, h.mac, h.plca, h.usable, h.sending, hskip, Option.isSome_none, Bool.not_true,
    Bool.or_self, Bool.false_eq_true, if_false]

/-- A usable P6 keeps a first frame of lawful length. -/
theorem cbpDiscard_none {d : Desc} {l : List Desc} (huse : cbpUsable s = true) (hheld : (getPort s 6).held = d :: l)
    (hfit : (sentLen s d).getD 0 ≤ maxFrame s 6) : cbpDiscard s = none := by
  simp only [cbpDiscard, hheld, huse, Bool.not_true, Bool.false_eq_true, if_false, Nat.not_lt.2 hfit]

/-- In the device's own opportunity a ready frame starts, as far as the burst lets. -/
theorem PlcaTurn.sends (h : PlcaTurn s) {d : Desc} {l : List Desc} (hown : s.cbp.opportunity = cbpNode s)
    (hheld : (getPort s 6).held = d :: l) (hfit : (sentLen s d).getD 0 ≤ maxFrame s 6) (hburst : s.cbp.burst ≤ cbpBurst s) :
    exec (.transmitOpportunity cyc) s = .next (cbpBegin (setCbp s { s.cbp with burst := s.cbp.burst + 1 }) cyc) := by
  show execTransmitOpportunity cyc s = _
  simp only [execTransmitOpportunity, h.mac, h.plca, h.usable, h.sending, hown, hheld, hburst,
    cbpDiscard_none h.usable hheld hfit, Option.isSome_none, Option.isNone_none, Bool.not_true, Bool.or_self,
    Bool.false_eq_true, if_false, beq_self_eq_true, List.isEmpty_cons, Bool.not_false, decide_true, Bool.and_self, if_true]

/-- What a start leaves of the port and of P6. -/
theorem cbpBegin_effects {d : Desc} {l : List Desc} (hp : twf (fun _ => PortUnit.reset) s.ports = true)
    (hheld : (getPort s 6).held = d :: l) :
    (getPort (cbpBegin s cyc) 6).sending = some d ∧ (getPort (cbpBegin s cyc) 6).held = l
      ∧ (cbpBegin s cyc).cbp = { s.cbp with deferring := false, backoff := none } := by
  have hbegin : cbpBegin s cyc = setCbp (putPort s 6 { getPort s 6 with
      held := l, sending := some d, sentAt := startStamp s (rd s (pgCbp + Reg.CBP_TS_ADJ)) cyc })
      { s.cbp with deferring := false, backoff := none } := by
    simp only [cbpBegin, hheld]
    rfl
  have hport := getPort_putPort_same 6 { getPort s 6 with
    held := l, sending := some d, sentAt := startStamp s (rd s (pgCbp + Reg.CBP_TS_ADJ)) cyc } hp
  rw [hbegin]
  exact ⟨congrArg PortUnit.sending hport, congrArg PortUnit.held hport, rfl⟩

end

/-! ### The rows -/

theorem linkPhases_ne {p : Phase} (h : linkPhases p = true) : p ≠ .recovery := by
  rintro rfl
  exact absurd h (by decide)

/-- Settles O51: the commands wait, end or answer by what they were accepted on (`begun_kept`), a good frame stays in hand until
its window is queued (`BusHears.good`), a collision is jammed and counted before it backs off or discards (`collided`), and
each turn of PLCA changes only what P6 holds. -/
theorem cabinetBus : Obligations.CabinetBus := by
  intro s hwf
  have hregs := Memory.wf_regs hwf
  have hwide := Memory.wf_wide hwf
  have hports := (Memory.wf_iff.1 hwf).ports
  refine ⟨fun via seq hv hr hph => ?_, fun cyc bytes code hon hquiet hlen => ?_, fun cyc bitTime d hs => ?_,
    fun r hback => ?_, rfl, rfl, fun hon hplca hnode => ?_, fun hcoord huse hmac => ?_,
    fun cyc hmac hplca huse hquiet => ?_, fun hplca hcoord hpast => ?_, fun hon hclk hquiet => ?_⟩
  · have h : RowReady s pgCbp via := ⟨hwf, cbpPlain, hr, hv, linkPhases_ne hph⟩
    refine ⟨fun hoff hcheck hroom => ?_, fun o hoff hcheck => ?_, fun hon => ?_, fun sampled a0 a1 a2 => ⟨?_, ?_⟩⟩
    · exact ⟨_, exec_cbpEnable_waits seq h hoff hcheck hroom, begun_runs hregs cbpPlain hr.2 (by decide),
        begun_frame hregs cbpPlain⟩
    · obtain ⟨hidle, -, hres, hout, -⟩ := begun_badArg (code := 1) (seq := seq) (a0 := 0) (a1 := 0) (a2 := 0) hregs cbpPlain
        hr (by decide) (w32 o) 0 0
      exact ⟨_, exec_cbpEnable_badArg seq h hoff hcheck, ⟨hres, hidle⟩, hout,
        (finishCmd_cbp _ _ _ _ _ _).trans (begun_cbp hregs cbpPlain)⟩
    · exact ⟨_, exec_cbpDisable_waits seq h hon, begun_runs hregs cbpPlain hr.2 (by decide), begun_frame hregs cbpPlain⟩
    · exact ⟨_, exec_mdioRead seq h sampled a0 a1 a2, begun_ended hregs cbpPlain hr.2 (by decide) (.inl rfl) rfl rfl,
        (finishCmd_cbp _ _ _ _ _ _).trans (begun_cbp hregs cbpPlain)⟩
    · have hout : (begun s pgCbp 4 via seq a0 a1 a2).out = s.out :=
        (congrArg State.out
          (begun_frame (code := 4) (via := via) (seq := seq) (a0 := a0) (a1 := a1) (a2 := a2) hregs cbpPlain) :)
      exact ⟨_, exec_mdioWrite seq h a0 a1 a2, begun_ended hregs cbpPlain hr.2 (by decide) (.inl rfl) rfl rfl,
        (finishCmd_out _ _ _ _ _ _).trans (congrArg (Out.mdio a0 a1 a2 :: ·) hout)⟩
  · have h : BusHears s bytes := ⟨hon, hquiet, hlen⟩
    refine ⟨fun hgood => ⟨fun hctl => ?_, fun hdata hcells hroom => ?_⟩, fun hbad => ?_⟩
    · exact ⟨_, h.control hgood hctl, busControl_effects _ _ hwide⟩
    · obtain ⟨t, f, hexec, hqueue, hframe, hport, hcount⟩ := h.good (cyc := cyc) hwf hgood hdata hcells hroom
      exact ⟨t, _, hexec, hqueue, hframe, rfl, rfl, hport, hcount⟩
    · exact ⟨_, h.bad hbad, countMarks_pipe _ _, portCount_countMarks (k := 1) _ (.inl (by decide))⟩
  · refine ⟨fun hplca hearly hfew => ?_, fun hplca hlate => ?_, fun hearly hmany => ?_⟩
    · exact ⟨_, exec_collision_retry hs hplca hearly hfew, collided_putsBack hwf hplca⟩
    · exact ⟨_, exec_collision_late hs hplca hlate, collided_discards hwf (by decide)⟩
    · exact ⟨_, exec_collision_excess hs hearly hmany, collided_discards hwf (by decide)⟩
  · exact ⟨fun hover => congrArg Host.Outcome.next (if_pos (by simp [backoffOver, hback, hover])),
      fun hwaits => congrArg Host.Outcome.next (if_neg (by simp [backoffOver, hback, hwaits]))⟩
  · exact ⟨_, exec_beaconReceived hon hplca hnode, rfl, portCount_portStat_same hwide⟩
  · exact ⟨_, exec_beaconSend hcoord huse hmac, rfl, rfl⟩
  · have h : PlcaTurn s := ⟨hmac, hplca, huse, hquiet⟩
    refine ⟨h.passes, fun d l hown hheld hfit hburst => ?_⟩
    exact ⟨_, h.sends hown hheld hfit hburst, cbpBegin_effects (s := setCbp s _) hports hheld⟩
  · refine ⟨_, exec_plcaBeaconTimeout hplca hcoord hpast, ?_, fbit_setErr hregs (by decide) busErr_plain, ?_⟩
    · exact congrArg (fun c : CbpUnit => { c with plcaActive := false }) (setErr_cbp _ _ _)
    · exact (portCount_portStat_same (by rw [setErr_wide]; exact hwide)).trans (by rw [portCount_setErr]; rfl)
  · exact ⟨_, exec_txClkLost hon hclk hquiet, setErr_cbp _ _ _, setErr_ports _ _ _,
      fbit_setErr (s := setCbp s _) hregs (by decide) busErr_plain⟩

end Sys2Proof.Machine

/-! SUPPORT. A re-entered copy for a port that the device does not have: the counter of its class drop (R527) would lie
where slice Ochre counts headers (R470); O46. -/
namespace Sys2Proof.Machine

/-- The state in which a copy of the re-entry queue is admitted: it has taken its slot, and `l` is left of the queue. -/
def copySlot (s : State) (l : List Reentry) : State :=
  plainSlot { useCredits s (acct 1 2) 1 1 with pipe := { (useCredits s (acct 1 2) 1 1).pipe with q2 := l } } 2

/-- A copy that re-enters with a credit takes a slot of account 2 without a parse, and is admitted as it is (R458). -/
theorem exec_reentry_copy {s : State} {d : Desc} {l : List Reentry} (hruns : pipeRuns s = true)
    (hacts : (actingSlice s).isSome = true) (hqueue : s.pipe.q2 = .copy d :: l) (hold : s.pipe.q2New < s.pipe.q2.length)
    (hcredit : canStart s (acct 1 2) 1 1 = true) :
    exec .reentry s = .next (admitDesc (copySlot s l) d none) := by
  show execReentry s = _
  have hsome : (actingSlice s).isNone = false := Option.isNone_eq_false_iff.2 hacts
  have hqueued : ¬ s.pipe.q2.length ≤ s.pipe.q2New := Nat.not_le.2 hold
  rw [execReentry, if_neg (by simp [hruns, hsome, hqueued, hcredit]), hqueue]
  rfl

/-- Where a class may not spill and a frame does not fit under its limit, the descriptor is dropped (R527). -/
theorem toClass_full {s : State} {d : Desc} {f : Frame} (flen : Option Nat) (hframe : getFrame s d.view.frame = some f)
    (hspill : maySpill s d.port d.cls = false)
    (hfull : nodeLimit s (classNode d.port d.cls) 8192 < (getNode s (classNode d.port d.cls)).occ + chargeCells f flen) :
    toClass s d flen = classDrop s d := by
  have hunfit : ¬ (getNode s (classNode d.port d.cls)).occ + chargeCells f flen ≤ nodeLimit s (classNode d.port d.cls) 8192 :=
    Nat.not_le.2 hfull
  simp [toClass, hframe, hspill, hunfit]

/-- A class drop counts in one word, wherever port and class put it. -/
theorem rd_classDrop_counter {s : State} {d : Desc} {a : Nat} (hregs : twf regDflt s.regs = true)
    (ha : pgSch + Reg.SCH_CLASS_DROP + 4 * (8 * d.port + d.cls) = a) (hvec : a ∉ vectorCounters)
    (herr : a ≠ pgSch + Reg.PAGE_ERR) (hfirst : a ≠ pgSch + Reg.PAGE_ERR_FIRST) :
    rd (classDrop s d) a = rd s a + 1 := by
  rw [classDrop, rd_congr (dropDesc_regs _ _), rd_setErr_other 2 hvec herr hfirst, ha, rd_bump_same a hregs]

/-- A port number beyond P6. No rule gives a descriptor one, but O46 bounds no descriptor's port. -/
def strayPort : Nat := 26104

/-- `classDrop` counts by port and class; for this port its counter is slice Ochre's count of headers. -/
theorem classDropCounter_strayPort : pgSch + Reg.SCH_CLASS_DROP + 4 * (8 * strayPort + 0) = pgSlice .ochre 0 + Reg.PIP_HDR_CNT := by
  decide

/-- A frame of one cell more than the limit of a class whose entry is not valid (R514). -/
def wideFrame : Frame :=
  { port := some 0, entry := none, fn := 0x7FF, data := List.replicate 72 9, fcs := [0, 0, 0, 0], flen := 76, whole := true
    bad := false, flags := 0, cls := 0, time := 0, cells := 8193, poison := [], meta32 := 0, tsReq := false, refs := 1
    charges := [], grow := [], late := [], ctBy := [], lenField := none, mismatch := false, discard := false
    decrypted := false }

/-- A copy of it for class 0 of that port. -/
def strayCopy : Desc := { bareDesc 0 strayPort 0 0 7 with orig := false }

/-- The copy has waited in the re-entry queue since an earlier tick, and account 2 has a credit. -/
def strayState : State :=
  { State.reset with
    cred := { State.reset.cred with
      work := [(acct 1 2, 1)], buffer := [(acct 1 2, 1)], energy := [(acct 1 2, 1)] }
    pipe := { State.reset.pipe with q2 := [.copy strayCopy], frames := [(0, some wideFrame)], nextFrame := 1 } }

/-- Its slot counts one header in slice Ochre. -/
theorem strayState_slot_counts :
    rd (copySlot strayState []) (pgSlice .ochre 0 + Reg.PIP_HDR_CNT) = rd strayState (pgSlice .ochre 0 + Reg.PIP_HDR_CNT) + 1 := by
  decide +kernel

/-- Its drop counts another in the same word. -/
theorem strayState_drop_counts :
    rd (admitDesc (copySlot strayState []) strayCopy none) (pgSlice .ochre 0 + Reg.PIP_HDR_CNT)
      = rd (copySlot strayState []) (pgSlice .ochre 0 + Reg.PIP_HDR_CNT) + 1 := by
  have hport : strayCopy.port ≠ 7 := by decide
  have hframe : getFrame (copySlot strayState []) strayCopy.view.frame = some wideFrame := by decide +kernel
  rw [admitDesc, if_neg hport, toClass_full none hframe (by decide +kernel) (by decide +kernel)]
  exact rd_classDrop_counter (by decide +kernel) classDropCounter_strayPort (by decide) (by decide) (by decide)

/-- Refutes O46: a re-entered copy is claimed to leave each working slice's count of headers one higher, but one for a port
that does not exist (`strayCopy`) is dropped at its class limit into that very count (`classDropCounter_strayPort`). -/
theorem not_headerSlotsAndWindows : ¬ Obligations.HeaderSlotsAndWindows := by
  unfold Obligations.HeaderSlotsAndWindows
  intro h
  have hruns : pipeRuns strayState = true := by decide
  have hacts : (actingSlice strayState).isSome = true := by decide
  have hcredit : canStart strayState (acct 1 2) 1 1 = true := by decide
  obtain ⟨hslots, -⟩ := h strayState (by decide)
  obtain ⟨-, -, -, hcopy⟩ := hslots hruns hacts
  obtain ⟨t, ht, -, -, -, hcount⟩ := hcopy strayCopy [] rfl (by decide) hcredit
  obtain rfl := Host.Outcome.next.inj ((exec_reentry_copy hruns hacts rfl (by decide) hcredit).symm.trans ht)
  have htwice := strayState_drop_counts
  rw [hcount .ochre (by decide), strayState_slot_counts] at htwice
  exact absurd htwice (by decide)

end Sys2Proof.Machine

/-! SUPPORT. The queue and the invariant of every step (O1, O3), the root keys (O30), VKEEP and the core rail (O13), and
the JTAG port (O27). -/
namespace Sys2Proof.Machine

/-- Settles O1: the two cases of the queue. -/
theorem stepTakesFront : Obligations.StepTakesFront := by
  refine ⟨fun c rest s hqueue => ?_, fun s hempty => ?_⟩
  · rw [step, hqueue]
  · rw [step, hempty]

/-- Settles O3: the idle step leaves the state, and every command keeps the canonical form and the roles
(`step_keeps`). -/
theorem stepKeepsInv : Obligations.StepKeepsInv := by
  intro s t hsound h
  obtain ⟨hwf, hroles⟩ := hsound
  rcases step_keeps h with ⟨-, rfl⟩ | ⟨c, rest, -, hkeeps⟩
  · exact ⟨hwf, hroles⟩
  · exact ⟨hkeeps.wf hwf, hkeeps.roles hroles⟩

/-- Only the two loads of the custodian put a key half into a slot (R683, R684). -/
theorem kindOf_key {c : Instr} (hplain : c ≠ .loadPlain) (hwrapped : c ≠ .loadWrapped) : (kindOf c).key = true := by
  cases c with
  | loadPlain => exact absurd rfl hplain
  | loadWrapped => exact absurd rfl hwrapped
  | _ => rfl

/-- Settles O30: each command keeps what its kind says, and the kinds that let the keys go are those of the two loads. -/
theorem rootKeysAppearOnlyByLoads : Obligations.RootKeysAppearOnlyByLoads := by
  intro c s t hwf h hplain hwrapped n
  exact (exec_keeps c s t h).keys (kindOf_key hplain hwrapped) hwf n

section
variable (s : State) (src : Nat)

/-- An Amber alarm latches its source in the tamper unit, and nothing else of that unit changes (R694). -/
theorem amber_vkeep : (amber s src).vkeep = { s.vkeep with latch := s.vkeep.latch ||| w32 (2 ^ src) } := by
  unfold amber
  dsimp only
  split
  · rfl
  · simp

/-- A Crimson alarm locks the store and records its source (R695, R699). -/
theorem crimson_record : (crimson s src).vkeep.erasedLock = true ∧ (crimson s src).vkeep.lastSrc = src := by
  unfold crimson
  dsimp only
  split
  · exact ⟨rfl, rfl⟩
  · simp

end

/-- A latched source reads as latched. -/
theorem nbit_or_two_pow (w : Word) {k : Nat} (hk : k < 32) : nbit (w ||| w32 (2 ^ k)).toNat k = true := by
  have hset : fbit (w ||| w32 (2 ^ k)) k = true := by simp [fbit_or, fbit_two_pow, hk]
  exact hset

/-- A core-rail glitch out of reset raises source 0x05 at its level and leaves phase, tick and roles (R744). -/
theorem coreRailGlitch_raises (s : State) (hout : outOfReset s = true) :
    exec .coreRailGlitch s = .next (raise s 5) :=
  congrArg Host.Outcome.next (if_pos hout)

/-- Settles O13: each clause is the branch of the row, and a glitch is one raised alarm. -/
theorem vkeepAndGlitch : Obligations.VkeepAndGlitch := by
  intro s
  refine ⟨fun habsent => ?_, rfl, rfl, rfl, rfl, rfl, fun hout hpresent hlevel => ⟨amber s 5, ?_, ?_⟩,
    fun hout hpresent hlevel => ⟨crimson s 5, ?_, ?_⟩, fun hout hlevel => ?_⟩
  · simp [exec, execVkeepFirstApply, habsent]
  · rw [coreRailGlitch_raises s hout]; simp [raise, hpresent, hlevel]
  · rw [amber_vkeep]
    exact ⟨nbit_or_two_pow _ (by decide), rfl, amber_power s 5, amber_tck s 5, amber_red s 5⟩
  · rw [coreRailGlitch_raises s hout]; simp [raise, hpresent, hlevel]
  · obtain ⟨hlock, hsrc⟩ := crimson_record s 5
    exact ⟨hlock, hsrc, crimson_power s 5, crimson_tck s 5, crimson_red s 5⟩
  · rw [coreRailGlitch_raises s hout]; simp [raise, hlevel]

/-- Pins for every cell are the boundary register's content. -/
theorem boundary_full {pins : List Bool} (hfull : pins.length = 1995) : boundary pins = pins := by
  simp [boundary, hfull, List.take_of_length_le]

/-- Settles O27: each row loads its instruction and shifts its register, and PERST_N chooses between the instruction and
BYPASS. -/
theorem jtagInstructions : Obligations.JtagInstructions := by
  intro s pins tdi
  refine ⟨rfl, ⟨_, rfl, by decide, by decide⟩, fun hfull => ⟨?_, fun hlow => ?_⟩, fun hlow => ⟨?_, ?_⟩,
    fun hhigh => ⟨?_, ?_, ?_⟩⟩
  · simp [exec, execJtagSamplePreload, jtagScan, jtagLoad, emit, boundary_full hfull]
  · simp [exec, execJtagExtest, jtagScan, jtagLoad, emit, boundary_full hfull, hlow]
  · simp [exec, execJtagClamp, jtagBypassShift, jtagLoad, emit, hlow]
  · simp [exec, execJtagHighz, jtagBypassShift, jtagLoad, emit, hlow]
  · simp [exec, execJtagExtest, execJtagBypass, hhigh]
  · simp [exec, execJtagClamp, execJtagBypass, hhigh]
  · simp [exec, execJtagHighz, execJtagBypass, hhigh]

end Sys2Proof.Machine

/-! SUPPORT. The equinox: what its locks, its commands of the prepare stage and its end leave of the state; O59. -/
namespace Sys2Proof.Machine

/-! ### A command that ends, seen from the other words -/

theorem rd_finishCmd_other {s : State} {page st : Nat} {o0 o1 o2 : Word} {a : Nat} (hcmd : ¬CmdWord page a)
    (hfirst : a ≠ page + Reg.PAGE_ERR_FIRST) : rd (finishCmd s page st o0 o1 o2) a = rd s a := by
  have hout : a < page + Reg.CMD_ARG ∨ page + Reg.CMD_OUT + 12 ≤ a := by
    rw [CmdWord, not_and_or, Nat.not_le, Nat.not_lt] at hcmd; exact hcmd
  have hwords : ∀ (t : State) (w : Word), t.regs = s.regs →
      rd (wrMany (wr t (page + Reg.CMD_RESULT) w) (page + Reg.CMD_OUT) [o0, o1, o2]) a = rd s a := by
    intro t w ht
    have hresult : page + Reg.CMD_RESULT ≠ a := by simp only [Reg.CMD_ARG, Reg.CMD_OUT, Reg.CMD_RESULT] at hout ⊢; omega
    rw [rd_wrMany_other _ _ _ _ (by simp only [List.length_cons, List.length_nil, Reg.CMD_ARG, Reg.CMD_OUT] at hout ⊢; omega),
      rd_wr_other _ hresult, rd_congr ht]
  unfold finishCmd
  split
  · rfl
  · dsimp only
    split
    · rw [recordFirst_rd _ _ _ _ _ _ hfirst]
      exact hwords _ _ (by split <;> rfl)
    · exact hwords _ _ (by split <;> rfl)

theorem and_two_of_fbit {w : Word} (h : fbit w 1 = false) : w &&& 2 = 0 := by
  apply BitVec.eq_of_toNat_eq
  rw [BitVec.toNat_and]
  rw [fbit_eq_testBit] at h
  apply Nat.eq_of_testBit_eq
  intro i
  show Nat.testBit (w.toNat &&& 2 ^ 1) i = _
  rw [Nat.testBit_and, Nat.testBit_two_pow]
  by_cases hi : 1 = i
  · subst hi; simp [h]
  · simp [hi]

/-! ### The locks of the sync engine (R173) -/

/-- The two slices' pages of one kind are apart (R175). -/
theorem pgSlice_inj {a b : SliceId} {k off : Nat} (h : pgSlice a k + off = pgSlice b k + off) : a = b := by
  cases a <;> cases b <;> simp [pgSlice, SliceId.num] at h ⊢

/-- The sync engine gives back one bulk lock if it holds it. -/
def freeSyncLock (s : State) (sl : SliceId) : State :=
  if lockOwner s sl = 3 then wr s (pgTbl sl + Reg.TBL_BULK_LOCK) 0 else s

theorem syncRelease_eq (s : State) : syncRelease s = freeSyncLock (freeSyncLock s .ochre) .slate := rfl

section
variable {s : State} (sl : SliceId)

theorem twf_freeSyncLock (hw : twf regDflt s.regs = true) : twf regDflt (freeSyncLock s sl).regs = true := by
  unfold freeSyncLock; split
  · exact twf_wr _ _ hw
  · exact hw

theorem rd_freeSyncLock {a : Nat} (ha : a ≠ pgTbl sl + Reg.TBL_BULK_LOCK) : rd (freeSyncLock s sl) a = rd s a := by
  unfold freeSyncLock; split
  · exact rd_wr_other _ ha.symm
  · rfl

theorem lockOwner_freeSyncLock (hw : twf regDflt s.regs = true) :
    lockOwner (freeSyncLock s sl) sl = if lockOwner s sl = 3 then 0 else lockOwner s sl := by
  unfold freeSyncLock; split
  · rw [lockOwner, rd_wr_same _ _ hw]; rfl
  · rfl

theorem lockOwner_freeSyncLock_other {other : SliceId} (h : other ≠ sl) :
    lockOwner (freeSyncLock s sl) other = lockOwner s other := by
  rw [lockOwner, rd_freeSyncLock sl (fun e => h (pgSlice_inj e)), lockOwner]

end

section
variable (s : State)

theorem syncRelease_regs : ∃ r, syncRelease s = { s with regs := r } := by
  unfold syncRelease; dsimp only; split <;> split <;> exact ⟨_, rfl⟩

theorem twf_syncRelease {s : State} (hw : twf regDflt s.regs = true) : twf regDflt (syncRelease s).regs = true :=
  twf_freeSyncLock _ (twf_freeSyncLock _ hw)

theorem rd_syncRelease {a : Nat} (ha : ∀ sl, a ≠ pgTbl sl + Reg.TBL_BULK_LOCK) : rd (syncRelease s) a = rd s a := by
  rw [syncRelease_eq, rd_freeSyncLock _ (ha _), rd_freeSyncLock _ (ha _)]

/-- The sync engine gives back what it holds, and no other owner's lock (R173). -/
theorem lockOwner_syncRelease {s : State} (hw : twf regDflt s.regs = true) (sl : SliceId) :
    lockOwner (syncRelease s) sl = if lockOwner s sl = 3 then 0 else lockOwner s sl := by
  cases sl with
  | ochre => rw [syncRelease_eq, lockOwner_freeSyncLock_other _ (by decide), lockOwner_freeSyncLock _ hw]
  | slate =>
    rw [syncRelease_eq, lockOwner_freeSyncLock _ (twf_freeSyncLock _ hw), lockOwner_freeSyncLock_other _ (by decide)]

end

/-! ### Falling due, holding and draining (R672, R673) -/

/-- The equinox's own registers once it has fallen due. -/
def dueRed (s : State) : RedUnit := { s.red with
  due := true, dueAgainAt := none, deferAlarmed := false
  stage := if eqxDeferred s then .deferred else s.red.stage
  stageSince := if eqxDeferred s then s.tck.boundaries else s.red.stageSince }

theorem eqxFallsDue_eq (s : State) : eqxFallsDue s = { s with red := dueRed s } := by
  unfold eqxFallsDue dueRed
  dsimp only
  split <;> rfl

section
variable {s : State}

theorem exec_equinoxDue_falls (hruns : eqxRuns s = false) (hphase : s.power.phase ≠ .recovery)
    (hdue : (∃ b, s.red.dueAgainAt = some b ∧ b ≤ s.tck.boundaries)
      ∨ (s.red.dueAgainAt = none ∧ 0 < eqxPeriod s ∧ eqxPeriod s ≤ s.red.count ∧ s.power.phase = .normal
        ∧ simplex s = false)) :
    exec .equinoxDue s = .next { s with red := dueRed s } := by
  rw [← eqxFallsDue_eq]
  rcases hdue with ⟨b, hb, hle⟩ | ⟨hnone, hpos, hle, hnormal, hduplex⟩
  · simp [exec, execEquinoxDue, hb, hle, hruns, hphase]
  · simp [exec, execEquinoxDue, hnone, hpos, hle, hnormal, hduplex, hruns]

theorem exec_equinoxDue_waits
    (hwaits : (∃ b, s.red.dueAgainAt = some b ∧ s.tck.boundaries < b)
      ∨ (s.red.dueAgainAt = none ∧ (eqxPeriod s = 0 ∨ s.red.count < eqxPeriod s ∨ s.power.phase ≠ .normal
        ∨ simplex s = true))) : exec .equinoxDue s = .next s := by
  rcases hwaits with ⟨b, hb, hlt⟩ | ⟨hnone, hperiod | hcount | hphase | hsimplex⟩
  · simp [exec, execEquinoxDue, hb, Nat.not_le.2 hlt]
  · simp [exec, execEquinoxDue, hnone, hperiod]
  · simp [exec, execEquinoxDue, hnone, Nat.not_le.2 hcount]
  · simp [exec, execEquinoxDue, hnone, hphase]
  · simp [exec, execEquinoxDue, hnone, hsimplex]

end

/-! ### The commands of the prepare stage (R673) -/

/-- What the prepare stage's commands leave alone: the stage, the roles, the entries, frames and tags, and the word at
`a`. -/
def prepRest (a : Nat) (s : State) :=
  (s.red.stage, s.red.stageSince, s.red.ochre, s.red.slate, s.red.accepted, s.pipe, s.queues, s.pcie.tags, rd s a)

/-- And the commands still to be issued. -/
def prepView (a : Nat) (s : State) := (s.red.syncTodo, prepRest a s)

/-- The words a command of a page may write: its first error, its command words and, on a TBL page, its response. -/
def OwnWord (page a : Nat) : Prop :=
  a = page + Reg.PAGE_ERR_FIRST ∨ CmdWord page a ∨ (page + Reg.TBL_RSP ≤ a ∧ a < page + Reg.TBL_RSP + 40)

theorem OwnWord.outside {page a : Nat} (ha : ¬OwnWord page a) :
    (a < page + Reg.CMD_ARG ∨ page + Reg.CMD_OUT + 12 ≤ a) ∧ a ≠ page + Reg.PAGE_ERR_FIRST
      ∧ (a < page + Reg.TBL_RSP ∨ page + Reg.TBL_RSP + 40 ≤ a) := by
  simp only [OwnWord, CmdWord] at ha
  omega

theorem acceptCmd_code {s : State} {page code seq : Nat} {via : Master} {c : RunCmd} (hidle : runningOn s page = none)
    (h : runningOn (acceptCmd s page code seq via) page = some c) : c.code = code := by
  have hrunning : (acceptCmd s page code seq via).running = s.running ++ [⟨page, code, seq, via, rd s (page + Reg.CMD_ARG),
      rd s (page + Reg.CMD_ARG + 4), rd s (page + Reg.CMD_ARG + 8)⟩] := by
    unfold acceptCmd; dsimp only; split <;> simp
  rw [runningOn, hrunning, find_append_one _ _ _ hidle (by simp)] at h
  cases h
  rfl

/-- The registers of redundancy after a command has ended: one of the sync engine's is noted there (R673). -/
theorem finishCmd_red (s : State) (page st : Nat) (o0 o1 o2 : Word) :
    (finishCmd s page st o0 o1 o2).red = s.red
      ∨ (finishCmd s page st o0 o1 o2).red = (noteSync s page (o0, o1, o2)).red := by
  unfold finishCmd
  split
  · exact .inl rfl
  · rename_i c hc
    by_cases hvia : c.via = .sync
    · right; simp only [if_pos hvia]; split <;> simp
    · left; simp only [if_neg hvia]; split <;> simp

section
variable {page a : Nat} {s : State}

theorem prepView_wrMany {b : Nat} (l : List Word) (h : a < b ∨ b + 4 * l.length ≤ a) :
    prepView a (wrMany s b l) = prepView a s := by
  simp [prepView, prepRest, rd_wrMany_other l s b a h]

variable (ha : ¬OwnWord page a)
include ha

theorem prepView_acceptCmd (code seq : Nat) (via : Master) :
    prepView a (acceptCmd s page code seq via) = prepView a s := by
  obtain ⟨hcmd, -, hrsp⟩ := OwnWord.outside ha
  simp only [Reg.CMD_ARG, Reg.CMD_OUT, Reg.TBL_RSP] at hcmd hrsp
  have haccepted : ∀ (n : List RunCmd) (w : Word),
      prepView a (wrMany (wr { s with running := n } (page + Reg.CMD_RESULT) w) (page + Reg.CMD_OUT) [0, 0, 0])
        = prepView a s := by
    intro n w
    rw [prepView_wrMany _ (by simp only [Reg.CMD_OUT, List.length_cons, List.length_nil]; omega)]
    exact prepView_wrMany (s := { s with running := n }) [w] (by
      simp only [Reg.CMD_RESULT, List.length_cons, List.length_nil]; omega)
  unfold acceptCmd
  dsimp only
  split
  · rw [prepView_wrMany _ (by simp only [Reg.TBL_RSP, List.length_cons, List.length_nil]; omega)]
    exact haccepted _ _
  · exact haccepted _ _

theorem prepView_finishCmd (st : Nat) (o0 o1 o2 : Word) :
    prepView a (finishCmd s page st o0 o1 o2) = prepView a s := by
  obtain ⟨hcmd, hfirst, -⟩ := OwnWord.outside ha
  have hword : rd (finishCmd s page st o0 o1 o2) a = rd s a :=
    rd_finishCmd_other (by rw [CmdWord]; omega) hfirst
  rcases finishCmd_red s page st o0 o1 o2 with hred | hred
  · simp [prepView, prepRest, hword, hred]
  · simp [prepView, prepRest, hword, hred, noteSync]

/-- A command row leaves what its body leaves. -/
theorem prepView_commandRow {spec : CmdSpec} {code : Nat} {via : Master} {seq : Byte} {a0 a1 a2 : Word}
    (hbody : ∀ (t : State) (c : RunCmd), runningOn t page = some c → c.code = code →
      prepView a (spec.body c t) = prepView a t) :
    prepView a (commandRow spec page code via seq a0 a1 a2 s) = prepView a s := by
  obtain ⟨hcmd, -, -⟩ := OwnWord.outside ha
  simp only [Reg.CMD_ARG, Reg.CMD_OUT] at hcmd
  have hargs : prepView a (wrMany s (page + Reg.CMD_ARG) [a0, a1, a2]) = prepView a s :=
    prepView_wrMany _ (by simp only [Reg.CMD_ARG, List.length_cons, List.length_nil]; omega)
  unfold commandRow issueCmd
  split
  · rfl
  split
  · exact hargs
  split
  · rw [← hargs]
    exact prepView_wrMany [_] (by simp only [Reg.CMD_RESULT, List.length_cons, List.length_nil]; omega)
  next hidle =>
    refine Eq.trans ?_ ((prepView_acceptCmd ha code seq.toNat via).trans hargs)
    dsimp only
    split
    next sp c hspec hrun =>
      cases hspec
      split
      · exact prepView_finishCmd ha _ _ _ _
      split
      · exact prepView_finishCmd ha _ _ _ _
      · exact hbody _ _ hrun (acceptCmd_code (Option.not_isSome_iff_eq_none.1 hidle) hrun)
    · exact prepView_finishCmd ha _ _ _ _

end

/-! #### DIGEST and WARM_KEYS as the sync engine issues them -/

section
variable {a : Nat} (sl : SliceId)

theorem prepView_tblServe {s : State} {c : RunCmd} (ha : ¬OwnWord (pgTbl sl) a) (hrun : runningOn s (pgTbl sl) = some c)
    (hcode : c.code = 6) : prepView a (tblServe s sl) = prepView a s := by
  unfold tblServe
  rw [hrun]
  dsimp only
  split
  next j c' hjob hc =>
    cases hc
    split
    · rfl
    · have hdone : ∀ t req, tblRun t sl c.code c.a0 c.a1 c.a2 req = tblDigest t sl c.a0 := by
        intro t req; simp [tblRun, hcode]
      rw [hdone]
      have hrest : (tblDigest (putTbl (learnUse s sl (Nat.min j.owed (learnLeft s sl))) sl
        { getTbl s sl with job := none }) sl c.a0).rsp.isEmpty = true := rfl
      rw [if_pos hrest]
      exact prepView_finishCmd ha _ _ _ _
  · rfl

theorem prepView_specTbl {s : State} {c : RunCmd} (ha : ¬OwnWord (pgTbl sl) a) (hrun : runningOn s (pgTbl sl) = some c)
    (hcode : c.code = 6) : prepView a ((specTbl sl).body c s) = prepView a s := by
  simp only [specTbl]
  split
  · exact prepView_finishCmd ha _ _ _ _
  · exact prepView_tblServe sl (s := putTbl s sl _) ha hrun hcode

theorem prepView_warmEnd {s : State} (ha : ¬OwnWord (pgCip sl) a) : prepView a (warmEnd s sl) = prepView a s := by
  unfold warmEnd
  split
  · split
    · exact prepView_finishCmd (s := { s with cip := _ }) ha _ _ _ _
    · rfl
  · rfl

end

/-- The pages on which the prepare stage issues commands. -/
def SyncPage (page : Nat) : Prop := ∃ sl, page = pgTbl sl ∨ page = pgCip sl

section
variable {s : State} (sl : SliceId)

theorem syncIssue_tbl (hidle : runningOn s (pgTbl sl) = none) : ∃ n,
    syncIssue s (pgTbl sl) = commandRow (specTbl sl) (pgTbl sl) 6 .sync 0 5 0 0 (syncDue s (pgTbl sl) n) := by
  have hkind : pgTbl sl = pgTbl .ochre ∨ pgTbl sl = pgTbl .slate := by cases sl <;> simp
  have hslice : (if pgTbl sl = pgTbl .ochre then SliceId.ochre else .slate) = sl := by cases sl <;> rfl
  rw [syncIssue, if_neg (by simp [hidle]), if_pos hkind]
  dsimp only
  rw [hslice]
  exact ⟨_, rfl⟩

theorem syncIssue_cip (hidle : runningOn s (pgCip sl) = none) : ∃ n,
    syncIssue s (pgCip sl) = commandRow (specWarmKeys sl) (pgCip sl) 2 .sync 0 0x80000000 0 0 (syncDue s (pgCip sl) n) := by
  have hkind : ¬(pgCip sl = pgTbl .ochre ∨ pgCip sl = pgTbl .slate) := by cases sl <;> decide
  have hslice : (if pgCip sl = pgCip .ochre then SliceId.ochre else .slate) = sl := by cases sl <;> rfl
  rw [syncIssue, if_neg (by simp [hidle]), if_neg hkind]
  dsimp only
  rw [hslice]
  exact ⟨_, rfl⟩

end

theorem syncIssue_busy {s : State} {page : Nat} (hbusy : runningOn s page ≠ none) : syncIssue s page = s :=
  if_pos (Option.isSome_iff_ne_none.2 hbusy)

theorem prepView_syncIssue {s : State} {page a : Nat} (hpage : SyncPage page) (ha : ¬OwnWord page a) :
    syncIssue s page = s ∨ ∃ n, prepView a (syncIssue s page) = prepView a (syncDue s page n) := by
  by_cases hidle : runningOn s page = none
  · right
    obtain ⟨sl, rfl | rfl⟩ := hpage
    · obtain ⟨n, hissue⟩ := syncIssue_tbl sl hidle
      rw [hissue]
      exact ⟨n, prepView_commandRow ha fun t c => prepView_specTbl sl ha⟩
    · obtain ⟨n, hissue⟩ := syncIssue_cip sl hidle
      rw [hissue]
      exact ⟨n, prepView_commandRow ha fun t c _ _ => prepView_warmEnd (s := { t with cip := _ }) sl ha⟩
  · exact .inl (syncIssue_busy hidle)

theorem prepRest_syncIssue {s : State} {page a : Nat} (hpage : SyncPage page) (ha : ¬OwnWord page a) :
    prepRest a (syncIssue s page) = prepRest a s := by
  rcases prepView_syncIssue hpage ha with hbusy | ⟨n, hview⟩
  · rw [hbusy]
  · exact congrArg Prod.snd hview

theorem not_ownWord_zero (page : Nat) : ¬OwnWord page 0 := by
  simp only [OwnWord, CmdWord, Reg.PAGE_ERR_FIRST, Reg.CMD_ARG, Reg.TBL_RSP]; omega

/-- A page leaves the list of commands to be issued only where its own command is (R673). -/
theorem mem_syncTodo_syncIssue {s : State} {page p : Nat} (hpage : SyncPage page) (hne : p ≠ page)
    (h : p ∈ s.red.syncTodo) : p ∈ (syncIssue s page).red.syncTodo := by
  rcases prepView_syncIssue (s := s) hpage (not_ownWord_zero page) with hbusy | ⟨n, hview⟩
  · rwa [hbusy]
  · have htodo : (syncIssue s page).red.syncTodo = (syncDue s page n).red.syncTodo := congrArg Prod.fst hview
    simp [htodo, syncDue, h, hne]

theorem prepRest_foldl_syncIssue {a : Nat} : ∀ (l : List Nat) (s : State), (∀ p ∈ l, SyncPage p ∧ ¬OwnWord p a) →
    prepRest a (l.foldl syncIssue s) = prepRest a s
  | [], _, _ => rfl
  | p :: l, s, h => by
    obtain ⟨hpage, ha⟩ := h p List.mem_cons_self
    rw [List.foldl_cons, prepRest_foldl_syncIssue l _ fun q hq => h q (List.mem_cons_of_mem p hq),
      prepRest_syncIssue hpage ha]

theorem mem_syncTodo_foldl {p : Nat} : ∀ (l : List Nat) (s : State), (∀ q ∈ l, SyncPage q ∧ p ≠ q) →
    p ∈ s.red.syncTodo → p ∈ (l.foldl syncIssue s).red.syncTodo
  | [], _, _, hp => hp
  | q :: l, s, h, hp => by
    obtain ⟨hpage, hne⟩ := h q List.mem_cons_self
    exact mem_syncTodo_foldl l _ (fun x hx => h x (List.mem_cons_of_mem q hx)) (mem_syncTodo_syncIssue hpage hne hp)

theorem lock_not_ownWord {page : Nat} (hpage : SyncPage page) (sl : SliceId) :
    ¬OwnWord page (pgTbl sl + Reg.TBL_BULK_LOCK) := by
  unfold OwnWord CmdWord
  obtain ⟨sl', rfl | rfl⟩ := hpage <;> cases sl <;> cases sl' <;> decide

theorem warmResult_not_ownWord (sl sl' : SliceId) : ¬OwnWord (pgTbl sl') (pgCip sl + Reg.CMD_RESULT) := by
  unfold OwnWord CmdWord
  cases sl <;> cases sl' <;> decide

/-! #### The result word of the WARM_KEYS issued -/

/-- The code in the result word of a command that has ended (R163). -/
theorem code_of_result (st : Nat) {code seq : Nat} (hst : st < 256) (hcode : code < 256) :
    fld (w32 (1 + 256 * st + 65536 * code + 2 ^ 24 * seq)) 23 16 = code := by
  rw [fld, w32, BitVec.toNat_ofNat, Nat.shiftRight_eq_div_pow]
  omega

theorem code_of_accepted {code seq : Nat} (hcode : code < 256) : fld (w32 (65536 * code + 2 ^ 24 * seq)) 23 16 = code := by
  rw [fld, w32, BitVec.toNat_ofNat, Nat.shiftRight_eq_div_pow]
  omega

section
variable {s : State} {page code : Nat} {via : Master} {seq : Byte} {a0 a1 a2 : Word} {spec : CmdSpec}

/-- A command row outside its phases ends at once (R163). -/
theorem commandRow_wrongPhase (hw : twf regDflt s.regs = true) (hp : PlainPage page) (hr : PageReady s page via)
    (hrole : spec.role via = true) (hph : spec.phases s.power.phase = false) :
    commandRow spec page code via seq a0 a1 a2 s = endCmd (begun s page code via seq a0 a1 a2) page stWRONG_STATE := by
  have hrun := begun_runningOn (code := code) (via := via) (seq := seq) (a0 := a0) (a1 := a1) (a2 := a2) hw hp hr.2
  have hidle : runningOn (wrMany s (page + Reg.CMD_ARG) [a0, a1, a2]) page = none := hr.2
  have hbegun : acceptCmd (wrMany s (page + Reg.CMD_ARG) [a0, a1, a2]) page code seq.toNat via
      = begun s page code via seq a0 a1 a2 := rfl
  simp [commandRow, issueCmd, hr.1, served_bringupDone hr.1, hidle, hbegun, hrun, hrole, hph]

/-- A command of a manager that ends at once, with any status, changes its page's registers only. -/
theorem begun_answered {st : Nat} (hw : twf regDflt s.regs = true) (hp : PlainPage page) (hr : PageReady s page via)
    (hv : Manages via) (hc : code < 256) :
    Answered (endCmd (begun s page code via seq a0 a1 a2) page st) page code seq.toNat st
      ∧ { endCmd (begun s page code via seq a0 a1 a2) page st with regs := s.regs, running := s.running } = s := by
  have hrun := begun_runningOn (code := code) (via := via) (seq := seq) (a0 := a0) (a1 := a1) (a2 := a2) hw hp hr.2
  have hclear : rd (begun s page code via seq a0 a1 a2) (page + Reg.CMD_RESULT) &&& 2 = 0 := by
    rw [begun_result hw hp, acceptedResult_and_two]
  obtain ⟨hresult, -⟩ := finishCmd_result (st := st) 0 0 0 (begun_twf hw hp) hrun hclear
  rw [Nat.mod_eq_of_lt hc, Nat.mod_eq_of_lt seq.isLt] at hresult
  refine ⟨⟨hresult, finishCmd_idle _ _ _ _ _ _⟩, ?_⟩
  have hframe := finishCmd_frame (st := st) (o0 := 0) (o1 := 0) (o2 := 0) hrun (hv.ne_sync) s.regs
  have hbegun := begun_frame (code := code) (via := via) (seq := seq) (a0 := a0) (a1 := a1) (a2 := a2) hw hp
  exact (congrArg (fun t : State => { t with running := s.running }) hframe).trans hbegun

end

theorem cipPlain (sl : SliceId) : PlainPage (pgCip sl) := by cases sl <;> exact ⟨by decide, by decide⟩

theorem runningOn_congr {s t : State} (h : t.running = s.running) (page : Nat) : runningOn t page = runningOn s page := by
  rw [runningOn, h, runningOn]

/-- The end of a command leaves its code in the result word (R163). -/
theorem code_of_finished {s : State} {page st : Nat} {c : RunCmd} (o0 o1 o2 : Word) (hw : twf regDflt s.regs = true)
    (hrun : runningOn s page = some c) (hclear : rd s (page + Reg.CMD_RESULT) &&& 2 = 0) (hst : st < 256) :
    fld (rd (finishCmd s page st o0 o1 o2) (page + Reg.CMD_RESULT)) 23 16 = c.code % 256 := by
  rw [(finishCmd_result o0 o1 o2 hw hrun hclear).1, code_of_result st hst (Nat.mod_lt _ (by decide))]

theorem code_of_warmEnd {s : State} (x : CipUnit) {sl : SliceId} {c : RunCmd} (hw : twf regDflt s.regs = true)
    (hrun : runningOn s (pgCip sl) = some c) (hclear : rd s (pgCip sl + Reg.CMD_RESULT) &&& 2 = 0)
    (hcode : fld (rd s (pgCip sl + Reg.CMD_RESULT)) 23 16 = c.code % 256) :
    fld (rd (warmEnd { s with cip := x } sl) (pgCip sl + Reg.CMD_RESULT)) 23 16 = c.code % 256 := by
  unfold warmEnd
  split
  · split
    · exact code_of_finished (s := { s with cip := _ }) _ _ _ hw hrun hclear (by decide)
    · exact hcode
  · exact hcode

/-- The job WARM_KEYS starts: the valid associations of a tenant or of all whose key the slice does not hold (R578). -/
def warmJob (s : State) (sl : SliceId) (a0 : Word) : WarmJob :=
  let all := if fbit a0 31 then List.range 32768 else (List.range 32).map (fun a => 32 * fld a0 9 0 + a)
  ⟨sl, all.filter (fun e => saValid s (e / 32) (e % 32) && (cached s sl e).isEmpty), 0, 0⟩

theorem specWarmKeys_body (sl : SliceId) (c : RunCmd) (s : State) : (specWarmKeys sl).body c s
    = warmEnd { s with cip := { s.cip with warm := s.cip.warm ++ [warmJob s sl c.a0] } } sl := by
  unfold specWarmKeys warmJob
  with_reducible rfl

/-- WARM_KEYS of the sync engine leaves its code in the result word, be it running, ended or refused (R163, R578). -/
theorem code_of_warmKeys {s : State} {sl : SliceId} {code : Nat} {seq : Byte} {a0 a1 a2 : Word}
    (hw : twf regDflt s.regs = true) (hready : PageReady s (pgCip sl) .sync) :
    fld (rd (commandRow (specWarmKeys sl) (pgCip sl) code .sync seq a0 a1 a2 s) (pgCip sl + Reg.CMD_RESULT)) 23 16
      = code % 256 := by
  have hp := cipPlain sl
  have htwf := begun_twf (code := code) (via := .sync) (seq := seq) (a0 := a0) (a1 := a1) (a2 := a2) hw hp
  have hrun := begun_runningOn (code := code) (via := .sync) (seq := seq) (a0 := a0) (a1 := a1) (a2 := a2) hw hp hready.2
  have hresult := begun_result (code := code) (via := .sync) (seq := seq) (a0 := a0) (a1 := a1) (a2 := a2) hw hp
  have hclear := acceptedResult_and_two (code % 256) (seq.toNat % 256)
  rw [← hresult] at hclear
  by_cases hphase : s.power.phase = .recovery
  · rw [commandRow_wrongPhase (spec := specWarmKeys sl) hw hp hready rfl (by simp [specWarmKeys, notRecovery, hphase])]
    exact code_of_finished 0 0 0 htwf hrun hclear (by decide)
  · rw [commandRow_accepted (spec := specWarmKeys sl) hw hp hready rfl (bne_iff_ne.2 hphase)]
    have hcode : fld (rd (begun s (pgCip sl) code .sync seq a0 a1 a2) (pgCip sl + Reg.CMD_RESULT)) 23 16 = code % 256 := by
      rw [hresult, code_of_accepted (Nat.mod_lt _ (by decide))]
    rw [specWarmKeys_body]
    exact code_of_warmEnd _ htwf hrun hclear hcode

theorem code_of_warmed {s : State} (hw : twf regDflt s.regs = true) (hb : s.power.bringupDone = true) (sl : SliceId)
    (hidle : runningOn s (pgCip sl) = none) : fld (rd (syncIssue s (pgCip sl)) (pgCip sl + Reg.CMD_RESULT)) 23 16 = 2 := by
  obtain ⟨n, hissue⟩ := syncIssue_cip sl hidle
  rw [hissue]
  exact code_of_warmKeys (s := syncDue s (pgCip sl) n) hw ⟨by simp [served, syncDue, hb], hidle⟩

/-! #### The prepare stage begins -/

/-- The prepare stage at its start, its commands still to be issued: both bulk locks taken where digests are enabled. -/
def prepStart (s : State) (b : SliceId) : State :=
  let ctl := rd s (pgRed + Reg.PAGE_CTL)
  let s1 := { s with red := { s.red with
    stage := .prepare, stageSince := s.tck.boundaries, digestA := none, digestB := none, prepBy := s.tck.boundaries
    syncTodo := (if fbit ctl 0 then [pgCip b] else []) ++ if fbit ctl 1 then [pgTbl .ochre, pgTbl .slate] else [] } }
  if fbit ctl 1 then syncLock (syncLock s1 .ochre) .slate else s1

theorem exec_equinoxPrepare_begins {s : State} {a : SliceId} (hdue : s.red.due = true)
    (hstage : s.red.stage = .idle ∨ s.red.stage = .deferred) (hclear : eqxDeferred s = false) (hact : s.activeSlice = some a) :
    exec .equinoxPrepare s = .next (syncIssueAll (prepStart s a.other)) := by
  have hb : eqxB s = some a.other := by rw [eqxB, hact]; rfl
  rcases hstage with hidle | hdeferred
  · simp [exec, execEquinoxPrepare, hidle, hdue, hclear, hb, prepStart, eqxStage]
  · simp [exec, execEquinoxPrepare, hdeferred, hdue, hclear, hb, prepStart, eqxStage]

theorem exec_equinoxPrepare_deferred {s : State} (hdue : s.red.due = true)
    (hstage : s.red.stage = .idle ∨ s.red.stage = .deferred) (hheld : eqxDeferred s = true) :
    exec .equinoxPrepare s = .next (if s.red.stage = .idle then eqxStage s .deferred else s) := by
  rcases hstage with hidle | hdeferred
  · simp [exec, execEquinoxPrepare, hidle, hdue, hheld]
  · simp [exec, execEquinoxPrepare, hdeferred, hdue, hheld]

/-! ### The end of the running EQUINOX_NOW (R674, R681) -/

theorem endNow_frame {β : Type} (g : State → β) (hend : ∀ s st, g (endCmd s pgRed st) = g s) (s : State) (st : Nat) :
    g (endNow s st) = g s := by
  unfold endNow
  split
  · split
    · exact hend _ _
    · rfl
  · rfl

/-- What EQUINOX_NOW's end leaves of the redundancy registers: all but the sync engine's notes. -/
def rolesOf (r : RedUnit) :=
  (r.ochre, r.slate, r.accepted, r.stage, r.due, r.count, r.dueAgainAt, r.deferAlarmed)

theorem rolesOf_finishCmd (s : State) (page st : Nat) (o0 o1 o2 : Word) :
    rolesOf (finishCmd s page st o0 o1 o2).red = rolesOf s.red := by
  rcases finishCmd_red s page st o0 o1 o2 with hred | hred <;> rw [hred]
  rfl

section
variable (s : State) (st : Nat)

theorem rolesOf_endNow : rolesOf (endNow s st).red = rolesOf s.red :=
  endNow_frame (fun s => rolesOf s.red) (fun s st => rolesOf_finishCmd s pgRed st 0 0 0) s st

theorem rd_endNow {a : Nat} (hcmd : ¬CmdWord pgRed a) (hfirst : a ≠ pgRed + Reg.PAGE_ERR_FIRST) :
    rd (endNow s st) a = rd s a :=
  endNow_frame (fun s => rd s a) (fun _ _ => rd_finishCmd_other hcmd hfirst) s st

theorem endNow_answered {s : State} {st : Nat} {c : RunCmd} (hw : twf regDflt s.regs = true)
    (hrun : runningOn s pgRed = some c) (hcode : c.code = 1) (hseq : c.seq < 256)
    (hclear : fbit (rd s (pgRed + Reg.CMD_RESULT)) 1 = false) : Answered (endNow s st) pgRed 1 c.seq st := by
  have hnow : endNow s st = endCmd s pgRed st := by simp [endNow, hrun, hcode]
  have hresult := (finishCmd_result (st := st) 0 0 0 hw hrun (and_two_of_fbit hclear)).1
  rw [hcode, Nat.mod_eq_of_lt hseq] at hresult
  rw [hnow]
  exact ⟨hresult, finishCmd_idle _ _ _ _ _ _⟩

end

/-- The redundancy registers once the equinox is over (R673, R674). -/
def overRed (r : RedUnit) : RedUnit :=
  { r with stage := .idle, due := false, dueAgainAt := none, deferAlarmed := false, syncTodo := [] }

theorem eqxOver_eq (s : State) : ∃ r, eqxOver s = { s with regs := r, red := overRed s.red } := by
  obtain ⟨r, hr⟩ := syncRelease_regs s
  exact ⟨r, by rw [eqxOver, hr, overRed]⟩

theorem rd_eqxOver {s : State} {a : Nat} (ha : ∀ sl, a ≠ pgTbl sl + Reg.TBL_BULK_LOCK) : rd (eqxOver s) a = rd s a :=
  rd_syncRelease s ha

theorem lockOwner_eqxOver {s : State} (hw : twf regDflt s.regs = true) (sl : SliceId) :
    lockOwner (eqxOver s) sl = if lockOwner s sl = 3 then 0 else lockOwner s sl := lockOwner_syncRelease hw sl

/-- The words of the redundancy page are none of the lock registers (R175). -/
theorem red_ne_lock {off : Nat} (hoff : off < 0x1000) (sl : SliceId) : pgRed + off ≠ pgTbl sl + Reg.TBL_BULK_LOCK := by
  have hslice := le_pgSlice sl 1
  simp only [pgRed, pgTbl]
  omega

theorem lock_not_redCommand (sl : SliceId) : ¬CmdWord pgRed (pgTbl sl + Reg.TBL_BULK_LOCK) := by
  unfold CmdWord
  cases sl <;> decide

/-! ### The swap (R673, R675) -/

/-- Carlis at a change of the active role, with no message being taken in (R619). -/
theorem crtSwitch_eq {s : State} (hrx : s.crt.rx = none) : ∃ x, crtSwitch s = { s with crt := x } := by
  have hfold : ∀ (f : Nat × CrtChan → CrtChan → CrtChan) (l : List (Nat × CrtChan)) (u : State),
      ∃ x, l.foldl (fun s e => modCh s e.1 (f e)) u = { u with crt := x } := by
    intro f l
    induction l with
    | nil => exact fun u => ⟨_, rfl⟩
    | cons e l ih =>
      intro u
      obtain ⟨x, hx⟩ := ih (modCh u e.1 (f e))
      exact ⟨x, hx⟩
  unfold crtSwitch
  rw [if_neg (by simp [hrx])]
  exact hfold _ _ _

/-- The roles swapped, the new active slice accepted and the count restarted (R673). -/
def rolesSwapped (s : State) (a : SliceId) : State :=
  let s1 := s.setSlice a { s.slice a with role := .standby, claim := 0x80, passRunning := true, passStart := s.tck.boundaries }
  let s2 := s1.setSlice a.other { s.slice a.other with role := .active, claim := 0xC0, passRunning := false }
  { s2 with red := { s2.red with accepted := some a.other, count := 0 } }

/-- The swap up to the end of a running EQUINOX_NOW. -/
def swapDone (s : State) (a : SliceId) : State :=
  let s4 := crtSwitch (signal (bump (eqxOver (rolesSwapped s a)) (pgRed + Reg.RED_EQX_CNT)) (srcEdge 5 0 1) 0 1)
  countResumed (wr s4 (pgRed + Reg.RED_LAST_EQX) (w32 (s4.stamp + 65536 * a.other.num + 2 ^ 31)))

section
variable {s : State} {a : SliceId}

theorem exec_equinoxSwap (hact : s.activeSlice = some a) (hstage : s.red.stage = .drain) (hdrained : drained s a = true)
    (hclear : eqxDeferred s = false) (hfa : (s.slice a).fenced = false) (hfb : (s.slice a.other).fenced = false) :
    exec .equinoxSwap s = .next (endNow (swapDone s a) stOK) := by
  simp [exec, execEquinoxSwap, hact, hstage, hdrained, hclear, hfa, hfb, swapDone, rolesSwapped]

theorem slice_rolesSwapped :
    (rolesSwapped s a).slice a
        = { s.slice a with role := .standby, claim := 0x80, passRunning := true, passStart := s.tck.boundaries }
      ∧ (rolesSwapped s a).slice a.other = { s.slice a.other with role := .active, claim := 0xC0, passRunning := false } := by
  cases a <;> exact ⟨rfl, rfl⟩

theorem rolesSwapped_eq : ∃ x, rolesSwapped s a = { s with red := x } := by
  cases a <;> exact ⟨_, rfl⟩

/-- The swap changes the roles, register words, the event counters and Carlis, and nothing else. Of the registers it
counts one, notes when and by whom, and counts the entries carried on. -/
theorem swapDone_eq (hrx : s.crt.rx = none) : ∃ e x sl n, swapDone s a = { s with
    regs := (bumpBy (wr (bump (eqxOver (rolesSwapped s a)) (pgRed + Reg.RED_EQX_CNT)) (pgRed + Reg.RED_LAST_EQX)
      (w32 (s.stamp + 65536 * a.other.num + 2 ^ 31))) (pgSlice sl 6 + Reg.QMG_RESUMED) n).regs
    evc := e, crt := x, red := overRed (rolesSwapped s a).red } := by
  obtain ⟨d, hroles⟩ := rolesSwapped_eq (s := s) (a := a)
  obtain ⟨r, hover⟩ := eqxOver_eq (rolesSwapped s a)
  obtain ⟨e, hsignal⟩ := signal_eq (bump (eqxOver (rolesSwapped s a)) (pgRed + Reg.RED_EQX_CNT)) (srcEdge 5 0 1) 0 1
  obtain ⟨x, hswitch⟩ := crtSwitch_eq
    (s := signal (bump (eqxOver (rolesSwapped s a)) (pgRed + Reg.RED_EQX_CNT)) (srcEdge 5 0 1) 0 1)
    (by rw [hsignal, hover, hroles]; exact hrx)
  rw [swapDone, hswitch, hsignal, hover, hroles]
  exact ⟨_, _, _, _, rfl⟩

end

section
variable {s : State} {a : SliceId}

theorem drained_rx (h : drained s a = true) : s.crt.rx = none := by
  simp only [drained, Bool.and_eq_true, Option.isNone_iff_eq_none] at h
  exact h.1.2

/-- What stands after the swap (R673, R675). -/
theorem swap_effects (hwf : Memory.wf s = true) (hdrained : drained s a = true) :
    let t := endNow (swapDone s a) stOK
    t.slice a = { s.slice a with role := .standby, claim := 0x80, passRunning := true, passStart := s.tck.boundaries }
      ∧ t.slice a.other = { s.slice a.other with role := .active, claim := 0xC0, passRunning := false }
      ∧ t.red.accepted = some a.other ∧ t.red.stage = .idle ∧ t.red.due = false ∧ t.red.count = 0
      ∧ (∀ sl, lockOwner t sl = if lockOwner s sl = 3 then 0 else lockOwner s sl)
      ∧ rd t (pgRed + Reg.RED_EQX_CNT) = rd s (pgRed + Reg.RED_EQX_CNT) + 1
      ∧ rd t (pgRed + Reg.RED_LAST_EQX) = w32 (s.stamp + 65536 * a.other.num + 2 ^ 31)
      ∧ (∀ c, runningOn s pgRed = some c → c.code = 1 → c.via ≠ .sync → c.seq < 256 →
          fbit (rd s (pgRed + Reg.CMD_RESULT)) 1 = false → Answered t pgRed 1 c.seq stOK)
      ∧ t.pcie = s.pcie ∧ t.queues = s.queues ∧ t.pipe = s.pipe ∧ t.mem = s.mem := by
  intro t
  obtain ⟨e, x, sl', n, hdone⟩ := swapDone_eq (a := a) (drained_rx hdrained)
  obtain ⟨d, hroles⟩ := rolesSwapped_eq (s := s) (a := a)
  have hwr : twf regDflt (rolesSwapped s a).regs = true := by rw [hroles]; exact Memory.wf_regs hwf
  have hwo : twf regDflt (eqxOver (rolesSwapped s a)).regs = true := twf_syncRelease hwr
  have hwb : twf regDflt (bump (eqxOver (rolesSwapped s a)) (pgRed + Reg.RED_EQX_CNT)).regs = true := twf_wr _ _ hwo
  have hrd : ∀ b, rd (rolesSwapped s a) b = rd s b := fun b => by rw [hroles]; rfl
  have hred : (swapDone s a).red = overRed (rolesSwapped s a).red := by rw [hdone]
  have hword : ∀ b, b ≠ pgSlice sl' 6 + Reg.QMG_RESUMED → rd (swapDone s a) b
      = rd (wr (bump (eqxOver (rolesSwapped s a)) (pgRed + Reg.RED_EQX_CNT)) (pgRed + Reg.RED_LAST_EQX)
          (w32 (s.stamp + 65536 * a.other.num + 2 ^ 31))) b := by
    intro b hb
    rw [hdone]
    exact rd_wr_other _ hb.symm
  have hnotResumed : ∀ off, off < 0x1000 → pgRed + off ≠ pgSlice sl' 6 + Reg.QMG_RESUMED := by
    intro off hoff
    have hslice := le_pgSlice sl' 6
    simp only [pgRed]
    omega
  have hend := rolesOf_endNow (swapDone s a) stOK
  rw [hred] at hend
  simp only [rolesOf, Prod.mk.injEq] at hend
  obtain ⟨hochre, hslate, hacc, hstage, hdue, hcount, -, -⟩ := hend
  obtain ⟨hsa, hsb⟩ := slice_rolesSwapped (s := s) (a := a)
  have hslice : ∀ sl, t.slice sl = (rolesSwapped s a).slice sl := by
    intro sl
    cases sl
    · exact hochre
    · exact hslate
  have ht : ∀ b, rd t b = rd (endNow (swapDone s a) stOK) b := fun _ => rfl
  refine ⟨(hslice a).trans hsa, (hslice a.other).trans hsb, hacc, hstage, hdue, hcount, fun sl => ?_, ?_, ?_,
    fun c hrun hcode _ hseq hclear => ?_, ?_⟩
  · have hlock : rd t (pgTbl sl + Reg.TBL_BULK_LOCK) = rd (eqxOver (rolesSwapped s a)) (pgTbl sl + Reg.TBL_BULK_LOCK) := by
      rw [ht, rd_endNow _ _ (lock_not_redCommand sl) (red_ne_lock (by decide) sl).symm,
        hword _ (fun h => absurd h (by cases sl <;> cases sl' <;> decide)),
        rd_wr_other _ (red_ne_lock (by decide) sl), rd_bump_other (red_ne_lock (by decide) sl)]
    rw [lockOwner, hlock, lockOwner, ← hrd]
    exact lockOwner_eqxOver hwr sl
  · rw [ht, rd_endNow _ _ (by unfold CmdWord; decide) (by decide), hword _ (hnotResumed _ (by decide)),
      rd_wr_other _ (by decide), rd_bump_same _ hwo, rd_eqxOver (red_ne_lock (by decide)), hrd]
  · rw [ht, rd_endNow _ _ (by unfold CmdWord; decide) (by decide), hword _ (hnotResumed _ (by decide)),
      rd_wr_same _ _ hwb]
  · refine endNow_answered (by rw [hdone]; exact twf_wr _ _ (twf_wr _ _ (twf_wr _ _ hwo))) (by rw [hdone]; exact hrun)
      hcode hseq ?_
    rw [hword _ (hnotResumed _ (by decide)), rd_wr_other _ (by decide), rd_bump_other (by decide),
      rd_eqxOver (red_ne_lock (by decide)), hrd, hclear]
  · refine ⟨?_, ?_, ?_, ?_⟩
    · rw [endNow_frame State.pcie (fun s st => endCmd_pcie s pgRed st), hdone]
    · rw [endNow_frame State.queues (fun s st => endCmd_queues s pgRed st), hdone]
    · rw [endNow_frame State.pipe (fun s st => endCmd_pipe s pgRed st), hdone]
    · rw [endNow_frame State.mem (fun s st => endCmd_mem s pgRed st), hdone]

end

/-! ### Abandonment (R674) -/

/-- The equinox is abandoned: over, a running EQUINOX_NOW ended with BUSY, the abandonment counted and recorded. -/
def abandoned (s : State) : State :=
  let s2 := setErr (bump (endNow (eqxOver s) stBUSY) (pgRed + Reg.RED_EQX_ABANDON_CNT)) pgRed 4
  let s3 := if prepared s && digestsDiffer s then setErr s2 pgRed 5 else s2
  { s3 with red := { s3.red with dueAgainAt := some (s.tck.boundaries + boundariesIn s (10 ^ 9)) } }

section
variable {s : State}

theorem exec_equinoxAbandon
    (h : ((s.red.stage = .prepare ∨ s.red.stage = .hold ∨ s.red.stage = .drain)
        ∧ (eqxLate s = true ∨ eqxDeferred s = true ∨ (prepared s = true ∧ digestsDiffer s = true)))
      ∨ (eqxRuns s = true ∧ eqxLost s = true)) : exec .equinoxAbandon s = .next (abandoned s) := by
  have hcond : (((s.red.stage == .prepare || s.red.stage == .hold || s.red.stage == .drain)
      && (prepared s && digestsDiffer s || eqxLate s || eqxDeferred s)) || (eqxRuns s && eqxLost s)) = true := by
    simp only [Bool.or_eq_true, Bool.and_eq_true, beq_iff_eq, or_assoc]
    rcases h with ⟨hstage, hwhy⟩ | hlost
    · exact .inl ⟨hstage, by rcases hwhy with h | h | h <;> simp [h]⟩
    · exact .inr hlost
  exact if_pos hcond

/-- The state in which the abandonment is counted. -/
theorem eqxEnded_wf (hwf : Memory.wf s = true) (st : Nat) : Memory.wf (endNow (eqxOver s) st) = true := by
  have hkeeps : Keeps ⟨true, true, true, true, true⟩ s (endNow (eqxOver s) st) :=
    endNow_keeps _ st (eqxOver_keeps s (Keeps.refl s))
  exact hkeeps.wf hwf

/-- Words that the abandonment leaves: none of its counter, its errors, the vector counters, the command words of the page
and the locks. -/
theorem rd_abandoned {a : Nat} (hv : a ∉ vectorCounters) (herr : a ≠ pgRed + Reg.PAGE_ERR)
    (hfirst : a ≠ pgRed + Reg.PAGE_ERR_FIRST) :
    rd (abandoned s) a = rd (bump (endNow (eqxOver s) stBUSY) (pgRed + Reg.RED_EQX_ABANDON_CNT)) a := by
  have hset : ∀ (u : State) (n : Nat), rd (setErr u pgRed n) a = rd u a := fun u n => rd_setErr_other n hv herr hfirst
  unfold abandoned
  dsimp only
  split
  · exact (hset _ 5).trans (hset _ 4)
  · exact hset _ 4

theorem fbit_abandoned (hwf : Memory.wf s = true) :
    fbit (rd (abandoned s) (pgRed + Reg.PAGE_ERR)) 4 = true
      ∧ (prepared s = true → digestsDiffer s = true → fbit (rd (abandoned s) (pgRed + Reg.PAGE_ERR)) 5 = true) := by
  have hplain : pgRed + Reg.PAGE_ERR ∉ vectorCounters := by decide
  have hbump : Memory.wf (bump (endNow (eqxOver s) stBUSY) (pgRed + Reg.RED_EQX_ABANDON_CNT)) = true :=
    (bump_keeps (kk := ⟨true, true, true, true, true⟩) _ _ (Keeps.refl _)).wf (eqxEnded_wf hwf stBUSY)
  have hfour := fbit_setErr (n := 4) (Memory.wf_regs hbump) (by decide) hplain
  have hwf4 := wf_setErr pgRed 4 hbump
  unfold abandoned
  dsimp only
  split
  next hdiffer =>
    refine ⟨?_, fun _ _ => fbit_setErr (Memory.wf_regs hwf4) (by decide) hplain⟩
    show fbit (rd (setErr (setErr _ pgRed 4) pgRed 5) (pgRed + Reg.PAGE_ERR)) 4 = true
    rw [fbit_setErr_page (Memory.wf_regs hwf4) (by decide) hplain, hfour, Bool.true_or]
  next hequal =>
    exact ⟨hfour, fun hprep hdiffer => absurd (Bool.and_eq_true_iff.2 ⟨hprep, hdiffer⟩) hequal⟩

/-- The abandonment leaves the roles and what the sync engine is not part of. -/
theorem abandoned_roles : rolesOf (abandoned s).red
    = rolesOf { overRed s.red with dueAgainAt := some (s.tck.boundaries + boundariesIn s (10 ^ 9)) } := by
  have hbegun : rolesOf (endNow (eqxOver s) stBUSY).red = rolesOf (overRed s.red) := by
    obtain ⟨r, hover⟩ := eqxOver_eq s
    rw [rolesOf_endNow, hover]
  simp only [rolesOf, Prod.mk.injEq] at hbegun ⊢
  obtain ⟨ho, hs, hacc, hstage, hdue, hcount, -, halarmed⟩ := hbegun
  unfold abandoned
  dsimp only
  split <;> simp [ho, hs, hacc, hstage, hdue, hcount, halarmed]

theorem abandoned_frame {β : Type} (g : State → β) (hregs : ∀ s r, g { s with regs := r } = g s)
    (hred : ∀ s x, g { s with red := x } = g s) (hend : ∀ s st, g (endCmd s pgRed st) = g s)
    (herr : ∀ s n, g (setErr s pgRed n) = g s) : g (abandoned s) = g s := by
  obtain ⟨r, hover⟩ := eqxOver_eq s
  have hbump : g (bump (endNow (eqxOver s) stBUSY) (pgRed + Reg.RED_EQX_ABANDON_CNT)) = g s := by
    refine (hregs _ _).trans ?_
    rw [endNow_frame g hend, hover]
    exact (hred { s with regs := r } _).trans (hregs s r)
  unfold abandoned
  dsimp only
  rw [hred]
  split
  · rw [herr, herr, hbump]
  · rw [herr, hbump]

theorem abandoned_running : (abandoned s).running = (endNow (eqxOver s) stBUSY).running := by
  unfold abandoned
  dsimp only
  split
  · exact (setErr_running _ _ _).trans (setErr_running _ _ _)
  · exact setErr_running _ _ _

theorem lock_plain (sl : SliceId) : pgTbl sl + Reg.TBL_BULK_LOCK ∉ vectorCounters := by cases sl <;> decide

/-- What stands after an abandonment (R674). -/
theorem abandon_effects (hwf : Memory.wf s = true) :
    (abandoned s).red.stage = .idle ∧ (abandoned s).red.due = false
      ∧ (abandoned s).red.dueAgainAt = some (s.tck.boundaries + boundariesIn s (10 ^ 9))
      ∧ (abandoned s).red.ochre = s.red.ochre ∧ (abandoned s).red.slate = s.red.slate
      ∧ (abandoned s).red.accepted = s.red.accepted
      ∧ (∀ sl, lockOwner (abandoned s) sl = if lockOwner s sl = 3 then 0 else lockOwner s sl)
      ∧ rd (abandoned s) (pgRed + Reg.RED_EQX_ABANDON_CNT) = rd s (pgRed + Reg.RED_EQX_ABANDON_CNT) + 1
      ∧ fbit (rd (abandoned s) (pgRed + Reg.PAGE_ERR)) 4 = true
      ∧ (prepared s = true → digestsDiffer s = true → fbit (rd (abandoned s) (pgRed + Reg.PAGE_ERR)) 5 = true)
      ∧ (∀ c, runningOn s pgRed = some c → c.code = 1 → c.via ≠ .sync → c.seq < 256 →
          fbit (rd s (pgRed + Reg.CMD_RESULT)) 1 = false → Answered (abandoned s) pgRed 1 c.seq stBUSY)
      ∧ (abandoned s).queues = s.queues ∧ (abandoned s).pipe = s.pipe ∧ (abandoned s).mem = s.mem := by
  have hwf' := eqxEnded_wf hwf stBUSY
  have hroles := abandoned_roles (s := s)
  simp only [rolesOf, Prod.mk.injEq] at hroles
  obtain ⟨hochre, hslate, hacc, hstage, hdue, -, hagain, -⟩ := hroles
  obtain ⟨hfour, hfive⟩ := fbit_abandoned hwf
  refine ⟨hstage, hdue, hagain, hochre, hslate, hacc, fun sl => ?_, ?_, hfour, hfive,
    fun c hrun hcode _ hseq hclear => ?_, ?_⟩
  · have hlock : rd (abandoned s) (pgTbl sl + Reg.TBL_BULK_LOCK) = rd (eqxOver s) (pgTbl sl + Reg.TBL_BULK_LOCK) := by
      rw [rd_abandoned (lock_plain sl) (red_ne_lock (by decide) sl).symm (red_ne_lock (by decide) sl).symm,
        rd_bump_other (red_ne_lock (by decide) sl),
        rd_endNow _ _ (lock_not_redCommand sl) (red_ne_lock (by decide) sl).symm]
    rw [lockOwner, hlock]
    exact lockOwner_eqxOver (Memory.wf_regs hwf) sl
  · rw [rd_abandoned (by decide) (by decide) (by decide), rd_bump_same _ (Memory.wf_regs hwf'),
      rd_endNow _ _ (by unfold CmdWord; decide) (by decide), rd_eqxOver (red_ne_lock (by decide))]
  · obtain ⟨r, hover⟩ := eqxOver_eq s
    obtain ⟨hresult, hidle⟩ := endNow_answered (s := eqxOver s) (st := stBUSY) (twf_syncRelease (Memory.wf_regs hwf))
      (by rw [hover]; exact hrun) hcode hseq (by rw [rd_eqxOver (red_ne_lock (by decide))]; exact hclear)
    refine ⟨?_, ?_⟩
    · rw [rd_abandoned (by decide) (by decide) (by decide), rd_bump_other (by decide), hresult]
    · rw [runningOn_congr abandoned_running, hidle]
  · exact ⟨abandoned_frame State.queues (fun _ _ => rfl) (fun _ _ => rfl) (fun s st => endCmd_queues s pgRed st)
        (fun s n => setErr_queues s pgRed n),
      abandoned_frame State.pipe (fun _ _ => rfl) (fun _ _ => rfl) (fun s st => endCmd_pipe s pgRed st)
        (fun s n => setErr_pipe s pgRed n),
      abandoned_frame State.mem (fun _ _ => rfl) (fun _ _ => rfl) (fun s st => endCmd_mem s pgRed st)
        (fun s n => setErr_mem s pgRed n)⟩

end

/-! ### The alarm of a long deferral (R674) -/

/-- Outside the alarm pages an Amber alarm changes the vector counters at most (R694). -/
theorem rd_amber (s : State) (src : Nat) {a : Nat} (hv : a ∉ vectorCounters) (halm : a < pgAlm ∨ pgAlm + 0x1000 ≤ a)
    (hcus : a < pgCus ∨ pgCus + 0x1000 ≤ a) : rd (amber s src) a = rd s a := by
  have hirq : ∀ u : State, rd (cusIrq u) a = rd u a := by
    intro u
    unfold cusIrq
    dsimp only
    split
    · exact rd_fireVector _ _ hv
    · rfl
  have hpage : ∀ (u : State) (page n : Nat), (a < page ∨ page + 0x1000 ≤ a) → rd (setErr u page n) a = rd u a :=
    fun u page n h => rd_setErr_other n hv (by simp only [Reg.PAGE_ERR]; omega) (by simp only [Reg.PAGE_ERR_FIRST]; omega)
  unfold amber
  dsimp only
  split
  · rfl
  · rw [hirq, hpage _ _ _ hcus, hpage _ _ _ halm, rd_congr (signal_regs _ _ _ _)]
    exact rd_bump_other (by simp only [Reg.ALM_AMBER_CNT]; omega)

/-- The alarm of a deferral beyond RED_EQX_DEFER: raised once, counted and recorded. -/
def deferAlarm (s : State) : State :=
  setErr (bump { s with red := { s.red with deferAlarmed := true } } (pgRed + Reg.RED_EQX_DEFER_CNT)) pgRed 3

theorem exec_equinoxDeferAlarm_raises {s : State} (hstage : s.red.stage = .deferred) (hfirst : s.red.deferAlarmed = false)
    (hlong : passed s s.red.stageSince (boundariesIn s (fld (rd s (pgRed + Reg.RED_EQX_DEFER)) 15 0 * 10 ^ 9) + 1) = true) :
    exec .equinoxDeferAlarm s = .next (amber (deferAlarm s) 0x16) :=
  if_pos (by rw [hstage, hfirst, hlong]; rfl)

theorem exec_equinoxDeferAlarm_quiet {s : State}
    (h : s.red.deferAlarmed = true ∨ passed s s.red.stageSince
      (boundariesIn s (fld (rd s (pgRed + Reg.RED_EQX_DEFER)) 15 0 * 10 ^ 9) + 1) = false) :
    exec .equinoxDeferAlarm s = .next s := by
  refine if_neg ?_
  rcases h with h | h <;> rw [h] <;> simp

theorem deferAlarm_effects {s : State} (hwf : Memory.wf s = true) :
    (amber (deferAlarm s) 0x16).red = { s.red with deferAlarmed := true }
      ∧ rd (amber (deferAlarm s) 0x16) (pgRed + Reg.RED_EQX_DEFER_CNT) = rd s (pgRed + Reg.RED_EQX_DEFER_CNT) + 1
      ∧ fbit (rd (amber (deferAlarm s) 0x16) (pgRed + Reg.PAGE_ERR)) 3 = true
      ∧ (amber (deferAlarm s) 0x16).vkeep = { s.vkeep with latch := s.vkeep.latch ||| 0x00400000 } := by
  have hw := Memory.wf_regs hwf
  have hcount : rd (deferAlarm s) (pgRed + Reg.RED_EQX_DEFER_CNT) = rd s (pgRed + Reg.RED_EQX_DEFER_CNT) + 1 :=
    (rd_setErr_other 3 (by decide) (by decide) (by decide)).trans (rd_bump_same _ hw)
  have herr : fbit (rd (deferAlarm s) (pgRed + Reg.PAGE_ERR)) 3 = true :=
    fbit_setErr (twf_wr _ _ hw) (by decide) (by decide)
  refine ⟨?_, ?_, ?_, ?_⟩
  · simp [deferAlarm]
  · rw [rd_amber _ _ (by decide) (by decide) (by decide), hcount]
  · rw [rd_amber _ _ (by decide) (by decide) (by decide), herr]
  · rw [amber_vkeep]; simp [deferAlarm, w32]

/-! ### EQUINOX_NOW (R681) -/

theorem redPlain : PlainPage pgRed := ⟨by decide, by decide⟩

section
variable {s : State} {via : Master} (seq : Byte) (hwf : Memory.wf s = true) (hr : PageReady s pgRed via) (hv : Manages via)
include hwf hr hv

theorem exec_equinoxNow_waits (hphase : s.power.phase = .normal) (hduplex : simplex s = false) (hidle : eqxRuns s = false) :
    ∃ t, exec (.equinoxNow via seq) s = .next t ∧ CmdRuns s t pgRed 1 seq.toNat via (0, 0, 0) ∧ t.red = dueRed s
      ∧ { t with regs := s.regs, running := s.running, red := s.red } = s := by
  obtain ⟨r, n, hrow, ⟨hrun, hresult, hkept⟩, htwf, -⟩ := commandRow_started (spec := specEquinoxNow) (code := 1)
    (seq := seq) (a0 := 0) (a1 := 0) (a2 := 0) (Memory.wf_regs hwf) redPlain hr hv.isGlobal (by rw [hphase]; rfl) (by decide)
  have hlock : ∀ sl, rd { s with regs := r, running := n } (pgTbl sl + Reg.TBL_BULK_LOCK)
      = rd s (pgTbl sl + Reg.TBL_BULK_LOCK) := by
    intro sl
    refine hkept _ ?_
    have hslice := le_pgSlice sl 1
    simp only [CmdWord, pgRed, pgTbl, Reg.CMD_OUT, Reg.CMD_ARG]
    omega
  have hdeferred : eqxDeferred { s with regs := r, running := n } = eqxDeferred s := by
    simp only [eqxDeferred, lockOwner, hlock, simplex]
  have hbody : specEquinoxNow.body ⟨pgRed, 1, seq.toNat, via, 0, 0, 0⟩ { s with regs := r, running := n }
      = { s with regs := r, running := n, red := dueRed s } := by
    have hgo : ¬((simplex { s with regs := r, running := n } || eqxRuns { s with regs := r, running := n }) = true) := by
      rw [show simplex { s with regs := r, running := n } = simplex s from rfl,
        show eqxRuns { s with regs := r, running := n } = eqxRuns s from rfl, hduplex, hidle]
      decide
    refine (if_neg hgo).trans ?_
    rw [eqxFallsDue_eq, dueRed, hdeferred, dueRed]
  rw [hbody] at hrow
  exact ⟨_, congrArg Host.Outcome.next hrow, ⟨hrun, hresult, hkept⟩, rfl, rfl⟩

theorem exec_equinoxNow_refused (h : s.power.phase ≠ .normal ∨ simplex s = true ∨ eqxRuns s = true) :
    ∃ t, exec (.equinoxNow via seq) s = .next t ∧ Answered t pgRed 1 seq.toNat stWRONG_STATE
      ∧ { t with regs := s.regs, running := s.running } = s := by
  have hw := Memory.wf_regs hwf
  refine ⟨endCmd (begun s pgRed 1 via seq 0 0 0) pgRed stWRONG_STATE, congrArg Host.Outcome.next ?_,
    begun_answered hw redPlain hr hv (by decide)⟩
  by_cases hphase : s.power.phase = .normal
  · have hred : (begun s pgRed 1 via seq 0 0 0).red = s.red :=
      (congrArg State.red (begun_frame (code := 1) (via := via) (seq := seq) (a0 := 0) (a1 := 0) (a2 := 0) hw redPlain) : _)
    have hstop : (simplex (begun s pgRed 1 via seq 0 0 0) || eqxRuns (begun s pgRed 1 via seq 0 0 0)) = true := by
      rw [simplex, eqxRuns, hred]
      exact Bool.or_eq_true_iff.2 (h.resolve_left (not_not_intro hphase))
    rw [commandRow_accepted (spec := specEquinoxNow) hw redPlain hr hv.isGlobal (by rw [hphase]; rfl)]
    exact if_pos hstop
  · exact commandRow_wrongPhase (spec := specEquinoxNow) hw redPlain hr hv.isGlobal (beq_false_of_ne hphase)

end

/-! ### The rows -/

section
variable {s : State} {b : SliceId}

theorem prepStart_eq (s : State) (b : SliceId) : ∃ r x, prepStart s b = { s with regs := r, red := x } := by
  unfold prepStart; dsimp only; split <;> exact ⟨_, _, rfl⟩

theorem prepStart_red (s : State) (b : SliceId) : (prepStart s b).red = { s.red with
    stage := .prepare, stageSince := s.tck.boundaries, digestA := none, digestB := none, prepBy := s.tck.boundaries
    syncTodo := (if fbit (rd s (pgRed + Reg.PAGE_CTL)) 0 then [pgCip b] else [])
      ++ if fbit (rd s (pgRed + Reg.PAGE_CTL)) 1 then [pgTbl .ochre, pgTbl .slate] else [] } := by
  unfold prepStart; dsimp only; split <;> rfl

theorem twf_prepStart (hw : twf regDflt s.regs = true) : twf regDflt (prepStart s b).regs = true := by
  unfold prepStart; dsimp only; split
  · exact twf_wr _ _ (twf_wr _ _ hw)
  · exact hw

theorem runningOn_prepStart (page : Nat) : runningOn (prepStart s b) page = runningOn s page := by
  obtain ⟨r, x, hstart⟩ := prepStart_eq s b
  rw [hstart]
  rfl

theorem lockOwner_syncLocks {u : State} (hw : twf regDflt u.regs = true) (sl : SliceId) :
    lockOwner (syncLock (syncLock u .ochre) .slate) sl = 3 := by
  have hochre : rd (syncLock u .ochre) (pgTbl .ochre + Reg.TBL_BULK_LOCK) = 3 := rd_wr_same _ _ hw
  cases sl with
  | ochre => rw [lockOwner, syncLock, rd_wr_other _ (by decide), hochre]; rfl
  | slate => exact congrArg (fld · 1 0) (rd_wr_same _ _ (twf_wr _ _ hw))

/-- Where digests are enabled the sync engine holds both bulk locks (R673). -/
theorem lockOwner_prepStart (hw : twf regDflt s.regs = true) (hdigest : fbit (rd s (pgRed + Reg.PAGE_CTL)) 1 = true)
    (sl : SliceId) : lockOwner (prepStart s b) sl = 3 := by
  unfold prepStart
  dsimp only
  rw [if_pos hdigest]
  exact lockOwner_syncLocks hw sl

/-- The pages on which the prepare stage has something to issue. -/
theorem prepStart_pages {p : Nat} (hp : p ∈ (prepStart s b).red.syncTodo) : SyncPage p := by
  rw [prepStart_red] at hp
  dsimp only at hp
  rw [List.mem_append] at hp
  rcases hp with hwarm | hdigest
  · split at hwarm
    · exact ⟨b, .inr (List.mem_singleton.1 hwarm)⟩
    · cases hwarm
  · split at hdigest
    · rw [List.mem_pair] at hdigest
      rcases hdigest with rfl | rfl
      · exact ⟨.ochre, .inl rfl⟩
      · exact ⟨.slate, .inl rfl⟩
    · cases hdigest

theorem prepRest_syncIssueAll {a : Nat} (ha : ∀ p, SyncPage p → ¬OwnWord p a) :
    prepRest a (syncIssueAll (prepStart s b)) = prepRest a (prepStart s b) :=
  prepRest_foldl_syncIssue _ _ fun p hp => ⟨prepStart_pages hp, ha p (prepStart_pages hp)⟩

theorem fbit_of_fld_zero {w : Word} (h : fld w 1 0 = 0) : fbit w 0 = false ∧ fbit w 1 = false := by
  rw [fld, Nat.shiftRight_zero] at h
  simp only [fbit_eq_testBit, Nat.testBit_eq_decide_div_mod_eq, decide_eq_false_iff_not]
  omega

/-- With neither option set the prepare stage has no command (R673). -/
theorem syncIssueAll_none (h : fld (rd s (pgRed + Reg.PAGE_CTL)) 1 0 = 0) :
    syncIssueAll (prepStart s b) = { s with red := { s.red with
      stage := .prepare, stageSince := s.tck.boundaries, syncTodo := [], digestA := none, digestB := none
      prepBy := s.tck.boundaries } } := by
  obtain ⟨hwarm, hdigest⟩ := fbit_of_fld_zero h
  simp [syncIssueAll, prepStart, hwarm, hdigest]

/-- What stands once the commands of the prepare stage have been issued (R673). -/
theorem prepare_effects (hw : twf regDflt s.regs = true) (hb : s.power.bringupDone = true) :
    let t := syncIssueAll (prepStart s b)
    t.red.stage = .prepare ∧ t.red.stageSince = s.tck.boundaries
      ∧ t.red.ochre = s.red.ochre ∧ t.red.slate = s.red.slate ∧ t.red.accepted = s.red.accepted
      ∧ (fbit (rd s (pgRed + Reg.PAGE_CTL)) 1 = true → lockOwner t .ochre = 3 ∧ lockOwner t .slate = 3)
      ∧ (fbit (rd s (pgRed + Reg.PAGE_CTL)) 0 = true → runningOn s (pgCip b) = none →
          fld (rd t (pgCip b + Reg.CMD_RESULT)) 23 16 = 2)
      ∧ (fbit (rd s (pgRed + Reg.PAGE_CTL)) 0 = true → runningOn s (pgCip b) ≠ none → pgCip b ∈ t.red.syncTodo)
      ∧ t.pipe = s.pipe ∧ t.queues = s.queues ∧ t.pcie.tags = s.pcie.tags := by
  intro t
  obtain ⟨r, x, hstart⟩ := prepStart_eq s b
  have hred := prepStart_red s b
  have hrest : ∀ a, (∀ p, SyncPage p → ¬OwnWord p a) → prepRest a t = prepRest a (prepStart s b) :=
    fun a ha => prepRest_syncIssueAll ha
  have hviews := hrest 0 fun p _ => not_ownWord_zero p
  simp only [prepRest, hred, Prod.mk.injEq] at hviews
  obtain ⟨hstage, hsince, hochre, hslate, hacc, hpipe, hqueues, htags, -⟩ := hviews
  have hlock : ∀ sl, lockOwner t sl = lockOwner (prepStart s b) sl := by
    intro sl
    have hview := hrest (pgTbl sl + Reg.TBL_BULK_LOCK) fun p hp => lock_not_ownWord hp sl
    simp only [prepRest, Prod.mk.injEq] at hview
    obtain ⟨-, -, -, -, -, -, -, -, hword⟩ := hview
    rw [lockOwner, hword, lockOwner]
  have hwarmFirst : fbit (rd s (pgRed + Reg.PAGE_CTL)) 0 = true → ∃ l, (prepStart s b).red.syncTodo = pgCip b :: l
      ∧ ∀ p ∈ l, ∃ sl, p = pgTbl sl := by
    intro hwarm
    rw [hred]
    dsimp only
    rw [if_pos hwarm, List.singleton_append]
    refine ⟨_, rfl, fun p hp => ?_⟩
    split at hp
    · rw [List.mem_pair] at hp
      rcases hp with rfl | rfl
      · exact ⟨.ochre, rfl⟩
      · exact ⟨.slate, rfl⟩
    · cases hp
  refine ⟨hstage, hsince, hochre, hslate, hacc, fun hdigest => ?_, fun hwarm hidle => ?_, fun hwarm hbusy => ?_, ?_, ?_, ?_⟩
  · rw [hlock, hlock]
    exact ⟨lockOwner_prepStart hw hdigest _, lockOwner_prepStart hw hdigest _⟩
  · obtain ⟨l, htodo, hl⟩ := hwarmFirst hwarm
    have hfirst : t = l.foldl syncIssue (syncIssue (prepStart s b) (pgCip b)) := by
      show syncIssueAll _ = _
      rw [syncIssueAll, htodo, List.foldl_cons]
    have hview := prepRest_foldl_syncIssue (a := pgCip b + Reg.CMD_RESULT) l (syncIssue (prepStart s b) (pgCip b))
      fun p hp => by
        obtain ⟨sl, rfl⟩ := hl p hp
        exact ⟨⟨sl, .inl rfl⟩, warmResult_not_ownWord b sl⟩
    simp only [prepRest, Prod.mk.injEq] at hview
    obtain ⟨-, -, -, -, -, -, -, -, hword⟩ := hview
    rw [hfirst, hword]
    exact code_of_warmed (twf_prepStart hw) (by rw [hstart]; exact hb) b (by rw [runningOn_prepStart]; exact hidle)
  · obtain ⟨l, htodo, hl⟩ := hwarmFirst hwarm
    have hfirst : t = l.foldl syncIssue (prepStart s b) := by
      show syncIssueAll _ = _
      rw [syncIssueAll, htodo, List.foldl_cons, syncIssue_busy (by rw [runningOn_prepStart]; exact hbusy)]
    rw [hfirst]
    refine mem_syncTodo_foldl l _ (fun p hp => ?_) (by rw [htodo]; exact List.mem_cons_self)
    obtain ⟨sl, rfl⟩ := hl p hp
    exact ⟨⟨sl, .inl rfl⟩, by cases b <;> cases sl <;> decide⟩
  · rw [hpipe, hstart]
  · rw [hqueues, hstart]
  · rw [htags, hstart]

end

/-- Settles O59: each clause is one row, at the branch its hypotheses name. -/
theorem equinox : Obligations.Equinox := by
  intro s hwf
  have hw := Memory.wf_regs hwf
  refine ⟨fun hruns hphase => ⟨exec_equinoxDue_falls hruns hphase, exec_equinoxDue_waits⟩,
    fun hdue hstage => ⟨fun hheld => exec_equinoxPrepare_deferred hdue hstage hheld, fun a hclear hact hb => ⟨?_, ?_⟩⟩,
    fun hprep hequal hclear => ?_, fun hstage hclosed hclear => ?_,
    fun a hact hstage hdrained hclear hfa hfb => ⟨_, exec_equinoxSwap hact hstage hdrained hclear hfa hfb, ?_⟩,
    fun hwhy => ⟨_, exec_equinoxAbandon hwhy, ?_⟩, ?_,
    fun via seq hr hv => ⟨exec_equinoxNow_waits seq hwf hr hv, exec_equinoxNow_refused seq hwf hr hv⟩⟩
  · intro hctl
    rw [exec_equinoxPrepare_begins hdue hstage hclear hact, syncIssueAll_none hctl]
  · exact ⟨_, exec_equinoxPrepare_begins hdue hstage hclear hact, prepare_effects hw hb⟩
  · exact congrArg Host.Outcome.next (if_pos (by rw [hprep, hequal, hclear]; rfl))
  · exact congrArg Host.Outcome.next (if_pos (by rw [hstage, hclosed, hclear]; rfl))
  · exact swap_effects hwf hdrained
  · exact abandon_effects hwf
  · rintro n rfl hstage
    refine ⟨fun hfirst hlong => ⟨_, exec_equinoxDeferAlarm_raises hstage hfirst hlong, deferAlarm_effects hwf⟩,
      exec_equinoxDeferAlarm_quiet⟩

end Sys2Proof.Machine

/-! SUPPORT. The slices: how one withdraws, is reset, returns to service and takes over, and what an edge fault asks for; O58. -/
namespace Sys2Proof.Machine

/-! ### The redundancy registers of a slice -/

section
variable (s : State) (sl : SliceId) (x : SliceRed)

@[simp] theorem slice_setSlice_same : (s.setSlice sl x).slice sl = x := by cases sl <;> rfl
@[simp] theorem setSlice_setSlice (y : SliceRed) : (s.setSlice sl x).setSlice sl y = s.setSlice sl y := by cases sl <;> rfl
@[simp] theorem slice_setSlice_other : (s.setSlice sl x).slice sl.other = s.slice sl.other := by cases sl <;> rfl

theorem setSlice_eq : ∃ r, s.setSlice sl x = { s with red := r } := by cases sl <;> exact ⟨_, rfl⟩

theorem slice_congr {s t : State} (h : t.red = s.red) (sl : SliceId) : t.slice sl = s.slice sl := by
  cases sl <;> simp only [State.slice, h]

theorem rd_setSlice (a : Nat) : rd (s.setSlice sl x) a = rd s a := rd_congr (setSlice_regs s sl x)

end

theorem wf_wr {s : State} (a : Nat) (w : Word) (hwf : Memory.wf s = true) : Memory.wf (wr s a w) = true :=
  (wr_keeps (k := ⟨true, true, true, true, true⟩) a w (Keeps.refl s)).wf hwf

theorem twf_bump {s : State} (a : Nat) (hw : twf regDflt s.regs = true) : twf regDflt (bump s a).regs = true :=
  twf_wr a _ hw

/-! ### Edge faults (R57, R100, R217) -/

/-- An error recorded on a page that asks for recovery. -/
theorem needReset_setErr_effects {s : State} {page bit : Nat} {p : PageAt} (hw : twf regDflt s.regs = true)
    (hphase : s.power.phase ≠ .recovery) (hnone : s.power.recoverPend = none) (hpage : pageAt page = some p)
    (hbit : bit < 32) (hplain : page + Reg.PAGE_ERR ∉ vectorCounters) :
    (needReset (setErr s page bit) page bit).power = { s.power with recoverPend := some ⟨p.kind.code, p.inst, bit⟩ }
      ∧ fbit (rd (needReset (setErr s page bit) page bit) (page + Reg.PAGE_ERR)) bit = true
      ∧ (needReset (setErr s page bit) page bit).mem = s.mem ∧ (needReset (setErr s page bit) page bit).pipe = s.pipe
      ∧ (needReset (setErr s page bit) page bit).queues = s.queues := by
  refine ⟨?_, ?_, by simp, by simp, by simp⟩
  · simp [needReset, hphase, hnone, hpage]
  · rw [rd_congr (needReset_regs _ _ _)]
    exact fbit_setErr hw hbit hplain

/-- What a shared overrun notes before its page's error: the first source, the engine halted (R100). -/
theorem exec_sharedOverrun (s : State) (eng : Byte) : ∃ u, exec (.enterRecovery (.sharedOverrun eng)) s
      = .next (needReset (setErr u pgTck 0) pgTck 0)
    ∧ (Memory.wf s = true → twf regDflt u.regs = true) ∧ u.power = s.power ∧ u.mem = s.mem ∧ u.pipe = s.pipe
    ∧ u.queues = s.queues := by
  refine ⟨_, rfl, fun hwf => ?_, ?_, ?_, ?_, ?_⟩
  · have hfirst : ∀ w, Memory.wf (wr s (pgTck + Reg.TCK_OVERRUN_SRC) w) = true := fun w =>
      wf_wr _ w hwf
    dsimp only
    split <;> split <;> simp only [twf_setErr, hfirst, hwf, Memory.wf_regs]
  all_goals dsimp only; split <;> split <;> simp

theorem exec_enterRecovery_effects {s : State} (hwf : Memory.wf s = true) {f : EdgeFault} {page bit : Nat} {p : PageAt}
    (hf : (f = EdgeFault.gatekeeperMismatch ∧ page = pgRed ∧ bit = 6) ∨ (f = .edgeParity ∧ page = pgRed ∧ bit = 7)
      ∨ ((∃ e, f = .sharedOverrun e) ∧ page = pgTck ∧ bit = 0)
      ∨ (f = .lastCopiesDiffer ∧ s.tck.fenced.isSome ∧ page = pgTck ∧ bit = 3))
    (hphase : s.power.phase ≠ .recovery) (hnone : s.power.recoverPend = none) (hpage : pageAt page = some p) :
    ∃ t, exec (.enterRecovery f) s = .next t
      ∧ t.power = { s.power with recoverPend := some ⟨p.kind.code, p.inst, bit⟩ }
      ∧ fbit (rd t (page + Reg.PAGE_ERR)) bit = true ∧ t.mem = s.mem ∧ t.pipe = s.pipe ∧ t.queues = s.queues := by
  have hw := Memory.wf_regs hwf
  rcases hf with ⟨rfl, rfl, rfl⟩ | ⟨rfl, rfl, rfl⟩ | ⟨⟨e, rfl⟩, rfl, rfl⟩ | ⟨rfl, hfenced, rfl, rfl⟩
  · exact ⟨_, rfl, needReset_setErr_effects hw hphase hnone hpage (by decide) (by decide)⟩
  · exact ⟨_, rfl, needReset_setErr_effects hw hphase hnone hpage (by decide) (by decide)⟩
  · obtain ⟨u, hrow, hu, hpower, hmem, hpipe, hqueues⟩ := exec_sharedOverrun s e
    have heffects := needReset_setErr_effects (hu hwf) (by rwa [hpower]) (by rwa [hpower]) hpage (bit := 0) (by decide) (by decide)
    rw [hpower, hmem, hpipe, hqueues] at heffects
    exact ⟨_, hrow, heffects⟩
  · exact ⟨_, congrArg Host.Outcome.next (if_pos hfenced),
      needReset_setErr_effects hw hphase hnone hpage (by decide) (by decide)⟩

/-! ### Withdrawal (R653 to R655) -/

/-- A slice that withdraws its claim and fences itself. -/
def fencedSlice (s : State) (sl : SliceId) (cls : Nat) : SliceRed :=
  let x := s.slice sl
  let w := recentWithdrawals s x.withdrawals ++ [s.seconds]
  { x with
    claim := 0, fenced := true, fencedAt := s.tck.boundaries, lastClass := cls, withdrawals := w
    passRunning := false, lastPassOk := x.lastPassOk && cls != 3
    retireAtEnd := x.retireAtEnd || decide (fld (rd s (pgRed + Reg.RED_WITHDRAW_LIMIT)) 7 0 < w.length) }

section
variable {s : State} {sl : SliceId} {cls eng : Nat}

theorem withdrawSlice_serving (hrole : (s.slice sl).role ≠ .out) (hfenced : (s.slice sl).fenced = false) :
    withdrawSlice s sl cls eng = reportWithdrawal (s.setSlice sl (fencedSlice s sl cls)) sl cls eng := by
  simp [withdrawSlice, hrole, hfenced, fencedSlice]

theorem withdrawSlice_out (hrole : (s.slice sl).role = .out) : withdrawSlice s sl cls eng = s := by
  simp [withdrawSlice, hrole]

/-- A report changes register words and the event counters, and what an error does. -/
theorem reportWithdrawal_frame {β : Type} (g : State → β) (hwr : ∀ s a w, g (wr s a w) = g s)
    (herr : ∀ s page n, g (setErr s page n) = g s) (hsignal : ∀ s c q n, g (signal s c q n) = g s) (s : State)
    (sl : SliceId) (cls eng : Nat) : g (reportWithdrawal s sl cls eng) = g s := by
  have hbump : ∀ s a, g (bump s a) = g s := fun s a => hwr s a _
  unfold reportWithdrawal
  extract_lets s1 s2
  have h1 : g s1 = g s := by
    unfold s1; split
    · rfl
    · exact hwr _ _ _
  have h2 : g s2 = g s := by
    unfold s2; split
    · rw [hwr, h1]
    · exact h1
  split
  · rw [hsignal, hbump, herr, h1]
  split
  · rw [herr, herr, h2]
  split
  · rw [herr, h1]
  split
  · rw [herr, h1]
  · exact h1

theorem reportWithdrawal_red : (reportWithdrawal s sl cls eng).red = s.red :=
  reportWithdrawal_frame State.red (fun _ _ _ => rfl) setErr_red signal_red s sl cls eng

theorem reportWithdrawal_none : reportWithdrawal s sl 0 eng = s := by simp [reportWithdrawal]

/-- The self-test page's failure word lies on no page's error words (R157). -/
theorem rd_setErr_failInfo (s : State) {page : Nat} (n : Nat) (hpage : page % 0x1000 = 0) :
    rd (setErr s page n) (pgSelf sl + Reg.ST_FAIL_INFO) = rd s (pgSelf sl + Reg.ST_FAIL_INFO) := by
  have hself : pgSelf sl % 0x1000 = 0 := by cases sl <;> rfl
  refine rd_setErr_other n (by cases sl <;> decide) ?_ ?_
  · simp only [Reg.ST_FAIL_INFO, Reg.PAGE_ERR]; omega
  · simp only [Reg.ST_FAIL_INFO, Reg.PAGE_ERR_FIRST]; omega

theorem enginePage_aligned : enginePage sl eng % 0x1000 = 0 := by
  have hslice : ∀ k, pgSlice sl k % 0x1000 = 0 := by intro k; cases sl <;> simp only [pgSlice, SliceId.num] <;> omega
  unfold enginePage
  repeat' split
  all_goals exact hslice _

/-- The first failure of a slice is recorded with its class and engine (R653). -/
theorem rd_reportWithdrawal_failInfo (hw : twf regDflt s.regs = true) (hcls : cls = 1 ∨ cls = 2 ∨ cls = 4) :
    rd (reportWithdrawal s sl cls eng) (pgSelf sl + Reg.ST_FAIL_INFO)
      = if fbit (rd s (pgSelf sl + Reg.ST_FAIL_INFO)) 31 then rd s (pgSelf sl + Reg.ST_FAIL_INFO)
        else w32 (eng + 256 * cls + 2 ^ 31) := by
  have hself : pgSelf sl % 0x1000 = 0 := by cases sl <;> rfl
  have htck : pgTck + Reg.TCK_OVERRUN_SRC ≠ pgSelf sl + Reg.ST_FAIL_INFO := by cases sl <;> decide
  have hcnt : pgSelf sl + Reg.ST_CHECK_CNT ≠ pgSelf sl + Reg.ST_FAIL_INFO := by cases sl <;> decide
  have hclass : cls ≠ 0 := by omega
  unfold reportWithdrawal
  extract_lets s1 s2
  have h1 : rd s1 (pgSelf sl + Reg.ST_FAIL_INFO) = if fbit (rd s (pgSelf sl + Reg.ST_FAIL_INFO)) 31 then
      rd s (pgSelf sl + Reg.ST_FAIL_INFO) else w32 (eng + 256 * cls + 2 ^ 31) := by
    unfold s1
    by_cases hset : fbit (rd s (pgSelf sl + Reg.ST_FAIL_INFO)) 31 = true
    · rw [if_pos (.inr hset), if_pos hset]
    · rw [if_neg (by simp [hclass, hset]), if_neg hset, rd_wr_same _ _ hw]
  have h2 : rd s2 (pgSelf sl + Reg.ST_FAIL_INFO) = rd s1 (pgSelf sl + Reg.ST_FAIL_INFO) := by
    unfold s2; split
    · exact rd_wr_other _ htck
    · rfl
  rw [← h1]
  rcases hcls with rfl | rfl | rfl
  · rw [if_pos rfl, rd_congr (signal_regs _ _ _ _), rd_bump_other hcnt, rd_setErr_failInfo _ _ hself]
  · rw [if_neg (by decide), if_pos rfl, rd_setErr_failInfo _ _ (by decide), rd_setErr_failInfo _ _ enginePage_aligned, h2]
  · rw [if_neg (by decide), if_neg (by decide), if_neg (by decide), if_pos rfl, rd_setErr_failInfo _ _ hself]

/-- A fault of class `cls` that engine `eng` reports has withdrawn the slice: fenced, with claim 0, its failure recorded
and the withdrawal counted, the other slice, the frames and the entries as they were (R653, R655). -/
def Withdrawn (s t : State) (sl : SliceId) (cls eng : Nat) : Prop :=
  (t.slice sl).claim = 0 ∧ (t.slice sl).fenced = true ∧ (t.slice sl).role = (s.slice sl).role ∧ (t.slice sl).lastClass = cls
    ∧ (t.slice sl).withdrawals = recentWithdrawals s (s.slice sl).withdrawals ++ [s.seconds]
    ∧ t.slice sl.other = s.slice sl.other
    ∧ rd t (pgSelf sl + Reg.ST_FAIL_INFO) = (if fbit (rd s (pgSelf sl + Reg.ST_FAIL_INFO)) 31 then
        rd s (pgSelf sl + Reg.ST_FAIL_INFO) else w32 (eng + 256 * cls + 2 ^ 31))
    ∧ t.pipe = s.pipe ∧ t.queues = s.queues ∧ t.mem = s.mem

theorem withdrawSlice_withdrawn (hw : twf regDflt s.regs = true) (hrole : (s.slice sl).role ≠ .out)
    (hfenced : (s.slice sl).fenced = false) (hcls : cls = 1 ∨ cls = 2 ∨ cls = 4) :
    Withdrawn s (withdrawSlice s sl cls eng) sl cls eng := by
  have hslice : (withdrawSlice s sl cls eng).slice sl = fencedSlice s sl cls := by
    rw [withdrawSlice_serving hrole hfenced, slice_congr reportWithdrawal_red, slice_setSlice_same]
  rw [Withdrawn, hslice, withdrawSlice_serving hrole hfenced]
  refine ⟨rfl, rfl, rfl, rfl, rfl, ?_, ?_, ?_, ?_, ?_⟩
  · rw [slice_congr reportWithdrawal_red, slice_setSlice_other]
  · rw [rd_reportWithdrawal_failInfo (by rwa [setSlice_regs]) hcls, rd_setSlice]
  · rw [reportWithdrawal_frame State.pipe (fun _ _ _ => rfl) setErr_pipe signal_pipe, setSlice_pipe]
  · rw [reportWithdrawal_frame State.queues (fun _ _ _ => rfl) setErr_queues signal_queues, setSlice_queues]
  · rw [reportWithdrawal_frame State.mem (fun _ _ _ => rfl) setErr_mem signal_mem, setSlice_mem]

/-- An uncorrectable error counted. -/
def ueCounted (s : State) (sl : SliceId) : SliceRed :=
  { s.slice sl with
    ueCount := (if (s.slice sl).ueSecond = s.seconds then (s.slice sl).ueCount else 0) + 1, ueSecond := s.seconds }

theorem countUe_below (h : (ueCounted s sl).ueCount < fld (rd s (pgRed + Reg.RED_UE_LIMIT)) 7 0) :
    countUe s sl eng = s.setSlice sl (ueCounted s sl) :=
  if_neg (Nat.not_le.2 h)

theorem countUe_reaches (h : fld (rd s (pgRed + Reg.RED_UE_LIMIT)) 7 0 ≤ (ueCounted s sl).ueCount) :
    countUe s sl eng = withdrawSlice (s.setSlice sl (ueCounted s sl)) sl 4 eng :=
  if_pos h

end

/-- Counting an error changes nothing that a withdrawal starts from. -/
theorem Withdrawn.of_counted {s t : State} {sl : SliceId} {cls eng : Nat}
    (h : Withdrawn (s.setSlice sl (ueCounted s sl)) t sl cls eng) : Withdrawn s t sl cls eng := by
  have hseconds : (s.setSlice sl (ueCounted s sl)).seconds = s.seconds := by simp only [State.seconds, setSlice_time]
  have hrole : (ueCounted s sl).role = (s.slice sl).role := rfl
  have hlist : (ueCounted s sl).withdrawals = (s.slice sl).withdrawals := rfl
  unfold Withdrawn at h ⊢
  simpa only [slice_setSlice_same, slice_setSlice_other, recentWithdrawals, hseconds, hrole, hlist, rd_setSlice,
    setSlice_pipe, setSlice_queues, setSlice_mem] using h

/-- A fault that a slice in service detects in itself withdraws it (R653, R654). -/
theorem exec_onlineCheckFire_withdraws {s : State} {sl : SliceId} {ev : SliceFault} {cls : Nat} (eng : Byte)
    (hwf : Memory.wf s = true) (hrole : (s.slice sl).role ≠ .out) (hfenced : (s.slice sl).fenced = false)
    (hev : (ev = SliceFault.check ∧ cls = 1) ∨ (ev = .overrun ∧ cls = 2) ∨ (ev = .uncorrectable ∧ cls = 4
      ∧ fld (rd s (pgRed + Reg.RED_UE_LIMIT)) 7 0 ≤ (ueCounted s sl).ueCount)) :
    ∃ t, exec (.onlineCheckFire sl ev eng) s = .next t ∧ Withdrawn s t sl cls eng.toNat := by
  have hw := Memory.wf_regs hwf
  rcases hev with ⟨rfl, rfl⟩ | ⟨rfl, rfl⟩ | ⟨rfl, rfl, hlimit⟩
  · exact ⟨_, rfl, withdrawSlice_withdrawn hw hrole hfenced (.inl rfl)⟩
  · exact ⟨_, rfl, withdrawSlice_withdrawn hw hrole hfenced (.inr (.inl rfl))⟩
  · refine ⟨_, congrArg Host.Outcome.next (countUe_reaches hlimit), Withdrawn.of_counted ?_⟩
    exact withdrawSlice_withdrawn (by rwa [setSlice_regs]) (by rwa [slice_setSlice_same]) (by rwa [slice_setSlice_same])
      (.inr (.inr rfl))

/-! ### Return to service and self-test (R667, R669, R670) -/

section
variable {s : State} {sl : SliceId}

/-- A slice that becomes standby: its self-test passes start (R649, R669). -/
def standbySlice (s : State) (sl : SliceId) : SliceRed := { s.slice sl with
  role := .standby, claim := 0x80, readmit := false, retired := false, retireAtEnd := false
  withdrawals := if (s.slice sl).readmit then [] else (s.slice sl).withdrawals
  passRunning := true, passStart := s.tck.boundaries }

theorem becomeStandby_cases (s : State) (sl : SliceId) : becomeStandby s sl = s.setSlice sl (standbySlice s sl)
    ∨ becomeStandby s sl = endCmd (s.setSlice sl (standbySlice s sl)) pgRed stOK := by
  unfold becomeStandby standbySlice
  dsimp only
  split
  · exact .inr rfl
  · exact .inl rfl

/-- The roles of the slices stay as they are when a command ends. -/
theorem slice_endCmd (s : State) (page st : Nat) (sl : SliceId) : (endCmd s page st).slice sl = s.slice sl := by
  have hroles := rolesOf_finishCmd s page st 0 0 0
  simp only [rolesOf, Prod.mk.injEq] at hroles
  obtain ⟨hochre, hslate, -⟩ := hroles
  cases sl
  · exact hochre
  · exact hslate

theorem exec_autoReadmit_readmits (hrole : (s.slice sl).role = .qualifying) (hauto : fbit (rd s (pgRed + Reg.PAGE_CTL)) 2 = true)
    (hpassed : passed s (s.slice sl).qualifiedAt (boundariesIn s (10 ^ 9)) = true) :
    ∃ t, exec (.autoReadmit sl) s = .next t ∧ (t.slice sl).role = .standby ∧ (t.slice sl).claim = 0x80
      ∧ (t.slice sl).retired = false ∧ (t.slice sl).passRunning = true ∧ (t.slice sl).passStart = s.tck.boundaries
      ∧ t.slice sl.other = s.slice sl.other ∧ t.pipe = s.pipe ∧ t.queues = s.queues ∧ t.mem = s.mem := by
  have hrow : exec (.autoReadmit sl) s = .next (becomeStandby s sl) :=
    congrArg Host.Outcome.next (if_pos (by rw [hrole, hauto, hpassed]; rfl))
  refine ⟨_, hrow, ?_⟩
  rcases becomeStandby_cases s sl with h | h <;> rw [h]
  · simp [standbySlice]
  · simp [slice_endCmd, standbySlice]

theorem exec_autoReadmit_waits (h : (s.slice sl).role ≠ .qualifying ∨ fbit (rd s (pgRed + Reg.PAGE_CTL)) 2 = false
    ∨ passed s (s.slice sl).qualifiedAt (boundariesIn s (10 ^ 9)) = false) : exec (.autoReadmit sl) s = .next s := by
  refine congrArg Host.Outcome.next (if_neg ?_)
  rcases h with h | h | h
  · simp [h]
  · simp [h]
  · rw [h]; simp

/-- A self-test pass ends for the standby whose pass runs (R669). -/
theorem exec_selftestPassEnd (ms : Nat) (wrong : Option Byte) (hrole : (s.slice sl).role = .standby)
    (hrun : (s.slice sl).passRunning = true) (hother : (s.slice sl.other).role ≠ .standby) :
    exec (.selftestPassEnd ms wrong) s = .next (passEnd s sl ms (failingEngine (s.slice sl) wrong)) := by
  cases sl with
  | ochre => exact if_pos (by rw [show s.red.ochre = s.slice .ochre from rfl, hrole, hrun]; rfl)
  | slate =>
    have hochre : s.red.ochre.role ≠ .standby := hother
    refine (if_neg (by simp [hochre])).trans (if_pos ?_)
    rw [show s.red.slate = s.slice .slate from rfl, hrole, hrun]
    rfl

theorem failingEngine_sound {x : SliceRed} (hlatent : ∀ e, (e, InjectKind.latent) ∉ x.inject) (wrong : Option Byte) :
    failingEngine x wrong = wrong.map (·.toNat) := by
  have hnone : x.inject.find? (fun i => i.2 == .latent) = none := by
    rw [List.find?_eq_none]
    rintro ⟨e, k⟩ hmem hk
    exact hlatent e ((beq_iff_eq.1 hk : k = .latent) ▸ hmem)
  unfold failingEngine
  rw [hnone]
  cases wrong <;> rfl

/-- A pass that found nothing is counted and the next one begins (R669). -/
theorem passEnd_none_effects (hw : twf regDflt s.regs = true) (ms : Nat) :
    let t := passEnd s sl ms none
    t.slice sl = { s.slice sl with lastPassOk := true, passStart := s.tck.boundaries } ∧ t.slice sl.other = s.slice sl.other
      ∧ rd t (pgSelf sl + Reg.ST_PASS_CNT) = rd s (pgSelf sl + Reg.ST_PASS_CNT) + 1
      ∧ rd t (pgSelf sl + Reg.ST_LAST_PASS) = w32 (ms % 65536)
      ∧ RegsKept s t (fun a => a = pgSelf sl + Reg.ST_PASS_CNT ∨ a = pgSelf sl + Reg.ST_LAST_PASS)
      ∧ { t with regs := s.regs, red := s.red, evc := s.evc } = s := by
  intro t
  obtain ⟨e, hsignal⟩ := signal_eq (wr (bump (s.setSlice sl { s.slice sl with lastPassOk := true, passStart := s.tck.boundaries })
    (pgSelf sl + Reg.ST_PASS_CNT)) (pgSelf sl + Reg.ST_LAST_PASS) (w32 (ms % 65536))) (srcSlice sl 5 1) 0 1
  obtain ⟨r, hset⟩ := setSlice_eq s sl { s.slice sl with lastPassOk := true, passStart := s.tck.boundaries }
  have ht : t = { wr (bump (s.setSlice sl { s.slice sl with lastPassOk := true, passStart := s.tck.boundaries })
    (pgSelf sl + Reg.ST_PASS_CNT)) (pgSelf sl + Reg.ST_LAST_PASS) (w32 (ms % 65536)) with evc := e } := hsignal
  have hred : t.red = (s.setSlice sl { s.slice sl with lastPassOk := true, passStart := s.tck.boundaries }).red := by rw [ht]; rfl
  have hrd : ∀ a, rd t a = rd (wr (bump s (pgSelf sl + Reg.ST_PASS_CNT)) (pgSelf sl + Reg.ST_LAST_PASS) (w32 (ms % 65536))) a := by
    intro a; rw [ht, hset]; rfl
  have hne : pgSelf sl + Reg.ST_LAST_PASS ≠ pgSelf sl + Reg.ST_PASS_CNT := fun h => absurd (Nat.add_left_cancel h) (by decide)
  refine ⟨?_, ?_, ?_, ?_, ?_, ?_⟩
  · rw [slice_congr hred, slice_setSlice_same]
  · rw [slice_congr hred, slice_setSlice_other]
  · rw [hrd, rd_wr_other _ hne, rd_bump_same _ hw]
  · rw [hrd, rd_wr_same _ _ (twf_bump _ hw)]
  · intro a ha
    obtain ⟨hcnt, hlast⟩ := not_or.1 ha
    rw [hrd, rd_wr_other _ (Ne.symm hlast), rd_bump_other (Ne.symm hcnt)]
  · rw [ht, hset]; rfl

/-- A standby found faulty in engine `e`, before it withdraws (R670, R682). -/
def faultySlice (x : SliceRed) (e : Nat) : SliceRed :=
  { x with lastPassOk := false, inject := x.inject.filter (fun j => j != (e, .latent)) }

theorem passEnd_some (s : State) (sl : SliceId) (ms e : Nat) :
    passEnd s sl ms (some e) = withdrawSlice (s.setSlice sl (faultySlice (s.slice sl) e)) sl 3 e := by
  simp only [passEnd, shownLatent, dropInject, slice_setSlice_same, setSlice_setSlice, faultySlice]

/-- A wrong answer withdraws the standby with class 3 (R670). -/
theorem passEnd_some_effects (hw : twf regDflt s.regs = true) (ms e : Nat) (hrole : (s.slice sl).role ≠ .out)
    (hfenced : (s.slice sl).fenced = false) :
    let t := passEnd s sl ms (some e)
    (t.slice sl).claim = 0 ∧ (t.slice sl).fenced = true ∧ (t.slice sl).lastClass = 3 ∧ (t.slice sl).lastPassOk = false
      ∧ t.slice sl.other = s.slice sl.other ∧ fbit (rd t (pgSelf sl + Reg.PAGE_ERR)) 3 = true
      ∧ rd t (pgSelf sl + Reg.ST_PASS_CNT) = rd s (pgSelf sl + Reg.ST_PASS_CNT) := by
  intro t
  have hrole' : ((s.setSlice sl (faultySlice (s.slice sl) e)).slice sl).role ≠ .out := by rwa [slice_setSlice_same]
  have hfenced' : ((s.setSlice sl (faultySlice (s.slice sl) e)).slice sl).fenced = false := by rwa [slice_setSlice_same]
  have ht : t = reportWithdrawal ((s.setSlice sl (faultySlice (s.slice sl) e)).setSlice sl
      (fencedSlice (s.setSlice sl (faultySlice (s.slice sl) e)) sl 3)) sl 3 e :=
    (passEnd_some s sl ms e).trans (withdrawSlice_serving hrole' hfenced')
  have hslice : t.slice sl = fencedSlice (s.setSlice sl (faultySlice (s.slice sl) e)) sl 3 := by
    rw [ht, slice_congr reportWithdrawal_red, slice_setSlice_same]
  have hinfo : pgSelf sl + Reg.ST_FAIL_INFO ≠ pgSelf sl + Reg.ST_PASS_CNT := fun h => absurd (Nat.add_left_cancel h) (by decide)
  rw [hslice, ht]
  refine ⟨rfl, rfl, rfl, by simp [fencedSlice], ?_, ?_, ?_⟩
  · rw [slice_congr reportWithdrawal_red, slice_setSlice_other, slice_setSlice_other]
  · unfold reportWithdrawal
    rw [if_neg (by decide), if_neg (by decide), if_pos rfl]
    refine fbit_setErr ?_ (by decide) (by cases sl <;> decide)
    split
    · simpa using hw
    · exact twf_wr _ _ (by simpa using hw)
  · unfold reportWithdrawal
    rw [if_neg (by decide), if_neg (by decide), if_pos rfl, rd_setErr_other 3 (by cases sl <;> decide)
      (fun h => absurd (Nat.add_left_cancel h) (by decide)) (fun h => absurd (Nat.add_left_cancel h) (by decide))]
    split
    · rw [rd_setSlice, rd_setSlice]
    · rw [rd_wr_other _ hinfo, rd_setSlice, rd_setSlice]

end

/-! ### WITHDRAW and READMIT (R681) -/

section
variable {s : State} {via : Master} (seq : Byte) {a0 : Word} {sl : SliceId} (hwf : Memory.wf s = true)
  (hr : PageReady s pgRed via) (hv : Manages via) (hphase : s.power.phase ≠ .recovery) (hsl : sl = argSlice a0)

/-- A slice changed leaves the command that changed it running. -/
theorem cmdRuns_setSlice {u : State} {page code : Nat} {args : Word × Word × Word} (x : SliceRed)
    (h : CmdRuns s u page code seq.toNat via args) : CmdRuns s (u.setSlice sl x) page code seq.toNat via args := by
  obtain ⟨hrun, hresult, hkept⟩ := h
  exact ⟨(runningOn_congr (setSlice_running u sl x) page).trans hrun, (rd_setSlice u sl x _).trans hresult,
    fun a ha => (rd_setSlice u sl x a).trans (hkept a ha)⟩

include hwf hr hv hphase hsl

theorem exec_withdraw_fences (hrole : (s.slice sl).role = .active ∨ (s.slice sl).role = .standby)
    (hother : (s.slice sl.other).role = .active ∨ (s.slice sl.other).role = .standby) (hfenced : (s.slice sl).fenced = false) :
    ∃ t, exec (.withdraw via seq a0) s = .next t ∧ CmdRuns s t pgRed 2 seq.toNat via (a0, 0, 0)
      ∧ (t.slice sl).claim = 0 ∧ (t.slice sl).fenced = true ∧ (t.slice sl).role = (s.slice sl).role
      ∧ (t.slice sl).lastClass = 0 ∧ t.slice sl.other = s.slice sl.other
      ∧ { t with regs := s.regs, running := s.running, red := s.red } = s := by
  obtain ⟨r, n, hrow, hruns, -, -⟩ := commandRow_started (spec := specWithdraw) (code := 2) (seq := seq) (a0 := a0) (a1 := 0)
    (a2 := 0) (Memory.wf_regs hwf) redPlain hr hv.isGlobal (bne_iff_ne.2 hphase) (by decide)
  have hslice : ∀ sl, State.slice { s with regs := r, running := n } sl = s.slice sl := fun _ => slice_congr rfl _
  have hout : (s.slice sl).role ≠ .out := by rcases hrole with h | h <;> rw [h] <;> decide
  have hbody : specWithdraw.body ⟨pgRed, 2, seq.toNat, via, a0, 0, 0⟩ { s with regs := r, running := n }
      = State.setSlice { s with regs := r, running := n } sl (fencedSlice { s with regs := r, running := n } sl 0) := by
    simp only [specWithdraw, ← hsl, hslice, if_pos hrole, if_pos hother]
    rw [withdrawSlice_serving (by rwa [hslice]) (by rwa [hslice]), reportWithdrawal_none]
  rw [hbody] at hrow
  obtain ⟨d, hset⟩ := setSlice_eq { s with regs := r, running := n } sl (fencedSlice { s with regs := r, running := n } sl 0)
  refine ⟨_, congrArg Host.Outcome.next hrow, cmdRuns_setSlice seq _ hruns, ?_, ?_, ?_, ?_, ?_, by rw [hset]⟩
  all_goals simp only [slice_setSlice_same, slice_setSlice_other, hslice, fencedSlice]

omit hsl in
/-- A row that its body refuses ends with WRONG_STATE and changes nothing but its page's command registers. -/
theorem redRow_wrongState {spec : CmdSpec} {code : Nat} (hc : code < 256) (hrole : spec.role = Master.isGlobal)
    (hph : spec.phases = notRecovery)
    (hbody : ∀ u : State, u.red = s.red → spec.body ⟨pgRed, code, seq.toNat, via, a0, 0, 0⟩ u = endCmd u pgRed stWRONG_STATE) :
    Answered (commandRow spec pgRed code via seq a0 0 0 s) pgRed code seq.toNat stWRONG_STATE
      ∧ { commandRow spec pgRed code via seq a0 0 0 s with regs := s.regs, running := s.running } = s := by
  have hw := Memory.wf_regs hwf
  have hred : (begun s pgRed code via seq a0 0 0).red = s.red :=
    (congrArg State.red (begun_frame (code := code) (via := via) (seq := seq) (a0 := a0) (a1 := 0) (a2 := 0) hw redPlain) : _)
  rw [commandRow_accepted hw redPlain hr (by rw [hrole]; exact hv.isGlobal) (by rw [hph]; exact bne_iff_ne.2 hphase), hbody _ hred]
  exact begun_answered hw redPlain hr hv hc

theorem exec_withdraw_refused (hrole : (s.slice sl).role = .active ∨ (s.slice sl).role = .standby)
    (hother : (s.slice sl.other).role = .out ∨ (s.slice sl.other).role = .qualifying) :
    ∃ t, exec (.withdraw via seq a0) s = .next t ∧ Answered t pgRed 2 seq.toNat stWRONG_STATE
      ∧ { t with regs := s.regs, running := s.running } = s := by
  refine ⟨_, rfl, redRow_wrongState seq hwf hr hv hphase (by decide) rfl rfl fun u hu => ?_⟩
  have hserves : ¬((s.slice sl.other).role = .active ∨ (s.slice sl.other).role = .standby) := by
    rcases hother with h | h <;> rw [h] <;> decide
  simp only [specWithdraw, ← hsl, slice_congr hu, if_pos hrole, if_neg hserves]

theorem exec_readmit_refused (hrole : (s.slice sl).role = .active ∨ (s.slice sl).role = .standby) :
    ∃ t, exec (.readmit via seq a0) s = .next t ∧ Answered t pgRed 3 seq.toNat stWRONG_STATE
      ∧ { t with regs := s.regs, running := s.running } = s := by
  refine ⟨_, rfl, redRow_wrongState seq hwf hr hv hphase (by decide) rfl rfl fun u hu => ?_⟩
  simp only [specReadmit, ← hsl, slice_congr hu, if_pos hrole]

theorem exec_withdraw_waits (hrole : (s.slice sl).role = .out ∨ (s.slice sl).role = .qualifying) :
    ∃ t, exec (.withdraw via seq a0) s = .next t ∧ CmdRuns s t pgRed 2 seq.toNat via (a0, 0, 0)
      ∧ { t with regs := s.regs, running := s.running } = s := by
  have hserves : ¬((s.slice sl).role = .active ∨ (s.slice sl).role = .standby) := by
    rcases hrole with h | h <;> rw [h] <;> decide
  refine ⟨_, rfl, commandRow_waits_here (Memory.wf_regs hwf) redPlain hr hv.isGlobal (bne_iff_ne.2 hphase) (by decide)
    fun r n => ?_⟩
  have hslice : State.slice { s with regs := r, running := n } sl = s.slice sl := slice_congr rfl _
  simp only [specWithdraw, ← hsl, hslice, if_neg hserves]

/-- A slice that READMIT brings back: a retired one has its reset first (R681). -/
def readmittedSlice (x : SliceRed) : SliceRed :=
  { x with
    readmit := true, resetting := x.resetting || x.retired, retireAtEnd := false
    withdrawals := if x.retired then [] else x.withdrawals }

theorem exec_readmit_runs (hrole : (s.slice sl).role = .out ∨ (s.slice sl).role = .qualifying) :
    ∃ t, exec (.readmit via seq a0) s = .next t ∧ CmdRuns s t pgRed 3 seq.toNat via (a0, 0, 0)
      ∧ t.slice sl = readmittedSlice (s.slice sl) ∧ t.slice sl.other = s.slice sl.other
      ∧ { t with regs := s.regs, running := s.running, red := s.red } = s := by
  obtain ⟨r, n, hrow, hruns, -, -⟩ := commandRow_started (spec := specReadmit) (code := 3) (seq := seq) (a0 := a0) (a1 := 0)
    (a2 := 0) (Memory.wf_regs hwf) redPlain hr hv.isGlobal (bne_iff_ne.2 hphase) (by decide)
  have hserves : ¬((s.slice sl).role = .active ∨ (s.slice sl).role = .standby) := by
    rcases hrole with h | h <;> rw [h] <;> decide
  have hslice : ∀ sl, State.slice { s with regs := r, running := n } sl = s.slice sl := fun _ => slice_congr rfl _
  have hbody : specReadmit.body ⟨pgRed, 3, seq.toNat, via, a0, 0, 0⟩ { s with regs := r, running := n }
      = State.setSlice { s with regs := r, running := n } sl (readmittedSlice (s.slice sl)) := by
    simp only [specReadmit, ← hsl, hslice, if_neg hserves, readmittedSlice]
  rw [hbody] at hrow
  obtain ⟨d, hset⟩ := setSlice_eq { s with regs := r, running := n } sl (readmittedSlice (s.slice sl))
  exact ⟨_, congrArg Host.Outcome.next hrow, cmdRuns_setSlice seq _ hruns, slice_setSlice_same _ _ _,
    (slice_setSlice_other _ _ _).trans (hslice _), by rw [hset]⟩

end

/-! ### The end of a slice reset (R665 to R668) -/

section
variable (s : State)

theorem dropFrame_eq (id : Nat) : ∃ q p x, dropFrame s id = { s with queues := q, pipe := p, sched := { s.sched with nodes := x } } := by
  obtain ⟨q, p, hend⟩ := endTx_eq s id stOK true
  obtain ⟨p', x, hdrop⟩ := dropRef_eq (endTx s id stOK true) id
  exact ⟨q, p', x, by rw [dropFrame, hdrop, hend]⟩

/-- The log of errors changes alone, or its loss is counted and recorded (R640). -/
theorem logEcc_frame {β : Type} (g : State → β) (hlog : ∀ s e, g { s with ecc := e } = g s)
    (hlost : ∀ s, g (setErr (bump s (pgEcc + Reg.ECC_LOG_LOST)) pgEcc 4) = g s) (s : State)
    (ue checkOnly : Bool) (memory inst address position synd : Nat) :
    g (logEcc s ue checkOnly memory inst address position synd) = g s := by
  unfold logEcc
  extract_lets st x put lost
  have hput : ∀ k, g (put k) = g s := fun k => hlog s _
  generalize firstIdx _ (List.range 32) 0 = listed
  generalize firstIdx _ (List.range 32) 0 = empty
  cases listed with
  | some k =>
    dsimp only
    split
    · rfl
    · exact hlog s _
  | none =>
    cases empty with
    | some k => exact hput k
    | none =>
      dsimp only
      split
      · exact hlost s
      · split
        · exact hput _
        · exact hlost s

theorem logEcc_red (ue checkOnly : Bool) (memory inst address position synd : Nat) :
    (logEcc s ue checkOnly memory inst address position synd).red = s.red :=
  logEcc_frame State.red (fun _ _ => rfl) (fun _ => setErr_red _ pgEcc 4) s _ _ _ _ _ _ _

theorem reportUe_red (memory inst address position synd : Nat) :
    (reportUe s memory inst address position synd).red = s.red := by
  rw [reportUe, logEcc_red, signal_red, bump_red]

theorem reportCe_red (checkOnly : Bool) (memory inst address position synd : Nat) :
    (reportCe s checkOnly memory inst address position synd).red = s.red := by
  rw [reportCe, logEcc_red, signal_red, setErr_red, bump_red]

/-- An outcome counts, and raises the error of a bad one (R576). -/
theorem cipOutcome_frame {β : Type} (g : State → β) (hbump : ∀ s a, g (bump s a) = g s)
    (hsignal : ∀ s c q n, g (signal s c q n) = g s) (herr : ∀ s page n, g (setErr s page n) = g s) (s : State) (sa : SaRef)
    (k : Nat) : g (cipOutcome s sa k) = g s := by
  unfold cipOutcome
  extract_lets pg s1 s2 s3
  have h1 : g s1 = g s := (hsignal _ _ _ _).trans (hbump _ _)
  have h2 : g s2 = g s := by
    unfold s2
    generalize outcomeBit k = o
    cases o with
    | none => exact h1
    | some b => exact (herr _ _ _).trans h1
  have h3 : g s3 = g s := (hbump _ _).trans h2
  split
  · exact h2
  split
  · exact h3
  · exact (hbump _ _).trans h3

theorem cipOutcome_red (sa : SaRef) (k : Nat) : (cipOutcome s sa k).red = s.red :=
  cipOutcome_frame State.red bump_red signal_red setErr_red s sa k

theorem refuseDec_red (r : DecReq) (k : Nat) : (refuseDec s r k).red = s.red := by
  unfold refuseDec
  dsimp only
  split
  · obtain ⟨q, p, hend⟩ := endTx_eq (dropDec (cipOutcome s r.sa k) r.view.frame) r.view.frame stPOISONED true
    obtain ⟨p', x, hdrop⟩ := dropRef_eq (endTx (dropDec (cipOutcome s r.sa k) r.view.frame) r.view.frame stPOISONED true) r.view.frame
    rw [hdrop, hend]
    exact cipOutcome_red s r.sa k
  · obtain ⟨q, p, x, hdrop⟩ := dropFrame_eq (dropDec (cipOutcome s r.sa k) r.view.frame) r.view.frame
    rw [hdrop]
    exact cipOutcome_red s r.sa k

theorem poisonFound_red (sl : SliceId) : (poisonFound s sl).red = s.red := by
  unfold poisonFound; simp

theorem poisonHold_red : (poisonHold s).red = s.red := by
  unfold poisonHold
  dsimp only
  split
  · rfl
  · exact refuseDec_red _ _ _

theorem poisonSlot_red (sl : SliceId) (p : Nat) : (poisonSlot s sl p).red = s.red := by
  unfold poisonSlot
  dsimp only
  split
  · rfl
  · exact poisonFound_red _ _

theorem poisonRow_red (sl : SliceId) (i : Nat) : (poisonRow s sl i).red = s.red := by
  unfold poisonRow
  dsimp only
  split
  · rfl
  · split
    · rfl
    · exact poisonFound_red _ _

end

/-- Of a slice's redundancy registers at most its count of uncorrectable errors has changed, and nothing of the other's. -/
def OnlyUeCounted (sl : SliceId) (s t : State) : Prop :=
  t.slice sl.other = s.slice sl.other ∧ ∃ n m, t.slice sl = { s.slice sl with ueCount := n, ueSecond := m }

section
variable {s t u : State} {sl : SliceId} {f : ChipFlip}

theorem OnlyUeCounted.of_red (h : t.red = s.red) : OnlyUeCounted sl s t :=
  ⟨slice_congr h _, (s.slice sl).ueCount, (s.slice sl).ueSecond, slice_congr h _⟩

theorem OnlyUeCounted.trans (h : OnlyUeCounted sl s t) (h' : OnlyUeCounted sl t u) : OnlyUeCounted sl s u := by
  obtain ⟨hother, n, m, hslice⟩ := h
  obtain ⟨hother', n', m', hslice'⟩ := h'
  exact ⟨hother'.trans hother, n', m', by rw [hslice', hslice]⟩

theorem OnlyUeCounted.role (h : OnlyUeCounted sl s t) : (t.slice sl).role = (s.slice sl).role := by
  obtain ⟨-, n, m, hslice⟩ := h
  rw [hslice]

/-- An error counted for a slice out of service withdraws nothing. -/
theorem OnlyUeCounted.countUe (hout : (s.slice sl).role = .out) (eng : Nat) : OnlyUeCounted sl s (countUe s sl eng) := by
  have hcounted : Machine.countUe s sl eng = s.setSlice sl (ueCounted s sl) := by
    by_cases hlimit : fld (rd s (pgRed + Reg.RED_UE_LIMIT)) 7 0 ≤ (ueCounted s sl).ueCount
    · rw [countUe_reaches hlimit, withdrawSlice_out (by rw [slice_setSlice_same]; exact hout)]
    · exact countUe_below (Nat.lt_of_not_le hlimit)
  rw [hcounted]
  exact ⟨slice_setSlice_other _ _ _, _, _, slice_setSlice_same _ _ _⟩

/-- What a flip of a slice's arrays does to its array, before it counts (R636). -/
theorem chipUe_slice (s : State) (hslice : 4 ≤ f.memory) : ∃ u : State, u.red = s.red
    ∧ chipUe s f = countUe u (instSlice f.inst) 0 := by
  have hreport := reportUe_red s f.memory f.inst f.word 0xFF (flipSyndrome f)
  unfold chipUe
  extract_lets sl s1 pipe s2
  refine ⟨s2, ?_, if_pos hslice⟩
  have hedge : f.memory ≠ 1 ∧ f.memory ≠ 2 ∧ f.memory ≠ 3 := by omega
  unfold s2
  rw [if_neg hedge.1, if_neg (fun h => hedge.2.2 h.1), if_neg (by rintro (h | h) <;> omega)]
  split
  · split
    · exact hreport
    · exact hreport
  split
  · exact (poisonSlot_red _ _ _).trans hreport
  split
  · exact (poisonHold_red _).trans hreport
  split
  · exact (poisonRow_red _ _ _).trans hreport
  split
  · exact hreport
  · exact hreport

theorem OnlyUeCounted.readFlip (hout : (s.slice sl).role = .out) (hslice : 4 ≤ f.memory) (hinst : instSlice f.inst = sl) :
    OnlyUeCounted sl s (readFlip s f) := by
  unfold Machine.readFlip
  extract_lets ecc s0
  split
  · exact .of_red rfl
  · exact .of_red (reportCe_red _ _ _ _ _ _ _)
  · obtain ⟨u, hred, hcount⟩ := chipUe_slice (f := f) s0 hslice
    have hu : OnlyUeCounted sl s u := .of_red hred
    rw [hcount, hinst]
    exact hu.trans (.countUe (hu.role.trans hout) 0)

theorem OnlyUeCounted.foldl_readFlip : ∀ (l : List ChipFlip) (s : State), (s.slice sl).role = .out →
    (∀ f ∈ l, 4 ≤ f.memory ∧ instSlice f.inst = sl) → OnlyUeCounted sl s (l.foldl Machine.readFlip s)
  | [], _, _, _ => .of_red rfl
  | f :: l, s, hout, h => by
    obtain ⟨hslice, hinst⟩ := h f List.mem_cons_self
    have hfirst : OnlyUeCounted sl s (Machine.readFlip s f) := .readFlip hout hslice hinst
    exact hfirst.trans (foldl_readFlip l _ (hfirst.role.trans hout) fun g hg => h g (List.mem_cons_of_mem f hg))

/-- The arrays read and the copies reloaded: of the roles only the count of errors has changed (R665). -/
theorem exec_sliceResetEnd (pass : Bool) (hreset : (s.slice sl).resetting = true) (hout : (s.slice sl).role = .out) :
    ∃ u, exec (.sliceResetEnd sl pass) s = .next (resetEnd sl pass u) ∧ OnlyUeCounted sl s u
      ∧ (Memory.wf s = true → Memory.wf u = true) := by
  refine ⟨_, if_neg (by simp [hreset]), ?_, fun hwf => ?_⟩
  · refine OnlyUeCounted.trans (.foldl_readFlip (s.ecc.flips.filter (fun f => decide (4 ≤ f.memory) && instSlice f.inst == sl))
      s hout fun f hf => ?_) (.of_red rfl)
    simpa using (List.mem_filter.1 hf).2
  · have hkeeps : Keeps ⟨true, true, true, true, true⟩ s (reloadCopies
        ((s.ecc.flips.filter (fun f => decide (4 ≤ f.memory) && instSlice f.inst == sl)).foldl Machine.readFlip s) sl) :=
      reloadCopies_keeps _ sl (Keeps.foldl _ (fun _ _ h => readFlip_keeps _ _ h) _ _ (Keeps.refl s))
    exact hkeeps.wf hwf

/-- A slice whose reset has ended (R665, R682). -/
def resetSlice (x : SliceRed) : SliceRed := { x with resetting := false, inject := keptInject x.inject }

theorem resetEnd_passed (h : (s.slice sl).readmit = true ∨ ((s.slice sl).retireAtEnd = false ∧ (s.slice sl).retired = false)) :
    resetEnd sl true s = s.setSlice sl { resetSlice (s.slice sl) with retired := false }
    ∨ resetEnd sl true s = s.setSlice sl { resetSlice (s.slice sl) with retired := false, retireAtEnd := false } := by
  cases hre : (s.slice sl).readmit with
  | true => right; simp [resetEnd, hre, resetSlice]
  | false =>
    obtain ⟨hend, hretired⟩ := h.resolve_left (by simp [hre])
    left
    simp [resetEnd, hre, hend, hretired, resetSlice]

/-- A slice that becomes retired is reported: bit 2 of the page's errors and source 0x15 (R666). -/
def retiredSlice (s : State) (sl : SliceId) : State :=
  s.setSlice sl { resetSlice (s.slice sl) with retired := true, retireAtEnd := false, readmit := false }

theorem resetEnd_failed (s : State) (sl : SliceId) : resetEnd sl false s = reportOut (retiredSlice s sl)
    ∨ resetEnd sl false s = endCmd (reportOut (retiredSlice s sl)) pgRed stFAULT := by
  unfold resetEnd
  simp only [Bool.false_and, Bool.and_false, Bool.false_eq_true, if_false]
  split
  · exact .inr rfl
  · exact .inl rfl

end

end Sys2Proof.Machine

/-! SUPPORT. The switch-over (R656 to R662) and the end of a slice reset. -/
namespace Sys2Proof.Machine

/-! ### What the work carried on at a switch-over leaves as it was -/

/-- The roles, DRAM, the alarms, the tags and the registers up to the redundancy page stand as they were. -/
structure CarriedOn (s t : State) : Prop where
  red : t.red = s.red
  mem : t.mem = s.mem
  vkeep : t.vkeep = s.vkeep
  tags : t.pcie.tags = s.pcie.tags
  rd : ∀ a, a < 0x5000 → rd t a = rd s a

/-- No register up to the redundancy page is a vector counter. -/
theorem redWord_plain {a : Nat} (ha : a < 0x5000) : a ∉ vectorCounters := by
  have hlow : ∀ c ∈ vectorCounters, 0x8000 ≤ c := by decide
  intro h
  have := hlow a h
  omega

theorem slicePage_le (sl : SliceId) (k : Nat) : 0x100000 ≤ pgSlice sl k := by
  unfold pgSlice; omega

namespace CarriedOn
variable {s t u : State}

theorem of_regs (hred : t.red = s.red) (hmem : t.mem = s.mem) (hvkeep : t.vkeep = s.vkeep) (hpcie : t.pcie = s.pcie)
    (hregs : t.regs = s.regs) : CarriedOn s t :=
  ⟨hred, hmem, hvkeep, congrArg PcieUnit.tags hpcie, fun _ _ => rd_congr hregs⟩

theorem refl (s : State) : CarriedOn s s := of_regs rfl rfl rfl rfl rfl

theorem trans (h : CarriedOn s t) (h' : CarriedOn t u) : CarriedOn s u :=
  ⟨h'.red.trans h.red, h'.mem.trans h.mem, h'.vkeep.trans h.vkeep, h'.tags.trans h.tags,
    fun a ha => (h'.rd a ha).trans (h.rd a ha)⟩

theorem foldl {α : Type} {f : State → α → State} (hf : ∀ t a, CarriedOn t (f t a)) :
    ∀ (l : List α) (s : State), CarriedOn s (l.foldl f s)
  | [], s => refl s
  | a :: l, s => (hf s a).trans (foldl hf l (f s a))

theorem wr {a : Nat} {w : Word} (ha : 0x5000 ≤ a) : CarriedOn s (wr s a w) :=
  ⟨rfl, rfl, rfl, rfl, fun _ hhi => rd_wr_other w (by omega)⟩

theorem setErr {page n : Nat} (hpage : 0x5000 ≤ page) : CarriedOn s (setErr s page n) :=
  ⟨setErr_red _ _ _, setErr_mem _ _ _, setErr_vkeep _ _ _, setErr_tags _ _ _,
    fun _ hhi => rd_setErr_other n (redWord_plain hhi) (by omega) (by omega)⟩

theorem dropFrame (id : Nat) : CarriedOn s (dropFrame s id) := by
  obtain ⟨q, p, x, h⟩ := dropFrame_eq (s := s) id
  rw [h]
  exact of_regs rfl rfl rfl rfl rfl

theorem doneSending (d : Desc) (time : Option Nat) : CarriedOn s (doneSending s d time) := by
  obtain ⟨q, p, x, h⟩ := doneSending_eq s d time
  rw [h]
  exact of_regs rfl rfl rfl rfl rfl

theorem countResumed : CarriedOn s (countResumed s) :=
  wr (Nat.le_trans (Nat.le_trans (by decide) (slicePage_le _ _)) (Nat.le_add_right _ _))

theorem syncRelease : CarriedOn s (syncRelease s) := by
  obtain ⟨r, h⟩ := syncRelease_regs (s := s)
  refine ⟨?_, ?_, ?_, ?_, fun a hhi => Machine.rd_syncRelease s fun sl => ?_⟩
  · rw [h]
  · rw [h]
  · rw [h]
  · rw [h]
  · have := slicePage_le sl 1
    simp only [pgTbl]; omega

theorem restartItem (i : WorkItem) : CarriedOn s (restartItem s i) := of_regs rfl rfl rfl rfl rfl

/-- An entry carried on touches queues, free cells and waiting frames alone (R295, R336). -/
theorem switchItem (i : WorkItem) : CarriedOn s (switchItem s i) := by
  unfold Machine.switchItem
  dsimp only
  split
  case h_1 => split <;> exact of_regs rfl rfl rfl rfl rfl
  case h_2 => split <;> exact of_regs rfl rfl rfl rfl rfl
  case h_3 =>
    split
    · exact refl s
    · split
      · exact of_regs rfl rfl rfl rfl rfl
      · exact restartItem i
  case h_4 => exact restartItem i
  case h_5 =>
    split
    · exact refl s
    · exact restartItem i
  case h_6 =>
    split
    · exact restartItem i
    · exact refl s
  case h_7 =>
    split
    · exact restartItem i
    · exact refl s
  case h_8 => exact refl s

theorem cipSwitch : CarriedOn s (cipSwitch s) := by
  unfold Machine.cipSwitch
  refine trans (foldl (fun t r => ?_) (s.pipe.decQ.filter (fun r => r.stage != .wait)) s) (of_regs rfl rfl rfl rfl rfl)
  exact trans (of_regs (t := dropDec t r.view.frame) rfl rfl rfl rfl rfl) (dropFrame _)

theorem crtPop : CarriedOn s (crtPop s) := by
  unfold Machine.crtPop
  split
  · exact refl s
  · refine trans ?_ (dropFrame _)
    exact of_regs rfl rfl rfl rfl rfl

theorem crtSwitch : CarriedOn s (crtSwitch s) := by
  unfold Machine.crtSwitch
  dsimp only
  refine trans (t := if s.crt.rx.isSome then Machine.crtPop s else s) ?_ (foldl ?_ _ _)
  swap
  · exact fun _ _ => of_regs rfl rfl rfl rfl rfl
  split
  · exact crtPop
  · exact refl s

theorem abortSend (p : Nat) (d : Desc) : CarriedOn s (abortSend s p d) := by
  have hcount : CarriedOn s (portStat (emit s (.wire p [] false)) p 36 1) := of_regs rfl rfl rfl rfl rfl
  have herr : CarriedOn s (Machine.setErr (portStat (emit s (.wire p [] false)) p 36 1) (pgMac p) 3) :=
    hcount.trans (setErr (Nat.le_trans (by decide : 0x5000 ≤ 0x20000) (Nat.le_add_right _ _)))
  exact herr.trans (doneSending d none)

theorem abortSealed (p : Nat) : CarriedOn s (abortSealed s p) := by
  unfold Machine.abortSealed
  dsimp only
  split
  · split
    · refine trans ?_ (abortSend p _)
      exact of_regs rfl rfl rfl rfl rfl
    · exact refl s
  · exact refl s

theorem paceBoundary : CarriedOn s (paceBoundary s) := by
  unfold Machine.paceBoundary
  extract_lets s1 bad waits s2 q s3
  have h1 : CarriedOn s s1 := by
    refine foldl (fun t e => ?_) _ _
    split
    · exact of_regs rfl rfl rfl rfl rfl
    · exact refl t
  have h2 : CarriedOn s1 s2 := by
    unfold s2
    split
    · exact wr (Nat.le_trans (Nat.le_trans (by decide) (slicePage_le _ _)) (Nat.le_add_right _ _))
    · exact refl s1
  have h3 : CarriedOn s2 s3 := of_regs rfl rfl rfl rfl rfl
  have hall := h1.trans (h2.trans h3)
  split
  · exact hall.trans (setErr (by decide))
  · exact hall

end CarriedOn

/-! ### The switch-over itself (R656 to R662, R677) -/

/-- What a switch-over notes on the redundancy page (R662). -/
def switchNoted (s : State) (old : SliceId) : State :=
  let s1 := bump (setErr s pgRed 1) (pgRed + Reg.RED_SWITCH_CNT)
  if fbit (rd s1 (pgRed + Reg.RED_LAST_SWITCH)) 31 then s1
  else wr s1 (pgRed + Reg.RED_LAST_SWITCH)
    (w32 (s1.stamp + 65536 * old.num + 131072 * (s1.slice old).lastClass + 2 ^ 31))

theorem reportSwitch_eq (s : State) (old : SliceId) :
    reportSwitch s old = amber (signal (aerCor (switchNoted s old) 0 14) (srcEdge 5 0 0) 0 1) 0x14 := rfl

section
variable {s : State} {old : SliceId}

theorem rd_reportSwitch {a : Nat} (ha : a < 0x5000) : rd (reportSwitch s old) a = rd (switchNoted s old) a := by
  have hcus : a < pgCus := Nat.lt_of_lt_of_le ha (by decide)
  rw [reportSwitch_eq, rd_amber _ _ (redWord_plain ha) (.inl ha) (.inl hcus)]
  exact rd_congr (by simp)

/-- The words of the redundancy page after the report of a switch-over. -/
theorem switchNoted_words (hwf : Memory.wf s = true) :
    rd (switchNoted s old) (pgRed + Reg.RED_SWITCH_CNT) = rd s (pgRed + Reg.RED_SWITCH_CNT) + 1
      ∧ fbit (rd (switchNoted s old) (pgRed + Reg.PAGE_ERR)) 1 = true
      ∧ rd (switchNoted s old) (pgRed + Reg.RED_REPLAY_CNT) = rd s (pgRed + Reg.RED_REPLAY_CNT)
      ∧ rd (switchNoted s old) (pgRed + Reg.RED_LAST_SWITCH) = (if fbit (rd s (pgRed + Reg.RED_LAST_SWITCH)) 31
          then rd s (pgRed + Reg.RED_LAST_SWITCH)
          else w32 (s.stamp + 65536 * old.num + 131072 * (s.slice old).lastClass + 2 ^ 31)) := by
  have hw := twf_setErr pgRed 1 hwf
  have hcount : rd (bump (setErr s pgRed 1) (pgRed + Reg.RED_SWITCH_CNT)) (pgRed + Reg.RED_SWITCH_CNT)
      = rd s (pgRed + Reg.RED_SWITCH_CNT) + 1 := by
    rw [rd_bump_same _ hw, rd_setErr_other 1 (by decide) (by decide) (by decide)]
  have herr : fbit (rd (bump (setErr s pgRed 1) (pgRed + Reg.RED_SWITCH_CNT)) (pgRed + Reg.PAGE_ERR)) 1 = true := by
    rw [rd_bump_other (by decide)]
    exact fbit_setErr (Memory.wf_regs hwf) (by decide) (by decide)
  have hreplay : rd (bump (setErr s pgRed 1) (pgRed + Reg.RED_SWITCH_CNT)) (pgRed + Reg.RED_REPLAY_CNT)
      = rd s (pgRed + Reg.RED_REPLAY_CNT) := by
    rw [rd_bump_other (by decide), rd_setErr_other 1 (by decide) (by decide) (by decide)]
  have hlast : rd (bump (setErr s pgRed 1) (pgRed + Reg.RED_SWITCH_CNT)) (pgRed + Reg.RED_LAST_SWITCH)
      = rd s (pgRed + Reg.RED_LAST_SWITCH) := by
    rw [rd_bump_other (by decide), rd_setErr_other 1 (by decide) (by decide) (by decide)]
  have hstamp : (bump (setErr s pgRed 1) (pgRed + Reg.RED_SWITCH_CNT)).stamp = s.stamp := by simp [State.stamp]
  have hclass : ((bump (setErr s pgRed 1) (pgRed + Reg.RED_SWITCH_CNT)).slice old).lastClass = (s.slice old).lastClass := by
    rw [slice_congr (s := s) (by simp)]
  unfold switchNoted
  simp only [hlast, hstamp, hclass]
  split
  · exact ⟨hcount, herr, hreplay, hlast⟩
  · refine ⟨?_, ?_, ?_, rd_wr_same _ _ (twf_bump _ hw)⟩
    · rw [rd_wr_other _ (by decide), hcount]
    · rw [rd_wr_other _ (by decide), herr]
    · rw [rd_wr_other _ (by decide), hreplay]

theorem amber_tags (src : Nat) : (amber s src).pcie.tags = s.pcie.tags := by
  have hirq (u : State) : (cusIrq u).pcie.tags = u.pcie.tags := by
    unfold cusIrq
    dsimp only
    split
    · exact fireVector_tags _ _ _
    · rfl
  unfold amber
  dsimp only
  split
  · rfl
  · rw [hirq, setErr_tags, setErr_tags, signal_pcie]
    rfl

/-- Of the rest, the report of a switch-over raises source 0x14 (R662). -/
theorem reportSwitch_frame : (reportSwitch s old).red = s.red ∧ (reportSwitch s old).mem = s.mem
    ∧ (reportSwitch s old).running = s.running
    ∧ (reportSwitch s old).vkeep = { s.vkeep with latch := s.vkeep.latch ||| 0x00100000 }
    ∧ (reportSwitch s old).pcie.tags = s.pcie.tags := by
  have hred : (switchNoted s old).red = s.red := by unfold switchNoted; dsimp only; split <;> simp
  have hmem : (switchNoted s old).mem = s.mem := by unfold switchNoted; dsimp only; split <;> simp
  have hrun : (switchNoted s old).running = s.running := by unfold switchNoted; dsimp only; split <;> simp
  have hvkeep : (switchNoted s old).vkeep = s.vkeep := by unfold switchNoted; dsimp only; split <;> simp
  have htags : (switchNoted s old).pcie.tags = s.pcie.tags := by
    unfold switchNoted
    dsimp only
    split <;> exact setErr_tags _ _ _
  have haer : (aerCor (switchNoted s old) 0 14).pcie.tags = s.pcie.tags := by
    unfold aerCor
    dsimp only
    split <;> exact htags
  rw [reportSwitch_eq]
  refine ⟨?_, ?_, ?_, ?_, ?_⟩
  · simp [hred]
  · simp [hmem]
  · simp [hrun]
  · rw [amber_vkeep]; simp [hvkeep, w32]
  · rw [amber_tags, signal_pcie, haer]

end

/-- The standby slice with the active role, and the other slice's tags stale (R263, R656). -/
def activated (s : State) (sl : SliceId) : State :=
  staleTagsOf (s.setSlice sl { s.slice sl with role := .active, claim := 0xC0, passRunning := false }) sl.other

/-- The switch-over counted, reported, and its gap noted (R658, R660, R662). -/
def switchCounted (replay : Nat) (gap : Fin 3) (s : State) (sl : SliceId) : State :=
  let s4 := signal (bumpBy (reportSwitch (activated s sl) sl.other) (pgRed + Reg.RED_REPLAY_CNT) replay) (srcEdge 5 0 2) 0 (gap.val + 1)
  if fld (rd s4 (pgRed + Reg.RED_GAP_MAX)) 1 0 < gap.val + 1 then
    wr s4 (pgRed + Reg.RED_GAP_MAX) (w32 (gap.val + 1)) else s4

/-- A waiting EQUINOX_NOW ends with the switch-over (R677, R681). -/
def equinoxNowDone (s : State) : State :=
  if redCmd s == some (1, argSlice ((runningOn s pgRed).elim 0 (·.a0))) then endCmd s pgRed stOK else s

/-- No equinox is due any more, and its count restarts (R677). -/
def equinoxServed (u : State) : State :=
  { u with red := { u.red with stage := .idle, due := false, dueAgainAt := none, count := 0, deferAlarmed := false } }

theorem rd_equinoxServed (u : State) (a : Nat) : rd (equinoxServed u) a = rd u a := rfl

/-- The state in which the former standby is active. -/
def tookOver (replay : Nat) (gap : Fin 3) (s : State) (sl : SliceId) : State :=
  equinoxServed (equinoxNowDone (switchCounted replay gap s sl))

section
variable {s : State} {sl : SliceId} {replay : Nat} {gap : Fin 3}

theorem takeOver_standby (hacc : s.red.accepted = some sl) (hact : s.activeSlice = none) (hrole : (s.slice sl).role = .standby) :
    takeOver replay gap s = some (tookOver replay gap s sl) := by
  simp only [takeOver, hacc, hact, hrole, if_true]
  rfl

theorem activated_eq : ∃ p, activated s sl = { s.setSlice sl { s.slice sl with
      role := .active, claim := 0xC0, passRunning := false } with pcie := p }
    ∧ p.tags = s.pcie.tags.map (fun t => if t.slice = sl.other then { t with stale := true } else t) := by
  cases sl <;> exact ⟨_, rfl, rfl⟩

theorem wf_activated (hwf : Memory.wf s = true) : Memory.wf (activated s sl) = true := by
  cases sl <;> exact Memory.wf_of rfl rfl rfl rfl hwf

theorem slice_activated : (activated s sl).slice sl = { s.slice sl with role := .active, claim := 0xC0, passRunning := false }
    ∧ (activated s sl).slice sl.other = s.slice sl.other := by
  cases sl <;> exact ⟨rfl, rfl⟩

theorem rd_activated (a : Nat) : rd (activated s sl) a = rd s a := by
  cases sl <;> rfl

/-- Every tag of the slice that was active is stale (R263). -/
theorem activated_stale : ∀ x ∈ (activated s sl).pcie.tags, x.slice = sl.other → x.stale = true := by
  obtain ⟨p, heq, htags⟩ := activated_eq (s := s) (sl := sl)
  rw [heq]
  intro x hx hslice
  obtain ⟨y, -, rfl⟩ := List.mem_map.1 (htags ▸ hx)
  by_cases hy : y.slice = sl.other
  · rw [if_pos hy]
  · rw [if_neg hy] at hslice
    exact absurd hslice hy

/-- The registers after the switch-over is counted. -/
theorem switchCounted_words (hwf : Memory.wf s = true) :
    rd (switchCounted replay gap s sl) (pgRed + Reg.RED_SWITCH_CNT) = rd s (pgRed + Reg.RED_SWITCH_CNT) + 1
      ∧ fbit (rd (switchCounted replay gap s sl) (pgRed + Reg.PAGE_ERR)) 1 = true
      ∧ rd (switchCounted replay gap s sl) (pgRed + Reg.RED_REPLAY_CNT) = rd s (pgRed + Reg.RED_REPLAY_CNT) + w32 replay
      ∧ rd (switchCounted replay gap s sl) (pgRed + Reg.RED_LAST_SWITCH) = (if fbit (rd s (pgRed + Reg.RED_LAST_SWITCH)) 31
          then rd s (pgRed + Reg.RED_LAST_SWITCH)
          else w32 (s.stamp + 65536 * sl.other.num + 131072 * (s.slice sl.other).lastClass + 2 ^ 31)) := by
  have hstamp : (activated s sl).stamp = s.stamp := by cases sl <;> rfl
  have hw : twf regDflt (reportSwitch (activated s sl) sl.other).regs = true :=
    Memory.wf_of_keeps (reportSwitch_keeps (kk := ⟨true, true, true, true, true⟩) _ sl.other (Keeps.refl _)) (wf_activated hwf)
  have hgap : ∀ a, a ≠ pgRed + Reg.RED_GAP_MAX → rd (switchCounted replay gap s sl) a
      = rd (bumpBy (reportSwitch (activated s sl) sl.other) (pgRed + Reg.RED_REPLAY_CNT) replay) a := by
    intro a ha
    unfold switchCounted
    dsimp only
    split
    · rw [rd_wr_other _ ha.symm, rd_congr (signal_regs _ _ _ _)]
    · exact rd_congr (signal_regs _ _ _ _)
  obtain ⟨hcount, herr, hreplay, hlast⟩ := switchNoted_words (old := sl.other) (wf_activated (sl := sl) hwf)
  simp only [rd_activated, hstamp, slice_activated.2] at hcount hreplay hlast
  refine ⟨?_, ?_, ?_, ?_⟩
  · rw [hgap _ (by decide), bumpBy, rd_wr_other _ (by decide), rd_reportSwitch (by decide), hcount]
  · rw [hgap _ (by decide), bumpBy, rd_wr_other _ (by decide), rd_reportSwitch (by decide), herr]
  · rw [hgap _ (by decide), bumpBy, rd_wr_same _ _ hw, rd_reportSwitch (by decide), hreplay]
  · rw [hgap _ (by decide), bumpBy, rd_wr_other _ (by decide), rd_reportSwitch (by decide), hlast]

theorem switchCounted_frame : (switchCounted replay gap s sl).red = (activated s sl).red
    ∧ (switchCounted replay gap s sl).mem = s.mem
    ∧ (switchCounted replay gap s sl).vkeep = { s.vkeep with latch := s.vkeep.latch ||| 0x00100000 }
    ∧ (switchCounted replay gap s sl).pcie.tags = (activated s sl).pcie.tags := by
  obtain ⟨hred, hmem, -, hvkeep, htags⟩ := reportSwitch_frame (s := activated s sl) (old := sl.other)
  have hmem0 : (activated s sl).mem = s.mem := by cases sl <;> rfl
  have hvkeep0 : (activated s sl).vkeep = s.vkeep := by cases sl <;> rfl
  unfold switchCounted
  dsimp only
  split <;> refine ⟨?_, ?_, ?_, ?_⟩ <;> simp [hred, hmem, hvkeep, htags, hmem0, hvkeep0]

/-- The end of a waiting EQUINOX_NOW changes the command words and what the sync engine waits for, and no role. -/
theorem equinoxNowDone_frame : rolesOf (equinoxNowDone s).red = rolesOf s.red ∧ (equinoxNowDone s).mem = s.mem
    ∧ (equinoxNowDone s).vkeep = s.vkeep ∧ (equinoxNowDone s).pcie = s.pcie
    ∧ ∀ a, ¬CmdWord pgRed a → a ≠ pgRed + Reg.PAGE_ERR_FIRST → rd (equinoxNowDone s) a = rd s a := by
  unfold equinoxNowDone
  split
  · exact ⟨rolesOf_finishCmd s pgRed stOK 0 0 0, endCmd_mem _ _ _, endCmd_vkeep _ _ _, endCmd_pcie _ _ _,
      fun a hcmd hfirst => rd_finishCmd_other hcmd hfirst⟩
  · exact ⟨rfl, rfl, rfl, rfl, fun _ _ _ => rfl⟩

/-- What the switch-over leaves after the entries in hand are carried on. -/
def switchedOver (replay : Nat) (gap : Fin 3) (s : State) (sl : SliceId) : State :=
  (List.range 7).foldl abortSealed (crtSwitch (cipSwitch (dmaSwitch (syncRelease (countResumed (tookOver replay gap s sl))))))

/-- The last of a switch-over: nothing is left to synchronise, and pacing is judged again. -/
def switchDone (u : State) : State := paceBoundary { u with red := { u.red with syncTodo := [] } }

theorem switchDone_frame (u : State) : (switchDone u).red = { u.red with syncTodo := [] } ∧ (switchDone u).mem = u.mem
    ∧ (switchDone u).vkeep = u.vkeep ∧ (switchDone u).pcie.tags = u.pcie.tags
    ∧ ∀ a, a < 0x5000 → rd (switchDone u) a = rd u a := by
  obtain ⟨hred, hmem, hvkeep, htags, hrd⟩ := CarriedOn.paceBoundary (s := { u with red := { u.red with syncTodo := [] } })
  exact ⟨hred, hmem, hvkeep, htags, hrd⟩

theorem exec_switchOver (hacc : s.red.accepted = some sl) (hact : s.activeSlice = none) (hrole : (s.slice sl).role = .standby) :
    exec (.switchOver replay gap) s = .next (switchDone (switchedOver replay gap s sl)) := by
  have hexec : exec (.switchOver replay gap) s = execSwitchOver replay gap s := rfl
  rw [hexec, execSwitchOver, takeOver_standby hacc hact hrole, switchedOver]
  rfl

theorem switchedOver_carried : CarriedOn (tookOver replay gap s sl) (switchedOver replay gap s sl) :=
  CarriedOn.countResumed.trans <| CarriedOn.syncRelease.trans <|
    (CarriedOn.foldl (fun _ i => CarriedOn.switchItem i) _ _).trans <| CarriedOn.cipSwitch.trans <|
    CarriedOn.crtSwitch.trans <| CarriedOn.foldl (fun _ p => CarriedOn.abortSealed p) _ _

/-- What stands after a switch-over (R656 to R662, R677). -/
theorem switchOver_effects (hwf : Memory.wf s = true) (hacc : s.red.accepted = some sl) (hact : s.activeSlice = none)
    (hrole : (s.slice sl).role = .standby) : ∃ t, exec (.switchOver replay gap) s = .next t
    ∧ t.slice sl = { s.slice sl with role := .active, claim := 0xC0, passRunning := false } ∧ t.slice sl.other = s.slice sl.other
    ∧ t.red.accepted = some sl ∧ t.red.stage = .idle ∧ t.red.due = false ∧ t.red.count = 0
    ∧ (∀ x, x ∈ t.pcie.tags → x.slice = sl.other → x.stale = true)
    ∧ rd t (pgRed + Reg.RED_SWITCH_CNT) = rd s (pgRed + Reg.RED_SWITCH_CNT) + 1 ∧ fbit (rd t (pgRed + Reg.PAGE_ERR)) 1 = true
    ∧ rd t (pgRed + Reg.RED_REPLAY_CNT) = rd s (pgRed + Reg.RED_REPLAY_CNT) + w32 replay
    ∧ rd t (pgRed + Reg.RED_LAST_SWITCH) = (if fbit (rd s (pgRed + Reg.RED_LAST_SWITCH)) 31 then rd s (pgRed + Reg.RED_LAST_SWITCH)
        else w32 (s.stamp + 65536 * sl.other.num + 131072 * (s.slice sl.other).lastClass + 2 ^ 31))
    ∧ t.vkeep = { s.vkeep with latch := s.vkeep.latch ||| 0x00100000 } ∧ t.mem = s.mem := by
  refine ⟨_, exec_switchOver hacc hact hrole, ?_⟩
  obtain ⟨hred, hmem, hvkeep, htags, hrd⟩ := switchedOver_carried (replay := replay) (gap := gap) (s := s) (sl := sl)
  obtain ⟨hpred, hpmem, hpvkeep, hptags, hprd⟩ := switchDone_frame (switchedOver replay gap s sl)
  obtain ⟨hroles, hdmem, hdvkeep, hdpcie, hdrd⟩ := equinoxNowDone_frame (s := switchCounted replay gap s sl)
  obtain ⟨hcred, hcmem, hcvkeep, hctags⟩ := switchCounted_frame (replay := replay) (gap := gap) (s := s) (sl := sl)
  obtain ⟨hcount, herr, hreplay, hlast⟩ := switchCounted_words (replay := replay) (gap := gap) (sl := sl) hwf
  obtain ⟨hslice, hother⟩ := slice_activated (s := s) (sl := sl)
  have hacc' : (activated s sl).red.accepted = some sl := by cases sl <;> exact hacc
  have hword : ∀ a, a < 0x5000 → ¬CmdWord pgRed a → a ≠ pgRed + Reg.PAGE_ERR_FIRST →
      rd (switchDone (switchedOver replay gap s sl)) a
        = rd (switchCounted replay gap s sl) a := by
    intro a ha hcmd hfirst
    rw [hprd a ha, hrd a ha, tookOver, rd_equinoxServed, hdrd a hcmd hfirst]
  rw [hcred] at hroles
  simp only [rolesOf, Prod.mk.injEq] at hroles
  obtain ⟨hochre, hslate, haccd, -⟩ := hroles
  refine ⟨?_, ?_, ?_, ?_, ?_, ?_, ?_, ?_, ?_, ?_, ?_, ?_, ?_⟩
  · rw [← hslice]
    cases sl <;> simp only [State.slice, hpred, hred, tookOver, equinoxServed, hochre, hslate]
  · rw [← hother]
    cases sl <;> simp only [SliceId.other, State.slice, hpred, hred, tookOver, equinoxServed, hochre, hslate]
  · simp only [hpred, hred, tookOver, equinoxServed, haccd, hacc']
  · simp only [hpred, hred, tookOver, equinoxServed]
  · simp only [hpred, hred, tookOver, equinoxServed]
  · simp only [hpred, hred, tookOver, equinoxServed]
  · rw [hptags, htags]
    simp only [tookOver, equinoxServed, hdpcie, hctags]
    exact activated_stale
  · rw [hword _ (by decide) (by unfold CmdWord; decide) (by decide), hcount]
  · rw [hword _ (by decide) (by unfold CmdWord; decide) (by decide), herr]
  · rw [hword _ (by decide) (by unfold CmdWord; decide) (by decide), hreplay]
  · rw [hword _ (by decide) (by unfold CmdWord; decide) (by decide), hlast]
  · rw [hpvkeep, hvkeep]; simp only [tookOver, equinoxServed, hdvkeep, hcvkeep]
  · rw [hpmem, hmem]; simp only [tookOver, equinoxServed, hdmem, hcmem]

end

/-! ### The end of a slice reset (R665, R666) -/

section
variable {s : State} {sl : SliceId}

/-- What stands after a reset that passed, whichever the two ways. -/
theorem sliceReset_passes (hreset : (s.slice sl).resetting = true) (hout : (s.slice sl).role = .out)
    (hpass : (s.slice sl).readmit = true ∨ ((s.slice sl).retireAtEnd = false ∧ (s.slice sl).retired = false)) :
    ∃ t, exec (.sliceResetEnd sl true) s = .next t
      ∧ (t.slice sl).resetting = false ∧ (t.slice sl).retired = false ∧ (t.slice sl).readmit = (s.slice sl).readmit
      ∧ (t.slice sl).inject = (s.slice sl).inject.filter (fun i => i.2 != .permanent)
      ∧ (t.slice sl).role = .out ∧ t.slice sl.other = s.slice sl.other := by
  obtain ⟨u, hexec, ⟨hother, n, m, hslice⟩, -⟩ := exec_sliceResetEnd true hreset hout
  refine ⟨_, hexec, ?_⟩
  rcases resetEnd_passed (s := u) (sl := sl) (by rw [hslice]; exact hpass) with h | h <;> rw [h] <;>
    simp only [slice_setSlice_same, slice_setSlice_other, hslice, hother, resetSlice, keptInject, hout, and_self]

theorem reportOut_slice (s : State) (sl : SliceId) : (reportOut s).slice sl = s.slice sl :=
  slice_congr (by simp [reportOut]) sl

/-- A slice whose reset fails is retired and reported (R666). -/
theorem reportOut_reports {u : State} (hwf : Memory.wf u = true) : fbit (rd (reportOut u) (pgRed + Reg.PAGE_ERR)) 2 = true
    ∧ fbit (reportOut u).vkeep.latch 21 = true := by
  refine ⟨?_, ?_⟩
  · rw [reportOut, rd_amber _ _ (by decide) (by decide) (by decide)]
    exact fbit_setErr (Memory.wf_regs hwf) (by decide) (by decide)
  · rw [reportOut, amber_vkeep]
    exact nbit_or_two_pow _ (by decide)

theorem retiredSlice_slice (u : State) : (retiredSlice u sl).slice sl
      = { resetSlice (u.slice sl) with retired := true, retireAtEnd := false, readmit := false }
    ∧ (retiredSlice u sl).slice sl.other = u.slice sl.other :=
  ⟨slice_setSlice_same _ _ _, slice_setSlice_other _ _ _⟩

theorem sliceReset_fails (hwf : Memory.wf s = true) (hreset : (s.slice sl).resetting = true) (hout : (s.slice sl).role = .out) :
    ∃ t, exec (.sliceResetEnd sl false) s = .next t
      ∧ (t.slice sl).resetting = false ∧ (t.slice sl).retired = true ∧ (t.slice sl).readmit = false
      ∧ (t.slice sl).role = .out ∧ t.slice sl.other = s.slice sl.other
      ∧ fbit (rd t (pgRed + Reg.PAGE_ERR)) 2 = true ∧ fbit t.vkeep.latch 21 = true := by
  obtain ⟨u, hexec, ⟨hother, n, m, hslice⟩, hwfu⟩ := exec_sliceResetEnd false hreset hout
  obtain ⟨hsame, hrest⟩ := retiredSlice_slice (sl := sl) u
  have hwfr : Memory.wf (retiredSlice u sl) = true := by
    have := hwfu hwf
    cases sl <;> exact Memory.wf_of rfl rfl rfl rfl this
  obtain ⟨herr, hlatch⟩ := reportOut_reports hwfr
  refine ⟨_, hexec, ?_⟩
  rcases resetEnd_failed u sl with h | h <;> rw [h]
  · simp only [reportOut_slice, hsame, hrest, hslice, hother, resetSlice, hout, herr, hlatch, and_self]
  · have hkeep : fbit (rd (endCmd (reportOut (retiredSlice u sl)) pgRed stFAULT) (pgRed + Reg.PAGE_ERR)) 2 = true := by
      rw [endCmd, rd_finishCmd_other (by unfold CmdWord; decide) (by decide), herr]
    simp only [slice_endCmd, reportOut_slice, hsame, hrest, hslice, hother, resetSlice, hout, hkeep, endCmd_vkeep, hlatch,
      and_self]

end

/-- Settles O58, from what a withdrawal, a switch-over, a slice reset, a self-test pass and the RED commands each do to
a slice's entry. -/
theorem slicesAndSwitchOver : Obligations.SlicesAndSwitchOver := by
  unfold Obligations.SlicesAndSwitchOver
  intro s hwf
  have hw := Memory.wf_regs hwf
  refine ⟨?_, ?_, ?_, ?_, ?_, ?_⟩
  · intro f page bit p hf hphase hnone hpage
    exact exec_enterRecovery_effects hwf hf hphase hnone hpage
  · rintro sl x eng rfl hrole hfenced
    refine ⟨fun ev cls hev => exec_onlineCheckFire_withdraws eng hwf hrole hfenced hev, fun hbelow => ?_⟩
    exact congrArg Host.Outcome.next (countUe_below hbelow)
  · intro sl replay gap hacc hact hrole
    exact switchOver_effects hwf hacc hact hrole
  · rintro sl x rfl hreset hout
    exact ⟨sliceReset_passes hreset hout, sliceReset_fails hwf hreset hout⟩
  · rintro sl x rfl
    refine ⟨exec_autoReadmit_readmits, exec_autoReadmit_waits, fun ms hrole hrun hother hlatent => ⟨?_, fun b hfenced => ?_⟩⟩
    · have hexec := exec_selftestPassEnd ms none hrole hrun hother
      rw [failingEngine_sound hlatent] at hexec
      exact ⟨_, hexec, passEnd_none_effects hw ms⟩
    · have hexec := exec_selftestPassEnd ms (some b) hrole hrun hother
      rw [failingEngine_sound hlatent] at hexec
      exact ⟨_, hexec, passEnd_some_effects hw ms b.toNat (by rw [hrole]; decide) hfenced⟩
  · intro via seq a0 sl hr hv hphase hsl
    refine ⟨fun hserves => ⟨fun hother hfenced => ?_, fun hother => ?_, ?_⟩, fun hrole => ⟨?_, ?_⟩⟩
    · exact exec_withdraw_fences seq hwf hr hv hphase hsl hserves hother hfenced
    · exact exec_withdraw_refused seq hwf hr hv hphase hsl hserves hother
    · exact exec_readmit_refused seq hwf hr hv hphase hsl hserves
    · exact exec_withdraw_waits seq hwf hr hv hphase hsl hrole
    · exact exec_readmit_runs seq hwf hr hv hphase hsl hrole

end Sys2Proof.Machine

/-! SUPPORT. DRAM channels: the MEM commands, retire entries, armed flips and the patrol scrub (R635 to R648). -/
namespace Sys2Proof.Machine

/-! ### A command that ends at once, with any status and outputs -/

section
variable {s : State} {page code st : Nat} {via : Master} {seq : Byte} {a0 a1 a2 : Word}

/-- A command of a manager that ends at once changes its page's command words and first error alone (R158, R166). -/
theorem begun_finished (o0 o1 o2 : Word) (hw : twf regDflt s.regs = true) (hp : PlainPage page) (hr : PageReady s page via)
    (hv : Manages via) (hc : code < 256) :
    let t := finishCmd (begun s page code via seq a0 a1 a2) page st o0 o1 o2
    Answered t page code seq.toNat st ∧ rd t (page + Reg.CMD_OUT) = o0
      ∧ { t with regs := s.regs, running := s.running } = s
      ∧ RegsKept s t (fun a => CmdWord page a ∨ a = page + Reg.PAGE_ERR_FIRST) := by
  intro t
  have hrun := begun_runningOn (code := code) (via := via) (seq := seq) (a0 := a0) (a1 := a1) (a2 := a2) hw hp hr.2
  have hclear : rd (begun s page code via seq a0 a1 a2) (page + Reg.CMD_RESULT) &&& 2 = 0 := by
    rw [begun_result hw hp, acceptedResult_and_two]
  obtain ⟨hresult, hout, -⟩ := finishCmd_result (st := st) o0 o1 o2 (begun_twf hw hp) hrun hclear
  rw [Nat.mod_eq_of_lt hc, Nat.mod_eq_of_lt seq.isLt] at hresult
  refine ⟨⟨hresult, finishCmd_idle _ _ _ _ _ _⟩, hout, ?_, fun a ha => ?_⟩
  · have hframe := finishCmd_frame (st := st) (o0 := o0) (o1 := o1) (o2 := o2) hrun (hv.ne_sync) s.regs
    have hbegun := begun_frame (code := code) (via := via) (seq := seq) (a0 := a0) (a1 := a1) (a2 := a2) hw hp
    exact (congrArg (fun t : State => { t with running := s.running }) hframe).trans hbegun
  · exact (rd_finishCmd_other (fun h => ha (.inl h)) (fun h => ha (.inr h))).trans
      (begun_rd_other hw hp a fun h => ha (.inl h))

end

/-! ### Channels -/

section
variable {s t : State} {n : Nat} {x : MemChan}

theorem memPlain (n : Nat) (hn : n < 4) : PlainPage (pgMem n) := by
  have hslice : ∀ sl, pgMem n ≠ pgSlice sl 1 := fun sl => by cases sl <;> simp only [pgMem, pgSlice, SliceId.num] <;> omega
  exact ⟨hslice _, hslice _⟩

theorem getChan_congr (h : t.mem = s.mem) (m : Nat) : getChan t m = getChan s m := by rw [getChan, h, getChan]

theorem getChan_putChan (hwf : Memory.wf s = true) (m : Nat) :
    getChan (putChan s n x) m = if m = n then x else getChan s m := by
  by_cases h : m = n
  · subst h
    rw [if_pos rfl]
    exact tget_tset_same _ _ _ _ (Memory.wf_iff.1 hwf).mem
  · rw [if_neg h]
    exact tget_tset_other _ _ _ _ (Ne.symm h) _

/-- The registers that CONFIG checks lie outside the command words. -/
theorem memConfigCheck_congr (h : ∀ o, 0x80 ≤ o → rd t (pgMem n + o) = rd s (pgMem n + o)) :
    memConfigCheck t n = memConfigCheck s n := by
  have hgib : chanGiB t n = chanGiB s n := by
    unfold chanGiB
    rw [h _ (by decide)]
  unfold memConfigCheck
  simp only [hgib, h Reg.MEM_GEOM (by decide), h Reg.MEM_TIM0 (by decide), h Reg.MEM_TIM1 (by decide),
    h Reg.MEM_TIM2 (by decide), h Reg.MEM_TIM3 (by decide), h Reg.MEM_TIM4 (by decide), h Reg.MEM_TIM5 (by decide)]

/-- Whether START is refused for another running channel lies outside the command words. -/
theorem startBlocked_congr (hn : n < 4) (hmem : t.mem = s.mem) (h : RegsKept s t (CmdWord (pgMem n))) :
    (interleaved t && (List.range 4).any (fun m => (getChan t m).st == .running
        && rd t (pgMem m + Reg.MEM_GEOM) != rd t (pgMem n + Reg.MEM_GEOM)))
      = (interleaved s && (List.range 4).any (fun m => (getChan s m).st == .running
        && rd s (pgMem m + Reg.MEM_GEOM) != rd s (pgMem n + Reg.MEM_GEOM))) := by
  have hgeom : ∀ m, rd t (pgMem m + Reg.MEM_GEOM) = rd s (pgMem m + Reg.MEM_GEOM) := fun m => h _ (by
    simp only [CmdWord, pgMem, Reg.CMD_ARG, Reg.CMD_OUT, Reg.MEM_GEOM]; omega)
  have hmap : interleaved t = interleaved s := by
    rw [interleaved, interleaved, h (pgEcc + Reg.ECC_DRAM_MAP) (by
      simp only [CmdWord, pgMem, pgEcc, Reg.CMD_ARG, Reg.CMD_OUT, Reg.ECC_DRAM_MAP]; omega)]
  simp only [hgeom, hmap, getChan_congr hmem]

end

section
variable {s : State} {n : Fin 4} {via : Master} (seq : Byte) {a0 : Word} (hwf : Memory.wf s = true)
  (hr : PageReady s (pgMem n.val) via) (hv : Manages via) (hphase : s.power.phase ≠ .recovery)
include hwf hr hv hphase

/-- A MEM command whose body refuses it, with its status and first output. -/
theorem memRow_refused {spec : CmdSpec} {code st : Nat} {o : Word} (hc : code < 256) (hrole : spec.role = Master.isGlobal)
    (hph : spec.phases = notRecovery)
    (hbody : ∀ u : State, u.mem = s.mem → RegsKept s u (CmdWord (pgMem n.val)) →
      spec.body ⟨pgMem n.val, code, seq.toNat, via, a0, 0, 0⟩ u = finishCmd u (pgMem n.val) st o 0 0) :
    let t := commandRow spec (pgMem n.val) code via seq a0 0 0 s
    Answered t (pgMem n.val) code seq.toNat st ∧ rd t (pgMem n.val + Reg.CMD_OUT) = o
      ∧ { t with regs := s.regs, running := s.running } = s
      ∧ RegsKept s t (fun a => CmdWord (pgMem n.val) a ∨ a = pgMem n.val + Reg.PAGE_ERR_FIRST) := by
  have hw := Memory.wf_regs hwf
  have hp := memPlain n.val n.isLt
  have hmem : (begun s (pgMem n.val) code via seq a0 0 0).mem = s.mem :=
    (congrArg State.mem (begun_frame (code := code) (via := via) (seq := seq) (a0 := a0) (a1 := 0) (a2 := 0) hw hp) : _)
  intro t
  have ht : t = finishCmd (begun s (pgMem n.val) code via seq a0 0 0) (pgMem n.val) st o 0 0 := by
    unfold t
    rw [commandRow_accepted (spec := spec) hw hp hr (by rw [hrole]; exact hv.isGlobal) (by rw [hph]; exact bne_iff_ne.2 hphase)]
    exact hbody _ hmem (begun_rd_other hw hp)
  rw [ht]
  exact begun_finished o 0 0 hw hp hr hv hc

/-- In any other state each MEM command ends with WRONG_STATE (R648). -/
theorem exec_mem_wrongState (found : Option (Byte × Byte)) {k : Nat} {cmd : Instr}
    (h : (k = 1 ∧ cmd = Instr.memConfig n via seq ∧ (getChan s n.val).st ≠ .unconfigured)
      ∨ (k = 2 ∧ cmd = .memSweep n found via seq a0 ∧ (getChan s n.val).st ≠ .idle)
      ∨ (k = 3 ∧ cmd = .memStart n via seq ∧ (getChan s n.val).st ≠ .idle)
      ∨ (k = 4 ∧ cmd = .memRelease n via seq ∧ (getChan s n.val).st ≠ .retained)) :
    ∃ t, exec cmd s = .next t ∧ Answered t (pgMem n.val) k seq.toNat stWRONG_STATE
      ∧ { t with regs := s.regs, running := s.running } = s
      ∧ RegsKept s t (fun a => CmdWord (pgMem n.val) a ∨ a = pgMem n.val + Reg.PAGE_ERR_FIRST) := by
  rcases h with ⟨rfl, rfl, hst⟩ | ⟨rfl, rfl, hst⟩ | ⟨rfl, rfl, hst⟩ | ⟨rfl, rfl, hst⟩
  · obtain ⟨hans, -, hframe, hkept⟩ := memRow_refused (spec := specMemConfig n.val) (a0 := 0) (st := stWRONG_STATE) (o := 0)
      seq hwf hr hv hphase (by decide : 1 < 256) rfl rfl fun u hu _ => if_pos (by rw [getChan_congr hu]; exact hst)
    exact ⟨_, rfl, hans, hframe, hkept⟩
  · obtain ⟨hans, -, hframe, hkept⟩ := memRow_refused (spec := specMemSweep n.val found) (a0 := a0) (st := stWRONG_STATE) (o := 0)
      seq hwf hr hv hphase (by decide : 2 < 256) rfl rfl fun u hu _ => if_pos (by rw [getChan_congr hu]; exact hst)
    exact ⟨_, rfl, hans, hframe, hkept⟩
  · obtain ⟨hans, -, hframe, hkept⟩ := memRow_refused (spec := specMemStart n.val) (a0 := 0) (st := stWRONG_STATE) (o := 0)
      seq hwf hr hv hphase (by decide : 3 < 256) rfl rfl fun u hu _ => if_pos (by rw [getChan_congr hu]; exact hst)
    exact ⟨_, rfl, hans, hframe, hkept⟩
  · obtain ⟨hans, -, hframe, hkept⟩ := memRow_refused (spec := specMemRelease n.val) (a0 := 0) (st := stWRONG_STATE) (o := 0)
      seq hwf hr hv hphase (by decide : 4 < 256) rfl rfl fun u hu _ => if_pos (by rw [getChan_congr hu]; exact hst)
    exact ⟨_, rfl, hans, hframe, hkept⟩

theorem exec_memConfig_badArg (hst : (getChan s n.val).st = .unconfigured) {o : Nat} (ho : memConfigCheck s n.val = some o) :
    ∃ t, exec (.memConfig n via seq) s = .next t ∧ Answered t (pgMem n.val) 1 seq.toNat stBAD_ARG
      ∧ rd t (pgMem n.val + Reg.CMD_OUT) = w32 o ∧ { t with regs := s.regs, running := s.running } = s := by
  obtain ⟨hans, hout, hframe, -⟩ := memRow_refused (spec := specMemConfig n.val) (a0 := 0) (st := stBAD_ARG) (o := w32 o)
    seq hwf hr hv hphase (by decide : 1 < 256) rfl rfl fun u hu hkept => by
      have hcheck : memConfigCheck u n.val = some o := by
        rw [memConfigCheck_congr (s := s) fun off hoff => hkept _ fun hcmd => ?_, ho]
        simp only [CmdWord, Reg.CMD_ARG, Reg.CMD_OUT] at hcmd
        omega
      simp only [specMemConfig, getChan_congr hu, hst, ne_eq, not_true_eq_false, if_false, hcheck]
  exact ⟨_, rfl, hans, hout, hframe⟩

theorem exec_memSweep_badArg (found : Option (Byte × Byte)) (hst : (getChan s n.val).st = .idle) (ha : 40 ≤ fld a0 5 0) :
    ∃ t, exec (.memSweep n found via seq a0) s = .next t ∧ Answered t (pgMem n.val) 2 seq.toNat stBAD_ARG
      ∧ { t with regs := s.regs, running := s.running } = s := by
  obtain ⟨hans, -, hframe, -⟩ := memRow_refused (spec := specMemSweep n.val found) (a0 := a0) (st := stBAD_ARG) (o := 0)
    seq hwf hr hv hphase (by decide : 2 < 256) rfl rfl fun u hu _ => by
      simp only [specMemSweep, getChan_congr hu, hst, ne_eq, not_true_eq_false, if_false, ha, if_true, endCmd]
  exact ⟨_, rfl, hans, hframe⟩

theorem exec_memStart_badArg (hst : (getChan s n.val).st = .idle) {m : Nat} (hint : interleaved s = true) (hm : m < 4)
    (hrun : (getChan s m).st = .running) (hgeom : rd s (pgMem m + Reg.MEM_GEOM) ≠ rd s (pgMem n.val + Reg.MEM_GEOM)) :
    ∃ t, exec (.memStart n via seq) s = .next t ∧ Answered t (pgMem n.val) 3 seq.toNat stBAD_ARG
      ∧ { t with regs := s.regs, running := s.running } = s := by
  obtain ⟨hans, -, hframe, -⟩ := memRow_refused (spec := specMemStart n.val) (a0 := 0) (st := stBAD_ARG) (o := 0)
    seq hwf hr hv hphase (by decide : 3 < 256) rfl rfl fun u hu hkept => by
      have hother : (interleaved u && (List.range 4).any (fun m => (getChan u m).st == .running
          && rd u (pgMem m + Reg.MEM_GEOM) != rd u (pgMem n.val + Reg.MEM_GEOM))) = true := by
        rw [startBlocked_congr n.isLt hu hkept, hint, Bool.true_and, List.any_eq_true]
        exact ⟨m, List.mem_range.2 hm, by rw [hrun, bne_iff_ne.2 hgeom]; rfl⟩
      simp only [specMemStart, getChan_congr hu, hst, ne_eq, not_true_eq_false, if_false]
      simp only [getChan_congr hu] at hother
      rw [if_pos hother, endCmd]
  exact ⟨_, rfl, hans, hframe⟩

/-- A MEM command whose body ends it with OK, having brought all but the command words to `v`. -/
theorem memRow_ended {spec : CmdSpec} {code : Nat} {o : Word} {v : State} (hc : code < 256)
    (hrole : spec.role = Master.isGlobal) (hph : spec.phases = notRecovery)
    (hbody : ∀ r k, RegsKept s { s with regs := r, running := k } (CmdWord (pgMem n.val)) →
      spec.body ⟨pgMem n.val, code, seq.toNat, via, a0, 0, 0⟩ { s with regs := r, running := k }
        = finishCmd { v with regs := r, running := k } (pgMem n.val) stOK o 0 0) :
    let t := commandRow spec (pgMem n.val) code via seq a0 0 0 s
    CmdEnded s t (pgMem n.val) code seq.toNat stOK (a0, 0, 0) (o, 0, 0)
      ∧ { t with regs := s.regs } = { v with regs := s.regs, running := s.running } := by
  obtain ⟨r, k, hrow, ⟨-, -, hkept⟩, -, hend⟩ := commandRow_started (spec := spec) (code := code) (seq := seq)
    (a0 := a0) (a1 := 0) (a2 := 0) (Memory.wf_regs hwf) (memPlain n.val n.isLt) hr (by rw [hrole]; exact hv.isGlobal)
    (by rw [hph]; exact bne_iff_ne.2 hphase) hc
  obtain ⟨hended, hframe⟩ := hend { v with regs := r, running := k } stOK o 0 0 rfl rfl (.inl rfl)
  intro t
  have ht : t = finishCmd { v with regs := r, running := k } (pgMem n.val) stOK o 0 0 := hrow.trans (hbody r k hkept)
  rw [ht]
  exact ⟨hended, hframe hv.ne_sync⟩

/-- CONFIG of an unconfigured channel with sound registers (R648). -/
theorem exec_memConfig_configures (hst : (getChan s n.val).st = .unconfigured) (hcheck : memConfigCheck s n.val = none) :
    ∃ t, exec (.memConfig n via seq) s = .next t
      ∧ CmdEnded s t (pgMem n.val) 1 seq.toNat stOK (0, 0, 0) (0, 0, 0)
      ∧ (∀ m, getChan t m = if m = n.val then { getChan s n.val with st := .idle } else getChan s m)
      ∧ { t with regs := s.regs, running := s.running, mem := s.mem } = s := by
  obtain ⟨hended, hframe⟩ := memRow_ended (spec := specMemConfig n.val) (a0 := 0) (o := 0)
    (v := putChan s n.val { getChan s n.val with st := .idle }) seq hwf hr hv hphase (by decide : 1 < 256) rfl rfl
    fun r k hkept => by
      have hchan : getChan { s with regs := r, running := k } n.val = getChan s n.val := rfl
      have hcheck' : memConfigCheck { s with regs := r, running := k } n.val = none := by
        rw [memConfigCheck_congr (s := s) fun off hoff => hkept _ fun hcmd => ?_, hcheck]
        simp only [CmdWord, Reg.CMD_ARG, Reg.CMD_OUT] at hcmd
        omega
      simp only [specMemConfig, hchan, hst, ne_eq, not_true_eq_false, if_false, hcheck']
      rfl
  exact ⟨_, rfl, hended, fun m => (getChan_congr (congrArg State.mem hframe) m).trans (getChan_putChan hwf m),
    congrArg (fun t : State => { t with running := s.running, mem := s.mem }) hframe⟩

/-- SWEEP of an idle channel (R648). -/
theorem exec_memSweep_sweeps (found : Option (Byte × Byte)) (hst : (getChan s n.val).st = .idle) (ha : fld a0 5 0 < 40) :
    ∃ t, exec (.memSweep n found via seq a0) s = .next t
      ∧ CmdEnded s t (pgMem n.val) 2 seq.toNat stOK (a0, 0, 0)
          (found.elim 0x10000 (fun d => w32 (d.1.toNat + 256 * d.2.toNat)), 0, 0)
      ∧ (∀ m, getChan t m = { getChan s m with blocks := (getChan t m).blocks })
      ∧ (∀ m blk, m ≠ n.val ∨ sweepBlock s n.val (fld a0 5 0) blk = false →
          tget (fun _ => []) (getChan t m).blocks blk = tget (fun _ => []) (getChan s m).blocks blk)
      ∧ { t with regs := s.regs, running := s.running, mem := s.mem } = s := by
  obtain ⟨hended, hframe⟩ := memRow_ended (spec := specMemSweep n.val found) (a0 := a0)
    (o := found.elim 0x10000 (fun d => w32 (d.1.toNat + 256 * d.2.toNat)))
    (v := putChan s n.val { getChan s n.val with
      blocks := tdrop (sweepBlock s n.val (fld a0 5 0)) (getChan s n.val).blocks }) seq hwf hr hv hphase (by decide : 2 < 256) rfl rfl
    fun r k hkept => by
      have hchan : getChan { s with regs := r, running := k } n.val = getChan s n.val := rfl
      have hgeom : sweepBlock { s with regs := r, running := k } n.val (fld a0 5 0) = sweepBlock s n.val (fld a0 5 0) := by
        funext blk
        unfold sweepBlock
        rw [hkept (pgMem n.val + Reg.MEM_GEOM) (by simp only [CmdWord, Reg.CMD_ARG, Reg.CMD_OUT, Reg.MEM_GEOM]; omega)]
      simp only [specMemSweep, hchan, hst, ne_eq, not_true_eq_false, if_false, Nat.not_le.2 ha, hgeom]
      cases found <;> rfl
  have hchans : ∀ m, getChan (commandRow (specMemSweep n.val found) (pgMem n.val) 2 via seq a0 0 0 s) m
      = if m = n.val then { getChan s n.val with blocks := tdrop (sweepBlock s n.val (fld a0 5 0)) (getChan s n.val).blocks }
        else getChan s m :=
    fun m => (getChan_congr (congrArg State.mem hframe) m).trans (getChan_putChan hwf m)
  refine ⟨_, rfl, hended, fun m => ?_, fun m blk h => ?_,
    congrArg (fun t : State => { t with running := s.running, mem := s.mem }) hframe⟩
  · rw [hchans]
    split
    · next hm => rw [hm]
    · rfl
  · rw [hchans]
    split
    · next hm =>
      subst hm
      rw [tget_tdrop, h.resolve_left (fun hne => hne rfl)]
      rfl
    · rfl

/-- RELEASE of a retained channel (R648). -/
theorem exec_memRelease_releases (hst : (getChan s n.val).st = .retained) :
    ∃ t, exec (.memRelease n via seq) s = .next t
      ∧ CmdEnded s t (pgMem n.val) 4 seq.toNat stOK (0, 0, 0) (0, 0, 0)
      ∧ (∀ m, getChan t m = if m = n.val then { getChan s n.val with st := .running, committed := true } else getChan s m)
      ∧ t.ecc = { s.ecc with mapCommitted := true }
      ∧ { t with regs := s.regs, running := s.running, mem := s.mem, ecc := s.ecc } = s := by
  obtain ⟨hended, hframe⟩ := memRow_ended (spec := specMemRelease n.val) (a0 := 0) (o := 0)
    (v := { putChan s n.val { getChan s n.val with committed := true, st := .running } with
      ecc := { s.ecc with mapCommitted := true } }) seq hwf hr hv hphase (by decide : 4 < 256) rfl rfl
    fun r k _ => by
      have hchan : getChan { s with regs := r, running := k } n.val = getChan s n.val := rfl
      simp only [specMemRelease, hchan, hst, ne_eq, not_true_eq_false, if_false]
      rfl
  exact ⟨_, rfl, hended, fun m => (getChan_congr (congrArg State.mem hframe) m).trans (getChan_putChan hwf m),
    (congrArg State.ecc hframe : _),
    congrArg (fun t : State => { t with running := s.running, mem := s.mem, ecc := s.ecc }) hframe⟩

/-- START of an idle channel with no different running channel (R648). -/
theorem exec_memStart_starts (hst : (getChan s n.val).st = .idle)
    (hfree : interleaved s = false ∨ ∀ m, m < 4 → (getChan s m).st = .running →
      rd s (pgMem m + Reg.MEM_GEOM) = rd s (pgMem n.val + Reg.MEM_GEOM)) :
    ∃ t, exec (.memStart n via seq) s = .next t
      ∧ CmdRuns s t (pgMem n.val) 3 seq.toNat via (0, 0, 0)
      ∧ (∀ m, getChan t m = if m = n.val then { getChan s n.val with committed := true } else getChan s m)
      ∧ t.ecc = { s.ecc with mapCommitted := true }
      ∧ { t with regs := s.regs, running := s.running, mem := s.mem, ecc := s.ecc } = s := by
  obtain ⟨r, k, hrow, ⟨hrun, hresult, hkept⟩, -, -⟩ := commandRow_started (spec := specMemStart n.val) (code := 3) (seq := seq)
    (a0 := 0) (a1 := 0) (a2 := 0) (Memory.wf_regs hwf) (memPlain n.val n.isLt) hr hv.isGlobal (bne_iff_ne.2 hphase) (by decide)
  have hfree' : (interleaved s && (List.range 4).any (fun m => (getChan s m).st == .running
      && rd s (pgMem m + Reg.MEM_GEOM) != rd s (pgMem n.val + Reg.MEM_GEOM))) = false := by
    rcases hfree with h | h
    · rw [h, Bool.false_and]
    · rw [Bool.and_eq_false_iff]
      refine .inr (List.any_eq_false.2 fun m hm hblocks => ?_)
      rw [Bool.and_eq_true, beq_iff_eq, bne_iff_ne] at hblocks
      exact hblocks.2 (h m (List.mem_range.1 hm) hblocks.1)
  have hbody : (specMemStart n.val).body ⟨pgMem n.val, 3, seq.toNat, via, 0, 0, 0⟩ { s with regs := r, running := k }
      = { putChan s n.val { getChan s n.val with committed := true } with
          regs := r, running := k, ecc := { s.ecc with mapCommitted := true } } := by
    have hclear := (startBlocked_congr (s := s) (t := { s with regs := r, running := k }) n.isLt rfl hkept).trans hfree'
    have hchan : getChan { s with regs := r, running := k } n.val = getChan s n.val := rfl
    simp only [specMemStart, hchan, hst, ne_eq, not_true_eq_false, if_false, hclear, Bool.false_eq_true]
    rfl
  rw [hbody] at hrow
  exact ⟨_, congrArg Host.Outcome.next hrow, ⟨hrun, hresult, hkept⟩, fun m => getChan_putChan hwf m, rfl, rfl⟩

end

/-! ### Retire entries and the flip mask (R644, R645) -/

theorem target_retireData : ∀ n : Fin 4, ∃ p r, target (pgMem n.val + Reg.MEM_RETIRE_DATA) = .reg p Reg.MEM_RETIRE_DATA r
    ∧ p.kind = .mem ∧ p.inst = n.val := by
  have hpage : ∀ k < 4, ∃ p r, target (pgMem k + Reg.MEM_RETIRE_DATA) = .reg p Reg.MEM_RETIRE_DATA r
      ∧ p.kind = .mem ∧ p.inst = k := by
    intro k hk
    interval_cases k <;> exact ⟨_, _, rfl, rfl, rfl⟩
  exact fun n => hpage n.val n.isLt

theorem target_flipSel : ∃ p r, target (pgEcc + Reg.ECC_FLIP_SEL) = .reg p Reg.ECC_FLIP_SEL r ∧ p.kind = .ecc :=
  ⟨_, _, rfl, rfl⟩

section
variable {s : State} {via : Master} {w : Word} {p : PageAt} {r : RegRow}

theorem regWrite_retireData (hkind : p.kind = .mem) : regWrite s via p Reg.MEM_RETIRE_DATA r w = retireWrite s p.inst w := by
  have hcmd : (Reg.MEM_RETIRE_DATA == Reg.PAGE_CMD) = false := rfl
  have hforce : (Reg.MEM_RETIRE_DATA == Reg.PAGE_ERR_FORCE) = false := rfl
  have hidx : (indexOf .mem Reg.MEM_RETIRE_DATA).isSome = false := rfl
  simp only [regWrite, hkind, hcmd, hforce, hidx, Bool.and_false, Bool.false_eq_true, if_false, memWrite, if_true]

theorem regWrite_flipSel (hkind : p.kind = .ecc) : regWrite s via p Reg.ECC_FLIP_SEL r w = flipSelWrite s w := by
  have hcmd : (Reg.ECC_FLIP_SEL == Reg.PAGE_CMD) = false := rfl
  have hforce : (Reg.ECC_FLIP_SEL == Reg.PAGE_ERR_FORCE) = false := rfl
  have hidx : (indexOf .ecc Reg.ECC_FLIP_SEL).isSome = false := rfl
  simp only [regWrite, hkind, hcmd, hforce, hidx, Bool.and_false, Bool.false_eq_true, if_false, eccWrite, if_true]

variable (hv : Manages via) (hs : served s via true = true) (hphase : s.power.phase ≠ .recovery)
include hv hs hphase

theorem exec_retireEntryWrite_sets (n : Fin 4) : exec (.retireEntryWrite via n w) s = .next (retireWrite s n.val w) := by
  obtain ⟨p, r, ht, hkind, hinst⟩ := target_retireData n
  have haddr : pgMem n.val + Reg.MEM_RETIRE_DATA < 0x4000000 := by
    simp only [pgMem, Reg.MEM_RETIRE_DATA]; omega
  show execRetireEntryWrite via n w s = _
  rw [execRetireEntryWrite, if_pos hv.isGlobal, writeServed, if_pos hs, writeAccess_reg hv haddr ht hphase,
    regWrite_retireData hkind, hinst]

theorem exec_flipArm_writes (harm : fbit w 16 = true) : exec (.flipArm via w) s = .next (flipSelWrite s w) := by
  obtain ⟨p, r, ht, hkind⟩ := target_flipSel
  show execFlipArm via w s = _
  rw [execFlipArm, if_pos (by rw [hv.isGlobal, harm]; rfl), writeServed, if_pos hs, writeAccess_reg hv (by decide) ht hphase,
    regWrite_flipSel hkind]

end

section
variable {s : State} (hwf : Memory.wf s = true)
include hwf

/-- A write that arms the mask: taken in the test phase, refused in any other (R644). -/
theorem flipSelWrite_armed {w : Word} (harm : fbit w 16 = true) :
    (s.power.phase = .test → rd (flipSelWrite s w) (pgEcc + Reg.ECC_FLIP_SEL) = (w &&& 0x1FF0F)
      ∧ RegsKept s (flipSelWrite s w) (· = pgEcc + Reg.ECC_FLIP_SEL) ∧ { flipSelWrite s w with regs := s.regs } = s)
    ∧ (s.power.phase ≠ .test → rd (flipSelWrite s w) (pgEcc + Reg.ECC_FLIP_SEL) = rd s (pgEcc + Reg.ECC_FLIP_SEL)
      ∧ fbit (rd (flipSelWrite s w) (pgEcc + Reg.PAGE_ERR)) 5 = true ∧ (flipSelWrite s w).mem = s.mem
      ∧ (flipSelWrite s w).ecc = s.ecc) := by
  have hw := Memory.wf_regs hwf
  refine ⟨fun htest => ?_, fun htest => ?_⟩
  · rw [flipSelWrite, if_pos harm, if_pos htest]
    exact wr_alone hw _ _
  · rw [flipSelWrite, if_pos harm, if_neg htest]
    exact ⟨rd_setErr_other 5 (by decide) (by decide) (by decide), fbit_setErr hw (by decide) (by decide),
      setErr_mem _ _ _, setErr_ecc _ _ _⟩

/-- The word that an armed mask corrupts. -/
def flipOf (s : State) (word : Nat) : ChipFlip :=
  ⟨fld (rd s (pgEcc + Reg.ECC_FLIP_SEL)) 3 0, fld (rd s (pgEcc + Reg.ECC_FLIP_SEL)) 15 8, word,
    BitVec.ofNat 64 ((rd s (pgEcc + Reg.ECC_FLIP_MASK_LO)).toNat + 2 ^ 32 * (rd s (pgEcc + Reg.ECC_FLIP_MASK_HI)).toNat),
    BitVec.ofNat 8 (fld (rd s (pgEcc + Reg.ECC_FLIP_CHK)) 7 0)⟩

/-- An armed on-chip mask corrupts the word written and is armed no longer (R644). -/
theorem exec_flipApply_corrupts (word : Nat) (harm : fbit (rd s (pgEcc + Reg.ECC_FLIP_SEL)) 16 = true)
    (hlo : 1 ≤ fld (rd s (pgEcc + Reg.ECC_FLIP_SEL)) 3 0) (hhi : fld (rd s (pgEcc + Reg.ECC_FLIP_SEL)) 3 0 ≤ 8) :
    ∃ t, exec (.flipApply word) s = .next t ∧ t.ecc.flips.head? = some (flipOf s word)
      ∧ rd t (pgEcc + Reg.ECC_FLIP_SEL) = (rd s (pgEcc + Reg.ECC_FLIP_SEL) &&& 0xFFFEFFFF)
      ∧ fbit (rd t (pgEcc + Reg.PAGE_ERR)) 6 = true
      ∧ rdWide t (pgEcc + Reg.ECC_FLIP_ADDR_LO) = word % 2 ^ 38 ∧ t.mem = s.mem := by
  have hw := Memory.wf_regs hwf
  have harmed : (!fbit (rd s (pgEcc + Reg.ECC_FLIP_SEL)) 16 || fld (rd s (pgEcc + Reg.ECC_FLIP_SEL)) 3 0 == 0
      || decide (8 < fld (rd s (pgEcc + Reg.ECC_FLIP_SEL)) 3 0)) = false := by
    rw [harm, decide_eq_false (Nat.not_lt.2 hhi), Bool.or_false, Bool.not_true, Bool.false_or]
    exact beq_false_of_ne (by omega)
  refine ⟨_, if_neg (by rw [harmed]; decide), rfl, ?_, ?_, ?_, ?_⟩
  · refine (rd_setErr_other 6 (by decide) (by decide) (by decide)).trans ((rd_wr_same _ _ hw).trans ?_)
    rw [putBit_false]
    rfl
  · exact fbit_setErr (twf_wr _ _ hw) (by decide) (by decide)
  · refine tget_tset_same _ _ _ _ ?_
    rw [setErr_wide, wr_wide]
    exact Memory.wf_wide hwf
  · exact (setErr_mem _ _ _ : _)

end

/-! ### What the report of an error leaves as it was (R635, R636, R640) -/

/-- A register above the vector counters and off the words that the report of an error writes. -/
def OffEcc (a : Nat) : Prop := 0x10000 ≤ a ∧ (a < pgEcc ∨ pgEcc + 0x120 ≤ a)

section
variable {s : State} {a : Nat}

theorem OffEcc.plain (ha : OffEcc a) : a ∉ vectorCounters := by
  have hlow : ∀ c ∈ vectorCounters, c < 0x10000 := by decide
  exact fun h => Nat.lt_irrefl _ (Nat.lt_of_lt_of_le (hlow a h) ha.1)

theorem OffEcc.ne (ha : OffEcc a) {o : Nat} (ho : o < 0x120) : a ≠ pgEcc + o := by
  obtain ⟨-, h⟩ := ha
  omega

theorem rd_eccErr (ha : OffEcc a) (n : Nat) : rd (setErr s pgEcc n) a = rd s a :=
  rd_setErr_other n ha.plain (ha.ne (by decide)) (ha.ne (by decide))

theorem rd_eccCount (ha : OffEcc a) {o : Nat} (ho : o < 0x120) : rd (bump s (pgEcc + o)) a = rd s a :=
  rd_bump_other (ha.ne ho).symm

theorem rd_logEcc (ha : OffEcc a) (ue checkOnly : Bool) (memory inst address position synd : Nat) :
    rd (logEcc s ue checkOnly memory inst address position synd) a = rd s a :=
  logEcc_frame (fun u => rd u a) (fun _ _ => rfl)
    (fun u => (rd_eccErr (s := bump u (pgEcc + Reg.ECC_LOG_LOST)) ha 4).trans (rd_eccCount ha (by decide))) s _ _ _ _ _ _ _

theorem rd_reportUe (ha : OffEcc a) (memory inst address position synd : Nat) :
    rd (reportUe s memory inst address position synd) a = rd s a := by
  rw [reportUe, rd_logEcc ha, rd_congr (signal_regs _ _ _ _), rd_eccCount ha (by decide)]

theorem rd_reportCe (ha : OffEcc a) (checkOnly : Bool) (memory inst address position synd : Nat) :
    rd (reportCe s checkOnly memory inst address position synd) a = rd s a := by
  rw [reportCe, rd_logEcc ha, rd_congr (signal_regs _ _ _ _), rd_eccErr ha, rd_eccCount ha (by decide)]

theorem logEcc_mem (ue checkOnly : Bool) (memory inst address position synd : Nat) :
    (logEcc s ue checkOnly memory inst address position synd).mem = s.mem :=
  logEcc_frame State.mem (fun _ _ => rfl) (fun _ => setErr_mem _ pgEcc 4) s _ _ _ _ _ _ _

theorem reportUe_mem (memory inst address position synd : Nat) : (reportUe s memory inst address position synd).mem = s.mem := by
  rw [reportUe, logEcc_mem, signal_mem, bump_mem]

theorem reportCe_mem (checkOnly : Bool) (memory inst address position synd : Nat) :
    (reportCe s checkOnly memory inst address position synd).mem = s.mem := by
  rw [reportCe, logEcc_mem, signal_mem, setErr_mem, bump_mem]

end

/-! ### A block stored (R631, R644) -/

section
variable {s : State} {n blk : Nat} {raw : List Byte} {a : Nat}

/-- The channel with a block's symbols. -/
def stored (s : State) (n blk : Nat) (raw : List Byte) : State :=
  putChan s n { getChan s n with blocks := tset (fun _ => []) (getChan s n).blocks blk raw }

theorem storeRaw_unarmed (h : fbit (rd s (pgEcc + Reg.ECC_FLIP_SEL)) 16 = false) : storeRaw s n blk raw = stored s n blk raw :=
  if_neg (by rw [h]; simp)

theorem rd_storeRaw (ha : OffEcc a) (hsel : a ≠ pgEcc + Reg.ECC_FLIP_SEL) : rd (storeRaw s n blk raw) a = rd s a := by
  unfold storeRaw
  dsimp only
  split
  · refine (rd_eccErr ha 6).trans ?_
    exact rd_wr_other _ hsel.symm
  · rfl

theorem chan_stored_other {m : Nat} (hm : m ≠ n) : getChan (stored s n blk raw) m = getChan s m :=
  tget_tset_other _ _ _ _ (Ne.symm hm) _

theorem chan_storeRaw_other {m : Nat} (hm : m ≠ n) : getChan (storeRaw s n blk raw) m = getChan s m := by
  unfold storeRaw
  dsimp only
  split
  · refine (getChan_congr (setErr_mem _ _ _) m).trans ?_
    exact tget_tset_other _ _ _ _ (Ne.symm hm) _
  · exact chan_stored_other hm

theorem rd_stored : rd (stored s n blk raw) a = rd s a := rfl

theorem block_stored (hwf : Memory.wf s = true) (b : Nat) :
    tget (fun _ => []) (getChan (stored s n blk raw) n).blocks b
      = if b = blk then raw else tget (fun _ => []) (getChan s n).blocks b := by
  rw [stored, getChan_putChan hwf, if_pos rfl]
  by_cases h : b = blk
  · subst h
    rw [if_pos rfl]
    exact tget_tset_same _ _ _ _ (getChan_wf s n hwf)
  · rw [if_neg h]
    exact tget_tset_other _ _ _ _ (Ne.symm h) _

end

/-! ### The patrol scrub (R642, R643) -/

/-- The scrubber moves on to block `p`; past the last block a pass has ended. -/
def scrubMoved (s : State) (n total p : Nat) : State :=
  let s1 := putChan s n { getChan s n with scrubPos := if total ≤ p then 0 else p }
  if total ≤ p then bump s1 (pgMem n + Reg.MEM_SCRUB_PASSES) else s1

/-- A block with an error, read and written back. -/
def scrubbed (s : State) (n blk : Nat) (r : DramRead) : State :=
  let s2 := tickFree (reportRead (memBurst (memBurst s n 2) n 2) n blk { r with poison := false })
  if r.ce then storeRaw s2 n blk (encodeBlock r.data r.poison) else s2

section
variable {s : State} {n : Nat}

theorem scrubMoved_mem (total p : Nat) :
    (scrubMoved s n total p).mem = (putChan s n { getChan s n with scrubPos := if total ≤ p then 0 else p }).mem := by
  unfold scrubMoved
  dsimp only
  split <;> rfl

theorem chan_scrubMoved_other (total p : Nat) {m : Nat} (hm : m ≠ n) : getChan (scrubMoved s n total p) m = getChan s m := by
  rw [getChan_congr (scrubMoved_mem total p)]
  exact tget_tset_other _ _ _ _ (Ne.symm hm) _

/-- The position, the blocks and the passes after the scrubber has moved. -/
theorem scrubMoved_effects (hwf : Memory.wf s = true) (total p : Nat) :
    (getChan (scrubMoved s n total p) n).scrubPos = (if total ≤ p then 0 else p)
      ∧ (getChan (scrubMoved s n total p) n).blocks = (getChan s n).blocks
      ∧ rd (scrubMoved s n total p) (pgMem n + Reg.MEM_SCRUB_PASSES)
          = rd s (pgMem n + Reg.MEM_SCRUB_PASSES) + (if total ≤ p then 1 else 0)
      ∧ ∀ a, a ≠ pgMem n + Reg.MEM_SCRUB_PASSES → rd (scrubMoved s n total p) a = rd s a := by
  have hchan : getChan (scrubMoved s n total p) n = { getChan s n with scrubPos := if total ≤ p then 0 else p } := by
    rw [getChan_congr (scrubMoved_mem total p), getChan_putChan hwf, if_pos rfl]
  refine ⟨by rw [hchan], by rw [hchan], ?_, fun a ha => ?_⟩
  · unfold scrubMoved
    dsimp only
    split
    · exact rd_bump_same _ (show twf regDflt s.regs = true from Memory.wf_regs hwf)
    · exact (BitVec.add_zero _).symm
  · unfold scrubMoved
    dsimp only
    split
    · exact rd_bump_other ha.symm
    · rfl

variable {blk : Nat} {r : DramRead} {a : Nat}

/-- An uncorrectable block is counted and logged before it is stored poisoned (R636). -/
def ueReported (s : State) (n blk : Nat) (r : DramRead) : State :=
  let s1 := setErr (bump s (pgMem n + Reg.MEM_UE_CNT)) (pgMem n) 3
  reportUe (setErr (signal s1 (srcEdge 0x16 n 3) 0 1) pgEcc 2) 0 n (64 * blk) 0xFF r.synd

/-- A correctable block is counted and logged (R635). -/
def ceReported (s : State) (n blk : Nat) (r : DramRead) : State :=
  let s1 := setErr (bump s (pgMem n + Reg.MEM_CE_CNT)) (pgMem n) 2
  reportCe (signal s1 (srcEdge 0x16 n 2) 0 1) (decide (r.pos.getD 0 < 2)) 0 n (64 * blk) (componentOf blk (r.pos.getD 0)) r.synd

theorem reportRead_ue (hue : r.ue = true) :
    reportRead s n blk r = storeRaw (ueReported s n blk r) n blk (encodeBlock r.data true) := if_pos hue

theorem reportRead_ce (hue : r.ue = false) (hce : r.ce = true) (hclean : r.poison = false) :
    reportRead s n blk r = ceReported s n blk r := by
  simp only [reportRead, hue, hce, hclean, Bool.false_eq_true, if_false, if_true]
  rfl

/-- A word that neither the page's error words nor the report of an error hold. -/
def ScrubWord (n a : Nat) : Prop := OffEcc a ∧ a ≠ pgMem n + Reg.PAGE_ERR ∧ a ≠ pgMem n + Reg.PAGE_ERR_FIRST

theorem rd_ueReported (ha : ScrubWord n a) : rd (ueReported s n blk r) a = rd (bump s (pgMem n + Reg.MEM_UE_CNT)) a := by
  obtain ⟨hoff, herr, hfirst⟩ := ha
  rw [ueReported, rd_reportUe hoff, rd_eccErr hoff, rd_congr (signal_regs _ _ _ _), rd_setErr_other 3 hoff.plain herr hfirst]

theorem rd_ceReported (ha : ScrubWord n a) : rd (ceReported s n blk r) a = rd (bump s (pgMem n + Reg.MEM_CE_CNT)) a := by
  obtain ⟨hoff, herr, hfirst⟩ := ha
  rw [ceReported, rd_reportCe hoff, rd_congr (signal_regs _ _ _ _), rd_setErr_other 2 hoff.plain herr hfirst]

theorem ueReported_mem : (ueReported s n blk r).mem = s.mem := by
  rw [ueReported, reportUe_mem, setErr_mem, signal_mem, setErr_mem, bump_mem]

theorem ceReported_mem : (ceReported s n blk r).mem = s.mem := by
  rw [ceReported, reportCe_mem, signal_mem, setErr_mem, bump_mem]

theorem wf_ueReported (hwf : Memory.wf s = true) : Memory.wf (ueReported s n blk r) = true := by
  have hkeeps : Keeps ⟨true, true, true, true, true⟩ s (ueReported s n blk r) :=
    reportUe_keeps _ _ _ _ _ _ (setErr_keeps _ _ _ (signal_keeps _ _ _ _ (setErr_keeps _ _ _ (wr_keeps _ _ (Keeps.refl s)))))
  exact hkeeps.wf hwf

theorem wf_ceReported (hwf : Memory.wf s = true) : Memory.wf (ceReported s n blk r) = true := by
  have hkeeps : Keeps ⟨true, true, true, true, true⟩ s (ceReported s n blk r) :=
    reportCe_keeps _ _ _ _ _ _ _ (signal_keeps _ _ _ _ (setErr_keeps _ _ _ (wr_keeps _ _ (Keeps.refl s))))
  exact hkeeps.wf hwf

/-- The bursts of a scrub spend credits and count an event. -/
theorem memBurst_regs (k : Nat) : (memBurst s n k).regs = s.regs :=
  (signal_regs _ _ _ _).trans (useCredits_regs _ _ _ _)
theorem memBurst_mem (k : Nat) : (memBurst s n k).mem = s.mem := (signal_mem _ _ _ _).trans (useCredits_mem _ _ _ _)
theorem scrubBursts_regs : (memBurst (memBurst s n 2) n 2).regs = s.regs := (memBurst_regs 2).trans (memBurst_regs 2)
theorem scrubBursts_mem : (memBurst (memBurst s n 2) n 2).mem = s.mem := (memBurst_mem 2).trans (memBurst_mem 2)
theorem wf_scrubBursts (hwf : Memory.wf s = true) : Memory.wf (memBurst (memBurst s n 2) n 2) = true :=
  (memBurst_keeps (kk := ⟨true, true, true, true, true⟩) _ n 2 (memBurst_keeps _ n 2 (Keeps.refl s))).wf hwf

theorem scrubWord_mem (hn : n < 4) {o : Nat} (hlo : 0x100 ≤ o) (hhi : o < 0x1000) : ScrubWord n (pgMem n + o) := by
  simp only [ScrubWord, OffEcc, pgMem, pgEcc, Reg.PAGE_ERR, Reg.PAGE_ERR_FIRST]
  omega

theorem scrubWord_flipSel (hn : n < 4) : ScrubWord n (pgEcc + Reg.ECC_FLIP_SEL) := by
  simp only [ScrubWord, OffEcc, pgMem, pgEcc, Reg.PAGE_ERR, Reg.PAGE_ERR_FIRST, Reg.ECC_FLIP_SEL]
  omega

theorem memWord_ne_flipSel (hn : n < 4) {o : Nat} (hhi : o < 0x1000) : pgMem n + o ≠ pgEcc + Reg.ECC_FLIP_SEL := by
  simp only [pgMem, pgEcc, Reg.ECC_FLIP_SEL]
  omega

/-- A scrubbed block of either kind leaves the passes as they were. -/
theorem rd_scrubbed_passes (hn : n < 4) (herr : r.ce = true ∨ r.ue = true) :
    rd (scrubbed s n blk r) (pgMem n + Reg.MEM_SCRUB_PASSES) = rd s (pgMem n + Reg.MEM_SCRUB_PASSES) := by
  have hword := scrubWord_mem hn (o := Reg.MEM_SCRUB_PASSES) (by decide) (by decide)
  have hsel := memWord_ne_flipSel hn (o := Reg.MEM_SCRUB_PASSES) (by decide)
  have hread : rd (tickFree (reportRead (memBurst (memBurst s n 2) n 2) n blk { r with poison := false }))
      (pgMem n + Reg.MEM_SCRUB_PASSES) = rd s (pgMem n + Reg.MEM_SCRUB_PASSES) := by
    rw [rd_congr (tickFree_regs _)]
    by_cases hue : r.ue = true
    · rw [reportRead_ue (r := { r with poison := false }) hue, rd_storeRaw hword.1 hsel, rd_ueReported hword,
        rd_bump_other (by simp only [Reg.MEM_UE_CNT, Reg.MEM_SCRUB_PASSES]; omega), rd_congr scrubBursts_regs]
    · rw [reportRead_ce (r := { r with poison := false }) (Bool.eq_false_iff.2 hue) (herr.resolve_right hue) rfl, rd_ceReported hword,
        rd_bump_other (by simp only [Reg.MEM_CE_CNT, Reg.MEM_SCRUB_PASSES]; omega), rd_congr scrubBursts_regs]
  unfold scrubbed
  dsimp only
  split
  · exact (rd_storeRaw hword.1 hsel).trans hread
  · exact hread

theorem wf_scrubbed (hwf : Memory.wf s = true) : Memory.wf (scrubbed s n blk r) = true := by
  have hread : Keeps ⟨true, true, true, true, true⟩ s
      (tickFree (reportRead (memBurst (memBurst s n 2) n 2) n blk { r with poison := false })) :=
    tickFree_keeps _ (reportRead_keeps _ _ _ _ (memBurst_keeps _ _ _ (memBurst_keeps _ _ _ (Keeps.refl s))))
  have hkeeps : Keeps ⟨true, true, true, true, true⟩ s (scrubbed s n blk r) := by
    unfold scrubbed
    dsimp only
    split
    · exact storeRaw_keeps _ _ _ _ hread
    · exact hread
  exact hkeeps.wf hwf

theorem chan_scrubbed_other {m : Nat} (hm : m ≠ n) (herr : r.ce = true ∨ r.ue = true) :
    getChan (scrubbed s n blk r) m = getChan s m := by
  have hread : getChan (tickFree (reportRead (memBurst (memBurst s n 2) n 2) n blk { r with poison := false })) m = getChan s m := by
    rw [getChan_congr (tickFree_mem _)]
    by_cases hue : r.ue = true
    · rw [reportRead_ue (r := { r with poison := false }) hue, chan_storeRaw_other hm,
        getChan_congr (ueReported_mem.trans scrubBursts_mem)]
    · rw [reportRead_ce (r := { r with poison := false }) (Bool.eq_false_iff.2 hue) (herr.resolve_right hue) rfl,
        getChan_congr (ceReported_mem.trans scrubBursts_mem)]
  unfold scrubbed
  dsimp only
  split
  · exact (chan_storeRaw_other hm).trans hread
  · exact hread

/-- A correctable block is counted and written back corrected (R643). -/
theorem scrubbed_corrects (hwf : Memory.wf s = true) (hn : n < 4) (hsel : fbit (rd s (pgEcc + Reg.ECC_FLIP_SEL)) 16 = false)
    (hce : r.ce = true) (hue : r.ue = false) :
    rd (scrubbed s n blk r) (pgMem n + Reg.MEM_CE_CNT) = rd s (pgMem n + Reg.MEM_CE_CNT) + 1
      ∧ ∀ b, tget (fun _ => []) (getChan (scrubbed s n blk r) n).blocks b
          = if b = blk then encodeBlock r.data r.poison else tget (fun _ => []) (getChan s n).blocks b := by
  have hwfb := wf_scrubBursts (n := n) hwf
  have hunarmed : fbit (rd (tickFree (ceReported (memBurst (memBurst s n 2) n 2) n blk { r with poison := false }))
      (pgEcc + Reg.ECC_FLIP_SEL)) 16 = false := by
    rw [rd_congr (tickFree_regs _), rd_ceReported (scrubWord_flipSel hn),
      rd_bump_other (memWord_ne_flipSel hn (by decide)), rd_congr scrubBursts_regs, hsel]
  have heq : scrubbed s n blk r = stored (tickFree (ceReported (memBurst (memBurst s n 2) n 2) n blk { r with poison := false }))
      n blk (encodeBlock r.data r.poison) := by
    unfold scrubbed
    dsimp only
    rw [if_pos hce, reportRead_ce (r := { r with poison := false }) hue hce rfl, storeRaw_unarmed hunarmed]
  rw [heq]
  refine ⟨?_, fun b => ?_⟩
  · rw [rd_stored, rd_congr (tickFree_regs _), rd_ceReported (scrubWord_mem hn (o := Reg.MEM_CE_CNT) (by decide) (by decide)), rd_bump_same _ (Memory.wf_regs hwfb), rd_congr scrubBursts_regs]
  · rw [block_stored ((tickFree_keeps (kk := ⟨true, true, true, true, true⟩) _ (Keeps.refl _)).wf (wf_ceReported hwfb)),
      getChan_congr ((tickFree_mem _).trans (ceReported_mem.trans scrubBursts_mem))]

/-- An uncorrectable block is counted and stored poisoned (R636, R643). -/
theorem scrubbed_poisons (hwf : Memory.wf s = true) (hn : n < 4) (hsel : fbit (rd s (pgEcc + Reg.ECC_FLIP_SEL)) 16 = false)
    (hue : r.ue = true) (hce : r.ce = false) :
    rd (scrubbed s n blk r) (pgMem n + Reg.MEM_UE_CNT) = rd s (pgMem n + Reg.MEM_UE_CNT) + 1
      ∧ ∀ b, tget (fun _ => []) (getChan (scrubbed s n blk r) n).blocks b
          = if b = blk then encodeBlock r.data true else tget (fun _ => []) (getChan s n).blocks b := by
  have hwfb := wf_scrubBursts (n := n) hwf
  have hunarmed : fbit (rd (ueReported (memBurst (memBurst s n 2) n 2) n blk { r with poison := false })
      (pgEcc + Reg.ECC_FLIP_SEL)) 16 = false := by
    rw [rd_ueReported (scrubWord_flipSel hn), rd_bump_other (memWord_ne_flipSel hn (by decide)), rd_congr scrubBursts_regs, hsel]
  have heq : scrubbed s n blk r = tickFree (stored (ueReported (memBurst (memBurst s n 2) n 2) n blk { r with poison := false })
      n blk (encodeBlock r.data true)) := by
    unfold scrubbed
    dsimp only
    rw [if_neg (by rw [hce]; decide), reportRead_ue (r := { r with poison := false }) hue, storeRaw_unarmed hunarmed]
  rw [heq, rd_congr (tickFree_regs _), getChan_congr (tickFree_mem _)]
  refine ⟨?_, fun b => ?_⟩
  · rw [rd_stored, rd_ueReported (scrubWord_mem hn (o := Reg.MEM_UE_CNT) (by decide) (by decide)), rd_bump_same _ (Memory.wf_regs hwfb), rd_congr scrubBursts_regs]
  · rw [block_stored (wf_ueReported hwfb), getChan_congr (ueReported_mem.trans scrubBursts_mem)]

end

section
variable {s : State} {n : Fin 4} (hrun : (getChan s n.val).st = .running)
  (hon : fbit (rdEff s (pgMem n.val + Reg.PAGE_CTL)) 0 = true) (hmay : memMay s n.val 2 1 = true)
include hrun hon hmay

theorem patrol_runs : (!((getChan s n.val).st == .running) || !fbit (rdEff s (pgMem n.val + Reg.PAGE_CTL)) 0
    || !memMay s n.val 2 1) = false := by
  rw [hrun, hon, hmay]
  rfl

/-- A retired region is skipped (R643, R645). -/
theorem exec_patrol_retired (hret : retired s n.val (64 * (getChan s n.val).scrubPos) = true) :
    exec (.patrolScrubBurst n) s = .next (scrubMoved s n.val (chanBytes s n.val / 64)
      (((getChan s n.val).scrubPos / 64 + 1) * 64)) := by
  show execPatrolScrubBurst n s = _
  simp only [execPatrolScrubBurst, patrol_runs hrun hon hmay, hret, Bool.false_eq_true, if_false, if_true]
  rfl

/-- A clean block is passed (R643). -/
theorem exec_patrol_clean (hret : retired s n.val (64 * (getChan s n.val).scrubPos) = false)
    (hce : (decodeBlock (rawBlock s n.val (getChan s n.val).scrubPos)).ce = false)
    (hue : (decodeBlock (rawBlock s n.val (getChan s n.val).scrubPos)).ue = false) :
    exec (.patrolScrubBurst n) s = .next (scrubMoved (tickFree (memBurst s n.val 2)) n.val (chanBytes s n.val / 64)
      ((getChan s n.val).scrubPos + 1)) := by
  show execPatrolScrubBurst n s = _
  simp only [execPatrolScrubBurst, patrol_runs hrun hon hmay, hret, hce, hue, Bool.or_self, Bool.not_false, Bool.false_eq_true,
    if_false, if_true]
  rfl

/-- A block with an error is written back with the next burst of the grant (R643). -/
theorem exec_patrol_error (hret : retired s n.val (64 * (getChan s n.val).scrubPos) = false)
    (herr : (decodeBlock (rawBlock s n.val (getChan s n.val).scrubPos)).ce = true
      ∨ (decodeBlock (rawBlock s n.val (getChan s n.val).scrubPos)).ue = true) (hmore : memMay s n.val 2 2 = true) :
    exec (.patrolScrubBurst n) s = .next (scrubMoved (scrubbed s n.val (getChan s n.val).scrubPos
      (decodeBlock (rawBlock s n.val (getChan s n.val).scrubPos))) n.val (chanBytes s n.val / 64)
      ((getChan s n.val).scrubPos + 1)) := by
  have hbad : (!((decodeBlock (rawBlock s n.val (getChan s n.val).scrubPos)).ce
      || (decodeBlock (rawBlock s n.val (getChan s n.val).scrubPos)).ue)) = false := by
    rw [Bool.not_eq_false', Bool.or_eq_true]
    exact herr
  show execPatrolScrubBurst n s = _
  simp only [execPatrolScrubBurst, patrol_runs hrun hon hmay, hret, hbad, hmore, Bool.not_true, Bool.false_eq_true, if_false]
  rfl

/-- What stands after a granted patrol burst (R635, R636, R642, R643). -/
theorem patrol_effects (hwf : Memory.wf s = true) {c : MemChan} {r : DramRead} {p : Nat} (hc : c = getChan s n.val)
    (hdec : r = decodeBlock (rawBlock s n.val c.scrubPos))
    (hp : p = if retired s n.val (64 * c.scrubPos) then (c.scrubPos / 64 + 1) * 64 else c.scrubPos + 1)
    (hcase : retired s n.val (64 * c.scrubPos) = true ∨ (r.ce = false ∧ r.ue = false) ∨ memMay s n.val 2 2 = true) :
    ∃ t, exec (.patrolScrubBurst n) s = .next t
    ∧ (getChan t n.val).scrubPos = (if chanBytes s n.val / 64 ≤ p then 0 else p)
    ∧ rd t (pgMem n.val + Reg.MEM_SCRUB_PASSES) = rd s (pgMem n.val + Reg.MEM_SCRUB_PASSES)
        + (if chanBytes s n.val / 64 ≤ p then 1 else 0)
    ∧ (∀ m, m ≠ n.val → getChan t m = getChan s m)
    ∧ ((retired s n.val (64 * c.scrubPos) = true ∨ (r.ce = false ∧ r.ue = false)) → (getChan t n.val).blocks = c.blocks
      ∧ rd t (pgMem n.val + Reg.MEM_CE_CNT) = rd s (pgMem n.val + Reg.MEM_CE_CNT)
      ∧ rd t (pgMem n.val + Reg.MEM_UE_CNT) = rd s (pgMem n.val + Reg.MEM_UE_CNT))
    ∧ (retired s n.val (64 * c.scrubPos) = false → fbit (rd s (pgEcc + Reg.ECC_FLIP_SEL)) 16 = false →
      (r.ce = true → r.ue = false → rd t (pgMem n.val + Reg.MEM_CE_CNT) = rd s (pgMem n.val + Reg.MEM_CE_CNT) + 1
        ∧ ∀ b, tget (fun _ => []) (getChan t n.val).blocks b
            = if b = c.scrubPos then encodeBlock r.data r.poison else tget (fun _ => []) c.blocks b)
      ∧ (r.ue = true → r.ce = false → rd t (pgMem n.val + Reg.MEM_UE_CNT) = rd s (pgMem n.val + Reg.MEM_UE_CNT) + 1
        ∧ ∀ b, tget (fun _ => []) (getChan t n.val).blocks b
            = if b = c.scrubPos then encodeBlock r.data true else tget (fun _ => []) c.blocks b)) := by
  subst hc hdec hp
  have hce : pgMem n.val + Reg.MEM_CE_CNT ≠ pgMem n.val + Reg.MEM_SCRUB_PASSES := by simp
  have hue : pgMem n.val + Reg.MEM_UE_CNT ≠ pgMem n.val + Reg.MEM_SCRUB_PASSES := by simp
  cases hret : retired s n.val (64 * (getChan s n.val).scrubPos) with
  | true =>
    obtain ⟨hpos, hblocks, hpasses, hother⟩ := scrubMoved_effects (n := n.val) hwf (chanBytes s n.val / 64)
      (((getChan s n.val).scrubPos / 64 + 1) * 64)
    exact ⟨_, exec_patrol_retired hrun hon hmay hret, hpos, hpasses, fun _ hm => chan_scrubMoved_other _ _ hm, fun _ => ⟨hblocks, hother _ hce, hother _ hue⟩, nofun⟩
  | false =>
    rw [hret] at hcase
    by_cases hclean : (decodeBlock (rawBlock s n.val (getChan s n.val).scrubPos)).ce = false
        ∧ (decodeBlock (rawBlock s n.val (getChan s n.val).scrubPos)).ue = false
    · obtain ⟨hceno, hueno⟩ := hclean
      have hwfb : Memory.wf (tickFree (memBurst s n.val 2)) = true :=
        (tickFree_keeps (kk := ⟨true, true, true, true, true⟩) _ (memBurst_keeps _ _ _ (Keeps.refl s))).wf hwf
      have hregs : (tickFree (memBurst s n.val 2)).regs = s.regs := (tickFree_regs _).trans (memBurst_regs 2)
      have hmem : (tickFree (memBurst s n.val 2)).mem = s.mem := (tickFree_mem _).trans (memBurst_mem 2)
      obtain ⟨hpos, hblocks, hpasses, hother⟩ := scrubMoved_effects (n := n.val) hwfb (chanBytes s n.val / 64)
        ((getChan s n.val).scrubPos + 1)
      rw [getChan_congr hmem] at hblocks
      rw [rd_congr hregs] at hpasses
      refine ⟨_, exec_patrol_clean hrun hon hmay hret hceno hueno, hpos, hpasses, fun m hm => ?_, fun _ => ⟨hblocks, ?_, ?_⟩,
        fun _ _ => ⟨?_, ?_⟩⟩
      · exact (chan_scrubMoved_other _ _ hm).trans (getChan_congr hmem m)
      · exact (hother _ hce).trans (rd_congr hregs)
      · exact (hother _ hue).trans (rd_congr hregs)
      · intro h
        exact absurd h (by rw [hceno]; decide)
      · intro h
        exact absurd h (by rw [hueno]; decide)
    · have herr : (decodeBlock (rawBlock s n.val (getChan s n.val).scrubPos)).ce = true
          ∨ (decodeBlock (rawBlock s n.val (getChan s n.val).scrubPos)).ue = true := by
        rwa [not_and_or, Bool.not_eq_false, Bool.not_eq_false] at hclean
      have hmore := (hcase.resolve_left Bool.false_ne_true).resolve_left hclean
      generalize hr : decodeBlock (rawBlock s n.val (getChan s n.val).scrubPos) = r at *
      have hwfb : Memory.wf (scrubbed s n.val (getChan s n.val).scrubPos r) = true :=
        wf_scrubbed hwf
      obtain ⟨hpos, hblocks, hpasses, hother⟩ := scrubMoved_effects (n := n.val) hwfb (chanBytes s n.val / 64)
        ((getChan s n.val).scrubPos + 1)
      rw [rd_scrubbed_passes n.isLt herr] at hpasses
      have hexec := exec_patrol_error hrun hon hmay hret (by rw [hr]; exact herr) hmore
      rw [hr] at hexec
      refine ⟨_, hexec, hpos, hpasses, fun m hm => ?_, fun h => ?_, fun _ hsel => ⟨fun hceyes hueno => ?_, fun hueyes hceno => ?_⟩⟩
      · exact (chan_scrubMoved_other _ _ hm).trans (chan_scrubbed_other hm herr)
      · exact absurd (h.resolve_left Bool.false_ne_true) hclean
      · obtain ⟨hcount, hstored⟩ := scrubbed_corrects hwf n.isLt hsel hceyes hueno
        rw [hother _ hce, hblocks]
        exact ⟨hcount, hstored⟩
      · obtain ⟨hcount, hstored⟩ := scrubbed_poisons hwf n.isLt hsel hueyes hceno
        rw [hother _ hue, hblocks]
        exact ⟨hcount, hstored⟩

end

/-- Settles O57, from what each MEM command, a retire entry, an armed flip and a patrol burst do. -/
theorem dramChannels : Obligations.DramChannels := by
  unfold Obligations.DramChannels
  intro s hwf
  refine ⟨?_, ?_, ?_, ?_⟩
  · intro n via seq a0 found hr hv hphase
    refine ⟨fun k cmd h => exec_mem_wrongState seq hwf hr hv hphase found h, fun hst => ⟨?_, ?_⟩, ?_, ?_, fun hst => ⟨?_, ?_⟩, ?_⟩
    · exact exec_memConfig_configures seq hwf hr hv hphase hst
    · exact fun o => exec_memConfig_badArg seq hwf hr hv hphase hst
    · exact exec_memSweep_sweeps seq hwf hr hv hphase found
    · exact exec_memSweep_badArg seq hwf hr hv hphase found
    · exact exec_memStart_starts seq hwf hr hv hphase hst
    · exact fun m => exec_memStart_badArg seq hwf hr hv hphase hst
    · exact exec_memRelease_releases seq hwf hr hv hphase
  · intro via n w hv hs hphase
    refine ⟨⟨_, exec_retireEntryWrite_sets hv hs hphase n, wr_alone (Memory.wf_regs hwf) _ _⟩, fun harm => ⟨fun htest => ?_, fun htest => ?_⟩⟩
    · exact ⟨_, exec_flipArm_writes hv hs hphase harm, (flipSelWrite_armed hwf harm).1 htest⟩
    · exact ⟨_, exec_flipArm_writes hv hs hphase harm, (flipSelWrite_armed hwf harm).2 htest⟩
  · intro word harm hlo hhi
    obtain ⟨t, hexec, hhead, hsel, herr, haddr, hmem⟩ := exec_flipApply_corrupts hwf word harm hlo hhi
    refine ⟨t, flipOf s word, hexec, rfl, rfl, rfl, ?_, ?_, hhead, hsel, herr, haddr, hmem⟩
    · have hlow := (rd s (pgEcc + Reg.ECC_FLIP_MASK_LO)).isLt
      have hhigh := (rd s (pgEcc + Reg.ECC_FLIP_MASK_HI)).isLt
      rw [flipOf, BitVec.toNat_ofNat]
      exact Nat.mod_eq_of_lt (by omega)
    · rw [flipOf, BitVec.toNat_ofNat]
      exact Nat.mod_eq_of_lt (Nat.mod_lt _ (by decide))
  · intro n c r p hc hdec hrun hon hmay hp hcase
    subst hc
    exact patrol_effects hrun hon hmay hwf rfl hdec hp hcase

end Sys2Proof.Machine

/-! SUPPORT. Associations and derived keys (R544 to R557, R578). -/
namespace Sys2Proof.Machine

/-! ### A word written to an association (R545 to R547) -/

/-- Every association of a tenant cipher page has a register at its first word. -/
theorem rowAt_sa : ∀ a : Fin 32, (rowAt .tenCip (0x800 + 64 * a.val)).isSome = true := by
  decide

section
variable {s : State} {via : Master} {t : Fin 1024} {a : Fin 32} {w : Word}

theorem target_sa (t : Fin 1024) (a : Fin 32) :
    ∃ r, target (saBase t.val a.val) = .reg ⟨.tenCip, t.val, pgTenCip t.val⟩ (0x800 + 64 * a.val) r := by
  obtain ⟨r, hr⟩ := Option.isSome_iff_exists.1 (rowAt_sa a)
  have hpage : pageAt (saBase t.val a.val) = some ⟨.tenCip, t.val, pgTenCip t.val⟩ := by
    have ht := t.isLt
    have ha := a.isLt
    unfold pageAt saBase pgTenCip
    rw [if_neg (by omega), if_neg (by omega), if_pos (by omega)]
    have hinst : (0x1000000 + 0x1000 * t.val + 0x800 + 64 * a.val - 0x1000000) / 0x1000 = t.val := by omega
    have hbase : (0x1000000 + 0x1000 * t.val + 0x800 + 64 * a.val) / 0x1000 * 0x1000 = 0x1000000 + 0x1000 * t.val := by omega
    rw [hinst, hbase]
  have hoff : saBase t.val a.val - pgTenCip t.val = 0x800 + 64 * a.val := by
    unfold saBase
    omega
  refine ⟨r, ?_⟩
  unfold target
  rw [hpage]
  simp only [PageKind.isBlock, Bool.false_and, Bool.false_eq_true, if_false, hoff, hr]

theorem regWrite_sa {r : RegRow} : regWrite s via ⟨.tenCip, t.val, pgTenCip t.val⟩ (0x800 + 64 * a.val) r w
    = saWrite s t.val a.val 0 w := by
  have ha := a.isLt
  have hidx : (indexOf .tenCip (0x800 + 64 * a.val)).isSome = false := by simp [indexOf]
  have hsa : Reg.CP_SA ≤ 0x800 + 64 * a.val := by simp only [Reg.CP_SA]; omega
  have hassoc : (0x800 + 64 * a.val - Reg.CP_SA) / 64 = a.val := by simp only [Reg.CP_SA]; omega
  have hword : (0x800 + 64 * a.val) % 64 / 4 = 0 := by omega
  simp only [regWrite, PageAt.hasCmd, PageKind.hasCmd, PageKind.isBlock, Bool.false_and, Bool.false_eq_true, if_false, hidx,
    tenCipWrite, hsa, if_true, hassoc, hword]

/-- A served write of a manager to bytes 0 to 3 of an association, outside recovery, is the association's. -/
theorem writeServed_sa (hv : Manages via) (hs : served s via true = true) (hphase : s.power.phase ≠ .recovery) :
    writeServed s via (saBase t.val a.val) w = saWrite s t.val a.val 0 w := by
  obtain ⟨r, ht⟩ := target_sa t a
  have haddr : saBase t.val a.val < 0x4000000 := by
    have ht := t.isLt
    have ha := a.isLt
    unfold saBase pgTenCip
    omega
  rw [writeServed, if_pos hs, writeAccess_reg hv haddr ht hphase, regWrite_sa]

theorem saOffset_manages (hv : Manages via) (t a : Nat) : saOffset via t a = some (saBase t a) := by
  rcases hv with rfl | rfl <;> rfl

theorem exec_saValidate_writes (hv : Manages via) (hs : served s via true = true) (hphase : s.power.phase ≠ .recovery)
    (hw : fbit w 0 = true) : exec (.saValidate via t a w) s = .next (saWrite s t.val a.val 0 w) := by
  show execSaValidate via t a w s = _
  rw [execSaValidate, saOffset_manages hv]
  simp only [hw, if_true, writeServed_sa hv hs hphase]

theorem exec_saInvalidate_writes (hv : Manages via) (hs : served s via true = true) (hphase : s.power.phase ≠ .recovery)
    (hw : fbit w 0 = false) : exec (.saInvalidate via t a w) s = .next (saWrite s t.val a.val 0 w) := by
  show execSaInvalidate via t a w s = _
  rw [execSaInvalidate, saOffset_manages hv]
  simp only [hw, Bool.false_eq_true, if_false, writeServed_sa hv hs hphase]

end

section
variable {s : State} {t a : Nat} {w : Word}

/-- A valid association takes no word that would set valid again (R547). -/
theorem saWrite_locked (hvalid : fbit (rd s (saBase t a)) 0 = true) (hw : fbit w 0 = true) :
    saWrite s t a 0 w = setCpErr s t 2 := by
  simp only [saWrite, hvalid, hw, if_true, Bool.not_true, Bool.false_eq_true, and_false, if_false]

theorem saWrite_clears (hvalid : fbit (rd s (saBase t a)) 0 = true) (hw : fbit w 0 = false) :
    saWrite s t a 0 w = saChanges (wr s (saBase t a) (putBit (rd s (saBase t a)) 0 false)) t a := by
  simp only [saWrite, hvalid, hw, if_true, Bool.not_false, and_self]

theorem saWrite_plain (hinvalid : fbit (rd s (saBase t a)) 0 = false) (hw : fbit w 0 = false) :
    saWrite s t a 0 w = wr s (saBase t a) w := by
  simp only [saWrite, hinvalid, hw, Bool.false_eq_true, if_false, and_false, Nat.mul_zero, Nat.add_zero]

/-- A sound association becomes valid at the boundary (R546, R547). -/
theorem saWrite_validates (hinvalid : fbit (rd s (saBase t a)) 0 = false) (hw : fbit w 0 = true)
    (hcheck : saCheck (wr s (saBase t a) w) t (saWritten (wr s (saBase t a) w) t a) = none) :
    saWrite s t a 0 w = saChanges (wr s (saBase t a) w) t a := by
  simp only [saWrite, hinvalid, hw, Bool.false_eq_true, if_false, and_self, if_true, hcheck]

/-- An association that fails a check stays invalid; the first such failure is recorded (R546). -/
theorem saWrite_refuses (hwf : twf regDflt s.regs = true) (hinvalid : fbit (rd s (saBase t a)) 0 = false) (hw : fbit w 0 = true)
    {r : Nat} (hcheck : saCheck (wr s (saBase t a) w) t (saWritten (wr s (saBase t a) w) t a) = some r) :
    (saWrite s t a 0 w).cip = s.cip ∧ rd (saWrite s t a 0 w) (saBase t a) = putBit w 0 false
      ∧ fbit (rd (saWrite s t a 0 w) (pgTenCip t + Reg.CP_ERR)) 1 = true
      ∧ (fbit (rd s (pgTenCip t + Reg.CP_SA_ERR)) 31 = false →
        rd (saWrite s t a 0 w) (pgTenCip t + Reg.CP_SA_ERR) = w32 (a + 256 * r + 2 ^ 31)) := by
  have hbaseErr : saBase t a ≠ pgTenCip t + Reg.CP_ERR := by simp only [saBase, Reg.CP_ERR]; omega
  have hbaseFirst : saBase t a ≠ pgTenCip t + Reg.CP_SA_ERR := by simp only [saBase, Reg.CP_SA_ERR]; omega
  have hfirstErr : pgTenCip t + Reg.CP_SA_ERR ≠ pgTenCip t + Reg.CP_ERR := by simp only [Reg.CP_SA_ERR, Reg.CP_ERR]; omega
  have hrefused : saWrite s t a 0 w
      = if fbit (rd (setCpErr (wr s (saBase t a) (putBit w 0 false)) t 1) (pgTenCip t + Reg.CP_SA_ERR)) 31 then
          setCpErr (wr s (saBase t a) (putBit w 0 false)) t 1
        else wr (setCpErr (wr s (saBase t a) (putBit w 0 false)) t 1) (pgTenCip t + Reg.CP_SA_ERR) (w32 (a + 256 * r + 2 ^ 31)) := by
    simp only [saWrite, hinvalid, hw, Bool.false_eq_true, if_false, and_self, if_true, hcheck]
  have hw1 := twf_wr (saBase t a) (putBit w 0 false) hwf
  have hfirst : rd (setCpErr (wr s (saBase t a) (putBit w 0 false)) t 1) (pgTenCip t + Reg.CP_SA_ERR)
      = rd s (pgTenCip t + Reg.CP_SA_ERR) := by
    rw [setCpErr, rd_wr_other _ hfirstErr.symm, rd_wr_other _ hbaseFirst]
  have hbase : rd (setCpErr (wr s (saBase t a) (putBit w 0 false)) t 1) (saBase t a) = putBit w 0 false := by
    rw [setCpErr, rd_wr_other _ hbaseErr.symm, rd_wr_same _ _ hwf]
  have herr : fbit (rd (setCpErr (wr s (saBase t a) (putBit w 0 false)) t 1) (pgTenCip t + Reg.CP_ERR)) 1 = true := by
    rw [setCpErr, rd_wr_same _ _ hw1]
    exact nbit_or_two_pow _ (by decide)
  rw [hrefused, hfirst]
  split
  next hseen => exact ⟨rfl, hbase, herr, fun h => absurd hseen (by rw [h]; decide)⟩
  next =>
    refine ⟨rfl, ?_, ?_, fun _ => rd_wr_same _ _ (twf_wr _ _ hw1)⟩
    · rw [rd_wr_other _ hbaseFirst.symm, hbase]
    · rw [rd_wr_other _ hfirstErr, herr]

end

/-! ### The derived-key cache (R551 to R555) -/

theorem cacheKey_inj {x y : SliceId} {e e' : Nat} (he : e < 32768) (he' : e' < 32768) (h : cacheKey x e = cacheKey y e') :
    x = y ∧ e = e' := by
  have hslice : x = y := by
    cases x <;> cases y <;> simp only [cacheKey, SliceId.num, reduceCtorEq] at h ⊢ <;> omega
  subst hslice
  exact ⟨rfl, Nat.add_left_cancel h⟩

section
variable {s : State} {sl : SliceId} {e : Nat} {h : KeyHalf}

theorem cached_congr {t : State} (hcip : t.cip = s.cip) (x : SliceId) (e : Nat) : cached t x e = cached s x e := by
  rw [cached, hcip, cached]

theorem cached_putCache_same (hwf : Memory.wf s = true) (key : List Byte) : cached (putCache s sl e key) sl e = key :=
  tget_tset_same _ _ _ _ (Memory.wf_iff.1 hwf).cache

theorem cached_putCache_other (key : List Byte) {x : SliceId} {e' : Nat} (he : e < 32768) (he' : e' < 32768)
    (hne : x ≠ sl ∨ e' ≠ e) : cached (putCache s sl e key) x e' = cached s x e' := by
  refine tget_tset_other _ _ _ _ (fun heq => ?_) _
  obtain ⟨hslice, hentry⟩ := cacheKey_inj he he' heq
  exact hne.elim (· hslice.symm) (· hentry.symm)

/-- A derivation with a valid association, an allowed slot and a sound root key (R551, R553, R685). -/
theorem deriveKey_sound (hvalid : saValid s (e / 32) (e % 32) = true)
    (hslot : fbit (rd s (pgTenCip (e / 32) + Reg.CP_SLOTS)) (saSlot (saBytes s (e / 32) (e % 32))) = true)
    (hhalf : (getSlot s (saSlot (saBytes s (e / 32) (e % 32)))).half = some h) (hcheck : keyCheck h = h.check) :
    deriveKey s e = (s, some (kdf (keyBytes h.key) (e / 32) (saBytes s (e / 32) (e % 32)))) := by
  simp only [deriveKey, hvalid, hslot, Bool.not_true, Bool.or_self, Bool.false_eq_true, if_false, slotKey, hhalf, hcheck,
    if_true, Option.map_some]

theorem deriveKey_invalid (hvalid : saValid s (e / 32) (e % 32) = false) : deriveKey s e = (s, none) := by
  simp only [deriveKey, hvalid, Bool.not_false, Bool.true_or, if_true]

end

/-! ### What a refusal leaves as it was (R558, R576) -/

section
variable (s : State)

/-- A use of a frame ended changes frames, free cells and the occupancy of nodes. -/
theorem dropRef_shape (id : Nat) : ∃ fr c rp x, dropRef s id = { s with
    pipe := { s.pipe with frames := fr, freeCells := c, rxPart := rp }, sched := { s.sched with nodes := x } } := by
  unfold dropRef
  split
  · exact ⟨s.pipe.frames, s.pipe.freeCells, s.pipe.rxPart, s.sched.nodes, rfl⟩
  · split
    · unfold releaseFrame
      split
      · exact ⟨s.pipe.frames, s.pipe.freeCells, s.pipe.rxPart, s.sched.nodes, rfl⟩
      next f _ =>
        obtain ⟨x, hx⟩ := subOccs_eq f.charges s
        rw [hx]
        exact ⟨_, _, _, x, rfl⟩
    · exact ⟨_, s.pipe.freeCells, s.pipe.rxPart, s.sched.nodes, rfl⟩

/-- A TX entry ended in the pipeline changes its queue and returns its cells. -/
theorem endTx_shape (id st : Nat) (ready : Bool) : ∃ q c, endTx s id st ready = { s with
    queues := q, pipe := { s.pipe with freeCells := c } } := by
  unfold endTx
  split
  · exact ⟨s.queues, s.pipe.freeCells, rfl⟩
  · split
    · exact ⟨s.queues, s.pipe.freeCells, rfl⟩
    · unfold endItem
      split
      · exact ⟨s.queues, s.pipe.freeCells, rfl⟩
      · split
        · exact ⟨s.queues, s.pipe.freeCells, rfl⟩
        · exact ⟨s.queues, s.pipe.freeCells, rfl⟩
        · exact ⟨_, _, rfl⟩

theorem dropTx_shape (id st : Nat) : ∃ q fr c rp x, dropRef (endTx s id st true) id = { s with
    queues := q, pipe := { s.pipe with frames := fr, freeCells := c, rxPart := rp }, sched := { s.sched with nodes := x } } := by
  obtain ⟨q, c, hend⟩ := endTx_shape s id st true
  obtain ⟨fr, c', rp, x, hdrop⟩ := dropRef_shape (endTx s id st true) id
  exact ⟨q, fr, c', rp, x, by rw [hdrop, hend]⟩

/-- A frame refused in the cipher leaves its queue; its outcome counts. -/
theorem refuseDec_shape (r : DecReq) (k : Nat) : ∃ q fr c rp x, refuseDec s r k = { dropDec (cipOutcome s r.sa k) r.view.frame with
    queues := q
    pipe := { (dropDec (cipOutcome s r.sa k) r.view.frame).pipe with frames := fr, freeCells := c, rxPart := rp }
    sched := { (dropDec (cipOutcome s r.sa k) r.view.frame).sched with nodes := x } } := by
  unfold refuseDec
  dsimp only
  split
  · exact dropTx_shape _ _ _
  · exact dropTx_shape _ _ _

theorem refuseEnc_shape (d : Desc) (sa : SaRef) (k : Nat) : ∃ q p x, refuseEnc s d sa k = { cipOutcome s sa k with
    queues := q, pipe := p, sched := x } := by
  unfold refuseEnc
  dsimp only
  split
  · obtain ⟨q, fr, c, rp, x, h⟩ := dropTx_shape (mapDescs (cipOutcome s sa k) (swapDesc d none)) d.view.frame stPOISONED
    exact ⟨_, _, _, h⟩
  · obtain ⟨q, p, x, h⟩ := dropDesc_eq (mapDescs (cipOutcome s sa k) (swapDesc d none)) d
    exact ⟨_, _, _, h⟩

theorem cipOutcome_cip (sa : SaRef) (k : Nat) : (cipOutcome s sa k).cip = s.cip :=
  cipOutcome_frame State.cip bump_cip signal_cip setErr_cip s sa k

theorem refuseDec_cip (r : DecReq) (k : Nat) : (refuseDec s r k).cip = s.cip := by
  obtain ⟨q, fr, c, rp, x, h⟩ := refuseDec_shape s r k
  rw [h]
  exact cipOutcome_cip s r.sa k

theorem refuseEnc_cip (d : Desc) (sa : SaRef) (k : Nat) : (refuseEnc s d sa k).cip = s.cip := by
  obtain ⟨q, p, x, h⟩ := refuseEnc_shape s d sa k
  rw [h]
  exact cipOutcome_cip s sa k

/-- The frames refused for a key that could not be derived leave the caches and the key queues (R553). -/
theorem refuseNoKey_cip (e : Nat) : (refuseNoKey s e).cip = s.cip := by
  have hdec : ∀ (l : List DecReq) (u : State), (l.foldl (fun s r => refuseDec s r 4) u).cip = u.cip :=
    fun l u => foldl_frame State.cip (fun _ _ => refuseDec_cip _ _ _) l u
  have henc : ∀ (l : List Desc) (u : State), (l.foldl (fun s d => refuseEnc s d (d.enc.getD ⟨0, 0, false⟩) 4) u).cip = u.cip :=
    fun l u => foldl_frame State.cip (fun _ _ => refuseEnc_cip _ _ _ _) l u
  unfold refuseNoKey
  exact (henc _ _).trans (hdec _ _)

end

/-! ### The key unit (R553, R555, R557, R578) -/

section
variable {s : State} {sl : SliceId}

/-- The state in which a queued request is worked on: the request taken and its energy spent. -/
def keyTaken (s : State) (k : KeyReq) : State :=
  useKdfEnergy { s with cip := { s.cip with keyQ := s.cip.keyQ.filter (fun x => x != k) } } k.acct

theorem wf_spent (s : State) (a : Nat) (hwf : Memory.wf s = true) : Memory.wf (useKdfEnergy s a) = true :=
  (spendEnergy_keeps (kk := ⟨true, true, true, true, true⟩) s _ 12 (Keeps.refl s)).wf hwf

section
variable {k : KeyReq} (hworks : sliceWorks s sl = true) (hk : s.cip.keyQ.find? (fun x => x.slice == sl) = some k)
include hworks hk

theorem exec_keyDerivation_starved (henergy : energyLeft s (acct 4 k.acct) < 12) : exec (.keyDerivation sl) s = .next s := by
  show execKeyDerivation sl s = _
  simp only [execKeyDerivation, hworks, hk, henergy, Bool.not_true, Bool.false_eq_true, if_false, if_true]

theorem exec_keyDerivation_derives (henergy : 12 ≤ energyLeft s (acct 4 k.acct)) {key : List Byte}
    (hderive : deriveKey (keyTaken s k) k.entry = (keyTaken s k, some key)) :
    exec (.keyDerivation sl) s = .next (bump (putCache (keyTaken s k) sl k.entry key) (pgCip sl + Reg.CIP_KDF_CNT)) := by
  show execKeyDerivation sl s = _
  rw [keyTaken] at hderive
  simp only [execKeyDerivation, hworks, hk, Nat.not_lt.2 henergy, Bool.not_true, Bool.false_eq_true, if_false, hderive]
  rfl

theorem exec_keyDerivation_fails (henergy : 12 ≤ energyLeft s (acct 4 k.acct))
    (hderive : deriveKey (keyTaken s k) k.entry = (keyTaken s k, none)) :
    ∃ t, exec (.keyDerivation sl) s = .next t ∧ t.cip.keyQ = (keyTaken s k).cip.keyQ ∧ t.cip.cache = (keyTaken s k).cip.cache := by
  have hnote : ∀ u : State, (noteNoKey u k.entry).cip.keyQ = u.cip.keyQ ∧ (noteNoKey u k.entry).cip.cache = u.cip.cache := by
    intro u
    unfold noteNoKey
    split <;> exact ⟨rfl, rfl⟩
  have hnoted : (if k.acct = 2 then noteNoKey (keyTaken s k) k.entry else keyTaken s k).cip.keyQ = (keyTaken s k).cip.keyQ
      ∧ (if k.acct = 2 then noteNoKey (keyTaken s k) k.entry else keyTaken s k).cip.cache = (keyTaken s k).cip.cache := by
    split
    · exact hnote _
    · exact ⟨rfl, rfl⟩
  have hexec : exec (.keyDerivation sl) s = .next (if s.red.accepted = some sl then
        refuseNoKey (if k.acct = 2 then noteNoKey (keyTaken s k) k.entry else keyTaken s k) k.entry
      else if k.acct = 2 then noteNoKey (keyTaken s k) k.entry else keyTaken s k) := by
    show execKeyDerivation sl s = _
    rw [keyTaken] at hderive
    simp only [execKeyDerivation, hworks, hk, Nat.not_lt.2 henergy, Bool.not_true, Bool.false_eq_true, if_false, hderive]
    rfl
  refine ⟨_, hexec, ?_⟩
  split
  · rw [refuseNoKey_cip]
    exact hnoted
  · exact hnoted

end

/-- A request with a valid association, an allowed slot and a sound root key is cached (R551, R553). -/
theorem keyDerivation_caches {k : KeyReq} {h : KeyHalf} (hwf : Memory.wf s = true) (hworks : sliceWorks s sl = true)
    (hk : s.cip.keyQ.find? (fun x => x.slice == sl) = some k) (hentry : k.entry < 32768)
    (henergy : 12 ≤ energyLeft s (acct 4 k.acct)) (hvalid : saValid s (k.entry / 32) (k.entry % 32) = true)
    (hslot : fbit (rd s (pgTenCip (k.entry / 32) + Reg.CP_SLOTS)) (saSlot (saBytes s (k.entry / 32) (k.entry % 32))) = true)
    (hhalf : (getSlot s (saSlot (saBytes s (k.entry / 32) (k.entry % 32)))).half = some h) (hcheck : keyCheck h = h.check) :
    ∃ t, exec (.keyDerivation sl) s = .next t ∧ t.cip.keyQ = s.cip.keyQ.filter (fun x => x != k)
      ∧ cached t sl k.entry = kdf (keyBytes h.key) (k.entry / 32) (saBytes s (k.entry / 32) (k.entry % 32))
      ∧ (∀ x e, e < 32768 → (x ≠ sl ∨ e ≠ k.entry) → cached t x e = cached s x e)
      ∧ rd t (pgCip sl + Reg.CIP_KDF_CNT) = rd s (pgCip sl + Reg.CIP_KDF_CNT) + 1 := by
  have hderive : deriveKey (keyTaken s k) k.entry = (keyTaken s k, some (kdf (keyBytes h.key) (k.entry / 32)
      (saBytes s (k.entry / 32) (k.entry % 32)))) := deriveKey_sound (s := keyTaken s k) hvalid hslot hhalf hcheck
  have hwft : Memory.wf (keyTaken s k) = true := wf_spent _ _ (Memory.wf_of rfl rfl rfl rfl hwf)
  refine ⟨_, exec_keyDerivation_derives hworks hk henergy hderive, rfl, ?_, fun x e he hne => ?_, ?_⟩
  · exact (cached_congr (bump_cip _ _) _ _).trans (cached_putCache_same hwft _)
  · exact (cached_congr (bump_cip _ _) _ _).trans (cached_putCache_other _ hentry he hne)
  · exact rd_bump_same _ (show twf regDflt s.regs = true from Memory.wf_regs hwf)

/-- A warming job with its next entry worked off (R578). -/
def warmPut (s : State) (sl : SliceId) (w : WarmJob) : State :=
  { s with cip := { s.cip with warm := s.cip.warm.map (fun x => if x.slice = sl then w else x) } }

theorem find_warmPut {w w' : WarmJob} (hw : s.cip.warm.find? (fun x => x.slice == sl) = some w) (hslice : w'.slice = sl) :
    (warmPut s sl w').cip.warm.find? (fun x => x.slice == sl) = some w' := by
  have hmap : ∀ l : List WarmJob, l.find? (fun x => x.slice == sl) = some w →
      (l.map (fun x => if x.slice = sl then w' else x)).find? (fun x => x.slice == sl) = some w' := by
    intro l
    induction l with
    | nil => exact nofun
    | cons x l ih =>
      intro h
      by_cases hx : x.slice = sl
      · rw [List.map_cons, if_pos hx, List.find?_cons_of_pos (by rw [hslice]; exact beq_self_eq_true sl)]
      · rw [List.find?_cons_of_neg (by simpa using hx)] at h
        rw [List.map_cons, if_neg hx, List.find?_cons_of_neg (by simpa using hx)]
        exact ih h
  exact hmap _ hw

theorem warmEnd_unfinished {w : WarmJob} (hw : s.cip.warm.find? (fun x => x.slice == sl) = some w) (hleft : w.left ≠ []) :
    warmEnd s sl = s := by
  simp only [warmEnd, hw, List.isEmpty_iff, hleft, if_false]

/-- A WARM_KEYS list is worked off like the queued requests (R578). -/
theorem keyDerivation_warms {w : WarmJob} {e : Nat} {rest : List Nat} {h : KeyHalf} (hwf : Memory.wf s = true)
    (hworks : sliceWorks s sl = true) (hnone : s.cip.keyQ.find? (fun x => x.slice == sl) = none)
    (hw : s.cip.warm.find? (fun x => x.slice == sl) = some w) (hleft : w.left = e :: rest) (hrest : rest ≠ [])
    (hmiss : cached s sl e = []) (henergy : 12 ≤ energyLeft s (acct 4 0)) (hvalid : saValid s (e / 32) (e % 32) = true)
    (hslot : fbit (rd s (pgTenCip (e / 32) + Reg.CP_SLOTS)) (saSlot (saBytes s (e / 32) (e % 32))) = true)
    (hhalf : (getSlot s (saSlot (saBytes s (e / 32) (e % 32)))).half = some h) (hcheck : keyCheck h = h.check) :
    ∃ t, exec (.keyDerivation sl) s = .next t
      ∧ cached t sl e = kdf (keyBytes h.key) (e / 32) (saBytes s (e / 32) (e % 32))
      ∧ t.cip.warm.find? (fun x => x.slice == sl) = some { w with left := rest, derived := w.derived + 1 } := by
  have hslice : w.slice = sl := by simpa using List.find?_some hw
  have hderive : deriveKey (useKdfEnergy s 0) e = (useKdfEnergy s 0, some (kdf (keyBytes h.key) (e / 32)
      (saBytes s (e / 32) (e % 32)))) := deriveKey_sound (s := useKdfEnergy s 0) hvalid hslot hhalf hcheck
  generalize hkey : kdf (keyBytes h.key) (e / 32) (saBytes s (e / 32) (e % 32)) = key at hderive
  have hfind := find_warmPut (s := bump (putCache (useKdfEnergy s 0) sl e key) (pgCip sl + Reg.CIP_KDF_CNT))
    (w' := { w with left := rest, derived := w.derived + 1 }) hw hslice
  have hexec : exec (.keyDerivation sl) s = .next (warmEnd (warmPut (bump (putCache (useKdfEnergy s 0) sl e key)
      (pgCip sl + Reg.CIP_KDF_CNT)) sl { w with left := rest, derived := w.derived + 1 }) sl) := by
    show execKeyDerivation sl s = _
    simp only [execKeyDerivation, hworks, hnone, hw, hleft, hmiss, Nat.not_lt.2 henergy, Bool.not_true, Bool.false_eq_true,
      if_false, List.isEmpty_nil, hderive]
    rfl
  rw [warmEnd_unfinished hfind hrest] at hexec
  exact ⟨_, hexec, cached_putCache_same (wf_spent s 0 hwf) key, hfind⟩

end

/-! ### FLUSH_KEYS and WARM_KEYS (R578) -/

/-- The entries FLUSH_KEYS empties, by its scope. -/
def flushed (s : State) (a0 a1 : Word) (e : Nat) : Bool :=
  if fld a0 1 0 = 0 then true
  else if fld a0 1 0 = 1 then e / 32 == fld a1 9 0
  else saSlot (saBytes s (e / 32) (e % 32)) == fld a1 3 0

/-- Entries are dropped slice by slice. -/
theorem cached_dropKeys (s : State) (p : SliceId → Nat → Bool) (x : SliceId) {e : Nat} (he : e < 32768) :
    cached (dropKeys s p) x e = if p x e then [] else cached s x e := by
  have hslice : (if cacheKey x e < 32768 then SliceId.ochre else .slate) = x := by
    cases x
    · exact if_pos (by simp only [cacheKey, SliceId.num]; omega)
    · exact if_neg (by simp only [cacheKey, SliceId.num]; omega)
  have hentry : cacheKey x e % 32768 = e := by
    unfold cacheKey
    omega
  have hdrop := tget_tdrop (fun _ => ([] : List Byte)) (fun k => p (if k < 32768 then .ochre else .slate) (k % 32768))
    (cacheKey x e) s.cip.cache
  rw [hslice, hentry] at hdrop
  exact hdrop

/-- What WARM_KEYS puts on the slice's list comes first in it. -/
theorem find_warmed {l : List WarmJob} {sl : SliceId} (hfree : ∀ w ∈ l, w.slice ≠ sl) (j : WarmJob) (hj : j.slice = sl) :
    (l ++ [j]).find? (fun x => x.slice == sl) = some j := by
  rw [List.find?_append, List.find?_eq_none.2 fun w hw => by simpa using hfree w hw, Option.none_or,
    List.find?_cons_of_pos (by rw [hj]; exact beq_self_eq_true sl)]

theorem specFlushKeys_body (sl : SliceId) (c : RunCmd) (s : State) : (specFlushKeys sl).body c s
    = if fld c.a0 1 0 = 3 then endCmd s (pgCip sl) stBAD_ARG
      else endCmd (dropKeys s (fun x e => x == sl && flushed s c.a0 c.a1 e)) (pgCip sl) stOK := by
  unfold specFlushKeys flushed
  with_reducible rfl

section
variable {s : State} {sl : SliceId} {via : Master} (seq : Byte) {a0 a1 : Word} (hwf : Memory.wf s = true) (hv : Manages via)
  (hr : PageReady s (pgCip sl) via)
include hwf hv hr

/-- FLUSH_KEYS empties the entries of its scope in its slice (R578). -/
theorem exec_flushKeys_flushes (hscope : fld a0 1 0 < 3) : ∃ t, exec (.flushKeys sl via seq a0 a1) s = .next t
    ∧ CmdEnded s t (pgCip sl) 1 seq.toNat stOK (a0, a1, 0) (0, 0, 0)
    ∧ { t with regs := s.regs } = dropKeys s (fun x e => x == sl && flushed s a0 a1 e) := by
  obtain ⟨hended, hframe⟩ := commandRow_ended (spec := specFlushKeys sl) (code := 1) (seq := seq) (a0 := a0) (a1 := a1) (a2 := 0)
    (v := dropKeys s (fun x e => x == sl && flushed s a0 a1 e)) (Memory.wf_regs hwf) (cipPlain sl) hr hv hv.isGlobal rfl
    (by decide) (.inl rfl) fun r n => by
      have hhit : flushed { s with regs := r, running := n } a0 a1 = flushed s a0 a1 := rfl
      have hother : fld a0 1 0 ≠ 3 := by omega
      rw [specFlushKeys_body, if_neg hother, hhit]
      exact congrArg (fun u => endCmd u (pgCip sl) stOK) rfl
  exact ⟨_, rfl, hended, hframe⟩

theorem exec_flushKeys_badArg (hscope : fld a0 1 0 = 3) : ∃ t, exec (.flushKeys sl via seq a0 a1) s = .next t
    ∧ Answered t (pgCip sl) 1 seq.toNat stBAD_ARG ∧ t.cip = s.cip := by
  have hw := Memory.wf_regs hwf
  obtain ⟨hans, -⟩ := begun_answered (st := stBAD_ARG) (code := 1) (seq := seq) (a0 := a0) (a1 := a1) (a2 := 0) hw
    (cipPlain sl) hr hv (by decide)
  have hcip : (endCmd (begun s (pgCip sl) 1 via seq a0 a1 0) (pgCip sl) stBAD_ARG).cip = s.cip := by
    rw [endCmd_cip, begun_eq hw (cipPlain sl)]
    simp
  refine ⟨endCmd (begun s (pgCip sl) 1 via seq a0 a1 0) (pgCip sl) stBAD_ARG, congrArg Host.Outcome.next ?_, hans, hcip⟩
  rw [commandRow_accepted (spec := specFlushKeys sl) hw (cipPlain sl) hr hv.isGlobal rfl]
  rw [specFlushKeys_body]
  exact if_pos hscope

variable (hphase : s.power.phase ≠ .recovery) (hfree : ∀ w ∈ s.cip.warm, w.slice ≠ sl)
include hphase hfree

theorem exec_warmKeys_empty (hempty : (warmJob s sl a0).left = []) : ∃ t, exec (.warmKeys sl via seq a0) s = .next t
    ∧ CmdEnded s t (pgCip sl) 2 seq.toNat stOK (a0, 0, 0) (0, 0, 0) ∧ t.cip = s.cip := by
  have hkept : (s.cip.warm ++ [warmJob s sl a0]).filter (fun w => w.slice != sl) = s.cip.warm := by
    rw [List.filter_append, List.filter_eq_self.2 fun w hw => by simpa using hfree w hw]
    simp [warmJob]
  obtain ⟨hended, hframe⟩ := commandRow_ended (spec := specWarmKeys sl) (code := 2) (seq := seq) (a0 := a0) (a1 := 0) (a2 := 0)
    (v := s) (Memory.wf_regs hwf) (cipPlain sl) hr hv hv.isGlobal (bne_iff_ne.2 hphase)
    (by decide) (.inl rfl) fun r n => by
      have hjob : warmJob { s with regs := r, running := n } sl a0 = warmJob s sl a0 := rfl
      have hfind := find_warmed hfree (warmJob s sl a0) rfl
      rw [specWarmKeys_body, hjob]
      simp only [warmEnd, hfind, hempty, List.isEmpty_nil, if_true, hkept]
      rfl
  exact ⟨_, rfl, hended, (congrArg State.cip hframe : _)⟩

theorem exec_warmKeys_runs (hsome : (warmJob s sl a0).left ≠ []) : ∃ t, exec (.warmKeys sl via seq a0) s = .next t
    ∧ CmdRuns s t (pgCip sl) 2 seq.toNat via (a0, 0, 0) ∧ t.cip = { s.cip with warm := s.cip.warm ++ [warmJob s sl a0] } := by
  obtain ⟨r, n, hrow, ⟨hrun, hresult, hkept⟩, -, -⟩ := commandRow_started (spec := specWarmKeys sl) (code := 2) (seq := seq)
    (a0 := a0) (a1 := 0) (a2 := 0) (Memory.wf_regs hwf) (cipPlain sl) hr hv.isGlobal (bne_iff_ne.2 hphase) (by decide)
  have hjob : warmJob { s with regs := r, running := n } sl a0 = warmJob s sl a0 := rfl
  have hfind := find_warmed hfree (warmJob s sl a0) rfl
  have hbody : (specWarmKeys sl).body ⟨pgCip sl, 2, seq.toNat, via, a0, 0, 0⟩ { s with regs := r, running := n }
      = { s with regs := r, running := n, cip := { s.cip with warm := s.cip.warm ++ [warmJob s sl a0] } } := by
    rw [specWarmKeys_body, hjob]
    exact warmEnd_unfinished (s := { s with regs := r, running := n, cip := { s.cip with warm := s.cip.warm ++ [warmJob s sl a0] } })
      hfind hsome
  rw [hbody] at hrow
  exact ⟨_, congrArg Host.Outcome.next hrow, ⟨hrun, hresult, hkept⟩, rfl⟩

end

/-- Settles O52, from what a word written to an association, a derivation, FLUSH_KEYS and WARM_KEYS each do. -/
theorem associationsAndKeys : Obligations.AssociationsAndKeys := by
  unfold Obligations.AssociationsAndKeys
  intro s hwf
  have hw := Memory.wf_regs hwf
  refine ⟨?_, ?_, ?_⟩
  · intro via t a w hv hs hphase
    refine ⟨fun hset => ⟨fun hinvalid => ⟨fun hcheck => ?_, fun r hcheck => ?_⟩, fun hvalid => ?_⟩,
      fun hclear => ⟨fun hvalid => ?_, fun hinvalid => ?_⟩⟩
    · rw [exec_saValidate_writes hv hs hphase hset, saWrite_validates hinvalid hset hcheck]
      rfl
    · exact ⟨_, exec_saValidate_writes hv hs hphase hset, saWrite_refuses hw hinvalid hset hcheck⟩
    · rw [exec_saValidate_writes hv hs hphase hset, saWrite_locked hvalid hset]
    · rw [exec_saInvalidate_writes hv hs hphase hclear, saWrite_clears hvalid hclear]
      rfl
    · rw [exec_saInvalidate_writes hv hs hphase hclear, saWrite_plain hinvalid hclear]
  · intro sl hworks
    refine ⟨fun k hk hentry => ⟨exec_keyDerivation_starved hworks hk, fun henergy => ⟨fun h hvalid hslot hhalf hcheck => ?_,
      fun hinvalid => ?_⟩⟩, ?_⟩
    · exact keyDerivation_caches hwf hworks hk hentry henergy hvalid hslot hhalf hcheck
    · exact exec_keyDerivation_fails hworks hk henergy (deriveKey_invalid (s := keyTaken s k) hinvalid)
    · intro w e rest h hnone hjob hleft hrest he hmiss henergy hvalid hslot hhalf hcheck
      exact keyDerivation_warms hwf hworks hnone hjob hleft hrest hmiss henergy hvalid hslot hhalf hcheck
  · intro sl via seq a0 a1 hv hr
    refine ⟨fun hscope => ?_, exec_flushKeys_badArg seq hwf hv hr, ?_⟩
    · obtain ⟨t, hexec, hended, hframe⟩ := exec_flushKeys_flushes seq hwf hv hr (a1 := a1) hscope
      have hcip : t.cip = (dropKeys s (fun x e => x == sl && flushed s a0 a1 e)).cip := (congrArg State.cip hframe : _)
      refine ⟨t, hexec, hended, ?_, ?_, fun x e he => ?_⟩
      · exact congrArg (fun u : State => { u with running := s.running, cip := s.cip }) hframe
      · rw [hcip]
        rfl
      · rw [cached_congr hcip, cached_dropKeys s _ x he]
        refine if_congr ?_ rfl rfl
        rw [Bool.and_eq_true, beq_iff_eq, flushed]
        refine and_congr_right fun _ => ?_
        by_cases hall : fld a0 1 0 = 0
        · simp only [hall, if_true, true_or]
        · by_cases hone : fld a0 1 0 = 1
          · simp only [hone, one_ne_zero, if_false, if_true, beq_iff_eq, false_or, true_and, OfNat.one_ne_ofNat, false_and,
              or_false]
          · have htwo : fld a0 1 0 = 2 := by omega
            simp only [htwo, OfNat.ofNat_ne_zero, OfNat.ofNat_ne_one, if_false, beq_iff_eq, false_or, true_and, false_and]
    · rintro want hphase hone hfree rfl
      have hwant : (warmJob s sl a0).left = ((List.range 32).map (fun x => 32 * fld a0 9 0 + x)).filter
          (fun e => saValid s (e / 32) (e % 32) && (cached s sl e).isEmpty) := by
        simp only [warmJob, hone, Bool.false_eq_true, if_false]
      have hjob : warmJob s sl a0 = ⟨sl, (warmJob s sl a0).left, 0, 0⟩ := rfl
      rw [← hwant, ← hjob]
      exact ⟨exec_warmKeys_empty seq hwf hv hr hphase hfree, exec_warmKeys_runs seq hwf hv hr hphase hfree⟩

end Sys2Proof.Machine

/-! SUPPORT. Frames under the cipher: judged, verified, released and sealed (R548 to R576). -/
namespace Sys2Proof.Machine

/-! ### The requests in the cipher -/

section
variable {s t : State} {id : Nat} {r : DecReq} {st : DecStage}

theorem getDec_congr (h : t.pipe.decQ = s.pipe.decQ) (id : Nat) : getDec t id = getDec s id := by rw [getDec, h, getDec]

theorem getDec_frame (h : getDec s id = some r) : r.view.frame = id := by simpa using List.find?_some h

theorem getDec_dropDec (s : State) (id : Nat) : getDec (dropDec s id) id = none := by
  refine List.find?_eq_none.2 fun r hr => ?_
  simpa using (List.mem_filter.1 hr).2

theorem getDec_setDec (h : getDec s id = some r) : getDec (setDec s id st) id = some { r with stage := st } := by
  have hmap : ∀ l : List DecReq, l.find? (fun x => x.view.frame == id) = some r →
      (l.map (fun x => if x.view.frame = id then { x with stage := st } else x)).find? (fun x => x.view.frame == id)
        = some { r with stage := st } := by
    intro l
    induction l with
    | nil => exact nofun
    | cons x l ih =>
      intro h
      by_cases hx : x.view.frame = id
      · rw [List.find?_cons_of_pos (by simpa using hx), Option.some_inj] at h
        rw [List.map_cons, if_pos hx, List.find?_cons_of_pos (by simpa using hx), h]
      · rw [List.find?_cons_of_neg (by simpa using hx)] at h
        rw [List.map_cons, if_neg hx, List.find?_cons_of_neg (by simpa using hx)]
        exact ih h
  exact hmap _ h

end

/-! ### Outcomes (R576) -/

/-- The registers of a slice's cipher page lie below the tenants' pages and above the vector counters. -/
theorem cipWord_range (sl : SliceId) {o : Nat} (ho : o < 0x1000) : 0x100000 ≤ pgCip sl + o ∧ pgCip sl + o < 0x1000000 := by
  cases sl <;> simp only [pgSlice, SliceId.num] <;> omega

theorem cipWord_plain (sl : SliceId) {o : Nat} (ho : o < 0x1000) : pgCip sl + o ∉ vectorCounters := by
  have hlow : ∀ c ∈ vectorCounters, c < 0x10000 := by decide
  intro h
  have := hlow _ h
  have := (cipWord_range sl ho).1
  omega

section
variable {s : State} {sa : SaRef} {k : Nat}

/-- An outcome counts once on the page of the slice that works (R576). -/
theorem cipOutcome_counts (hw : twf regDflt s.regs = true) (hk : k < 12) :
    rd (cipOutcome s sa k) (pgCip s.worker + Reg.CIP_CNT + 4 * k) = rd s (pgCip s.worker + Reg.CIP_CNT + 4 * k) + 1 := by
  have hword : pgCip s.worker + Reg.CIP_CNT + 4 * k < 0x1000000 := by
    have := (cipWord_range s.worker (o := Reg.CIP_CNT + 4 * k) (by simp only [Reg.CIP_CNT]; omega)).2
    omega
  have hplain : pgCip s.worker + Reg.CIP_CNT + 4 * k ∉ vectorCounters := by
    have := cipWord_plain s.worker (o := Reg.CIP_CNT + 4 * k) (by simp only [Reg.CIP_CNT]; omega)
    rwa [← Nat.add_assoc] at this
  unfold cipOutcome
  extract_lets pg s1 s2 s3
  have h1 : rd s1 (pg + Reg.CIP_CNT + 4 * k) = rd s (pg + Reg.CIP_CNT + 4 * k) + 1 := by
    refine (rd_congr (signal_regs _ _ _ _)).trans (rd_bump_same _ hw)
  have h2 : rd s2 (pg + Reg.CIP_CNT + 4 * k) = rd s (pg + Reg.CIP_CNT + 4 * k) + 1 := by
    unfold s2
    generalize outcomeBit k = o
    cases o with
    | none => exact h1
    | some b =>
      refine (rd_setErr_other b hplain ?_ ?_).trans h1
      · simp only [Reg.CIP_CNT, Reg.PAGE_ERR]; omega
      · simp only [Reg.CIP_CNT, Reg.PAGE_ERR_FIRST]; omega
  have h3 : rd s3 (pg + Reg.CIP_CNT + 4 * k) = rd s (pg + Reg.CIP_CNT + 4 * k) + 1 := by
    refine (rd_bump_other ?_).trans h2
    simp only [pg, pgTenCip]
    omega
  split
  · exact h2
  split
  · exact h3
  · refine (rd_bump_other ?_).trans h3
    simp only [saBase, pgTenCip]
    omega

theorem refuseDec_regs (r : DecReq) : (refuseDec s r k).regs = (cipOutcome s r.sa k).regs := by
  obtain ⟨q, fr, c, rp, x, h⟩ := refuseDec_shape s r k
  rw [h]
  rfl

theorem refuseEnc_regs (d : Desc) : (refuseEnc s d sa k).regs = (cipOutcome s sa k).regs := by
  obtain ⟨q, p, x, h⟩ := refuseEnc_shape s d sa k
  rw [h]

theorem cipOutcome_pipe (sa : SaRef) (k : Nat) : (cipOutcome s sa k).pipe = s.pipe :=
  cipOutcome_frame State.pipe bump_pipe signal_pipe setErr_pipe s sa k

theorem getDec_refuseDec (r : DecReq) : getDec (refuseDec s r k) r.view.frame = none := by
  obtain ⟨q, fr, c, rp, x, h⟩ := refuseDec_shape s r k
  rw [h]
  exact getDec_dropDec (cipOutcome s r.sa k) r.view.frame

end

/-! ### The judgement of a unit (R561, R562) -/

/-- The outcomes a judgement names are those of R576. -/
theorem judgeMacsec_bad {b l : List Byte} {pn la pos k : Nat} (h : judgeMacsec b pn la pos l = .bad k) : k < 12 := by
  unfold judgeMacsec at h
  extract_lets tci sc tagLen low e c data sl full sci head text at h
  split at h
  · cases h; decide
  · split at h
    · cases h; decide
    · split at h
      · cases h; decide
      · exact absurd h nofun

theorem judgeEsp_bad {b l : List Byte} {pn pos k : Nat} (h : judgeEsp b pn pos l = .bad k) : k < 12 := by
  unfold judgeEsp at h
  dsimp only at h
  split at h
  · cases h; decide
  · split at h
    · cases h; decide
    · split at h
      · cases h; decide
      · exact absurd h nofun

theorem judgeUnit_bad {s : State} {r : DecReq} {f : Frame} {k : Nat} (h : judgeUnit s r f = .bad k) : k < 12 := by
  unfold judgeUnit at h
  dsimp only at h
  split at h
  · cases h; decide
  · split at h
    · cases h; decide
    next la _ =>
      generalize hj : (if r.sa.esp = true then judgeEsp _ _ _ _ else judgeMacsec _ _ _ _ _) = j at h
      cases j with
      | bad k' =>
        have hk : k' = k := Judge.bad.inj h
        subst hk
        split at hj
        · exact judgeEsp_bad hj
        · exact judgeMacsec_bad hj
      | unit u =>
        dsimp only at h
        split at h
        · cases h; decide
        · split at h
          · cases h; decide
          · split at h
            · cases h; decide
            · exact absurd h nofun

/-! ### DECRYPT_START (R555, R558, R561, R565) -/

section
variable {s : State} {c : Fin 8} {r : DecReq} {f : Frame}
  (hfind : s.pipe.decQ.find? (fun x => x.cls == c.val && x.stage == .wait) = some r)
  (hframe : getFrame s r.view.frame = some f) (hwhole : f.whole = true) (hgk : gkOpen s = true) (hdrain : draining s = false)
include hfind hframe hwhole hgk hdrain

omit hfind hframe in
theorem decryptStart_opens : ¬(!f.whole ∨ !gkOpen s ∨ draining s) := by
  rw [hwhole, hgk, hdrain]
  decide

/-- A frame whose key is not cached waits for it (R555). -/
theorem exec_decryptStart_queues (hjudge : judgeUnit s r f ≠ .bad 2)
    (hkey : cached s s.worker (32 * r.sa.tenant + r.sa.sa) = []) :
    exec (.decryptStart c) s = .next (queueKey s s.worker (32 * r.sa.tenant + r.sa.sa) (cipAccount r.sa)) := by
  show execDecryptStart c s = _
  simp only [execDecryptStart, hfind, hframe, decryptStart_opens hwhole hgk hdrain, if_false, hkey,
    List.isEmpty_nil, if_true]

/-- A frame judged bad is refused (R558). -/
theorem exec_decryptStart_refuses {k : Nat} (hjudge : judgeUnit s r f = .bad k)
    (hkey : k = 2 ∨ cached s s.worker (32 * r.sa.tenant + r.sa.sa) ≠ []) :
    exec (.decryptStart c) s = .next (refuseDec s r k) := by
  show execDecryptStart c s = _
  simp only [execDecryptStart, hfind, hframe, decryptStart_opens hwhole hgk hdrain, if_false, hjudge]
  split
  · next h =>
    cases h
    rfl
  · next h =>
    have hne : k ≠ 2 := fun hk => h (by rw [hk])
    rw [if_neg (by rw [List.isEmpty_iff]; exact hkey.resolve_left hne)]

/-- A frame judged a unit starts when there is room, a free lane and credits for its blocks (R561, R565). -/
theorem exec_decryptStart_starts {u : InUnit} (hjudge : judgeUnit s r f = .unit u)
    (hkey : cached s s.worker (32 * r.sa.tenant + r.sa.sa) ≠ [])
    (hclass : holdOf s c.val + cellsFor u.plain ≤ fld (rdEff s (pgCip s.worker + Reg.CIP_HOLD_LIMIT + 4 * c.val)) 14 0)
    (hall : holdAll s + cellsFor u.plain ≤ 16384) (hlanes : lanesBusy s < 8)
    (hblocks : unitBlocks u.aad.length u.text.length ≤ blocksLeft s (cipAccount r.sa)) :
    exec (.decryptStart c) s = .next (noteHold (setDec (useBlocks s (cipAccount r.sa) (unitBlocks u.aad.length u.text.length))
      r.view.frame (.started ⟨r.sa, saBytes s r.sa.tenant r.sa.sa, cached s s.worker (32 * r.sa.tenant + r.sa.sa), u.pn, 0⟩
        (cellsFor u.plain)))) := by
  have hpay : Nat.min (unitBlocks u.aad.length u.text.length) (blocksLeft s (cipAccount r.sa))
      = unitBlocks u.aad.length u.text.length := Nat.min_eq_left hblocks
  have hcost : unitBlocks u.aad.length u.text.length ≠ 0 := by unfold unitBlocks; omega
  show execDecryptStart c s = _
  simp only [execDecryptStart, hfind, hframe, decryptStart_opens hwhole hgk hdrain, if_false, hjudge,
    List.isEmpty_iff, hkey, hclass, hall, decide_true, Bool.and_self, Bool.not_true, Bool.false_eq_true, hpay, hcost,
    Nat.not_le.2 hlanes, or_self, Nat.sub_self]

end

section
variable {s : State}

theorem useBlocks_pipe (a n : Nat) : (useBlocks s a n).pipe = s.pipe := by
  unfold useBlocks
  split
  · rfl
  · rw [signal_pipe, bumpBy_pipe, useCredits_pipe]

theorem useBlocks_cip (a n : Nat) : (useBlocks s a n).cip = s.cip := by
  unfold useBlocks
  split
  · rfl
  · rw [signal_cip, bumpBy_cip, useCredits_cip]

theorem useBlocks_red (a n : Nat) : (useBlocks s a n).red = s.red := by
  unfold useBlocks
  split
  · rfl
  · rw [signal_red, bumpBy_red, useCredits_red]

theorem twf_useBlocks (a n : Nat) (hw : twf regDflt s.regs = true) : twf regDflt (useBlocks s a n).regs = true := by
  unfold useBlocks
  split
  · exact hw
  · rw [signal_regs]
    exact twf_wr _ _ hw

/-- Blocks started are counted on the page of the slice that works, and change no other register (R573). -/
theorem rd_useBlocks_other (a n : Nat) {x : Nat} (hx : x ≠ pgCip s.worker + Reg.CIP_BLOCKS) :
    rd (useBlocks s a n) x = rd s x := by
  unfold useBlocks
  split
  · rfl
  · rw [rd_congr (signal_regs _ _ _ _), bumpBy, rd_wr_other _ hx.symm]
    rfl

theorem rd_useBlocks_count (hw : twf regDflt s.regs = true) (a : Nat) {n : Nat} (hn : n ≠ 0) :
    rd (useBlocks s a n) (pgCip s.worker + Reg.CIP_BLOCKS) = rd s (pgCip s.worker + Reg.CIP_BLOCKS) + w32 n := by
  unfold useBlocks
  rw [if_neg hn, rd_congr (signal_regs _ _ _ _), bumpBy, rd_wr_same (s := useCredits s (acct 4 a) n 0) _ _ hw]
  rfl

theorem noteHold_pipe : (noteHold s).pipe = s.pipe := by
  unfold noteHold
  dsimp only
  split <;> rfl

theorem rd_noteHold (sl : SliceId) : rd (noteHold s) (pgCip sl + Reg.CIP_BLOCKS) = rd s (pgCip sl + Reg.CIP_BLOCKS) := by
  have hne : pgCip s.worker + Reg.CIP_HOLD_MAX ≠ pgCip sl + Reg.CIP_BLOCKS := by
    cases sl <;> cases s.worker <;> decide
  unfold noteHold
  dsimp only
  split
  · exact rd_wr_other _ hne
  · rfl

/-- What stands after a frame has started (R561, R565, R573). -/
theorem started_effects (hw : twf regDflt s.regs = true) {r : DecReq} {st : DecStage} (hdec : getDec s r.view.frame = some r)
    (a : Nat) {n : Nat} (hn : n ≠ 0) :
    getDec (noteHold (setDec (useBlocks s a n) r.view.frame st)) r.view.frame = some { r with stage := st }
      ∧ rd (noteHold (setDec (useBlocks s a n) r.view.frame st)) (pgCip s.worker + Reg.CIP_BLOCKS)
        = rd s (pgCip s.worker + Reg.CIP_BLOCKS) + w32 n := by
  have hdec' : getDec (useBlocks s a n) r.view.frame = some r :=
    (getDec_congr (congrArg PipeUnit.decQ (useBlocks_pipe a n)) _).trans hdec
  refine ⟨?_, ?_⟩
  · rw [getDec_congr (congrArg PipeUnit.decQ noteHold_pipe), getDec_setDec hdec']
  · rw [rd_noteHold]
    exact rd_useBlocks_count hw a hn

end

/-! ### Packet numbers (R545, R562) -/

section
variable {s : State} {t a : Nat}

theorem saPn_congr {s u : State} (h : u.regs = s.regs) (t a : Nat) : saPn u t a = saPn s t a := by
  rw [saPn, rd_congr h, rd_congr h, saPn]

theorem saPn_putPn (hw : twf regDflt s.regs = true) (t a : Nat) {n : Nat} (hn : n < 2 ^ 64) : saPn (putPn s t a n) t a = n := by
  have hlow : rd (putPn s t a n) (saBase t a + 40) = lo32 n := by
    rw [putPn, rd_wr_other _ (by omega), rd_wr_same (s := s) _ _ hw]
  have hhigh : rd (putPn s t a n) (saBase t a + 44) = hi32 n :=
    rd_wr_same (s := wr s (saBase t a + 40) (lo32 n)) _ _ (twf_wr _ _ hw)
  rw [saPn, hlow, hhigh, lo32, hi32, BitVec.toNat_ofNat, BitVec.toNat_ofNat, Nat.shiftRight_eq_div_pow]
  omega

/-- A word outside an association's packet number leaves it. -/
theorem saPn_wr_other {x : Nat} (w : Word) (h40 : x ≠ saBase t a + 40) (h44 : x ≠ saBase t a + 44) :
    saPn (wr s x w) t a = saPn s t a := by
  rw [saPn, rd_wr_other _ h40, rd_wr_other _ h44, saPn]

/-- The words of the tenants' pages lie above the slices' cipher pages. -/
theorem saBase_ge (t a : Nat) : 0x1000000 ≤ saBase t a := by
  unfold saBase pgTenCip
  omega

theorem saPn_useBlocks (k n : Nat) : saPn (useBlocks s k n) t a = saPn s t a := by
  have hbase := saBase_ge t a
  have hrange := (cipWord_range s.worker (o := Reg.CIP_BLOCKS) (by decide)).2
  rw [saPn, rd_useBlocks_other _ _ (by omega), rd_useBlocks_other _ _ (by omega), saPn]

theorem saValid_index {s : State} {t a : Nat} (h : saValid s t a = true) : a < 32 := by
  rw [saValid, Bool.and_eq_true, decide_eq_true_iff] at h
  exact h.1.1

/-- The check of a MACsec number looks at the association's packet number alone (R562). -/
theorem replayOk_congr {u : State} {b : List Byte} (hpn : ∀ t a, saPn u t a = saPn s t a) (hcip : u.cip = s.cip) (e n : Nat) :
    replayOk u e b n = replayOk s e b n := by
  rw [replayOk, replayBits, hpn, hcip]
  rfl

/-- A MACsec number accepted moves the association's packet number to behind it (R562). -/
theorem saPn_replayTake (hw : twf regDflt s.regs = true) {b : List Byte} (hp : saProto b = 0) (ha : a < 32) (n : Nat) :
    saPn (replayTake s (32 * t + a) b n) t a = if saPn s t a ≤ n then (n + 1) % 2 ^ 64 else saPn s t a := by
  have ht : (32 * t + a) / 32 = t := by omega
  have ha' : (32 * t + a) % 32 = a := by omega
  simp only [replayTake, ht, ha', hp, if_true]
  split
  · exact saPn_putPn hw t a (Nat.mod_lt _ (by decide))
  · rfl

theorem replayTake_pipe (s : State) (e : Nat) (b : List Byte) (n : Nat) : (replayTake s e b n).pipe = s.pipe := by
  unfold replayTake
  dsimp only
  split <;> split <;> rfl

end

/-! ### DECRYPT_VERIFY (R548, R558, R561, R562) -/

section
variable {s : State} {frame : Nat} {r : DecReq} {f : Frame} {x : Seal} {cells : Nat}
  (hdec : getDec s frame = some r) (hframe : getFrame s frame = some f) (hstage : r.stage = .started x cells) (hgk : gkOpen s = true)
include hdec hframe hstage hgk

/-- A started frame that owes more than the credits pays what there is. -/
theorem exec_decryptVerify_pays (howed : blocksLeft s (cipAccount r.sa) < x.owed) :
    exec (.decryptVerify frame) s = .next (setDec (useBlocks s (cipAccount r.sa) (blocksLeft s (cipAccount r.sa))) frame
      (.started { x with owed := x.owed - blocksLeft s (cipAccount r.sa) } cells)) := by
  have hpay : Nat.min x.owed (blocksLeft s (cipAccount r.sa)) = blocksLeft s (cipAccount r.sa) :=
    Nat.min_eq_right (Nat.le_of_lt howed)
  show execDecryptVerify frame s = _
  simp only [execDecryptVerify, hdec, hframe, hstage, hgk, Bool.not_true, Bool.false_eq_true, if_false, hpay, if_pos howed]

variable (howed : x.owed ≤ blocksLeft s (cipAccount r.sa)) (hesp : r.sa.esp = false) {la : Nat} {u : InUnit}
  (hlayer : r.layers.getD (saLayer x.bytes) none = some la)
  (hjudge : judgeMacsec x.bytes x.pn la (la + saOff x.bytes) (viewData f r.view) = .unit u)
include howed hesp hlayer hjudge

/-- A MACsec frame whose tag is wrong is refused as outcome 7. -/
theorem exec_decryptVerify_refuses (hopen : gcmOpen x.key (macsecNonce x.bytes (u.nonce.take 8) x.pn) u.aad u.text u.tag = none) :
    exec (.decryptVerify frame) s = .next (refuseDec (useBlocks s (cipAccount r.sa) x.owed) r 7) := by
  have hpay : Nat.min x.owed (blocksLeft s (cipAccount r.sa)) = x.owed := Nat.min_eq_left howed
  show execDecryptVerify frame s = _
  simp only [execDecryptVerify, hdec, hframe, hstage, hgk, Bool.not_true, Bool.false_eq_true, if_false, hpay, Nat.lt_irrefl,
    hlayer, hesp, hjudge, hopen]

/-- A MACsec frame whose tag and number are right is held with its protection removed. -/
theorem exec_decryptVerify_holds {plain data : List Byte}
    (hopen : gcmOpen x.key (macsecNonce x.bytes (u.nonce.take 8) x.pn) u.aad u.text u.tag = some plain)
    (hvalid : saValid s r.sa.tenant r.sa.sa = true) (hbytes : saBytes s r.sa.tenant r.sa.sa = x.bytes)
    (hreplay : replayOk (useBlocks s (cipAccount r.sa) x.owed) (32 * r.sa.tenant + r.sa.sa) x.bytes x.pn = true)
    (hplain : unprotect x la (viewData f r.view) plain = some (data, false)) :
    exec (.decryptVerify frame) s = .next (setDec (replayTake (useBlocks s (cipAccount r.sa) x.owed)
      (32 * r.sa.tenant + r.sa.sa) x.bytes x.pn) frame (.verified data false cells)) := by
  have hpay : Nat.min x.owed (blocksLeft s (cipAccount r.sa)) = x.owed := Nat.min_eq_left howed
  show execDecryptVerify frame s = _
  simp only [execDecryptVerify, hdec, hframe, hstage, hgk, Bool.not_true, Bool.false_eq_true, if_false, hpay, Nat.lt_irrefl,
    hlayer, hesp, hjudge, hopen, hvalid, hbytes, decide_true, Bool.and_self, hreplay, Bool.and_false, if_true, hplain,
    Bool.false_and]

end

/-- MACsec protection is always removed, with no tunnel (R563). -/
theorem unprotect_macsec {x : Seal} (hesp : x.sa.esp = false) (la : Nat) (l plain : List Byte) :
    ∃ data, unprotect x la l plain = some (data, false) := by
  simp only [unprotect, hesp, Bool.not_false, if_true]
  exact ⟨_, rfl⟩

section
variable {s : State} {r : DecReq} (hw : twf regDflt s.regs = true)
include hw

/-- A frame refused after its last blocks are paid counts once (R576). -/
theorem refuseDec_after_blocks (a n : Nat) {k : Nat} (hk : k < 12) :
    getDec (refuseDec (useBlocks s a n) r k) r.view.frame = none
      ∧ rd (refuseDec (useBlocks s a n) r k) (pgCip s.worker + Reg.CIP_CNT + 4 * k)
        = rd s (pgCip s.worker + Reg.CIP_CNT + 4 * k) + 1 := by
  have hworker : (useBlocks s a n).worker = s.worker := by rw [State.worker, useBlocks_red, State.worker]
  have hcount := cipOutcome_counts (s := useBlocks s a n) (sa := r.sa) (twf_useBlocks a n hw) hk
  have hne : Reg.CIP_CNT + 4 * k ≠ Reg.CIP_BLOCKS := by simp only [Reg.CIP_CNT, Reg.CIP_BLOCKS]; omega
  rw [hworker, rd_useBlocks_other a n (by omega)] at hcount
  exact ⟨getDec_refuseDec r, (rd_congr (refuseDec_regs r)).trans hcount⟩

/-- What stands after a frame is verified (R562). -/
theorem verified_effects {a n m : Nat} {b : List Byte} {st : DecStage} (hdec : getDec s r.view.frame = some r)
    (hp : saProto b = 0) (ha : r.sa.sa < 32) :
    getDec (setDec (replayTake (useBlocks s a n) (32 * r.sa.tenant + r.sa.sa) b m) r.view.frame st) r.view.frame
        = some { r with stage := st }
      ∧ saPn (setDec (replayTake (useBlocks s a n) (32 * r.sa.tenant + r.sa.sa) b m) r.view.frame st) r.sa.tenant r.sa.sa
        = if saPn s r.sa.tenant r.sa.sa ≤ m then (m + 1) % 2 ^ 64 else saPn s r.sa.tenant r.sa.sa := by
  have hdec' : getDec (replayTake (useBlocks s a n) (32 * r.sa.tenant + r.sa.sa) b m) r.view.frame = some r := by
    rw [getDec_congr (congrArg PipeUnit.decQ ((replayTake_pipe _ _ _ _).trans (useBlocks_pipe a n))), hdec]
  refine ⟨getDec_setDec hdec', (saPn_congr (s := replayTake (useBlocks s a n) (32 * r.sa.tenant + r.sa.sa) b m) rfl _ _).trans ?_⟩
  rw [saPn_replayTake (twf_useBlocks a n hw) hp ha, saPn_useBlocks]

end

/-! ### DECRYPT_RELEASE (R560, R563, R567) -/

theorem getFrame_dropRef_other {s : State} {id j : Nat} (h : id ≠ j) : getFrame (dropRef s id) j = getFrame s j := by
  unfold dropRef
  split
  · rfl
  · split
    · unfold releaseFrame
      split
      · rfl
      · next g _ =>
        obtain ⟨x, hx⟩ := subOccs_eq g.charges s
        rw [hx]
        exact tget_tset_other _ _ _ _ h _
    · exact tget_tset_other _ _ _ _ h _

theorem getFrame_modFrame_other {s : State} {id j : Nat} (h : id ≠ j) (g : Frame → Frame) :
    getFrame (modFrame s id g) j = getFrame s j := by
  unfold modFrame
  split
  · rfl
  · exact tget_tset_other _ _ _ _ h _

theorem modFrame_shape (s : State) (id : Nat) (g : Frame → Frame) :
    ∃ fr, modFrame s id g = { s with pipe := { s.pipe with frames := fr } } := by
  unfold modFrame
  split
  · exact ⟨s.pipe.frames, rfl⟩
  · exact ⟨_, rfl⟩

/-- An outcome counted and a request dropped leave the pipeline but for the cipher's queue. -/
theorem dropDec_outcome {α : Type} (g : PipeUnit → α) (hq : ∀ (p : PipeUnit) q, g { p with decQ := q } = g p) (s : State) (sa : SaRef)
    (k id : Nat) : g (dropDec (cipOutcome s sa k) id).pipe = g s.pipe :=
  (hq (cipOutcome s sa k).pipe _).trans (congrArg g (cipOutcome_pipe sa k))

/-- The new frame a verified frame re-enters the pipeline as (R567). -/
def plainFrame (f : Frame) (data : List Byte) : Frame :=
  { f with
    data := data, flen := data.length + 4, cells := cellsFor data.length, poison := [], refs := 1, charges := [], grow := [],
    late := [], ctBy := [], lenField := none, mismatch := false, whole := true, decrypted := true }

/-- A frame gives way to a new one: the new frame is held, the old one is dropped. -/
def giveWay (u : State) (frame : Nat) (g : Frame) : State :=
  dropRef (modFrame (newFrame u g).1 frame (fun x => { x with entry := none })) frame

/-- The state once a verified frame's plaintext stands as a new frame and the frame itself has left. -/
def plainHeld (s : State) (r : DecReq) (f : Frame) (frame : Nat) (data : List Byte) : State :=
  giveWay (dropDec (cipOutcome s r.sa 0) frame) frame (plainFrame f data)

/-- The state once that new frame waits in the re-entry queue. -/
def reentered (s : State) (r : DecReq) (f : Frame) (frame : Nat) (data : List Byte) (tun : Bool) : State :=
  { plainHeld s r f frame data with pipe := { (plainHeld s r f frame data).pipe with
    q2 := (plainHeld s r f frame data).pipe.q2
      ++ [.again (asReceived (dropDec (cipOutcome s r.sa 0) frame).pipe.nextFrame) r.state (r.pass + 1) (r.decap || tun)]
    q2New := (plainHeld s r f frame data).pipe.q2New + 1 } }

section
variable {s : State} {r : DecReq} {f : Frame} {frame : Nat} {data : List Byte} {tun : Bool}

theorem exec_decryptRelease {cells : Nat} (hdec : getDec s frame = some r) (hframe : getFrame s frame = some f)
    (hstage : r.stage = .verified data tun cells) (hgk : gkOpen s = true)
    (hfirst : s.pipe.decQ.find? (fun q => q.cls == r.cls && (getFrame s q.view.frame).map (·.port) == some f.port) = some r)
    (hroom : s.pipe.q2.length < 512) (hcells : cellsFor data.length ≤ s.pipe.freeCells) :
    exec (.decryptRelease frame) s = .next (reentered s r f frame data tun) := by
  have hid : (r.view.frame == frame) = true := beq_iff_eq.2 (getDec_frame hdec)
  have hgo : ¬(!true ∨ !gkOpen s ∨ 512 ≤ s.pipe.q2.length ∨ s.pipe.freeCells < cellsFor data.length) := by
    simp only [hgk, Bool.not_true, Bool.false_eq_true, false_or]
    omega
  show execDecryptRelease frame s = _
  simp only [execDecryptRelease, hdec, hframe, hstage, hfirst, hid]
  rw [if_neg hgo]
  rfl

/-- Giving way changes the buffered frames alone. -/
theorem giveWay_shape (u : State) (frame : Nat) (g : Frame) : ∃ fr c rp n x, giveWay u frame g = { u with
    pipe := { u.pipe with frames := fr, freeCells := c, rxPart := rp, nextFrame := n }, sched := { u.sched with nodes := x } } := by
  unfold giveWay
  obtain ⟨fr', hmod⟩ := modFrame_shape (newFrame u g).1 frame (fun x => { x with entry := none })
  rw [hmod]
  obtain ⟨fr, c, rp, x, hdrop⟩ := dropRef_shape
    (s := { (newFrame u g).1 with pipe := { (newFrame u g).1.pipe with frames := fr' } }) frame
  rw [hdrop]
  exact ⟨fr, c, rp, _, x, rfl⟩

theorem getFrame_giveWay {u : State} (hframes : twf (fun _ => none) u.pipe.frames = true) (hnew : frame ≠ u.pipe.nextFrame) (g : Frame) :
    getFrame (giveWay u frame g) u.pipe.nextFrame = some g := by
  have hfresh : getFrame (newFrame u g).1 u.pipe.nextFrame = some g := (newFrame_inHand g hframes).frame
  rw [giveWay, getFrame_dropRef_other hnew, getFrame_modFrame_other hnew, hfresh]

theorem getFrame_reentered (hframes : twf (fun _ => none) s.pipe.frames = true) (hnew : frame ≠ s.pipe.nextFrame) :
    getFrame (reentered s r f frame data tun) s.pipe.nextFrame = some (plainFrame f data) := by
  have hnext := dropDec_outcome PipeUnit.nextFrame (fun _ _ => rfl) s r.sa 0 frame
  have hsame := dropDec_outcome PipeUnit.frames (fun _ _ => rfl) s r.sa 0 frame
  have hheld := getFrame_giveWay (u := dropDec (cipOutcome s r.sa 0) frame) (by rwa [hsame]) (by rwa [hnext]) (plainFrame f data)
  rw [hnext] at hheld
  exact hheld

/-- What stands after a verified frame is released. -/
theorem reentered_effects (hregs : twf regDflt s.regs = true) :
    getDec (reentered s r f frame data tun) frame = none
      ∧ (reentered s r f frame data tun).pipe.q2
        = s.pipe.q2 ++ [.again (asReceived s.pipe.nextFrame) r.state (r.pass + 1) (r.decap || tun)]
      ∧ rd (reentered s r f frame data tun) (pgCip s.worker + Reg.CIP_CNT) = rd s (pgCip s.worker + Reg.CIP_CNT) + 1 := by
  have hnext := dropDec_outcome PipeUnit.nextFrame (fun _ _ => rfl) s r.sa 0 frame
  have hq2 := dropDec_outcome PipeUnit.q2 (fun _ _ => rfl) s r.sa 0 frame
  have hcount := cipOutcome_counts (s := s) (sa := r.sa) (k := 0) hregs (by decide)
  obtain ⟨fr, c, rp, n, x, h⟩ := giveWay_shape (dropDec (cipOutcome s r.sa 0) frame) frame (plainFrame f data)
  unfold reentered plainHeld
  rw [h, hnext]
  refine ⟨getDec_dropDec (cipOutcome s r.sa 0) frame, ?_, hcount⟩
  dsimp only
  rw [hq2]

end

/-! ### ENCRYPT_FRAME (R568 to R574) -/

section
variable {s : State} {t a : Nat}

/-- Vectors and error bits leave the words of the associations. -/
theorem saWord_plain (t a n : Nat) : saBase t a + n ∉ vectorCounters := by
  have hlow : ∀ c ∈ vectorCounters, c < 0x10000 := by decide
  have := saBase_ge t a
  intro h
  have := hlow _ h
  omega

theorem saPn_fireVector (f v : Nat) : saPn (fireVector s f v) t a = saPn s t a := by
  rw [saPn, rd_fireVector _ _ (saWord_plain _ _ _), rd_fireVector _ _ (saWord_plain _ _ _), saPn]

theorem saPn_cpIrq (k : Nat) : saPn (cpIrq s k) t a = saPn s t a := by
  unfold cpIrq
  dsimp only
  split
  · exact saPn_fireVector _ _
  · rfl

theorem saPn_cpRise (b : Nat) : saPn (cpRise s t Reg.CP_PN_NEAR b) t a = saPn s t a := by
  have hne : ∀ n, pgTenCip t + Reg.CP_PN_NEAR ≠ saBase t a + n := fun n => by
    simp only [saBase, Reg.CP_PN_NEAR]
    omega
  unfold cpRise
  dsimp only
  split
  · rfl
  · exact (saPn_cpIrq _).trans (saPn_wr_other _ (hne 40) (hne 44))

theorem saPn_setErr_cip (sl : SliceId) (n : Nat) : saPn (setErr s (pgCip sl) n) t a = saPn s t a := by
  have hbase := saBase_ge t a
  have herr := (cipWord_range sl (o := Reg.PAGE_ERR) (by decide)).2
  have hfirst := (cipWord_range sl (o := Reg.PAGE_ERR_FIRST) (by decide)).2
  rw [saPn, rd_setErr_other _ (saWord_plain _ _ _) (by omega) (by omega),
    rd_setErr_other _ (saWord_plain _ _ _) (by omega) (by omega), saPn]

/-- What neither a word of the tenant's page, a fired vector nor an error bit of a slice's cipher page changes, a packet
number taken leaves. -/
theorem takePn_frame {α : Type} (g : State → α) (hwr : ∀ u o w, o < 0x1000 → g (wr u (pgTenCip t + o) w) = g u)
    (hfire : ∀ u f v, g (fireVector u f v) = g u) (herr : ∀ u sl n, g (setErr u (pgCip sl) n) = g u) (ha : a < 32) (ext : Bool) :
    g (takePn s t a ext).1 = g s := by
  have hrise : ∀ u reg, reg < 0x1000 → g (cpRise u t reg a) = g u := fun u reg hreg => by
    unfold cpRise cpIrq
    dsimp only
    split
    · rfl
    · split
      · rw [hfire, hwr _ _ _ hreg]
      · exact hwr _ _ _ hreg
  have hword : ∀ n, saBase t a + n = pgTenCip t + (0x800 + 64 * a + n) := fun n => by
    simp only [saBase]
    omega
  have hput : ∀ n, g (putPn s t a n) = g s := fun n => by
    rw [putPn, hword, hword, hwr _ _ _ (by omega), hwr _ _ _ (by omega)]
  unfold takePn
  extract_lets pn last near s1 s2
  have h1 : g s1 = g s := by
    unfold s1
    split
    · exact hrise _ _ (by decide)
    · exact hput _
  have h2 : g s2 = g s := by
    unfold s2
    split
    · rw [herr, hrise _ _ (by decide), h1]
    · exact h1
  split
  · rfl
  · exact h2

/-- A packet number below the last is taken, and the next one is one more (R570). -/
theorem takePn_takes (hw : twf regDflt s.regs = true) (ext : Bool)
    (hleft : fbit (rd s (pgTenCip t + Reg.CP_EXHAUSTED)) a = false) (hpn : saPn s t a < if ext then 2 ^ 64 - 1 else 2 ^ 32 - 1) :
    (takePn s t a ext).2 = some (saPn s t a) ∧ saPn (takePn s t a ext).1 t a = saPn s t a + 1 := by
  have hlast : saPn s t a ≠ if ext = true then 2 ^ 64 - 1 else 2 ^ 32 - 1 := Nat.ne_of_lt hpn
  have hnext : saPn s t a + 1 < 2 ^ 64 := by
    split at hpn <;> omega
  have hput : saPn (putPn s t a (saPn s t a + 1)) t a = saPn s t a + 1 := saPn_putPn hw t a hnext
  unfold takePn
  extract_lets pn last near s1 s2
  have h1 : saPn s1 t a = saPn s t a + 1 := (congrArg (saPn · t a) (if_neg hlast)).trans hput
  rw [if_neg (by rw [hleft]; decide)]
  refine ⟨rfl, ?_⟩
  show saPn s2 t a = _
  unfold s2
  split
  · rw [saPn_setErr_cip, saPn_cpRise, h1]
  · exact h1

/-- What may start on an account depends on the credits alone. -/
theorem blocksLeft_congr {u : State} (hcred : u.cred = s.cred) (hgov : u.gov = s.gov) (k : Nat) : blocksLeft u k = blocksLeft s k := by
  have hwork : ∀ k, workLeft u k = workLeft s k := fun k => by rw [workLeft, hcred, workLeft]
  have hcost : ∀ k, unitCost u k = unitCost s k := fun k => by rw [unitCost, activeCoefBank, hgov]; rfl
  have hgrant : ∀ k, grantLeft u k = grantLeft s k := fun k => by rw [grantLeft, hcred, grantLeft]
  rw [blocksLeft, blocksLeft, hwork, energyLeft, energyLeft, hwork, hcost, hgrant, hcred, hgov]

end

theorem swapDesc_mem {d y : Desc} : ∀ {l : List Desc}, d ∈ l → y ∈ swapDesc d (some y) l
  | x :: l, h => by
    by_cases hx : x = d
    · rw [swapDesc, if_pos hx]
      exact List.mem_cons_self
    · rw [swapDesc, if_neg hx]
      exact List.mem_cons_of_mem _ (swapDesc_mem ((List.mem_cons.1 h).resolve_left (fun e => hx e.symm)))

/-- A waiting descriptor that is replaced waits on in its new form. -/
theorem mapDescs_swapDesc_mem {s : State} {d y : Desc} (h : d ∈ allDescs s) :
    y ∈ allDescs (mapDescs s (swapDesc d (some y))) := by
  rw [allDescs, List.mem_append] at h ⊢
  refine h.imp (fun hfifo => ?_) swapDesc_mem
  obtain ⟨e, he, hd⟩ := List.mem_flatMap.1 hfifo
  have hy : y ∈ swapDesc d (some y) e.2 := swapDesc_mem hd
  have hkept : swapDesc d (some y) e.2 ≠ [] := List.ne_nil_of_mem hy
  exact List.mem_flatMap.2 ⟨(e.1, swapDesc d (some y) e.2),
    List.mem_filter.2 ⟨List.mem_map.2 ⟨e, he, rfl⟩, decide_eq_true hkept⟩, hy⟩

theorem useBlocks_sched (s : State) (a n : Nat) : (useBlocks s a n).sched = s.sched := by
  unfold useBlocks
  split
  · rfl
  · rw [signal_sched, bumpBy_sched, useCredits_sched]

section
variable {s : State} {frame : Nat} {d : Desc} {f : Frame} {sa : SaRef}
  (hfind : (allDescs s).find? (fun x => x.view.frame == frame && x.unsealed) = some d) (hframe : getFrame s frame = some f)
  (henc : d.enc = some sa) (hseal : d.sealing = none) (hwhole : f.whole = true) (hgk : gkOpen s = true)
include hfind hframe henc hseal hwhole hgk

/-- With an unusable association the descriptor is refused as outcome 2. -/
theorem exec_encryptFrame_refuses (hvalid : saValid s sa.tenant sa.sa = false) :
    exec (.encryptFrame frame) s = .next (refuseEnc s d sa 2) := by
  show execEncryptFrame frame s = _
  simp only [execEncryptFrame, hfind, hframe, henc, hseal, hgk, hwhole, hvalid, Bool.not_true, Bool.not_false, Bool.false_eq_true,
    false_and, or_self, if_false, true_or, if_true]

variable (hvalid : saValid s sa.tenant sa.sa = true) (hout : saOut (saBytes s sa.tenant sa.sa) = true)
  (hproto : saProto (saBytes s sa.tenant sa.sa) = sa.esp.toNat)
include hvalid hout hproto

/-- A descriptor whose key is not cached waits for it. -/
theorem exec_encryptFrame_queues (hkey : cached s s.worker (32 * sa.tenant + sa.sa) = []) :
    exec (.encryptFrame frame) s = .next (queueKey s s.worker (32 * sa.tenant + sa.sa) (cipAccount sa)) := by
  show execEncryptFrame frame s = _
  simp only [execEncryptFrame, hfind, hframe, henc, hseal, hgk, hwhole, hvalid, hout, hproto, Bool.not_true, Bool.false_eq_true,
    false_and, or_self, if_false, ne_eq, not_true_eq_false, hkey, List.isEmpty_nil, if_true]

/-- A well-formed unit with credits for its blocks is sealed. -/
theorem exec_encryptFrame_seals (hkey : cached s s.worker (32 * sa.tenant + sa.sa) ≠ []) {u : Nat × Nat}
    (hu : u = encUnit f d sa (saBytes s sa.tenant sa.sa))
    (hform : outMalformed sa (saBytes s sa.tenant sa.sa) d.layers (viewData f d.view) = false) (hlen : u.1 + u.2 ≤ 16384)
    (hcredits : blocksLeft s (cipAccount sa) ≠ 0) :
    exec (.encryptFrame frame) s = .next (startSeal s f d sa (saBytes s sa.tenant sa.sa) (unitBlocks u.1 u.2)) := by
  subst hu
  show execEncryptFrame frame s = _
  simp only [execEncryptFrame, hfind, hframe, henc, hseal, hgk, hwhole, hvalid, hout, hproto, Bool.not_true, Bool.false_eq_true,
    false_and, or_self, if_false, ne_eq, not_true_eq_false, List.isEmpty_iff, hkey, hform, Nat.not_lt.2 hlen, hcredits]

end

section
variable {s : State} {f : Frame} {d : Desc} {sa : SaRef} {cost : Nat} {b : List Byte} (hw : twf regDflt s.regs = true)
  (hpoison : viewPoisoned f d.view = false) (hleft : fbit (rd s (pgTenCip sa.tenant + Reg.CP_EXHAUSTED)) sa.sa = false)
  (hpn : saPn s sa.tenant sa.sa < 2 ^ 32 - 1) (ha : sa.sa < 32) (hcost : cost ≤ blocksLeft s (cipAccount sa)) (hd : d ∈ allDescs s)
include hw hpoison hleft hpn ha hcost hd

/-- A sealed descriptor holds the packet number taken and its key, and owes nothing (R570, R573). -/
theorem startSeal_effects :
    saPn (startSeal s f d sa b cost) sa.tenant sa.sa = saPn s sa.tenant sa.sa + 1
      ∧ { d with sealing := some ⟨sa, b, cached s s.worker (32 * sa.tenant + sa.sa), saPn s sa.tenant sa.sa, 0⟩ }
        ∈ allDescs (startSeal s f d sa b cost) := by
  obtain ⟨htaken, hnext⟩ := takePn_takes hw (saExt b) hleft (by split <;> omega)
  have hcred := takePn_frame (s := s) (t := sa.tenant) State.cred (fun _ _ _ _ => wr_cred _ _ _) fireVector_cred
    (fun _ _ _ => setErr_cred _ _ _) ha (saExt b)
  have hgov := takePn_frame (s := s) (t := sa.tenant) State.gov (fun _ _ _ _ => wr_gov _ _ _) fireVector_gov
    (fun _ _ _ => setErr_gov _ _ _) ha (saExt b)
  have hsched := takePn_frame (s := s) (t := sa.tenant) State.sched (fun _ _ _ _ => wr_sched _ _ _) fireVector_sched
    (fun _ _ _ => setErr_sched _ _ _) ha (saExt b)
  have hpay : Nat.min cost (blocksLeft (takePn s sa.tenant sa.sa (saExt b)).1 (cipAccount sa)) = cost := by
    rw [blocksLeft_congr hcred hgov]
    exact Nat.min_eq_left hcost
  have hstart : startSeal s f d sa b cost = mapDescs (useBlocks (takePn s sa.tenant sa.sa (saExt b)).1 (cipAccount sa) cost)
      (swapDesc d (some { d with
        sealing := some ⟨sa, b, cached s s.worker (32 * sa.tenant + sa.sa), saPn s sa.tenant sa.sa, 0⟩ })) := by
    simp only [startSeal, htaken, hpoison, Bool.false_eq_true, if_false, hpay, Nat.sub_self]
  have hwaits : d ∈ allDescs (useBlocks (takePn s sa.tenant sa.sa (saExt b)).1 (cipAccount sa) cost) := by
    rwa [allDescs, useBlocks_sched, hsched]
  rw [hstart]
  refine ⟨?_, mapDescs_swapDesc_mem hwaits⟩
  refine (saPn_congr (s := useBlocks (takePn s sa.tenant sa.sa (saExt b)).1 (cipAccount sa) cost) rfl _ _).trans ?_
  rw [saPn_useBlocks, hnext]

end

/-- Settles O53: each row's exact next state (`exec_decryptStart_starts`, `exec_decryptVerify_holds`, `exec_decryptRelease`,
`exec_encryptFrame_seals` and the rows beside them), read through what blocks, outcomes and packet numbers change. -/
theorem framesUnderCipher : Obligations.FramesUnderCipher := by
  unfold Obligations.FramesUnderCipher
  intro s hwf hgk
  have hw := Memory.wf_regs hwf
  refine ⟨?_, ?_, ?_, ?_⟩
  · intro c r f hfind hdec hframe hwhole hdrain _
    refine ⟨exec_decryptStart_queues hfind hframe hwhole hgk hdrain, ?_, ?_⟩
    · intro u hjudge hkey hclass hall hlanes hblocks
      have hcost : unitBlocks u.aad.length u.text.length ≠ 0 := by unfold unitBlocks; omega
      exact ⟨_, exec_decryptStart_starts hfind hframe hwhole hgk hdrain hjudge hkey hclass hall hlanes hblocks,
        started_effects hw hdec _ hcost⟩
    · intro k hjudge hkey
      refine ⟨_, exec_decryptStart_refuses hfind hframe hwhole hgk hdrain hjudge hkey, getDec_refuseDec r, ?_⟩
      exact (rd_congr (refuseDec_regs r)).trans (cipOutcome_counts hw (judgeUnit_bad hjudge))
  · intro frame r f x cells hdec hframe hstage _
    have hid := getDec_frame hdec
    refine ⟨fun howed => ⟨_, exec_decryptVerify_pays hdec hframe hstage hgk howed, getDec_setDec ?_⟩, ?_⟩
    · rw [getDec_congr (congrArg PipeUnit.decQ (useBlocks_pipe _ _)), hdec]
    · intro la u howed hesp hlayer hjudge
      refine ⟨?_, ?_⟩
      · intro plain hopen hsa hvalid hbytes hproto hreplay
        obtain ⟨data, hplain⟩ := unprotect_macsec (hsa ▸ hesp) la (viewData f r.view) plain
        have hreplay' : replayOk (useBlocks s (cipAccount r.sa) x.owed) (32 * r.sa.tenant + r.sa.sa) x.bytes x.pn = true := by
          rwa [replayOk_congr (fun _ _ => saPn_useBlocks _ _) (useBlocks_cip _ _)]
        subst hid
        obtain ⟨hheld, hpn⟩ := verified_effects hw (a := cipAccount r.sa) (n := x.owed) (m := x.pn) (st := .verified data false cells)
          hdec hproto (saValid_index hvalid)
        exact ⟨_, data, exec_decryptVerify_holds hdec hframe hstage hgk howed hesp hlayer hjudge hopen hvalid hbytes hreplay' hplain,
          hplain, hheld, hpn⟩
      · intro hopen
        subst hid
        exact ⟨_, exec_decryptVerify_refuses hdec hframe hstage hgk howed hesp hlayer hjudge hopen,
          refuseDec_after_blocks hw _ _ (k := 7) (by decide)⟩
  · intro frame r f data tun cells hdec hframe hstage _ hnew hfirst hroom hcells
    obtain ⟨hgone, hqueue, hcount⟩ := reentered_effects (r := r) (f := f) (frame := frame) (data := data) (tun := tun) hw
    exact ⟨_, plainFrame f data, exec_decryptRelease hdec hframe hstage hgk hfirst hroom hcells, hgone, hqueue,
      getFrame_reentered (Memory.wf_iff.1 hwf).frames hnew, rfl, rfl, rfl, hcount⟩
  · intro frame d f sa hfind hframe henc hseal hwhole _
    refine ⟨fun hvalid => ⟨_, exec_encryptFrame_refuses hfind hframe henc hseal hwhole hgk hvalid, ?_⟩, ?_⟩
    · exact (rd_congr (refuseEnc_regs d)).trans (cipOutcome_counts (k := 2) hw (by decide))
    · intro hvalid hout hproto
      refine ⟨exec_encryptFrame_queues hfind hframe henc hseal hwhole hgk hvalid hout hproto, ?_⟩
      intro u hu hkey hform hlen hcost hcredits hpoison hleft hpn
      exact ⟨_, exec_encryptFrame_seals hfind hframe henc hseal hwhole hgk hvalid hout hproto hkey hu hform hlen
          (Nat.ne_of_gt (Nat.lt_of_lt_of_le hcost hcredits)),
        startSeal_effects hw hpoison hleft hpn (saValid_index hvalid) hcredits (List.mem_of_find?_eq_some hfind)⟩

end Sys2Proof.Machine

/-! SUPPORT. Carlis messages sent, sent again and applied (R590 to R618). -/
namespace Sys2Proof.Machine

/-! ### A channel's record -/

section
variable {s t : State} {c : Nat}

theorem getCh_congr (h : t.crt.chans = s.crt.chans) (c : Nat) : getCh t c = getCh s c := by rw [getCh, h, getCh]

theorem getCh_modCh (h : twf (fun _ => CrtChan.closed) s.crt.chans = true) (f : CrtChan → CrtChan) :
    getCh (modCh s c f) c = f (getCh s c) :=
  tget_tset_same _ _ _ _ h

theorem chans_modCh (h : twf (fun _ => CrtChan.closed) s.crt.chans = true) (f : CrtChan → CrtChan) :
    twf (fun _ => CrtChan.closed) (modCh s c f).crt.chans = true :=
  twf_tset _ _ _ _ h

end

/-! ### Registers aside from the ports, the slices and the tenants

Building a message counts on the slices' and the tenants' pages and may fire a vector: every other register stays. -/

/-- An address aside from the endpoint's pages, the slices' pages and the tenants' pages. -/
def Aside (x : Nat) : Prop := 0x10000 ≤ x ∧ (x < 0x100000 ∨ 0x2000000 ≤ x)

/-- The states agree on the registers aside. -/
def SameAside (s t : State) : Prop := ∀ x, Aside x → rd t x = rd s x

theorem Aside.plain {x : Nat} (h : Aside x) : x ∉ vectorCounters := by
  have hlow : ∀ c ∈ vectorCounters, c < 0x10000 := by decide
  intro hx
  have := hlow _ hx
  have := h.1
  omega

theorem Aside.not_cip {x : Nat} (h : Aside x) (sl : SliceId) {o : Nat} (ho : o < 0x1000) : x ≠ pgCip sl + o := by
  have := cipWord_range sl ho
  obtain ⟨_, h | h⟩ := h <;> omega

theorem Aside.not_tenant {x : Nat} (h : Aside x) {t : Nat} (ht : t < 1024) {o : Nat} (ho : o < 0x1000) : x ≠ pgTenCip t + o := by
  obtain ⟨_, h | h⟩ := h <;> simp only [pgTenCip] <;> omega

/-- The registers of the Carlis page. -/
theorem aside_crt {o : Nat} (ho : o < 0x1000) : Aside (pgCrt + o) := by
  unfold Aside
  simp only [pgCrt]
  omega

section
variable {s : State} {t a : Nat} {sa : SaRef} {k : Nat}

theorem takePn_sameAside (ht : t < 1024) (ha : a < 32) (ext : Bool) : SameAside s (takePn s t a ext).1 := fun x hx =>
  takePn_frame (s := s) (t := t) (fun u => rd u x) (fun _ _ _ ho => rd_wr_other _ (hx.not_tenant ht ho).symm)
    (fun _ _ _ => rd_fireVector _ _ hx.plain)
    (fun _ sl n => rd_setErr_other n hx.plain (hx.not_cip sl (by decide)) (hx.not_cip sl (by decide))) ha ext

theorem useBlocks_sameAside (a n : Nat) : SameAside s (useBlocks s a n) := fun _ hx =>
  rd_useBlocks_other a n (hx.not_cip s.worker (by decide))

/-- An outcome leaves every word but the counters of its association, its tenant and its slice, and the slice's error
words. -/
theorem rd_cipOutcome_other {x : Nat} (hx : x ∉ vectorCounters) (hk : k < 12)
    (hcip : ∀ o, o < 0x1000 → x ≠ pgCip s.worker + o) (hten : x ≠ pgTenCip sa.tenant + Reg.CP_CNT + 4 * k)
    (hlow : x ≠ saBase sa.tenant sa.sa + 52) (hhigh : x ≠ saBase sa.tenant sa.sa + 56) :
    rd (cipOutcome s sa k) x = rd s x := by
  have hcount : x ≠ pgCip s.worker + Reg.CIP_CNT + 4 * k := by
    have := hcip (Reg.CIP_CNT + 4 * k) (by simp only [Reg.CIP_CNT]; omega)
    omega
  unfold cipOutcome
  extract_lets pg s1 s2 s3
  have h1 : rd s1 x = rd s x := (rd_congr (signal_regs _ _ _ _)).trans (rd_bump_other hcount.symm)
  have h2 : rd s2 x = rd s x := by
    unfold s2
    generalize outcomeBit k = o
    cases o with
    | none => exact h1
    | some b => exact (rd_setErr_other b hx (hcip _ (by decide)) (hcip _ (by decide))).trans h1
  have h3 : rd s3 x = rd s x := (rd_bump_other hten.symm).trans h2
  split
  · exact h2
  split
  · exact h3
  · refine (rd_bump_other ?_).trans h3
    split
    · exact hlow.symm
    · exact hhigh.symm

theorem cipOutcome_sameAside (ht : sa.tenant < 1024) (ha : sa.sa < 32) (hk : k < 12) : SameAside s (cipOutcome s sa k) := fun x hx =>
  rd_cipOutcome_other hx.plain hk (fun _ ho => hx.not_cip s.worker ho)
    (by have := hx.not_tenant ht (o := Reg.CP_CNT + 4 * k) (by simp only [Reg.CP_CNT]; omega); omega)
    (by have := hx.not_tenant ht (o := 0x800 + 64 * sa.sa + 52) (by omega); simp only [saBase]; omega)
    (by have := hx.not_tenant ht (o := 0x800 + 64 * sa.sa + 56) (by omega); simp only [saBase]; omega)

/-- An outcome leaves the association's packet number. -/
theorem saPn_cipOutcome (hk : k < 12) : saPn (cipOutcome s sa k) sa.tenant sa.sa = saPn s sa.tenant sa.sa := by
  have hother : ∀ n, n = 40 ∨ n = 44 → rd (cipOutcome s sa k) (saBase sa.tenant sa.sa + n) = rd s (saBase sa.tenant sa.sa + n) := by
    intro n hn
    refine rd_cipOutcome_other (saWord_plain _ _ _) hk (fun o ho => ?_) ?_ (by omega) (by omega)
    · have := (cipWord_range s.worker ho).2
      have := saBase_ge sa.tenant sa.sa
      omega
    · simp only [saBase, Reg.CP_CNT]
      omega
  rw [saPn, hother 40 (.inl rfl), hother 44 (.inr rfl), saPn]

end

/-! ### What a message is built from (R591, R594) -/

theorem fld_lt (w : Word) (hi lo : Nat) : fld w hi lo < 2 ^ (hi + 1 - lo) := Nat.mod_lt _ (by positivity)

theorem chPeer_lt (s : State) (c : Nat) : chPeer s c < 4 := fld_lt _ 13 12
theorem chPage_lt (s : State) (c : Nat) : chPage s c < 1024 := fld_lt _ 9 0
theorem chOut_lt (s : State) (c : Nat) : chOut s c < 32 := fld_lt _ 20 16
theorem peerPort_lt (s : State) (k : Nat) : peerPort s k < 8 := fld_lt _ 6 4

theorem aside_chCfg (c k : Nat) : Aside (crtCfg c k) := by
  unfold Aside
  simp only [crtCfg]
  omega

section
variable {s t : State} (h : SameAside s t)
include h

theorem SameAside.chPeer (c : Nat) : chPeer t c = chPeer s c := by rw [Machine.chPeer, h _ (aside_chCfg c 0), Machine.chPeer]

theorem SameAside.chPage (c : Nat) : chPage t c = chPage s c := by rw [Machine.chPage, h _ (aside_chCfg c 1), Machine.chPage]

theorem SameAside.chOut (c : Nat) : chOut t c = chOut s c := by rw [Machine.chOut, h _ (aside_chCfg c 1), Machine.chOut]

theorem SameAside.nodeId : nodeId t = nodeId s := by rw [Machine.nodeId, h _ (aside_crt (by decide)), Machine.nodeId]

theorem SameAside.incarn : incarn t = incarn s := by rw [Machine.incarn, h _ (aside_crt (by decide)), Machine.incarn]

theorem SameAside.peerReg {k r : Nat} (hk : k < 4) (hr : r < 0xF00) : peerReg t k r = peerReg s k r := by
  have ha : Aside (pgCrt + r + 64 * k) := by
    rw [Nat.add_assoc]
    exact aside_crt (by omega)
  rw [Machine.peerReg, h _ ha, Machine.peerReg]

theorem SameAside.peerPort {k : Nat} (hk : k < 4) : peerPort t k = peerPort s k := by
  rw [Machine.peerPort, h.peerReg hk (by decide), Machine.peerPort]

theorem SameAside.peerClass {k : Nat} (hk : k < 4) : peerClass t k = peerClass s k := by
  rw [Machine.peerClass, h.peerReg hk (by decide), Machine.peerClass]

theorem SameAside.peerIp6 {k : Nat} (hk : k < 4) : peerIp6 t k = peerIp6 s k := by
  rw [Machine.peerIp6, h.peerReg hk (by decide), Machine.peerIp6]

theorem SameAside.peerTag {k : Nat} (hk : k < 4) : peerTag t k = peerTag s k := by
  rw [Machine.peerTag, h.peerReg hk (by decide), Machine.peerTag]

theorem SameAside.peerAddr {k r : Nat} (hk : k < 4) (hr : r < 0xE00) : peerAddr t k r = peerAddr s k r := by
  rw [Machine.peerAddr, h.peerIp6 hk, Machine.peerAddr]
  refine List.flatMap_congr (fun i hi => ?_)
  have hi4 : i < 4 := by
    have := List.mem_range.1 hi
    split at this <;> omega
  rw [h.peerReg hk (by omega)]

theorem SameAside.macReg {p r : Nat} (hp : p < 8) (hr : r < 0x1000) : rd t (pgMac p + r) = rd s (pgMac p + r) := by
  refine h _ ?_
  unfold Aside
  simp only [pgMac]
  omega

/-- A message's header depends on the registers aside. -/
theorem SameAside.header (c ty gap rInc session pn seq : Nat) :
    crtHeader t c ty gap rInc session pn seq = crtHeader s c ty gap rInc session pn seq := by
  rw [crtHeader, h.nodeId, h.incarn, crtHeader]

/-- A message's frame depends on the registers aside. -/
theorem SameAside.frame (c : Nat) (u : List Byte) : crtFrame t c u = crtFrame s c u := by
  have hk := chPeer_lt s c
  have hp := peerPort_lt s (Machine.chPeer s c)
  simp only [crtFrame, h.peerIp6 hk, h.peerTag hk, h.chPeer, h.peerPort hk, h.peerReg hk (r := Reg.PEER_CTL) (by decide),
    h.peerReg hk (r := Reg.PEER_MAC_HI) (by decide), h.peerReg hk (r := Reg.PEER_MAC_LO) (by decide),
    h.peerReg hk (r := Reg.PEER_VLAN) (by decide), h.macReg hp (r := Reg.MAC_SA_HI) (by decide),
    h.macReg hp (r := Reg.MAC_SA_LO) (by decide), h.peerAddr hk (r := Reg.PEER_LOCAL_IP0) (by decide),
    h.peerAddr hk (r := Reg.PEER_REMOTE_IP0) (by decide), h (pgCrt + Reg.CRT_UDP_PORT) (aside_crt (by decide))]

end

/-! ### A message built and handed over (R591, R597) -/

/-- The frame of the buffer that carries a built message. -/
def carrier (s : State) (ty : Nat) (l : List Byte) : Frame := {
  port := none, entry := none, fn := 0x7FF, data := l, fcs := [], flen := l.length + 4, whole := true, bad := false,
  flags := 0, cls := 0, time := ptpNs s.time.ptp, cells := if ty == 3 || ty == 4 then 0 else 1, poison := [], meta32 := 0
  tsReq := false, refs := 1, charges := [], grow := [], late := [], ctBy := [], lenField := none, mismatch := false
  discard := false, decrypted := false }

/-- The message waits for the pipeline. -/
def handed (s : State) (c ty : Nat) (l : List Byte) : State :=
  { (newFrame s (carrier s ty l)).1 with pipe := { (newFrame s (carrier s ty l)).1.pipe with
    q1 := s.pipe.q1 ++ [.carlis s.pipe.nextFrame (peerPort s (chPeer s c)) (peerClass s (chPeer s c))] } }

/-- Its outcome counts. -/
def handedOut (s : State) (c ty : Nat) (l : List Byte) : State := cipOutcome (handed s c ty l) (crtSa s c (chOut s c)) 1

/-- The message is counted. -/
def handedCounted (s : State) (c ty : Nat) (l : List Byte) : State :=
  signal (bump (bump (handedOut s c ty l) (pgCrt + Reg.CRT_TX_MSG)) (pgSlice s.worker 4 + Reg.CRT_BUILT))
    (srcSlice s.worker 0x15 0) ty 1

/-- What a step of this kind keeps: the canonical form among the rest. -/
abbrev wholeKind : Kind := ⟨true, true, true, true, true⟩

section
variable {s : State} {c ty : Nat} {l : List Byte}

theorem crtHandOver_eq (s : State) (c ty : Nat) (l : List Byte) :
    crtHandOver s c ty l = modCh (handedCounted s c ty l) c (fun x => { x with build := none }) :=
  rfl

theorem handedCounted_pipe : (handedCounted s c ty l).pipe = (handed s c ty l).pipe := by
  rw [handedCounted, signal_pipe, bump_pipe, bump_pipe, handedOut, cipOutcome_pipe]

/-- What counts, events and errors leave, and the pipeline does not hold, counting a message leaves. -/
theorem handedCounted_frame {α : Type} (g : State → α) (hbump : ∀ u a, g (bump u a) = g u)
    (hsignal : ∀ u a q n, g (signal u a q n) = g u) (herr : ∀ u p n, g (setErr u p n) = g u)
    (hpipe : ∀ u p, g { u with pipe := p } = g u) (s : State) (c ty : Nat) (l : List Byte) : g (handedCounted s c ty l) = g s := by
  rw [handedCounted, hsignal, hbump, hbump, handedOut, cipOutcome_frame g hbump hsignal herr]
  exact (hpipe _ _).trans ((hpipe _ _).trans (hpipe _ _))

theorem crtBuilt_range (sl : SliceId) : 0x100000 ≤ pgSlice sl 4 + Reg.CRT_BUILT ∧ pgSlice sl 4 + Reg.CRT_BUILT < 0x1000000 := by
  cases sl <;> decide

theorem wf_handed (hwf : Memory.wf s = true) : Memory.wf (handed s c ty l) = true := by
  have hnew := (newFrame_keeps (kk := wholeKind) s (carrier s ty l) (Keeps.refl s)).wf hwf
  rw [Memory.wf_iff] at hnew ⊢
  exact { hnew with }

theorem wf_handedOut (hwf : Memory.wf s = true) : Memory.wf (handedOut s c ty l) = true :=
  (cipOutcome_keeps (kk := wholeKind) _ _ _ (Keeps.refl _)).wf (wf_handed hwf)

theorem handedOut_sameAside : SameAside s (handedOut s c ty l) :=
  cipOutcome_sameAside (s := handed s c ty l) (sa := crtSa s c (chOut s c)) (chPage_lt s c) (chOut_lt s c) (by decide)

/-- A message handed over is counted once. -/
theorem rd_handedCounted (hwf : Memory.wf s = true) :
    rd (handedCounted s c ty l) (pgCrt + Reg.CRT_TX_MSG) = rd s (pgCrt + Reg.CRT_TX_MSG) + 1 := by
  have hne : pgSlice s.worker 4 + Reg.CRT_BUILT ≠ pgCrt + Reg.CRT_TX_MSG := by
    have := (crtBuilt_range s.worker).1
    have hlow : pgCrt + Reg.CRT_TX_MSG < 0x100000 := by decide
    omega
  rw [handedCounted, rd_congr (signal_regs _ _ _ _), rd_bump_other hne, rd_bump_same _ (Memory.wf_regs (wf_handedOut hwf)),
    handedOut_sameAside _ (aside_crt (by decide))]

theorem saPn_bump_other {x : Nat} {s : State} {t a : Nat} (hx : x < 0x1000000) : saPn (bump s x) t a = saPn s t a := by
  have := saBase_ge t a
  exact saPn_wr_other _ (by omega) (by omega)

theorem saPn_handedCounted : saPn (handedCounted s c ty l) (chPage s c) (chOut s c) = saPn s (chPage s c) (chOut s c) := by
  rw [handedCounted, saPn_congr (signal_regs _ _ _ _), saPn_bump_other (crtBuilt_range s.worker).2, saPn_bump_other (by decide)]
  exact saPn_cipOutcome (s := handed s c ty l) (sa := crtSa s c (chOut s c)) (by decide)

theorem getFrame_handedCounted (hwf : Memory.wf s = true) :
    getFrame (handedCounted s c ty l) s.pipe.nextFrame = some (carrier s ty l) := by
  rw [getFrame, handedCounted_pipe]
  exact (newFrame_inHand (carrier s ty l) (Memory.wf_iff.1 hwf).frames).frame

theorem q1_handedCounted : (handedCounted s c ty l).pipe.q1
    = s.pipe.q1 ++ [.carlis s.pipe.nextFrame (peerPort s (chPeer s c)) (peerClass s (chPeer s c))] := by
  rw [handedCounted_pipe, handed]

theorem modCh_tck (s : State) (c : Nat) (f : CrtChan → CrtChan) : (modCh s c f).tck = s.tck := rfl

/-- Handing a message over leaves the channels, but for what this one is building. -/
theorem getCh_crtHandOver (hwf : Memory.wf s = true) : getCh (crtHandOver s c ty l) c = { getCh s c with build := none } := by
  have hcrt : (handedCounted s c ty l).crt = s.crt :=
    handedCounted_frame State.crt bump_crt signal_crt setErr_crt (fun _ _ => rfl) s c ty l
  have hchans := (Memory.wf_iff.1 hwf).crtChans
  rw [← hcrt] at hchans
  rw [crtHandOver_eq, getCh_modCh hchans, getCh_congr (congrArg CrtUnit.chans hcrt)]

theorem tck_crtHandOver : (crtHandOver s c ty l).tck = s.tck := by
  rw [crtHandOver_eq, modCh_tck, handedCounted_frame State.tck bump_tck signal_tck setErr_tck (fun _ _ => rfl)]

end

/-! ### A message started (R597) -/

/-- What may start once credits are used depends on the credits and the budget alone. -/
theorem blocksLeft_useCredits {s u : State} (hcred : u.cred = s.cred) (hgov : u.gov = s.gov) (k n b a : Nat) :
    blocksLeft (useCredits u k n b) a = blocksLeft (useCredits s k n b) a := by
  have hcost : ∀ k, unitCost u k = unitCost s k := fun k => by rw [unitCost, activeCoefBank, hgov]; rfl
  refine blocksLeft_congr ?_ ?_ a
  · simp only [useCredits, spendEnergy, workLeft, bufferLeft, grantLeft, hcred]
  · simp only [useCredits, spendEnergy, grantLeft, hcred, hgov]
    rfl

/-- The state once a message's packet number and engine credit are taken and its blocks are paid for. -/
def numbered (s : State) (c ty n : Nat) : State :=
  useBlocks (useCredits (takePn s (chPage s c) (chOut s c) true).1 (crtAcct ty) 1 0) 2 n

/-- A message's sealed bytes. -/
def sealedMsg (s : State) (c ty gap rInc session seq : Nat) (body : List Byte) : List Byte :=
  let pn := saPn s (chPage s c) (chOut s c)
  let h := crtHeader s c ty gap rInc session pn seq
  let g := gcmSeal (cached s s.worker (32 * chPage s c + chOut s c)) (beBytes 4 (nodeId s) ++ beBytes 8 pn) h body
  h ++ g.1 ++ g.2

section
variable {s : State} {c ty gap rInc session seq n : Nat} {body : List Byte}

theorem numbered_sameAside (n : Nat) : SameAside s (numbered s c ty n) := fun x hx => by
  rw [numbered, useBlocks_sameAside _ _ x hx]
  exact takePn_sameAside (chPage_lt s c) (chOut_lt s c) true x hx

/-- What words, vectors, errors, credits and events leave, numbering a message leaves. -/
theorem numbered_frame {α : Type} (g : State → α) (hwr : ∀ u a w, g (wr u a w) = g u)
    (hfire : ∀ u f v, g (fireVector u f v) = g u) (herr : ∀ u p n, g (setErr u p n) = g u)
    (hcredits : ∀ u k n b, g (useCredits u k n b) = g u) (hsignal : ∀ u a q n, g (signal u a q n) = g u) (n : Nat) :
    g (numbered s c ty n) = g s := by
  have hblocks : ∀ u, g (useBlocks u 2 n) = g u := fun u => by
    unfold useBlocks
    split
    · rfl
    · rw [hsignal, bumpBy, hwr, hcredits]
  rw [numbered, hblocks, hcredits,
    takePn_frame g (fun _ _ _ _ => hwr _ _ _) hfire (fun _ _ _ => herr _ _ _) (chOut_lt s c) true]

theorem wf_numbered (hwf : Memory.wf s = true) : Memory.wf (numbered s c ty n) = true :=
  (useBlocks_keeps (kk := wholeKind) _ _ _ (useCredits_keeps _ _ _ _ (takePn_keeps s _ _ _ (Keeps.refl s)))).wf hwf

variable (hwf : Memory.wf s = true) (hmay : CrtMaySend s c ty body.length)
include hwf hmay

theorem crtBegin_started : crtBegin s c ty gap rInc session seq body
    = (crtHandOver (numbered s c ty (unitBlocks 32 body.length)) c ty (crtFrame s c (sealedMsg s c ty gap rInc session seq body)),
      .pn (saPn s (chPage s c) (chOut s c))) := by
  obtain ⟨hgk, hup, hassoc, hstart, hleft, hblocks, hcells, hkey, hmore, hpn⟩ := hmay
  obtain ⟨htaken, -⟩ := takePn_takes (Memory.wf_regs hwf) true hmore hpn
  have haside := takePn_sameAside (s := s) (chPage_lt s c) (chOut_lt s c) true
  have hcred := takePn_frame (s := s) (t := chPage s c) State.cred (fun _ _ _ _ => wr_cred _ _ _) fireVector_cred
    (fun _ _ _ => setErr_cred _ _ _) (chOut_lt s c) true
  have hgov := takePn_frame (s := s) (t := chPage s c) State.gov (fun _ _ _ _ => wr_gov _ _ _) fireVector_gov
    (fun _ _ _ => setErr_gov _ _ _) (chOut_lt s c) true
  have hleft' : blocksLeft (useCredits (takePn s (chPage s c) (chOut s c) true).1 (crtAcct ty) 1 0) 2
      = blocksLeft (useCredits s (crtAcct ty) 1 0) 2 := blocksLeft_useCredits hcred hgov _ _ _ _
  have hgo : ¬(!gkOpen s || !s.power.bringupDone) = true := by rw [hgk, hup]; decide
  have hcan : ¬(!canStart s (crtAcct ty) 1 0 || blocksLeft s 2 == 0) = true := by
    simp only [hstart, Bool.not_true, Bool.false_or, beq_iff_eq]
    omega
  have howed : Nat.min (unitBlocks 32 body.length)
      (blocksLeft (useCredits (takePn s (chPage s c) (chOut s c) true).1 (crtAcct ty) 1 0) 2) = unitBlocks 32 body.length := by
    rw [hleft']
    exact Nat.min_eq_left hblocks
  simp only [crtBegin, if_neg hgo, hassoc, Bool.not_true, Bool.false_eq_true, if_false, if_neg hcan, Nat.ne_of_gt hcells,
    List.isEmpty_iff, hkey, htaken, crtPay, howed, Nat.le_refl, if_true, haside.header, haside.frame]
  rfl

end

/-! ### What it is to have been sent -/

section
variable {s u : State} {c ty gap rInc session seq : Nat} {body : List Byte}

theorem CrtSent.of_sealed
    (hq1 : u.pipe.q1 = s.pipe.q1 ++ [.carlis s.pipe.nextFrame (peerPort s (chPeer s c)) (peerClass s (chPeer s c))])
    (hframe : (getFrame u s.pipe.nextFrame).map (·.data) = some (crtFrame s c (sealedMsg s c ty gap rInc session seq body)))
    (hpn : saPn u (chPage s c) (chOut s c) = saPn s (chPage s c) (chOut s c) + 1)
    (hcount : rd u (pgCrt + Reg.CRT_TX_MSG) = rd s (pgCrt + Reg.CRT_TX_MSG) + 1) :
    CrtSent s u c ty gap rInc session seq body :=
  ⟨hq1, hframe, hpn, hcount⟩

/-- A change of the channel's record leaves what was sent. -/
theorem CrtSent.modCh (h : CrtSent s u c ty gap rInc session seq body) (f : CrtChan → CrtChan) :
    CrtSent s (modCh u c f) c ty gap rInc session seq body := h

/-- A count on another register of the Carlis page leaves what was sent. -/
theorem CrtSent.bump (h : CrtSent s u c ty gap rInc session seq body) {o : Nat} (ho : o < 0x1000) (hne : o ≠ Reg.CRT_TX_MSG) :
    CrtSent s (bump u (pgCrt + o)) c ty gap rInc session seq body := by
  obtain ⟨hq1, hframe, hpn, hcount⟩ := h
  refine ⟨hq1, hframe, ?_, ?_⟩
  · rw [saPn_bump_other (by simp only [pgCrt]; omega), hpn]
  · rw [rd_bump_other (by omega), hcount]

end

theorem carrier_data (s : State) (ty : Nat) (l : List Byte) : (carrier s ty l).data = l := rfl

/-! ### A message sent in one step -/

/-- The state once a message has been started and handed over in one step. -/
def sentState (s : State) (c ty gap rInc session seq : Nat) (body : List Byte) : State :=
  crtHandOver (numbered s c ty (unitBlocks 32 body.length)) c ty (crtFrame s c (sealedMsg s c ty gap rInc session seq body))

section
variable {s : State} {c ty gap rInc session seq : Nat} {body : List Byte}

theorem pipe_numbered (n : Nat) : (numbered s c ty n).pipe = s.pipe :=
  numbered_frame State.pipe wr_pipe fireVector_pipe setErr_pipe useCredits_pipe signal_pipe n

theorem crt_numbered (n : Nat) : (numbered s c ty n).crt = s.crt :=
  numbered_frame State.crt wr_crt fireVector_crt setErr_crt useCredits_crt signal_crt n

theorem tck_numbered (n : Nat) : (numbered s c ty n).tck = s.tck :=
  numbered_frame State.tck wr_tck fireVector_tck setErr_tck useCredits_tck signal_tck n

theorem saPn_numbered (n : Nat) : saPn (numbered s c ty n) (chPage s c) (chOut s c)
    = saPn (takePn s (chPage s c) (chOut s c) true).1 (chPage s c) (chOut s c) := by
  rw [numbered, saPn_useBlocks]
  exact saPn_congr (useCredits_regs _ _ _ _) _ _

/-- The channel after a message has been handed over at once is as it was. -/
theorem getCh_sentState (hwf : Memory.wf s = true) (hbuild : (getCh s c).build = none) :
    getCh (sentState s c ty gap rInc session seq body) c = getCh s c := by
  rw [sentState, getCh_crtHandOver (wf_numbered hwf), getCh_congr (congrArg CrtUnit.chans (crt_numbered _)), ← hbuild]

theorem tck_sentState : (sentState s c ty gap rInc session seq body).tck = s.tck := by
  rw [sentState, tck_crtHandOver, tck_numbered]

theorem wf_sentState (hwf : Memory.wf s = true) : Memory.wf (sentState s c ty gap rInc session seq body) = true :=
  (crtHandOver_keeps (kk := wholeKind) _ _ _ _ (Keeps.refl _)).wf (wf_numbered hwf)

/-- A message handed over at once has been sent (R591, R594, R597). -/
theorem crtSent_sentState (hwf : Memory.wf s = true) (hmay : CrtMaySend s c ty body.length) :
    CrtSent s (sentState s c ty gap rInc session seq body) c ty gap rInc session seq body := by
  obtain ⟨-, -, -, -, -, -, -, -, hmore, hpn⟩ := hmay
  obtain ⟨-, hnext⟩ := takePn_takes (Memory.wf_regs hwf) true hmore hpn
  have haside := numbered_sameAside (s := s) (c := c) (ty := ty) (unitBlocks 32 body.length)
  have hwf' := wf_numbered (c := c) (ty := ty) (n := unitBlocks 32 body.length) hwf
  have hpipe := pipe_numbered (s := s) (c := c) (ty := ty) (unitBlocks 32 body.length)
  have hk := chPeer_lt s c
  generalize hu : numbered s c ty (unitBlocks 32 body.length) = u at haside hwf' hpipe
  have hq1 := q1_handedCounted (s := u) (c := c) (ty := ty) (l := crtFrame s c (sealedMsg s c ty gap rInc session seq body))
  have hframe := getFrame_handedCounted (c := c) (ty := ty) (l := crtFrame s c (sealedMsg s c ty gap rInc session seq body)) hwf'
  have hcount := rd_handedCounted (c := c) (ty := ty) (l := crtFrame s c (sealedMsg s c ty gap rInc session seq body)) hwf'
  have hused := saPn_handedCounted (s := u) (c := c) (ty := ty) (l := crtFrame s c (sealedMsg s c ty gap rInc session seq body))
  rw [hpipe, haside.chPeer, haside.peerPort hk, haside.peerClass hk] at hq1
  rw [hpipe] at hframe
  rw [haside _ (aside_crt (by decide))] at hcount
  rw [haside.chPage, haside.chOut, ← hu, saPn_numbered, hnext] at hused
  rw [hu] at hused
  have hdata : (getFrame (handedCounted u c ty (crtFrame s c (sealedMsg s c ty gap rInc session seq body))) s.pipe.nextFrame).map (·.data)
      = some (crtFrame s c (sealedMsg s c ty gap rInc session seq body)) := by
    rw [hframe, Option.map_some, carrier_data]
  rw [sentState, hu, crtHandOver_eq]
  exact CrtSent.modCh (CrtSent.of_sealed hq1 hdata hused hcount) _

end

/-- A message has been sent and the channels are as they were. -/
structure SentAs (s u : State) (c ty gap rInc session seq : Nat) (body : List Byte) : Prop where
  sent : CrtSent s u c ty gap rInc session seq body
  chan : getCh u c = getCh s c
  chans : twf (fun _ => CrtChan.closed) u.crt.chans = true
  tck : u.tck = s.tck

section
variable {s u : State} {c ty gap rInc session seq : Nat} {body : List Byte}

theorem sentState_sentAs (hwf : Memory.wf s = true) (hbuild : (getCh s c).build = none) (hmay : CrtMaySend s c ty body.length) :
    SentAs s (sentState s c ty gap rInc session seq body) c ty gap rInc session seq body :=
  ⟨crtSent_sentState hwf hmay, getCh_sentState hwf hbuild, (Memory.wf_iff.1 (wf_sentState hwf)).crtChans, tck_sentState⟩

theorem SentAs.bump (h : SentAs s u c ty gap rInc session seq body) {o : Nat} (ho : o < 0x1000) (hne : o ≠ Reg.CRT_TX_MSG) :
    SentAs s (bump u (pgCrt + o)) c ty gap rInc session seq body :=
  ⟨h.sent.bump ho hne, h.chan, h.chans, h.tck⟩

theorem SentAs.ite {p : Prop} [Decidable p] {v : State} (hu : SentAs s u c ty gap rInc session seq body)
    (hv : SentAs s v c ty gap rInc session seq body) : SentAs s (if p then u else v) c ty gap rInc session seq body := by
  split
  · exact hu
  · exact hv

/-- The channel after its record has changed too. -/
theorem SentAs.modCh (h : SentAs s u c ty gap rInc session seq body) (f : CrtChan → CrtChan) :
    CrtSent s (modCh u c f) c ty gap rInc session seq body ∧ getCh (modCh u c f) c = f (getCh s c) :=
  ⟨h.sent.modCh f, by rw [getCh_modCh h.chans, h.chan]⟩

theorem crtBegin_sent (hwf : Memory.wf s = true) (hmay : CrtMaySend s c ty body.length) :
    crtBegin s c ty gap rInc session seq body
      = (sentState s c ty gap rInc session seq body, .pn (saPn s (chPage s c) (chOut s c))) :=
  crtBegin_started hwf hmay

end

/-! ### HELLO_SEND (R608, R610) -/

/-- The channel's record once its HELLO has started. -/
def helloTimed (u : State) (c : Nat) (y : CrtChan) : CrtChan :=
  { y with
    helloDue := false, timer := some u.tck.boundaries, interval := if y.timer.isNone then chRto u c else y.interval }

theorem getCh_modCh_modCh {s : State} {c : Nat} (f g : CrtChan → CrtChan) (h : twf (fun _ => CrtChan.closed) s.crt.chans = true) :
    getCh (modCh (modCh s c f) c g) c = g (f (getCh s c)) := by
  rw [getCh_modCh (chans_modCh h f), getCh_modCh h]

section
variable {s : State} {c : Fin 256} (hwf : Memory.wf s = true) (hopen : (getCh s c.val).isOpen = true)
  (hbuild : (getCh s c.val).build = none)
include hwf hopen hbuild

theorem helloSend_sends (hopening : (getCh s c.val).opening = true) (hdue : (getCh s c.val).helloDue = true)
    (hfrom : (getCh s c.val).dueFrom ≤ s.tck.boundaries) (hmay : CrtMaySend s c.val 1 0) : ∃ t, exec (.helloSend c) s = .next t
      ∧ CrtSent s t c.val 1 0 (peerIncarn s (chPeer s c.val)) ((getCh s c.val).session.getD 0) 0 []
      ∧ (getCh t c.val).helloDue = false ∧ (getCh t c.val).helloPn = some (saPn s (chPage s c.val) (chOut s c.val))
      ∧ (getCh t c.val).timer = some s.tck.boundaries := by
  have hbegin := crtBegin_sent (gap := 0) (rInc := peerIncarn s (chPeer s c.val)) (session := (getCh s c.val).session.getD 0)
    (seq := 0) (body := []) hwf hmay
  have hsent := sentState_sentAs (gap := 0) (rInc := peerIncarn s (chPeer s c.val)) (session := (getCh s c.val).session.getD 0)
    (seq := 0) (body := []) hwf hbuild hmay
  have hretx := SentAs.ite (p := (getCh s c.val).expiries = 0) hsent
    (hsent.bump (o := Reg.CRT_RETX) (by decide) (by decide))
  generalize hu : (if (getCh s c.val).expiries = 0 then _ else _) = u at hretx
  have hexec : exec (.helloSend c) s = .next (modCh (modCh u c.val (helloTimed u c.val)) c.val
      (fun y => { y with helloPn := some (saPn s (chPage s c.val) (chOut s c.val)) })) := by
    show execHelloSend c s = _
    simp only [execHelloSend, hbuild, hopen, hopening, hdue, Nat.not_lt.2 hfrom, Bool.not_true, Bool.or_false, decide_false,
      Bool.false_eq_true, if_false, hbegin, hu]
    rfl
  refine ⟨_, hexec, (hretx.sent.modCh _).modCh _, ?_⟩
  rw [getCh_modCh_modCh _ _ hretx.chans]
  exact ⟨rfl, rfl, by rw [helloTimed, hretx.tck]⟩

/-! ### CHUNK_SEND and COMMIT_SEND (R600, R601, R608) -/

/-- A message no longer due. -/
def CrtMsg.notDue (m n : CrtMsg) : CrtMsg := if n.seq = m.seq then { n with due := false, sent := true } else n

omit hopen in
theorem sendMsg_sends {m : CrtMsg} (hmay : CrtMaySend s c.val (if m.chunk.isSome then 3 else 4) (msgBody m).length) :
    CrtSent s (sendMsg s c.val m) c.val (if m.chunk.isSome then 3 else 4) 0 (getCh s c.val).peerInc ((getCh s c.val).session.getD 0)
        m.seq (msgBody m)
      ∧ getCh (sendMsg s c.val m) c.val = { getCh s c.val with msgs := (getCh s c.val).msgs.map m.notDue } := by
  have hbegin := crtBegin_sent (gap := 0) (rInc := (getCh s c.val).peerInc) (session := (getCh s c.val).session.getD 0)
    (seq := m.seq) hwf hmay
  have hsent := sentState_sentAs (gap := 0) (rInc := (getCh s c.val).peerInc) (session := (getCh s c.val).session.getD 0)
    (seq := m.seq) hwf hbuild hmay
  have hretx := hsent.bump (o := Reg.CRT_RETX) (by decide) (by decide)
  have hpoison := hsent.bump (o := Reg.CRT_POISON_CHUNK) (by decide) (by decide)
  have hdone := fun (p q : Prop) [Decidable p] [Decidable q] => (SentAs.ite (p := p) hretx (SentAs.ite (p := q) hpoison hsent)).modCh
    (fun y => { y with msgs := y.msgs.map m.notDue })
  simp only [sendMsg, hbegin]
  exact hdone _ _

omit hwf hopen hbuild in
theorem firstDue_due {s : State} {x : CrtChan} {m : CrtMsg} (h : firstDue s x = some m) :
    x.dueFrom ≤ s.tck.boundaries ∧ x.msgs.any (·.due) = true := by
  unfold firstDue at h
  split at h
  · exact absurd h nofun
  · exact ⟨by omega, List.any_eq_true.2 ⟨m, List.mem_of_find?_eq_some h, List.find?_some h⟩⟩

variable {m : CrtMsg} (hopening : (getCh s c.val).opening = false) (hdue : firstDue s (getCh s c.val) = some m)
include hopening hdue

theorem chunkSend_sends (hchunk : m.chunk ≠ none) (hmay : CrtMaySend s c.val 3 (msgBody m).length) :
    ∃ t, exec (.chunkSend c) s = .next t
      ∧ CrtSent s t c.val 3 0 (getCh s c.val).peerInc ((getCh s c.val).session.getD 0) m.seq (msgBody m)
      ∧ (getCh t c.val).msgs = (getCh s c.val).msgs.map m.notDue := by
  have hsome : m.chunk.isSome = true := Option.isSome_iff_ne_none.2 hchunk
  have hty : (if m.chunk.isSome then 3 else 4) = 3 := if_pos hsome
  obtain ⟨hfrom, hany⟩ := firstDue_due hdue
  have hgk := hmay.1
  obtain ⟨hsent, hchan⟩ := sendMsg_sends (m := m) hwf hbuild (by rwa [hty])
  rw [hty] at hsent
  have hexec : exec (.chunkSend c) s = .next (sendMsg s c.val m) := by
    show execChunkSend c s = _
    simp only [execChunkSend, hbuild, hopen, hopening, hgk, Nat.not_lt.2 hfrom, Bool.not_true, Bool.or_false, decide_false,
      Bool.false_eq_true, if_false, hany, if_true, hdue, hsome]
  exact ⟨_, hexec, hsent, by rw [hchan]⟩

theorem commitSend_sends (hchunk : m.chunk = none) (hmay : CrtMaySend s c.val 4 8) :
    ∃ t, exec (.commitSend c) s = .next t
      ∧ CrtSent s t c.val 4 0 (getCh s c.val).peerInc ((getCh s c.val).session.getD 0) m.seq (beBytes 4 m.number ++ [0, 0, 0, 0])
      ∧ (getCh t c.val).msgs = (getCh s c.val).msgs.map m.notDue := by
  have hbody : msgBody m = beBytes 4 m.number ++ [0, 0, 0, 0] := by rw [msgBody, hchunk]
  have hlen : (msgBody m).length = 8 := by rw [hbody, List.length_append, length_beBytes]; rfl
  have hty : (if m.chunk.isSome then 3 else 4) = 4 := by rw [hchunk]; rfl
  obtain ⟨hsent, hchan⟩ := sendMsg_sends (m := m) hwf hbuild (by rwa [hty, hlen])
  rw [hty, hbody] at hsent
  have hexec : exec (.commitSend c) s = .next (sendMsg s c.val m) := by
    show execCommitSend c s = _
    simp only [execCommitSend, hbuild, hopen, hopening, Bool.not_true, Bool.or_false, Bool.false_eq_true, if_false, hdue, hchunk,
      Option.isNone_none, if_true]
  exact ⟨_, hexec, hsent, by rw [hchan]⟩

end

/-! ### ACK_SEND (R590, R606, R610, R611) -/

section
variable {s : State} {c : Fin 256} (hwf : Memory.wf s = true) (hopen : (getCh s c.val).isOpen = true)
  (hbuild : (getCh s c.val).build = none)
include hwf hopen hbuild

theorem ackSend_helloAck {pn at_ : Nat} {rest : List (CrtReply × Nat)} (hreplies : (getCh s c.val).replies = (.helloAck pn, at_) :: rest)
    (hat : at_ ≤ s.tck.boundaries) (hmay : CrtMaySend s c.val 2 8) : ∃ t, exec (.ackSend c) s = .next t
      ∧ (getCh t c.val).replies = rest
      ∧ CrtSent s t c.val 2 0 (getCh s c.val).sInc ((getCh s c.val).tSession.getD 0) (getCh s c.val).rcvNext (beBytes 8 pn) := by
  have hmay' : CrtMaySend s c.val 2 (beBytes 8 pn).length := by rwa [length_beBytes]
  have hbegin := crtBegin_sent (gap := 0) (rInc := (getCh s c.val).sInc) (session := (getCh s c.val).tSession.getD 0)
    (seq := (getCh s c.val).rcvNext) hwf hmay'
  obtain ⟨hsent, hchan⟩ := (sentState_sentAs (gap := 0) (rInc := (getCh s c.val).sInc)
    (session := (getCh s c.val).tSession.getD 0) (seq := (getCh s c.val).rcvNext) hwf hbuild hmay').modCh
      (fun y => { y with replies := rest, ackFrom := if false then none else y.ackFrom })
  refine ⟨_, ?_, ?_, hsent⟩
  · show execAckSend c s = _
    simp only [execAckSend, hbuild, hopen, hreplies, Nat.not_lt.2 hat, Bool.not_true, Bool.false_eq_true, if_false, hbegin]
  · rw [hchan]

theorem ackSend_refuse {n st w at_ : Nat} {rest : List (CrtReply × Nat)}
    (hreplies : (getCh s c.val).replies = (.refuse n st w, at_) :: rest)
    (hat : at_ ≤ s.tck.boundaries) (hmay : CrtMaySend s c.val 6 16) : ∃ t, exec (.ackSend c) s = .next t
      ∧ (getCh t c.val).replies = rest ∧ (getCh t c.val).ackFrom = none
      ∧ CrtSent s t c.val 6 0 (getCh s c.val).sInc ((getCh s c.val).tSession.getD 0) (getCh s c.val).rcvNext
        (beBytes 4 n ++ leBytes 1 st ++ leBytes 1 w ++ beBytes 2 (getWin s w).gen ++ winBody (getWin s w)) := by
  have hlen : (beBytes 4 n ++ leBytes 1 st ++ leBytes 1 w ++ beBytes 2 (getWin s w).gen ++ winBody (getWin s w)).length = 16 := by
    simp only [List.length_append, length_beBytes, winBody]
    rfl
  have hmay' : CrtMaySend s c.val 6
      (beBytes 4 n ++ leBytes 1 st ++ leBytes 1 w ++ beBytes 2 (getWin s w).gen ++ winBody (getWin s w)).length := by rwa [hlen]
  have hbegin := crtBegin_sent (gap := 0) (rInc := (getCh s c.val).sInc) (session := (getCh s c.val).tSession.getD 0)
    (seq := (getCh s c.val).rcvNext) hwf hmay'
  obtain ⟨hsent, hchan⟩ := (sentState_sentAs (gap := 0) (rInc := (getCh s c.val).sInc)
    (session := (getCh s c.val).tSession.getD 0) (seq := (getCh s c.val).rcvNext) hwf hbuild hmay').modCh
      (fun y => { y with replies := rest, ackFrom := if true then none else y.ackFrom })
  refine ⟨_, ?_, ?_, ?_, hsent⟩
  · show execAckSend c s = _
    simp only [execAckSend, hbuild, hopen, hreplies, Nat.not_lt.2 hat, Bool.not_true, Bool.false_eq_true, if_false, hbegin]
  · rw [hchan]
  · rw [hchan]
    rfl

theorem ackSend_ack {at_ : Nat} (hreplies : (getCh s c.val).replies = []) (hfrom : (getCh s c.val).ackFrom = some at_)
    (hat : at_ ≤ s.tck.boundaries) (hlast : (getCh s c.val).ackAt ≠ some s.tck.boundaries) (hmay : CrtMaySend s c.val 5 0) :
    ∃ t, exec (.ackSend c) s = .next t ∧ (getCh t c.val).ackFrom = none ∧ (getCh t c.val).gap = false
      ∧ CrtSent s t c.val 5 (getCh s c.val).gap.toNat (getCh s c.val).sInc ((getCh s c.val).tSession.getD 0)
        (getCh s c.val).rcvNext [] := by
  have hbegin := crtBegin_sent (gap := (getCh s c.val).gap.toNat) (rInc := (getCh s c.val).sInc)
    (session := (getCh s c.val).tSession.getD 0) (seq := (getCh s c.val).rcvNext) (body := []) hwf hmay
  obtain ⟨hsent, hchan⟩ := (sentState_sentAs (gap := (getCh s c.val).gap.toNat) (rInc := (getCh s c.val).sInc)
    (session := (getCh s c.val).tSession.getD 0) (seq := (getCh s c.val).rcvNext) (body := []) hwf hbuild hmay).modCh
      (fun y => { y with ackFrom := none, gap := false, ackAt := some s.tck.boundaries })
  refine ⟨_, ?_, ?_, ?_, hsent⟩
  · show execAckSend c s = _
    simp only [execAckSend, hbuild, hopen, hreplies, hfrom, Nat.not_lt.2 hat, hlast, or_self, Bool.not_true, Bool.false_eq_true,
      if_false, hbegin]
  · rw [hchan]
  · rw [hchan]

end

/-! ### RETRANSMIT_TIMER_EXPIRY (R608) -/

/-- A channel's record once its interval has passed. -/
def expired (s : State) (c : Nat) (x : CrtChan) : CrtChan :=
  { x with
    expiries := (getCh s c).expiries + 1, silent := x.silent || decide (chRetries s c ≤ (getCh s c).expiries + 1)
    timer := some s.tck.boundaries, interval := Nat.min (2 * x.interval) (16 * chRto s c), helloDue := x.opening }

section
variable {s : State} {c : Fin 256} {t0 : Nat}

/-- When the interval has passed, what is not acknowledged, or the HELLO, is due again. -/
theorem retransmit_expires (hwf : Memory.wf s = true) (htimer : (getCh s c.val).timer = some t0)
    (hopen : (getCh s c.val).isOpen = true) (hpassed : passed s t0 (getCh s c.val).interval = true) : ∃ t,
    exec (.retransmitTimerExpiry c) s = .next t ∧ getCh t c.val = { getCh s c.val with
      expiries := (getCh s c.val).expiries + 1, dueFrom := s.tck.boundaries, timer := some s.tck.boundaries
      silent := (getCh s c.val).silent || decide (chRetries s c.val ≤ (getCh s c.val).expiries + 1)
      interval := Nat.min (2 * (getCh s c.val).interval) (16 * chRto s c.val), helloDue := (getCh s c.val).opening
      msgs := if (getCh s c.val).opening then (getCh s c.val).msgs else (getCh s c.val).msgs.map (fun m => { m with due := true }) } := by
  generalize hnoted : (if decide (chRetries s c.val ≤ (getCh s c.val).expiries + 1) && !(getCh s c.val).silent
    then setErr s pgCrt 2 else s) = u
  have hcrt : u.crt = s.crt := by
    rw [← hnoted]
    split
    · exact setErr_crt _ _ _
    · rfl
  have hchan : getCh u c.val = getCh s c.val := getCh_congr (congrArg CrtUnit.chans hcrt) _
  have hchans : twf (fun _ => CrtChan.closed) u.crt.chans = true := by
    rw [hcrt]
    exact (Memory.wf_iff.1 hwf).crtChans
  have hexec : exec (.retransmitTimerExpiry c) s = .next (if (getCh s c.val).opening
      then modCh (modCh u c.val (expired s c.val)) c.val (fun x => { x with dueFrom := s.tck.boundaries })
      else crtResend (modCh u c.val (expired s c.val)) c.val s.tck.boundaries) := by
    show execRetransmitTimerExpiry c s = _
    simp only [execRetransmitTimerExpiry, htimer, hopen, hpassed, Bool.not_true, Bool.or_false, Bool.false_eq_true, if_false, hnoted]
    rfl
  refine ⟨_, hexec, ?_⟩
  cases hopening : (getCh s c.val).opening with
  | true =>
    rw [if_pos rfl, getCh_modCh_modCh _ _ hchans, hchan]
    simp only [expired, hopening, if_true]
  | false =>
    rw [if_neg Bool.false_ne_true, crtResend, getCh_modCh_modCh _ _ hchans, hchan]
    simp only [expired, hopening, Bool.false_eq_true, if_false]

end

/-! ### CHUNK_APPLY and COMMIT_APPLY (R605, R606, R618) -/

section
variable {s u : State} {c : Nat}

/-- The head of the apply queue is done with (R606). -/
theorem getCh_crtApplied (h : twf (fun _ => CrtChan.closed) u.crt.chans = true) : getCh (crtApplied u c) c = { getCh u c with
    rcvNext := ((getCh u c).rcvNext + 1) % 2 ^ 32, apply := (getCh u c).apply.drop 1
    ackFrom := some ((getCh u c).ackFrom.getD (u.tck.boundaries + 1)) } := by
  rw [crtApplied, crtAckDue, getCh_modCh_modCh _ _ h]
  rfl

theorem crtApplied_mem (u : State) (c : Nat) : (crtApplied u c).mem = u.mem := rfl
theorem crtApplied_regs (u : State) (c : Nat) : (crtApplied u c).regs = u.regs := rfl

theorem crtNoteApply_crt (u : State) (ty : Nat) : (crtNoteApply u ty).crt = u.crt := by rw [crtNoteApply, signal_crt, bump_crt]
theorem getCh_noted (h : twf (fun _ => CrtChan.closed) u.crt.chans = true) (ty : Nat) :
    getCh (crtNoteApply (crtApplied u c) ty) c = { getCh u c with
      rcvNext := ((getCh u c).rcvNext + 1) % 2 ^ 32, apply := (getCh u c).apply.drop 1
      ackFrom := some ((getCh u c).ackFrom.getD (u.tck.boundaries + 1)) } := by
  rw [getCh_congr (congrArg CrtUnit.chans (crtNoteApply_crt _ _)), getCh_crtApplied h]

theorem crtNoteApply_mem (u : State) (ty : Nat) : (crtNoteApply u ty).mem = u.mem := by rw [crtNoteApply, signal_mem, bump_mem]

theorem crtApplied_range (sl : SliceId) : 0x100000 ≤ pgSlice sl 4 + Reg.CRT_APPLIED := by
  cases sl <;> decide

/-- Noting an application counts on the slice's page alone. -/
theorem rd_crtNoteApply (u : State) (ty : Nat) {o : Nat} (ho : o < 0x1000) :
    rd (crtNoteApply u ty) (pgCrt + o) = rd u (pgCrt + o) := by
  have := crtApplied_range u.worker
  rw [crtNoteApply, rd_congr (signal_regs _ _ _ _), rd_bump_other (by simp only [pgCrt]; omega)]

end

theorem fbit_putBit_true (w : Word) {n : Nat} (hn : n < 32) : fbit (putBit w n true) n = true := by
  have hset : (BitVec.ofNat 32 (1 <<< n)).getLsbD n = true := by
    simp [BitVec.getLsbD_ofNat, hn, Nat.testBit_shiftLeft]
  have hmask : (fmask n n).getLsbD n = true := by
    rw [fmask, Nat.add_sub_cancel_left]
    exact hset
  rw [fbit_eq_testBit, BitVec.testBit_toNat, putBit, putFld, BitVec.getLsbD_or, BitVec.getLsbD_and, BitVec.getLsbD_and, hmask]
  simp only [Bool.toNat_true, hset, Bool.and_true, Bool.or_true]

/-! ### A block of a chunk in DRAM (R605, R618, R634) -/

/-- The bytes of a chunk of one block, with its poison mark. -/
def blockOf (k : CrtChunk) : List (Option Byte × Bool) :=
  (List.range 64).map (fun i => (some (k.data.getD i 0), k.poison.contains (i / 64)))

/-- A DRAM address of a block's first byte is one of its channel. -/
theorem dramWhere_aligned {s : State} {a ch ca : Nat} (h : dramWhere s a = some (ch, ca)) (ha : a % 64 = 0) : ca % 64 = 0 := by
  unfold dramWhere at h
  dsimp only at h
  split at h
  · split at h
    · cases h
      omega
    · exact absurd h nofun
  · split at h
    · cases h
      omega
    · exact absurd h nofun

theorem mergeBytes_whole {l : List Byte} (h : l.length = 64) :
    mergeBytes [] ((List.range 64).map (fun i => some (l.getD i 0))) = l := by
  refine List.ext_getElem (by simp [mergeBytes, h]) (fun i hi hl => ?_)
  rw [h] at hl
  simp [mergeBytes, hl, h]

section
variable {s : State} {k : CrtChunk}

theorem blockOf_bytes (k : CrtChunk) : (blockOf k).map (·.1) = (List.range 64).map (fun i => some (k.data.getD i 0)) := by
  rw [blockOf, List.map_map]
  rfl

theorem blockOf_poison (k : CrtChunk) : (blockOf k).any (fun x => x.1.isSome && x.2) = k.poison.contains 0 := by
  rw [blockOf, List.any_map, Bool.eq_iff_iff, List.any_eq_true]
  constructor
  · rintro ⟨i, hi, hp⟩
    have h0 : i / 64 = 0 := Nat.div_eq_of_lt (List.mem_range.1 hi)
    simpa [h0] using hp
  · intro hp
    exact ⟨0, by decide, by simpa using hp⟩

/-- A whole block written at its first byte is the block's new content. -/
theorem dramWrite_block {a ch ca : Nat} (hwhere : dramWhere s a = some (ch, ca)) (ha : a % 64 = 0) (hlen : k.data.length = 64)
    (hretired : retired s ch (64 * (ca / 64)) = false) (harm : fbit (rd s (pgEcc + Reg.ECC_FLIP_SEL)) 16 = false) :
    dramWrite 1 2 s a (blockOf k) = stored (memBurst s ch 1) ch (ca / 64) (encodeBlock k.data (k.poison.contains 0)) := by
  have hlen64 : (blockOf k).length = 64 := by simp [blockOf]
  have hpiece : firstPiece a (blockOf k).length = 64 := by
    rw [hlen64, firstPiece, ha]
    rfl
  have hall : (blockOf k).all (fun x => x.1.isNone) = false := rfl
  have hwrite : writeBlock s ch (ca / 64) ((blockOf k).map (·.1)) (k.poison.contains 0) 1
      = stored (memBurst s ch 1) ch (ca / 64) (encodeBlock k.data (k.poison.contains 0)) := by
    have hwhole : ((blockOf k).map (·.1)).length = 64 ∧ ((blockOf k).map (·.1)).all (·.isSome) = true := by
      rw [blockOf_bytes]
      exact ⟨by simp, by simp⟩
    rw [writeBlock, hretired, if_neg Bool.false_ne_true, if_pos hwhole, storeRaw_unarmed (by rwa [rd_congr (memBurst_regs 1)]),
      blockOf_bytes, mergeBytes_whole hlen]
  have hnone : (blockOf k).isEmpty = false := rfl
  have htake : (blockOf k).take 64 = blockOf k := List.take_of_length_le (Nat.le_of_eq hlen64)
  have hdrop : (blockOf k).drop 64 = [] := List.drop_eq_nil_of_le (Nat.le_of_eq hlen64)
  simp only [dramWrite, hnone, Bool.false_eq_true, if_false, hpiece, htake, hdrop, hwhere, hall, dramWhere_aligned hwhere ha,
    blockOf_poison, List.replicate_zero, List.nil_append, Nat.sub_self, Nat.sub_zero, List.append_nil, hwrite, List.isEmpty_nil,
    if_true]

end

/-- A COMMIT applied is counted in its channel. -/
def commitCounted (s : State) (c : Nat) : State := modCh s c (fun x => { x with tCommits := (x.tCommits + 1) % 2 ^ 32 })

/-- Its bit of the commit map is set, and the vector fires that the registers of s name (R605). -/
def commitMarked (u s : State) (c : Nat) : State :=
  if fbit (rd u (pgCrt + Reg.CRT_COMMIT_MAP + 4 * (c / 32))) (c % 32) then u
  else if fbit (rd s (pgCrt + Reg.PAGE_CTL)) 0 then
    fireVector (wr u (pgCrt + Reg.CRT_COMMIT_MAP + 4 * (c / 32))
      (putBit (rd u (pgCrt + Reg.CRT_COMMIT_MAP + 4 * (c / 32))) (c % 32) true)) 0 (fld (rd s (pgCrt + Reg.PAGE_CTL)) 26 16)
  else wr u (pgCrt + Reg.CRT_COMMIT_MAP + 4 * (c / 32))
    (putBit (rd u (pgCrt + Reg.CRT_COMMIT_MAP + 4 * (c / 32))) (c % 32) true)

theorem commitMarked_crt (u s : State) (c : Nat) : (commitMarked u s c).crt = u.crt := by
  unfold commitMarked
  split
  · rfl
  split
  · rw [fireVector_crt, wr_crt]
  · rfl

theorem fbit_commitMarked {u : State} (hw : twf regDflt u.regs = true) (s : State) (c : Fin 256) :
    fbit (rd (commitMarked u s c.val) (pgCrt + Reg.CRT_COMMIT_MAP + 4 * (c.val / 32))) (c.val % 32) = true := by
  have hset := fbit_putBit_true (rd u (pgCrt + Reg.CRT_COMMIT_MAP + 4 * (c.val / 32))) (Nat.mod_lt c.val (by decide : 0 < 32))
  have hplain : pgCrt + Reg.CRT_COMMIT_MAP + 4 * (c.val / 32) ∉ vectorCounters := by
    have := c.isLt
    rw [Nat.add_assoc]
    exact (aside_crt (by simp only [Reg.CRT_COMMIT_MAP]; omega)).plain
  unfold commitMarked
  split
  · assumption
  split
  · rw [rd_fireVector _ _ hplain, rd_wr_same _ _ hw, hset]
  · rw [rd_wr_same _ _ hw, hset]

section
variable {s : State} {c : Fin 256} {q : CrtIn} {rest : List CrtIn} (hwf : Memory.wf s = true)
  (happly : (getCh s c.val).apply = q :: rest) (hgk : gkOpen s = true)
include hwf happly hgk

/-- A chunk that its window refuses is answered with a REFUSE. -/
theorem chunkApply_refuses {k : CrtChunk} {st : Nat} (hchunk : q.chunk = some k) (hrefused : chunkRefused s c.val q.win k = some st) :
    ∃ t, exec (.chunkApply c) s = .next t
      ∧ (getCh t c.val).replies = (getCh s c.val).replies ++ [(.refuse q.seq st k.window, s.tck.boundaries + 1)]
      ∧ (getCh t c.val).rcvNext = ((getCh s c.val).rcvNext + 1) % 2 ^ 32 ∧ (getCh t c.val).apply = rest ∧ t.mem = s.mem
      ∧ rd t (pgCrt + Reg.CRT_REFUSE_TX) = rd s (pgCrt + Reg.CRT_REFUSE_TX) + 1 := by
  have hexec : exec (.chunkApply c) s = .next (crtApplied (crtReply (setErr (bump s (pgCrt + Reg.CRT_REFUSE_TX)) pgCrt 5) c.val
      (.refuse q.seq st k.window) (s.tck.boundaries + 1)) c.val) := by
    show execChunkApply c s = _
    simp only [execChunkApply, happly, hchunk, hgk, Bool.not_true, Bool.false_eq_true, if_false, hrefused]
  generalize hnoted : setErr (bump s (pgCrt + Reg.CRT_REFUSE_TX)) pgCrt 5 = u at hexec
  have hcrt : u.crt = s.crt := by rw [← hnoted, setErr_crt, bump_crt]
  have hmem : u.mem = s.mem := by rw [← hnoted, setErr_mem, bump_mem]
  have hcount : rd u (pgCrt + Reg.CRT_REFUSE_TX) = rd s (pgCrt + Reg.CRT_REFUSE_TX) + 1 := by
    rw [← hnoted, rd_setErr_other 5 (aside_crt (by decide)).plain (by decide) (by decide),
      rd_bump_same _ (Memory.wf_regs hwf)]
  have hchans : twf (fun _ => CrtChan.closed) u.crt.chans = true := by
    rw [hcrt]
    exact (Memory.wf_iff.1 hwf).crtChans
  have hchan : getCh (crtReply u c.val (.refuse q.seq st k.window) (s.tck.boundaries + 1)) c.val = { getCh s c.val with
      replies := (getCh s c.val).replies ++ [(.refuse q.seq st k.window, s.tck.boundaries + 1)] } := by
    rw [crtReply, getCh_modCh hchans, getCh_congr (congrArg CrtUnit.chans hcrt)]
  refine ⟨_, hexec, ?_, ?_, ?_, hmem, hcount⟩
  all_goals rw [getCh_crtApplied (u := crtReply u c.val _ _) (chans_modCh hchans _), hchan]
  · rw [happly]
    rfl

/-- A chunk of one block that its window takes is written to DRAM. -/
theorem chunkApply_writes {k : CrtChunk} {ch ca : Nat} (hchunk : q.chunk = some k) (htaken : chunkRefused s c.val q.win k = none)
    (hpos : q.pos = 0) (hlen : k.data.length = 64) (halign : (q.win.base + k.offset) % 64 = 0)
    (hwhere : dramWhere s (q.win.base + k.offset) = some (ch, ca)) (hmay : memMay s ch 1 1 = true)
    (hretired : retired s ch (64 * (ca / 64)) = false) (harm : fbit (rd s (pgEcc + Reg.ECC_FLIP_SEL)) 16 = false) :
    ∃ t, exec (.chunkApply c) s = .next t
      ∧ (getCh t c.val).rcvNext = ((getCh s c.val).rcvNext + 1) % 2 ^ 32 ∧ (getCh t c.val).apply = rest
      ∧ (getCh t c.val).replies = (getCh s c.val).replies
      ∧ ∀ n blk, tget (fun _ => []) (getChan t n).blocks blk = if n = ch ∧ blk = ca / 64 then encodeBlock k.data (k.poison.contains 0)
          else tget (fun _ => []) (getChan s n).blocks blk := by
  have hexec : exec (.chunkApply c) s
      = .next (crtNoteApply (crtApplied (dramWrite 1 2 s (q.win.base + k.offset) (blockOf k)) c.val) 3) := by
    have hpiece : Nat.min (64 - 0) (64 - 0) = 64 := rfl
    show execChunkApply c s = _
    simp only [execChunkApply, happly, hchunk, hgk, Bool.not_true, Bool.false_eq_true, if_false, htaken, hpos, Nat.add_zero,
      Nat.zero_add, hlen, halign, hpiece, hwhere, if_true, hmay, Nat.lt_irrefl]
    rfl
  rw [dramWrite_block hwhere halign hlen hretired harm] at hexec
  have hburst : (memBurst s ch 1).mem = s.mem := memBurst_mem 1
  have hwf' : Memory.wf (memBurst s ch 1) = true := (memBurst_keeps (kk := wholeKind) _ ch 1 (Keeps.refl s)).wf hwf
  have hcrt : (memBurst s ch 1).crt = s.crt := (signal_crt _ _ _ _).trans (useCredits_crt _ _ _ _)
  have hchans : twf (fun _ => CrtChan.closed)
      (stored (memBurst s ch 1) ch (ca / 64) (encodeBlock k.data (k.poison.contains 0))).crt.chans = true :=
    (Memory.wf_iff.1 hwf').crtChans
  have hchan : getCh (stored (memBurst s ch 1) ch (ca / 64) (encodeBlock k.data (k.poison.contains 0))) c.val = getCh s c.val :=
    getCh_congr (congrArg CrtUnit.chans hcrt) _
  refine ⟨_, hexec, ?_, ?_, ?_, fun n blk => ?_⟩
  · rw [getCh_noted hchans, hchan]
  · rw [getCh_noted hchans, hchan, happly]
    rfl
  · rw [getCh_noted hchans, hchan]
  · rw [getChan_congr ((crtNoteApply_mem _ _).trans (crtApplied_mem _ _))]
    by_cases hn : n = ch
    · subst hn
      rw [block_stored hwf', getChan_congr hburst]
      simp only [true_and]
    · rw [chan_stored_other hn, getChan_congr hburst, if_neg (fun h => hn h.1)]

/-- A COMMIT sets its channel's bit of the commit map. -/
theorem commitApply_applies (hchunk : q.chunk = none) : ∃ t, exec (.commitApply c) s = .next t ∧ (getCh t c.val).apply = rest
    ∧ (getCh t c.val).rcvNext = ((getCh s c.val).rcvNext + 1) % 2 ^ 32
    ∧ (getCh t c.val).tCommits = ((getCh s c.val).tCommits + 1) % 2 ^ 32
    ∧ fbit (rd t (pgCrt + Reg.CRT_COMMIT_MAP + 4 * (c.val / 32))) (c.val % 32) = true := by
  have hexec : exec (.commitApply c) s = .next (crtNoteApply (crtApplied (commitMarked (commitCounted s c.val) s c.val) c.val) 4) := by
    show execCommitApply c s = _
    simp only [execCommitApply, happly, hchunk, hgk, Option.isSome_none, Bool.not_true, Bool.or_self, Bool.false_eq_true, if_false]
    rfl
  have hchans := (Memory.wf_iff.1 hwf).crtChans
  have hcounted : getCh (commitCounted s c.val) c.val
      = { getCh s c.val with tCommits := ((getCh s c.val).tCommits + 1) % 2 ^ 32 } := getCh_modCh hchans _
  have hcrt := commitMarked_crt (commitCounted s c.val) s c.val
  have hmarked : getCh (commitMarked (commitCounted s c.val) s c.val) c.val
      = { getCh s c.val with tCommits := ((getCh s c.val).tCommits + 1) % 2 ^ 32 } := by
    rw [getCh_congr (congrArg CrtUnit.chans hcrt), hcounted]
  have hchans' : twf (fun _ => CrtChan.closed) (commitMarked (commitCounted s c.val) s c.val).crt.chans = true := by
    rw [hcrt]
    exact chans_modCh hchans _
  have hregs := Memory.wf_regs hwf
  have hbit := fbit_commitMarked (u := commitCounted s c.val) hregs s c
  have hmap : Reg.CRT_COMMIT_MAP + 4 * (c.val / 32) < 0x1000 := by
    have := c.isLt
    simp only [Reg.CRT_COMMIT_MAP]
    omega
  refine ⟨_, hexec, ?_, ?_, ?_, ?_⟩
  · rw [getCh_noted hchans', hmarked, happly]
    rfl
  · rw [getCh_noted hchans', hmarked]
  · rw [getCh_noted hchans', hmarked]
  · rw [Nat.add_assoc, rd_crtNoteApply _ _ hmap, rd_congr (crtApplied_regs _ _), ← Nat.add_assoc]
    exact hbit

end

/-! ### Starting a message leaves its channel, but for what it is building -/

section
variable {s : State} {c ty gap rInc session seq e : Nat} {body : List Byte}

theorem useBlocks_crt (s : State) (a n : Nat) : (useBlocks s a n).crt = s.crt := by
  unfold useBlocks
  split
  · rfl
  · rw [signal_crt, bumpBy_crt, useCredits_crt]

theorem crtKey_crt (s : State) (e : Nat) : (crtKey s e).1.crt = s.crt := by
  unfold crtKey
  split
  · rfl
  split
  · rfl
  · have hqueue : ∀ (u : State) sl e a, (queueKey u sl e a).crt = u.crt := fun u sl e a => by
      unfold queueKey
      split <;> rfl
    exact (hqueue _ _ _ _).trans ((signal_crt _ _ _ _).trans (bump_crt _ _))

theorem getCh_crtPay (hwf : Memory.wf s = true) (b : CrtBuild) : ∃ x, getCh (crtPay s c b) c = { getCh s c with build := x } := by
  have hpaid : ∀ n, Memory.wf (useBlocks s 2 n) = true := fun n => (useBlocks_keeps (kk := wholeKind) _ _ _ (Keeps.refl s)).wf hwf
  have hchan : ∀ n, getCh (useBlocks s 2 n) c = getCh s c := fun n => getCh_congr (congrArg CrtUnit.chans (useBlocks_crt s 2 n)) c
  unfold crtPay
  dsimp only
  generalize Nat.min b.owed (blocksLeft s 2) = n
  have hwaits : getCh (crtWait (useBlocks s 2 n)) c = getCh s c := hchan n
  split
  · exact ⟨none, by rw [getCh_crtHandOver (hpaid _), hchan]⟩
  · refine ⟨some { b with owed := b.owed - n }, ?_⟩
    rw [getCh_modCh (s := crtWait (useBlocks s 2 n)) (Memory.wf_iff.1 (hpaid n)).crtChans, hwaits]

theorem getCh_crtBegin (hwf : Memory.wf s = true) :
    ∃ x, getCh (crtBegin s c ty gap rInc session seq body).1 c = { getCh s c with build := x } := by
  have hsame : ∀ u : State, u.crt = s.crt → ∃ x, getCh u c = { getCh s c with build := x } := fun u hu =>
    ⟨(getCh s c).build, getCh_congr (congrArg CrtUnit.chans hu) c⟩
  have hout : ∀ (u : State) sa k, (cipOutcome u sa k).crt = u.crt := cipOutcome_frame State.crt bump_crt signal_crt setErr_crt
  have htaken : (takePn s (chPage s c) (chOut s c) true).1.crt = s.crt :=
    takePn_frame State.crt (fun _ _ _ _ => wr_crt _ _ _) fireVector_crt (fun _ _ _ => setErr_crt _ _ _) (chOut_lt s c) true
  have hwf' : Memory.wf (useCredits (takePn s (chPage s c) (chOut s c) true).1 (crtAcct ty) 1 0) = true :=
    (useCredits_keeps (kk := wholeKind) _ _ _ _ (takePn_keeps s _ _ _ (Keeps.refl s))).wf hwf
  unfold crtBegin
  dsimp only
  split
  · exact hsame _ rfl
  split
  · exact hsame _ (hout _ _ _)
  split
  · exact ⟨(getCh s c).build, getCh_congr rfl c⟩
  split
  · exact hsame _ rfl
  split
  · split
    · exact hsame _ ((hout _ _ _).trans (crtKey_crt _ _))
    · exact hsame _ (crtKey_crt _ _)
  · split
    · exact hsame _ ((hout _ _ _).trans htaken)
    · obtain ⟨x, hx⟩ := getCh_crtPay (c := c) hwf' _
      refine ⟨x, hx.trans ?_⟩
      rw [getCh_congr (s := s) ((congrArg CrtUnit.chans (useCredits_crt _ _ _ _)).trans (congrArg CrtUnit.chans htaken))]

/-- A message sent is no longer due. -/
def msgSent (u : State) (c : Nat) (m : CrtMsg) : State := modCh u c (fun y => { y with msgs := y.msgs.map m.notDue })

/-- Sending a numbered message leaves its channel's numbers and messages, but for what is due. -/
theorem sendMsg_messages (hwf : Memory.wf s = true) (m : CrtMsg) : (getCh (sendMsg s c m) c).next = (getCh s c).next
    ∧ ((getCh (sendMsg s c m) c).msgs = (getCh s c).msgs ∨ (getCh (sendMsg s c m) c).msgs = (getCh s c).msgs.map m.notDue) := by
  obtain ⟨x, hchan⟩ := getCh_crtBegin (c := c) (ty := if m.chunk.isSome then 3 else 4) (gap := 0) (rInc := (getCh s c).peerInc)
    (session := (getCh s c).session.getD 0) (seq := m.seq) (body := msgBody m) hwf
  have hchans := (Memory.wf_iff.1 ((crtBegin_keeps (kk := wholeKind) s c (if m.chunk.isSome then 3 else 4) 0 (getCh s c).peerInc
    ((getCh s c).session.getD 0) m.seq (msgBody m) (Keeps.refl s)).wf hwf)).crtChans
  unfold sendMsg
  dsimp only
  generalize crtBegin s c (if m.chunk.isSome then 3 else 4) 0 (getCh s c).peerInc ((getCh s c).session.getD 0) m.seq (msgBody m) = r
    at hchan hchans
  have hcounted : ∀ (p q : Bool) (a b : Nat), (if p then bump r.1 a else if q then bump r.1 b else r.1).crt = r.1.crt := by
    intro p q a b
    cases p <;> cases q <;> rfl
  have hdone : ∀ u : State, u.crt = r.1.crt → (getCh (msgSent u c m) c).next = (getCh s c).next
      ∧ ((getCh (msgSent u c m) c).msgs = (getCh s c).msgs ∨ (getCh (msgSent u c m) c).msgs = (getCh s c).msgs.map m.notDue) := by
    intro u hu
    rw [msgSent, getCh_modCh (by rw [hu]; exact hchans), getCh_congr (congrArg CrtUnit.chans hu), hchan]
    exact ⟨rfl, .inr rfl⟩
  split
  · rw [hchan]
    exact ⟨rfl, .inl rfl⟩
  · exact hdone _ rfl
  · exact hdone _ (hcounted _ _ _ _)

end

/-! ### A chunk whose data is whole (R600, R618) -/

/-- The chunk of the data that item i holds, the next of entry e. -/
def wholeChunk (s : State) (c : Nat) (e : CrtEntry) (i : WorkItem) : CrtChunk :=
  let d := nextChunk s c e
  let bad := poisonList (bufBytes i.buf d)
  ⟨leAt i.bytes 5 1 % 64, (getCopy s (chPeer s c) (leAt i.bytes 5 1 % 64)).1, (leAt i.bytes 16 8 + e.taken) % 2 ^ 64, bad,
    ((bufBytes i.buf d).zip (List.range d)).map (fun b => if bad.contains (b.2 / 64) then (0 : Byte) else b.1.1)⟩

/-- Its message, under the channel's next number. -/
def wholeMsg (s : State) (c : Nat) (e : CrtEntry) (i : WorkItem) : CrtMsg :=
  ⟨(getCh s c).next, some (e.wq, e.idx), some (wholeChunk s c e i), 0, i.cells, if i.dramSource then none else some i.fn,
    true, false, false⟩

theorem length_wholeChunk (s : State) (c : Nat) (e : CrtEntry) (i : WorkItem) :
    (wholeChunk s c e i).data.length = nextChunk s c e := by
  simp only [wholeChunk, bufBytes, List.length_map, List.length_zip, List.length_range, Nat.min_self]

section
variable {s : State} {c : Nat} {e : CrtEntry} {i : WorkItem} (hwf : Memory.wf s = true) (hentries : (getCh s c).entries = [e])
  (hitem : getItem s e.wq e.idx = some i) (hstage : i.stage = .data)
include hwf hentries hitem hstage

/-- An entry whose data has been read stays in its channel. -/
theorem getCh_crtTidy : getCh (crtTidy s c) c = getCh s c := by
  unfold crtTidy
  extract_lets on
  have hon : on e = true := by simp only [on, hitem, hstage]
  rw [getCh_modCh (Memory.wf_iff.1 hwf).crtChans]
  have hkept : (getCh s c).entries.filter on = (getCh s c).entries := by simp [hentries, hon]
  have hmsgs : (getCh s c).msgs.map (fun m => if (getCh s c).entries.any (fun e => m.of e && !on e) then { m with item := none } else m)
      = (getCh s c).msgs := by
    simp [hentries, hon]
  rw [hkept, hmsgs]

end

theorem getCh_putCh {s : State} {c : Nat} (h : twf (fun _ => CrtChan.closed) s.crt.chans = true) (x : CrtChan) :
    getCh (putCh s c x) c = x :=
  tget_tset_same _ _ _ _ h

section
variable {s : State} {c : Nat} {e : CrtEntry} {i : WorkItem} (hwf : Memory.wf s = true)
  (hcurrent : crtCurrent (getCh s c) = some e) (hitem : getItem s e.wq e.idx = some i) (hstage : i.stage = .data)
  (hcommit : e.commit = false) (hreads : readsDone s i = true) (hlen : i.buf.length = nextChunk s c e)
  (hopening : (getCh s c).opening = false) (hsession : (getCh s c).session ≠ none)
  (hwindow : (getCh s c).msgs.length < chWindow s c)
include hwf hcurrent hitem hstage hcommit hreads hlen hopening hsession hwindow

/-- A chunk whose data is whole takes the channel's next sequence number. -/
theorem getCh_numberChunk : (getCh (numberChunk s c) c).next = ((getCh s c).next + 1) % 2 ^ 32
    ∧ (getCh (numberChunk s c) c).msgs = (getCh s c).msgs ++ [wholeMsg s c e i]
    ∧ (getCh (numberChunk s c) c).dueFrom = Nat.min (getCh s c).dueFrom s.tck.boundaries
    ∧ (numberChunk s c).tck = s.tck := by
  have hgo : ¬(e.commit || i.stage != .data || !readsDone s i || i.buf.length != nextChunk s c e || (getCh s c).opening
      || (getCh s c).session.isNone || decide (chWindow s c ≤ (getCh s c).msgs.length)) = true := by
    simp [hcommit, hstage, hreads, hlen, hopening, hsession, hwindow]
  simp only [numberChunk, hcurrent, hitem, if_neg hgo]
  rw [getCh_putCh (s := modItem s e.wq e.idx _) (Memory.wf_iff.1 hwf).crtChans]
  exact ⟨rfl, rfl, rfl, rfl⟩

end

/-- A list in which nothing is due, and then a message that is. -/
theorem find_due_append {l : List CrtMsg} {m : CrtMsg} (hl : l.any (·.due) = false) (hm : m.due = true) :
    (l ++ [m]).find? (·.due) = some m := by
  have hnone : l.find? (·.due) = none := List.find?_eq_none.2 (fun x hx hd => by
    rw [List.any_eq_false] at hl
    exact hl x hx hd)
  rw [List.find?_append, hnone, List.find?_cons_of_pos hm]
  rfl

theorem CrtMsg.notDue_seq (m n : CrtMsg) : (m.notDue n).seq = n.seq := by
  unfold CrtMsg.notDue
  split <;> rfl

theorem CrtMsg.notDue_chunk (m n : CrtMsg) : (m.notDue n).chunk = n.chunk := by
  unfold CrtMsg.notDue
  split <;> rfl

/-- With none due, a chunk whose data is whole is numbered and sent. -/
theorem chunkSend_numbers {s : State} {c : Fin 256} {e : CrtEntry} {i : WorkItem} (hwf : Memory.wf s = true)
    (hopen : (getCh s c.val).isOpen = true) (hbuild : (getCh s c.val).build = none) (hopening : (getCh s c.val).opening = false)
    (hgk : gkOpen s = true) (hfrom : (getCh s c.val).dueFrom ≤ s.tck.boundaries) (hnone : (getCh s c.val).msgs.any (·.due) = false)
    (hentries : (getCh s c.val).entries = [e]) (htaken : e.allTaken = false) (hcommit : e.commit = false)
    (hitem : getItem s e.wq e.idx = some i) (hstage : i.stage = .data) (hreads : readsDone s i = true)
    (hlen : i.buf.length = nextChunk s c.val e) (hsession : (getCh s c.val).session ≠ none)
    (hwindow : (getCh s c.val).msgs.length < chWindow s c.val) : ∃ t m k, exec (.chunkSend c) s = .next t
      ∧ (getCh t c.val).next = ((getCh s c.val).next + 1) % 2 ^ 32 ∧ m ∈ (getCh t c.val).msgs ∧ m.seq = (getCh s c.val).next
      ∧ m.chunk = some k ∧ k.offset = (leAt i.bytes 16 8 + e.taken) % 2 ^ 64 ∧ k.data.length = nextChunk s c.val e
      ∧ k.window = leAt i.bytes 5 1 % 64 := by
  have htidy := getCh_crtTidy hwf hentries hitem hstage
  have hwf' : Memory.wf (crtTidy s c.val) = true := (crtTidy_keeps (kk := wholeKind) s c.val (Keeps.refl s)).wf hwf
  have hcurrent : crtCurrent (getCh s c.val) = some e := by simp [crtCurrent, hentries, htaken]
  have hwf'' : Memory.wf (numberChunk (crtTidy s c.val) c.val) = true :=
    (numberChunk_keeps (kk := wholeKind) _ c.val (Keeps.refl _)).wf hwf'
  have hmsg : wholeMsg (crtTidy s c.val) c.val e i = wholeMsg s c.val e i := by
    rw [wholeMsg, htidy]
    rfl
  obtain ⟨hnext, hmsgs, hdue, htck⟩ := getCh_numberChunk hwf' (by rwa [htidy]) hitem hstage hcommit hreads hlen (by rwa [htidy])
    (by rwa [htidy]) (by rwa [htidy])
  rw [htidy] at hnext hmsgs hdue
  rw [hmsg] at hmsgs
  have hfirst : firstDue (numberChunk (crtTidy s c.val) c.val) (getCh (numberChunk (crtTidy s c.val) c.val) c.val)
      = some (wholeMsg s c.val e i) := by
    rw [firstDue, htck, hdue, if_neg (Nat.not_lt.2 (Nat.min_le_right _ _)), hmsgs]
    exact find_due_append hnone rfl
  have hexec : exec (.chunkSend c) s = .next (sendMsg (numberChunk (crtTidy s c.val) c.val) c.val (wholeMsg s c.val e i)) := by
    have hsome : (wholeMsg s c.val e i).chunk.isSome = true := rfl
    show execChunkSend c s = _
    simp only [execChunkSend, hbuild, hopen, hopening, hgk, Nat.not_lt.2 hfrom, Bool.not_true, Bool.or_false, decide_false,
      Bool.false_eq_true, if_false, hnone, hfirst, hsome, if_true]
  obtain ⟨hsentNext, hsentMsgs⟩ := sendMsg_messages (c := c.val) hwf'' (wholeMsg s c.val e i)
  have hmem : wholeMsg s c.val e i ∈ (getCh (numberChunk (crtTidy s c.val) c.val) c.val).msgs := by
    rw [hmsgs]
    exact List.mem_append_right _ List.mem_cons_self
  have hlast : ∃ m ∈ (getCh (sendMsg (numberChunk (crtTidy s c.val) c.val) c.val (wholeMsg s c.val e i)) c.val).msgs,
      m.seq = (getCh s c.val).next ∧ m.chunk = some (wholeChunk s c.val e i) := by
    rcases hsentMsgs with h | h
    · exact ⟨_, by rwa [h], rfl, rfl⟩
    · exact ⟨_, by rw [h]; exact List.mem_map_of_mem hmem, CrtMsg.notDue_seq _ _, CrtMsg.notDue_chunk _ _⟩
  obtain ⟨m, hm, hseq, hchunk⟩ := hlast
  exact ⟨_, m, _, hexec, hsentNext.trans hnext, hm, hseq, hchunk, rfl, length_wholeChunk s c.val e i, rfl⟩

/-- Settles O55: a message built at once is sealed, framed and counted as stated (`crtSent_sentState`, over `takePn_takes` and the
registers aside), each row's next state leaves the channel but for what it changes (`getCh_crtBegin`, `getCh_numberChunk`,
`getCh_crtApplied`), and a block taken is stored in DRAM (`dramWrite_block`). -/
theorem carlisSends : Obligations.CarlisSends := by
  unfold Obligations.CarlisSends
  intro s c hwf
  refine ⟨fun hopen hbuild => ⟨?_, ?_, ?_, ?_, ?_, ?_⟩, ?_, fun q rest happly hgk => ⟨?_, ?_, ?_⟩⟩
  · exact helloSend_sends hwf hopen hbuild
  · exact fun m hopening hdue =>
      ⟨chunkSend_sends hwf hopen hbuild hopening hdue, commitSend_sends hwf hopen hbuild hopening hdue⟩
  · exact fun e i hopening hgk hfrom hnone hentries htaken hcommit hitem hstage hreads hlen hsession hwindow =>
      chunkSend_numbers hwf hopen hbuild hopening hgk hfrom hnone hentries htaken hcommit hitem hstage hreads hlen hsession hwindow
  · exact fun _ _ _ => ackSend_helloAck hwf hopen hbuild
  · exact fun _ _ _ _ _ => ackSend_refuse hwf hopen hbuild
  · exact fun _ => ackSend_ack hwf hopen hbuild
  · exact fun _ => retransmit_expires hwf
  · exact fun _ _ => chunkApply_refuses hwf happly hgk
  · exact fun _ _ _ => chunkApply_writes hwf happly hgk
  · exact commitApply_applies hwf happly hgk

end Sys2Proof.Machine
